-- ==== Sys2Proof/Word.lean ====
section
/-! DEFINITION. Word types of the OR-8G48 model and the type of a sparse store. -/

namespace Sys2Proof

/-- A control register or a 32-bit word (R9). -/
abbrev Word := BitVec 32

/-- A byte of memory, of the boot store or of a console line. -/
abbrev Byte := BitVec 8

/-- A 48-bit sequence number (R214), held as a number so that comparisons are the manual's. -/
abbrev Seq := Nat

/-- A sparse map from addresses or indexes to values: a list of pairs with strictly rising keys in which
no entry equals what an unlisted key reads as.  The operations and the canonical form stand in
Machine/Store.lean. -/
abbrev Store (α : Type) := List (Nat × α)

/-- The data of one logical sector of 4096 B (R211) as eight pieces of 512 B, each the little-endian number
of its bytes (R8): the 512 B format of R302 reads and writes single pieces. -/
structure Sector where
  lba : Vector Nat 8
  deriving DecidableEq, Repr

/-- The sector of 4096 zero bytes (R67, R215). -/
def Sector.zero : Sector := ⟨Vector.replicate 8 0⟩

end Sys2Proof
end

