-- ==== Sys2Proof/Syntax.lean ====
section
/-! DEFINITION. The commands of the OR-8G48 (one constructor of `Instr` for each row of the spec's table of
operations and events) and the types of their operands.  The table gives its rows no operands: an operand here
is what the spec's rules say the command carries (an address, a value, a queue, a line), or, for an event in
which a die, a partner or the outside world answers, that answer (log entry 6). -/

namespace Sys2Proof

/-- The five supply rails (R54, R554). -/
inductive Rail where
  | vcc33 | vdd18 | vddc | vphy | vddqg
  deriving DecidableEq, Repr

/-- The five clock domains in the order of their release (R32, R548). -/
inductive Clk where
  | aclk | cclk | xclk | gclk | hclk
  deriving DecidableEq, Repr

/-- The three access classes of the checked initiators (R19). -/
inductive Cls where
  | privileged | user | debug
  deriving DecidableEq, Repr

/-- The access widths of R419 and R488. -/
inductive Width where
  | w1 | w2 | w4 | w8
  deriving DecidableEq, Repr

/-- The block lengths of BLKRD and BLKWR, in words (R488). -/
inductive BlkLen where
  | n8 | n16 | n32 | n64
  deriving DecidableEq, Repr

/-- The register fields that mirror a setting (R604). -/
inductive Mirror where
  | softEn | stripeWidth | gcLow | searchEn | idleMs | throttleC | capMw | isnsGain | budgetMj
  | hopLimit | scratchOnly | intervalH | wakeRefresh
  | galEnable (g : Fin 8)
  deriving DecidableEq, Repr

/-- The queue and identifier of an NVMe command. -/
structure Hdr where
  sqid : Fin 129
  cid : BitVec 16
  deriving DecidableEq, Repr

/-- An SGL descriptor as a command carries it, its segments followed (R66). -/
inductive SglDesc where
  | dataBlock (addr len : Nat)
  | bitBucket (len : Nat)
  | segment | lastSegment | keyed | transport | byteMetadata | other
  deriving DecidableEq, Repr

/-- The data pointer of a command (R66). -/
inductive DPtr where
  | prp (prp1 prp2 : Nat)
  | sgl (l : List SglDesc)
  deriving DecidableEq, Repr

/-- What Front reads first of a submission queue entry: the identifier, the opcode, the data pointer and CDW10 (R64 to R66). -/
structure Sqe where
  cid : BitVec 16
  opcode : Byte
  ptr : DPtr := .prp 0 0
  cdw10 : Word := 0
  deriving DecidableEq, Repr

/-- The registers of the PCIe configuration space that the host writes (R55). -/
inductive CfgReg where
  /-- bit 10 of Command disables INTx -/
  | command
  | bar0 | bar1
  /-- Device Control: the payload size in bits [7:5], the read request size in bits [14:12] -/
  | devCtl
  /-- MSI-X Message Control: the function mask in bit 14, the enable in bit 15 -/
  | msixCtl
  /-- PMCSR: the power state in bits [1:0] -/
  | pmcsr
  /-- AER uncorrectable and correctable status, cleared by writing ones -/
  | aerUncorr | aerCorr
  deriving DecidableEq, Repr

/-- An access of the host, or an error on the link, that has no row of its own: it comes with the next CC_EN_SET (log entry 60). -/
inductive HostAccess where
  | cfg (r : CfgReg) (v : Word)
  | bar (off width v : Nat)
  | barRead (off width : Nat)
  | linkError (uncorr : Bool) (bit : Fin 32) (header : List Word)
  deriving DecidableEq, Repr

/-- The three console paths (R91). -/
inductive Path where
  | uart | tunnel | tether
  deriving DecidableEq, Repr

/-- Where a console line came from: its path, its machine-mode tag without the `@` (none in typed mode, R98),
the device whose path it entered by and the tag of its CONSOLE frame (R404). -/
structure LineCtx where
  path : Path
  tag : Option String
  entry : Fin 4
  rtag : BitVec 16
  deriving DecidableEq, Repr

/-- The twelve setting groups (R108). -/
inductive Group where
  | host | gal | cdc | map | assay | gov | teth | con | patrol | mpu | dma | alarm
  deriving DecidableEq, Repr

/-- The settings of R140. -/
inductive Setting where
  | hostWcache | hostReadahead | hostApst | hostApstPs3 | hostApstPs4
  | galRate (g : Fin 8) | galEnable (g : Fin 8)
  | cdcSoft | cdcStripeWidth
  | mapRdDisturb | mapErrRefreshPct | mapGcLow
  | assaySearch | assayIdle
  | govThrottleC | govCapMw | govIsnsGain | govStandbyMj
  | tethStripe
  | conEcho | conBaud
  | patrolInterval | patrolWakeRefresh | patrolFlipLimit
  | mpuScratchOnly
  | dmaHopLimit | dmaConsoleCh | dmaConsolePri
  | alarmNotify
  deriving DecidableEq, Repr

/-- A setting's value: a whole number in the setting's unit, a boolean, or the word `profile`. -/
inductive SetVal where
  | num (n : Nat)
  | flag (b : Bool)
  | profile
  deriving DecidableEq, Repr

/-- The objects of `show` (R121). -/
inductive ShowObj where
  | status | health
  | gallery (g : Fin 8)
  | chamber (c : Fin 128)
  | power | chain
  | settings (grp : Option Group)
  | profile | namespaces | version
  deriving DecidableEq, Repr

/-- The objects of `get` (R122). -/
inductive GetWhat where
  | names (l : List Setting)
  | strap | state | cause | trouble | lifetime
  deriving DecidableEq, Repr

/-- The verbs (R118). -/
inductive Verb where
  | show | get | set | clear | save | load | run | stop | reset | sleep | lock | unlock
  | rd | wr | move | fill | assay | log | update | help
  deriving DecidableEq, Repr

/-- The topics of `help` (R124). -/
inductive HelpTopic where
  | none
  | verb (v : Verb)
  | setting (s : Setting)
  deriving DecidableEq, Repr

/-- The values of `unit=` of `reset` (R135). -/
inductive UnitName where
  | gal (g : Fin 8) | hard (h : Fin 8) | soft (n : Fin 2) | dma (n : Fin 8) | tu | td
  | map | keeper
  deriving DecidableEq, Repr

/-- The two firmware twins (R512). -/
inductive Twin where
  | a | b
  deriving DecidableEq, Repr

/-- The two tether ports (R388). -/
inductive Port where
  | tu | td
  deriving DecidableEq, Repr

/-- A physical codeword location: chamber index (R14), block, page, codeword (R13). -/
structure Loc where
  chamber : Fin 128
  block : Nat
  page : Nat
  cw : Fin 4
  deriving DecidableEq, Repr

/-- The flows that open stripe groups (R364, record type 1). -/
inductive Flow where
  | sump | fold | relocation | map
  deriving DecidableEq, Repr

/-- What a codeword read and its decode found: the raw bit errors, whether the decoder of a soft stage
converged, whether the CRCs matched, whether the header names what the read expects (R222, R223). -/
structure DecodeResult where
  raw : Nat
  converged : Bool
  crcOk : Bool
  nameOk : Bool
  /-- Front's check of a host read's data as it leaves the Keeper (R230) -/
  outOk : Bool := true
  /-- an XTS lane whose output failed its self-check meanwhile (R228) -/
  xtsFault : Option (Fin 4) := none
  deriving DecidableEq, Repr

/-- One source of a rebuild: the retry row at which its codeword passed, the last soft stage it took, its raw bit errors (R222, R237). -/
structure SourceRead where
  step : Nat := 0
  soft : Nat := 0
  raw : Nat := 0
  deriving DecidableEq, Repr

/-- The sources of a rebuild: the one that failed, if one did, and what each read took; one that is not given passed at STEP 0 without an error. -/
structure SourceRun where
  fail : Option Loc := none
  reads : List SourceRead := []
  deriving DecidableEq, Repr

/-- What an encoding meets: a non-zero syndrome, and an XTS lane whose output failed its self-check (R221, R228). -/
structure EncodeRun where
  syndrome : Bool := false
  xtsFault : Option (Fin 4) := none
  deriving DecidableEq, Repr

/-- A refresh wake: its measured energy in mJ, that of each block's refresh in turn, and the sectors of which no read of R222 brought a codeword
(R222, R270). -/
structure RefreshRun where
  energyMj : Nat
  blocksMj : List Nat := []
  lost : List Nat := []
  deriving DecidableEq, Repr

/-- What the targets of a gallery answer while it trains (R145, R146, R148): the targets busy after step 2's wait, and those still busy
after its retry; for each target the bytes of Read ID and its parameter page; the highest rate at which it passes its training (0 for none),
and the targets that passed there at their second attempt only. -/
structure TrainResult where
  busyOnce : BitVec 8
  busy : BitVec 8
  ids : List (List Nat)
  pages : List (List Nat)
  passAt : Vector Nat 8
  again : BitVec 8
  deriving DecidableEq, Repr

/-- What the media answer at mount (R338, R372, R374): the number of newest roots that do not read whole,
whether a journal page between p_r and the stream end fails on both copies, the codewords that do not read,
and the device blocks whose factory marker is bad. -/
structure MountInput where
  rootsBad : Nat
  journalGap : Bool
  unreadable : List Loc
  badMarkers : List Nat
  deriving DecidableEq, Repr

/-- The temperature sensors of R255. -/
inductive Sensor where
  | die | alwaysOn
  | pad (g : Fin 8)
  deriving DecidableEq, Repr

/-- What a tether port finds while it trains (R390): a partner, the agreed lanes and rate code, or none. -/
structure TethTrain where
  partner : Bool
  lanes : Fin 5
  rate : Fin 6
  deriving DecidableEq, Repr

/-- The frame header of R393 and whether the frame's CRC passed on arrival. -/
structure FrameHdr where
  dst : Fin 4
  src : Fin 4
  seq : Fin 4096
  len : Nat
  tag : BitVec 16
  index : BitVec 16
  crcOk : Bool
  deriving DecidableEq, Repr

/-- The PART payload (R395). -/
structure PartBody where
  opcode : Byte
  nsid : Fin 8
  wcache : Bool
  fua : Bool
  lba4k : Bool
  speculative : Bool
  lbas : Nat
  first : Nat
  ranges : List (Nat × Nat)
  deriving DecidableEq, Repr

/-- The DONE payload (R396). -/
structure DoneBody where
  sc : Byte
  sct : BitVec 3
  lbas : Nat
  firstFail : Nat
  deriving DecidableEq, Repr

/-- The ADMIN payload (R403). -/
structure AdminBody where
  opcode : Byte
  flbas : BitVec 4
  nsid : Nat
  cdw10 : Word
  cdw11 : Word
  amount : Nat
  bytes : Nat
  sigOk : Bool
  deriving DecidableEq, Repr

/-- The HELLO payload (R399). -/
structure HelloBody where
  strap : Fin 16
  lanes : Fin 5
  rate : Fin 6
  state : Fin 4
  fresh : Bool
  chainId : Word
  n : Nat
  stripeLog2 : Nat
  deriving DecidableEq, Repr

/-- A write that sets CC.EN: CC.CRIME, and the host's accesses without a row of their own that came before it (log entry 60). -/
structure EnableWrite where
  crime : Bool
  before : List HostAccess := []
  deriving DecidableEq, Repr

/-- What a Get Features asks for: the feature identifier, and CDW11 (R69). -/
structure FeatureAsk where
  fid : Byte
  cdw11 : Word := 0
  deriving DecidableEq, Repr

/-- What a `run patrol` meets: what each sentinel reads raw, none for a read that timed out, and the `stop` line that arrives, if one does (R134). -/
structure PatrolRun where
  raws : List (Option (List Nat))
  stop : Option LineCtx := none
  deriving DecidableEq, Repr

/-- What the read of a reference of a valley search brings (R262, R264): the corrected codeword, with how many bits the decode corrected; a decode that
fails at STEP 0; or a read that times out. -/
inductive RefRead where
  | read (cw : List Nat) (bits : Nat)
  | failed
  | timedOut
  deriving DecidableEq, Repr

/-- What the trials of a valley search read raw, by entry and move, a trial that times out not being there; and whether the chamber's temperature
moves more than 5 °C meanwhile (R263, R264). -/
structure TrialRun where
  reads : List (Nat × Int × List (List Nat))
  moved : Bool := false
  deriving DecidableEq, Repr

/-- What an `assay search` meets: what its trials and its reference reads answer, and the `stop` line that arrives, if one does (R134). -/
structure SearchRun where
  trials : TrialRun
  refs : List RefRead
  stop : Option LineCtx := none
  deriving DecidableEq, Repr

/-- A retraining window: whether its target passes, how long its LUNs' programs and erases have run and have left (R151), and whether a target that
passes failed at its first attempt (R148, R167). -/
structure WindowRun where
  pass : Bool
  runs : List (Nat × Nat) := []
  retried : Bool := false
  deriving DecidableEq, Repr

/-- A wedge of a gallery (R164): the LUNs not ready within their reset's time, by chamber in the gallery, the highest rate at which each target passes
its training, and the targets that passed there at their second attempt only (R148). -/
structure WedgeRun where
  gal : Fin 8
  stuck : BitVec 16 := 0
  passAt : Vector Nat 8 := Vector.replicate 8 4800
  again : BitVec 8 := 0
  deriving DecidableEq, Repr

/-- Address cycles: their context, and how many of their bytes the pad receivers sampled otherwise (R149). -/
structure CycleIn where
  ctx : Fin 64
  mismatches : Nat := 0
  deriving DecidableEq, Repr

/-- A data input: the loopback's mismatches, attempt by attempt, and whether the target passes the training before a third (R148, R149). -/
structure DinRun where
  mismatches : List Nat
  pass : Bool := true
  deriving DecidableEq, Repr

/-- A status read: the status byte, the mismatches of the bytes driven for it, and whether its own parity differs (R149). -/
structure StatusIn where
  status : Byte
  driven : Nat := 0
  received : Bool := false
  deriving DecidableEq, Repr

/-- One data input byte: its context, and whether the pad receivers' sample of it differs (R149). -/
structure ByteIn where
  ctx : Fin 64
  mismatch : Bool := false
  deriving DecidableEq, Repr

/-- What a retention sweep reads: sentinels raw, and codeword 0 of the last page of open blocks (R333). -/
structure SweepRun where
  raws : List (Nat × Option (List Nat))
  opens : List (Nat × DecodeResult)
  deriving DecidableEq, Repr

/-- One command or event of the device: the rows of the spec's table, in its order. -/
inductive Instr where
  /-- POWER_ON_RESET (R545): Power-on asserts a level 0 reset and sets cause bit 0. -/
  | powerOnReset
  /-- BROWN_OUT (R554): VCC33, VDD18 or VDDC below its brown-out threshold for 1 µs raises source bit 1 at its fused level. -/
  | brownOut (rail : Rail)
  /-- RST_N_LOW (R545): RST_N driven low past the glitch filter asserts a level 0 reset. -/
  | rstNLow
  /-- PERST_ASSERTED (R545): PERST# asserted raises source bit 3 at its fused level, level 1 by default. -/
  | perstAsserted
  /-- FLR (R61): A function-level reset is a level 3 reset of Front's NVMe controller state. -/
  | flr
  /-- CC_EN_CLEARED (R61): Clearing CC.EN stops fetching, lets passed commands finish without completion and clears CSTS.RDY, raised to level 2 by a pending firmware record. -/
  | ccEnCleared
  /-- NVM_SUBSYSTEM_RESET (R61): Writing 4E564D65h to NSSR requests a reset from cause source 6, level 2 by default. -/
  | nvmSubsystemReset (value : Word)
  /-- DOMAIN_RELEASE (R548): Each clock domain in scope is released in order once its clock-good signal holds. -/
  | domainRelease (d : Clk) (good : Bool) (katFail : BitVec 4) (sigA sigB : Bool)
  /-- LAST_RAIL_GOOD (R54): The last rail reaching its good threshold with RST_N high starts the power-up sequence. -/
  | lastRailGood
  /-- AON_CAP_GOOD (R54): AON_CAP reaches its good level, ACLK runs and CFG_RS sampling begins. -/
  | aonCapGood
  /-- STRAP_SAMPLE (R48): After 16 conversions the median code is latched in SYS_STRAP, the pull-up disconnected and CLKREQ# asserted on a master. -/
  | strapSample (codes : Vector (BitVec 6) 16)
  /-- ROOT_PLL_LOCK (R552): Root PLL locks to REFCLK or the fallback oscillator and the CCLK, XCLK and GCLK domains follow. -/
  | rootPllLock
  /-- HOST_PHY_PLL_LOCK (R54): Host PHY PLL locks, HCLK is released and host lanes enter Detect or TU begins training. -/
  | hostPhyPllLock
  /-- REFCLK_ARRIVAL (R552): REFCLK arriving brings galleries and lanes to boundaries, holds clocks while the PLL relocks, and marks galleries for retraining. -/
  | refclkArrival
  /-- PLL_UNLOCK (R553): Loss of lock or of REFCLK moves the root to the fallback oscillator within 2 µs, resends in-flight transfers and sets trouble bit 49. -/
  | pllUnlock (planned : Bool)
  /-- SUPPLY_WARNING (R554): A rail below its warning threshold sets trouble bit 50 and blocks new programs and erases. -/
  | supplyWarning (rail : Rail) (mv : Nat)
  /-- FORCE_RELEASE (R550): SYS_TEST.force_rel in test releases a domain before clock-good and sets trouble bit 48. -/
  | forceRelease (mask : BitVec 5)
  /-- SYS_RST_REQ_GO (R570): A write with go set requests a reset from source 7, or 11 for debug class, at the level and unit given. -/
  | sysRstReqGo (cls : Cls) (level : BitVec 3) (unit : BitVec 5)
  /-- SYS_CAUSE_CLEAR (R547): Writing 1 to a SYS_CAUSE bit clears that sticky cause bit. -/
  | sysCauseClear (mask : Word)
  /-- TROUBLE_CLEAR_WRITE (R576): Writing 1 to a TRB_LO or TRB_HI position clears that trouble bit and its lifetime field, unless its condition sets it again. -/
  | troubleClearWrite (hi : Bool) (mask : Word)
  /-- MIRRORED_FIELD_WRITE (R604): A write to a register field that mirrors a setting changes the live setting with it, or is ignored if out of range or state. -/
  | mirroredFieldWrite (cls : Cls) (f : Mirror) (value : Nat)
  /-- REGISTER_WRITE (R10): A write to a register with no behaviour of its own sets, ignores or clears fields by access code. -/
  | registerWrite (cls : Cls) (addr : Word) (value : Word)
  /-- HOST_LINK_DOWN (R578): On a master the link falls to Detect or Disabled while PERST# is high and trouble bit 40 is set. -/
  | hostLinkDown
  /-- SQ_TAIL_DOORBELL (R58): A submission queue tail doorbell write makes new commands available and wakes a non-operational state. -/
  | sqTailDoorbell (q : Fin 129) (tail : BitVec 16)
  /-- CQ_HEAD_DOORBELL (R58): A completion queue head doorbell write frees completion queue entries. -/
  | cqHeadDoorbell (q : Fin 129) (head : BitVec 16)
  /-- COMMAND_FETCH (R63): Front fetches up to 8 commands per queue turn once a command context is free. -/
  | commandFetch (q : Fin 129) (sqes : List Sqe)
  /-- CC_EN_SET (R60): Setting CC.EN starts controller readiness under CC.CRIME and activates a committed firmware image. -/
  | ccEnSet (w : EnableWrite)
  /-- CONTROLLER_READY (R60): CSTS.RDY is set after 20 ms, after mount, or after 2 s as CC.CRIME selects. -/
  | controllerReady (deadline : Bool)
  /-- NORMAL_SHUTDOWN (R62): CC.SHN = 01b drains staging, takes a checkpoint and sets CSTS.SHST to 10b. -/
  | normalShutdown
  /-- ABRUPT_SHUTDOWN (R62): CC.SHN = 10b sets CSTS.SHST to 10b within 1 ms without committing more. -/
  | abruptShutdown
  /-- CREATE_IO_SQ (R68): Create I/O Submission Queue checks QID, size, PC and CQ and creates the queue. -/
  | createIoSq (h : Hdr) (qid qsize : BitVec 16) (pc : Bool) (cqid : BitVec 16)
  /-- CREATE_IO_CQ (R68): Create I/O Completion Queue checks QID, size, PC and vector and creates the queue. -/
  | createIoCq (h : Hdr) (qid qsize : BitVec 16) (pc : Bool) (iv : BitVec 16)
  /-- DELETE_IO_SQ (R65): Delete I/O Submission Queue removes a submission queue. -/
  | deleteIoSq (h : Hdr) (qid : BitVec 16)
  /-- DELETE_IO_CQ (R68): Delete I/O Completion Queue removes a completion queue unless an SQ is attached. -/
  | deleteIoCq (h : Hdr) (qid : BitVec 16)
  /-- GET_LOG_PAGE (R77): Get Log Page returns a standard or vendor log page at the offset given. -/
  | getLogPage (h : Hdr) (lid : Byte) (numd : BitVec 32) (lpo : BitVec 64) (rae : Bool)
  /-- IDENTIFY (R65): Identify returns the controller, namespace or list structure for the CNS given. -/
  | identify (h : Hdr) (cns : Byte) (nsid : Word)
  /-- ABORT (R65): Abort requests the end of a named command, which completes with Command Abort Requested. -/
  | abort (h : Hdr) (sqid : BitVec 16) (cid : BitVec 16)
  /-- SET_FEATURES_ARBITRATION (R69): Set Features 01h sets the arbitration burst. -/
  | setFeaturesArbitration (h : Hdr) (ab : BitVec 3)
  /-- SET_FEATURES_POWER_MANAGEMENT (R84): Set Features 02h requests power state 0 to 4, entering PS3 or PS4 once the entry conditions hold. -/
  | setFeaturesPowerManagement (h : Hdr) (ps : BitVec 5)
  /-- SET_FEATURES_TEMP_THRESHOLD (R69): Set Features 04h sets over and under temperature thresholds for the composite and sensors. -/
  | setFeaturesTempThreshold (h : Hdr) (sensor : BitVec 4) (under : Bool) (kelvin : BitVec 16)
  /-- SET_FEATURES_ERROR_RECOVERY (R69): Set Features 05h sets TLER for reads. -/
  | setFeaturesErrorRecovery (h : Hdr) (tler : BitVec 16)
  /-- SET_FEATURES_WRITE_CACHE (R26): Set Features 06h enables or disables the volatile write cache. -/
  | setFeaturesWriteCache (h : Hdr) (wce save : Bool)
  /-- SET_FEATURES_NUMBER_OF_QUEUES (R69): Set Features 07h requests up to 128 SQ and CQ. -/
  | setFeaturesNumberOfQueues (h : Hdr) (nsq ncq : BitVec 16)
  /-- SET_FEATURES_INTERRUPT_COALESCING (R69): Set Features 08h sets coalescing threshold and time. -/
  | setFeaturesInterruptCoalescing (h : Hdr) (thr time : Byte)
  /-- SET_FEATURES_INTERRUPT_VECTOR (R69): Set Features 09h sets coalescing disable per vector. -/
  | setFeaturesInterruptVector (h : Hdr) (iv : BitVec 16) (cd : Bool)
  /-- SET_FEATURES_WRITE_ATOMICITY (R69): Set Features 0Ah sets write atomicity normal. -/
  | setFeaturesWriteAtomicity (h : Hdr) (dn : Bool)
  /-- SET_FEATURES_ASYNC_EVENT_CONFIG (R69): Set Features 0Bh enables asynchronous event kinds. -/
  | setFeaturesAsyncEventConfig (h : Hdr) (mask : Word)
  /-- SET_FEATURES_APST (R69): Set Features 0Ch sets the autonomous power state transition table and enable. -/
  | setFeaturesApst (h : Hdr) (enable save : Bool) (ps3ms ps4ms : Nat)
  /-- SET_FEATURES_HOST_MEMORY_BUFFER (R70): Set Features 0Dh enables an HMB of at least HMMIN or disables it after in-flight accesses end. -/
  | setFeaturesHostMemoryBuffer (h : Hdr) (enable : Bool) (descs : List (Nat × Nat))
  /-- SET_FEATURES_THERMAL_MANAGEMENT (R69): Set Features 10h sets TMT1 and TMT2 for the governor's thermal steps. -/
  | setFeaturesThermalManagement (h : Hdr) (tmt1 tmt2 : BitVec 16)
  /-- GET_FEATURES (R69): Get Features returns the value of a supported feature. -/
  | getFeatures (h : Hdr) (ask : FeatureAsk)
  /-- ASYNC_EVENT_REQUEST (R65): Asynchronous Event Request is held until an enabled event is posted. -/
  | asyncEventRequest (h : Hdr)
  /-- NAMESPACE_CREATE (R283): Namespace Management create allocates the lowest free units and a media key. -/
  | namespaceCreate (h : Hdr) (nszeGib : Nat) (flbas : BitVec 4)
  /-- NAMESPACE_DELETE (R71): Namespace Management delete crypto-erases the namespace and frees its units. -/
  | namespaceDelete (h : Hdr) (nsid : Word)
  /-- NAMESPACE_ATTACHMENT (R71): Namespace Attachment attaches a namespace to controller 0. -/
  | namespaceAttachment (h : Hdr) (nsid : Word) (attach : Bool)
  /-- FIRMWARE_IMAGE_DOWNLOAD (R514): Firmware Image Download programs a piece at its offset in the inactive twin. -/
  | firmwareImageDownload (h : Hdr) (off len : Nat) (bytes : List Byte)
  /-- FIRMWARE_COMMIT (R514): Firmware Commit checks the signature and writes a pending swap record per its action. -/
  | firmwareCommit (h : Hdr) (slot : BitVec 3) (action : BitVec 3) (sigOk : Bool)
  /-- FORMAT_NVM (R72): Format NVM deallocates or crypto-erases a namespace per SES and may change its LBA format. -/
  | formatNvm (h : Hdr) (nsid : Word) (lbaf : BitVec 4) (ses : BitVec 3)
  /-- SANITIZE_CRYPTO_ERASE (R73): Sanitize crypto erase replaces every media key and removes the password. -/
  | sanitizeCryptoErase (h : Hdr)
  /-- SANITIZE_BLOCK_ERASE (R73): Sanitize block erase erases every good block of every chamber. -/
  | sanitizeBlockErase (h : Hdr)
  /-- SANITIZE_EXIT_FAILURE_MODE (R73): Sanitize Exit Failure Mode is accepted. -/
  | sanitizeExitFailureMode (h : Hdr)
  /-- SECURITY_RECEIVE_PROTOCOLS (R528): Security Receive with SECP 00h lists protocols 00h and F0h. -/
  | securityReceiveProtocols (h : Hdr)
  /-- SECURITY_SET (R529): Security Send SPSP 0001h sets, changes or removes the password and rewraps media keys. -/
  | securitySet (h : Hdr) (version tl : Nat) (oldLen newLen : Nat) (old new : List Byte)
  /-- SECURITY_LOCK (R527): Security Send SPSP 0002h locks user data after fetched commands finish and staging drains. -/
  | securityLock (h : Hdr) (tl : Nat)
  /-- SECURITY_UNLOCK (R527): Security Send SPSP 0003h derives the KEK, unlocks on match or counts a failed unlock. -/
  | securityUnlock (h : Hdr) (version tl len : Nat) (pw : List Byte)
  /-- SECURITY_STATUS (R528): Security Receive SPSP 0001h returns the lock status payload. -/
  | securityStatus (h : Hdr)
  /-- CONSOLE_SEND (R75): Admin C0h queues one console line on the tunnel path. -/
  | consoleSend (h : Hdr) (len : Nat) (line : List Byte)
  /-- CONSOLE_RECEIVE (R75): Admin C1h returns waiting reply lines on the tunnel path. -/
  | consoleReceive (h : Hdr) (numd : Nat)
  /-- FLUSH (R27): Flush completes after every earlier completed write is committed. -/
  | flush (h : Hdr) (nsid : Word)
  /-- WRITE (R23): Write moves data into staging, allocates, encodes, programs and commits, completing per write cache mode and FUA. -/
  | write (h : Hdr) (nsid : Word) (slba : Nat) (data : List Sector) (lbas : Nat) (fua : Bool)
  /-- READ (R28): Read looks up each sector, reads and decodes it and returns the data. -/
  | read (h : Hdr) (nsid : Word) (slba lbas : Nat)
  /-- WRITE_ZEROES (R304): Write Zeroes deallocates the range and completes when its records are committed. -/
  | writeZeroes (h : Hdr) (nsid : Word) (slba lbas : Nat)
  /-- DATASET_MANAGEMENT (R304): Dataset Management with AD deallocates the ranges and journals them. -/
  | datasetManagement (h : Hdr) (nsid : Word) (ad : Bool) (ranges : List (Nat × Nat))
  /-- VERIFY (R65): Verify reads and checks the range without returning data. -/
  | verify (h : Hdr) (nsid : Word) (slba lbas : Nat)
  /-- SECURE_DEALLOCATE (R307): Secure Deallocate deallocates its ranges and erases every physical copy before completing. -/
  | secureDeallocate (h : Hdr) (nsid : Word) (ranges : List (Nat × Nat))
  /-- COMMAND_TIMER_EXPIRY (R89): A command's 200 ms running timer expires and it completes with Command Interrupted and trouble bit 41. -/
  | commandTimerExpiry (h : Hdr)
  /-- INTERRUPT_COALESCING_TIMEOUT (R69): The coalescing time expires and the pending interrupt is sent. -/
  | interruptCoalescingTimeout (iv : Fin 129)
  /-- STAGING_DRAIN (R26): After 10 ms with no new command the device drains cached staging to commit. -/
  | stagingDrain
  /-- SPECULATIVE_READ (R86): After three contiguous reads, Front issues speculative reads when the pool has room. -/
  | speculativeRead (nsid : Word)
  /-- COMMAND_REPLAY (R88): After a level 2 recovery Front replays every held command without completion in fetch order. -/
  | commandReplay
  /-- APST_IDLE_TIMEOUT (R83): An APST idle time expires and the device moves to PS3 or PS4. -/
  | apstIdleTimeout (ps4 : Bool)
  /-- PS3_ENTRY (R84): Once entry conditions hold, the device enters PS3 with Codec and galleries off. -/
  | ps3Entry
  /-- PS4_ENTRY (R556): Once entry conditions hold on the chain, the device checkpoints, saves to the retained slice and powers down to PS4. -/
  | ps4Entry
  /-- CLKREQ_ASSERTED (R85): Host assertion of CLKREQ# in PS3 or PS4 starts exit and the wake beacon. -/
  | clkreqAsserted
  /-- PS4_EXIT (R85): The device powers its domains, locks PLLs, restores Front and training state and serves commands. -/
  | ps4Exit
  /-- PS4_RECORD_RELOAD (R377): After PS4 exit the Map engine reloads block and health records and applies the change log and patrol reads. -/
  | ps4RecordReload
  /-- UART_CHARACTER (R94): A character received on CON_RX is taken, edited, echoed or ends the line. -/
  | uartCharacter (c : Byte)
  /-- UART_OVERRUN (R94): A receive overrun discards the line being assembled and sets trouble bit 44. -/
  | uartOverrun
  /-- PARTIAL_LINE_TIMEOUT (R94): A partial line idle for 60 s is discarded without reply. -/
  | partialLineTimeout
  /-- LINE_EXECUTE (R102): The interpreter takes the next queued line, checks it whole, records it and executes it. -/
  | lineExecute
  /-- KEEP_ALIVE (R104): Every 2 s before the status line the device sends .. busy on the path. -/
  | keepAlive (p : Path)
  /-- ROUTED_LINE_TIMEOUT (R106): A routed line unanswered for 5 s yields err timeout. -/
  | routedLineTimeout (tag : BitVec 16)
  /-- SHOW (R121): show returns status, health, gallery, chamber, power, chain, settings, profile, namespace or version lines. -/
  | show (l : LineCtx) (obj : ShowObj)
  /-- GET (R122): get returns settings or the strap, state, cause, trouble or lifetime. -/
  | get (l : LineCtx) (what : GetWhat)
  /-- SET (R125): set applies one or more setting values together or none. -/
  | set (l : LineCtx) (pairs : List (Setting × SetVal))
  /-- CLEAR_TROUBLE (R126): clear trouble clears all trouble bits or one. -/
  | clearTrouble (l : LineCtx) (bit : Option Nat)
  /-- CLEAR_CAUSE (R126): clear cause clears all cause bits or one. -/
  | clearCause (l : LineCtx) (bit : Option Nat)
  /-- CLEAR_SUSPECT (R126): clear suspect resets a suspect chamber and returns it to service after a status check. -/
  | clearSuspect (l : LineCtx) (c : Fin 128) (statusOk : Bool)
  /-- SAVE_SETTINGS (R109): save settings writes every live setting to the inactive settings sector and erases the older. -/
  | saveSettings (l : LineCtx)
  /-- SAVE_PROFILE (R200): save profile writes installed profiles to the unused profile half and erases the older. -/
  | saveProfile (l : LineCtx)
  /-- LOAD_SETTINGS (R109): load settings replaces live settings with the saved set. -/
  | loadSettings (l : LineCtx)
  /-- LOAD_PROFILE (R128): load profile validates an image and installs it on the galleries named. -/
  | loadProfile (l : LineCtx) (src len : Nat) (g : Option (Fin 8))
  /-- PROFILE_INSTALL (R199): Once the gallery is idle it loads slots, sets GAL_PROF_ID, copies the image and begins training. -/
  | profileInstall (g : Fin 8) (ids : List (List Nat))
  /-- RUN_TEST (R117): run test enters test and pauses background work. -/
  | runTest (l : LineCtx)
  /-- RUN_OP (R132): run op executes one op list on one chamber in test state. -/
  | runOp (l : LineCtx) (c : Fin 128) (list block page buf len : Nat) (force : Bool)
  /-- RUN_TRAIN (R133): run train marks a gallery for retraining. -/
  | runTrain (l : LineCtx) (g : Fin 8)
  /-- RUN_CHECKPOINT (R133): run checkpoint takes a checkpoint and replies when committed. -/
  | runCheckpoint (l : LineCtx)
  /-- RUN_PATROL (R133): run patrol performs one Flowstone rotation step on 1/32 of closed blocks.  `raws`: what each sentinel reads raw, none for a
  read that times out; `stop`: a `stop` line that arrives while the last block of `raws` is read (R134). -/
  | runPatrol (l : LineCtx) (r : PatrolRun)
  /-- STOP (R134): stop halts the executing line at its next safe point. -/
  | stop (l : LineCtx)
  /-- STOP_TEST (R134): stop test re-enables galleries, resumes background work, checkpoints and returns to service. -/
  | stopTest (l : LineCtx)
  /-- STOP_DMA (R134): stop dma requests a channel stop at its next descriptor boundary. -/
  | stopDma (l : LineCtx) (n : Fin 8)
  /-- CONSOLE_RESET (R135): reset requests a reset of level 0 to 4 from cause source 7. -/
  | consoleReset (l : LineCtx) (level : Option Nat) (unit : Option UnitName)
  /-- SLEEP (R136): sleep puts the device into PS3 or PS4 once entry conditions hold. -/
  | sleep (l : LineCtx) (ps : Option Nat)
  /-- LOCK_DATA (R138): lock data locks user data, setting the password when open. -/
  | lockData (l : LineCtx) (pw : Option (List Byte))
  /-- UNLOCK_DATA (R138): unlock data unlocks with the password or counts a failure. -/
  | unlockData (l : LineCtx) (pw : List Byte)
  /-- RD (R129): rd reads units of the given width from the control address space. -/
  | rd (l : LineCtx) (addr n w : Nat)
  /-- WR (R130): wr writes up to eight units and reads back the last. -/
  | wr (l : LineCtx) (addr w : Nat) (ds : List Nat)
  /-- MOVE (R131): move copies memory on one DMA channel as user class. -/
  | move (l : LineCtx) (src dst len lines : Nat) (sstride dstride : Option Int) (ovl : Bool) (pri : Option Nat)
  /-- FILL (R131): fill writes a 64-bit pattern on one DMA channel as user class. -/
  | fill (l : LineCtx) (dst len : Nat) (pattern : BitVec 64) (pri : Option Nat)
  /-- ASSAY_OFFSETS (R137): assay offsets returns a block group's read-offset vector. -/
  | assayOffsets (l : LineCtx) (c : Fin 128) (block : Nat)
  /-- ASSAY_SENSORS (R137): assay sensors returns temperatures, VDDC, controller power and card current. -/
  | assaySensors (l : LineCtx)
  /-- ASSAY_SENTINEL (R137): assay sentinel reads a closed block's sentinel and returns its flips. -/
  | assaySentinel (l : LineCtx) (c : Fin 128) (block : Nat) (raw : Option (List Nat))
  /-- ASSAY_SEARCH (R137): assay search runs a valley search on the block's group now. -/
  | assaySearch (l : LineCtx) (c : Fin 128) (block : Nat) (r : SearchRun)
  /-- ASSAY_RESET (R137): assay reset returns a chamber's offset vectors to the profile's defaults. -/
  | assayReset (l : LineCtx) (c : Fin 128)
  /-- LOG_JOURNAL (R123): log journal returns change journal entries. -/
  | logJournal (l : LineCtx) (last frm : Option Nat)
  /-- LOG_TROUBLE (R123): log trouble lists set trouble bits with their lifetime seconds. -/
  | logTrouble (l : LineCtx)
  /-- LOG_ALARM (R123): log alarm lists alarm log entries. -/
  | logAlarm (l : LineCtx) (last : Option Nat)
  /-- LOG_TEMP (R123): log temp lists the non-zero temperature history bins. -/
  | logTemp (l : LineCtx)
  /-- UPDATE_PIECE (R139): update piece programs a piece of an image into the inactive twin. -/
  | updatePiece (l : LineCtx) (twin : Twin) (src off len : Nat)
  /-- UPDATE_COMMIT (R139): update commit checks the image and writes the swap record, activating next or now. -/
  | updateCommit (l : LineCtx) (twin : Twin) (now sigOk : Bool)
  /-- UPDATE_STATUS (R139): update status reports the active and pending twins and bytes staged. -/
  | updateStatus (l : LineCtx)
  /-- HELP (R124): help lists verbs, a verb's keys, or a setting's default, range and value. -/
  | help (l : LineCtx) (topic : HelpTopic)
  /-- GALLERY_TRAINING (R146): A gallery trains through calibration, reset, parameter pages, Set Features and timing training, then raises WP_N. -/
  | galleryTraining (g : Fin 8) (r : TrainResult)
  /-- RETRAINING_WINDOW (R151): One target's bus is held up to 60 µs for short calibration and training after operations suspend or end. -/
  | retrainingWindow (g : Fin 8) (r : WindowRun)
  /-- GAL_CTL_TRAIN (R165): Writing 1 to GAL_CTL.train marks the gallery for retraining. -/
  | galCtlTrain (g : Fin 8)
  /-- GAL_SUSPECT_CLEAR (R168): Writing 1 to a GAL_SUSPECT bit returns a chamber to service with no status check. -/
  | galSuspectClear (g : Fin 8) (mask : BitVec 16)
  /-- GAL_WPT_LOAD (R173): A privileged write replaces the selected write-pointer entry; other classes fault or are dropped. -/
  | galWptLoad (g : Fin 8) (cls : Cls) (value : Word)
  /-- SCHEDULER_DISPATCH (R153): The scheduler starts the oldest highest-class waiting operation when the governor's limit has room. -/
  | schedulerDispatch (g : Fin 8)
  /-- OPERATION_AGING (R153): An operation that has waited 100 ms is served as class 1. -/
  | operationAging (g : Fin 8) (id : Nat)
  /-- BUS_TRANSFER_DONE (R154): At a transfer boundary the gallery arbitrates the next transfer, status polls first. -/
  | busTransferDone (g : Fin 8)
  /-- RB_N_RISE (R154): RB_N rising prompts an immediate status poll. -/
  | rbNRise (g : Fin 8)
  /-- PROGRAM_SUSPEND (R156): A waiting class 1 or 2 read suspends a program or erase when the profile's conditions hold. -/
  | programSuspend (g : Fin 8) (c : Fin 16) (ranUs remainUs : Nat)
  /-- PROGRAM_RESUME (R157): After the read count, 200 µs, or no waiting read, the suspended operation resumes. -/
  | programResume (g : Fin 8) (c : Fin 16) (heldUs : Nat)
  /-- CHAMBER_OP_TIMEOUT (R162): An operation timer expires; the chamber is reset, checked and the operation retried once, or the chamber becomes suspect. -/
  | chamberOpTimeout (g : Fin 8) (id : Nat) (statusOk : Bool)
  /-- SEQUENCER_WATCHDOG (R164): A sequencer with no progress for 10 ms is quiesced, reset, its LUNs reset, retrained and its work reissued. -/
  | sequencerWatchdog (r : WedgeRun)
  /-- OP_END (R179): END ends the list or returns from a CALL, with its code and fail bit. -/
  | opEnd (g : Fin 8) (x : Fin 64)
  /-- OP_CMD (R179): CMD sends one command cycle, starting the operation timer when armed. -/
  | opCmd (g : Fin 8) (b : ByteIn)
  /-- OP_ADDR (R180): ADDR sends column, row, immediate, LUN or V0 address cycles under write-pointer checks. -/
  | opAddr (g : Fin 8) (a : CycleIn)
  /-- OP_DIN (R181): DIN sends data from the Keeper with loopback parity and re-sends. -/
  | opDin (g : Fin 8) (x : Fin 64) (r : DinRun)
  /-- OP_DOUT (R181): DOUT receives data into the Keeper, the Codec or S, with check-sampler parity. -/
  | opDout (g : Fin 8) (x : Fin 64) (bytes : List Byte) (mismatches : Nat)
  /-- OP_DINB (R179): DINB sends one data input byte. -/
  | opDinb (g : Fin 8) (b : ByteIn)
  /-- OP_DINV (R260): DINV sends one compensated and clamped read offset entry. -/
  | opDinv (g : Fin 8) (b : ByteIn)
  /-- OP_WAIT (R179): WAIT waits a fixed count, yielding the bus if its yield bit is set. -/
  | opWait (g : Fin 8) (x : Fin 64)
  /-- OP_WAITP (R192): WAITP waits the profile timing of the current mode. -/
  | opWaitp (g : Fin 8) (x : Fin 64)
  /-- OP_POLL (R179): POLL reads status every 2 µs until the masked value matches or its timer expires. -/
  | opPoll (g : Fin 8) (x : Fin 64) (r : StatusIn)
  /-- OP_STAT (R179): STAT reads one status byte into S. -/
  | opStat (g : Fin 8) (x : Fin 64) (r : StatusIn)
  /-- OP_BR (R182): BR branches forward when its condition holds. -/
  | opBr (g : Fin 8) (x : Fin 64)
  /-- OP_SETL (R182): SETL loads a loop counter from an immediate or a register. -/
  | opSetl (g : Fin 8) (x : Fin 64)
  /-- OP_LOOP (R179): LOOP decrements a counter and branches back while non-zero. -/
  | opLoop (g : Fin 8) (x : Fin 64)
  /-- OP_SET (R179): SET sets a context register or adds a signed immediate. -/
  | opSet (g : Fin 8) (x : Fin 64)
  /-- OP_CALL (R186): CALL runs a hook slot and continues, with hook 26 skipped when offsets are unchanged. -/
  | opCall (g : Fin 8) (x : Fin 64)
  /-- ENCODE (R221): A codeword leaving the encoder has its syndrome checked, is re-encoded on failure, and joins its parity accumulator. -/
  | encode (id : Nat) (r : EncodeRun) (crcBad : Bool)
  /-- HARD_DECODE (R222): A hard lane decodes a codeword and the read order continues on failure. -/
  | hardDecode (id : Nat) (r : DecodeResult)
  /-- SOFT_DECODE (R222): A soft lane decodes stage 1 or stage 2 from multiple reads. -/
  | softDecode (id : Nat) (lane : Fin 2) (r : DecodeResult)
  /-- STRIPE_REBUILD (R237): A codeword is rebuilt by XOR of the other members and parity, then verified. -/
  | stripeRebuild (id : Nat) (f : SourceRun) (r : DecodeResult)
  /-- SOFT_DECODE_TIMEOUT (R239): A soft decode still running at 400 µs is abandoned and the read order continues. -/
  | softDecodeTimeout (id : Nat)
  /-- HARD_LANE_TIMEOUT (R239): A hard lane without progress for 400 µs is quiesced, its work sent to the neighbour, and reset. -/
  | hardLaneTimeout (h : Fin 8)
  /-- SOFT_LANE_TIMEOUT (R239): A soft lane queue without progress for 400 µs is quiesced and reset. -/
  | softLaneTimeout (n : Fin 2)
  /-- ARRAY_OP_COMPLETE (R154): A status poll finds an array operation ready and its outcome goes to its requester. -/
  | arrayOpComplete (g : Fin 8) (id : Nat) (failPlanes : BitVec 4) (fail : Bool)
  /-- READ_VERIFY (R235): Every codeword of a closed member is read and the member passes or is scheduled for refresh, releasing parity. -/
  | readVerify (blk : Nat) (results : List DecodeResult)
  /-- SUMP_ALLOCATION (R297): A host write allocates Sump pages and sequence numbers once occupancy is below S. -/
  | sumpAllocation
  /-- SUMP_PAGE_RELEASE (R357): A Sump page is released to its gallery when full or after 1 µs, padded. -/
  | sumpPageRelease (waited : Bool)
  /-- STRIPE_GROUP_OPEN (R294): A stripe group is placed over chambers once it can be, and its open record journalled. -/
  | stripeGroupOpen (flow : Flow)
  /-- COMMIT (R289): A host-write commit updates the map entry unless a higher sequence number is recorded. -/
  | commit (id : Nat)
  /-- RELOCATION_SWAP (R290): A compare-and-swap moves a sector's entry to the target only if it still points at the source. -/
  | relocationSwap (id : Nat)
  /-- PARTIAL_WRITE (R302): A 512 B partial write locks the sector, merges with its data and writes it whole. -/
  | partialWrite (ns : Fin 8) (lba : Nat)
  /-- MAP_PAGE_WRITEBACK (R286): A dirty map page is programmed to a map block and its directory updated. -/
  | mapPageWriteback (page : Nat)
  /-- FOLD (R298): Fold rewrites closed Sump data into native blocks by swap. -/
  | fold (blk : Nat)
  /-- GARBAGE_COLLECTION (R300): Garbage collection copies a victim's valid sectors and erases it. -/
  | garbageCollection
  /-- WEAR_LEVELLING (R301): The lowest-erase closed native block becomes the next victim when the spread exceeds its limit. -/
  | wearLevelling
  /-- REFRESH (R334): A queued block's mapped sectors are copied by swap and the block erased or retired. -/
  | refresh
  /-- SECTOR_RETRY (R337): An uncorrectable relocation sector is retried after 10 s, and marked damaged after the third failure. -/
  | sectorRetry (d blk : Nat)
  /-- BLOCK_ERASE (R361): A block with valid count 0 is erased after two later checkpoints. -/
  | blockErase (blk : Nat)
  /-- RESERVE_ERASE (R292): A chamber's new erased reserve is erased once the old one opens. -/
  | reserveErase (c : Fin 128)
  /-- CHAMBER_RETIRE (R342): A chamber suspect for 24 h in PS0–PS2 has all its blocks made bad and its data evacuated. -/
  | chamberRetire (c : Fin 128)
  /-- JOURNAL_PAGE_PROGRAM (R362): The journal buffer is programmed to the next stream position when full or its records have waited. -/
  | journalPageProgram (failA failB : Bool)
  /-- CHECKPOINT_TIMER (R365): A second of lifetime with map changes, or 64 MiB committed, triggers a checkpoint. -/
  | checkpointTimer
  /-- CHECKPOINT (R366): A snapshot is taken and map pages, checkpoint pages and the root are written. -/
  | checkpoint (rootFails : Nat)
  /-- SHELF_CHANGE_OVER (R370): A new shelf is opened, anchored and checkpointed when free positions run low. -/
  | shelfChangeOver
  /-- MOUNT (R373): Mount chooses a root, applies journal records and scanned codewords in sequence order, and seals open blocks. -/
  | mount (m : MountInput)
  /-- BLOCK_TABLE_WALK (R376): The walk builds allocation heaps, counts, N, S and the refresh queue from the records. -/
  | blockTableWalk
  /-- FULL_SCAN (R379): The full scan rebuilds the map from the media in five phases. -/
  | fullScan
  /-- RETENTION_SWEEP (R333): After a cold mount every closed sentinel and open frontier is read once. -/
  | retentionSweep (r : SweepRun)
  /-- MAP_ENGINE_WATCHDOG (R384): A Map engine with no progress for 20 ms is restarted by firmware and logged with trouble bit 29. -/
  | mapEngineWatchdog
  /-- TEMPERATURE_SAMPLE (R255): A sensor sample updates the die, pad or always-on temperature. -/
  | temperatureSample (which : Sensor) (quarterC : Int)
  /-- CHAMBER_TEMPERATURE_LIST (R256): Once per second slot 32 runs on each chamber to read its temperature. -/
  | chamberTemperatureList (c : Fin 128) (answer : Option (List Byte))
  /-- RAIL_SAMPLE (R255): Rail voltages, currents and ISNS are sampled every 100 µs. -/
  | railSample (mv ma : Vector Nat 5) (isnsMv : Nat)
  /-- GOVERNOR_TICK (R268): Every 1 ms the governor evaluates thermal step and power component and applies the step. -/
  | governorTick
  /-- VALLEY_SEARCH (R263): An idle search trials offsets entry by entry on the group's sample block and writes the record. -/
  | valleySearch (c : Fin 128) (group : Nat) (trials : TrialRun) (refs : List RefRead)
  /-- LIFETIME_SECOND (R271): Each lifetime second updates the temperature history bins and extremes. -/
  | lifetimeSecond
  /-- HOURLY_HISTORY (R79): Each hour the hourly maximum shifts in and the history is written to the boot store. -/
  | hourlyHistory
  /-- PATROL_WAKE (R558): When due in PS4 the patrol powers gallery halves in turn and reads 1/32 of sentinels. -/
  | patrolWake (raws : List (Option (List Nat)))
  /-- REFRESH_WAKE (R559): After a patrol with queued blocks and budget, the device wakes, refreshes blocks, checkpoints and re-enters PS4. -/
  | refreshWake (r : RefreshRun)
  /-- TETHER_TRAINING (R390): A tether port trains, equalises and exchanges HELLO before link up. -/
  | tetherTraining (p : Port) (r : TethTrain)
  /-- PART (R402): A PART frame starts a command part on its owning device. -/
  | part (p : Port) (f : FrameHdr) (b : PartBody)
  /-- DATA (R394): A DATA frame carries a part's LBAs or a firmware piece. -/
  | data (p : Port) (f : FrameHdr) (d : Sector)
  /-- DONE (R396): A DONE frame reports a part's status to the master. -/
  | done (p : Port) (f : FrameHdr) (b : DoneBody)
  /-- CONSOLE (R404): A CONSOLE frame carries one routed console line or reply line. -/
  | console (p : Port) (f : FrameHdr) (line : List Byte)
  /-- ORDER_RESET (R405): A reset order makes a subordinate reset from cause source 9. -/
  | orderReset (p : Port) (f : FrameHdr) (arg : Byte)
  /-- ORDER_STANDBY (R406): A standby order makes a subordinate drain and answer standby ready. -/
  | orderStandby (p : Port) (f : FrameHdr) (arg : Byte)
  /-- ORDER_STANDBY_READY (R406): A standby ready lets the master enter PS3 or PS4 once all have answered. -/
  | orderStandbyReady (p : Port) (f : FrameHdr) (arg : Byte)
  /-- ORDER_STATE (R398): A state order records the master's state and may end a subordinate's test. -/
  | orderState (p : Port) (f : FrameHdr) (arg : Byte)
  /-- ORDER_HOLD (R408): A hold order makes the master stop sending parts to the holding devices and wait for ready. -/
  | orderHold (p : Port) (f : FrameHdr) (arg : Byte)
  /-- ORDER_READY (R408): A ready order makes the master resend every outstanding part there. -/
  | orderReady (p : Port) (f : FrameHdr)
  /-- ORDER_ABORT (R402): An abort order makes the owner stop the part and send DONE with Command Abort Requested. -/
  | orderAbort (p : Port) (f : FrameHdr)
  /-- ORDER_ACTIVATE (R403): An activate order makes a subordinate hold and reset at level 2 to swap twins. -/
  | orderActivate (p : Port) (f : FrameHdr)
  /-- ALARM (R537): An ALARM frame is forwarded once, recorded, and acted on under the receiver's own fuses. -/
  | alarm (p : Port) (f : FrameHdr) (origin : Fin 4) (bit : Fin 64) (secs : Word)
  /-- ADMIN (R403): An ADMIN frame applies a namespace, format, sanitize or firmware command on a subordinate. -/
  | admin (p : Port) (f : FrameHdr) (b : AdminBody)
  /-- ACK (R401): An ACK frees replay buffer frames up to its sequence number. -/
  | ack (p : Port) (f : FrameHdr)
  /-- NAK (R401): A NAK makes the sender replay from the named sequence number. -/
  | nak (p : Port) (f : FrameHdr)
  /-- CREDIT (R400): A CREDIT frame returns credits of one class to the sender. -/
  | credit (p : Port) (f : FrameHdr)
  /-- HELLO (R391): A HELLO frame is checked for position, identifier and role, bringing the link up or to mismatch. -/
  | hello (p : Port) (f : FrameHdr) (b : HelloBody)
  /-- REPLAY_TIMEOUT (R401): An unacknowledged frame waiting 20 µs is replayed, retraining after four replays. -/
  | replayTimeout (p : Port)
  /-- IDLE_ACK_TIMER (R401): Every 10 µs of idle link the receiver sends an ACK. -/
  | idleAckTimer (p : Port)
  /-- SUBORDINATE_SILENT (R409): No valid frame for 100 ms declares the subordinate and those beyond it absent. -/
  | subordinateSilent (k : Fin 4)
  /-- HOLD_WINDOW_EXPIRY (R409): A hold window ending without ready declares the holding devices absent. -/
  | holdWindowExpiry (k : Fin 4)
  /-- CHAIN_JOIN_TIMEOUT (R411): 2 s after its TD link up the master declares missing devices absent at mount. -/
  | chainJoinTimeout
  /-- WAKE_BEACON (R407): A beacon on TU makes a subordinate begin PS4 exit and repeat it on TD. -/
  | wakeBeacon
  /-- SCRUB_READ (R430): Every 2.56 µs the scrubber reads one word, correcting or poisoning it. -/
  | scrubRead
  /-- NARROW_WRITE (R423): A write under 8 bytes goes through read-modify-write or the merge buffer. -/
  | narrowWrite (cls : Cls) (addr : Word) (width : Width) (value : BitVec 64) (parityBad : Bool)
  /-- MERGE_BUFFER_DRAIN (R424): A merge-buffer entry drains when the unit idles, fills, is displaced or is read. -/
  | mergeBufferDrain
  /-- FLIP_MASK_ARM (R427): Writing KPR_FLIP_CTL.arm arms the flip mask for the next matching array write. -/
  | flipMaskArm (cls : Cls) (value : Word)
  /-- DMA_START (R450): Writing CTL.start loads the first descriptor and runs the chain. -/
  | dmaStart (n : Fin 8) (cls : Cls) (pri : BitVec 2)
  /-- DMA_STOP (R460): Writing CTL.stop ends the channel at its next descriptor boundary with STOPPED. -/
  | dmaStop (n : Fin 8)
  /-- DESCRIPTOR_FETCH (R450): The channel fetches the descriptor at LINK and checks it, or ends with LOOP at the hop limit. -/
  | descriptorFetch (n : Fin 8)
  /-- DMA_FETCH_TIMEOUT (R459): A fetch or access without response in 64 µs is a bus error. -/
  | dmaFetchTimeout (n : Fin 8) (addr : Word) (fetch write : Bool)
  /-- DMA_COMPLETE (R461): The last write of the chain leaves the engine and the done or err bit is set. -/
  | dmaComplete (n : Fin 8)
  /-- MPU_COMMIT (R485): Writing MPU_CTL.commit copies valid shadows to the active set at the next access boundary. -/
  | mpuCommit (cls : Cls)
  /-- LANTERN_STATUS (R489): STATUS returns state, lock, power state, scan mode and alarm bits. -/
  | lanternStatus
  /-- LANTERN_READ (R489): READ performs one debug-class read. -/
  | lanternRead (addr : Word) (width : Width) (checkOk : Bool)
  /-- LANTERN_WRITE (R489): WRITE performs one debug-class write recorded in the change journal. -/
  | lanternWrite (addr : Word) (width : Width) (value : BitVec 64) (checkOk : Bool)
  /-- LANTERN_BLKRD (R490): BLKRD reads consecutive words with CRC groups. -/
  | lanternBlkrd (addr : Word) (words : BlkLen) (checkOk : Bool)
  /-- LANTERN_BLKWR (R489): BLKWR writes consecutive words, stopping at the first failing CRC group. -/
  | lanternBlkwr (addr : Word) (data : List Word) (badGroup : Option Nat) (checkOk : Bool)
  /-- LANTERN_RESET (R489): RESET requests a reset from cause source 11. -/
  | lanternReset (checkOk : Bool)
  /-- SCAN_BYPASS (R492): SCAN BYPASS selects the bypass register. -/
  | scanBypass
  /-- SCAN_IDCODE (R492): SCAN IDCODE returns the device and revision code. -/
  | scanIdcode
  /-- SCAN_SAMPLE_PRELOAD (R492): SCAN SAMPLE/PRELOAD samples or preloads the boundary cells. -/
  | scanSamplePreload (pins : BitVec 205)
  /-- SCAN_EXTEST (R493): SCAN EXTEST drives the boundary cells with WP_N forced low. -/
  | scanExtest
  /-- SCAN_SHIFT (R492): SCAN SHIFT moves 64 chain bits in and out. -/
  | scanShift (inp : BitVec 64)
  /-- BST_PROGRAM_WORD (R507): Command 0x10 programs one 32-bit word. -/
  | bstProgramWord (addr data : Word) (cls : Cls)
  /-- BST_ERASE_SECTOR (R507): Command 0x20 erases one sector. -/
  | bstEraseSector (addr : Word) (cls : Cls)
  /-- BST_SWAP_COMMIT (R507): Command 0x30 commits a swap record slot if its CRC matches. -/
  | bstSwapCommit (slot : Nat) (cls : Cls)
  /-- BST_SUSPEND (R509): Command 0x40 suspends an erase. -/
  | bstSuspend
  /-- BST_RESUME (R509): Command 0x41 resumes a suspended erase. -/
  | bstResume
  /-- BST_READ_STATUS (R508): Command 0x70 enters status mode. -/
  | bstReadStatus
  /-- BST_ARRAY_READ (R508): Command 0xF0 leaves status mode and clears error. -/
  | bstArrayRead
  /-- BST_OP_COMPLETE (R508): A boot store program or erase ends and firmware records any error and sends 0xF0. -/
  | bstOpComplete (ok : Bool)
  /-- BST_OP_TIMEOUT (R508): A program not verified in 60 µs or an erase in 1 s ends with error. -/
  | bstOpTimeout
  /-- BST_CM_PROGRAM (R519): BST_CM_CMD.program programs a word in the card maker area. -/
  | bstCmProgram
  /-- BST_CM_ERASE (R519): BST_CM_CMD.erase erases a card maker sector. -/
  | bstCmErase
  /-- SUPPLY_ALARM (R532): VDDC out of range for 5 ns fires the supply sensor and its fused action. -/
  | supplyAlarm (mv : Nat)
  /-- CLOCK_ALARM (R532): CCLK out of range fires the clock sensor and its fused action. -/
  | clockAlarm (mhz : Nat)
  /-- TEMPERATURE_ALARM (R532): Die temperature out of range in two samples fires the temperature sensor. -/
  | temperatureAlarm (c : Int)
  /-- GLITCH_ALARM (R532): Vault logic disagreement or detector trip fires the glitch sensor. -/
  | glitchAlarm
  /-- UNLOCK_FAILURE_ALARM (R532): The failed-unlock count reaching 10 fires the sensor and resets the count. -/
  | unlockFailureAlarm
  /-- ALARM_LOG_PROGRAM (R538): A latched alarm record is programmed into the alarm log and then cleared. -/
  | alarmLogProgram (ok : Bool)
  /-- CORE_WATCHDOG (R383): A control core that makes no progress for 50 ms fires the core watchdog, sets trouble bit 53 and cause bit 8, and starts a level 2 recovery with replay. -/
  | coreWatchdog
  /-- PERST_DEASSERTED (R54): PERST# rising releases the host side so that the host PHY and the host lanes proceed to Detect, with steps 9 and 10 of R54 moving with it. -/
  | perstDeasserted
  /-- RST_N_HIGH (R54): RST_N returning high with every rail good begins the power-up table again from step 1. -/
  | rstNHigh
  /-- SUPPLY_WARNING_CLEARED (R359): A rail returning above its warning threshold ends the brown-out warning, so programs and erases may start again. -/
  | supplyWarningCleared (rail : Rail) (mv : Nat)
  /-- HOT_RESET (R55): A PCIe hot reset received on the link resets the endpoint as the supported reset type. -/
  | hotReset
  /-- LINK_DISABLE (R55): The host disabling the link resets the endpoint as the supported link-disable reset. -/
  | linkDisable
  /-- L1_2_ENTRY (R553): The link entering L1.2 in PS3 makes the master release CLKREQ# and move the root to the fallback oscillator as a planned move, so that the host may stop REFCLK. -/
  | l12Entry
  /-- TLER_EXPIRY (R69): A host read still unfinished when its TLER limit expires ends with Unrecovered Read Error (81h). -/
  | tlerExpiry (h : Hdr)
  /-- SLEEP_TIMEOUT (R136): A sleep line whose entry conditions of R84 have not held within 2 s ends with err busy. -/
  | sleepTimeout
  /-- MISMATCH_HELLO_TIMER (R391): A tether port in state mismatch sends HELLO every 1 ms. -/
  | mismatchHelloTimer (p : Port)
  /-- PASSWORD_CHECK_COMPLETE (R539): The KEK derivation of about 60 ms ends, and the unlock or password change completes, unlocking or counting a failure, unless an alarm has intervened. -/
  | passwordCheckComplete
  deriving DecidableEq, Repr

end Sys2Proof
end

