-- ==== Sys2Proof/Decode.lean ====
section
/-! DEFINITION. The command that a word spells by the bits of the spec's table of operations.  The device is a block: its commands come
from the host's queues, the console, the other devices, the debugger, the dies and the pins, and no row of the table gives bits
(log entry 5). -/

namespace Sys2Proof

/-- The command a word spells: none, since no row has bits. -/
def decodeTableWord (_nbits _w : Nat) : Option Instr := none

end Sys2Proof
end

