-- ==== Sys2Proof/Config.lean ====
section
/-! DEFINITION. What the spec leaves open (log entry 4) and what it says is particular to a part: constants without a
body.  Nothing can evaluate them, so a statement holds whatever their values are.  Those applied to a counter take
`State.free`, so that two undefined results need not agree. -/

namespace Sys2Proof

/-! ## Fresh undefined values -/

opaque Config.freeByte : Nat → Byte
opaque Config.freeNat : Nat → Nat
opaque Config.freeBool : Nat → Bool

/-! ## The part's own undocumented data -/

/-- Mask ROM (R601), by byte address. -/
opaque Config.romByte : Nat → Byte
/-- A Keeper word never written since its power-on, by power-on count and word index: data, and the flips that its stored
bits stand at from a codeword (R428). -/
opaque Config.garbageData : Nat → Nat → BitVec 64
opaque Config.garbageFlipD : Nat → Nat → BitVec 64
opaque Config.garbageFlipC : Nat → Nat → Byte
/-- What firmware keeps in a Keeper word whose layout the manual does not give (R431, R433). -/
opaque Config.firmwareWord : Nat → Nat → BitVec 64
/-- The part of the syndrome that flipped data bits give through the undocumented check matrix (R420). -/
opaque Config.dataSyndrome : BitVec 64 → Byte
/-- How a word with three or more flipped bits reads (R420): 1 corrected, to this data; otherwise uncorrectable. -/
opaque Config.manyFlipsCorrected : BitVec 64 → Byte → Bool
opaque Config.manyFlipsData : BitVec 64 → BitVec 64 → Byte → BitVec 64

/-- The op words of the standard lists that are mask ROM content particular to the stepping (R605), by slot and variant. -/
opaque Config.romOps : Nat → Bool → List Word
/-- A byte of the encrypted data field, by media key number, tweak and plain field: the key itself never leaves the vault (R226, R227). -/
opaque Config.xtsByte : Nat → List Nat → List Nat → Nat → Byte
/-- A byte of the LDPC parity over bytes 0 to 4127 of a codeword, whose code matrix the manual does not give (R211). -/
opaque Config.ldpcByte : List Nat → Nat → Byte
/-- The PCI Vendor ID, a number PCI-SIG assigned (R56). -/
opaque Config.vendorId : BitVec 16
/-- The stepping's revision number in IDCODE [31:28] (R492, R600). -/
opaque Config.revision : BitVec 4
/-- What a swap record says of the image in a twin (R512), whose form the manual does not give: version word, length and
CRC, by twin and by the free counter. -/
opaque Config.imageVersion : Nat → Nat → Nat
opaque Config.imageLength : Nat → Nat → Nat
opaque Config.imageCrc : Nat → Nat → Nat
/-- A byte of a boot store sector left undefined (R511), by the number of its free value and its offset. -/
opaque Config.bstByte : Nat → Nat → Byte

/-- Whether a mask of Asynchronous Event Configuration enables vendor specific events (R82: the spec names no bit). -/
opaque Config.vendorEvents : Word → Bool

/-- Whether a setting of another device differs from the master's (R412), by the free counter and the setting's number: no frame carries it. -/
opaque Config.chainDiffers : Nat → Nat → Bool

end Sys2Proof
end

