-- ==== Sys2Proof/Machine/Bits.lean ====
section
/-! DEFINITION. Bit fields and byte order (R8) and saturating counters, as the register tables and formats use them. -/

namespace Sys2Proof

/-- Field of `n` bits at bit `lo` of a register. -/
def fld (w : Word) (lo n : Nat) : Nat := (w.toNat >>> lo) % 2 ^ n

/-- The word whose bits [lo + n − 1 : lo] are ones. -/
def fldMask (lo n : Nat) : Word := BitVec.ofNat 32 ((2 ^ n - 1) <<< lo)

/-- The word with the field of `n` bits at bit `lo` set to `v`. -/
def setFld (w : Word) (lo n v : Nat) : Word :=
  (w &&& ~~~(fldMask lo n)) ||| BitVec.ofNat 32 ((v % 2 ^ n) <<< lo)

/-- A counter of `n` bits after `k` more counts, saturating. -/
def satAdd (n a k : Nat) : Nat := min (2 ^ n - 1) (a + k)

/-- The little-endian number of a list of bytes (R8). -/
def leNat : List Nat → Nat
  | [] => 0
  | b :: r => b % 256 + 256 * leNat r

/-- The `n` little-endian bytes of a number (R8). -/
def leBytes : Nat → Nat → List Nat
  | 0, _ => []
  | n + 1, v => v % 256 :: leBytes n (v / 256)

/-- Bit `i` of a number. -/
def bitOf (v i : Nat) : Bool := (v >>> i) % 2 == 1

/-- 1 for true, 0 for false. -/
def b2n (b : Bool) : Nat := if b then 1 else 0

/-- The number of set bits of `v` among its low `n`. -/
def popCount : Nat → Nat → Nat
  | 0, _ => 0
  | n + 1, v => v % 2 + popCount n (v / 2)

/-- Ceiling division. -/
def ceilDiv (a b : Nat) : Nat := (a + b - 1) / b

/-- The base-2 logarithm of a power of two, at most 63. -/
def log2Of (n : Nat) : Nat := Nat.log2 n

/-- The sum of the entries of a list. -/
def sumNat (l : List Nat) : Nat := l.foldl (· + ·) 0

/-- Bytes of an access width (R419). -/
def Width.bytes : Width → Nat
  | .w1 => 1 | .w2 => 2 | .w4 => 4 | .w8 => 8

/-- Words of a Lantern block (R488). -/
def BlkLen.words : BlkLen → Nat
  | .n8 => 8 | .n16 => 16 | .n32 => 32 | .n64 => 64

/-- A twin as the swap records number it (R512). -/
def Twin.num : Twin → Nat
  | .a => 0 | .b => 1

/-- The other twin. -/
def Twin.other : Twin → Twin
  | .a => .b | .b => .a

/-- The galleries, chip-enables and other small index ranges in order. -/
def fins (n : Nat) : List (Fin n) := List.ofFn id

end Sys2Proof
end

