-- ==== Sys2Proof/Machine/Regs.lean ====
section
/-! DEFINITION. The control registers (R9): for each its address (R22), its reset value, its reset level, the bits a write
sets (RW) and the bits a 1 clears (W1C) of R10.  What a register shows when it is not a store of its own, and what a
write does beyond its bits, stand in Machine/RegView.lean and Machine/RegWrite.lean. -/

namespace Sys2Proof

/-- The register blocks of R22. -/
inductive RBlk where
  | sys | front | teth | cdc | map | assay | vault | dma | mpu | kpr | bst | con
  | gal (g : Fin 8)
  deriving DecidableEq, Repr

/-- Every control register of the manual. -/
inductive Reg where
  /-- SYS_STRAP (R49). -/
  | sysStrap
  /-- GAL_CTL (R165). -/
  | galCtl (g : Fin 8)
  /-- GAL_STAT (R166). -/
  | galStat (g : Fin 8)
  /-- GAL_TRAIN_INFO (R167). -/
  | galTrainInfo (g : Fin 8)
  /-- GAL_SUSPECT (R168). -/
  | galSuspect (g : Fin 8)
  /-- GAL_PARITY (R169). -/
  | galParity (g : Fin 8)
  /-- GAL_TMO (R170). -/
  | galTmo (g : Fin 8)
  /-- GAL_WPT_SEL (R171). -/
  | galWptSel (g : Fin 8)
  /-- GAL_WPT_DATA (R172). -/
  | galWptData (g : Fin 8)
  /-- GAL_WPT_LOAD (R173). -/
  | galWptLoad (g : Fin 8)
  /-- GAL_SEQ_SEL (R204). -/
  | galSeqSel (g : Fin 8)
  /-- GAL_SEQ_CTX (R205). -/
  | galSeqCtx (g : Fin 8)
  /-- GAL_SEQ_LAST (R206). -/
  | galSeqLast (g : Fin 8)
  /-- GAL_OPS_ADDR (R207). -/
  | galOpsAddr (g : Fin 8)
  /-- GAL_OPS_DATA (R208). -/
  | galOpsData (g : Fin 8)
  /-- GAL_PROF_ID (R209). -/
  | galProfId (g : Fin 8)
  /-- GAL_RUN_TICKS (R210). -/
  | galRunTicks (g : Fin 8)
  /-- CDC_CTL (R240). -/
  | cdcCtl
  /-- CDC_LANE_STAT (R241). -/
  | cdcLaneStat
  /-- CDC_HARD_CNT (R242). -/
  | cdcHardCnt
  /-- CDC_HARD_BITS (R243). -/
  | cdcHardBits
  /-- CDC_RETRY_CNT (R244). -/
  | cdcRetryCnt
  /-- CDC_SOFT_CNT (R245). -/
  | cdcSoftCnt
  /-- CDC_REBUILD_CNT (R246). -/
  | cdcRebuildCnt
  /-- CDC_UNCORR_CNT (R247). -/
  | cdcUncorrCnt
  /-- CDC_CRC_CNT (R248). -/
  | cdcCrcCnt
  /-- CDC_LANE_TMO (R249). -/
  | cdcLaneTmo
  /-- CDC_HARD_CAP (R250). -/
  | cdcHardCap
  /-- CDC_LAST_UNC (R251). -/
  | cdcLastUnc
  /-- CDC_LAST_UNC_BLK (R252). -/
  | cdcLastUncBlk
  /-- CDC_XTS_STAT (R253). -/
  | cdcXtsStat
  /-- CDC_STRIPE (R254). -/
  | cdcStripe
  /-- ASSAY_CTL (R272). -/
  | assayCtl
  /-- ASSAY_TEMP (R273). -/
  | assayTemp
  /-- ASSAY_PWR (R274). -/
  | assayPwr
  /-- ASSAY_RAIL (R275). -/
  | assayRail
  /-- ASSAY_SEARCH (R276). -/
  | assaySearch
  /-- ASSAY_OFS_BASE (R277). -/
  | assayOfsBase
  /-- ASSAY_OFS_GEOM (R278). -/
  | assayOfsGeom
  /-- GOV_STEP (R279). -/
  | govStep
  /-- GOV_CFG (R280). -/
  | govCfg
  /-- GOV_CAP (R281). -/
  | govCap
  /-- GOV_STANDBY (R282). -/
  | govStandby
  /-- MAP_CTL (R311). -/
  | mapCtl
  /-- MAP_SEQ_LO (R312). -/
  | mapSeqLo
  /-- MAP_SEQ_HI (R313). -/
  | mapSeqHi
  /-- MAP_BLOCKS (R314). -/
  | mapBlocks
  /-- MAP_SUMP_SIZE (R315). -/
  | mapSumpSize
  /-- MAP_SUMP_USED (R316). -/
  | mapSumpUsed
  /-- MAP_LOOKUP_KPR (R317). -/
  | mapLookupKpr
  /-- MAP_LOOKUP_HMB (R318). -/
  | mapLookupHmb
  /-- MAP_LOOKUP_FLASH (R319). -/
  | mapLookupFlash
  /-- MAP_CAS_OK (R320). -/
  | mapCasOk
  /-- MAP_CAS_FAIL (R321). -/
  | mapCasFail
  /-- MAP_RELOC (R322). -/
  | mapReloc
  /-- MAP_SDEAL (R323). -/
  | mapSdeal
  /-- MAP_HMB (R324). -/
  | mapHmb
  /-- MAP_HEALTH (R351). -/
  | mapHealth
  /-- MAP_SPARE (R352). -/
  | mapSpare
  /-- MAP_SPARE_FIRST (R353). -/
  | mapSpareFirst
  /-- MAP_REFRESH (R354). -/
  | mapRefresh
  /-- MAP_RETIRE (R355). -/
  | mapRetire
  /-- MAP_CKPT (R385). -/
  | mapCkpt
  /-- MAP_MOUNT (R386). -/
  | mapMount
  /-- MAP_SCAN (R387). -/
  | mapScan
  /-- TETH_CTL (R413). -/
  | tethCtl
  /-- TETH_TU_STAT (R414). -/
  | tethTuStat
  /-- TETH_TD_STAT (R414). -/
  | tethTdStat
  /-- TETH_TU_ERR (R415). -/
  | tethTuErr
  /-- TETH_TD_ERR (R415). -/
  | tethTdErr
  /-- TETH_CHAIN (R416). -/
  | tethChain
  /-- TETH_CHAIN_ID (R417). -/
  | tethChainId
  /-- KPR_CTL (R434). -/
  | kprCtl
  /-- KPR_STAT (R435). -/
  | kprStat
  /-- KPR_CE_CNT (R436). -/
  | kprCeCnt
  /-- KPR_UE_CNT (R437). -/
  | kprUeCnt
  /-- KPR_PAR_CNT (R438). -/
  | kprParCnt
  /-- KPR_CE_ADDR (R439). -/
  | kprCeAddr
  /-- KPR_UE_ADDR (R440). -/
  | kprUeAddr
  /-- KPR_SYN (R441). -/
  | kprSyn
  /-- KPR_FLIP_LO (R442). -/
  | kprFlipLo
  /-- KPR_FLIP_HI (R443). -/
  | kprFlipHi
  /-- KPR_FLIP_CTL (R444). -/
  | kprFlipCtl
  /-- KPR_FLIP_ADDR (R445). -/
  | kprFlipAddr
  /-- KPR_FLIP_LAST (R446). -/
  | kprFlipLast
  /-- DMA_STAT (R464). -/
  | dmaStat
  /-- DMA_IRQ_EN (R465). -/
  | dmaIrqEn
  /-- DMA_HOP (R466). -/
  | dmaHop
  /-- DMA_BUSERR (R467). -/
  | dmaBuserr
  /-- DMA_BUSERR_ADDR (R468). -/
  | dmaBuserrAddr
  /-- DMA_CHn_SRC (R469). -/
  | dmaChSrc (n : Fin 8)
  /-- DMA_CHn_DST (R469). -/
  | dmaChDst (n : Fin 8)
  /-- DMA_CHn_SLEN (R470). -/
  | dmaChSlen (n : Fin 8)
  /-- DMA_CHn_DLEN (R470). -/
  | dmaChDlen (n : Fin 8)
  /-- DMA_CHn_SSTRIDE (R471). -/
  | dmaChSstride (n : Fin 8)
  /-- DMA_CHn_DSTRIDE (R471). -/
  | dmaChDstride (n : Fin 8)
  /-- DMA_CHn_SLINES (R472). -/
  | dmaChSlines (n : Fin 8)
  /-- DMA_CHn_DLINES (R472). -/
  | dmaChDlines (n : Fin 8)
  /-- DMA_CHn_LINK (R473). -/
  | dmaChLink (n : Fin 8)
  /-- DMA_CHn_CFG (R474). -/
  | dmaChCfg (n : Fin 8)
  /-- DMA_CHn_PATLO (R475). -/
  | dmaChPatlo (n : Fin 8)
  /-- DMA_CHn_PATHI (R475). -/
  | dmaChPathi (n : Fin 8)
  /-- DMA_CHn_CTL (R476). -/
  | dmaChCtl (n : Fin 8)
  /-- DMA_CHn_STAT (R477). -/
  | dmaChStat (n : Fin 8)
  /-- DMA_CHn_DONE (R478). -/
  | dmaChDone (n : Fin 8)
  /-- DMA_CHn_CUR (R479). -/
  | dmaChCur (n : Fin 8)
  /-- MPU_CTL (R494). -/
  | mpuCtl
  /-- MPU_FAULT (R495). -/
  | mpuFault
  /-- MPU_FAULT_ADDR (R496). -/
  | mpuFaultAddr
  /-- MPU_FAULT_CNT (R497). -/
  | mpuFaultCnt
  /-- MPU_RGNn_BASE (R498). -/
  | mpuRgnBase (n : Fin 16)
  /-- MPU_RGNn_ATTR (R499). -/
  | mpuRgnAttr (n : Fin 16)
  /-- BST_STAT (R515). -/
  | bstStat
  /-- BST_TWIN (R516). -/
  | bstTwin
  /-- BST_CM_ADDR (R517). -/
  | bstCmAddr
  /-- BST_CM_DATA (R518). -/
  | bstCmData
  /-- BST_CM_CMD (R519). -/
  | bstCmCmd
  /-- BST_ERR_CNT (R520). -/
  | bstErrCnt
  /-- VAULT_STAT (R540). -/
  | vaultStat
  /-- VAULT_SENSE (R541). -/
  | vaultSense
  /-- VAULT_FUSE (R542). -/
  | vaultFuse
  /-- VAULT_LAST (R543). -/
  | vaultLast
  /-- SYS_STATE (R562). -/
  | sysState
  /-- SYS_PWR (R563). -/
  | sysPwr
  /-- SYS_CLK (R564). -/
  | sysClk
  /-- SYS_SUPPLY (R565). -/
  | sysSupply
  /-- SYS_CAUSE (R566). -/
  | sysCause
  /-- SYS_RST_LAST (R567). -/
  | sysRstLast
  /-- SYS_CAUSE_SNAP (R568). -/
  | sysCauseSnap
  /-- SYS_RSTMAP_LO (R569). -/
  | sysRstmapLo
  /-- SYS_RSTMAP_HI (R569). -/
  | sysRstmapHi
  /-- SYS_RST_REQ (R570). -/
  | sysRstReq
  /-- SYS_TEST (R571). -/
  | sysTest
  /-- SYS_LIFE_LO (R572). -/
  | sysLifeLo
  /-- SYS_LIFE_HI (R572). -/
  | sysLifeHi
  /-- SYS_PATROL (R573). -/
  | sysPatrol
  /-- SYS_PATROL_POS (R574). -/
  | sysPatrolPos
  /-- TRB_LO (R581). -/
  | trbLo
  /-- TRB_HI (R582). -/
  | trbHi
  /-- TRB_SNAP_LO (R583). -/
  | trbSnapLo
  /-- TRB_SNAP_HI (R583). -/
  | trbSnapHi
  /-- TRB_TIME_SEL (R584). -/
  | trbTimeSel
  /-- TRB_TIME (R585). -/
  | trbTime
  deriving DecidableEq, Repr

/-- The control address of a register (R22). -/
def Reg.addr : Reg → Nat
  | .sysStrap => 0x40000060
  | .galCtl g => 0x40100000 + g.val * 0x10000 + 0x0
  | .galStat g => 0x40100000 + g.val * 0x10000 + 0x4
  | .galTrainInfo g => 0x40100000 + g.val * 0x10000 + 0x8
  | .galSuspect g => 0x40100000 + g.val * 0x10000 + 0xC
  | .galParity g => 0x40100000 + g.val * 0x10000 + 0x10
  | .galTmo g => 0x40100000 + g.val * 0x10000 + 0x14
  | .galWptSel g => 0x40100000 + g.val * 0x10000 + 0x20
  | .galWptData g => 0x40100000 + g.val * 0x10000 + 0x24
  | .galWptLoad g => 0x40100000 + g.val * 0x10000 + 0x28
  | .galSeqSel g => 0x40100000 + g.val * 0x10000 + 0x40
  | .galSeqCtx g => 0x40100000 + g.val * 0x10000 + 0x44
  | .galSeqLast g => 0x40100000 + g.val * 0x10000 + 0x48
  | .galOpsAddr g => 0x40100000 + g.val * 0x10000 + 0x50
  | .galOpsData g => 0x40100000 + g.val * 0x10000 + 0x54
  | .galProfId g => 0x40100000 + g.val * 0x10000 + 0x58
  | .galRunTicks g => 0x40100000 + g.val * 0x10000 + 0x5C
  | .cdcCtl => 0x40030000
  | .cdcLaneStat => 0x40030004
  | .cdcHardCnt => 0x40030010
  | .cdcHardBits => 0x40030014
  | .cdcRetryCnt => 0x40030018
  | .cdcSoftCnt => 0x4003001C
  | .cdcRebuildCnt => 0x40030020
  | .cdcUncorrCnt => 0x40030024
  | .cdcCrcCnt => 0x40030028
  | .cdcLaneTmo => 0x4003002C
  | .cdcHardCap => 0x40030030
  | .cdcLastUnc => 0x40030040
  | .cdcLastUncBlk => 0x40030044
  | .cdcXtsStat => 0x40030050
  | .cdcStripe => 0x40030060
  | .assayCtl => 0x40050000
  | .assayTemp => 0x40050004
  | .assayPwr => 0x4005000C
  | .assayRail => 0x40050010
  | .assaySearch => 0x40050014
  | .assayOfsBase => 0x40050018
  | .assayOfsGeom => 0x4005001C
  | .govStep => 0x40050020
  | .govCfg => 0x40050024
  | .govCap => 0x40050028
  | .govStandby => 0x4005002C
  | .mapCtl => 0x40040000
  | .mapSeqLo => 0x40040004
  | .mapSeqHi => 0x40040008
  | .mapBlocks => 0x40040010
  | .mapSumpSize => 0x40040018
  | .mapSumpUsed => 0x4004001C
  | .mapLookupKpr => 0x40040020
  | .mapLookupHmb => 0x40040024
  | .mapLookupFlash => 0x40040028
  | .mapCasOk => 0x40040030
  | .mapCasFail => 0x40040034
  | .mapReloc => 0x40040040
  | .mapSdeal => 0x40040050
  | .mapHmb => 0x40040060
  | .mapHealth => 0x40040070
  | .mapSpare => 0x40040074
  | .mapSpareFirst => 0x40040078
  | .mapRefresh => 0x4004007C
  | .mapRetire => 0x40040080
  | .mapCkpt => 0x40040090
  | .mapMount => 0x40040094
  | .mapScan => 0x40040098
  | .tethCtl => 0x40020000
  | .tethTuStat => 0x40020010
  | .tethTdStat => 0x40020020
  | .tethTuErr => 0x40020014
  | .tethTdErr => 0x40020024
  | .tethChain => 0x40020030
  | .tethChainId => 0x40020034
  | .kprCtl => 0x40090000
  | .kprStat => 0x40090004
  | .kprCeCnt => 0x40090010
  | .kprUeCnt => 0x40090014
  | .kprParCnt => 0x40090018
  | .kprCeAddr => 0x40090020
  | .kprUeAddr => 0x40090024
  | .kprSyn => 0x40090028
  | .kprFlipLo => 0x40090030
  | .kprFlipHi => 0x40090034
  | .kprFlipCtl => 0x40090038
  | .kprFlipAddr => 0x4009003C
  | .kprFlipLast => 0x40090040
  | .dmaStat => 0x40070000
  | .dmaIrqEn => 0x40070004
  | .dmaHop => 0x40070008
  | .dmaBuserr => 0x40070010
  | .dmaBuserrAddr => 0x40070014
  | .dmaChSrc n => 0x40070100 + n.val * 0x40
  | .dmaChDst n => 0x40070110 + n.val * 0x40
  | .dmaChSlen n => 0x40070104 + n.val * 0x40
  | .dmaChDlen n => 0x40070114 + n.val * 0x40
  | .dmaChSstride n => 0x40070108 + n.val * 0x40
  | .dmaChDstride n => 0x40070118 + n.val * 0x40
  | .dmaChSlines n => 0x4007010C + n.val * 0x40
  | .dmaChDlines n => 0x4007011C + n.val * 0x40
  | .dmaChLink n => 0x40070120 + n.val * 0x40
  | .dmaChCfg n => 0x40070124 + n.val * 0x40
  | .dmaChPatlo n => 0x40070128 + n.val * 0x40
  | .dmaChPathi n => 0x4007012C + n.val * 0x40
  | .dmaChCtl n => 0x40070130 + n.val * 0x40
  | .dmaChStat n => 0x40070134 + n.val * 0x40
  | .dmaChDone n => 0x40070138 + n.val * 0x40
  | .dmaChCur n => 0x4007013C + n.val * 0x40
  | .mpuCtl => 0x40080000
  | .mpuFault => 0x40080010
  | .mpuFaultAddr => 0x40080014
  | .mpuFaultCnt => 0x40080018
  | .mpuRgnBase n => 0x40080100 + n.val * 8
  | .mpuRgnAttr n => 0x40080104 + n.val * 8
  | .bstStat => 0x400A0000
  | .bstTwin => 0x400A0004
  | .bstCmAddr => 0x400A0010
  | .bstCmData => 0x400A0014
  | .bstCmCmd => 0x400A0018
  | .bstErrCnt => 0x400A0020
  | .vaultStat => 0x40060000
  | .vaultSense => 0x40060004
  | .vaultFuse => 0x40060008
  | .vaultLast => 0x4006000C
  | .sysState => 0x40000000
  | .sysPwr => 0x40000010
  | .sysClk => 0x40000020
  | .sysSupply => 0x40000030
  | .sysCause => 0x40000080
  | .sysRstLast => 0x40000084
  | .sysCauseSnap => 0x40000088
  | .sysRstmapLo => 0x40000090
  | .sysRstmapHi => 0x40000094
  | .sysRstReq => 0x400000A0
  | .sysTest => 0x400000B0
  | .sysLifeLo => 0x400000C0
  | .sysLifeHi => 0x400000C4
  | .sysPatrol => 0x400000D0
  | .sysPatrolPos => 0x400000D4
  | .trbLo => 0x40000100
  | .trbHi => 0x40000104
  | .trbSnapLo => 0x40000108
  | .trbSnapHi => 0x4000010C
  | .trbTimeSel => 0x40000110
  | .trbTime => 0x40000114

/-- The reset value of a register; those loaded from fuses or the key array are computed where they are read. -/
def Reg.resetValue : Reg → Word
  | .cdcCtl => 0x1001
  | .cdcHardCap => 0x127
  | .assayCtl => 0x640001
  | .govStep => 0x8000
  | .govCfg => 0x695F5F
  | .govCap => 0x1F40
  | .govStandby => 0x7D0
  | .mapCtl => 0x2
  | .kprCtl => 0x2
  | .dmaIrqEn => 0xFFFF
  | .dmaHop => 0x1000
  | .sysPwr => 0x7F
  | .sysPatrol => 0x108
  | _ => 0

/-- The highest-numbered reset level that restores the register (R9). -/
def Reg.level : Reg → Nat
  | .sysStrap => 0
  | .galCtl _ => 4
  | .galStat _ => 4
  | .galTrainInfo _ => 4
  | .galSuspect _ => 1
  | .galParity _ => 4
  | .galTmo _ => 4
  | .galWptSel _ => 4
  | .galWptData _ => 4
  | .galWptLoad _ => 4
  | .galSeqSel _ => 4
  | .galSeqCtx _ => 4
  | .galSeqLast _ => 4
  | .galOpsAddr _ => 4
  | .galOpsData _ => 4
  | .galProfId _ => 1
  | .galRunTicks _ => 4
  | .cdcCtl => 2
  | .cdcLaneStat => 2
  | .cdcHardCnt => 2
  | .cdcHardBits => 2
  | .cdcRetryCnt => 2
  | .cdcSoftCnt => 2
  | .cdcRebuildCnt => 2
  | .cdcUncorrCnt => 2
  | .cdcCrcCnt => 2
  | .cdcLaneTmo => 2
  | .cdcHardCap => 0
  | .cdcLastUnc => 2
  | .cdcLastUncBlk => 2
  | .cdcXtsStat => 2
  | .cdcStripe => 2
  | .assayCtl => 2
  | .assayTemp => 2
  | .assayPwr => 2
  | .assayRail => 2
  | .assaySearch => 2
  | .assayOfsBase => 1
  | .assayOfsGeom => 1
  | .govStep => 2
  | .govCfg => 2
  | .govCap => 2
  | .govStandby => 2
  | .mapCtl => 2
  | .mapSeqLo => 2
  | .mapSeqHi => 2
  | .mapBlocks => 2
  | .mapSumpSize => 2
  | .mapSumpUsed => 2
  | .mapLookupKpr => 2
  | .mapLookupHmb => 2
  | .mapLookupFlash => 2
  | .mapCasOk => 2
  | .mapCasFail => 2
  | .mapReloc => 2
  | .mapSdeal => 2
  | .mapHmb => 3
  | .mapHealth => 2
  | .mapSpare => 2
  | .mapSpareFirst => 2
  | .mapRefresh => 2
  | .mapRetire => 2
  | .mapCkpt => 2
  | .mapMount => 2
  | .mapScan => 2
  | .tethCtl => 2
  | .tethTuStat => 4
  | .tethTdStat => 4
  | .tethTuErr => 4
  | .tethTdErr => 4
  | .tethChain => 1
  | .tethChainId => 1
  | .kprCtl => 2
  | .kprStat => 2
  | .kprCeCnt => 2
  | .kprUeCnt => 2
  | .kprParCnt => 2
  | .kprCeAddr => 2
  | .kprUeAddr => 2
  | .kprSyn => 2
  | .kprFlipLo => 2
  | .kprFlipHi => 2
  | .kprFlipCtl => 2
  | .kprFlipAddr => 2
  | .kprFlipLast => 2
  | .dmaStat => 2
  | .dmaIrqEn => 2
  | .dmaHop => 2
  | .dmaBuserr => 2
  | .dmaBuserrAddr => 2
  | .dmaChSrc _ => 4
  | .dmaChDst _ => 4
  | .dmaChSlen _ => 4
  | .dmaChDlen _ => 4
  | .dmaChSstride _ => 4
  | .dmaChDstride _ => 4
  | .dmaChSlines _ => 4
  | .dmaChDlines _ => 4
  | .dmaChLink _ => 4
  | .dmaChCfg _ => 4
  | .dmaChPatlo _ => 4
  | .dmaChPathi _ => 4
  | .dmaChCtl _ => 4
  | .dmaChStat _ => 4
  | .dmaChDone _ => 4
  | .dmaChCur _ => 4
  | .mpuCtl => 2
  | .mpuFault => 2
  | .mpuFaultAddr => 2
  | .mpuFaultCnt => 2
  | .mpuRgnBase _ => 2
  | .mpuRgnAttr _ => 2
  | .bstStat => 2
  | .bstTwin => 2
  | .bstCmAddr => 2
  | .bstCmData => 2
  | .bstCmCmd => 2
  | .bstErrCnt => 1
  | .vaultStat => 0
  | .vaultSense => 0
  | .vaultFuse => 0
  | .vaultLast => 0
  | .sysState => 2
  | .sysPwr => 1
  | .sysClk => 1
  | .sysSupply => 0
  | .sysCause => 0
  | .sysRstLast => 0
  | .sysCauseSnap => 0
  | .sysRstmapLo => 0
  | .sysRstmapHi => 0
  | .sysRstReq => 2
  | .sysTest => 2
  | .sysLifeLo => 0
  | .sysLifeHi => 0
  | .sysPatrol => 0
  | .sysPatrolPos => 0
  | .trbLo => 0
  | .trbHi => 0
  | .trbSnapLo => 0
  | .trbSnapHi => 0
  | .trbTimeSel => 0
  | .trbTime => 0

/-- The bits a write sets (access code RW, R10). -/
def Reg.rw : Reg → Word
  | .galCtl _ => 0xFFF01
  | .galWptSel _ => 0x7F
  | .galSeqSel _ => 0x3F
  | .galOpsAddr _ => 0xFFF
  | .cdcCtl => 0x1F01
  | .assayCtl => 0x3FFF0001
  | .govCfg => 0xFF
  | .govCap => 0xFFFFFFFF
  | .govStandby => 0x1FFFF
  | .mapCtl => 0xF
  | .tethCtl => 0x3
  | .kprCtl => 0x3
  | .kprFlipLo => 0xFFFFFFFF
  | .kprFlipHi => 0xFFFFFFFF
  | .kprFlipCtl => 0x2FF
  | .kprFlipAddr => 0x1FFFFF8
  | .dmaIrqEn => 0xFFFF
  | .dmaHop => 0xFFFF
  | .dmaChSrc _ => 0xFFFFFFFF
  | .dmaChDst _ => 0xFFFFFFFF
  | .dmaChSlen _ => 0xFFFFFF
  | .dmaChDlen _ => 0xFFFFFF
  | .dmaChSstride _ => 0xFFFFFFFF
  | .dmaChDstride _ => 0xFFFFFFFF
  | .dmaChSlines _ => 0xFFFF
  | .dmaChDlines _ => 0xFFFF
  | .dmaChLink _ => 0xFFFFFFFF
  | .dmaChCfg _ => 0xF
  | .dmaChPatlo _ => 0xFFFFFFFF
  | .dmaChPathi _ => 0xFFFFFFFF
  | .dmaChCtl _ => 0xC
  | .mpuCtl => 0x6
  | .mpuRgnBase _ => 0xFFFFFF00
  | .mpuRgnAttr _ => 0x3F1F
  | .bstCmAddr => 0xFFFFFFFF
  | .bstCmData => 0xFFFFFFFF
  | .sysRstReq => 0x1F7
  | .sysPatrol => 0x1FF
  | .trbTimeSel => 0x3F
  | _ => 0

/-- The bits a written 1 clears (access code W1C, R10). -/
def Reg.w1c : Reg → Word
  | .galSuspect _ => 0xFFFF
  | .dmaStat => 0xFFFF00
  | .dmaBuserr => 0x1
  | .mpuCtl => 0x10
  | .mpuFault => 0x1
  | .bstCmCmd => 0xC
  | .sysCause => 0x1FFF
  | .sysRstReq => 0x400
  | .trbLo => 0x7F3FFF3F
  | .trbHi => 0x7F7F1F3F
  | _ => 0

/-- The bits a written 1 asks an action of (access code SC, R10). -/
def Reg.sc : Reg → Word
  | .galCtl _ => 0x2
  | .tethCtl => 0xC
  | .kprFlipCtl => 0x100
  | .dmaChCtl _ => 0x3
  | .mpuCtl => 0x1
  | .bstCmCmd => 0x3
  | .sysRstReq => 0x200
  | .sysTest => 0x1F
  | _ => 0

/-- The block a register belongs to (R22). -/
def Reg.blk : Reg → RBlk
  | .sysStrap => .sys
  | .galCtl g => .gal g
  | .galStat g => .gal g
  | .galTrainInfo g => .gal g
  | .galSuspect g => .gal g
  | .galParity g => .gal g
  | .galTmo g => .gal g
  | .galWptSel g => .gal g
  | .galWptData g => .gal g
  | .galWptLoad g => .gal g
  | .galSeqSel g => .gal g
  | .galSeqCtx g => .gal g
  | .galSeqLast g => .gal g
  | .galOpsAddr g => .gal g
  | .galOpsData g => .gal g
  | .galProfId g => .gal g
  | .galRunTicks g => .gal g
  | .cdcCtl => .cdc
  | .cdcLaneStat => .cdc
  | .cdcHardCnt => .cdc
  | .cdcHardBits => .cdc
  | .cdcRetryCnt => .cdc
  | .cdcSoftCnt => .cdc
  | .cdcRebuildCnt => .cdc
  | .cdcUncorrCnt => .cdc
  | .cdcCrcCnt => .cdc
  | .cdcLaneTmo => .cdc
  | .cdcHardCap => .cdc
  | .cdcLastUnc => .cdc
  | .cdcLastUncBlk => .cdc
  | .cdcXtsStat => .cdc
  | .cdcStripe => .cdc
  | .assayCtl => .assay
  | .assayTemp => .assay
  | .assayPwr => .assay
  | .assayRail => .assay
  | .assaySearch => .assay
  | .assayOfsBase => .assay
  | .assayOfsGeom => .assay
  | .govStep => .assay
  | .govCfg => .assay
  | .govCap => .assay
  | .govStandby => .assay
  | .mapCtl => .map
  | .mapSeqLo => .map
  | .mapSeqHi => .map
  | .mapBlocks => .map
  | .mapSumpSize => .map
  | .mapSumpUsed => .map
  | .mapLookupKpr => .map
  | .mapLookupHmb => .map
  | .mapLookupFlash => .map
  | .mapCasOk => .map
  | .mapCasFail => .map
  | .mapReloc => .map
  | .mapSdeal => .map
  | .mapHmb => .map
  | .mapHealth => .map
  | .mapSpare => .map
  | .mapSpareFirst => .map
  | .mapRefresh => .map
  | .mapRetire => .map
  | .mapCkpt => .map
  | .mapMount => .map
  | .mapScan => .map
  | .tethCtl => .teth
  | .tethTuStat => .teth
  | .tethTdStat => .teth
  | .tethTuErr => .teth
  | .tethTdErr => .teth
  | .tethChain => .teth
  | .tethChainId => .teth
  | .kprCtl => .kpr
  | .kprStat => .kpr
  | .kprCeCnt => .kpr
  | .kprUeCnt => .kpr
  | .kprParCnt => .kpr
  | .kprCeAddr => .kpr
  | .kprUeAddr => .kpr
  | .kprSyn => .kpr
  | .kprFlipLo => .kpr
  | .kprFlipHi => .kpr
  | .kprFlipCtl => .kpr
  | .kprFlipAddr => .kpr
  | .kprFlipLast => .kpr
  | .dmaStat => .dma
  | .dmaIrqEn => .dma
  | .dmaHop => .dma
  | .dmaBuserr => .dma
  | .dmaBuserrAddr => .dma
  | .dmaChSrc _ => .dma
  | .dmaChDst _ => .dma
  | .dmaChSlen _ => .dma
  | .dmaChDlen _ => .dma
  | .dmaChSstride _ => .dma
  | .dmaChDstride _ => .dma
  | .dmaChSlines _ => .dma
  | .dmaChDlines _ => .dma
  | .dmaChLink _ => .dma
  | .dmaChCfg _ => .dma
  | .dmaChPatlo _ => .dma
  | .dmaChPathi _ => .dma
  | .dmaChCtl _ => .dma
  | .dmaChStat _ => .dma
  | .dmaChDone _ => .dma
  | .dmaChCur _ => .dma
  | .mpuCtl => .mpu
  | .mpuFault => .mpu
  | .mpuFaultAddr => .mpu
  | .mpuFaultCnt => .mpu
  | .mpuRgnBase _ => .mpu
  | .mpuRgnAttr _ => .mpu
  | .bstStat => .bst
  | .bstTwin => .bst
  | .bstCmAddr => .bst
  | .bstCmData => .bst
  | .bstCmCmd => .bst
  | .bstErrCnt => .bst
  | .vaultStat => .vault
  | .vaultSense => .vault
  | .vaultFuse => .vault
  | .vaultLast => .vault
  | .sysState => .sys
  | .sysPwr => .sys
  | .sysClk => .sys
  | .sysSupply => .sys
  | .sysCause => .sys
  | .sysRstLast => .sys
  | .sysCauseSnap => .sys
  | .sysRstmapLo => .sys
  | .sysRstmapHi => .sys
  | .sysRstReq => .sys
  | .sysTest => .sys
  | .sysLifeLo => .sys
  | .sysLifeHi => .sys
  | .sysPatrol => .sys
  | .sysPatrolPos => .sys
  | .trbLo => .sys
  | .trbHi => .sys
  | .trbSnapLo => .sys
  | .trbSnapHi => .sys
  | .trbTimeSel => .sys
  | .trbTime => .sys

/-- The register of gallery `g` at an offset of its block. -/
def Reg.ofGalOff (g : Fin 8) (off : Nat) : Option Reg :=
  match off with
  | 0x0 => some (.galCtl g)
  | 0x4 => some (.galStat g)
  | 0x8 => some (.galTrainInfo g)
  | 0xC => some (.galSuspect g)
  | 0x10 => some (.galParity g)
  | 0x14 => some (.galTmo g)
  | 0x20 => some (.galWptSel g)
  | 0x24 => some (.galWptData g)
  | 0x28 => some (.galWptLoad g)
  | 0x40 => some (.galSeqSel g)
  | 0x44 => some (.galSeqCtx g)
  | 0x48 => some (.galSeqLast g)
  | 0x50 => some (.galOpsAddr g)
  | 0x54 => some (.galOpsData g)
  | 0x58 => some (.galProfId g)
  | 0x5C => some (.galRunTicks g)
  | _ => none

/-- The register of DMA channel `n` at an offset of its 0x40 bytes. -/
def Reg.ofDmaOff (n : Fin 8) (off : Nat) : Option Reg :=
  match off with
  | 0x0 => some (.dmaChSrc n)
  | 0x10 => some (.dmaChDst n)
  | 0x4 => some (.dmaChSlen n)
  | 0x14 => some (.dmaChDlen n)
  | 0x8 => some (.dmaChSstride n)
  | 0x18 => some (.dmaChDstride n)
  | 0xC => some (.dmaChSlines n)
  | 0x1C => some (.dmaChDlines n)
  | 0x20 => some (.dmaChLink n)
  | 0x24 => some (.dmaChCfg n)
  | 0x28 => some (.dmaChPatlo n)
  | 0x2C => some (.dmaChPathi n)
  | 0x30 => some (.dmaChCtl n)
  | 0x34 => some (.dmaChStat n)
  | 0x38 => some (.dmaChDone n)
  | 0x3C => some (.dmaChCur n)
  | _ => none

/-- The register with no index at a control address. -/
def Reg.ofFixed (a : Nat) : Option Reg :=
  match a with
  | 0x40000060 => some .sysStrap
  | 0x40030000 => some .cdcCtl
  | 0x40030004 => some .cdcLaneStat
  | 0x40030010 => some .cdcHardCnt
  | 0x40030014 => some .cdcHardBits
  | 0x40030018 => some .cdcRetryCnt
  | 0x4003001C => some .cdcSoftCnt
  | 0x40030020 => some .cdcRebuildCnt
  | 0x40030024 => some .cdcUncorrCnt
  | 0x40030028 => some .cdcCrcCnt
  | 0x4003002C => some .cdcLaneTmo
  | 0x40030030 => some .cdcHardCap
  | 0x40030040 => some .cdcLastUnc
  | 0x40030044 => some .cdcLastUncBlk
  | 0x40030050 => some .cdcXtsStat
  | 0x40030060 => some .cdcStripe
  | 0x40050000 => some .assayCtl
  | 0x40050004 => some .assayTemp
  | 0x4005000C => some .assayPwr
  | 0x40050010 => some .assayRail
  | 0x40050014 => some .assaySearch
  | 0x40050018 => some .assayOfsBase
  | 0x4005001C => some .assayOfsGeom
  | 0x40050020 => some .govStep
  | 0x40050024 => some .govCfg
  | 0x40050028 => some .govCap
  | 0x4005002C => some .govStandby
  | 0x40040000 => some .mapCtl
  | 0x40040004 => some .mapSeqLo
  | 0x40040008 => some .mapSeqHi
  | 0x40040010 => some .mapBlocks
  | 0x40040018 => some .mapSumpSize
  | 0x4004001C => some .mapSumpUsed
  | 0x40040020 => some .mapLookupKpr
  | 0x40040024 => some .mapLookupHmb
  | 0x40040028 => some .mapLookupFlash
  | 0x40040030 => some .mapCasOk
  | 0x40040034 => some .mapCasFail
  | 0x40040040 => some .mapReloc
  | 0x40040050 => some .mapSdeal
  | 0x40040060 => some .mapHmb
  | 0x40040070 => some .mapHealth
  | 0x40040074 => some .mapSpare
  | 0x40040078 => some .mapSpareFirst
  | 0x4004007C => some .mapRefresh
  | 0x40040080 => some .mapRetire
  | 0x40040090 => some .mapCkpt
  | 0x40040094 => some .mapMount
  | 0x40040098 => some .mapScan
  | 0x40020000 => some .tethCtl
  | 0x40020010 => some .tethTuStat
  | 0x40020020 => some .tethTdStat
  | 0x40020014 => some .tethTuErr
  | 0x40020024 => some .tethTdErr
  | 0x40020030 => some .tethChain
  | 0x40020034 => some .tethChainId
  | 0x40090000 => some .kprCtl
  | 0x40090004 => some .kprStat
  | 0x40090010 => some .kprCeCnt
  | 0x40090014 => some .kprUeCnt
  | 0x40090018 => some .kprParCnt
  | 0x40090020 => some .kprCeAddr
  | 0x40090024 => some .kprUeAddr
  | 0x40090028 => some .kprSyn
  | 0x40090030 => some .kprFlipLo
  | 0x40090034 => some .kprFlipHi
  | 0x40090038 => some .kprFlipCtl
  | 0x4009003C => some .kprFlipAddr
  | 0x40090040 => some .kprFlipLast
  | 0x40070000 => some .dmaStat
  | 0x40070004 => some .dmaIrqEn
  | 0x40070008 => some .dmaHop
  | 0x40070010 => some .dmaBuserr
  | 0x40070014 => some .dmaBuserrAddr
  | 0x40080000 => some .mpuCtl
  | 0x40080010 => some .mpuFault
  | 0x40080014 => some .mpuFaultAddr
  | 0x40080018 => some .mpuFaultCnt
  | 0x400A0000 => some .bstStat
  | 0x400A0004 => some .bstTwin
  | 0x400A0010 => some .bstCmAddr
  | 0x400A0014 => some .bstCmData
  | 0x400A0018 => some .bstCmCmd
  | 0x400A0020 => some .bstErrCnt
  | 0x40060000 => some .vaultStat
  | 0x40060004 => some .vaultSense
  | 0x40060008 => some .vaultFuse
  | 0x4006000C => some .vaultLast
  | 0x40000000 => some .sysState
  | 0x40000010 => some .sysPwr
  | 0x40000020 => some .sysClk
  | 0x40000030 => some .sysSupply
  | 0x40000080 => some .sysCause
  | 0x40000084 => some .sysRstLast
  | 0x40000088 => some .sysCauseSnap
  | 0x40000090 => some .sysRstmapLo
  | 0x40000094 => some .sysRstmapHi
  | 0x400000A0 => some .sysRstReq
  | 0x400000B0 => some .sysTest
  | 0x400000C0 => some .sysLifeLo
  | 0x400000C4 => some .sysLifeHi
  | 0x400000D0 => some .sysPatrol
  | 0x400000D4 => some .sysPatrolPos
  | 0x40000100 => some .trbLo
  | 0x40000104 => some .trbHi
  | 0x40000108 => some .trbSnapLo
  | 0x4000010C => some .trbSnapHi
  | 0x40000110 => some .trbTimeSel
  | 0x40000114 => some .trbTime
  | _ => none

/-- The register at a control address, if one is assigned there. -/
def Reg.ofAddr (a : Nat) : Option Reg :=
  if h : 0x40100000 ≤ a ∧ a < 0x40180000 then Reg.ofGalOff ⟨(a - 0x40100000) / 0x10000, by omega⟩ (a % 0x10000)
  else if h : 0x40070100 ≤ a ∧ a < 0x40070300 then Reg.ofDmaOff ⟨(a - 0x40070100) / 0x40, by omega⟩ (a % 0x40)
  else if h : 0x40080100 ≤ a ∧ a < 0x40080180 then
    if a % 8 = 0 then some (.mpuRgnBase ⟨(a - 0x40080100) / 8, by omega⟩)
    else if a % 8 = 4 then some (.mpuRgnAttr ⟨(a - 0x40080100) / 8, by omega⟩) else none
  else Reg.ofFixed a

/-- What a register holds when nothing has been written to it, by address. -/
def regDefault (a : Nat) : Word :=
  match Reg.ofAddr a with
  | some r => r.resetValue
  | none => 0

end Sys2Proof
end

