-- ==== Sys2Proof/Machine/State.lean ====
section
/-! DEFINITION. The state of one OR-8G48: every register, memory, queue, counter, mode and pin the spec gives the
device, the dies on its galleries as far as the device has written them (log entry 6), and the queue of waiting
commands.  Plain data throughout.  `State.reset` is the device at the assertion of its power-on reset. -/

namespace Sys2Proof.Machine

/-! ## Why a step could stop -/

/-- A step of this model never faults: the spec gives every command an outcome of its own (a status, an error
line, a response flag, a trouble bit).  No meaning raises a fault. -/
inductive Fault where
  /-- Raised by nobody; it names the case of a command the spec gives no outcome (there is none). Safe. -/
  | noOutcome
  deriving DecidableEq, Repr

/-- Why a command has no meaning. -/
inductive Refusal where
  /-- A row of the table that has no meaning yet. Safe: nothing can be proved of the command. -/
  | notModelled (mnemonic : String)
  deriving DecidableEq, Repr

/-! ## System controller: reset, clocks, power, strap, trouble word, history (chapters 2, 19, 20) -/

/-- SYS_STATE (R116). -/
inductive SysState where
  | boot | service | test | recovery
  deriving DecidableEq, Repr

/-- The host lanes (R51, R578): electrical idle, Detect, link up, link in L1.2, link disabled. -/
inductive HostLanes where
  | idle | detect | up | l12 | disabled
  deriving DecidableEq, Repr

/-- The one-time fuses (R56, R344, R487, R533, R546); a blank fuse reads 0. -/
structure Fuses where
  rstmap : BitVec 39 := 0
  alarm : BitVec 10 := 0
  sparePct : Nat := 0
  ssvid : BitVec 16 := 0
  ssid : BitVec 16 := 0
  lanternOff : Bool := false
  deriving DecidableEq, Repr

/-- The temperature history of log page C1h (R79, R271): bins, seconds at or above the throttle temperature, seconds with
a governor step, trips, extremes, the 64 hourly maxima newest first and the maximum of the hour under way. -/
structure TempHist where
  bins : List Nat := List.replicate 32 0
  throttleSecs : Nat := 0
  stepSecs : Nat := 0
  trips : Nat := 0
  highest : Int := 0
  lowest : Int := 0
  hourly : List Int := List.replicate 64 0
  hourMax : Option Int := none
  deriving DecidableEq, Repr

/-- The system controller. -/
structure Sys where
  st : SysState := .boot
  /-- the rails in mV, in the order of R565 -/
  railMv : Vector Nat 5 := Vector.replicate 5 0
  railsGood : Bool := false
  rstN : Bool := true
  perst : Bool := true
  refclk : Bool := false
  clkreqHost : Bool := false
  clkreqOut : Bool := false
  pullUp : Bool := false
  aonGood : Bool := false
  strapped : Bool := false
  lanes : HostLanes := .idle
  /-- the tether ports may train: HCLK released and the role known (R51, R390) -/
  tethGo : Bool := false
  /-- the reset level held or releasing, if any -/
  rst : Option Nat := none
  /-- the clock domains the reset in progress has yet to release, in order (R548) -/
  toRelease : List Clk := []
  released : BitVec 5 := 0
  /-- a level 2 request waiting for a level 3 reset to end, by its source (R549) -/
  after3 : Option Nat := none
  /-- a level 3 request that arrived during a level 2 reset, by its source (R549) -/
  after2 : Option Nat := none
  /-- device lifetime seconds at the last reset (R81) -/
  resetLife : Nat := 0
  /-- a thermal-trip reset is held until the always-on sensor reads below 110 °C (R269) -/
  tripHold : Bool := false
  /-- firmware runs from a twin; `rom` when neither twin passed and mask ROM serves the console (R513) -/
  fw : Bool := false
  rom : Bool := false
  /-- the clock domains force-released before clock-good, whose blocks are undefined (R550) -/
  forced : BitVec 5 := 0
  trouble : BitVec 64 := 0
  trbTime : Store Word := []
  life : Nat := 0
  lifeMs : Nat := 0
  /-- lifetime seconds spent in `service` since the last level 0 reset (R336) -/
  svcSecs : Nat := 0
  fuses : Fuses := {}
  /-- powered domains: AON, RET, CTL, HOST, CODEC, GALA, GALB, TETH (R563) -/
  doms : BitVec 8 := 0x7F
  ps : Fin 5 := 0
  lastOp : Fin 5 := 0
  /-- the non-operational state asked for and not yet entered -/
  psWant : Option (Fin 5) := none
  /-- an exit from PS4 has begun (R85) -/
  waking : Bool := false
  hist : TempHist := {}
  histSaved : TempHist := {}
  histDue : Bool := false
  /-- lifetime second of the last patrol wake or `run patrol`, and of the last PS4 entry (R558) -/
  lastPatrol : Nat := 0
  ps4At : Nat := 0
  deriving DecidableEq, Repr

/-! ## Front: the NVMe controller and the host link (chapter 3) -/

/-- A completion queue entry as posted, with the data the command returned. -/
inductive Payload where
  | none
  | bytes (b : List Nat)
  | sectors (d : List Sector)
  | fields (f : List (String × Nat))
  | list (l : List Nat)
  deriving DecidableEq, Repr

/-- A posted completion: queue, identifier, status type and code, Do Not Retry, DW0, returned data. -/
structure Completion where
  hdr : Hdr
  sct : Nat := 0
  sc : Nat := 0
  dnr : Bool := false
  dw0 : Nat := 0
  data : Payload := .none
  deriving DecidableEq, Repr

structure SubQueue where
  size : Nat
  cq : Nat
  head : Nat
  tail : Nat
  deriving DecidableEq, Repr

structure ComQueue where
  size : Nat
  iv : Nat
  tail : Nat
  head : Nat
  deriving DecidableEq, Repr

/-- One logical sector of a read or verify in its context: waiting for a codeword read, holding data, or failed. -/
inductive Slot where
  | wait (op : Nat)
  | data (d : Sector)
  | failed
  deriving DecidableEq, Repr

/-- A command context (R64): the command as fetched, whether its own step has started it, its read slots, the number
of sectors not yet committed, the parts outstanding on other devices, and the first failing LBA. -/
structure Ctx where
  hdr : Hdr
  cmd : Option Instr := none
  started : Bool := false
  slots : List Slot := []
  uncommitted : Nat := 0
  parts : List (BitVec 16 × Nat) := []
  status : Nat × Nat × Bool := (0, 0, false)
  failLba : Option Nat := none
  /-- the first LBA of each sector that failed (R396) -/
  fails : List Nat := []
  /-- a Flush waits for every staged sector numbered below this (R27) -/
  upTo : Option Nat := none
  deriving DecidableEq, Repr

/-- One sector in write staging (R23, R26, R358): its command if a completion waits on it, whether its completion was
posted (cached), whether it was found damaged (R229), and the allocation made for it. -/
structure Staged where
  id : Nat
  hdr : Option Hdr
  ns : Fin 8
  lba : Nat
  dsec : Nat
  data : Sector
  cached : Bool
  damaged : Bool := false
  alloc : Option Nat := none
  /-- a 512 B partial write waits for its sector's old data (R302): the LBAs it covers, and whether it has merged -/
  partialMask : Option (List Bool) := none
  /-- merged, and its sector locked until it commits (R302) -/
  locked : Bool := false
  deriving DecidableEq, Repr

/-- The features of R69 that the host sets; the write cache, APST and power state live in settings and `Sys`. -/
structure Features where
  arbBurst : Nat := 3
  /-- over and under thresholds in kelvin for the composite, sensor 1 and sensor 2 -/
  overK : Vector Nat 3 := Vector.replicate 3 0xFFFF
  underK : Vector Nat 3 := Vector.replicate 3 0
  tler : Nat := 0
  nsq : Nat := 127
  ncq : Nat := 127
  coalThr : Nat := 0
  coalTime : Nat := 0
  /-- vectors whose coalescing is disabled -/
  coalOff : List Nat := []
  dn : Bool := false
  aec : Word := 0
  tmt1 : Nat := 0
  tmt2 : Nat := 0
  deriving DecidableEq, Repr

/-- An asynchronous event: type, information, log page (R82). -/
structure AsyncEvent where
  kind : Nat
  info : Nat
  page : Nat
  deriving DecidableEq, Repr

structure ErrEntry where
  count : Nat
  hdr : Hdr
  sc : Nat
  sct : Nat
  lba : Nat
  nsid : Nat
  deriving DecidableEq, Repr

/-- SMART counters of R350. -/
structure Smart where
  /-- logical sectors of 4096 B, and pieces of 512 B, moved for the host -/
  sectorsRead : Nat := 0
  sectorsWritten : Nat := 0
  unitsRead : Nat := 0
  unitsWritten : Nat := 0
  readCmds : Nat := 0
  writeCmds : Nat := 0
  busySecs : Nat := 0
  powerCycles : Nat := 0
  onSecs : Nat := 0
  unsafeShutdowns : Nat := 0
  mediaErrors : Nat := 0
  errEntries : Nat := 0
  warnSecs : Nat := 0
  critSecs : Nat := 0
  t1Count : Nat := 0
  t2Count : Nat := 0
  t1Secs : Nat := 0
  t2Secs : Nat := 0
  deriving DecidableEq, Repr

inductive Sanitize where
  | never | crypto | block | done | failed
  deriving DecidableEq, Repr

/-- A run of contiguous reads of one namespace (R86) and the speculative sectors read ahead for it: device sector, data,
extent generation when read (R87). -/
structure ReadAhead where
  ns : Fin 8
  next : Nat
  run : Nat
  held : List (Nat × Sector × Nat)
  /-- namespace sectors asked of other devices -/
  asked : List Nat := []
  /-- held device sectors whose data fails Front's check when it leaves the Keeper for the host (R230) -/
  spoilt : List Nat := []
  deriving DecidableEq, Repr

inductive Ltr where
  | us100 | ms3 | max
  deriving DecidableEq, Repr

/-- An entry of the MSI-X table (R58); every vector is masked at reset. -/
structure MsixEntry where
  addr : BitVec 64 := 0
  data : Word := 0
  mask : Bool := true
  deriving DecidableEq, Repr

/-- The PCIe endpoint: what its configuration space holds beside fixed values, the MSI-X table and pending bits, the INTx line, and the header
of the first error (R55, R58). -/
structure Pcie where
  intxOff : Bool := false
  bar : BitVec 64 := 0
  /-- payload and read request sizes as coded in Device Control -/
  mps : Nat := 0
  mrrs : Nat := 2
  msixOn : Bool := false
  msixMask : Bool := false
  d3hot : Bool := false
  msix : Store MsixEntry := []
  pba : List Nat := []
  intx : Bool := false
  aerUncorr : Word := 0
  aerCorr : Word := 0
  aerHeader : Option (List Word) := none
  deriving DecidableEq, Repr

structure Front where
  pcie : Pcie := {}
  /-- AQA, ASQ, ACQ, CC.MPS and the INTx mask as the host wrote them (R59, R63) -/
  aqa : Word := 0x0FFF0FFF
  asq : BitVec 64 := 0
  acq : BitVec 64 := 0
  ccMps : BitVec 4 := 0
  intMask : Word := 0
  en : Bool := false
  crime : Bool := false
  shn : BitVec 2 := 0
  rdy : Bool := false
  /-- the controller has been disabled: RDY clears once nothing passed to the Map engine remains (R61) -/
  leaving : Bool := false
  shst : BitVec 2 := 0
  sqs : Store SubQueue := []
  cqs : Store ComQueue := []
  rr : Nat := 0
  stopped : Bool := false
  ctxs : List Ctx := []
  posted : List Completion := []
  /-- completions waiting for room in their completion queue -/
  cqWait : List Completion := []
  /-- vectors with an interrupt pending under coalescing and how many completions it covers; vectors signalled -/
  coal : List (Nat × Nat) := []
  signalled : List Nat := []
  feats : Features := {}
  aers : List Hdr := []
  events : List AsyncEvent := []
  /-- event pages whose further events wait for the host to read the page with RAE clear -/
  masked : List Nat := []
  /-- Abort commands that wait for the end of the command they name, with that command -/
  aborts : List (Hdr × Hdr) := []
  errLog : List ErrEntry := []
  smart : Smart := {}
  staging : List Staged := []
  /-- staging is being drained to commit (R26) -/
  draining : Bool := false
  nextId : Nat := 0
  sanitize : Sanitize := .never
  /-- a block erase that a reset of level 1 or 0 ended waits for the next CC.EN (R73) -/
  sanitizeHeld : Bool := false
  /-- namespaces whose Format runs (R68) -/
  formatting : List (Fin 8) := []
  changedNs : List Nat := []
  ra : List ReadAhead := []
  ltr : Ltr := .ms3
  /-- held commands wait for replay after a level 2 reset (R88) -/
  held : Bool := false
  cacheLost : Bool := false
  /-- a cached write has gone to a subordinate since its last completed Flush (R410) -/
  cachedTo : List (Fin 4) := []
  hmbBytes : Store Byte := []
  /-- the host's memory granted as HMB: address and MiB of each descriptor, in order (R70) -/
  hmbDescs : List (Nat × Nat) := []
  /-- pages sent as LTR messages, newest last (R57) -/
  ltrSent : List Ltr := []
  deriving DecidableEq, Repr

/-! ## Console (chapters 4 and 5) -/

/-- The error codes of R105, in the order of its table. -/
inductive ErrCode where
  | badForm | unknown | ambiguous | range | busy | state | locked | password | absent | timeout | fault | crc
  deriving DecidableEq, Repr

/-- A printed value (R120): its form is fixed by how it is built. -/
inductive Val where
  | nat (n : Nat)
  | int (n : Int)
  | hex (bytes : Nat) (n : Nat)
  | flag (b : Bool)
  | size (n : Nat)
  | word (w : String)
  | chars (c : List Byte)
  deriving DecidableEq, Repr

/-- One `key=value` pair, or a bare word when the key is empty. -/
abbrev Pair := String × Val

inductive Status where
  | ok (pairs : List Pair)
  | err (code : ErrCode) (detail : List Pair)
  deriving DecidableEq, Repr

/-- A whole reply (R103): where it goes, its continuation lines, its status line. -/
structure Reply where
  ctx : LineCtx
  cont : List (List Pair) := []
  status : Status
  deriving DecidableEq, Repr

/-- A complete line waiting in its path's queue; `text` is the line after editing. -/
structure QLine where
  ctx : LineCtx
  text : List Byte
  order : Nat
  deriving DecidableEq, Repr

/-- A line whose work goes on after its own step: what it waits for, its journal entry's number if it has one, and its
progress. -/
inductive Job where
  | dma (ch : Fin 8) (fill : Bool)
  | checkpoint
  | stopTest
  | train (g : Fin 8)
  | runOp (g : Fin 8) (x : Fin 64) (taint : Bool)
  | sleep
  | password
  | reset (unit : UnitName)
  /-- a `set` that turned galleries off waits for them; the settings it replies with -/
  | setOff (names : List Setting)
  /-- a `load profile` waits for the installation on each gallery it names -/
  | load (gals : List (Fin 8))
  deriving DecidableEq, Repr

structure Running where
  ctx : LineCtx
  job : Job
  journal : Option Nat := none
  deriving DecidableEq, Repr

/-- The line being assembled on the UART (R94, R96). -/
structure Uart where
  buf : List Byte := []
  long : Bool := false
  overrun : Bool := false
  lastCr : Bool := false
  deriving DecidableEq, Repr

/-- A line this device has routed to another (R106). -/
structure Routed where
  tag : BitVec 16
  ctx : LineCtx
  dst : Fin 4
  deriving DecidableEq, Repr

structure Console where
  uart : Uart := {}
  /-- characters sent on CON_TX as echo and prompts, oldest first -/
  tx : List Byte := []
  queue : List QLine := []
  nextOrder : Nat := 0
  running : Option Running := none
  /-- a `stop test` that waits for its checkpoint: `stop` lines execute beside the line that runs (R92) -/
  stopping : Option Running := none
  /-- `test` is being left, by that line or by the master's state order (R134, R398) -/
  leaving : Bool := false
  replies : List Reply := []
  /-- keep-alive lines sent: path and tag of the line (R104) -/
  keepAlives : List LineCtx := []
  /-- unread tunnel reply lines (characters, LF included), and whether lines were dropped (R75) -/
  tunnel : List (List Byte) := []
  tunnelLost : Bool := false
  routed : List Routed := []
  nextTag : BitVec 16 := 0
  deriving DecidableEq, Repr

/-- The live settings (R140). -/
structure Settings where
  hostWcache : Bool := false
  hostReadahead : Nat := 2097152
  hostApst : Bool := false
  hostApstPs3 : Nat := 100
  hostApstPs4 : Nat := 2000
  galRate : Vector Nat 8 := Vector.replicate 8 0
  galEnable : Vector Bool 8 := Vector.replicate 8 true
  cdcSoft : Bool := true
  cdcStripeWidth : Nat := 16
  mapRdDisturb : Option Nat := none
  mapErrRefreshPct : Nat := 70
  mapGcLow : Nat := 2
  assaySearch : Bool := true
  assayIdle : Nat := 100
  govThrottleC : Nat := 95
  govCapMw : Nat := 8000
  govIsnsGain : Nat := 0
  govStandbyMj : Nat := 2000
  tethStripe : Nat := 262144
  conEcho : Bool := true
  conBaud : Nat := 115200
  patrolInterval : Nat := 8
  patrolWakeRefresh : Bool := true
  patrolFlipLimit : Nat := 120
  mpuScratchOnly : Bool := false
  dmaHopLimit : Nat := 4096
  dmaConsoleCh : Fin 8 := 7
  dmaConsolePri : Fin 4 := 1
  alarmNotify : Bool := true
  deriving DecidableEq, Repr

/-! ## Boot store (chapter 17) -/

/-- A change-journal entry (R114), in the ring sector whose use count is `sector` (R115). -/
structure JEntry where
  seq : Nat
  src : Nat
  dev : Nat
  secs : Nat
  ms : Nat
  result : Byte
  text : List Byte
  sector : Nat
  off : Nat
  deriving DecidableEq, Repr

/-- A swap record slot (R512); `kind` 1 pending, 2 begin, 3 done, 4 abandon. -/
structure SwapRec where
  seq : Nat
  kind : Nat
  twin : Twin
  l3 : Bool
  deriving DecidableEq, Repr

/-- An alarm record (R538). -/
structure AlarmRec where
  source : Nat
  origin : Nat
  action : Nat
  tether : Bool
  lostBefore : Bool
  secs : Nat
  detail : Nat
  deriving DecidableEq, Repr

/-- A stored anchor (R369): sequence, shelf blocks, namespace floors, and the owner of each device unit. -/
structure Anchor where
  seq : Nat
  counter : Nat
  shelf : List Nat
  floors : List Nat
  units : List (Option (Fin 8))
  deriving DecidableEq, Repr

/-- The chain record (R391, R504 type 4). -/
structure ChainRec where
  id : Word
  n : Nat
  stripeLog2 : Nat
  index : Nat
  deriving DecidableEq, Repr

/-- A boot store operation under way on the die (R507). -/
inductive BstOp where
  | none
  | program (addr : Nat) (data : Word)
  | erase (sector : Nat)
  | swapCommit (slot : Nat)
  deriving DecidableEq, Repr

/-- Who asked for a boot store operation (R510). -/
inductive BstReq where
  | cmProgram (addr : Nat) (data : Word)
  | cmErase (sector : Nat)
  deriving DecidableEq, Repr

structure BootStore where
  /-- the array, by byte offset; an unlisted byte reads 0xFF unless its sector is listed below -/
  bytes : Store Byte := []
  /-- sectors left undefined by a failed or interrupted erase, or holding what the manual does not give, with the number of the free value
  they read as -/
  undefinedSecs : List (Nat × Nat) := []
  /-- the next program or erase of firmware's own will not verify (log entry 15) -/
  failNext : Bool := false
  op : BstOp := .none
  /-- who the operation under way belongs to, if a BST register asked for it -/
  opCm : Bool := false
  suspended : Option Nat := none
  /-- a BST register asked for the suspended erase -/
  susCm : Bool := false
  error : Bool := false
  statusMode : Bool := false
  toggle : Bool := false
  reqs : List BstReq := []
  journal : List JEntry := []
  jNext : Nat := 1
  jSector : Nat := 0
  jFill : Nat := 0
  settings : List (Nat × Settings) := []
  /-- settings sectors still to be erased before the next save (R127, R603) -/
  settingsStale : Bool := false
  profiles : List (Nat × List (Fin 8 × List Nat)) := []
  swaps : List SwapRec := []
  active : Twin := .a
  fallback : Bool := false
  /-- the bytes staged in the inactive twin by `update piece`, and the whole image present flag of each twin -/
  staged : Nat := 0
  stagedTwin : Option Twin := none
  /-- the health log (R504): its sector's sequence, the next free byte of it, and its entries by type, oldest first -/
  hSeq : Nat := 0
  hFill : Nat := 16
  hEntries : List (Nat × List Nat) := []
  anchors : List Anchor := []
  chain : Option ChainRec := none
  badTable : Option (List Nat) := none
  /-- the last type 5 entry: health state, spare, spare at first mount, lifetime seconds -/
  healthRec : Option (Nat × Nat × Nat × Nat) := none
  alarmLog : List AlarmRec := []
  alarmSeq : Nat := 1
  deriving DecidableEq, Repr

/-! ## Galleries and their sequencers (chapters 6 and 7) -/

/-- One mode entry of a profile (R191). -/
structure Mode where
  rate : Nat
  iface : Nat
  tm : Nat
  drive : Nat
  odt : Nat
  timings : List Nat
  deriving DecidableEq, Repr

/-- An op-list slot: kind and ops (R184). -/
structure OpSlot where
  kind : Nat
  ops : List Word
  deriving DecidableEq, Repr

/-- A chamber profile (R187–R197) as installed. Times in µs, pairs typical and maximum. -/
structure Profile where
  crc : Word
  image : List Nat
  readId : List Nat
  readIdN : Nat
  /-- manufacturer and model, as parameter page bytes 32–43 and 44–63 name them (R189) -/
  maker : List Nat
  model : List Nat
  guarded : List Nat
  qlc : Bool
  planes : Nat
  luns : Nat
  rowCycles : Nat
  colCycles : Nat
  lunBit : Nat
  blkBit : Nat
  ppw : Nat
  blocks : Nat
  pagesNative : Nat
  pagesPslc : Nat
  pageBytes : Nat
  bbmCol : Nat
  bbmMask : Nat
  flags : Nat
  ioMv : Nat
  modes : List Mode
  tReadPslc : Nat × Nat
  tReadNative : Nat × Nat
  tProgPslc : Nat × Nat
  tProgNative : Nat × Nat
  tErase : Nat × Nat
  tReset : Nat × Nat
  suspFlags : Nat
  suspMax : Nat
  suspReads : Nat
  suspLatency : Nat
  minProg : Nat
  minErase : Nat
  suspCmd : Nat
  resumeCmd : Nat
  ofsLo : Int
  ofsHi : Int
  refTemp : Int
  ofsDefault : List Int
  coef : List Int
  retry : List (List Int)
  ratedNative : Nat
  ratedPslc : Nat
  rdNative : Nat
  rdPslc : Nat
  lists : List (Nat × OpSlot)
  deriving DecidableEq, Repr

/-- The state of a write-pointer entry (R158); the numbers of R172. -/
inductive WptState where
  | free | erased | openPslc | openNative | closed | tainted
  deriving DecidableEq, Repr

structure WptEntry where
  block : Nat := 0
  next : Nat := 0
  st : WptState := .free
  deriving DecidableEq, Repr

/-- The outcome of a list (R178), coded as in GAL_SEQ_LAST (R206). -/
inductive Outc where
  | ok | fail | order | timeout | quiesced | suspect
  deriving DecidableEq, Repr

/-- What a gallery operation does. -/
inductive OpKind where
  | read | program | erase | reset | other
  deriving DecidableEq, Repr

/-- Who a gallery operation works for. -/
inductive Need where
  /-- a host read or verify: the command, its slot number and the sector looked for -/
  | host (h : Hdr) (slot : Nat) (ns : Fin 8) (lba : Nat)
  | spec (ns : Fin 8) (dsec : Nat) (gen : Nat)
  | sumpPage
  | parity (group : Nat)
  | journal
  | checkpoint
  | mapPage (page : Nat)
  | reloc (id : Nat)
  /-- a codeword of a closed member that failed its read-verify (R235) -/
  | verify (blk : Nat)
  /-- the old data of a partial write in staging (R302) -/
  | merge (id : Nat) (ns : Fin 8) (lba : Nat)
  /-- a map page that reads wait for, by the number its header carries (R28, R285) -/
  | mapRead (page : Nat)
  /-- a live map page that collection moves out of its block (R299) -/
  | mapMove (page : Nat)
  | erase
  | patrol
  | console
  | none
  deriving DecidableEq, Repr

/-- A gallery operation, waiting or running: identifier, chamber in the gallery (2 × ce + lun), class (R153), blocks, page,
pages placed, pSLC mode, retry row, how often it was suspended or retried, what it works for. -/
structure GOp where
  id : Nat
  ch : Fin 16
  kind : OpKind
  cls : Nat
  block : Nat
  npl : Nat := 1
  page : Nat := 0
  pages : Nat := 1
  pslc : Bool := true
  cw : Fin 4 := 0
  step : Nat := 0
  aged : Bool := false
  running : Bool := false
  ready : Bool := false
  suspended : Bool := false
  suspends : Nat := 0
  readsIn : Nat := 0
  /-- suspended, and due to resume: no further read starts in its suspension (R157) -/
  resumeDue : Bool := false
  retried : Bool := false
  /-- the context its list runs in (R174), and the outcome and END code its list returned to it (R178) -/
  ctx : Nat := 0
  outcome : Option (Outc × Nat) := none
  need : Need := .none
  /-- the lifetime second of its allocation, which its pads carry (R213) -/
  secs : Nat := 0
  deriving DecidableEq, Repr

/-- The run state of a context (R205). -/
inductive CtxState where
  | idle | bus | polling | waiting | suspended
  deriving DecidableEq, Repr

/-- A sequencer context (R177, R178). -/
structure SeqCtx where
  blk : BitVec 16 := 0
  page : BitVec 12 := 0
  col : BitVec 16 := 0
  npl : BitVec 3 := 1
  step : BitVec 6 := 0
  len : BitVec 16 := 0
  v0 : BitVec 16 := 0
  v1 : BitVec 16 := 0
  buf : BitVec 25 := 0
  s : Byte := 0
  l0 : Nat := 0
  l1 : Nat := 0
  pslc : Bool := false
  slot : Nat := 0
  pc : Nat := 0
  ret : Option (Nat × Nat) := none
  st : CtxState := .idle
  /-- blocks and page named at the start of a program or erase list (R183) -/
  blk0 : Nat := 0
  page0 : Nat := 0
  npl0 : Nat := 1
  force : Bool := false
  console : Bool := false
  armed : Option OpKind := none
  /-- bytes that the list has moved from BUF on (R181) -/
  bufMoved : Nat := 0
  /-- the list has marked a block tainted (R132, R203) -/
  marked : Bool := false
  /-- the first delay of the POLL at hand has run (R179) -/
  polled : Bool := false
  /-- codewords that the DOUT at hand has moved to the Codec (R175) -/
  moved : Nat := 0
  /-- the offset set that hook 26 or 27 is applying (R186) -/
  applying : Option (List Int) := none
  lastCode : Byte := 0
  lastOut : Outc := .ok
  lastS : Byte := 0
  lastSlot : Nat := 0
  deriving DecidableEq, Repr

/-- One cycle on a gallery's bus, as the ops place them (R605), or a change of its WP_N line (R141). -/
inductive BusCycle where
  | cmd (b : Byte)
  | addr (b : List Nat)
  | din (b : List Nat)
  | dout (n : Nat)
  | wp (high : Bool)
  deriving DecidableEq, Repr

/-- One kind of training that a rate needs (R143). -/
inductive TrainStep where
  | zq | dutyCycle | readCentre | writeLevel | writeDq | deskew | checkSampler | verify
  deriving DecidableEq, Repr

/-- A target's training results (R147): the steps taken, the rate, read and write delays per DQ, DQS centre, duty-cycle code, drive and
termination codes. -/
structure TrainRec where
  ce : Nat
  rate : Nat
  steps : List TrainStep := []
  rdDelay : List Nat := []
  wrDelay : List Nat := []
  dqsCentre : Nat := 0
  duty : Nat := 0
  drive : Nat := 0
  odt : Nat := 0
  deriving DecidableEq, Repr

/-- The retraining of a gallery (R150–R152). -/
inductive Retrain where
  | none
  | pending
  | running (ce : Nat)
  deriving DecidableEq, Repr

structure Gallery where
  profile : Option Profile := none
  /-- an image validated and waiting for the gallery to be idle (R199), with the gallery's supplied lists -/
  toInstall : Option Profile := none
  slots : List (Option OpSlot) := List.replicate 64 none
  wpt : List (List WptEntry) := List.replicate 16 (List.replicate 8 {})
  wpN : Bool := false
  inService : Bool := false
  /-- held in its reset pin state -/
  holdReset : Bool := false
  /-- the targets whose Read ID matched at the last installation (R165, R199) -/
  ceMatch : BitVec 8 := 0
  trainResults : List TrainRec := []
  retrain : Retrain := .none
  /-- the rate a retraining under way trains for, the rate it began for, and its results until its last window has ended (R151) -/
  newRate : Option Nat := none
  newAim : Nat := 0
  newResults : List TrainRec := []
  /-- no read starts before the retraining that is due: the reference temperature drifted while unpowered (R147) -/
  mustRetrain : Bool := false
  /-- targets out of service until the gallery trains again (R146, R148) -/
  outCe : BitVec 8 := 0
  /-- firmware has loaded the write-pointer table since it was emptied (R160) -/
  wptReady : Bool := false
  /-- parity mismatches by the millisecond they were counted at, the last 10 ms (R150) -/
  parityLog : List (Nat × Nat) := []
  /-- it has read since it powered up (R256) -/
  hasRead : Bool := false
  ranFallback : Bool := false
  ops : List GOp := []
  ctxs : Store SeqCtx := []
  bus : Option (Fin 64) := none
  /-- chambers in a run of cache reads, with the block and page that goes on it (R155) -/
  cacheRun : Store (Nat × Nat) := []
  /-- the cycles placed, each with the target whose CE_N was low -/
  trace : List (Fin 8 × BusCycle) := []
  lastOfs : Store (List Int) := []
  /-- what log page C0h counts of it, wider than the registers that wrap or saturate (R78): parity mismatches, operation timeouts,
  retrainings, order refusals, program and erase failures -/
  parityErrs : Nat := 0
  timeouts : Nat := 0
  retrains : Nat := 0
  orders : Nat := 0
  progFails : Nat := 0
  eraseFails : Nat := 0
  deriving DecidableEq, Repr

/-! ## Codec (chapter 8) and the Map engine (chapters 10 to 12) -/

/-- A codeword in the array as the device programmed it (R211–R214): kind, LBA field, namespace, sequence number, lifetime
seconds, plain data field, and the key it was encrypted under (none for kinds 3, 4 and 6). -/
structure Cw where
  kind : Nat
  lba : Nat
  ns : Nat := 0
  seq : Seq := 0
  secs : Nat := 0
  data : Sector := Sector.zero
  key : Option Nat := none
  deriving DecidableEq, Repr

/-- A codeword in the Codec on its way to a page. -/
structure Enc where
  id : Nat
  cw : Cw
  loc : Loc
  alloc : Option Nat
  encoded : Bool
  /-- how often its sector's CRC did not match (R229) -/
  tries : Nat := 0
  /-- the hard lane it was sent to again (R239) -/
  lane : Option (Fin 8) := none
  deriving DecidableEq, Repr

/-- A read under way through the order of R222: where it reads, the retry step reached, the soft stage, and its need. -/
inductive RdStage where
  | hard (step : Nat)
  | soft1 | soft2
  | rebuild
  deriving DecidableEq, Repr

structure Rd where
  id : Nat
  loc : Loc
  stage : RdStage
  need : Need
  softLane : Option (Fin 2) := none
  /-- the STEP 0 read alone is wanted (R224) -/
  only0 : Bool := false
  restarted : Bool := false
  /-- the hard lane it was sent to again (R239) -/
  lane : Option (Fin 8) := none
  deriving DecidableEq, Repr

structure Codec where
  /-- key slot n holds the key with this number (R226); slot 8 is the metadata key -/
  keys : Vector (Option Nat) 9 := Vector.replicate 9 none
  enc : List Enc := []
  rds : List Rd := []
  deriving DecidableEq, Repr

/-- A map entry (R284). -/
inductive Entry where
  | unmapped
  | mapped (l : Loc)
  | damaged
  deriving DecidableEq, Repr

/-- An allocation outstanding (R289): the staged sector it serves, the sector, its sequence number and target. -/
structure Alloc where
  id : Nat
  staged : Nat
  ns : Fin 8
  lba : Nat
  dsec : Nat
  seq : Seq
  loc : Loc
  data : Sector
  damaged : Bool
  programmed : Bool := false
  /-- its place went with a failed block, and no member of its group had a page left: it waits for the next group (R339) -/
  unplaced : Bool := false
  /-- device lifetime seconds when it was allocated (R213) -/
  secs : Nat := 0
  deriving DecidableEq, Repr

/-- A relocation copy in flight (R29, R290). -/
structure Reloc where
  id : Nat
  dsec : Nat
  src : Loc
  dst : Loc
  flow : Flow
  cause : Nat
  /-- its source codeword has been read -/
  ready : Bool := false
  programmed : Bool := false
  deriving DecidableEq, Repr

inductive BlkSt where
  | free | erased | opened | closed | bad | tainted
  deriving DecidableEq, Repr

inductive BlkUse where
  | none | sump | native | parity | map | journal
  deriving DecidableEq, Repr

/-- A device block's record (R291), health record (R325) and summary (R305); `heavy` is set once a codeword of this fill
needed a soft decode, a rebuild or ended uncorrectable (R330); `emptyAt` counts the checkpoints whose snapshots followed the
moment its valid count fell to 0 (R361). -/
structure Blk where
  erase : Nat := 0
  st : BlkSt := .free
  use : BlkUse := .none
  pslc : Bool := false
  held : Bool := false
  floor : Bool := false
  refresh : Bool := false
  sealed : Bool := false
  valid : Nat := 0
  closedH : Nat := 0
  /-- the next sequence number when it closed: the order in which blocks closed (R298) -/
  closeSeq : Nat := 0
  next : Nat := 0
  reads : Nat := 0
  strikes : Nat := 0
  cause : Nat := 0
  eighths : Nat := 0
  heavy : Bool := false
  emptyAt : Option Nat := none
  /-- the reason it is to be retired for once empty (R364, record type 9), 0 for none -/
  retire : Nat := 0
  lowD : Nat := 0xFFFF_FFFF_FFFF_FFFF
  highD : Nat := 0
  filter : BitVec 64 := 0
  deriving DecidableEq, Repr

/-- A stripe group (R231–R236): number, flow, members as device blocks (none once dropped), parity blocks, positions
closed, positions with an accumulator, parity released. -/
structure StripeGroup where
  num : Nat
  flow : Flow
  width : Nat
  pslc : Bool
  members : List (Option Nat)
  /-- parity blocks with the first position each holds -/
  parity : List (Nat × Nat)
  nextMember : Nat := 0
  closedPos : Nat := 0
  /-- positions with an accumulator and the member blocks whose page there returned OK -/
  accs : List (Nat × List Nat) := []
  /-- the page under assembly, or the wordlines of several members where one program places several pages: the first location of each and the
  allocations or relocations in it -/
  fill : List (Loc × List Nat) := []
  closing : List Nat := []
  isOpen : Bool := true
  /-- members dropped, each with the first position left out: its earlier positions stay protected (R233) -/
  dropped : List (Nat × Nat) := []
  /-- members that passed read-verify, and those with a codeword that failed it, whose refresh is awaited (R235) -/
  verified : List Nat := []
  failing : List Nat := []
  released : Bool := false
  deriving DecidableEq, Repr

/-- A page of the Keeper map cache (R286): series (0 leaf, 1 directory, 2 summary), number, dirty, owned by a checkpoint,
generation (R287). -/
structure MapPage where
  series : Nat
  num : Nat
  dirty : Bool
  owned : Bool := false
  gen : Nat
  deriving DecidableEq, Repr

/-- A journal record (R364). -/
inductive JRec where
  | opened (flow : Flow) (group : Nat) (blocks : List Nat) (parity : Nat)
  | closed (blk : Nat)
  | reloc (d : Nat) (src dst : Loc)
  | dealloc (first count : Nat)
  /-- one part of a secure range: its index, the number of parts, up to 15 ranges -/
  | secure (s0 part parts : Nat) (ranges : List (Nat × Nat))
  | secureEnd (s0 : Nat)
  | disturb (blk eighths : Nat)
  | erase (blk count : Nat)
  | retire (blk reason : Nat)
  deriving DecidableEq, Repr

/-- A checkpoint's root (R367) with the tables of R368 it refers to. -/
structure Root where
  num : Nat
  anchor : Nat
  c : Nat
  r : Nat
  pos : Nat
  secs : Nat
  entries : Store Entry
  /-- the top table: where the map pages stand -/
  onFlash : Store Loc
  blks : Store Blk
  scanStart : List (Nat × Nat)
  smart : Smart
  stats : List (String × Nat)
  /-- the counters of the MAP block, restored at mount -/
  counters : List Word
  health : Nat
  spare : Nat
  /-- the Secure Deallocate that its flag names, with its starting sequence number and its ranges (R309, R368) -/
  secure : Option (Nat × List (Nat × Nat)) := none
  /-- how many checkpoint pages it lists, and the stream position of the first -/
  pages : Nat := 0
  first : Nat := 0
  /-- the counters of log page C0h that `stats` does not hold: full scans, the last rotation's blocks over the limit, and each gallery's -/
  scans : Nat := 0
  patrolOver : Nat := 0
  gals : List (List Nat) := []
  deriving DecidableEq, Repr

/-- A refresh queue entry (R334): device block, cause, order of flagging, carried from PS4, lifetime second queued. -/
structure RefQ where
  blk : Nat
  cause : Nat
  order : Nat
  carried : Bool
  /-- the seconds spent in `service` when it joined the queue (R336) -/
  since : Nat
  deriving DecidableEq, Repr

/-- A Secure Deallocate in progress (R307). -/
structure SecDeal where
  hdr : Option Hdr
  s0 : Nat
  ranges : List (Nat × Nat)
  candidates : List Nat
  hits : List Nat
  phase : Nat
  resumed : Bool
  /-- its secure-range record has been written -/
  recorded : Bool := true
  deriving DecidableEq, Repr

/-- A sector that would not read in a relocation (R337). -/
structure RetrySec where
  dsec : Nat
  blk : Nat
  tries : Nat
  deriving DecidableEq, Repr

/-- A namespace (R71, R283): its device units in order, LBA format 1 (4096 B) or 0, attached, ready, its floor (R369). -/
structure NsRec where
  units : List Nat
  lba4k : Bool
  sectors : Nat
  attached : Bool
  ready : Bool
  floor : Nat
  deriving DecidableEq, Repr

structure MapEngine where
  ns : Vector (Option NsRec) 8 := Vector.replicate 8 none
  floors : Vector Nat 8 := Vector.replicate 8 0
  entries : Store Entry := []
  cache : List MapPage := []
  evicted : Store Nat := []
  onFlash : Store Loc := []
  inHmb : List Nat := []
  nextSeq : Nat := 1
  allocs : List Alloc := []
  pendTable : List (Nat × Nat) := []
  relocs : List Reloc := []
  /-- what waits for a map page to be read from flash, by page (R28) -/
  waiters : List (Nat × Need) := []
  nextId : Nat := 0
  groups : List StripeGroup := []
  nextGroup : Nat := 0
  blks : Store Blk := []
  present : List (Fin 128) := []
  mounted : Bool := false
  mountPath : Nat := 0
  paused : Bool := false
  sumpSize : Nat := 0
  refQ : List RefQ := []
  nextRef : Nat := 0
  patrolQ : List (Nat × Nat) := []
  patrolTable : List (Nat × Bool) := []
  patrolStart : Nat := 0
  patrolPos : Nat := 0
  patrolReads : Nat := 0
  patrolOver : Nat := 0
  secure : Option SecDeal := none
  retries : List RetrySec := []
  suspectSecs : Store Nat := []
  /-- health state 0 normal, 1 spare low, 2 read-only; spare count now and at first mount; floor blocks lost -/
  health : Nat := 0
  spare : Nat := 0
  spareFirst : Nat := 0
  floorBlocks : Nat := 0
  floorNeed : Nat := 0
  userBlocks : Nat := 0
  stats : List (String × Nat) := []
  /-- the journal stream (R362): shelf blocks, next position, buffered and durable records with their numbers -/
  shelf : List Nat := []
  pos : Nat := 0
  jBuf : List (Nat × JRec) := []
  /-- the host commands that wait for a record to be journal-durable -/
  jWait : List (Nat × Hdr) := []
  jDurable : List (Nat × Nat × JRec) := []
  roots : List Root := []
  ckptNum : Nat := 0
  ckptWant : Bool := false
  sinceCkpt : Nat := 0
  changed : Bool := false
  ckpts : Nat := 0
  ckptAge : Nat := 0
  quiesceRec : List Nat := []
  changeLog : List Nat := []
  recordsLoaded : Bool := true
  normalShutdown : Bool := false
  sweepDue : Bool := false
  scans : Nat := 0
  /-- the next mount follows a reset of level 1 or 0; the block-table walk has ended -/
  cold : Bool := true
  walked : Bool := false
  /-- Secure Deallocates that wait for the one in progress, with their device ranges (R307) -/
  secQ : List (Hdr × List (Nat × Nat)) := []
  /-- deallocations that wait for room among the dirty pages or in the pending table, each within one directory range, with the command that waits
  for them (R286, R289) -/
  deallocs : List (Option Hdr × Nat × Nat) := []
  /-- the map blocks that collection has taken (R322) -/
  gcMap : List Nat := []
  deriving DecidableEq, Repr

/-- The dies as the device has programmed them: codewords by location key, and the codewords that an interruption or a failed
program left unreadable. -/
structure Media where
  cws : Store Cw := []
  interrupted : List Nat := []
  /-- device blocks whose erase was interrupted -/
  interruptedBlks : List Nat := []
  /-- the parity codewords of parity blocks, as encoded, by location key (R231, R234) -/
  parity : Store (List Nat) := []
  deriving DecidableEq, Repr

/-! ## Assay engine and governor (chapter 9) -/

/-- A read-offset record (R258). -/
structure OfsRec where
  vec : List Int
  searched : Bool := false
  pend : Bool := false
  temp : Int
  flips : Nat := 0
  secs : Nat := 0
  deriving DecidableEq, Repr

structure Assay where
  dieQ : Int := 0
  aonC : Int := 0
  padQ : Vector Int 8 := Vector.replicate 8 0
  /-- chamber temperature in °C and whether it is an estimate -/
  chTemp : Store (Int × Bool) := []
  listFails : Store Nat := []
  railMv : Vector Nat 5 := Vector.replicate 5 0
  railMa : Vector Nat 5 := Vector.replicate 5 0
  isnsMv : Nat := 0
  isnsMa : Nat := 0
  ctlMw : Nat := 0
  /-- the samples of the millisecond under way: controller power in mW and card current in mA (R255) -/
  powAcc : List (Nat × Nat) := []
  ofs : Store OfsRec := []
  trainRef : Vector (Option Int) 8 := Vector.replicate 8 none
  /-- consecutive samples of the main or always-on sensor at or above 125 °C, and outside the alarm range -/
  hot : Nat := 0
  aonHot : Nat := 0
  odd : Nat := 0
  deriving DecidableEq, Repr

structure Governor where
  thermal : Nat := 0
  power : Nat := 0
  /-- ms since P rose, ms both powers have stayed below 90 %, consecutive samples over a limit, ms the composite has stayed
  3 °C below the step's threshold -/
  sinceRise : Nat := 5
  underMs : Nat := 0
  overCnt : Nat := 0
  cool : Nat := 0
  /-- refresh-wake charges: lifetime second and mJ (R270); the last measured mJ of a block by mode -/
  charges : List (Nat × Nat) := []
  mjPslc : Option Nat := none
  mjNative : Option Nat := none
  deriving DecidableEq, Repr

/-! ## Tether (chapter 13) -/

/-- What a frame carries beside its header. -/
inductive FBody where
  | none
  | line (t : List Byte)
  | data (d : Sector)
  | part (b : PartBody)
  | done (b : DoneBody)
  | admin (b : AdminBody)
  | alarm (origin bit : Nat) (secs : Word)
  | hello (b : HelloBody)
  deriving DecidableEq, Repr

/-- A frame as sent: type code, destination, source, link sequence number, tag, index, argument (an order's subcode and 256
times its argument; the credits returned), payload. -/
structure Frame where
  type : Nat
  dst : Fin 4
  src : Fin 4
  seq : Nat
  tag : BitVec 16
  index : Nat
  arg : Nat := 0
  body : FBody := .none
  deriving DecidableEq, Repr

inductive PortState where
  | off | training | up | hold | down | mismatch | absent
  deriving DecidableEq, Repr

structure TPort where
  st : PortState := .off
  txSeq : Nat := 0
  rxSeq : Nat := 0
  replay : List Frame := []
  tries : Nat := 0
  credC : Nat := 0
  credD : Nat := 0
  waiting : List Frame := []
  eqStored : Bool := false
  /-- its state has been reset since its last link up (R399) -/
  fresh : Bool := true
  sent : List Frame := []
  partner : Option HelloBody := none
  deriving DecidableEq, Repr

/-- A part outstanding at its owner, as the master holds it: tag, owner, its command, first LBA, body, answered. -/
structure MPart where
  tag : BitVec 16
  owner : Fin 4
  hdr : Hdr
  first : Nat
  lbas : Nat
  opcode : Byte
  ranges : List (Nat × Nat) := []
  deriving DecidableEq, Repr

/-- A part running on this device for its master. -/
structure OPart where
  tag : BitVec 16
  body : PartBody
  got : List (Nat × Sector)
  deriving DecidableEq, Repr

/-- An ADMIN frame outstanding (R403): its tag, its command, the subordinate, and the status it has answered with. -/
structure AdminOut where
  tag : BitVec 16
  hdr : Hdr
  dst : Fin 4
  answer : Option (Nat × Nat) := none
  deriving DecidableEq, Repr

/-- A firmware piece that arrives in DATA frames after an ADMIN download (R403): the tag, the offset, the bytes, what has come. -/
structure Piece where
  tag : BitVec 16
  off : Nat
  len : Nat
  got : List (Nat × Sector)
  deriving DecidableEq, Repr

structure Tether where
  tu : TPort := {}
  td : TPort := {}
  chain : Option ChainRec := none
  present : BitVec 4 := 1
  absent : BitVec 4 := 0
  holding : List (Fin 4 × Nat) := []
  readyStandby : List (Fin 4) := []
  standbyAsked : Option Nat := none
  masterState : Nat := 0
  parts : List MPart := []
  owned : List OPart := []
  piece : Option Piece := none
  /-- admin commands carried to subordinates, and the tag the next part or admin command takes -/
  admin : List AdminOut := []
  nextTag : BitVec 16 := 0
  orderArg : Nat := 0
  /-- wake beacons driven on TD (R407) -/
  beacons : Nat := 0
  deriving DecidableEq, Repr

/-! ## Keeper (chapter 14), DMA (15), protection and Lantern (16), vault (18) -/

/-- A stored Keeper word: the data last encoded, and the flips of its data and check bits since (log entry 7). -/
structure KWord where
  data : BitVec 64
  flipD : BitVec 64 := 0
  flipC : Byte := 0
  deriving DecidableEq, Repr

/-- A merge-buffer entry (R424): word index, bytes, byte mask. -/
structure Merge where
  word : Nat
  data : BitVec 64
  mask : Byte
  deriving DecidableEq, Repr

structure Keeper where
  words : Store KWord := []
  /-- the retained slice, the scratch region and the rest still hold what power-on left (R428) -/
  rawRet : Bool := true
  rawScratch : Bool := true
  rawMain : Bool := true
  epoch : Nat := 0
  merge : List Merge := []
  rmwBusy : Option Nat := none
  scrubAt : Nat := 0
  deriving DecidableEq, Repr

inductive DmaSt where
  | idle | running | done | failed | stopping
  deriving DecidableEq, Repr

structure DmaChan where
  st : DmaSt := .idle
  cls : Cls := .privileged
  err : Nat := 0
  hops : Nat := 0
  hopLimit : Nat := 0
  bytes : Nat := 0
  cur : Word := 0
  /-- the descriptor in progress has run and the channel stands at its boundary -/
  atEnd : Bool := false
  /-- the address an error names, whether it was ECC -/
  faultAddr : Word := 0
  deriving DecidableEq, Repr

/-- A protection region (R482). -/
structure Region where
  base : Word := 0
  attr : Word := 0
  deriving DecidableEq, Repr

structure Mpu where
  shadow : Vector Region 16 := Vector.replicate 16 {}
  active : Vector Region 16 := Vector.replicate 16 {}
  deriving DecidableEq, Repr

/-- A Lantern response (R488): status code bits, flags, data. -/
structure LanResp where
  status : Nat
  ecc : Bool := false
  denied : Bool := false
  busErr : Bool := false
  data : List Nat := []
  deriving DecidableEq, Repr

inductive ScanInstr where
  | bypass | idcode | sample | extest
  deriving DecidableEq, Repr

structure Lantern where
  resps : List LanResp := []
  scan : Bool := false
  instr : ScanInstr := .bypass
  chain : BitVec 205 := 0
  cells : BitVec 205 := 0
  shifted : Nat := 0
  deriving DecidableEq, Repr

inductive LockState where
  | isOpen | unlocked | locked
  deriving DecidableEq, Repr

/-- Who asked for a password check and what follows it. -/
inductive Check where
  | unlock (h : Hdr)
  | unlockLine (l : LineCtx) (journal : Option Nat)
  | set (h : Hdr) (new : Option (List Byte))
  deriving DecidableEq, Repr

/-- Who asked for a lock that waits (R527). -/
inductive Locker where
  | host (h : Hdr)
  | line (l : LineCtx) (journal : Option Nat) (new : Option (List Byte))
  deriving DecidableEq, Repr

/-- A lock message on its way through the subordinates (R530): what to apply here last, the line tags still unanswered, and
the first failing answer with its device. -/
structure Fan where
  hdr : Hdr
  todo : Option (Check × List Byte)
  waiting : List (BitVec 16 × Fin 4)
  failed : Option (Fin 4 × Nat × Nat) := none
  deriving DecidableEq, Repr

structure Vault where
  lock : LockState := .isOpen
  kek : Bool := true
  password : Option (List Byte) := none
  /-- the number of the media key of namespace n, if it has one (log entry 8) -/
  media : Vector (Option Nat) 8 := Vector.replicate 8 none
  nextKey : Nat := 1
  fails : Nat := 0
  zeroizes : Nat := 0
  zeroizePending : Bool := false
  /-- a zeroize has occurred and the next mount follows R536 -/
  zeroized : Bool := false
  zeroizeUnread : Bool := false
  lost : Bool := false
  latched : List AlarmRec := []
  checks : List (Check × List Byte) := []
  /-- a lock waits for commands, staging or a Secure Deallocate -/
  lockWait : Option Locker := none
  fan : Option Fan := none
  cancelled : Bool := false
  now : BitVec 5 := 0
  last : Word := 0
  /-- the supply, clock and glitch sensors were armed when the reset of level 1 or 2 in progress was asserted (R541) -/
  wasArmed : Bool := false
  deriving DecidableEq, Repr

/-! ## The whole -/

structure State where
  /-- the commands that are waiting, first in first out -/
  pending : List Instr := []
  sys : Sys := {}
  /-- every control register that holds its own value, by address; an unlisted one reads as its reset value -/
  regs : Store Word := []
  front : Front := {}
  con : Console := {}
  settings : Settings := {}
  bst : BootStore := {}
  gals : Vector Gallery 8 := Vector.replicate 8 {}
  cdc : Codec := {}
  map : MapEngine := {}
  media : Media := {}
  assay : Assay := {}
  gov : Governor := {}
  teth : Tether := {}
  kpr : Keeper := {}
  dma : Vector DmaChan 8 := Vector.replicate 8 {}
  mpu : Mpu := {}
  lan : Lantern := {}
  vault : Vault := {}
  /-- the model's own counter of free values taken (log entry 4) -/
  free : Nat := 0
  deriving DecidableEq, Repr

/-- The device at the assertion of its power-on reset: every block at its reset value, SYS_CAUSE and its
snapshot with the POR bit set and nothing else (R547, R566, R568), every clock domain still to be released, no rail good yet, and the
boot store as it left the factory (R602). -/
def State.reset : State :=
  { regs := [(0x40000080, 1), (0x40000088, 1)]
    sys := { rst := some 0, toRelease := [.aclk, .cclk, .xclk, .gclk, .hclk] }
    -- twin A holds the firmware of the factory, whose bytes the manual does not give (R602)
    bst := { undefinedSecs := (List.range 24).map fun k => (k, 0) }
    free := 1 }

end Sys2Proof.Machine
end

