-- ==== Sys2Proof/Machine/Store.lean ====
section
/-! DEFINITION. Sparse stores: what an unlisted key reads as is a function `d`; a store is canonical when its keys rise
strictly and no entry equals what its key reads as unlisted.  Registers, memory words and tables all use these. -/

namespace Sys2Proof

/-- What key `k` reads as: its entry, or `d k` when it has none. -/
def Store.get {α : Type} (d : Nat → α) : Store α → Nat → α
  | [], k => d k
  | (a, v) :: r, k => if a = k then v else Store.get d r k

/-- Whether the store has an entry for the key. -/
def Store.has {α : Type} (m : Store α) (k : Nat) : Bool := m.any fun p => p.1 == k

/-- The entry of a key, if any. -/
def Store.find {α : Type} (m : Store α) (k : Nat) : Option α := (List.find? (fun p => p.1 == k) m).map (·.2)

/-- Put an entry in its place by key, replacing one already there. -/
def Store.ins {α : Type} (k : Nat) (v : α) : Store α → Store α
  | [] => [(k, v)]
  | (a, w) :: r => if k < a then (k, v) :: (a, w) :: r else if k = a then (k, v) :: r else (a, w) :: Store.ins k v r

/-- Drop the entry of a key. -/
def Store.del {α : Type} (k : Nat) (m : Store α) : Store α := List.filter (fun p => p.1 != k) m

/-- Drop every entry whose key satisfies `p`. -/
def Store.drop {α : Type} (p : Nat → Bool) (m : Store α) : Store α := List.filter (fun e => !p e.1) m

/-- Write a value: writing what an unlisted key reads as removes the entry. -/
def Store.set {α : Type} [DecidableEq α] (d : Nat → α) (m : Store α) (k : Nat) (v : α) : Store α :=
  if v = d k then m.del k else m.ins k v

/-- Change the value of a key. -/
def Store.modify {α : Type} [DecidableEq α] (d : Nat → α) (m : Store α) (k : Nat) (f : α → α) : Store α :=
  m.set d k (f (m.get d k))

/-- The canonical form: keys strictly rising, no entry equal to what its key reads as unlisted. -/
def Store.wf {α : Type} [DecidableEq α] (d : Nat → α) : Store α → Bool
  | [] => true
  | (a, v) :: r => decide (v ≠ d a) && (r.all fun p => decide (a < p.1)) && Store.wf d r

end Sys2Proof
end

