-- ==== Sys2Proof/Machine/Ops.lean ====
section
/-! DEFINITION. The operations every block shares: control registers as stored, free values, completions and asynchronous events of Front. -/

namespace Sys2Proof.Machine

/-! ## Control registers as stored -/

/-- What a register holds. -/
def State.reg (s : State) (r : Reg) : Word := Store.get regDefault s.regs r.addr

/-- Give a register a value. -/
def State.setReg (s : State) (r : Reg) (v : Word) : State :=
  { s with regs := Store.set regDefault s.regs r.addr v }

/-- A field of a register: `n` bits at bit `lo`. -/
def State.rf (s : State) (r : Reg) (lo n : Nat) : Nat := fld (s.reg r) lo n

/-- Set a field of a register. -/
def State.setRf (s : State) (r : Reg) (lo n v : Nat) : State := s.setReg r (setFld (s.reg r) lo n v)

/-- Count `k` more in a saturating field. -/
def State.bump (s : State) (r : Reg) (lo n k : Nat) : State := s.setRf r lo n (satAdd n (s.rf r lo n) k)

/-- Count `k` more in a wrapping field. -/
def State.bumpWrap (s : State) (r : Reg) (lo n k : Nat) : State := s.setRf r lo n (s.rf r lo n + k)

/-! ## Free values (log entry 4) -/

/-- Take the next free value: its number, and the state with the counter advanced. -/
def State.takeFree (s : State) : State := { s with free := s.free + 1 }

/-! ## Front: completions, interrupts and asynchronous events -/

/-- Room in a completion queue: not full when its tail's successor differs from the host's head. -/
def ComQueue.room (q : ComQueue) : Bool := (q.tail + 1) % q.size != q.head

/-- The INTx line follows its condition: MSI-X is off, neither Interrupt Disable nor the mask of vector 0 is set, and the host's head has not reached
the admin completion queue's tail (R55). -/
def Front.intxTick (f : Front) : Front :=
  let waits : Bool := match Store.find f.cqs 0 with | some q => q.tail != q.head | none => false
  { f with pcie := { f.pcie with intx := waits && !f.pcie.msixOn && !f.pcie.intxOff && !f.intMask.getLsbD 0 } }

/-- Send an MSI-X message, or keep the vector pending while it or the function is masked; until MSI-X is enabled the admin queue alone
interrupts, by INTx (R55, R58). -/
def Front.fire (f : Front) (cq iv : Nat) : Front :=
  let p := f.pcie
  if p.msixOn then
    if p.msixMask || ((Store.find p.msix iv).getD {}).mask then
      { f with pcie := { p with pba := if p.pba.contains iv then p.pba else p.pba ++ [iv] } }
    else { f with signalled := f.signalled ++ [iv] }
  else if cq = 0 then f.intxTick
  else f

/-- Signal a vector for one completion, at once or under coalescing (R69, features 08h and 09h); the admin queue's vector
is never coalesced. -/
def Front.signal (f : Front) (cq iv : Nat) : Front :=
  if cq = 0 ∨ f.feats.coalTime = 0 ∨ f.feats.coalOff.contains iv then f.fire cq iv
  else
    let n := ((List.find? (fun p => p.1 == iv) f.coal).map (·.2)).getD 0 + 1
    let rest := List.filter (fun p => p.1 != iv) f.coal
    if n ≥ f.feats.coalThr then Front.fire { f with coal := rest } cq iv
    else { f with coal := rest ++ [(iv, n)] }

/-- Post a completion to the completion queue of its submission queue; it waits while that queue is full (R58). -/
def Front.post (f : Front) (c : Completion) : Front :=
  match Store.find f.sqs c.hdr.sqid.val with
  | none => f
  | some sq =>
    match Store.find f.cqs sq.cq with
    | none => f
    | some q =>
      if q.room then
        Front.signal { f with
          posted := f.posted ++ [c]
          cqs := Store.ins sq.cq { q with tail := (q.tail + 1) % q.size } f.cqs } sq.cq q.iv
      else { f with cqWait := f.cqWait ++ [c] }

/-- The context of a command, if Front holds one. -/
def Front.ctx? (f : Front) (h : Hdr) : Option Ctx := List.find? (fun c => c.hdr == h) f.ctxs

/-- Change the context of a command. -/
def Front.setCtx (f : Front) (h : Hdr) (g : Ctx → Ctx) : Front :=
  { f with ctxs := f.ctxs.map fun c => if c.hdr == h then g c else c }

/-- Drop the context of a command. -/
def Front.dropCtx (f : Front) (h : Hdr) : Front := { f with ctxs := f.ctxs.filter fun c => c.hdr != h }

/-- A failed command leaves an Error Information entry, newest first, of which 64 are kept (R77). -/
def Front.logError (f : Front) (c : Completion) (lba nsid : Nat) : Front :=
  if c.sct = 0 ∧ c.sc = 0 then f
  else { f with
    errLog := (({ count := f.smart.errEntries + 1, hdr := c.hdr, sc := c.sc, sct := c.sct, lba, nsid } : ErrEntry)
      :: f.errLog).take 64
    smart := { f.smart with errEntries := f.smart.errEntries + 1 } }

/-- A command is outstanding: one that is not an Asynchronous Event Request held for an event (R57, R84). -/
def Front.busy (f : Front) : Bool := f.ctxs.any fun c => !f.aers.contains c.hdr

/-- Send an LTR message where the value has changed (R57). -/
def Front.ltrSend (f : Front) (v : Ltr) : Front := if f.ltr = v then f else { f with ltr := v, ltrSent := f.ltrSent ++ [v] }

/-- The value of an operational state: 100 µs with commands outstanding, 3 ms with none. -/
def Front.ltrBack (f : Front) : Front := f.ltrSend (if f.busy then .us100 else .ms3)

/-- The value follows the commands while the controller is operational; in PS3 and PS4 it stays at the maximum (R57). -/
def Front.ltrTick (f : Front) : Front := if f.ltr = .max then f else f.ltrBack

/-- The namespace a context's command names, 0 for none. -/
def Ctx.nsid (c : Ctx) : Nat :=
  match c.cmd with
  | some (.flush _ n) | some (.write _ n _ _ _ _) | some (.read _ n _ _) | some (.writeZeroes _ n _ _) | some (.datasetManagement _ n _ _)
  | some (.verify _ n _ _) | some (.secureDeallocate _ n _) | some (.formatNvm _ n _ _) | some (.namespaceDelete _ n)
  | some (.namespaceAttachment _ n _) | some (.identify _ _ n) => n.toNat
  | _ => 0

/-- Complete one command: only a command whose context Front holds is completed, once (R61, R88). -/
def Front.finishOne (f : Front) (c : Completion) : Front :=
  match f.ctx? c.hdr with
  | none => f
  | some x => (((f.dropCtx c.hdr).logError c (x.failLba.getD 0) x.nsid).post c).ltrTick

/-- Complete a command, and any Abort that waits for its end. -/
def Front.finish (f : Front) (c : Completion) : Front :=
  let f1 := f.finishOne c
  let (mine, rest) := f1.aborts.partition fun a => a.2 == c.hdr
  mine.foldl (fun g a => g.finishOne { hdr := a.1 }) { f1 with aborts := rest }

/-- An asynchronous event: held back while its page is masked, else the answer to the oldest outstanding request, else
kept until one comes (R82). -/
def Front.event (f : Front) (e : AsyncEvent) : Front :=
  if f.masked.contains e.page then f
  else
    match f.aers with
    | h :: rest =>
      Front.finish { f with aers := rest, masked := e.page :: f.masked }
        { hdr := h, dw0 := e.kind + e.info * 256 + e.page * 65536 }
    | [] => { f with events := f.events ++ [e], masked := e.page :: f.masked }

/-! ## Facts about the device used everywhere -/

/-- The device's index in the chain: its strap role (R49, R106). -/
def State.index (s : State) : Nat := s.rf .sysStrap 12 2

def State.isMaster (s : State) : Bool := s.index == 0

/-- N of the chain record; 1 where there is none (R90). -/
def State.chainN (s : State) : Nat := max 1 ((s.teth.chain.map (·.n)).getD 1)

/-- A reset holds the cores, the Map engine, the Codec or the galleries: one whose release has not come to HCLK alone.  While HCLK waits for
REFCLK the console and the galleries work (R54), and a level 3 reset holds Front only (R61). -/
def State.inReset (s : State) : Bool := s.sys.rst.isSome && s.sys.toRelease.any fun c => c != .hclk

/-- A reset of level 0 to 3 is asserted or releasing. -/
def State.resetting (s : State) : Bool := s.sys.rst.isSome

/-- Firmware runs and the state of R116 is the one given. -/
def State.isSt (s : State) (x : SysState) : Bool := s.sys.st == x

/-- User data is withheld (R525). -/
def State.locked (s : State) : Bool := s.vault.lock == .locked

/-- Read-only health (R346). -/
def State.readOnly (s : State) : Bool := s.map.health == 2

/-- The number of a setting's gallery vector updated. -/
def setAt {α : Type} {n : Nat} (v : Vector α n) (i : Fin n) (x : α) : Vector α n := v.set i.val x i.isLt

/-- Change one gallery. -/
def State.gal (s : State) (g : Fin 8) (f : Gallery → Gallery) : State :=
  { s with gals := setAt s.gals g (f (s.gals.get g)) }

end Sys2Proof.Machine
end

