-- ==== Sys2Proof/Machine/Flags.lean ====
section
/-! DEFINITION. The device's flags: the trouble word and its lifetime fields (R575 to R578), the warning of the supply, and the sticky
cause bits (R547). -/

namespace Sys2Proof.Machine

/-! ## The trouble word (R575 to R577) -/

/-- The reserved positions of the trouble word never set (R578). -/
def troubleValid : BitVec 64 := 0x7F7F1F3F7F3FFF3F

/-- Whether a trouble bit is set. -/
def State.trb (s : State) (n : Nat) : Bool := s.sys.trouble.getLsbD n

/-- Bits 56 to 60 report a sensor and post their event only while `alarm.notify` is on (R534). -/
def State.notifies (s : State) (n : Nat) : Bool :=
  Config.vendorEvents s.front.feats.aec && (!(decide (56 ≤ n ∧ n ≤ 60)) || s.settings.alarmNotify)

/-- Set a trouble bit (R575): its lifetime second is recorded; a rise posts the vendor event of R82. -/
def State.raise (s : State) (n : Nat) : State :=
  { s with
    sys := { s.sys with
      trouble := s.sys.trouble ||| (1#64 <<< n)
      trbTime := Store.set (fun _ => 0) s.sys.trbTime n (BitVec.ofNat 32 s.sys.life) }
    front := if !s.trb n && s.notifies n then s.front.event ⟨7, 0xC3, 0xC3⟩ else s.front }

/-- Set a trouble bit when a condition holds. -/
def State.raiseIf (s : State) (c : Bool) (n : Nat) : State := if c then s.raise n else s

/-- Clear trouble bits and zero their lifetime seconds (R576); reserved positions are not there to clear. -/
def State.clearBits (s : State) (mask : BitVec 64) : State :=
  { s with sys := { s.sys with
      trouble := s.sys.trouble &&& ~~~mask
      trbTime := Store.drop (fun k => mask.getLsbD k) s.sys.trbTime } }

/-- A supply rail is below its warning threshold (R554, R565). -/
def State.brownWarning (s : State) : Bool := s.rf .sysSupply 0 5 != 0

/-! ## The cause register (R547) -/

/-- Set the cause bit of a source. -/
def State.cause (s : State) (src : Nat) : State :=
  s.setReg .sysCause (s.reg .sysCause ||| BitVec.ofNat 32 (2 ^ src))

end Sys2Proof.Machine
end

