-- ==== Sys2Proof/Machine/Blocks.lean ====
section
/-! DEFINITION. Chambers, device blocks and their records (R14, R291), and the read-offset records (R258). -/

namespace Sys2Proof.Machine

/-! ## Chambers and blocks (R14, R291). A block is named here by chamber × 65536 + block. -/

def galOf (c : Fin 128) : Fin 8 := ⟨c.val / 16, by omega⟩
def chIn (c : Fin 128) : Fin 16 := ⟨c.val % 16, by omega⟩
def chOfBlk (k : Nat) : Fin 128 := Fin.ofNat 128 (k / 65536)

/-- The profile of a chamber: that of its gallery. -/
def State.prof (s : State) (c : Fin 128) : Option Profile := (s.gals.get (galOf c)).profile

/-- A suspect chamber (R163, R168). -/
def State.suspect (s : State) (c : Fin 128) : Bool := (s.reg (.galSuspect (galOf c))).getLsbD (chIn c).val

/-- The blocks of a chamber. -/
def State.blocksOf (s : State) (c : Fin 128) : Nat := ((s.prof c).map (·.blocks)).getD 0

/-- A block's record; an unlisted block is free and never erased. -/
def blk0 : Nat → Blk := fun _ => {}
def State.blk (s : State) (k : Nat) : Blk := Store.get blk0 s.map.blks k
def State.setBlk (s : State) (k : Nat) (f : Blk → Blk) : State :=
  { s with map := { s.map with blks := Store.modify blk0 s.map.blks k f } }

/-- Whether a block exists: on a present chamber, within its profile's blocks. -/
def State.hasBlk (s : State) (k : Nat) : Bool :=
  decide (k < 128 * 65536) && s.map.present.contains (chOfBlk k) && decide (k % 65536 < s.blocksOf (chOfBlk k))

/-- The device block number: blocks of lower-indexed present chambers, plus the block (R291). -/
def State.devBlock (s : State) (k : Nat) : Nat :=
  sumNat ((s.map.present.filter fun c => c.val < (chOfBlk k).val).map s.blocksOf) + k % 65536

/-- The chamber and block of a device block number. -/
def State.ofDevBlock (s : State) (n : Nat) : Option Nat :=
  ((fins 128).filter fun c => s.map.present.contains c).findSome? fun c =>
    let base := s.devBlock (c.val * 65536)
    if base ≤ n ∧ n < base + s.blocksOf c then some (c.val * 65536 + (n - base)) else none

/-! ## Map entries (R284) -/

/-- A map entry's 8 bytes (R284). -/
def entryWord : Entry → Nat
  | .unmapped => 0
  | .mapped l => l.chamber.val + 2 ^ 7 * l.block + 2 ^ 23 * l.page + 2 ^ 35 * l.cw.val + 2 ^ 37
  | .damaged => 2 ^ 38

/-! ## Read-offset records (R258, R259) -/

/-- The key of a group's record: chamber index, then group of 64 blocks. -/
def ofsKey (c : Fin 128) (group : Nat) : Nat := c.val * 1024 + group

/-- The record a group starts with: the profile's default vector, its reference temperature, not searched (R259). -/
def Profile.ofs0 (p : Profile) : OfsRec := { vec := p.ofsDefault, temp := p.refTemp }

/-- A group's record. -/
def State.ofs (s : State) (c : Fin 128) (group : Nat) : OfsRec :=
  match Store.find s.assay.ofs (ofsKey c group), s.prof c with
  | some r, _ => r
  | none, some p => p.ofs0
  | none, none => { vec := [], temp := 0 }

end Sys2Proof.Machine
end

