-- ==== Sys2Proof/Machine/KeeperView.lean ====
section
/-! DEFINITION. What firmware and the Map engine keep in Keeper words at addresses whose layout the manual gives (R258, R285, R289, R291,
R325, R331, R332, R431, R433).  A debug or privileged write there changes what the word shows, not what the engines work with (log entry 29). -/

namespace Sys2Proof.Machine

/-- The 64-bit word of 8 bytes. -/
def word64 (b : List Nat) : BitVec 64 := BitVec.ofNat 64 (leNat b)

/-- The number of a block state, and of a use, in a block record (R291). -/
def BlkSt.num : BlkSt → Nat
  | .free => 0 | .erased => 1 | .opened => 2 | .closed => 3 | .bad => 4 | .tainted => 5
def BlkUse.num : BlkUse → Nat
  | .none => 0 | .sump => 1 | .native => 2 | .parity => 3 | .map => 4 | .journal => 5

/-- A block record's 64 bits (R291). -/
def Blk.word (b : Blk) : Nat :=
  min (2 ^ 20 - 1) b.erase + 2 ^ 20 * b.st.num + 2 ^ 24 * b.use.num + 2 ^ 27 * b2n b.pslc + 2 ^ 28 * b2n b.held + 2 ^ 29 * b2n b.floor +
    2 ^ 30 * b2n b.refresh + 2 ^ 31 * b2n b.sealed + 2 ^ 32 * (b.valid % 65536) + 2 ^ 48 * (b.closedH % 65536)

/-- A health record's 32 bits (R325). -/
def Blk.health (b : Blk) : Nat :=
  min 65535 b.reads + 2 ^ 16 * min 3 b.strikes + 2 ^ 18 * (b.cause % 8) + 2 ^ 24 * min 8 b.eighths

/-- A signed number in one byte. -/
def sbyte (x : Int) : Nat := (BitVec.ofInt 8 x).toNat

/-- A read-offset record's 24 bytes (R258). -/
def OfsRec.bytes (r : OfsRec) : List Nat :=
  (List.range 15).map (fun j => sbyte (r.vec.getD j 0)) ++ [b2n r.searched + 2 * b2n r.pend, sbyte r.temp, 0] ++ leBytes 2 r.flips ++ leBytes 4 r.secs

/-- Groups of 64 blocks in a chamber (R278): from the first profile installed. -/
def State.ofsGroups (s : State) : Nat := ((s.gals.toList.findSome? fun g => g.profile).map fun p => ceilDiv p.blocks 64).getD 0

/-- A word of the record table, by its number there. -/
def State.ofsWord (s : State) (i : Nat) : Option (BitVec 64) :=
  let g := s.ofsGroups
  if g = 0 ∨ i / 3 ≥ 128 * g then none
  else
    let c : Fin 128 := Fin.ofNat 128 (i / 3 / g)
    if (s.prof c).isSome then some (word64 (((s.ofs c (i / 3 % g)).bytes.drop (8 * (i % 3))).take 8)) else none

/-- The record of a device block, if there is one. -/
def State.devBlk (s : State) (n : Nat) : Option Blk := (s.ofDevBlock n).map s.blk

/-- The word a live table shows at a Keeper word index, if a table with a documented layout lies there: patrol queue, patrol table, top
table, pending table, offset records, block records, health records. -/
def keeperView (s : State) (i : Nat) : Option (BitVec 64) :=
  if 0xA000 ≤ i ∧ i < 0xC000 then (s.map.patrolQ[i - 0xA000]?).map fun e => BitVec.ofNat 64 (e.1 % 2 ^ 32 + 2 ^ 32 * e.2)
  else if 0xC000 ≤ i ∧ i < 0x10000 then
    some (BitVec.ofNat 64 (sumNat ((List.range 32).map fun k =>
      4 ^ k * (match s.map.patrolTable.find? fun e => e.1 == 32 * (i - 0xC000) + k with | some e => 1 + b2n e.2 | none => 0))))
  else if 0x10000 ≤ i ∧ i < 0x18000 then
    if s.map.mounted then some (BitVec.ofNat 64 (((Store.find s.map.onFlash (2 ^ 38 + (i - 0x10000))).map fun l => entryWord (.mapped l)).getD 0)) else none
  else if 0x140000 ≤ i ∧ i < 0x148000 then
    (s.map.pendTable[(i - 0x140000) / 2]?).map fun e => BitVec.ofNat 64 (if i % 2 = 0 then e.1 % 2 ^ 40 else e.2 % 2 ^ 48)
  else if 0x20000 ≤ i ∧ i < 0x80000 then s.ofsWord (i - 0x20000)
  else if 0x80000 ≤ i ∧ i < 0x100000 then (s.devBlk (i - 0x80000)).map fun b => BitVec.ofNat 64 b.word
  else if 0x100000 ≤ i ∧ i < 0x140000 then
    match s.devBlk (2 * (i - 0x100000)), s.devBlk (2 * (i - 0x100000) + 1) with
    | some a, some b => some (BitVec.ofNat 64 (a.health + 2 ^ 32 * b.health))
    | some a, none => some (BitVec.ofNat 64 a.health)
    | none, _ => none
  else none

end Sys2Proof.Machine
end

