-- ==== Sys2Proof/Machine/Crc.lean ====
section
/-! DEFINITION. The check codes: CRC-8 of console lines and Lantern (R99, R488) and CRC-32C of stored records. -/

namespace Sys2Proof

/-- One bit step of the CRC-8 with polynomial 0x07. -/
def crc8Bit (c : Nat) : Nat := if c ≥ 128 then ((c * 2) % 256) ^^^ 0x07 else c * 2

/-- CRC-8 of R99: initial value 0, no reflection, no final XOR. -/
def crc8 (bytes : List Nat) : Nat := bytes.foldl (fun c b => Nat.repeat crc8Bit 8 (c ^^^ b)) 0

/-- One bit step of CRC-32C, reflected. -/
def crc32cBit (c : Nat) : Nat := if c % 2 = 1 then (c / 2) ^^^ 0x82F63B78 else c / 2

/-- CRC-32C (Castagnoli) of a list of bytes. -/
def crc32c (bytes : List Nat) : Nat :=
  (bytes.foldl (fun c b => Nat.repeat crc32cBit 8 (c ^^^ b)) 0xFFFFFFFF) ^^^ 0xFFFFFFFF

/-- Bytes padded with zeros to a length. -/
def padTo (n : Nat) (l : List Nat) : List Nat := (l ++ List.replicate (n - l.length) 0).take n

end Sys2Proof
end

