-- ==== Sys2Proof/Machine/Randomiser.lean ====
section
/-! DEFINITION. The randomiser of the galleries (R216 to R218): a 32-bit Galois LFSR seeded per plane-page, one keystream
bit per step, the first bit of each eight in bit 7. -/

namespace Sys2Proof.Machine

/-- The seed of a plane-page (R217): the block's number, the page in the block's mode, the chamber index (R14). -/
def rndSeed (block page chamber : Nat) : Word :=
  let v := BitVec.ofNat 32 (block * 0x9E37 + page * 0x85EB + chamber)
  if v = 0 then 1 else v

/-- One step of the LFSR: its output bit is bit 31 before the step. -/
def rndStep (st : Word) : Word := if st.getLsbD 31 then (st <<< 1) ^^^ 0x00400007#32 else st <<< 1

/-- Eight steps: the keystream byte and the state after it. -/
def rndByte : Nat → Word → Nat → Nat × Word
  | 0, st, acc => (acc, st)
  | n + 1, st, acc => rndByte n (rndStep st) (2 * acc + b2n (st.getLsbD 31))

/-- `n` keystream bytes from a state. -/
def rndBytes : Nat → Word → List Nat
  | 0, _ => []
  | n + 1, st => let (b, st') := rndByte 8 st 0; b :: rndBytes n st'

/-- The keystream of `n` bytes from column `col` of a plane-page. -/
def keystream (seed : Word) (col n : Nat) : List Nat := (rndBytes (col + n) seed).drop col

/-- Bytes with the randomiser applied or removed: the same XOR. -/
def randomise (seed : Word) (col : Nat) (bytes : List Nat) : List Nat :=
  List.zipWith (fun a b => a ^^^ b) bytes (keystream seed col bytes.length)

/-- The flips of a raw sentinel read (R215): its population count against the regenerated image. -/
def flipCount (raw image : List Nat) : Nat :=
  sumNat (List.zipWith (fun a b => popCount 8 (a ^^^ b)) raw image)

end Sys2Proof.Machine
end

