-- ==== Sys2Proof/Machine/Codeword.lean ====
section
/-! DEFINITION. The codeword byte for byte (R211 to R215, R226): header, data field, parity, the pad and the sentinel. -/

namespace Sys2Proof.Machine

/-- The 4096 bytes of a sector. -/
def sectorBytes (d : Sector) : List Nat := d.lba.toList.flatMap (leBytes 512)

/-- A sector from its 4096 bytes. -/
def bytesSector (l : List Nat) : Sector := ⟨Vector.ofFn fun i : Fin 8 => leNat ((l.drop (512 * i.val)).take 512)⟩

/-- Byte 5 of a header: namespace and kind. -/
def Cw.byte5 (c : Cw) : Nat := c.ns % 8 + 16 * (c.kind % 16)

/-- Bytes 0 to 19 of a header: LBA field, namespace and kind, sequence number, lifetime seconds, CRC of the plain data field.  The sentinel's
fields are zero beside its kind and its CRC (R215). -/
def Cw.fields (c : Cw) : List Nat :=
  leBytes 5 c.lba ++ [c.byte5] ++ leBytes 6 c.seq ++ leBytes 4 c.secs ++ leBytes 4 (crc32c (sectorBytes c.data))

/-- The 32 bytes of a header (R213). -/
def Cw.header (c : Cw) : List Nat := c.fields ++ leBytes 4 (crc32c c.fields) ++ List.replicate 8 0

/-- The XTS tweak: the header's bytes 0 to 5 and ten zero bytes (R226). -/
def Cw.tweak (c : Cw) : List Nat := leBytes 5 c.lba ++ [c.byte5] ++ List.replicate 10 0

/-- The data field as it stands in the array: encrypted under the codeword's key, or plain for the kinds that have none. -/
def Cw.field (c : Cw) : List Nat :=
  match c.key with
  | some k => (List.range 4096).map fun i => (Config.xtsByte k c.tweak (sectorBytes c.data) i).toNat
  | none => sectorBytes c.data

/-- The 480 parity bytes of the systematic code over bytes 0 to 4127; its matrix is the part's own (log entry 4). -/
def ldpcParity (b : List Nat) : List Nat := (List.range 480).map fun i => (Config.ldpcByte b i).toNat

/-- The 4608 bytes of a codeword before randomising (R211). -/
def Cw.bytes (c : Cw) : List Nat := let b := c.header ++ c.field; b ++ ldpcParity b

/-- A header that names no kind the device writes, or sets a reserved bit, fails its check (R213). -/
def headerNames (h : List Nat) : Bool := decide (h.getD 5 0 / 16 ≤ 6) && h.getD 5 0 / 8 % 2 == 0 && (h.drop 24).all (· == 0)

/-- The sentinel of a closed block, and the pad (R215). -/
def sentinelCw : Cw := { kind := 4, lba := 0 }
def padCw (secs : Nat) : Cw := { kind := 6, lba := 0xFF_FFFF_FFFF, secs }

/-- The parity descriptor's data field (R234): layout version, members, mode, first position, positions held, member entries. -/
def descriptorBytes (g : StripeGroup) (first positions : Nat) : List Nat :=
  let entry (m : Option Nat) : List Nat := match m with
    | some k => [k / 65536, 0] ++ leBytes 2 (k % 65536) ++ [0, 0, 0, 0]
    | none => [0xFF, 0, 0, 0, 0, 0, 0, 0]
  let ms := (g.members ++ List.replicate 16 none).take 16
  [1, 0, g.width, b2n (!g.pslc)] ++ leBytes 2 first ++ leBytes 2 positions ++ ms.flatMap entry ++ List.replicate 3960 0

/-- The XOR of two codewords, byte by byte. -/
def xorBytes (a b : List Nat) : List Nat := List.zipWith (· ^^^ ·) a b

/-- The sentinel image: one for every block, in mask ROM and in the always-on sequencer (R215). -/
def sentinelImage : List Nat := sentinelCw.bytes

/-- The flips of a raw sentinel read: the population count of raw ⊕ keystream ⊕ image (R215).  The sentinel starts at column 13 824 of the
final page of a block of the chamber. -/
def sentinelFlips (block page chamber : Nat) (raw : List Nat) : Nat :=
  flipCount raw (randomise (rndSeed block page chamber) 13824 sentinelImage)

end Sys2Proof.Machine
end

