-- ==== Sys2Proof/Machine/Profile.lean ====
section
/-! DEFINITION. The chamber profile image (R187 to R197): its fields, its validation in order with the name of the first
failing field (R198), the ops of a list (R179) and the standard lists (R185, R605). -/

namespace Sys2Proof.Machine

/-! ## Ops (R179) -/

/-- The opcode of an op, and a field of its operands. -/
def opc (w : Word) : Nat := fld w 27 5
def opf (w : Word) (lo n : Nat) : Nat := fld w lo n

/-- The operand bits the table names, by opcode. -/
def opNamed : Nat → Nat
  | 0x0 => 0x1FF | 0x1 => 0x7FF | 0x2 => 0xFF07 | 0x3 => 0x9FFFF | 0x4 => 0xFFFFF | 0x5 => 0xFF | 0x6 => 0x3F
  | 0x7 => 0x7FFFF | 0x8 => 0xF | 0x9 => 0xFFFFF | 0xA => 0x10000 | 0xB => 0xFFFFFF | 0xC => 0x3FFFFF
  | 0xD => 0x1003F | 0xE => 0xFFFFF | 0xF => 0x3F | _ => 0

/-- Command bytes that only lists of a program or erase kind may hold (R183). -/
def guardedBytes : List Nat := [0x10, 0x11, 0x15, 0x1A, 0x60, 0x80, 0x81, 0x85, 0xD0, 0xD1]

/-- Whether op `i` of a list of `n` ops and kind `kind` is valid: opcode, reserved bits, targets, CALL, WAITP index, the rules
of R181 to R183.  `callable` tells the slots of kind 8. -/
def opValid (guarded : List Nat) (callable : Nat → Bool) (kind n i : Nat) (w : Word) : Bool :=
  let f := opf w
  decide (opc w < 16) && (w &&& BitVec.ofNat 32 (0x7FFFFFF - opNamed (opc w))) == 0 &&
    match opc w with
    | 0x1 =>
      (f 8 1 == 0 || match f 9 2 with
        | 1 => kind == 2 || kind == 3
        | 2 => kind == 4
        | _ => true) &&
      (kind == 2 || kind == 3 || kind == 4 || !((guardedBytes ++ guarded).contains (f 0 8)))
    | 0x2 => decide (f 0 3 ≤ 5)
    | 0x3 => f 19 1 == 0 || (f 0 16 == 0 && f 16 1 == 0)
    | 0x4 => decide (f 17 2 ≤ 2) && (f 19 1 == 0 || (f 0 16 == 0 && f 16 1 == 0 && f 17 2 == 0))
    | 0x6 => decide (f 0 4 ≤ 14) && decide (f 4 2 ≤ 2)
    | 0x7 => decide (f 16 2 ≤ 2) &&
        (f 18 1 == 1 || decide (f 0 16 * (match f 16 2 with | 0 => 1 | 1 => 100 | _ => 10000) ≤ 1000))
    | 0x8 => decide (f 0 4 ≤ 11)
    | 0x9 => decide (f 17 3 ≤ 4)
    | 0xB => decide (i < f 18 6 ∧ f 18 6 < n)
    | 0xD => decide (f 0 6 < n)
    | 0xF => kind != 8 && callable (f 0 6)
    | _ => true

/-! ## Standard lists (R185, R605) -/

/-- The kind of a standard slot. -/
def stdKind : Nat → Option Nat
  | 0 | 21 => some 5
  | 1 | 8 | 9 | 10 | 20 => some 1
  | 2 | 3 | 11 => some 2
  | 4 | 5 => some 3
  | 6 | 7 => some 4
  | 12 => some 6
  | 13 => some 7
  | 14 | 15 | 16 | 17 | 18 | 19 => some 0
  | 24 | 25 | 26 | 27 | 28 | 29 | 30 | 31 => some 8
  | _ => none

/-- An op word of an opcode and its operands (R179). -/
def opw (code operand : Nat) : Word := BitVec.ofNat 32 (code * 2 ^ 27 + operand)

/-- The ops the standard lists are built of: CMD, ADDR, WAITP, a branch taken when (S AND 01h) = 00h, SETL of L0 from NPL, LOOP. -/
def cmdW (b : Nat) : Word := opw 0x1 b
def addrW (k : Nat) : Word := opw 0x2 k
def waitpW (i : Nat) : Word := opw 0x8 i
/-- POLL 40h/40h, enhanced, with the first delay of a class; CMD with arm set for a class. -/
def pollW (first : Nat) : Word := opw 0x9 (0x14040 + first * 2 ^ 17)
def armW (cls b : Nat) : Word := opw 0x1 (0x100 + cls * 2 ^ 9 + b)
/-- DIN and DOUT of LEN bytes, randomised; DOUT goes to the Codec. -/
def dinW : Word := opw 0x3 0x10000
def doutW : Word := opw 0x4 0x30000
/-- SETL L0 from NPL, less one or as it stands; BR L0 = 0; LOOP L0; SET BLK and PAGE by an addition. -/
def setlW (less : Bool) : Word := opw 0xC (0xE0000 + (if less then 2 ^ 21 else 0))
def brL0 (target : Nat) : Word := opw 0xB (target * 2 ^ 18 + 2 * 2 ^ 16)
def loopW (target : Nat) : Word := opw 0xD target
def addBlk (n : Nat) : Word := opw 0xE (0x80000 + n)
def addPage (n : Nat) : Word := opw 0xE (0x90000 + n)
/-- The status of a program or erase at index `i`, and the list's end: a FAIL bit ends it with fail and a code. -/
def failTail (first code i : Nat) : List Word :=
  [waitpW 0, pollW first, opw 0xB ((i + 4) * 2 ^ 18 + 1), opw 0x0 (0x100 + code), opw 0x0 0]
/-- Data of a plane-page to a die: 80h, its address, tADL, the data. -/
def dataIn (addr : Nat) : List Word := [cmdW 0x80, addrW addr, waitpW 2, dinW]
/-- Data of a plane-page from a die: 06h, its address, E0h, tCCS, the data. -/
def dataOut : List Word := [cmdW 0x06, addrW 2, cmdW 0xE0, waitpW 3, doutW]

/-- The standard lists as sequences (R185).  Those of slots 1 and 3 are tabulated word for word; every other binds by what it places on the
bus and reports (R605), and these words are one list that does so (log entry 53). -/
def stdOps (slot : Nat) (qlc : Bool) (suspend resume : Nat) : List Word :=
  match slot with
  | 0 => [armW 3 0xFF, waitpW 0, opw 0x9 (0x4040 + 4 * 2 ^ 17), opw 0x0 0]
  | 1 => [0x7800001A, 0x08000000, 0x10000002, 0x08000130, 0x40000000, 0x48034040, 0x08000006, 0x10000002, 0x080000E0,
          0x40000003, 0x20030000, 0x00000000]
  | 2 => opw 0xF 24 :: dataIn 2 ++ [armW 1 0x10] ++ failTail 2 1 6
  | 3 => [0x78000018, 0x602E0000, 0x582E0000, 0x08000080, 0x10000002, 0x40000002, 0x18010000, 0x08000011, 0x40000008,
          0x70080001, 0x68000003, 0x08000080, 0x10000002, 0x40000002, 0x18010000, 0x08000310, 0x40000000, 0x48054040,
          0x58500001, 0x00000101, 0x00000000]
  | 4 =>
    let page : List Word := dataIn 1 ++ [cmdW 0x1A, waitpW 8, addPage 1]
    let head : List Word := opw 0xF 25 :: (if qlc then page ++ page ++ page else page ++ page) ++ dataIn 1 ++ [armW 1 0x10]
    head ++ failTail 2 1 head.length
  | 5 =>
    -- the wordline's pages but the last under L1, each across the planes under L0; then the last page
    let planes (at_ : Nat) : List Word := [setlW true, brL0 (at_ + 10)] ++ dataIn 1 ++ [cmdW 0x11, waitpW 8, addBlk 1, loopW (at_ + 2)] ++ dataIn 1
    [opw 0xF 25, opw 0xC (0x10000 + (if qlc then 3 else 2))] ++ planes 2 ++ [cmdW 0x1A, waitpW 8, addPage 1] ++
      [setlW true, brL0 23, addBlk 0xFFFF, loopW 21, opw 0xD 0x10002] ++ planes 24 ++ [armW 1 0x10] ++ failTail 2 1 39
  | 6 => [cmdW 0x60, addrW 1, armW 2 0xD0] ++ failTail 3 2 3
  | 7 => [setlW true, brL0 7, cmdW 0x60, addrW 1, cmdW 0xD1, addBlk 1, loopW 2, cmdW 0x60, addrW 1, armW 2 0xD0] ++ failTail 3 2 10
  | 8 => [setlW true, brL0 7, cmdW 0x00, addrW 1, cmdW 0x32, addBlk 1, loopW 2, cmdW 0x00, addrW 1, armW 0 0x30, waitpW 0, pollW 1] ++
      -- back to the first plane, then the data of each in turn
      [setlW true, brL0 16, addBlk 0xFFFF, loopW 14, setlW false] ++ dataOut ++ [addBlk 1, loopW 17, opw 0x0 0]
  | 9 => [armW 0 0x31, waitpW 0, pollW 1, doutW, opw 0x0 0]
  | 10 => [armW 0 0x3F, waitpW 0, pollW 1, doutW, opw 0x0 0]
  | 11 => opw 0xF 24 :: dataIn 2 ++ [armW 1 0x15] ++ failTail 2 1 6
  | 12 => [cmdW suspend, pollW 0, opw 0x0 0]
  | 13 => [cmdW resume, opw 0x0 0]
  | 14 => [cmdW 0x90, addrW 3, waitpW 1, opw 0x4 1, opw 0x0 0]
  | 15 => [cmdW 0xEC, addrW 3, waitpW 0, opw 0x7 (1 + 2 * 2 ^ 16 + 2 ^ 18), opw 0x4 32, opw 0x0 0]
  | 16 => [cmdW 0xD4, addrW 4, addrW 5, waitpW 0, waitpW 5, pollW 0, opw 0x4 0x80000, opw 0x0 0]
  | 17 => [cmdW 0xD5, addrW 4, addrW 5, waitpW 2, opw 0x3 0x80000, waitpW 0, waitpW 5, pollW 0, opw 0x0 0]
  | 18 => [cmdW 0xF9, waitpW 0, opw 0x0 0]
  | 19 => [cmdW 0xD9, waitpW 0, opw 0x0 0]
  | 20 => [cmdW 0x00, addrW 2, armW 0 0x30, waitpW 0, pollW 1, cmdW 0x06, addrW 2, cmdW 0xE0, waitpW 3, opw 0x4 0, opw 0x0 0]
  | 21 => [armW 3 0xFA, addrW 1, waitpW 0, pollW 4, opw 0x0 0]
  | 24 | 25 | 26 | 27 => [0x00000000]
  | _ => []

/-- A standard slot; slots 22, 23 and the hooks 28 to 31 are empty. -/
def stdSlot (slot : Nat) (qlc : Bool) (suspend resume : Nat) : Option OpSlot :=
  if 28 ≤ slot then none else (stdKind slot).map fun k => ⟨k, stdOps slot qlc suspend resume⟩

/-- What GAL_OPS_DATA reads back of a standard list that is the stepping's own (R208, R605): every word but the first of slot 0. -/
def stdWord (slot index : Nat) (qlc : Bool) : Word :=
  if slot = 0 ∧ index = 0 then 0x080007FF else (Config.romOps slot qlc).getD index 0

/-- Whether the manual tabulates a standard list's words. -/
def tabulated (slot : Nat) : Bool := [1, 3, 24, 25, 26, 27].contains slot

/-- The 64 slots a profile gives its gallery: the standard lists, replaced and extended by the supplied ones (R185, R199). -/
def Profile.slots (p : Profile) : List (Option OpSlot) :=
  (List.range 64).map fun s => match p.lists.find? fun e => e.1 == s with
    | some (_, l) => some l
    | none => stdSlot s p.qlc p.suspCmd p.resumeCmd

/-! ## Reading the image -/

/-- Byte, little-endian numbers and signed numbers at an offset of an image. -/
def ib (m : List Nat) (o : Nat) : Nat := m.getD o 0
def i16 (m : List Nat) (o : Nat) : Nat := ib m o + 256 * ib m (o + 1)
def i32 (m : List Nat) (o : Nat) : Nat := i16 m o + 65536 * i16 m (o + 2)
def s8 (m : List Nat) (o : Nat) : Int := (BitVec.ofNat 8 (ib m o)).toInt
def s16 (m : List Nat) (o : Nat) : Int := (BitVec.ofNat 16 (i16 m o)).toInt

/-- The offset and length of section `k`. -/
def secOff (m : List Nat) (k : Nat) : Nat := i16 m (32 + 4 * k)
def secLen (m : List Nat) (k : Nat) : Nat := i16 m (34 + 4 * k)

/-- The interface of each rate (R143), none for a rate the table does not give. -/
def rateIface : Nat → List Nat
  | 200 | 400 | 533 | 667 | 1066 => [0]
  | 800 | 1200 | 1600 => [0, 1]
  | 2400 | 3200 => [1]
  | 3600 | 4000 | 4400 | 4800 => [2]
  | _ => []

/-- The mode entries. -/
def imgModes (m : List Nat) : List Mode :=
  let o := secOff m 2
  (List.range (ib m o)).map fun k =>
    let e := o + 4 + 32 * k
    { rate := i16 m e, iface := ib m (e + 2), tm := ib m (e + 3), drive := ib m (e + 4), odt := ib m (e + 5)
      timings := (List.range 12).map fun j => i16 m (e + 8 + 2 * j) }

/-- The supplied op lists, read in ascending slot order from section 7, and the length they take. -/
def imgLists (m : List Nat) : List (Nat × OpSlot) × Nat :=
  let o := secOff m 7
  (List.range 64).foldl (fun (ls, at_) s =>
    if bitOf (i32 m o + 2 ^ 32 * i32 m (o + 4)) s then
      let n := ib m (o + at_)
      let k := ib m (o + at_ + 1) % 16
      (ls ++ [(s, ⟨k, (List.range n).map fun j => BitVec.ofNat 32 (i32 m (o + at_ + 4 + 4 * j))⟩)], at_ + 4 + 4 * n)
    else (ls, at_)) ([], 8)

/-- The profile an image describes. -/
def imgProfile (m : List Nat) : Profile :=
  let i := secOff m 0; let g := secOff m 1; let t := secOff m 3; let l := secOff m 4; let r := secOff m 5; let f := secOff m 6
  let n := ib m (l + 2)
  let pair (o : Nat) := (i16 m o, i16 m (o + 2))
  { crc := BitVec.ofNat 32 (i32 m 12), image := m
    readId := (List.range 8).map fun k => ib m (i + k), readIdN := ib m (i + 8)
    maker := (List.range 12).map fun k => ib m (i + 12 + k), model := (List.range 20).map fun k => ib m (i + 24 + k)
    guarded := ((List.range 8).map fun k => ib m (i + 44 + k)).filter fun b => b != 0
    qlc := ib m g == 2, planes := ib m (g + 1), luns := ib m (g + 2), rowCycles := ib m (g + 3), colCycles := ib m (g + 4)
    lunBit := ib m (g + 5), blkBit := ib m (g + 6), ppw := ib m (g + 7), blocks := i16 m (g + 8)
    pagesNative := i16 m (g + 10), pagesPslc := i16 m (g + 12), pageBytes := i16 m (g + 14)
    bbmCol := i16 m (g + 16), bbmMask := ib m (g + 18), flags := ib m (g + 19), ioMv := i16 m (g + 20)
    modes := imgModes m
    tReadPslc := pair t, tReadNative := pair (t + 4), tProgPslc := pair (t + 8), tProgNative := pair (t + 12)
    tErase := pair (t + 16), tReset := pair (t + 20)
    suspFlags := ib m (t + 24), suspMax := ib m (t + 25), suspReads := ib m (t + 26), suspLatency := i16 m (t + 28)
    minProg := i16 m (t + 30), minErase := i16 m (t + 32), suspCmd := ib m (t + 34), resumeCmd := ib m (t + 35)
    ofsLo := s8 m (l + 3), ofsHi := s8 m (l + 4), refTemp := s8 m (l + 5)
    ofsDefault := (List.range n).map fun k => s8 m (l + 8 + k)
    coef := (List.range n).map fun k => s16 m (l + 8 + n + 2 * k)
    retry := (List.range (ib m r)).map fun j => (List.range n).map fun k => s8 m (r + 4 + j * n + k)
    ratedNative := i32 m f, ratedPslc := i32 m (f + 4), rdNative := i16 m (f + 8), rdPslc := i16 m (f + 10)
    lists := (imgLists m).1 }

/-! ## Validation in order (R198) -/

/-- The first failing check's name. -/
def firstFail : List (Bool × String) → Option String
  | [] => none
  | (c, n) :: r => if c then firstFail r else some n

/-- Steps 1 to 3: header, CRC and directory. -/
def headerChecks (m : List Nat) (len : Nat) : List (Bool × String) :=
  let dirOk := (List.range 8).all fun k =>
    secOff m k % 4 == 0 && decide (secOff m k ≥ 64 ∧ secOff m k + secLen m k ≤ m.length) &&
      (k == 0 || decide (secOff m (k - 1) + secLen m (k - 1) ≤ secOff m k))
  [(i32 m 8 == len && decide (1024 ≤ len ∧ len ≤ 32768) && len % 64 == 0, "hdr.length"),
   (m.take 4 == [0x5A, 0x43, 0x50, 0x31], "hdr.magic"),
   (i16 m 4 == 1, "hdr.version"),
   (i16 m 6 == 64, "hdr.hdrlen"),
   (i32 m 12 == crc32c (m.take 12 ++ [0, 0, 0, 0] ++ m.drop 16), "hdr.crc"),
   (dirOk, "hdr.dir")]

/-- Step 4: sections 0 to 6.  Names the manual does not give follow its pattern (log entry 19). -/
def sectionChecks (m : List Nat) : List (Bool × String) :=
  let p := imgProfile m
  let inR (lo n hi : Nat) : Bool := decide (lo ≤ n ∧ n ≤ hi)
  let nm := ib m (secOff m 2)
  let lv := ib m (secOff m 4 + 2)
  let rows := ib m (secOff m 5)
  [(secLen m 0 == 64, "id.length"), (inR 1 p.readIdN 8, "id.compare"),
   (secLen m 1 == 64, "geo.length"), (inR 1 (ib m (secOff m 1)) 2, "geo.cells"), (inR 1 p.planes 4, "geo.planes"),
   (inR 1 p.luns 2, "geo.luns"), (inR 3 p.rowCycles 4, "geo.row_cycles"), (p.colCycles == 2, "geo.col_cycles"),
   (inR 0 p.lunBit 31, "geo.lun_bit"), (inR 0 p.blkBit 31, "geo.block_bit"), (p.ppw == (if p.qlc then 4 else 3), "geo.ppw"),
   (inR 64 p.blocks 65535 && p.blocks % p.planes == 0, "geo.blocks"),
   (inR 3 p.pagesNative 4095 && p.pagesNative % p.ppw == 0, "geo.pages_native"), (inR 1 p.pagesPslc 4095, "geo.pages_pslc"),
   (inR 18432 p.pageBytes 32767, "geo.page_bytes"), (decide (p.bbmCol < p.pageBytes), "geo.marker_col"),
   (inR 1 p.bbmMask 7, "geo.marker_pages"), (p.ioMv == 900 || p.ioMv == 1200, "geo.io_mv"),
   (inR 1 nm 13, "mode.count"), (secLen m 2 == 4 + 32 * nm, "mode.length")] ++
  (p.modes.zipIdx.flatMap fun (e, k) =>
    [(!(rateIface e.rate).isEmpty && (k == 0 || decide ((p.modes.getD (k - 1) e).rate < e.rate)), "mode." ++ toString k ++ ".rate"),
     (e.iface ∈ rateIface e.rate && (e.iface == 0) == (p.ioMv == 1200), "mode." ++ toString k ++ ".iface")]) ++
  [(secLen m 3 == 64, "time.length"), (decide (p.tReadPslc.1 ≤ p.tReadPslc.2), "time.read_pslc"),
   (decide (p.tReadNative.1 ≤ p.tReadNative.2), "time.read_native"), (decide (p.tProgPslc.1 ≤ p.tProgPslc.2), "time.prog_pslc"),
   (decide (p.tProgNative.1 ≤ p.tProgNative.2), "time.prog_native"), (decide (p.tErase.1 ≤ p.tErase.2), "time.erase"),
   (decide (p.tReset.1 ≤ p.tReset.2 ∧ p.tReset.2 ≤ 5000), "time.reset"), (inR 0 p.suspMax 32, "time.suspends"),
   (inR 1 p.suspReads 16, "time.reads"),
   ((p.suspFlags % 4 == 0) == (p.suspCmd == 0), "time.suspend_cmd"),
   ((p.suspFlags % 4 == 0) == (p.resumeCmd == 0), "time.resume_cmd"),
   (lv == (if p.qlc then 15 else 7), "lvl.n"), (secLen m 4 == 8 + 3 * lv, "lvl.length"),
   (decide (p.ofsLo ≤ p.ofsHi), "lvl.highest"),
   (inR 1 rows 63, "retry.rows"), (ib m (secOff m 5 + 1) == lv, "retry.n"), (secLen m 5 == 4 + rows * lv, "retry.length"),
   (secLen m 6 == 32, "life.length")]

/-- Whether a slot is of kind 8, supplied or standard. -/
def Profile.callable (p : Profile) (s : Nat) : Bool :=
  match p.slots.getD s none with
  | some l => l.kind == 8
  | none => stdKind s == some 8

/-- Step 6: every op of every supplied list, the lists' kinds and the section's length. -/
def opsChecks (m : List Nat) : List (Bool × String) :=
  let p := imgProfile m
  (p.lists.flatMap fun (s, l) =>
    let nm (i : Nat) := "ops.s" ++ toString s ++ ".i" ++ toString i
    (decide (1 ≤ l.ops.length ∧ l.ops.length ≤ 64) &&
        (match stdKind s with | some k => k == l.kind | none => decide (l.kind ≤ 8)),
      "ops.s" ++ toString s) ::
    ((l.ops.zipIdx.map fun (w, i) =>
        (opValid p.guarded p.callable l.kind l.ops.length i w, nm i)) ++
      [((l.ops.getLast?.map opc) == some 0, nm (l.ops.length - 1))])) ++
  [(secLen m 7 == (imgLists m).2, "ops.length")]

/-- The measured VDDQG matches a declared I/O voltage (R43). -/
def vddqgMatches (ioMv mv : Nat) : Bool :=
  if ioMv = 900 then decide (855 ≤ mv ∧ mv ≤ 945) else decide (1140 ≤ mv ∧ mv ≤ 1260)

/-- Validate an image of declared length `len` against the measured VDDQG: the first failing field, if any (R198). -/
def imgFail (m : List Nat) (len mv : Nat) : Option String :=
  match firstFail (headerChecks m len) with
  | some n => some n
  | none => match firstFail (sectionChecks m) with
    | some n => some n
    | none => if vddqgMatches (imgProfile m).ioMv mv then firstFail (opsChecks m) else some "vddqg"

/-- The pages of a block in a mode. -/
def Profile.pages (p : Profile) (pslc : Bool) : Nat := if pslc then p.pagesPslc else p.pagesNative

/-- The pages one program places (R155). -/
def Profile.perProgram (p : Profile) (pslc : Bool) : Nat := if pslc then 1 else p.ppw

/-! ## What a target answers (R145, R189) -/

/-- The Read ID bytes of a target match the profile's. -/
def Profile.idMatches (p : Profile) (ans : List Nat) : Bool := ans.take p.readIdN == p.readId.take p.readIdN

/-- The CRC-16 of an ONFI parameter page (polynomial 8005h, initial value 4F4Eh; log entry 54). -/
def onfiCrc (l : List Nat) : Nat :=
  let bit (c : BitVec 16) (b : Bool) : BitVec 16 := if c.getLsbD 15 != b then (c <<< 1) ^^^ 0x8005#16 else c <<< 1
  (l.foldl (fun (c : BitVec 16) (x : Nat) => (List.range 8).foldl (fun d i => bit d (bitOf x (7 - i))) c) 0x4F4E#16).toNat

/-- A parameter page passes its CRC and names the profile's manufacturer and model. -/
def Profile.pageMatches (p : Profile) (page : List Nat) : Bool :=
  (onfiCrc (page.take 254) == i16 page 254) && ((page.drop 32).take 12 == p.maker) && ((page.drop 44).take 20 == p.model)

/-- The training each rate needs (R143); step 11, the verify, runs above 3200 MT/s only (R146). -/
def trainSteps (iface rate : Nat) : List TrainStep :=
  if iface = 0 then .zq :: (if rate > 800 then [.dutyCycle, .readCentre] else [])
  else .zq :: (if rate > 800 then [.dutyCycle, .readCentre] else []) ++ (if rate > 1600 then [.writeLevel, .writeDq] else []) ++
    (if iface = 2 then [.deskew, .checkSampler] else []) ++ (if rate > 3200 then [.verify] else [])

end Sys2Proof.Machine
end

