-- ==== Sys2Proof/Machine/Keeper.lean ====
section
/-! DEFINITION. The Keeper (chapter 14): words with check bits, narrow writes, the merge buffer, the flip mask, the fills
and the scrubber.  A stored word is its data as last encoded and the flips of its 72 bits since (log entry 7). -/

namespace Sys2Proof.Machine

/-! ## The array (R418, R428, R431, R433) -/

/-- Words of the Keeper: 24 MiB of 8 B words. -/
def kprWords : Nat := 0x300000

/-- First word past the retained slice, and first word of the console scratch region. -/
def kprRetEnd : Nat := 0x80000
def kprScratch : Nat := 0x2E0000

/-- Whether a word still holds what power-on left in it. -/
def Keeper.isRaw (k : Keeper) (i : Nat) : Bool :=
  if i < kprRetEnd then k.rawRet else if i < kprScratch then k.rawMain else k.rawScratch

/-- A word nobody but a user writes: its unlisted value is the zero word of the fill. -/
def Keeper.plain (k : Keeper) (i : Nat) : Bool := decide (kprScratch ≤ i) && !k.rawScratch

/-- What a word holds. -/
def State.kprWord (s : State) (i : Nat) : KWord :=
  match Store.find s.kpr.words i with
  | some w => w
  | none =>
    if s.kpr.isRaw i then
      ⟨Config.garbageData s.kpr.epoch i, Config.garbageFlipD s.kpr.epoch i, Config.garbageFlipC s.kpr.epoch i⟩
    else if i < kprScratch then ⟨(keeperView s i).getD (Config.firmwareWord s.free i), 0, 0⟩
    else { data := 0 }

/-- Put a word in its place; a word that reads as its fill left it is not listed. -/
def Keeper.put (k : Keeper) (i : Nat) (w : KWord) : Keeper :=
  { k with words := if k.plain i && w == { data := 0 } then Store.del i k.words else Store.ins i w k.words }

/-- The canonical form of the Keeper's words. -/
def Keeper.wf (k : Keeper) : Bool :=
  decide (k.words.Pairwise fun a b => a.1 < b.1) && k.words.all fun e => !(k.plain e.1 && e.2 == { data := 0 })

/-! ## The code (R420) -/

/-- How a word decodes. -/
inductive Decoded where
  | clean (d : BitVec 64)
  | corrected (d : BitVec 64)
  | bad (d : BitVec 64)
  deriving DecidableEq, Repr

/-- The number of its 72 bits that stand flipped. -/
def KWord.flips (w : KWord) : Nat := popCount 64 w.flipD.toNat + popCount 8 w.flipC.toNat

/-- The syndrome: the check byte computed from the stored data, XORed with the stored check byte. -/
def KWord.syndrome (w : KWord) : Byte :=
  if w.flipD = 0 then w.flipC else Config.dataSyndrome w.flipD ^^^ w.flipC

/-- Zero syndrome, one bit in error, anything else; three or more flips fall as the undocumented matrix has them. -/
def KWord.decode (w : KWord) : Decoded :=
  match w.flips with
  | 0 => .clean w.data
  | 1 => .corrected w.data
  | 2 => .bad (w.data ^^^ w.flipD)
  | _ =>
    if Config.manyFlipsCorrected w.flipD w.flipC then .corrected (Config.manyFlipsData w.data w.flipD w.flipC)
    else .bad (w.data ^^^ w.flipD)

/-- Data stored with the poison syndrome (R420). -/
def KWord.poison (d : BitVec 64) : KWord := ⟨d, 0, 0x03⟩

/-! ## Counting and reporting (R420, R437, R439 to R441) -/

/-- A corrected word: source 0 read, 1 partial write, 2 scrub. -/
def State.kprCe (s : State) (i src : Nat) (syn : Byte) : State :=
  (((s.bumpWrap .kprCeCnt 0 32 1).setReg .kprCeAddr (BitVec.ofNat 32 (8 * i + 2 * src + 1))).setRf
    .kprSyn 0 8 syn.toNat).raise 0

/-- An uncorrectable word, read or scrubbed. -/
def State.kprUe (s : State) (i : Nat) (scrub : Bool) (syn : Byte) : State :=
  (((s.bump .kprUeCnt 0 16 1).setReg .kprUeAddr
    (BitVec.ofNat 32 (8 * i + (if scrub then 4 else 0) + (if syn = 0x03 then 2 else 0) + 1))).setRf
    .kprSyn 8 8 syn.toNat).raise 1

/-- Report what a read found. -/
def State.kprNote (s : State) (i src : Nat) (w : KWord) : State :=
  match w.decode with
  | .clean _ => s
  | .corrected _ => s.kprCe i src w.syndrome
  | .bad _ => s.kprUe i (src == 2) w.syndrome

/-! ## Array writes and the flip mask (R427) -/

/-- The mask fires on a write to word `i`. -/
def State.flipFires (s : State) (i : Nat) : Bool :=
  s.rf .kprFlipCtl 8 1 == 1 && (s.rf .kprFlipCtl 9 1 == 0 || s.rf .kprFlipAddr 3 22 == i)

/-- The data bits of the flip mask. -/
def State.flipMaskD (s : State) : BitVec 64 :=
  BitVec.ofNat 64 ((s.reg .kprFlipLo).toNat + 2 ^ 32 * (s.reg .kprFlipHi).toNat)

/-- One array write: the armed mask is XORed into the stored bits and clears itself. -/
def State.kprStore (s : State) (i : Nat) (w : KWord) : State :=
  if s.flipFires i then
    let w' : KWord := ⟨w.data, w.flipD ^^^ s.flipMaskD, w.flipC ^^^ BitVec.ofNat 8 (s.rf .kprFlipCtl 0 8)⟩
    let s1 := (((s.setReg .kprFlipLo 0).setReg .kprFlipHi 0).setReg .kprFlipCtl
      (setFld (s.reg .kprFlipCtl) 0 9 0)).setReg .kprFlipLast (BitVec.ofNat 32 (8 * i + 1))
    { s1.raise 4 with kpr := s1.kpr.put i w' }
  else { s with kpr := s.kpr.put i w }

/-- Write back a scrubbed word; the flip mask never acts on it (R427). -/
def State.kprScrubStore (s : State) (i : Nat) (w : KWord) : State := { s with kpr := s.kpr.put i w }

/-! ## Bytes of a word -/

/-- The bits of the bytes a mask selects. -/
def byteBits (m : Byte) : BitVec 64 :=
  (List.range 8).foldl (fun a k => if m.getLsbD k then a ||| (0xFF#64 <<< (8 * k)) else a) 0

/-- New bytes placed over old ones. -/
def mergeBytes (old new : BitVec 64) (m : Byte) : BitVec 64 := (old &&& ~~~(byteBits m)) ||| (new &&& byteBits m)

/-- The mask of the bytes of a `w`-byte access at byte address `a`. -/
def laneMask (a w : Nat) : Byte := BitVec.ofNat 8 ((2 ^ w - 1) <<< (a % 8))

/-- A `w`-byte value in the lanes of its address. -/
def laneData (a v : Nat) : BitVec 64 := BitVec.ofNat 64 (v <<< (8 * (a % 8)))

/-- The `w`-byte value at the lanes of its address. -/
def laneValue (a w : Nat) (d : BitVec 64) : Nat := (d.toNat >>> (8 * (a % 8))) % 2 ^ (8 * w)

/-! ## Read-modify-write (R423, R425, R426) -/

/-- The read-modify-write unit: read, decode, merge, write back; a correctable word is scrubbed by it and an uncorrectable
one is poisoned. -/
def State.kprRmw (s : State) (i : Nat) (new : BitVec 64) (m : Byte) : State :=
  let w := s.kprWord i
  match w.decode with
  | .clean d => s.kprStore i { data := mergeBytes d new m }
  | .corrected d => (s.kprCe i 1 w.syndrome).kprStore i { data := mergeBytes d new m }
  | .bad d =>
    (((s.kprUe i false w.syndrome).bump .kprUeCnt 16 16 1).raise 2).kprStore i (KWord.poison (mergeBytes d new m))

/-- A full-word write: it never reads, and it replaces a merge-buffer entry of its word (R423, R424). -/
def State.kprWrite (s : State) (i : Nat) (d : BitVec 64) : State :=
  State.kprStore { s with kpr := { s.kpr with merge := s.kpr.merge.filter fun e => e.word != i } } i { data := d }

/-! ## The merge buffer (R424) -/

/-- Drain an entry: a full mask as a plain write, another through the read-modify-write unit. -/
def State.kprDrain (s : State) (e : Merge) : State :=
  let s1 := { s with kpr := { s.kpr with merge := s.kpr.merge.filter fun x => x.word != e.word } }
  if e.mask = 0xFF then s1.kprStore e.word { data := e.data } else s1.kprRmw e.word e.data e.mask

/-- The unit becomes idle: the oldest entry drains through it and keeps it busy; with none left it is idle. -/
def State.kprUnitIdle (s : State) : State :=
  match s.kpr.merge with
  | e :: _ =>
    let s1 := s.kprDrain e
    { s1 with kpr := { s1.kpr with rmwBusy := some e.word } }
  | [] => { s with kpr := { s.kpr with rmwBusy := none } }

/-- Every entry drains, oldest first, and the unit becomes idle. -/
def State.kprSettle (s : State) : State :=
  let s1 := s.kpr.merge.foldl (fun t e => t.kprDrain e) s
  { s1 with kpr := { s1.kpr with rmwBusy := none } }

/-- A narrow write: through the unit when it is idle; merged into its word's entry; into a new entry while the unit is busy
and the buffer is in use, the oldest entry draining first when it is full; otherwise it waits for the unit. -/
def State.kprNarrow (s : State) (i : Nat) (new : BitVec 64) (m : Byte) : State :=
  match s.kpr.merge.find? fun e => e.word == i with
  | some e =>
    let e' : Merge := ⟨i, mergeBytes e.data new m, e.mask ||| m⟩
    let s1 := { s with kpr := { s.kpr with merge := s.kpr.merge.map fun x => if x.word == i then e' else x } }
    if e'.mask = 0xFF then s1.kprDrain e' else s1
  | none =>
    if s.kpr.rmwBusy.isNone then
      let s1 := s.kprRmw i new m
      { s1 with kpr := { s1.kpr with rmwBusy := some i } }
    else if s.rf .kprCtl 1 1 = 1 then
      let s1 := if s.kpr.merge.length < 8 then s else
        match s.kpr.merge with
        | e :: _ => s.kprDrain e
        | [] => s
      { s1 with kpr := { s1.kpr with merge := s1.kpr.merge ++ [⟨i, new, m⟩] } }
    else s.kprRmw i new m

/-- A read of a word: data, whether it is marked uncorrectable, and the state after it.  A merge-buffer entry of the word
covers its bytes, which no error of the array word reaches, and drains as the write of that read (R424); `want` selects the bytes read. -/
def State.kprRead (s : State) (i : Nat) (want : Byte := 0xFF) : BitVec 64 × Bool × State :=
  match s.kpr.merge.find? fun e => e.word == i with
  | none =>
    let w := s.kprWord i
    match w.decode with
    | .clean d => (d, false, s)
    | .corrected d => (d, false, s.kprCe i 0 w.syndrome)
    | .bad d => (d, true, s.kprUe i false w.syndrome)
  | some e =>
    let s1 := { s with kpr := { s.kpr with merge := s.kpr.merge.filter fun x => x.word != i } }
    if e.mask = 0xFF then (e.data, false, s1.kprStore i { data := e.data })
    else
      let w := s.kprWord i
      let bad := (match w.decode with | .bad _ => true | _ => false) && want &&& ~~~e.mask != 0
      let d := match w.decode with | .clean d => d | .corrected d => d | .bad d => d
      (mergeBytes d e.data e.mask, bad, s1.kprRmw i e.data e.mask)

/-! ## Byte parity on the fabric (R422) -/

/-- A write whose parity fails at the Keeper stores the word with the poison syndrome, after what the merge buffer holds of it (R424). -/
def State.kprParityWrite (s : State) (i : Nat) (new : BitVec 64) (m : Byte) : State :=
  let s := match s.kpr.merge.find? fun e => e.word == i with
    | some e => s.kprDrain e
    | none => s
  let w := s.kprWord i
  let d := match w.decode with | .clean d => d | .corrected d => d | .bad d => d
  (((s.bump .kprParCnt 0 16 1).bump .kprUeCnt 16 16 1).raise 5).kprStore i (KWord.poison (mergeBytes d new m))

/-! ## Fills (R428) -/

/-- The contents become arbitrary: at power-on or at a reset that refills them. -/
def Keeper.scramble (k : Keeper) (ret main scratch : Bool) : Keeper :=
  { k with
    words := Store.drop (fun i => if i < kprRetEnd then ret else if i < kprScratch then main else scratch) k.words
    rawRet := k.rawRet || ret, rawMain := k.rawMain || main, rawScratch := k.rawScratch || scratch
    epoch := k.epoch + 1
    merge := [], rmwBusy := none, scrubAt := 0 }

/-- Firmware's fill with zero words; `scrub_en` is set once it has ended (R428, R430). -/
def State.kprFill (s : State) (ret main scratch : Bool) : State :=
  State.setRf { s with kpr := { s.kpr with
    words := Store.drop (fun i => if i < kprRetEnd then ret else if i < kprScratch then main else scratch) s.kpr.words
    rawRet := s.kpr.rawRet && !ret
    rawMain := s.kpr.rawMain && !main
    rawScratch := s.kpr.rawScratch && !scratch } } .kprCtl 0 1 1

/-! ## The scrubber (R430) -/

/-- Advance the scrubber's place; at the scratch region the pass ends. -/
def State.scrubNext (s : State) : State :=
  if s.kpr.scrubAt + 1 < kprScratch then { s with kpr := { s.kpr with scrubAt := s.kpr.scrubAt + 1 } }
  else State.bumpWrap { s with kpr := { s.kpr with scrubAt := 0 } } .kprStat 16 16 1

/-- One scrub read: a correctable word is written back corrected, an uncorrectable one as read with the poison syndrome; a
word with a merge-buffer entry is skipped. -/
def State.scrubRead (s : State) : State :=
  let i := s.kpr.scrubAt
  if s.kpr.merge.any fun e => e.word == i then s.scrubNext
  else
    let w := s.kprWord i
    match w.decode with
    | .clean _ => s.scrubNext
    | .corrected d => ((s.kprCe i 2 w.syndrome).kprScrubStore i { data := d }).scrubNext
    | .bad d => (((s.kprUe i true w.syndrome).raise 3).kprScrubStore i (KWord.poison d)).scrubNext

/-- SCRUB_READ (R430): while scrub_en is 1 and the device is in PS0 to PS3. -/
def execScrubRead (s : State) : Host.Outcome State Fault Refusal :=
  .next (if s.rf .kprCtl 0 1 = 1 ∧ s.sys.ps.val < 4 ∧ !s.inReset then s.scrubRead else s)

/-- MERGE_BUFFER_DRAIN (R424): the read-modify-write unit becomes idle. -/
def execMergeBufferDrain (s : State) : Host.Outcome State Fault Refusal := .next s.kprUnitIdle

end Sys2Proof.Machine
end

