-- ==== Sys2Proof/Machine/Mpu.lean ====
section
/-! DEFINITION. The protection unit's verdict (R480 to R483, R486): what it says of an access by class, direction and first byte, and what it
records of one it refuses. -/

namespace Sys2Proof.Machine

/-- Whether a region is enabled and holds an address: 2^k bytes from its base. -/
def Region.holds (r : Region) (a : Nat) : Bool :=
  fld r.attr 0 1 == 1 && decide (r.base.toNat ≤ a ∧ a < r.base.toNat + 2 ^ fld r.attr 8 6)

/-- The active regions that hold an address, lowest first. -/
def Mpu.hits (m : Mpu) (a : Nat) : List Nat := (List.range 16).filter fun i => (m.active.toList.getD i {}).holds a

/-- An attribute of an active region: 1 ur, 2 uw, 3 dbg, 4 lock. -/
def Mpu.attr (m : Mpu) (i bit : Nat) : Bool := fld (m.active.toList.getD i {}).attr bit 1 == 1

/-- The verdict on an access: none where it is allowed, else the kind of R495 and the region, 15 for none. What takes precedence over the
regions comes first; while user data is locked the debug class has no access at all (R491), and no class but the privileged writes the MPU
block (R486). -/
def State.verdict (s : State) (cls : Cls) (write : Bool) (a : Nat) : Option (Nat × Nat) :=
  let hs := s.mpu.hits a
  let low := hs.headD 15
  if cls = .privileged then (if hs.length ≥ 2 then some (2, low) else none)
  else if cls = .user ∧ s.rf .mpuCtl 1 1 = 1 ∧ (a < 0x21700000 ∨ 0x21800000 ≤ a) then some (4, low)
  else if cls = .debug ∧ 0x40060000 ≤ a ∧ a < 0x40070000 then some (5, low)
  else if hs.length ≥ 2 then some (2, low)
  else if s.locked = true ∧ (cls = .debug ∨ (write = true ∧ 0x40080000 ≤ a ∧ a < 0x40090000)) then some (3, low)
  else match cls, hs with
    | .user, [] => some (0, 15)
    | .user, i :: _ =>
      if s.mpu.attr i 4 && s.locked then some (3, i)
      else if s.mpu.attr i (if write then 2 else 1) then none
      else some (1, i)
    | .debug, i :: _ => if s.mpu.attr i 3 && !s.mpu.attr i 4 then none else some (1, i)
    | _, _ => none

/-- The class of an access as MPU_FAULT and DMA_CHn_STAT number it. -/
def clsNum : Cls → Nat
  | .privileged => 0 | .user => 1 | .debug => 2

/-- The trouble bit of a refused access (R481). -/
def refusedBit (cls : Cls) (kind : Nat) : Nat :=
  if kind = 2 then 36 else if cls = .debug then 37 else if kind = 3 then 62 else 35

/-- Record a refused access (R481, R495 to R497); `init` is the initiator's number. -/
def State.noteRefused (s : State) (cls : Cls) (write : Bool) (kind region init a : Nat) : State :=
  let s1 : State := (s.setReg .mpuFault (BitVec.ofNat 32 (1 + 2 * clsNum cls + 8 * b2n write + 16 * kind + 256 * region + 65536 * init))).setReg
    .mpuFaultAddr (BitVec.ofNat 32 a)
  let s2 : State := match cls with
    | .privileged => s1
    | .user => s1.bump .mpuFaultCnt 0 16 1
    | .debug => s1.bump .mpuFaultCnt 16 16 1
  s2.raise (refusedBit cls kind)

/-- A write by another class than privileged to a store that only the privileged class writes (R173, R480, R502). -/
def State.refuseOnly (s : State) (cls : Cls) (init a : Nat) : State := s.noteRefused cls true 1 ((s.mpu.hits a).headD 15) init a

end Sys2Proof.Machine
end

