-- ==== Sys2Proof/Machine/BootStore.lean ====
section
/-! DEFINITION. The boot store die (chapter 17): its array, its commands and status, the records firmware keeps there, and
the card maker's BST registers. -/

namespace Sys2Proof.Machine

/-! ## The array (R500, R501) -/

/-- What an unlisted byte of the array reads as: erased, or in a sector left undefined its own undefined value. -/
def BootStore.blank (b : BootStore) (off : Nat) : Byte :=
  match List.find? (fun p => p.1 == off / 0x10000) b.undefinedSecs with
  | some (_, n) => Config.bstByte n off
  | none => 0xFF

/-- What a byte of the array holds, by its offset in the die. -/
def BootStore.byte (b : BootStore) (off : Nat) : Byte := Store.get b.blank b.bytes off

/-- The canonical form of the array's bytes. -/
def BootStore.wf (b : BootStore) : Bool := Store.wf b.blank b.bytes

/-- `n` bytes from an offset. -/
def BootStore.read (b : BootStore) (off n : Nat) : List Nat := (List.range n).map fun k => (b.byte (off + k)).toNat

/-- The same bytes for a long run, in one pass over the array. -/
def BootStore.scanFrom (b : BootStore) : Nat → Nat → Store Byte → List Nat
  | 0, _, _ => []
  | n + 1, off, l =>
    match l.dropWhile fun e => decide (e.1 < off) with
    | (k, v) :: r => if k = off then v.toNat :: b.scanFrom n (off + 1) r else (b.blank off).toNat :: b.scanFrom n (off + 1) ((k, v) :: r)
    | [] => (b.blank off).toNat :: b.scanFrom n (off + 1) []

def BootStore.scan (b : BootStore) (off n : Nat) : List Nat := b.scanFrom n off b.bytes

/-- Programming changes bits from 1 to 0 only. -/
def BootStore.progByte (b : BootStore) (off : Nat) (v : Byte) : BootStore :=
  { b with bytes := Store.set b.blank b.bytes off (b.byte off &&& v) }

/-- Program a run of bytes. -/
def BootStore.progBytes (b : BootStore) (off : Nat) : List Nat → BootStore
  | [] => b
  | v :: r => (b.progByte off (BitVec.ofNat 8 v)).progBytes (off + 1) r

/-- Erase a sector: every byte reads 0xFF. -/
def BootStore.eraseSec (b : BootStore) (sec : Nat) : BootStore :=
  { b with
    bytes := Store.drop (fun o => o / 0x10000 == sec) b.bytes
    undefinedSecs := b.undefinedSecs.filter fun p => p.1 != sec }

/-- Erase `n` sectors from one. -/
def BootStore.eraseSecs (b : BootStore) (sec : Nat) : Nat → BootStore
  | 0 => b
  | n + 1 => (b.eraseSec sec).eraseSecs (sec + 1) n

/-- A sector is left undefined by an interrupted or failed erase; `n` numbers its free value. -/
def BootStore.spoilSec (b : BootStore) (sec n : Nat) : BootStore :=
  { b with
    bytes := Store.drop (fun o => o / 0x10000 == sec) b.bytes
    undefinedSecs := (sec, n) :: b.undefinedSecs.filter fun p => p.1 != sec }

/-- A word whose program was interrupted or did not verify: each bit to be cleared may or may not have been. -/
def BootStore.spoilBytes (b : BootStore) (off n : Nat) : List Nat → BootStore
  | [] => b
  | v :: r => (b.progByte off (BitVec.ofNat 8 v ||| Config.freeByte (8 * n + off % 4))).spoilBytes (off + 1) n r

/-! ## Firmware's own programs (R510, R511; log entry 15) -/

/-- Before it starts an operation of its own firmware has sent 0xF0 (R508); a busy die ignores it. -/
def BootStore.sendF0 (b : BootStore) : BootStore := if b.op = .none then { b with statusMode := false, error := false } else b

/-- Firmware programs bytes: whether the die verified them, and the state after.  While a time-out is due, whether it
falls on this program is a free value. -/
def State.fwProgram (s : State) (off : Nat) (bytes : List Nat) : Bool × State :=
  let s : State := { s with bst := s.bst.sendF0 }
  if s.bst.failNext && Config.freeBool s.free then
    (false, State.bump { s with
      bst := { s.bst.spoilBytes off s.free bytes with failNext := false }, free := s.free + 1 } .bstErrCnt 0 16 1)
  else (true, { s with bst := s.bst.progBytes off bytes, free := s.free + b2n s.bst.failNext })

/-- Firmware erases a sector; as for a program. -/
def State.fwErase (s : State) (sec : Nat) : Bool × State :=
  let s : State := { s with bst := s.bst.sendF0 }
  if s.bst.failNext && Config.freeBool s.free then
    (false, State.bump { s with
      bst := { s.bst.spoilSec sec s.free with failNext := false }, free := s.free + 1 } .bstErrCnt 16 16 1)
  else (true, { s with bst := s.bst.eraseSec sec, free := s.free + b2n s.bst.failNext })

/-! ## The change journal (R113 to R115) -/

/-- The bytes of an entry before its CRC, its result byte as given. -/
def JEntry.head (e : JEntry) (result : Nat) : List Nat :=
  let n := e.text.length
  let len := 4 * ceilDiv (20 + n) 4 + 4
  leBytes 2 len ++ [e.src, e.dev] ++ leBytes 4 e.seq ++ leBytes 8 e.secs ++ leBytes 2 e.ms ++ [result, n] ++
    e.text.map (·.toNat) ++ List.replicate (4 * ceilDiv (20 + n) 4 - (20 + n)) 0

/-- The bytes of an entry (R114). -/
def JEntry.bytes (e : JEntry) : List Nat := e.head e.result.toNat ++ leBytes 4 (crc32c (e.head 0xFF))

/-- The length of an entry with `n` characters. -/
def jLen (n : Nat) : Nat := 4 * ceilDiv (20 + n) 4 + 4

/-- The ring's sector, in the die, of use count `u` (R115). -/
def jSec (u : Nat) : Nat := 0x43 + (u - 1) % 16

/-- Begin the next sector of the ring: erase it, which drops its entries, and program its header. -/
def BootStore.jRoll (b : BootStore) (seq : Nat) : BootStore :=
  let u := b.jSector + 1
  let b1 := (b.eraseSec (jSec u)).progBytes (jSec u * 0x10000) (leBytes 4 u ++ leBytes 4 seq ++ List.replicate 8 0)
  { b1 with jSector := u, jFill := 16, journal := b.journal.filter fun e => e.sector + 16 != u }

/-- The sectors of the ring whose use count is programmed, with it, in ascending order (R115). -/
def BootStore.jCounts (b : BootStore) : List Nat :=
  (((List.range 16).map fun k => leNat (b.read ((0x43 + k) * 0x10000) 4)).zipIdx.filter fun x =>
    x.1 != 0xFFFFFFFF && jSec x.1 == 0x43 + x.2).map (·.1) |>.mergeSort fun x y => decide (x ≤ y)

/-- The entries of the sector of use count `u` from an offset on, and where they end: at the erased tail, or at the sector's end where a CRC
fails. -/
def BootStore.jParse (b : BootStore) (u : Nat) : Nat → Nat → List JEntry × Nat
  | 0, off => ([], off)
  | f + 1, off =>
    let base := jSec u * 0x10000 + off
    let len := leNat (b.read base 2)
    if len = 0xFFFF then ([], off)
    else
      let bs := b.read base len
      let head := (bs.take (len - 4)).set 18 0xFF
      if len < 24 ∨ off + len > 0x10000 ∨ crc32c head ≠ leNat (bs.drop (len - 4)) then ([], 0x10000)
      else
        let field (i n : Nat) : Nat := leNat ((bs.drop i).take n)
        let e : JEntry := { seq := field 4 4, src := field 2 1, dev := field 3 1, secs := field 8 8, ms := field 16 2
                            result := BitVec.ofNat 8 (field 18 1)
                            text := ((bs.drop 20).take (field 19 1)).map fun x => BitVec.ofNat 8 x
                            sector := u, off }
        let (es, e2) := b.jParse u f (off + len)
        (e :: es, e2)

/-- The successor of a sequence number, wrapping to 1. -/
def jSucc (n : Nat) : Nat := if n ≥ 0xFFFFFFFF then 1 else n + 1

/-- The number of the next entry after the ring's last: the one the device had reached, which failed entries have taken it to (R113), unless the
ring shows that it is not ahead. -/
def jAfter (last reached : Nat) : Nat :=
  if (reached + 2 ^ 32 - last) % 2 ^ 32 < 2 ^ 31 ∧ reached ≠ last then reached else jSucc last

/-- The journal as mount finds it in the ring (R115).  A sector that a failed entry has ended stays ended, and the number of that entry stays used
(R113). -/
def BootStore.ringMount (b : BootStore) : BootStore :=
  let us := b.jCounts
  let parsed := us.map fun u => b.jParse u 2731 16
  let es := parsed.flatMap (·.1)
  let sec := (us.getLast?).getD 0
  let fill := ((parsed.getLast?).map (·.2)).getD 0
  { b with
    journal := es, jSector := sec, jFill := if sec = b.jSector then max fill b.jFill else fill
    jNext := match es.getLast? with | some e => jAfter e.seq b.jNext | none => b.jNext }

/-- Program a line's entry, its result pending: the entry's number, or none where the die did not verify it, in which case
its sector ends there and its number is not used again (R113). -/
def State.journalAdd (s : State) (src dev : Nat) (text : List Byte) : Option Nat × State :=
  let b := if s.bst.jSector = 0 ∨ s.bst.jFill + jLen text.length > 0x10000 then s.bst.jRoll s.bst.jNext else s.bst
  let e : JEntry := { seq := b.jNext, src, dev, secs := s.sys.life, ms := s.sys.lifeMs, result := 0xFF, text,
                      sector := b.jSector, off := b.jFill }
  let off := jSec b.jSector * 0x10000 + b.jFill
  match State.fwProgram { s with bst := b } off e.bytes with
  | (true, s1) =>
    (some e.seq, { s1 with bst := { s1.bst with
      journal := s1.bst.journal ++ [e], jNext := jSucc b.jNext, jFill := b.jFill + jLen text.length } })
  | (false, s1) => (none, { s1 with bst := { s1.bst with jNext := jSucc b.jNext, jFill := 0x10000 } })

/-- Program an entry's result byte; where it does not verify the entry stays pending (R113). -/
def State.journalResult (s : State) (seq : Nat) (result : Byte) : State :=
  match s.bst.journal.find? fun e => e.seq == seq && e.result == 0xFF with
  | none => s
  | some e =>
    match s.fwProgram (jSec e.sector * 0x10000 + e.off + 18) [result.toNat] with
    | (true, s1) => { s1 with bst := { s1.bst with
        journal := s1.bst.journal.map fun x => if x.seq == seq && x.result == 0xFF then { x with result } else x } }
    | (false, s1) => s1

/-! ## The health log (R504, R505) -/

/-- An entry's bytes: header with type, length and CRC, then the body padded to a multiple of 4. -/
def hBytes (t : Nat) (body : List Nat) : List Nat :=
  [t, 0] ++ leBytes 2 body.length ++ leBytes 4 (crc32c body) ++ body ++
    List.replicate (4 * ceilDiv body.length 4 - body.length) 0

/-- The health log's sector of a sequence: ping-pong. -/
def hSec (seq : Nat) : Nat := 0x55 + seq % 2

/-- The entries in force: the last two anchors and the last entry of each other type. -/
def hInForce (es : List (Nat × List Nat)) : List (Nat × List Nat) :=
  let last (t n : Nat) := ((es.filter fun e => e.1 == t).reverse.take n).reverse
  last 1 2 ++ last 2 1 ++ last 3 1 ++ last 4 1 ++ last 5 1

/-- Append an entry, compacting into the other sector where it does not fit (R505). -/
def BootStore.hAdd (b : BootStore) (t : Nat) (body : List Nat) : BootStore :=
  let bytes := hBytes t body
  if b.hSeq ≠ 0 ∧ b.hFill + bytes.length ≤ 0x10000 then
    let b1 := b.progBytes (hSec b.hSeq * 0x10000 + b.hFill) bytes
    { b1 with hFill := b.hFill + bytes.length, hEntries := b.hEntries ++ [(t, body)] }
  else
    let es := hInForce b.hEntries ++ [(t, body)]
    let all := es.flatMap fun e => hBytes e.1 e.2
    let sec := hSec (b.hSeq + 1)
    let b1 := ((b.eraseSec sec).progBytes (sec * 0x10000 + 4) (leBytes 4 (b.hSeq + 1) ++ List.replicate 8 0 ++ all)).progBytes
      (sec * 0x10000) [0x5A, 0x48, 0x4C, 0x31]
    { b1 with hSeq := b.hSeq + 1, hFill := 16 + all.length, hEntries := es }

/-- The entries of a health log sector from an offset on, and where they end: at a type byte that reads 0xFF, or at an entry whose CRC fails. -/
def BootStore.hParse (b : BootStore) (sec : Nat) : Nat → Nat → List (Nat × List Nat) × Nat
  | 0, off => ([], off)
  | f + 1, off =>
    let base := sec * 0x10000 + off
    let t := (b.byte base).toNat
    let len := leNat (b.read (base + 2) 2)
    if t = 0xFF ∨ off + 8 + len > 0x10000 then ([], off)
    else
      let body := b.scan (base + 8) len
      if crc32c body ≠ leNat (b.read (base + 4) 4) then ([], 0x10000)
      else
        let (es, e2) := b.hParse sec f (off + 8 + 4 * ceilDiv len 4)
        ((t, body) :: es, e2)

/-- A health log sector's sequence, where its magic is valid. -/
def BootStore.hMagic (b : BootStore) (sec : Nat) : Option Nat :=
  if b.read (sec * 0x10000) 4 = [0x5A, 0x48, 0x4C, 0x31] then some (leNat (b.read (sec * 0x10000 + 4) 4)) else none

/-- The sector the health log uses at start: of those whose magic is valid, the one with the higher sequence (R505). -/
def BootStore.hBest (b : BootStore) : Option (Nat × Nat) :=
  match b.hMagic 0x55, b.hMagic 0x56 with
  | some x, some y => some (if x ≥ y then (x, 0x55) else (y, 0x56))
  | some x, none => some (x, 0x55)
  | none, some y => some (y, 0x56)
  | none, none => none

/-- The last entry of a type. -/
def hLast (es : List (Nat × List Nat)) (t : Nat) : Option (List Nat) := ((es.filter fun e => e.1 == t).getLast?).map (·.2)

/-- The health log as the device finds it at start: for each type the last entry whose CRC passes, and the last two anchors, are in force
(R504, R505). -/
def BootStore.hStart (b : BootStore) : BootStore :=
  match b.hBest with
  | none => { b with hSeq := 0, hFill := 16, hEntries := [], anchors := [], chain := none, healthRec := none, badTable := none }
  | some (seq, sec) =>
    let (es, fill) := b.hParse sec 8192 16
    let n (l : List Nat) (i w : Nat) : Nat := leNat ((l.drop i).take w)
    let seqs := (es.filter fun e => e.1 == 1).map fun e => n e.2 4 4
    { b with
      hSeq := seq, hFill := fill, hEntries := es
      anchors := b.anchors.filter fun a => seqs.contains a.seq
      chain := (hLast es 4).map fun l => { id := BitVec.ofNat 32 (n l 0 4), n := n l 4 1, stripeLog2 := n l 5 1, index := n l 6 1 }
      healthRec := (hLast es 5).map fun l => (n l 0 1, n l 4 4, n l 8 4, n l 12 8)
      badTable := if (hLast es 3).isSome then b.badTable else none }

/-- The bits of a bitmap that are set. -/
def bitNums (bytes : List Nat) : List Nat :=
  (bytes.zipIdx).flatMap fun x => if x.1 = 0 then [] else ((List.range 8).filter fun j => x.1.testBit j).map fun j => 8 * x.2 + j

/-- The bad-block bitmap as a mount reads it: the copy that the newest descriptor names; where that copy fails its CRC, the other, and the failing
copy is written again with a new descriptor; with neither, every block counts as good (R379, R506). -/
def BootStore.badMount (b : BootStore) : BootStore :=
  match hLast b.hEntries 3 with
  | none => b
  | some d =>
    let c := d.getD 0 0 % 2
    let n := leNat ((d.drop 4).take 4)
    let good (k : Nat) : Bool := crc32c (b.scan ((0x53 + k) * 0x10000) (ceilDiv n 8)) == leNat ((d.drop 8).take 4)
    if good c then { b with badTable := some (bitNums (b.scan ((0x53 + c) * 0x10000) (ceilDiv n 8))) }
    else if good (1 - c) then
      let bits := b.scan ((0x54 - c) * 0x10000) (ceilDiv n 8)
      let b1 := ((b.eraseSec (0x53 + c)).progBytes ((0x53 + c) * 0x10000) bits).hAdd 3 (c :: d.drop 1)
      { b1 with badTable := some (bitNums bits) }
    else { b with badTable := some [] }

/-! ## The alarm log (R538) -/

/-- An alarm log entry's bytes. -/
def AlarmRec.bytes (a : AlarmRec) (seq : Nat) : List Nat :=
  let h := leBytes 4 seq ++ [a.source, a.origin, a.action, b2n a.tether + 2 * b2n a.lostBefore] ++ leBytes 8 a.secs ++
    leBytes 4 a.detail ++ List.replicate 8 0
  h ++ leBytes 4 (crc32c h)

/-- Program an alarm log entry; a full sector is erased and given a new header first. -/
def BootStore.alarmAdd (b : BootStore) (a : AlarmRec) : BootStore :=
  let full := b.alarmLog.length ≥ 2047
  let b1 := if full then { b.eraseSec 0x57 with alarmLog := [] } else b
  let b2 := if b1.alarmLog.isEmpty then
    b1.progBytes 0x570000 ([0x5A, 0x41, 0x4C, 0x31] ++ leBytes 4 b1.alarmSeq ++ List.replicate 8 0) else b1
  let b3 := b2.progBytes (0x570010 + 32 * b2.alarmLog.length) (a.bytes b2.alarmSeq)
  { b3 with alarmLog := b3.alarmLog ++ [a], alarmSeq := b3.alarmSeq + 1 }

/-! ## Swap records and the choice of twin (R512, R513) -/

/-- A swap record's 64 bytes, committed; `free` numbers the fields the manual takes from the image. -/
def SwapRec.bytes (r : SwapRec) (secs free : Nat) : List Nat :=
  let t := r.twin.num
  let h := [0x5A, 0x53, 0x57, 0x31] ++ leBytes 4 r.seq ++ [r.kind, t, b2n r.l3, 0] ++ leBytes 4 (Config.imageLength t free) ++
    leBytes 4 (Config.imageCrc t free) ++ leBytes 4 (Config.imageVersion t free) ++ leBytes 8 secs ++ List.replicate 24 0
  h ++ leBytes 4 (crc32c h) ++ [0, 0, 0, 0]

/-- The first free slot of the swap record sector, counting those a record was begun in (R512). -/
def BootStore.swapSlot (b : BootStore) : Nat :=
  ((List.range (1024 - b.swaps.length)).find? fun k => b.read (0x300000 + 64 * (b.swaps.length + k)) 4 == [255, 255, 255, 255]).elim 1024
    fun k => b.swaps.length + k

/-- Write and commit a swap record in the next free slot. -/
def State.swapAdd (s : State) (kind : Nat) (twin : Twin) (l3 : Bool) : State :=
  let r : SwapRec := { seq := (s.bst.swaps.getLast?.map (·.seq)).getD 0 + 1, kind, twin, l3 }
  let b := s.bst.progBytes (0x300000 + 64 * s.bst.swapSlot) (r.bytes s.sys.life s.free)
  { s with bst := { b with swaps := b.swaps ++ [r] }, free := s.free + 1 }

/-- Write a pending record; where fewer than 8 slots are free the sector is erased first and begins with a done record for
the active twin. -/
def State.swapPend (s : State) (twin : Twin) (l3 : Bool) : State :=
  let s1 := if s.bst.swapSlot > 1016 then
    State.swapAdd { s with bst := { s.bst.eraseSec 0x30 with swaps := [] } } 3 s.bst.active false else s
  s1.swapAdd 1 twin l3

/-- The last committed record. -/
def BootStore.lastSwap (b : BootStore) : Option SwapRec := b.swaps.getLast?

/-- The pending record in force, if the last committed record is one. -/
def BootStore.pendingSwap (b : BootStore) : Option SwapRec :=
  match b.lastSwap with
  | some r => if r.kind = 1 then some r else none
  | none => none

/-- Y of R513: the twin of the last done record; where there is none, the twin whose signature passes with the higher version
word, and twin A on a tie. -/
def State.twinY (s : State) (sigA sigB : Bool) : Twin :=
  match (s.bst.swaps.filter fun r => r.kind == 3).getLast? with
  | some r => r.twin
  | none =>
    if sigA && sigB then
      if Config.imageVersion 1 s.free > Config.imageVersion 0 s.free then .b else .a
    else if sigB then .b else .a

/-- Mask ROM boots a twin, or the other where its signature fails, or stays in ROM where neither passes (R513). -/
def State.bootTwin (s : State) (t : Twin) (sigA sigB : Bool) (fell : Bool) : State :=
  let ok (x : Twin) := match x with | .a => sigA | .b => sigB
  if ok t then { s with bst := { s.bst with active := t, fallback := fell }, sys := { s.sys with fw := true, rom := false } }
  else if ok t.other then
    State.raise { s with bst := { s.bst with active := t.other, fallback := true }
                         sys := { s.sys with fw := true, rom := false } } 54
  else { s with bst := { s.bst with fallback := fell }, sys := { s.sys with fw := false, rom := true } }

/-- The choice of twin at the release of a reset of level 2 or lower (R513). -/
def State.twinSelect (s : State) (sigA sigB : Bool) : State :=
  let sig (x : Twin) := match x with | .a => sigA | .b => sigB
  match s.bst.lastSwap with
  | some r =>
    if r.kind = 1 then
      let s1 := s.swapAdd 2 r.twin false
      if sig r.twin then (s1.swapAdd 3 r.twin false).bootTwin r.twin sigA sigB false
      else
        let s2 := (s1.swapAdd 4 r.twin false).raise 54
        s2.bootTwin (s2.twinY sigA sigB) sigA sigB true
    else if r.kind = 2 then
      let s2 := (s.swapAdd 4 r.twin false).raise 54
      s2.bootTwin (s2.twinY sigA sigB) sigA sigB true
    else s.bootTwin (s.twinY sigA sigB) sigA sigB false
  | none => s.bootTwin (s.twinY sigA sigB) sigA sigB false

/-! ## Status and window reads (R508, R509) -/

/-- A program or erase runs and is not suspended. -/
def BootStore.busy (b : BootStore) : Bool := decide (b.op ≠ .none)

/-- The status byte as the next status read returns it. -/
def BootStore.status (b : BootStore) : Nat :=
  128 * b2n b.busy + 64 * b2n (b.busy && b.toggle) + 32 * b2n b.error + 16 * b2n b.suspended.isSome

/-- Whether a read of an offset returns the status byte. -/
def BootStore.showsStatus (b : BootStore) (off : Nat) : Bool :=
  b.busy || b.statusMode || b.suspended == some (off / 0x10000)

/-- A read of `w` bytes through the window: the value, and the state after it (each status read turns the toggle bit). -/
def State.bstRead (s : State) (off w : Nat) : Nat × State :=
  if s.bst.showsStatus off then
    (leNat (List.replicate w s.bst.status),
      { s with bst := { s.bst with toggle := if s.bst.busy then !s.bst.toggle else s.bst.toggle } })
  else (leNat (s.bst.read off w), s)

/-! ## The die's commands (R507) -/

/-- The die refuses a command: error set and nothing changed; the window stays in status mode (R508). -/
def BootStore.refuse (b : BootStore) : BootStore := { b with error := true, statusMode := true }

/-- Begin an operation. -/
def BootStore.start (b : BootStore) (op : BstOp) (cm : Bool) : BootStore := { b with op, opCm := cm, toggle := true }

/-- Whether an offset lies in bytes 60 to 63 of a swap record slot. -/
def swapCommitWord (off : Nat) : Bool := off / 0x10000 == 0x30 && off % 64 / 4 == 15

/-- Program word: a write aimed at a swap slot's commit word or at the sector of a suspended erase is refused. -/
def BootStore.cmdProgram (b : BootStore) (off : Nat) (data : Word) (cm : Bool) : BootStore :=
  if b.busy then b
  else if swapCommitWord off ∨ b.suspended = some (off / 0x10000) then b.refuse
  else b.start (.program off data) cm

/-- Erase sector: refused while an erase is suspended. -/
def BootStore.cmdErase (b : BootStore) (off : Nat) (cm : Bool) : BootStore :=
  if b.busy then b
  else if b.suspended.isSome then b.refuse
  else b.start (.erase (off / 0x10000)) cm

/-- Swap commit: only where the CRC of the slot's bytes 0 to 55 equals its bytes 56 to 59. -/
def BootStore.cmdSwapCommit (b : BootStore) (slot : Nat) : BootStore :=
  if b.busy then b
  else if crc32c (b.read (0x300000 + 64 * slot) 56) = leNat (b.read (0x300000 + 64 * slot + 56) 4) then
    b.start (.swapCommit slot) false
  else b.refuse

/-- The next waiting request starts once the die is idle and out of status mode (R510). -/
def BootStore.next (b : BootStore) : BootStore :=
  if b.busy ∨ b.statusMode then b
  else match b.reqs with
    | [] => b
    | .cmProgram a d :: r => { b with reqs := r }.cmdProgram a d true
    | .cmErase a :: r => { b with reqs := r }.cmdErase a true

/-- The next waiting request starts, or the die refuses it: then it has ended with status error, and its SC bit clears (R508, R519). -/
def State.bstNext (s : State) : State :=
  let t : State := { s with bst := s.bst.next }
  match s.bst.reqs with
  | r :: _ =>
    if s.bst.busy || s.bst.statusMode || t.bst.busy then t
    else (t.setRf .bstCmCmd (match r with | .cmErase _ => 1 | _ => 0) 1 0).setRf .bstCmCmd 3 1 1
  | [] => t

/-- The records that lay in a sector are gone: swap records and alarm log entries; what mount and start read from the array itself follows its
bytes. -/
def BootStore.dropRecords (b : BootStore) (sec : Nat) : BootStore :=
  { b with swaps := if sec = 0x30 then [] else b.swaps, alarmLog := if sec = 0x57 then [] else b.alarmLog }

/-- A slot committed through the die's own command is a record (R507, R512). -/
def BootStore.committed (b : BootStore) (slot : Nat) : BootStore :=
  let o := 0x300000 + 64 * slot
  if b.read o 4 = [0x5A, 0x53, 0x57, 0x31] then
    { b with swaps := b.swaps ++ [{ seq := leNat (b.read (o + 4) 4), kind := (b.byte (o + 8)).toNat
                                    twin := if (b.byte (o + 9)).toNat = 1 then .b else .a, l3 := (b.byte (o + 10)).getLsbD 0 }] }
  else b

/-- The effect of an operation that ends without error. -/
def BootStore.apply (b : BootStore) : BootStore :=
  match b.op with
  | .none => b
  | .program a d => b.progBytes a (leBytes 4 d.toNat)
  | .erase sec => (b.eraseSec sec).dropRecords sec
  | .swapCommit slot => (b.progBytes (0x300000 + 64 * slot + 60) [0, 0, 0, 0]).committed slot

/-- What an operation that does not end properly leaves behind (R511). -/
def State.bstSpoil (s : State) : State :=
  match s.bst.op with
  | .none => s
  | .program a d => { s with bst := s.bst.spoilBytes a s.free (leBytes 4 d.toNat), free := s.free + 1 }
  | .erase sec => { s with bst := (s.bst.spoilSec sec s.free).dropRecords sec, free := s.free + 1 }
  | .swapCommit slot =>
    { s with bst := s.bst.spoilBytes (0x300000 + 64 * slot + 60) s.free [0, 0, 0, 0], free := s.free + 1 }

/-- The SC bit of the request whose operation has ended clears; `failed` records an error (R519). -/
def State.cmDone (s : State) (failed : Bool) : State :=
  if s.bst.opCm then
    let bit := match s.bst.op with | .erase _ => 1 | _ => 0
    let s1 := s.setRf .bstCmCmd bit 1 0
    if failed then s1.setRf .bstCmCmd 3 1 1 else s1
  else s

/-- An operation ends: with its effect, or with error, which firmware counts (R508, R520). -/
def State.bstEnd (s : State) (ok : Bool) : State :=
  match s.bst.op with
  | .none => s
  | op =>
    if ok then
      let s1 := s.cmDone false
      State.bstNext { s1 with bst := { s1.bst.apply with op := .none, opCm := false, toggle := false, statusMode := false, error := false } }
    else
      let s1 := (s.bstSpoil).cmDone true
      let s2 := match op with | .erase _ => s1.bump .bstErrCnt 16 16 1 | _ => s1.bump .bstErrCnt 0 16 1
      { s2 with bst := { s2.bst with op := .none, opCm := false, toggle := false, error := true, statusMode := true } }

/-- A write into the window from another class than privileged (R502). -/
def State.bstClass (s : State) (cls : Cls) (off : Nat) (f : BootStore → BootStore) : State :=
  match cls with
  | .privileged => { s with bst := f s.bst }
  | c => s.refuseOnly c (if c = .debug then 9 else 0) (0x10000000 + off)

/-- The die's offset of a window address. -/
def bstOff (a : Word) : Nat := a.toNat - 0x10000000

/-- Whether an address lies in the window. -/
def inWindow (a : Word) : Bool := decide (0x10000000 ≤ a.toNat ∧ a.toNat < 0x10800000)

/-- BST_PROGRAM_WORD (R507): the 0x10 sequence with its operand write. -/
def execBstProgramWord (addr data : Word) (cls : Cls) (s : State) : Host.Outcome State Fault Refusal :=
  .next (if inWindow addr && addr.toNat % 4 == 0 then
    s.bstClass cls (bstOff addr) fun b => b.cmdProgram (bstOff addr) data false else s)

/-- BST_ERASE_SECTOR (R507): the 0x20 sequence with its operand write. -/
def execBstEraseSector (addr : Word) (cls : Cls) (s : State) : Host.Outcome State Fault Refusal :=
  .next (if inWindow addr then s.bstClass cls (bstOff addr) fun b => b.cmdErase (bstOff addr) false else s)

/-- A swap commit that the die takes: one whose CRC does not match ends with error, which firmware counts (R508, R520). -/
def State.swapCommit (s : State) (slot : Nat) : State :=
  let t : State := { s with bst := s.bst.cmdSwapCommit slot }
  if s.bst.busy || t.bst.busy then t else t.bump .bstErrCnt 0 16 1

/-- BST_SWAP_COMMIT (R507, R520): the 0x30 sequence aimed at a slot of the swap record sector; one whose CRC does not match ends with error. -/
def execBstSwapCommit (slot : Nat) (cls : Cls) (s : State) : Host.Outcome State Fault Refusal :=
  .next (if slot < 1024 then
      match cls with
      | .privileged => s.swapCommit slot
      | c => s.bstClass c (0x300000 + 64 * slot + 60) id
    else s)

/-- BST_SUSPEND (R507): suspends an erase; ignored otherwise. -/
def execBstSuspend (s : State) : Host.Outcome State Fault Refusal :=
  .next (match s.bst.op with
    | .erase sec => { s with bst := { s.bst with op := .none, opCm := false, suspended := some sec, susCm := s.bst.opCm, toggle := false } }
    | _ => s)

/-- BST_RESUME (R507): resumes a suspended erase; a program running in another sector ends first (R509). -/
def execBstResume (s : State) : Host.Outcome State Fault Refusal :=
  .next (match s.bst.suspended with
    | some sec => if s.bst.busy then s
        else { s with bst := { s.bst with op := .erase sec, opCm := s.bst.susCm, suspended := none, susCm := false, toggle := true } }
    | none => s)

/-- BST_READ_STATUS (R507): enters status mode. -/
def execBstReadStatus (s : State) : Host.Outcome State Fault Refusal :=
  .next { s with bst := { s.bst with statusMode := true } }

/-- BST_ARRAY_READ (R507): leaves status mode and clears error; ignored while busy. -/
def execBstArrayRead (s : State) : Host.Outcome State Fault Refusal :=
  .next (if s.bst.busy then s else State.bstNext { s with bst := { s.bst with statusMode := false, error := false } })

/-- BST_OP_COMPLETE (R508): the operation under way ends, verified or not. -/
def execBstOpComplete (ok : Bool) (s : State) : Host.Outcome State Fault Refusal := .next (s.bstEnd ok)

/-- BST_OP_TIMEOUT (R508): the operation under way is not verified in its time and ends with error; with none under way a program or
erase of firmware's own is to time out (log entry 15). -/
def execBstOpTimeout (s : State) : Host.Outcome State Fault Refusal :=
  .next (if s.bst.busy then s.bstEnd false else { s with bst := { s.bst with failNext := true } })

/-! ## The card maker's registers (R519) -/

/-- A request through BST_CM_CMD: refused outside the card maker area or unaligned, else queued and started in turn. -/
def State.cmRequest (s : State) (erase : Bool) : State :=
  let a := (s.reg .bstCmAddr).toNat
  if 0x10580000 ≤ a ∧ a < 0x10800000 ∧ a % 4 = 0 then
    let s1 := s.setRf .bstCmCmd (b2n erase) 1 1
    let r : BstReq := if erase then .cmErase (a - 0x10000000) else .cmProgram (a - 0x10000000) (s.reg .bstCmData)
    State.bstNext { s1 with bst := { s1.bst with reqs := s1.bst.reqs ++ [r] } }
  else s.setRf .bstCmCmd 2 1 1

/-- BST_CM_PROGRAM (R519): a write of BST_CM_CMD with program set. -/
def execBstCmProgram (s : State) : Host.Outcome State Fault Refusal := .next (s.cmRequest false)

/-- BST_CM_ERASE (R519): a write of BST_CM_CMD with erase set. -/
def execBstCmErase (s : State) : Host.Outcome State Fault Refusal := .next (s.cmRequest true)

end Sys2Proof.Machine
end

