-- ==== Sys2Proof/Machine/Text.lean ====
section
/-! DEFINITION. How replies are written as characters: values (R120), pairs, status lines and machine-mode framing
(R98, R99, R103). -/

namespace Sys2Proof.Machine

/-- The characters of a word. -/
def asc (w : String) : List Byte := w.toList.map fun c => BitVec.ofNat 8 c.toNat

/-- The decimal digits of a number. -/
def digits : Nat → Nat → List Byte
  | 0, _ => []
  | f + 1, n => if n < 10 then [BitVec.ofNat 8 (48 + n)] else digits f (n / 10) ++ [BitVec.ofNat 8 (48 + n % 10)]

/-- A whole number in decimal. -/
def natText (n : Nat) : List Byte := digits 80 n

/-- A signed number in decimal. -/
def intText (n : Int) : List Byte := if n < 0 then 45 :: natText n.natAbs else natText n.natAbs

/-- One upper-case hexadecimal digit. -/
def hexDigit (n : Nat) : Byte := BitVec.ofNat 8 (if n < 10 then 48 + n else 55 + n)

/-- `k` hexadecimal digits of a number. -/
def hexDigits : Nat → Nat → List Byte
  | 0, _ => []
  | k + 1, n => hexDigits k (n / 16) ++ [hexDigit (n % 16)]

/-- Underscores every four digits, counting from the right. -/
def underscored : List Byte → List Byte
  | a :: b :: c :: d :: e :: r => [a, b, c, d, 95] ++ underscored (e :: r)
  | l => l

/-- The hex form of a unit of `w` bytes, with underscores for 4- and 8-byte units (R120). -/
def hexText (w n : Nat) : List Byte :=
  let d := hexDigits (2 * w) n
  [48, 120] ++ (if w ≥ 4 then underscored d else d)

/-- Sixteen hex digits without a prefix (R122, `trouble`). -/
def hex16 (n : Nat) : List Byte := underscored (hexDigits 16 n)

/-- A size: the largest of G, M and k that gives a whole number (R120). -/
def sizeText (n : Nat) : List Byte :=
  if n ≠ 0 ∧ n % 2 ^ 30 = 0 then natText (n / 2 ^ 30) ++ [71]
  else if n ≠ 0 ∧ n % 2 ^ 20 = 0 then natText (n / 2 ^ 20) ++ [77]
  else if n ≠ 0 ∧ n % 2 ^ 10 = 0 then natText (n / 2 ^ 10) ++ [107]
  else natText n

/-- The characters of a value; one that holds a space is quoted. -/
def Val.text : Val → List Byte
  | .nat n => natText n
  | .int n => intText n
  | .hex w n => hexText w n
  | .flag b => if b then asc "on" else asc "off"
  | .size n => sizeText n
  | .word w => if w.toList.contains ' ' then 34 :: asc w ++ [34] else asc w
  | .chars c => if c.contains 32 then 34 :: c ++ [34] else c

/-- The characters of a pair; a bare word or address when the key is empty. -/
def pairText (p : Pair) : List Byte := if p.1.isEmpty then p.2.text else asc p.1 ++ 61 :: p.2.text

/-- The codes of R105 as words. -/
def ErrCode.word : ErrCode → String
  | .badForm => "syntax" | .unknown => "unknown" | .ambiguous => "ambiguous" | .range => "range" | .busy => "busy"
  | .state => "state" | .locked => "locked" | .password => "password" | .absent => "absent" | .timeout => "timeout"
  | .fault => "fault" | .crc => "crc"

/-- The result byte of a status (R114). -/
def ErrCode.byte : ErrCode → Byte
  | .badForm => 1 | .unknown => 2 | .ambiguous => 3 | .range => 4 | .busy => 5 | .state => 6
  | .locked => 7 | .password => 8 | .absent => 9 | .timeout => 10 | .fault => 11 | .crc => 12

def Status.byte : Status → Byte
  | .ok _ => 0
  | .err c _ => c.byte

/-- Join words with spaces. -/
def spaced (ws : List (List Byte)) : List Byte := (ws.intersperse [32]).flatten

/-- The characters of a status line. -/
def Status.text : Status → List Byte
  | .ok ps => spaced (asc "ok" :: ps.map pairText)
  | .err c ps => spaced (asc "err" :: asc c.word :: ps.map pairText)

/-- Lay words out in lines of at most `n` characters, each beginning with `..`. -/
def packWords (n : Nat) (cur : List Byte) : List (List Byte) → List (List Byte)
  | [] => [cur]
  | w :: r =>
    if cur.length + 1 + w.length ≤ n then packWords n (cur ++ 32 :: w) r
    else cur :: packWords n (asc ".." ++ 32 :: w) r

/-- A word in pieces of at most `n` characters: one longer than a line has room for goes on in the next (R120). -/
def pieces (n : Nat) (w : List Byte) : List (List Byte) :=
  if w.length ≤ n then [w] else (List.range (ceilDiv w.length n)).map fun i => (w.drop (n * i)).take n

/-- The continuation lines of some words, each `..`, a space and what has room after it; none where there are no words (R103, R120). -/
def contLines (room : Nat) (ws : List (List Byte)) : List (List Byte) :=
  if ws.isEmpty then [] else packWords room (asc "..") (ws.flatMap (pieces (room - 3)))

/-- A reply line with its tag, and its CRC in machine mode (R98, R99). -/
def frameLine (tag : Option String) (t : List Byte) : List Byte :=
  match tag with
  | none => t
  | some g =>
    let l := 64 :: asc g ++ 32 :: t
    l ++ [32, 42] ++ hexDigits 2 (crc8 (l.map (·.toNat)))

/-- The room a line has beside its tag and CRC within 250 characters (R120). -/
def lineRoom (tag : Option String) : Nat :=
  match tag with
  | none => 250
  | some g => 250 - (g.length + 6)

/-- A status without its pairs or its detail, and those. -/
def Status.parts : Status → Status × List Pair
  | .ok ps => (.ok [], ps)
  | .err c ps => (.err c [], ps)

/-- The lines of a status: one, or, where that is longer than a line may be, its pairs on continuation lines and the bare status after them
(R120; that the pairs go before the status is DEDUCED, log entry 63). -/
def Status.lines (room : Nat) (st : Status) : List (List Byte) :=
  if st.text.length ≤ room then [st.text] else contLines room (st.parts.2.map pairText) ++ [st.parts.1.text]

/-- The lines of a reply, terminators apart (R103, R120). -/
def Reply.lines (r : Reply) : List (List Byte) :=
  let room := lineRoom r.ctx.tag
  ((r.cont.flatMap fun ps => contLines room (ps.map pairText)) ++ r.status.lines room).map (frameLine r.ctx.tag)

end Sys2Proof.Machine
end

