-- ==== Sys2Proof/Machine/Settings.lean ====
section
/-! DEFINITION. The settings (R108, R109, R140): their names, ranges, values, the register fields that mirror them (R604)
and the saved set in the boot store (R603). -/

namespace Sys2Proof

/-- The settings in the order of their table; a per-gallery setting once per gallery. -/
def allSettings : List Setting :=
  [.hostWcache, .hostReadahead, .hostApst, .hostApstPs3, .hostApstPs4] ++ (fins 8).map .galRate ++
    (fins 8).map .galEnable ++ [.cdcSoft, .cdcStripeWidth, .mapRdDisturb, .mapErrRefreshPct, .mapGcLow, .assaySearch,
      .assayIdle, .govThrottleC, .govCapMw, .govIsnsGain, .govStandbyMj, .tethStripe, .conEcho, .conBaud] ++
    [.patrolInterval, .patrolWakeRefresh, .patrolFlipLimit, .mpuScratchOnly, .dmaHopLimit, .dmaConsoleCh,
      .dmaConsolePri, .alarmNotify]

/-- The group of a setting. -/
def Setting.group : Setting → Group
  | .hostWcache | .hostReadahead | .hostApst | .hostApstPs3 | .hostApstPs4 => .host
  | .galRate _ | .galEnable _ => .gal
  | .cdcSoft | .cdcStripeWidth => .cdc
  | .mapRdDisturb | .mapErrRefreshPct | .mapGcLow => .map
  | .assaySearch | .assayIdle => .assay
  | .govThrottleC | .govCapMw | .govIsnsGain | .govStandbyMj => .gov
  | .tethStripe => .teth
  | .conEcho | .conBaud => .con
  | .patrolInterval | .patrolWakeRefresh | .patrolFlipLimit => .patrol
  | .mpuScratchOnly => .mpu
  | .dmaHopLimit | .dmaConsoleCh | .dmaConsolePri => .dma
  | .alarmNotify => .alarm

def Group.word : Group → String
  | .host => "host" | .gal => "gal" | .cdc => "cdc" | .map => "map" | .assay => "assay" | .gov => "gov"
  | .teth => "teth" | .con => "con" | .patrol => "patrol" | .mpu => "mpu" | .dma => "dma" | .alarm => "alarm"

/-- The component of a setting's name after its group, and after its gallery. -/
def Setting.leaf : Setting → String
  | .hostWcache => "wcache" | .hostReadahead => "readahead" | .hostApst => "apst" | .hostApstPs3 => "apst_ps3"
  | .hostApstPs4 => "apst_ps4" | .galRate _ => "rate" | .galEnable _ => "enable" | .cdcSoft => "soft"
  | .cdcStripeWidth => "stripe_width" | .mapRdDisturb => "rd_disturb" | .mapErrRefreshPct => "err_refresh_pct"
  | .mapGcLow => "gc_low" | .assaySearch => "search" | .assayIdle => "idle" | .govThrottleC => "throttle_c"
  | .govCapMw => "cap_mw" | .govIsnsGain => "isns_gain" | .govStandbyMj => "standby_mj" | .tethStripe => "stripe"
  | .conEcho => "echo" | .conBaud => "baud" | .patrolInterval => "interval" | .patrolWakeRefresh => "wake_refresh"
  | .patrolFlipLimit => "flip_limit" | .mpuScratchOnly => "scratch_only" | .dmaHopLimit => "hop_limit"
  | .dmaConsoleCh => "console_ch" | .dmaConsolePri => "console_pri" | .alarmNotify => "notify"

/-- The digits of a gallery number. -/
def digit : Fin 8 → String
  | 0 => "0" | 1 => "1" | 2 => "2" | 3 => "3" | 4 => "4" | 5 => "5" | 6 => "6" | 7 => "7"

/-- The dotted name of a setting. -/
def Setting.name (s : Setting) : String :=
  match s with
  | .galRate g | .galEnable g => "gal." ++ digit g ++ "." ++ s.leaf
  | _ => s.group.word ++ "." ++ s.leaf

/-- Bounds of a whole-number setting. -/
def Setting.bounds : Setting → Option (Nat × Nat)
  | .hostReadahead => some (0, 16777216)
  | .hostApstPs3 => some (1, 60000)
  | .hostApstPs4 => some (10, 600000)
  | .cdcStripeWidth => some (8, 16)
  | .mapRdDisturb => some (1000, 65535)
  | .mapErrRefreshPct => some (30, 95)
  | .mapGcLow => some (1, 10)
  | .assayIdle => some (10, 10000)
  | .govThrottleC => some (70, 120)
  | .govCapMw => some (1000, 25000)
  | .govIsnsGain => some (0, 10000)
  | .govStandbyMj => some (0, 100000)
  | .tethStripe => some (131072, 4194304)
  | .conBaud => some (115200, 3000000)
  | .patrolInterval => some (1, 168)
  | .patrolFlipLimit => some (8, 280)
  | .dmaHopLimit => some (1, 65535)
  | .dmaConsoleCh => some (0, 7)
  | .dmaConsolePri => some (0, 3)
  | _ => none

end Sys2Proof

namespace Sys2Proof.Machine

/-- The default of every setting; `con.baud` takes the strap rate (R109, R140). -/
def defaultSettings (conFast : Bool) : Settings := { conBaud := if conFast then 1000000 else 115200 }

/-- The live value of a setting as it prints. -/
def Settings.val (t : Settings) : Setting → Val
  | .hostWcache => .flag t.hostWcache
  | .hostReadahead => .size t.hostReadahead
  | .hostApst => .flag t.hostApst
  | .hostApstPs3 => .nat t.hostApstPs3
  | .hostApstPs4 => .nat t.hostApstPs4
  | .galRate g => .nat (t.galRate.get g)
  | .galEnable g => .flag (t.galEnable.get g)
  | .cdcSoft => .flag t.cdcSoft
  | .cdcStripeWidth => .nat t.cdcStripeWidth
  | .mapRdDisturb => match t.mapRdDisturb with | none => .word "profile" | some n => .nat n
  | .mapErrRefreshPct => .nat t.mapErrRefreshPct
  | .mapGcLow => .nat t.mapGcLow
  | .assaySearch => .flag t.assaySearch
  | .assayIdle => .nat t.assayIdle
  | .govThrottleC => .nat t.govThrottleC
  | .govCapMw => .nat t.govCapMw
  | .govIsnsGain => .nat t.govIsnsGain
  | .govStandbyMj => .nat t.govStandbyMj
  | .tethStripe => .size t.tethStripe
  | .conEcho => .flag t.conEcho
  | .conBaud => .nat t.conBaud
  | .patrolInterval => .nat t.patrolInterval
  | .patrolWakeRefresh => .flag t.patrolWakeRefresh
  | .patrolFlipLimit => .nat t.patrolFlipLimit
  | .mpuScratchOnly => .flag t.mpuScratchOnly
  | .dmaHopLimit => .nat t.dmaHopLimit
  | .dmaConsoleCh => .nat t.dmaConsoleCh.val
  | .dmaConsolePri => .nat t.dmaConsolePri.val
  | .alarmNotify => .flag t.alarmNotify

/-- A rate a gallery's profile declares. -/
def Gallery.declares (g : Gallery) (rate : Nat) : Bool :=
  match g.profile with
  | none => false
  | some p => p.modes.any fun m => m.rate == rate

/-- A profile's highest declared rate. -/
def Profile.topRate (p : Profile) : Nat := p.modes.foldl (fun a m => max a m.rate) 0

/-- Whether a value lies in the setting's range (R101, R140). -/
def State.setInRange (s : State) (x : Setting) (v : SetVal) : Bool :=
  match x, v with
  | .mapRdDisturb, .profile => true
  | .galRate g, .num n => (s.gals.get g).declares n
  | .tethStripe, .num n => decide (131072 ≤ n ∧ n ≤ 4194304) && 2 ^ Nat.log2 n == n
  | x, .num n => match x.bounds with
    | some (lo, hi) => decide (lo ≤ n ∧ n ≤ hi)
    | none => false
  | x, .flag _ => x.bounds.isNone && !(match x with | .galRate _ => true | _ => false)
  | _, .profile => false

/-- Any namespace exists. -/
def State.anyNs (s : State) : Bool := s.map.ns.toList.any (·.isSome)

/-- The state condition of a setting, where the table gives one (R140). -/
def State.setAllowed (s : State) (x : Setting) (v : SetVal) : Bool :=
  match x, v with
  | .galRate g, _ => (s.gals.get g).profile.isSome
  | .galEnable _, .flag false => s.isSt .test
  | .tethStripe, _ => !s.anyNs
  | _, _ => true

/-- Store a value that was checked. -/
def Settings.put (t : Settings) (x : Setting) (v : SetVal) : Settings :=
  match x, v with
  | .hostWcache, .flag b => { t with hostWcache := b }
  | .hostReadahead, .num n => { t with hostReadahead := n }
  | .hostApst, .flag b => { t with hostApst := b }
  | .hostApstPs3, .num n => { t with hostApstPs3 := n }
  | .hostApstPs4, .num n => { t with hostApstPs4 := n }
  | .galRate g, .num n => { t with galRate := setAt t.galRate g n }
  | .galEnable g, .flag b => { t with galEnable := setAt t.galEnable g b }
  | .cdcSoft, .flag b => { t with cdcSoft := b }
  | .cdcStripeWidth, .num n => { t with cdcStripeWidth := n }
  | .mapRdDisturb, .num n => { t with mapRdDisturb := some n }
  | .mapRdDisturb, .profile => { t with mapRdDisturb := none }
  | .mapErrRefreshPct, .num n => { t with mapErrRefreshPct := n }
  | .mapGcLow, .num n => { t with mapGcLow := n }
  | .assaySearch, .flag b => { t with assaySearch := b }
  | .assayIdle, .num n => { t with assayIdle := n }
  | .govThrottleC, .num n => { t with govThrottleC := n }
  | .govCapMw, .num n => { t with govCapMw := n }
  | .govIsnsGain, .num n => { t with govIsnsGain := n }
  | .govStandbyMj, .num n => { t with govStandbyMj := n }
  | .tethStripe, .num n => { t with tethStripe := n }
  | .conEcho, .flag b => { t with conEcho := b }
  | .conBaud, .num n => { t with conBaud := n }
  | .patrolInterval, .num n => { t with patrolInterval := n }
  | .patrolWakeRefresh, .flag b => { t with patrolWakeRefresh := b }
  | .patrolFlipLimit, .num n => { t with patrolFlipLimit := n }
  | .mpuScratchOnly, .flag b => { t with mpuScratchOnly := b }
  | .dmaHopLimit, .num n => { t with dmaHopLimit := n }
  | .dmaConsoleCh, .num n => { t with dmaConsoleCh := Fin.ofNat 8 n }
  | .dmaConsolePri, .num n => { t with dmaConsolePri := Fin.ofNat 4 n }
  | .alarmNotify, .flag b => { t with alarmNotify := b }
  | _, _ => t

/-- Write the register field that mirrors a setting, if one does (R604). -/
def State.mirror (s : State) (x : Setting) : State :=
  let t := s.settings
  match x with
  | .cdcSoft => s.setRf .cdcCtl 0 1 (b2n t.cdcSoft)
  | .cdcStripeWidth => s.setRf .cdcCtl 8 5 t.cdcStripeWidth
  | .mapGcLow => s.setRf .mapCtl 0 4 t.mapGcLow
  | .assaySearch => s.setRf .assayCtl 0 1 (b2n t.assaySearch)
  | .assayIdle => s.setRf .assayCtl 16 14 t.assayIdle
  | .govThrottleC => s.setRf .govCfg 0 8 t.govThrottleC
  | .govCapMw => s.setRf .govCap 0 16 t.govCapMw
  | .govIsnsGain => s.setRf .govCap 16 16 t.govIsnsGain
  | .govStandbyMj => s.setRf .govStandby 0 17 t.govStandbyMj
  | .dmaHopLimit => s.setRf .dmaHop 0 16 t.dmaHopLimit
  | .mpuScratchOnly => s.setRf .mpuCtl 1 1 (b2n t.mpuScratchOnly)
  | .patrolInterval => s.setRf .sysPatrol 0 8 t.patrolInterval
  | .patrolWakeRefresh => s.setRf .sysPatrol 8 1 (b2n t.patrolWakeRefresh)
  | .galEnable g => s.setRf (.galCtl g) 0 1 (b2n (t.galEnable.get g))
  | _ => s

/-- Firmware writes every mirroring field from the live settings (R604). -/
def State.mirrorAll (s : State) : State := allSettings.foldl State.mirror s

/-- The text of a set of settings (R603). -/
def Settings.text (t : Settings) : List Nat :=
  allSettings.flatMap fun x => (asc x.name ++ 61 :: (t.val x).text ++ [10]).map fun b : Byte => b.toNat

/-- The saved set in force (R109, R603). -/
def BootStore.savedSet (b : BootStore) : Option Settings := b.settings.getLast?.map (·.2)

/-- The settings sector of a save sequence: ping-pong. -/
def setSec (seq : Nat) : Nat := 0x31 + (seq + 1) % 2

/-- A settings sector's bytes 4 on: sequence, length, CRC and text. -/
def setBody (seq : Nat) (text : List Nat) : List Nat := leBytes 4 seq ++ leBytes 4 text.length ++ leBytes 4 (crc32c text) ++ text

/-- The saved sets whose sector is valid as the array has it: magic, length and CRC (R603). -/
def BootStore.setStart (b : BootStore) : BootStore :=
  { b with settings := b.settings.filter fun (e : Nat × Settings) =>
      let body := setBody e.1 e.2.text
      b.scan (setSec e.1 * 0x10000) (4 + body.length) == [0x5A, 0x53, 0x54, 0x31] ++ body }

/-- The live settings become the saved set, or the defaults where there is none (R109). At the load of a reset of level 1 or 0 no saved value is
refused for the device's state: whether R603's refusal covers a value that its setting's state condition would refuse, such as `gal.g.enable=off` or
`teth.stripe` while namespaces exist, the manual leaves open; taking the set whole is a DESIGN CHOICE (log entry 69). -/
def State.loadSaved (s : State) : State :=
  let b := s.bst.setStart
  { s with bst := b, settings := b.savedSet.getD (defaultSettings (s.rf .sysStrap 15 1 == 1)) }

/-- The outcome of a save: done, not done, or done with the older copy left to erase. -/
inductive Saved where
  | done | failed | stale
  deriving DecidableEq, Repr

/-- Save every live setting: the inactive sector is erased unless blank, programmed, and only then is the older sector
erased (R109, R603). -/
def State.saveSettings (s : State) : Saved × State :=
  let seq := (s.bst.settings.getLast?.map (·.1)).getD 0 + 1
  let text := s.settings.text
  let body := setBody seq text
  let (ok0, s0) := if s.bst.settingsStale then s.fwErase (setSec seq) else (true, s)
  if !ok0 then (.failed, s0) else
  let s0 := { s0 with bst := { s0.bst with settingsStale := false } }
  match s0.fwProgram (setSec seq * 0x10000 + 4) body with
  | (false, s1) => (.failed, { s1 with bst := { s1.bst with settingsStale := true } })
  | (true, s1) =>
    match s1.fwProgram (setSec seq * 0x10000) [0x5A, 0x53, 0x54, 0x31] with
    | (false, s2) => (.failed, { s2 with bst := { s2.bst with settingsStale := true } })
    | (true, s2) =>
      let s3 := { s2 with bst := { s2.bst with settings := [(seq, s.settings)] } }
      if s.bst.settings.isEmpty then (.done, s3)
      else match s3.fwErase (setSec (seq + 1)) with
        | (true, s4) => (.done, s4)
        | (false, s4) => (.stale, { s4 with bst := { s4.bst with settingsStale := true } })

end Sys2Proof.Machine
end

