-- ==== Sys2Proof/Machine/TetherLink.lean ====
section
/-! DEFINITION. The Tether link layer (R393, R400, R401): sequence numbers, credits and replay of one port, and sending a
routed frame toward a device. -/

namespace Sys2Proof.Machine

/-- The credit class of a frame type: C, D, or none (R394). -/
inductive CreditClass where
  | c | d | none
  deriving DecidableEq, Repr

def creditClass (type : Nat) : CreditClass :=
  if type = 2 then .d else if type = 1 ∨ type = 3 ∨ type = 4 ∨ type = 5 ∨ type = 7 then .c else .none

/-! ## The frame on the wire (R393 to R399) -/

/-- A frame's payload length in 8 B units; a DATA frame's argument is its bytes. -/
def Frame.units (f : Frame) : Nat :=
  match f.body with
  | .none => if f.type = 5 then 1 else 0
  | .line t => ceilDiv t.length 8
  | .data _ => f.arg / 8
  | .part b => 4 + 2 * b.ranges.length
  | .done _ | .hello _ => 2
  | .admin _ => 4
  | .alarm _ _ _ => 1

/-- The bytes the replay buffer holds (R401). -/
def TPort.replayBytes (p : TPort) : Nat := sumNat (p.replay.map fun f => 12 + 8 * f.units)

/-- Whether the port may send a sequenced frame now: a credit of its class, fewer than 2048 frames unacknowledged, and room in the replay
buffer of 2 MiB (R400, R401). -/
def TPort.maySend (p : TPort) (f : Frame) : Bool :=
  decide (p.replay.length < 2048) && decide (p.replayBytes + 12 + 8 * f.units ≤ 2 ^ 21) &&
    match creditClass f.type with
    | .c => decide (0 < p.credC)
    | .d => decide (0 < p.credD)
    | .none => true

/-- Put a sequenced frame on the wire: it takes the next sequence number, spends its credit and enters the replay buffer. -/
def TPort.emit (p : TPort) (f : Frame) : TPort :=
  let f' := { f with seq := p.txSeq }
  { p with
    txSeq := (p.txSeq + 1) % 4096
    replay := p.replay ++ [f'], sent := p.sent ++ [f']
    credC := if creditClass f.type = .c then p.credC - 1 else p.credC
    credD := if creditClass f.type = .d then p.credD - 1 else p.credD }

/-- Send the frames that wait, oldest first, as far as credits go. -/
def TPort.pump (p : TPort) : List Frame → TPort
  | [] => { p with waiting := [] }
  | f :: r => if p.st == .up && p.maySend f then (p.emit f).pump r else { p with waiting := f :: r }

/-- Send a sequenced frame; it waits behind those that wait, for a credit and for the link.  An ALARM frame needs no credit and waits behind no frame
that does (R400). -/
def TPort.send (p : TPort) (f : Frame) : TPort :=
  if creditClass f.type = .none ∧ p.st = .up ∧ p.maySend f = true then p.emit f else p.pump (p.waiting ++ [f])

/-- Send a link frame: no sequence number of its own, no credit, no replay. -/
def TPort.link (p : TPort) (f : Frame) : TPort := { p with sent := p.sent ++ [f] }

/-- Change a port. -/
def Tether.port (t : Tether) (p : Port) (f : TPort → TPort) : Tether :=
  match p with
  | .tu => { t with tu := f t.tu }
  | .td => { t with td := f t.td }

def Tether.get (t : Tether) : Port → TPort
  | .tu => t.tu
  | .td => t.td

/-- The port toward a device: down TD for a higher index, up TU for a lower one (R106). -/
def portToward (me dst : Nat) : Port := if dst > me then .td else .tu

/-- The fixed-index form of a device number. -/
def dev (n : Nat) : Fin 4 := Fin.ofNat 4 n

/-- Originate a routed frame toward another device. -/
def State.tethSend (s : State) (type : Nat) (dst : Fin 4) (tag : BitVec 16) (index arg : Nat) (body : FBody) : State :=
  let f : Frame := { type, dst, src := dev s.index, seq := 0, tag, index, arg, body }
  { s with teth := s.teth.port (portToward s.index dst.val) fun p => p.send f }

/-- The devices of the chain record the master counts present, itself apart. -/
def State.presentSubs (s : State) : List (Fin 4) :=
  [1, 2, 3].filter fun k => s.teth.present.getLsbD k.val && !s.teth.absent.getLsbD k.val

/-- Send an order (R397) to a device. -/
def State.order (s : State) (dst : Fin 4) (sub arg : Nat) : State := s.tethSend 5 dst 0 0 (sub + 256 * arg) .none

/-- Send an order to every present subordinate. -/
def State.orderAll (s : State) (sub arg : Nat) : State := s.presentSubs.foldl (fun t k => t.order k sub arg) s

/-- The state number orders and HELLO carry (R397, R399). -/
def SysState.num : SysState → Nat
  | .boot => 0 | .service => 1 | .test => 2 | .recovery => 3

/-- The HELLO payload of this device on a port (R399). -/
def State.helloBody (s : State) (p : Port) : HelloBody :=
  { strap := Fin.ofNat 16 (s.rf .sysStrap 8 4), lanes := if !s.isMaster && s.rf .sysStrap 14 1 == 1 then 2 else 4, rate := 5
    state := Fin.ofNat 4 s.sys.st.num, fresh := (s.teth.get p).fresh
    chainId := (s.teth.chain.map (·.id)).getD 0, n := (s.teth.chain.map (·.n)).getD 0
    stripeLog2 := (s.teth.chain.map (·.stripeLog2)).getD 0 }

/-- Send HELLO on a port: a link frame carries the sender's own index in both fields (R393). -/
def State.sendHello (s : State) (p : Port) : State :=
  let f : Frame := { type := 11, dst := dev s.index, src := dev s.index, seq := 0, tag := 0, index := 0, body := .hello (s.helloBody p) }
  { s with teth := s.teth.port p fun q => q.link f }

/-- Enter a SYS_STATE; the master sends a state order on every change (R397). -/
def State.enter (s : State) (x : SysState) : State :=
  if s.sys.st = x then s
  else
    let s1 := { s with sys := { s.sys with st := x } }
    if s1.isMaster then s1.orderAll 4 x.num else s1

end Sys2Proof.Machine
end

