-- ==== Sys2Proof/Machine/Reply.lean ====
section
/-! DEFINITION. Sending replies on the path a line came by (R91, R103, R106), and finishing recorded lines (R113). -/

namespace Sys2Proof.Machine

/-- The prompt: `or`, the device index, `>` and a space (R96). -/
def State.prompt (s : State) : List Byte := asc "or" ++ natText s.index ++ asc "> "

/-- Characters on CON_TX. -/
def State.uartSend (s : State) (c : List Byte) : State := { s with con := { s.con with tx := s.con.tx ++ c } }

/-- Drop the oldest tunnel lines beyond 16 KiB (R75). -/
def trimTunnel : Nat → List (List Byte) → Bool × List (List Byte)
  | 0, l => (false, l)
  | f + 1, l =>
    if (l.map List.length).sum ≤ 16384 then (false, l)
    else (true, (trimTunnel f (l.drop 1)).2)

/-- Add reply lines to the tunnel's buffer; past 16 KiB the oldest are dropped and trouble bit 44 is set (R75). -/
def State.tunnelAdd (s : State) (ls : List (List Byte)) : State :=
  let all := s.con.tunnel ++ ls.map (· ++ [10])
  let (lost, kept) := trimTunnel all.length all
  State.raiseIf { s with con := { s.con with tunnel := kept, tunnelLost := s.con.tunnelLost || lost } } lost 44

/-- Send reply lines on the path of a line: with CR LF on the UART, LF in the tunnel, one frame each over Tether to the
device whose path the line entered by. -/
def State.sendLines (s : State) (c : LineCtx) (ls : List (List Byte)) : State :=
  match c.path with
  | .uart => s.uartSend (ls.flatMap (· ++ [13, 10]))
  | .tunnel => s.tunnelAdd ls
  | .tether => ls.foldl (fun t l => t.tethSend 4 c.entry c.rtag l.length 0 (.line l)) s

/-- Send a whole reply; on the UART the prompt follows it. -/
def State.reply (s : State) (c : LineCtx) (cont : List (List Pair)) (st : Status) : State :=
  let r : Reply := ⟨c, cont, st⟩
  let s1 := State.sendLines { s with con := { s.con with replies := s.con.replies ++ [r] } } c r.lines
  match c.path with
  | .uart => s1.uartSend s1.prompt
  | _ => s1

/-- A bare `ok` or `ok` with pairs. -/
def ok (ps : List Pair) : Status := .ok ps

/-- An error with its detail as words. -/
def err (c : ErrCode) (detail : List Pair) : Status := .err c detail

/-- A bare word in a detail. -/
def word (w : String) : Pair := ("", .word w)

/-- Finish a line whose entry, if it has one, is pending: its result byte first, then its reply (R113). -/
def State.finishLine (s : State) (c : LineCtx) (j : Option Nat) (cont : List (List Pair)) (st : Status) : State :=
  let s1 := match j with
    | some n => s.journalResult n st.byte
    | none => s
  s1.reply c cont st

/-- Finish the line that is executing, if its job satisfies `p`, with the reply computed from it. -/
def State.finishJob (s : State) (p : Job → Bool) (r : Running → List (List Pair) × Status) : State :=
  match s.con.running with
  | some x =>
    if p x.job then
      let (cont, st) := r x
      State.finishLine { s with con := { s.con with running := none } } x.ctx x.journal cont st
    else s
  | none => s

/-- `test` has been left: a `stop test` that waits for it ends. -/
def State.finishStop (s : State) : State :=
  match s.con.stopping with
  | some x => State.finishLine { s with con := { s.con with stopping := none, leaving := false } } x.ctx x.journal [] (ok [])
  | none => { s with con := { s.con with leaving := false } }

/-- A line that goes on after its step becomes the one that is executing. -/
def State.run (s : State) (x : Running) : State := { s with con := { s.con with running := some x } }

end Sys2Proof.Machine
end

