-- ==== Sys2Proof/Machine/ResetOps.lean ====
section
/-! DEFINITION. Taking a reset (chapter 19): what each level resets and keeps (R544), the cause register and its snapshot
(R547), requests that meet a reset in progress (R549), and level 4 resets of one unit (R551). -/

namespace Sys2Proof.Machine

/-! ## Levels and sources (R544 to R546) -/

/-- Levels 0 and 1 contain every other level; levels 2 and 3 are disjoint. -/
def levelContains (a b : Nat) : Bool := a == 0 || (a == 1 && decide (b ≥ 1)) || a == b

/-- The default level of a source. -/
def defaultLevel : Nat → Nat
  | 0 | 2 => 0
  | 1 => 0
  | 3 | 9 | 10 | 12 => 1
  | 4 | 5 => 3
  | _ => 2

/-- The highest-numbered level a source's fuse field may give. -/
def topLevel (src : Nat) : Nat := if src = 12 then 1 else 3

/-- The field of a source in FUSE_RSTMAP. -/
def Fuses.field (f : Fuses) (src : Nat) : Nat := (f.rstmap.toNat >>> (3 * src)) % 8

/-- The level of a source under the fuses (R546); the fields of sources 0, 2 and 7 are ignored. -/
def State.fuseLevel (s : State) (src : Nat) : Nat :=
  if src = 0 ∨ src = 2 ∨ src = 7 then defaultLevel src
  else
    let f := s.sys.fuses.field src
    let l := if f = 0 then defaultLevel src else if f ≤ 5 then f - 1 else 0
    min l (topLevel src)

/-! ## Registers (R9, R544) -/

/-- Whether a reset of level 0 to 3 restores a register whose level is `r`. -/
def levelRestores (level r : Nat) : Bool :=
  match level with
  | 0 => true
  | 1 => decide (r ≥ 1)
  | 2 => decide (r = 2 ∨ r = 4)
  | 3 => decide (r = 3)
  | _ => false

/-- Restore every register in the scope of a reset. -/
def State.resetRegs (s : State) (level : Nat) : State :=
  { s with regs := Store.drop (fun a => match Reg.ofAddr a with
      | some r => levelRestores level r.level
      | none => false) s.regs }

/-! ## What a reset of level 1 or 2 leaves as it stood (R9) -/

/-- The chain has use for the tether ports (R388): TD of a master or subordinate with a chain, TU of a subordinate. -/
def State.tethUsed (s : State) : Bool := !s.isMaster || decide (s.chainN > 1)

/-- A port is in use while it trains or has a partner, and as long as the chain has a device beyond it (R33). -/
def State.portUsed (s : State) (q : TPort) : Bool :=
  match q.st with
  | .off => false
  | .training | .up | .hold | .mismatch => true
  | .down | .absent => s.tethUsed

/-- The powered domains as SYS_PWR shows them: PD_TETH is on while a tether port is in use (R33, R563); a reset of level 2 resets the ports and
leaves the register, whose level is 1, as it stood. -/
def State.domsNow (s : State) : BitVec 8 :=
  (s.sys.doms &&& 0x7F) ||| (if s.sys.rst = some 2 then s.sys.doms &&& 0x80
    else if s.sys.tethGo && decide (s.sys.ps ≠ 4) && (s.portUsed s.teth.tu || s.portUsed s.teth.td) then 0x80 else 0)

/-- CCLK is released and the device is in PS0 to PS3: the supply, clock and glitch sensors are armed (R532). -/
def State.glitchArmed (s : State) : Bool := s.sys.released.getLsbD 1 && decide (s.sys.ps.val < 4)

/-- The sensors armed from CCLK's release as VAULT_SENSE shows them: a reset of level 1 or 2, which holds CCLK, leaves the register, whose level is
0, as it stood (R541). -/
def State.armedShown (s : State) : Bool :=
  if (s.sys.rst == some 1 || s.sys.rst == some 2) && !s.sys.released.getLsbD 1 then s.vault.wasArmed else s.glitchArmed

/-! ## Interrupted programs (R52, R164, R374) -/

end Sys2Proof.Machine

namespace Sys2Proof

/-- The number of a codeword location. -/
def Loc.key (l : Loc) : Nat := ((l.chamber.val * 65536 + l.block) * 4096 + l.page) * 4 + l.cw.val

/-- The device block number of a location's block (R14, R291): chamber, then block. -/
def Loc.blk (l : Loc) : Nat := l.chamber.val * 65536 + l.block

end Sys2Proof

namespace Sys2Proof.Machine

/-- The chamber of gallery `g` and its chamber number there (R14). -/
def chamberOf (g : Fin 8) (c : Fin 16) : Fin 128 := ⟨16 * g.val + c.val, by omega⟩

/-- The blocks an operation names, one for each of its planes. -/
def GOp.blks (o : GOp) (g : Fin 8) : List Nat := (List.range o.npl).map fun i => (chamberOf g o.ch).val * 65536 + o.block + i

/-- The codeword locations a program under way covers, on every plane. -/
def GOp.locs (o : GOp) (g : Fin 8) : List Nat :=
  if o.kind = .program then
    (List.range o.npl).flatMap fun i => (List.range o.pages).flatMap fun p => (fins 4).map fun c =>
      Loc.key ⟨chamberOf g o.ch, o.block + i, o.page + p, c⟩
  else []

/-- The device block of a codeword location's number. -/
def blkOfKey (n : Nat) : Nat := n / (4 * 4096)

/-- The programs and erases that a gallery has under way in its dies. -/
def Gallery.inFlight (g : Gallery) : List GOp :=
  g.ops.filter fun o => o.running && (o.kind == .program || o.kind == .erase)

/-- Every page being programmed, and every block being erased, counts as interrupted, not failed (R52): of neither can anything be read. -/
def State.interruptOps (s : State) (ops : List (Fin 8 × GOp)) : State :=
  let keys := ops.flatMap fun x => x.2.locs x.1
  let blks := (ops.filter fun x => x.2.kind == .erase).flatMap fun x => x.2.blks x.1
  { s with
    media := { s.media with
      cws := Store.drop (fun k => keys.contains k || blks.contains (blkOfKey k)) s.media.cws
      parity := Store.drop (fun k => keys.contains k || blks.contains (blkOfKey k)) s.media.parity
      interrupted := s.media.interrupted ++ keys
      interruptedBlks := s.media.interruptedBlks ++ blks }
    map := { s.map with quiesceRec := s.map.quiesceRec ++ keys } }

/-- The programs and erases under way on every gallery are interrupted. -/
def State.interrupt (s : State) : State :=
  s.interruptOps ((fins 8).flatMap fun g => ((s.gals.get g).inFlight).map fun o => (g, o))

/-! ## Block state -/

/-- Front's NVMe controller state (R61): no fetching, no queues, no contexts, no grant of host memory; what was posted stands
in host memory, staging runs to its end, and features persist (R69, log entry 16). -/
def Front.resetNvme (f : Front) : Front :=
  Front.ltrTick { f with
    en := false, crime := false, shn := 0, shst := 0, rdy := false, leaving := f.rdy || f.leaving, ccMps := 0, intMask := 0
    aqa := 0x0FFF0FFF, asq := 0, acq := 0, hmbDescs := []
    sqs := [], cqs := [], rr := 0, stopped := true
    ctxs := [], coal := [], cqWait := [], aers := [], events := [], masked := [], aborts := []
    ra := [], held := false, hmbBytes := [], pcie := { f.pcie with intx := false } }

/-- Front under a reset of level 1 or 0: everything but host memory and the counters that outlive a power cycle. -/
def Front.resetAll (f : Front) (master : Bool) : Front :=
  { posted := f.posted, signalled := f.signalled, ltrSent := f.ltrSent, smart := f.smart
    sanitize := f.sanitize, sanitizeHeld := master && f.sanitize == .block, formatting := [], cachedTo := f.cachedTo }

/-- The console under a reset of level 2 or lower: the interpreter, its queues and the line being received; the tunnel's
unread replies are Front's and stay at level 2. -/
def Console.reset (c : Console) (level : Nat) : Console :=
  { tx := c.tx, replies := c.replies, keepAlives := c.keepAlives
    tunnel := if level = 2 then c.tunnel else []
    tunnelLost := level = 2 && c.tunnelLost
    queue := if level = 2 then c.queue.filter fun q => q.ctx.path == .tunnel else []
    nextOrder := c.nextOrder }

/-- A gallery under a reset of level 2, or of level 4 of its own: the installed profile and its counters stay, and the slots
reload from its image (R199, R201, R431). -/
def Gallery.reset (g : Gallery) : Gallery :=
  { profile := g.profile, toInstall := g.toInstall, slots := ((g.profile.map Profile.slots).getD (List.replicate 64 none))
    trainResults := g.trainResults, ceMatch := g.ceMatch
    parityErrs := g.parityErrs, timeouts := g.timeouts, retrains := g.retrains, orders := g.orders, progFails := g.progFails, eraseFails := g.eraseFails, trace := g.trace }

/-- What the Map engine has in flash, in the boot store or in the retained slice; the rest is rebuilt by mount (R372 to R376).
DESIGN CHOICE (log entry 84): the patrol's position goes back to 0 at level 0 only. -/
def MapEngine.reset (m : MapEngine) (level : Nat) : MapEngine :=
  { ns := m.ns.map fun n => n.map fun x => { x with ready := false }
    cold := decide (level ≤ 1) || (m.cold && !m.mounted)
    floors := m.floors
    groups := m.groups.filter fun g => !(m.jBuf.any fun e => match e.2 with | .opened _ n _ _ => n == g.num | _ => false)
    nextGroup := m.nextGroup, present := if level = 2 then m.present else []
    patrolQ := if level = 2 then m.patrolQ else [], patrolTable := if level = 2 then m.patrolTable else []
    patrolPos := if level = 0 then 0 else m.patrolPos
    shelf := m.shelf, pos := m.pos, jDurable := m.jDurable, roots := m.roots, ckptNum := m.ckptNum
    onFlash := m.onFlash, spareFirst := m.spareFirst, quiesceRec := if level = 2 then m.quiesceRec else []
    normalShutdown := m.normalShutdown, scans := m.scans, inHmb := []
    stats := m.stats }

/-- The vault's sensors lie in level 0's scope (R541).  The vault at the assertion of a reset of level 1 or 0: with a password set the latch is cleared (R525). -/
def Vault.reset (v : Vault) (level : Nat) : Vault :=
  { v with
    kek := v.password.isNone
    lock := if v.password.isNone then .isOpen else .locked
    checks := [], lockWait := none, fan := none, cancelled := false, now := if level = 0 then 0 else v.now
    last := if level = 0 then 0 else v.last
    latched := if level = 0 then [] else v.latched
    lost := level ≠ 0 && v.lost }

/-- The clock domains a reset of a level releases, in order (R548); for level 3 Front's part of HCLK. -/
def releaseOrder : Nat → List Clk
  | 0 => [.aclk, .cclk, .xclk, .gclk, .hclk]
  | 1 | 2 => [.cclk, .xclk, .gclk, .hclk]
  | 3 => [.hclk]
  | _ => []

/-- The system controller under a reset of level 0. -/
def Sys.reset0 (y : Sys) : Sys :=
  { railMv := y.railMv, railsGood := y.railsGood, rstN := y.rstN, perst := y.perst, refclk := y.refclk
    clkreqHost := y.clkreqHost, fuses := y.fuses, histSaved := y.histSaved }

/-- The system controller under a reset of level 1: what lies in PD_AON stays, the strap's latch among it, and with it a master asserts
CLKREQ# (R51, R53). -/
def Sys.reset1 (y : Sys) (master : Bool) : Sys :=
  { y with
    st := .boot, clkreqOut := y.strapped && master, lanes := .idle, tethGo := false, after3 := none, after2 := none
    fw := false, rom := false, forced := 0, released := y.released &&& 1, doms := 0x7F, ps := 0, lastOp := 0
    psWant := none, waking := false }

/-- The system controller under a reset of level 2. -/
def Sys.reset2 (y : Sys) : Sys :=
  { y with st := .boot, tethGo := false, fw := false, rom := false, forced := y.forced &&& 0x10, released := y.released &&& 0x11
           psWant := none, waking := false }

/-- The Tether under a reset: its state is lost, and its next HELLO is fresh (R399, R408). -/
def Tether.reset (t : Tether) (level : Nat) : Tether :=
  { tu := { sent := t.tu.sent, eqStored := t.tu.eqStored }, td := { sent := t.td.sent, eqStored := t.td.eqStored }
    chain := if level = 2 then t.chain else none
    present := if level = 2 then t.present else 1
    absent := if level = 2 then t.absent else 0
    masterState := t.masterState }

/-- Every block at the reset of a level 0, 1 or 2 (R544). -/
def State.resetBlocks (s : State) (level : Nat) : State :=
  let low := level ≤ 1
  { s with
    sys := if level = 0 then s.sys.reset0 else if level = 1 then s.sys.reset1 s.isMaster else { s.sys.reset2 with doms := s.domsNow }
    front := if low then s.front.resetAll s.isMaster
      else { s.front with leaving := false, hmbBytes := [], held := s.front.rdy || !s.front.ctxs.isEmpty, ctxs := if s.isMaster then s.front.ctxs.map fun c => { c with started := false, slots := [], uncommitted := 0, parts := [], upTo := none, status := (0, 0, false), failLba := none } else [] }
    con := s.con.reset level
    settings := if low then {} else s.settings
    bst := { s.bst with reqs := [], opCm := false, susCm := false }
    gals := s.gals.map fun g => if low then { g.reset with profile := none, toInstall := none, trainResults := [], slots := List.replicate 64 none } else g.reset
    cdc := {}
    map := s.map.reset level
    assay := if low then {} else { s.assay with
      railMv := Vector.replicate 5 0, railMa := Vector.replicate 5 0, isnsMv := 0, isnsMa := 0, ctlMw := 0, powAcc := [], hot := 0, odd := 0 }
    gov := { charges := if level = 0 then [] else s.gov.charges, mjPslc := s.gov.mjPslc, mjNative := s.gov.mjNative }
    teth := s.teth.reset level
    kpr := s.kpr.scramble low true low
    dma := Vector.replicate 8 {}
    mpu := {}
    lan := if level = 0 then { resps := s.lan.resps } else s.lan
    vault := { (if low then s.vault.reset level else { s.vault with checks := [], lockWait := none, fan := none, cancelled := false }) with
      wasArmed := level ≠ 0 && s.armedShown } }

/-! ## Staging lost (R358) -/

/-- A reset of level 2 or lower discards staging; cached data whose completion was posted is lost with it. -/
def State.dropStaging (s : State) : State :=
  { s with front := { s.front with
      staging := []
      cacheLost := s.front.cacheLost || s.front.staging.any fun x => x.cached && x.hdr.isNone } }

/-! ## Assertion (R547, R579) -/

/-- The cause register, its snapshot, SYS_RST_LAST and the trouble snapshot at the assertion of a reset. -/
def State.recordReset (s : State) (level src count : Nat) : State :=
  let s1 := s.cause src
  let s2 := (s1.setReg .sysCauseSnap (s1.reg .sysCause)).setReg .sysRstLast
    (BitVec.ofNat 32 (level + 16 * src + 65536 * count))
  if level = 0 then s2
  else (s2.setReg .trbSnapLo (s.sys.trouble.truncate 32)).setReg .trbSnapHi ((s.sys.trouble >>> 32).truncate 32)

/-- Record a level 4 reset that a unit's own recovery asserts (R547, R551, R567): it has no source in R545, so that no cause bit is set, and what
SYS_RST_LAST.src then holds is a free value (log entry 73). -/
def State.recordSelf (s : State) : State :=
  let count := satAdd 16 (s.rf .sysRstLast 16 16) 1
  let s1 : State := (({ s with free := s.free + 1 } : State).setReg .sysCauseSnap (s.reg .sysCause)).setReg .sysRstLast
    (BitVec.ofNat 32 (4 + 16 * (Config.freeNat s.free % 16) + 65536 * count))
  let s2 := (s1.setReg .trbSnapLo (s.sys.trouble.truncate 32)).setReg .trbSnapHi ((s.sys.trouble >>> 32).truncate 32)
  { s2 with sys := { s2.sys with resetLife := s.sys.life } }

/-- The resets counted so far with one more, saturating; none at level 0 (R567). -/
def State.resetCount (s : State) (level : Nat) : Nat := if level = 0 then 0 else satAdd 16 (s.rf .sysRstLast 16 16) 1

/-- Sent before the assertion: a subordinate's hold to its master (R408), a master's reset order to its subordinates where
they do not see the source themselves (R405), or its activate order at the reset that activates a committed image (R403). -/
def State.resetOrders (s : State) (level src : Nat) : State :=
  if s.isMaster then
    if level ≤ 1 ∧ src > 3 then s.orderAll 1 level
    else if level = 2 ∧ s.bst.pendingSwap.isSome = true then s.orderAll 8 0
    else s
  else if level = 1 ∨ level = 2 then s.order 0 5 level else s

/-- The host is told of the activation of a committed image by the level 2 reset that follows, where feature 0Bh enables it (R69, R74; log
entry 17). -/
def State.activating (s : State) (level : Nat) : State :=
  if level = 2 ∧ s.bst.pendingSwap.isSome = true ∧ s.front.en = true ∧ s.front.feats.aec.getLsbD 9 = true then
    { s with front := s.front.event ⟨2, 1, 3⟩ }
  else s

/-- Assert a reset of level 0 to 3 from a source. -/
def State.assertReset (s : State) (level src : Nat) : State :=
  let s0 := (s.resetOrders level src).activating level
  let count := s0.resetCount level
  let life := s0.sys.life
  let s1 :=
    if level = 3 then
      { s0.resetRegs 3 with
        front := s0.front.resetNvme, map := { s0.map with inHmb := [] } }
    else ((s0.interrupt.dropStaging.resetRegs level).resetBlocks level)
  let s2 := s1.recordReset level src count
  { s2 with sys := { s2.sys with
      rst := some level, toRelease := releaseOrder level, resetLife := life
      released := if level = 3 then s2.sys.released &&& 0x0F else s2.sys.released } }

/-- A level 3 reset that meets a pending swap record with flag bit 0 is raised to level 2 (R513); during a level 2 reset, which takes the swap
itself, it stays what R549 makes of it, so that Front's NVMe state goes with it (R61, R324). -/
def State.raised (s : State) (level : Nat) : Nat :=
  if level = 3 ∧ (s.bst.pendingSwap.map (·.l3)) = some true ∧ s.sys.rst ≠ some 2 then 2 else level

/-- Request a reset of level 0 to 3 (R549): asserted; widening one in progress; dropped with its cause bit set; or kept until
the one in progress ends, a level 2 recovery then dropping Front's held commands. -/
def State.requestReset (s : State) (src level : Nat) : State :=
  let l := s.raised level
  match s.sys.rst with
  | none => s.assertReset l src
  | some cur =>
    if levelContains cur l then s.cause src
    else if levelContains l cur then s.assertReset l src
    else if cur = 2 then
      { s with
        sys := { s.sys with after2 := some src }
        front := { s.front with ctxs := [], aborts := [] } }
    else { s with sys := { s.sys with after3 := some src } }

/-- Request a reset from a source at its fused level. -/
def State.requestFused (s : State) (src : Nat) : State := s.requestReset src (s.fuseLevel src)

/-! ## Level 4 (R551) -/

/-- The lane that serves a gallery: its own, or the next while that is out of service (R219). -/
def State.hardLane (s : State) (g : Nat) : Nat := if (s.reg .cdcLaneStat).getLsbD (16 + g) then (g + 1) % 8 else g

/-- Whether the gallery has a read's operation running. -/
def State.reading (s : State) (r : Rd) : Bool :=
  (s.gals.get (galOf r.loc.chamber)).ops.any fun o => o.id == r.id && o.running && !o.suspended

/-- The step a read stands at among the hard decodes. -/
def Rd.hardStep (r : Rd) : Option Nat := match r.stage with | .hard n => some n | _ => none

/-- The hard lane of a codeword being read, or on its way to a page: its gallery's, or the one it was sent to again (R219, R239). -/
def State.rdLane (s : State) (r : Rd) : Fin 8 := r.lane.getD (Fin.ofNat 8 (s.hardLane (galOf r.loc.chamber).val))
def State.encLane (s : State) (e : Enc) : Fin 8 := e.lane.getD (Fin.ofNat 8 (s.hardLane (galOf e.loc.chamber).val))

/-- A hard lane holds work: a codeword to decode whose read runs, or one to encode. -/
def State.laneBusy (s : State) (h : Fin 8) : Bool :=
  (s.cdc.rds.any fun r => s.rdLane r == h && r.hardStep.isSome && s.reading r) ||
    s.cdc.enc.any fun e => !e.encoded && s.encLane e == h

/-- Whether a unit is idle; the Map engine and the Keeper have no level 4 reset (R18). -/
def State.unitIdle (s : State) : UnitName → Bool
  | .gal g => let x := s.gals.get g; x.ops.isEmpty && x.retrain == .none && x.ctxs.all fun c => c.2.st == .idle
  | .hard h => !s.laneBusy h
  | .soft n => s.cdc.rds.all fun r => r.softLane != some n
  | .dma n => match (s.dma.get n).st with | .running | .stopping => false | _ => true
  | .tu => s.teth.tu.replay.isEmpty && s.teth.tu.waiting.isEmpty
  | .td => s.teth.td.replay.isEmpty && s.teth.td.waiting.isEmpty
  | .map | .keeper => false

/-- Whether a register of level 4 belongs to a unit. -/
def unitReg (u : UnitName) (r : Reg) : Bool :=
  match u, r with
  | .gal g, r => r.blk == .gal g
  | .dma n, .dmaChSrc m | .dma n, .dmaChDst m | .dma n, .dmaChSlen m | .dma n, .dmaChDlen m | .dma n, .dmaChSstride m
  | .dma n, .dmaChDstride m | .dma n, .dmaChSlines m | .dma n, .dmaChDlines m | .dma n, .dmaChLink m | .dma n, .dmaChCfg m
  | .dma n, .dmaChPatlo m | .dma n, .dmaChPathi m | .dma n, .dmaChCtl m | .dma n, .dmaChStat m | .dma n, .dmaChDone m
  | .dma n, .dmaChCur m => n == m
  | .tu, .tethTuStat | .tu, .tethTuErr => true
  | .td, .tethTdStat | .td, .tethTdErr => true
  | _, _ => false

/-- Restore a unit's registers of level 4. -/
def State.unitRegs (s : State) (u : UnitName) : State :=
  { s with regs := Store.drop (fun a => match Reg.ofAddr a with
      | some r => decide (r.level = 4) && unitReg u r
      | none => false) s.regs }

/-- A bit of CDC_LANE_STAT cleared: its lane is in service again (R241). -/
def State.laneIn (s : State) (bit : Nat) : State := s.setReg .cdcLaneStat (s.reg .cdcLaneStat &&& ~~~(BitVec.ofNat 32 (2 ^ bit)))

/-- A port reset alone: it trains again unless it is off. -/
def TPort.reset (q : TPort) : TPort := { sent := q.sent, eqStored := q.eqStored, st := if q.st = .off then .off else .training }

/-! ## Rates of a gallery (R143, R144, R165) -/

/-- ONFI asynchronous timing mode 0, about 20 MT/s (R143; log entry 21). -/
def sdrRate : Nat := 20

/-- The highest rate a gallery's profile declares at or below a limit, or SDR where it declares none. -/
def Gallery.rateAtMost (g : Gallery) (limit : Nat) : Nat :=
  match g.profile with
  | none => sdrRate
  | some p =>
    let r := p.modes.foldl (fun a m => if m.rate ≤ limit then max a m.rate else a) 0
    if r = 0 then sdrRate else r

/-- The root PLL runs from the fallback oscillator (R32, R564). -/
def State.onFallback (s : State) : Bool := s.rf .sysClk 0 1 == 1

/-- The highest rate a gallery's profile declares at or below a limit, or its lowest declared one. -/
def Gallery.declaredAtMost (g : Gallery) (limit : Nat) : Nat :=
  let r := g.rateAtMost limit
  if r = sdrRate then (((g.profile.bind fun p => p.modes.head?).map (·.rate)).getD sdrRate) else r

/-- The rate firmware wants a gallery at: its setting and the governor's ceiling (R165, R266). -/
def State.firmRate (s : State) (g : Fin 8) : Nat :=
  let x := s.gals.get g
  let top := (x.profile.map (·.topRate)).getD 0
  let set_ := if x.declares (s.settings.galRate.get g) then s.settings.galRate.get g else top
  let ceil := s.rf .govStep 16 16
  x.declaredAtMost (if ceil = 0 then set_ else min set_ ceil)

/-- The rate that GAL_CTL.mode selects (R165, R191). -/
def State.modeRate (s : State) (g : Fin 8) : Nat :=
  match (s.gals.get g).profile with
  | none => sdrRate
  | some p => ((p.modes[s.rf (.galCtl g) 16 4]?).map (·.rate)).getD sdrRate

/-- The rate a training aims at: the mode's, and at most 800 MT/s on the fallback oscillator (R144, R552). -/
def State.aimRate (s : State) (g : Fin 8) : Nat :=
  let r := s.modeRate g
  if s.onFallback then (s.gals.get g).rateAtMost (min r 800) else r

/-- The rate in force (R166). -/
def State.rate (s : State) (g : Fin 8) : Nat := s.rf (.galStat g) 16 16

/-- The index of a rate among the declared ones, as GAL_CTL.mode holds it. -/
def Gallery.modeOf (g : Gallery) (rate : Nat) : Nat :=
  ((g.profile.map fun p => (p.modes.findIdx? fun m => m.rate == rate).getD 0)).getD 0

/-- Firmware writes GAL_CTL.mode at a change of rate (R165). -/
def State.writeMode (s : State) (g : Fin 8) : State := s.setRf (.galCtl g) 16 4 ((s.gals.get g).modeOf (s.firmRate g))

/-- Firmware writes GAL_CTL at an installation and after a reset: enable from its setting, the matched targets, the mode (R165). -/
def State.galSetup (s : State) (g : Fin 8) : State :=
  ((s.setRf (.galCtl g) 0 1 (b2n (s.settings.galEnable.get g))).setRf (.galCtl g) 8 8 (s.gals.get g).ceMatch.toNat).writeMode g

/-! ## The reset of a unit -/

/-- What a unit holds beside its registers, reset; firmware writes a gallery's GAL_CTL again (R165). A port trains again (R390); a lane is in service again (R221). -/
def State.unitState (s : State) : UnitName → State
  | .gal g => (s.gal g Gallery.reset).galSetup g
  | .dma n => { s with dma := setAt s.dma n {} }
  | .tu => { s with teth := { s.teth with tu := s.teth.tu.reset } }
  | .td => { s with teth := { s.teth with td := s.teth.td.reset } }
  | .hard h => s.laneIn (16 + h.val)
  | .soft n => s.laneIn (24 + n.val)
  | .map | .keeper => s

/-- Carry out a level 4 reset from a source. -/
def State.assertUnit (s : State) (u : UnitName) (src : Nat) : State :=
  let life := s.sys.life
  let s1 := (s.unitRegs u).unitState u
  let s2 := s1.recordReset 4 src (s1.resetCount 4)
  { s2 with sys := { s2.sys with resetLife := life } }

/-- Request a level 4 reset: whether it was carried out.  One that meets another reset is dropped with its cause bit set; one
of a unit that is not idle fails. -/
def State.requestUnit (s : State) (u : UnitName) (src : Nat) : Bool × State :=
  if s.resetting then (false, s.cause src)
  else if s.unitIdle u then (true, s.assertUnit u src)
  else (false, s)

end Sys2Proof.Machine
end

