-- ==== Sys2Proof/Machine/MapOps.lean ====
section
/-! DEFINITION. What the Map engine's flows share (chapters 10 to 12): block records, the map and its cache, journal records,
the allocation of blocks, stripe groups and codewords, retirement, the spare pool and the refresh queue. -/

namespace Sys2Proof.Machine

/-! ## Write-pointer tables (R158 to R160) -/

/-- A chamber's table. -/
def Gallery.table (g : Gallery) (c : Fin 16) : List WptEntry := g.wpt.getD c.val []

/-- Replace a chamber's table. -/
def Gallery.setTable (g : Gallery) (c : Fin 16) (t : List WptEntry) : Gallery := { g with wpt := g.wpt.set c.val t }

/-- The entry a block holds. -/
def wptOf (t : List WptEntry) (blk : Nat) : Option WptEntry := t.find? fun e => e.st != .free && e.block == blk

/-- Put an entry in the place of the first one that satisfies `p`. -/
def wptPut (p : WptEntry → Bool) (x : WptEntry) : List WptEntry → List WptEntry
  | [] => []
  | e :: r => if p e then x :: r else e :: wptPut p x r

/-- Whether a program of a page in a mode passes the table. -/
def wptProgram (t : List WptEntry) (blk page : Nat) (pslc : Bool) : Bool :=
  match wptOf t blk with
  | none => false
  | some e => match e.st with
    | .erased => page == 0
    | .openPslc => pslc && page == e.next
    | .openNative => !pslc && page == e.next
    | _ => false

/-- An entry an erase may take when its block holds none. -/
def WptEntry.spare (e : WptEntry) : Bool := e.st == .free || e.st == .closed

/-- Whether an erase of a block passes the table. -/
def wptErase (t : List WptEntry) (blk : Nat) : Bool := (wptOf t blk).isSome || t.any WptEntry.spare

/-- A successful erase: the block's own entry, else a free or closed one, becomes erased with next page 0. -/
def wptErased (t : List WptEntry) (blk : Nat) : List WptEntry :=
  let x : WptEntry := ⟨blk, 0, .erased⟩
  if (wptOf t blk).isSome then wptPut (fun e => e.st != .free && e.block == blk) x t
  else wptPut WptEntry.spare x t

/-- A program status OK: the next page advances by the pages placed, and the last page closes the entry. -/
def wptAdvance (t : List WptEntry) (blk pages last : Nat) (pslc : Bool) : List WptEntry :=
  match wptOf t blk with
  | none => t
  | some e =>
    let n := e.next + pages
    let x : WptEntry := ⟨blk, n, if n ≥ last then .closed else if pslc then .openPslc else .openNative⟩
    wptPut (fun y => y.st != .free && y.block == blk) x t

/-- A forced operation taints its block's entry, or enters the block where a free or closed entry exists (R160). -/
def wptTaint (t : List WptEntry) (blk : Nat) : List WptEntry :=
  match wptOf t blk with
  | some e => wptPut (fun y => y.st != .free && y.block == blk) { e with st := .tainted } t
  | none => wptPut WptEntry.spare ⟨blk, 0, .tainted⟩ t

/-- Whether every plane of an operation passes the table (R159). -/
def Gallery.passes (g : Gallery) (o : GOp) : Bool :=
  match o.kind with
  | .program => (List.range o.npl).all fun i => wptProgram (g.table o.ch) (o.block + i) o.page o.pslc
  | .erase => (List.range o.npl).all fun i => wptErase (g.table o.ch) (o.block + i)
  | _ => true

/-! ## Blocks -/

/-- The pages of a block in its mode. -/
def State.pagesOf (s : State) (k : Nat) : Nat := ((s.prof (chOfBlk k)).map fun p => p.pages (s.blk k).pslc).getD 0

/-- Every device block's count, and those neither free nor erased, or floor. -/
def State.totalBlocks (s : State) : Nat := sumNat (s.map.present.map s.blocksOf)
def Blk.unused (b : Blk) : Bool := (b.st == .free || b.st == .erased) && b.use == .none

/-- Free and erased blocks, floor excluded (R314). -/
def State.freeBlocks (s : State) : Nat :=
  s.totalBlocks - s.map.blks.countP fun e => !e.2.unused || e.2.floor

/-- The profile the device's quantities are taken from: that of its lowest present chamber. -/
def State.refProf (s : State) : Option Profile :=
  ((fins 128).find? fun c => s.map.present.contains c).bind s.prof

/-- User bytes of a native and of a pSLC block: every codeword but the sentinel's (R215). -/
def Profile.nativeBytes (p : Profile) : Nat := (4 * p.pagesNative - 1) * 4096
def Profile.pslcBytes (p : Profile) : Nat := (4 * p.pagesPslc - 1) * 4096

/-- N, the native user bytes of all blocks that are not bad, floor, spare or map-series blocks (R295). -/
def State.nativeN (s : State) : Nat :=
  match s.refProf with
  | none => 0
  | some p => (s.totalBlocks - s.map.spare - s.map.blks.countP fun e =>
      e.2.st == .bad || e.2.floor || e.2.use == .map) * p.nativeBytes

/-- The mapped logical sectors of the device. -/
def State.mapped (s : State) : Nat := s.map.entries.countP fun e => match e.2 with | .mapped _ => true | _ => false

/-- U, the device's user capacity in bytes, whole GiB (R344). -/
def State.userBytes (s : State) : Nat :=
  match s.refProf with
  | none => 0
  | some p => s.map.userBlocks * p.nativeBytes / 2 ^ 30 * 2 ^ 30

/-- The Sump target size S (R295). -/
def State.sumpTarget (s : State) : Nat :=
  let c := if (s.refProf.map (·.qlc)).getD false then 4 else 3
  max (4 * 2 ^ 30) (min ((s.nativeN - 4096 * s.mapped) / (4 * c)) (s.userBytes / 16))

/-- Sump occupancy: the pSLC user bytes of Sump blocks open, or closed and not yet erased (R297). -/
def State.sumpUsed (s : State) : Nat :=
  sumNat (s.map.blks.map fun e =>
    if e.2.use == .sump && (e.2.st == .opened || e.2.st == .closed) then
      ((s.prof (chOfBlk e.1)).map Profile.pslcBytes).getD 0 else 0)

/-- Free and erased blocks are below `n` times `map.gc_low` % of N's blocks (R299). -/
def State.gcBelow (s : State) (n : Nat) : Bool :=
  match s.refProf with
  | none => false
  | some p => decide (100 * s.freeBlocks < n * s.settings.mapGcLow * (s.nativeN / p.nativeBytes))

/-- Garbage collection is in urgent mode (R299). -/
def State.urgent (s : State) : Bool := s.gcBelow 1

/-- A tainted block waits for its erase (R203). -/
def State.taintLeft (s : State) : Bool :=
  s.map.blks.any fun (e : Nat × Blk) => e.2.st == .tainted && !s.suspect (chOfBlk e.1) && (s.gals.get (galOf (chOfBlk e.1))).inService

/-- Background work is paused: in `test` until `stop test` resumes it, in PS3 and PS4, and while firmware restarts the engine (R134, R311). -/
def State.bgPaused (s : State) : Bool := (s.isSt .test && !s.con.leaving) || decide (s.sys.ps.val ≥ 3) || s.map.paused

/-- A hit block is done with once it is erased, or bad. -/
def State.hitGone (s : State) (k : Nat) : Bool :=
  match (s.blk k).st with
  | .erased | .free | .bad => true
  | _ => false

/-! ## Identifiers, sequence numbers and records (R214, R363) -/

/-- The next identifier of an allocation, relocation or gallery operation, and the state with it taken. -/
def State.newId (s : State) : Nat × State := (s.map.nextId, { s with map := { s.map with nextId := s.map.nextId + 1 } })

/-- The next sequence number, and the state with it taken. -/
def State.newSeq (s : State) : Nat × State := (s.map.nextSeq, { s with map := { s.map with nextSeq := s.map.nextSeq + 1 } })

/-- A block closes: its record has the hour, and the order in which blocks closed (R291, R298). -/
def State.closeBlk (s : State) (k : Nat) : State :=
  s.setBlk k fun b => { b with st := .closed, closedH := s.sys.life / 3600, closeSeq := s.map.nextSeq }

/-- Make a journal record: it takes the next sequence number and waits in the journal buffer. -/
def State.record (s : State) (r : JRec) : State :=
  let (n, s1) := s.newSeq
  { s1 with map := { s1.map with jBuf := s1.map.jBuf ++ [(n, r)] } }

/-! ## The map (R284 to R287) -/

def State.entry (s : State) (d : Nat) : Entry := Store.get (fun _ => Entry.unmapped) s.map.entries d

/-- The generation an extent starts at when loaded: one above the highest it held (R287). -/
def MapEngine.loadGen (m : MapEngine) (n : Nat) : Nat := Store.get (fun _ => 0) m.evicted n + 1

/-- A directory page is dirty: it stands in the Keeper cache (R286). -/
def MapEngine.dirDirty (m : MapEngine) (n : Nat) : MapEngine :=
  if m.cache.any fun p => p.series == 1 && p.num == n then
    { m with cache := m.cache.map fun p => if p.series = 1 ∧ p.num = n then { p with dirty := true } else p }
  else { m with cache := m.cache ++ [{ series := 1, num := n, dirty := true, gen := 1 }] }

/-- Drop the least recently used clean page; the directory entry of an extent keeps the generation it held (R287); a leaf or summary page goes to
the HMB, of `hmb` pages, which gives up its oldest (R70, R286). -/
def MapEngine.evict (m : MapEngine) (hmb : Nat) : MapEngine :=
  match m.cache.find? fun p => !p.dirty && !p.owned with
  | none => m
  | some p =>
    let key := p.series * 2 ^ 38 + p.num
    let kept := if hmb = 0 ∨ p.series = 1 then m.inHmb else m.inHmb.drop (m.inHmb.length + 1 - hmb) ++ [key]
    let m1 := { m with cache := m.cache.filter fun q => !(q.series == p.series && q.num == p.num), inHmb := kept }
    if p.series = 0 then { m1 with evicted := Store.set (fun _ => 0) m.evicted p.num (p.gen % 2 ^ 25) }.dirDirty (p.num / 512) else m1

/-- Drop clean pages, the least recently used first, until the cache holds fewer than `cap` or every page of it is dirty. -/
def MapEngine.evictTo (cap hmb : Nat) : Nat → MapEngine → MapEngine
  | 0, m => m
  | f + 1, m => if m.cache.length < cap then m else MapEngine.evictTo cap hmb f (m.evict hmb)

/-- Bring a page to the most recent place of the Keeper cache, loading it where it was not there; the HMB drops its copy. -/
def MapEngine.touch (m : MapEngine) (cap hmb series n : Nat) (dirty : Bool) : MapEngine :=
  let key := series * 2 ^ 38 + n
  match m.cache.find? fun p => p.series == series && p.num == n with
  | some p => { m with cache := (m.cache.filter fun q => !(q.series == series && q.num == n)) ++
      [{ p with dirty := p.dirty || dirty }] }
  | none =>
    let m1 := MapEngine.evictTo cap hmb m.cache.length m
    { m1 with
      inHmb := m1.inHmb.filter fun k => k != key
      cache := m1.cache ++ [{ series, num := n, dirty, gen := if series = 0 then m1.loadGen n else 1 }] }

/-- The generation of an extent, none while it is not in the Keeper cache. -/
def MapEngine.gen (m : MapEngine) (e : Nat) : Option Nat :=
  (m.cache.find? fun p => p.series == 0 && p.num == e).map (·.gen)

/-- A change to an entry of an extent: its page is dirty and its generation rises. -/
def MapEngine.bump (m : MapEngine) (cap hmb e : Nat) : MapEngine :=
  let m1 := m.touch cap hmb 0 e true
  { m1 with cache := m1.cache.map fun p => if p.series = 0 ∧ p.num = e then { p with gen := (p.gen + 1) % 2 ^ 32 } else p }

/-- The pages the granted HMB holds (R70, R324). -/
def State.hmbPages (s : State) : Nat := if s.rf .mapHmb 16 1 = 1 then 256 * s.rf .mapHmb 0 11 else 0

/-- The sectors that staging, reads under way and read-ahead data hold in the Keeper pool (R433). -/
def State.poolUsed (s : State) : Nat :=
  s.front.staging.length + sumNat (s.front.ctxs.map fun c => c.slots.length) + sumNat (s.front.ra.map fun x => x.held.length)

/-- The pages the map cache may hold beside them: 768 to 1536 of the pool's 2304 (R286, R433). -/
def State.cacheCap (s : State) : Nat := max 768 (min 1536 (2304 - s.poolUsed))

/-- The cache gives up the pool space that staging takes (R286). -/
def State.poolFit (s : State) : State := { s with map := MapEngine.evictTo (s.cacheCap + 1) s.hmbPages s.map.cache.length s.map }

/-- The pages of the cache that are dirty, of which there are at most 768 (R286). -/
def State.dirtyCount (s : State) : Nat := s.map.cache.countP (·.dirty)

/-- Where a lookup finds a map page (R286). -/
inductive PageAt where
  | keeper | hmb | flash (l : Loc)
  deriving DecidableEq, Repr

/-- The places in their order: Keeper cache, then HMB, then flash; a page never written has no copy to read, and the top table in the
Keeper answers. -/
def State.pageAt (s : State) (series n : Nat) : PageAt :=
  let key := series * 2 ^ 38 + n
  if s.map.cache.any fun p => p.series == series && p.num == n then .keeper
  else if s.map.inHmb.contains key then .hmb
  else match Store.find s.map.onFlash key with
    | some l => .flash l
    | none => .keeper

/-- Bring a page into the Keeper cache. -/
def State.touch (s : State) (series n : Nat) (dirty : Bool) : State := { s with map := s.map.touch s.cacheCap s.hmbPages series n dirty }

/-- Look a sector's leaf page up (R28, R286): the place it was found in is counted; one found in the Keeper or in the HMB is at hand. -/
def State.lookup (s : State) (d : Nat) : State :=
  match s.pageAt 0 (d / 512) with
  | .keeper => (s.bumpWrap .mapLookupKpr 0 32 1).touch 0 (d / 512) false
  | .hmb => (s.bumpWrap .mapLookupHmb 0 32 1).touch 0 (d / 512) false
  | .flash _ => s.bumpWrap .mapLookupFlash 0 32 1

/-- A block's valid count falls; at 0 the checkpoints of R361 begin to count. -/
def Blk.lose (b : Blk) : Blk :=
  { b with valid := b.valid - 1, emptyAt := if b.valid ≤ 1 then some 0 else b.emptyAt }

def Blk.gain (b : Blk) : Blk := { b with valid := b.valid + 1, emptyAt := none }

/-- Replace an entry: valid counts move at the same moment, and 64 MiB of sectors committed since the last snapshot ask for the next checkpoint
(R365). -/
def State.setEntry (s : State) (d : Nat) (x : Entry) : State :=
  let s1 := match s.entry d with
    | .mapped l => s.setBlk l.blk Blk.lose
    | _ => s
  let s2 := match x with
    | .mapped l => s1.setBlk l.blk Blk.gain
    | _ => s1
  let n := s2.map.sinceCkpt + (match x with | .mapped _ => 1 | _ => 0)
  { s2 with map := { s2.map with
      entries := Store.set (fun _ => Entry.unmapped) s2.map.entries d x
      changed := true, sinceCkpt := n, ckptWant := s2.map.ckptWant || decide (n ≥ 16384) } }

/-- An extent has changed: its page is dirty and its generation rises (R287). -/
def State.bumpExt (s : State) (e : Nat) : State := { s with map := s.map.bump s.cacheCap s.hmbPages e }

/-- Replace an entry by a commit or a swap: its extent's generation rises. -/
def State.remap (s : State) (d : Nat) (x : Entry) : State := (s.setEntry d x).bumpExt (d / 512)

/-! ## Refresh (R329, R334) -/

/-- The order a cause is served in: evacuation of a failed block first (R339), then R334. -/
def causeOrder : Nat → Nat
  | 0 => 0 | 5 => 1 | 3 => 2 | 4 => 2 | 1 => 3 | _ => 4

/-- Queue a block for refresh with a cause; a cause pending changes only to one served earlier; a block that finds the queue
full keeps its bit and sets trouble bit 28. -/
def State.refreshWant (s : State) (k cause : Nat) (carried : Bool := false) : State :=
  let b := s.blk k
  if b.st == .bad then s else
  let c := if b.refresh && causeOrder b.cause ≤ causeOrder cause then b.cause else cause
  let s1 := s.setBlk k fun x => { x with refresh := true, cause := c }
  if s1.map.refQ.any fun e => e.blk == k then
    { s1 with map := { s1.map with refQ := s1.map.refQ.map fun e => if e.blk = k then { e with cause := c } else e } }
  else if s1.map.refQ.length < 16384 then
    State.raiseIf { s1 with map := { s1.map with
        refQ := s1.map.refQ ++ [⟨k, c, s1.map.nextRef, carried, s1.sys.svcSecs⟩], nextRef := s1.map.nextRef + 1 } }
      (decide (s1.map.refQ.length + 1 > 1024)) 28
  else s1.raise 28

/-- The block the queue serves next. -/
def RefQ.before (a b : RefQ) : Bool :=
  let oa := causeOrder a.cause; let ob := causeOrder b.cause
  decide (oa < ob) || (oa == ob && ((a.carried && !b.carried) || (a.carried == b.carried && decide (a.order < b.order))))

def MapEngine.nextRefresh (m : MapEngine) : Option RefQ :=
  m.refQ.foldl (fun o e => match o with
    | none => some e
    | some x => if e.before x then some e else o) none

/-- The blocks that keep a refresh bit without standing in the queue join it, in block order (R334). -/
def State.refreshScan (s : State) : State :=
  (s.map.blks.filter fun e => e.2.refresh && e.2.st != .bad && !(s.map.refQ.any fun q => q.blk == e.1)).foldl (fun t e => t.refreshWant e.1 e.2.cause) s

/-- Take a block out of the refresh queue; as the queue falls below 8192 entries the blocks that found it full join it. -/
def State.refreshDone (s : State) (k : Nat) : State :=
  let s1 := s.setBlk k fun x => { x with refresh := false, cause := 0 }
  let s2 : State := { s1 with map := { s1.map with refQ := s1.map.refQ.filter fun e => e.blk != k } }
  if s.map.refQ.length ≥ 8192 ∧ s2.map.refQ.length < 8192 then s2.refreshScan else s2

/-- Count in a counter of log page C0h that no register holds. -/
def addStat (l : List (String × Nat)) (k : String) (n : Nat) : List (String × Nat) :=
  if l.any fun p => p.1 == k then l.map fun p => if p.1 == k then (k, p.2 + n) else p else l ++ [(k, n)]

def State.stat (s : State) (k : String) (n : Nat := 1) : State :=
  { s with map := { s.map with stats := addStat s.map.stats k n } }

/-! ## Retirement, the spare pool and the health states (R339 to R346) -/

/-- A SMART/Health asynchronous event where the host has enabled the critical warning bit (R82, R346). -/
def State.smartEvent (s : State) (bit info : Nat) : State :=
  if s.front.feats.aec.getLsbD bit then { s with front := s.front.event ⟨1, info, 2⟩ } else s

/-- The floor is below 4 GiB (R346). -/
def State.floorShort (s : State) : Bool :=
  match s.refProf with
  | none => false
  | some p => decide (s.map.floorBlocks * p.pslcBytes < 4 * 2 ^ 30)

/-- Available Spare (R345). -/
def State.sparePct (s : State) : Nat := if s.map.spareFirst = 0 then 100 else 100 * s.map.spare / s.map.spareFirst

/-- The health entry of the boot store (R504, type 5). -/
def State.saveHealth (s : State) : State :=
  { s with bst := { s.bst.hAdd 5 ([s.map.health, 0, 0, 0] ++ leBytes 4 s.map.spare ++ leBytes 4 s.map.spareFirst ++ leBytes 8 s.sys.life)
      with healthRec := some (s.map.health, s.map.spare, s.map.spareFirst, s.sys.life) } }

/-- Enter the health state the pool now gives; a state is never left for a lower one. -/
def State.healthNow (s : State) : State :=
  let h := if s.floorShort then 2 else if s.sparePct < 10 then 1 else 0
  if h ≤ s.map.health then s
  else
    let s1 := (State.saveHealth { s with map := { s.map with health := h } }).raise (if h = 2 then 27 else 26)
    if h = 2 then s1.smartEvent 3 0 else s1.smartEvent 0 2

/-- The reason's counter in MAP_RETIRE. -/
def State.countRetire (s : State) (reason : Nat) : State :=
  match reason with
  | 1 | 5 => s.bump .mapRetire 0 12 1
  | 2 => s.bump .mapRetire 12 12 1
  | 3 => s.bump .mapRetire 24 8 1
  | _ => s

/-- Better to allocate: lower erase count, then erased before free, then the lower number. -/
def betterBlk (a b : Nat × Blk) : Bool :=
  decide (a.2.erase < b.2.erase) || (a.2.erase == b.2.erase &&
    ((a.2.st == .erased && b.2.st != .erased) || ((a.2.st == .erased) == (b.2.st == .erased) && decide (a.1 < b.1))))

/-- The lowest block number of a chamber that no record lists. -/
def firstUnlisted (keys : List Nat) : Nat → Nat → Nat
  | 0, k => k
  | f + 1, k => if keys.contains k then firstUnlisted keys f (k + 1) else k

/-- Which blocks a flow may open (R293, R347): floor blocks serve the Sump alone, and, once the device is read-only, the targets of relocation too;
what else becomes free then serves relocation and no more host data. -/
def State.blockServes (s : State) (flow : Option Flow) (b : Blk) : Bool :=
  match flow with
  | some .sump => b.floor || !s.readOnly
  | some _ => !b.floor || s.readOnly
  | none => !b.floor

/-- The block a chamber opens next for a flow, or for parity and the shelf. -/
def State.pickBlock (s : State) (c : Fin 128) (flow : Option Flow) : Option Nat :=
  let base := c.val * 65536
  let listed := s.map.blks.filter fun e => e.1 / 65536 == c.val
  let first := firstUnlisted (listed.map (·.1)) listed.length base
  let cands := (if first - base < s.blocksOf c then [(first, ({} : Blk))] else []) ++ listed.filter fun e => e.2.unused
  ((cands.filter fun e => s.blockServes flow e.2).foldl (fun o e => match o with
    | none => some e
    | some x => if betterBlk e x then some e else o) none).map (·.1)

/-- A block that takes the place of a bad floor block: of the same chamber where it has one, else of the first chamber that has. -/
def State.spareBlock (s : State) (c : Fin 128) : Option Nat :=
  (c :: (fins 128).filter fun x => s.map.present.contains x).findSome? fun x => s.pickBlock x none

/-- The blocks marked floor. -/
def State.floorKeys (s : State) : List Nat := (s.map.blks.filter fun e => e.2.floor).map (·.1)

/-- Fit the floor to `n` blocks (R296, R344): what it lacks is marked from chamber `c` on as far as blocks can be found, and what it has too many of is
unmarked, lowest block first. -/
def State.floorFit (s : State) (c : Fin 128) (n : Nat) : State :=
  let ks := s.floorKeys
  let s1 : State := (ks.take (ks.length - n)).foldl (fun t k => t.setBlk k fun b => { b with floor := false }) s
  let s2 : State := (List.range (n - ks.length)).foldl (fun t _ => match t.spareBlock c with
    | some k => t.setBlk k fun b => { b with floor := true }
    | none => t) s1
  { s2 with map := { s2.map with floorBlocks := s2.floorKeys.length } }

/-- A block becomes bad: its retire record, the spare pool (then the floor) and the health state follow. -/
def State.retireBlk (s : State) (k reason : Nat) : State :=
  let floor := (s.blk k).floor
  let s1 := (((s.refreshDone k).setBlk k fun b => { b with st := .bad, use := .none, valid := b.valid, retire := reason, floor := false }).record
    (.retire k reason)).countRetire reason
  let m := s1.map
  -- a floor block is replaced from the spare pool while that holds any; then each retirement takes a block from the floor (R296, R344)
  let s2 : State := if m.spare > 0 then { s1 with map := { m with spare := m.spare - 1 } } else s1
  (if floor || m.spare == 0 then s2.floorFit (chOfBlk k) (m.floorBlocks - b2n (m.spare == 0)) else s2).healthNow

/-- A block that is to be retired becomes bad once its valid count is 0 (R339 step 4). -/
def State.retireTry (s : State) (k : Nat) : State :=
  let b := s.blk k
  if b.retire ≠ 0 ∧ b.st ≠ .bad ∧ b.valid = 0 then s.retireBlk k b.retire else s

/-! ## Allocation of blocks (R293, R294) -/

/-- Free and erased blocks of a chamber. -/
def State.freeOf (s : State) (c : Fin 128) : Nat :=
  s.blocksOf c - s.map.blks.countP fun e => e.1 / 65536 == c.val && !e.2.unused

/-- The live member blocks of a group. -/
def StripeGroup.live (g : StripeGroup) : List Nat := g.members.filterMap id

/-- The use and mode of a flow's members: the Sump and map blocks in pSLC mode, relocations native; in read-only health, the
floor blocks serve as relocation targets in pSLC mode (R347). -/
def flowUse : Flow → BlkUse
  | .sump => .sump | .map => .map | _ => .native
def State.flowPslc (s : State) (f : Flow) : Bool := f == .sump || f == .map || s.readOnly

/-- A block of a chamber may be erased as far as its write-pointer table goes: it holds an entry there, or with the erases that wait one is free; a
chamber thus never holds more than 8 erased or open blocks (R158, R292; log entry 75). -/
def State.wptRoom (s : State) (k : Nat) : Bool :=
  let g := s.gals.get (galOf (chOfBlk k))
  let t := g.table (chIn (chOfBlk k))
  let new := g.ops.countP fun o => o.kind == .erase && o.ch == chIn (chOfBlk k) && (wptOf t o.block).isNone
  (wptOf t (k % 65536)).isSome || decide (new < t.countP WptEntry.spare)

/-- A block may be opened: it is erased already, or its chamber's table has room for its erase. -/
def State.openable (s : State) (k : Option Nat) : Bool := match k with | some b => (s.blk b).st == .erased || s.wptRoom b | none => false

/-- A member block that has been taken and has not closed. -/
def State.openMember (s : State) (k : Nat) : Bool := match (s.blk k).st with | .closed | .bad | .tainted => false | _ => true

/-- Present, not suspect, and holding no open member of the flow (R294). -/
def State.mayServe (s : State) (flow : Flow) (c : Fin 128) : Bool :=
  s.map.present.contains c && !s.suspect c &&
    !(s.map.groups.any fun g => g.flow == flow && !g.released && g.live.any fun k => chOfBlk k == c && s.openMember k)

/-- Eligible for a flow's group, with a block to give. -/
def State.eligible (s : State) (flow : Flow) (c : Fin 128) : Bool := s.mayServe flow c && s.openable (s.pickBlock c (some flow))

/-- Eligible for the group's parity block: no floor block serves, and a chamber holds at most two open parity blocks (R292, R294). -/
def State.eligibleParity (s : State) (flow : Flow) (c : Fin 128) : Bool :=
  s.mayServe flow c && s.openable (s.pickBlock c none) &&
    decide ((s.map.blks.countP fun e => e.1 / 65536 == c.val && e.2.use == .parity && s.openMember e.1) < 2)

/-- The chamber of a list with the most free and erased blocks, the lower index on a tie. -/
def State.richest (s : State) (l : List (Fin 128)) : Option (Fin 128) :=
  l.foldl (fun o c => match o with
    | none => some c
    | some x => if s.freeOf c > s.freeOf x then some c else o) none

def chambersOf (g : Fin 8) : List (Fin 128) := (fins 16).map fun c => chamberOf g c

/-- The galleries, richest in total first. -/
def State.galsByFree (s : State) : List (Fin 8) :=
  (fins 8).mergeSort fun a b =>
    decide (sumNat ((chambersOf a).map s.freeOf) > sumNat ((chambersOf b).map s.freeOf)) ||
      (sumNat ((chambersOf a).map s.freeOf) == sumNat ((chambersOf b).map s.freeOf) && decide (a.val ≤ b.val))

/-- The chambers of a new group of width `w`, and of its parity block, if it can be placed. -/
def State.placeGroup (s : State) (flow : Flow) (w : Nat) : Option (List (Fin 128) × Fin 128) :=
  let one := (fins 8).filterMap fun g => s.richest ((chambersOf g).filter (s.eligible flow))
  let two := (s.galsByFree.take (w - 8)).filterMap fun g =>
    s.richest ((chambersOf g).filter fun c => s.eligible flow c && one.all fun x => x.val / 2 != c.val / 2)
  let all := one ++ two
  let pages (c : Fin 128) : Nat := ((s.prof c).map fun p => p.pages (s.flowPslc flow)).getD 0
  -- the members of a group have one page count (R231)
  if one.length = 8 ∧ all.length = w ∧ (all.all fun c => pages c == pages (all.headD 0)) = true then
    (s.richest ((fins 128).filter fun c => s.eligibleParity flow c && !all.contains c)).map fun p => (all, p)
  else none

/-- Queue a gallery operation. -/
def State.queueOp (s : State) (g : Fin 8) (op : GOp) : State := s.gal g fun x => { x with ops := x.ops ++ [op] }

/-- Queue an erase of a block (class 6). -/
def State.queueErase (s : State) (k : Nat) : State :=
  let c := chOfBlk k
  if (s.gals.get (galOf c)).ops.any fun o => o.kind == .erase && o.ch == chIn c && o.block == k % 65536 then s
  else
    let (id, s1) := s.newId
    s1.queueOp (galOf c) { id, ch := chIn c, kind := .erase, cls := 6, block := k % 65536, pslc := (s.blk k).pslc, need := .erase }

/-- Give a block its use: opened at once when erased, else after its erase (R293). -/
def State.openBlk (s : State) (k : Nat) (use : BlkUse) (pslc : Bool) : State :=
  if (s.blk k).st == .erased then s.setBlk k fun b => { b with st := .opened, use, pslc, next := 0 }
  else (s.setBlk k fun b => { b with use, pslc, next := 0 }).queueErase k

/-- Queue a program of a parity block's page: its descriptor, a position, or its final page (R234). -/
def State.queueParityPage (s : State) (k page n : Nat) : State :=
  let (id, s1) := s.newId
  State.queueOp s1 (galOf (chOfBlk k)) { id, ch := chIn (chOfBlk k), kind := .program, cls := 3, block := k % 65536, page, need := .parity n, secs := s.sys.life }

/-- A codeword on its way through the encoder to its place. -/
def State.pushEnc (s : State) (e : Enc) : State := { s with cdc := { s.cdc with enc := s.cdc.enc ++ [e] } }

/-- The descriptor of a parity block, to its page 0 with pads behind it (R214, R234). -/
def State.describe (s : State) (g : StripeGroup) (k first : Nat) : State :=
  let (id, s1) := s.newId
  let (q, s2) := s1.newSeq
  let c : Cw := { kind := 3, lba := g.num, seq := q, secs := s.sys.life, data := bytesSector (descriptorBytes g first (s.pagesOf k - 2)) }
  (s2.pushEnc { id, cw := c, loc := ⟨chOfBlk k, k % 65536, 0, 0⟩, alloc := none, encoded := false }).queueParityPage k 0 g.num

/-- Open a stripe group for a flow: its blocks, its parity block and its open record; none when it cannot be placed. -/
def State.openGroup (s : State) (flow : Flow) : Option State :=
  let w := s.rf .cdcCtl 8 5
  if (s.map.groups.countP fun g => g.isOpen) ≥ 16 then none else
  match s.placeGroup flow w with
  | none => none
  | some (cs, pc) =>
    let ms := cs.filterMap fun c => s.pickBlock c (some flow)
    match s.pickBlock pc none with
    | none => none
    | some pk =>
      let n := s.map.nextGroup
      let pslc := s.flowPslc flow
      let s1 := ms.foldl (fun t k => (t.openBlk k (flowUse flow) pslc).setBlk k fun b => { b with held := true }) s
      let s2 := (s1.openBlk pk .parity true).record (.opened flow n ms pk)
      let g : StripeGroup := { num := n, flow, width := ms.length, pslc, members := ms.map some, parity := [(pk, 0)] }
      some (State.describe { s2 with map := { s2.map with nextGroup := n + 1, groups := s2.map.groups ++ [g] } } g pk 0)

/-! ## Allocation of codewords (R294, R357) -/

/-- Change a group. -/
def State.setGroup (s : State) (n : Nat) (f : StripeGroup → StripeGroup) : State :=
  { s with map := { s.map with groups := s.map.groups.map fun g => if g.num = n then f g else g } }

def State.group? (s : State) (n : Nat) : Option StripeGroup := s.map.groups.find? fun g => g.num == n

/-- The pages one program of a block places. -/
def State.perProgram (s : State) (k : Nat) : Nat := ((s.prof (chOfBlk k)).map fun p => p.perProgram (s.blk k).pslc).getD 1

/-- The codewords a program at a page offers: all but the sentinel of the block's final page. -/
def State.capacity (s : State) (k page : Nat) : Nat :=
  let n := s.perProgram k
  4 * n - (if page + n ≥ s.pagesOf k then 1 else 0)

/-- The next member with pages left, round-robin from `at_`. -/
def State.nextMember (s : State) (g : StripeGroup) : Option (Nat × Nat) :=
  let w := g.members.length
  (List.range w).findSome? fun i =>
    let j := (g.nextMember + i) % w
    match g.members.getD j none with
    | some k => if (s.blk k).next + s.perProgram k ≤ s.pagesOf k then some (j, k) else none
    | none => none

/-- A group has a page under assembly, or pages left to allocate in. -/
def State.grpRoom (s : State) (g : StripeGroup) : Bool := (s.nextMember g).isSome || !g.fill.isEmpty

/-- The open group that a flow allocates in: the first that has room, where one does (R356). -/
def State.openOf (s : State) (f : Flow) : Option StripeGroup :=
  let gs := s.map.groups.filter fun g => g.isOpen && g.flow == f
  (gs.find? s.grpRoom).or gs.head?

/-- A page or wordline under assembly takes no more codewords. -/
def State.fillEntryFull (s : State) (f : Loc × List Nat) : Bool := decide (f.2.length ≥ s.capacity f.1.blk f.1.page)

/-- The members under assembly of a group as a whole: a program of one page goes to one member at a time; the wordlines of native members are
filled page by page round-robin, so that consecutive pages land on different chambers (R294). -/
def State.fillGrows (s : State) (g : StripeGroup) : Bool :=
  g.fill.isEmpty || (g.fill.all (fun f => decide (s.perProgram f.1.blk > 1)) && decide (g.fill.length < g.live.length) &&
    (match s.nextMember g with | some (_, k) => !(g.fill.any fun f => f.1.blk == k) | none => false))

/-- What a group has under assembly is complete. -/
def State.fillFull (s : State) (g : StripeGroup) : Bool := g.fill.all s.fillEntryFull && !s.fillGrows g

/-- Begin the next member's page or wordline. -/
def State.fillBegin (s : State) (n : Nat) : State :=
  match s.group? n with
  | none => s
  | some g =>
    match s.nextMember g with
    | none => s
    | some (j, k) =>
      let l : Loc := ⟨chOfBlk k, k % 65536, (s.blk k).next, 0⟩
      let s1 := s.setBlk k fun b => { b with next := b.next + s.perProgram k }
      s1.setGroup n fun x => { x with fill := x.fill ++ [(l, [])], nextMember := (j + 1) % x.members.length }

/-- Where the next codeword of a group goes: into the page begun; else to the next member, as its first page, or to the member whose pages are
fewest. -/
def State.fillOf (s : State) (n : Nat) : Option (Loc × List Nat × State) :=
  match s.group? n with
  | none => none
  | some g =>
    let begun := g.fill.find? fun f => f.2.length % 4 != 0 && !s.fillEntryFull f
    if begun.isSome then begun.map fun f => (f.1, f.2, s)
    else
      let t := if s.fillGrows g then s.fillBegin n else s
      let fs := ((t.group? n).map (·.fill)).getD []
      ((fs.filter fun f => !t.fillEntryFull f).foldl (fun o f => match o with
        | none => some f
        | some x => if f.2.length < x.2.length then some f else o) none).map fun f => (f.1, f.2, t)

/-- Allocate the next codeword of a group to an identifier: its location, and whether that completes what is under assembly. -/
def State.allocIn (s : State) (n id : Nat) : Option (Loc × Bool × State) :=
  match s.fillOf n with
  | none => none
  | some (l, ids, s1) =>
    let i := ids.length
    let loc : Loc := { l with page := l.page + i / 4, cw := Fin.ofNat 4 i }
    let s2 := s1.setGroup n fun x => { x with fill := x.fill.map fun f => if f.1 = l then (l, ids ++ [id]) else f }
    some (loc, ((s2.group? n).map s2.fillFull).getD true, s2)

/-- The identifiers under assembly in a group. -/
def StripeGroup.filling (g : StripeGroup) : List Nat := g.fill.flatMap (·.2)

/-- Release what a group has under assembly to its galleries as programs; what is not allocated is padded. -/
def State.releaseFill (s : State) (n cls : Nat) (need : Need) : State :=
  match s.group? n with
  | none => s
  | some g =>
    g.fill.foldl (fun t f =>
      let l := f.1
      let (id, s1) := t.newId
      s1.queueOp (galOf l.chamber)
        { id, ch := chIn l.chamber, kind := .program, cls, block := l.block, page := l.page, pages := s.perProgram l.blk
          pslc := (s.blk l.blk).pslc, need, secs := s.sys.life }) (s.setGroup n fun x => { x with fill := [] })

/-- The group an open or closed member block belongs to. -/
def State.groupOf (s : State) (k : Nat) : Option StripeGroup := s.map.groups.find? fun g => g.members.contains (some k)

/-- The group a parity block belongs to. -/
def State.parityOf (s : State) (k : Nat) : Option StripeGroup := s.map.groups.find? fun g => g.parity.any fun p => p.1 == k

/-- The group that protects a page: its block is a member, or was one until a later position (R233). -/
def State.groupAt (s : State) (k page : Nat) : Option StripeGroup :=
  s.map.groups.find? fun g => g.members.contains (some k) || g.dropped.any fun x => x.1 == k && decide (page < x.2)

/-- The members that have a page at a position, the one that asks left out. -/
def StripeGroup.othersAt (g : StripeGroup) (k pos : Nat) : List Nat :=
  (g.live ++ (g.dropped.filter fun x => decide (pos < x.2)).map (·.1)).filter fun x => x != k

/-- Drop a member from its group at a position: from it on its positions are left out of the parity, and its earlier ones stay protected
(R233). -/
def StripeGroup.drop (g : StripeGroup) (k pos : Nat) : StripeGroup :=
  { g with members := g.members.map fun m => if m = some k then none else m
           dropped := if g.members.contains (some k) then g.dropped ++ [(k, pos)] else g.dropped
           fill := g.fill.filter fun f => f.1.blk != k }

/-! ## Positions and parity (R231 to R234) -/

/-- The parity block and page of a position: P − 2 positions to a block from its first, at page 1 and onward. -/
def State.parityAt (s : State) (g : StripeGroup) (pos : Nat) : Option (Nat × Nat) :=
  match (g.parity.filter fun x => decide (x.2 ≤ pos)).getLast? with
  | none => none
  | some (k, first) => if first ≤ pos ∧ pos - first + 2 < s.pagesOf k then some (k, 1 + (pos - first)) else none

/-- A further parity block of a group, from a position on, on an eligible chamber that holds no member (R234). -/
def State.moreParity (s : State) (g : StripeGroup) (pos : Nat) : State :=
  let free (c : Fin 128) : Bool := s.eligibleParity g.flow c && !(g.live.any fun k => chOfBlk k == c)
  match (s.richest ((fins 128).filter free)).bind fun c => s.pickBlock c none with
  | none => s
  | some k =>
    ((s.openBlk k .parity true).setGroup g.num fun x => { x with parity := x.parity ++ [(k, pos)] }).describe g k pos

/-- Queue the parity program of a closed position, in a further parity block where the last one is full. -/
def State.queueParity (s : State) (g : StripeGroup) (pos : Nat) : State :=
  let s1 := if (s.parityAt g pos).isNone then s.moreParity g pos else s
  match (s1.group? g.num).bind fun x => s1.parityAt x pos with
  | none => s1
  | some (k, page) => s1.queueParityPage k page g.num

/-- A program of a block's page waits or runs at its gallery. -/
def State.programming (s : State) (k pos : Nat) : Bool :=
  (s.gals.get (galOf (chOfBlk k))).ops.any fun o =>
    o.kind == .program && o.ch == chIn (chOfBlk k) && o.block == k % 65536 && decide (o.page ≤ pos ∧ pos < o.page + o.pages)

/-- A position with an accumulator closes once every live member has returned OK for its page, and no dropped member's page of it is still to be
programmed; its parity program is queued (R232). -/
def State.closePos (s : State) (n pos : Nat) : State :=
  match s.group? n with
  | none => s
  | some g =>
    match g.accs.find? fun a => a.1 == pos with
    | none => s
    | some a =>
      let gone := g.dropped.any fun x => decide (pos < x.2) && !a.2.contains x.1 && s.programming x.1 pos
      if g.closing.contains pos ∨ gone ∨ !(g.live.all fun k => a.2.contains k) then s
      else (s.setGroup n fun x => { x with closedPos := x.closedPos + 1, closing := x.closing ++ [pos] }).queueParity g pos

/-- A member's page returned program status OK: its position has an accumulator, and closes once every live member has. -/
def State.positionOk (s : State) (k pos : Nat) : State :=
  match s.groupAt k pos with
  | none => s
  | some g =>
    let done := ((g.accs.find? fun a => a.1 == pos).map (·.2)).getD [] ++ [k]
    State.closePos (s.setGroup g.num fun x => { x with accs := (x.accs.filter fun a => a.1 != pos) ++ [(pos, done)] }) g.num pos

/-- Drop a member from its group at a position; a position that waited for it alone closes (R232, R233). -/
def State.dropMember (s : State) (n k pos : Nat) : State :=
  let t := s.setGroup n fun x => let y := x.drop k pos; { y with isOpen := y.isOpen && y.live.any fun b => b != k && (s.blk b).st != .closed }
  ((t.group? n).map fun g => g.accs.foldl (fun u a => u.closePos n a.1) t).getD t

/-- Store a codeword in the array. -/
def State.putCw (s : State) (l : Loc) (c : Cw) : State := { s with media := { s.media with cws := Store.ins l.key c s.media.cws } }

/-- The codeword places of a program of a block's pages that no other codeword takes are pads (R24, R215, R357). -/
def State.padRest (s : State) (k page pages : Nat) (secs : Nat := s.sys.life) : State :=
  (List.range pages).foldl (fun t i => (fins 4).foldl (fun u c =>
    let l : Loc := ⟨chOfBlk k, k % 65536, page + i, c⟩
    if Store.has u.media.cws l.key then u else u.putCw l (padCw secs)) t) s

/-- What the encoder sent to the pages of a program: its codewords stand in the array, and leave the Codec. -/
def Enc.inProg (e : Enc) (k page pages : Nat) : Bool := decide (e.loc.blk = k ∧ page ≤ e.loc.page ∧ e.loc.page < page + pages)
def State.putEncs (s : State) (k page pages : Nat) : State :=
  let es := s.cdc.enc.filter fun e => e.inProg k page pages
  let t : State := es.foldl (fun t e => t.putCw e.loc e.cw) s
  { t with cdc := { t.cdc with enc := t.cdc.enc.filter fun e => !e.inProg k page pages } }

/-- Codeword k of the parity page of a position: the XOR of codeword k of every member's page there, as encoded (R231). -/
def State.parityWord (s : State) (g : StripeGroup) (pos : Nat) (cw : Fin 4) : List Nat :=
  (g.othersAt 0xFFFFFFFF pos).foldl (fun a k => match Store.find s.media.cws (Loc.key ⟨chOfBlk k, k % 65536, pos, cw⟩) with
    | some c => xorBytes a c.bytes
    | none => a) (List.replicate 4608 0)

/-- The four parity codewords of a position stand in a parity page (R231, R234). -/
def State.putParity (s : State) (g : StripeGroup) (k page pos : Nat) : State :=
  { s with media := { s.media with parity := (fins 4).foldl (fun m c =>
      Store.ins (Loc.key ⟨chOfBlk k, k % 65536, page, c⟩) (s.parityWord g pos c) m) s.media.parity } }

/-- A parity block's page stands in flash: its descriptor; a position, whose accumulator is freed; after the last position the final page
follows, and with that page's sentinel the block closes (R232, R234). -/
def State.parityOk (s : State) (k page secs : Nat) : State :=
  match s.parityOf k with
  | none => s
  | some g =>
    let first := ((g.parity.find? fun x => x.1 == k).map (·.2)).getD 0
    let s0 := s.setBlk k fun b => { b with next := page + 1 }
    if page = 0 then (s0.putEncs k 0 1).padRest k 0 1 secs
    else if page + 1 ≥ s.pagesOf k then
      ((s0.putCw ⟨chOfBlk k, k % 65536, page, 3⟩ sentinelCw).padRest k page 1 secs).closeBlk k
    else
      let s1 := (s0.putParity g k page (first + page - 1)).setGroup g.num fun x => { x with
        accs := x.accs.filter fun a => a.1 != first + page - 1, closing := x.closing.filter fun q => q != first + page - 1 }
      if page + 2 = s.pagesOf k then s1.queueParityPage k (page + 1) g.num else s1

/-- The accumulators in use on the device (R232). -/
def State.accumulators (s : State) : Nat := sumNat (s.map.groups.map fun g => g.accs.length)

/-- Every position a program places has an accumulator, or one is free for it: at most 8 in a group and 128 in the device. -/
def State.accRoom (s : State) (k page pages : Nat) : Bool :=
  match s.groupOf k with
  | none => true
  | some g =>
    let new := (List.range pages).countP fun i => !(g.accs.any fun a => a.1 == page + i)
    decide (g.accs.length + new ≤ 8 ∧ s.accumulators + new ≤ 128)

/-- The open record of a block's group is journal-durable, or the block belongs to none (R356). -/
def State.openDurable (s : State) (k : Nat) : Bool :=
  match s.groupOf k with
  | none => true
  | some g => !(s.map.jBuf.any fun e => match e.2 with | .opened _ n _ _ => n == g.num | _ => false)

/-! ## Programmed data -/

/-- A codeword is added to its position's accumulator as it leaves the encoder (R23, R232). -/
def State.accJoin (s : State) (k pos : Nat) : State :=
  match s.groupAt k pos with
  | none => s
  | some g => if g.accs.any fun a => a.1 == pos then s else s.setGroup g.num fun x => { x with accs := x.accs ++ [(pos, [])] }

/-- A block's summary grows with each user codeword programmed (R305). -/
def Blk.cover (b : Blk) (d : Nat) : Blk :=
  { b with lowD := min b.lowD d, highD := max b.highD d
           filter := b.filter ||| (1#64 <<< ((d / 512 * 0x9E3779B9) % 2 ^ 32 / 2 ^ 26)) }

/-- The allocations and relocations that a program of a block's pages carries. -/
def Alloc.inProg (a : Alloc) (k page pages : Nat) : Bool := !a.unplaced && decide (a.loc.blk = k ∧ page ≤ a.loc.page ∧ a.loc.page < page + pages)
def Reloc.inProg (r : Reloc) (k page pages : Nat) : Bool := decide (r.dst.blk = k ∧ page ≤ r.dst.page ∧ r.dst.page < page + pages)

/-- The codeword an allocation becomes: user data under its namespace's key (R213, R226). -/
def State.cwOf (s : State) (a : Alloc) : Cw :=
  { kind := 0, lba := a.lba, ns := a.ns.val, seq := a.seq, secs := a.secs, data := a.data
    key := s.cdc.keys.get ⟨a.ns.val, by omega⟩ }

/-- The summary page of a block changes: a closed block's summary lives there (R305). -/
def State.summaryDirty (s : State) (k : Nat) : State := s.touch 2 (s.devBlock k / 128) true

/-- A page or wordline of a member block stands in flash: its codewords are readable, its positions count, and with the last
page the block closes (R158, R291). -/
def State.programmedOk (s : State) (k page pages secs : Nat) : State :=
  let as := s.map.allocs.filter fun a => a.inProg k page pages
  let rs := s.map.relocs.filter fun r => r.inProg k page pages
  let s1 := (as.map (·.dsec) ++ rs.map (·.dsec)).foldl (fun t d => t.setBlk k fun b => b.cover d) (s.putEncs k page pages)
  let closes := decide (page + pages ≥ s.pagesOf k ∧ s.pagesOf k ≠ 0)
  let last : Loc := ⟨chOfBlk k, k % 65536, s.pagesOf k - 1, 3⟩
  let s2 := (if closes then s1.putCw last sentinelCw else s1).padRest k page pages secs
  let s3 : State := { s2 with map := { s2.map with
    allocs := s2.map.allocs.map fun a => if a.inProg k page pages then { a with programmed := true } else a
    relocs := s2.map.relocs.map fun r => if r.inProg k page pages then { r with programmed := true } else r } }
  let s4 := (List.range pages).foldl (fun t i => t.positionOk k (page + i)) (s3.stat "programmed" (as.length + rs.length))
  if closes then
    let s5 := ((s4.closeBlk k).record (.closed k)).summaryDirty k
    match s5.groupOf k with
    | some g => if g.live.all fun x => (s5.blk x).st == .closed then s5.setGroup g.num fun x => { x with isOpen := false } else s5
    | none => s5
  else s4

/-! ## Data placed again (R162, R163, R339) -/

/-- Move what the Codec holds of an identifier to another place; it passes the encoder again, into that place's accumulator. -/
def State.moveEnc (s : State) (id : Nat) (l : Loc) : State :=
  { s with cdc := { s.cdc with enc := s.cdc.enc.map fun e => if e.id = id then { e with loc := l, encoded := false } else e } }

/-- Change an allocation, or a copy in flight. -/
def State.setAlloc (s : State) (id : Nat) (f : Alloc → Alloc) : State :=
  { s with map := { s.map with allocs := s.map.allocs.map fun a => if a.id = id then f a else a } }
def State.setReloc (s : State) (id : Nat) (f : Reloc → Reloc) : State :=
  { s with map := { s.map with relocs := s.map.relocs.map fun r => if r.id = id then f r else r } }

/-- A copy that has no target is given up: its sector is copied again when its block's copy goes on (R30, R343). -/
def State.dropReloc (s : State) (id : Nat) : State :=
  { s with
    map := { s.map with relocs := s.map.relocs.filter fun r => r.id != id }
    cdc := { s.cdc with enc := s.cdc.enc.filter fun e => e.id != id } }

/-- The data of an allocation waits in the Keeper for the next group to take it. -/
def State.unplace (s : State) (id : Nat) : State :=
  let t := s.setAlloc id fun a => { a with unplaced := true }
  { t with cdc := { t.cdc with enc := t.cdc.enc.filter fun e => e.id != id } }

/-- Place the data of a program that did not happen at the next position of another member of the same group; where no member has a page
left, a host's data waits for the next group and a copy restarts. -/
def State.replace (s : State) (n : Nat) (as : List Nat) (rs : List Nat) : State :=
  let s1 := as.foldl (fun t id => match t.allocIn n id with
    | some (l, full, t1) =>
      let t2 := (t1.setAlloc id fun a => { a with loc := l }).moveEnc id l
      if full then t2.releaseFill n 3 .sumpPage else t2
    | none => t.unplace id) s
  rs.foldl (fun t id => match t.allocIn n id with
    | some (l, full, t1) =>
      let t2 := (t1.setReloc id fun r => { r with dst := l }).moveEnc id l
      if full then t2.releaseFill n 5 (.reloc id) else t2
    | none => t.dropReloc id) s1

/-- The data of a member's programs goes to another member; the member leaves its group at a position and its waiting programs are
dropped.  What is left of the new page is padded at once: a completion may wait on it. -/
def State.moveProgram (s : State) (k pos : Nat) : State :=
  match s.groupOf k with
  | none => s
  | some g =>
    let as := (s.map.allocs.filter fun a => a.loc.blk == k && !a.programmed && !a.unplaced).map (·.id)
    let rs := (s.map.relocs.filter fun r => r.dst.blk == k && !r.programmed).map (·.id)
    -- a map page stays dirty in the Keeper and is written back again
    let s00 : State := { s with cdc := { s.cdc with enc := s.cdc.enc.filter fun e => !(e.cw.kind == 1 && e.loc.blk == k) } }
    let s01 := s00.gal (galOf (chOfBlk k)) fun x => { x with
      ops := x.ops.filter fun o => !(o.kind == .program && !o.running && o.ch == chIn (chOfBlk k) && o.block == k % 65536) }
    let s0 := s01.dropMember g.num k pos
    let s1 := s0.replace g.num as rs
    s1.releaseFill g.num (if rs.isEmpty then 3 else 5) (if rs.isEmpty then .sumpPage else .reloc (rs.headD 0))

/-- A program that returned FAIL (R339, R343): trouble bit 11 (and 30 for a relocation target), the block leaves its group after that
position, its data goes to another member, its committed pages are evacuated ahead of every refresh, and once empty it is bad. -/
def State.programFailed (s : State) (k pos : Nat) : State :=
  let target := match (s.groupOf k).map (·.flow) with | some .fold | some .relocation => true | _ => false
  let s1 := ((s.raise 11).raiseIf target 30).gal (galOf (chOfBlk k)) fun g => { g with progFails := g.progFails + 1 }
  let s2 := ((s1.moveProgram k pos).closeBlk k).setBlk k fun b => { b with retire := 1 }
  (s2.refreshWant k 0).retireTry k

end Sys2Proof.Machine
end

