-- ==== Sys2Proof/Machine/AssayOps.lean ====
section
/-! DEFINITION. The read-offset records and the offsets a native read is sent (R256, R258 to R260, R194, R195). -/

namespace Sys2Proof.Machine

/-- Write a group's record. -/
def State.setOfs (s : State) (c : Fin 128) (group : Nat) (r : OfsRec) : State :=
  { s with assay := { s.assay with ofs := Store.ins (ofsKey c group) r s.assay.ofs } }

/-- A gallery's pad temperature, rounded to 1 °C (R256). -/
def State.padTemp (s : State) (g : Fin 8) : Int :=
  let q := s.assay.padQ.get g
  if q ≥ 0 then (q + 2) / 4 else -((2 - q) / 4)

/-- A chamber's latest temperature: its own or its gallery's pad, rounded to 1 °C and marked estimated (R256). -/
def State.chamberTemp (s : State) (c : Fin 128) : Int × Bool :=
  match Store.find s.assay.chTemp c.val with
  | some t => t
  | none => (s.padTemp (galOf c), true)

/-- The quotient by 256 rounded to the nearest whole number, halves away from zero (R260). -/
def round256 (x : Int) : Int := if x ≥ 0 then (x + 128) / 256 else -((128 - x) / 256)

/-- The tracked entry j of a group at a temperature: v_j + round(c_j × (T − Tₛ) ÷ 256). -/
def Profile.trackedEntry (p : Profile) (r : OfsRec) (t : Int) (j : Nat) : Int :=
  r.vec.getD j 0 + round256 (p.coef.getD j 0 * (t - r.temp))

/-- Clamp to the offsets the die accepts. -/
def Profile.clamp (p : Profile) (x : Int) : Int := max p.ofsLo (min p.ofsHi x)

/-- What DINV sends for an entry (R194, R260): source 0 the tracked entry and source 1 with the STEP row, both clamped; source 2
the profile's default.  DESIGN CHOICE (log entry 72): an entry from n to 14, which the read levels do not hold, counts as 0. -/
def State.dinv (s : State) (c : Fin 128) (p : Profile) (blk step source j : Nat) : Int :=
  let r := s.ofs c (blk / 64)
  let tr := p.trackedEntry r (s.chamberTemp c).1 j
  match source with
  | 0 => p.clamp tr
  | 1 => p.clamp (tr + (if step = 0 then 0 else (p.retry.getD (step - 1) []).getD j 0))
  | _ => p.ofsDefault.getD j 0

/-- The set of offsets hook 26 would apply, or hook 27's defaults in pSLC mode (R186).  DESIGN CHOICE (log entry 71): the set is that of source 1 for
every entry, whatever sources the hook's DINV ops use, and a STEP above the table's rows adds 0 to it. -/
def State.offsetSet (s : State) (c : Fin 128) (p : Profile) (blk step : Nat) (pslc : Bool) : List Int :=
  if pslc then p.ofsDefault else (List.range p.ofsDefault.length).map fun j => s.dinv c p blk step 1 j

/-- Set the search-pending bit of a block's group (R261). -/
def State.searchPend (s : State) (k : Nat) : State :=
  let c := chOfBlk k
  let g := k % 65536 / 64
  if (s.prof c).isSome then s.setOfs c g { s.ofs c g with pend := true } else s

/-- T1 and T2 in force, °C. -/
def State.govT1 (s : State) : Int :=
  let t := (s.front.feats.tmt1 : Int) - 273
  if s.front.feats.tmt1 ≠ 0 ∧ t < s.settings.govThrottleC then t else s.settings.govThrottleC
def State.govT2 (s : State) : Int :=
  let t := (s.front.feats.tmt2 : Int) - 273
  if s.front.feats.tmt2 ≠ 0 ∧ t < s.govT1 + 10 then t else s.govT1 + 10

end Sys2Proof.Machine
end

