-- ==== Sys2Proof/Machine/FrontOps.lean ====
section
/-! DEFINITION. Operations of Front on commands: contexts, completions by status, and the checks that meet every I/O
command (R60, R64, R68, R526). -/

namespace Sys2Proof.Machine

/-! ## Statuses. The spec gives names and codes; the status code types are those of the NVMe specification (log entry 17). -/

/-- A status: type, code, Do Not Retry. -/
structure NStat where
  sct : Nat
  sc : Nat
  dnr : Bool := false
  deriving DecidableEq, Repr

namespace NStat
def success : NStat := ⟨0, 0x00, false⟩
def invalidOpcode : NStat := ⟨0, 0x01, false⟩
def invalidField : NStat := ⟨0, 0x02, false⟩
def internal : NStat := ⟨0, 0x06, false⟩
def internalDnr : NStat := ⟨0, 0x06, true⟩
def aborted : NStat := ⟨0, 0x07, false⟩
def invalidNs : NStat := ⟨0, 0x0B, false⟩
def sequence : NStat := ⟨0, 0x0C, false⟩
def sglType : NStat := ⟨0, 0x11, false⟩
def sanitizeFailed : NStat := ⟨0, 0x1C, false⟩
def sanitizing : NStat := ⟨0, 0x1D, false⟩
def writeProtected : NStat := ⟨0, 0x20, false⟩
def interrupted : NStat := ⟨0, 0x21, false⟩
def lbaRange : NStat := ⟨0, 0x80, false⟩
def notReady : NStat := ⟨0, 0x82, false⟩
def formatting : NStat := ⟨0, 0x84, false⟩
def unrecovered : NStat := ⟨2, 0x81, false⟩
def denied : NStat := ⟨2, 0x86, true⟩
def cqInvalid : NStat := ⟨1, 0x00, false⟩
def qidInvalid : NStat := ⟨1, 0x01, false⟩
def qsizeInvalid : NStat := ⟨1, 0x02, false⟩
def abortLimit : NStat := ⟨1, 0x03, false⟩
def aerLimit : NStat := ⟨1, 0x05, false⟩
def sqDeleted : NStat := ⟨0, 0x08, false⟩
def fwSlot : NStat := ⟨1, 0x06, false⟩
def fwImage : NStat := ⟨1, 0x07, false⟩
def vectorInvalid : NStat := ⟨1, 0x08, false⟩
def logPage : NStat := ⟨1, 0x09, false⟩
def formatInvalid : NStat := ⟨1, 0x0A, false⟩
def deletionInvalid : NStat := ⟨1, 0x0C, false⟩
def notSaveable : NStat := ⟨1, 0x0D, false⟩
def capacity : NStat := ⟨1, 0x15, false⟩
def nsidUnavailable : NStat := ⟨1, 0x16, false⟩
def attached : NStat := ⟨1, 0x18, false⟩
def notAttached : NStat := ⟨1, 0x1A, false⟩
end NStat

/-! ## Readiness (R61) -/

/-- Nothing that a command passed to the Map engine is still on its way: reads, those that wait for a map page among them, writes in staging,
records, a Secure Deallocate, and parts at other devices. -/
def State.passedDone (s : State) : Bool :=
  s.teth.parts.isEmpty && (s.map.waiters.all fun w => match w.2 with | .host _ _ _ _ | .merge _ _ _ => false | _ => true) && (s.front.staging.all fun x => x.cached && x.hdr.isNone) && s.map.jWait.isEmpty && s.map.deallocs.isEmpty && s.map.secQ.isEmpty && (s.map.secure.all fun x => x.hdr.isNone) &&
    s.cdc.rds.all fun r => match r.need with | .host _ _ _ _ | .merge _ _ _ => false | _ => true

/-- CSTS.RDY: after a disable it clears once nothing passed remains. -/
def State.rdyNow (s : State) : Bool := s.front.rdy || (s.front.leaving && !s.passedDone)

/-! ## Contexts (R64) -/

/-- The commands of the I/O set (R65); every other one belongs to the admin queue. -/
def ioCommand : Instr → Bool
  | .flush _ _ | .write _ _ _ _ _ _ | .read _ _ _ _ | .writeZeroes _ _ _ _ | .datasetManagement _ _ _ _ | .verify _ _ _ _
  | .secureDeallocate _ _ _ => true
  | _ => false

/-- A command can be at Front: the controller is enabled, no recovery holds commands, and its queue exists. -/
def State.fetched (s : State) (h : Hdr) : Bool :=
  s.front.en && !s.front.held && decide (s.sys.ps.val ≤ 2) && Store.has s.front.sqs h.sqid.val

/-- The command's context, taken now if COMMAND_FETCH did not make it; it is running from here on. -/
def State.takeIn (s : State) (h : Hdr) (i : Instr) : State :=
  match s.front.ctx? h with
  | some _ => { s with front := s.front.setCtx h fun c => { c with cmd := some i, started := true } }
  | none => { s with front := { s.front with
      ctxs := s.front.ctxs ++ [{ hdr := h, cmd := some i, started := true }] } }

/-- A context is there or free for a command: beyond 4096 it stays in its queue (R64). -/
def State.hasRoom (s : State) (h : Hdr) : Bool :=
  (s.front.ctx? h).isSome || decide (s.front.ctxs.length < 4096)

/-- Run a host command: only one that can be at Front, in a queue of its set, and has a context. -/
def State.host (s : State) (h : Hdr) (i : Instr) (f : State → State) : State :=
  if s.fetched h && (ioCommand i == decide (h.sqid.val ≠ 0)) && s.hasRoom h then
    let t := s.takeIn h i
    f { t with front := t.front.ltrTick }
  else s

/-- Complete a command with a status, DW0 and data. -/
def State.done (s : State) (h : Hdr) (st : NStat) (dw0 : Nat := 0) (data : Payload := .none) : State :=
  { s with front := s.front.finish { hdr := h, sct := st.sct, sc := st.sc, dnr := st.dnr, dw0, data } }

/-- Complete a command Successful. -/
def State.good (s : State) (h : Hdr) : State := s.done h .success

/-- Change a command's context. -/
def State.ctx (s : State) (h : Hdr) (f : Ctx → Ctx) : State := { s with front := s.front.setCtx h f }

/-! ## Checks that meet I/O commands (R68, R526) -/

/-- A namespace by its identifier, if it exists. -/
def State.nsOf (s : State) (nsid : Word) : Option (Fin 8 × NsRec) :=
  if h : 1 ≤ nsid.toNat ∧ nsid.toNat ≤ 8 then
    let i : Fin 8 := ⟨nsid.toNat - 1, by omega⟩
    (s.map.ns.get i).map fun r => (i, r)
  else none

/-- A sanitize runs (R73). -/
def State.sanitizing (s : State) : Bool :=
  match s.front.sanitize with | .crypto | .block => true | _ => false

/-- The status that stops an I/O command before any access, if one does; the order of the checks is log entry 18. -/
def State.ioStop (s : State) (nsid : Word) : Option NStat :=
  match s.nsOf nsid with
  | none => some .invalidNs
  | some (i, r) =>
    if !r.attached then some .invalidNs
    else if s.locked then some .denied
    else if s.sanitizing then some .sanitizing
    else if s.front.formatting.contains i then some .formatting
    else if !r.ready then some .notReady
    else none

/-- LBAs of a namespace: its capacity in its format (R71). -/
def NsRec.lbas (r : NsRec) : Nat := if r.lba4k then r.sectors else r.sectors * 8

/-- The bytes of an LBA of a namespace. -/
def NsRec.lbaBytes (r : NsRec) : Nat := if r.lba4k then 4096 else 512

/-- The logical sectors of an LBA range: first sector, and one past the last. -/
def NsRec.span (r : NsRec) (first n : Nat) : Nat × Nat :=
  if r.lba4k then (first, first + n) else (first / 8, ceilDiv (first + n) 8)

end Sys2Proof.Machine
end

