-- ==== Sys2Proof/Machine/GalOps.lean ====
section
/-! DEFINITION. What the galleries share (chapters 6 and 7): the write-pointer table, rates, targets, contexts, the ops of the sequencer
one at a time, and a list run whole. -/

namespace Sys2Proof.Machine

/-! ## The write-pointer table (R158 to R160) -/

/-- The number of a write-pointer state (R172). -/
def WptState.num : WptState → Nat
  | .free => 0 | .erased => 1 | .openPslc => 2 | .openNative => 3 | .closed => 4 | .tainted => 5

/-- The state of a number; 6 and 7 name none and are taken as free (log entry 20). -/
def wptState : Nat → WptState
  | 1 => .erased | 2 => .openPslc | 3 => .openNative | 4 => .closed | 5 => .tainted | _ => .free

/-- Replace the entry that GAL_WPT_SEL selects. -/
def State.wptLoad (s : State) (g : Fin 8) (value : Word) : State :=
  let c : Fin 16 := Fin.ofNat 16 (s.rf (.galWptSel g) 0 4)
  s.gal g fun x => x.setTable c ((x.table c).set (s.rf (.galWptSel g) 4 3) ⟨fld value 0 16, fld value 16 12, wptState (fld value 28 3)⟩)


/-- The targets a gallery trains: ce_mask, without those whose Read ID did not match. -/
def State.targets (s : State) (g : Fin 8) : List (Fin 8) :=
  (fins 8).filter fun n => (s.reg (.galCtl g)).getLsbD (8 + n.val) && (s.gals.get g).ceMatch.getLsbD n.val

/-- The targets a gallery serves: those its last training or retraining left trained, from the ce_mask it found (R165, R166). -/
def State.served (s : State) (g : Fin 8) : List (Fin 8) := (fins 8).filter fun n => (s.reg (.galStat g)).getLsbD (8 + n.val)

/-- The temperature a training takes as its reference: the highest of the populated chambers, as the Assay engine has it, else the pad's
(R150, R256). -/
def State.galTemp (s : State) (g : Fin 8) : Int :=
  match (chambersOf g).filter fun c => s.map.present.contains c with
  | [] => s.padTemp g
  | c :: r => r.foldl (fun a x => max a (s.chamberTemp x).1) (s.chamberTemp c).1

/-- A target goes out of service: its chambers become suspect, and it is no longer trained (R146, R148, R166). -/
def State.targetOut (s : State) (g n : Fin 8) : State :=
  let s1 := s.setReg (.galSuspect g) (s.reg (.galSuspect g) ||| BitVec.ofNat 32 (3 <<< (2 * n.val)))
  let s2 := (s1.setReg (.galStat g) (s1.reg (.galStat g) &&& ~~~(BitVec.ofNat 32 (2 ^ (8 + n.val))))).setRf (.galStat g) 0 1 0
  s2.gal g fun x => { x with
    outCe := x.outCe ||| BitVec.ofNat 8 (2 ^ n.val), trainResults := x.trainResults.filter fun e => e.ce != n.val
    newResults := x.newResults.filter fun e => e.ce != n.val }

/-- Leave `boot` once every gallery with a profile has trained and mount has finished (R116). -/
def State.bootCheck (s : State) : State :=
  if s.isSt .boot ∧ s.map.mounted ∧ ((fins 8).all fun g => (s.gals.get g).toInstall.isNone && ((s.gals.get g).profile.isNone || (s.gals.get g).inService || !(s.settings.galEnable.get g))) then
    s.enter (if s.gals.any (·.profile.isNone) then .recovery else .service)
  else s


/-- The page a block is programmed up to: what is allocated past it waits in the gallery, or is still under assembly (R160). -/
def State.programmedTo (s : State) (k : Nat) : Nat :=
  let waiting := ((s.gals.get (galOf (chOfBlk k))).ops.filter fun o => o.kind == .program && chamberOf (galOf (chOfBlk k)) o.ch == chOfBlk k &&
    decide (o.block ≤ k % 65536 ∧ k % 65536 < o.block + o.npl)).map (·.page)
  let filling := s.map.groups.flatMap fun x => (x.fill.filter fun f => f.1.blk == k).map (·.1.page)
  (waiting ++ filling).foldl min (s.blk k).next

/-- A gallery's table as the Map engine's block records have it (R160). -/
def State.reloadWpt (s : State) (g : Fin 8) : State :=
  let one (t : State) (c : Fin 128) : State :=
    let es := (t.map.blks.filter fun e => e.1 / 65536 == c.val).filterMap fun e =>
      match e.2.st with
      | .erased => some ({ block := e.1 % 65536, next := 0, st := .erased } : WptEntry)
      | .opened =>
        let n := s.programmedTo e.1
        some { block := e.1 % 65536, next := n, st := if n = 0 then .erased else if e.2.pslc then .openPslc else .openNative }
      | .tainted => some { block := e.1 % 65536, next := 0, st := .tainted }
      | _ => none
    t.gal g fun x => x.setTable (chIn c) ((es ++ List.replicate 8 ({} : WptEntry)).take 8)
  ((chambersOf g).foldl one s).gal g fun x => { x with wptReady := true }


/-- Mark a gallery for retraining; a trigger that meets one pending or running joins it. -/
def State.markRetrain (s : State) (g : Fin 8) : State :=
  let x := s.gals.get g
  if x.inService ∧ x.retrain = .none then
    (s.gal g fun y => { y with retrain := .pending }).setRf (.galStat g) 1 1 1
  else s


/-- Firmware's rate for a gallery may have changed from `old`: a change is written to GAL_CTL.mode, and is made as a retraining (R165, R266).  A
rate that a training stepped down to stands until then (R148). -/
def State.rateChanged (s : State) (g : Fin 8) (old : Nat) : State :=
  if s.firmRate g = old then s
  else
    let t := s.writeMode g
    if t.aimRate g ≠ t.rate g then t.markRetrain g else t

/-- While the root runs from the fallback oscillator a gallery runs at its fallback rate at most (R144, R552). -/
def State.limitRate (s : State) (g : Fin 8) : State :=
  if (s.gals.get g).inService ∧ s.onFallback then
    (s.setRf (.galStat g) 16 16 ((s.gals.get g).rateAtMost (min (s.rate g) 800))).gal g fun y => { y with ranFallback := true }
  else s

/-- A gallery turned off takes its reset pin state once nothing runs on it. -/
def State.galRestOne (s : State) (g : Fin 8) : State :=
  let x := s.gals.get g
  if !s.settings.galEnable.get g && !x.holdReset && x.ops.all (fun (o : GOp) => !o.running) && x.ctxs.all (fun c => c.2.st == .idle) then
    (s.gal g fun y => { y with holdReset := true, inService := false, wpN := false, retrain := .none, newRate := none, bus := none }).setReg (.galStat g)
      (s.reg (.galStat g) &&& 0x8)
  else s

/-- A setting's value as a line reads it: a gallery's rate reads 0 while it has no profile (R140). -/
def State.settingNow (s : State) : Setting → Val
  | .galRate g => if (s.gals.get g).profile.isNone then .nat 0 else s.settings.val (.galRate g)
  | x => s.settings.val x

/-- The reply of a `set`: each setting's value as stored (R125). -/
def State.setPairs (s : State) (l : List Setting) : List Pair := l.map fun x => (x.name, s.settingNow x)

/-- As `galRestOne`; a `set` that waits for its galleries replies once all of them rest (R140). -/
def State.galRest (s : State) (g : Fin 8) : State :=
  let s1 : State := s.galRestOne g
  if (fins 8).all fun h => s1.settings.galEnable.get h || (s1.gals.get h).holdReset then
    s1.finishJob (fun j => match j with | .setOff _ => true | _ => false) fun r =>
      ([], ok (s1.setPairs (match r.job with | .setOff l => l | _ => [])))
  else s1

/-- Take an operation out of its gallery. -/
def State.dropOp (s : State) (g : Fin 8) (id : Nat) : State :=
  (s.gal g fun x => { x with ops := x.ops.filter fun o => o.id != id }).galRest g

/-- Change an operation. -/
def State.setOp (s : State) (g : Fin 8) (id : Nat) (f : GOp → GOp) : State :=
  s.gal g fun x => { x with ops := x.ops.map fun o => if o.id = id then f o else o }

def State.op? (s : State) (g : Fin 8) (id : Nat) : Option GOp := (s.gals.get g).ops.find? fun o => o.id == id

/-- The block of an operation. -/
def GOp.blk (o : GOp) (g : Fin 8) : Nat := (chamberOf g o.ch).val * 65536 + o.block

/-- Every array read confirm adds 1 to the reads of each block it names; at the limit the block is scheduled with cause 1, and
each eighth of it is journalled (R326 to R328). -/
def State.disturbLimit (s : State) (k : Nat) : Nat :=
  match s.prof (chOfBlk k) with
  | none => 50000
  | some p =>
    let native := (s.settings.mapRdDisturb).getD (if p.rdNative = 0 then 50000 else p.rdNative)
    if (s.blk k).pslc then (if p.rdPslc = 0 then native else p.rdPslc) else native

def State.countRead (s : State) (k n : Nat) : State :=
  -- the records are not loaded yet: the change waits in the change log (R377)
  if !s.map.recordsLoaded then { s with map := { s.map with changeLog := s.map.changeLog ++ List.replicate n k } } else
  let l := s.disturbLimit k
  let old := (s.blk k).reads
  let new := satAdd 16 old n
  let s1 := s.setBlk k fun b => { b with reads := new }
  let e := min 8 (8 * new / l)
  let s2 := if e > (s.blk k).eighths then (s1.setBlk k fun b => { b with eighths := e }).record (.disturb k e) else s1
  if (new ≥ l ∨ new = 65535) ∧ !((s.blk k).refresh && (s.blk k).cause == 1) ∧ ((s.blk k).st = .closed ∨ (s.blk k).st = .opened) then
    let s3 := if (s.blk k).st = .opened then
        match s2.groupOf k with
        | some g =>
          -- its page under assembly goes to its gallery as it is: nothing further is allocated into the block
          let mine := g.fill.any fun f => f.1.blk == k
          State.dropMember (if mine then s2.releaseFill g.num (if g.flow = .sump then 3 else 5) .sumpPage else s2) g.num k (s.blk k).next
        | none => s2
      else s2
    s3.refreshWant k 1
  else s2

/-! ## Sequencer contexts (R174 to R178, R184) -/

/-- The chamber of a context, and its target. -/
def ctxCh (x : Fin 64) : Fin 16 := ⟨x.val / 4, by omega⟩
def ctxCe (x : Fin 64) : Fin 8 := ⟨x.val / 8, by omega⟩

/-- A context of a chamber by its plane slot. -/
def ctxAt (c : Fin 16) (slot : Fin 4) : Fin 64 := ⟨4 * c.val + slot.val, by omega⟩

/-- The context of a number. -/
def ctxNo (n : Nat) : Fin 64 := Fin.ofNat 64 n

/-- The op a context stands at. -/
def Gallery.opAt (g : Gallery) (c : SeqCtx) : Option Word := (g.slots.getD c.slot none).bind fun l => l.ops[c.pc]?

/-- The kind of a slot. -/
def Gallery.kindOf (g : Gallery) (slot : Nat) : Nat := ((g.slots.getD slot none).map (·.kind)).getD 0

/-- Write a context back. -/
def State.setCtx (s : State) (g : Fin 8) (x : Fin 64) (c : SeqCtx) : State :=
  s.gal g fun y => { y with ctxs := Store.ins x.val c y.ctxs }

/-- A context as its requester sets it for a list; the record of its last list stands until this one ends (R177, R206). -/
def SeqCtx.begin (old c : SeqCtx) : SeqCtx :=
  { c with st := .waiting, marked := false, bufMoved := 0, lastCode := old.lastCode, lastOut := old.lastOut, lastS := old.lastS, lastSlot := old.lastSlot }

/-- The context a number names, idle where none was started. -/
def Gallery.ctxGet (g : Gallery) (n : Nat) : SeqCtx := Store.get (fun _ => {}) g.ctxs n

/-- The context the device runs a chamber's reset, suspend, resume and start-up lists in: the highest idle plane slot (log entry 55). -/
def Gallery.auxCtx (g : Gallery) (c : Fin 16) : Fin 64 :=
  ctxAt c (((([3, 2, 1, 0] : List (Fin 4)).find? fun i => (g.ctxGet (ctxAt c i).val).st == .idle)).getD 0)

/-- The record of a list that never started: its outcome, and S as at list start (R178). -/
def Gallery.refuseList (g : Gallery) (n slot : Nat) (o : Outc) : Gallery :=
  { g with ctxs := Store.modify (fun _ => {}) g.ctxs n fun c => { c with lastOut := o, lastCode := 0, lastS := 0, lastSlot := slot } }

/-- Ops that place cycles on the bus. -/
def busOp (code : Nat) : Bool := [0x1, 0x2, 0x3, 0x4, 0x5, 0x6, 0x9, 0xA].contains code

/-- Whether a context runs: it is neither idle nor suspended. -/
def SeqCtx.runs (c : SeqCtx) : Bool := c.st == .bus || c.st == .polling || c.st == .waiting

/-- The chip-enables as driven (R141, R142, R174): low for the target whose context holds the bus, and for no other. -/
def Gallery.ceN (g : Gallery) : BitVec 8 :=
  match g.bus with
  | some x => ~~~(BitVec.ofNat 8 (2 ^ (x.val / 8)))
  | none => BitVec.allOnes 8

/-- The op is the confirm of a program or an erase and WP_N is low: it is not sent (R52). -/
def Gallery.wpHolds (g : Gallery) (w : Word) : Bool := !g.wpN && opc w == 0x1 && opf w 8 1 == 1 && (opf w 9 2 == 1 || opf w 9 2 == 2)

/-- Run the current op of a context, if it is the one named, the bus is free to it, and WP_N lets it be sent.  A bus op takes the bus. -/
def State.seq (s : State) (g : Fin 8) (x : Fin 64) (code : Nat) (f : State → SeqCtx → Word → State) : State :=
  let y := s.gals.get g
  match Store.find y.ctxs x.val with
  | none => s
  | some c =>
    match y.opAt c with
    | none => s
    | some w =>
      if c.runs && opc w == code && (!busOp code || y.bus.isNone || y.bus == some x) && !y.holdReset && !y.wpHolds w then
        if busOp code then f (s.gal g fun z => { z with bus := some x }) { c with st := .bus } w
        else f s c w
      else s

/-- Continue at the next op. -/
def State.seqAdvance (s : State) (g : Fin 8) (x : Fin 64) (c : SeqCtx) : State :=
  s.setCtx g x { c with pc := c.pc + 1, polled := false, moved := 0 }

/-- Place cycles on the bus, with the context's CE_N low (R174). -/
def State.cycles (s : State) (g : Fin 8) (x : Fin 64) (l : List BusCycle) : State :=
  s.gal g fun y => { y with trace := y.trace ++ l.map fun b => (ctxCe x, b) }

/-- A yield point: CE_N is driven high and the bus is free (R175). -/
def State.yieldBus (s : State) (g : Fin 8) (x : Fin 64) : State :=
  s.gal g fun y => if y.bus = some x then { y with bus := none } else y

/-- Drive WP_N (R141, R146, R164). -/
def State.driveWp (s : State) (g : Fin 8) (high : Bool) : State :=
  s.gal g fun y => { y with wpN := high, trace := y.trace ++ [(0, .wp high)] }

/-! ## The end of a list (R178, R186, R202, R203) -/

/-- The pages a list of a kind places (R183). -/
def State.listPages (s : State) (g : Fin 8) (kind : Nat) : Nat :=
  if kind = 3 then (((s.gals.get g).profile.map (·.ppw)).getD 1) else 1

/-- What a raw operation that ends ok does to the table and the block records: an erase returns its block to erased, a program
advances its block. -/
def State.rawDone (s : State) (g : Fin 8) (x : Fin 64) (c : SeqCtx) (kind : Nat) : State :=
  let ch := ctxCh x
  let k := (chamberOf g ch).val * 65536 + c.blk0
  if c.force then s
  else if kind = 4 then
    (s.gal g fun y => y.setTable ch (wptErased (y.table ch) c.blk0)).setBlk k fun b =>
      { b with st := .erased, use := .none, erase := satAdd 20 b.erase 1, reads := 0, eighths := 0, next := 0 }
  else if kind = 2 ∨ kind = 3 then
    let pslc := kind == 2
    let last := (((s.gals.get g).profile.map fun p => p.pages pslc)).getD 0
    s.gal g fun y => y.setTable ch (wptAdvance (y.table ch) c.blk0 (s.listPages g kind) last pslc)
  else s

/-- End a list with an outcome: the context is idle, the bus is free, GAL_SEQ_LAST holds the outcome, the requester has it with its code,
and a `run op` replies. -/
def State.listEnd (s : State) (g : Fin 8) (x : Fin 64) (c : SeqCtx) (o : Outc) (code : Nat) : State :=
  let slot := (c.ret.map (·.1)).getD c.slot
  let kind := (s.gals.get g).kindOf slot
  let s1 := (s.setCtx g x { c with
    st := .idle, ret := none, slot, lastOut := o, lastCode := BitVec.ofNat 8 code, lastS := c.s, lastSlot := slot, armed := none
    polled := false, moved := 0, applying := none }).yieldBus g x
  let s2 := if kind = 5 then s1.gal g fun y => { y with lastOfs := y.lastOfs.del (ctxCh x).val } else s1
  if c.console then
    let s3 := if o = .ok then s2.rawDone g x c kind else s2
    let ticks := Config.freeNat s.free % 2 ^ 32
    let s4 := State.setReg { s3 with free := s3.free + 1 } (.galRunTicks g) (BitVec.ofNat 32 ticks)
    let s5 := s4.gal g fun y => { y with ops := y.ops.filter fun p => !(p.need == .console && p.ch == ctxCh x) }
    let s6 := s5.finishJob (fun j => match j with | .runOp h y _ => h == g && y == x | _ => false) fun r =>
      if o = .order then ([], err .state [word "order"])
      else ([], ok ([("status", .hex 1 c.s.toNat), ("ticks", .nat ticks)] ++
        match r.job with | .runOp _ _ true => (if c.marked then [("taint", .flag true)] else []) | _ => []))
    s6.galRest g
  else s2.gal g fun y => { y with ops := y.ops.map fun p =>
    if p.running && p.ctx == x.val && p.outcome.isNone then { p with ready := true, outcome := some (o, code) } else p }

/-- OP_END (R179): ends the list, or returns from a CALL; a callee's END with fail set ends the whole list.  A hook that ends has applied
its set of offsets (R186). -/
def State.opEnd (s : State) (g : Fin 8) (x : Fin 64) : State :=
  s.seq g x 0x0 fun t c w =>
    if opf w 8 1 = 1 then t.listEnd g x c .fail (opf w 0 8)
    else match c.ret with
      | some (slot, pc) =>
        let t1 : State := match c.applying with
          | some l => t.gal g fun y => { y with lastOfs := Store.ins (ctxCh x).val l y.lastOfs }
          | none => t
        t1.setCtx g x { c with slot, pc, ret := none, applying := none }
      | none => t.listEnd g x c .ok (opf w 0 8)

/-! ## Parity of the bus (R149, R150) -/

/-- The millisecond the device's own clock shows (R268). -/
def Sys.nowMs (y : Sys) : Nat := 1000 * y.life + y.lifeMs

/-- Parity mismatches of a transfer above 1600 MT/s: counted, trouble bit 14, and 32 of them within 10 ms mark a retraining (R149, R150). -/
def State.parity (s : State) (g : Fin 8) (write : Bool) (n : Nat) : State :=
  if n = 0 ∨ s.rate g ≤ 1600 then s
  else
    let s1 := ((s.bump (.galParity g) (if write then 16 else 0) 16 n).gal g fun y => { y with parityErrs := y.parityErrs + n }).raise 14
    let now := s.sys.nowMs
    let log := ((s.gals.get g).parityLog.filter fun e => decide (now ≤ e.1 + 10)) ++ [(now, n)]
    if sumNat (log.map (·.2)) ≥ 32 then (s1.gal g fun y => { y with parityLog := [] }).markRetrain g
    else s1.gal g fun y => { y with parityLog := log }

/-! ## Cycles (R179, R180, R183) -/

/-- The kind of an armed operation. -/
def armKind : Nat → OpKind
  | 0 => .read | 1 => .program | 2 => .erase | _ => .reset

/-- The record of the last offset set goes with a reset of its chamber: FFh resets every LUN of the target, FAh the context's own (R185, R186). -/
def Gallery.forgetOfs (g : Gallery) (x : Fin 64) (byte : Nat) : Gallery :=
  if byte = 0xFF then { g with lastOfs := Store.drop (fun i => i / 2 == (ctxCe x).val) g.lastOfs }
  else if byte = 0xFA then { g with lastOfs := g.lastOfs.del (ctxCh x).val }
  else g

/-- OP_CMD (R179): one command cycle; arm marks the confirm cycle and starts the operation timer of its class.  The pad receivers sample the byte
(R149). -/
def State.opCmd (s : State) (g : Fin 8) (x : Fin 64) (mismatch : Bool) : State :=
  s.seq g x 0x1 fun t c w =>
    let t1 := (t.cycles g x [.cmd (BitVec.ofNat 8 (opf w 0 8))]).parity g true (b2n mismatch)
    (t1.gal g fun y => y.forgetOfs x (opf w 0 8)).seqAdvance g x (if opf w 8 1 = 1 then { c with armed := some (armKind (opf w 9 2)) } else c)

/-- The row address: LUN and block at the profile's bit positions; the page stands at bit 0 (R142; log entry 56). -/
def Profile.row (p : Profile) (lun blk page : Nat) : List Nat :=
  leBytes p.rowCycles ((lun <<< p.lunBit) ||| (blk <<< p.blkBit) ||| page)

/-- Address cycles of a kind (R180). -/
def SeqCtx.addr (c : SeqCtx) (p : Profile) (lun kind imm : Nat) : List Nat :=
  let col := leBytes p.colCycles c.col.toNat
  let row := p.row lun c.blk.toNat c.page.toNat
  match kind with
  | 0 => col
  | 1 => row
  | 2 => col ++ row
  | 3 => [imm]
  | 4 => [lun]
  | _ => [c.v0.toNat % 256]

/-- The outermost slot of a context's list. -/
def SeqCtx.listSlot (c : SeqCtx) : Nat := (c.ret.map (·.1)).getD c.slot

/-- Whether a row address names one of the list's blocks and pages (R183). -/
def State.rowInSet (s : State) (g : Fin 8) (c : SeqCtx) : Bool :=
  let kind := (s.gals.get g).kindOf c.listSlot
  let n := s.listPages g kind
  decide (c.blk0 ≤ c.blk.toNat ∧ c.blk.toNat < c.blk0 + c.npl0 ∧ c.page0 ≤ c.page.toNat ∧ c.page.toNat < c.page0 + n)

/-- Lists of a program or erase kind. -/
def writeKind (k : Nat) : Bool := k == 2 || k == 3 || k == 4

/-- Start a list in an idle context. -/
def State.beginList (s : State) (g : Fin 8) (x : Fin 64) (c : SeqCtx) : State :=
  s.setCtx g x (((s.gals.get g).ctxGet x.val).begin c)

/-- A block is tainted by a forced list: in the table, where it has or finds an entry, and in the block records; the Map engine maps no data from
it, so what its sectors held there is lost (R160, R203). -/
def State.taint (s : State) (g : Fin 8) (ch : Fin 16) (blk : Nat) : State :=
  let k := (chamberOf g ch).val * 65536 + blk
  let lost := s.map.entries.filter fun e => match e.2 with
    | .mapped l => l.blk == k
    | _ => false
  let t := lost.foldl (fun u e => u.remap e.1 .damaged) s
  (t.gal g fun y => y.setTable ch (wptTaint (y.table ch) blk)).setBlk k fun b => { b with st := .tainted }

/-- The address cycles of an ADDR, and the tainting of what a forced list addresses. -/
def State.addrCycles (s : State) (g : Fin 8) (x : Fin 64) (c : SeqCtx) (w : Word) (p : Profile) (mismatches : Nat) : State :=
  let ch := ctxCh x
  let row := opf w 0 3 == 1 || opf w 0 3 == 2
  let t1 := (s.cycles g x [.addr (c.addr p (ch.val % 2) (opf w 0 3) (opf w 8 8))]).parity g true mismatches
  if row && writeKind ((s.gals.get g).kindOf c.listSlot) && c.force then (t1.seqAdvance g x { c with marked := true }).taint g ch c.blk.toNat
  else t1.seqAdvance g x c

/-- A row outside the set a program or erase list named is not sent (R183). -/
def State.rowRefused (s : State) (g : Fin 8) (c : SeqCtx) (w : Word) : Bool :=
  (opf w 0 3 == 1 || opf w 0 3 == 2) && writeKind ((s.gals.get g).kindOf c.listSlot) && !c.force && !s.rowInSet g c

/-- Such a list ends with outcome order, counted, and trouble bit 13 is set. -/
def State.addrRefused (s : State) (g : Fin 8) (x : Fin 64) (c : SeqCtx) : State :=
  ((s.raise 13).gal g fun y => { y with orders := y.orders + 1 }).listEnd g x c .order 0

/-! ## Data (R149, R181) -/

/-- The bytes a data op moves. -/
def SeqCtx.dataLen (c : SeqCtx) (w : Word) : Nat :=
  if opf w 19 1 = 1 then 4 else 8 * (if opf w 0 16 = 0 then c.len.toNat else opf w 0 16)

/-- Whether a transfer of `n` bytes at BUF stays within the Keeper (R181).  The device's own lists have their buffers in the pool of R433, a
MiB below the Keeper's end, where the first MiB they move fits wherever BUF is (log entry 57). -/
def SeqCtx.fits (c : SeqCtx) (n : Nat) : Bool :=
  if !c.console && decide (c.bufMoved + n ≤ 0x100000) then true else decide (c.buf.toNat + n ≤ 8 * kprWords)

/-- BUF moves on by `n` bytes (R177). -/
def SeqCtx.moveBuf (c : SeqCtx) (n : Nat) : SeqCtx := { c with buf := c.buf + BitVec.ofNat 25 n, bufMoved := c.bufMoved + n }

/-- Read `n` bytes of the Keeper from a byte offset: the bytes, whether a word was uncorrectable, the state. -/
def State.kprBytes (s : State) : Nat → Nat → List Nat × Bool × State
  | _, 0 => ([], false, s)
  | off, n + 1 =>
    let (d, bad, s1) := s.kprRead (off / 8)
    let (r, bad', s2) := State.kprBytes s1 (off + 8) n
    (leBytes 8 d.toNat ++ r, bad || bad', s2)

/-- Write bytes to the Keeper as full words from a byte offset; a last partial word is filled with zeros. -/
def State.kprPutBytes (s : State) : Nat → Nat → List Nat → State
  | _, 0, _ => s
  | off, n + 1, l => State.kprPutBytes (s.kprWrite (off / 8) (BitVec.ofNat 64 (leNat (l.take 8)))) (off + 8) n (l.drop 8)

/-- The seed of the plane-page a context names (R217). -/
def SeqCtx.seed (c : SeqCtx) (g : Fin 8) (x : Fin 64) : Word := rndSeed c.blk.toNat c.page.toNat (chamberOf g (ctxCh x)).val

/-- The codeword that a program places at a location: what the Codec has encoded for it, the sentinel of the final page, or a pad. -/
def State.placed (s : State) (l : Loc) : Cw :=
  match s.cdc.enc.find? fun e => e.loc == l with
  | some e => e.cw
  | none =>
    let op := (s.gals.get (galOf l.chamber)).ops.find? fun o =>
      o.kind == .program && o.ch == chIn l.chamber && o.block == l.block && decide (o.page ≤ l.page ∧ l.page < o.page + o.pages)
    if l.page + 1 = s.pagesOf l.blk ∧ l.cw = 3 then sentinelCw else padCw ((op.map (·.secs)).getD s.sys.life)

/-- The plane-page that the device has assembled for a program, before randomising: its four codewords, or the parity of a position
(R212, R234). -/
def State.pageImage (s : State) (g : Fin 8) (x : Fin 64) (c : SeqCtx) : List Nat :=
  let l (k : Fin 4) : Loc := ⟨chamberOf g (ctxCh x), c.blk.toNat, c.page.toNat, k⟩
  let b := (l 0).blk
  match s.parityOf b with
  | some sg =>
    if 0 < c.page.toNat ∧ c.page.toNat + 1 < s.pagesOf b then
      let first := ((sg.parity.find? fun y => y.1 == b).map (·.2)).getD 0
      (fins 4).flatMap fun k => s.parityWord sg (first + c.page.toNat - 1) k
    else (fins 4).flatMap fun k => (s.placed (l k)).bytes
  | none => (fins 4).flatMap fun k => (s.placed (l k)).bytes

/-- The bytes that a DIN sends: in a `run op` the Keeper's at BUF; in a list of the device's own those firmware has put there, the
assembled plane-page for a program. -/
def State.dinBytes (s : State) (g : Fin 8) (x : Fin 64) (c : SeqCtx) (n : Nat) (own : Option (List Nat)) : List Nat × Bool × State :=
  match own with
  | some l => ((l ++ List.replicate n 0).take n, false, s)
  | none =>
    if c.console then s.kprBytes c.buf.toNat (ceilDiv n 8)
    else (((s.pageImage g x c).drop c.col.toNat ++ List.replicate n 0).take n, false, s)

/-- What a parity mismatch of program data does (R149): the data goes again with Change Write Column; before a third attempt the target is
trained.  The last number of the list is that of the attempt that stands. -/
def State.resend (s : State) (g : Fin 8) (x : Fin 64) (c : SeqCtx) (p : Profile) (sent : List Nat) (retrain : State → State) : Nat → List Nat → State
  | _, [] => s
  | k, m :: r =>
    let again : List BusCycle := [.cmd 0x85, .addr (leBytes p.colCycles c.col.toNat), .din sent]
    let s1 := if k = 1 then retrain s else s
    ((s1.cycles g x again).parity g true m).resend g x c p sent retrain (k + 1) r

/-- A die answers a list while it runs: each status read, the bytes of each data output, and what firmware puts at BUF for its data input. -/
structure DieAnswer where
  status : Byte
  bytes : List Byte := []
  put : Option (List Nat) := none
  deriving DecidableEq, Repr

/-- The attempts of a program's data input, up to the one without a mismatch, at most three; one the row does not give finds none (R149). -/
def attempts (l : List Nat) : List Nat :=
  let m := l ++ [0]
  (m.take (m.findIdx (· == 0) + 1)).take 3

/-- A free number of `n` bits for each of a target's measured delays. -/
def freeCodes (at_ : Nat) : List Nat := (List.range 8).map fun i => Config.freeNat (at_ + i)

/-- Train one target at a rate (R143, R146 steps 8 to 11, R147): the steps the rate needs; what they measure is the board's. -/
def State.trainRec (s : State) (g n : Fin 8) (rate : Nat) : TrainRec × State :=
  let mode := ((s.gals.get g).profile.bind fun p => p.modes.find? fun m => m.rate == rate)
  let steps := (mode.map fun m => trainSteps m.iface rate).getD []
  ({ ce := n.val, rate, steps
     rdDelay := if steps.contains .readCentre then freeCodes s.free else []
     wrDelay := if steps.contains .writeDq then freeCodes (s.free + 8) else []
     dqsCentre := if steps.contains .readCentre then Config.freeNat (s.free + 16) else 0
     duty := if steps.contains .dutyCycle then Config.freeNat (s.free + 17) else 0
     drive := (mode.map (·.drive)).getD 0, odt := (mode.map (·.odt)).getD 0 }, { s with free := s.free + 18 })

/-- The next lower rate a gallery's profile declares, 0 for none. -/
def Gallery.lowerRate (g : Gallery) (rate : Nat) : Nat :=
  ((g.profile.map (·.modes)).getD []).foldl (fun a m => if m.rate < rate then max a m.rate else a) 0

/-- Begin a retraining's windows at a rate, from CE0. -/
def State.windowsFrom (s : State) (g : Fin 8) (rate aim : Nat) : State :=
  s.gal g fun y => { y with retrain := .running 0, newRate := some rate, newAim := aim, newResults := [] }

/-- Train one target again at the rate in force, as a retraining of it alone (R149).  One that fails twice sets trouble bit 10, and the gallery
retrains at the next lower rate; at the lowest the target goes out of service (R148). -/
def State.retrainOne (s : State) (g n : Fin 8) (pass : Bool) : State :=
  let (r, s1) := s.trainRec g n (s.rate g)
  if pass then s1.gal g fun y => { y with trainResults := y.trainResults.map fun e => if e.ce = n.val then r else e }
  else
    let s2 := (s1.raise 10).bump (.galTrainInfo g) 8 8 2
    let lower := (s.gals.get g).lowerRate (s.rate g)
    if lower = 0 then s2.targetOut g n else (s2.markRetrain g).windowsFrom g lower (s.aimRate g)

/-- OP_DIN (R179, R181): data input from the Keeper at BUF, randomised where rnd is set; past the Keeper's end it is not started
and the list fails with code 0xFE; an uncorrectable word fails the operation, with a code the manual does not give.  `r` gives the
loopback's mismatches, attempt by attempt, and whether the target passes its training before the third: a program's data is sent again (R149), and
where the third attempt fails too the list fails, never confirmed, with a code the manual does not give (log entry 57). -/
def State.opDin (s : State) (g : Fin 8) (x : Fin 64) (r : DinRun) (put : Option (List Nat)) : State :=
  s.seq g x 0x3 fun t c w =>
    let n := c.dataLen w
    let p4 := opf w 19 1 == 1
    if !c.fits (if p4 then 8 else n) then t.listEnd g x c .fail 0xFE
    else
      let (bytes, bad, t1) := t.dinBytes g x c n put
      let code := Config.freeNat t1.free % 256
      if bad then State.listEnd { t1 with free := t1.free + 1 } g x c .fail code
      else
        let d := bytes.take n
        let sent := if opf w 16 1 = 1 then randomise (c.seed g x) c.col.toNat d else d
        let kind := (t.gals.get g).kindOf c.listSlot
        let tries := if s.rate g ≤ 1600 then [0] else if kind = 2 ∨ kind = 3 then attempts r.mismatches else r.mismatches.take 1
        let t2 := (t1.cycles g x [.din sent]).parity g true (tries.headD 0)
        match (t.gals.get g).profile with
        | none => t
        | some p =>
          let t3 := t2.resend g x c p sent (fun u => u.retrainOne g (ctxCe x) r.pass) 0 (tries.drop 1)
          if tries.length = 3 ∧ tries.getD 2 0 ≠ 0 then State.listEnd { t3 with free := t3.free + 1 } g x c .fail (Config.freeNat t3.free % 256)
          else t3.seqAdvance g x (c.moveBuf (if p4 then 8 else n))

/-- The bytes a die answered, cut or filled to a length. -/
def exactly (n : Nat) (l : List Byte) : List Nat := (l.map (fun b : Byte => b.toNat) ++ List.replicate n 0).take n

/-- One codeword of a DOUT to the Codec, then a yield; on resumption the sequencer itself sends Change Read Column Enhanced (R175).  A transfer
that is no whole number of codewords from a codeword boundary fails its list, with a code the manual does not give (R181; log entry 57). -/
def State.doutCodec (s : State) (g : Fin 8) (x : Fin 64) (c : SeqCtx) (n : Nat) (mismatches : Nat) : State :=
  if n % 4608 ≠ 0 ∨ n = 0 ∨ c.col.toNat % 4608 ≠ 0 then State.listEnd { s with free := s.free + 1 } g x c .fail (Config.freeNat s.free % 256)
  else
    let back : List BusCycle := match (s.gals.get g).profile with
      | some p => if c.moved = 0 then [] else
          [.cmd 0x06, .addr (leBytes p.colCycles (c.col.toNat + 4608 * c.moved) ++ p.row ((ctxCh x).val % 2) c.blk.toNat c.page.toNat), .cmd 0xE0]
      | none => []
    let t := (s.cycles g x (back ++ [.dout 4608])).parity g false mismatches
    let t1 : State := t.gal g fun y => { y with ops := y.ops.map fun o => if o.running && o.ctx == x.val then { o with ready := true } else o }
    if (c.moved + 1) * 4608 ≥ n then (t1.seqAdvance g x { c with st := .waiting }).yieldBus g x
    else (t1.setCtx g x { c with st := .waiting, moved := c.moved + 1 }).yieldBus g x

/-- OP_DOUT (R179, R181, R202): data output to the Keeper at BUF, to the Codec (in a `run op`, to the Keeper), or one byte into S. -/
def State.opDout (s : State) (g : Fin 8) (x : Fin 64) (bytes : List Byte) (mismatches : Nat) : State :=
  s.seq g x 0x4 fun t c w =>
    let p4 := opf w 19 1 == 1
    let dest := opf w 17 2
    let n := if dest = 2 then 1 else c.dataLen w
    let plain (l : List Nat) : List Nat := if opf w 16 1 = 1 then randomise (c.seed g x) c.col.toNat l else l
    if dest = 1 ∧ !c.console then t.doutCodec g x c n mismatches
    else
      let t1 := (t.cycles g x [.dout n]).parity g false mismatches
      if dest = 2 then t1.seqAdvance g x { c with s := BitVec.ofNat 8 ((plain (exactly 1 bytes)).headD 0) }
      else
        let step := if p4 then 8 else n
        if !c.fits step then t.listEnd g x c .fail 0xFE
        else
          (t1.kprPutBytes c.buf.toNat (ceilDiv n 8) (plain (exactly n bytes))).seqAdvance g x (c.moveBuf step)

/-- OP_DINB (R179): one data input byte; the pad receivers sample it too (R149). -/
def State.opDinb (s : State) (g : Fin 8) (x : Fin 64) (mismatch : Bool) : State :=
  s.seq g x 0x5 fun t c w => ((t.cycles g x [.din [opf w 0 8]]).parity g true (b2n mismatch)).seqAdvance g x c

/-- OP_DINV (R194, R195, R260): one byte, the read offset of an entry for the block's group; a STEP above the table's rows ends the
list with code 0xFD. -/
def State.opDinv (s : State) (g : Fin 8) (x : Fin 64) (mismatch : Bool) : State :=
  s.seq g x 0x6 fun t c w =>
    match (s.gals.get g).profile with
    | none => t
    | some p =>
      if opf w 4 2 = 1 ∧ c.step.toNat > p.retry.length then t.listEnd g x c .fail 0xFD
      else
        let v := t.dinv (chamberOf g (ctxCh x)) p c.blk.toNat c.step.toNat (opf w 4 2) (opf w 0 4)
        ((t.cycles g x [.din [(BitVec.ofInt 8 v).toNat]]).parity g true (b2n mismatch)).seqAdvance g x c

/-! ## Waits and status (R175, R176, R179, R182) -/

/-- OP_WAIT (R179): a fixed wait; with its yield bit set the bus is given up. -/
def State.opWait (s : State) (g : Fin 8) (x : Fin 64) : State :=
  s.seq g x 0x7 fun t c w =>
    if opf w 18 1 = 1 then (t.seqAdvance g x { c with st := .waiting }).yieldBus g x else t.seqAdvance g x c

/-- OP_WAITP (R179): waits the mode's value of a timing index. -/
def State.opWaitp (s : State) (g : Fin 8) (x : Fin 64) : State := s.seq g x 0x8 fun t c _ => t.seqAdvance g x c

/-- The cycles of a status read: Read Status (70h), or Read Status Enhanced (78h) with the row. -/
def State.statusCycles (s : State) (g : Fin 8) (x : Fin 64) (c : SeqCtx) (enhanced : Bool) : List BusCycle :=
  if enhanced then
    match (s.gals.get g).profile with
    | some p => [.cmd 0x78, .addr (p.row ((ctxCh x).val % 2) c.blk.toNat c.page.toNat), .dout 1]
    | none => [.cmd 0x78, .dout 1]
  else [.cmd 0x70, .dout 1]

/-- The parity of a status read: of the bytes driven, and of the byte received (R149). -/
def State.statusParity (s : State) (g : Fin 8) (r : StatusIn) : State := (s.parity g true r.driven).parity g false (b2n r.received)

/-- OP_POLL (R175, R179): a first delay yields the bus before the first status read; then one status read into S; it goes on when
(S AND mask) = value, and otherwise yields until the next read. -/
def State.opPoll (s : State) (g : Fin 8) (x : Fin 64) (r : StatusIn) : State :=
  s.seq g x 0x9 fun t c w =>
    if opf w 17 3 ≠ 0 ∧ !c.polled then (t.setCtx g x { c with st := .waiting, polled := true }).yieldBus g x
    else
      let t1 := (t.cycles g x (t.statusCycles g x c (opf w 16 1 == 1))).statusParity g r
      if (r.status &&& BitVec.ofNat 8 (opf w 0 8)) = BitVec.ofNat 8 (opf w 8 8) then t1.seqAdvance g x { c with s := r.status }
      else (t1.setCtx g x { c with s := r.status, st := .polling, polled := true }).yieldBus g x

/-- OP_STAT (R179): one status read into S. -/
def State.opStat (s : State) (g : Fin 8) (x : Fin 64) (r : StatusIn) : State :=
  s.seq g x 0xA fun t c w =>
    ((t.cycles g x (t.statusCycles g x c (opf w 16 1 == 1))).statusParity g r).seqAdvance g x { c with s := r.status }

/-! ## Control flow and registers (R179, R182, R186) -/

/-- OP_BR (R179). -/
def State.opBr (s : State) (g : Fin 8) (x : Fin 64) : State :=
  s.seq g x 0xB fun t c w =>
    let eq := (c.s &&& BitVec.ofNat 8 (opf w 0 8)) == BitVec.ofNat 8 (opf w 8 8)
    let holds := match opf w 16 2 with
      | 0 => eq
      | 1 => !eq
      | 2 => c.l0 == 0
      | _ => c.l1 == 0
    if holds then t.setCtx g x { c with pc := opf w 18 6 } else t.seqAdvance g x c

/-- The context registers by index (R177). -/
def SeqCtx.get (c : SeqCtx) : Nat → Nat
  | 0 => c.blk.toNat | 1 => c.page.toNat | 2 => c.col.toNat | 3 => c.npl.toNat
  | 4 => c.step.toNat | 5 => c.len.toNat | 6 => c.v0.toNat | _ => c.v1.toNat

/-- Write a context register; it keeps its width. -/
def SeqCtx.put (c : SeqCtx) (i v : Nat) : SeqCtx :=
  match i with
  | 0 => { c with blk := BitVec.ofNat 16 v } | 1 => { c with page := BitVec.ofNat 12 v }
  | 2 => { c with col := BitVec.ofNat 16 v } | 3 => { c with npl := BitVec.ofNat 3 v }
  | 4 => { c with step := BitVec.ofNat 6 v } | 5 => { c with len := BitVec.ofNat 16 v }
  | 6 => { c with v0 := BitVec.ofNat 16 v } | _ => { c with v1 := BitVec.ofNat 16 v }

/-- Load a loop counter. -/
def SeqCtx.setLoop (c : SeqCtx) (i v : Nat) : SeqCtx := if i = 0 then { c with l0 := v } else { c with l1 := v }

/-- OP_SETL (R179, R182): a count of 0 acts as 1; from a register with "minus one", one less but never below 0.  DESIGN CHOICES (log entry 70): a
register of 0 without "minus one" acts as a count of 0 does, and "minus one" says nothing of an immediate count. -/
def State.opSetl (s : State) (g : Fin 8) (x : Fin 64) : State :=
  s.seq g x 0xC fun t c w =>
    let v := if opf w 17 1 = 1 then c.get (opf w 18 3) else opf w 0 16
    t.seqAdvance g x (c.setLoop (opf w 16 1) (if opf w 17 1 = 1 ∧ opf w 21 1 = 1 then v - 1 else max 1 v))

/-- OP_LOOP (R179): decrements the counter and branches if the result is not zero; falls through if it was already 0. -/
def State.opLoop (s : State) (g : Fin 8) (x : Fin 64) : State :=
  s.seq g x 0xD fun t c w =>
    let n := if opf w 16 1 = 0 then c.l0 else c.l1
    let c1 := c.setLoop (opf w 16 1) (n - 1)
    if n > 1 then t.setCtx g x { c1 with pc := opf w 0 6 } else t.seqAdvance g x c1

/-- OP_SET (R179): sets a register, or adds the immediate as a signed 16-bit value. -/
def State.opSet (s : State) (g : Fin 8) (x : Fin 64) : State :=
  s.seq g x 0xE fun t c w =>
    let i := opf w 16 3
    t.seqAdvance g x (c.put i (if opf w 19 1 = 1 then c.get i + (opf w 0 16) + (if opf w 0 16 ≥ 0x8000 then 2 ^ 32 - 0x10000 else 0)
      else opf w 0 16))

/-- OP_CALL (R179, R186): runs the list in a slot, then continues at the next op; a call of an empty hook slot runs nothing.  CALL 26 in pSLC
mode runs slot 27; where the set it would apply is the last one applied to the chamber, it sends nothing. -/
def State.opCall (s : State) (g : Fin 8) (x : Fin 64) : State :=
  s.seq g x 0xF fun t c w =>
    let slot := opf w 0 6
    let enter (n : Nat) (l : Option (List Int)) : State :=
      if ((t.gals.get g).slots.getD n none).isNone then t.seqAdvance g x c
      else t.setCtx g x { c with slot := n, pc := 0, ret := some (c.slot, c.pc + 1), applying := l }
    if slot = 26 then
      match (s.gals.get g).profile with
      | none => enter 26 none
      | some p =>
        let set_ := t.offsetSet (chamberOf g (ctxCh x)) p c.blk.toNat c.step.toNat c.pslc
        if Store.find (s.gals.get g).lastOfs (ctxCh x).val = some set_ then t.seqAdvance g x c
        else enter (if c.pslc then 27 else 26) (some set_)
    else enter slot none

/-! ## A whole list at once

Firmware and the scheduler run some lists between two rows of the table: the reset, suspend and resume lists, those of training, and what is
left of an operation's list when its status poll ends.  The ops are the same; only the rows in between are not seen. -/

/-- The op a context stands at, with the bus given to it.  A POLL that the die does not satisfy outlives its timer (R178, R182). -/
def State.opStep (s : State) (g : Fin 8) (x : Fin 64) (a : DieAnswer) (c : SeqCtx) (w : Word) : State :=
  let t : State := s.gal g fun y => { y with bus := some x }
  match opc w with
  | 0x0 => t.opEnd g x
  | 0x1 => t.opCmd g x false
  | 0x2 =>
    match (t.gals.get g).profile with
    | some p => t.seq g x 0x2 fun u d v => if u.rowRefused g d v then u.addrRefused g x d else u.addrCycles g x d v p 0
    | none => t.listEnd g x c .timeout 0
  | 0x3 => t.opDin g x { mismatches := [], pass := true } a.put
  | 0x4 => t.opDout g x a.bytes 0
  | 0x5 => t.opDinb g x false
  | 0x6 => t.opDinv g x false
  | 0x7 => t.opWait g x
  | 0x8 => t.opWaitp g x
  | 0x9 =>
    let u := t.opPoll g x { status := a.status }
    let d := (u.gals.get g).ctxGet x.val
    if d.st = .polling then u.listEnd g x d .timeout 0 else u
  | 0xA => t.opStat g x { status := a.status }
  | 0xB => t.opBr g x
  | 0xC => t.opSetl g x
  | 0xD => t.opLoop g x
  | 0xE => t.opSet g x
  | _ => t.opCall g x

/-- Run a context's ops until one that `stop` names, one that WP_N holds, or the end of its list. -/
def State.runSeq (g : Fin 8) (x : Fin 64) (a : DieAnswer) (stop : SeqCtx → Word → Bool) : Nat → State → State
  | 0, s => s
  | f + 1, s =>
    match Store.find (s.gals.get g).ctxs x.val with
    | none => s
    | some c =>
      if !c.runs then s
      else match (s.gals.get g).opAt c with
        | none => s
        | some w => if stop c w || (s.gals.get g).wpHolds w then s else State.runSeq g x a stop f (s.opStep g x a c w)

/-- More ops than a list of 64 with its two 16-bit loop counters runs. -/
def seqFuel : Nat := 2 ^ 40

/-- The context that holds the bus stands at a transfer boundary: at a POLL, or between two codewords of a DOUT (R154, R175). -/
def Gallery.atBoundary (g : Gallery) (y : Fin 64) : Bool :=
  let c := g.ctxGet y.val
  !c.runs || c.moved > 0 || (match g.opAt c with
    | some w => opc w == 0x9 && (c.polled || opf w 17 3 == 0)
    | none => true)

/-- What the die answers a context that another makes reach its boundary: free values. -/
def State.freeAnswer (s : State) : DieAnswer × State :=
  ({ status := BitVec.ofNat 8 (Config.freeNat s.free), bytes := (List.range 18432).map fun i => BitVec.ofNat 8 (Config.freeNat (s.free + 1 + i)) }, { s with free := s.free + 18433 })

/-- The transfer that holds the bus runs to its boundary, and the bus is free (R154, R174): a context keeps it until then. -/
def State.toBoundary (g : Fin 8) (y : Fin 64) : Nat → State → State
  | 0, s => s.yieldBus g y
  | f + 1, s =>
    let z := s.gals.get g
    let c := z.ctxGet y.val
    if z.bus != some y then s
    else if z.atBoundary y then
      (s.yieldBus g y).gal g fun u => { u with ctxs := Store.modify (fun _ => {}) u.ctxs y.val fun d =>
        if d.runs then { d with st := if d.polled then .polling else .waiting } else d }
    else match z.opAt c with
      | none => s.yieldBus g y
      | some w =>
        if z.wpHolds w then s.yieldBus g y
        else
          let (a, s1) : DieAnswer × State := if opc w == 0x4 || opc w == 0xA then s.freeAnswer else ({ status := 0 }, s)
          State.toBoundary g y f (s1.opStep g y a c w)

/-- The bus is free to a context: another's transfer first reaches its boundary. -/
def State.freeBus (s : State) (g : Fin 8) (x : Fin 64) : State :=
  match (s.gals.get g).bus with
  | some y => if y = x then s else State.toBoundary g y seqFuel s
  | none => s

/-- What follows a list stopped under the write-pointer rule: slot 0 runs on its chamber; the data of a program goes to another member, and
an erase leaves its block as it was (R183, R163). -/
def State.afterOrder (s : State) (g : Fin 8) (x : Fin 64) : State :=
  let aux := (s.gals.get g).auxCtx (ctxCh x)
  let t := State.runSeq g aux { status := 0x40 } (fun _ _ => false) seqFuel ((s.freeBus g aux).beginList g aux { slot := 0 })
  let t1 : State := t.gal g fun y => { y with bus := if y.bus = some aux then none else y.bus }
  match (s.gals.get g).ops.find? fun o => o.running && o.ctx == x.val && o.outcome == some (.order, 0) with
  | some o => match o.kind with
    | .program => (t1.dropOp g o.id).moveProgram (o.blk g) o.page
    | _ => t1.dropOp g o.id
  | none => t1

/-- Run a context as far as a stop, once the bus is free to it; the bus is free after it. -/
def State.runTo (s : State) (g : Fin 8) (x : Fin 64) (a : DieAnswer) (stop : SeqCtx → Word → Bool) : State :=
  let t : State := (State.runSeq g x a stop seqFuel (s.freeBus g x)).gal g fun y => { y with bus := none }
  if (t.gals.get g).ops.any fun o => o.running && o.ctx == x.val && o.outcome == some (.order, 0) then t.afterOrder g x else t

/-- Run a slot's list whole in a context. -/
def State.runList (s : State) (g : Fin 8) (x : Fin 64) (slot : Nat) (c : SeqCtx) (a : DieAnswer) : State :=
  if ((s.gals.get g).slots.getD slot none).isNone then s
  else (s.beginList g x { c with slot }).runTo g x a fun _ _ => false

/-- The outcome of the list a context ran last. -/
def State.lastOut (s : State) (g : Fin 8) (x : Fin 64) : Outc := ((s.gals.get g).ctxGet x.val).lastOut

/-- The status of a LUN that is ready, and of one that failed its program or erase. -/
def ready : Byte := 0x40
def readyFail : Byte := 0x41

/-- Hook 26 as a CALL of it does, or 27 in pSLC mode: the offsets of the block's group are applied where they are not the last applied (R186, R265). -/
def State.applyOffsets (s : State) (g : Fin 8) (x : Fin 64) (c : SeqCtx) : State :=
  match (s.gals.get g).profile with
  | none => s
  | some p =>
    let slot := if c.pslc then 27 else 26
    let l := s.offsetSet (chamberOf g (ctxCh x)) p c.blk.toNat c.step.toNat c.pslc
    if ((s.gals.get g).slots.getD slot none).isNone || Store.find (s.gals.get g).lastOfs (ctxCh x).val == some l then s
    else
      let t := s.runList g x slot c { status := ready }
      if t.lastOut g x = .ok then t.gal g fun y => { y with lastOfs := Store.ins (ctxCh x).val l y.lastOfs } else t

/-- Where in the pool of R433 firmware keeps a buffer: a free value. -/
def State.poolBuf (s : State) : BitVec 25 := BitVec.ofNat 25 (0xE00000 + 8 * (Config.freeNat s.free % 0x11F700))

/-- A read of a run of sequential pages, for read-ahead or relocation (R155). -/
def GOp.runs (o : GOp) : Bool := o.kind == .read && (o.cls == 4 || o.cls == 5) && o.npl == 1

/-- A cache run open on a chamber ends with the cache-read end command (R155). -/
def State.endRun (s : State) (g : Fin 8) (c : Fin 16) : State :=
  let x := s.gals.get g
  match Store.find x.cacheRun c.val with
  | some (b, p) =>
    let t := s.runList g (x.auxCtx c) 10 { blk := BitVec.ofNat 16 b, page := BitVec.ofNat 12 p, len := 576 } { status := 0x40 }
    t.gal g fun y => { y with cacheRun := y.cacheRun.del c.val }
  | none => s

/-- Any operation that does not go on with a chamber's cache run ends it first (R155). -/
def State.endCacheRun (s : State) (g : Fin 8) (o : GOp) : State :=
  match Store.find (s.gals.get g).cacheRun o.ch.val with
  | some (b, p) => if o.runs && b == o.block && p == o.page then s else s.endRun g o.ch
  | none => s

/-- Run a chamber's own reset list, standard slot 21 or its replacement (R162, R164): whether the LUN became ready within its time. -/
def State.resetLun (s : State) (g : Fin 8) (c : Fin 16) (status : Byte) : Bool × State :=
  let x := (s.gals.get g).auxCtx c
  let t := s.runList g x 21 {} { status }
  (t.lastOut g x != .timeout, t)

/-- OP_ADDR (R149, R180, R183): address cycles; a row outside the list's blocks is not sent, the list ends with outcome order, and slot 0 runs on
the chamber; a forced list taints every block it addresses. -/
def State.opAddr (s : State) (g : Fin 8) (x : Fin 64) (mismatches : Nat) : State :=
  s.seq g x 0x2 fun t c w =>
    if t.rowRefused g c w then (t.addrRefused g x c).afterOrder g x
    else
      match (s.gals.get g).profile with
      | none => t
      | some p => t.addrCycles g x c w p mismatches

end Sys2Proof.Machine
end

