-- ==== Sys2Proof/Machine/Gallery.lean ====
section
/-! DEFINITION. The galleries (chapter 6): training and retraining, which operation and which transfer is served next, suspend and
resume. -/

namespace Sys2Proof.Machine

/-- GAL_WPT_LOAD (R173): only a privileged write replaces the selected entry; a user write is a protection fault, a debug
write is dropped. -/
def execGalWptLoad (g : Fin 8) (cls : Cls) (value : Word) (s : State) : Host.Outcome State Fault Refusal :=
  .next (match cls with
    | .privileged => s.wptLoad g value
    | c => s.refuseOnly c (if c = .debug then 9 else 0) (Reg.galWptLoad g).addr)

/-! ## Training (R145 to R148) -/

/-- The rate every trained target passes at, starting from `r`: the number of targets that failed on the way, the rate. -/
def stepDown (rates : List Nat) (pass : Vector Nat 8) (ts : List (Fin 8)) : Nat → Nat → Nat × Nat
  | 0, r => (0, r)
  | f + 1, r =>
    let bad := ts.countP fun n => pass.get n < r
    let lower := rates.foldl (fun a x => if x < r then max a x else a) 0
    if bad = 0 ∨ lower = 0 then (bad, r)
    else let (m, r') := stepDown rates pass ts f lower; (bad + m, r')

/-- What the device sends a target with a list of its own: the list runs in a free context of the target's LUN 0. -/
def State.targetList (s : State) (g n : Fin 8) (slot : Nat) (c : SeqCtx) (a : DieAnswer) : State :=
  s.runList g ((s.gals.get g).auxCtx ⟨2 * n.val, by omega⟩) slot c a

/-- Step 2: Reset (FFh) to every target; once their wait has ended, once more to each that stays busy. -/
def State.trainReset (s : State) (g : Fin 8) (r : TrainResult) (ts : List (Fin 8)) : State :=
  let late := r.busyOnce ||| r.busy
  let t := ts.foldl (fun u n => u.targetList g n 0 {} { status := if late.getLsbD n.val then 0 else 0x40 }) s
  (ts.filter fun n => late.getLsbD n.val).foldl (fun u n => u.targetList g n 0 {} { status := if r.busy.getLsbD n.val then 0 else 0x40 }) t

/-- Read ID (slot 14) and the parameter page (slot 15) of a target, to firmware's buffer. -/
def State.trainIdentify (s : State) (g : Fin 8) (r : TrainResult) (n : Fin 8) : State :=
  let buf := s.poolBuf
  let ask (t : State) (slot : Nat) (l : List Nat) : State := t.targetList g n slot { buf } { status := 0x40, bytes := l.map (BitVec.ofNat 8) }
  ask (ask { s with free := s.free + 1 } 14 (r.ids.getD n.val [])) 15 (r.pages.getD n.val [])

/-- The features that step 4 sets from a mode: timing mode and interface, output drive, on-die termination, at the feature addresses of ONFI
(R146, R191; log entry 54). -/
def featureWrites (m : Mode) : List (Nat × Nat) := [(0x01, m.tm), (0x10, m.drive), (0x02, m.odt)]

/-- The training that a rate needs; none in SDR (R143). -/
def Gallery.stepsAt (g : Gallery) (rate : Nat) : List TrainStep :=
  ((g.profile.bind fun p => p.modes.find? fun m => m.rate == rate).map fun m => trainSteps m.iface rate).getD []

/-- ZQ calibration of a target by a slot's list, where the rate needs it. -/
def State.calibrate (s : State) (g n : Fin 8) (rate slot : Nat) : State :=
  if ((s.gals.get g).stepsAt rate).contains .zq then s.targetList g n slot {} { status := 0x40 } else s

/-- Steps 4 and 6: Set Features (slot 17) with the mode's values to every target, then ZQ calibration long (slot 18) to every target. -/
def State.trainFeatures (s : State) (g : Fin 8) (rate : Nat) (ts : List (Fin 8)) : State :=
  let ms := (((s.gals.get g).profile.bind fun p => p.modes.find? fun m => m.rate == rate).map featureWrites).getD []
  let put (n : Fin 8) (t : State) (f : Nat × Nat) : State :=
    t.targetList g n 17 { v0 := BitVec.ofNat 16 f.1 } { status := 0x40, put := some [f.2, 0, 0, 0] }
  ts.foldl (fun t n => t.calibrate g n rate 18) (ts.foldl (fun t n => ms.foldl (put n) t) s)

/-- Steps 8 to 12 for every target: their results. -/
def State.trainAll (s : State) (g : Fin 8) (rate : Nat) (ts : List (Fin 8)) : List TrainRec × State :=
  ts.foldl (fun (l, t) n => let (r, t1) := t.trainRec g n rate; (l ++ [r], t1)) ([], s)

/-- GAL_STAT and GAL_TRAIN_INFO at the end of a training or a retraining (R166, R167): the targets trained, the rate, the reference. -/
def State.trainStat (s : State) (g : Fin 8) (ts : List (Fin 8)) (all : Bool) (rate : Nat) : State :=
  let mask := sumNat (ts.map fun n => 2 ^ n.val)
  let temp := s.galTemp g
  let s1 := (s.setReg (.galStat g) (BitVec.ofNat 32 (b2n all + (s.rf (.galStat g) 3 1) * 8 + mask * 256 + rate * 65536))).setRf (.galTrainInfo g) 0 8
    (BitVec.ofInt 8 temp).toNat
  { s1 with assay := { s1.assay with trainRef := setAt s1.assay.trainRef g (some temp) } }

/-- The targets among those that answered whose identity differs or whose parameter page fails (R145). -/
def Profile.strangers (p : Profile) (r : TrainResult) (ts : List (Fin 8)) : List (Fin 8) :=
  ts.filter fun n => !(p.idMatches (r.ids.getD n.val []) && p.pageMatches (r.pages.getD n.val []))

/-- Steps 3 to 13 with the targets that are ready. -/
def State.trainReady (s : State) (g : Fin 8) (p : Profile) (r : TrainResult) (all ts : List (Fin 8)) : State :=
  let (bad, rate) := stepDown (p.modes.map (·.rate)) r.passAt ts 13 (s.aimRate g)
  let out := ts.filter fun n => r.passAt.get n < rate
  let okTs := ts.filter fun n => rate ≤ r.passAt.get n
  let again := okTs.countP fun n => r.again.getLsbD n.val
  let s1 := s.trainFeatures g rate okTs
  let (recs, s2) := s1.trainAll g rate okTs
  let s3 := (out.foldl (fun t n => t.targetOut g n) s2).raiseIf (decide (bad > 0)) 10
  let s4 := ((s3.trainStat g okTs (okTs.length == all.length) rate).bump (.galTrainInfo g) 8 8 (2 * bad + again)).driveWp g true
  State.bootCheck (s4.gal g fun y => { y with
    inService := true, retrain := .none, newRate := none, newResults := [], mustRetrain := false, ranFallback := s.onFallback, trainResults := recs })

/-- Train a gallery (R146). -/
def State.train (s : State) (g : Fin 8) (r : TrainResult) : State :=
  match (s.gals.get g).profile with
  | none => s
  | some p =>
    if !vddqgMatches p.ioMv (s.sys.railMv.get 4) then (s.gal g fun y => { y with profile := none }).enter .recovery
    else
      let all := s.targets g
      let s1 := State.trainReset (s.gal g fun y => { y with holdReset := false, bus := none, outCe := 0 }) g r all
      let busy := all.filter fun n => r.busy.getLsbD n.val
      let late := all.countP fun n => r.busyOnce.getLsbD n.val && !r.busy.getLsbD n.val
      let s2 := ((busy.foldl (fun t n => t.targetOut g n) s1).raiseIf (!busy.isEmpty) 10).bump (.galTrainInfo g) 8 8 (2 * busy.length + late)
      let here := all.filter fun n => !r.busy.getLsbD n.val
      let s3 := here.foldl (fun t n => t.trainIdentify g r n) s2
      if !(p.strangers r here).isEmpty then (s3.gal g fun y => { y with profile := none }).enter .recovery
      else s3.trainReady g p r all here

/-- What follows a training: an emptied table is loaded again before the gallery accepts a program, and a `reset` of the gallery or a `run train`
that joined the training replies (R133, R135, R150). -/
def State.trained (s : State) (g : Fin 8) : State :=
  let x := s.gals.get g
  let s1 : State := if s.map.mounted && x.inService && !x.wptReady then s.reloadWpt g else s
  (s1.finishJob (fun j => j == .reset (.gal g)) fun _ => ([], if x.inService then ok [] else err .fault [word "train"])).finishJob
    (fun j => j == .train g) fun _ => ([], if x.inService && x.outCe == 0 && s.rate g == s.aimRate g then ok [] else err .fault [word "train"])

/-- A gallery with a profile, enabled and out of its reset pin state, is to train. -/
def State.mayTrain (s : State) (g : Fin 8) : Bool :=
  !s.inReset && s.sys.released.getLsbD 3 && (s.gals.get g).profile.isSome && !(s.gals.get g).inService && s.settings.galEnable.get g

/-- GALLERY_TRAINING (R146): a gallery with a profile, out of its reset pin state and not in service, trains. -/
def execGalleryTraining (g : Fin 8) (r : TrainResult) (s : State) : Host.Outcome State Fault Refusal :=
  .next (if s.mayTrain g then (s.train g r).trained g else s)

/-! ## Suspend and resume (R156, R157) -/

/-- A program or erase of this kind may be suspended by its profile (R156). -/
def Gallery.mayHold (g : Gallery) (o : GOp) : Bool :=
  match g.profile with
  | none => false
  | some p => ((o.kind == .program && bitOf p.suspFlags 0) || (o.kind == .erase && bitOf p.suspFlags 1)) &&
      decide (o.suspends < min p.suspMax 32)

/-- A program or erase that has run `ran` µs, with `remain` µs to go, may be suspended (R156). -/
def Gallery.suspends (g : Gallery) (o : GOp) (ran remain : Nat) : Bool :=
  match g.profile with
  | none => false
  | some p => g.mayHold o && decide (ran ≥ (if o.kind = .program then p.minProg else p.minErase)) && decide (remain > 2 * p.suspLatency)

/-- Bring an operation's list to its status poll: its cycles are placed, its timer runs (R161). -/
def State.toPoll (s : State) (g : Fin 8) (o : GOp) : State := s.runTo g (ctxNo o.ctx) { status := 0 } fun _ w => opc w == 0x9

/-- The run state of a context. -/
def State.ctxState (s : State) (g : Fin 8) (n : Nat) (st : CtxState) : State :=
  s.gal g fun y => { y with ctxs := Store.modify (fun _ => {}) y.ctxs n fun k => { k with st } }

/-- Suspend an operation: the suspend list runs on its chamber (R156, R184, R185 slot 12). -/
def State.suspendOp (s : State) (g : Fin 8) (o : GOp) : State :=
  let s1 := (s.toPoll g o).setOp g o.id fun y => { y with suspended := true, suspends := y.suspends + 1, readsIn := 0, resumeDue := false }
  let s2 := s1.ctxState g o.ctx .suspended
  s2.runList g ((s2.gals.get g).auxCtx o.ch) 12 { blk := BitVec.ofNat 16 o.block, page := BitVec.ofNat 12 o.page } { status := 0x40 }

/-- Resume it: the resume list runs, and its list polls again (R157, R185 slot 13). -/
def State.resumeOp (s : State) (g : Fin 8) (o : GOp) : State :=
  let s1 := s.runList g ((s.gals.get g).auxCtx o.ch) 13 { blk := BitVec.ofNat 16 o.block, page := BitVec.ofNat 12 o.page } { status := 0x40 }
  (s1.setOp g o.id fun y => { y with suspended := false, resumeDue := false }).ctxState g o.ctx .polling

/-- The class an operation is served as: 1 once it has waited 100 ms. -/
def GOp.effCls (o : GOp) : Nat := if o.aged then 1 else o.cls

/-- A read of class 1 or 2 waits for a chamber. -/
def Gallery.readWaits (g : Gallery) (c : Fin 16) : Bool := g.ops.any fun o => !o.running && o.ch == c && o.kind == .read && decide (o.effCls ≤ 2)

/-- PROGRAM_SUSPEND (R156). -/
def execProgramSuspend (g : Fin 8) (c : Fin 16) (ranUs remainUs : Nat) (s : State) : Host.Outcome State Fault Refusal :=
  .next (let x := s.gals.get g
    match x.ops.find? fun o => o.running && !o.suspended && o.ch == c && (o.kind == .program || o.kind == .erase) with
    | some o => if x.readWaits c && x.suspends o ranUs remainUs then s.suspendOp g o else s
    | none => s)

/-- PROGRAM_RESUME (R157): after the reads allowed, 200 µs, or once no read of class 1 or 2 waits; a read under way ends first, and no other
starts. -/
def execProgramResume (g : Fin 8) (c : Fin 16) (heldUs : Nat) (s : State) : Host.Outcome State Fault Refusal :=
  .next (let x := s.gals.get g
    match x.ops.find? fun o => o.suspended && o.ch == c, x.profile with
    | some o, some p =>
      let reading := x.ops.any fun y => y.running && !y.suspended && y.ch == c
      if o.readsIn ≥ min p.suspReads 16 ∨ heldUs ≥ 200 ∨ o.resumeDue ∨ !x.readWaits c then
        if reading then s.setOp g o.id fun y => { y with resumeDue := true } else s.resumeOp g o
      else s
    | _, _ => s)

/-! ## Retraining (R150 to R152) -/

/-- The targets a retraining covers. -/
def State.retrainTargets (s : State) (g : Fin 8) : List (Fin 8) := (s.targets g).filter fun n => !(s.gals.get g).outCe.getLsbD n.val

/-- The target whose window comes next. -/
def State.retrainTarget (s : State) (g : Fin 8) : Option (Fin 8) :=
  match (s.gals.get g).retrain with
  | .none => none
  | .pending => (s.retrainTargets g).head?
  | .running n => (s.retrainTargets g).find? fun t => decide (t.val ≥ n)

/-- The operations in the dies of a target. -/
def Gallery.onTarget (g : Gallery) (n : Fin 8) : List GOp := g.ops.filter fun o => o.running && !o.suspended && o.ch.val / 2 == n.val

/-- Whether a target's window can begin: no read runs on its LUNs, and every program or erase there can be suspended now.  `runs` gives, by
LUN, how long its operation has run and has to go, in µs. -/
def State.windowFree (s : State) (g n : Fin 8) (runs : List (Nat × Nat)) : Bool :=
  let x := s.gals.get g
  (x.onTarget n).all fun o => let r := runs.getD (o.ch.val % 2) (0, 0); x.suspends o r.1 r.2

/-- The last window has ended: the new rate and results are in force, and a rate asked for meanwhile takes a second retraining (R266). -/
def State.retrainEnd (s : State) (g : Fin 8) (rate : Nat) : State :=
  let x := s.gals.get g
  let ts := (s.retrainTargets g)
  let s1 := (s.trainStat g ts (ts.length == (s.targets g).length) rate).bump (.galTrainInfo g) 16 16 1
  let s2 := s1.gal g fun y => { y with
    retrains := y.retrains + 1, retrain := .none, newRate := none, newResults := [], mustRetrain := false, ranFallback := s.onFallback, trainResults := x.newResults }
  let s3 := s2.stat "retrains"
  if s.aimRate g ≠ x.newAim then s3.markRetrain g else s3

/-- The window after a target's: the next target's, or the end. -/
def State.windowNext (s : State) (g n : Fin 8) (rate : Nat) : State :=
  match (s.retrainTargets g).find? fun t => decide (t.val > n.val) with
  | some t => s.gal g fun y => { y with retrain := .running t.val }
  | none => s.retrainEnd g rate

/-- One target's window: its operations are suspended, ZQ calibration short (slot 19) and the rate's training run, and they are resumed. -/
def State.window (s : State) (g n : Fin 8) (rate : Nat) (pass retried : Bool) : State :=
  let held := (s.gals.get g).onTarget n
  let s1 := (held.foldl (fun t o => t.suspendOp g o) s).calibrate g n rate 19
  let (r, s2) := s1.trainRec g n rate
  let s3 := held.foldl (fun t o => t.resumeOp g o) s2
  if pass then ((s3.gal g fun y => { y with newResults := y.newResults ++ [r] }).bump (.galTrainInfo g) 8 8 (b2n retried)).windowNext g n rate
  else
    let s4 := (s3.raise 10).bump (.galTrainInfo g) 8 8 2
    let lower := (s.gals.get g).lowerRate rate
    -- at the lowest declared rate the target goes out of service and the others continue
    if lower = 0 then (s4.targetOut g n).windowNext g n rate else s4.windowsFrom g lower (s.gals.get g).newAim

/-- The rate of a retraining's windows: the one it began for, unless the root has since moved to the fallback oscillator (R144). -/
def State.windowRate (s : State) (g : Fin 8) : Nat :=
  let aim := s.aimRate g
  match (s.gals.get g).newRate with
  | some r => if s.onFallback ∧ r > aim then aim else r
  | none => aim

/-- RETRAINING_WINDOW (R151): the next target's window, once its LUNs allow it; with the last, a waiting `run train` ends.  A target that
fails has failed twice, and one that passes may have failed once (R148, R167).  With no target left the retraining ends, and a `run train` fails. -/
def execRetrainingWindow (g : Fin 8) (r : WindowRun) (s : State) : Host.Outcome State Fault Refusal :=
  .next (
    let rate := s.windowRate g
    let s1 : State := if (s.gals.get g).retrain != .none && (s.gals.get g).newRate != some rate then s.windowsFrom g rate (s.aimRate g) else s
    match s1.retrainTarget g with
    | none =>
      if (s.gals.get g).retrain = .none then s
      else (s1.retrainEnd g rate).finishJob (fun j => j == .train g) fun _ => ([], err .fault [word "train"])
    | some n =>
      if s1.windowFree g n r.runs then
        let t := s1.window g n rate r.pass r.retried
        if !r.pass then t.finishJob (fun j => j == .train g) fun _ => ([], err .fault [word "train"])
        else if (t.gals.get g).newRate = none then
          t.finishJob (fun j => j == .train g) fun _ => ([], ok [])
        else t
      else s)

/-- GAL_CTL_TRAIN (R150, R165): a write of GAL_CTL.train marks the gallery for retraining. -/
def execGalCtlTrain (g : Fin 8) (s : State) : Host.Outcome State Fault Refusal := .next (s.markRetrain g)

/-- GAL_SUSPECT_CLEAR (R168): writing 1 returns chambers to service with no status check. -/
def execGalSuspectClear (g : Fin 8) (mask : BitVec 16) (s : State) : Host.Outcome State Fault Refusal :=
  .next (s.setReg (.galSuspect g) (s.reg (.galSuspect g) &&& ~~~(mask.zeroExtend 32)))

/-! ## Scheduling (R153, R154) -/

/-- A chamber has room for an operation: nothing runs there; or independent plane reads on other planes; or, while an
operation is suspended and not due to resume, a read of class 1 or 2 among those allowed that is not of the page being programmed (R157). -/
def Gallery.chamberFree (g : Gallery) (o : GOp) : Bool :=
  let busy := g.ops.filter fun x => x.running && x.ch == o.ch
  match g.profile with
  | none => false
  | some p =>
    busy.all fun x =>
      if x.suspended then
        o.kind == .read && decide (o.effCls ≤ 2) && !x.resumeDue && decide (x.readsIn < min p.suspReads 16) &&
          !(x.block == o.block && decide (x.page ≤ o.page ∧ o.page < x.page + x.pages)) && !(bitOf p.flags 3 && x.block == o.block)
      else
        bitOf p.flags 0 && x.kind == .read && o.kind == .read && x.block % p.planes != o.block % p.planes

/-- Operations running in dies, over the whole device, and those of classes 5 and 6 among them. -/
def State.runningOps (s : State) (p : GOp → Bool) : Nat :=
  sumNat (s.gals.toList.map fun g => g.ops.countP fun o => o.running && !o.suspended && p o)

def GOp.low (o : GOp) : Bool := o.cls == 5 || o.cls == 6

/-- The governor's limit has room for an operation (R36, R266): while free blocks are low, a quarter of the limit is kept
for waiting operations of classes 5 and 6; else from step 3 on they take at most a quarter. -/
def State.govRoom (s : State) (o : GOp) : Bool :=
  let lim := s.rf .govStep 8 8
  let all := s.runningOps fun _ => true
  let low := s.runningOps GOp.low
  let step := s.rf .govStep 0 3
  let waiting := s.gals.any fun g => g.ops.any fun x => x.low && !x.running
  decide (all < lim) &&
    if s.urgent then o.low || !waiting || decide (low ≥ lim / 4) || decide (all - low < lim - lim / 4)
    else !o.low || decide (step < 3) || decide (low < lim / 4)

/-- Every codeword bound for the pages of a program has left the encoder (R221). -/
def State.encodedFor (s : State) (k page pages : Nat) : Bool := s.cdc.enc.all fun e => e.encoded || !e.inProg k page pages

/-- A program waits for its codewords, its accumulators, its block's erase and its group's open record. -/
def State.programReady (s : State) (g : Fin 8) (o : GOp) : Bool :=
  let k := (chamberOf g o.ch).val * 65536 + o.block
  match o.kind with
  | .program => s.encodedFor k o.page o.pages && s.accRoom k o.page o.pages && s.openDurable k && decide ((s.blk k).st = .opened ∨ s.blk k = {})
  | _ => true

/-- The context that an operation's list takes: its plane's where planes read independently, else plane slot 0; where that is taken, the first
plane slot of its chamber that is idle (R174; log entry 55). -/
def Gallery.freeCtx (g : Gallery) (o : GOp) : Option Nat :=
  let own := match g.profile with
    | some p => if o.kind = .read ∧ bitOf p.flags 0 then o.block % p.planes else 0
    | none => 0
  ([own, 0, 1, 2, 3].map fun i => 4 * o.ch.val + i).find? fun n => (g.ctxGet n).st == .idle

/-- Whether an operation may start now. -/
def State.mayStart (s : State) (g : Fin 8) (o : GOp) : Bool :=
  let x := s.gals.get g
  decide (s.sys.ps.val ≤ 2) && !s.lan.scan && !o.running && x.inService && x.toInstall.isNone && s.settings.galEnable.get g && !x.holdReset &&
    (s.served g).any (fun n => n.val == o.ch.val / 2) && x.chamberFree o && (x.freeCtx o).isSome && s.govRoom o && s.programReady g o &&
    -- a change that finds the change log full waits (R377)
    (s.map.recordsLoaded || decide (s.map.changeLog.length < 65536)) &&
    !(x.mustRetrain && o.kind == .read) && !((o.kind == .program || o.kind == .erase) && (s.brownWarning || !x.wptReady)) &&
    (s.retrainTarget g).map (·.val) != some (o.ch.val / 2)

/-- Nothing runs in a chamber, and nothing is suspended there. -/
def State.chamberQuiet (s : State) (c : Fin 128) : Bool := (s.gals.get (galOf c)).ops.all fun o => !(o.running && o.ch == chIn c)

/-- An operation that firmware runs whole on a chamber may begin: it waits for the chamber, the governor's limit and a retraining of its target
as an operation of class 7 does (R36, R151, R153, R157). -/
def State.mayRun (s : State) (c : Fin 128) : Bool :=
  let g := galOf c
  let x := s.gals.get g
  x.inService && x.toInstall.isNone && !x.holdReset && s.chamberQuiet c && decide (s.runningOps (fun _ => true) < s.rf .govStep 8 8) &&
    (s.retrainTarget g).map (·.val) != some ((chIn c).val / 2)

/-- The waiting operation served next: the lowest class, then the oldest. -/
def State.pick (s : State) (g : Fin 8) : Option GOp :=
  (s.gals.get g).ops.foldl (fun b o =>
    if s.mayStart g o then
      match b with
      | none => some o
      | some x => if o.effCls < x.effCls then some o else b
    else b) none

/-- The standard slot an operation runs (R184, R185): sentinel and search reads run slot 20. -/
def GOp.slot (o : GOp) : Nat :=
  match o.kind with
  | .read => match o.need with | .patrol | .console => 20 | _ => if o.npl > 1 then 8 else 1
  | .program => (if o.pslc then 2 else 4) + (if o.npl > 1 then 1 else 0)
  | .erase => if o.npl > 1 then 7 else 6
  | .reset => 21
  | .other => 32

/-- The next page of the same block is waiting to be read, or the next program of the chamber to be programmed. -/
def Gallery.nextWaits (g : Gallery) (o : GOp) : Bool :=
  g.ops.any fun x => !x.running && x.ch == o.ch && x.id != o.id &&
    (if o.kind = .read then x.runs && x.block == o.block && x.page == o.page + 1
     else x.kind == .program && x.pslc)

/-- The slot an operation starts with, and the cache run its chamber has open after it (R155): a run of sequential pages goes on by slot 9 and
ends by slot 10; a pSLC program whose successor is ready goes by slot 11. -/
def Gallery.startSlot (g : Gallery) (p : Profile) (o : GOp) : Nat × Option (Nat × Nat) :=
  let more := g.nextWaits o
  let next : Option (Nat × Nat) := if more then some (o.block, o.page + 1) else none
  if o.runs && bitOf p.flags 1 then
    if Store.find g.cacheRun o.ch.val = some (o.block, o.page) then (if more then 9 else 10, next) else (o.slot, next)
  else if o.kind = .program ∧ o.pslc ∧ o.npl = 1 ∧ bitOf p.flags 2 ∧ more then (11, none)
  else (o.slot, none)

/-- The operations that join a program or erase in one multi-plane operation (R155): waiting operations of its kind, class, mode and page on the
consecutive blocks of the other planes; erases where the profile declares multi-plane erase. -/
def State.mates (s : State) (g : Fin 8) (p : Profile) (o : GOp) : List GOp :=
  let like (i : Nat) (x : GOp) : Bool := !x.running && x.ch == o.ch && x.kind == o.kind && x.cls == o.cls && x.page == o.page && x.pages == o.pages &&
    x.pslc == o.pslc && x.npl == 1 && x.block == o.block + i && s.programReady g x &&
    (match o.need, x.need with | .sumpPage, .sumpPage | .reloc _, .reloc _ | .erase, .erase => true | _, _ => false)
  let found := (List.range (p.planes - 1 - o.block % p.planes)).map fun i => (s.gals.get g).ops.find? (like (i + 1))
  if o.npl = 1 ∧ (o.kind = .program ∨ (o.kind = .erase ∧ bitOf p.flags 4)) then (found.takeWhile (·.isSome)).filterMap id else []

/-- An operation with its mates joined to it; the mates leave the queue. -/
def State.joinPlanes (s : State) (g : Fin 8) (o : GOp) : GOp × State :=
  match (s.gals.get g).profile with
  | none => (o, s)
  | some p =>
    let ms := s.mates g p o
    let o1 : GOp := { o with npl := 1 + ms.length }
    if ms.isEmpty || !(s.gals.get g).passes o1 then (o, s)
    else (o1, s.gal g fun x => { x with ops := (x.ops.filter fun y => !(ms.any fun m => m.id == y.id)).map fun y => if y.id = o.id then o1 else y })

/-- A context as its requester sets it (R177); BUF is where in the pool of R433 firmware put the data, a free value. -/
def State.startCtx (s : State) (g : Fin 8) (o : GOp) (slot n : Nat) : State :=
  let c : SeqCtx :=
    { blk := BitVec.ofNat 16 o.block, page := BitVec.ofNat 12 o.page, col := if o.kind = .program then 0 else BitVec.ofNat 16 (o.cw.val * 4608)
      npl := BitVec.ofNat 3 o.npl, step := BitVec.ofNat 6 o.step, len := if o.kind = .program then 2304 else 576
      buf := s.poolBuf, pslc := o.pslc, slot, blk0 := o.block, page0 := o.page, npl0 := o.npl }
  State.beginList { s with free := s.free + 1 } g (ctxNo n) c

/-- An operation starts: its list in its context, each read counted against the blocks it names. -/
def State.startOp (s : State) (g : Fin 8) (o : GOp) : State :=
  match (s.gals.get g).profile, (s.gals.get g).freeCtx o with
  | some p, some n =>
    let s0 := s.endCacheRun g o
    let (slot, run) := (s0.gals.get g).startSlot p o
    let s1 := (s0.startCtx g o slot n).setOp g o.id fun x => { x with running := true, suspended := false, ready := false, ctx := n, outcome := none }
    let s2 := s1.gal g fun x => { x with cacheRun := match run with | some r => Store.ins o.ch.val r x.cacheRun | none => x.cacheRun.del o.ch.val }
    if o.kind = .program then
      -- every position it places takes its accumulator (R232)
      (o.blks g).foldl (fun t k => (List.range o.pages).foldl (fun u i => u.accJoin k (o.page + i)) t) s2
    else if o.kind = .read then
      ((List.range o.npl).foldl (fun t i => t.countRead (o.blk g + i) o.pages) s2).gal g fun x => { x with
        hasRead := true
        ops := x.ops.map fun y => if y.suspended && y.ch == o.ch then { y with readsIn := y.readsIn + 1 } else y }
    else s2
  | _, _ => s

/-- OPERATION_AGING (R153): an operation that has waited 100 ms is served as class 1. -/
def execOperationAging (g : Fin 8) (id : Nat) (s : State) : Host.Outcome State Fault Refusal :=
  .next (s.setOp g id fun o => if o.running then o else { o with aged := true })

/-- The class a context's transfer is served in: that of the operation whose list it runs (R154). -/
def Gallery.ctxCls (g : Gallery) (n : Nat) : Nat := ((g.ops.find? fun o => o.running && o.ctx == n).map GOp.effCls).getD 8

/-- The context that takes the bus at a transfer boundary: a polling one first, then by its operation's class; of two alike the one in the
lower context, for the manual gives no order (R154; log entry 58). -/
def Gallery.nextBus (g : Gallery) : Option Nat :=
  match g.ctxs.find? fun c => c.2.st == .polling with
  | some c => some c.1
  | none =>
    (g.ctxs.foldl (fun b c => if c.2.st == .waiting then
        match b with
        | none => some c.1
        | some x => if g.ctxCls c.1 < g.ctxCls x then some c.1 else b
      else b) none)

/-- Give the bus to a context, which holds it from then on (R205). -/
def Gallery.grant (g : Gallery) (n : Nat) : Gallery :=
  if h : n < 64 then { g with bus := some ⟨n, h⟩, ctxs := Store.modify (fun _ => {}) g.ctxs n fun c => { c with st := .bus } } else g

/-- BUS_TRANSFER_DONE (R154, R174): once the holder has reached a yield point the bus goes to the next transfer; a context keeps it until
then. -/
def execBusTransferDone (g : Fin 8) (s : State) : Host.Outcome State Fault Refusal :=
  .next (s.gal g fun x =>
    match x.bus, (x.nextBus : Option Nat) with
    | none, some i => x.grant i
    | _, _ => x)

/-- RB_N_RISE (R154): the gallery polls at once: the oldest polling context takes a free bus. -/
def execRbNRise (g : Fin 8) (s : State) : Host.Outcome State Fault Refusal :=
  .next (s.gal g fun x =>
    match x.bus, x.ctxs.find? fun c => c.2.st == .polling with
    | none, some c => x.grant c.1
    | _, _ => x)

end Sys2Proof.Machine
end

