-- ==== Sys2Proof/Machine/IoDone.lean ====
section
/-! DEFINITION. The end of an I/O command: its slots, its parts and its commits, and the completion or, on the owner of a part,
the frames that answer it (R24, R90, R238, R350, R396, R402). -/

namespace Sys2Proof.Machine

/-- On an owner, a part's context stands under its tag: a subordinate has no host of its own (R402). -/
def partHdr (tag : BitVec 16) : Hdr := ⟨1, tag⟩

/-- The sectors a context's slots hold. -/
def Ctx.sectors (c : Ctx) : List Sector := c.slots.map fun x => match x with | .data d => d | _ => Sector.zero

/-- Pieces of 512 B in the order of a transfer, as sectors (R66, R394). -/
def packPieces : Nat → List Nat → List Sector
  | 0, _ => []
  | f + 1, l => if l.isEmpty then [] else ⟨Vector.ofFn fun i : Fin 8 => l.getD i.val 0⟩ :: packPieces f (l.drop 8)

/-- The data of `n` LBAs from `lba` as the host receives it, from the namespace sectors that hold them. -/
def hostData (lba4k : Bool) (lba n : Nat) (l : List Sector) : List Sector :=
  if lba4k then l
  else packPieces (l.length + 1) (((l.flatMap fun x => x.lba.toList).drop (lba % 8)).take n)

/-- The DATA frames of a part: a frame for each namespace sector, the first and the last with the LBAs the part covers only (R394). -/
def partFrames (b : PartBody) (l : List Sector) : List Sector :=
  if b.lba4k then l
  else (l.zipIdx).map fun (x : Sector × Nat) =>
    let from_ := if x.2 = 0 then b.first % 8 else 0
    let till := min 8 (b.first % 8 + b.lbas - 8 * x.2)
    ⟨Vector.ofFn fun i : Fin 8 => if from_ + i.val < till then x.1.lba.toList.getD (from_ + i.val) 0 else 0⟩

/-- The bytes of a part's DATA frame: 4096, but for the first and the last of a 512 B namespace. -/
def partFrameLen (b : PartBody) (i : Nat) : Nat :=
  if b.lba4k then 4096 else 512 * (min 8 (b.first % 8 + b.lbas - 8 * i) - (if i = 0 then b.first % 8 else 0))

/-- The namespace sector a frame of a part carries, with the LBAs it covers in their places. -/
def unframe (lba4k : Bool) (first idx : Nat) (x : Sector) : Sector :=
  if lba4k ∨ idx ≠ 0 then x
  else ⟨Vector.ofFn fun i : Fin 8 => if i.val < first % 8 then 0 else x.lba.toList.getD (i.val - first % 8) 0⟩

/-- Whether nothing of a command is outstanding. -/
def Ctx.finished (c : Ctx) : Bool :=
  c.started && c.parts.isEmpty && c.uncommitted == 0 && c.upTo.isNone && c.slots.all fun x => match x with | .wait _ => false | _ => true

/-- The status a finished command completes with: its own, or that of a slot that did not read. -/
def Ctx.result (c : Ctx) : NStat :=
  if c.status ≠ (0, 0, false) then ⟨c.status.2.1, c.status.1, c.status.2.2⟩
  else if c.slots.any fun x => match x with | .failed => true | _ => false then .unrecovered
  else .success

/-- The kind of a command for SMART: read (1), written (2), or neither. -/
def Ctx.smartKind (c : Ctx) : Nat :=
  match c.cmd with
  | some (.read _ _ _ _) => 1
  | some (.write _ _ _ _ _ _) => 2
  | _ => 0

/-- The first LBA and the number of LBAs of a read, a write or a verify. -/
def Ctx.lbas (c : Ctx) : Nat × Nat :=
  match c.cmd with
  | some (.read _ _ a n) => (a, n)
  | some (.write _ _ a _ n _) => (a, n)
  | some (.verify _ _ a n) => (a, n)
  | _ => (0, 0)

/-- The LBA format of a context's namespace: 4096 B unless it says 512 B. -/
def State.ctx4k (s : State) (c : Ctx) : Bool := ((s.nsOf (BitVec.ofNat 32 c.nsid)).map fun x => x.2.lba4k).getD true

/-- Commands completed, and host data moved by those that succeeded (R78, R350). -/
def State.smartDone (s : State) (c : Ctx) (st : NStat) : State :=
  let m := s.front.smart
  let big := s.ctx4k c
  let (a, n) := c.lbas
  let secs := if st ≠ .success then 0 else if big then n else ceilDiv (a + n) 8 - a / 8
  let units := if st ≠ .success then 0 else if big then 8 * n else n
  let m1 : Smart := match c.smartKind with
    | 1 => { m with readCmds := m.readCmds + 1, sectorsRead := m.sectorsRead + secs, unitsRead := m.unitsRead + units }
    | 2 => { m with writeCmds := m.writeCmds + 1, sectorsWritten := m.sectorsWritten + secs, unitsWritten := m.unitsWritten + units }
    | _ => m
  let m2 : Smart := if st = .unrecovered then { m1 with mediaErrors := m1.mediaErrors + 1 } else m1
  { s with front := { s.front with smart := m2 } }

/-- The LBAs of a part that completed successfully (R396): all, or all but those of the sectors that failed; none where it failed as a whole. -/
def Ctx.lbasDone (c : Ctx) (b : PartBody) (st : NStat) : Nat :=
  if st = .success then b.lbas
  else if c.fails.isEmpty then 0
  else if b.lba4k then b.lbas - c.fails.length
  else b.lbas - sumNat ((c.fails.map fun a => a / 8 - b.first / 8).map fun i => partFrameLen b i / 512)

/-- Send a part's answer to its master: its DATA frames in ascending order when it read, then DONE. -/
def State.partDone (s : State) (c : Ctx) (st : NStat) : State :=
  let tag := c.hdr.cid
  match s.teth.owned.find? fun o => o.tag == tag with
  | none => s
  | some o =>
    let s1 := if o.body.opcode = 0x02 ∧ !o.body.speculative ∧ st = .success then
        ((partFrames o.body c.sectors).zipIdx).foldl (fun (t : State) (x : Sector × Nat) => t.tethSend 2 0 tag x.2 (partFrameLen o.body x.2) (.data x.1)) s
      else s
    let s2 := s1.tethSend 3 0 tag 0 0 (.done { sc := BitVec.ofNat 8 st.sc, sct := BitVec.ofNat 3 st.sct
                                               lbas := c.lbasDone o.body st
                                               firstFail := if st = .success then 0 else c.failLba.getD o.body.first })
    { s2 with
      teth := { s2.teth with owned := s2.teth.owned.filter fun x => x.tag != tag }
      front := s2.front.dropCtx c.hdr }

/-- Answer an I/O command with a status: a completion here, or frames to the master. -/
def State.ioEnd (s : State) (h : Hdr) (st : NStat) (data : Payload := .none) : State :=
  match s.front.ctx? h with
  | none => s
  | some c =>
    let s1 := s.smartDone c st
    let s2 : State := match c.cmd with
      | some (.flush _ _) => if st = .success then { s1 with front := { s1.front with cachedTo := [] } } else s1
      | _ => s1
    if s2.isMaster then s2.done h st 0 data else s2.partDone c st

/-- A command waits for a journal record or for a Secure Deallocate. -/
def State.mapWaits (s : State) (h : Hdr) : Bool :=
  (s.map.jWait.any fun w => w.2 == h) || (s.map.deallocs.any fun w => w.1 == some h) || (s.map.secQ.any fun w => w.1 == h) ||
    match s.map.secure with
    | some x => x.hdr == some h
    | none => false

/-- Complete a command once nothing of it is outstanding. -/
def State.ioTry (s : State) (h : Hdr) : State :=
  match s.front.ctx? h with
  | none => s
  | some c =>
    if c.finished && !s.mapWaits h then
      let st := c.result
      let s1 := if st = .unrecovered then s.smartEvent 2 0 else s
      s1.ioEnd h st (if c.smartKind = 1 ∧ st = .success then .sectors (hostData (s.ctx4k c) c.lbas.1 c.lbas.2 c.sectors) else .none)
    else s

/-- Note a command's failing status: that of the lowest address stands (R90, R402). -/
def Ctx.fail (c : Ctx) (st : NStat) (lba : Option Nat) : Ctx :=
  let lower : Bool := match lba, c.failLba with
    | some a, some b => decide (a < b)
    | _, _ => false
  let c : Ctx := match lba with | some a => (if c.fails.contains a then c else { c with fails := c.fails ++ [a] }) | none => c
  if c.status = (0, 0, false) ∨ lower = true then { c with status := (st.sc, st.sct, st.dnr), failLba := match lba with | some a => some a | none => c.failLba }
  else c

def State.ctxFail (s : State) (h : Hdr) (st : NStat) (lba : Option Nat) : State := s.ctx h fun c => c.fail st lba

/-- Put a sector, or its failure, in a slot of a command. -/
def State.putSlot (s : State) (h : Hdr) (i : Nat) (x : Slot) (failLba : Option Nat := none) : State :=
  s.ctx h fun c =>
    let c1 : Ctx := { c with slots := c.slots.set i x }
    if x = .failed ∧ (failLba.isSome ∨ c.status = (0, 0, false)) then c1.fail .unrecovered failLba else c1

/-- Fill a slot of a command. -/
def State.fillSlot (s : State) (h : Hdr) (i : Nat) (x : Slot) (failLba : Option Nat := none) : State :=
  (s.putSlot h i x failLba).ioTry h

/-- A sector of a command has committed (R23 step 5). -/
def State.committed (s : State) (h : Hdr) : State := (s.ctx h fun c => { c with uncommitted := c.uncommitted - 1 }).ioTry h


end Sys2Proof.Machine
end

