-- ==== Sys2Proof/Machine/Layout.lean ====
section
/-! DEFINITION. Where a logical sector lives: stripes of a cascade (R90), device units and device sector numbers (R283), and LBA
ranges as device ranges (R302, R303). -/

namespace Sys2Proof.Machine

/-- The stripe size in sectors of 4096 B: the chain record's, or the setting's until it is fixed (R412). -/
def State.stripeSectors (s : State) : Nat :=
  let l := (s.teth.chain.map (·.stripeLog2)).getD 0
  (if l = 0 then s.settings.tethStripe else 2 ^ l) / 4096

/-- The device that owns a namespace sector. -/
def State.ownerOf (s : State) (j : Nat) : Nat := j / s.stripeSectors % s.chainN

/-- A namespace sector's index among the sectors its owner holds. -/
def State.localSector (s : State) (j : Nat) : Nat :=
  let t := s.stripeSectors
  j / t / s.chainN * t + j % t

/-- The device sector number of an index within a namespace's units here. -/
def NsRec.unitSector (r : NsRec) (x : Nat) : Option Nat := (r.units[x / 262144]?).map fun u => u * 262144 + x % 262144

/-- The device sector number of a namespace sector this device owns. -/
def State.dsec (s : State) (r : NsRec) (j : Nat) : Option Nat :=
  if s.ownerOf j = s.index then r.unitSector (s.localSector j) else none

/-- The namespace sector of an LBA. -/
def NsRec.sectorOf (r : NsRec) (lba : Nat) : Nat := if r.lba4k then lba else lba / 8

/-- The first LBA of a namespace sector. -/
def NsRec.lbaOf (r : NsRec) (j : Nat) : Nat := if r.lba4k then j else 8 * j

/-- The device sector a user codeword's header names, in the namespaces as they are (R213). -/
def State.cwSector (s : State) (c : Cw) : Option Nat :=
  if h : c.kind = 0 ∧ c.ns < 8 then
    match s.map.ns.get ⟨c.ns, h.2⟩ with
    | some r => if c.seq ≥ s.map.floors.get ⟨c.ns, h.2⟩ then s.dsec r (r.sectorOf c.lba) else none
    | none => none
  else none

/-- The device ranges of `n` namespace sectors from `j`, the stripes of other devices left out. -/
def State.dRuns (s : State) (r : NsRec) : Nat → Nat → Nat → List (Nat × Nat)
  | 0, _, _ => []
  | f + 1, j, n =>
    if n = 0 then []
    else
      let t := s.stripeSectors
      let room := if s.chainN = 1 then 262144 - j % 262144 else t - j % t
      let k := min n (max 1 room)
      let rest := s.dRuns r f (j + k) (n - k)
      match s.dsec r j with
      | some d => (d, k) :: rest
      | none => rest

/-- The sectors an LBA range covers whole: the first, and how many. -/
def NsRec.whole (r : NsRec) (lba n : Nat) : Nat × Nat :=
  if r.lba4k then (lba, n)
  else
    let a := ceilDiv lba 8
    (a, (lba + n) / 8 - a)

/-- The sectors an LBA range covers in part, each with the LBAs it covers. -/
def NsRec.parts (r : NsRec) (lba n : Nat) : List (Nat × List Bool) :=
  if r.lba4k ∨ n = 0 then []
  else
    let one (j : Nat) : Nat × List Bool := (j, (List.range 8).map fun i => decide (lba ≤ 8 * j + i ∧ 8 * j + i < lba + n))
    (([lba / 8, (lba + n - 1) / 8].eraseDups).map one).filter fun x => x.2.any id && !x.2.all id

/-- The device ranges an LBA range deallocates. -/
def State.rangesOf (s : State) (r : NsRec) (lba n : Nat) : List (Nat × Nat) :=
  let (a, k) := r.whole lba n
  s.dRuns r k a k

end Sys2Proof.Machine
end

