-- ==== Sys2Proof/Machine/Codec.lean ====
section
/-! DEFINITION. The Codec (chapter 8): the order of a read, soft lanes, encode checks, miscorrections, lane timeouts, rebuild and
outcomes; and what a read brings to those that wait for it. -/

namespace Sys2Proof.Machine

/-! ## Reads under way (R222, R224) -/

/-- A speculative read runs its STEP 0 alone. -/
def Need.isSpec : Need → Bool
  | .spec _ _ _ => true
  | _ => false

/-- Start a read of a codeword: its gallery operation and its place in the order of R222. -/
def State.startRead (s : State) (l : Loc) (cls : Nat) (need : Need) : Nat × State :=
  let (id, s1) := s.newId
  let k := l.blk
  (id, State.queueOp { s1 with cdc := { s1.cdc with rds := s1.cdc.rds ++ [{ id, loc := l, stage := .hard 0, need, only0 := need.isSpec }] } }
    (galOf l.chamber) { id, ch := chIn l.chamber, kind := .read, cls, block := l.block, page := l.page, pslc := (s.blk k).pslc, cw := l.cw, need })

def State.rd? (s : State) (id : Nat) : Option Rd := s.cdc.rds.find? fun r => r.id == id

def State.setRd (s : State) (id : Nat) (f : Rd → Rd) : State :=
  { s with cdc := { s.cdc with rds := s.cdc.rds.map fun r => if r.id = id then f r else r } }

/-! ## The soft lanes (R219) -/

/-- The codewords in a soft lane's queue. -/
def State.softLoad (s : State) (n : Fin 2) : Nat := s.cdc.rds.countP fun r => r.softLane == some n

/-- A soft lane in service whose queue of 32 has room: the shorter queue, S0 of two alike (log entry 59). -/
def State.softPick (s : State) : Option (Fin 2) :=
  let open_ (n : Fin 2) : Bool := !(s.reg .cdcLaneStat).getLsbD (24 + n.val) && decide (s.softLoad n < 32)
  match open_ 0, open_ 1 with
  | true, true => if s.softLoad 1 < s.softLoad 0 then some 1 else some 0
  | true, false => some 0
  | false, true => some 1
  | false, false => none

/-- A codeword in a soft stage. -/
def Rd.soft (r : Rd) : Bool := r.stage == .soft1 || r.stage == .soft2

/-- A request that found both queues full joins one as room comes, oldest first. -/
def State.softTick (s : State) : State :=
  (s.cdc.rds.filter fun r => r.soft && r.softLane.isNone).foldl (fun t r => t.setRd r.id fun x => { x with softLane := t.softPick }) s

/-- End a read: its operation and its place in the order go. -/
def State.endRead (s : State) (r : Rd) : State :=
  State.softTick (State.dropOp { s with cdc := { s.cdc with rds := s.cdc.rds.filter fun x => x.id != r.id } } (galOf r.loc.chamber) r.id)

/-- The rows of a location's retry table, and those left to the ladder. -/
def State.retryRows (s : State) (l : Loc) : Nat := ((s.prof l.chamber).map (·.retry.length)).getD 0
def ladderRows (m : Nat) : Nat := if m ≥ 5 then m - 4 else m

/-- Whether the parity of a location is held: a group that has not released its parity protects its page (R233, R235). -/
def State.parityHeld (s : State) (l : Loc) : Bool :=
  match s.groupAt l.blk l.page with
  | some g => !g.released && (s.blk l.blk).held
  | none => false

/-! ## What reads are for (R28, R302) -/

/-- Merge new LBAs over old ones. -/
def mergeSector (old new : Sector) (mask : List Bool) : Sector :=
  ⟨Vector.ofFn fun i : Fin 8 => if mask.getD i.val false then new.lba.get i else old.lba.get i⟩

/-- A partial write in staging has its sector's old data: it becomes a whole-sector write (R302 step 3). -/
def State.merged (s : State) (id : Nat) (old : Sector) : State :=
  { s with front := { s.front with staging := s.front.staging.map fun (y : Staged) =>
      if y.id = id then { y with data := mergeSector old y.data (y.partialMask.getD []), partialMask := none, locked := true } else y } }

/-- The read-ahead data of a sector whose extent has not changed since it was read (R87). -/
def State.ahead (s : State) (ns : Fin 8) (d : Nat) : Option Sector :=
  match s.front.ra.find? fun x => x.ns == ns with
  | none => none
  | some x => (x.held.find? fun e => e.1 == d && s.map.gen (d / 512) == some e.2.2).map (·.2.1)

/-- Whether the data held ahead of a sector fails Front's check as it leaves the Keeper (R230): the row of its read said so. -/
def State.spoilt (s : State) (ns : Fin 8) (d : Nat) : Bool :=
  match s.front.ra.find? fun x => x.ns == ns with
  | none => false
  | some x => x.spoilt.contains d

/-- The data a read was for has come. -/
def State.answer (s : State) (n : Need) (d : Sector) : State :=
  match n with
  | .host h i _ _ => s.fillSlot h i (.data d)
  | .merge id _ _ => s.merged id d
  | _ => s

/-- The data a read was for is lost, with the status its command gets: a host read or a verify fails, and a partial write leaves its sector
unchanged. -/
def State.lose (s : State) (n : Need) (st : NStat) : State :=
  match n with
  | .host h i _ lba => (if st = .unrecovered then s else s.ctxFail h st (some lba)).fillSlot h i .failed (some lba)
  | .merge id _ lba =>
    let s1 : State := { s with front := { s.front with staging := s.front.staging.filter fun y => y.id != id } }
    match (s.front.staging.find? fun y => y.id == id).bind (·.hdr) with
    | some h => (s1.ctxFail h st (some lba)).committed h
    | none => s1
  | _ => s

/-- A read-side mismatch (R223, R230). -/
def State.miscorrect (s : State) : State := (s.bumpWrap .cdcCrcCnt 0 16 1).raise 19

/-- Front's check of a host read's data found a mismatch for the first time: the codeword is read once more from the start (R230). -/
def State.readAgain (s : State) (l : Loc) (cls : Nat) (n : Need) (h : Hdr) (i : Nat) : State :=
  let (id, s1) := s.miscorrect.startRead l cls n
  (s1.setRd id fun x => { x with restarted := true }).putSlot h i (.wait id)

/-- Read a sector whose map page is at hand, for what needs it: nothing is read of an unmapped or a damaged one (R28, R284). -/
def State.fetchSector (s : State) (d cls : Nat) (n : Need) : State :=
  match s.entry d, n with
  | .mapped l, .host h i ns lba =>
    match s.ahead ns d with
    | some x => if s.spoilt ns d then s.readAgain l cls (.host h i ns lba) h i else s.fillSlot h i (.data x)
    | none =>
      let (id, s1) := s.startRead l cls (.host h i ns lba)
      s1.putSlot h i (.wait id)
  | .mapped l, .spec ns _ _ =>
    match s.map.gen (d / 512) with
    | some g => (s.startRead l cls (.spec ns d g)).2
    | none => s
  | .mapped l, _ => (s.startRead l cls n).2
  | .unmapped, _ => s.answer n Sector.zero
  | .damaged, _ => s.lose n .unrecovered

/-- Look a sector up and read it: a map page that only flash holds is read first, once for all who wait for it (R28 step 2). -/
def State.readSector (s : State) (d cls : Nat) (n : Need) : State :=
  let at_ := s.pageAt 0 (d / 512)
  let s1 := s.lookup d
  match at_ with
  | .flash l =>
    let s2 : State := { s1 with map := { s1.map with waiters := s1.map.waiters ++ [(d, n)] } }
    if s2.cdc.rds.any fun r => r.need == .mapRead (d / 512) then s2 else (s2.startRead l cls (.mapRead (d / 512))).2
  | _ => s1.fetchSector d cls n

/-- What waits for a leaf page goes on. -/
def State.pageCame (s : State) (page : Nat) (go : State → Nat × Need → State) : State :=
  let mine := s.map.waiters.filter fun w => w.1 / 512 == page
  mine.foldl go { s with map := { s.map with waiters := s.map.waiters.filter fun w => w.1 / 512 != page } }

/-- The class a need's reads are served in (R153). -/
def Need.cls : Need → Nat
  | .spec _ _ _ => 4
  | .reloc _ | .verify _ | .mapMove _ => 5
  | _ => 1

/-! ## What a decode finds (R222, R223, R226, R228) -/

inductive Found where
  | pass (c : Cw)
  /-- the decoder converged and a CRC, or the name, did not match -/
  | wrong
  | fail
  /-- the codeword needs a key slot that is empty, or no XTS lane serves -/
  | noKey
  deriving DecidableEq, Repr

/-- All four XTS lanes are out of service. -/
def State.xtsOut (s : State) : Bool := s.rf .cdcLaneStat 26 4 == 15

/-- The key slot of a codeword: its namespace's for user data, the metadata slot for kinds 1, 2 and 5, none for the others. -/
def Cw.slot (c : Cw) : Option (Fin 9) :=
  match c.kind with
  | 0 => some (Fin.ofNat 9 (c.ns % 8))
  | 1 | 2 | 5 => some 8
  | _ => none

/-- Whether a codeword names what its read expects (R223): the LBA, namespace and kind of a sector, or the map page. -/
def State.names (s : State) (c : Cw) (n : Need) : Bool :=
  match n with
  | .host _ _ ns lba | .merge _ ns lba => c.kind == 0 && c.ns == ns.val && c.lba == lba
  | .spec ns d _ => c.kind == 0 && c.ns == ns.val && s.cwSector c == some d
  | .reloc id => c.kind == 0 && ((s.map.relocs.find? fun x => x.id == id).all fun x => s.cwSector c == some x.dsec)
  | .mapRead p | .mapMove p => c.kind == 1 && c.lba == p
  | _ => true

/-- A decode that converged, taken through the header checks (R213), decryption and the data CRC. -/
def State.check (s : State) (r : Rd) (d : DecodeResult) : Found :=
  match Store.find s.media.cws r.loc.key with
  | none => .fail
  | some c =>
    if !headerNames c.header then .wrong else
    match c.slot with
    | none => if d.crcOk && d.nameOk && s.names c r.need then .pass c else .wrong
    | some k =>
      if !(d.nameOk && s.names c r.need) then .wrong
      else if (s.cdc.keys.get k).isNone || s.xtsOut then .noKey
      else if d.crcOk && (c.key.isNone || s.cdc.keys.get k == c.key) then .pass c
      else .wrong

/-- An XTS lane whose output fails its self-check goes out of service, and trouble bit 20 is set (R228). -/
def State.xtsCheck (s : State) : Option (Fin 4) → State
  | none => s
  | some n => (s.raise 20).setReg .cdcLaneStat (s.reg .cdcLaneStat ||| BitVec.ofNat 32 (2 ^ (26 + n.val)))

/-- A hard decode: it converges up to 295 bit errors, and above them only to something wrong (R220, R223). -/
def State.hardFinds (s : State) (r : Rd) (d : DecodeResult) : Found :=
  if d.raw ≤ 295 then s.check r d else if d.converged then .wrong else .fail

/-- A soft decode or a rebuild. -/
def State.softFinds (s : State) (r : Rd) (d : DecodeResult) : Found := if d.converged then s.check r d else .fail

/-- Count in a wrapping counter of the Codec, and in the 64-bit count of log page C0h that firmware folds it into (R78). -/
def State.cdcCount (s : State) (r : Reg) (lo n : Nat) (key : String) (k : Nat := 1) : State := (s.bumpWrap r lo n k).stat key k

/-! ## Outcomes (R225, R237, R238) -/

/-- The threshold of R225: `map.err_refresh_pct` of 295, rounded up. -/
def State.rewriteBits (s : State) : Nat := ceilDiv (295 * s.settings.mapErrRefreshPct) 100

/-- The effort of a codeword that passed at a hard step, as Map and Assay engine have it: at STEP 4 or above, or at the threshold, its block is
scheduled with cause 2; above STEP 0, or at half the threshold, its group is to be searched, but a pSLC block has no tracked offsets (R225, R261). -/
def State.effort (s : State) (k step raw : Nat) : State :=
  let s1 := if step ≥ 4 ∨ (step = 0 ∧ raw ≥ s.rewriteBits) then s.refreshWant k 2 else s
  if (s.blk k).pslc = false ∧ (step ≥ 1 ∨ 2 * raw ≥ s.rewriteBits) then s1.searchPend k else s1

/-- A codeword that needed heavy correction: its block is scheduled with cause 5 and earns a strike (R329, R330). -/
def State.heavy (s : State) (k : Nat) : State := (s.setBlk k fun b => { b with heavy := true }).refreshWant k 5

/-- The effort of a codeword that passed by a soft decode: it passed above STEP 0 too (R225, R261). -/
def State.softEffort (s : State) (k : Nat) : State := let t := s.heavy k; if (s.blk k).pslc then t else t.searchPend k

/-- Hand a codeword to what it was read for.  Data that fails Front's check as it leaves the Keeper is read once more from the start; a
second failure ends the sector (R230).  A relocation's codeword goes on to the encoder as it is (R214). -/
def State.deliver (s : State) (r : Rd) (c : Cw) (outOk : Bool) : State :=
  match r.need with
  | .host h i _ _ =>
    if outOk then s.answer r.need c.data
    else if r.restarted then s.miscorrect.lose r.need .unrecovered
    else s.readAgain r.loc 1 r.need h i
  | .spec ns d gen =>
    let keep (x : ReadAhead) : ReadAhead :=
      if x.ns = ns ∧ s.map.gen (d / 512) = some gen then
        { x with held := x.held ++ [(d, c.data, gen)], spoilt := (x.spoilt.filter (· != d)) ++ (if outOk then [] else [d]) } else x
    { s with front := { s.front with ra := s.front.ra.map keep } }
  | .reloc id =>
    match s.map.relocs.find? fun x => x.id == id with
    | some x => (s.setReloc id fun y => { y with ready := true }).pushEnc { id, cw := c, loc := x.dst, alloc := none, encoded := false }
    | none => s
  | .mapRead p => (s.touch 0 p false).pageCame p fun t w => t.fetchSector w.1 w.2.cls w.2
  | .mapMove p => if s.dirtyCount < 768 then s.touch (p / 2 ^ 38) (p % 2 ^ 38) true else s
  | n => s.answer n c.data

/-- A read that passed at a hard step: it is counted, its effort is reported, and its data is delivered. -/
def State.hardPass (s : State) (r : Rd) (step raw : Nat) (c : Cw) (outOk : Bool) : State :=
  (((s.cdcCount .cdcHardBits 0 32 "bits" raw).effort r.loc.blk step raw).endRead r).deliver r c outOk

/-- A relocation read of a sector ended uncorrectable: the sector is to be tried again, and with the third failure its entry is damaged (R337). -/
def State.retryNote (s : State) (d k : Nat) : State :=
  match s.map.retries.find? fun r => r.dsec == d with
  | none => { s with map := { s.map with retries := s.map.retries ++ [⟨d, k, 1⟩] } }
  | some r =>
    if r.tries < 2 then
      { s with map := { s.map with retries := s.map.retries.map fun (x : RetrySec) => if x.dsec = d then { x with tries := x.tries + 1 } else x } }
    else
      let s1 : State := State.raise { s with map := { s.map with retries := s.map.retries.filter fun (x : RetrySec) => x.dsec != d } } 17
      let s2 := match s1.entry d with
        | .mapped l => if l.blk = k then s1.remap d .damaged else s1
        | _ => s1
      { s2 with front := { s2.front with smart := { s2.front.smart with mediaErrors := s2.front.smart.mediaErrors + 1 } } }

/-- A codeword that ends uncorrectable is counted, recorded and reported (R238, R247, R251). -/
def State.uncNote (s : State) (l : Loc) : State :=
  ((((s.cdcCount .cdcUncorrCnt 0 32 "uncorr").setReg .cdcLastUnc (BitVec.ofNat 32
    (l.chamber.val + 128 + 256 * l.cw.val + 4096 * l.page))).setReg .cdcLastUncBlk (BitVec.ofNat 32 l.block)).raise 17).heavy l.blk

/-- A codeword that ends uncorrectable: noted, and its need told. -/
def State.uncorrectable (s : State) (r : Rd) : State :=
  let l := r.loc
  let s2 := (s.uncNote l).endRead r
  match r.need with
  | .host _ _ _ _ => (s2.stat "uncorrectable").lose r.need .unrecovered
  | .reloc id =>
    let d := ((s.map.relocs.find? fun x => x.id == id).map (·.dsec)).getD 0
    ((s2.searchPend l.blk).dropReloc id).retryNote d l.blk
  | .mapRead p => s2.pageCame p fun t w => t.lose w.2 .unrecovered
  | n => s2.lose n .unrecovered

/-- Reads whose data nobody wants any more are abandoned: one that waits leaves its queue; one under way in a die ends at its decode, silently
(R224, R227). -/
def State.abandon (s : State) (p : Rd → Bool) : State :=
  (s.cdc.rds.filter p).foldl (fun t r =>
    if t.reading r then t.setRd r.id fun x => { x with need := .none, only0 := true, stage := .hard 0, softLane := none }
    else t.endRead r) s

/-- The last steps of the order: rebuild while the stripe parity is held, else uncorrectable. -/
def State.toRebuild (s : State) (r : Rd) : State :=
  if s.parityHeld r.loc then
    State.softTick ((s.setRd r.id fun x => { x with stage := .rebuild, softLane := none }).dropOp (galOf r.loc.chamber) r.id)
  else (s.bumpWrap .cdcRebuildCnt 16 16 1).uncorrectable r

/-- The next read of a codeword: a recovery read of class 2 at a retry row, in a soft stage with a place in a soft lane's queue. -/
def State.reread (s : State) (r : Rd) (st : RdStage) (row : Nat) : State :=
  State.softTick ((s.setRd r.id fun x => { x with stage := st }).setOp (galOf r.loc.chamber) r.id fun o =>
    { o with running := false, ready := false, retried := false, cls := if o.cls = 1 then 2 else o.cls, step := row })

/-- A hard step failed: the ladder, the soft stages, the rebuild (R222); a speculative read ends silently (R224). -/
def State.hardFail (s : State) (r : Rd) (step : Nat) : State :=
  let m := s.retryRows r.loc
  if r.only0 then s.endRead r
  else if step < ladderRows m then
    (if step = 0 then s.cdcCount .cdcRetryCnt 0 32 "retry" else s).reread r (.hard (step + 1)) (step + 1)
  else if s.rf .cdcCtl 0 1 = 1 ∧ m ≥ 5 then s.reread r .soft1 (m - 3)
  else s.toRebuild r

/-- A crypto fault: the command affected fails with Internal Error and trouble bit 20 is set (R228); of a speculative read nothing is said. -/
def State.cryptoFault (s : State) (r : Rd) : State :=
  let s1 := (if r.only0 then s else s.raise 20).endRead r
  match r.need with
  | .reloc id => s1.dropReloc id
  | .mapRead p => s1.pageCame p fun t w => t.lose w.2 .internal
  | n => s1.lose n .internal

/-- Run what is left of an operation's list: the die answers each status read of its chamber with a status (R154, R178). -/
def State.finishOp (s : State) (g : Fin 8) (o : GOp) (a : DieAnswer) : State :=
  if o.outcome.isSome then s else s.runTo g (ctxNo o.ctx) a fun _ _ => false

/-- The outcome of an operation's list. -/
def State.opOut (s : State) (g : Fin 8) (id : Nat) : Option Outc := ((s.op? g id).bind (·.outcome)).map (·.1)

/-- The running list of a read ends: the array is ready and the codeword goes to the Codec. -/
def State.readDone (s : State) (r : Rd) : State :=
  let g := galOf r.loc.chamber
  match s.op? g r.id with
  | some o => s.finishOp g o { status := ready }
  | none => s

/-- Its list brought the codeword (R178): an outcome other than ok is a failed step. -/
def State.readOk (s : State) (r : Rd) : Bool := s.opOut (galOf r.loc.chamber) r.id == some .ok

/-- One more read of the codeword at a row, in the same context (R222's soft stages read two rows each). -/
def State.readRow (s : State) (r : Rd) (row : Nat) : State :=
  let g := galOf r.loc.chamber
  match s.op? g r.id with
  | none => s
  | some o =>
    let o1 : GOp := { o with step := row, outcome := none }
    let t := ((s.setOp g r.id fun _ => o1).startCtx g o1 o1.slot o.ctx).countRead r.loc.blk 1
    t.readDone r

/-- HARD_DECODE (R220, R222, R223, R225): the hard decode of the codeword a running read delivered. -/
def execHardDecode (id : Nat) (r : DecodeResult) (s : State) : Host.Outcome State Fault Refusal :=
  .next (match s.rd? id with
    | none => s
    | some x =>
      match x.hardStep with
      | none => s
      | some step =>
        if !s.reading x then s else
        let s0 := (s.readDone x).xtsCheck r.xtsFault
        if !s0.readOk x then s0.hardFail x step else
        let s1 := s0.cdcCount .cdcHardCnt 0 32 "hard"
        match s0.hardFinds x r with
        | .pass c => s1.hardPass x step r.raw c r.outOk
        | .wrong => (if x.only0 then s1 else s1.miscorrect).hardFail x step
        | .fail => s1.hardFail x step
        | .noKey => s1.cryptoFault x)

/-- A soft stage failed: stage 2, or the last steps. -/
def State.softFail (s : State) (r : Rd) : State :=
  if r.stage = .soft1 then s.reread r .soft2 (s.retryRows r.loc - 1) else s.toRebuild r

/-- The second row of a soft stage: m − 2 for stage 1, m for stage 2. -/
def State.softRow2 (s : State) (r : Rd) : Nat := if r.stage = .soft1 then s.retryRows r.loc - 2 else s.retryRows r.loc

/-- The half of CDC_SOFT_CNT that counts a stage. -/
def Rd.softHalf (r : Rd) : Nat := if r.stage = .soft1 then 0 else 16

/-- SOFT_DECODE (R219, R222): a soft stage of a running read on the lane whose queue it is in, after its second row has been read. -/
def execSoftDecode (id : Nat) (lane : Fin 2) (r : DecodeResult) (s : State) : Host.Outcome State Fault Refusal :=
  .next (match s.rd? id with
    | none => s
    | some x =>
      if x.soft && x.softLane == some lane && s.reading x then
        let s0 := (s.readDone x).xtsCheck r.xtsFault
        if !s0.readOk x then s0.softFail x else
        let s1 := s0.readRow x (s.softRow2 x)
        if !s1.readOk x then s1.softFail x else
        let s2 := s1.cdcCount .cdcSoftCnt x.softHalf 16 "soft"
        match s1.softFinds x r with
        | .pass c => (((s2.raise 16).softEffort x.loc.blk).endRead x).deliver x c r.outOk
        | .wrong => s2.miscorrect.softFail x
        | .fail => s2.softFail x
        | .noKey => s2.cryptoFault x
      else s)

/-- SOFT_DECODE_TIMEOUT (R239): a soft decode still running at 400 µs is abandoned; the order continues. -/
def execSoftDecodeTimeout (id : Nat) (s : State) : Host.Outcome State Fault Refusal :=
  .next (match s.rd? id with
    | none => s
    | some x =>
      if x.soft && x.softLane.isSome && s.reading x then
        let s0 := (s.readDone x).readRow x (s.softRow2 x)
        (((s0.cdcCount .cdcSoftCnt x.softHalf 16 "soft").bump .cdcLaneTmo 8 8 1).raise 21).softFail x
      else s)

/-- The blocks a rebuild reads: every other member with a page at the position, and the parity page once it stands in flash (R237). -/
def State.rebuildReads (s : State) (l : Loc) : List Nat :=
  match s.groupAt l.blk l.page with
  | none => []
  | some g =>
    let par := (s.parityAt g l.page).toList.filter fun x => decide ((s.blk x.1).next > x.2)
    g.othersAt l.blk l.page ++ par.map (·.1)

/-- One source of a rebuild is read and decoded as R222 has it, without a rebuild of its own; one that passes reports its effort (R225, R237, R242 to
R245). -/
def State.sourceRead (s : State) (k : Nat) (e : SourceRead) (passed : Bool) : State :=
  let rows := ladderRows (((s.prof (chOfBlk k)).map (·.retry.length)).getD 0)
  let step := if passed && e.soft == 0 then min e.step rows else rows
  let soft := if passed then min e.soft 2 else if s.rf .cdcCtl 0 1 = 1 ∧ rows + 4 ≤ ((s.prof (chOfBlk k)).map (·.retry.length)).getD 0 then 2 else 0
  let s1 := (s.countRead k (1 + step + 2 * soft)).cdcCount .cdcHardCnt 0 32 "hard" (1 + step)
  let s2 := if step > 0 ∨ soft > 0 then s1.cdcCount .cdcRetryCnt 0 32 "retry" else s1
  let s3 := if soft ≥ 1 then s2.cdcCount .cdcSoftCnt 0 16 "soft" else s2
  let s4 := if soft ≥ 2 then s3.cdcCount .cdcSoftCnt 16 16 "soft" else s3
  if !passed then s4
  else if soft = 0 then (s4.cdcCount .cdcHardBits 0 32 "bits" e.raw).effort k step e.raw
  else (s4.raise 16).softEffort k

/-- The sources of a rebuild, in order. -/
def State.sourceReads (s : State) (l : Loc) (f : SourceRun) : State :=
  ((s.rebuildReads l).zipIdx).foldl (fun t x => t.sourceRead x.1 (f.reads.getD x.2 {}) (f.fail.all fun y => y.blk != x.1)) s

/-- STRIPE_REBUILD (R237): the XOR of the other live members and the parity page; one source that does not read, or parity released
meanwhile, ends it uncorrectable.  A hard lane checks what they give, which counts as a decode. -/
def execStripeRebuild (id : Nat) (f : SourceRun) (r : DecodeResult) (s : State) : Host.Outcome State Fault Refusal :=
  .next (match s.rd? id with
    | none => s
    | some x =>
      if x.stage ≠ .rebuild then s
      else
        if !s.parityHeld x.loc then (s.bumpWrap .cdcRebuildCnt 16 16 1).uncorrectable x
        else
        let s0 := s.sourceReads x.loc f
        match f.fail with
          | some l => ((s0.bumpWrap .cdcRebuildCnt 16 16 1).refreshWant l.blk 5).uncorrectable x
          | none =>
            let s1 := (s0.xtsCheck r.xtsFault).cdcCount .cdcHardCnt 0 32 "hard"
            match s1.softFinds x r with
            | .pass c => ((((s1.cdcCount .cdcRebuildCnt 0 16 "rebuild").raise 18).heavy x.loc.blk).endRead x).deliver x c r.outOk
            | .noKey => s1.cryptoFault x
            | .wrong => (s1.miscorrect.bumpWrap .cdcRebuildCnt 16 16 1).uncorrectable x
            | .fail => (s1.bumpWrap .cdcRebuildCnt 16 16 1).uncorrectable x)

/-! ## Encode (R221, R228, R229) -/

/-- The write of an allocation fails with a status: its command ends so, its sector leaves staging, its place becomes a pad. -/
def State.allocFail (s : State) (a : Alloc) (st : NStat) : State :=
  let h := (s.front.staging.find? fun x => x.id == a.staged).bind (·.hdr)
  let s1 := { s with
    cdc := { s.cdc with enc := s.cdc.enc.filter fun e => e.id != a.id }
    map := { s.map with allocs := s.map.allocs.filter fun x => x.id != a.id }
    front := { s.front with staging := s.front.staging.filter fun x => x.id != a.staged } }
  match h with
  | some h => (s1.ctxFail h st (some a.lba)).committed h
  | none => s1

/-- The key slot a codeword is encrypted under as it is written: a relocation writes its original ciphertext (R214, R226). -/
def State.encSlot (e : Enc) : Option (Fin 9) := if e.cw.kind = 0 ∧ e.alloc.isNone then none else e.cw.slot

/-- An encoder's codeword with a non-zero syndrome: bit 21, its lane goes out of service, and the neighbour encodes it again (R221). -/
def State.syndrome (s : State) (g : Nat) : State :=
  ((s.raise 21).bump .cdcLaneTmo 16 8 1).setReg .cdcLaneStat (s.reg .cdcLaneStat ||| BitVec.ofNat 32 (2 ^ (16 + g)))

/-- A codeword has left the encoder; it is added to its position's parity accumulator (R23 step 3, R232). -/
def State.encoded (s : State) (e : Enc) (syndromeBad : Bool) : State :=
  let s1 := if syndromeBad then s.syndrome (s.encLane e).val else s
  State.accJoin { s1 with cdc := { s1.cdc with enc := s1.cdc.enc.map fun x => if x.id = e.id then { x with encoded := true } else x } }
    e.loc.blk e.loc.page

/-- ENCODE (R221, R226 to R229): the Codec checks a host sector's CRC, encrypts what is encrypted, and encodes a codeword once its position
has an accumulator. -/
def execEncode (id : Nat) (r : EncodeRun) (crcBad : Bool) (s0 : State) : Host.Outcome State Fault Refusal :=
  .next (match s0.cdc.enc.find? fun e => e.id == id with
    | none => s0
    | some e =>
      if e.encoded || !s0.accRoom e.loc.blk e.loc.page 1 then s0
      else
      let s := s0.xtsCheck r.xtsFault
      let a? := s.map.allocs.find? fun a => e.alloc == some a.id
      let noKey := match State.encSlot e with
        | some k => (s.cdc.keys.get k).isNone || s.xtsOut
        | none => false
      match a? with
        | none => if noKey then s.raise 20 else s.encoded e r.syndrome
        | some a =>
          if noKey then (s.raise 20).allocFail a .internal
          else
            let s1 := if crcBad then (s.bumpWrap .cdcCrcCnt 16 16 1).raise 19 else s
            let cached := ((s.front.staging.find? fun x => x.id == a.staged).map (·.cached)).getD false
            if crcBad ∧ !cached then
              -- removal-safe: Front fetches the sector again; a second mismatch fails the command
              if e.tries = 0 then { s1 with cdc := { s1.cdc with enc := s1.cdc.enc.map fun x => if x.id = id then { x with tries := 1 } else x } }
              else s1.allocFail a ⟨0, 0x04, false⟩
            else
              let s2 := if crcBad then s1.setAlloc a.id fun x => { x with damaged := true } else s1
              s2.encoded e r.syndrome)

/-! ## Lane timeouts (R239) -/

/-- The codewords in a hard lane return to their requesters, which send them to its neighbour (R219, R239). -/
def State.hardMove (s : State) (h : Fin 8) : State :=
  { s with cdc := { s.cdc with
      rds := s.cdc.rds.map fun r => if s.rdLane r = h then { r with lane := some (h + 1) } else r
      enc := s.cdc.enc.map fun e => if !e.encoded && s.encLane e == h then { e with lane := some (h + 1) } else e } }

/-- HARD_LANE_TIMEOUT (R239): a hard lane with work and no progress for 400 µs is quiesced, its codewords sent again to its neighbour; it is
reset at level 4 and returns to service. -/
def execHardLaneTimeout (h : Fin 8) (s : State) : Host.Outcome State Fault Refusal :=
  .next (if s.laneBusy h then ((((s.raise 21).bump .cdcLaneTmo 0 8 1).hardMove h).laneIn (16 + h.val)).recordSelf else s)

/-- The codewords of a soft lane go to the other one where that is in service and has room, else they wait for this one again. -/
def State.softMove (s : State) (n : Fin 2) : State :=
  let m : Fin 2 := n + 1
  (s.cdc.rds.filter fun r => r.softLane == some n).foldl (fun t r =>
    if !(t.reg .cdcLaneStat).getLsbD (24 + m.val) && decide (t.softLoad m < 32) then t.setRd r.id fun x => { x with softLane := some m } else t) s

/-- SOFT_LANE_TIMEOUT (R239): the same recovery of a soft lane whose queue makes no progress. -/
def execSoftLaneTimeout (n : Fin 2) (s : State) : Host.Outcome State Fault Refusal :=
  .next (if s.softLoad n > 0 then ((((s.raise 21).bump .cdcLaneTmo 8 8 1).softMove n).laneIn (24 + n.val)).recordSelf else s)

end Sys2Proof.Machine
end

