-- ==== Sys2Proof/Machine/Vault.lean ====
section
/-! DEFINITION. The vault (chapter 18): keys as numbers (log entry 8), the lock states and messages, the alarm sensors, their
fused actions and the alarm log. -/

namespace Sys2Proof.Machine

/-! ## Keys (R521, R524, R526) -/

/-- The vault loads the Codec's key slots: each present media key while the latch holds the KEK; slot 8 always. -/
def State.loadKeys (s : State) : State :=
  { s with cdc := { s.cdc with keys := Vector.ofFn fun i : Fin 9 =>
      if h : i.val < 8 then (if s.vault.kek then s.vault.media.get ⟨i.val, h⟩ else none) else some 0 } }

/-- Slots 0 to 7 and the latch are cleared. -/
def State.clearKeys (s : State) : State :=
  { s with
    vault := { s.vault with kek := false }
    cdc := { s.cdc with keys := Vector.ofFn fun i : Fin 9 => if i.val < 8 then none else s.cdc.keys.get i } }

/-- A new media key for a namespace, in the key array and, while the latch holds the KEK, in its slot. -/
def State.newKey (s : State) (n : Fin 8) : State :=
  State.loadKeys { s with vault := { s.vault with
      media := setAt s.vault.media n (some s.vault.nextKey), nextKey := s.vault.nextKey + 1 } }

/-- A namespace's media key is destroyed. -/
def State.dropKey (s : State) (n : Fin 8) : State :=
  State.loadKeys { s with vault := { s.vault with media := setAt s.vault.media n none } }

/-! ## Alarms (R532 to R538) -/

/-- The action FUSE_ALARM gives sensor `k` of 0 to 4 (R533): 0 log, 1 lock, 2 zeroize. -/
def Fuses.action (f : Fuses) (k : Nat) : Nat :=
  match (f.alarm.toNat >>> (2 * k)) % 4 with
  | 0 => 0
  | 1 => 1
  | _ => 2

/-- Latch an alarm record; a fifth overwrites the oldest, and the record after it is marked (R538). -/
def Vault.latch (v : Vault) (r : AlarmRec) : Vault :=
  let v1 := { v with last := BitVec.ofNat 32 (r.source + 256 * r.action + 1024 * r.origin + 4096 * b2n r.tether) }
  match v.latched with
  | _ :: b :: c :: d :: _ => { v1 with latched := [{ b with lostBefore := true }, c, d, r], lost := true }
  | l => { v1 with latched := l ++ [r] }

/-- An unlock in progress loses to an alarm (R539). -/
def Vault.cancel (v : Vault) : Vault :=
  match v.checks with
  | (.unlock _, _) :: _ | (.unlockLine _ _, _) :: _ => { v with cancelled := true }
  | _ => v

/-- Send an alarm on every port that is up but one (R404). -/
def State.floodAlarm (s : State) (origin bit : Nat) (secs : Word) (except_ : Option Port) : State :=
  let f : Frame := { type := 6, dst := dev origin, src := dev origin, seq := 0, tag := 0, index := 0, body := .alarm origin bit secs }
  let one (t : State) (p : Port) : State :=
    if (t.teth.get p).st == .up && except_ != some p then { t with teth := t.teth.port p fun q => q.send f } else t
  one (one s .tu) .td

/-- The alarm lock: with a password set, slots and latch clear at once, without the drain of R527. -/
def State.alarmLock (s : State) : State :=
  if s.vault.password.isSome then
    let s1 := s.clearKeys
    { s1 with vault := { s1.vault.cancel with lock := .locked } }
  else s

/-- A Format, Sanitize or namespace create. -/
def mediaAdmin : Option Instr → Bool
  | some (.formatNvm _ _ _ _) | some (.sanitizeCryptoErase _) | some (.sanitizeBlockErase _) | some (.namespaceCreate _ _ _) => true
  | _ => false

/-- A Format, Sanitize or namespace create that a zeroize meets completes with Internal Error (R539). -/
def State.zeroizeMeets (s : State) : State :=
  (s.front.ctxs.filter fun c => mediaAdmin c.cmd).foldl (fun (t : State) (c : Ctx) => t.done c.hdr .internal) s

/-- A zeroize (R535): the pending word, slots and latch, the key array with its new salt and raised count, trouble bit 61, and
a reset from source 10. -/
def State.zeroize (s : State) : State :=
  let s1 := s.zeroizeMeets.clearKeys
  let s2 := { s1 with vault := { s1.vault.cancel with
      password := none, media := Vector.replicate 8 none, fails := 0
      zeroizes := satAdd 16 s1.vault.zeroizes 1, zeroizePending := false
      zeroized := true, zeroizeUnread := true, lock := .isOpen, kek := true } }
  (s2.raise 61).requestFused 10

/-- Take a fused action. -/
def State.alarmAct (s : State) (a : Nat) : State :=
  match a with
  | 1 => s.alarmLock
  | 2 => s.zeroize
  | _ => s

/-- What an action is recorded as: a lock with no password set is recorded as not possible. -/
def State.actionCode (s : State) (a : Nat) : Nat := if a = 1 ∧ s.vault.password = none then 3 else a

/-- A sensor fires: trouble bit, record, Tether, then its action (R532, R534). -/
def State.alarm (s : State) (k : Nat) (detail : Nat) : State :=
  let a := s.sys.fuses.action k
  let s1 := s.raise (56 + k)
  let r : AlarmRec := { source := 56 + k, origin := s.index, action := s.actionCode a, tether := false, lostBefore := false,
                        secs := s.sys.life, detail }
  let s2 := { s1 with vault := s1.vault.latch r }
  (s2.floodAlarm s.index (56 + k) (BitVec.ofNat 32 s.sys.life) none).alarmAct a

/-- An alarm received over Tether (R537): forwarded to the other port, its trouble bit set, logged with its origin, and acted
on as this device's own fuses give. -/
def State.alarmIn (s : State) (p : Port) (origin : Fin 4) (bit : Nat) (secs : Word) : State :=
  let a := if bit ≤ 60 then s.sys.fuses.action (bit - 56) else 0
  let s0 := s.floodAlarm origin.val bit secs (some p)
  let s1 := s0.raise bit
  let r : AlarmRec := { source := bit, origin := origin.val, action := s.actionCode a, tether := true, lostBefore := false,
                        secs := s.sys.life, detail := 0 }
  State.alarmAct { s1 with vault := s1.vault.latch r } a

/-- A sensor's condition now (R541). -/
def State.sense (s : State) (k : Nat) (on : Bool) : State :=
  { s with vault := { s.vault with now :=
      if on then s.vault.now ||| (1#5 <<< k) else s.vault.now &&& ~~~(1#5 <<< k) } }

/-- SUPPLY_ALARM (R532): VDDC below 0.65 V or above 0.85 V. -/
def execSupplyAlarm (mv : Nat) (s : State) : Host.Outcome State Fault Refusal :=
  let bad := decide (mv < 650 ∨ mv > 850)
  let s1 := s.sense 0 bad
  .next (if bad && s.glitchArmed then s1.alarm 0 mv else s1)

/-- CLOCK_ALARM (R532): CCLK outside 600 to 1000 MHz. -/
def execClockAlarm (mhz : Nat) (s : State) : Host.Outcome State Fault Refusal :=
  let bad := decide (mhz < 600 ∨ mhz > 1000)
  let s1 := s.sense 1 bad
  .next (if bad && s.glitchArmed then s1.alarm 1 mhz else s1)

/-- The detail of a temperature alarm: signed °C in 32 bits. -/
def tempDetail (c : Int) : Nat := (BitVec.ofInt 32 c).toNat

/-- TEMPERATURE_ALARM (R532): a sample below −40 °C or above 130 °C fires when the one before it was outside too. -/
def execTemperatureAlarm (c : Int) (s : State) : Host.Outcome State Fault Refusal :=
  let bad := decide (c < -40 ∨ c > 130)
  let n := if bad then s.assay.odd + 1 else 0
  let s1 := { s.sense 2 bad with assay := { s.assay with odd := n } }
  .next (if n ≥ 2 then s1.alarm 2 (tempDetail c) else s1)

/-- GLITCH_ALARM (R532): the duplicated logic disagrees, or a light or voltage detector trips. -/
def execGlitchAlarm (s : State) : Host.Outcome State Fault Refusal :=
  .next (if s.glitchArmed then s.alarm 3 0 else s)

/-- UNLOCK_FAILURE_ALARM (R532): the failed-unlock count has reached 10; it goes back to 0. -/
def execUnlockFailureAlarm (s : State) : Host.Outcome State Fault Refusal :=
  .next (if s.vault.fails ≥ 10 then State.alarm { s with vault := { s.vault with fails := 0 } } 4 0 else s)

/-- ALARM_LOG_PROGRAM (R538): the oldest latched record is programmed in PS0 to PS3 and only then cleared. -/
def execAlarmLogProgram (good : Bool) (s : State) : Host.Outcome State Fault Refusal :=
  .next (match s.vault.latched with
    | [] => s
    | r :: rest =>
      if s.inReset ∨ s.sys.ps.val = 4 then s
      else if good then { s with bst := s.bst.alarmAdd r, vault := { s.vault with latched := rest } }
      else s.bump .bstErrCnt 0 16 1)

/-! ## The lock (R525 to R529) -/

/-- Nothing a lock waits for is left: no I/O command at the device, no staging, no Secure Deallocate (R527, R539). -/
def State.lockDrained (s : State) : Bool :=
  s.front.ctxs.all (fun c => c.hdr.sqid == 0) && s.front.staging.isEmpty && s.map.secure.isNone

/-- The lock takes effect: slots and latch clear, and user data is withheld. -/
def State.lockNow (s : State) : State :=
  let s1 := s.clearKeys
  { s1 with vault := { s1.vault with lock := .locked } }

/-- A waiting lock is carried out once everything has drained. -/
def State.lockTry (s : State) : State :=
  match s.vault.lockWait with
  | none => s
  | some w =>
    if s.lockDrained then
      let s1 := { s with vault := { s.vault with lockWait := none } }
      match w with
      | .host h => s1.lockNow.good h
      | .line l j new =>
        let s2 := match new with
          | some p => { s1 with vault := { s1.vault with password := some p } }
          | none => s1
        State.finishLine { s2.lockNow with con := { s2.lockNow.con with running := none } } l j [] (ok [])
    else s

/-- Begin a password check; it ends with PASSWORD_CHECK_COMPLETE. -/
def State.beginCheck (s : State) (c : Check) (pw : List Byte) : State :=
  { s with vault := { s.vault with checks := s.vault.checks ++ [(c, pw)] } }

/-- The line a lock message is carried to subordinates as (R530): the console equivalent of R528. -/
def lockLine (w : Option (Check × List Byte)) : Option (List Byte) :=
  match w with
  | none => some (asc "lock data")
  | some (.unlock _, pw) => some (asc "unlock data password=" ++ pw)
  | some (.set _ (some new), []) => some (asc "lock data password=" ++ new)
  | _ => none

/-- Carry a lock message to every present subordinate, to be applied here last (R530); with none present it is applied at
once. -/
def State.fanOut (s : State) (h : Hdr) (w : Option (Check × List Byte)) (here : State → State) : State :=
  match lockLine w with
  | none => here s
  | some line =>
    if !s.isMaster || s.presentSubs.isEmpty then here s
    else
      let (s1, tags) := s.presentSubs.foldl (fun (t, l) k =>
        (State.tethSend { t with con := { t.con with nextTag := t.con.nextTag + 1 } } 4 k t.con.nextTag line.length 0 (.line line),
          l ++ [(t.con.nextTag, k)])) (s, ([] : List (BitVec 16 × Fin 4)))
      { s1 with vault := { s1.vault with fan := some { hdr := h, todo := w, waiting := tags } } }

/-- The failing status of an answer line, none where it is `ok`. -/
def answerStat (line : List Byte) : Option NStat :=
  if line.take 2 = asc "ok" then none
  else if line.take 12 = asc "err password" ∨ line.take 10 = asc "err locked" then some .denied
  else if line.take 9 = asc "err state" then some .sequence
  else if line.take 9 = asc "err range" then some .invalidField
  else some .internal

/-- Lock here: what LOCK does once its turn comes. -/
def State.hostLock (s : State) (h : Hdr) : State :=
  match s.vault.lock with
  | .isOpen => s.done h .sequence
  | .locked => s.good h
  | .unlocked => State.lockTry { s with vault := { s.vault with lockWait := some (.host h) } }

/-- A subordinate's answer to a fanned lock message; with the last one the message completes, failing with the first failing
device's status, or is applied here. -/
def State.fanAnswer (s : State) (tag : BitVec 16) (line : List Byte) : State :=
  match s.vault.fan with
  | none => s
  | some f =>
    match f.waiting.find? fun p => p.1 == tag with
    | none => s
    | some (_, k) =>
      let failed := match answerStat line, f.failed with
        | none, x => x
        | some st, none => some (k, st.sct, st.sc)
        | some st, some (k', a, b) => if k < k' then some (k, st.sct, st.sc) else some (k', a, b)
      let waiting := f.waiting.filter fun p => p.1 != tag
      if waiting.isEmpty then
        let s1 := { s with vault := { s.vault with fan := none } }
        match failed with
        | some (_, sct, sc) => s1.done f.hdr ⟨sct, sc, sc == 0x86⟩
        | none => match f.todo with
          | none => s1.hostLock f.hdr
          | some (c, pw) => s1.beginCheck c pw
      else { s with vault := { s.vault with fan := some { f with waiting, failed } } }

/-- A failed unlock counts (R527). -/
def Vault.failed (v : Vault) : Vault := { v with fails := v.fails + 1 }

/-- A matching password opens the data: the latch is filled, the slots are loaded, the count returns to 0. -/
def State.unlockNow (s : State) : State :=
  State.loadKeys { s with vault := { s.vault with kek := true, lock := .unlocked, fails := 0 } }

/-- The password of SET takes effect: set, changed or removed; the media keys are rewrapped, and stay readable. -/
def State.setPassword (s : State) (new : Option (List Byte)) : State :=
  State.loadKeys { s with vault := { s.vault with
      password := new, kek := true, lock := if new.isSome then .unlocked else .isOpen } }

/-- SECURITY_RECEIVE_PROTOCOLS (R528): SECP 00h lists protocols 00h and F0h. -/
def execSecurityReceiveProtocols (h : Hdr) (s : State) : Host.Outcome State Fault Refusal :=
  .next (s.host h (.securityReceiveProtocols h) fun t =>
    t.done h .success 0 (.bytes [0, 0, 0, 0, 0, 0, 0, 2, 0x00, 0xF0]))

/-- SET, after its length checks: with a new password while locked it is denied; while open it needs no old password. -/
def State.hostSet (s : State) (h : Hdr) (oldLen newLen : Nat) (old new : List Byte) : State :=
  let n : Option (List Byte) := if newLen = 0 then none else some (new.take newLen)
  if s.locked ∧ n.isSome then s.done h .denied
  else if s.vault.lock = .isOpen ∧ n = none then s.good h
  else
    let w := (Check.set h n, if s.vault.lock = .isOpen then [] else old.take oldLen)
    s.fanOut h (some w) fun t => t.beginCheck w.1 w.2

/-- SECURITY_SET (R528, R529). -/
def execSecuritySet (h : Hdr) (version tl oldLen newLen : Nat) (old new : List Byte) (s : State) :
    Host.Outcome State Fault Refusal :=
  .next (s.host h (.securitySet h version tl oldLen newLen old new) fun t =>
    if version ≠ 1 ∨ tl ≠ 72 ∨ oldLen > 32 ∨ newLen > 32 then t.done h .invalidField
    else t.hostSet h oldLen newLen old new)

/-- SECURITY_LOCK (R527 to R529). -/
def execSecurityLock (h : Hdr) (tl : Nat) (s : State) : Host.Outcome State Fault Refusal :=
  .next (s.host h (.securityLock h tl) fun t =>
    if tl ≠ 0 then t.done h .invalidField else t.fanOut h none fun u => u.hostLock h)

/-- SECURITY_UNLOCK (R527 to R529): while open or unlocked it is Successful with no effect, not checked and not counted. -/
def execSecurityUnlock (h : Hdr) (version tl len : Nat) (pw : List Byte) (s : State) : Host.Outcome State Fault Refusal :=
  .next (s.host h (.securityUnlock h version tl len pw) fun t =>
    if version ≠ 1 ∨ tl ≠ 36 ∨ len < 1 ∨ len > 32 then t.done h .invalidField
    else t.fanOut h (some (.unlock h, pw.take len)) fun u =>
      if u.locked then u.beginCheck (.unlock h) (pw.take len) else u.good h)

/-- The lock state's number (R528, R540). -/
def LockState.num : LockState → Nat
  | .isOpen => 0 | .unlocked => 1 | .locked => 2

/-- SECURITY_STATUS (R528): state, failed-unlock count and limit, zeroize flag and count; the flag clears when read. -/
def execSecurityStatus (h : Hdr) (s : State) : Host.Outcome State Fault Refusal :=
  .next (s.host h (.securityStatus h) fun t =>
    let d := [t.vault.lock.num, min 9 t.vault.fails, 10, b2n t.vault.zeroizeUnread] ++ leBytes 4 t.vault.zeroizes ++ List.replicate 8 0
    State.done { t with vault := { t.vault with zeroizeUnread := false } } h .success 0 (.bytes d))

/-- The check at the head of the vault's queue has run: it compares what was presented with the password. -/
def State.checkDone (s : State) : State :=
  match s.vault.checks with
  | [] => s
  | (c, pw) :: rest =>
    let s1 := { s with vault := { s.vault with checks := rest, cancelled := false } }
    let same := s.vault.password == some pw
    match c with
    | .unlock h =>
      if s.vault.cancelled then s1.done h .denied
      else if !s.locked then s1.good h
      else if same then s1.unlockNow.good h
      else State.done { s1 with vault := s1.vault.failed } h .denied
    | .unlockLine l j =>
      if s.vault.cancelled then s1.finishLine l j [] (err .locked [])
      else if !s.locked then s1.finishLine l j [] (ok [])
      else if same then s1.unlockNow.finishLine l j [] (ok [])
      else State.finishLine { s1 with vault := s1.vault.failed } l j [] (err .password [])
    | .set h new =>
      if s.vault.password.isNone || same then (s1.setPassword new).good h
      else State.done { s1 with vault := s1.vault.failed } h .denied

/-- PASSWORD_CHECK_COMPLETE (R521, R527). -/
def execPasswordCheckComplete (s : State) : Host.Outcome State Fault Refusal :=
  .next (let t := s.checkDone
    match s.vault.checks, s.con.running with
    | (.unlockLine _ _, _) :: _, some x => if x.job = .password then { t with con := { t.con with running := none } } else t
    | _, _ => t)

end Sys2Proof.Machine
end

