-- ==== Sys2Proof/Machine/Dealloc.lean ====
section
/-! DEFINITION. Deallocation and Secure Deallocate (R303 to R310, R360), and what waits on commits (R27, R527). -/

namespace Sys2Proof.Machine

/-- The engine serves: mounted and not held by a reset. -/
def State.mapUp (s : State) : Bool := s.map.mounted && !s.inReset

/-- The engine's background work runs: it pauses in PS3 and PS4 (R84). -/
def State.mapRuns (s : State) : Bool := s.mapUp && decide (s.sys.ps.val ≤ 2)

/-- Note a commit's number in a sector's record. -/
def State.pendNote (s : State) (d q : Nat) : State :=
  { s with map := { s.map with pendTable := s.map.pendTable.map fun p => if p.1 = d then (d, max p.2 q) else p } }

/-! ## Deallocation (R303, R304, R360) -/

/-- The mapped or damaged sectors of a range, and the sectors of it with an allocation outstanding. -/
def State.liveIn (s : State) (first count : Nat) : List Nat :=
  (s.map.entries.filter fun e => decide (first ≤ e.1 ∧ e.1 < first + count)).map (·.1)
def State.pendingIn (s : State) (first count : Nat) : List Nat :=
  ((s.map.allocs.filter fun a => decide (first ≤ a.dsec ∧ a.dsec < first + count)).map (·.dsec)).eraseDups

/-- Deallocate whole sectors of one directory range: one record, applied in one step as a commit of its number whose target is unmapped; the
generation of every extent it changes rises by 1 (R287); cached data of theirs still in staging goes too. -/
def State.deallocOne (s : State) (first count : Nat) : State :=
  let q := s.map.nextSeq
  let s1 := s.record (.dealloc first count)
  let inR (d : Nat) : Bool := decide (first ≤ d ∧ d < first + count)
  let ds := s1.liveIn first count
  let s2 := ((ds.map (· / 512)).eraseDups).foldl State.bumpExt (ds.foldl (fun t d => t.setEntry d .unmapped) s1)
  let s3 := (s2.pendingIn first count).foldl (fun (t : State) (d : Nat) =>
    if t.map.pendTable.any fun p => p.1 == d then t.pendNote d q
    else { t with map := { t.map with pendTable := t.map.pendTable ++ [(d, q)] } }) s2
  { s3 with front := { s3.front with staging := s3.front.staging.filter fun x => !(x.cached && x.alloc.isNone && inR x.dsec) } }

/-- The parts of a range by directory, of 262 144 sectors each. -/
def dirParts : Nat → Nat → Nat → List (Nat × Nat)
  | 0, _, _ => []
  | f + 1, first, count =>
    if count = 0 then []
    else
      let n := min count (262144 - first % 262144)
      (first, n) :: dirParts f (first + n) (count - n)

/-- A deallocation fits: at most 768 pages of the cache are dirty after it, and the pending table has its records (R286, R289). -/
def State.deallocFits (s : State) (first count : Nat) : Bool :=
  let new := (((s.liveIn first count).map (· / 512)).eraseDups).countP fun e => !(s.map.cache.any fun p => p.series == 0 && p.num == e && p.dirty)
  let recs := (s.pendingIn first count).countP fun d => !(s.map.pendTable.any fun p => p.1 == d)
  decide (s.dirtyCount + new ≤ 768 ∧ s.map.pendTable.length + recs ≤ 16384)

/-- Deallocations that wait run in their order as far as they fit; a command waits for the last record of its own to be durable in the journal
stream (R304). -/
def State.deallocRun (s : State) : List (Option Hdr × Nat × Nat) → State
  | [] => { s with map := { s.map with deallocs := [] } }
  | (h, first, count) :: rest =>
    if !s.deallocFits first count then { s with map := { s.map with deallocs := (h, first, count) :: rest } }
    else
      let t := s.deallocOne first count
      let u : State := match h with
        | some x => if rest.any fun y => y.1 == some x then t else { t with map := { t.map with jWait := t.map.jWait ++ [(t.map.nextSeq - 1, x)] } }
        | none => t
      u.deallocRun rest

/-- Deallocate ranges, after those that wait. -/
def State.deallocate (s : State) (h : Option Hdr) (ranges : List (Nat × Nat)) : State :=
  s.deallocRun (s.map.deallocs ++ (ranges.flatMap fun r => dirParts (r.2 / 262144 + 2) r.1 r.2).map fun x => (h, x.1, x.2))

/-! ## Secure Deallocate (R307 to R310) -/

/-- A sector a Secure Deallocate in progress covers. -/
def State.secured (s : State) (d : Nat) : Bool :=
  match s.map.secure with
  | some x => x.ranges.any fun r => decide (r.1 ≤ d ∧ d < r.1 + r.2)
  | none => false

/-- Change the Secure Deallocate in progress. -/
def State.setSecure (s : State) (f : SecDeal → SecDeal) : State := { s with map := { s.map with secure := s.map.secure.map f } }

/-- The parts a list falls into, `n` entries to a part; at least one part. -/
def partsOf {α : Type} (n : Nat) : Nat → List α → List (List α)
  | 0, l => [l]
  | f + 1, l => if l.length ≤ n then [l] else l.take n :: partsOf n f (l.drop n)

/-- The secure-range record, a part for every 15 ranges (R364). -/
def State.recordSecure (s : State) (s0 : Nat) (ranges : List (Nat × Nat)) : State :=
  let ps := partsOf 15 ranges.length ranges
  ps.zipIdx.foldl (fun t p => t.record (.secure s0 p.2 ps.length p.1)) s

/-- Once every covered sector is deallocated, write the secure-range record. -/
def State.secureRecord (s : State) : State :=
  match s.map.secure with
  | some x => if x.recorded || !s.map.deallocs.isEmpty then s else (s.recordSecure x.s0 x.ranges).setSecure fun y => { y with recorded := true }
  | none => s

/-- Begin: deallocate every covered sector. -/
def State.secureBegin (s : State) (h : Option Hdr) (ranges : List (Nat × Nat)) : State :=
  let x : SecDeal := { hdr := h, s0 := s.map.nextSeq, ranges, candidates := [], hits := [], phase := 1, resumed := false, recorded := false }
  State.secureRecord (State.deallocate { s with map := { s.map with secure := some x } } none ranges)

/-- A block whose summary may cover a device range (R305): a bound, and the filter bit of an extent of the range. -/
def Blk.mayHold (b : Blk) (r : Nat × Nat) : Bool :=
  let lo := max b.lowD r.1
  let hi := min b.highD (r.1 + r.2 - 1)
  decide (r.2 > 0 ∧ lo ≤ hi) &&
    (List.range (hi / 512 - lo / 512 + 1)).any fun i => b.filter.getLsbD (((lo / 512 + i) * 0x9E3779B9) % 2 ^ 32 / 2 ^ 26)

/-- A block holds a mapped sector that no read has brought, which is to be tried again: its header did not read after the full order (R222, R308,
R337). -/
def State.unreadIn (s : State) (k : Nat) : List Nat :=
  (s.map.retries.filter fun r => match s.entry r.dsec with | .mapped l => l.blk == k | _ => false).map (·.dsec)

/-- A candidate holds a hit: a covered codeword numbered below s₀, or a codeword whose header does not read. -/
def State.secureHit (s : State) (x : SecDeal) (k : Nat) : Bool :=
  (s.media.cws.any fun e => e.1 / (4 * 4096) == k && e.2.kind == 0 && decide (e.2.seq < x.s0) &&
    match s.cwSector e.2 with
    | some d => x.ranges.any fun r => decide (r.1 ≤ d ∧ d < r.1 + r.2)
    | none => false) ||
  s.media.interrupted.any (fun n => blkOfKey n == k) || s.media.interruptedBlks.contains k ||
  !(s.unreadIn k).isEmpty

/-- A rebuild reads pages of a group (R236). -/
def State.rebuildingIn (s : State) (g : StripeGroup) : Bool :=
  s.cdc.rds.any fun r => r.stage == .rebuild && (g.live ++ g.dropped.map (·.1)).contains r.loc.blk

/-- The groups of hit blocks are dissolved: nothing more is allocated into them, their parity is dropped, and every member and parity
block goes with the hit blocks. -/
def State.dissolve (s : State) (k : Nat) : State :=
  match s.groupOf k with
  | none => s.setSecure fun x => { x with hits := if x.hits.contains k then x.hits else x.hits ++ [k] }
  | some g =>
    let s0 := if g.fill.isEmpty then s else s.releaseFill g.num 3 .sumpPage
    let ks := g.live ++ g.parity.map (·.1)
    let s1 := s0.setGroup g.num fun y => { y with isOpen := false, released := true }
    let s2 := ks.foldl (fun t b => t.setBlk b fun y => { y with held := false }) s1
    s2.setSecure fun x => { x with hits := (x.hits ++ ks).eraseDups }

/-- The candidate search, by the blocks' summaries. -/
def State.secureFind (s : State) (x : SecDeal) : State :=
  let cands := (s.map.blks.filter fun e => (e.2.use == .sump || e.2.use == .native) && e.2.st != .bad && x.ranges.any e.2.mayHold).map (·.1)
  s.setSecure fun y => { y with candidates := cands, phase := 2 }

/-- The scan: each candidate's pages are read once, and those without a hit are dropped. -/
def State.secureScan (s : State) (x : SecDeal) : State :=
  let s1 := x.candidates.foldl (fun t k => t.countRead k (t.pagesOf k)) s
  let hits := x.candidates.filter (s.secureHit x)
  let s2 := s1.raiseIf ((s.media.interrupted.any fun n => hits.contains (blkOfKey n)) || (s.media.interruptedBlks.any fun k => hits.contains k) ||
    hits.any fun k => !(s.unreadIn k).isEmpty) 17
  hits.foldl (fun t k => t.dissolve k) (s2.setSecure fun y => { y with candidates := hits, phase := 3 })

/-- Staging copies of covered sectors that were numbered before the command began are overwritten with zeros (R307). -/
def State.scrubStaged (s : State) (x : SecDeal) : State :=
  let old (y : Staged) : Bool := (x.ranges.any fun r => decide (r.1 ≤ y.dsec ∧ y.dsec < r.1 + r.2)) &&
    s.map.allocs.any fun a => a.staged == y.id && decide (a.seq < x.s0)
  { s with front := { s.front with staging := s.front.staging.map fun (y : Staged) => if old y then { y with data := Sector.zero } else y } }

/-- Write the secure-range end record. -/
def State.secureEnd (s : State) (x : SecDeal) : State :=
  ((s.scrubStaged x).record (.secureEnd x.s0)).setSecure fun y => { y with phase := 4, candidates := [], hits := [] }

/-- A namespace reports ready once mount has finished for it (R60, R376), which a resumed Secure Deallocate holds back (R309). -/
def State.nsReady (s : State) : State :=
  if s.map.mounted && !(match s.map.secure with | some x => x.resumed | none => false) then
    { s with map := { s.map with ns := s.map.ns.map fun n => n.map fun r => { r with ready := true } } }
  else s

/-- The record is gone: the command completes, and the next one that waits begins. -/
def State.secureDone (s : State) (x : SecDeal) : State :=
  let s1 := State.nsReady { s with map := { s.map with secure := none } }
  let s2 := match x.hdr with
    | some h => s1.ioTry h
    | none => s1
  match s2.map.secQ with
  | [] => s2
  | (h, rs) :: rest => State.secureBegin { s2 with map := { s2.map with secQ := rest } } (some h) rs

/-- An aborted or abandoned Secure Deallocate leaves its ranges deallocated and removes its record (R76, R309, R348). -/
def State.secureDrop (s : State) (x : SecDeal) : State := (s.record (.secureEnd x.s0)).secureDone x

/-- A record of the journal is durable: no longer in the journal buffer. -/
def State.durable (s : State) (p : JRec → Bool) : Bool := s.map.jBuf.all fun e => !p e.2

/-- Whether anything is still to be programmed in a block. -/
def State.unfinished (s : State) (k : Nat) : Bool :=
  (s.map.allocs.any fun a => a.loc.blk == k && !a.programmed) || (s.map.relocs.any fun r => r.dst.blk == k && !r.programmed)

/-- A hit block whose mapped sectors have all failed their reads is erased with them: their entries stay as they were, and their reads go on
failing (R308). -/
def State.giveUp (s : State) (k : Nat) : State :=
  let lost := s.unreadIn k
  let mapped := s.map.entries.countP fun e => match e.2 with | .mapped l => l.blk == k | _ => false
  if lost.isEmpty ∨ lost.length < mapped ∨ (s.blk k).st ≠ .closed then s
  else
    let t : State := { s with map := { s.map with retries := s.map.retries.filter fun (r : RetrySec) => !lost.contains r.dsec } }
    (t.setBlk k fun b => { b with valid := 0, emptyAt := some 0 }).raiseIf (!t.trb 17) 17

/-- Evacuate and erase: what holds mapped sectors is queued ahead of every refresh; an open block with nothing left to program closes;
checkpoints are asked for while a block waits on them (R361). -/
def State.secureWork (s0 : State) (x0 : SecDeal) : State :=
  -- a target block that joined the command: its group is dissolved once no rebuild that reads it is under way (R30, R236)
  let new := x0.candidates.filter fun k => !x0.hits.contains k && !s0.hitGone k && !((s0.groupOf k).any s0.rebuildingIn)
  let s : State := new.foldl State.dissolve s0
  let x := (s.map.secure).getD x0
  let left := x.hits.filter fun k => !s.hitGone k
  let s1 := left.foldl (fun t k =>
    let b := t.blk k
    let t1 := if b.st = .opened ∧ !t.unfinished k then
        (t.closeBlk k).setBlk k fun y => { y with emptyAt := if y.valid = 0 ∧ y.emptyAt.isNone then some 0 else y.emptyAt }
      else t
    let t2 := t1.giveUp k
    if (t2.blk k).valid > 0 ∧ !(t2.map.refQ.any fun e => e.blk == k) then t2.refreshWant k 0 else t2) s
  let waits := left.any fun k => (s1.blk k).valid == 0
  { s1.setSecure fun y => { y with hits := left } with
    map := { (s1.setSecure fun y => { y with hits := left }).map with ckptWant := s1.map.ckptWant || waits } }

/-- Carry the Secure Deallocate in progress on as far as it can go. -/
def State.secureTick (s : State) : State :=
  match s.map.secure with
  | none => s
  | some x =>
    match x.phase with
    | 1 => if x.recorded && s.durable fun r => match r with | .secure n _ _ _ => n == x.s0 | _ => false then s.secureFind x else s.secureRecord
    | 2 =>
      -- a group is dissolved once no rebuild that reads it is under way (R236)
      if (x.candidates.any fun k => (s.groupOf k).any s.rebuildingIn) then s else s.secureScan x
    | 3 =>
      let s1 := s.secureWork x
      match s1.map.secure with
      | some y => if y.hits.isEmpty && y.candidates.all s1.hitGone then s1.secureEnd y else s1
      | none => s1
    | _ => if s.durable fun r => match r with | .secureEnd n => n == x.s0 | _ => false then s.secureDone x else s

/-- A copy of a covered sector that was in flight failed its swap: its target block joins the command (R30). -/
def State.secureTarget (s : State) (k : Nat) : State :=
  match s.map.secure with
  | some x => if x.phase = 3 then s.setSecure fun y => { y with candidates := if y.candidates.contains k then y.candidates else y.candidates ++ [k] } else s
  | none => s

/-- A sanitize has ended: its log says so, and the event is posted where feature 0Bh enables it (R69; log entry 17). -/
def State.sanitized (s : State) : State :=
  { s with front := { (if s.front.feats.aec.getLsbD 15 then s.front.event ⟨6, 1, 0x81⟩ else s.front) with sanitize := .done } }

/-- A block erase ends once no erase is left to do (R73). -/
def State.sanitizeEnd (s : State) : State :=
  if s.front.sanitize = .block ∧ s.front.sanitizeHeld = false ∧ s.map.mounted = true ∧ (s.gals.any fun g => g.ops.any fun o => o.kind == .erase) = false then s.sanitized else s

/-- Queue the erases a block-erase sanitize still owes: every good block that is not erased and not of the shelf in use; a block whose third strike
the erase would bring is retired in its place (R330). -/
def State.sanitizeErases (s : State) : State :=
  let ks := s.map.present.flatMap fun c => (List.range (s.blocksOf c)).map fun b => c.val * 65536 + b
  (ks.filter fun k => (s.blk k).st != .bad && (s.blk k).st != .erased && !s.map.shelf.contains k).foldl (fun t k => if (t.blk k).heavy ∧ (t.blk k).strikes ≥ 2 then t.retireBlk k 3 else t.queueErase k) s

/-- Carry a block erase on where a reset has dropped its erases (R73). -/
def State.sanitizeOn (s : State) : State :=
  if s.front.sanitize = .block ∧ s.front.sanitizeHeld = false ∧ s.map.mounted = true ∧ s.inReset = false then s.sanitizeErases.sanitizeEnd else s

/-! ## Cached staging (R26, R302, R358) -/

/-- The cached sectors whose completions have been posted. -/
def State.cachedPosted (s : State) : Nat := s.front.staging.countP fun x => x.cached && x.hdr.isNone

/-- The cached sectors of a command that wait for their completion. -/
def State.cachedOf (s : State) (h : Hdr) : Nat := s.front.staging.countP fun x => x.cached && x.hdr == some h

/-- A cached write is in staging once every sector of it is whole there and 4 MiB of posted data leaves room for it; until then its completion
waits, and a drain is under way. -/
def State.cacheAdmit (s : State) (h : Hdr) : State :=
  let mine := s.front.staging.filter fun x => x.cached && x.hdr == some h
  if mine.isEmpty ∨ mine.any (fun x => x.partialMask.isSome) then s
  else if s.cachedPosted + mine.length ≤ 1024 then
    let s1 : State := { s with front := { s.front with staging := s.front.staging.map fun (x : Staged) => if x.cached ∧ x.hdr = some h then { x with hdr := none } else x } }
    mine.foldl (fun (t : State) (_ : Staged) => t.committed h) s1
  else { s with front := { s.front with draining := true } }

/-- Every cached write that waits, oldest first. -/
def State.cacheTick (s : State) : State :=
  ((s.front.staging.filterMap fun x => if x.cached then x.hdr else none).eraseDups).foldl State.cacheAdmit s

/-! ## What waits on commits (R27, R527) -/

/-- Flushes whose writes have all committed complete; a lock that waited takes effect; a drain ends. -/
def State.settle (s : State) : State :=
  let waits (n : Nat) : Bool := s.front.staging.any fun x => x.cached && decide (x.id < n)
  let done := (s.front.ctxs.filter fun c => match c.upTo with | some n => !waits n | none => false).map (·.hdr)
  let s1 := done.foldl (fun t h => (t.ctx h fun c => { c with upTo := none }).ioTry h) s
  let s2 := if s1.front.staging.isEmpty then { s1 with front := { s1.front with draining := false } } else s1
  -- a normal shutdown takes its checkpoint once staging has drained (R62)
  let s3 : State := if s2.front.shst = 1 ∧ s2.front.staging.isEmpty then { s2 with map := { s2.map with ckptWant := true } } else s2
  (s3.deallocRun s3.map.deallocs).cacheTick.secureTick.lockTry.sanitizeEnd

end Sys2Proof.Machine
end

