-- ==== Sys2Proof/Machine/Schedule.lean ====
section
/-! DEFINITION. What the gallery scheduler does with the operations it holds (R153, R155, R159, R163): it starts them, ends those that can
no longer run, and recovers from a timeout (R161, R162) and from a wedge (R164). -/

namespace Sys2Proof.Machine

/-! ## Operations that cannot run (R148, R159, R163) -/

/-- A parity block that cannot go on: its position and those after it go to a further parity block (R234). -/
def State.parityAway (s : State) (sg : StripeGroup) (k page : Nat) : State :=
  if page + 1 ≥ s.pagesOf k then s
  else
    let c := chOfBlk k
    let first := ((sg.parity.find? fun x => x.1 == k).map (·.2)).getD 0
    let s1 : State := { s with cdc := { s.cdc with enc := s.cdc.enc.filter fun e => e.loc.blk != k } }
    let s2 := s1.gal (galOf c) fun x => { x with
      ops := x.ops.filter fun o => !(o.kind == .program && !o.running && o.ch == chIn c && o.block == k % 65536) }
    sg.closing.foldl (fun t p => match t.group? sg.num with
      | some y => t.queueParity y p
      | none => t) (s2.moreParity sg (first + (page - 1)))

/-- A parity block that never opened leaves its group for a further one (R234, R341). -/
def State.parityGone (s : State) (sg : StripeGroup) (k : Nat) : State :=
  (s.parityAway sg k 1).setGroup sg.num fun x => { x with parity := x.parity.filter fun p => p.1 != k }

/-- The data of a program that will not happen goes elsewhere, plane by plane: to another member of its group, or, of a parity block, to a
further one. -/
def State.programGone (s : State) (g : Fin 8) (o : GOp) : State :=
  (o.blks g).foldl (fun t k => match t.parityOf k with
    | some sg => t.parityAway sg k o.page
    | none => t.moveProgram k o.page) s

/-- What an abandoned operation leaves: a program's data is placed again; an erase leaves its block as it was, and a group that waited for it
loses the member or gets another parity block (R163, R233). -/
def State.opGone (s : State) (g : Fin 8) (o : GOp) : State :=
  match o.kind with
  | .program => s.programGone g o
  | .erase => (o.blks g).foldl (fun t k =>
      let u : State := match t.parityOf k with
        | some sg => if (t.blk k).st = .free then t.parityGone sg k else t
        | none => t.moveProgram k 0
      u.setBlk k fun b => if b.st = .free then { b with use := .none, held := false } else b) s
  | _ => s

/-- A read that will not happen ends with an error: its codeword is rebuilt where its parity is held. -/
def State.readGone (s : State) (g : Fin 8) (o : GOp) : State :=
  match s.rd? o.id with
  | some r => if r.only0 then s.endRead r else s.toRebuild r
  | none => s.dropOp g o.id

/-- End an operation before its list starts, with an outcome: the die sees no cycle of it (R178). -/
def State.refuseOp (s : State) (g : Fin 8) (o : GOp) (out : Outc) : State :=
  let x := s.gals.get g
  ((s.dropOp g o.id).gal g fun y => y.refuseList ((x.freeCtx o).getD (4 * o.ch.val)) o.slot out).opGone g o

/-- A waiting operation that will never be issued: a program or erase of a suspect chamber, or a read of a target out of service. -/
def State.doomed (s : State) (g : Fin 8) : Option GOp :=
  let x := s.gals.get g
  x.ops.find? fun o => !o.running && o.need != .console &&
    (if o.kind = .read then x.outCe.getLsbD (o.ch.val / 2) else s.suspect (chamberOf g o.ch))

/-- An open member of a stripe group on a suspect chamber of a gallery: it is to be dropped from its group (R233). -/
def State.stranded (s : State) (g : Fin 8) : Option Nat :=
  s.map.groups.findSome? fun sg => if sg.isOpen then
      sg.live.find? fun k => galOf (chOfBlk k) == g && s.suspect (chOfBlk k) && (s.blk k).st == .opened
    else none

/-- SCHEDULER_DISPATCH (R153, R155, R159, R163): what cannot be issued ends; else the operation served next starts, with those that join it,
or is refused under the write-pointer rule. -/
def execSchedulerDispatch (g : Fin 8) (s : State) : Host.Outcome State Fault Refusal :=
  .next (match s.doomed g, s.stranded g, s.pick g with
    | some o, _, _ => if o.kind = .read then s.readGone g o else s.refuseOp g o .suspect
    | none, some k, _ => s.moveProgram k (s.blk k).next
    | none, none, some o =>
      if !(s.gals.get g).passes o then ((s.gal g fun x => { x with orders := x.orders + 1 }).raise 13).refuseOp g o .order
      else let (o1, s1) := s.joinPlanes g o; s1.startOp g o1
    | none, none, none => s)

/-! ## Timeouts (R161, R162) -/

/-- A timeout is counted: in the field of GAL_TMO of its kind of operation, and for log page C0h (R78, R170). -/
def State.countTimeout (s : State) (g : Fin 8) (k : OpKind) : State :=
  let s1 : State := s.gal g fun y => { y with timeouts := y.timeouts + 1 }
  match k with
  | .read => s1.bump (.galTmo g) 0 8 1
  | .program => s1.bump (.galTmo g) 8 8 1
  | .erase => s1.bump (.galTmo g) 16 8 1
  | _ => s1

/-- The places of a block's later pages move on by the pages that were lost. -/
def shiftLoc (k from_ n : Nat) (l : Loc) : Loc := if l.blk = k ∧ from_ ≤ l.page then { l with page := l.page + n } else l

/-- A place past a block's end, or on its sentinel's. -/
def State.pastEnd (s : State) (k : Nat) (l : Loc) : Bool :=
  l.blk == k && (decide (l.page ≥ s.pagesOf k) || (decide (l.page + 1 = s.pagesOf k) && l.cw == 3))

/-- The page or wordline under assembly after such a move: none past the block's end. -/
def State.shiftFill (s : State) (k n : Nat) (f : Loc × List Nat) : Option (Loc × List Nat) :=
  if f.1.blk ≠ k then some f
  else if f.1.page + n + s.perProgram k > s.pagesOf k then none
  else some ({ f.1 with page := f.1.page + n }, f.2.take (s.capacity k (f.1.page + n)))

/-- Everything still to be programmed in a block from a page on moves on by `n` pages and passes the encoder again; what has no page left
goes to another member. -/
def State.shiftBlock (s : State) (k from_ n : Nat) : State :=
  let mine (l : Loc) : Bool := l.blk == k && decide (from_ ≤ l.page)
  let s1 : State := { s with
    map := { s.map with
      allocs := s.map.allocs.map fun a => if !a.programmed && !a.unplaced then { a with loc := shiftLoc k from_ n a.loc } else a
      relocs := s.map.relocs.map fun r => if r.programmed then r else { r with dst := shiftLoc k from_ n r.dst } }
    cdc := { s.cdc with enc := s.cdc.enc.map fun e => if mine e.loc then { e with loc := shiftLoc k from_ n e.loc, encoded := false } else e } }
  let s2 := (s1.setBlk k fun b => { b with next := min (s.pagesOf k) (b.next + n) }).gal (galOf (chOfBlk k)) fun x => { x with
    ops := (x.ops.map fun y => if y.kind == .program && y.ch == chIn (chOfBlk k) && y.block == k % 65536 then { y with page := y.page + n } else y).filter
      fun y => !(y.kind == .program && y.ch == chIn (chOfBlk k) && y.block == k % 65536 && decide (y.page + y.pages > s.pagesOf k)) }
  match s2.groupOf k with
  | none => s2
  | some sg =>
    let s3 := s2.setGroup sg.num fun z => { z with fill := z.fill.filterMap (s.shiftFill k n) }
    let as := (s3.map.allocs.filter fun a => !a.programmed && !a.unplaced && s3.pastEnd k a.loc).map (·.id)
    let rs := (s3.map.relocs.filter fun r => !r.programmed && s3.pastEnd k r.dst).map (·.id)
    s3.replace sg.num as rs

/-- One block of a program whose page is interrupted: the pointer moves past the page, which counts as its member's at the position, and
the same data goes to the block's new next page; past the last page the block is sealed and the data goes to another member (R162). -/
def State.reprogramBlk (s : State) (g : Fin 8) (o : GOp) (k : Nat) : State :=
  let s1 := s.gal g fun x => x.setTable o.ch (wptAdvance (x.table o.ch) (k % 65536) o.pages (s.pagesOf k) o.pslc)
  if o.page + o.pages ≥ s.pagesOf k then
    ((((s1.dropOp g o.id).moveProgram k (o.page + o.pages)).closeBlk k).setBlk k fun b => { b with sealed := true }).refreshWant k 5
  else
    let s2 := s1.shiftBlock k o.page o.pages
    (List.range o.pages).foldl (fun t i => t.positionOk k (o.page + i)) s2

/-- A parity block whose program was interrupted: the pointer moves past the page, and its position goes to a further parity block; past the last
page the block is sealed and queued for refresh (R162). -/
def State.reprogramParity (s : State) (g : Fin 8) (o : GOp) (sg : StripeGroup) (k : Nat) : State :=
  let s1 := (s.gal g fun x => x.setTable o.ch (wptAdvance (x.table o.ch) (k % 65536) o.pages (s.pagesOf k) o.pslc)).dropOp g o.id
  let s2 := s1.setBlk k fun b => { b with next := o.page + o.pages }
  if o.page + o.pages ≥ s.pagesOf k then ((s2.closeBlk k).setBlk k fun b => { b with sealed := true }).refreshWant k 5
  else s2.parityAway sg k o.page

/-- A program that was interrupted on every plane is programmed again at the blocks' new next pages; of a parity block, in a further one. -/
def State.reprogram (s : State) (g : Fin 8) (o : GOp) : State :=
  (o.blks g).foldl (fun t k => match t.parityOf k with
    | some sg => t.reprogramParity g o sg k
    | none => t.reprogramBlk g o k) (s.interruptOps [(g, o)])

/-- A `run op` whose list timed out replies after the recovery (R132). -/
def State.raiseRunTimeout (s : State) (g : Fin 8) : State :=
  s.finishJob (fun j => match j with | .runOp h _ _ => h == g | _ => false) fun _ => ([], err .timeout [])

/-- A chamber becomes suspect: its bit in GAL_SUSPECT (R162, R168). -/
def State.makeSuspect (s : State) (g : Fin 8) (c : Fin 16) : State :=
  s.setReg (.galSuspect g) (s.reg (.galSuspect g) ||| BitVec.ofNat 32 (2 ^ c.val))

/-- A list ends with outcome timeout; only its own context gives up the bus (R178); with a list of kind 5 goes the record of the last offsets
(R186). -/
def State.listTimeout (s : State) (g : Fin 8) (n : Nat) : State :=
  let x := s.gals.get g
  let gone := x.kindOf (x.ctxGet n).listSlot == 5
  (s.gal g fun x => { x with lastOfs := if gone then x.lastOfs.del (n / 4) else x.lastOfs, ctxs := Store.modify (fun _ => {}) x.ctxs n fun c =>
    { c with st := .idle, ret := none, lastOut := .timeout, lastCode := 0, lastS := c.s, lastSlot := c.listSlot, armed := none, polled := false
             moved := 0, applying := none } }).yieldBus g (ctxNo n)

/-- A chamber's recovery: bit 9, its own reset list, and the status check (R162 steps 1 and 2). -/
def State.recoverLun (s : State) (g : Fin 8) (c : Fin 16) (statusOk : Bool) : Bool × State :=
  ((s.raise 9).bump (.galTmo g) 24 8 1).resetLun g c (if statusOk then ready else 0)

/-- The recovery of an operation whose timer has run out: its chamber is reset, and it is retried once; a failed check or a second timeout
makes the chamber suspect. -/
def State.opTimeout (s : State) (g : Fin 8) (o : GOp) (statusOk : Bool) : State :=
  let (good, s1) := (((s.raise 8).countTimeout g o.kind).listTimeout g o.ctx).recoverLun g o.ch statusOk
  let s2 := if good && !o.retried then s1 else s1.makeSuspect g o.ch
  if o.need = .console then (if good then s1 else s1.makeSuspect g o.ch).dropOp g o.id |>.raiseRunTimeout g
  else if good ∧ !o.retried then
    let s3 := s1.setOp g o.id fun y => { y with running := false, suspended := false, retried := true, outcome := none }
    if o.kind = .program then s3.reprogram g o else s3
  else if o.kind = .read then s2.readGone g o
  else
    let s3 := (if o.kind = .program then s2.interruptOps [(g, o)] else s2).dropOp g o.id
    s3.opGone g o

/-- The timer that a context's POLL runs under: the operation's, once its confirm cycle is placed (R161), else one of 1 ms (R182). -/
def State.armedAt (s : State) (g : Fin 8) (n : Nat) : Option OpKind :=
  let c := (s.gals.get g).ctxGet n
  if c.runs && ((s.gals.get g).opAt c).any (fun w => opc w == 0x9) then some (c.armed.getD .other) else none

/-- CHAMBER_OP_TIMEOUT (R161, R162): the timer runs from the confirm cycle and stands while the operation is suspended; a reset list that
outlives it just ends. -/
def execChamberOpTimeout (g : Fin 8) (id : Nat) (statusOk : Bool) (s : State) : Host.Outcome State Fault Refusal :=
  .next (match s.op? g id with
    | none => s
    | some o =>
      if !o.running || o.suspended || o.outcome.isSome then s else
      let s1 := if o.need = .console then s else s.toPoll g o
      match s1.armedAt g o.ctx with
      | none => s
      | some .reset => ((s1.listTimeout g o.ctx).dropOp g id).raiseRunTimeout g
      | some _ => s1.opTimeout g o statusOk)

/-! ## The sequencer watchdog (R164) -/

/-- Step 2: every operation in flight ends with error; the bus is free, every CE_N high and WP_N low. -/
def State.quiesceGal (s : State) (g : Fin 8) : State :=
  (s.driveWp g false).gal g fun y => { y with
    bus := none
    lastOfs := Store.drop (fun i => y.ctxs.any fun c => c.2.st != .idle && c.1 / 4 == i && y.kindOf c.2.listSlot == 5) y.lastOfs
    ops := (y.ops.filter fun o => o.need != .console).map fun o => { o with running := false, suspended := false, outcome := none }
    ctxs := y.ctxs.map fun c => (c.1, if c.2.st = .idle then c.2 else
      { c.2 with st := .idle, ret := none, lastOut := .quiesced, lastCode := 0, lastS := c.2.s, lastSlot := c.2.listSlot, armed := none, polled := false
                 moved := 0, applying := none }) }

/-- Step 3: the gallery's level 4 reset, GAL_STAT.wedge kept; what waits, and the lists' records, stand. -/
def State.wedgeReset (s : State) (g : Fin 8) : State :=
  let x := s.gals.get g
  (((s.unitRegs (.gal g)).setRf (.galStat g) 3 1 1).gal g fun y => { y.reset with
    inService := true, ops := y.ops, ctxs := y.ctxs, outCe := x.outCe, lastOfs := x.lastOfs }).galSetup g

/-- Step 6: every target trained again in one pass, with the rate, the results and the reference temperature that follow (R147, R166, R167).  Where
one fails the rate steps down, and a target that fails at the lowest goes out of service (R148). -/
def State.wedgeTrain (s : State) (g : Fin 8) (r : WedgeRun) : State :=
  let all := s.retrainTargets g
  let (bad, rate) := stepDown ((((s.gals.get g).profile.map (·.modes)).getD []).map (·.rate)) r.passAt all 13 (s.aimRate g)
  let out := all.filter fun n => r.passAt.get n < rate
  let ts := all.filter fun n => rate ≤ r.passAt.get n
  let again := ts.countP fun n => r.again.getLsbD n.val
  let (recs, s0) := (ts.foldl (fun t n => t.calibrate g n rate 19) s).trainAll g rate ts
  let s1 := ((out.foldl (fun t n => t.targetOut g n) s0).raiseIf (decide (bad > 0)) 10).bump (.galTrainInfo g) 8 8 (2 * bad + again)
  let s2 := (s1.trainStat g ts (ts.length == (s.targets g).length) rate).bump (.galTrainInfo g) 16 16 1
  (s2.stat "retrains").gal g fun y => { y with retrains := y.retrains + 1, trainResults := recs, ranFallback := s.onFallback }

/-- SEQUENCER_WATCHDOG (R164): quiesce, the level 4 reset, the reset of every LUN that had an operation in flight, the table, the training, and
what its requesters issue again.  A LUN that is not ready within its reset's time makes its chamber suspect (R161). -/
def execSequencerWatchdog (r : WedgeRun) (s : State) : Host.Outcome State Fault Refusal :=
  .next (let g := r.gal
    let x := s.gals.get g
    if x.ops.isEmpty && x.ctxs.all fun c => c.2.st == .idle then s
    else
      let live := x.ops.filter (·.running)
      let write := live.filter fun o => o.kind == .program || o.kind == .erase
      let last : Byte := match s.con.running with
        | some r => match r.job with
          | .runOp _ c _ => (x.ctxGet c.val).s
          | _ => 0
        | none => 0
      let s1 := (((s.raise 15).quiesceGal g).wedgeReset g).recordSelf
      let s2 := (live.map (·.ch)).eraseDups.foldl (fun t c =>
        let (good, u) := t.recoverLun g c (!r.stuck.getLsbD c.val)
        if good then u else u.makeSuspect g c) (s1.interruptOps (write.map fun o => (g, o)))
      let s3 := ((s2.reloadWpt g).wedgeTrain g r).driveWp g true
      let s4 := (live.filter fun o => o.kind == .program && o.need != .console).foldl (fun t o => t.reprogram g o) s3
      s4.finishJob (fun j => match j with | .runOp h _ _ => h == g | _ => false)
        fun _ => ([], err .fault [word "quiesced", ("status", .hex 1 last.toNat)]))

end Sys2Proof.Machine
end

