-- ==== Sys2Proof/Machine/MapEngine.lean ====
section
/-! DEFINITION. The Map engine's rows (chapters 10 and 11): allocation, commits, relocation, read-verify, erases and
retirement. -/

namespace Sys2Proof.Machine

/-! ## Allocation and release (R23, R289, R297, R357) -/

/-- The next staged sector to allocate: the oldest without an allocation that waits for no merge and for no lock of its sector (R302). -/
def State.nextStaged (s : State) : Option Staged :=
  s.front.staging.find? fun x => x.alloc.isNone && x.partialMask.isNone &&
    !(s.front.staging.any fun y => y.dsec == x.dsec && (y.partialMask.isSome || y.locked) && decide (y.id < x.id))

/-- The pending table lets a sector receive another allocation (R289). -/
def State.pendRoom (s : State) (d : Nat) : Bool :=
  !(s.map.allocs.any fun a => a.dsec == d) || (s.map.pendTable.any fun p => p.1 == d) || decide (s.map.pendTable.length < 16384)

/-- Place an allocation that lost its place (R339): it keeps its sequence number. -/
def State.placeAgain (s : State) (a : Alloc) (n : Nat) : State :=
  match s.allocIn n a.id with
  | none => s
  | some (l, _, s1) =>
    let b : Alloc := { a with loc := l, unplaced := false }
    (s1.setAlloc a.id fun _ => b).pushEnc { id := a.id, cw := s1.cwOf b, loc := l, alloc := some a.id, encoded := false }

/-- Allocate a staged sector in a group: a codeword, a sequence number, and its way to the encoder. -/
def State.allocStaged (s : State) (x : Staged) (n : Nat) : State :=
  let (id, s1) := s.newId
  match s1.allocIn n id with
  | none => s
  | some (l, _, s2) =>
    let (q, s3) := s2.newSeq
    let a : Alloc := { id, staged := x.id, ns := x.ns, lba := x.lba, dsec := x.dsec, seq := q, loc := l, data := x.data, damaged := x.damaged
                       secs := s.sys.life }
    let again := s.map.allocs.any fun y => y.dsec == x.dsec
    let s4 : State := { s3 with
      map := { s3.map with
        allocs := s3.map.allocs ++ [a]
        pendTable := if again && !(s.map.pendTable.any fun p => p.1 == x.dsec) then s3.map.pendTable ++ [(x.dsec, 0)] else s3.map.pendTable }
      front := { s3.front with staging := s3.front.staging.map fun (y : Staged) => if y.id = x.id then { y with alloc := some id } else y } }
    s4.pushEnc { id, cw := s3.cwOf a, loc := l, alloc := some id, encoded := false }

/-- SUMP_ALLOCATION (R23 step 2, R289, R294, R297): a staged sector gets a Sump codeword and a sequence number; one whose place went with a
failed block comes first. -/
def execSumpAllocation (s : State) : Host.Outcome State Fault Refusal :=
  .next (match s.openOf .sump with
    | none => s
    | some g =>
      if !s.mapUp || decide (s.sumpUsed ≥ s.map.sumpSize) || s.fillFull g then s
      else match s.map.allocs.find? (·.unplaced), s.nextStaged with
        | some a, _ => s.placeAgain a g.num
        | none, some x => if s.pendRoom x.dsec then s.allocStaged x g.num else s
        | none, none => s)

/-- Whether a removal-safe write, a Flush or a drain waits on data of a page under assembly (R357). -/
def State.pageWaited (s : State) (ids : List Nat) : Bool :=
  s.front.draining || (s.front.ctxs.any fun c => c.upTo.isSome) || s.front.staging.any fun x =>
    !x.cached && match x.alloc with | some a => ids.contains a | none => false

/-- SUMP_PAGE_RELEASE (R357): a Sump page goes to its gallery once all four codewords are allocated, or once something waits on one and
1 µs has passed; every codeword of it must have left the encoder. -/
def execSumpPageRelease (waited : Bool) (s : State) : Host.Outcome State Fault Refusal :=
  .next (match s.openOf .sump with
    | none => s
    | some g =>
      let ids := g.filling
      let ready := !ids.isEmpty && ids.all fun i => s.cdc.enc.all fun e => e.id != i || e.encoded
      if ready && (s.fillFull g || (waited && s.pageWaited ids)) then s.releaseFill g.num 3 .sumpPage else s)

/-- The groups with room that a flow may hold open: the next Sump group opens before the current one fills, so that no host write waits for an open
record (R356; DESIGN CHOICE, log entry 86: one group ahead). -/
def flowGroups : Flow → Nat
  | .sump => 2
  | .fold | .relocation | .map => 1

/-- STRIPE_GROUP_OPEN (R231, R294, R356): a group opens for a flow that lacks one with pages left. -/
def execStripeGroupOpen (flow : Flow) (s : State) : Host.Outcome State Fault Refusal :=
  .next (let n := s.map.groups.countP fun g => g.isOpen && g.flow == flow && s.grpRoom g
    -- at `stop test` the tainted blocks are erased before a block is allocated (R203)
    if s.mapUp && decide (n < flowGroups flow) && !(s.con.leaving && s.taintLeft) then
      -- a group whose members have no page left takes no more allocations
      let close (g : StripeGroup) : StripeGroup := if g.flow = flow ∧ s.grpRoom g = false then { g with isOpen := false } else g
      let s1 : State := { s with map := { s.map with groups := s.map.groups.map close } }
      (s1.openGroup flow).getD s
    else s)

/-- Drop the pending-table record of a sector once no allocation for it is outstanding. -/
def State.pendDrop (s : State) (d : Nat) : State :=
  if s.map.allocs.any fun a => a.dsec == d then s
  else { s with map := { s.map with pendTable := s.map.pendTable.filter fun p => p.1 != d } }

/-- Commit one allocation: it replaces the entry unless the sector's record holds a higher number. -/
def State.commitOne (s : State) (a : Alloc) : State :=
  let newer := s.map.pendTable.any fun p => p.1 == a.dsec && decide (p.2 > a.seq)
  let s0 := { s with
    map := { s.map with allocs := s.map.allocs.filter fun x => x.id != a.id }
    cdc := { s.cdc with enc := s.cdc.enc.filter fun e => e.id != a.id } }
  let s1 := if newer then s0.bumpWrap .mapCasFail 0 32 1
    else (s0.remap a.dsec (if a.damaged then .damaged else .mapped a.loc)).pendNote a.dsec a.seq
  let s2 := s1.pendDrop a.dsec
  { s2 with front := { s2.front with staging := s2.front.staging.filter fun x => x.id != a.staged } }

/-- Every sector of an allocation's command has been programmed (R23 step 5). -/
def State.commandProgrammed (s : State) (h : Hdr) : Bool :=
  s.front.staging.all fun x => x.hdr != some h || x.cached ||
    match x.alloc with
    | some i => s.map.allocs.any fun a => a.id == i && a.programmed
    | none => false

/-- A commit may make one more page dirty: at most 768 are (R286). -/
def State.dirtyRoom (s : State) (d : Nat) : Bool :=
  (s.map.cache.any fun p => p.series == 0 && p.num == d / 512 && p.dirty) || decide (s.dirtyCount < 768)

/-- COMMIT (R23 step 5 and 6, R25, R289): a programmed codeword's map update; with a command's last one its completion is posted. -/
def execCommit (id : Nat) (s : State) : Host.Outcome State Fault Refusal :=
  .next (match s.map.allocs.find? fun a => a.id == id with
    | none => s
    | some a =>
      if !a.programmed || !s.mapUp || !s.dirtyRoom a.dsec then s else
      let st := s.front.staging.find? fun x => x.id == a.staged
      match st.bind fun x => x.hdr with
      | some h => if (st.map (·.cached)) = some true ∨ s.commandProgrammed h then ((s.commitOne a).committed h).settle else s
      | none => (s.commitOne a).settle)

/-! ## Relocation (R29, R30, R290, R298 to R301, R334) -/

/-- The mapped sectors of a block in page order, those already being copied left out. -/
def State.sectorsIn (s : State) (k : Nat) : List (Nat × Loc) :=
  let l := s.map.entries.filterMap fun e => match e.2 with
    | .mapped l => if l.blk = k ∧ !(s.map.relocs.any fun r => r.dsec == e.1) ∧ !(s.map.retries.any fun r => r.dsec == e.1) then some (e.1, l) else none
    | _ => none
  l.mergeSort fun a b => decide (a.2.key ≤ b.2.key)

/-- Begin the copy of one sector into a group. -/
def State.startReloc (s : State) (n : Nat) (flow : Flow) (cause : Nat) (x : Nat × Loc) : State :=
  match s.group? n with
  | none => s
  | some g =>
    if s.fillFull g then s else
    let (id, s1) := s.newId
    match s1.allocIn n id with
    | none => s
    | some (l, _, s2) =>
      let s3 := { s2 with map := { s2.map with relocs := s2.map.relocs ++ [({ id, dsec := x.1, src := x.2, dst := l, flow, cause } : Reloc)] } }
      (s3.startRead x.2 5 (.reloc id)).2

/-- A sector is tried no more. -/
def State.retryDrop (s : State) (d : Nat) : State :=
  { s with map := { s.map with retries := s.map.retries.filter fun (x : RetrySec) => x.dsec != d } }

/-- Carry a block's copy on: a wordline whose sources have all been read goes to its gallery; else the block's next sectors are begun. -/
def State.copyBlock (s : State) (k : Nat) (flow : Flow) (cause : Nat) (skipSecure : Bool) : State :=
  match s.openOf flow with
  | none => s
  | some g =>
    let mine : List Reloc := s.map.relocs.filter fun r => g.filling.contains r.id
    let src := (s.sectorsIn k).filter fun x => !(skipSecure && s.secured x.1)
    if !mine.isEmpty && (s.fillFull g || src.isEmpty) && mine.all (·.ready) then s.releaseFill g.num 5 (.reloc ((mine.map (·.id)).headD 0))
    else if s.fillFull g then s
    else
      src.foldl (fun t x => t.startReloc g.num flow cause x) s

/-- The host has no command outstanding; an Asynchronous Event Request, which waits for an event, does not count (log entry 76). -/
def State.hostIdle (s : State) : Bool := s.front.ctxs.all fun c => s.front.aers.contains c.hdr

/-- Causes a copy carries beside those of R334: collection, wear levelling. -/
def causeGc : Nat := 7
def causeWear : Nat := 8
/-- The evacuation of a Secure Deallocate, which moves covered sectors written since it began (R307). -/
def causeSecure : Nat := 9

/-- A block is a candidate of the Secure Deallocate in progress (R300, R310). -/
def State.candidate (s : State) (k : Nat) : Bool := match s.map.secure with | some x => x.candidates.contains k || x.hits.contains k | none => false

/-- FOLD (R295, R297, R298, R310): the earliest closed Sump block's sectors move to the fold target. -/
def execFold (blk : Nat) (s : State) : Host.Outcome State Fault Refusal :=
  .next (let b := s.blk blk
    let first := s.map.blks.all fun e => !(e.2.use == .sump && e.2.st == .closed && decide (e.2.valid > 0)) || decide (b.closeSeq ≤ e.2.closeSeq)
    if s.mapUp && !s.bgPaused && b.use == .sump && b.st == .closed && decide (b.valid > 0) && first && !s.candidate blk &&
        (decide (2 * s.sumpUsed > s.map.sumpSize) || s.hostIdle) then
      s.copyBlock blk .fold 0 true
    else s)

/-- A block garbage collection may take (R299, R300): one with nothing mapped waits for its erase alone. -/
def State.collectable (s : State) (e : Nat × Blk) : Bool :=
  let b := e.2
  b.st == .closed && (b.use == .native || b.use == .map) && !b.held && decide (b.valid > 0) && !s.candidate e.1

/-- A victim's score as a fraction: (1 − u), or (1 − u)(1 + a) ÷ (1 + u) in background mode. -/
def State.score (s : State) (urgent : Bool) (e : Nat × Blk) : Nat × Nat :=
  let t := 4 * s.pagesOf e.1
  let a := min 8760 ((s.sys.life / 3600 + 65536 - e.2.closedH) % 65536)
  if urgent then (t - e.2.valid, t) else ((t - e.2.valid) * (1 + a), t + e.2.valid)

/-- The eligible block with the highest score, the lower number on a tie. -/
def State.victim (s : State) (urgent : Bool) : Option Nat :=
  ((s.map.blks.filter s.collectable).foldl (fun o e => match o with
    | none => some e
    | some x =>
      let (n, d) := s.score urgent e; let (n', d') := s.score urgent x
      if n * d' > n' * d then some e else o) none).map (·.1)

/-- A live page of a map block that collection moves: one in the cache becomes dirty there, any other is read from flash first, through the order of
R222; its writeback moves it (R286, R299). -/
def State.moveMapPage (s : State) (page : Nat) (l : Loc) : State :=
  if s.map.cache.any fun p => p.series == page / 2 ^ 38 && p.num == page % 2 ^ 38 then s.touch (page / 2 ^ 38) (page % 2 ^ 38) true
  else if s.cdc.rds.any fun r => r.need == .mapMove page then s
  else (s.startRead l 5 (.mapMove page)).2

/-- The live pages of a map block, as far as the limit of dirty pages lets them (R286). -/
def State.moveMapPages (s : State) (k : Nat) : State :=
  ((s.map.onFlash.filter fun e => e.2.blk == k).take (768 - s.dirtyCount)).foldl (fun t e => t.moveMapPage e.1 e.2) s

/-- A map block that collection takes. -/
def State.collectMap (s : State) (k : Nat) : State :=
  State.moveMapPages { s with map := { s.map with gcMap := if s.map.gcMap.contains k then s.map.gcMap else s.map.gcMap ++ [k] } } k

/-- GARBAGE_COLLECTION (R299, R300). -/
def execGarbageCollection (s : State) : Host.Outcome State Fault Refusal :=
  .next (let bg := s.gcBelow 2 && s.hostIdle
    if s.mapUp && !s.bgPaused && (s.urgent || bg) then
      match s.victim s.urgent with
      | some k => if (s.blk k).use = .map then s.collectMap k else s.copyBlock k .relocation causeGc true
      | none => s
    else s)

/-- The closed native block with the fewest erases, the lower number on a tie (R301). -/
def State.leastWorn (s : State) : Option (Nat × Blk) :=
  (s.map.blks.filter fun e => e.2.use == .native && e.2.st == .closed).foldl (fun o e => match o with
    | none => some e
    | some x => if e.2.erase < x.2.erase then some e else o) none

/-- WEAR_LEVELLING (R301): the closed native block with the lowest erase count is the victim while the spread is too wide. -/
def execWearLevelling (s : State) : Host.Outcome State Fault Refusal :=
  .next (let high := s.map.blks.foldl (fun a e => max a e.2.erase) 0
    match s.leastWorn, s.refProf with
    | some e, some p =>
      if s.mapUp && !s.bgPaused && s.collectable e && decide (high - e.2.erase > max 100 (p.ratedNative / 20)) then s.copyBlock e.1 .relocation causeWear true else s
    | _, _ => s)

/-- A finished refresh is counted in log page C0h by its cause; one of no cause of R329 is not (R78, R336). -/
def State.refreshStat (s : State) : Nat → State
  | 1 => s.stat "refresh_read"
  | 2 | 5 => s.stat "refresh_effort"
  | 3 | 4 => s.stat "refresh_patrol"
  | _ => s

/-- REFRESH (R334): the next block of the refresh queue is copied; an emptied one leaves the queue and is counted. -/
def execRefresh (s : State) : Host.Outcome State Fault Refusal :=
  .next (match s.map.nextRefresh with
    | none => s
    | some e =>
      if s.mapUp && !s.bgPaused then
        if (s.blk e.blk).valid = 0 ∧ !(s.map.relocs.any fun r => r.src.blk == e.blk) then
          ((s.refreshStat e.cause).refreshDone e.blk).retireTry e.blk
        else if (s.blk e.blk).use = .map then s.moveMapPages e.blk
        else
          let hit := match s.map.secure with | some x => x.hits.contains e.blk | none => false
          if hit && s.readOnly && (s.openOf .relocation).isNone && (s.openGroup .relocation).isNone then
            -- no evacuation target is left: the command ends with Internal Error (R348)
            match s.map.secure with
            | some x => (match x.hdr with | some h => s.ctxFail h .internal none | none => s).secureDrop x
            | none => s
          else s.copyBlock e.blk .relocation (if hit then causeSecure else e.cause) (!hit)
      else s)

/-- A member needs its group's parity no longer: it has passed read-verify, its refresh has committed every sector, or it is bad (R235). -/
def State.memberDone (s : State) (g : StripeGroup) (k : Nat) : Bool :=
  g.verified.contains k || (g.failing.contains k && (s.blk k).valid == 0) || (s.blk k).st == .bad

/-- Release a group's parity once every live member is done, every dropped one is emptied, and no rebuild that reads it is in flight. -/
def State.releaseTry (s : State) (n : Nat) : State :=
  match s.group? n with
  | none => s
  | some g =>
    let gone := g.dropped.map (·.1)
    let rebuilding := s.cdc.rds.any fun r => r.stage == .rebuild && (g.live ++ gone).contains r.loc.blk
    if !g.isOpen && !g.released && !rebuilding && g.live.all (s.memberDone g) && gone.all fun k => (s.blk k).valid == 0 then
      let free (t : State) (k : Nat) : State := t.setBlk k fun b =>
        { b with held := false, emptyAt := if b.valid = 0 ∧ b.emptyAt.isNone then some 0 else b.emptyAt }
      let s2 := g.parity.foldl (fun t p => t.setBlk p.1 fun b => { b with held := false, emptyAt := some 0 }) ((g.live ++ gone).foldl free s)
      s2.setGroup n fun x => { x with released := true }
    else s

/-- As `releaseTry`, for the group that protects a block. -/
def State.releaseOf (s : State) (k : Nat) : State :=
  match s.groupAt k 0 with
  | some g => s.releaseTry g.num
  | none => s

/-- A source block that a copy has emptied (R322, R336). -/
def State.emptied (s : State) (r : Reloc) : State :=
  let k := r.src.blk
  if (s.blk k).valid ≠ 0 then s
  else
    let s1 := if r.flow = .fold then s.bumpWrap .mapReloc 16 16 1
      else if r.cause = causeGc ∨ r.cause = causeWear then s.bumpWrap .mapReloc 0 16 1 else s
    let s2 := if (s.blk k).refresh then (s1.refreshStat (s.blk k).cause).refreshDone k else s1
    (s2.retireTry k).releaseOf k

/-- Swap one copy: compare the entry with the source, and only then take the target. -/
def State.swapOne (s : State) (id : Nat) : State :=
  match s.map.relocs.find? fun r => r.id == id with
  | none => s
  | some r =>
    if !r.programmed then s
    else
      let s1 : State := { s with map := { s.map with relocs := s.map.relocs.filter fun x => x.id != id } }
      if s.entry r.dsec = .mapped r.src ∧ (!s.secured r.dsec ∨ r.cause = causeSecure) then
        (((((s1.retryDrop r.dsec).remap r.dsec (.mapped r.dst)).bumpWrap .mapCasOk 0 32 1).record (.reloc r.dsec r.src r.dst)).emptied r).settle
      else
        let s2 : State := s1.bumpWrap .mapCasFail 0 32 1
        if s.secured r.dsec then (s2.secureTarget r.dst.blk).settle else s2

/-- RELOCATION_SWAP (R29, R290): a copy whose target page returned program status OK reaches its compare-and-swap. -/
def execRelocationSwap (id : Nat) (s : State) : Host.Outcome State Fault Refusal :=
  .next (if s.mapUp && (s.map.relocs.find? fun r => r.id == id).all fun r => s.dirtyRoom r.dsec then s.swapOne id else s)

/-- SECTOR_RETRY (R337): a sector that did not read in a block is read again, through the order of R222, into the relocation target; one that has been
written or deallocated since is tried no more. -/
def execSectorRetry (d blk : Nat) (s : State) : Host.Outcome State Fault Refusal :=
  .next (match s.map.retries.find? fun r => r.dsec == d && r.blk == blk with
    | none => s
    | some _ =>
      if !s.mapRuns || s.bgPaused || s.map.relocs.any (fun x => x.dsec == d) then s
      else match s.entry d, s.openOf .relocation with
        | .mapped l, some g =>
          if l.blk = blk then s.startReloc g.num .relocation (s.blk l.blk).cause (d, l) else s.retryDrop d
        | .mapped _, none => s
        | _, _ => s.retryDrop d)

/-! ## The 512 B format (R302) -/

/-- PARTIAL_WRITE (R302): the oldest partial write of a sector takes its newest data, from staging, as zeros, or through the read path of
R222, and becomes a whole-sector write; the sector stays locked while an earlier partial write of it is outstanding. -/
def execPartialWrite (ns : Fin 8) (lba : Nat) (s : State) : Host.Outcome State Fault Refusal :=
  .next (match s.front.staging.find? fun x => x.ns == ns && x.lba == lba && x.partialMask.isSome with
    | none => s
    | some x =>
      let before := s.front.staging.filter fun y => y.dsec == x.dsec && decide (y.id < x.id)
      let n : Need := .merge x.id x.ns x.lba
      if before.any (fun y => y.partialMask.isSome || y.locked) || !s.mapUp ||
          (s.cdc.rds.any fun r => r.need == n) || (s.map.waiters.any fun w => w.2 == n) then s
      else match before.getLast? with
        | some y => (s.merged x.id y.data).settle
        | none => (s.readSector x.dsec 1 n).settle)

/-! ## Map pages (R284 to R287, R305) -/

/-- A leaf page: the entries of an extent. -/
def State.leafBytes (s : State) (n : Nat) : List Nat := (List.range 512).flatMap fun i => leBytes 8 (entryWord (s.entry (512 * n + i)))

/-- A directory page: where its leaf pages stand, with the highest generation each extent held when last evicted (R287). -/
def State.dirBytes (s : State) (n : Nat) : List Nat :=
  (List.range 512).flatMap fun i =>
    let e := 512 * n + i
    leBytes 8 ((match Store.find s.map.onFlash e with | some l => entryWord (.mapped l) | none => 0) +
      2 ^ 39 * (Store.get (fun _ => 0) s.map.evicted e % 2 ^ 25))

/-- A summary page: the summaries of 128 device blocks (R305). -/
def Blk.summary (b : Blk) : List Nat := leBytes 8 b.lowD ++ leBytes 8 b.highD ++ leBytes 8 b.filter.toNat ++ List.replicate 8 0
def State.sumBytes (s : State) (n : Nat) : List Nat :=
  (List.range 128).flatMap fun i => ((s.ofDevBlock (128 * n + i)).map fun k => (s.blk k).summary).getD (List.replicate 32 0)

/-- The data field of a map page, by the number its header carries: series in bits [39:38] (R285). -/
def State.mapPageData (s : State) (page : Nat) : Sector :=
  bytesSector (match page / 2 ^ 38 with
    | 0 => s.leafBytes page
    | 1 => s.dirBytes (page % 2 ^ 38)
    | _ => s.sumBytes (page % 2 ^ 38))

/-- A map page as a codeword: kind 1, under the metadata key (R213, R226). -/
def State.mapCw (s : State) (page q : Nat) : Cw :=
  { kind := 1, lba := page, seq := q, secs := s.sys.life, data := s.mapPageData page, key := s.cdc.keys.get 8 }

/-- MAP_PAGE_WRITEBACK (R285, R286): a dirty map page goes through the encoder to a map block, in a page of its own padded at once. -/
def execMapPageWriteback (page : Nat) (s : State) : Host.Outcome State Fault Refusal :=
  .next (match s.map.cache.find? fun p => p.series == page / 2 ^ 38 && p.num == page % 2 ^ 38, s.openOf .map with
    | some p, some g =>
      if !s.mapRuns || !p.dirty || !g.fill.isEmpty || (s.cdc.enc.any fun e => e.cw.kind == 1 && e.cw.lba == page) then s
      else
        let (id, s1) := s.newId
        match s1.allocIn g.num id with
        | none => s
        | some (l, _, s2) =>
          let (q, s3) := s2.newSeq
          (s3.pushEnc { id, cw := s.mapCw page q, loc := l, alloc := none, encoded := false }).releaseFill g.num 3 (.mapPage page)
    | _, _ => s)

/-- A map block that has lost its last live page: collection or refresh has emptied it (R322, R336), and a failed one is bad (R339). -/
def State.mapEmptied (s : State) (k : Nat) : State :=
  if (s.blk k).valid ≠ 0 then s
  else
    let s1 : State := if s.map.gcMap.contains k then
        State.bumpWrap { s with map := { s.map with gcMap := s.map.gcMap.filter fun x => x != k } } .mapReloc 0 16 1
      else s
    let s2 : State := if (s.blk k).refresh then (s1.refreshStat (s.blk k).cause).refreshDone k else s1
    (s2.retireTry k).releaseOf k

/-- A map page stands in flash: it is clean unless it has changed meanwhile, its old copy is stale, and a leaf page's directory page is
dirty. -/
def State.mapPageOk (s : State) (page : Nat) (l : Loc) : State :=
  let same := (Store.find s.media.cws l.key).any fun c => c.data == s.mapPageData page
  let s1 := match Store.find s.map.onFlash page with
    | some old => (s.setBlk old.blk Blk.lose).mapEmptied old.blk
    | none => s
  let s2 := s1.setBlk l.blk Blk.gain
  let s3 : State := { s2 with map := { s2.map with
    onFlash := Store.ins page l s2.map.onFlash
    cache := s2.map.cache.map fun (p : MapPage) =>
      if p.series = page / 2 ^ 38 ∧ p.num = page % 2 ^ 38 then { p with dirty := p.dirty && !same, owned := false } else p } }
  if page < 2 ^ 38 then s3.touch 1 (page / 512) true else s3

/-! ## Program and erase status (R158, R339 to R341) -/

/-- An erased block leaves the groups whose parity has been released, and a group that nothing belongs to any more is gone (R236, R306). -/
def State.leaveGroups (s : State) (k : Nat) : State :=
  let leave (g : StripeGroup) : StripeGroup := if !g.released then g else { g with
    members := g.members.map fun m => if m = some k then none else m
    dropped := g.dropped.filter fun x => x.1 != k
    parity := g.parity.filter fun p => p.1 != k }
  { s with map := { s.map with groups := (s.map.groups.map leave).filter fun g => !(g.released && g.live.isEmpty && g.dropped.isEmpty && g.parity.isEmpty) } }

/-- A block that an erase returned with status OK. -/
def State.erasedOk (s : State) (k : Nat) : State :=
  let n := satAdd 20 (s.blk k).erase 1
  let s1 := s.setBlk k fun b =>
    { erase := n, st := if b.st = .free ∧ b.use ≠ .none then .opened else .erased, use := if b.st = .free then b.use else .none
      pslc := b.pslc && b.st == .free, floor := b.floor, held := b.held && b.st == .free
      strikes := if b.heavy then min 3 (b.strikes + 1) else b.strikes }
  -- the stripe position it may have held is gone with the codewords
  let s2 := if (s.blk k).refresh then (s1.refreshStat (s.blk k).cause).refreshDone k else s1
  let s3 := (s2.record (.erase k n)).summaryDirty k
  { s3.leaveGroups k with media := { s3.media with
    cws := Store.drop (fun x => blkOfKey x == k) s3.media.cws
    parity := Store.drop (fun x => blkOfKey x == k) s3.media.parity
    interrupted := s3.media.interrupted.filter fun x => blkOfKey x != k
    interruptedBlks := s3.media.interruptedBlks.filter fun x => x != k } }

/-- A block whose erase returned status OK. -/
def State.eraseOk (s : State) (g : Fin 8) (o : GOp) (k : Nat) : State :=
  (s.gal g fun x => x.setTable o.ch (wptErased (x.table o.ch) (k % 65536))).erasedOk k

/-- A block whose erase failed twice is bad; a group that waited for it loses the member, or gets another parity block. -/
def State.eraseLost (s : State) (k : Nat) : State :=
  match s.groupOf k, s.parityOf k with
  | some sg, _ => (s.dropMember sg.num k 0).retireBlk k 2
  | none, some sg => if (s.blk k).st = .free then (s.retireBlk k 2).parityGone sg k else s.retireBlk k 2
  | none, none => s.retireBlk k 2

/-- An erase that returned FAIL (R341): trouble bit 12, one retry, then each failing block is bad; all are where no plane reports FAIL on its
own. -/
def State.eraseFailed (s : State) (g : Fin 8) (o : GOp) (planes : BitVec 4) : State :=
  let s1 := (s.raise 12).gal g fun x => { x with eraseFails := x.eraseFails + 1 }
  if !o.retried then s1.setOp g o.id fun y => { y with running := false, retried := true, outcome := none }
  else
    let one := (List.range o.npl).any fun i => planes.getLsbD i
    ((o.blks g).zipIdx).foldl (fun t x => if planes.getLsbD x.2 || !one then t.eraseLost x.1 else t.eraseOk g o x.1) (s1.dropOp g o.id)

/-- What a program's status OK means for its blocks and its requester. -/
def State.programOk (s : State) (g : Fin 8) (o : GOp) : State :=
  let one (t : State) (k : Nat) : State :=
    let t1 := t.gal g fun x => x.setTable o.ch (wptAdvance (x.table o.ch) (k % 65536) o.pages (t.pagesOf k) o.pslc)
    match t.parityOf k with
    | some _ => t1.parityOk k o.page o.secs
    | none => t1.programmedOk k o.page o.pages o.secs
  let s1 := (o.blks g).foldl one (s.dropOp g o.id)
  match o.need with
  | .mapPage n => s1.mapPageOk n ⟨chamberOf g o.ch, o.block, o.page, 0⟩
  | _ => s1

/-- A failed multi-plane program: each failing plane's block is retired, the others are dropped, evacuated and erased with a strike
(R340). -/
def State.planesFailed (s : State) (g : Fin 8) (o : GOp) (planes : BitVec 4) : State :=
  let one := (List.range o.npl).any fun i => planes.getLsbD i
  ((o.blks g).zipIdx).foldl (fun t x =>
    if planes.getLsbD x.2 || !one then t.programFailed x.1 (o.page + o.pages)
    else (((t.moveProgram x.1 (o.page + o.pages)).closeBlk x.1).setBlk x.1 fun b => { b with heavy := true }).refreshWant x.1 0) s

/-- A program that returned FAIL: of a parity block, the block is retired, and its position and those after it go to a further one. -/
def State.programFail (s : State) (g : Fin 8) (o : GOp) (planes : BitVec 4) : State :=
  let s0 := s.dropOp g o.id
  if o.npl > 1 then s0.planesFailed g o planes
  else match s.parityOf (o.blk g) with
    | some sg =>
      ((((s0.raise 11).gal g fun x => { x with progFails := x.progFails + 1 }).retireBlk (o.blk g) 1).parityAway sg (o.blk g) o.page)
    | none => s0.programFailed (o.blk g) (o.page + o.pages)

/-- ARRAY_OP_COMPLETE (R23 step 4, R158, R178, R339 to R341): a program's or erase's status poll finds it ready, its list runs to its end, and
the list's outcome goes to its requester; a list that polls for something else outlives its timer. -/
def execArrayOpComplete (g : Fin 8) (id : Nat) (failPlanes : BitVec 4) (fail : Bool) (s : State) :
    Host.Outcome State Fault Refusal :=
  .next (match s.op? g id with
    | none => s
    | some o =>
      if !o.running || o.suspended || o.need == .console || !(o.kind == .program || o.kind == .erase) then s
      else
        let s1 := s.finishOp g o { status := if fail then readyFail else ready }
        match s1.opOut g id with
        | some .ok =>
          if o.kind = .program then (s1.programOk g o).settle
          else ((o.blks g).foldl (fun t k => t.eraseOk g o k) (s1.dropOp g id)).settle
        | some .fail => if o.kind = .program then s1.programFail g o failPlanes else s1.eraseFailed g o failPlanes
        | some .timeout => s1.opTimeout g o true
        | _ => s1)

/-! ## Read-verify and release (R235, R236) -/

/-- A codeword passes read-verify: at STEP 0, with corrected bits below the threshold. -/
def State.verifies (s : State) (r : DecodeResult) : Bool := decide (r.raw < s.rewriteBits) && r.crcOk && r.nameOk

/-- The codeword places of a block, in page order. -/
def State.codewordsOf (s : State) (k : Nat) : List Loc :=
  (List.range (s.pagesOf k)).flatMap fun p => (fins 4).map fun c => ⟨chOfBlk k, k % 65536, p, c⟩

/-- A decode at STEP 0 that read-verify cannot take: it failed, or it was a miscorrection. -/
def stepLost (r : DecodeResult) : Bool := decide (r.raw > 295) || !r.crcOk || !r.nameOk

/-- READ_VERIFY (R224, R235): every codeword of a closed member is read at STEP 0.  The member passes, or is scheduled for refresh, and a
codeword that did not decode starts the full order; a CRC or name that did not match is a miscorrection (R223). -/
def execReadVerify (blk : Nat) (results : List DecodeResult) (s : State) : Host.Outcome State Fault Refusal :=
  .next (match s.groupOf blk with
    | none => s
    | some g =>
      if (s.blk blk).st ≠ .closed ∨ !s.mapRuns ∨ results.length ≠ 4 * s.pagesOf blk then s
      else
        let s1 := (s.countRead blk (s.pagesOf blk)).cdcCount .cdcHardCnt 0 32 "hard" results.length
        let s1b := s1.cdcCount .cdcHardBits 0 32 "bits" (sumNat ((results.filter fun r => !stepLost r).map (·.raw)))
        let s1c := results.foldl (fun t r => t.xtsCheck r.xtsFault) s1b
        -- what passes reports its effort to the Assay engine (R225, R261)
        let s2 := if !(s.blk blk).pslc && results.any (fun r => !stepLost r && decide (2 * r.raw ≥ s.rewriteBits)) then s1c.searchPend blk else s1c
        if results.all s.verifies then
          (s2.setGroup g.num fun x => { x with verified := if x.verified.contains blk then x.verified else x.verified ++ [blk] }).releaseTry g.num
        else
          let bad := ((s.codewordsOf blk).zip results).filter fun x => stepLost x.2
          let s3 := bad.foldl (fun t x => (t.startRead x.1 5 (.verify blk)).2) s2
          let s4 := bad.foldl (fun t x => if (decide (x.2.raw ≤ 295) || x.2.converged) then t.miscorrect else t) s3
          let s5 := s4.setGroup g.num fun x => { x with failing := if x.failing.contains blk then x.failing else x.failing ++ [blk] }
          (s5.refreshWant blk 2).releaseTry g.num)

/-! ## Erases and retirement (R292, R297, R330, R361, R342) -/

/-- A block that may be erased: tainted, outside `test` or at `stop test` (R203); or closed, or open and dropped from its group (R327), empty, its
parity released, and two checkpoints past the moment it emptied. -/
def State.erasable (s : State) (k : Nat) : Bool :=
  let b := s.blk k
  let emptied := decide (b.valid = 0) && !b.held && (match b.emptyAt with | some n => decide (n ≥ 2) | none => false) &&
    !(s.map.relocs.any fun r => r.src.blk == k || r.dst.blk == k) && !s.map.shelf.contains k
  match b.st with
  | .tainted => !s.isSt .test || s.con.leaving
  | .closed => emptied
  | .opened => emptied && (s.groupOf k).isNone && b.use != .parity && b.use != .journal
  | _ => false

/-- BLOCK_ERASE (R297, R330, R361): an erasable block is erased, or retired in place of the erase that brings its third strike. -/
def execBlockErase (blk : Nat) (s : State) : Host.Outcome State Fault Refusal :=
  .next (let s := s.releaseOf blk
    if s.mapRuns && s.hasBlk blk && s.erasable blk then
      let b := s.blk blk
      if b.retire ≠ 0 then s.retireTry blk
      else if b.heavy ∧ b.strikes ≥ 2 then s.retireBlk blk 3
      else if s.wptRoom blk then s.queueErase blk
      else s
    else s)

/-- The block a chamber opens next: one that every flow may open, else a floor block, which serves the Sump alone (R292, R293). -/
def State.reserveOf (s : State) (c : Fin 128) : Option Nat :=
  match s.pickBlock c none with
  | some k => some k
  | none => s.pickBlock c (some .sump)

/-- RESERVE_ERASE (R292, R293): a chamber without an erased reserve erases the block it will open next. -/
def execReserveErase (c : Fin 128) (s : State) : Host.Outcome State Fault Refusal :=
  .next (let has := s.map.blks.any fun e => e.1 / 65536 == c.val && e.2.st == .erased && e.2.use == .none
    if s.mapRuns && s.map.present.contains c && !has && !s.suspect c && !(s.con.leaving && s.taintLeft) then
      match s.reserveOf c with
      | some k => if s.wptRoom k then s.queueErase k else s
      | none => s
    else s)

/-- Every block of a chamber becomes bad: an empty one now, a mapped one once evacuated (R342). -/
def State.retireChamber (s : State) (c : Fin 128) : Nat → State
  | 0 => s
  | n + 1 =>
    let k := c.val * 65536 + n
    let s0 := s.retireChamber c n
    -- a member that is still open takes no further program (R339)
    let s1 := if s0.openMember k then s0.moveProgram k (s0.blk k).next else s0
    let b := s1.blk k
    if b.st = .bad then s1
    else if b.valid = 0 then s1.retireBlk k 4
    else (s1.setBlk k fun x => { x with retire := 4 }).refreshWant k 0

/-- CHAMBER_RETIRE (R342): a chamber that has stayed suspect for 24 h of PS0 to PS2. -/
def execChamberRetire (c : Fin 128) (s : State) : Host.Outcome State Fault Refusal :=
  .next (if s.mapRuns && s.suspect c && s.map.present.contains c && decide (Store.get (fun _ => 0) s.map.suspectSecs c.val ≥ 86400) then s.retireChamber c (s.blocksOf c) else s)

end Sys2Proof.Machine
end

