-- ==== Sys2Proof/Machine/Journal.lean ====
section
/-! DEFINITION. Stream pages byte for byte (R362, R363, R364, R367): the journal's records, the codewords they fill, and the root. -/

namespace Sys2Proof.Machine

/-! ## Records (R364) -/

/-- The bytes of a record with its header. -/
def JRec.len : JRec → Nat
  | .opened _ _ ms _ => 8 * ceilDiv (8 + 8 + 4 * ms.length + 4) 8
  | .closed _ | .secureEnd _ | .disturb _ _ | .erase _ _ | .retire _ _ => 16
  | .reloc _ _ _ => 32
  | .dealloc _ _ => 24
  | .secure _ _ _ rs => 16 + 16 * rs.length

/-- A record's type. -/
def JRec.type : JRec → Nat
  | .opened _ _ _ _ => 1 | .closed _ => 2 | .reloc _ _ _ => 3 | .dealloc _ _ => 4 | .secure _ _ _ _ => 5
  | .secureEnd _ => 6 | .disturb _ _ => 7 | .erase _ _ => 8 | .retire _ _ => 9

/-- The flow codes of an open record. -/
def flowNum : Flow → Nat
  | .sump => 0 | .fold => 1 | .relocation => 2 | .map => 3

/-- A record's body, blocks by their device numbers; a location takes 5 B. -/
def State.recBody (s : State) : JRec → List Nat
  | .opened f n ms p => [flowNum f, ms.length, b2n (!s.flowPslc f), 0] ++ leBytes 4 n ++ (ms ++ [p]).flatMap fun k => leBytes 4 (s.devBlock k)
  | .closed k => leBytes 4 (s.devBlock k)
  | .reloc d a b => leBytes 8 d ++ leBytes 8 (entryWord (.mapped a) % 2 ^ 37) ++ leBytes 8 (entryWord (.mapped b) % 2 ^ 37)
  | .dealloc d n => leBytes 8 d ++ leBytes 4 n
  | .secure s0 i n rs => leBytes 6 s0 ++ [i, n] ++ rs.flatMap fun r => leBytes 8 r.1 ++ leBytes 8 r.2
  | .secureEnd s0 => leBytes 6 s0
  | .disturb k n | .retire k n => leBytes 4 (s.devBlock k) ++ [n]
  | .erase k n => leBytes 4 (s.devBlock k) ++ leBytes 4 n

/-- A record: its header, its body and zeros. -/
def State.recBytes (s : State) (q : Nat) (r : JRec) : List Nat := padTo r.len ([r.type, r.len / 8] ++ leBytes 6 q ++ s.recBody r)

/-! ## Journal pages (R362, R363) -/

/-- How many of the records fill a stream page of four codewords of 4080 B of records, none crossing a codeword. -/
def pageTake : List JRec → Nat → Nat → Nat
  | [], _, _ => 0
  | r :: rest, cw, used =>
    if used + r.len ≤ 4080 then 1 + pageTake rest cw (used + r.len)
    else if cw < 3 then 1 + pageTake rest (cw + 1) r.len
    else 0

/-- The codeword of the page that each of those records goes to. -/
def pageCws : List (Nat × JRec) → Nat → Nat → List (Nat × Nat × JRec)
  | [], _, _ => []
  | e :: rest, cw, used =>
    if used + e.2.len ≤ 4080 then (cw, e) :: pageCws rest cw (used + e.2.len)
    else if cw < 3 then (cw + 1, e) :: pageCws rest (cw + 1) e.2.len
    else []

/-- A journal codeword's data field. -/
def State.journalData (s : State) (recs : List (Nat × JRec)) : List Nat :=
  let b := recs.flatMap fun e => s.recBytes e.1 e.2
  [1, 0] ++ leBytes 2 b.length ++ leBytes 6 ((recs.head?.map (·.1)).getD 0) ++ List.replicate 6 0 ++ b

/-- Place a stream codeword, under the metadata key and the next sequence number, in both copies of a position. -/
def State.putStream (s : State) (blks : List Nat) (page : Nat) (cw : Fin 4) (kind lba : Nat) (data : List Nat) : State :=
  let (q, s1) := s.newSeq
  let c : Cw := { kind, lba, seq := q, secs := s.sys.life, data := bytesSector data, key := s.cdc.keys.get 8 }
  blks.foldl (fun t k => t.putCw ⟨chOfBlk k, k % 65536, page, cw⟩ c) s1

/-- Both copies of a journal page: its codewords, and pads where there are no records left. -/
def State.putJournal (s : State) (blks : List Nat) (pos page : Nat) (recs : List (Nat × JRec)) : State :=
  let anchor := ((s.bst.anchors.getLast?).map (·.seq)).getD 0
  let placed := pageCws recs 0 0
  let s1 : State := (fins 4).foldl (fun t j =>
    let mine := (placed.filter fun x => x.1 == j.val).map (·.2)
    if mine.isEmpty then t else t.putStream blks page j 2 (pos % 2 ^ 24 + 2 ^ 24 * (anchor % 2 ^ 16)) (s.journalData mine)) s
  blks.foldl (fun t k => t.padRest k page 1) s1

/-! ## The root (R367) -/

/-- The root's data field, of `n` checkpoint pages from a position on. -/
def Root.bytes (x : Root) (n first : Nat) : List Nat :=
  [1, 0] ++ leBytes 2 n ++ leBytes 4 x.num ++ leBytes 6 x.c ++ leBytes 6 x.r ++ leBytes 4 x.pos ++ leBytes 8 x.secs ++ leBytes 4 x.anchor ++
    List.replicate 28 0 ++ (List.range n).flatMap fun i => leBytes 4 (first + i)

/-- Both copies of the root's page: the root in codeword 0, and pads. -/
def State.putRoot (s : State) (blks : List Nat) (page : Nat) (x : Root) (n first : Nat) : State :=
  blks.foldl (fun t k => t.padRest k page 1) (s.putStream blks page 0 5 0 (x.bytes n first))

end Sys2Proof.Machine
end

