-- ==== Sys2Proof/Machine/Recovery.lean ====
section
/-! DEFINITION. The journal stream, checkpoints, the shelf, mount, the full scan and the recovery of internal faults (chapter 12). -/

namespace Sys2Proof.Machine

/-! ## The journal stream (R362 to R364) -/

/-- The pSLC pages of a shelf block, and the positions of a shelf. -/
def State.shelfPages (s : State) : Nat := (s.refProf.map (·.pagesPslc)).getD 0
def State.positions (s : State) : Nat := 8 * s.shelfPages

/-- The blocks of a position's pair (R362). -/
def State.pairOf (s : State) (pos : Nat) : Nat × Nat :=
  (s.map.shelf.getD (2 * (pos % 8)) 0, s.map.shelf.getD (2 * (pos % 8) + 1) 0)

/-- The shelf block of place `i` lies on this gallery. -/
def shelfGal (i : Nat) : Fin 8 := Fin.ofNat 8 (if i % 2 = 0 then i / 2 else i / 2 + 4)

/-- A chamber can give a shelf block: it is present and not suspect, and its table has an entry for the block's erase (R159, R163). -/
def State.shelfFits (s : State) (c : Fin 128) : Bool :=
  s.map.present.contains c && !s.suspect c &&
    (s.pickBlock c none).any fun k => wptErase ((s.gals.get (galOf c)).table (chIn c)) (k % 65536)

/-- A chamber for a shelf block: on the place's gallery, else on any, without a shelf block already (log entry 22). -/
def State.shelfChamber (s : State) (i : Nat) (used : List Nat) : Option (Fin 128) :=
  let free (c : Fin 128) : Bool := s.shelfFits c && !(used.any fun k => chOfBlk k == c)
  match s.richest ((chambersOf (shelfGal i)).filter free) with
  | some c => some c
  | none =>
    match s.richest ((fins 128).filter free) with
    | some c => some c
    | none => s.richest ((fins 128).filter s.shelfFits)

/-- A block becomes a shelf block: erased where it is not, open, pSLC, use 5, with its write-pointer entry.  One that replaces another stands
at the page its place has come to, which firmware loads with GAL_WPT_LOAD (R172; log entry 22). -/
def State.openShelf (s : State) (k page : Nat) : State :=
  let c := chOfBlk k
  let s1 : State := if (s.blk k).st = .erased then s else s.erasedOk k
  let s2 : State := s1.setBlk k fun x => { x with st := .opened, use := .journal, pslc := true, next := page }
  s2.gal (galOf c) fun x =>
    let t := wptErased (x.table (chIn c)) (k % 65536)
    x.setTable (chIn c) (if page = 0 then t
      else wptPut (fun e => e.st != .free && e.block == k % 65536) { block := k % 65536, next := page, st := .openPslc } t)

/-- Choose and open `n` shelf blocks, from place `i` on. -/
def State.shelfBlocks (s : State) : Nat → Nat → List Nat → List Nat × State
  | 0, _, used => (used, s)
  | n + 1, i, used =>
    match (s.shelfChamber i used).bind fun c => s.pickBlock c none with
    | none => (used, s)
    | some k => (s.openShelf k 0).shelfBlocks n (i + 1) (used ++ [k])

/-! ## Anchors (R369) -/

/-- The owner of each device unit: namespaces 0 to 7, or 255 for a free unit. -/
def State.unitTable (s : State) : List Nat :=
  (List.range (s.userBytes / 2 ^ 30)).map fun u =>
    match (fins 8).find? fun i => match s.map.ns.get i with | some r => r.units.contains u | none => false with
    | some i => i.val
    | none => 0xFF

/-- Program an anchor record with the namespace table. -/
def State.anchorAdd (s : State) : State :=
  let seq := ((s.bst.anchors.getLast?).map (·.seq)).getD 0 + 1
  let head := [0x5A, 0x41, 0x4E, 0x31] ++ leBytes 4 seq ++ leBytes 6 s.map.nextSeq ++ [16, 0] ++
    ((List.range 16).flatMap fun i => leBytes 4 ((s.map.shelf[i]?.map s.devBlock).getD 0)) ++
    ((s.map.floors.toList).flatMap fun f => leBytes 6 f) ++ List.replicate 28 0
  let body := head ++ leBytes 4 (crc32c head) ++ s.unitTable
  let a : Anchor := { seq, counter := s.map.nextSeq, shelf := s.map.shelf, floors := s.map.floors.toList
                      units := s.unitTable.map fun u => if h : u < 8 then some ⟨u, h⟩ else none }
  { s with bst := { s.bst.hAdd 1 body with anchors := (s.bst.anchors ++ [a]).reverse.take 2 |>.reverse } }

/-! ## Checkpoints (R365 to R371) -/

/-- The pages of a full checkpoint (R368). -/
def State.ckptPages (s : State) : Nat :=
  let units := s.userBytes / 2 ^ 30
  let blocks := s.totalBlocks
  1 + ceilDiv (8 * units) 16384 + ceilDiv (16 * 8 * s.map.present.length) 16384 + ceilDiv (ceilDiv blocks 8) 16384 +
    ceilDiv (8 * blocks) 16384 + ceilDiv (4 * blocks) 16384

/-- The scan-start page of every open Sump member: the lowest page holding a codeword allocated at `r` or later. -/
def State.scanStarts (s : State) (r : Nat) : List (Nat × Nat) :=
  (s.map.blks.filter fun e => e.2.use == .sump && e.2.st == .opened).map fun e =>
    let ps := ((s.media.cws.filter fun c => c.1 / (4 * 4096) == e.1 && decide (c.2.seq ≥ r)).map fun c => c.1 / 4 % 4096) ++
      ((s.map.allocs.filter fun a => a.loc.blk == e.1 && decide (a.seq ≥ r)).map fun a => a.loc.page)
    (e.1, ps.foldl min e.2.next)

/-- Write one owned map page to the open map group (R366 step 3), through the encoder and the write-pointer rule; a page that finds no place
there stays dirty, and one that the table refuses ends with ORDER (R159). -/
def State.ckptPage (s : State) (page : Nat) : State :=
  match s.openOf .map with
  | none => s
  | some g =>
    if !g.fill.isEmpty then s
    else
      let (id, s0) := s.newId
      match s0.allocIn g.num id with
      | none => s
      | some (l, _, s1) =>
        let o : GOp := { id, ch := chIn l.chamber, kind := .program, cls := 3, block := l.block, page := l.page, need := .mapPage page }
        if s.suspect l.chamber ∨ !s.accRoom l.blk l.page 1 ∨ !s.openDurable l.blk then s
        else if !(s.gals.get (galOf l.chamber)).passes o then (s.gal (galOf l.chamber) fun x => { x with orders := x.orders + 1 }).raise 13
        else
          let (q, s2) := s1.newSeq
          let s3 : State := (s2.pushEnc { id, cw := s.mapCw page q, loc := l, alloc := none, encoded := true }).accJoin l.blk l.page
          let s4 : State := s3.setGroup g.num fun x => { x with fill := [] }
          let s5 : State := s4.gal (galOf l.chamber) fun x =>
            x.setTable (chIn l.chamber) (wptAdvance (x.table (chIn l.chamber)) l.block 1 (s.pagesOf l.blk) true)
          (s5.programmedOk l.blk l.page 1 s.sys.life).mapPageOk page l

/-- The dirty pages of a series in the cache, by the number their headers carry. -/
def State.dirtyPages (s : State) (series : Nat) : List Nat :=
  (s.map.cache.filter fun p => p.series == series && p.dirty).map fun p => series * 2 ^ 38 + p.num

/-- Write the owned map pages of a series. -/
def State.ckptSeries (s : State) (series : Nat) : State := (s.dirtyPages series).foldl (fun t n => t.ckptPage n) s

/-- The journal records kept are those the roots kept may need. -/
def MapEngine.trim (m : MapEngine) : MapEngine :=
  let roots := m.roots.reverse.take 3 |>.reverse
  let low := roots.foldl (fun a r => min a r.r) (2 ^ 48)
  { m with roots, jDurable := m.jDurable.filter fun e => decide (e.1 ≥ low) }

/-- The page of a position in the blocks of its pair. -/
def shelfPage (pos : Nat) : Nat := pos / 8

/-- The page at which a shelf place is programmed next. -/
def State.placePage (s : State) (i : Nat) : Nat := shelfPage (s.map.pos + (i / 2 % 8 + 8 - s.map.pos % 8) % 8)

/-- Another block takes a shelf place, on another chamber (R362). -/
def State.shelfSwap (s : State) (i : Nat) : State :=
  match (s.shelfChamber i s.map.shelf).bind fun c => s.pickBlock c none with
  | none => s
  | some n =>
    let s1 : State := s.openShelf n (s.placePage i)
    { s1 with map := { s1.map with shelf := s1.map.shelf.set i n } }

/-- A shelf block that is no longer in use closes. -/
def State.shelfClose (s : State) (k : Nat) : State :=
  if (s.blk k).st = .bad then s else (s.closeBlk k).setBlk k fun b => { b with emptyAt := some 0 }

/-- A shelf block is left: what it holds is kept until two checkpoints have followed (R361). -/
def State.shelfLeave (s : State) (i : Nat) : State :=
  match s.map.shelf[i]? with
  | none => s
  | some k => (s.shelfClose k).shelfSwap i

/-- The program of a position in one copy, as the scheduler sees it. -/
def shelfOp (k pos : Nat) : GOp :=
  { id := 0, ch := chIn (chOfBlk k), kind := .program, cls := 3, block := k % 65536, page := shelfPage pos, need := .journal }

/-- Whether one copy of a position may be programmed: an operation of class 3 that no waiting operation of its chamber precedes (R153). -/
def State.copyMay (s : State) (k : Nat) : Bool :=
  let o := shelfOp k s.map.pos
  let g := galOf (chOfBlk k)
  s.mayStart g o && !((s.gals.get g).ops.any fun x => x.ch == o.ch && !x.running && decide (x.effCls < 3) && s.mayStart g x)

/-- Both copies of the next position may be programmed, within the governor's limit (R36). -/
def State.shelfMay (s : State) : Bool :=
  let (a, b) := s.pairOf s.map.pos
  s.copyMay a && s.copyMay b && decide (s.runningOps (fun _ => true) + 1 < s.rf .govStep 8 8)

/-- Before a position is programmed: a copy on a suspect chamber is never issued, and one that the write-pointer rule refuses ends with ORDER
and trouble bit 13 (R159, R163); its place goes to another block. -/
def State.mendCopy (s : State) (i : Nat) : State :=
  match s.map.shelf[i]? with
  | none => s
  | some k =>
    let g := galOf (chOfBlk k)
    if s.suspect (chOfBlk k) then s.shelfLeave i
    else if (s.gals.get g).wptReady && !(s.gals.get g).passes (shelfOp k s.map.pos) then
      ((s.gal g fun x => { x with orders := x.orders + 1 }).raise 13).shelfLeave i
    else s

/-- Both copies of the next position. -/
def State.mendShelf (s : State) : State := (s.mendCopy (2 * (s.map.pos % 8))).mendCopy (2 * (s.map.pos % 8) + 1)

/-- The shelf's blocks have programmed one more position. -/
def State.advance (s0 : State) : State :=
  let s := s0.mendShelf
  let (a, b) := s.pairOf s.map.pos
  let one (t : State) (k : Nat) : State :=
    let c := chOfBlk k
    -- a suspect chamber for which no other was found is not programmed (R163)
    if t.suspect c then t
    else (t.setBlk k fun x => { x with next := x.next + 1 }).gal (galOf c) fun x =>
      x.setTable (chIn c) (wptAdvance (x.table (chIn c)) (k % 65536) 1 s.shelfPages true)
  let s1 : State := one (one s a) b
  { s1 with map := { s1.map with pos := s1.map.pos + 1 } }

def State.advanceN (s : State) : Nat → State
  | 0 => s
  | n + 1 => s.advance.advanceN n

/-- The counters of the MAP block that run on across resets of level 2 and lower (R311 to R324, R353). -/
def mapCounters : List Reg := [.mapLookupKpr, .mapLookupHmb, .mapLookupFlash, .mapCasOk, .mapCasFail, .mapReloc, .mapRetire]

/-- One count of log page C0h. -/
def State.count (s : State) (k : String) : Nat := ((s.map.stats.find? fun e => e.1 == k).map (·.2)).getD 0

/-- What log page C0h counts of each gallery (R78). -/
def State.galCounts (s : State) : List (List Nat) :=
  s.gals.toList.map fun (y : Gallery) => [y.retrains, y.parityErrs, y.timeouts, y.orders, y.progFails, y.eraseFails]

/-- A snapshot's root: c, r, p_r, scan-start pages and the tables. -/
def State.rootOf (s : State) : Root :=
  let c := s.map.nextSeq
  let r := s.map.allocs.foldl (fun x a => min x a.seq) c
  let p := ((s.map.jDurable.filter fun e => decide (e.1 ≥ r)).map fun e => e.2.1).foldl min s.map.pos
  { num := s.map.ckptNum + 1, anchor := ((s.bst.anchors.getLast?).map (·.seq)).getD 0, c, r, pos := p, secs := s.sys.life
    entries := s.map.entries, onFlash := s.map.onFlash, blks := s.map.blks, scanStart := s.scanStarts r
    smart := s.front.smart, stats := s.map.stats, counters := mapCounters.map s.reg
    scans := s.map.scans, patrolOver := s.map.patrolOver, gals := s.galCounts
    health := s.map.health, spare := s.map.spare, secure := s.map.secure.map fun x => (x.s0, x.ranges) }

/-- `stop test` may end: its galleries have trained, and no tainted block waits for its erase (R134, R203). -/
def State.stopReady (s : State) : Bool :=
  ((fins 8).all fun g => (s.gals.get g).profile.isNone || (s.gals.get g).inService || !s.settings.galEnable.get g) &&
    !s.taintLeft

/-- What follows the completion of a checkpoint: the lines and the shutdown that wait for it, and the blocks of R361. -/
def State.ckptDone (s : State) : State :=
  let s1 : State := { s with map := { s.map with
    ckptNum := s.map.ckptNum + 1, ckpts := (s.map.ckpts + 1) % 65536, ckptAge := 0
    sinceCkpt := 0, changed := false, ckptWant := false, sumpSize := s.sumpTarget } }
  let s2 : State := (s1.setRf .mapCkpt 0 16 s1.map.ckpts).setRf .mapCkpt 16 16 0
  let s3 : State := s2.finishJob (fun j => j == .checkpoint) fun _ => ([], ok [])
  let s4 : State := if s3.con.leaving then
      (if s3.stopReady then (State.enter s3 .service).finishStop
      else { s3 with map := { s3.map with ckptWant := true } })
    else s3
  let s5 : State := if s4.front.shst = 1 ∧ s4.front.staging.isEmpty then
      { s4 with front := { s4.front with shst := 2, draining := false }, map := { s4.map with normalShutdown := true } }
    else s4
  s5.settle

/-- The blocks that had emptied by the snapshot of a checkpoint: one more checkpoint has followed (R361). -/
def MapEngine.ageEmpty (m : MapEngine) : MapEngine :=
  { m with blks := m.blks.map fun (e : Nat × Blk) => (e.1, { e.2 with emptyAt := e.2.emptyAt.map (· + 1) }) }

/-- Write the root's page. -/
def State.rootPage (s : State) (root : Root) (n first : Nat) : State :=
  let t := s.mendShelf
  let (a, b) := t.pairOf t.map.pos
  State.advance (t.putRoot [a, b] (shelfPage t.map.pos) root n first)

/-- A checkpoint may be taken: its first position may be programmed, and the chambers of its other pages are free (R153, R157). -/
def State.ckptMay (s : State) : Bool :=
  s.shelfMay && (s.map.shelf.all fun k => s.chamberQuiet (chOfBlk k)) &&
    (match s.openOf .map with | some g => g.live.all fun k => s.chamberQuiet (chOfBlk k) | none => true)

/-- The state section of a checkpoint, its parts in the order in which R368 names them (log entry 77): health state, P, P₀, S, the counters of log page
C0h and of SMART, and the secure-range flag. -/
def State.stateBytes (s : State) (root : Root) : List Nat :=
  let m := root.smart
  [root.health] ++ leBytes 4 root.spare ++ leBytes 4 s.map.spareFirst ++ leBytes 8 s.map.sumpSize ++
    (root.stats.flatMap fun e => leBytes 8 e.2) ++ leBytes 4 root.scans ++ leBytes 4 root.patrolOver ++ (root.gals.flatten.flatMap (leBytes 4 ·)) ++
    ([m.sectorsRead, m.sectorsWritten, m.unitsRead, m.unitsWritten, m.readCmds, m.writeCmds, m.busySecs, m.powerCycles, m.onSecs, m.unsafeShutdowns,
      m.mediaErrors, m.errEntries, m.warnSecs, m.critSecs, m.t1Count, m.t2Count, m.t1Secs, m.t2Secs].flatMap (leBytes 8 ·)) ++
    [b2n root.secure.isSome]

/-- The open list: every block that is open, and neither sealed nor of the shelf, 16 B each. -/
def State.openList (s : State) (root : Root) : List Nat :=
  (s.map.blks.filter fun e => e.2.st == .opened && !e.2.sealed && e.2.use != .journal).flatMap fun e =>
    let g := match s.groupOf e.1 with | some x => some x | none => s.parityOf e.1
    leBytes 4 (s.devBlock e.1) ++ [(g.map fun x => flowNum x.flow).getD 0] ++ leBytes 2 ((g.map (·.closedPos)).getD 0) ++
      leBytes 2 (((root.scanStart.find? fun x => x.1 == e.1).map (·.2)).getD 0) ++ leBytes 2 e.2.next ++ [0, 0, 0, 0, 0]

/-- The sections of R368 in their order: the pages of each, and its bytes from an offset on, 4096 of them. -/
def State.ckptSections (s : State) (root : Root) : List (Nat × (Nat → List Nat)) :=
  let units := s.userBytes / 2 ^ 30
  let blocks := s.totalBlocks
  let cut (l : List Nat) (o : Nat) : List Nat := (l.drop o).take 4096
  let of_ (w : Nat) (f : Nat → List Nat) (o : Nat) : List Nat := (List.range (4096 / w)).flatMap fun i => f (o / w + i)
  let at_ (n : Nat) : Blk := ((s.ofDevBlock n).map s.blk).getD {}
  [(1, cut (s.stateBytes root)),
   (ceilDiv (8 * units) 16384, of_ 8 fun n => leBytes 8 (((Store.find root.onFlash (2 ^ 38 + n)).map fun l => entryWord (.mapped l)).getD 0)),
   (ceilDiv (16 * 8 * s.map.present.length) 16384, cut (s.openList root)),
   (ceilDiv (ceilDiv blocks 8) 16384, of_ 1 fun n => [sumNat ((List.range 8).map fun j => if (at_ (8 * n + j)).st == .bad then 2 ^ j else 0)]),
   (ceilDiv (8 * blocks) 16384, of_ 8 fun n => leBytes 8 (at_ n).word),
   (ceilDiv (4 * blocks) 16384, of_ 4 fun n => leBytes 4 (at_ n).health)]

/-- 4096 bytes of a page of the checkpoint content. -/
def ckptBytes : List (Nat × (Nat → List Nat)) → Nat → Nat → List Nat
  | [], _, _ => []
  | (n, f) :: rest, page, o => if page < n then f (16384 * page + o) else ckptBytes rest (page - n) o

/-- Write a checkpoint page to both copies of the next position: codeword j of page i carries index 4i + j (R367, R368). -/
def State.ckptPut (s : State) (l : List (Nat × (Nat → List Nat))) (i : Nat) : State :=
  let t := s.mendShelf
  let (a, b) := t.pairOf t.map.pos
  State.advance ((fins 4).foldl (fun u j => u.putStream [a, b] (shelfPage t.map.pos) j 5 (4 * i + j.val) (ckptBytes l (i - 1) (4096 * j.val))) t)

/-- Take a checkpoint: the snapshot; the owned map pages, leaves before the directories that name them; the checkpoint pages; and the root in a
page of its own. -/
def State.checkpoint (s : State) : State :=
  let s0 : State := { s with map := s.map.ageEmpty }
  let s1 : State := ((s0.ckptSeries 0).ckptSeries 2).ckptSeries 1
  let n := s.ckptPages
  let root : Root := { s.rootOf with onFlash := s1.map.onFlash, blks := s1.map.blks, pages := n, first := s1.map.pos }
  let s2 : State := ((List.range n).foldl (fun t i => t.ckptPut (s1.ckptSections root) (i + 1)) s1).rootPage root n s1.map.pos
  State.ckptDone { s2 with map := { s2.map with roots := s2.map.roots ++ [root] }.trim }

/-- Open a new shelf: sixteen erased blocks, an anchor naming them, the stream from position 0; the old blocks wait for two checkpoints. -/
def State.shelfOpen (s : State) : State :=
  let old := s.map.shelf
  let (bs, s1) := s.shelfBlocks 16 0 []
  let s2 : State := old.foldl State.shelfClose s1
  State.anchorAdd { s2 with map := { s2.map with shelf := bs, pos := 0, ckptWant := true } }

/-- Free positions of the shelf. -/
def State.freePositions (s : State) : Nat := s.positions - s.map.pos

/-- A change-over is due (R370). -/
def State.shelfDue (s : State) : Bool := decide (s.freePositions < s.ckptPages + 1024)

/-- Erases wait only on checkpoints while free blocks are short (R361). -/
def State.eraseWaits (s : State) : Bool :=
  s.urgent && s.map.blks.any fun e =>
    e.2.st == .closed && e.2.valid == 0 && !e.2.held && match e.2.emptyAt with | some n => decide (n < 2) | none => false

/-- The map is loaded: mounted, or at the checkpoint that ends a mount. -/
def State.mapLoaded (s : State) : Bool := !s.inReset && (s.map.mounted || s.map.walked)

/-- CHECKPOINT_TIMER (R365): a second of lifetime in which the map changed, or 64 MiB of sectors committed, triggers a checkpoint. -/
def execCheckpointTimer (s : State) : Host.Outcome State Fault Refusal :=
  .next (if s.mapUp && s.map.changed then { s with map := { s.map with ckptWant := true } } else s)

/-- Mount has ended: the engine serves; namespaces report ready; the retention sweep is due after a reset of level 1 or 0 (R333, R378). -/
def State.mountDone (s : State) : State :=
  let cold := s.map.cold
  let s1 : State := State.nsReady { s with map := { s.map with mounted := true, cold := false, sweepDue := cold || s.map.sweepDue } }
  let s2 : State := s1.setRf .mapMount 16 16 (Config.freeNat s1.free)
  (State.bootCheck s2.takeFree).secureTick.sanitizeOn

/-- A copy of the shelf that returned program status FAIL: its block is retired (R339, R362). -/
def State.copyFail (s : State) (i : Nat) : State :=
  let k := s.map.shelf.getD i 0
  ((s.raise 11).gal (galOf (chOfBlk k)) fun x => { x with progFails := x.progFails + 1 }).retireBlk k 5

/-- Both copies of a stream page failed: trouble bit 24, and a new shelf (R371). -/
def State.bothFail (s : State) : State :=
  let i := 2 * ((s.map.pos - 1) % 8)
  (((s.copyFail i).copyFail (i + 1)).raise 24).shelfOpen

/-- CHECKPOINT (R361, R365, R366, R370, R371): a checkpoint that has been asked for is taken; a root that fails three times in a row opens a
new shelf and leaves the checkpoint to be taken again.  The checkpoint that ends a mount ends it.  Its pages are programs of class 3, which
wait for their chambers and the governor's limit (R36, R153), and pause in PS3 and PS4 (R84). -/
def execCheckpoint (rootFails : Nat) (s : State) : Host.Outcome State Fault Refusal :=
  .next (if s.mapLoaded && decide (s.sys.ps.val ≤ 2) && (s.map.ckptWant || s.eraseWaits) && decide (s.map.shelf ≠ []) then
      let s1 : State := s.mendShelf
      if !s1.ckptMay then s1
      else if rootFails ≥ 3 then ((s1.advanceN 3).raise 24).shelfOpen
      else
        let t := (s1.advanceN rootFails).checkpoint
        if s.map.mounted then t else t.mountDone
    else s)

/-- SHELF_CHANGE_OVER (R370): a new shelf, its anchor, and a full checkpoint on it. -/
def execShelfChangeOver (s : State) : Host.Outcome State Fault Refusal :=
  .next (if s.mapRuns && s.shelfDue && s.ckptMay then s.shelfOpen.checkpoint else s)

/-- JOURNAL_PAGE_PROGRAM (R356, R362, R363, R371): the buffer's first page of records goes to the next position; durable once both copies
returned OK.  A copy that fails has its block retired and replaced, and the page is written again at the next position; both open a new
shelf. -/
def execJournalPageProgram (failA failB : Bool) (s : State) : Host.Outcome State Fault Refusal :=
  .next (let recs : List (Nat × JRec) := s.map.jBuf.take (pageTake (s.map.jBuf.map (·.2)) 0 0)
    if s.mapLoaded && decide (s.sys.ps.val ≤ 2) && !recs.isEmpty && decide (s.map.shelf ≠ []) && decide (s.freePositions > 0) then
      let t := s.mendShelf
      let pos := t.map.pos
      let i := 2 * (pos % 8)
      if !t.shelfMay then t
      else if failA && failB then t.advance.bothFail
      else if failA then (t.advance.copyFail i).shelfSwap i
      else if failB then (t.advance.copyFail (i + 1)).shelfSwap (i + 1)
      else
        let (a, b) := t.pairOf pos
        let s1 : State := (t.putJournal [a, b] pos (shelfPage pos) recs).advance
        let nums := recs.map (·.1)
        let hs : List Hdr := ((t.map.jWait.filter fun w => nums.contains w.1).map (·.2)).eraseDups
        let s2 : State := { s1 with map := { s1.map with
          jBuf := s1.map.jBuf.filter fun e => !nums.contains e.1
          jDurable := s1.map.jDurable ++ recs.map fun (e : Nat × JRec) => (e.1, pos, e.2)
          jWait := t.map.jWait.filter fun w => !nums.contains w.1 } }
        (hs.foldl (fun t h => t.ioTry h) s2).settle
    else s)

/-! ## What mount rebuilds (R373) -/

/-- An event of mount: a user codeword found, or a journal record. -/
inductive Ev where
  | data (seq d : Nat) (l : Loc)
  | journal (seq : Nat) (r : JRec)

def Ev.seq : Ev → Nat
  | .data q _ _ => q
  | .journal q _ => q

/-- The map, the block records, the spare count and the secure range as mount rebuilds them. -/
structure Built where
  entries : Store Entry
  blks : Store Blk
  spare : Nat
  floorLost : Nat := 0
  secure : Option (Nat × List (Nat × Nat)) := none
  last : Option Nat := none
  high : Nat
  /-- the lifetime hour that a block closed after the root is taken to have closed in: the mount's own (DESIGN CHOICE, log entry 83) -/
  hour : Nat := 0

def Built.blk (b : Built) (k : Nat) (f : Blk → Blk) : Built := { b with blks := Store.modify blk0 b.blks k f }

/-- Replace an entry; valid counts follow. -/
def Built.put (b : Built) (d : Nat) (x : Entry) : Built :=
  let b1 := match Store.get (fun _ => Entry.unmapped) b.entries d with
    | .mapped l => b.blk l.blk Blk.lose
    | _ => b
  let b2 := match x with
    | .mapped l => b1.blk l.blk Blk.gain
    | _ => b1
  { b2 with entries := Store.set (fun _ => Entry.unmapped) b2.entries d x }

/-- The summary of a block that a user codeword was found in, or moved to, grows (R305). -/
def Built.cover (b : Built) (l : Loc) (d : Nat) : Built := b.blk l.blk fun x => x.cover d

/-- A block named by an open record takes its use; it is open at once where it was erased. -/
def Blk.take (b : Blk) (use : BlkUse) (pslc : Bool) : Blk :=
  { b with st := if b.st = .erased then .opened else b.st, use, pslc }

/-- Apply one event. -/
def Built.apply (pslc : Flow → Bool) (b : Built) (e : Ev) : Built :=
  let b := { b with high := max b.high e.seq }
  match e with
  | .data q d l => let b := b.cover l d; if b.last = some q then b else { b.put d (.mapped l) with last := some q }
  | .journal _ r =>
    match r with
    | .opened flow _ ms pk => (ms.foldl (fun x k => x.blk k fun y => y.take (flowUse flow) (pslc flow)) b).blk pk fun y => y.take .parity true
    | .closed k => b.blk k fun y => { y with st := .closed, closedH := b.hour, closeSeq := e.seq }
    | .reloc d src dst => let b := b.cover dst d; if Store.get (fun _ => Entry.unmapped) b.entries d = .mapped src then b.put d (.mapped dst) else b
    | .dealloc first n => ((b.entries.filter fun x => decide (first ≤ x.1 ∧ x.1 < first + n)).map (·.1)).foldl (fun x d => x.put d .unmapped) b
    | .secure s0 _ _ rs => { b with secure := some (s0, ((match b.secure with | some x => if x.1 = s0 then x.2 else [] | none => []) ++ rs).eraseDups) }
    | .secureEnd s0 => { b with secure := if b.secure.any fun x => x.1 == s0 then none else b.secure }
    | .disturb k n => b.blk k fun y => { y with eighths := max y.eighths n }
    | .erase k n => b.blk k fun y =>
        if y.st = .opened ∧ y.highD < y.lowD then { y with erase := n, reads := 0, eighths := 0 }
        else { erase := n, st := if y.st = .free ∧ y.use ≠ .none then .opened else .erased, use := if y.st = .free then y.use else .none
               pslc := y.pslc && y.st == .free, floor := y.floor, strikes := y.strikes, valid := y.valid }
    | .retire k n =>
      if (Store.get blk0 b.blks k).st = .bad then b
      else { b.blk k fun y => { y with st := .bad, use := .none, retire := n, refresh := false, cause := 0, floor := false } with
             spare := b.spare - 1, floorLost := b.floorLost + (if b.spare = 0 then 1 else 0) }

/-- Sort events by sequence number, keeping the order of equals. -/
def evSort (l : List Ev) : List Ev := l.mergeSort fun a b => decide (a.seq ≤ b.seq)

/-- The user codewords found in given pages, numbered at `low` or higher, as events; those that do not read are left out. -/
def State.found (s : State) (bad : List Nat) (low : Nat) (page : Nat → Nat → Bool) : List Ev :=
  s.media.cws.filterMap fun e =>
    if e.2.kind = 0 ∧ e.2.seq ≥ low ∧ page (e.1 / (4 * 4096)) (e.1 / 4 % 4096) ∧ !bad.contains e.1 then
      (s.cwSector e.2).map fun d =>
        .data e.2.seq d ⟨chOfBlk (e.1 / (4 * 4096)), e.1 / (4 * 4096) % 65536, e.1 / 4 % 4096, Fin.ofNat 4 e.1⟩
    else none

/-- The journal records numbered `r` or higher. -/
def State.journalFrom (s : State) (r : Nat) : List Ev :=
  (s.map.jDurable.filter fun e => decide (e.1 ≥ r)).map fun e => .journal e.1 e.2.2

/-- The Sump members mount scans from a root, with their first pages. -/
def State.scanSet (s : State) (root : Root) : List (Nat × Nat) :=
  root.scanStart ++ (s.map.jDurable.filter fun e => decide (e.1 ≥ root.r)).flatMap fun e => match e.2.2 with
    | .opened .sump _ ms _ => ms.map fun k => (k, 0)
    | _ => []

/-- One past the last page programmed in a block, as its codewords and interrupted pages show it, in whole programs. -/
def State.frontier (s : State) (k : Nat) : Nat :=
  let ps := ((s.media.cws.filter fun e => e.1 / (4 * 4096) == k).map fun e => e.1 / 4 % 4096 + 1) ++
    ((s.media.interrupted.filter fun n => n / (4 * 4096) == k).map fun n => n / 4 % 4096 + 1)
  let n := s.perProgram k
  ceilDiv (ps.foldl max 0) n * n

/-! ## Blocks that were open (R374, R375) -/

/-- A block that was open, or was to be opened, in a group. -/
def Blk.wasOpen (b : Blk) : Bool :=
  (b.st == .opened || (b.st == .free && b.use != .none)) && b.use != .journal

/-- The frontier check: a member that was open has its last programmed page found (R374). -/
def State.frontiers (s : State) : State :=
  { s with map := { s.map with blks := s.map.blks.map fun (e : Nat × Blk) =>
    (e.1, if e.2.wasOpen ∧ e.2.use ≠ .parity then { e.2 with next := max e.2.next (s.frontier e.1) } else e.2) } }

/-- The accumulators mount rebuilt from the live members' pages are programmed to a group's parity block, its descriptor first: every position
that a live member programmed has its parity page (R375). -/
def State.sealParity (s : State) (g : StripeGroup) : State :=
  match g.parity.getLast? with
  | none => s
  | some (k, first) =>
    let top := g.live.foldl (fun a m => max a (s.blk m).next) 0
    if !g.isOpen || top ≤ first then s
    else
      let t : State := if (s.blk k).next = 0 then (s.describe g k first).putEncs k 0 1 |>.padRest k 0 1 else s
      let u : State := t.setBlk k fun b => { b with next := max b.next (min (s.pagesOf k - 1) (1 + (top - first))) }
      u.gal (galOf (chOfBlk k)) fun x => { x with ops := x.ops.filter fun o => !(o.ch == chIn (chOfBlk k) && o.block == k % 65536) }

/-- After a reset of level 1 or 0 every such block is sealed and queued for refresh with cause 5, and its group is closed. -/
def State.seal (s0 : State) : State :=
  let s : State := s0.map.groups.foldl (fun t g => t.sealParity g) s0.frontiers
  let any_ := s.map.blks.any fun e => e.2.wasOpen
  let s1 : State := { s with map := { s.map with
    blks := s.map.blks.map fun (e : Nat × Blk) => (e.1, if e.2.wasOpen then
      { e.2 with st := .closed, sealed := true, refresh := true, cause := 5, closedH := s.sys.life / 3600 % 65536, closeSeq := s.map.nextSeq
                 emptyAt := if e.2.valid = 0 then some 0 else none } else e.2)
    groups := s.map.groups.map fun (g : StripeGroup) => { g with isOpen := false, fill := [], accs := [], closing := [] } } }
  s1.setRf .mapMount 3 1 (b2n any_)

/-- The write-pointer tables loaded again from the block records, before any gallery accepts a program (R160). -/
def State.tablesBack (s : State) : State := (fins 8).foldl (fun t g => t.reloadWpt g) s

/-- A block whose erase was interrupted is neither erased nor programmed: one that was to be opened, or erased, is erased once more before use
(R52, R364). -/
def State.eraseAgain (s : State) : State :=
  s.media.interruptedBlks.foldl (fun t k => t.setBlk k fun b => if b.st = .erased then { b with st := .free } else b) s

/-- After a level 2 reset open blocks continue past their interrupted pages: next pages, accumulators and parity programs follow what the
live members hold. -/
def State.resumeGroups (s : State) : State :=
  let s1 : State := { s with map := { s.map with
    blks := s.map.blks.map fun (e : Nat × Blk) => (e.1, if e.2.st = .opened ∧ e.2.use ≠ .journal ∧ e.2.use ≠ .parity then { e.2 with next := max (s.frontier e.1) 0 } else e.2) } }
  let regroup (t : State) (g : StripeGroup) : State :=
    if !g.isOpen then t.setGroup g.num fun x => { x with fill := [] }
    else
      let next (i : Nat) : Nat := match g.members.getD i none with | some k => (t.blk k).next | none => 0
      let top := (List.range g.members.length).foldl (fun a i => max a (next i)) 0
      let has (p : Nat) : List Nat := g.live.filter fun k => decide ((t.blk k).next > p)
      let closed (p : Nat) : Bool := (List.range g.members.length).all fun i => (g.members.getD i none).isNone || decide (next i > p)
      let ps := (List.range (top - g.closedPos)).map (· + g.closedPos)
      let newClosed := ps.filter closed
      let t1 : State := t.setGroup g.num fun x => { x with
        fill := []
        accs := (x.accs.filter fun a => x.closing.contains a.1) ++ ps.map fun p => (p, has p)
        closedPos := x.closedPos + newClosed.length, closing := x.closing ++ newClosed }
      let pk := (g.parity.getLast?.map (·.1)).getD 0
      let first := (g.parity.getLast?.map (·.2)).getD 0
      let done := g.closedPos - g.closing.length - first
      let t2 : State := t1.setBlk pk fun b => { b with next := if g.closedPos = 0 then b.next else 1 + done }
      let t3 : State := if (t2.blk pk).next = 0 then t2.describe g pk first else t2
      (g.closing ++ newClosed).foldl (fun u p => match u.group? g.num with
        | some y => u.queueParity y p
        | none => u) t3
  let s2 : State := s1.map.groups.foldl regroup s1
  s2.eraseAgain.tablesBack

/-! ## First mount (R296, R338, R344, R392) -/

/-- FUSE_SPARE_PCT as read (R344). -/
def Fuses.spare (f : Fuses) : Nat := if 5 ≤ f.sparePct ∧ f.sparePct ≤ 25 then f.sparePct else 12

/-- Floor blocks (R296). -/
def Profile.floorBlocks (p : Profile) : Nat := ceilDiv (4 * 2 ^ 30) p.pslcBytes

/-- How many blocks every chamber gives that has them, where `n` are taken as evenly as the counts allow. -/
def floorLevel : Nat → Nat → List Nat → Nat
  | 0, _, _ => 0
  | f + 1, n, caps =>
    let l := n / max 1 caps.length
    if caps.all fun c => decide (l ≤ c) then l
    else floorLevel f (n - sumNat (caps.filter fun c => decide (c < l))) (caps.filter fun c => decide (l ≤ c))

/-- Mark floor blocks: chambers in index order, as evenly as their counts allow (R296). -/
def State.markFloor (s : State) (n : Nat) : State :=
  let good (c : Fin 128) : List Nat := ((List.range (s.blocksOf c)).map fun b => c.val * 65536 + b).filter fun k => (s.blk k).st != .bad
  let cs := (fins 128).filter fun c => s.map.present.contains c
  let l := floorLevel 128 n (cs.map fun c => (good c).length)
  let extra := n - sumNat (cs.map fun c => min l (good c).length)
  let more := (cs.filter fun c => decide (l < (good c).length)).take extra
  cs.foldl (fun t c => ((good c).take (l + b2n (more.contains c))).foldl (fun u k => u.setBlk k fun b => { b with floor := true }) t) s

/-- The chain record at a mount of the master (R391, R392): while no namespace exists it takes N from the devices present. -/
def State.formChain (s : State) : State :=
  let empty := s.map.ns.all (·.isNone)
  if s.isMaster && (empty || s.bst.chain.isNone) then
    let n := popCount 4 s.teth.present.toNat
    let (id, s1) := match s.bst.chain with
      | some c => (c.id, s)
      | none => (BitVec.ofNat 32 (Config.freeNat s.free % (2 ^ 32 - 1) + 1), s.takeFree)
    let rec_ : ChainRec := { id, n, stripeLog2 := if empty then 0 else (s.bst.chain.map (·.stripeLog2)).getD 0, index := 0 }
    let s2 : State := { s1 with
      bst := { s1.bst.hAdd 4 (leBytes 4 id.toNat ++ [n, rec_.stripeLog2, 0, 0]) with chain := some rec_ }
      teth := { s1.teth with chain := some rec_ } }
    if s2.teth.td.st = .up then s2.sendHello .td else s2
  else { s with teth := { s.teth with chain := s.bst.chain } }

/-- The bad-block bitmap copies with their descriptors (R506). -/
def State.saveBad (s : State) (bad : List Nat) : State :=
  let n := s.totalBlocks
  let bits := (List.range (ceilDiv n 8)).map fun i => sumNat ((List.range 8).map fun j => if bad.contains (8 * i + j) then 2 ^ j else 0)
  let desc (c : Nat) : List Nat := [c, 0, 0, 0] ++ leBytes 4 n ++ leBytes 4 (crc32c bits) ++ [0, 0, 0, 0]
  let b1 := ((s.bst.progBytes 0x530000 bits).hAdd 3 (desc 0)).progBytes 0x540000 bits
  { s with bst := { b1.hAdd 3 (desc 1) with badTable := some bad } }

/-- Every block of the present chambers. -/
def State.allBlocks (s : State) : List Nat := s.map.present.flatMap fun c => (List.range (s.blocksOf c)).map fun b => c.val * 65536 + b

/-- First mount: the factory markers, the spare pool, the floor, the shelf. -/
def State.firstMount (s : State) (p : Profile) (markers : List Nat) : State :=
  let bad := (markers.filter fun n => decide (n < s.totalBlocks)).eraseDups
  let s0 : State := s.allBlocks.foldl (fun t k => t.countRead k (popCount 16 p.bbmMask)) s
  let s1 : State := (bad.filterMap s.ofDevBlock).foldl (fun t k => t.setBlk k fun b => { b with st := .bad }) s0
  let g := s.totalBlocks - bad.length
  let pct := s.sys.fuses.spare
  let p0 := ceilDiv (g * pct) 100
  let fb := p.floorBlocks
  let m := ceilDiv g 128
  let w := 8 * s.map.present.length
  let s2 : State := (s1.markFloor fb).saveBad bad
  let s3 : State := { s2.tablesBack with map := { s2.tablesBack.map with
    spare := p0, spareFirst := p0, floorBlocks := fb, floorNeed := fb, userBlocks := g - p0 - fb - m - w, nextSeq := 1, health := 0 } }
  s3.saveHealth.shelfOpen

/-! ## Mount (R372 to R378) -/

/-- The roots mount may take, in order: the two newest of the newest anchor's shelf, then the newest of the previous anchor's shelf. -/
def State.rootChoices (s : State) : List Root :=
  let rs := s.map.roots.reverse
  let a := ((s.bst.anchors.getLast?).map (·.seq)).getD 0
  (rs.filter fun r => r.anchor == a).take 2 ++ (rs.filter fun r => r.anchor != a).take 1

/-- Each closed or open block's reads after a reset of level 1 or 0 (R328). -/
def State.floorReads (s : State) : State :=
  { s with map := { s.map with blks := s.map.blks.map fun (e : Nat × Blk) => (e.1,
      if e.2.st = .closed ∨ e.2.st = .opened then
        { e.2 with reads := min 65535 (max e.2.reads ((e.2.eighths + 1) * s.disturbLimit e.1 / 8)) } else e.2) } }

/-- Members of groups whose parity is not released are held (R235, R291). -/
def State.holdMembers (s : State) : State :=
  s.map.groups.foldl (fun t g => if g.released then t else
    (g.live ++ g.parity.map (·.1)).foldl (fun u k => u.setBlk k fun b => { b with held := true }) t) s

/-- After a zeroize: new media keys, floors at the counter, an empty map (R536). -/
def State.afterZeroize (s : State) : State :=
  if !s.vault.zeroized then s
  else
    let s1 : State := (fins 8).foldl (fun t i => if (t.map.ns.get i).isSome then t.newKey i else t) s
    let s2 : State := { s1 with
      vault := { s1.vault with zeroized := false }
      map := { s1.map with
        floors := s1.map.floors.zipWith (fun f (n : Option NsRec) => if n.isSome then s1.map.nextSeq else f) s1.map.ns
        entries := []
        blks := s1.map.blks.map fun (e : Nat × Blk) => (e.1, { e.2 with valid := 0, emptyAt := if e.2.valid > 0 then some 0 else e.2.emptyAt }) } }
    s2.anchorAdd

/-- The tables of a root with the events after it applied. -/
def State.rebuild (s : State) (root : Root) (bad : List Nat) : Built :=
  let scan := s.scanSet root
  let page (k p : Nat) : Bool := scan.any fun x => x.1 == k && decide (p ≥ x.2)
  let evs := evSort (s.journalFrom root.r ++ s.found bad root.r page)
  evs.foldl (fun b e => b.apply s.flowPslc e)
    { entries := root.entries, blks := root.blks, spare := root.spare, secure := root.secure, high := 0, hour := s.sys.life / 3600 }

/-- A Sump codeword of the scanned pages that was programmed OK and does not read cannot name its sector (R375). -/
def State.lostName (s : State) (root : Root) (bad : List Nat) : Bool :=
  let scan := s.scanSet root
  bad.any fun n => Store.has s.media.cws n && scan.any fun x => x.1 == n / (4 * 4096) && decide (n / 4 % 4096 ≥ x.2)

/-- The generations that the directory pages in flash keep of their extents (R287). -/
def State.dirGens (s : State) (onFlash : Store Loc) : Store Nat :=
  onFlash.foldl (fun m e =>
    match (if e.1 / 2 ^ 38 = 1 then Store.find s.media.cws e.2.key else none) with
    | some c =>
      let b := sectorBytes c.data
      (List.range 512).foldl (fun m i => Store.set (fun _ => 0) m (512 * (e.1 % 2 ^ 38) + i) (leNat ((b.drop (8 * i)).take 8) / 2 ^ 39)) m
    | none => m) []

/-- The counters of log page C0h that a checkpoint's state section holds beside the statistics (R78, R368). -/
def State.countersBack (s : State) (root : Root) : State :=
  (root.gals.zip (fins 8)).foldl (fun t x => match x.1 with
    | [a, b, c, d, e, f] => t.gal x.2 fun y => { y with retrains := a, parityErrs := b, timeouts := c, orders := d, progFails := e, eraseFails := f }
    | _ => t) { s with map := { s.map with
        scans := root.scans + b2n (s.rf .mapScan 0 3 != 0), patrolOver := root.patrolOver } }

/-- Load what was rebuilt: tables, the sequence counter, health and spare pool, counters. -/
def State.load (s : State) (root : Root) (b : Built) : State :=
  let cold := s.map.cold
  let h := (s.bst.healthRec.map (·.1)).getD 0
  let s1 : State := { s with
    map := { s.map with
      entries := b.entries, onFlash := root.onFlash, evicted := s.dirGens root.onFlash, blks := b.blks, nextSeq := max root.c (b.high + 1)
      health := max root.health h, spare := b.spare, floorNeed := (s.refProf.map (·.floorBlocks)).getD 0
      spareFirst := (s.bst.healthRec.map fun x => x.2.2.1).getD s.map.spareFirst
      userBlocks := s.map.userBlocks, stats := root.stats
      secure := match b.secure with
        | some x => if cold then some { hdr := none, s0 := x.1, ranges := x.2, candidates := [], hits := [], phase := 1, resumed := true } else none
        | none => none }
    front := if cold then { s.front with smart := { root.smart with
        powerCycles := s.front.smart.powerCycles, errEntries := s.front.smart.errEntries } } else s.front
    sys := { s.sys with life := if root.secs ≥ s.sys.life then root.secs + 1 else s.sys.life } }
  let s2 : State := match b.secure with
    | some x => if cold then s1 else s1.record (.secureEnd x.1)
    | none => s1
  let s3 : State := (mapCounters.zip root.counters).foldl (fun t e => t.setReg e.1 e.2) (if cold then s2.countersBack root else s2)
  s3.floorFit 0 ((root.blks.countP fun e => e.2.floor) - b.floorLost)

/-- The scan begins (R379, R380). -/
def State.beginScan (s : State) : State :=
  let s1 : State := (s.raise 25).enter .recovery
  (({ s1 with map := { s1.map with scans := s1.map.scans + 1, mountPath := 3 } }).setReg .mapScan 1).setRf .mapMount 0 2 3

/-- U's blocks from the pool as first mount fixed it (R344). -/
def State.userBlocksNow (s : State) : State :=
  let bad := ((s.bst.badTable).getD []).length
  let g := s.totalBlocks - bad
  let n := g - s.map.spareFirst - s.map.floorNeed - ceilDiv g 128 - 8 * s.map.present.length
  { s with map := { s.map with userBlocks := n } }

/-- The reads of a binary search over `n` pages (log entry 78). -/
def probes (n : Nat) : Nat := Nat.log2 n + 1

/-- Reads of the first copies of a run of stream positions. -/
def State.readStream (s : State) (first n : Nat) : State :=
  (List.range n).foldl (fun t i => t.countRead (t.pairOf (first + i)).1 1) s

/-- The array reads of a mount from a root (R326, R372 to R375): the search for each pair's last position, the root and the pages it lists, the journal
from p_r, the pages scanned, and for every block that was open its frontier and the positions whose accumulators are rebuilt. -/
def State.mountReads (s : State) (root : Root) (cold : Bool) : State :=
  let s1 : State := (List.range 8).foldl (fun t i => t.countRead (t.pairOf i).1 (probes t.shelfPages)) s
  let s2 : State := (s1.readStream root.first (root.pages + 1)).readStream root.pos (s1.map.pos - root.pos)
  let s3 : State := (s2.scanSet root).foldl (fun t x => t.countRead x.1 (t.frontier x.1 - x.2)) s2
  let opens := (s3.map.blks.filter fun e => e.2.wasOpen && e.2.use != .parity).map (·.1)
  let s4 : State := if cold then opens.foldl (fun t k => t.countRead k (probes (t.pagesOf k) + 1 + b2n (!(t.blk k).pslc))) s3 else s3
  opens.foldl (fun t k => match t.groupOf k with
    | some g => t.countRead k (t.frontier k - g.closedPos)
    | none => t) s4

/-- Mount from a root that reads. -/
def State.mountFrom (s : State) (root : Root) (skipped : Nat) (bad : List Nat) : State :=
  let cold := s.map.cold
  let b := s.rebuild root bad
  let s1 : State := ((s.load root b).mountReads root cold).raiseIf (s.lostName root bad) 17
  let s2 : State := (s1.raiseIf (decide (skipped > 0)) 24).setRf .mapMount 2 1 (b2n (decide (skipped > 0)))
  let s3 : State := s2.holdMembers.userBlocksNow
  let s4 : State := if cold then s3.floorReads.seal.eraseAgain.tablesBack else s3.resumeGroups
  let s5 : State := (s4.afterZeroize).setRf .mapMount 0 2 (if cold then 1 else 2)
  let s6 : State := { s5 with map := { s5.map with mountPath := if cold then 1 else 2, quiesceRec := [], ckptWant := true } }
  if cold then s6 else s6.mountDone

/-- Mount may begin: firmware runs, nothing is mounted, no scan runs, every gallery with a profile has trained, and on a master every
device of the chain record has answered or been declared absent (R378, R411). -/
def State.mountReady (s : State) : Bool :=
  !s.inReset && s.sys.fw && !s.map.mounted && !s.map.walked && s.map.mountPath == 0 &&
    ((fins 8).all fun g => let x := s.gals.get g
      x.toInstall.isNone && (x.profile.isNone || x.inService || !(s.settings.galEnable.get g))) &&
    (s.gals.any fun g => g.profile.isSome) &&
    (!s.isMaster || [1, 2, 3].all fun k => !(decide (k < (s.bst.chain.map (·.n)).getD 1)) || s.teth.present.getLsbD k || s.teth.absent.getLsbD k)

/-- A mount of the kind R350 counts: after a reset of level 1 or 0 that no normal shutdown preceded. -/
def State.countUnsafe (s : State) : State :=
  if s.map.cold then
    { s with
      front := { s.front with smart := if s.map.normalShutdown then s.front.smart
        else { s.front.smart with unsafeShutdowns := s.front.smart.unsafeShutdowns + 1 } }
      map := { s.map with normalShutdown := false } }
  else s

/-- MOUNT (R296, R338, R372 to R375, R378): first mount where the boot store holds no bad-block table; the full scan where no root serves or
the journal has a gap; else the newest root whose pages read, and the events after it.  DESIGN CHOICE (log entry 82): after a first mount MAP_MOUNT.path
reads 1. -/
def execMount (m : MountInput) (s : State) : Host.Outcome State Fault Refusal :=
  .next (if s.mountReady then
      match s.refProf with
      | none => s
      | some p =>
        if s.totalBlocks > 524288 then s.enter .recovery
        else
          let s0 : State := { s.formChain with bst := s.formChain.bst.ringMount.badMount }
          let bad := m.unreadable.map Loc.key
          if s0.bst.badTable.isNone then
            let s1 : State := (s0.firstMount p m.badMarkers).countUnsafe
            ({ s1 with map := { s1.map with mountPath := 1 } }).setRf .mapMount 0 2 1
          else
            match (s0.rootChoices.drop m.rootsBad).head? with
            | some root =>
              if m.journalGap || s0.bst.anchors.isEmpty then s0.beginScan
              else (s0.mountFrom root m.rootsBad bad).countUnsafe
            | none => s0.beginScan
    else s)

/-- BLOCK_TABLE_WALK (R295, R376): the walk after mount: S, the counts, and the refresh queue from the refresh bits.  After a reset of
level 1 or 0 the checkpoint that ends the mount follows it. -/
def execBlockTableWalk (s : State) : Host.Outcome State Fault Refusal :=
  .next (if !s.inReset && !s.map.walked && (s.map.mountPath == 1 || s.map.mountPath == 2) then
      let s1 : State := s.refreshScan
      { s1 with map := { s1.map with walked := true, sumpSize := s1.sumpTarget, ckptWant := true } }
    else s)

/-! ## The full scan (R379 to R381) -/

/-- The newest checkpoint content found, or nothing. -/
def State.scanBase (s : State) : Root :=
  (s.map.roots.getLast?).getD
    { num := 0, anchor := 0, c := 1, r := 0, pos := 0, secs := s.sys.life, entries := [], onFlash := s.map.onFlash, blks := [], scanStart := []
      smart := s.front.smart, stats := s.map.stats, counters := mapCounters.map s.reg
      scans := s.map.scans, patrolOver := s.map.patrolOver, gals := s.galCounts, health := 0, spare := s.map.spareFirst }

/-- Phase 4: the map of the media, every codeword found and every record applied in sequence order; a codeword replaces an entry only if
its number is higher than that of the codeword the entry names. -/
def State.scanBuilt (s : State) : Built :=
  let base := s.scanBase
  let newer (e : Ev) : Bool := match e with
    | .journal _ _ => true
    | .data q d _ => match Store.get (fun _ => Entry.unmapped) base.entries d with
      | .mapped l => match Store.find s.media.cws l.key with
        | some c => decide (q > c.seq)
        | none => true
      | _ => decide (q ≥ base.r)
  let evs := evSort ((s.journalFrom base.r ++ s.found [] 0 fun _ _ => true).filter newer)
  evs.foldl (fun b e => b.apply s.flowPslc e) { entries := base.entries, blks := base.blks, spare := base.spare, secure := base.secure, high := base.c - 1, hour := s.sys.life / 3600 }

/-- The mean erase count of a chamber's recorded blocks. -/
def meanErase (blks : Store Blk) (c : Nat) : Nat :=
  let l := blks.filter fun e => e.1 / 65536 == c
  if l.isEmpty then 0 else sumNat (l.map fun e => e.2.erase) / l.length

/-- The array reads of the scan: page 0 of every good block, and every programmed page of the Sump, map and shelf blocks (R326, R379). -/
def State.scanReads (s t : State) : State :=
  s.allBlocks.foldl (fun u k =>
    let b := u.blk k
    if b.st = .bad then u
    else u.countRead k (1 + (if b.use == .sump || b.use == .map || b.use == .journal then s.frontier k else 0))) t

/-- Phase 5: the block records: a block that holds programmed codewords and has no record takes its chamber's mean erase count and reads
of half its limit. -/
def State.scanBlocks (s : State) (b : Built) : State :=
  let s1 : State := s.scanReads (s.load s.scanBase b)
  let ks := (s.media.cws.map fun e => e.1 / (4 * 4096)).eraseDups
  let s2 : State := ks.foldl (fun t k => if Store.has s.scanBase.blks k then t else
    t.setBlk k fun x => { x with
      st := if x.st = .free then .opened else x.st, use := if x.use = .none then .native else x.use
      erase := meanErase s.scanBase.blks (k / 65536), reads := t.disturbLimit k / 2 }) s1
  s2.holdMembers.userBlocksNow.floorReads.seal.eraseAgain.tablesBack

/-- FULL_SCAN (R379, R380): the phase under way ends; the fifth ends with a full checkpoint on a new shelf and its anchor. -/
def execFullScan (s : State) : Host.Outcome State Fault Refusal :=
  .next (let ph := s.rf .mapScan 0 3
    if s.inReset || ph == 0 then s
    else if ph < 5 then s.setRf .mapScan 0 3 (ph + 1)
    else
      let s1 : State := ((s.scanBlocks s.scanBuilt).afterZeroize).countUnsafe
      let s2 : State := { s1 with map := { s1.map with walked := true } }
      let s3 : State := (s2.shelfOpen.checkpoint).mountDone.setReg .mapScan 0
      if s3.gals.any (·.profile.isNone) then s3 else s3.enter .service)

/-! ## Internal faults (R383, R384) and the return from PS4 (R377) -/

/-- MAP_ENGINE_WATCHDOG (R384, R578): firmware restarts the engine from Keeper state, nothing it holds is lost, and writes an alarm log entry
with source 29. -/
def execMapEngineWatchdog (s : State) : Host.Outcome State Fault Refusal :=
  .next (if s.inReset then s
    else
      let s1 : State := s.raise 29
      { s1 with bst := s1.bst.alarmAdd { source := 29, origin := s.index, action := 0, tether := false, lostBefore := false,
                                         secs := s.sys.life, detail := 0 } })

/-- CORE_WATCHDOG (R383, R546): trouble bit 53, cause bit 8, and a reset at its fused level, level 2 by default. -/
def execCoreWatchdog (s : State) : Host.Outcome State Fault Refusal :=
  .next (if s.inReset ∨ !s.sys.fw then s
    else ({ s with front := { s.front with stopped := true } }.raise 53).requestFused 8)

/-- The blocks the patrol read, in the order of the patrol table from the position it started at. -/
def patrolled (table : List (Nat × Bool)) (start n : Nat) : List Nat :=
  let ks := table.map (·.1)
  let from_ := (ks.filter fun k => decide (k ≥ start)) ++ ks.filter fun k => decide (k < start)
  if ks.isEmpty then [] else (List.range n).map fun i => from_.getD (i % ks.length) 0

/-- The block records are loaded: waiting changes and the patrol's reads are applied, and erase counts go into the patrol queue. -/
def State.reloadRecords (s : State) : State :=
  let s0 : State := { s with map := { s.map with recordsLoaded := true, changeLog := [], patrolReads := 0 } }
  let s1 : State := s.map.changeLog.foldl (fun t k => t.countRead k 1) s0
  let s2 : State := (patrolled s.map.patrolTable s.map.patrolStart s.map.patrolReads).foldl (fun t n => match t.ofDevBlock n with
    | some k => t.countRead k 1
    | none => t) s1
  { s2 with map := { s2.map with patrolQ := s2.map.patrolQ.map fun q => (q.1, if q.2 = 0xFFFFFFFF then
      ((s2.ofDevBlock q.1).map fun k => (s2.blk k).erase).getD 0 else q.2) } }

/-- A patrol queue entry is still of the fill it was flagged in (R332). -/
def State.patrolLive (s : State) (q : Nat × Nat) : Option Nat :=
  match s.ofDevBlock q.1 with
  | some k => if (s.blk k).erase = q.2 ∧ (s.blk k).st = .closed then some k else none
  | none => none

/-- PS4_RECORD_RELOAD (R116, R331, R332, R377): after an exit from PS4 the records reload from both copies of the checkpoint's pages, and
queued patrol blocks move to the refresh queue; an entry whose erase count no longer matches is dropped.  A page that reads in neither copy
starts the full scan, and the map is unmounted (R372, R379); whether one does the row does not say, and a free value does (log entry 4). -/
def execPs4RecordReload (s : State) : Host.Outcome State Fault Refusal :=
  .next (if s.inReset || s.map.recordsLoaded || s.sys.ps.val ≥ 3 then s
    else if Config.freeBool s.free then
      State.beginScan { s with free := s.free + 1, map := { s.map with
        recordsLoaded := true, mounted := false, walked := false, ns := s.map.ns.map fun n => n.map fun r => { r with ready := false } } }
    else
      let s0 : State := State.reloadRecords { s with free := s.free + 1 }
      -- both copies of every checkpoint page are read (R326, R377)
      let s1 : State := match s.map.roots.getLast? with
        | some r => (List.range r.pages).foldl (fun t i => (t.countRead (t.pairOf (r.first + i)).1 1).countRead (t.pairOf (r.first + i)).2 1) s0
        | none => s0
      let s2 : State := (s1.map.patrolQ.filterMap s1.patrolLive).foldl (fun t k => t.refreshWant k 3 true) s1
      { s2 with map := { s2.map with patrolQ := [] } })

end Sys2Proof.Machine
end

