-- ==== Sys2Proof/Machine/Assay.lean ====
section
/-! DEFINITION. The Assay engine and the governor (chapter 9): sensors, valley search, thermal and power steps, the temperature history, the
retention sweep and the Flowstone patrol. -/

namespace Sys2Proof.Machine

/-! ## Temperatures (R255, R256, R269, R273) -/

/-- The chambers with a die and a profile. -/
def State.populated (s : State) : List (Fin 128) := (fins 128).filter fun c => s.map.present.contains c && (s.prof c).isSome

/-- The hottest chamber: its temperature in °C, its index, whether an estimate. -/
def State.hottest (s : State) : Option (Int × Nat × Bool) :=
  s.populated.foldl (fun o c =>
    let t := s.chamberTemp c
    match o with
    | none => some (t.1, c.val, t.2)
    | some x => if t.1 > x.1 then some (t.1, c.val, t.2) else o) none

/-- The composite temperature in quarters of a degree. -/
def State.composite (s : State) : Int :=
  let die := if s.sys.ps.val = 4 then 4 * s.assay.aonC else s.assay.dieQ
  match s.hottest with
  | some (t, _, _) => max die (4 * t)
  | none => die

/-- ASSAY_TEMP after a sample. -/
def State.tempReg (s : State) : State :=
  let (h, c, e) := (s.hottest).getD (0, 0, false)
  s.setReg .assayTemp (BitVec.ofNat 32 ((BitVec.ofInt 12 s.assay.dieQ).toNat + 4096 * (BitVec.ofInt 12 (4 * h)).toNat + 2 ^ 24 * c + 2 ^ 31 * b2n e))

/-- A gallery whose chambers have moved more than 15 °C from the reference of its last training retrains (R150). -/
def State.driftCheck (s : State) (g : Fin 8) : State :=
  match s.assay.trainRef.get g with
  | some r => if (s.galTemp g - r).natAbs > 15 then s.markRetrain g else s
  | none => s

/-- The thermal trip (R269): trouble bit 52, its count, and a reset from source 12 held until the always-on sensor has cooled. -/
def State.trip (s : State) : State :=
  let s1 : State := s.raise 52
  let s2 : State := { s1 with sys := { s1.sys with hist := { s1.sys.hist with trips := s1.sys.hist.trips + 1 } } }
  let s3 : State := s2.requestFused 12
  { s3 with sys := { s3.sys with tripHold := true } }

/-- Whether a gallery's half is powered (R33). -/
def State.galPowered (s : State) (g : Fin 8) : Bool := s.sys.doms.getLsbD (if g.val < 4 then 5 else 6)

/-- The nearest whole degree of quarters, halves upward. -/
def wholeC (q : Int) : Int := (q + 2) / 4

/-- TEMPERATURE_SAMPLE (R255, R269). -/
def execTemperatureSample (which : Sensor) (quarterC : Int) (s : State) : Host.Outcome State Fault Refusal :=
  .next (match which with
    | .die =>
      if s.sys.ps.val = 4 then s
      else
        let hot := if quarterC ≥ 500 then s.assay.hot + 1 else 0
        let s1 : State := State.tempReg { s with assay := { s.assay with dieQ := quarterC, hot } }
        if hot = 2 ∧ !s.sys.tripHold then s1.trip else s1
    | .alwaysOn =>
      let c := wholeC quarterC
      let hot := if c ≥ 125 ∧ s.sys.ps.val = 4 then s.assay.aonHot + 1 else 0
      let s1 : State := { s with
        assay := { s.assay with aonC := c, aonHot := hot }
        sys := { s.sys with tripHold := s.sys.tripHold && decide (c ≥ 110) } }
      if hot = 2 ∧ !s.sys.tripHold then s1.trip else s1
    | .pad g =>
      if s.galPowered g then
        (State.tempReg { s with assay := { s.assay with padQ := setAt s.assay.padQ g quarterC } }).driftCheck g
      else s)

/-- The card maker's chamber temperature list is present for a chamber (R256). -/
def State.tempList (s : State) (c : Fin 128) : Bool := (((s.gals.get (galOf c)).slots.getD 32 none).map fun x => x.kind == 0).getD false

/-- Run a chamber's temperature list: its outcome, and what it left in S; without an answer of the die it times out. -/
def State.runTemp (s : State) (c : Fin 128) (answer : Option (List Byte)) : Outc × Int × State :=
  let g := galOf c
  let x := (s.gals.get g).auxCtx (chIn c)
  let a : DieAnswer := match answer with
    | some b => { status := ready, bytes := b }
    | none => { status := 0 }
  let t := (s.endRun g (chIn c)).runList g x 32 {} a
  (t.lastOut g x, ((t.gals.get g).ctxGet x.val).lastS.toInt, t)

/-- CHAMBER_TEMPERATURE_LIST (R256): slot 32 runs on a chamber; what it leaves in S is the chamber's temperature, and an outcome other than ok
gives the estimate.  It waits for its chamber as an operation of class 7, and after three that ended fail or timeout in a row it is not run there
again; before its gallery's first read it does not run. -/
def execChamberTemperatureList (c : Fin 128) (answer : Option (List Byte)) (s : State) : Host.Outcome State Fault Refusal :=
  .next (let fails := Store.get (fun _ => 0) s.assay.listFails c.val
    if !s.inReset && decide (s.sys.ps.val ≤ 2) && s.populated.contains c && s.tempList c && decide (fails < 3) && (s.gals.get (galOf c)).hasRead && s.mayRun c then
      let (o, v, t) := s.runTemp c answer
      let s1 : State := match o with
        | .ok => { t with assay := { t.assay with
            chTemp := Store.ins c.val (v, false) t.assay.chTemp
            listFails := Store.set (fun _ => 0) t.assay.listFails c.val 0 } }
        | .fail | .timeout => { t with assay := { t.assay with
            chTemp := Store.del c.val t.assay.chTemp
            listFails := Store.set (fun _ => 0) t.assay.listFails c.val (fails + 1) } }
        | _ => { t with assay := { t.assay with chTemp := Store.del c.val t.assay.chTemp } }
      (s1.tempReg).driftCheck (galOf c)
    else s)

/-! ## Rails and power (R255, R257, R274, R275) -/

/-- The averages of a millisecond, of ten samples: controller power and card current (R255, R274). -/
def State.report (s : State) : State :=
  if s.assay.powAcc.length < 10 then s
  else
    let mw := sumNat (s.assay.powAcc.map (·.1)) / 10
    let ma := sumNat (s.assay.powAcc.map (·.2)) / 10
    let s1 : State := { s with assay := { s.assay with powAcc := [], ctlMw := mw, isnsMa := ma } }
    s1.setReg .assayPwr (BitVec.ofNat 32 (mw % 65536 + 65536 * (ma % 65536)))

/-- RAIL_SAMPLE (R255, R257): every 100 µs, voltages and currents of the five rails, and the ISNS input; controller power, the sum over the rails, and
card current are reported as averages of a millisecond.  DESIGN CHOICE (log entries 66, 74): in PS3 ISNS is sampled; a value past its register field
wraps. -/
def execRailSample (mv ma : Vector Nat 5) (isnsMv : Nat) (s : State) : Host.Outcome State Fault Refusal :=
  .next (let s0 : State := { s with sys := { s.sys with railMv := mv } }
    if s.sys.ps.val = 4 ∨ s.inReset then s0
    else
      let v := min 1200 isnsMv
      let gain := s.settings.govIsnsGain
      let isnsMa := if gain = 0 then 0 else v * 1000 / gain
      let mw := sumNat ((List.range 5).map fun i => mv.toList.getD i 0 * ma.toList.getD i 0) / 1000
      let s1 : State := { s0 with assay := { s.assay with railMv := mv, railMa := ma, isnsMv := v, powAcc := s.assay.powAcc ++ [(mw, isnsMa)] } }
      (s1.report).setReg .assayRail (BitVec.ofNat 32 (mv.toList.getD 2 0 % 4096 + 65536 * (mv.toList.getD 0 0 % 4096))))

/-- Card power, once `gov.isns_gain` is set; controller power before that (R257, R268). -/
def State.cardMw (s : State) : Nat :=
  if s.settings.govIsnsGain = 0 then s.assay.ctlMw else s.assay.isnsMa * s.assay.railMv.toList.getD 0 0 / 1000

/-! ## The governor (R266 to R268) -/

/-- The thresholds of steps 1 to 5, each at least the one before. -/
def State.govThresholds (s : State) : List Int :=
  let up (a : List Int) (x : Int) : List Int := a ++ [max x (a.getLast?.getD x)]
  [s.govT1, s.govT1 + 5, s.govT2, s.govT2 + 5, s.govT2 + 10].foldl up []

/-- The step the composite reaches: a threshold at or above 125 °C has no effect, and 125 °C itself gives step 5. -/
def State.thermalReach (s : State) (q : Int) : Nat :=
  let th := s.govThresholds
  let n := ((List.range 5).filter fun i => decide (th.getD i 125 < 125 ∧ q ≥ 4 * th.getD i 125)).foldl (fun a i => max a (i + 1)) 0
  if q ≥ 500 then max n 5 else n

/-- The thermal step after a tick: up at once, down by one after 100 ms at least 3 °C below the step's threshold.  DESIGN CHOICE (log entry 79): a step
whose threshold is at or above 125 °C is lowered as if that threshold were 125 °C. -/
def State.thermalTick (s : State) : State :=
  let q := s.composite
  let cur := s.gov.thermal
  let n := s.thermalReach q
  if n > cur then
    let s1 : State := { s with gov := { s.gov with thermal := n, cool := 0 } }
    let s2 : State := s1.raiseIf (cur == 0) 51
    { s2 with front := { s2.front with smart := { s2.front.smart with
      t1Count := s2.front.smart.t1Count + (if cur < 1 then 1 else 0)
      t2Count := s2.front.smart.t2Count + (if cur < 3 ∧ n ≥ 3 then 1 else 0) } } }
  else if cur > 0 ∧ q ≤ 4 * (min 125 (s.govThresholds.getD (cur - 1) 125) - 3) then
    if s.gov.cool + 1 ≥ 100 then { s with gov := { s.gov with thermal := cur - 1, cool := 0 } }
    else { s with gov := { s.gov with cool := s.gov.cool + 1 } }
  else { s with gov := { s.gov with cool := 0 } }

/-- The controller limit of a power state, mW (R33). -/
def ctlLimit : Fin 5 → Nat
  | 0 => 4500 | 1 => 3000 | _ => 1800

/-- The power component after a tick. -/
def State.powerTick (s : State) : State :=
  let lim := ctlLimit s.sys.ps
  let cap := s.settings.govCapMw
  let above := decide (s.assay.ctlMw > lim) || decide (s.cardMw > cap)
  let under := decide (10 * s.assay.ctlMw < 9 * lim) && decide (10 * s.cardMw < 9 * cap)
  let cnt := if above then s.gov.overCnt + 1 else 0
  let since := s.gov.sinceRise + 1
  let um := if under then s.gov.underMs + 1 else 0
  if cnt ≥ 2 ∧ since ≥ 5 then
    { s with gov := { s.gov with power := min 6 (max s.gov.thermal s.gov.power + 1), sinceRise := 0, overCnt := cnt, underMs := 0 } }
  else if um ≥ 20 then
    { s with gov := { s.gov with power := s.gov.power - 1, sinceRise := since, overCnt := 0, underMs := 0 } }
  else { s with gov := { s.gov with sinceRise := since, overCnt := cnt, underMs := um } }

/-- The limits of a step (R266): concurrent operations, gallery rate ceiling. -/
def stepLimit : Nat → Nat × Nat
  | 0 => (128, 0) | 1 => (96, 0) | 2 => (64, 0) | 3 => (48, 3200) | 4 => (32, 2400) | 5 => (16, 1600) | _ => (8, 800)

/-- Apply the step: GOV_STEP, and the galleries whose rate it changes are marked for retraining. -/
def State.applyStep (s : State) : State :=
  let step := max s.gov.thermal s.gov.power
  let (ops, ceil) := stepLimit step
  let s1 : State := s.setReg .govStep (BitVec.ofNat 32 (step + 16 * s.gov.thermal + 256 * ops + 65536 * ceil))
  (fins 8).foldl (fun t g => t.rateChanged g (s.firmRate g)) s1

/-- A temperature the host set a threshold for has passed it (R69, R82). -/
def State.tempWarn (s : State) : Bool :=
  let k (q : Int) : Int := wholeC q + 273
  let hot := ((s.hottest).map fun x => 4 * x.1).getD s.assay.dieQ
  let ts := [k s.composite, k s.assay.dieQ, k hot]
  (List.range 3).any fun i => decide (ts.getD i 0 ≥ s.front.feats.overK.toList.getD i 0xFFFF ∨ ts.getD i 0 ≤ s.front.feats.underK.toList.getD i 0)

/-- A millisecond has passed. -/
def State.countMs (s : State) : State :=
  { s with sys := { s.sys with lifeMs := min 999 (s.sys.lifeMs + 1) }, map := { s.map with ckptAge := satAdd 16 s.map.ckptAge 1 } }

/-- A temperature past a threshold of the host posts its event (R69, R82). -/
def State.govShown (s : State) : State := if s.tempWarn then s.smartEvent 1 1 else s

/-- A Secure Deallocate that has its candidates goes on to scan them (R307). -/
def State.secureNext (s : State) : State :=
  match s.map.secure with
  | some x => if x.phase = 2 ∧ s.mapUp then s.secureTick else s
  | none => s

/-- GOVERNOR_TICK (R266 to R268, R385): each millisecond in PS0 to PS2, and the millisecond counts that the model takes from it. -/
def execGovernorTick (s : State) : Host.Outcome State Fault Refusal :=
  .next (if s.inReset ∨ s.sys.ps.val ≥ 3 then s else ((s.countMs.thermalTick.powerTick.applyStep).govShown).secureNext)

/-! ## Valley search (R261 to R264) -/

/-- The closed native blocks of a group. -/
def State.groupBlocks (s : State) (c : Fin 128) (q : Nat) : List (Nat × Blk) :=
  s.map.blks.filter fun e => e.1 / 65536 == c.val && e.1 % 65536 / 64 == q && e.2.st == .closed && !e.2.pslc && !e.2.sealed &&
    (e.2.use == .native)

/-- The sample block: the most mapped sectors, among equals the one closed earliest. -/
def State.sampleBlock (s : State) (c : Fin 128) (q : Nat) : Option Nat :=
  ((s.groupBlocks c q).foldl (fun o e => match o with
    | none => some e
    | some x => if e.2.valid > x.2.valid ∨ (e.2.valid = x.2.valid ∧ e.2.closeSeq < x.2.closeSeq) then some e else o) none).map (·.1)

/-- The count of a trial, if it was measured. -/
def trialCount (counts : List (Nat × Int × Nat)) (j : Nat) (d : Int) : Option Nat :=
  (counts.find? fun x => x.1 == j && x.2.1 == d).map (·.2.2)

/-- Try moves in order against the best so far; none where a trial was not measured. -/
def tryMoves (counts : List (Nat × Int × Nat)) (lo hi v : Int) (j : Nat) : List Int → Int × Nat → Option (Int × Nat)
  | [], b => some b
  | d :: r, b =>
    if lo ≤ v + d ∧ v + d ≤ hi then
      match trialCount counts j d with
      | none => none
      | some n => tryMoves counts lo hi v j r (if n < b.2 then (d, n) else b)
    else tryMoves counts lo hi v j r b

/-- An entry's moves that lie in the accepted range. -/
def movesIn (lo hi v : Int) (ds : List Int) : List Int := ds.filter fun d => decide (lo ≤ v + d ∧ v + d ≤ hi)

/-- One entry: the coarse moves, then the neighbours of the best; the move, its count, and the moves tried in their order. -/
def searchEntry (counts : List (Nat × Int × Nat)) (lo hi v : Int) (j : Nat) : Option (Int × Nat × List Int) :=
  match trialCount counts j 0 with
  | none => none
  | some n0 =>
    match tryMoves counts lo hi v j [-6, -3, 3, 6] (0, n0) with
    | none => none
    | some b =>
      let near := [b.1 - 1, b.1 + 1].filter fun d => !([0, -6, -3, 3, 6].contains d)
      (tryMoves counts lo hi v j near b).map fun x => (x.1, x.2, 0 :: movesIn lo hi v [-6, -3, 3, 6] ++ movesIn lo hi v near)

/-- The search over a vector whose entries before these are moved already: the new entries, the count of the last one, and the trials made, each
with its vector. -/
def searchVec (counts : List (Nat × Int × Nat)) (lo hi : Int) : List Int → List Int → Option (List Int × Nat × List (Nat × Int × List Int))
  | _, [] => some ([], 0, [])
  | pre, v :: r =>
    match searchEntry counts lo hi v pre.length with
    | none => none
    | some (d, n, tried) =>
      match searchVec counts lo hi (pre ++ [v + d]) r with
      | none => none
      | some (vs, m, l) =>
        some ((v + d) :: vs, if r.isEmpty then n else m, (tried.map fun x => (pre.length, x, pre ++ [v + x] ++ r)) ++ l)

/-- The profile supplies hook 26. -/
def State.hook26 (s : State) (c : Fin 128) : Bool := ((s.prof c).map fun p => p.lists.any fun x => x.1 == 26).getD false

/-- The pages a search reads of its sample block, with the codeword each is compared with: those of the final wordline, or the final page alone
where a reference did not decode; the final page's reference is the sentinel image (R262). -/
def State.searchPages (s : State) (k : Nat) (p : Profile) (refs : List RefRead) : List (Nat × List Nat) :=
  let last := s.pagesOf k - 1
  let others := (refs.take (p.ppw - 1)).filterMap fun r => match r with | .read cw _ => some cw | _ => none
  if others.length + 1 < p.ppw then [(last, sentinelImage)]
  else ((others.zipIdx).map fun x => (last + 1 - p.ppw + x.2, x.1)) ++ [(last, sentinelImage)]

/-- The count of each trial: the flips of codeword 3 of every page read, raw ⊕ keystream ⊕ reference (R215, R262). -/
def searchCounts (k : Nat) (pages : List (Nat × List Nat)) (trials : List (Nat × Int × List (List Nat))) : List (Nat × Int × Nat) :=
  trials.map fun t => (t.1, t.2.1, sumNat (List.zipWith (fun (x : Nat × List Nat) raw =>
    flipCount raw (randomise (rndSeed (k % 65536) x.1 (k / 65536)) 13824 x.2)) pages t.2.2))

/-- A sentinel read: hook 26, then slot 20; its flips, or none where the list did not bring it (R215, R265).  A cache run on the chamber ends
first (R155). -/
def State.sentinelRead (s : State) (k page : Nat) (pslc : Bool) (raw : Option (List Nat)) : Option Nat × State :=
  let c := chOfBlk k
  let g := galOf c
  let x := (s.gals.get g).auxCtx (chIn c)
  let ctx : SeqCtx := { blk := BitVec.ofNat 16 k, page := BitVec.ofNat 12 page, col := 13824, len := 576, pslc, buf := s.poolBuf }
  let a : DieAnswer := match raw with
    | some b => { status := ready, bytes := b.map (BitVec.ofNat 8) }
    | none => { status := 0 }
  let s1 : State := State.endRun { s with free := s.free + 1 } g (chIn c)
  let t := (s1.applyOffsets g x ctx).runList g x 20 ctx a
  (if t.lastOut g x = .ok then raw.map (sentinelFlips (k % 65536) page c.val) else none, t)

/-- A trial: hook 26 with the trial's vector as the tracked vector, then slot 20, on every page (R262). -/
def State.trialReads (s : State) (k : Nat) (pages : List (Nat × List Nat)) (vec : List Int) (raws : List (List Nat)) : State :=
  let c := chOfBlk k
  let q := k % 65536 / 64
  let r := s.ofs c q
  let s1 : State := s.setOfs c q { r with vec, temp := (s.chamberTemp c).1 }
  let s2 : State := (pages.zipIdx).foldl (fun t x => ((t.countRead k 1).sentinelRead k x.1.1 false (some (raws.getD x.2 []))).2) s1
  s2.setOfs c q r

/-- One reference of a search: an ordinary read of codeword 3 of a page at STEP 0, by slot 1, with its hard decode (R262). -/
def State.refRead (s : State) (k page : Nat) (r : RefRead) : State :=
  let c := chOfBlk k
  let g := galOf c
  let x := (s.gals.get g).auxCtx (chIn c)
  let ctx : SeqCtx := { blk := BitVec.ofNat 16 k, page := BitVec.ofNat 12 page, col := 13824, len := 576, buf := s.poolBuf }
  let a : DieAnswer := match r with
    | .timedOut => { status := 0 }
    | _ => { status := ready }
  let s1 : State := State.endRun { s.countRead k 1 with free := (s.countRead k 1).free + 1 } g (chIn c)
  let t := s1.runList g x 1 ctx a
  match r with
  | .read _ bits => (t.cdcCount .cdcHardCnt 0 32 "hard").cdcCount .cdcHardBits 0 32 "bits" bits
  | .failed => t.cdcCount .cdcHardCnt 0 32 "hard"
  | .timedOut => t

/-- Read the references of a search: the pages of the final wordline before the last, up to the first that fails or times out; one the row does not give
fails. -/
def State.refReads (s : State) (k : Nat) (p : Profile) : List RefRead → Nat → State
  | _, 0 => s
  | refs, n + 1 =>
    let r := refs.headD .failed
    let t := s.refRead k (s.pagesOf k - 1 - (n + 1)) r
    match r with
    | .read _ _ => t.refReads k p (refs.drop 1) n
    | _ => t

/-- Search a group: the record is written, or the search is abandoned where a trial or reference timed out, the chamber is suspect, or its temperature
moved (R264).  DESIGN CHOICE (log entry 80): a sum of flips past the record's 16 bits wraps. -/
def State.search (s : State) (c : Fin 128) (q : Nat) (trials : TrialRun) (refs : List RefRead) : Bool × State :=
  match s.prof c, s.sampleBlock c q with
  | some p, some k =>
    let r := s.ofs c q
    let pages := s.searchPages k p refs
    let s1 : State := s.refReads k p refs (p.ppw - 1)
    let late := (refs.take (p.ppw - 1)).contains .timedOut
    match (if s.suspect c || late then none else searchVec (searchCounts k pages trials.reads) p.ofsLo p.ofsHi [] r.vec) with
    | none => (false, s1.bump .assaySearch 16 8 1)
    | some (vec, best, made) =>
      let rawOf (j : Nat) (d : Int) : List (List Nat) := ((trials.reads.find? fun t => t.1 == j && t.2.1 == d).map (·.2.2)).getD []
      let s2 : State := made.foldl (fun t x => t.trialReads k pages x.2.2 (rawOf x.1 x.2.1)) s1
      if trials.moved then (false, (s2.setOfs c q { r with pend := true }).bump .assaySearch 16 8 1)
      else
        (true, (s2.setOfs c q { vec, searched := true, pend := false, temp := (s.chamberTemp c).1, flips := best % 65536, secs := s.sys.life % 2 ^ 32 }).bumpWrap
          .assaySearch 0 16 1)
  | _, _ => (false, s)

/-- The groups of a gallery that hold a closed native block. -/
def State.searchable (s : State) (g : Fin 8) : List (Fin 128 × Nat) :=
  ((s.map.blks.filter fun e => e.1 / 65536 / 16 == g.val && e.2.st == .closed && !e.2.pslc && !e.2.sealed && e.2.use == .native).map fun e =>
    (chOfBlk e.1, e.1 % 65536 / 64)).eraseDups

/-- How soon a group is searched: pending first, then never searched, then the oldest. -/
def OfsRec.rank (r : OfsRec) : Nat := if r.pend then 0 else if !r.searched then 1 else 2 + r.secs

/-- VALLEY_SEARCH (R153, R261 to R264): once its chamber is free to class 7, an idle search of the group that comes next on its gallery. -/
def execValleySearch (c : Fin 128) (group : Nat) (trials : TrialRun) (refs : List RefRead) (s : State) : Host.Outcome State Fault Refusal :=
  .next (let all := s.searchable (galOf c)
    let r := (s.ofs c group).rank
    if s.mapUp && s.hook26 c && s.settings.assaySearch && decide (s.sys.ps.val ≤ 2) && s.isSt .service && s.hostIdle &&
        s.mayRun c && all.contains (c, group) && all.all fun x => decide (r ≤ (s.ofs x.1 x.2).rank) then
      (s.search c group trials refs).2
    else s)

/-! ## Lifetime and the temperature history (R79, R271) -/

/-- A two's-complement field of 2 bytes. -/
def leInt16 (x : Int) : List Nat := leBytes 2 (BitVec.ofInt 16 x).toNat

/-- A count in a field of `n` bytes, at its maximum where it would not fit (R77). -/
def leSat (n v : Nat) : List Nat := leBytes n (min (256 ^ n - 1) v)

/-- Bytes 0 to 287 of log page C1h: temperatures in kelvin but for the hourly maxima, which are signed °C (R77, R79). -/
def TempHist.bytes (h : TempHist) : List Nat :=
  leBytes 2 1 ++ leBytes 2 5 ++ leInt16 (-20) ++ leBytes 2 32 ++ (h.bins.flatMap fun n => leSat 4 n) ++ leSat 8 h.throttleSecs ++
    leSat 8 h.stepSecs ++ leSat 4 h.trips ++ leSat 2 (h.highest + 273).toNat ++ leSat 2 (h.lowest + 273).toNat ++ (h.hourly.flatMap leInt16)

/-- Write the history copy of the boot store, with a health entry (R79, R504). -/
def State.saveHist (s : State) : State :=
  let s1 : State := { s with
    bst := s.bst.hAdd 2 s.sys.hist.bytes
    sys := { s.sys with histSaved := s.sys.hist, histDue := false } }
  if s1.map.mounted then s1.saveHealth else s1

/-- The controller die temperature the always-on sequencer takes, in quarters of a degree. -/
def State.dieNow (s : State) : Int := if s.sys.doms.getLsbD 2 then s.assay.dieQ else 4 * s.assay.aonC

/-- The bin of a temperature. -/
def histBin (q : Int) : Nat :=
  if q < -80 then 0 else if q ≥ 500 then 31 else ((q + 80) / 20).toNat + 1

/-- One second in the history. -/
def TempHist.second (h : TempHist) (q comp : Int) (throttle : Nat) (step : Nat) : TempHist :=
  let t := q / 4
  let first := h.bins.all (· == 0)
  { h with
    bins := h.bins.set (histBin q) (h.bins.getD (histBin q) 0 + 1)
    throttleSecs := h.throttleSecs + (if comp ≥ 4 * throttle then 1 else 0)
    stepSecs := h.stepSecs + (if step > 0 then 1 else 0)
    highest := if first then t else max h.highest t
    lowest := if first then t else min h.lowest t
    hourMax := some (match h.hourMax with | some m => max m t | none => t) }

/-- SMART's times (R350). -/
def Smart.second (m : Smart) (busy on : Bool) (comp t1 : Int) (thermal : Nat) : Smart :=
  { m with
    busySecs := m.busySecs + (if busy then 1 else 0)
    onSecs := m.onSecs + (if on then 1 else 0)
    warnSecs := m.warnSecs + (if comp ≥ 4 * t1 then 1 else 0)
    critSecs := m.critSecs + (if comp ≥ 500 then 1 else 0)
    t1Secs := m.t1Secs + (if thermal ≥ 1 then 1 else 0)
    t2Secs := m.t2Secs + (if thermal ≥ 3 then 1 else 0) }

/-- A block has waited in the refresh queue for more than 1 h (R336). -/
def State.refreshLate (s : State) : Bool := s.map.refQ.any fun e => decide (s.sys.svcSecs > e.since + 3600)

/-- A lifetime second has passed: the histories, the counts of the SMART page and the hours of suspect chambers. -/
def State.secondOver (s : State) : State :=
  let step := s.rf .govStep 0 3
  { s with
    sys := { s.sys with life := s.sys.life + 1, lifeMs := 0, svcSecs := s.sys.svcSecs + b2n (s.isSt .service), hist := s.sys.hist.second s.dieNow s.composite s.settings.govThrottleC step }
    front := { s.front with smart := s.front.smart.second (s.front.ctxs.any fun c => c.hdr.sqid != 0) (decide (s.sys.ps.val ≤ 3)) s.composite s.govT1 s.gov.thermal }
    map := { s.map with suspectSecs := if s.sys.ps.val ≤ 2 then
        ((fins 128).filter s.suspect).foldl (fun m c => Store.modify (fun _ => 0) m c.val (· + 1)) (s.map.suspectSecs.filter fun e => s.suspect (Fin.ofNat 128 e.1))
      else s.map.suspectSecs } }

/-- A second of the full scan (R387). -/
def State.scanTick (s : State) : State :=
  if s.rf .mapScan 0 3 = 0 then s else s.setRf .mapScan 16 16 (satAdd 16 (s.rf .mapScan 16 16) 1)

/-- A condition of R336 that trouble bit 28 reports holds now. -/
def State.backlog (s : State) : Bool := decide (s.map.refQ.length > 1024) || s.refreshLate || decide (s.map.patrolQ.length ≥ 8192)

/-- LIFETIME_SECOND (R271, R336, R342, R350, R573). -/
def execLifetimeSecond (s : State) : Host.Outcome State Fault Refusal :=
  .next (s.secondOver.scanTick.raiseIf (s.secondOver.map.mounted && s.secondOver.backlog && !s.secondOver.trb 28) 28)

/-- HOURLY_HISTORY (R79, R271): at a whole hour the hour's highest temperature becomes the newest, and the history is written; in PS4, where
the boot store is unpowered, it is written later. -/
def execHourlyHistory (s : State) : Host.Outcome State Fault Refusal :=
  .next (match s.sys.hist.hourMax with
    | none => s
    | some m =>
      if s.sys.life % 3600 ≠ 0 then s
      else
        let h := { s.sys.hist with hourly := (m :: s.sys.hist.hourly).take 64, hourMax := none }
        let s1 : State := { s with sys := { s.sys with hist := h, histDue := true } }
        if s.sys.ps.val = 4 then s1 else s1.saveHist)

/-! ## The retention sweep (R333) -/

/-- What a list of results holds for a block. -/
def resultOf {α : Type} (l : List (Nat × α)) (k : Nat) : Option α := (l.find? fun x => x.1 == k).map (·.2)

/-- The sentinel of a closed block in a sweep: over the limit, or not read, queues it with cause 4. -/
def State.sweepClosed (s : State) (k : Nat) (raw : Option (List Nat)) : State :=
  let (n, t) := (s.countRead k 1).sentinelRead k (s.pagesOf k - 1) (s.blk k).pslc raw
  if n.all fun f => decide (f ≤ s.settings.patrolFlipLimit) then (if n.isNone then t.refreshWant k 4 else t) else t.refreshWant k 4

/-- Codeword 0 of the last programmed page of an open block, decoded at STEP 0: one that fails, or passes at the threshold, queues its block with
cause 4; a CRC or name that does not match is a miscorrection (R223, R225, R333). -/
def State.sweepOpen (s : State) (k : Nat) (r : DecodeResult) : State :=
  let t := ((s.countRead k 1).xtsCheck r.xtsFault).cdcCount .cdcHardCnt 0 32 "hard"
  if stepLost r then (if decide (r.raw ≤ 295) || r.converged then t.miscorrect else t).refreshWant k 4
  else
    let u := t.cdcCount .cdcHardBits 0 32 "bits" r.raw
    let v := if (s.blk k).pslc = false ∧ 2 * r.raw ≥ s.rewriteBits then u.searchPend k else u
    if r.raw ≥ s.rewriteBits then v.refreshWant k 4 else v

/-- RETENTION_SWEEP (R333): once, in `service`: every closed block's sentinel is read, and codeword 0 of every open block's last page; a block
that the row names no result for reads as it was written.  The blocks it names wait for their chambers (R36, R153). -/
def execRetentionSweep (r : SweepRun) (s : State) : Host.Outcome State Fault Refusal :=
  .next (if s.mapUp && s.map.sweepDue && s.isSt .service && decide (s.sys.ps.val ≤ 2) &&
        ((r.raws.map (·.1)) ++ (r.opens.map (·.1))).all (fun k => s.mayRun (chOfBlk k)) then
      let one (t : State) (e : Nat × Blk) : State :=
        if e.2.st = .closed ∧ !e.2.sealed ∧ e.2.use ≠ .journal then t.sweepClosed e.1 ((resultOf r.raws e.1).getD (some []))
        else if e.2.st = .opened ∧ e.2.next > 0 ∧ e.2.use ≠ .journal then t.sweepOpen e.1 ((resultOf r.opens e.1).getD { raw := 0, converged := true, crcOk := true, nameOk := true })
        else t
      let s1 : State := s.map.blks.foldl one s
      { s1 with map := { s1.map with sweepDue := false } }
    else s)

/-! ## The Flowstone patrol (R331, R332, R558, R559) -/

/-- The patrol table: closed blocks that are not sealed, in device block order, and whether native. -/
def State.patrolTableNow (s : State) : List (Nat × Bool) :=
  ((s.map.blks.filter fun e => e.2.st == .closed && !e.2.sealed && e.2.use != .journal).map fun e =>
    (s.devBlock e.1, !e.2.pslc)).mergeSort fun a b => decide (a.1 ≤ b.1)

/-- A sentinel is over the limit, or was not read. -/
def State.overLimit (s : State) (flips : Option Nat) : Bool := match flips with | none => true | some f => decide (f > s.settings.patrolFlipLimit)

/-- What a patrol found on one block: none where its read timed out. -/
def State.patrolFind (s : State) (n : Nat) (flips : Option Nat) (queue : Bool) : State :=
  let above := s.overLimit flips
  let half := match flips with | none => false | some f => decide (2 * f ≥ s.settings.patrolFlipLimit)
  let s1 : State := if half then (match s.ofDevBlock n with | some k => s.searchPend k | none => s) else s
  if !above then s1
  else
    let s2 : State := s1.stat "patrol_over"
    if queue then
      if s2.map.patrolQ.any fun q => q.1 == n then s2
      else if s2.map.patrolQ.length < 8192 then { s2 with map := { s2.map with patrolQ := s2.map.patrolQ ++ [(n, 0xFFFFFFFF)] } }
      else s2.raise 28
    else match s2.ofDevBlock n with
      | some k => s2.refreshWant k 3
      | none => s2

/-- The patrol's position moves past the blocks read; a full rotation records how many blocks it found over the limit. -/
def State.patrolMove (s : State) (ks : List Nat) : State :=
  match ks.getLast? with
  | none => s
  | some k =>
    let wraps := decide (k < s.map.patrolPos)
    let n := ((s.map.stats.find? fun x => x.1 == "patrol_over").map (·.2)).getD 0
    let m := { s.map with patrolPos := k + 1 }
    { s with map := if wraps then { m with patrolOver := n, stats := m.stats.filter fun x => x.1 != "patrol_over" } else m }

/-- A patrol wake is due in PS4 (R558); the patrol pauses in `test` (R117). -/
def State.patrolDue (s : State) : Bool :=
  let due := s.sys.lastPatrol + 3600 * s.settings.patrolInterval
  decide (s.sys.ps.val = 4) && !s.isSt .test && decide (s.sys.life ≥ due) && (decide (due ≥ s.sys.ps4At) || decide (s.sys.life ≥ s.sys.ps4At + 60))

/-- What the patrol reads of one device block, and finds; whether it is over the limit.  The table gives the mode, and with it the final page
(R331). -/
def State.patrolRead (s : State) (table : List (Nat × Bool)) (n : Nat) (raw : Option (List Nat)) (queue : Bool) : Bool × State :=
  match s.ofDevBlock n with
  | none => (false, s)
  | some k =>
    let pslc := !((table.find? fun x => x.1 == n).map (·.2)).getD (!(s.blk k).pslc)
    let pages := ((s.prof (chOfBlk k)).map fun p => if pslc then p.pagesPslc else p.pagesNative).getD 1
    let (f, t) := s.sentinelRead k (pages - 1) pslc raw
    (t.overLimit f, t.patrolFind n f queue)

/-- A gallery whose reference temperature has drifted while unpowered reads at the fallback rate in a patrol wake, after the ZQ calibration that this
rate needs; SDR needs none (R147, R552). -/
def State.patrolRate (s : State) (g : Fin 8) : State :=
  match s.assay.trainRef.get g with
  | none => s
  | some r =>
    let rate := (s.gals.get g).rateAtMost 800
    if (s.padTemp g - r).natAbs > 15 then (s.served g).foldl (fun t n => t.calibrate g n rate 19) (s.setRf (.galStat g) 16 16 rate) else s

/-- One gallery half of a patrol wake: it alone is powered, the root runs from REFCLK or the fallback oscillator, its sentinels are read, and it
is off again; the stored training is kept (R34, R147, R558, R559). -/
def State.patrolHalf (s : State) (half : Nat) (ks : List (Nat × Option (List Nat))) : State :=
  let clk := s.reg .sysClk
  let doms := s.sys.doms
  let s1 : State := ({ s with sys := { s.sys with doms := doms ||| BitVec.ofNat 8 (2 ^ (5 + half)) } }).setRf .sysClk 0 1 (b2n (!s.sys.refclk))
  let mine := ks.filter fun x => ((s.ofDevBlock x.1).map fun k => (galOf (chOfBlk k)).val / 4) == some half
  let gs := (fins 8).filter fun g => g.val / 4 == half && mine.any fun x => ((s.ofDevBlock x.1).map fun k => galOf (chOfBlk k)) == some g
  let s2 : State := mine.foldl (fun t x => (t.patrolRead t.map.patrolTable x.1 x.2 true).2) (gs.foldl State.patrolRate s1)
  let s3 : State := gs.foldl (fun t g => t.setRf (.galStat g) 16 16 (s.rate g)) s2
  ({ s3 with sys := { s3.sys with doms } }).setReg .sysClk clk

/-- PATROL_WAKE (R34, R331, R332, R558, R559): 1/32 of the closed blocks, in device block order from the patrol's position, those of G0 to G3
before those of G4 to G7.  The row gives what each sentinel read raw; none is a read that timed out. -/
def execPatrolWake (raws : List (Option (List Nat))) (s : State) : Host.Outcome State Fault Refusal :=
  .next (if s.patrolDue then
      let n := ceilDiv s.map.patrolTable.length 32
      let ks := patrolled s.map.patrolTable s.map.patrolPos n
      let got := ks.zipIdx.map fun (x : Nat × Nat) => (x.1, raws.getD x.2 (some []))
      let s1 : State := ((s.stat "patrol_wakes").patrolHalf 0 got).patrolHalf 1 got
      let s2 : State := s1.patrolMove ks
      { s2 with
        map := { s2.map with patrolReads := s2.map.patrolReads + n }
        sys := { s2.sys with lastPatrol := s.sys.life } }
    else s)

/-! ## Refresh wakes (R270, R332, R559) -/

/-- Finish what is under assembly of a group: it is padded, programmed and returns OK.  A program that the table refuses ends with ORDER, and
one of a suspect chamber is never issued: its data goes to another member (R159, R163). -/
def State.finishFill (s : State) (n : Nat) : State :=
  match s.group? n with
  | none => s
  | some g =>
    g.fill.foldl (fun t f =>
      let l := f.1
      let k := l.blk
      let p := t.perProgram k
      let gl := galOf l.chamber
      let o : GOp := { id := 0, ch := chIn l.chamber, kind := .program, cls := 5, block := l.block, page := l.page, pages := p, pslc := (t.blk k).pslc }
      if t.suspect l.chamber then t.moveProgram k l.page
      else if !(t.gals.get gl).passes o then (State.raise (t.gal gl fun x => { x with orders := x.orders + 1 }) 13).moveProgram k l.page
      else
        let t1 : State := t.gal gl fun x =>
          x.setTable (chIn l.chamber) (wptAdvance (x.table (chIn l.chamber)) l.block p (t.pagesOf k) (t.blk k).pslc)
        t1.programmedOk k l.page p s.sys.life) (s.setGroup n fun x => { x with fill := [] })

/-- Copy one mapped sector into a flow's group: its codeword goes through the encoder as it is (R214). -/
def State.copyNow (s : State) (cause : Nat) (x : Nat × Loc) : State :=
  match s.openOf .relocation, Store.find s.media.cws x.2.key with
  | some g, some c =>
    let (id, s1) := s.newId
    match s1.allocIn g.num id with
    | none => s
    | some (l, full, s2) =>
      let r : Reloc := { id, dsec := x.1, src := x.2, dst := l, flow := .relocation, cause, ready := true }
      let s3 : State := (State.countRead { s2 with map := { s2.map with relocs := s2.map.relocs ++ [r] } } x.2.blk 1).cdcCount .cdcHardCnt 0 32 "hard"
      let s4 : State := (s3.pushEnc { id, cw := c, loc := l, alloc := none, encoded := true }).accJoin l.blk l.page
      if full then s4.finishFill g.num else s4
  | _, _ => s

/-- A sector of which no read of R222 brought a codeword in a wake: its source stays mapped, and it is to be tried again (R224, R337). -/
def State.lostCopy (s : State) (x : Nat × Loc) : State :=
  ((((s.countRead x.2.blk 1).cdcCount .cdcHardCnt 0 32 "hard").uncNote x.2).searchPend x.2.blk).retryNote x.1 x.2.blk

/-- Refresh a block in a wake: every mapped sector that reads is copied and swapped. -/
def State.refreshNow (s : State) (lost : List Nat) (k : Nat) : State :=
  let s0 : State := if (s.openOf .relocation).isNone then (s.openGroup .relocation).getD s else s
  let s1 : State := (s.sectorsIn k).foldl (fun t x => if lost.contains x.1 then t.lostCopy x else t.copyNow 3 x) s0
  let s2 : State := match s1.openOf .relocation with
    | some g => s1.finishFill g.num
    | none => s1
  (s2.map.relocs.filter fun r => r.src.blk == k).foldl (fun t r => t.swapOne r.id) s2

/-- The estimate for a queued block, mJ. -/
def State.blockMj (s : State) (k : Nat) : Nat := ((if (s.blk k).pslc then s.gov.mjPslc else s.gov.mjNative)).getD 500

/-- The charges of the last 24 h of lifetime. -/
def State.chargedMj (s : State) : Nat := sumNat ((s.gov.charges.filter fun e => decide (e.1 + 86400 > s.sys.life)).map (·.2))

/-- The queued blocks the budget covers, oldest first. -/
def State.budgeted (s : State) : List Nat → Nat → List Nat
  | [], _ => []
  | k :: r, used => if used + s.blockMj k ≤ s.settings.govStandbyMj then k :: s.budgeted r (used + s.blockMj k) else []

/-- A refresh wake runs: PD_CTL, PD_CODEC and both gallery halves are powered, PD_HOST stays off and the link in L1.2 (R559). -/
def State.wakeOn (s : State) : State :=
  let s1 : State := { s with sys := { s.sys with doms := s.sys.doms ||| 0x74 } }
  (fins 8).foldl (fun t g => if (t.gals.get g).inService then t.driveWp g true else t) (s1.setRf .sysClk 0 1 (b2n (!s.sys.refclk)))

/-- It re-enters PS4 (R556): the copies of the retained slice, and everything off but PD_AON and PD_RET. -/
def State.wakeOff (s : State) (clk : Word) : State :=
  let s1 : State := (fins 8).foldl (fun t g => t.driveWp g false) s
  ({ s1 with
    sys := { s1.sys with doms := 0x03 }
    map := { s1.map with recordsLoaded := false, patrolTable := s1.patrolTableNow, patrolStart := s1.map.patrolPos, patrolReads := 0 } }).setReg .sysClk clk

/-- The blocks of a wake's budget are refreshed, and what it cost is charged. -/
def State.wakeRefresh (s : State) (ks : List Nat) (r : RefreshRun) : State :=
  let energyMj := r.energyMj
  let live := (s.map.patrolQ.filter fun q => match s.ofDevBlock q.1 with | some k => ks.contains k | none => false).filterMap s.patrolLive
  let s2 : State := live.foldl (fun t k => (t.refreshWant k 3).refreshNow r.lost k) s
  let each := (energyMj - 50) / ks.length
  -- what was measured on the last refresh of a block of a mode (R270)
  let last (pslc : Bool) (old : Option Nat) : Option Nat :=
    ks.zipIdx.foldl (fun o x => if (s.blk x.1).pslc = pslc then some (r.blocksMj.getD x.2 each) else o) old
  { s2 with
    map := { s2.map with patrolQ := s2.map.patrolQ.filter fun q => match s2.ofDevBlock q.1 with | some k => !ks.contains k | none => false }
    gov := { s2.gov with
      charges := (s2.gov.charges.filter fun e => decide (e.1 + 86400 > s.sys.life)) ++ [(s.sys.life, energyMj)]
      mjPslc := last true s2.gov.mjPslc
      mjNative := last false s2.gov.mjNative } }

/-- REFRESH_WAKE (R117, R270, R332, R377, R559): outside `test`, the device wakes, refreshes the blocks the budget covers, takes a checkpoint,
writes the history copy and re-enters PS4; its measured energy is charged. -/
def execRefreshWake (r : RefreshRun) (s : State) : Host.Outcome State Fault Refusal :=
  .next (let ks := s.budgeted ((s.map.patrolQ.filterMap fun q => s.ofDevBlock q.1)) (s.chargedMj + 50)
    if s.sys.ps.val = 4 && !s.isSt .test && s.settings.patrolWakeRefresh && !ks.isEmpty && !s.brownWarning then
      ((s.wakeOn.reloadRecords.wakeRefresh ks r).checkpoint.saveHist).wakeOff (s.reg .sysClk)
    else s)

end Sys2Proof.Machine
end

