-- ==== Sys2Proof/Machine/Power.lean ====
section
/-! DEFINITION. NVMe power states (R33, R83 to R85, R136, R406, R407, R555, R556): entry to PS3 and PS4, wakes, and the exit
from PS4. -/

namespace Sys2Proof.Machine

/-! ## Entry conditions (R84, R406) -/

/-- Nothing outstanding: no command, no part, nothing in staging, no allocation or relocation copy on its way, and no program or erase under way in
a die, whose WP_N the entry drives low (R52, R84). That the link has been allowed into L1.2 is what the entry event itself says (log entry 24). -/
def State.quiet (s : State) : Bool :=
  !s.front.busy && s.teth.owned.isEmpty && s.front.staging.isEmpty && s.map.relocs.isEmpty && s.map.allocs.isEmpty &&
    s.gals.toList.all fun g => g.inFlight.isEmpty

/-- Every present subordinate has answered standby ready. -/
def State.standbyAll (s : State) : Bool := s.presentSubs.all fun k => s.teth.readyStandby.contains k

/-- Ask for a non-operational state; staging drains first. -/
def State.wantPs (s : State) (p : Fin 5) : State :=
  { s with sys := { s.sys with psWant := some p }, front := { s.front with draining := s.front.draining || !s.front.staging.isEmpty } }

/-- The master's order to every present subordinate, or a subordinate's answer to its master's, before entry. -/
def State.standby (s : State) (p : Nat) : State :=
  if s.isMaster then
    if s.teth.standbyAsked.isSome then s
    else State.orderAll { s with teth := { s.teth with standbyAsked := some p } } 2 p
  else if s.teth.standbyAsked.isSome then
    State.order { s with teth := { s.teth with standbyAsked := none } } 0 3 p
  else s

/-- A doorbell cancels an entry under way: the master's state orders bring every subordinate back (R406). -/
def State.cancelStandby (s : State) : State :=
  if s.isMaster && s.teth.standbyAsked.isSome then
    State.orderAll { s with
      teth := { s.teth with standbyAsked := none, readyStandby := [] }
      sys := { s.sys with psWant := none } } 4 s.sys.st.num
  else s

/-! ## Domains and clocks -/

/-- The galleries' WP_N is low while their halves are off or held (R51). -/
def State.wpLow (s : State) : State := (fins 8).foldl (fun t g => if (t.gals.get g).wpN then t.driveWp g false else t) s

/-- A gallery powered again: its stored training serves, at the fallback rate while the root has no REFCLK, and WP_N rises; one that has drifted
while unpowered retrains before its first read (R85, R147, R552). -/
def State.galOn (s : State) (g : Fin 8) : State :=
  if !(s.gals.get g).inService then s
  else
    let t := ((s.driveWp g true).limitRate g).gal g fun y => { y with hasRead := false }
    match s.assay.trainRef.get g with
    | some r => if (s.padTemp g - r).natAbs > 15 then (t.markRetrain g).gal g fun y => { y with mustRetrain := true } else t
    | none => t

/-- The galleries powered again. -/
def State.galsOn (s : State) : State := (fins 8).foldl State.galOn s

/-- The root moves to the fallback oscillator (R553): the galleries that are powered are limited to 800 MT/s and retrain.  A planned move sets no
trouble bit; on L1.2 entry in PS3 the galleries are off. -/
def State.rootFallback (s : State) : State :=
  let s1 := ((s.setRf .sysClk 0 1 1).setRf .sysClk 4 1 1).setRf .sysClk 1 1 1
  (fins 8).foldl (fun t g => if (t.gals.get g).inService && t.galPowered g then (t.limitRate g).markRetrain g else t) s1

/-- The governor's step is 0 on entry to PS3 or PS4 (R266). -/
def State.govZero (s : State) : State :=
  State.applyStep { s with gov := { charges := s.gov.charges, mjPslc := s.gov.mjPslc, mjNative := s.gov.mjNative } }

/-! ## PS3 (R33, R84, R556) -/

/-- Enter PS3: the Codec and the galleries are off, as SYS_PWR shows, and the link waits in L1.2 when allowed (R33, R557). -/
def State.enterPs3 (s : State) : State :=
  let s1 : State := s.wpLow
  let s2 : State := { s1 with
    sys := { s1.sys with ps := 3, psWant := none, doms := s1.sys.doms &&& 0x8F, clkreqHost := false }
    front := s1.front.ltrSend .max
    teth := { s1.teth with standbyAsked := none, readyStandby := [] } }
  s2.govZero

/-- Leave PS3 for the last operational state. -/
def State.leavePs3 (s : State) : State :=
  let s1 : State := { s with sys := { s.sys with
    ps := s.sys.lastOp, psWant := none, doms := s.sys.doms ||| 0x70
    lanes := if s.sys.lanes = .l12 then .up else s.sys.lanes, clkreqOut := s.isMaster } }
  let s2 : State := State.galsOn { s1 with front := s1.front.ltrBack }
  if s2.isMaster then s2.orderAll 4 s2.sys.st.num else s2

/-- A doorbell write wakes the controller from PS3 and cancels an entry under way (R58, R85, R406). -/
def State.doorbellWake (s : State) : State := if s.sys.ps = 3 then s.leavePs3 else s.cancelStandby

/-- Any other BAR0 access, after the host has asserted CLKREQ#, wakes the controller from PS3 (R85, R136). -/
def State.accessWake (s : State) : State := if s.sys.ps = 3 ∧ s.sys.clkreqHost = true then s.leavePs3 else s

/-- PS3_ENTRY (R84, R136, R406): once the entry conditions hold; on a chain the first event sends the standby order, and the entry
follows when every subordinate has answered. -/
def execPs3Entry (s : State) : Host.Outcome State Fault Refusal :=
  .next (if !s.inReset && s.sys.psWant == some 3 && decide (s.sys.ps.val ≤ 2) && s.quiet then
      let s1 : State := s.standby 3
      if !s1.isMaster || s1.standbyAll then
        (s1.finishJob (fun j => j == .sleep) fun _ => ([], ok [])).enterPs3
      else s1
    else s)

/-! ## PS4 (R84, R377, R432, R556) -/

/-- The clean map pages most recently used, up to 32, that the retained slice keeps (R432); a page that goes keeps the generation its
extent held. -/
def MapEngine.keep32 (m : MapEngine) : MapEngine :=
  let clean := m.cache.filter fun p => !p.dirty
  let kept := clean.drop (clean.length - 32)
  let gone := m.cache.filter fun p => p.series == 0 && !kept.contains p
  { m with
    cache := kept
    evicted := gone.foldl (fun e p => Store.set (fun _ => 0) e p.num (p.gen % 2 ^ 25)) m.evicted }

/-- Enter PS4: checkpoint, history, the retained slice, and every domain but PD_AON and PD_RET off. -/
def State.enterPs4 (s : State) : State :=
  let s1 : State := (if s.mapUp && s.map.recordsLoaded then s.checkpoint else s).saveHist
  let s2 : State := s1.wpLow.govZero
  let clk := s2.reg .sysClk &&& 0x108
  State.setReg { s2 with
    sys := { s2.sys with
      ps := 4, psWant := none, doms := 0x03, ps4At := s2.sys.life, clkreqHost := false, clkreqOut := false, waking := false
      lanes := if s2.isMaster then .l12 else s2.sys.lanes, released := s2.sys.released &&& 1, tethGo := false }
    front := { s2.front.ltrSend .max with ra := [] }
    con := { s2.con with uart := {} }
    dma := Vector.replicate 8 {}
    kpr := s2.kpr.scramble false true true
    teth := { s2.teth with
      tu := { eqStored := s2.teth.tu.eqStored, sent := s2.teth.tu.sent }
      td := { eqStored := s2.teth.td.eqStored, sent := s2.teth.td.sent }
      standbyAsked := none, readyStandby := [] }
    map := { s2.map.keep32 with
      recordsLoaded := !s2.map.mounted, patrolTable := s2.patrolTableNow, patrolStart := s2.map.patrolPos, patrolReads := 0 } } .sysClk clk

/-- PS4_ENTRY (R84, R136, R406, R511, R556): as PS3_ENTRY, from PS3 too, with the boot store idle. -/
def execPs4Entry (s : State) : Host.Outcome State Fault Refusal :=
  .next (if !s.inReset && s.sys.psWant == some 4 && decide (s.sys.ps.val ≤ 3) && s.quiet && !s.bst.busy then
      let s1 : State := s.standby 4
      if !s1.isMaster || s1.standbyAll then
        (s1.finishJob (fun j => j == .sleep) fun _ => ([], ok [])).enterPs4
      else s1
    else s)

/-- Begin the exit from PS4: the wake beacon goes out on TD at that moment (R85, R407). -/
def State.beginWake (s : State) : State :=
  { s with
    sys := { s.sys with waking := true }
    teth := { s.teth with beacons := if s.sys.waking then s.teth.beacons else s.teth.beacons + 1 } }

/-- CLKREQ_ASSERTED (R85, R407, R560): in PS4 the exit and the beacon start; in PS3 the link leaves L1.2, and the BAR0 access that
follows brings the device back. -/
def execClkreqAsserted (s : State) : Host.Outcome State Fault Refusal :=
  .next (if !s.isMaster then s
    else
      let s1 : State := { s with sys := { s.sys with clkreqHost := true } }
      if s.inReset then s1
      else if s.sys.ps = 4 then s1.beginWake
      else if s.sys.lanes = .l12 then { s1 with sys := { s1.sys with lanes := .up, clkreqOut := true } }
      else s1)

/-- The ports a device trains (R388, R390). -/
def State.startPorts (s : State) : State :=
  let one (p : Port) (t : State) : State := { t with teth := t.teth.port p fun q => { q with st := .training } }
  if s.isMaster then one .td s else one .td (one .tu s)

/-- PS4_EXIT (R85, R201, R377, R407, R428, R524, R556): the domains, the PLLs, the Keeper fill, the key slots, Front and the stored
training come back, and a copy of the temperature history is written (R271). -/
def execPs4Exit (s : State) : Host.Outcome State Fault Refusal :=
  .next (if s.sys.ps = 4 ∧ s.sys.waking = true ∧ s.inReset = false then
      let used := s.tethUsed
      let fb := b2n (!s.sys.refclk)
      let s1 : State := { s with sys := { s.sys with
        ps := s.sys.lastOp, waking := false, psWant := none, doms := 0x7F
        released := if s.sys.refclk then 0x1F else 0x0F
        lanes := if s.isMaster then .up else s.sys.lanes, clkreqOut := s.isMaster, tethGo := true } }
      let s2 : State := s1.setReg .sysClk (BitVec.ofNat 32 (fb + 2 + 4 * b2n s.sys.refclk + 8 * b2n s.sys.refclk + 16 * fb +
        256 * (15 + 16 * b2n s.sys.refclk)))
      let s3 : State := (s2.kprFill false true false).loadKeys
      let s4 : State := { s3 with front := s3.front.ltrBack }
      let s5 : State := if used then s4.startPorts else s4
      s5.saveHist.galsOn
    else s)

/-! ## Requests -/

/-- APST_IDLE_TIMEOUT (R69, R83, R412): with APST on, the master has been idle for `host.apst_ps3` or `host.apst_ps4`; the state is
entered once R84 holds. -/
def execApstIdleTimeout (ps4 : Bool) (s : State) : Host.Outcome State Fault Refusal :=
  .next (if s.isMaster && !s.inReset && s.settings.hostApst && !s.front.busy && decide (s.sys.ps.val < (if ps4 then 4 else 3)) then
      s.wantPs (if ps4 then 4 else 3)
    else s)

/-- SLEEP_TIMEOUT (R136): the conditions have not held within 2 s. -/
def execSleepTimeout (s : State) : Host.Outcome State Fault Refusal :=
  .next (match s.con.running with
    | some x => if x.job = .sleep then
        (State.cancelStandby { s with sys := { s.sys with psWant := none } }).finishJob (fun j => j == .sleep) fun _ => ([], err .busy [])
      else s
    | none => s)

/-- L1_2_ENTRY (R51, R553): in PS3 the link enters L1.2, the master releases CLKREQ#, and the root makes its planned move to the
fallback oscillator. -/
def execL12Entry (s : State) : Host.Outcome State Fault Refusal :=
  .next (if s.isMaster ∧ s.sys.ps = 3 ∧ s.sys.lanes = .up then
      State.rootFallback { s with sys := { s.sys with lanes := .l12, clkreqOut := false, clkreqHost := false } }
    else s)

end Sys2Proof.Machine
end

