-- ==== Sys2Proof/Machine/FrontQueues.lean ====
section
/-! DEFINITION. Front's queues and readiness (R58 to R64, R68, R69, R89): doorbells, fetching, CC.EN, shutdown, queue commands,
Abort, asynchronous events and the timers of commands. -/

namespace Sys2Proof.Machine

/-! ## Doorbells and fetching (R58, R63, R64) -/

/-- The configuration space can be reached: out of reset on Front's side, with PD_HOST powered and the host lanes past electrical idle.  That an
access arrives shows that the link has trained (log entry 27). -/
def State.cfgUp (s : State) : Bool :=
  s.isMaster && s.sys.released.getLsbD 4 && decide (s.sys.ps.val ≤ 3) && s.sys.lanes != .idle

/-- BAR0 can be reached: in D3hot a function answers configuration requests alone (R55; log entry 60). -/
def State.barUp (s : State) : Bool := s.cfgUp && !s.front.pcie.d3hot

/-- An access over the link finds it up. -/
def State.linked (s : State) : State :=
  match s.sys.lanes with
  | .detect | .disabled => { s with sys := { s.sys with lanes := .up } }
  | _ => s

/-- A submission queue tail doorbell (R58, R85): the tail of an existing queue moves; the write wakes a non-operational state. -/
def State.sqTail (s : State) (q tail : Nat) : State :=
  if s.barUp then
    let t := s.linked.doorbellWake
    match Store.find t.front.sqs q with
    | some x => if t.front.en ∧ tail < x.size then
        { t with front := { t.front with sqs := Store.ins q { x with tail := tail } t.front.sqs } }
      else t
    | none => t
  else s

/-- SQ_TAIL_DOORBELL (R58, R85). -/
def execSqTailDoorbell (q : Fin 129) (tail : BitVec 16) (s : State) : Host.Outcome State Fault Refusal := .next (s.sqTail q.val tail.toNat)

/-- A completion queue head doorbell (R55, R58): the head of an existing queue moves, and completions that waited for room are posted in their
order. -/
def State.cqHead (s : State) (q head : Nat) : State :=
  if s.barUp then
    let t := s.linked.doorbellWake
    match Store.find t.front.cqs q with
    | some x => if t.front.en ∧ head < x.size then
        let f : Front := { t.front with cqs := Store.ins q { x with head := head } t.front.cqs, cqWait := [] }
        { t with front := (t.front.cqWait.foldl Front.post f).intxTick }
      else t
    | none => t
  else s

/-- CQ_HEAD_DOORBELL (R58). -/
def execCqHeadDoorbell (q : Fin 129) (head : BitVec 16) (s : State) : Host.Outcome State Fault Refusal := .next (s.cqHead q.val head.toNat)

/-- Commands waiting in a submission queue. -/
def SubQueue.waiting (q : SubQueue) : Nat := (q.tail + q.size - q.head) % q.size

/-- The queue whose turn comes next: round robin over the queues with commands waiting, from the last one served. -/
def Front.turn (f : Front) : Option Nat :=
  let l := (f.sqs.filter fun e => decide (e.2.waiting > 0)).map (·.1)
  match l.find? fun k => decide (k ≥ f.rr) with
  | some k => some k
  | none => l.head?

/-- Commands fetched in one turn: 2 to the power of the Arbitration Burst value, 8 by default (R63, R69); the value 111b sets no limit. -/
def Front.burst (f : Front) : Nat := if f.feats.arbBurst = 7 then 4096 else 2 ^ f.feats.arbBurst

/-- The commands of a turn: fetching is on, it is the queue's turn, and each has an entry in the queue and a free context. -/
def State.mayFetch (s : State) (q : Fin 129) (sqes : List Sqe) : Bool :=
  s.front.en && s.front.rdy && !s.front.stopped && !s.front.held && decide (s.sys.ps.val ≤ 2) && s.front.turn == some q.val &&
    match Store.find s.front.sqs q.val with
    | some x => decide (sqes.length ≤ x.waiting ∧ sqes.length ≤ s.front.burst ∧ sqes.length + s.front.ctxs.length ≤ 4096)
    | none => false

/-- The opcodes of R65. -/
def adminOps : List Nat :=
  [0x00, 0x01, 0x04, 0x05, 0x02, 0x06, 0x08, 0x09, 0x0A, 0x0C, 0x0D, 0x15, 0x10, 0x11, 0x80, 0x81, 0x82, 0x84, 0xC0, 0xC1]
def ioOps : List Nat := [0x00, 0x01, 0x02, 0x08, 0x09, 0x0C, 0xC9]

/-- The features of R69. -/
def featureIds : List Nat := [0x01, 0x02, 0x04, 0x05, 0x06, 0x07, 0x08, 0x09, 0x0A, 0x0B, 0x0C, 0x0D, 0x10]

/-- What is wrong with a descriptor: its type is not accepted, a bit bucket that is not for a read among them (log entry 61), or its block is
not dword aligned (R66). -/
def descFault (read : Bool) : SglDesc → Option NStat
  | .dataBlock addr _ => if addr % 4 ≠ 0 then some .invalidField else none
  | .bitBucket _ => if read then none else some .sglType
  | .segment | .lastSegment => none
  | .keyed | .transport | .byteMetadata | .other => some .sglType

/-- What is wrong with a data pointer: the first descriptor at fault says it; an admin command other than C0h and C1h takes PRP only, and one with
an SGL fails with Invalid Field in Command, for which the manual names no status (R66; log entry 61). -/
def ptrFault (e : Sqe) (admin : Bool) : Option NStat :=
  match e.ptr with
  | .prp _ _ => none
  | .sgl l =>
    if admin ∧ e.opcode ≠ 0xC0 ∧ e.opcode ≠ 0xC1 then some .invalidField
    else l.findSome? (descFault (!admin && e.opcode == 0x02))

/-- The statuses Front gives on the entry alone: an opcode it does not accept (R65), a feature identifier it does not (R69), a sanitize action that
is none of R73's, Overwrite among them, and a bad data pointer (R66). -/
def sqeFault (e : Sqe) (admin : Bool) : Option NStat :=
  if !(if admin then adminOps else ioOps).contains e.opcode.toNat then some .invalidOpcode
  else if admin ∧ (e.opcode = 0x09 ∨ e.opcode = 0x0A) ∧ featureIds.contains (fld e.cdw10 0 8) = false then some .invalidField
  else if admin ∧ e.opcode = 0x84 ∧ ([1, 2, 4] : List Nat).contains (fld e.cdw10 0 3) = false then some .invalidField
  else ptrFault e admin

/-- A fetched entry: its context, and its end where the entry alone fails. -/
def State.fetchOne (s : State) (q : Fin 129) (e : Sqe) : State :=
  let t : State := { s with front := { s.front with ctxs := s.front.ctxs ++ [({ hdr := ⟨q, e.cid⟩ } : Ctx)] } }
  match sqeFault e (q.val == 0) with
  | some st => t.done ⟨q, e.cid⟩ st
  | none => t

/-- COMMAND_FETCH (R57, R63 to R66, R69, R73): a turn's entries get their contexts; one that is wrong in itself fails at once, and the command of any
other follows in its own row. -/
def execCommandFetch (q : Fin 129) (sqes : List Sqe) (s : State) : Host.Outcome State Fault Refusal :=
  .next (match Store.find s.front.sqs q.val with
    | some x => if s.mayFetch q sqes then
        let f : Front := { s.front with
          sqs := Store.ins q.val { x with head := (x.head + sqes.length) % x.size } s.front.sqs
          rr := (q.val + 1) % 129 }
        let t : State := sqes.foldl (fun (t : State) (e : Sqe) => t.fetchOne q e) { s with front := f }
        { t with front := t.front.ltrTick }
      else s
    | none => s)

/-! ## Controller enable and reset (R60, R61, R74) -/

/-- The admin queue pair, of the sizes in AQA. -/
def Front.adminQ (f : Front) : SubQueue := { size := fld f.aqa 0 12 + 1, cq := 0, head := 0, tail := 0 }
def Front.adminCq (f : Front) : ComQueue := { size := fld f.aqa 16 12 + 1, iv := 0, tail := 0, head := 0 }

/-- CC.EN set (R60, R73, R74): the controller is enabled and begins to get ready; an image committed for this reset and not yet activated is
activated first, by a level 2 reset, and a sanitize that a level 1 or 0 reset ended begins again. -/
def State.ccEnable (s : State) (crime : Bool) : State :=
  if s.barUp && !s.front.en then
    let s0 : State := s.linked.accessWake
    let s1 : State := { s0 with
      front := { s0.front with
        en := true, crime, shn := 0, shst := 0, stopped := false, sanitizeHeld := false
        sqs := Store.ins 0 s0.front.adminQ s0.front.sqs, cqs := Store.ins 0 s0.front.adminCq s0.front.cqs }
      map := { s0.map with normalShutdown := false } }
    if (s1.bst.pendingSwap.map (·.l3)) = some true then s1.requestReset 5 2 else s1.sanitizeOn
  else s

/-- CONTROLLER_READY (R60): CSTS.RDY under CC.CRIME: with CRIME at once, without it when mount has finished or at the deadline of 2 s;
not while `run test` holds it back (R117), nor before the RDY of an earlier enable has cleared (R61). -/
def execControllerReady (deadline : Bool) (s : State) : Host.Outcome State Fault Refusal :=
  .next (if s.front.en && !s.rdyNow && !s.isSt .test && !s.resetting && (s.front.crime || s.map.mounted || deadline) then
      { s with front := { s.front with rdy := true, leaving := false } }
    else s)

/-- A reset of the controller from a source: at level 3, or at level 2 in its place for a committed image, Front's NVMe state goes with it, and
commands already passed to the Map engine run to their end with no completion (R61, R74).  Where the fuses give the source level 2 itself, the reset
is a level 2 reset and keeps that state, MAP_HMB among it (R324, R546; log entry 68). -/
def State.controllerReset (s : State) (src : Nat) : State :=
  let l := s.raised (s.fuseLevel src)
  let s1 : State := if !s.resetting && s.fuseLevel src == 3 && l == 2 then
      { s.resetRegs 3 with front := s.front.resetNvme, map := { s.map with inHmb := [] } }
    else s
  s1.requestReset src (s.fuseLevel src)

/-- CC.EN cleared (R61). -/
def State.ccDisable (s : State) : State := if s.barUp && s.front.en then s.accessWake.controllerReset 5 else s

/-- CC_EN_CLEARED (R61, R513). -/
def execCcEnCleared (s : State) : Host.Outcome State Fault Refusal := .next s.ccDisable

/-- FLR (R55, R61, R545). -/
def execFlr (s : State) : Host.Outcome State Fault Refusal :=
  .next (if s.cfgUp then s.controllerReset 4 else s)

/-- A write of NSSR (R61): 4E564D65h is cause source 6. -/
def State.nssrWrite (s : State) (value : Word) : State :=
  if s.barUp ∧ value = 0x4E564D65 then s.accessWake.requestFused 6 else s

/-- NVM_SUBSYSTEM_RESET (R61). -/
def execNvmSubsystemReset (value : Word) (s : State) : Host.Outcome State Fault Refusal := .next (s.nssrWrite value)

/-! ## Shutdown (R62, R79, R358) -/

/-- A normal shutdown (R62, R79): staging drains, the history is written and a checkpoint is asked for; CSTS.SHST reads 10b once it has been
taken, at once where no map is loaded. -/
def State.shutNormal (s : State) : State :=
  if s.barUp && s.front.en && !s.resetting && s.front.shst == 0 then
    let s1 : State := s.accessWake.saveHist
    let s2 : State := { s1 with front := { s1.front with shn := 1, shst := 1, draining := !s1.front.staging.isEmpty } }
    if s2.map.mounted then s2.settle
    else { s2 with front := { s2.front with shst := 2 }, map := { s2.map with normalShutdown := true } }
  else s

/-- NORMAL_SHUTDOWN (R62, R79, R358). -/
def execNormalShutdown (s : State) : Host.Outcome State Fault Refusal := .next s.shutNormal

/-- Staging is discarded and what of it was on its way to commit no longer commits (R62, R358). -/
def State.abandonStaging (s : State) : State :=
  { s with
    front := { s.front with staging := [], draining := false }
    map := { s.map with allocs := [], pendTable := [] }
    cdc := { s.cdc with enc := s.cdc.enc.filter fun e => e.alloc.isNone } }

/-- An abrupt shutdown (R62): CSTS.SHST reads 10b, and nothing more is committed. -/
def State.shutAbrupt (s : State) : State :=
  if s.barUp && s.front.en && !s.resetting then
    let s1 : State := s.accessWake.abandonStaging
    { s1 with front := { s1.front with shn := 2, shst := 2 } }
  else s

/-- ABRUPT_SHUTDOWN (R62). -/
def execAbruptShutdown (s : State) : Host.Outcome State Fault Refusal := .next s.shutAbrupt

/-! ## Queue commands (R63, R65, R68) -/

/-- A queue identifier that Create refuses: 0, above 128, or in use. -/
def qidBad (qid : Nat) (used : Bool) : Bool := decide (qid = 0) || decide (qid > 128) || used

/-- CREATE_IO_CQ (R68). -/
def execCreateIoCq (h : Hdr) (qid qsize : BitVec 16) (pc : Bool) (iv : BitVec 16) (s : State) : Host.Outcome State Fault Refusal :=
  .next (s.host h (.createIoCq h qid qsize pc iv) fun t =>
    if qidBad qid.toNat (Store.has t.front.cqs qid.toNat) then t.done h .qidInvalid
    else if qsize.toNat + 1 < 2 ∨ qsize.toNat + 1 > 4096 then t.done h .qsizeInvalid
    else if !pc then t.done h .invalidField
    else if iv.toNat > 128 then t.done h .vectorInvalid
    else State.good { t with front := { t.front with
      cqs := Store.ins qid.toNat { size := qsize.toNat + 1, iv := iv.toNat, tail := 0, head := 0 } t.front.cqs } } h)

/-- CREATE_IO_SQ (R68). -/
def execCreateIoSq (h : Hdr) (qid qsize : BitVec 16) (pc : Bool) (cqid : BitVec 16) (s : State) : Host.Outcome State Fault Refusal :=
  .next (s.host h (.createIoSq h qid qsize pc cqid) fun t =>
    if qidBad qid.toNat (Store.has t.front.sqs qid.toNat) then t.done h .qidInvalid
    else if qsize.toNat + 1 < 2 ∨ qsize.toNat + 1 > 4096 then t.done h .qsizeInvalid
    else if !pc then t.done h .invalidField
    else if !Store.has t.front.cqs cqid.toNat then t.done h .cqInvalid
    else State.good { t with front := { t.front with
      sqs := Store.ins qid.toNat { size := qsize.toNat + 1, cq := cqid.toNat, head := 0, tail := 0 } t.front.sqs } } h)

/-- DELETE_IO_SQ (R65): commands of the queue still outstanding complete as aborted by its deletion (log entry 17), then it is gone. -/
def execDeleteIoSq (h : Hdr) (qid : BitVec 16) (s : State) : Host.Outcome State Fault Refusal :=
  .next (s.host h (.deleteIoSq h qid) fun t =>
    if qid.toNat = 0 ∨ !Store.has t.front.sqs qid.toNat then t.done h .qidInvalid
    else
      let mine := (t.front.ctxs.filter fun c => c.hdr.sqid.val == qid.toNat).map (·.hdr)
      let t1 : State := mine.foldl (fun u x => u.done x .sqDeleted) t
      State.good { t1 with front := { t1.front with sqs := t1.front.sqs.del qid.toNat } } h)

/-- DELETE_IO_CQ (R68). -/
def execDeleteIoCq (h : Hdr) (qid : BitVec 16) (s : State) : Host.Outcome State Fault Refusal :=
  .next (s.host h (.deleteIoCq h qid) fun t =>
    if qid.toNat = 0 ∨ !Store.has t.front.cqs qid.toNat then t.done h .qidInvalid
    else if t.front.sqs.any fun e => e.2.cq == qid.toNat then t.done h .deletionInvalid
    else State.good { t with front := { t.front with
      cqs := t.front.cqs.del qid.toNat, cqWait := t.front.cqWait.filter fun c => Store.find (t.front.sqs.map fun e => (e.1, e.2.cq)) c.hdr.sqid.val != some qid.toNat } } h)

/-! ## Abort and asynchronous events (R65, R82, R402) -/

/-- The command, or the part that stands under its header here, is a Secure Deallocate. -/
def State.isSecure (s : State) (h : Hdr) : Bool :=
  (match (s.front.ctx? h).bind (·.cmd) with | some (.secureDeallocate _ _ _) => true | _ => false) ||
    s.teth.owned.any fun o => partHdr o.tag == h && o.body.opcode == 0xC9

/-- Stop a command at this device: sectors of it not yet allocated leave staging; a Secure Deallocate leaves its ranges deallocated, the zeros for
the sectors it covers in part going on by themselves (R76, R303). -/
def State.stopCommand (s : State) (h : Hdr) : State :=
  let kept := if s.isSecure h then s.front.staging.map fun (x : Staged) => if x.hdr = some h then { x with hdr := none } else x else s.front.staging
  let s1 : State := { s with
    front := { s.front with
      staging := kept.filter fun x => !(x.hdr == some h && x.alloc.isNone && !x.cached)
      aers := s.front.aers.filter fun a => a != h }
    map := { s.map with
      secQ := s.map.secQ.filter fun w => w.1 != h, jWait := s.map.jWait.filter fun w => w.2 != h
      deallocs := s.map.deallocs.filter fun w => w.1 != some h
      waiters := s.map.waiters.filter fun w => match w.2 with | .host x _ _ _ => x != h | _ => true }
    vault := { s.vault with
      lockWait := match s.vault.lockWait with
        | some (.host x) => if x = h then none else some (.host x)
        | y => y } }
  let owed := (s.map.secQ.filter fun w => w.1 == h).flatMap (·.2)
  let s2 : State := if owed.isEmpty then s1 else s1.deallocate none owed
  match s2.map.secure with
  | some x => if x.hdr = some h then s2.secureDrop { x with hdr := none } else s2
  | none => s2

/-- ABORT (R65, R88, R402): at most four outstanding; a command with parts elsewhere ends when their owners have answered the abort
orders; any other one completes with Command Abort Requested.  DW0 bit 0 is set where there is nothing to abort (log entry 17). -/
def execAbort (h : Hdr) (sqid cid : BitVec 16) (s : State) : Host.Outcome State Fault Refusal :=
  .next (s.host h (.abort h sqid cid) fun t =>
    if t.front.aborts.length ≥ 4 then t.done h .abortLimit
    else match t.front.ctxs.find? fun c => c.hdr.sqid.val == sqid.toNat && c.hdr.cid == cid && c.hdr != h with
      | none => t.done h .success 1
      | some c =>
        if c.parts.isEmpty then ((t.stopCommand c.hdr).done c.hdr .aborted).good h
        else
          let t1 : State := (t.teth.parts.filter fun p => p.hdr == c.hdr).foldl (fun u p => u.tethSend 5 p.owner p.tag 0 7 .none) t
          { t1.stopCommand c.hdr with front := { (t1.stopCommand c.hdr).front with aborts := t1.front.aborts ++ [(h, c.hdr)] } })

/-- ASYNC_EVENT_REQUEST (R65, R82): at most eight outstanding; the oldest event kept answers it at once. -/
def execAsyncEventRequest (h : Hdr) (s : State) : Host.Outcome State Fault Refusal :=
  .next (s.host h (.asyncEventRequest h) fun t =>
    if t.front.aers.length ≥ 8 then t.done h .aerLimit
    else match t.front.events with
      | e :: rest => State.done { t with front := { t.front with events := rest } } h .success (e.kind + e.info * 256 + e.page * 65536)
      | [] => { t with front := Front.ltrTick { t.front with aers := t.front.aers ++ [h] } })

/-! ## Timers (R69, R89) -/

/-- INTERRUPT_COALESCING_TIMEOUT (R69): the interrupt a vector holds is sent. -/
def execInterruptCoalescingTimeout (iv : Fin 129) (s : State) : Host.Outcome State Fault Refusal :=
  .next (if s.front.coal.any fun p => p.1 == iv.val then
      { s with front := Front.fire { s.front with coal := s.front.coal.filter fun p => p.1 != iv.val } 1 iv.val }
    else s)

/-- Commands that have no 200 ms timer (R76, R89, R514), and those that only wait for an event. -/
def untimed : Instr → Bool
  | .secureDeallocate _ _ _ | .formatNvm _ _ _ _ | .sanitizeCryptoErase _ | .sanitizeBlockErase _ | .sanitizeExitFailureMode _
  | .namespaceCreate _ _ _ | .namespaceDelete _ _ | .firmwareImageDownload _ _ _ _ | .firmwareCommit _ _ _ _
  | .asyncEventRequest _ => true
  | _ => false

/-- A write waits for Sump room, for a pending-table record or for room in cached staging: a whole sector of it is not allocated.  A sector whose old
data is still to be merged waits for a read, which the timer counts (R89). -/
def State.waitsRoom (s : State) (h : Hdr) : Bool :=
  s.front.staging.any fun x => x.hdr == some h && x.alloc.isNone && x.partialMask.isNone

/-- A staged sector, by its number, is the command's. -/
def State.stagedFor (s : State) (h : Hdr) (id : Nat) : Bool := s.front.staging.any fun y => y.id == id && y.hdr == some h

/-- What is read is the command's own: its slots, or the old data of its partial writes. -/
def State.needOf (s : State) (h : Hdr) : Need → Bool
  | .host x _ _ _ => x == h
  | .merge id _ _ => s.stagedFor h id
  | _ => false

/-- A chamber operation is one that a command waits for: a read of its own, of a map page its reads wait for, or the program of a page that holds
one of its sectors. -/
def State.opFor (s : State) (h : Hdr) (g : Fin 8) (o : GOp) : Bool :=
  (s.cdc.rds.any fun r => r.id == o.id && (s.needOf h r.need || match r.need with
    | .mapRead p => s.map.waiters.any fun w => w.1 / 512 == p && s.needOf h w.2
    | _ => false)) ||
  (o.kind == .program && s.map.allocs.any fun a => s.stagedFor h a.staged && (o.locs g).contains a.loc.key)

/-- The command waits for room under a governor limit: an operation it waits for may not start under the limit on concurrent chamber operations, or
its gallery moves to the rate that the limit gives it (R36, R89, R266). -/
def State.waitsGov (s : State) (h : Hdr) : Bool :=
  (fins 8).any fun g => (s.gals.get g).ops.any fun o => !o.running && s.opFor h g o &&
    (!s.govRoom o || ((s.gals.get g).retrain != .none && decide (s.rf .govStep 16 16 ≠ 0)))

/-- A part of the command is held by a subordinate's hold for level 2 (R89, R408). -/
def State.partHeld (s : State) (h : Hdr) : Bool :=
  s.teth.parts.any fun p => p.hdr == h && s.teth.holding.any fun x => decide (x.1.val ≤ p.owner.val) && x.2 == 2

/-- The command's internal timer runs. -/
def State.timed (s : State) (c : Ctx) : Bool :=
  c.started && !s.front.held && !s.waitsRoom c.hdr && !s.waitsGov c.hdr && !s.partHeld c.hdr && match c.cmd with | some i => !untimed i | none => false

/-- End a command from outside its work: what remains of it here and on other devices answers nobody. -/
def State.cutOff (s : State) (h : Hdr) : State :=
  let s1 := s.stopCommand h
  { s1 with teth := { s1.teth with parts := s1.teth.parts.filter fun p => p.hdr != h } }

/-- COMMAND_TIMER_EXPIRY (R89): Command Interrupted, and trouble bit 41. -/
def execCommandTimerExpiry (h : Hdr) (s : State) : Host.Outcome State Fault Refusal :=
  .next (match s.front.ctx? h with
    | some c => if s.isMaster && s.timed c then ((s.cutOff h).done h .interrupted).raise 41 else s
    | none => s)

/-- TLER_EXPIRY (R69, R224): a read unfinished at its limit ends with Unrecovered Read Error, and its codewords' orders are abandoned. -/
def execTlerExpiry (h : Hdr) (s : State) : Host.Outcome State Fault Refusal :=
  .next (match s.front.ctx? h with
    | some c => if s.isMaster && c.started && decide (s.front.feats.tler > 0) && c.smartKind == 1 then
        ((s.cutOff h).abandon fun r => match r.need with | .host x _ _ _ => x == h | _ => false).ioEnd h .unrecovered
      else s
    | none => s)

/-- STAGING_DRAIN (R26): after 10 ms with no new command the cached data in staging goes on to commit. -/
def execStagingDrain (s : State) : Host.Outcome State Fault Refusal :=
  .next (if s.front.staging.any fun x => x.cached then { s with front := { s.front with draining := true } } else s)

end Sys2Proof.Machine
end

