-- ==== Sys2Proof/Machine/Pcie.lean ====
section
/-! DEFINITION. The PCIe endpoint (R55 to R59): its configuration space, BAR0 by offset and width, the MSI-X table and pending bits, error
reporting.  The table's rows are the accesses that do more than hold a value; the others come with CC_EN_SET (log entry 60).  The manual gives the
NVMe registers their fields and no offset: the offsets, and those of the fields in a register, are the NVMe and PCI specifications' (log entry
60). -/

namespace Sys2Proof.Machine

/-! ## MSI-X (R55, R58) -/

/-- The pending vectors that may now be sent are sent. -/
def Front.unpend (f : Front) : Front :=
  f.pcie.pba.foldl (fun g iv => g.fire 1 iv) { f with pcie := { f.pcie with pba := [] } }

/-- One dword of a table entry written: address, upper address, data, vector control. -/
def MsixEntry.write (e : MsixEntry) (k v : Nat) : MsixEntry :=
  match k with
  | 0 => { e with addr := BitVec.ofNat 64 (e.addr.toNat / 2 ^ 32 * 2 ^ 32 + v / 4 * 4) }
  | 1 => { e with addr := BitVec.ofNat 64 (v * 2 ^ 32 + e.addr.toNat % 2 ^ 32) }
  | 2 => { e with data := BitVec.ofNat 32 v }
  | _ => { e with mask := v % 2 == 1 }

/-- One dword of a table entry read. -/
def MsixEntry.read (e : MsixEntry) : Nat → Nat
  | 0 => e.addr.toNat % 2 ^ 32
  | 1 => e.addr.toNat / 2 ^ 32
  | 2 => e.data.toNat
  | _ => b2n e.mask

/-! ## Controller registers (R59) -/

/-- CAP: MQES 4095, CQR, round robin alone, TO 4, DSTRD 0, NSSRS, the NVM command set alone, no boot partitions, pages of 4 KiB to 64 KiB,
both controller-ready modes. -/
def capWord : Nat := 4095 + 2 ^ 16 + 4 * 2 ^ 24 + 2 ^ 36 + 2 ^ 37 + 4 * 2 ^ 52 + 3 * 2 ^ 59

/-- VS: NVMe 2.0. -/
def vsWord : Nat := 0x00020000

/-- CRTO: CRWMT 4, CRIMT 1. -/
def crtoWord : Nat := 4 + 65536

/-- CC as it stands. -/
def Front.cc (f : Front) : Nat := b2n f.en + 128 * f.ccMps.toNat + 16384 * f.shn.toNat + 2 ^ 24 * b2n f.crime

/-- CSTS: RDY and SHST. -/
def State.csts (s : State) : Nat := b2n s.rdyNow + 4 * s.front.shst.toNat

/-- A controller register by its offset; an undefined one, and a doorbell, reads zero. -/
def State.barReg (s : State) (off : Nat) : Nat :=
  let f := s.front
  match off with
  | 0x00 => capWord % 2 ^ 32
  | 0x04 => capWord / 2 ^ 32
  | 0x08 => vsWord
  | 0x0C | 0x10 => f.intMask.toNat
  | 0x14 => f.cc
  | 0x1C => s.csts
  | 0x24 => f.aqa.toNat
  | 0x28 => f.asq.toNat % 2 ^ 32
  | 0x2C => f.asq.toNat / 2 ^ 32
  | 0x30 => f.acq.toNat % 2 ^ 32
  | 0x34 => f.acq.toNat / 2 ^ 32
  | 0x68 => crtoWord
  | _ => 0

/-! ## BAR0 (R58) -/

/-- A dword of BAR0. -/
def State.barDword (s : State) (off : Nat) : Nat :=
  if off < 0x1000 then s.barReg off
  else if 0x4000 ≤ off ∧ off < 0x4810 then ((Store.find s.front.pcie.msix ((off - 0x4000) / 16)).getD {}).read ((off - 0x4000) % 16 / 4)
  else if 0x6000 ≤ off ∧ off < 0x6018 then
    sumNat ((s.front.pcie.pba.filter fun v => v / 32 == (off - 0x6000) / 4).map fun v => 2 ^ (v % 32))
  else 0

/-- An access is served: 32 or 64 bits wide, at an offset aligned to its width. -/
def barServed (off width : Nat) : Bool := (width == 4 || width == 8) && off % width == 0

/-- A read of BAR0: a narrower or unaligned one reads zero. -/
def State.barRead (s : State) (off width : Nat) : Nat :=
  if barServed off width then s.barDword off + (if width = 8 then 2 ^ 32 * s.barDword (off + 4) else 0) else 0

/-- A write of CC: the page size while the controller is disabled, EN, then a shutdown. -/
def State.ccWrite (s : State) (v : Word) : State :=
  let s1 : State := if s.front.en then s else { s with front := { s.front with ccMps := v.extractLsb' 7 4 } }
  if v.getLsbD 0 ≠ s.front.en then (if v.getLsbD 0 then s1.ccEnable (v.getLsbD 24) else s1.ccDisable)
  else if fld v 14 2 = 1 then s1.shutNormal
  else if fld v 14 2 = 2 then s1.shutAbrupt
  else s1

/-- Change Front where the controller is disabled: AQA, ASQ and ACQ hold while it is enabled. -/
def State.whileOff (s : State) (f : Front → Front) : State := if s.front.en then s else { s with front := f s.front }

/-- A dword written in BAR0. -/
def State.barWriteDword (s : State) (off : Nat) (v : Word) : State :=
  let lo (b : BitVec 64) : BitVec 64 := BitVec.ofNat 64 (b.toNat / 2 ^ 32 * 2 ^ 32 + v.toNat)
  let hi (b : BitVec 64) : BitVec 64 := BitVec.ofNat 64 (v.toNat * 2 ^ 32 + b.toNat % 2 ^ 32)
  if 0x1000 ≤ off ∧ off < 0x1408 then
    if off % 8 = 0 then s.sqTail ((off - 0x1000) / 8) (fld v 0 16) else s.cqHead ((off - 0x1000) / 8) (fld v 0 16)
  else if 0x4000 ≤ off ∧ off < 0x4810 then
    let n := (off - 0x4000) / 16
    let e := ((Store.find s.front.pcie.msix n).getD {}).write ((off - 0x4000) % 16 / 4) v.toNat
    { s with front := Front.unpend { s.front with pcie := { s.front.pcie with msix := Store.ins n e s.front.pcie.msix } } }
  else match off with
    | 0x0C => { s with front := Front.intxTick { s.front with intMask := s.front.intMask ||| v } }
    | 0x10 => { s with front := Front.intxTick { s.front with intMask := s.front.intMask &&& ~~~v } }
    | 0x14 => s.ccWrite v
    | 0x20 => s.nssrWrite v
    | 0x24 => s.whileOff fun f => { f with aqa := v &&& 0x0FFF0FFF }
    | 0x28 => s.whileOff fun f => { f with asq := lo f.asq }
    | 0x2C => s.whileOff fun f => { f with asq := hi f.asq }
    | 0x30 => s.whileOff fun f => { f with acq := lo f.acq }
    | 0x34 => s.whileOff fun f => { f with acq := hi f.acq }
    | _ => s

/-- A write of BAR0: a narrower or unaligned one, or one to an undefined offset, has no effect; any access wakes the controller from PS3 after
CLKREQ# (R85). -/
def State.barWrite (s : State) (off width v : Nat) : State :=
  if !s.barUp then s
  else
    let t : State := s.linked.accessWake
    if !barServed off width then t
    else
      let t1 := t.barWriteDword off (BitVec.ofNat 32 v)
      if width = 8 then t1.barWriteDword (off + 4) (BitVec.ofNat 32 (v / 2 ^ 32)) else t1

/-! ## Configuration space (R55, R56) -/

/-- A register of the configuration space that the host writes, as it reads. -/
def Pcie.cfgRead (p : Pcie) : CfgReg → Nat
  | .command => 1024 * b2n p.intxOff
  | .bar0 => p.bar.toNat % 2 ^ 32 / 32768 * 32768 + 4
  | .bar1 => p.bar.toNat / 2 ^ 32
  | .devCtl => 32 * p.mps + 4096 * p.mrrs
  | .msixCtl => 128 + 16384 * b2n p.msixMask + 32768 * b2n p.msixOn
  | .pmcsr => if p.d3hot then 3 else 0
  | .aerUncorr => p.aerUncorr.toNat
  | .aerCorr => p.aerCorr.toNat

/-- The fixed dwords of the header: identifiers, class code 01_08_02h and revision, BAR2 to BAR5 zero, the subsystem (R55, R56). -/
def State.cfgHeader (s : State) (off : Nat) : Nat :=
  let vid := Config.vendorId.toNat
  match off with
  | 0x00 => vid + 65536 * 0x8048
  | 0x08 => Config.revision.toNat + 256 * 0x010802
  | 0x10 => s.front.pcie.cfgRead .bar0
  | 0x14 => s.front.pcie.cfgRead .bar1
  | 0x2C => (if s.sys.fuses.ssvid = 0 then vid else s.sys.fuses.ssvid.toNat) +
      65536 * (if s.sys.fuses.ssid = 0 then 0x8048 else s.sys.fuses.ssid.toNat)
  | _ => 0

/-- A write of the configuration space: 64-bit BAR of 32 KiB; payloads of up to 512 B and read requests of up to 4096 B, a larger code being ignored
(log entry 60); an FLR from bit 15 of Device Control; D0 or D3hot; error status cleared by ones, the header with the last of it. -/
def State.cfgWrite (s : State) (r : CfgReg) (v : Word) : State :=
  let p := s.front.pcie
  let put (q : Pcie) : State := { s with front := { s.front with pcie := q } }
  match r with
  | .command => { s with front := Front.intxTick { s.front with pcie := { p with intxOff := v.getLsbD 10 } } }
  | .bar0 => put { p with bar := BitVec.ofNat 64 (p.bar.toNat / 2 ^ 32 * 2 ^ 32 + v.toNat / 32768 * 32768) }
  | .bar1 => put { p with bar := BitVec.ofNat 64 (v.toNat * 2 ^ 32 + p.bar.toNat % 2 ^ 32) }
  | .devCtl =>
    let t := put { p with mps := if fld v 5 3 ≤ 2 then fld v 5 3 else p.mps, mrrs := if fld v 12 3 ≤ 5 then fld v 12 3 else p.mrrs }
    if v.getLsbD 15 then t.controllerReset 4 else t
  | .msixCtl =>
    { s with front := Front.intxTick (Front.unpend { s.front with pcie := { p with msixMask := v.getLsbD 14, msixOn := v.getLsbD 15 } }) }
  | .pmcsr => put { p with d3hot := fld v 0 2 == 3 }
  | .aerUncorr =>
    let a := p.aerUncorr &&& ~~~v
    put { p with aerUncorr := a, aerHeader := if a = 0 then none else p.aerHeader }
  | .aerCorr => put { p with aerCorr := p.aerCorr &&& ~~~v }

/-- An error on the link: its status bit, and the header of the first uncorrectable one (R55). -/
def State.linkError (s : State) (uncorr : Bool) (bit : Fin 32) (header : List Word) : State :=
  let p := s.front.pcie
  let m : Word := BitVec.ofNat 32 (2 ^ bit.val)
  { s with front := { s.front with pcie :=
      if uncorr then { p with aerUncorr := p.aerUncorr ||| m, aerHeader := if p.aerHeader.isNone then some header else p.aerHeader }
      else { p with aerCorr := p.aerCorr ||| m } } }

/-- One access of the host; a read of BAR0 answers `State.barRead`, and like any access wakes the controller from PS3 after CLKREQ# (R85). -/
def State.hostAccess (s : State) (a : HostAccess) : State :=
  match a with
  | .cfg r v => if s.cfgUp then s.cfgWrite r v else s
  | .bar off width v => s.barWrite off width v
  | .barRead _ _ => if s.barUp then s.linked.accessWake else s
  | .linkError u b h => if s.cfgUp then s.linkError u b h else s

/-- CC_EN_SET (R55, R58, R60, R73, R74): the accesses that came before it, then CC.EN. -/
def execCcEnSet (w : EnableWrite) (s : State) : Host.Outcome State Fault Refusal :=
  .next (State.ccEnable (w.before.foldl State.hostAccess s) w.crime)

end Sys2Proof.Machine
end

