-- ==== Sys2Proof/Machine/AdminOps.lean ====
section
/-! DEFINITION. What an admin command that changes what a device holds does on one device (R71 to R74, R283, R369, R403, R514, R531):
the same work serves the master's own command and a subordinate's ADMIN frame. -/

namespace Sys2Proof

/-- The sector whose bytes are those given, zero beyond them (R8). -/
def Sector.ofBytes (b : List Nat) : Sector := ⟨Vector.ofFn fun i : Fin 8 => leNat ((b.drop (512 * i.val)).take 512)⟩

/-- The bytes of a sector. -/
def Sector.bytes (x : Sector) : List Nat := x.lba.toList.flatMap fun n => leBytes 512 n

end Sys2Proof

namespace Sys2Proof.Machine

/-! ## Namespaces (R71, R283, R369, R412) -/

/-- The device units no namespace holds, in ascending order. -/
def State.freeUnits (s : State) : List Nat :=
  (List.range (s.userBytes / 2 ^ 30)).filter fun u => !(s.map.ns.any fun n => match n with | some r => r.units.contains u | none => false)

/-- The lowest namespace identifier not in use, counted from 0. -/
def State.freeNs (s : State) : Option (Fin 8) := (fins 8).find? fun i => (s.map.ns.get i).isNone

/-- A namespace's floor is set to the counter's value, so that nothing older of it is found again. -/
def State.raiseFloor (s : State) (i : Fin 8) : State :=
  { s with map := { s.map with
    floors := setAt s.map.floors i s.map.nextSeq
    ns := setAt s.map.ns i ((s.map.ns.get i).map fun r => { r with floor := s.map.nextSeq }) } }

/-- The first namespace created fixes the stripe size in the chain record (R392, R412). -/
def State.fixStripe (s : State) : State :=
  match s.teth.chain with
  | some c =>
    if c.stripeLog2 = 0 then
      let c1 : ChainRec := { c with stripeLog2 := log2Of s.settings.tethStripe }
      { s with
        bst := { s.bst.hAdd 4 (leBytes 4 c1.id.toNat ++ [c1.n, c1.stripeLog2, c1.index, 0]) with chain := some c1 }
        teth := { s.teth with chain := some c1 } }
    else s
  | none => s

/-- Create a namespace here: the lowest free units for this device's share, a media key, a floor, an anchor with the table. -/
def State.nsCreateHere (s : State) (i : Fin 8) (gib : Nat) (lba4k : Bool) : NStat × State :=
  let units := s.freeUnits.take (ceilDiv gib s.chainN)
  if (s.map.ns.get i).isSome then (.nsidUnavailable, s)
  else if units.length < ceilDiv gib s.chainN then (.capacity, s)
  else
    let s1 : State := s.fixStripe
    let r : NsRec := { units, lba4k, sectors := gib * 262144, attached := false, ready := s.map.mounted, floor := s.map.nextSeq }
    let s2 : State := ({ s1 with map := { s1.map with ns := setAt s1.map.ns i (some r) } }).raiseFloor i
    (.success, (s2.newKey i).anchorAdd)

/-- A read is of a namespace's data. -/
def State.readsNs (s : State) (i : Fin 8) (r : Rd) : Bool :=
  match r.need with
  | .host _ _ ns _ | .spec ns _ _ | .merge _ ns _ => ns == i
  | .reloc id => (s.map.relocs.find? fun x => x.id == id).any fun x => (s.map.ns.get i).any fun n => n.units.contains (x.dsec / 262144)
  | _ => false

/-- Before a namespace's key goes, its I/O has ended and no codeword of it is in the Codec (R227): a command or a part of it that is outstanding ends
with the status of R68 for what begins, and its reads are given up (DESIGN CHOICE, log entry 81). -/
def State.nsDrain (s : State) (i : Fin 8) (st : NStat) : State :=
  let cmds := (s.front.ctxs.filter fun c => c.started && c.nsid == i.val + 1).map (·.hdr)
  let parts := (s.teth.owned.filter fun o => o.body.nsid == i && o.body.opcode != 0x00 && (s.front.ctx? (partHdr o.tag)).isSome).map fun o => partHdr o.tag
  let s1 : State := (cmds ++ parts).foldl (fun t h => (t.cutOff h).ioEnd h st) s
  let s2 : State := { s1 with map := { s1.map with waiters := s1.map.waiters.filter fun w => match w.2 with
    | .host _ _ ns _ | .spec ns _ _ | .merge _ ns _ => ns != i
    | _ => true } }
  s2.abandon (s2.readsNs i)

/-- Nothing of a namespace stays mapped, staged or on its way. -/
def State.nsClear (s0 : State) (i : Fin 8) (st : NStat) : State :=
  match s0.map.ns.get i with
  | none => s0
  | some r =>
    let s : State := s0.nsDrain i st
    let inU (d : Nat) : Bool := r.units.contains (d / 262144)
    let gone := (s.map.allocs.filter fun a => a.ns == i).map (·.id) ++ (s.map.relocs.filter fun x => inU x.dsec).map (·.id)
    let s1 : State := { s with
      front := { s.front with staging := s.front.staging.filter fun x => x.ns != i, ra := s.front.ra.filter fun x => x.ns != i }
      map := { s.map with
        allocs := s.map.allocs.filter fun a => a.ns != i
        pendTable := s.map.pendTable.filter fun p => !inU p.1
        relocs := s.map.relocs.filter fun x => !inU x.dsec }
      cdc := { s.cdc with enc := s.cdc.enc.filter fun e => !(e.cw.kind == 0 && gone.contains e.id) } }
    ((s1.map.entries.filter fun e => inU e.1).map (·.1)).foldl (fun t d => t.remap d .unmapped) s1

/-- The host is told that a namespace it sees has changed (R69, R82). -/
def State.nsNotice (s : State) (i : Fin 8) : State :=
  let n := i.val + 1
  let s1 : State := { s with front := { s.front with changedNs := if s.front.changedNs.contains n then s.front.changedNs else s.front.changedNs ++ [n] } }
  if s1.front.feats.aec.getLsbD 8 then { s1 with front := s1.front.event ⟨2, 0, 0x0C⟩ } else s1

/-- Delete a namespace here: its key is destroyed, its floor raised, its units returned. -/
def State.nsDeleteHere (s : State) (i : Fin 8) : State :=
  match s.map.ns.get i with
  | none => s
  | some r =>
    let s1 : State := (s.nsClear i .invalidNs).raiseFloor i
    let s2 : State := State.dropKey { s1 with map := { s1.map with ns := setAt s1.map.ns i none } } i
    let s3 : State := s2.anchorAdd
    if r.attached then s3.nsNotice i else s3

/-- Format namespaces here: every LBA deallocated; with SES 1 or 2 under new media keys; the format as given. -/
def State.formatHere (s : State) (l : List (Fin 8)) (lba4k : Bool) (ses : Nat) : State :=
  let one (t : State) (i : Fin 8) : State :=
    let t1 : State := (t.nsClear i .formatting).raiseFloor i
    let t2 : State := { t1 with map := { t1.map with ns := setAt t1.map.ns i ((t1.map.ns.get i).map fun r => { r with lba4k }) } }
    if ses = 0 then t2 else t2.newKey i
  (l.foldl one s).anchorAdd

/-- The namespaces that exist. -/
def State.allNs (s : State) : List (Fin 8) := (fins 8).filter fun i => (s.map.ns.get i).isSome

/-- FNA bit 0: a Format acts on all namespaces.  The manual gives no value; the model reports 0 (DESIGN CHOICE, log entry 62). -/
def fnaAll : Bool := false

/-- The namespaces a Format names: one, or all of them where FNA bit 0 says so (R72); NSID FFFFFFFFh names all too (DESIGN CHOICE, log entry 62). -/
def State.formatNs (s : State) (nsid : Word) : List (Fin 8 × NsRec) :=
  if fnaAll || nsid == 0xFFFFFFFF then s.allNs.filterMap fun i => (s.map.ns.get i).map fun r => (i, r) else (s.nsOf nsid).toList

/-! ## Sanitize (R73, R526, R531) -/

/-- Crypto erase of every namespace: new media keys, floors, no mapping; the password is removed and the state is open. -/
def State.cryptoHere (s : State) : State :=
  let s1 : State := s.allNs.foldl (fun t i => ((t.nsClear i .sanitizing).raiseFloor i).newKey i) s
  (State.setPassword s1 none).anchorAdd.sanitized

/-- Begin a block erase: nothing stays mapped, every group is dissolved, a new shelf with an empty checkpoint is opened on erased blocks, and
every other good block is to be erased. -/
def State.blockEraseHere (s : State) : State :=
  let s1 : State := s.allNs.foldl (fun t i => (t.nsClear i .sanitizing).raiseFloor i) s
  let s2 : State := { s1 with
    front := { s1.front with sanitize := .block }
    map := { s1.map with
      groups := [], allocs := [], relocs := [], refQ := [], retries := [], jWait := [], deallocs := []
      blks := s1.map.blks.map fun (e : Nat × Blk) => (e.1, if e.2.st = .bad then e.2 else
        { e.2 with held := false, valid := 0, refresh := false, st := if e.2.st = .erased then .erased else .closed }) } }
  (s2.shelfOpen.checkpoint).sanitizeErases

/-! ## Firmware images (R74, R514) -/

/-- The first sector of a twin in the boot store (R501). -/
def twinSec (t : Twin) : Nat := match t with | .a => 0x00 | .b => 0x18

/-- Program a piece at its offset in the inactive twin; a piece at offset 0 first erases the whole twin. -/
def State.stagePiece (s : State) (off : Nat) (bytes : List Nat) : Bool × State :=
  let t := s.bst.active.other
  let (good, s1) := if off = 0 then
      (List.range 24).foldl (fun x i => if x.1 then x.2.fwErase (twinSec t + i) else x) (true, s)
    else (true, s)
  if !good then (false, s1)
  else
    let (good2, s2) := s1.fwProgram (twinSec t * 0x10000 + off) bytes
    let staged := if off = 0 then bytes.length else max s.bst.staged (off + bytes.length)
    (good2, { s2 with bst := { s2.bst with staged, stagedTwin := some t } })

/-- The checks of a download (R68, R74): multiples of 4 KiB within 1.5 MiB. -/
def downloadBad (off len : Nat) : Bool := decide (off % 4096 ≠ 0) || decide (len % 4096 ≠ 0) || decide (len = 0) || decide (off + len > 1572864)

def State.downloadHere (s : State) (off len : Nat) (bytes : List Nat) : NStat × State :=
  if downloadBad off len then (.invalidField, s)
  else match s.stagePiece off ((bytes ++ List.replicate len 0).take len) with
    | (true, t) => (.success, t)
    | (false, t) => (.internal, t)

/-- Firmware Commit on one device. -/
def State.commitHere (s : State) (slot action : Nat) (sigOk : Bool) : NStat × State :=
  if action > 2 then (.invalidField, s)
  else if slot = 0 ∨ slot > 2 then (.fwSlot, s)
  else
    let twin : Twin := if slot = 1 then .a else .b
    if twin = s.bst.active then (if action = 2 then (.success, s) else (.fwSlot, s))
    else if !sigOk then (.fwImage, s)
    else if action = 0 then (.success, s)
    else (.success, s.swapPend twin true)

/-! ## One command on this device -/

/-- The work of an admin command on this device: its status and DW0. -/
def State.adminHere (s : State) (i : Instr) : NStat × Nat × State :=
  match i with
  | .namespaceCreate _ gib flbas => match s.freeNs with
    | some n => let (st, t) := s.nsCreateHere n gib (flbas == 1); (st, if st = .success then n.val + 1 else 0, t)
    | none => (.nsidUnavailable, 0, s)
  | .namespaceDelete _ nsid => match s.nsOf nsid with
    | some (n, _) => (.success, 0, s.nsDeleteHere n)
    | none => if nsid = 0xFFFFFFFF then (.success, 0, s.allNs.foldl State.nsDeleteHere s) else (.invalidNs, 0, s)
  | .formatNvm _ nsid lbaf ses =>
    (.success, 0, s.formatHere ((s.formatNs nsid).map (·.1)) (lbaf == 1) ses.toNat)
  | .sanitizeCryptoErase _ => (.success, 0, s.cryptoHere)
  | .sanitizeBlockErase _ => (.success, 0, s.blockEraseHere.sanitizeEnd)
  | .firmwareImageDownload _ off len bytes => let (st, t) := s.downloadHere off len (bytes.map fun b : Byte => b.toNat); (st, 0, t)
  | .firmwareCommit _ slot action sigOk => let (st, t) := s.commitHere slot.toNat action.toNat sigOk; (st, 0, t)
  | _ => (.success, 0, s)

/-! ## Carrying admin commands to subordinates (R403) -/

/-- A device of the chain record is absent (R403, R410). -/
def State.chainAbsent (s : State) : Bool :=
  [1, 2, 3].any fun k => decide (k < s.chainN) && (s.teth.absent.getLsbD k || !s.teth.present.getLsbD k)

/-- The next tag no part or admin command outstanding holds. -/
def nextFreeTag (used : List (BitVec 16)) : Nat → BitVec 16 → BitVec 16
  | 0, t => t
  | f + 1, t => if used.contains t then nextFreeTag used f (t + 1) else t

/-- A tag unique among what is outstanding (R402), and the state with it taken. -/
def State.newTag (s : State) : BitVec 16 × State :=
  let used := s.teth.parts.map (·.tag) ++ s.teth.admin.map (·.tag)
  let t := nextFreeTag used (used.length + 1) s.teth.nextTag
  (t, { s with teth := { s.teth with nextTag := t + 1 } })

/-- The ADMIN payload of a command (R403), the NSID of a create assigned by the master. -/
def State.adminBody (s : State) (i : Instr) : AdminBody :=
  let z : AdminBody := { opcode := 0, flbas := 0, nsid := 0, cdw10 := 0, cdw11 := 0, amount := 0, bytes := 0, sigOk := true }
  match i with
  | .namespaceCreate _ gib flbas => { z with opcode := 0x0D, flbas, nsid := ((s.freeNs).map fun n => n.val + 1).getD 0
                                             amount := gib * 2 ^ 30 / (if flbas = 1 then 4096 else 512) }
  | .namespaceDelete _ nsid => { z with opcode := 0x0D, nsid := nsid.toNat, cdw10 := 1 }
  | .formatNvm _ nsid lbaf ses => { z with opcode := 0x80, nsid := nsid.toNat, cdw10 := BitVec.ofNat 32 (lbaf.toNat + 512 * ses.toNat) }
  | .sanitizeCryptoErase _ => { z with opcode := 0x84, cdw10 := 4 }
  | .sanitizeBlockErase _ => { z with opcode := 0x84, cdw10 := 2 }
  | .firmwareImageDownload _ off len _ => { z with opcode := 0x11, cdw10 := BitVec.ofNat 32 (len / 4 - 1), cdw11 := BitVec.ofNat 32 (off / 4), amount := off, bytes := len }
  | .firmwareCommit _ slot action sigOk => { z with opcode := 0x10, cdw10 := BitVec.ofNat 32 (slot.toNat + 8 * action.toNat), sigOk }
  | _ => z

/-- The DATA frames of a firmware piece. -/
def pieceFrames (i : Instr) : List Sector :=
  match i with
  | .firmwareImageDownload _ _ len bytes => (List.range (len / 4096)).map fun j =>
      Sector.ofBytes (((bytes.map fun b : Byte => b.toNat).drop (4096 * j)).take 4096)
  | _ => []

/-- Send an admin command to one subordinate. -/
def State.adminSend (s : State) (h : Hdr) (i : Instr) (b : AdminBody) (k : Fin 4) : State :=
  let (tag, s1) := s.newTag
  let s2 : State := s1.tethSend 7 k tag 0 0 (.admin b)
  let s3 : State := ((pieceFrames i).zipIdx).foldl (fun t x => t.tethSend 2 k tag x.2 4096 (.data x.1)) s2
  { s3 with teth := { s3.teth with admin := s3.teth.admin ++ [{ tag, hdr := h, dst := k }] } }

/-- The command on this device, and its completion. -/
def State.adminFinish (s : State) (h : Hdr) (i : Instr) : State :=
  let (st, dw0, t) := s.adminHere i
  State.done { t with front := { t.front with formatting := [] } } h st dw0

/-- Run an admin command of R403: carried to every present subordinate first, applied here last; refused while a device of the chain record is
absent. -/
def State.adminRun (s : State) (h : Hdr) (i : Instr) : State :=
  if s.chainAbsent then s.done h .internalDnr
  else if s.chainN = 1 then s.adminFinish h i
  else
    let b := s.adminBody i
    let s1 : State := match i with
      | .formatNvm _ nsid _ _ => { s with front := { s.front with formatting := (s.formatNs nsid).map (·.1) } }
      | _ => s
    s1.presentSubs.foldl (fun t k => t.adminSend h i b k) s1

/-- A subordinate's DONE to an ADMIN frame. With the last one the command is applied here; where a device failed, a create is taken back on the
devices that succeeded, and the first failing status completes the command. -/
def State.adminAnswer (s : State) (tag : BitVec 16) (sct sc : Nat) : State :=
  match s.teth.admin.find? fun a => a.tag == tag with
  | none => s
  | some x =>
    let s1 : State := { s with teth := { s.teth with admin := s.teth.admin.map fun a => if a.tag = tag then { a with answer := some (sct, sc) } else a } }
    let mine := s1.teth.admin.filter fun a => a.hdr == x.hdr
    if mine.any fun a => a.answer.isNone then s1
    else
      let s2 : State := { s1 with teth := { s1.teth with admin := s1.teth.admin.filter fun a => a.hdr != x.hdr } }
      match (s2.front.ctx? x.hdr).bind (·.cmd) with
      | none => s2
      | some i =>
        match mine.findSome? fun a => match a.answer with | some (0, 0) => none | y => y with
        | none => s2.adminFinish x.hdr i
        | some (sct', sc') =>
          let s3 : State := match i with
            | .namespaceCreate _ _ _ =>
              let del : AdminBody := { s2.adminBody i with cdw10 := 1, amount := 0 }
              (mine.filter fun a => a.answer == some (0, 0)).foldl (fun t a => t.tethSend 7 a.dst a.tag 0 0 (.admin del)) s2
            | _ => s2
          State.done { s3 with front := { s3.front with formatting := [] } } x.hdr ⟨sct', sc', false⟩

end Sys2Proof.Machine
end

