-- ==== Sys2Proof/Machine/FrontAdmin.lean ====
section
/-! DEFINITION. Admin commands (R65, R67 to R74, R76, R82, R83): features, identification, namespaces, Format, Sanitize and firmware. -/

namespace Sys2Proof.Machine

/-! ## Features (R69, R70, R84) -/

/-- Change a feature and complete. -/
def State.feature (s : State) (h : Hdr) (f : Features → Features) : State :=
  State.good { s with front := { s.front with feats := f s.front.feats } } h

/-- SET_FEATURES_ARBITRATION (R69): only AB has effect. -/
def execSetFeaturesArbitration (h : Hdr) (ab : BitVec 3) (s : State) : Host.Outcome State Fault Refusal :=
  .next (s.host h (.setFeaturesArbitration h ab) fun t => t.feature h fun f => { f with arbBurst := ab.toNat })

/-- SET_FEATURES_POWER_MANAGEMENT (R69, R84): PS0 to PS2 at once; PS3 and PS4 once the entry conditions hold. -/
def execSetFeaturesPowerManagement (h : Hdr) (ps : BitVec 5) (s : State) : Host.Outcome State Fault Refusal :=
  .next (s.host h (.setFeaturesPowerManagement h ps) fun t =>
    if ps.toNat > 4 then t.done h .invalidField
    else if ps.toNat ≤ 2 then
      let p : Fin 5 := Fin.ofNat 5 ps.toNat
      State.good { t with sys := { t.sys with ps := p, lastOp := p, psWant := none } } h
    else State.good (t.wantPs (Fin.ofNat 5 ps.toNat)) h)

/-- Set an entry of the three thresholds; sensor 1111b names all of them (log entry 17). -/
def setThreshold (v : Vector Nat 3) (sensor k : Nat) : Vector Nat 3 := Vector.ofFn fun i : Fin 3 => if sensor = 15 ∨ sensor = i.val then k else v.get i

/-- SET_FEATURES_TEMP_THRESHOLD (R69): the composite, sensor 1 and sensor 2; the manual has no sensors 3 to 14 and names no status for them, and
the model answers Invalid Field in Command (DESIGN CHOICE, log entry 62). -/
def execSetFeaturesTempThreshold (h : Hdr) (sensor : BitVec 4) (under : Bool) (kelvin : BitVec 16) (s : State) :
    Host.Outcome State Fault Refusal :=
  .next (s.host h (.setFeaturesTempThreshold h sensor under kelvin) fun t =>
    if sensor.toNat > 2 ∧ sensor.toNat ≠ 15 then t.done h .invalidField
    else t.feature h fun f =>
      if under then { f with underK := setThreshold f.underK sensor.toNat kelvin.toNat }
      else { f with overK := setThreshold f.overK sensor.toNat kelvin.toNat })

/-- SET_FEATURES_ERROR_RECOVERY (R69): TLER in 100 ms units. -/
def execSetFeaturesErrorRecovery (h : Hdr) (tler : BitVec 16) (s : State) : Host.Outcome State Fault Refusal :=
  .next (s.host h (.setFeaturesErrorRecovery h tler) fun t => t.feature h fun f => { f with tler := tler.toNat })

/-- Save a change to the saved set alone: the live settings stay as they are (R69). -/
def State.saveChange (s : State) (f : Settings → Settings) : State :=
  let base := (s.bst.savedSet).getD (defaultSettings (s.rf .sysStrap 15 1 == 1))
  let s1 : State := (State.saveSettings { s with settings := f base }).2
  { s1 with settings := s.settings }

/-- SET_FEATURES_WRITE_CACHE (R26, R69): turning the cache off drains what it holds. -/
def execSetFeaturesWriteCache (h : Hdr) (wce save : Bool) (s : State) : Host.Outcome State Fault Refusal :=
  .next (s.host h (.setFeaturesWriteCache h wce save) fun t =>
    let t1 : State := { t with
      settings := { t.settings with hostWcache := wce }
      front := { t.front with draining := t.front.draining || (!wce && t.front.staging.any (·.cached)) } }
    State.good (if save then t1.saveChange fun x => { x with hostWcache := wce } else t1) h)

/-- SET_FEATURES_NUMBER_OF_QUEUES (R69): up to 128 of each, zero-based; DW0 gives what is granted. -/
def execSetFeaturesNumberOfQueues (h : Hdr) (nsq ncq : BitVec 16) (s : State) : Host.Outcome State Fault Refusal :=
  .next (s.host h (.setFeaturesNumberOfQueues h nsq ncq) fun t =>
    let a := min 127 nsq.toNat
    let b := min 127 ncq.toNat
    State.done { t with front := { t.front with feats := { t.front.feats with nsq := a, ncq := b } } } h .success (a + 65536 * b))

/-- SET_FEATURES_INTERRUPT_COALESCING (R69): threshold up to 255, time in 100 µs up to 25.5 ms. -/
def execSetFeaturesInterruptCoalescing (h : Hdr) (thr time : Byte) (s : State) : Host.Outcome State Fault Refusal :=
  .next (s.host h (.setFeaturesInterruptCoalescing h thr time) fun t =>
    t.feature h fun f => { f with coalThr := thr.toNat, coalTime := time.toNat })

/-- SET_FEATURES_INTERRUPT_VECTOR (R69): coalescing disable for one vector; one above 128, for which the manual gives no status, fails with Invalid
Field in Command (DESIGN CHOICE, log entry 62). -/
def execSetFeaturesInterruptVector (h : Hdr) (iv : BitVec 16) (cd : Bool) (s : State) : Host.Outcome State Fault Refusal :=
  .next (s.host h (.setFeaturesInterruptVector h iv cd) fun t =>
    if iv.toNat > 128 then t.done h .invalidField
    else t.feature h fun f =>
      let rest := f.coalOff.filter fun v => v != iv.toNat
      { f with coalOff := if cd then rest ++ [iv.toNat] else rest })

/-- SET_FEATURES_WRITE_ATOMICITY (R69). -/
def execSetFeaturesWriteAtomicity (h : Hdr) (dn : Bool) (s : State) : Host.Outcome State Fault Refusal :=
  .next (s.host h (.setFeaturesWriteAtomicity h dn) fun t => t.feature h fun f => { f with dn })

/-- SET_FEATURES_ASYNC_EVENT_CONFIG (R69). -/
def execSetFeaturesAsyncEventConfig (h : Hdr) (mask : Word) (s : State) : Host.Outcome State Fault Refusal :=
  .next (s.host h (.setFeaturesAsyncEventConfig h mask) fun t => t.feature h fun f => { f with aec := mask })

/-- SET_FEATURES_APST (R69, R83): the enable and the two idle times, in the settings' ranges (R140); times outside them, for which the manual gives no
status, fail with Invalid Field in Command (DESIGN CHOICE, log entry 62). -/
def execSetFeaturesApst (h : Hdr) (enable save : Bool) (ps3ms ps4ms : Nat) (s : State) : Host.Outcome State Fault Refusal :=
  .next (s.host h (.setFeaturesApst h enable save ps3ms ps4ms) fun t =>
    if ps3ms < 1 ∨ ps3ms > 60000 ∨ ps4ms < 10 ∨ ps4ms > 600000 then t.done h .invalidField
    else
      let f (x : Settings) : Settings := { x with hostApst := enable, hostApstPs3 := ps3ms, hostApstPs4 := ps4ms }
      let t1 : State := { t with settings := f t.settings }
      State.good (if save then t1.saveChange f else t1) h)

/-- The descriptors of a grant that the device uses: the first 256 (HMMAXD), without those below 2 MiB (HMMINDS), and 1 GiB of them in all (R70). -/
def usableHmb (descs : List (Nat × Nat)) : List (Nat × Nat) :=
  ((descs.take 256).filter fun d => decide (2 ≤ d.2)).foldl (fun l d =>
    let room := 1024 - sumNat (l.map (·.2))
    if room = 0 then l else l ++ [(d.1, min d.2 room)]) []

/-- The host address behind an offset of the HMB window: the granted buffer stands there in descriptor order (R70). -/
def hmbHost : List (Nat × Nat) → Nat → Option Nat
  | [], _ => none
  | d :: r, k => if k < d.2 * 2 ^ 20 then some (d.1 + k) else hmbHost r (k - d.2 * 2 ^ 20)

/-- SET_FEATURES_HOST_MEMORY_BUFFER (R70, R324): a grant below HMMIN is refused; the window holds at most 1 GiB; with the buffer disabled no map
page is there any more. -/
def execSetFeaturesHostMemoryBuffer (h : Hdr) (enable : Bool) (descs : List (Nat × Nat)) (s : State) : Host.Outcome State Fault Refusal :=
  .next (s.host h (.setFeaturesHostMemoryBuffer h enable descs) fun t =>
    let l := usableHmb descs
    if enable ∧ sumNat (l.map (·.2)) < 64 then t.done h .invalidField
    else
      let t1 : State := { t with
        front := { t.front with hmbBytes := [], hmbDescs := if enable then l else [] }, map := { t.map with inHmb := [] } }
      State.good (t1.setReg .mapHmb (if enable then BitVec.ofNat 32 (sumNat (l.map (·.2)) + 65536) else 0)) h)

/-- SET_FEATURES_THERMAL_MANAGEMENT (R69, R267). -/
def execSetFeaturesThermalManagement (h : Hdr) (tmt1 tmt2 : BitVec 16) (s : State) : Host.Outcome State Fault Refusal :=
  .next (s.host h (.setFeaturesThermalManagement h tmt1 tmt2) fun t =>
    t.feature h fun f => { f with tmt1 := tmt1.toNat, tmt2 := tmt2.toNat })

/-- The value Get Features returns in DW0; CDW11 selects a threshold (sensor in bits [19:16], under in bit 20) or a vector (log entry 17). -/
def State.featureValue (s : State) (fid : Nat) (cdw11 : Word) : Option Nat :=
  let f := s.front.feats
  match fid with
  | 0x01 => some f.arbBurst
  | 0x02 => some s.sys.ps.val
  | 0x04 =>
    let v := if fld cdw11 20 2 = 1 then f.underK else f.overK
    if h : fld cdw11 16 4 < 3 then some (v.get ⟨fld cdw11 16 4, h⟩) else none
  | 0x05 => some f.tler
  | 0x06 => some (b2n s.settings.hostWcache)
  | 0x07 => some (f.nsq + 65536 * f.ncq)
  | 0x08 => some (f.coalThr + 256 * f.coalTime)
  | 0x09 => if fld cdw11 0 16 > 128 then none else some (fld cdw11 0 16 + 65536 * b2n (f.coalOff.contains (fld cdw11 0 16)))
  | 0x0A => some (b2n f.dn)
  | 0x0B => some f.aec.toNat
  | 0x0C => some (b2n s.settings.hostApst)
  | 0x0D => some (s.rf .mapHmb 16 1)
  | 0x10 => some (f.tmt2 + 65536 * f.tmt1)
  | _ => none

/-- GET_FEATURES (R69): any other identifier fails with Invalid Field in Command; APST and HMB return their data with it. -/
def execGetFeatures (h : Hdr) (ask : FeatureAsk) (s : State) : Host.Outcome State Fault Refusal :=
  .next (s.host h (.getFeatures h ask) fun t =>
    match t.featureValue ask.fid.toNat ask.cdw11 with
    | none => t.done h .invalidField
    | some v => t.done h .success v (match ask.fid.toNat with
        | 0x0C => .fields [("ps3_ms", t.settings.hostApstPs3), ("ps4_ms", t.settings.hostApstPs4)]
        | 0x0D => .fields [("hmb_mib", t.rf .mapHmb 0 11)]
        | _ => .none))

/-! ## Identify (R56, R59, R65 to R67, R70, R71, R83) -/

/-- The power state descriptors: NOPS, MP, MXPS, ENLAT, EXLAT for PS0 to PS4; a master of a chain reports the longer entries (R83). -/
def State.powerStates (s : State) : List Nat :=
  let chain := decide (s.isMaster ∧ s.chainN > 1)
  [0, 450, 0, 0, 0, 0, 300, 0, 0, 0, 0, 180, 0, 0, 0,
   1, 250, 1, (if chain then 101000 else 1000), 300, 1, 16, 1, (if chain then 110000 else 10000), 4000]

/-- Identify Controller: the fields the manual gives. -/
def State.idController (s : State) : List (String × Nat) :=
  let vid := Config.vendorId.toNat
  let total := s.userBytes * s.chainN
  let free := s.freeUnits.length * 2 ^ 30 * s.chainN
  [("vid", vid), ("did", 0x8048), ("ssvid", if s.sys.fuses.ssvid = 0 then vid else s.sys.fuses.ssvid.toNat),
   ("ssid", if s.sys.fuses.ssid = 0 then 0x8048 else s.sys.fuses.ssid.toNat), ("rev", Config.revision.toNat), ("ver", 0x00020000),
   ("mdts", 9), ("acl", 3), ("aerl", 7), ("vwc", 1), ("nn", 8), ("fwug", 1), ("frmw_slots", 2), ("rab", 3),
   ("hmpre", 262144), ("hmmin", 16384), ("hmminds", 512), ("hmmaxd", 256), ("apsta", 1), ("npss", 4), ("sanicap", 3), ("fna", b2n fnaAll),
   ("wctemp", (s.govT1 + 273).toNat), ("cctemp", 398), ("rtd3e_us", 100000), ("rtd3r_us", 1000000),
   ("awun", 0), ("awupf", 0), ("tnvmcap", total), ("unvmcap", free)]

/-- Identify Namespace. -/
def NsRec.identify (r : NsRec) : List (String × Nat) :=
  [("nsze", r.lbas), ("ncap", r.lbas), ("flbas", b2n r.lba4k), ("nlbaf", 1), ("lbaf0_lbads", 9), ("lbaf1_lbads", 12),
   ("lbaf1_better", 1), ("dlfeat", 1)]

/-- What Identify answers for a CNS, none where it is not served. -/
def State.identify (s : State) (cns : Nat) (nsid : Word) : Option (NStat × Payload) :=
  let listed (p : NsRec → Bool) : List Nat :=
    (s.allNs.filter fun i => decide (i.val + 1 > nsid.toNat) && match s.map.ns.get i with | some r => p r | none => false).map fun i => i.val + 1
  let zero : Payload := .bytes (List.replicate 4096 0)
  let ns (p : NsRec → Bool) : NStat × Payload :=
    if nsid = 0 ∨ (nsid.toNat > 8 ∧ nsid ≠ 0xFFFFFFFF) then (.invalidNs, .none)
    else match s.nsOf nsid with
      | some (_, r) => (.success, if p r then .fields r.identify else zero)
      | none => (.success, zero)
  match cns with
  | 0x00 | 0x05 => some (ns fun r => r.attached)
  | 0x01 | 0x06 => some (.success, .fields (s.idController ++ (s.powerStates.zipIdx.map fun x => ("psd" ++ toString x.2, x.1))))
  | 0x02 => some (.success, .list (listed fun r => r.attached))
  | 0x03 => some (match s.nsOf nsid with
      | some (_, r) => if r.attached then (.success, .fields [("csi", 0)]) else (.invalidNs, .none)
      | none => (.invalidNs, .none))
  | 0x10 => some (.success, .list (listed fun _ => true))
  | 0x11 => some (ns fun _ => true)
  | 0x12 => some (match s.nsOf nsid with
      | some (_, r) => (.success, .list (if r.attached then [0] else []))
      | none => (.invalidNs, .none))
  | 0x13 => some (.success, .list [0])
  | _ => none

/-- IDENTIFY (R65). -/
def execIdentify (h : Hdr) (cns : Byte) (nsid : Word) (s : State) : Host.Outcome State Fault Refusal :=
  .next (s.host h (.identify h cns nsid) fun t =>
    match t.identify cns.toNat nsid with
    | none => t.done h .invalidField
    | some (st, d) => t.done h st 0 d)

/-! ## Namespaces, Format, Sanitize, firmware (R71 to R74, R403, R412, R514, R526) -/

/-- Another present device holds another stripe size (R412): what HELLO told of the direct partner. -/
def State.stripeDiffers (s : State) : Bool :=
  match s.teth.td.partner with
  | some b => decide (b.stripeLog2 ≠ 0 ∧ b.stripeLog2 ≠ log2Of s.settings.tethStripe) && (s.allNs).isEmpty
  | none => false

/-- NAMESPACE_CREATE (R68, R71, R283, R403, R412). -/
def execNamespaceCreate (h : Hdr) (nszeGib : Nat) (flbas : BitVec 4) (s : State) : Host.Outcome State Fault Refusal :=
  .next (s.host h (.namespaceCreate h nszeGib flbas) fun t =>
    if t.locked then t.done h .denied
    else if flbas.toNat > 1 then t.done h .formatInvalid
    else if nszeGib = 0 ∨ t.stripeDiffers then t.done h .invalidField
    else if t.freeNs.isNone then t.done h .nsidUnavailable
    else if t.freeUnits.length < ceilDiv nszeGib t.chainN then t.done h .capacity
    else t.adminRun h (.namespaceCreate h nszeGib flbas))

/-- NAMESPACE_DELETE (R71, R403, R531). -/
def execNamespaceDelete (h : Hdr) (nsid : Word) (s : State) : Host.Outcome State Fault Refusal :=
  .next (s.host h (.namespaceDelete h nsid) fun t =>
    if t.locked then t.done h .denied
    else if (t.nsOf nsid).isNone ∧ nsid ≠ 0xFFFFFFFF then t.done h .invalidNs
    else t.adminRun h (.namespaceDelete h nsid))

/-- NAMESPACE_ATTACHMENT (R71, R403): on the master alone. -/
def execNamespaceAttachment (h : Hdr) (nsid : Word) (attach : Bool) (s : State) : Host.Outcome State Fault Refusal :=
  .next (s.host h (.namespaceAttachment h nsid attach) fun t =>
    if t.locked then t.done h .denied
    else match t.nsOf nsid with
      | none => t.done h .invalidNs
      | some (i, r) =>
        if attach && r.attached then t.done h .attached
        else if !attach && !r.attached then t.done h .notAttached
        else State.good (State.nsNotice { t with map := { t.map with ns := setAt t.map.ns i (some { r with attached := attach }) } } i) h)

/-- A namespace holds a written LBA. -/
def State.written (s : State) (r : NsRec) : Bool :=
  (s.map.entries.any fun e => r.units.contains (e.1 / 262144)) || s.front.staging.any fun x => r.units.contains (x.dsec / 262144)

/-- FORMAT_NVM (R72, R403, R526, R531). -/
def execFormatNvm (h : Hdr) (nsid : Word) (lbaf : BitVec 4) (ses : BitVec 3) (s : State) : Host.Outcome State Fault Refusal :=
  .next (s.host h (.formatNvm h nsid lbaf ses) fun t =>
    if t.locked ∧ ses.toNat < 2 then t.done h .denied
    else if ses.toNat > 2 then t.done h .invalidField
    else if lbaf.toNat > 1 then t.done h .formatInvalid
    else if (t.formatNs nsid).isEmpty then t.done h .invalidNs
    else if t.sanitizing then t.done h .sanitizing
    else if ses = 0 ∧ ((t.formatNs nsid).any fun x => x.2.lba4k != (lbaf == 1) && t.written x.2) = true then t.done h .formatInvalid
    else t.adminRun h (.formatNvm h nsid lbaf ses))

/-- SANITIZE_CRYPTO_ERASE (R73, R403, R526, R531). -/
def execSanitizeCryptoErase (h : Hdr) (s : State) : Host.Outcome State Fault Refusal :=
  .next (s.host h (.sanitizeCryptoErase h) fun t =>
    if t.sanitizing then t.done h .sanitizing else t.adminRun h (.sanitizeCryptoErase h))

/-- SANITIZE_BLOCK_ERASE (R73, R403, R526). -/
def execSanitizeBlockErase (h : Hdr) (s : State) : Host.Outcome State Fault Refusal :=
  .next (s.host h (.sanitizeBlockErase h) fun t =>
    if t.locked then t.done h .denied
    else if t.sanitizing then t.done h .sanitizing
    else t.adminRun h (.sanitizeBlockErase h))

/-- SANITIZE_EXIT_FAILURE_MODE (R73): accepted. -/
def execSanitizeExitFailureMode (h : Hdr) (s : State) : Host.Outcome State Fault Refusal :=
  .next (s.host h (.sanitizeExitFailureMode h) fun t => t.good h)

/-- FIRMWARE_IMAGE_DOWNLOAD (R68, R74, R403, R514). -/
def execFirmwareImageDownload (h : Hdr) (off len : Nat) (bytes : List Byte) (s : State) : Host.Outcome State Fault Refusal :=
  .next (s.host h (.firmwareImageDownload h off len bytes) fun t =>
    if downloadBad off len then t.done h .invalidField else t.adminRun h (.firmwareImageDownload h off len bytes))

/-- FIRMWARE_COMMIT (R74, R403, R514, R526). -/
def execFirmwareCommit (h : Hdr) (slot action : BitVec 3) (sigOk : Bool) (s : State) : Host.Outcome State Fault Refusal :=
  .next (s.host h (.firmwareCommit h slot action sigOk) fun t =>
    if t.locked then t.done h .denied
    else if action.toNat > 2 then t.done h .invalidField
    else t.adminRun h (.firmwareCommit h slot action sigOk))

end Sys2Proof.Machine
end

