-- ==== Sys2Proof/Machine/FrontIo.lean ====
section
/-! DEFINITION. The I/O commands (R23 to R28, R64 to R68, R76, R86, R87, R90, R302 to R304, R347, R402, R410): what each does on one
device, and how a cascade master splits it. -/

namespace Sys2Proof.Machine

/-! ## Checks (R68, R347, R526) -/

/-- The namespace of an I/O command, or the status that stops it: the checks of every I/O command, the 2 MiB limit, the range, and
read-only health; the order is log entry 18. -/
def State.ioCheck (s : State) (nsid : Word) (lba n : Nat) (limit writes : Bool) : Except NStat (Fin 8 × NsRec) :=
  match s.ioStop nsid, s.nsOf nsid with
  | some st, _ => .error st
  | none, none => .error .invalidNs
  | none, some (i, r) =>
    if limit ∧ n * r.lbaBytes > 2097152 then .error .invalidField
    else if lba + n > r.lbas then .error .lbaRange
    else if writes ∧ s.readOnly then .error .writeProtected
    else .ok (i, r)

/-- Complete a command with the status that stops it; a write refused for read-only health sets trouble bit 27 again where the host has
cleared it (R347). -/
def State.stopIo (s : State) (h : Hdr) (st : NStat) : State :=
  (s.raiseIf (decide (st = .writeProtected) && !s.trb 27) 27).done h st

/-! ## Where an LBA range goes (R90, R402) -/

/-- The runs of an LBA range on one device each: owner, first LBA, LBAs. -/
def State.runs (s : State) (r : NsRec) : Nat → Nat → Nat → List (Nat × Nat × Nat)
  | 0, _, _ => []
  | f + 1, lba, n =>
    if n = 0 then []
    else
      let t := max 1 (if r.lba4k then s.stripeSectors else 8 * s.stripeSectors)
      let k := if s.chainN = 1 then n else min n (t - lba % t)
      (s.ownerOf (r.sectorOf lba), lba, k) :: s.runs r f (lba + k) (n - k)

/-- The runs of a whole range. -/
def State.runsOf (s : State) (r : NsRec) (lba n : Nat) : List (Nat × Nat × Nat) :=
  s.runs r (n / max 1 (if r.lba4k then s.stripeSectors else 8 * s.stripeSectors) + 2) lba n

/-- A device the master cannot give a part. -/
def State.gone (s : State) (k : Nat) : Bool := s.teth.absent.getLsbD k || !s.teth.present.getLsbD k

/-- The master holds parts back from a device that is holding, or lies beyond one that is (R408). -/
def State.heldDev (s : State) (k : Fin 4) : Bool := s.teth.holding.any fun x => decide (x.1.val ≤ k.val)

/-- The 512 B pieces of a write in the order of its LBAs. -/
def pieceAt (data : List Sector) (m : Nat) : Nat := (data.getD (m / 8) Sector.zero).lba.toList.getD (m % 8) 0

/-- The namespace sector `j` of a write of `n` LBAs from `lba`, zero where the write does not cover it. -/
def writeSector (lba4k : Bool) (lba n : Nat) (data : List Sector) (j : Nat) : Sector :=
  if lba4k then data.getD (j - lba) Sector.zero
  else ⟨Vector.ofFn fun i : Fin 8 => if lba ≤ 8 * j + i.val ∧ 8 * j + i.val < lba + n then pieceAt data (8 * j + i.val - lba) else 0⟩

/-- The namespace sectors an LBA range touches. -/
def NsRec.touched (r : NsRec) (lba n : Nat) : List Nat :=
  let (a, b) := r.span lba n
  (List.range (b - a)).map (· + a)

/-- The PART payload and the DATA frames of a part, from its command (R394, R395). -/
def State.partOf (s : State) (p : MPart) (i : Instr) (ns : Fin 8) (r : NsRec) : PartBody × List Sector :=
  let b : PartBody := { opcode := p.opcode, nsid := ns, wcache := s.settings.hostWcache, fua := false, lba4k := r.lba4k
                        speculative := false, lbas := p.lbas, first := p.first, ranges := p.ranges }
  match i with
  | .write _ _ slba data n fua =>
    let b1 : PartBody := { b with fua }
    (b1, partFrames b1 ((r.touched p.first p.lbas).map (writeSector r.lba4k slba n data)))
  | _ => (b, [])

/-- Put a part on the wire: its PART frame, then its DATA frames; not to a device that holds (R408). -/
def State.sendPart (s : State) (p : MPart) : State :=
  match s.front.ctx? p.hdr with
  | none => s
  | some c =>
    match c.cmd, s.nsOf (BitVec.ofNat 32 c.nsid) with
    | some i, some (ns, r) =>
      if s.heldDev p.owner then s
      else
        let (b, ds) := s.partOf p i ns r
        (ds.zipIdx).foldl (fun (t : State) (x : Sector × Nat) => t.tethSend 2 p.owner p.tag x.2 (partFrameLen b x.2) (.data x.1))
          (s.tethSend 1 p.owner p.tag 0 0 (.part b))
    | some i, none =>
      if s.heldDev p.owner then s
      else s.tethSend 1 p.owner p.tag 0 0 (.part (s.partOf p i 0 ⟨[], true, 0, true, true, 0⟩).1)
    | none, _ => s

/-- Slots of a part that will not be filled. -/
def State.failSlots (s : State) (h : Hdr) (first n : Nat) : State :=
  match s.front.ctx? h with
  | none => s
  | some c =>
    let big := s.ctx4k c
    let sec (l : Nat) : Nat := if big then l else l / 8
    let lo := sec first - sec c.lbas.1
    let k := if n = 0 then 0 else sec (first + n - 1) - sec first + 1
    s.ctx h fun x => { x with slots := (x.slots.zipIdx).map fun (y : Slot × Nat) =>
      if lo ≤ y.2 ∧ y.2 < lo + k then (match y.1 with | .wait _ => .failed | z => z) else y.1 }

/-- Give a part to its owner; a part on an absent device fails at once (R410). -/
def State.newPart (s : State) (h : Hdr) (op : Byte) (owner : Nat) (first n : Nat) (ranges : List (Nat × Nat)) : State :=
  if s.gone owner then (s.ctxFail h .internalDnr (some first)).failSlots h first n
  else
    let (tag, s1) := s.newTag
    let p : MPart := { tag, owner := dev owner, hdr := h, first, lbas := n, opcode := op, ranges }
    let s2 : State := { s1 with teth := { s1.teth with parts := s1.teth.parts ++ [p] } }
    (s2.ctx h fun c => { c with parts := c.parts ++ [(tag, first)] }).sendPart p

/-- The parts of other devices. -/
def State.splitRuns (s : State) (h : Hdr) (op : Byte) (rs : List (Nat × Nat × Nat)) : State :=
  (rs.filter fun x => x.1 != s.index).foldl (fun (t : State) (x : Nat × Nat × Nat) => t.newPart h op x.1 x.2.1 x.2.2 []) s

/-- Lists of at most 256 ranges (R395). -/
def chunks256 : Nat → List (Nat × Nat) → List (List (Nat × Nat))
  | 0, _ => []
  | f + 1, l => if l.isEmpty then [] else l.take 256 :: chunks256 f (l.drop 256)

/-- The parts of other devices for a command with ranges, cut to their stripes. -/
def State.splitRanges (s : State) (h : Hdr) (op : Byte) (r : NsRec) (ranges : List (Nat × Nat)) : State :=
  let rs := ranges.flatMap fun x => s.runsOf r x.1 x.2
  let one (t : State) (k : Nat) : State :=
    let mine := (rs.filter fun x => x.1 == k).map (·.2)
    (chunks256 (mine.length + 1) mine).foldl (fun (u : State) (c : List (Nat × Nat)) =>
      u.newPart h op k (c.headD (0, 0)).1 (sumNat (c.map (·.2))) c) t
  ((List.range s.chainN).filter fun k => k != s.index).foldl one s

/-- A part has ended at its owner, or with it: the lowest-addressed failure stands, and the command completes with its last part. -/
def State.endPart (s : State) (tag : BitVec 16) (st : NStat) (lba : Nat) : State :=
  match s.teth.parts.find? fun p => p.tag == tag with
  | none => s
  | some p =>
    let s1 : State := { s with teth := { s.teth with parts := s.teth.parts.filter fun x => x.tag != tag } }
    let s2 : State := s1.ctx p.hdr fun c => { c with parts := c.parts.filter fun x => x.1 != tag }
    let s3 : State := if st = .success then s2 else (s2.ctxFail p.hdr st (some lba)).failSlots p.hdr p.first p.lbas
    s3.ioTry p.hdr

/-! ## Reads on one device (R27, R28, R86, R87) -/

/-- Read one namespace sector into a slot: from staging, or by the map. -/
def State.readOne (s : State) (h : Hdr) (ns : Fin 8) (r : NsRec) (base j : Nat) : State :=
  match s.dsec r j with
  | none => s.putSlot h (j - base) (.data Sector.zero)
  | some d =>
    match (s.front.staging.filter fun x => x.dsec == d && x.partialMask.isNone).getLast? with
    | some x => s.putSlot h (j - base) (.data x.data)
    | none => s.readSector d 1 (.host h (j - base) ns (r.lbaOf j))

/-- Read the sectors of a run that this device holds. -/
def State.readHere (s : State) (h : Hdr) (ns : Fin 8) (r : NsRec) (base first n : Nat) : State :=
  (r.touched first n).foldl (fun t j => t.readOne h ns r base j) s

/-- Note a read of the host: it continues the run of contiguous reads, or starts a new one (R86). -/
def State.noteRead (s : State) (ns : Fin 8) (r : NsRec) (lba n : Nat) : State :=
  let used := (r.touched lba n).filterMap fun j => s.dsec r j
  let fresh : ReadAhead := { ns, next := lba + n, run := 1, held := [] }
  let x : ReadAhead := match s.front.ra.find? fun x => x.ns == ns with
    | some x => if x.next = lba then
        { x with next := lba + n, run := x.run + 1, held := x.held.filter fun e => !used.contains e.1 }
      else fresh
    | none => fresh
  { s with front := { s.front with ra := (s.front.ra.filter fun y => y.ns != ns) ++ [x] } }

/-- A read or a verify: its slots, the parts of other devices, and what this device holds. -/
def State.readCmd (s : State) (h : Hdr) (op : Byte) (ns : Fin 8) (r : NsRec) (lba n : Nat) : State :=
  let rs := s.runsOf r lba n
  let base := r.sectorOf lba
  let s1 : State := s.ctx h fun c => { c with slots := List.replicate (r.touched lba n).length (.wait 0) }
  let s2 : State := s1.splitRuns h op rs
  let s3 : State := (rs.filter fun x => x.1 == s.index).foldl (fun (t : State) (x : Nat × Nat × Nat) => t.readHere h ns r base x.2.1 x.2.2) s2
  s3.ioTry h

/-- READ (R28, R65, R68, R90). -/
def execRead (h : Hdr) (nsid : Word) (slba lbas : Nat) (s : State) : Host.Outcome State Fault Refusal :=
  .next (s.host h (.read h nsid slba lbas) fun t =>
    match t.ioCheck nsid slba lbas true false with
    | .error st => t.stopIo h st
    | .ok (i, r) =>
      let t1 : State := t.readCmd h 0x02 i r slba lbas
      t1.noteRead i r slba lbas)

/-- VERIFY (R65, R68): the sectors are read and checked, and nothing is returned. -/
def execVerify (h : Hdr) (nsid : Word) (slba lbas : Nat) (s : State) : Host.Outcome State Fault Refusal :=
  .next (s.host h (.verify h nsid slba lbas) fun t =>
    match t.ioCheck nsid slba lbas true false with
    | .error st => t.stopIo h st
    | .ok (i, r) => t.readCmd h 0x0C i r slba lbas)

/-! ## Read-ahead (R86, R87, R402, R433) -/

/-- Room in the Keeper pool that staging and read-ahead share: 6 MiB at most (R433). -/
def State.poolRoom (s : State) : Bool :=
  decide (s.front.staging.length + sumNat (s.front.ctxs.map fun c => c.slots.length) + sumNat (s.front.ra.map fun x => x.held.length) +
    (s.cdc.rds.countP fun r => match r.need with | .spec _ _ _ => true | _ => false) < 1536)

/-- Start the speculative read of a mapped sector here that is neither held nor on its way: only its STEP 0 is read, and where that does not decode
nothing more comes of it (R87, R224). -/
def State.specOne (s : State) (ns : Fin 8) (d : Nat) : State := s.readSector d 4 (.spec ns d 0)

/-- Whether a sector here still wants its speculative read. -/
def State.specWants (s : State) (ns : Fin 8) (x : ReadAhead) (d : Nat) : Bool :=
  (match s.entry d with | .mapped _ => true | _ => false) && !(x.held.any fun e => e.1 == d) &&
    !(s.cdc.rds.any fun r => match r.need with | .spec n e _ => n == ns && e == d | _ => false) &&
    !(s.map.waiters.any fun w => match w.2 with | .spec n e _ => n == ns && e == d | _ => false)

/-- SPECULATIVE_READ (R86, R87, R402): after three contiguous reads, the next sector of the read-ahead distance that needs a flash read; one
that another device holds is asked of it in a speculative part, which answers with no data. -/
def execSpeculativeRead (nsid : Word) (s : State) : Host.Outcome State Fault Refusal :=
  .next (match s.nsOf nsid with
    | none => s
    | some (ns, r) =>
      match s.front.ra.find? fun x => x.ns == ns with
      | none => s
      | some x =>
        if s.isMaster && s.mapUp && !s.locked && decide (x.run ≥ 3) && s.poolRoom then
          let j0 := (r.span 0 x.next).2
          let n := min (s.settings.hostReadahead / 4096) (r.sectors - j0)
          let js := (List.range n).map (· + j0)
          match js.find? fun j => if s.ownerOf j = s.index then (match s.dsec r j with | some d => s.specWants ns x d | none => false)
              else !x.asked.contains j && !s.gone (s.ownerOf j) with
          | none => s
          | some j =>
            match s.dsec r j with
            | some d => s.specOne ns d
            | none =>
              let k := min (n - (j - j0)) (s.stripeSectors - j % s.stripeSectors)
              let (tag, s1) := s.newTag
              let b : PartBody := { opcode := 0x02, nsid := ns, wcache := s.settings.hostWcache, fua := false, lba4k := r.lba4k
                                    speculative := true, lbas := if r.lba4k then k else 8 * k, first := r.lbaOf j, ranges := [] }
              let s2 : State := { s1 with front := { s1.front with ra := s1.front.ra.map fun (y : ReadAhead) =>
                if y.ns = ns then { y with asked := y.asked ++ (List.range k).map (· + j) } else y } }
              s2.tethSend 1 (dev (s.ownerOf j)) tag 0 0 (.part b)
        else s)

/-! ## Writes on one device (R23 step 1, R26, R302, R358) -/

/-- Stage one sector: a whole cached sector replaces the data of an earlier cached one that has not been allocated; otherwise it joins
staging, and its command waits for it. -/
def State.stageOne (s : State) (h : Hdr) (ns : Fin 8) (lba d : Nat) (x : Sector) (mask : Option (List Bool)) (cached : Bool) : State :=
  let add : State :=
    let y : Staged := { id := s.front.nextId, hdr := some h, ns, lba, dsec := d, data := x, cached, partialMask := mask }
    let t : State := { s with front := { s.front with staging := s.front.staging ++ [y], nextId := s.front.nextId + 1 } }
    t.poolFit.ctx h fun c => { c with uncommitted := c.uncommitted + 1 }
  match (s.front.staging.filter fun y => y.dsec == d).getLast? with
  | some y =>
    if cached && mask.isNone && y.cached && y.hdr.isNone && y.alloc.isNone && y.partialMask.isNone then
      { s with front := { s.front with staging := s.front.staging.map fun (z : Staged) => if z.id = y.id then { z with data := x } else z } }
    else add
  | none => add

/-- Stage the sectors of a run that this device holds: those covered in part as partial writes. -/
def State.stageHere (s : State) (h : Hdr) (ns : Fin 8) (r : NsRec) (first n : Nat) (cached : Bool) (sec : Nat → Sector) : State :=
  let ps := r.parts first n
  (r.touched first n).foldl (fun (t : State) (j : Nat) =>
    match t.dsec r j with
    | some d => t.stageOne h ns (r.lbaOf j) d (sec j) ((ps.find? fun p => p.1 == j).map (·.2)) cached
    | none => t) s

/-- Note the devices cached data has been sent to (R410). -/
def State.cachedSent (s : State) (rs : List (Nat × Nat × Nat)) : State :=
  { s with front := { s.front with cachedTo := (s.front.cachedTo ++ ((rs.map (·.1)).filter fun k => k != s.index).map dev).eraseDups } }

/-- WRITE (R23 step 1, R26, R65, R68, R90, R302, R347, R358). -/
def execWrite (h : Hdr) (nsid : Word) (slba : Nat) (data : List Sector) (lbas : Nat) (fua : Bool) (s : State) :
    Host.Outcome State Fault Refusal :=
  .next (s.host h (.write h nsid slba data lbas fua) fun t =>
    match t.ioCheck nsid slba lbas true true with
    | .error st => t.stopIo h st
    | .ok (i, r) =>
      let cached := t.settings.hostWcache && !fua
      let rs := t.runsOf r slba lbas
      let t1 : State := t.splitRuns h 0x01 rs
      let t2 : State := if cached then t1.cachedSent rs else t1
      let t3 : State := (rs.filter fun x => x.1 == t.index).foldl (fun (u : State) (x : Nat × Nat × Nat) =>
        u.stageHere h i r x.2.1 x.2.2 cached (writeSector r.lba4k slba lbas data)) t2
      (t3.cacheAdmit h).ioTry h)

/-! ## Flush (R27, R90, R410) -/

/-- A Flush here waits for what is staged now. -/
def State.flushHere (s : State) (h : Hdr) : State :=
  (s.ctx h fun c => { c with upTo := some s.front.nextId }).settle

/-- The status that stops a Flush; FFFFFFFFh names every namespace (log entry 17). -/
def State.flushStop (s : State) (nsid : Word) : Option NStat :=
  if nsid = 0xFFFFFFFF then
    if s.locked then some .denied else if s.sanitizing then some .sanitizing else if !s.map.mounted then some .notReady else none
  else s.ioStop nsid

/-- FLUSH (R27, R90, R410). -/
def execFlush (h : Hdr) (nsid : Word) (s : State) : Host.Outcome State Fault Refusal :=
  .next (s.host h (.flush h nsid) fun t =>
    match t.flushStop nsid with
    | some st => t.done h st
    | none =>
      if t.chainAbsent then t.done h .internalDnr
      else
        let t1 : State := ((List.range t.chainN).filter fun k => k != t.index).foldl (fun (u : State) (k : Nat) => u.newPart h 0x00 k 0 0 []) t
        t1.flushHere h)

/-! ## Deallocation (R76, R303, R304, R307) -/

/-- Zeros for the LBAs of sectors that ranges cover in part (R303). -/
def State.zeroParts (s : State) (h : Hdr) (ns : Fin 8) (r : NsRec) (ranges : List (Nat × Nat)) : State :=
  (ranges.flatMap fun x => r.parts x.1 x.2).foldl (fun (t : State) (p : Nat × List Bool) =>
    match t.dsec r p.1 with
    | some d => t.stageOne h ns (r.lbaOf p.1) d Sector.zero (some p.2) false
    | none => t) s

/-- Deallocate ranges here; the command waits for its last record to be durable in the journal stream. -/
def State.zeroHere (s : State) (h : Hdr) (ns : Fin 8) (r : NsRec) (ranges : List (Nat × Nat)) : State :=
  let ds := ranges.flatMap fun x => s.rangesOf r x.1 x.2
  (s.deallocate (some h) ds).zeroParts h ns r ranges

/-- WRITE_ZEROES (R65, R68, R303, R304, R347): carried out as a deallocation. -/
def execWriteZeroes (h : Hdr) (nsid : Word) (slba lbas : Nat) (s : State) : Host.Outcome State Fault Refusal :=
  .next (s.host h (.writeZeroes h nsid slba lbas) fun t =>
    match t.ioCheck nsid slba lbas false true with
    | .error st => t.stopIo h st
    | .ok (i, r) =>
      let t1 : State := t.splitRanges h 0x08 r [(slba, lbas)]
      (t1.zeroHere h i r [(slba, lbas)]).ioTry h)

/-- The namespace of a command with ranges, or the status that stops it. -/
def State.rangeCheck (s : State) (nsid : Word) (ranges : List (Nat × Nat)) : Except NStat (Fin 8 × NsRec) :=
  match s.ioStop nsid, s.nsOf nsid with
  | some st, _ => .error st
  | none, none => .error .invalidNs
  | none, some (i, r) => if ranges.any fun x => decide (x.1 + x.2 > r.lbas) then .error .lbaRange else .ok (i, r)

/-- DATASET_MANAGEMENT (R65, R303, R304): attribute AD deallocates; hints alone change nothing. -/
def execDatasetManagement (h : Hdr) (nsid : Word) (ad : Bool) (ranges : List (Nat × Nat)) (s : State) : Host.Outcome State Fault Refusal :=
  .next (s.host h (.datasetManagement h nsid ad ranges) fun t =>
    match t.rangeCheck nsid ranges with
    | .error st => t.stopIo h st
    | .ok (i, r) =>
      if !ad then t.good h
      else
        let t1 : State := t.splitRanges h 0x09 r ranges
        (t1.zeroHere h i r ranges).ioTry h)

/-- A Secure Deallocate here: one at a time, the later ones waiting in their order. -/
def State.secureHere (s : State) (h : Hdr) (ns : Fin 8) (r : NsRec) (ranges : List (Nat × Nat)) : State :=
  let ds := ranges.flatMap fun x => s.rangesOf r x.1 x.2
  let s1 : State := s.zeroParts h ns r ranges
  if ds.isEmpty then s1
  else if s1.map.secure.isSome then { s1 with map := { s1.map with secQ := s1.map.secQ ++ [(h, ds)] } }
  else s1.secureBegin (some h) ds

/-- SECURE_DEALLOCATE (R76, R68, R90, R307): at most 1 GiB in all. -/
def execSecureDeallocate (h : Hdr) (nsid : Word) (ranges : List (Nat × Nat)) (s : State) : Host.Outcome State Fault Refusal :=
  .next (s.host h (.secureDeallocate h nsid ranges) fun t =>
    match t.rangeCheck nsid ranges with
    | .error st => t.stopIo h st
    | .ok (i, r) =>
      if sumNat (ranges.map (·.2)) * r.lbaBytes > 2 ^ 30 then t.done h .invalidField
      else
        let t1 : State := t.splitRanges h 0xC9 r ranges
        (t1.secureHere h i r ranges).ioTry h)

/-! ## Parts on their owner (R398, R402) -/

/-- The status that stops a part here: attachment belongs to the master alone. -/
def State.partStop (s : State) (ns : Fin 8) : Option NStat :=
  match s.map.ns.get ns with
  | none => some .invalidNs
  | some r =>
    if s.locked then some .denied
    else if s.sanitizing then some .sanitizing
    else if s.front.formatting.contains ns then some .formatting
    else if !r.ready then some .notReady
    else none

/-- End a part without a DONE (R402, R408). -/
def State.dropPart (s : State) (tag : BitVec 16) : State :=
  let s1 : State := s.stopCommand (partHdr tag)
  { s1 with
    teth := { s1.teth with owned := s1.teth.owned.filter fun o => o.tag != tag }
    front := s1.front.dropCtx (partHdr tag) }

/-- The DATA frames a part still waits for. -/
def OPart.whole (o : OPart) : Bool :=
  o.body.opcode != 0x01 || (let n := if o.body.lba4k then o.body.lbas else ceilDiv (o.body.first + o.body.lbas) 8 - o.body.first / 8
    (List.range n).all fun k => o.got.any fun x => x.1 == k)

/-- The sector of a part's data, by namespace sector. -/
def OPart.sector (o : OPart) (j : Nat) : Sector :=
  let j0 := if o.body.lba4k then o.body.first else o.body.first / 8
  match o.got.find? fun x => x.1 == j - j0 with
  | some x => unframe o.body.lba4k o.body.first (j - j0) x.2
  | none => Sector.zero

/-- Run a part here once its data is whole, as R23, R26 to R28 and R304 to R310 do; a speculative part reads into this device's own Keeper. -/
def State.runPart (s : State) (tag : BitVec 16) : State :=
  match s.teth.owned.find? fun o => o.tag == tag with
  | none => s
  | some o =>
    let b := o.body
    let h := partHdr tag
    if !o.whole ∨ (s.front.ctx? h).isSome then s
    else
      let s1 : State := { s with front := { s.front with ctxs := s.front.ctxs ++ [({ hdr := h, started := true } : Ctx)] } }
      let fail (st : NStat) : State := ({ s1 with front := s1.front.setCtx h fun c => c.fail st (some b.first) }).partDone ((({ hdr := h } : Ctx)).fail st (some b.first)) st
      if b.opcode = 0x00 then (match (if s.locked then some NStat.denied else if s.sanitizing then some .sanitizing else none) with
        | some st => fail st
        | none => s1.flushHere h)
      else match s.partStop b.nsid, s.map.ns.get b.nsid with
        | some st, _ => fail st
        | none, none => fail .invalidNs
        | none, some r =>
          if (b.opcode = 0x01 ∨ b.opcode = 0x08) ∧ s.readOnly then
            State.partDone (s1.raiseIf (!s1.trb 27) 27) ((({ hdr := h } : Ctx)).fail .writeProtected (some b.first)) .writeProtected
          else if b.opcode = 0x02 ∧ b.speculative then
            let s2 : State := { s1 with front := { s1.front with ra := if s1.front.ra.any fun x => x.ns == b.nsid then s1.front.ra
              else s1.front.ra ++ [({ ns := b.nsid, next := 0, run := 0, held := [] } : ReadAhead)] } }
            let s3 : State := (r.touched b.first b.lbas).foldl (fun (t : State) (j : Nat) =>
              match t.dsec r j with
              | some d => if t.poolRoom then t.specOne b.nsid d else t
              | none => t) s2
            s3.ioTry h
          else if b.opcode = 0x02 ∨ b.opcode = 0x0C then
            let s2 : State := s1.ctx h fun c => { c with slots := List.replicate (r.touched b.first b.lbas).length (.wait 0) }
            (s2.readHere h b.nsid r (r.sectorOf b.first) b.first b.lbas).ioTry h
          else if b.opcode = 0x01 then
            let s2 : State := s1.stageHere h b.nsid r b.first b.lbas (b.wcache && !b.fua) o.sector
            (s2.cacheAdmit h).ioTry h
          else if b.opcode = 0x08 ∨ b.opcode = 0x09 then (s1.zeroHere h b.nsid r b.ranges).ioTry h
          else if b.opcode = 0xC9 then (s1.secureHere h b.nsid r b.ranges).ioTry h
          else fail .invalidOpcode

end Sys2Proof.Machine
end

