-- ==== Sys2Proof/Machine/LogPages.lean ====
section
/-! DEFINITION. Log pages (R77 to R82, R350): the bytes of every page Get Log Page serves.  The layouts of the standard pages, and the codes
of the fields the spec only names, are those of the NVMe specification (log entry 17). -/

namespace Sys2Proof.Machine

/-- A temperature in quarters of a degree as whole kelvin. -/
def kelvinQ (q : Int) : Nat := (wholeC q + 273).toNat

/-- The hottest chamber in kelvin; the die where no chamber is populated. -/
def State.hotK (s : State) : Nat := match s.hottest with | some x => (x.1 + 273).toNat | none => kelvinQ s.assay.dieQ

/-- The SMART critical warnings (R82, R346). -/
def State.critical (s : State) : Nat :=
  b2n (decide (s.map.health ≥ 1)) + 2 * b2n s.tempWarn + 4 * b2n (decide (s.front.smart.mediaErrors > 0)) +
    8 * b2n s.readOnly + 16 * b2n s.front.cacheLost

/-- The sum of the erase counts of every block, and the mean and the highest. -/
def State.meanErase (s : State) : Nat := if s.totalBlocks = 0 then 0 else sumNat (s.map.blks.map fun e => e.2.erase) / s.totalBlocks
def State.maxErase (s : State) : Nat := (s.map.blks.map fun e => e.2.erase).foldl max 0

/-- The rounded-up percentage of the rated native cycles (R350).  DEDUCED (log entry 89): the mean is over the blocks in native use. -/
def State.percentUsed (s : State) : Nat :=
  let l := s.map.blks.filter fun e => e.2.use == .native && e.2.st != .bad
  let sum := sumNat (l.map fun e => e.2.erase)
  match s.refProf with
  | none => 0
  | some p => if l.length * p.ratedNative = 0 then 0 else min 255 (ceilDiv (100 * sum) (l.length * p.ratedNative))

/-- An Error Information entry. -/
def ErrEntry.bytes (e : ErrEntry) : List Nat :=
  padTo 64 (leBytes 8 e.count ++ leBytes 2 e.hdr.sqid.val ++ leBytes 2 e.hdr.cid.toNat ++ leBytes 2 (2 * (e.sc + 256 * e.sct)) ++ [0, 0] ++
    leBytes 8 e.lba ++ leBytes 4 e.nsid)

/-- Page 01h: 64 entries, newest first (R77). -/
def State.page01 (s : State) : List Nat := padTo 4096 (s.front.errLog.flatMap ErrEntry.bytes)

/-- Page 02h: SMART/Health (R350). -/
def State.page02 (s : State) : List Nat :=
  let m := s.front.smart
  let w (n : Nat) := leSat 16 n
  padTo 512 ([s.critical] ++ leBytes 2 (kelvinQ s.composite) ++ [s.sparePct, 10, s.percentUsed, 0] ++ List.replicate 25 0 ++
    w (ceilDiv m.unitsRead 1000) ++ w (ceilDiv m.unitsWritten 1000) ++ w m.readCmds ++ w m.writeCmds ++ w (m.busySecs / 60) ++
    w m.powerCycles ++ w (m.onSecs / 3600) ++ w m.unsafeShutdowns ++ w m.mediaErrors ++ w m.errEntries ++
    leBytes 4 (m.warnSecs / 60) ++ leBytes 4 (m.critSecs / 60) ++
    leBytes 2 (kelvinQ s.assay.dieQ) ++ leBytes 2 s.hotK ++ List.replicate 12 0 ++
    leBytes 4 m.t1Count ++ leBytes 4 m.t2Count ++ leBytes 4 m.t1Secs ++ leBytes 4 m.t2Secs)

/-- The slot number of a twin (R74). -/
def Twin.slot (t : Twin) : Nat := t.num + 1

/-- Page 03h: the active slot, the one to be activated next, and the revision of each image, whose value the manual does not give. -/
def State.page03 (s : State) : List Nat :=
  let next := match s.bst.pendingSwap with | some x => Twin.slot x.twin | none => 0
  let rev (t : Twin) : List Nat := leBytes 8 (Config.imageVersion t.num s.bst.swaps.length)
  padTo 512 ([Twin.slot s.bst.active + 16 * next] ++ List.replicate 7 0 ++ rev .a ++ rev .b)

/-- Page 0Ch: the namespaces that have changed. -/
def State.page0C (s : State) : List Nat := padTo 4096 (s.front.changedNs.flatMap (leBytes 4))

/-- The share of a block erase that is done, in 65536ths. -/
def State.sanitizeDone (s : State) : Nat :=
  let left := sumNat (s.gals.toList.map fun g => g.ops.countP fun o => o.kind == .erase)
  if s.totalBlocks = 0 then 0xFFFF else min 0xFFFF ((s.totalBlocks - left) * 65536 / s.totalBlocks)

/-- Page 81h: progress, the status of the last sanitize, its CDW10 and the estimated times, which the manual does not give. -/
def State.page81 (s : State) : List Nat :=
  let (prog, stat, cdw) := match s.front.sanitize with
    | .never => (0xFFFF, 0, 0)
    | .crypto => (0, 2, 4)
    | .block => (s.sanitizeDone, 2, 2)
    | .done => (0xFFFF, 1, 0)
    | .failed => (0xFFFF, 3, 0)
  padTo 512 (leBytes 2 prog ++ leBytes 2 stat ++ leBytes 4 cdw ++ leBytes 4 0xFFFFFFFF ++
    leBytes 4 (Config.freeNat s.free) ++ leBytes 4 (Config.freeNat (s.free + 1)))

/-- A gallery's record in page C0h (R78). -/
def State.galRecord (s : State) (g : Fin 8) : List Nat :=
  let x := s.gals.get g
  padTo 32 (leSat 2 (s.rate g) ++ leSat 2 (s.rf (.galSuspect g) 0 16) ++ leSat 4 x.retrains ++
    leSat 4 x.parityErrs ++ leSat 4 x.timeouts ++
    leSat 4 x.orders ++ leSat 4 x.progFails ++ leSat 4 x.eraseFails)

/-- Page C0h: extended health (R78); every count saturates at its field. -/
def State.pageC0 (s : State) : List Nat :=
  padTo 512 ([1, 0, s.map.health, s.rf .govStep 0 3] ++ leSat 4 s.map.spare ++ leSat 4 s.map.spareFirst ++ leSat 4 (s.map.sumpSize / 2 ^ 20) ++
    leSat 8 s.front.smart.sectorsWritten ++ leSat 8 (s.count "programmed") ++ leSat 8 (s.count "hard") ++ leSat 8 (s.count "bits") ++
    leSat 8 (s.count "retry") ++ leSat 8 (s.count "soft") ++ leSat 8 (s.count "rebuild") ++ leSat 8 (s.count "uncorr") ++
    leSat 8 (s.count "refresh_read") ++ leSat 8 (s.count "refresh_effort") ++ leSat 8 (s.count "refresh_patrol") ++ leSat 8 (s.count "patrol_wakes") ++
    leSat 4 s.map.patrolOver ++ leSat 4 s.maxErase ++ leSat 4 s.meanErase ++ leSat 4 ((s.refProf.map (·.ratedNative)).getD 0) ++
    leSat 2 s.assay.isnsMa ++ leSat 2 s.assay.ctlMw ++ leSat 2 (kelvinQ s.assay.dieQ) ++ leSat 2 s.hotK ++
    leSat 4 (s.count "retrains") ++ leSat 4 s.map.scans ++ (fins 8).flatMap s.galRecord)

/-- Page C1h: temperature history (R79). -/
def State.pageC1 (s : State) : List Nat := padTo 512 s.sys.hist.bytes

/-- Page C2h: the change journal (R80). -/
def State.pageC2 (s : State) : List Nat :=
  let es := s.bst.journal
  let body := es.flatMap JEntry.bytes
  padTo 64 (leBytes 4 es.length ++ leBytes 4 ((es.head?.map (·.seq)).getD 0) ++ leBytes 4 ((es.getLast?.map (·.seq)).getD 0) ++
    leBytes 4 body.length) ++ body

/-- Page C3h: trouble word and reset causes (R81). -/
def State.pageC3 (s : State) : List Nat :=
  let r (x : Reg) := leBytes 4 (s.reg x).toNat
  padTo 512 (leBytes 8 s.sys.trouble.toNat ++ r .sysCause ++ r .sysCauseSnap ++ r .trbSnapLo ++ r .trbSnapHi ++
    [s.rf .sysRstLast 0 3, s.rf .sysRstLast 4 4] ++ leBytes 2 (s.rf .sysRstLast 16 16) ++ r .sysStrap ++
    leBytes 8 s.sys.life ++ leBytes 8 s.sys.resetLife ++ List.replicate 16 0 ++
    (List.range 64).flatMap fun n => leBytes 4 (Store.get (fun _ => (0 : Word)) s.sys.trbTime n).toNat)

/-- A log page's bytes. -/
def State.logPage (s : State) (lid : Nat) : Option (List Nat) :=
  match lid with
  | 0x01 => some s.page01
  | 0x02 => some s.page02
  | 0x03 => some s.page03
  | 0x0C => some s.page0C
  | 0x81 => some s.page81
  | 0xC0 => some s.pageC0
  | 0xC1 => some s.pageC1
  | 0xC2 => some s.pageC2
  | 0xC3 => some s.pageC3
  | _ => none

/-- Reading a page with RAE clear lets its events be posted again (R77, R82); the changed namespace list empties as it is read. -/
def State.pageRead (s : State) (lid : Nat) (rae : Bool) : State :=
  { s with
    front := { s.front with
      masked := if rae then s.front.masked else s.front.masked.filter fun p => p != lid
      changedNs := if lid = 0x0C ∧ !rae then [] else s.front.changedNs }
    free := if lid = 0x81 then s.free + 2 else s.free }

/-- GET_LOG_PAGE (R77 to R82, R350): NUMD dwords, zero-based, from LPO.  An LPO beyond the page's length, for which the manual says nothing, fails
with Invalid Field in Command (DESIGN CHOICE, log entry 62). -/
def execGetLogPage (h : Hdr) (lid : Byte) (numd : BitVec 32) (lpo : BitVec 64) (rae : Bool) (s : State) : Host.Outcome State Fault Refusal :=
  .next (s.host h (.getLogPage h lid numd lpo rae) fun t =>
    match t.logPage lid.toNat with
    | none => t.done h .logPage
    | some page =>
      if lpo.toNat % 4 ≠ 0 ∨ lpo.toNat > page.length then t.done h .invalidField
      else (t.pageRead lid.toNat rae).done h .success 0 (.bytes ((page.drop lpo.toNat).take (4 * (numd.toNat + 1)))))

end Sys2Proof.Machine
end

