-- ==== Sys2Proof/Machine/Reset.lean ====
section
/-! DEFINITION. Resets, clocks and supplies (R48, R51 to R55, R227, R428, R484, R513, R544 to R554, R561, R570): the pins and monitors
that ask for a reset, the power-up sequence, the release of each clock domain, and what firmware does at a release. -/

namespace Sys2Proof

/-- The bit of a domain in SYS_CLK.good and in the released domains. -/
def Clk.num : Clk → Nat
  | .aclk => 0 | .cclk => 1 | .xclk => 2 | .gclk => 3 | .hclk => 4

/-- The bit of a rail in SYS_SUPPLY. -/
def Rail.num : Rail → Nat
  | .vcc33 => 0 | .vdd18 => 1 | .vddc => 2 | .vphy => 3 | .vddqg => 4

end Sys2Proof

namespace Sys2Proof.Machine

/-! ## Sources (R545) -/

/-- POWER_ON_RESET (R511, R545, R547, R579): supply has been away: a boot store operation under way is interrupted, no rail is good, and a
level 0 reset with cause bit 0 is asserted. -/
def execPowerOnReset (s : State) : Host.Outcome State Fault Refusal :=
  .next (let s1 : State := s.bstSpoil
    let s2 : State := match s1.bst.suspended with
      | some sec => { s1 with bst := s1.bst.spoilSec sec s1.free, free := s1.free + 1 }
      | none => s1
    let s3 : State := { s2 with
      bst := { s2.bst with op := .none, opCm := false, suspended := none, susCm := false, error := false, statusMode := false, toggle := false }
      sys := { s2.sys with railsGood := false, railMv := Vector.replicate 5 0 } }
    s3.assertReset 0 0)

/-- A source of level 0 that meets a level 0 reset still releasing: the power-up table begins again from step 1 (R54), and the cause bits stand, the
source's added (R549; log entry 67). -/
def State.restart0 (s : State) (src : Nat) : State :=
  let c := (s.cause src).reg .sysCause
  ((s.assertReset 0 src).setReg .sysCause c).setReg .sysCauseSnap c

/-- A source that pulls the supplies or RST_N down asks for its reset. -/
def State.requestDown (s : State) (src : Nat) : State :=
  if s.sys.rst = some 0 ∧ s.fuseLevel src = 0 then s.restart0 src else s.requestFused src

/-- BROWN_OUT (R54, R546, R554): VCC33, VDD18 and VDDC have a brown-out threshold; the other rails have none.  The last rail good begins what
follows. -/
def execBrownOut (rail : Rail) (s : State) : Host.Outcome State Fault Refusal :=
  .next (match rail with
    | .vcc33 | .vdd18 | .vddc => State.requestDown { s with sys := { s.sys with railsGood := false } } 1
    | .vphy | .vddqg => s)

/-- RST_N_LOW (R54, R545): level 0, held while the pin is low. -/
def execRstNLow (s : State) : Host.Outcome State Fault Refusal :=
  .next (State.requestDown { s with sys := { s.sys with rstN := false } } 2)

/-- RST_N_HIGH (R54): the power-up table begins again from step 1 where every rail is good. -/
def execRstNHigh (s : State) : Host.Outcome State Fault Refusal := .next { s with sys := { s.sys with rstN := true } }

/-- PERST_ASSERTED (R545). -/
def execPerstAsserted (s : State) : Host.Outcome State Fault Refusal :=
  .next (State.requestFused { s with sys := { s.sys with perst := false } } 3)

/-- PERST_DEASSERTED (R51, R54): steps 9 and 10 may follow. -/
def execPerstDeasserted (s : State) : Host.Outcome State Fault Refusal := .next { s with sys := { s.sys with perst := true } }

/-- A reset of the endpoint that comes over the link (R55): Front's NVMe controller state goes as under R61; the manual gives it no cause
source and no level, and none is recorded (log entry 28). -/
def State.linkReset (s : State) (lanes : HostLanes) : State :=
  if s.isMaster && s.sys.released.getLsbD 4 && s.sys.lanes != .idle && decide (s.sys.ps.val ≤ 3) then
    let s1 : State := s.resetRegs 3
    { s1 with
      front := { s1.front.resetNvme with pcie := {} }
      map := { s1.map with inHmb := [] }
      sys := { s1.sys with lanes } }
  else s

/-- HOT_RESET (R55, R578): the link returns to Detect; trouble bit 40 stays as it is. -/
def execHotReset (s : State) : Host.Outcome State Fault Refusal := .next (s.linkReset .detect)

/-- LINK_DISABLE (R55, R578). -/
def execLinkDisable (s : State) : Host.Outcome State Fault Refusal := .next (s.linkReset .disabled)

/-- HOST_LINK_DOWN (R578): on a master with PERST# high, the link falls and trouble bit 40 is set. -/
def execHostLinkDown (s : State) : Host.Outcome State Fault Refusal :=
  .next (if s.isMaster && s.sys.perst && s.sys.released.getLsbD 4 && s.sys.lanes != .idle && s.sys.lanes != .disabled then
      State.raise { s with sys := { s.sys with lanes := .detect } } 40
    else s)

/-- The unit a number of SYS_RST_REQ names (R570). -/
def unitOf (n : Nat) : Option UnitName :=
  if n < 8 then some (.gal (Fin.ofNat 8 n))
  else if n < 16 then some (.hard (Fin.ofNat 8 (n - 8)))
  else if n < 18 then some (.soft (Fin.ofNat 2 (n - 16)))
  else if n < 26 then some (.dma (Fin.ofNat 8 (n - 18)))
  else if n = 26 then some .tu
  else if n = 27 then some .td
  else none

/-- A request through SYS_RST_REQ: from source 11 at its fused level for the debug class, else from source 7 at the level given. -/
def State.goReset (s : State) (cls : Cls) (level unit : Nat) : State :=
  if cls = .debug then s.requestFused 11
  else if level ≤ 3 then s.requestReset 7 level
  else if level = 4 then
    match unitOf unit with
    | none => s
    | some u =>
      let (okay, t) := s.requestUnit u 7
      if okay then t else t.setRf .sysRstReq 10 1 1
  else s

/-- SYS_RST_REQ_GO (R549, R551, R570). -/
def execSysRstReqGo (cls : Cls) (level : BitVec 3) (unit : BitVec 5) (s : State) : Host.Outcome State Fault Refusal :=
  .next (((s.setRf .sysRstReq 0 3 level.toNat).setRf .sysRstReq 4 5 unit.toNat).goReset cls level.toNat unit.toNat)

/-- Clear cause bits (R547). -/
def State.clearCause (s : State) (mask : Word) : State := s.setReg .sysCause (s.reg .sysCause &&& ~~~(mask &&& Reg.w1c .sysCause))

/-- SYS_CAUSE_CLEAR (R547, R566). -/
def execSysCauseClear (mask : Word) (s : State) : Host.Outcome State Fault Refusal := .next (s.clearCause mask)

/-! ## Power-up (R48, R54) -/

/-- A level 0 reset runs its power-up table: every rail good and RST_N high. -/
def State.powering (s : State) : Bool := s.sys.rst == some 0 && s.sys.railsGood && s.sys.rstN

/-- LAST_RAIL_GOOD (R54 step 1). -/
def execLastRailGood (s : State) : Host.Outcome State Fault Refusal :=
  .next { s with sys := { s.sys with railsGood := true } }

/-- AON_CAP_GOOD (R54 steps 2 and 3): ACLK runs and the CFG_RS pull-up is connected. -/
def execAonCapGood (s : State) : Host.Outcome State Fault Refusal :=
  .next (if s.powering && !s.sys.aonGood then
      State.setRf { s with sys := { s.sys with aonGood := true, pullUp := true } } .sysClk 8 1 1
    else s)

/-- Put a code in its place among codes in rising order. -/
def insertCode (x : Nat) : List Nat → List Nat
  | [] => [x]
  | y :: r => if x ≤ y then x :: y :: r else y :: insertCode x r

/-- The median of sixteen codes: the 8th lowest (R48). -/
def medianCode (codes : List Nat) : Nat := (codes.foldl (fun l x => insertCode x l) []).getD 7 0

/-- The lowest and the highest code of each strap index (R48). -/
def strapBands : List (Nat × Nat) :=
  [(0, 3), (4, 9), (10, 14), (15, 19), (20, 23), (24, 27), (28, 31), (32, 34), (35, 37), (38, 40), (41, 43), (44, 45), (46, 47),
    (48, 49), (50, 57), (58, 63)]

/-- The index of a code. -/
def strapIndex (code : Nat) : Nat := (strapBands.findIdx? fun b => decide (b.1 ≤ code ∧ code ≤ b.2)).getD 15

/-- The code is the lowest or the highest of its band; for index 0 and 15 only the inner edge counts (R49). -/
def strapMarginal (code : Nat) : Bool :=
  let i := strapIndex code
  let b := strapBands.getD i (0, 63)
  (i != 0 && code == b.1) || (i != 15 && code == b.2)

/-- SYS_STRAP for a code (R48, R49): role in index bits [3:2], width in bit 1, console default in bit 0. -/
def strapWord (code : Nat) : Word :=
  let i := strapIndex code
  BitVec.ofNat 32 (code + 256 * i + 4096 * (i / 4) + 16384 * (i / 2 % 2) + 32768 * (i % 2) + 65536 * b2n (strapMarginal code))

/-- STRAP_SAMPLE (R48 to R51): the median is latched, the pull-up disconnected, and a master asserts CLKREQ#. -/
def execStrapSample (codes : Vector (BitVec 6) 16) (s : State) : Host.Outcome State Fault Refusal :=
  .next (if s.powering && s.sys.pullUp then
      let code := medianCode (codes.toList.map fun c : BitVec 6 => c.toNat)
      let s1 : State := s.setReg .sysStrap (strapWord code)
      { s1 with sys := { s1.sys with pullUp := false, strapped := true, clkreqOut := s1.isMaster } }
    else s)

/-- The root runs from REFCLK, or from the fallback oscillator with the galleries limited (R552, R564). -/
def State.rootOn (s : State) : State :=
  let fb := b2n (!s.sys.refclk)
  (((((s.setRf .sysClk 0 1 fb).setRf .sysClk 1 1 1).setRf .sysClk 3 1 (b2n s.sys.refclk)).setRf .sysClk 4 1 fb).setRf .sysClk 8 4 15)

/-- ROOT_PLL_LOCK (R54 steps 5 and 6, R552): after ACLK's release, or where it was not reset. -/
def execRootPllLock (s : State) : Host.Outcome State Fault Refusal :=
  .next (if s.sys.released.getLsbD 0 && s.rf .sysClk 1 1 == 0 && s.sys.ps != 4 then s.rootOn else s)

/-- A tether port is taken into use when the role is known and HCLK is released: PD_TETH is powered and the ports train (R33, R51, R390). -/
def State.tethStart (s : State) : State := State.startPorts { s with sys := { s.sys with tethGo := true } }

/-! ## What firmware and ROM do at a release (R200, R428, R484, R513, R561, R604) -/

/-- The default map (R484): base, log₂ of the size, ur, uw, dbg, lock. -/
def defaultMap : List (Nat × Nat × Nat) :=
  [(0x00000000, 18, 0xB), (0x10000000, 23, 0xB), (0x20100000, 20, 0xB), (0x20200000, 21, 0xB), (0x21700000, 20, 0xF),
    (0x40000000, 18, 0xF), (0x40040000, 17, 0xF), (0x40060000, 16, 0x13), (0x40070000, 16, 0xF), (0x40080000, 16, 0xF),
    (0x40090000, 16, 0xF), (0x400A0000, 17, 0xF), (0x40100000, 19, 0xF)]

/-- A region of the default map; regions 13 to 15 are disabled. -/
def defaultRegion (i : Nat) : Region :=
  match defaultMap[i]? with
  | some (b, k, a) => { base := BitVec.ofNat 32 b, attr := BitVec.ofNat 32 (a + 256 * k) }
  | none => {}

/-- Firmware loads the default map. -/
def State.loadMap (s : State) : State :=
  let v : Vector Region 16 := Vector.ofFn fun i : Fin 16 => defaultRegion i.val
  { s with mpu := { s.mpu with shadow := v, active := v } }

/-- The lifetime seconds a level 0 reset starts from: one more than the largest of the boot store's newest entries (R561). -/
def BootStore.lastSecs (b : BootStore) : Nat :=
  max ((b.journal.getLast?.map (·.secs)).getD 0) (max ((b.healthRec.map fun x => x.2.2.2).getD 0) ((b.alarmLog.getLast?.map (·.secs)).getD 0))

/-- At a level 0 release: lifetime, history and the count of power cycles (R79, R350, R561). -/
def State.coldLife (s : State) : State :=
  { s with
    sys := { s.sys with life := s.bst.lastSecs + 1, hist := s.sys.histSaved }
    front := { s.front with smart := { s.front.smart with powerCycles := s.front.smart.powerCycles + 1 } } }

/-- A half of the profile area as it stands (R200): its sequence number and the image of each gallery its map names; none where the magic is
missing or an image's header does not pass. -/
def BootStore.half (b : BootStore) (h : Nat) : Option (Nat × List (Fin 8 × List Nat)) :=
  let base := (0x33 + 8 * h) * 0x10000
  if b.read base 4 ≠ [0x5A, 0x50, 0x53, 0x31] then none
  else
    let off (k : Nat) : Nat := leNat (b.read (base + 16 + 4 * k) 4)
    let image (k : Nat) : Option (List Nat) :=
      let len := leNat (b.read (base + off k + 8) 4)
      if off k < 64 ∨ len > 32768 ∨ off k + len > 0x80000 then none
      else
        let m := b.read (base + off k) len
        if (headerChecks m len).all (·.1) then some m else none
    if (List.range 8).all fun k => off k == 0 || (image k).isSome then
      some (leNat (b.read (base + 4) 4), (fins 8).filterMap fun g =>
        (image ((b.byte (base + 8 + g.val)).toNat)).bind fun m => if (b.byte (base + 8 + g.val)).toNat < 8 then some (g, m) else none)
    else none

/-- The half that serves at start: of those that are valid, the one with the higher sequence number. -/
def BootStore.bestHalf (b : BootStore) : Option (Nat × List (Fin 8 × List Nat)) :=
  match b.half 0, b.half 1 with
  | some x, some y => some (if x.1 ≥ y.1 then x else y)
  | some x, none => some x
  | none, y => y

/-- The saved profiles wait for installation at start (R199, R200). -/
def State.bootProfiles (s : State) : State :=
  match s.bst.bestHalf with
  | none => s
  | some (_, l) => l.foldl (fun (t : State) (x : Fin 8 × List Nat) => t.gal x.1 fun g => { g with toInstall := some (imgProfile x.2) }) s

/-- TETH_CTL's enables from the strap role (R413). -/
def State.tethEnables (s : State) : State := s.setReg .tethCtl (if s.isMaster then 2 else 3)

/-- CCLK released at level `l`: the cores start from mask ROM, a twin is chosen, and firmware starts; with no profile on any gallery there is
nothing to mount, and the device is in `recovery` (R116, R165, R200, R602). -/
def State.coresStart (s : State) (l : Nat) (sigA sigB : Bool) : State :=
  let s0 : State := if s.bst.busy then s else { s with bst := { s.bst.hStart with statusMode := false, error := false } }
  let s1 : State := (if l = 0 then s0.coldLife else s0).twinSelect sigA sigB
  let s2 : State := if l ≤ 1 then (s1.loadSaved.kprFill true true true).bootProfiles else s1.kprFill false true false
  let s3 : State := (((fins 8).foldl State.galSetup s2.mirrorAll).loadMap).tethEnables
  if s3.sys.rom || s3.gals.toList.all (fun (g : Gallery) => g.profile.isNone && g.toInstall.isNone) then s3.enter .recovery else s3

/-- XCLK released: each XTS lane's known-answer test and the key slots (R227, R228, R524). -/
def State.codecStart (s : State) (katFail : BitVec 4) : State :=
  let s1 : State := (s.setRf .cdcXtsStat 0 4 (15 - katFail.toNat)).setRf .cdcLaneStat 26 4 katFail.toNat
  (s1.raiseIf (katFail != 0) 20).loadKeys

/-- HCLK released at level `l`: host lanes, or for level 2 the Tether part alone, for level 3 Front's NVMe state. -/
def State.hostStart (s : State) (l : Nat) : State :=
  if l = 3 then s
  else
    let s1 : State := if l ≤ 1 ∧ s.isMaster = true then { s with sys := { s.sys with lanes := .detect, clkreqOut := true } } else s
    s1.tethStart

/-- The clock-good condition of a domain, beside what the event itself says (R548, R54): ACLK needs the strap of a level 0 reset, the root's
domains its lock, HCLK the host PHY's lock, with PERST# high where Front's part is in the reset. -/
def State.clockGood (s : State) (d : Clk) (l : Nat) : Bool :=
  match d with
  | .aclk => s.powering && s.sys.strapped
  | .cclk | .xclk | .gclk => s.rf .sysClk 1 1 == 1
  | .hclk => l == 3 || (s.rf .sysClk 2 1 == 1 && (decide (l = 2) || s.sys.perst))

/-- What a domain's release starts. -/
def State.domainStart (s : State) (d : Clk) (l : Nat) (katFail : BitVec 4) (sigA sigB : Bool) : State :=
  match d with
  | .aclk | .gclk => s
  | .cclk => s.coresStart l sigA sigB
  | .xclk => s.codecStart katFail
  | .hclk => s.hostStart l

/-- The reset has ended: a request that waited for its end is carried out (R549). -/
def State.resetEnd (s : State) : State :=
  let s1 : State := { s with sys := { s.sys with rst := none, after2 := none, after3 := none } }
  match s.sys.after2, s.sys.after3 with
  | some src, _ => s1.assertReset 3 src
  | none, some src => s1.assertReset 2 src
  | none, none => s1

/-- Release the next domain of the reset in progress. -/
def State.release (s : State) (d : Clk) (katFail : BitVec 4) (sigA sigB : Bool) : State :=
  match s.sys.rst, s.sys.toRelease with
  | some l, x :: rest =>
    if x = d ∧ s.clockGood d l = true ∧ s.sys.tripHold = false ∧ (l = 0 → s.powering = true) ∧ (l ≤ 1 → s.sys.railsGood = true) then
      let s1 : State := { s with sys := { s.sys with toRelease := rest, released := s.sys.released ||| BitVec.ofNat 5 (2 ^ d.num) } }
      let s2 : State := s1.domainStart d l katFail sigA sigB
      if rest.isEmpty then s2.resetEnd else s2
    else s
  | _, _ => s

/-- DOMAIN_RELEASE (R544, R548): the next domain in order, once its clock-good signal holds; a thermal trip holds the reset (R269). -/
def execDomainRelease (d : Clk) (good : Bool) (katFail : BitVec 4) (sigA sigB : Bool) (s : State) : Host.Outcome State Fault Refusal :=
  .next (if good then s.release d katFail sigA sigB else s)

/-- HOST_PHY_PLL_LOCK (R54 steps 9 and 10, R553): the host PHY PLL locks to REFCLK; HCLK is released where it is next. -/
def execHostPhyPllLock (s : State) : Host.Outcome State Fault Refusal :=
  .next (if s.sys.refclk && s.sys.released.getLsbD 0 && s.sys.ps != 4 then
      ((s.setRf .sysClk 2 1 1).setRf .sysClk 12 1 1).release .hclk 0 true true
    else s)

/-! ## REFCLK and the root (R552, R553) -/

/-- REFCLK_ARRIVAL (R552): a root on the fallback oscillator relocks; galleries that ran on it retrain. -/
def execRefclkArrival (s : State) : Host.Outcome State Fault Refusal :=
  .next (let s1 : State := { s with sys := { s.sys with refclk := true } }
    if s.sys.ps = 4 then s1
    else
      let s2 : State := s1.setRf .sysClk 3 1 1
      if s2.rf .sysClk 1 1 == 1 && s2.rf .sysClk 0 1 == 1 then
        let s3 : State := s2.rootOn
        (fins 8).foldl (fun (t : State) (g : Fin 8) =>
          if (t.gals.get g).ranFallback then (t.markRetrain g).gal g fun x => { x with ranFallback := false } else t) s3
      else s2)

/-- The host may stop REFCLK: the link, and with it a subordinate, waits in PS3 with the root on the fallback oscillator, or the device is in PS4
(R51, R553). -/
def State.refclkMayStop (s : State) : Bool := s.sys.ps.val ≥ 3 && (!s.isMaster || s.sys.lanes == .l12)

/-- REFCLK is absent: SYS_CLK shows it, and the host PHY PLL has no lock. -/
def State.refclkGone (s : State) : State :=
  ((State.setRf { s with sys := { s.sys with refclk := false } } .sysClk 3 1 0).setRf .sysClk 2 1 0).setRf .sysClk 12 1 0

/-- PLL_UNLOCK (R51, R553): the root moves to the fallback oscillator, and the galleries in service are limited and retrained; unless the move is planned
trouble bit 49 is set.  A transfer in flight is sent again: an op is one row, so none of it has moved.  Where the host may stop REFCLK, a planned
one is the stop. -/
def execPllUnlock (planned : Bool) (s : State) : Host.Outcome State Fault Refusal :=
  .next (if s.rf .sysClk 1 1 == 1 && s.rf .sysClk 0 1 == 0 then
      if planned then s.rootFallback
      else
        (s.rootFallback.raise 49).refclkGone
    else if planned && s.refclkMayStop then s.refclkGone
    else s)

/-- Release domains before clock-good (R550): their blocks are undefined until their next reset. -/
def State.forceRelease (s : State) (mask : BitVec 5) : State :=
  if s.isSt .test ∧ mask ≠ 0 then
    let good := BitVec.ofNat 5 (s.rf .sysClk 8 5)
    let early := mask &&& ~~~good &&& ~~~s.sys.released
    State.raise { s with sys := { s.sys with released := s.sys.released ||| mask, forced := s.sys.forced ||| early } } 48
  else s

/-- FORCE_RELEASE (R550, R571). -/
def execForceRelease (mask : BitVec 5) (s : State) : Host.Outcome State Fault Refusal := .next (s.forceRelease mask)

/-! ## Supply monitors (R554, R565) -/

/-- Millivolts times 100 of a rail's warning threshold; for VDDQG 92 % of the profile's I/O voltage. -/
def State.warnLevel (s : State) (r : Rail) : Nat :=
  match r with
  | .vcc33 => 295000
  | .vdd18 => 170000
  | .vddc => 71500
  | .vphy => 78000
  | .vddqg => 92 * ((s.gals.toList.filterMap (·.profile)).head?.map (·.ioMv)).getD 0

/-- A rail's level as the monitors see it. -/
def State.setRail (s : State) (r : Rail) (mv : Nat) : State :=
  { s with sys := { s.sys with railMv := s.sys.railMv.set! r.num mv } }

/-- SUPPLY_WARNING (R359, R554, R565). -/
def execSupplyWarning (rail : Rail) (mv : Nat) (s : State) : Host.Outcome State Fault Refusal :=
  .next (let s1 : State := s.setRail rail mv
    if 100 * mv < s1.warnLevel rail then (s1.setRf .sysSupply rail.num 1 1).raise 50 else s1)

/-- SUPPLY_WARNING_CLEARED (R554, R565): the rail is at or above its threshold again. -/
def execSupplyWarningCleared (rail : Rail) (mv : Nat) (s : State) : Host.Outcome State Fault Refusal :=
  .next (let s1 : State := s.setRail rail mv
    if 100 * mv ≥ s1.warnLevel rail then s1.setRf .sysSupply rail.num 1 0 else s1)

end Sys2Proof.Machine
end

