-- ==== Sys2Proof/Machine/Tether.lean ====
section
/-! DEFINITION. The Tether (chapter 13): training, arrival and forwarding of frames, replay and credits, parts and admin commands on their
owner, holds, and the loss and return of subordinates.  Console lines and the state order follow in the files on the console. -/

namespace Sys2Proof

/-- A frame passes its CRC and is no longer than a frame may be (R393, R394). -/
def FrameHdr.good (f : FrameHdr) : Bool := f.crcOk && decide (f.len ≤ 516)

end Sys2Proof

namespace Sys2Proof.Machine

/-! ## Replay (R401) -/

/-- The error counters of a port (R415). -/
def errReg : Port → Reg
  | .tu => .tethTuErr
  | .td => .tethTdErr

/-- The status register of a port (R414); its state field is the port's own. -/
def statReg : Port → Reg
  | .tu => .tethTuStat
  | .td => .tethTdStat

/-- Send the frames of the replay buffer again from a sequence number; with none of that number, all of them. -/
def TPort.resend (p : TPort) (seq : Nat) : TPort :=
  let l := p.replay.dropWhile fun f => f.seq != seq
  { p with sent := p.sent ++ (if l.isEmpty then p.replay else l) }

/-- A port trains again; its credits and its replay buffer survive (R390, R401). -/
def State.retrain (s : State) (p : Port) : State :=
  State.bump { s with teth := s.teth.port p fun q => { q with st := .training, tries := 0 } } (errReg p) 24 8 1

/-- A replay from a sequence number: the fourth of the same oldest frame without progress makes the port retrain and sets trouble bit 42. -/
def State.replayFrom (s : State) (p : Port) (seq : Nat) : State :=
  match (s.teth.get p).replay.head? with
  | none => s
  | some f =>
    let n := (s.teth.get p).tries + (if f.seq = seq then 1 else 0)
    let s1 : State := (s.bump (errReg p) 16 8 1)
    let s2 : State := { s1 with teth := s1.teth.port p fun q => { q.resend seq with tries := n } }
    if n ≥ 4 then (s2.retrain p).raise 42 else s2

/-! ## Arrival (R393, R400, R401) -/

/-- A link frame of this device on a port. -/
def State.linkFrame (s : State) (p : Port) (type seq index arg : Nat) : State :=
  let f : Frame := { type, dst := dev s.index, src := dev s.index, seq, tag := 0, index, arg }
  { s with teth := s.teth.port p fun q => q.link f }

/-- ACK: the highest sequence number received in order. -/
def State.sendAck (s : State) (p : Port) : State := s.linkFrame p 8 (((s.teth.get p).rxSeq + 4095) % 4096) 0 0

/-- NAK: the sequence number expected. -/
def State.sendNak (s : State) (p : Port) : State := s.linkFrame p 9 (s.teth.get p).rxSeq 0 0

/-- The credit of a frame's class goes back as its buffer frees. -/
def State.returnCredit (s : State) (p : Port) (type : Nat) : State :=
  match creditClass type with
  | .c => s.linkFrame p 10 0 0 1
  | .d => s.linkFrame p 10 0 1 1
  | .none => s

/-- A frame that fails its CRC, or is longer than a frame may be, is discarded, counted and answered with a NAK. -/
def State.rxBad (s : State) (p : Port) : State := (s.bump (errReg p) 0 16 1).sendNak p

/-- The port can receive: its link is up, or it is up and its partner has announced a reset. -/
def TPort.live (q : TPort) : Bool := q.st == .up || q.st == .hold

/-- A link frame arrives. -/
def State.rxLink (s : State) (p : Port) (f : FrameHdr) (act : State → State) : State :=
  if !(s.teth.get p).live then s
  else if f.good then act s
  else s.rxBad p

/-- The master notes the device a routed frame has come from: it is present. -/
def State.heard (s : State) (f : FrameHdr) : State :=
  if s.isMaster ∧ f.src.val ≠ 0 then { s with teth := { s.teth with present := s.teth.present ||| BitVec.ofNat 4 (2 ^ f.src.val) } } else s

/-- A sequenced frame arrives: the next in order is acknowledged and taken; one received before is dropped; any other is answered with a
NAK. -/
def State.rxSeqd (s : State) (p : Port) (f : FrameHdr) (type : Nat) (act : State → State) : State :=
  let q := s.teth.get p
  if !q.live then s
  else if !f.good then s.rxBad p
  else if f.seq.val = q.rxSeq then
    let s1 : State := { s with teth := s.teth.port p fun x => { x with rxSeq := (x.rxSeq + 1) % 4096 } }
    act (((s1.sendAck p).returnCredit p type).heard f)
  else if (q.rxSeq + 4096 - f.seq.val) % 4096 ≤ 2048 then s
  else s.sendNak p

/-- A routed frame arrives: taken here, or sent on with dst, src, tag and index as they were. -/
def State.rxRouted (s : State) (p : Port) (f : FrameHdr) (type arg : Nat) (body : FBody) (act : State → State) : State :=
  s.rxSeqd p f type fun t =>
    if f.dst.val = t.index then act t
    else
      let out := portToward t.index f.dst.val
      if out = p then t
      else
        let x : Frame := { type, dst := f.dst, src := f.src, seq := 0, tag := f.tag, index := f.index.toNat, arg, body }
        { t with teth := t.teth.port out fun q => q.send x }

/-! ## Training and HELLO (R389 to R392, R399, R408) -/

/-- The widest width of a port (R389). -/
def State.portLanes (s : State) : Nat := if s.rf .sysStrap 14 1 = 1 ∧ s.isMaster = false then 2 else 4

/-- A port may train: PD_TETH is powered and the port enabled (R390, R413). -/
def State.portOn (s : State) (p : Port) : Bool :=
  s.sys.tethGo && s.sys.doms.getLsbD 7 && s.rf .tethCtl (match p with | .tu => 0 | .td => 1) 1 == 1

/-- A port's training has ended: a `reset` line of the port replies, with `err fault train` where no link came of it (R135; log entry 63). -/
def State.portTrained (s : State) (p : Port) (good : Bool) : State :=
  s.finishJob (fun j => j == .reset (match p with | .tu => UnitName.tu | .td => .td)) fun _ => ([], if good then .ok [] else .err .fault [("", .word "train")])

/-- TETHER_TRAINING (R389, R390): with a partner the lanes and the rate are set and HELLO is sent; without one the port is down and keeps
trying. -/
def execTetherTraining (p : Port) (r : TethTrain) (s : State) : Host.Outcome State Fault Refusal :=
  .next (let q := s.teth.get p
    if s.portOn p && (q.st == .training || q.st == .down || q.st == .absent || q.st == .hold) then
      let w := min r.lanes.val s.portLanes
      if r.partner && (w == 1 || w == 2 || w == 4) && decide (r.rate.val ≠ 0) then
        let s1 : State := (s.setRf (statReg p) 4 3 w).setRf (statReg p) 8 3 r.rate.val
        State.sendHello { s1 with teth := s1.teth.port p fun x => { x with st := .training, eqStored := true } } p
      else
        let s1 : State := (s.setRf (statReg p) 4 3 0).setRf (statReg p) 8 3 0
        State.portTrained { s1 with teth := s1.teth.port p fun x => { x with st := if x.st = .absent then .absent else .down } } p false
    else s)

/-- No namespace exists here. -/
def State.noNs (s : State) : Bool := s.allNs.isEmpty

/-- The chain identifier this device holds, 0 for none. -/
def State.chainId (s : State) : Word := (s.teth.chain.map (·.id)).getD ((s.bst.chain.map (·.id)).getD 0)

/-- The N of the chain record, 0 for none. -/
def State.recordN (s : State) : Nat := (s.teth.chain.map (·.n)).getD ((s.bst.chain.map (·.n)).getD 0)

/-- The checks of R391 on a partner's HELLO: position, identifier, role; while namespaces exist a blank subordinate, or one beyond N, fails (R392).  A
subordinate sees from the stripe size that its partner's chain has namespaces: the first one fixes it (R412, R416). -/
def State.helloOk (s : State) (p : Port) (b : HelloBody) : Bool :=
  let pos := b.strap.val / 4
  match p with
  | .td => decide (pos = s.index + 1) &&
      (if b.chainId = 0 then s.noNs else s.chainId == b.chainId) && (s.noNs || decide (pos < s.recordN))
  | .tu => !s.isMaster && decide (pos + 1 = s.index) && (s.chainId == b.chainId || (s.chainId == 0 && decide (b.stripeLog2 = 0))) &&
      (decide (b.stripeLog2 = 0) || decide (s.index < b.n))

/-- A subordinate takes its master's chain record (R391, R392), and tells the device beyond it. -/
def State.takeChain (s : State) (p : Port) (b : HelloBody) : State :=
  if p = .tu ∧ b.chainId ≠ 0 ∧ (s.chainId = 0 ∨ (s.noNs = true ∧ (s.recordN ≠ b.n ∨ (s.teth.chain.map (·.stripeLog2)) ≠ some b.stripeLog2))) then
    let c : ChainRec := { id := b.chainId, n := b.n, stripeLog2 := b.stripeLog2, index := s.index }
    let s1 : State := { s with
      bst := { s.bst.hAdd 4 (leBytes 4 c.id.toNat ++ [c.n, c.stripeLog2, c.index, 0]) with chain := some c }
      teth := { s.teth with chain := some c } }
    if s1.teth.td.st = .up then s1.sendHello .td else s1
  else s

/-- End every part of the master's still running, without a DONE (R402, R408). -/
def State.dropParts (s : State) : State := (s.teth.owned.map (·.tag)).foldl (fun (t : State) (tag : BitVec 16) => t.dropPart tag) s

/-- The link comes up: a new link starts with sequence numbers at 0 and full credits; a retrained one replays from its oldest frame. -/
def State.linkUp (s : State) (p : Port) (b : HelloBody) : State :=
  let q := s.teth.get p
  let anew : Bool := b.fresh || q.fresh
  let s1 : State := { s with teth := s.teth.port p fun x =>
    if anew then ({ x with st := .up, fresh := false, partner := some b, txSeq := 0, rxSeq := 0, credC := 64, credD := 256, tries := 0, replay := [] } : TPort)
    else ({ x.resend ((x.replay.head?.map (·.seq)).getD 0) with st := .up, partner := some b, tries := 0 } : TPort) }
  let s2 : State := if b.fresh ∧ p = .tu then
      State.order (State.dropParts { s1 with teth := s1.teth.port .tu fun x => { x with waiting := [] } }) 0 6 0
    else s1
  let s3 : State := { s2 with teth := s2.teth.port p fun x => x.pump x.waiting }
  if s3.isMaster then { s3 with teth := { s3.teth with present := s3.teth.present ||| 2 } } else s3

/-- HELLO (R391, R392, R399, R408): a partner that passes every check brings the link up; one that fails any puts the port in mismatch. -/
def execHello (p : Port) (f : FrameHdr) (b : HelloBody) (s : State) : Host.Outcome State Fault Refusal :=
  .next (let q := s.teth.get p
    if q.st = .off ∨ s.rf (statReg p) 8 3 = 0 then s
    else if !f.good then s.rxBad p
    else
      let s1 : State := s.setRf (statReg p) 12 4 b.strap.val
      if s1.helloOk p b then
        let s2 : State := s1.takeChain p b
        if q.st = .up && !b.fresh then { s2 with teth := s2.teth.port p fun x => { x with partner := some b } }
        else (s2.linkUp p b).portTrained p true
      else State.portTrained { s1 with teth := s1.teth.port p fun x => { x with st := .mismatch, partner := some b } } p false)

/-- MISMATCH_HELLO_TIMER (R391). -/
def execMismatchHelloTimer (p : Port) (s : State) : Host.Outcome State Fault Refusal :=
  .next (if (s.teth.get p).st = .mismatch then s.sendHello p else s)

/-! ## Link frames and timers (R400, R401) -/

/-- Frames up to a sequence number leave the replay buffer, if it holds that number. -/
def TPort.acked (p : TPort) (seq : Nat) : TPort :=
  if p.replay.any fun f => f.seq == seq then
    let rest := (p.replay.dropWhile fun f => f.seq != seq).drop 1
    let p1 : TPort := { p with replay := rest, tries := 0 }
    p1.pump p1.waiting
  else p

/-- ACK (R401). -/
def execAck (p : Port) (f : FrameHdr) (s : State) : Host.Outcome State Fault Refusal :=
  .next (s.rxLink p f fun t => { t with teth := t.teth.port p fun q => q.acked f.seq.val })

/-- NAK (R401). -/
def execNak (p : Port) (f : FrameHdr) (s : State) : Host.Outcome State Fault Refusal :=
  .next (s.rxLink p f fun t => t.replayFrom p f.seq.val)

/-- Credits returned: of class D, or of class C. -/
def TPort.credited (q : TPort) (d : Bool) (n : Nat) : TPort :=
  let q1 : TPort := if d then { q with credD := q.credD + n } else { q with credC := q.credC + n }
  q1.pump q1.waiting

/-- CREDIT (R394, R400): len credits of the class index bit 0 names. -/
def execCredit (p : Port) (f : FrameHdr) (s : State) : Host.Outcome State Fault Refusal :=
  .next (s.rxLink p f fun t => { t with teth := t.teth.port p fun q => q.credited (f.index.getLsbD 0) f.len })

/-- REPLAY_TIMEOUT (R401): the oldest unacknowledged frame has waited 20 µs. -/
def execReplayTimeout (p : Port) (s : State) : Host.Outcome State Fault Refusal :=
  .next (match (s.teth.get p).replay.head? with
    | some f => if (s.teth.get p).st = .up then s.replayFrom p f.seq else s
    | none => s)

/-- IDLE_ACK_TIMER (R401). -/
def execIdleAckTimer (p : Port) (s : State) : Host.Outcome State Fault Refusal :=
  .next (if (s.teth.get p).live then s.sendAck p else s)

/-! ## Parts (R394, R396, R402) -/

/-- PART (R402): the part starts on its owner; one whose tag matches a part still running replaces it. -/
def execPart (p : Port) (f : FrameHdr) (b : PartBody) (s : State) : Host.Outcome State Fault Refusal :=
  .next (s.rxRouted p f 1 0 (.part b) fun t =>
    if t.isMaster then t
    else
      let t1 : State := if t.teth.owned.any fun o => o.tag == f.tag then t.dropPart f.tag else t
      let o : OPart := { tag := f.tag, body := b, got := [] }
      State.runPart { t1 with teth := { t1.teth with owned := t1.teth.owned ++ [o] } } f.tag)

/-- Keep a frame of a transfer under its number. -/
def putFrame (l : List (Nat × Sector)) (i : Nat) (d : Sector) : List (Nat × Sector) := (l.filter fun x => x.1 != i) ++ [(i, d)]

/-- Read data for the master: a frame fills the slot of its sector. -/
def State.partData (s : State) (q : MPart) (i : Nat) (d : Sector) : State :=
  match s.front.ctx? q.hdr with
  | none => s
  | some c =>
    let big := s.ctx4k c
    let sec (l : Nat) : Nat := if big then l else l / 8
    s.putSlot q.hdr (sec q.first - sec c.lbas.1 + i) (.data (unframe big q.first i d))

/-- A subordinate's DONE for an ADMIN frame (R403). -/
def State.adminDone (s : State) (tag : BitVec 16) (st : NStat) : State :=
  s.tethSend 3 0 tag 0 0 (.done { sc := BitVec.ofNat 8 st.sc, sct := BitVec.ofNat 3 st.sct, lbas := 0, firstFail := 0 })

/-- A frame of a firmware piece; with the last one the piece is programmed and answered (R403, R514). -/
def State.pieceData (s : State) (x : Piece) (i : Nat) (d : Sector) : State :=
  let y : Piece := { x with got := putFrame x.got i d }
  if (List.range (x.len / 4096)).all fun k => y.got.any fun e => e.1 == k then
    let bytes := (List.range (x.len / 4096)).flatMap fun k => ((y.got.find? fun e => e.1 == k).map fun e => e.2.bytes).getD []
    let (st, t) := State.downloadHere { s with teth := { s.teth with piece := none } } x.off x.len bytes
    t.adminDone x.tag st
  else { s with teth := { s.teth with piece := some y } }

/-- DATA (R394, R402, R403). -/
def execData (p : Port) (f : FrameHdr) (d : Sector) (s : State) : Host.Outcome State Fault Refusal :=
  .next (s.rxRouted p f 2 (8 * f.len) (.data d) fun t =>
    if t.isMaster then
      match t.teth.parts.find? fun q => q.tag == f.tag with
      | some q => t.partData q f.index.toNat d
      | none => t
    else if t.teth.owned.any fun o => o.tag == f.tag then
      State.runPart { t with teth := { t.teth with owned := t.teth.owned.map fun (o : OPart) =>
        if o.tag = f.tag then { o with got := putFrame o.got f.index.toNat d } else o } } f.tag
    else match t.teth.piece with
      | some x => if x.tag = f.tag then t.pieceData x f.index.toNat d else t
      | none => t)

/-- A verify's sectors on another device, which sends none of them. -/
def State.partVerified (s : State) (q : MPart) : State :=
  match s.front.ctx? q.hdr with
  | none => s
  | some c =>
    let big := s.ctx4k c
    let sec (l : Nat) : Nat := if big then l else l / 8
    let n := if q.lbas = 0 then 0 else sec (q.first + q.lbas - 1) - sec q.first + 1
    (List.range n).foldl (fun (t : State) (i : Nat) => t.putSlot q.hdr (sec q.first - sec c.lbas.1 + i) (.data Sector.zero)) s

/-- DONE (R396, R402, R403): a part's status, or a subordinate's answer to an ADMIN frame. -/
def execDone (p : Port) (f : FrameHdr) (b : DoneBody) (s : State) : Host.Outcome State Fault Refusal :=
  .next (s.rxRouted p f 3 0 (.done b) fun t =>
    match t.teth.parts.find? fun q => q.tag == f.tag with
    | some q =>
      let st : NStat := ⟨b.sct.toNat, b.sc.toNat, false⟩
      let t1 : State := if st = .success ∧ q.opcode = 0x0C then t.partVerified q else t
      t1.endPart f.tag st b.firstFail
    | none => t.adminAnswer f.tag b.sct.toNat b.sc.toNat)

/-! ## Admin commands on a subordinate (R403) -/

/-- The work of an ADMIN frame here. -/
def State.adminFrame (s : State) (tag : BitVec 16) (b : AdminBody) : State :=
  let h := partHdr tag
  let run (i : Instr) : State := let (st, _, t) := s.adminHere i; t.adminDone tag st
  let code := b.opcode.toNat
  if code = 0x0D then
    if b.cdw10.toNat % 16 = 1 then run (.namespaceDelete h (BitVec.ofNat 32 b.nsid))
    else if hn : 1 ≤ b.nsid ∧ b.nsid ≤ 8 then
      let bytes := if b.flbas = 1 then 4096 else 512
      let (st, t) := s.nsCreateHere ⟨b.nsid - 1, by omega⟩ (b.amount * bytes / 2 ^ 30) (b.flbas == 1)
      t.adminDone tag st
    else s.adminDone tag .invalidField
  else if code = 0x80 then run (.formatNvm h (BitVec.ofNat 32 b.nsid) (BitVec.ofNat 4 b.cdw10.toNat) (BitVec.ofNat 3 (b.cdw10.toNat / 512)))
  else if code = 0x84 then (if b.cdw10.toNat % 8 = 4 then run (.sanitizeCryptoErase h) else run (.sanitizeBlockErase h))
  else if code = 0x10 then run (.firmwareCommit h (BitVec.ofNat 3 b.cdw10.toNat) (BitVec.ofNat 3 (b.cdw10.toNat / 8)) b.sigOk)
  else if code = 0x11 then
    if downloadBad b.amount b.bytes then s.adminDone tag .invalidField
    else { s with teth := { s.teth with piece := some { tag, off := b.amount, len := b.bytes, got := [] } } }
  else s.adminDone tag .invalidOpcode

/-- ADMIN (R403). -/
def execAdmin (p : Port) (f : FrameHdr) (b : AdminBody) (s : State) : Host.Outcome State Fault Refusal :=
  .next (s.rxRouted p f 7 0 (.admin b) fun t => if t.isMaster then t else t.adminFrame f.tag b)

/-! ## Orders (R397, R402 to R408) -/

/-- An order arrives. -/
def State.rxOrder (s : State) (p : Port) (f : FrameHdr) (sub : Nat) (arg : Nat) (act : State → State) : State :=
  s.rxRouted p f 5 (sub + 256 * arg) .none fun t => act { t with teth := { t.teth with orderArg := arg } }

/-- ORDER_RESET (R405, R545): cause source 9, at the level the fuses give; the argument is recorded only. -/
def execOrderReset (p : Port) (f : FrameHdr) (arg : Byte) (s : State) : Host.Outcome State Fault Refusal :=
  .next (s.rxOrder p f 1 arg.toNat fun t => if t.isMaster then t else t.requestFused 9)

/-- ORDER_STANDBY (R406): the subordinate drains, and answers once nothing is outstanding. -/
def execOrderStandby (p : Port) (f : FrameHdr) (arg : Byte) (s : State) : Host.Outcome State Fault Refusal :=
  .next (s.rxOrder p f 2 arg.toNat fun t =>
    if t.isMaster = false ∧ (arg = 3 ∨ arg = 4) then
      State.wantPs { t with teth := { t.teth with standbyAsked := some arg.toNat } } (Fin.ofNat 5 arg.toNat)
    else t)

/-- ORDER_STANDBY_READY (R406). -/
def execOrderStandbyReady (p : Port) (f : FrameHdr) (arg : Byte) (s : State) : Host.Outcome State Fault Refusal :=
  .next (s.rxOrder p f 3 arg.toNat fun t =>
    if t.isMaster ∧ t.teth.standbyAsked = some arg.toNat ∧ t.teth.readyStandby.contains f.src = false then
      { t with teth := { t.teth with readyStandby := t.teth.readyStandby ++ [f.src] } }
    else t)

/-- The devices of the chain from `k` on. -/
def State.beyond (s : State) (k : Nat) : List (Fin 4) :=
  ([1, 2, 3] : List (Fin 4)).filter fun j => decide (k ≤ j.val) && (decide (j.val < s.chainN) || s.teth.present.getLsbD j.val)

/-- ORDER_HOLD (R408): the holding device and every device beyond it get no new part until each is ready. -/
def execOrderHold (p : Port) (f : FrameHdr) (arg : Byte) (s : State) : Host.Outcome State Fault Refusal :=
  .next (s.rxOrder p f 5 arg.toNat fun t =>
    if t.isMaster ∧ f.src.val ≠ 0 then
      let l := t.beyond f.src.val
      let held := (t.teth.holding.filter fun x => !l.contains x.1) ++ l.map fun j => (j, arg.toNat)
      let t1 : State := { t with teth := { t.teth with holding := held } }
      if f.src = 1 then { t1 with teth := t1.teth.port .td fun q => { q with st := .hold } } else t1
    else t)

/-- ORDER_READY (R408): every part outstanding there is sent again from the beginning; one whose command a controller reset has ended (R61) is not. -/
def execOrderReady (p : Port) (f : FrameHdr) (s : State) : Host.Outcome State Fault Refusal :=
  .next (s.rxOrder p f 6 0 fun t =>
    if t.isMaster then
      let t1 : State := { t with teth := { t.teth with
        holding := t.teth.holding.filter fun x => x.1 != f.src
        parts := t.teth.parts.filter fun q => q.owner != f.src || (t.front.ctx? q.hdr).isSome } }
      (t1.teth.parts.filter fun q => q.owner == f.src).foldl (fun (u : State) (q : MPart) => u.sendPart q) t1
    else t)

/-- ORDER_ABORT (R402). -/
def execOrderAbort (p : Port) (f : FrameHdr) (s : State) : Host.Outcome State Fault Refusal :=
  .next (s.rxOrder p f 7 0 fun t =>
    match t.teth.owned.find? fun o => o.tag == f.tag with
    | some o => (t.dropPart f.tag).tethSend 3 0 f.tag 0 0 (.done { sc := 0x07, sct := 0, lbas := 0, firstFail := o.body.first })
    | none => t)

/-- ORDER_ACTIVATE (R403, R408, R513): a subordinate whose commit succeeded sends a hold order and resets at level 2. -/
def execOrderActivate (p : Port) (f : FrameHdr) (s : State) : Host.Outcome State Fault Refusal :=
  .next (s.rxOrder p f 8 0 fun t => if t.isMaster = false ∧ t.bst.pendingSwap.isSome then t.requestReset 9 2 else t)

/-- ALARM (R404, R537). -/
def execAlarm (p : Port) (f : FrameHdr) (origin : Fin 4) (bit : Fin 64) (secs : Word) (s : State) : Host.Outcome State Fault Refusal :=
  .next (s.rxSeqd p f 6 fun t => if 56 ≤ bit.val ∧ bit.val ≤ 62 then t.alarmIn p origin bit.val secs else t)

/-! ## Loss (R409 to R411) -/

/-- The parts and messages outstanding at a device end with it. -/
def State.loseDev (s : State) (k : Fin 4) : State :=
  let s1 : State := ((s.teth.parts.filter fun q => q.owner == k)).foldl (fun (t : State) (q : MPart) => t.endPart q.tag .internalDnr q.first) s
  let s2 : State := ((s1.teth.admin.filter fun a => a.dst == k && a.answer.isNone)).foldl (fun (t : State) (a : AdminOut) => t.adminAnswer a.tag 0 0x06) s1
  let s3 : State := match s2.vault.fan with
    | some x => ((x.waiting.filter fun w => w.2 == k)).foldl (fun (t : State) (w : BitVec 16 × Fin 4) => t.fanAnswer w.1 (asc "err absent")) s2
    | none => s2
  if s3.front.cachedTo.contains k then { s3 with front := { s3.front with cacheLost := true } } else s3

/-- The master declares devices absent, and trouble bit 43 is set. -/
def State.declare (s : State) (l : List (Fin 4)) : State :=
  if l.isEmpty then s
  else
    let mask : BitVec 4 := BitVec.ofNat 4 (sumNat (l.map fun k => 2 ^ k.val))
    let s1 : State := { s with teth := { s.teth with
      absent := s.teth.absent ||| mask
      present := s.teth.present &&& ~~~mask
      holding := s.teth.holding.filter fun x => !l.contains x.1
      readyStandby := s.teth.readyStandby.filter fun x => !l.contains x } }
    let s2 : State := if l.contains 1 then { s1 with teth := s1.teth.port .td fun q => { q with st := .absent } } else s1
    (l.foldl State.loseDev s2).raise 43

/-- SUBORDINATE_SILENT (R409, R410): no valid frame for 100 ms while no hold is in force. -/
def execSubordinateSilent (k : Fin 4) (s : State) : Host.Outcome State Fault Refusal :=
  .next (if s.isMaster && decide (k.val ≠ 0) && s.teth.present.getLsbD k.val && !(s.heldDev k) then s.declare (s.beyond k.val) else s)

/-- HOLD_WINDOW_EXPIRY (R409): the hold window of a device has ended without its ready. -/
def execHoldWindowExpiry (k : Fin 4) (s : State) : Host.Outcome State Fault Refusal :=
  .next (if s.isMaster && (s.teth.holding.any fun x => x.1 == k) then s.declare (s.beyond k.val) else s)

/-- CHAIN_JOIN_TIMEOUT (R411): the devices of the chain record still missing at mount are declared absent. -/
def execChainJoinTimeout (s : State) : Host.Outcome State Fault Refusal :=
  .next (if s.isMaster && !s.map.mounted then
      s.declare (([1, 2, 3] : List (Fin 4)).filter fun k => decide (k.val < (s.bst.chain.map (·.n)).getD 1) && !s.teth.present.getLsbD k.val &&
        !s.teth.absent.getLsbD k.val)
    else s)

/-- WAKE_BEACON (R407): a beacon on TU makes a subordinate begin its exit from PS4 and repeat the beacon on TD. -/
def execWakeBeacon (s : State) : Host.Outcome State Fault Refusal :=
  .next (if !s.isMaster && decide (s.sys.ps = 4) && !s.inReset then s.beginWake else s)

end Sys2Proof.Machine
end

