-- ==== Sys2Proof/Machine/RegView.lean ====
section
/-! DEFINITION. What each control register shows when it is read (R9 to R11, R555): most show what they hold; those that report a block's state
are computed from it.  A register of a domain released by force before its clock was good is undefined (R550). -/

namespace Sys2Proof

/-- The clock domain of a register block (R32). -/
def RBlk.clk : RBlk → Clk
  | .sys => .aclk
  | .front | .teth => .hclk
  | .cdc => .xclk
  | .gal _ => .gclk
  | .map | .assay | .vault | .dma | .mpu | .kpr | .bst | .con => .cclk

/-- The power domain of a register block, by its bit in SYS_PWR.dom (R33, R563). -/
def RBlk.dom : RBlk → Nat
  | .sys => 0
  | .front => 3
  | .teth => 7
  | .cdc => 4
  | .gal g => if g.val < 4 then 5 else 6
  | .map | .assay | .vault | .dma | .mpu | .kpr | .bst | .con => 2

end Sys2Proof

namespace Sys2Proof.Machine

/-- A bit per true entry. -/
def bits (l : List Bool) : Nat := sumNat (l.zipIdx.map fun x => if x.1 then 2 ^ x.2 else 0)

/-- The number of a context state (R205), of an outcome (R206), of a port state (R414), of a channel state (R477). -/
def CtxState.num : CtxState → Nat
  | .idle => 0 | .bus => 1 | .polling => 2 | .waiting => 3 | .suspended => 4
def Outc.num : Outc → Nat
  | .ok => 0 | .fail => 1 | .order => 2 | .timeout => 3 | .quiesced => 4 | .suspect => 5
def PortState.num : PortState → Nat
  | .off => 0 | .training => 1 | .up => 2 | .hold => 3 | .down => 4 | .mismatch => 5 | .absent => 6
def DmaSt.num : DmaSt → Nat
  | .idle => 0 | .running => 1 | .done => 2 | .failed => 3 | .stopping => 4

/-! ## Blocks that report their state -/

/-- A gallery's training or retraining runs or is pending: one that has a profile and is not yet in service trains (R166). -/
def State.trainingNow (s : State) (g : Fin 8) : Bool :=
  let x := s.gals.get g
  x.retrain != .none || (x.profile.isSome && !x.inService && s.settings.galEnable.get g)

/-- The op at GAL_OPS_ADDR (R208): a list that the manual binds by what it does, and does not tabulate, shows free words (log entry 53). -/
def State.opShown (s : State) (g : Fin 8) : Word :=
  let x := s.gals.get g
  let slot := s.rf (.galOpsAddr g) 6 6
  let index := s.rf (.galOpsAddr g) 0 6
  match x.slots.getD slot none, x.profile with
  | some sl, some p =>
    if sl.ops.length ≤ index then 0
    else if tabulated slot || p.lists.any fun e => e.1 == slot then sl.ops.getD index 0
    else stdWord slot index p.qlc
  | _, _ => 0

/-- GAL registers that show the gallery's tables (R166, R172, R205, R206, R208, R209). -/
def State.galView (s : State) (g : Fin 8) (r : Reg) : Option Nat :=
  let x := s.gals.get g
  let c := (Store.find x.ctxs (s.rf (.galSeqSel g) 0 6)).getD {}
  match r with
  | .galStat _ => some (setFld (setFld (s.reg r) 4 1 (b2n x.wpN)) 1 1 (b2n (s.trainingNow g))).toNat
  | .galWptData _ =>
    let e := (x.wpt.getD (s.rf (.galWptSel g) 0 4) []).getD (s.rf (.galWptSel g) 4 3) {}
    some (e.block % 65536 + 65536 * (e.next % 4096) + 2 ^ 28 * e.st.num)
  | .galSeqCtx _ => some (c.slot % 64 + 64 * (c.pc % 64) + 4096 * c.s.toNat + 2 ^ 20 * c.st.num + 2 ^ 23 * b2n c.ret.isSome)
  | .galSeqLast _ => some (c.lastCode.toNat + 256 * c.lastOut.num + 65536 * c.lastS.toNat + 2 ^ 24 * (c.lastSlot % 64))
  | .galOpsData _ => some (s.opShown g).toNat
  | .galProfId _ => some ((x.profile.map fun p => p.crc.toNat).getD 0)
  | _ => none

/-- The programs held for want of an accumulator (R232, R254). -/
def State.accHeld (s : State) : Nat :=
  sumNat ((fins 8).map fun g => (s.gals.get g).ops.countP fun o =>
    o.kind == .program && !o.running && !s.accRoom ((chamberOf g o.ch).val * 65536 + o.block) o.page o.pages)

/-- CDC registers (R241, R253, R254): stripe groups show from mount on.  Which XTS lane holds a codeword the manual does not say: a free value
(log entry 30). -/
def State.cdcView (s : State) (r : Reg) : Option Nat :=
  let m := s.map
  match r with
  | .cdcLaneStat =>
    let hard := bits ((fins 8).map s.laneBusy)
    let soft := bits ((List.range 2).map fun n => s.cdc.rds.any fun x => match x.softLane with | some k => k.val == n | none => false)
    let xts := if s.cdc.rds.isEmpty && s.cdc.enc.isEmpty then 0 else Config.freeNat s.free % 16
    some (hard + 256 * soft + 1024 * xts + 16384 * (s.rf .cdcLaneStat 14 16))
  | .cdcXtsStat => some (s.rf .cdcXtsStat 0 4 + 256 * bits (s.cdc.keys.toList.map (·.isSome)))
  | .cdcStripe => some (if m.mounted then min 128 s.accumulators + 256 * min 16 (m.groups.countP (·.isOpen)) +
      65536 * min 128 (sumNat (m.groups.map fun g => g.closing.length)) + 2 ^ 24 * min 255 s.accHeld else 0)
  | _ => none

/-- MAP and ASSAY registers (R276 to R278, R311 to R323, R351 to R354, R385). -/
def State.mapView (s : State) (r : Reg) : Option Nat :=
  let m := s.map
  match r with
  | .mapCtl => some (s.rf .mapCtl 0 4 + 256 * b2n s.bgPaused + 512 * b2n (m.mounted && s.urgent) +
      1024 * b2n (m.mounted && decide (s.sumpUsed ≥ m.sumpSize)))
  | .mapSeqLo => some (if m.mounted then m.nextSeq % 2 ^ 32 else 0)
  | .mapSeqHi => some (if m.mounted then m.nextSeq / 2 ^ 32 % 65536 else 0)
  | .mapBlocks => some (if m.mounted then s.freeBlocks % 2 ^ 20 else 0)
  | .mapSumpSize => some (m.sumpSize / 2 ^ 20 % 2 ^ 32)
  | .mapSumpUsed => some (if m.mounted then s.sumpUsed / 2 ^ 20 % 2 ^ 32 else 0)
  | .mapSdeal => some (match m.secure with
      | none => 0
      | some x => min 3 x.phase + 4 * b2n x.resumed + 65536 * min 65535 (x.candidates.countP fun k => !(decide (x.phase = 3) && s.hitGone k)))
  | .mapHealth => some (if m.mounted then m.health + 4 * b2n (decide (m.floorBlocks < m.floorNeed)) + 256 * min 100 s.sparePct else 0)
  | .mapSpareFirst => some (if m.mounted then m.spareFirst % 2 ^ 20 + 2 ^ 20 * s.sys.fuses.spare else 0)
  | .mapScan => some ((s.reg .mapScan).toNat + (if s.rf .mapScan 0 3 = 0 then 0 else 256 * (Config.freeNat s.free % 101)))
  | .mapSpare => some (m.spare % 2 ^ 20)
  | .mapRefresh => some (min 16384 m.refQ.length + 32768 * b2n s.backlog + 65536 * (if m.mounted then min 8192 m.patrolQ.length else 0))
  | .mapCkpt => some (m.ckpts % 65536 + 65536 * min 65535 m.ckptAge)
  | .govCfg => if s.inReset then none else some (s.rf .govCfg 0 8 + 256 * (BitVec.ofInt 8 s.govT1).toNat + 65536 * (BitVec.ofInt 8 s.govT2).toNat)
  | .assayOfsBase => some (if s.ofsGroups = 0 then 0 else 0x20100000)
  | .assayOfsGeom => some (s.ofsGroups % 2048 + 2048 * b2n (((s.gals.toList.findSome? fun g => g.profile).map (·.qlc)).getD false))
  | _ => none

/-- TETH registers (R414, R416, R417): TETH_CHAIN shows the chain record from mount on. -/
def State.tethView (s : State) (r : Reg) : Option Nat :=
  let t := s.teth
  match r with
  | .tethTuStat => some (s.reg r ||| BitVec.ofNat 32 t.tu.st.num).toNat
  | .tethTdStat => some (s.reg r ||| BitVec.ofNat 32 t.td.st.num).toNat
  | .tethChain => some ((t.chain.map fun c => c.n + 65536 * c.stripeLog2 + 16 * t.present.toNat + 256 * t.absent.toNat).getD 0)
  | .tethChainId => some ((t.chain.map fun c => c.id.toNat).getD 0)
  | _ => none

/-- The sensors' conditions now and the sensors armed (R532, R541); nothing while a level 0 reset holds PD_AON. -/
def State.sensesNow (s : State) : Nat := s.vault.now.toNat % 16 + 16 * b2n (decide (s.vault.fails ≥ 10))
def State.sensesArmed (s : State) : Nat :=
  let on := b2n s.armedShown
  on + 2 * on + 4 + 8 * on + 16 * b2n s.vault.password.isSome

/-- DMA, MPU, KPR, BST and VAULT registers: a stop of a channel reads 1 until its boundary (R10), and mask ROM sets BST_TWIN at a boot (R435, R464, R477 to R479, R494, R498, R499, R515, R516, R540 to R543). -/
def State.ctlView (s : State) (r : Reg) : Option Nat :=
  let v := s.vault
  match r with
  | .kprStat => some (min 8 s.kpr.merge.length + 16 * b2n s.kpr.rmwBusy.isSome + 65536 * s.rf .kprStat 16 16)
  | .dmaStat => some ((s.reg .dmaStat).toNat / 256 * 256 + bits (s.dma.toList.map fun d => d.st == .running || d.st == .stopping))
  | .dmaChCtl n => some (setFld (s.reg r) 1 1 (b2n ((s.dma.get n).st == .stopping))).toNat
  | .dmaChStat n => let d := s.dma.get n; some (d.st.num + 16 * d.err + 256 * clsNum d.cls + 65536 * min 65535 d.hops)
  | .dmaChDone n => some ((s.dma.get n).bytes % 2 ^ 32)
  | .dmaChCur n => some (s.dma.get n).cur.toNat
  | .mpuCtl => some ((s.reg .mpuCtl ||| (if s.mpu.shadow ≠ s.mpu.active then 8 else 0)).toNat)
  | .mpuRgnBase i => some (((if s.rf .mpuCtl 2 1 = 1 then s.mpu.active else s.mpu.shadow).get i).base).toNat
  | .mpuRgnAttr i => some (((if s.rf .mpuCtl 2 1 = 1 then s.mpu.active else s.mpu.shadow).get i).attr).toNat
  | .bstStat => some (b2n s.bst.busy + 2 * b2n s.bst.suspended.isSome + 4 * b2n s.bst.error + 8 * b2n s.bst.statusMode +
      16 * (match s.bst.op with | .none => 0 | .program _ _ => 1 | .erase _ => 2 | .swapCommit _ => 3))
  | .bstTwin => if !s.sys.fw && !s.sys.rom then some 0 else some (s.bst.active.num + (match s.bst.pendingSwap with | none => 0 | some x => 2 + 4 * x.twin.num + 8 * b2n x.l3) +
      16 * b2n s.bst.fallback + 65536 * (1024 - s.bst.swapSlot))
  | .vaultStat => some (v.lock.num + 4 * b2n v.zeroizePending + 8 * b2n v.lost + 16 * min 9 v.fails + 65536 * min 65535 v.zeroizes)
  | .vaultSense => some (if s.sys.released.getLsbD 0 then s.sensesNow + 256 * s.sensesArmed else 0)
  | .vaultFuse => some (s.sys.fuses.alarm.toNat + 1024 * b2n s.sys.fuses.lanternOff)
  | .vaultLast => some v.last.toNat
  | _ => none

/-- Whole hours until the next patrol wake falls due (R574), by the interval that SYS_PATROL holds (R573). -/
def State.patrolHours (s : State) : Nat := min 4095 ((s.sys.lastPatrol + 3600 * s.rf .sysPatrol 0 8 - s.sys.life) / 3600)

/-- SYS registers; the patrol's are alive from ACLK's release on (R562, R563, R569, R572, R574, R581, R582, R585). -/
def State.sysView (s : State) (r : Reg) : Option Nat :=
  let y := s.sys
  match r with
  | .sysState => some y.st.num
  | .sysPwr => some (s.domsNow.toNat + 256 * y.ps.val + 2048 * s.rf .sysPwr 11 1)
  | .sysRstmapLo => some (y.fuses.rstmap.toNat % 2 ^ 30)
  | .sysRstmapHi => some (y.fuses.rstmap.toNat / 2 ^ 30)
  | .sysLifeLo => some (y.life % 2 ^ 32)
  | .sysLifeHi => some (y.life / 2 ^ 32 % 2 ^ 32)
  | .sysPatrolPos => some (if y.released.getLsbD 0 then s.map.patrolPos % 2 ^ 20 + 2 ^ 20 * s.patrolHours else 0)
  | .trbLo => some (y.trouble.toNat % 2 ^ 32)
  | .trbHi => some (y.trouble.toNat / 2 ^ 32)
  | .trbTime => some (Store.get (fun _ => 0) y.trbTime (s.rf .trbTimeSel 0 6)).toNat
  | _ => none

/-- What a register reports of its block's state, none where it shows what it holds. -/
def State.regView (s : State) (r : Reg) : Option Nat :=
  match r.blk with
  | .sys => s.sysView r
  | .teth => s.tethView r
  | .cdc => s.cdcView r
  | .map | .assay => s.mapView r
  | .gal g => s.galView g r
  | .dma | .mpu | .kpr | .bst | .vault => s.ctlView r
  | .front | .con => none

/-- A register as its block shows it. -/
def State.regShown (s : State) (r : Reg) : Word :=
  match s.regView r with
  | some n => BitVec.ofNat 32 n
  | none => s.reg r

/-- A block whose clock domain was released by force before its clock was good, until its next reset (R550). -/
def State.blkForced (s : State) (b : RBlk) : Bool := s.sys.forced.getLsbD b.clk.num

/-- Read a register. -/
def State.regRead (s : State) (r : Reg) : Word :=
  if s.blkForced r.blk then BitVec.ofNat 32 (Config.freeNat s.free) else s.regShown r

/-- The register block of a domain that is off answers with a bus error (R555). -/
def State.blkOn (s : State) (b : RBlk) : Bool := s.domsNow.getLsbD b.dom

/-- The register block of an address of the register space (R20, R22), none where it is unassigned. -/
def blkAt (a : Nat) : Option RBlk :=
  if a < 0x40000000 ∨ 0x80000000 ≤ a then none
  else match (a - 0x40000000) / 0x10000 with
    | 0 => some .sys | 1 => some .front | 2 => some .teth | 3 => some .cdc | 4 => some .map | 5 => some .assay
    | 6 => some .vault | 7 => some .dma | 8 => some .mpu | 9 => some .kpr | 10 => some .bst | 11 => some .con
    | n => if h : 16 ≤ n ∧ n < 24 then some (.gal ⟨n - 16, by omega⟩) else none

end Sys2Proof.Machine
end

