-- ==== Sys2Proof/Machine/SetNow.lean ====
section
/-! DEFINITION. A setting changed by a console line or through the register field that mirrors it (R125, R140, R604). -/

namespace Sys2Proof.Machine

/-- What a setting's change does at once, beside its new value (R140). -/
def State.setEffect (s : State) (x : Setting) : State :=
  match x with
  | .hostWcache => if s.settings.hostWcache then s
      else { s with front := { s.front with draining := s.front.draining || s.front.staging.any (·.cached) } }
  | .govIsnsGain => if s.settings.govIsnsGain ≠ 0 then s
      else State.setReg { s with assay := { s.assay with isnsMa := 0, powAcc := s.assay.powAcc.map fun x => (x.1, 0) } } .assayPwr (s.reg .assayPwr &&& 0xFFFF)
  | .galEnable g => if s.settings.galEnable.get g then s.gal g fun y => { y with holdReset := false } else s.galRest g
  | _ => s

/-- Change a setting: its value, the register field that mirrors it, and what it does at once; a gallery's rate is written to GAL_CTL.mode and made
as a retraining (R140, R165). -/
def State.setNow (s : State) (x : Setting) (v : SetVal) : State :=
  let s1 : State := { s with settings := s.settings.put x v }
  let s2 : State := (s1.mirror x).setEffect x
  match x with
  | .galRate g => s2.rateChanged g (s.firmRate g)
  | _ => s2

/-- The setting a register field mirrors, and the value written to the field as its own (R604). -/
def mirrorOf (f : Mirror) (n : Nat) : Setting × SetVal :=
  match f with
  | .softEn => (.cdcSoft, .flag (n != 0))
  | .stripeWidth => (.cdcStripeWidth, .num n)
  | .gcLow => (.mapGcLow, .num n)
  | .searchEn => (.assaySearch, .flag (n != 0))
  | .idleMs => (.assayIdle, .num n)
  | .throttleC => (.govThrottleC, .num n)
  | .capMw => (.govCapMw, .num n)
  | .isnsGain => (.govIsnsGain, .num n)
  | .budgetMj => (.govStandbyMj, .num n)
  | .hopLimit => (.dmaHopLimit, .num n)
  | .scratchOnly => (.mpuScratchOnly, .flag (n != 0))
  | .intervalH => (.patrolInterval, .num n)
  | .wakeRefresh => (.patrolWakeRefresh, .flag (n != 0))
  | .galEnable g => (.galEnable g, .flag (n != 0))

/-- The register of a mirroring field, its lowest bit and its width. -/
def mirrorField : Mirror → Reg × Nat × Nat
  | .softEn => (.cdcCtl, 0, 1)
  | .stripeWidth => (.cdcCtl, 8, 5)
  | .gcLow => (.mapCtl, 0, 4)
  | .searchEn => (.assayCtl, 0, 1)
  | .idleMs => (.assayCtl, 16, 14)
  | .throttleC => (.govCfg, 0, 8)
  | .capMw => (.govCap, 0, 16)
  | .isnsGain => (.govCap, 16, 16)
  | .budgetMj => (.govStandby, 0, 17)
  | .hopLimit => (.dmaHop, 0, 16)
  | .scratchOnly => (.mpuCtl, 1, 1)
  | .intervalH => (.sysPatrol, 0, 8)
  | .wakeRefresh => (.sysPatrol, 8, 1)
  | .galEnable g => (.galCtl g, 0, 1)

/-- The mirroring fields of a register. -/
def mirrorsOf (r : Reg) : List Mirror :=
  match r with
  | .cdcCtl => [.softEn, .stripeWidth]
  | .mapCtl => [.gcLow]
  | .assayCtl => [.searchEn, .idleMs]
  | .govCfg => [.throttleC]
  | .govCap => [.capMw, .isnsGain]
  | .govStandby => [.budgetMj]
  | .dmaHop => [.hopLimit]
  | .mpuCtl => [.scratchOnly]
  | .sysPatrol => [.intervalH, .wakeRefresh]
  | .galCtl g => [.galEnable g]
  | _ => []

/-- Write a mirroring field: the setting changes with it, unless its range or its state condition forbids the value. -/
def State.mirrorWrite (s : State) (f : Mirror) (n : Nat) : State :=
  let (x, v) := mirrorOf f n
  if s.setInRange x v && s.setAllowed x v then s.setNow x v else s

end Sys2Proof.Machine
end

