-- ==== Sys2Proof/Machine/RegWrite.lean ====
section
/-! DEFINITION. What a write does to each control register (R10, R11): its access codes, and what its own rules add. -/

namespace Sys2Proof.Machine

/-! ## Conditions behind trouble bits (R577) -/

/-- The bits that follow a condition are set again while it holds. -/
def State.conditions (s : State) : State :=
  let s1 : State := s.raiseIf (s.map.mounted && decide (1 ≤ s.map.health)) 26
  let s2 : State := s1.raiseIf (s1.map.mounted && s1.map.health == 2) 27
  let s3 : State := s2.raiseIf (s2.map.mounted && s2.backlog) 28
  s3.raiseIf s3.brownWarning 50

/-- Clear trouble bits (R576): a reserved position is ignored, and a bit whose condition holds is set again. -/
def State.clearTrouble (s : State) (mask : BitVec 64) : State := (s.clearBits (mask &&& troubleValid)).conditions

/-! ## The protection regions (R485) -/

/-- A shadow that a commit accepts: not enabled, or of a size from 2^8 to 2^32 with a base that is a multiple of it. -/
def Region.commits (r : Region) : Bool :=
  fld r.attr 0 1 == 0 || (decide (8 ≤ fld r.attr 8 6 ∧ fld r.attr 8 6 ≤ 32) && r.base.toNat % 2 ^ fld r.attr 8 6 == 0)

/-- MPU_CTL.commit: every shadow becomes active together, or none and commit_err is set; commit_err says what the last commit did. -/
def State.mpuCommit (s : State) : State :=
  if s.mpu.shadow.toList.all Region.commits then
    State.setRf { s with mpu := { s.mpu with active := s.mpu.shadow } } .mpuCtl 4 1 0
  else s.setRf .mpuCtl 4 1 1

/-! ## Plain fields -/

/-- The bits of a register that mirror settings. -/
def mirrorMask (r : Reg) : Word :=
  (mirrorsOf r).foldl (fun m f => m ||| fldMask (mirrorField f).2.1 (mirrorField f).2.2) 0

/-- RW fields take the value, W1C fields clear where it has a 1; everything else is kept (R10, R11). -/
def plainWrite (r : Reg) (mask old v : Word) : Word := ((old &&& ~~~mask) ||| (v &&& mask)) &&& ~~~(v &&& r.w1c)

/-- The mirroring fields of a register, each written as its setting. -/
def State.mirrorFields (s : State) (r : Reg) (v : Word) : State :=
  (mirrorsOf r).foldl (fun (t : State) (f : Mirror) => t.mirrorWrite f (fld v (mirrorField f).2.1 (mirrorField f).2.2)) s

/-- A write with no behaviour beside its fields' access codes. -/
def State.plainReg (s : State) (r : Reg) (v : Word) : State :=
  (s.setReg r (plainWrite r (r.rw &&& ~~~(mirrorMask r)) (s.reg r) v)).mirrorFields r v

/-! ## Registers with behaviour of their own -/

/-- GAL_CTL (R165): a mode at or above the profile's mode count is ignored, and a target whose Read ID did not match is taken as clear. -/
def State.writeGalCtl (s : State) (g : Fin 8) (v : Word) : State :=
  let x := s.gals.get g
  let old := s.reg (.galCtl g)
  let mode := if fld v 16 4 < (x.profile.map (·.modes.length)).getD 0 then fld v 16 4 else fld old 16 4
  let ce := (fld v 8 8) &&& x.ceMatch.toNat
  let s1 : State := s.setReg (.galCtl g) (setFld (setFld old 8 8 ce) 16 4 mode)
  let s2 : State := s1.mirrorFields (.galCtl g) v
  if fld v 1 1 = 1 then s2.markRetrain g else s2

/-- SYS_RST_REQ (R570). -/
def State.writeRstReq (s : State) (cls : Cls) (v : Word) : State :=
  let s1 : State := s.plainReg .sysRstReq v
  if fld v 9 1 = 1 then s1.goReset cls (fld v 0 3) (fld v 4 5) else s1

/-- KPR_FLIP_LO, KPR_FLIP_HI and KPR_FLIP_CTL (R427): the mask does not change while it is armed; match and arm do. -/
def State.writeFlip (s : State) (r : Reg) (v : Word) : State :=
  let armed := s.rf .kprFlipCtl 8 1 == 1
  match r with
  | .kprFlipCtl =>
    let chk := if armed then s.rf .kprFlipCtl 0 8 else fld v 0 8
    s.setReg r (BitVec.ofNat 32 (chk + 256 * (if armed || fld v 8 1 == 1 then 1 else 0) + 512 * fld v 9 1))
  | _ => if armed then s else s.setReg r v

/-- TETH_CTL (R413): the enables, and a retrain of each port asked for. -/
def State.writeTethCtl (s : State) (v : Word) : State :=
  let s1 : State := s.plainReg .tethCtl v
  let s2 : State := if fld v 2 1 = 1 ∧ s1.teth.tu.st ≠ .off then s1.retrain .tu else s1
  if fld v 3 1 = 1 ∧ s2.teth.td.st ≠ .off then s2.retrain .td else s2

/-- MPU_CTL (R494): its fields, then the commit. -/
def State.writeMpuCtl (s : State) (v : Word) : State :=
  let s1 : State := s.plainReg .mpuCtl v
  if fld v 0 1 = 1 then s1.mpuCommit else s1

/-- BST_CM_CMD (R519): a write that asks for a program and an erase at once is refused. -/
def State.writeCmCmd (s : State) (v : Word) : State :=
  let s1 : State := s.plainReg .bstCmCmd v
  if fld v 0 2 = 3 then s1.setRf .bstCmCmd 2 1 1
  else if fld v 0 1 = 1 then s1.cmRequest false
  else if fld v 1 1 = 1 then s1.cmRequest true
  else s1

/-- The shadow of a region register (R485, R498, R499). -/
def State.writeRegion (s : State) (i : Fin 16) (f : Region → Region) : State :=
  { s with mpu := { s.mpu with shadow := setAt s.mpu.shadow i (f (s.mpu.shadow.get i)) } }

/-! ## The channels of the DMA engine (R450, R458, R460) -/

/-- A channel runs or stops at its next boundary. -/
def State.dmaBusy (s : State) (n : Fin 8) : Bool := (s.dma.get n).st == .running || (s.dma.get n).st == .stopping

/-- Change one channel. -/
def State.dmaSet (s : State) (n : Fin 8) (f : DmaChan → DmaChan) : State := { s with dma := setAt s.dma n (f (s.dma.get n)) }

/-- CTL.start: the channel's registers are its first descriptor, its class is the write's, its hop limit DMA_HOP's; a start of a running
channel is ignored with trouble bit 34. -/
def State.dmaStart (s : State) (n : Fin 8) (cls : Cls) : State :=
  if s.dmaBusy n then s.raise 34
  else s.dmaSet n fun _ => { st := .running, cls, hopLimit := s.rf .dmaHop 0 16 }

/-- CTL.stop: a running channel ends at its next descriptor boundary. -/
def State.dmaStop (s : State) (n : Fin 8) : State :=
  if (s.dma.get n).st = .running then s.dmaSet n fun d => { d with st := .stopping } else s

/-- DMA_CHn_CTL (R476): the priority, then a start, then a stop. -/
def State.writeDmaCtl (s : State) (n : Fin 8) (cls : Cls) (v : Word) : State :=
  let s1 : State := s.plainReg (.dmaChCtl n) v
  let s2 : State := if fld v 0 1 = 1 then s1.dmaStart n cls else s1
  if fld v 1 1 = 1 then s2.dmaStop n else s2

/-- A descriptor register: while its channel runs the write is ignored. -/
def State.writeDma (s : State) (n : Fin 8) (r : Reg) (v : Word) : State := if s.dmaBusy n then s else s.plainReg r v

/-! ## Any register -/

/-- A write of a register by a class whose access the protection unit has allowed. GAL_WPT_LOAD is refused elsewhere to other classes than
the privileged. -/
def State.regWrite (s : State) (cls : Cls) (r : Reg) (v : Word) : State :=
  match r with
  | .sysCause => s.clearCause v
  | .sysRstReq => s.writeRstReq cls v
  | .sysTest => s.forceRelease (BitVec.ofNat 5 (fld v 0 5))
  | .trbLo => s.clearTrouble (BitVec.ofNat 64 v.toNat)
  | .trbHi => s.clearTrouble (BitVec.ofNat 64 (v.toNat * 2 ^ 32))
  | .galCtl g => s.writeGalCtl g v
  | .galWptLoad g => s.wptLoad g v
  | .kprFlipCtl | .kprFlipLo | .kprFlipHi => s.writeFlip r v
  | .tethCtl => s.writeTethCtl v
  | .mpuCtl => s.writeMpuCtl v
  | .mpuRgnBase i => s.writeRegion i fun x => { x with base := v &&& Reg.rw (.mpuRgnBase i) }
  | .mpuRgnAttr i => s.writeRegion i fun x => { x with attr := v &&& Reg.rw (.mpuRgnAttr i) }
  | .bstCmCmd => s.writeCmCmd v
  | .dmaChCtl n => s.writeDmaCtl n cls v
  | .dmaChSrc n | .dmaChDst n | .dmaChSlen n | .dmaChDlen n | .dmaChSstride n | .dmaChDstride n | .dmaChSlines n | .dmaChDlines n
  | .dmaChLink n | .dmaChCfg n | .dmaChPatlo n | .dmaChPathi n => s.writeDma n r v
  | _ => s.plainReg r v

end Sys2Proof.Machine
end

