-- ==== Sys2Proof/Machine/Access.lean ====
section
/-! DEFINITION. Accesses of the checked initiators to the control address space (R19 to R22, R419, R480, R481): the verdict, then the decode
of the address. -/

namespace Sys2Proof.Machine

/-- How an access ends: done; refused by the protection unit with the kind of R495; a bus error; an uncorrectable Keeper word. -/
inductive Acc where
  | done
  | refused (kind : Nat)
  | bus
  | ecc
  deriving DecidableEq, Repr

/-! ## The decode (R20, R21) -/

/-- What an address is. -/
inductive Place where
  | rom | store | keeper | reg (r : Option Reg) | hmb | none
  deriving DecidableEq, Repr

/-- Bytes of the HMB window the host has granted. -/
def State.hmbSize (s : State) : Nat := if s.rf .mapHmb 16 1 = 1 then s.rf .mapHmb 0 11 * 2 ^ 20 else 0

/-- What `w` bytes at an address reach: nothing where the access is not naturally aligned, is to no range, or is to a register and is not an
aligned word of a block that is on. -/
def State.place (s : State) (a w : Nat) : Place :=
  if a % w ≠ 0 then .none
  else if a < 0x40000 then .rom
  else if 0x10000000 ≤ a ∧ a < 0x10800000 then .store
  else if 0x20000000 ≤ a ∧ a < 0x21800000 then .keeper
  else if 0x40000000 ≤ a ∧ a < 0x80000000 then
    match blkAt a with
    | some b => if w = 4 ∧ s.blkOn b then .reg (Reg.ofAddr a) else .none
    | none => .none
  else if 0x80000000 ≤ a ∧ a < 0xC0000000 then (if a - 0x80000000 + w ≤ s.hmbSize then .hmb else .none)
  else .none

/-- A byte of the Host Memory Buffer, in the granted descriptors' order (R70): what the device last wrote there, else what the host left (log entry
4). -/
def State.hmbByte (s : State) (k : Nat) : Nat :=
  (((hmbHost s.front.hmbDescs k).bind fun a => Store.find s.front.hmbBytes a).getD (Config.freeByte (s.free + k))).toNat

/-- Read a register of the register space; one that shows a free value takes it. -/
def State.readReg (s : State) : Option Reg → Nat × State
  | some r => ((s.regRead r).toNat, if s.blkForced r.blk || r == .cdcLaneStat || r == .cdcStripe then s.takeFree else s)
  | none => (0, s)

/-- Read `w` bytes at an address that the protection unit allows. -/
def State.decodeRead (s : State) (a w : Nat) : Acc × Nat × State :=
  match s.place a w with
  | .rom => (.done, leNat ((List.range w).map fun k => (Config.romByte (a + k)).toNat), s)
  | .store => let (v, t) := s.bstRead (a - 0x10000000) w; (.done, v, t)
  | .keeper => let (d, bad, t) := s.kprRead ((a - 0x20000000) / 8) (laneMask a w); (if bad then .ecc else .done, laneValue a w d, t)
  | .reg r => let (v, t) := s.readReg r; (.done, v, t)
  | .hmb => (.done, leNat ((List.range w).map fun k => s.hmbByte (a - 0x80000000 + k)), s)
  | .none => (.bus, 0, s)

/-- Write bytes into the HMB window. -/
def State.hmbWrite (s : State) (k w v : Nat) : State :=
  let one (m : Store Byte) (j : Nat) : Store Byte :=
    match hmbHost s.front.hmbDescs (k + j) with
    | some a => Store.ins a (BitVec.ofNat 8 (v / 256 ^ j)) m
    | none => m
  { s with front := { s.front with hmbBytes := (List.range w).foldl one s.front.hmbBytes } }

/-- Write a Keeper word or a part of one (R423). -/
def State.keeperWrite (s : State) (a w v : Nat) : State :=
  if w = 8 then s.kprWrite ((a - 0x20000000) / 8) (BitVec.ofNat 64 v) else s.kprNarrow ((a - 0x20000000) / 8) (laneData a v) (laneMask a w)

/-- Only the privileged class writes GAL_WPT_LOAD and the boot store window, whatever a region grants (R173, R480, R502). -/
def Place.privilegedOnly : Place → Bool
  | .store => true
  | .reg (some (.galWptLoad _)) => true
  | _ => false

/-- Write `w` bytes at an address that the protection unit's regions allow. A single write into the boot store window is no command: the die
takes whole sequences (R507). -/
def State.decodeWrite (s : State) (cls : Cls) (init a w v : Nat) : Acc × State :=
  if (s.place a w).privilegedOnly ∧ cls ≠ .privileged then (.refused 1, s.refuseOnly cls init a)
  else match s.place a w with
    | .keeper => (.done, s.keeperWrite a w v)
    | .reg (some r) => (.done, s.regWrite cls r (BitVec.ofNat 32 v))
    | .reg none => (.done, s)
    | .store => (.done, s)
    | .hmb => (.done, s.hmbWrite (a - 0x80000000) w v)
    | .rom | .none => (.bus, s)

/-! ## The access (R480, R481) -/

/-- A refused access is recorded; of a privileged one firmware keeps an alarm log entry. -/
def State.refuse (s : State) (cls : Cls) (write : Bool) (kind region init a : Nat) : State :=
  let s1 : State := s.noteRefused cls write kind region init a
  if cls = .privileged then
    { s1 with bst := s1.bst.alarmAdd { source := 36, origin := s.index, action := 0, tether := false, lostBefore := false,
                                       secs := s.sys.life, detail := a } }
  else s1

/-- Read: a refused read returns zero. -/
def State.busRead (s : State) (cls : Cls) (init a w : Nat) : Acc × Nat × State :=
  match s.verdict cls false a with
  | some (k, r) => (.refused k, 0, s.refuse cls false k r init a)
  | none => s.decodeRead a w

/-- Write: a refused write does nothing else. -/
def State.busWrite (s : State) (cls : Cls) (init a w v : Nat) : Acc × State :=
  match s.verdict cls true a with
  | some (k, r) => (.refused k, s.refuse cls true k r init a)
  | none => s.decodeWrite cls init a w v

/-- The initiator of a write of a class outside the DMA engine: a control core or Lantern. -/
def coreOf : Cls → Nat
  | .debug => 9
  | _ => 0

/-- Whether an initiator of a class can issue now: not while a reset is held, nor in PS4; the control cores not in boundary-scan mode (R493). -/
def State.canIssue (s : State) (cls : Cls) : Bool := !s.inReset && decide (s.sys.ps.val < 4) && (cls == .debug || !s.lan.scan)

end Sys2Proof.Machine
end

