-- ==== Sys2Proof/Machine/Dma.lean ====
section
/-! DEFINITION. The DMA engine (chapter 15).  A descriptor runs as one step: its accesses in the order the lines and the funnel give them
(R451, R453, R455), each judged and decoded on its own, since a burst of at most 64 B never spans two regions (R449). -/

namespace Sys2Proof.Machine

/-! ## A descriptor (R450) -/

/-- The fields of a descriptor. -/
structure Desc where
  src : Nat
  slen : Nat
  sstride : Nat
  slines : Nat
  dst : Nat
  dlen : Nat
  dstride : Nat
  dlines : Nat
  link : Nat
  cfg : Nat
  pattern : Nat
  deriving DecidableEq, Repr

/-- The descriptor in a channel's registers. -/
def State.desc (s : State) (n : Fin 8) : Desc :=
  let r (x : Reg) : Nat := (s.reg x).toNat
  { src := r (.dmaChSrc n), slen := r (.dmaChSlen n), sstride := r (.dmaChSstride n), slines := r (.dmaChSlines n), dst := r (.dmaChDst n),
    dlen := r (.dmaChDlen n), dstride := r (.dmaChDstride n), dlines := r (.dmaChDlines n), link := r (.dmaChLink n), cfg := r (.dmaChCfg n),
    pattern := r (.dmaChPatlo n) + 2 ^ 32 * r (.dmaChPathi n) }

/-- The channel registers at offsets 0x00 to 0x2C, by word of the descriptor. -/
def descRegs (n : Fin 8) : List Reg :=
  [.dmaChSrc n, .dmaChSlen n, .dmaChSstride n, .dmaChSlines n, .dmaChDst n, .dmaChDlen n, .dmaChDstride n, .dmaChDlines n, .dmaChLink n,
   .dmaChCfg n, .dmaChPatlo n, .dmaChPathi n]

/-- The registers of a channel take the words of a descriptor. -/
def State.loadDesc (s : State) (n : Fin 8) (ws : List Nat) : State :=
  (List.zip (descRegs n) ws).foldl (fun (t : State) (p : Reg × Nat) => t.setReg p.1 (BitVec.ofNat 32 p.2 &&& p.1.rw)) s

def Desc.ovlOk (d : Desc) : Bool := bitOf d.cfg 0
def Desc.sg (d : Desc) : Bool := bitOf d.cfg 1
def Desc.fill (d : Desc) : Bool := bitOf d.cfg 2
def Desc.irqEach (d : Desc) : Bool := bitOf d.cfg 3

/-- A side of a transfer: address, length, stride and number of lines. -/
structure Side where
  addr : Nat
  len : Nat
  stride : Nat
  lines : Nat
  deriving DecidableEq, Repr

def Desc.source (d : Desc) : Side := ⟨d.src, d.slen, d.sstride, d.slines⟩
def Desc.dest (d : Desc) : Side := ⟨d.dst, d.dlen, d.dstride, d.dlines⟩

/-- The bytes of a side. -/
def Side.total (x : Side) : Nat := x.len * x.lines

/-- Where each line starts, modulo 2^32. -/
def Side.starts (x : Side) : List Nat := (List.range x.lines).map fun i => (x.addr + i * x.stride) % 2 ^ 32

/-- The lowest and highest byte a side touches, none where it touches none; a line that passes the top of the space touches both ends. -/
def Side.span (x : Side) : Option (Nat × Nat) :=
  if x.total = 0 then none
  else if x.starts.any fun a => decide (a + x.len > 2 ^ 32) then some (0, 2 ^ 32 - 1)
  else some (x.starts.foldl min (2 ^ 32 - 1), x.starts.foldl (fun m a => max m (a + x.len - 1)) 0)

/-- Source and destination spans meet (R454). -/
def spansMeet (x y : Side) : Bool :=
  match x.span, y.span with
  | some (a, b), some (c, d) => decide (a ≤ d ∧ c ≤ b)
  | _, _ => false

/-- A side reaches into mask ROM or the boot store window. -/
def Side.readOnly (x : Side) : Bool :=
  decide (x.len ≠ 0) && x.starts.any fun a => decide (a < 0x40000) || decide (a + x.len > 2 ^ 32) || decide (a < 0x10800000 ∧ 0x10000000 < a + x.len)

/-! ## Refusals (R452, R455) -/

/-- The overlap of one-dimensional sides is allowed by ovl_ok; one of more lines never. -/
def overlapRefused (x y : Side) (ovl : Bool) : Bool := spansMeet x y && !(ovl && decide (x.lines = 1 ∧ y.lines = 1))

/-- The error a descriptor is refused with before any access, in the order of R452. -/
def State.descRefused (s : State) (d : Desc) : Option Nat :=
  if !d.fill && !d.sg && decide (d.source.total ≠ d.dest.total) then some 6
  else if d.fill && d.sg then some 6
  else if d.link % 8 ≠ 0 then some 6
  else if !d.sg && d.dest.readOnly then some 6
  else if !d.fill && !d.sg && overlapRefused d.source d.dest d.ovlOk then some 5
  else if d.sg && s.isSt .service then some 7
  else none

/-! ## The accesses of a line (R453) -/

/-- The width of the access at an address with bytes left in its line: register space takes none wider than 4. -/
def widthAt (a left : Nat) : Nat :=
  if a % 8 = 0 ∧ 8 ≤ left ∧ !(decide (0x40000000 ≤ a ∧ a < 0x80000000)) then 8
  else if a % 4 = 0 ∧ 4 ≤ left then 4
  else if a % 2 = 0 ∧ 2 ≤ left then 2
  else 1

/-- The width of the access that ends at an address when a line is taken from its end. -/
def widthBelow (e left : Nat) : Nat :=
  if e % 8 = 0 ∧ 8 ≤ left ∧ !(decide (0x40000000 < e ∧ e ≤ 0x80000000)) then 8
  else if e % 4 = 0 ∧ 4 ≤ left then 4
  else if e % 2 = 0 ∧ 2 ≤ left then 2
  else 1

/-- Ascending accesses, address and width; the first argument bounds their number. -/
def cutUp : Nat → Nat → Nat → List (Nat × Nat)
  | 0, _, _ => []
  | f + 1, a, left => if left = 0 then [] else (a % 2 ^ 32, widthAt a left) :: cutUp f (a + widthAt a left) (left - widthAt a left)

/-- Descending accesses of the bytes below an end. -/
def cutDown : Nat → Nat → Nat → List (Nat × Nat)
  | 0, _, _ => []
  | f + 1, e, left => if left = 0 then [] else (e - widthBelow e left, widthBelow e left) :: cutDown f (e - widthBelow e left) (left - widthBelow e left)

/-- The accesses of a side, in line order. -/
def Side.accesses (x : Side) : List (Nat × Nat) := x.starts.flatMap fun a => cutUp x.len a x.len

/-! ## Running a transfer -/

/-- Why a transfer stopped: the access's outcome, its address, whether it was a fetch, whether a write. -/
structure Fail where
  acc : Acc
  addr : Nat
  fetch : Bool
  write : Bool
  deriving DecidableEq, Repr

/-- A transfer under way: the device, the funnel's bytes, whether it goes on. -/
structure Run where
  s : State
  buf : List Nat
  fail : Option Fail
  deriving DecidableEq, Repr

/-- Channel `n` writes bytes. -/
def Run.write (r : Run) (n : Fin 8) (a w : Nat) (bytes : List Nat) : Run :=
  let (o, t) := r.s.busWrite (r.s.dma.get n).cls (n.val + 1) a w (leNat bytes)
  if o = .done then { r with s := if t.dmaBusy n then t.dmaSet n fun (d : DmaChan) => { d with bytes := (d.bytes + w) % 2 ^ 32 } else t }
  else { r with s := t, fail := some ⟨o, a, false, true⟩ }

/-- Channel `n` reads bytes into its funnel, at the top of what is there or, descending, below it. -/
def Run.read (r : Run) (n : Fin 8) (down fetch : Bool) (a w : Nat) : Run :=
  let (o, v, t) := r.s.busRead (r.s.dma.get n).cls (n.val + 1) a w
  if o = .done then { r with s := t, buf := if down then leBytes w v ++ r.buf else r.buf ++ leBytes w v }
  else { r with s := t, fail := some ⟨o, a, fetch, false⟩ }

/-- The transfer goes on: nothing failed and nothing has stopped the channel. -/
def Run.on (r : Run) (n : Fin 8) : Bool := r.fail.isNone && r.s.dmaBusy n

/-- Copy: a write leaves as soon as the funnel holds its bytes; else the next source access is made. -/
def copyRun (n : Fin 8) (down : Bool) : Nat → List (Nat × Nat) → List (Nat × Nat) → Run → Run
  | 0, _, _, r => r
  | f + 1, src, dst, r =>
    if !r.on n then r else
    match dst with
    | [] => r
    | (a, w) :: ds =>
      if w ≤ r.buf.length then
        let k := r.buf.length - w
        let out := if down then r.buf.drop k else r.buf.take w
        let rest := if down then r.buf.take k else r.buf.drop w
        copyRun n down f src ds ({ r with buf := rest }.write n a w out)
      else match src with
        | [] => r
        | (b, v) :: ss => copyRun n down f ss dst (r.read n down false b v)

/-- One line of a fill: byte j receives byte j mod 8 of the pattern. -/
def fillLine (n : Fin 8) (pattern start : Nat) (r : Run) (l : List (Nat × Nat)) : Run :=
  l.foldl (fun (r : Run) (x : Nat × Nat) =>
    if r.on n then r.write n x.1 x.2 ((List.range x.2).map fun j => pattern / 256 ^ ((x.1 + 2 ^ 32 - start + j) % 8) % 256) else r) r

/-- Copy one side to another: descending where they are single lines that overlap and the destination lies above the source. -/
def copySides (n : Fin 8) (x y : Side) (r : Run) : Run :=
  if spansMeet x y ∧ y.addr > x.addr then
    let src := cutDown x.len (x.addr + x.len) x.len
    let dst := cutDown y.len (y.addr + y.len) y.len
    copyRun n true (src.length + dst.length) src dst { r with buf := [] }
  else copyRun n false (x.accesses.length + y.accesses.length) x.accesses y.accesses { r with buf := [] }

/-! ## Ends (R461 to R463) -/

/-- A channel ends with an error code: its err bit, or its done bit for code 0. -/
def State.dmaEnd (s : State) (n : Fin 8) (code addr : Nat) : State :=
  let s1 : State := s.dmaSet n fun (d : DmaChan) => { d with st := if code = 0 then .done else .failed, err := code, faultAddr := BitVec.ofNat 32 addr, atEnd := false }
  s1.setRf .dmaStat ((if code = 0 then 8 else 16) + n.val) 1 1

/-- The reply of the console line a channel ran for (R131, R462). -/
def dmaReply (code addr bytes kind : Nat) : Status :=
  let done : Pair := ("done", .nat bytes)
  let at_ : Pair := ("addr", .hex 4 addr)
  match code with
  | 0 => ok [done]
  | 1 => err .fault [at_, done]
  | 2 => if kind = 3 then err .locked [done] else err .fault [at_, done]
  | 3 => err .fault [at_, done, word "ecc"]
  | 4 => err .fault [word "loop"]
  | 5 => err .range [word "overlap"]
  | 6 => err .range []
  | 7 => err .state []
  | 8 => ok [("stopped", .flag true), done]
  | _ => err .fault [word "halted", done]

/-- The read of the last destination word that orders the reply behind the channel's writes: it drains the word's merge-buffer entry. -/
def State.fenceRead (s : State) (n : Fin 8) : State :=
  let d := (s.desc n).dest
  let a := ((d.starts.getLast?).getD 0 + d.len - 1) % 2 ^ 32
  if d.total ≠ 0 ∧ 0x20000000 ≤ a ∧ a < 0x21800000 then (s.kprRead ((a - 0x20000000) / 8)).2.2 else s

/-- The line that runs on a channel, if one does, replies. -/
def State.dmaLine (s : State) (n : Fin 8) : State :=
  let d := s.dma.get n
  let s1 : State := match s.con.running with
    | some ⟨_, .dma m _, _⟩ => if m = n ∧ d.err = 0 then s.fenceRead n else s
    | _ => s
  s1.finishJob (fun j => match j with | .dma m _ => m == n | _ => false) fun _ => ([], dmaReply d.err d.faultAddr.toNat d.bytes (s.rf .mpuFault 4 3))

/-- A channel ends and its console line replies. -/
def State.dmaFinish (s : State) (n : Fin 8) (code addr : Nat) : State := (s.dmaEnd n code addr).dmaLine n

/-- A bus error (R463): the fault is recorded, trouble bit 32, and every other running channel is halted. -/
def State.dmaBusError (s : State) (n : Fin 8) (addr : Nat) (fetch write timeout : Bool) : State :=
  let s1 : State := (s.setReg .dmaBuserr (BitVec.ofNat 32 (1 + 2 * n.val + 16 * b2n fetch + 32 * b2n write + 64 * b2n timeout))).setReg
    .dmaBuserrAddr (BitVec.ofNat 32 addr)
  let s2 : State := (s1.raise 32).dmaFinish n 1 addr
  (fins 8).foldl (fun (t : State) (m : Fin 8) => if m ≠ n ∧ t.dmaBusy m then t.dmaFinish m 9 0 else t) s2

/-- A channel ends on a failed access. -/
def State.dmaFail (s : State) (n : Fin 8) (f : Fail) : State :=
  match f.acc with
  | .done => s
  | .bus => s.dmaBusError n f.addr f.fetch f.write false
  | .refused _ => s.dmaFinish n 2 f.addr
  | .ecc => s.dmaFinish n 3 f.addr

/-- A refused descriptor or element: trouble bit 34. -/
def State.dmaRefuse (s : State) (n : Fin 8) (code : Nat) : State := (s.raise 34).dmaFinish n code 0

/-! ## Scatter-gather (R456, R457) -/

/-- One element: its fetch, its checks, its transfer. An uncopied element leaves the code it ends the channel with. -/
def sgElement (n : Fin 8) (ovl : Bool) (a : Nat) (r : Run) : Option Nat × Run :=
  let r1 := (({ r with buf := [] } : Run).read n false true (a % 2 ^ 32) 8)
  let r2 := if r1.on n then r1.read n false true ((a + 8) % 2 ^ 32) 8 else r1
  if !r2.on n then (none, r2)
  else
    let x : Side := ⟨leNat (r2.buf.take 4), leNat ((r2.buf.drop 8).take 3), 0, 1⟩
    let y : Side := ⟨leNat ((r2.buf.drop 4).take 4), x.len, 0, 1⟩
    if y.readOnly then (some 6, r2)
    else if overlapRefused x y ovl then (some 5, r2)
    else (none, copySides n x y r2)

/-- The elements of a list in order. -/
def sgRun (n : Fin 8) (ovl : Bool) : Nat → Nat → Run → Option Nat × Run
  | 0, _, r => (none, r)
  | k + 1, a, r =>
    if !r.on n then (none, r)
    else match sgElement n ovl a r with
      | (some c, r1) => (some c, r1)
      | (none, r1) => sgRun n ovl k (a + 16) r1

/-! ## Running (R450, R458, R460) -/

/-- The accesses of a descriptor that was not refused. -/
def State.transfer (s : State) (n : Fin 8) (d : Desc) : Option Nat × Run :=
  let r : Run := ⟨s, [], none⟩
  if d.sg then sgRun n d.ovlOk d.slines d.src r
  else if d.fill then (none, d.dest.starts.foldl (fun (r : Run) (a : Nat) => fillLine n d.pattern a r (cutUp d.dlen a d.dlen)) r)
  else (none, copySides n d.source d.dest r)

/-- A descriptor has run: it counts, irq_each sets the done bit, and the channel stands at its boundary; one that moves nothing and has no
successor completes at once. -/
def State.descEnd (s : State) (n : Fin 8) (d : Desc) : State :=
  if !s.dmaBusy n then s
  else
    let s1 : State := s.dmaSet n fun (c : DmaChan) => { c with hops := c.hops + 1, atEnd := true }
    let s2 : State := if d.irqEach then s1.setRf .dmaStat (8 + n.val) 1 1 else s1
    if d.link = 0 ∧ d.dest.total = 0 ∧ d.sg = false ∧ (s2.dma.get n).st = .running then s2.dmaFinish n 0 0 else s2

/-- Run the descriptor in a channel's registers. -/
def State.runDesc (s : State) (n : Fin 8) : State :=
  let d := s.desc n
  match s.descRefused d with
  | some c => s.dmaRefuse n c
  | none =>
    match s.transfer n d with
    | (some c, r) => r.s.dmaRefuse n c
    | (none, r) =>
      match r.fail with
      | some f => r.s.dmaFail n f
      | none => r.s.descEnd n d

/-- A channel whose first descriptor is loaded and has not run. -/
def State.dmaLoaded (s : State) (n : Fin 8) : Bool := s.dmaBusy n && !(s.dma.get n).atEnd && !s.lan.scan && !s.inReset

/-- Channels started by the access just made run their first descriptors, lowest first. -/
def State.dmaKick (s : State) : State := (fins 8).foldl (fun (t : State) (n : Fin 8) => if t.dmaLoaded n then t.runDesc n else t) s

/-- Fetch the 48 B at LINK as six accesses. -/
def fetchRun (n : Fin 8) (a : Nat) (r : Run) : Run :=
  (List.range 6).foldl (fun (r : Run) (k : Nat) => if r.on n then r.read n false true ((a + 8 * k) % 2 ^ 32) 8 else r) r

/-- The words of 48 bytes. -/
def words48 (b : List Nat) : List Nat := (List.range 12).map fun k => leNat ((b.drop (4 * k)).take 4)

/-- The next descriptor of a chain: stopped, looped, or fetched and run. -/
def State.nextDesc (s : State) (n : Fin 8) : State :=
  let c := s.dma.get n
  let link := (s.desc n).link
  if c.st = .stopping then s.dmaFinish n 8 0
  else if link = 0 then s
  else if c.hops ≥ c.hopLimit then (s.raise 33).dmaFinish n 4 0
  else
    let r := fetchRun n link ⟨s, [], none⟩
    match r.fail with
    | some f => r.s.dmaFail n f
    | none =>
      let s1 : State := (r.s.loadDesc n (words48 r.buf)).dmaSet n fun (d : DmaChan) => { d with cur := BitVec.ofNat 32 link, atEnd := false }
      s1.runDesc n

/-- A write that a control core or Lantern issues, and the channels it starts. -/
def State.issue (s : State) (cls : Cls) (a w v : Nat) : State :=
  if s.canIssue cls then (s.busWrite cls (coreOf cls) a w v).2.dmaKick else s

/-! ## The rows -/

/-- DMA_START (R449, R450, R476): a write of CTL with start set. -/
def execDmaStart (n : Fin 8) (cls : Cls) (pri : BitVec 2) (s : State) : Host.Outcome State Fault Refusal :=
  .next (s.issue cls (Reg.dmaChCtl n).addr 4 (1 + 4 * pri.toNat))

/-- DMA_STOP (R460, R476): a write of CTL with stop set, from any class. -/
def execDmaStop (n : Fin 8) (s : State) : Host.Outcome State Fault Refusal := .next (s.dmaStop n)

/-- DESCRIPTOR_FETCH (R450, R458): a channel that stands at a boundary goes on; one started by another channel runs its first descriptor. -/
def execDescriptorFetch (n : Fin 8) (s : State) : Host.Outcome State Fault Refusal :=
  .next (if !s.dmaBusy n || s.lan.scan || s.inReset then s
    else if (s.dma.get n).atEnd then s.nextDesc n else s.runDesc n)

/-- DMA_FETCH_TIMEOUT (R459): an access of a running channel without response in 64 µs is a bus error. -/
def execDmaFetchTimeout (n : Fin 8) (addr : Word) (fetch write : Bool) (s : State) : Host.Outcome State Fault Refusal :=
  .next (if s.dmaBusy n ∧ !s.inReset then s.dmaBusError n addr.toNat fetch write true else s)

/-- DMA_COMPLETE (R460, R461): the last write of the chain has left the engine. -/
def execDmaComplete (n : Fin 8) (s : State) : Host.Outcome State Fault Refusal :=
  .next (if s.dmaBusy n ∧ (s.dma.get n).atEnd ∧ !s.inReset then
      (if (s.dma.get n).st = .stopping then s.dmaFinish n 8 0
      else if (s.desc n).link = 0 then s.dmaFinish n 0 0 else s)
    else s)

end Sys2Proof.Machine
end

