-- ==== Sys2Proof/Machine/RegRows.lean ====
section
/-! DEFINITION. The rows that are one write to a register or a Keeper word. -/

namespace Sys2Proof.Machine

/-- REGISTER_WRITE (R9 to R11, R21): an aligned word write to any address. -/
def execRegisterWrite (cls : Cls) (addr value : Word) (s : State) : Host.Outcome State Fault Refusal :=
  .next (s.issue cls addr.toNat 4 value.toNat)

/-- MIRRORED_FIELD_WRITE (R604): the register written with its other RW fields as they are. -/
def execMirroredFieldWrite (cls : Cls) (f : Mirror) (value : Nat) (s : State) : Host.Outcome State Fault Refusal :=
  let (r, lo, n) := mirrorField f
  .next (s.issue cls r.addr 4 (setFld (s.reg r &&& r.rw) lo n value).toNat)

/-- TROUBLE_CLEAR_WRITE (R576, R577). -/
def execTroubleClearWrite (hi : Bool) (mask : Word) (s : State) : Host.Outcome State Fault Refusal :=
  .next (s.clearTrouble (BitVec.ofNat 64 (if hi then mask.toNat * 2 ^ 32 else mask.toNat)))

/-- NARROW_WRITE (R422, R423): one whose parity fails at the Keeper poisons its word. -/
def execNarrowWrite (cls : Cls) (addr : Word) (width : Width) (value : BitVec 64) (parityBad : Bool) (s : State) :
    Host.Outcome State Fault Refusal :=
  let a := addr.toNat
  let w := width.bytes
  .next (if parityBad && s.canIssue cls && (s.verdict cls true a).isNone && s.place a w == .keeper then
      s.kprParityWrite ((a - 0x20000000) / 8) (laneData a value.toNat) (laneMask a w)
    else s.issue cls a w (value.toNat % 256 ^ w))

/-- FLIP_MASK_ARM (R427): a write of KPR_FLIP_CTL. -/
def execFlipMaskArm (cls : Cls) (value : Word) (s : State) : Host.Outcome State Fault Refusal :=
  .next (s.issue cls (Reg.addr .kprFlipCtl) 4 value.toNat)

/-- MPU_COMMIT (R485, R486): a write of MPU_CTL with commit set and its other fields as they are. -/
def execMpuCommit (cls : Cls) (s : State) : Host.Outcome State Fault Refusal :=
  .next (s.issue cls (Reg.addr .mpuCtl) 4 ((s.reg .mpuCtl &&& Reg.rw .mpuCtl).toNat + 1))

end Sys2Proof.Machine
end

