-- ==== Sys2Proof/Machine/Lantern.lean ====
section
/-! DEFINITION. Lantern and boundary scan (R487 to R493).  A request that arrives whole gets one response; a request is answered while no
reset is held, outside PS4, and never once fuse LANTERN_OFF is blown. -/

namespace Sys2Proof.Machine

/-- Lantern answers. -/
def State.lanternOn (s : State) : Bool := !s.sys.fuses.lanternOff && decide (s.sys.ps.val < 4) && !s.inReset

/-- The status codes of R488, the bit sent first lowest. -/
def lanDone : Nat := 10
def lanRetry : Nat := 6
def lanRejected : Nat := 9

/-- One bit of the CRC-8 of R488, in the order sent. -/
def crc8In (c : Nat) (b : Bool) : Nat := if (decide (c ≥ 128)) != b then (c * 2 % 256) ^^^ 0x07 else c * 2 % 256

/-- A field of `n` bits, least significant first. -/
def fieldBits (n v : Nat) : List Bool := (List.range n).map fun i => v.testBit i

/-- A response as it is sent, but for a block read's: status, flags, the data field where there is one, and the check over them (R488). -/
def LanResp.wire (r : LanResp) : List Bool :=
  let b := fieldBits 4 r.status ++ [r.ecc, r.denied, r.busErr, false] ++ (r.data.take 1).flatMap (fieldBits 64)
  b ++ fieldBits 8 (b.foldl crc8In 0)

/-- A response goes out. -/
def State.respond (s : State) (r : LanResp) : State := { s with lan := { s.lan with resps := s.lan.resps ++ [r] } }

/-- A request: ignored while Lantern is off, rejected where its check fails, denied while user data is locked, else acted on. -/
def State.lanternReq (s : State) (checkOk : Bool) (act : State → State)
    (denied : State → State := fun t => t.respond { status := lanDone, denied := true }) : State :=
  if !s.lanternOn then s
  else if !checkOk then s.respond { status := lanRejected }
  else if s.locked then denied (s.raise 37)
  else act s

/-- The response to an access. -/
def accResp (status : Nat) (o : Acc) (data : List Nat) : LanResp :=
  match o with
  | .done => { status, data }
  | .ecc => { status, ecc := true, data }
  | .bus => { status, busErr := true, data }
  | .refused _ => { status, denied := true, data }

/-! ## Access (R488 to R490) -/

/-- One debug-class read; an address that is not aligned makes no access. -/
def State.lanternRead (s : State) (a w : Nat) : State :=
  if a % w ≠ 0 then s.respond (accResp lanDone .bus [0])
  else
    let (o, v, t) := s.busRead .debug 9 a w
    t.respond (accResp lanDone o [v])

/-- The `wr` line that a Lantern write is recorded as (R112). -/
def wrText (a w v : Nat) : List Byte :=
  asc "wr addr=" ++ hexText 4 a ++ (if w = 4 then [] else asc " w=" ++ natText w) ++ asc " d0=" ++ hexText w v

/-- The result byte of a write's entry (R114). -/
def accByte : Acc → Byte
  | .done => 0
  | .refused 3 => ErrCode.byte .locked
  | _ => ErrCode.byte .fault

/-- A write with its journal entry: none where the entry could not be programmed, and then nothing is written. -/
def State.recordedWrite (s : State) (a w v : Nat) (wr : State → Acc × State) : Option (Acc × State) × State :=
  match s.journalAdd 3 s.index (wrText a w v) with
  | (none, t) => (none, t)
  | (some j, t) =>
    let (o, u) := wr t
    let u1 : State := u.journalResult j (accByte o)
    (some (o, u1), u1)

/-- A write that is recorded and makes no access for the reason given, and its answer (R112). -/
def State.deniedWrite (s : State) (a w v : Nat) (why : Acc) (note : State → State) (answer : LanResp) : State :=
  match s.recordedWrite a w v fun t => (why, note t) with
  | (none, t) => t.respond { status := lanRetry }
  | (some _, t) => t.respond answer

/-- One debug-class write, recorded; with no entry it is answered retry.  At an address that is not aligned it makes no access. -/
def State.lanternWrite (s : State) (a w v : Nat) : State :=
  if a % w ≠ 0 then s.deniedWrite a w v .bus id (accResp lanDone .bus [])
  else match s.recordedWrite a w v fun t => t.busWrite .debug 9 a w v with
    | (none, t) => t.respond { status := lanRetry }
    | (some (o, _), t) => (t.respond (accResp lanDone o [])).dmaKick

/-- Words of a block read after its check: a bus error ends it. -/
def blkRead (k : Nat) (a : Nat) : Nat → State × List Nat × Bool × Bool → State × List Nat × Bool × Bool
  | 0, x => x
  | n + 1, (s, vs, ecc, stop) =>
    if stop then blkRead (k + 1) a n (s, vs ++ [0], ecc, true)
    else
      let (o, v, t) := s.decodeRead (a + 4 * k) 4
      match o with
      | .bus => blkRead (k + 1) a n (t, vs ++ [0], ecc, true)
      | _ => blkRead (k + 1) a n (t, vs ++ [v], ecc || o == .ecc, false)

/-- A block whose address lies in register space, or is not a multiple of 4, makes no access. -/
def blockBad (a : Nat) : Option LanResp :=
  if a % 4 ≠ 0 then some { status := lanDone, busErr := true }
  else if 0x40000000 ≤ a ∧ a < 0x80000000 then some { status := lanRejected, busErr := true }
  else none

/-- A block read: the protection unit judges its first word only. -/
def State.lanternBlkrd (s : State) (a n : Nat) : State :=
  match blockBad a with
  | some r => s.respond r
  | none =>
    match s.verdict .debug false a with
    | some (k, r) => (s.refuse .debug false k r 9 a).respond { status := lanDone, denied := true, data := List.replicate n 0 }
    | none =>
      let (t, vs, ecc, stop) := blkRead 0 a n (s, [], false, false)
      t.respond { status := lanDone, ecc, busErr := stop, data := vs }

/-- Words of a block write: how many were written and what ended it. -/
def blkWrite (a : Nat) : Nat → List Word → State → Nat × Acc × Bool × State
  | k, [], s => (k, .done, false, s)
  | k, v :: r, s =>
    match s.recordedWrite (a + 4 * k) 4 v.toNat fun t => t.decodeWrite .debug 9 (a + 4 * k) 4 v.toNat with
    | (none, t) => (k, .done, true, t)
    | (some (.done, _), t) => blkWrite a (k + 1) r t
    | (some (o, _), t) => (k, o, false, t)

/-- A block write that makes no access: its first word, which the protection unit judged, is the write recorded (R112, R490). -/
def State.deniedBlock (s : State) (a : Nat) (data : List Word) (why : Acc) (note : State → State) (answer : LanResp) : State :=
  match data with
  | v :: _ => s.deniedWrite a 4 v.toNat why note answer
  | [] => (note s).respond answer

/-- A block write up to the first group whose CRC fails. -/
def State.lanternBlkwr (s : State) (a : Nat) (data : List Word) (badGroup : Option Nat) : State :=
  let good := match badGroup with | some g => data.take (8 * g) | none => data
  match blockBad a with
  | some r => s.deniedBlock a good .bus id r
  | none =>
    match s.verdict .debug true a with
    | some (k, r) => s.deniedBlock a good (.refused k) (fun t => t.refuse .debug true k r 9 a) { status := lanDone, denied := true, data := [0] }
    | none =>
      let (n, o, retry, t) := blkWrite a 0 good s
      t.respond (accResp (if retry then lanRetry else if good.length < data.length ∧ o = .done then lanRejected else lanDone) o [n])

/-- LANTERN_STATUS (R489): answered while user data is locked too. -/
def execLanternStatus (s : State) : Host.Outcome State Fault Refusal :=
  .next (if s.lanternOn then
      s.respond { status := lanDone, data := [s.sys.st.num + 8 * b2n s.locked + 16 * s.sys.ps.val + 128 * b2n s.lan.scan +
        256 * (s.sys.trouble.toNat / 2 ^ 56)] }
    else s)

/-- LANTERN_READ (R488, R489, R491). -/
def execLanternRead (addr : Word) (width : Width) (checkOk : Bool) (s : State) : Host.Outcome State Fault Refusal :=
  .next (s.lanternReq checkOk (fun t => t.lanternRead addr.toNat width.bytes) fun t =>
    t.respond { status := lanDone, denied := true, data := [0] })

/-- LANTERN_WRITE (R112, R488, R489, R491). -/
def execLanternWrite (addr : Word) (width : Width) (value : BitVec 64) (checkOk : Bool) (s : State) : Host.Outcome State Fault Refusal :=
  .next (let v := value.toNat % 256 ^ width.bytes
    s.lanternReq checkOk (fun t => t.lanternWrite addr.toNat width.bytes v) fun t =>
      t.deniedWrite addr.toNat width.bytes v (.refused 3) id { status := lanDone, denied := true })

/-- LANTERN_BLKRD (R490). -/
def execLanternBlkrd (addr : Word) (words : BlkLen) (checkOk : Bool) (s : State) : Host.Outcome State Fault Refusal :=
  .next (s.lanternReq checkOk (fun t => t.lanternBlkrd addr.toNat words.words) fun t =>
    t.respond { status := lanDone, denied := true, data := List.replicate words.words 0 })

/-- LANTERN_BLKWR (R489, R490). -/
def execLanternBlkwr (addr : Word) (data : List Word) (badGroup : Option Nat) (checkOk : Bool) (s : State) : Host.Outcome State Fault Refusal :=
  .next (s.lanternReq checkOk (fun t => t.lanternBlkwr addr.toNat data badGroup) fun t =>
    t.deniedBlock addr.toNat data (.refused 3) id { status := lanDone, denied := true, data := [0] })

/-- LANTERN_RESET (R489, R546): a request from source 11 at its fused level. -/
def execLanternReset (checkOk : Bool) (s : State) : Host.Outcome State Fault Refusal :=
  .next (s.lanternReq checkOk fun t => (t.respond { status := lanDone }).requestFused 11)

/-! ## Boundary scan (R492, R493) -/

/-- SCAN is accepted only in test or recovery with CC.EN 0; the device is then in boundary-scan mode. -/
def State.scanReq (s : State) (act : State → State) : State :=
  s.lanternReq true fun t =>
    if (t.isSt .test ∨ t.isSt .recovery) ∧ !t.front.en then act { t with lan := { t.lan with scan := true } }
    else t.respond { status := lanRejected, denied := true }

/-- The cells of the eight WP_N signals: row E of R39 is the ninth signal of its gallery. -/
def wpCells : BitVec 205 := (List.range 8).foldl (fun m g => m ||| (1#205 <<< (25 * g + 8))) 0

/-- The cells drive what the chain holds, every WP_N low. -/
def Lantern.drive (l : Lantern) : Lantern := { l with cells := l.chain &&& ~~~wpCells, shifted := 0 }

/-- IDCODE: the device code in [27:12], the revision in [31:28]; the manual gives no [11:0] (log entry 4). -/
def State.idcode (s : State) : Nat := Config.freeNat s.free % 4096 + 0x8048 * 4096 + 2 ^ 28 * Config.revision.toNat

/-- SCAN_BYPASS (R492). -/
def execScanBypass (s : State) : Host.Outcome State Fault Refusal :=
  .next (s.scanReq fun t => State.respond { t with lan := { t.lan with instr := .bypass } } { status := lanDone })

/-- SCAN_IDCODE (R492). -/
def execScanIdcode (s : State) : Host.Outcome State Fault Refusal :=
  .next (s.scanReq fun t => (State.respond { t with lan := { t.lan with instr := .idcode } } { status := lanDone, data := [t.idcode] }).takeFree)

/-- SCAN_SAMPLE_PRELOAD (R492): the chain captures the pins. -/
def execScanSamplePreload (pins : BitVec 205) (s : State) : Host.Outcome State Fault Refusal :=
  .next (s.scanReq fun t =>
    State.respond { t with lan := { t.lan with instr := .sample, chain := pins, shifted := 0 } } { status := lanDone })

/-- SCAN_EXTEST (R492, R493). -/
def execScanExtest (s : State) : Host.Outcome State Fault Refusal :=
  .next (s.scanReq fun t => State.respond { t with lan := { t.lan with instr := .extest }.drive } { status := lanDone })

/-- 64 bits into the register the instruction selects and 64 out, lowest first; under EXTEST the cells take the chain once it has been
traversed. -/
def State.scanShift (s : State) (inp : Nat) : State :=
  match s.lan.instr with
  | .bypass => s.respond { status := lanDone, data := [inp * 2 % 2 ^ 64] }
  | .idcode => (s.respond { status := lanDone, data := [(s.idcode + inp * 2 ^ 32) % 2 ^ 64] }).takeFree
  | i =>
    let all := s.lan.chain.toNat + inp * 2 ^ 205
    let l : Lantern := { s.lan with chain := BitVec.ofNat 205 (all / 2 ^ 64), shifted := s.lan.shifted + 64 }
    State.respond { s with lan := if i = .extest ∧ l.shifted ≥ 205 then l.drive else l } { status := lanDone, data := [all % 2 ^ 64] }

/-- SCAN_SHIFT (R492). -/
def execScanShift (inp : BitVec 64) (s : State) : Host.Outcome State Fault Refusal := .next (s.scanReq fun t => t.scanShift inp.toNat)

end Sys2Proof.Machine
end

