-- ==== Sys2Proof/Machine/Lines.lean ====
section
/-! DEFINITION. Console lines as the interpreter takes them (R91 to R93, R102, R112 to R114): the text of a verb's line, its queue, its entry
in the change journal, and the printing helpers the verbs share. -/

namespace Sys2Proof

/-! ## The words of the language (R97, R100, R108, R118) -/

/-- A verb's word. -/
def Verb.word : Verb → String
  | .show => "show" | .get => "get" | .set => "set" | .clear => "clear" | .save => "save" | .load => "load" | .run => "run"
  | .stop => "stop" | .reset => "reset" | .sleep => "sleep" | .lock => "lock" | .unlock => "unlock" | .rd => "rd" | .wr => "wr"
  | .move => "move" | .fill => "fill" | .assay => "assay" | .log => "log" | .update => "update" | .help => "help"

/-- A unit's word (R135). -/
def UnitName.word : UnitName → String
  | .gal g => "g" ++ digit g
  | .hard h => "h" ++ digit h
  | .soft n => if n = 0 then "s0" else "s1"
  | .dma n => "d" ++ digit n
  | .tu => "tu" | .td => "td" | .map => "map" | .keeper => "keeper"

/-- A twin's word. -/
def Twin.word : Twin → String
  | .a => "a" | .b => "b"

end Sys2Proof

namespace Sys2Proof.Machine

/-! ## The text of a line -/

/-- A chamber in gallery.ce.lun form (R119). -/
def chamberText (c : Nat) : List Byte := natText (c / 16) ++ 46 :: natText (c % 16 / 2) ++ 46 :: natText (c % 2)

/-- ` key=value`. -/
def kv (k : String) (v : List Byte) : List Byte := 32 :: asc k ++ 61 :: v

/-- A key whose value may be absent. -/
def kvOpt (k : String) : Option (List Byte) → List Byte
  | some v => kv k v
  | none => []

/-- A value, quoted where it holds a space (R101). -/
def quoted (v : List Byte) : List Byte := if v.contains 32 then 34 :: v ++ [34] else v

/-- A setting's value as it is given to `set`. -/
def givenText : SetVal → List Byte
  | .num n => natText n
  | .flag b => if b then asc "on" else asc "off"
  | .profile => asc "profile"

/-- The object of `show` with its keys. -/
def showText : ShowObj → List Byte
  | .status => asc "status" | .health => asc "health"
  | .gallery g => asc "gallery" ++ kv "g" (natText g.val)
  | .chamber c => asc "chamber" ++ kv "c" (chamberText c.val)
  | .power => asc "power" | .chain => asc "chain"
  | .settings grp => asc "settings" ++ kvOpt "group" (grp.map fun g => asc g.word)
  | .profile => asc "profile" | .namespaces => asc "namespaces" | .version => asc "version"

/-- The objects of `get`. -/
def getText : GetWhat → List Byte
  | .names l => spaced (l.map fun x => asc x.name)
  | .strap => asc "strap" | .state => asc "state" | .cause => asc "cause" | .trouble => asc "trouble" | .lifetime => asc "lifetime"

/-- A verb's line in full, its tag apart. A command that is no line has none. -/
def lineBody (i : Instr) : List Byte :=
  let h (n : Nat) := hexText 4 n
  match i with
  | .show _ o => asc "show " ++ showText o
  | .get _ w => asc "get " ++ getText w
  | .set _ ps => asc "set" ++ ps.flatMap fun p => kv p.1.name (givenText p.2)
  | .clearTrouble _ b => asc "clear trouble" ++ kvOpt "bit" (b.map natText)
  | .clearCause _ b => asc "clear cause" ++ kvOpt "bit" (b.map natText)
  | .clearSuspect _ c _ => asc "clear suspect" ++ kv "c" (chamberText c.val)
  | .saveSettings _ => asc "save settings"
  | .saveProfile _ => asc "save profile"
  | .loadSettings _ => asc "load settings"
  | .loadProfile _ src len g => asc "load profile" ++ kv "src" (h src) ++ kv "len" (natText len) ++ kvOpt "gal" (g.map fun x => natText x.val)
  | .runTest _ => asc "run test"
  | .runOp _ c list block page buf len force => asc "run op" ++ kv "c" (chamberText c.val) ++ kv "list" (natText list) ++
      kv "block" (natText block) ++ kv "page" (natText page) ++ kv "buf" (h buf) ++ kv "len" (natText len) ++
      kv "force" (if force then asc "1" else asc "0")
  | .runTrain _ g => asc "run train" ++ kv "g" (natText g.val)
  | .runCheckpoint _ => asc "run checkpoint"
  | .runPatrol _ _ => asc "run patrol"
  | .stop _ => asc "stop"
  | .stopTest _ => asc "stop test"
  | .stopDma _ n => asc "stop dma" ++ kv "ch" (natText n.val)
  | .consoleReset _ l u => asc "reset" ++ kvOpt "level" (l.map natText) ++ kvOpt "unit" (u.map fun x => asc x.word)
  | .sleep _ p => asc "sleep" ++ kvOpt "ps" (p.map natText)
  | .lockData _ p => asc "lock data" ++ kvOpt "password" (p.map quoted)
  | .unlockData _ p => asc "unlock data" ++ kv "password" (quoted p)
  | .rd _ a n w => asc "rd" ++ kv "addr" (h a) ++ kv "n" (natText n) ++ kv "w" (natText w)
  | .wr _ a w ds => asc "wr" ++ kv "addr" (h a) ++ kv "w" (natText w) ++ ds.zipIdx.flatMap fun d => kv ("d" ++ digit (Fin.ofNat 8 d.2)) (hexText w d.1)
  | .move _ s d len lines ss ds ovl pri => asc "move" ++ kv "src" (h s) ++ kv "dst" (h d) ++ kv "len" (natText len) ++ kv "lines" (natText lines) ++
      kvOpt "sstride" (ss.map intText) ++ kvOpt "dstride" (ds.map intText) ++ kv "ovl" (if ovl then asc "on" else asc "off") ++
      kvOpt "pri" (pri.map natText)
  | .fill _ d len pat pri => asc "fill" ++ kv "dst" (h d) ++ kv "len" (natText len) ++ kv "pattern" (hexText 8 pat.toNat) ++ kvOpt "pri" (pri.map natText)
  | .assayOffsets _ c b => asc "assay offsets" ++ kv "c" (chamberText c.val) ++ kv "block" (natText b)
  | .assaySensors _ => asc "assay sensors"
  | .assaySentinel _ c b _ => asc "assay sentinel" ++ kv "c" (chamberText c.val) ++ kv "block" (natText b)
  | .assaySearch _ c b _ => asc "assay search" ++ kv "c" (chamberText c.val) ++ kv "block" (natText b)
  | .assayReset _ c => asc "assay reset" ++ kv "c" (chamberText c.val)
  | .logJournal _ l f => asc "log journal" ++ kvOpt "last" (l.map natText) ++ kvOpt "from" (f.map natText)
  | .logTrouble _ => asc "log trouble"
  | .logAlarm _ l => asc "log alarm" ++ kvOpt "last" (l.map natText)
  | .logTemp _ => asc "log temp"
  | .updatePiece _ t s o l => asc "update piece" ++ kv "twin" (asc t.word) ++ kv "src" (h s) ++ kv "off" (natText o) ++ kv "len" (natText l)
  | .updateCommit _ t n _ => asc "update commit" ++ kv "twin" (asc t.word) ++ kv "act" (if n then asc "now" else asc "next")
  | .updateStatus _ => asc "update status"
  | .help _ t => asc "help" ++ match t with
      | .none => []
      | .verb v => 32 :: asc v.word
      | .setting x => 32 :: asc x.name
  | _ => []

/-- The line a row's operands spell, with its tag in machine mode. -/
def lineText (c : LineCtx) (i : Instr) : List Byte :=
  match c.tag with
  | some t => 64 :: asc t ++ 32 :: lineBody i
  | none => lineBody i

/-- The lines the change journal records (R112, R118). -/
def recorded : Instr → Bool
  | .set .. | .clearTrouble .. | .clearCause .. | .clearSuspect .. | .saveSettings .. | .saveProfile .. | .loadSettings .. | .loadProfile ..
  | .runTest .. | .runOp .. | .runTrain .. | .runCheckpoint .. | .runPatrol .. | .stop .. | .stopTest .. | .stopDma .. | .consoleReset ..
  | .sleep .. | .lockData .. | .unlockData .. | .wr .. | .move .. | .fill .. | .assaySearch .. | .assayReset .. | .updatePiece ..
  | .updateCommit .. => true
  | _ => false

/-! ## Passwords in the journal (R114) -/

/-- A lower-case letter. -/
def lower (b : Byte) : Byte := if 65 ≤ b.toNat ∧ b.toNat ≤ 90 then b + 32 else b

/-- A key that is `password`, in full or, in typed mode, shortened to three characters or more. -/
def isPasswordKey (typed : Bool) (k : List Byte) : Bool :=
  let k1 := k.map lower
  k1 == asc "password" || (typed && decide (3 ≤ k.length) && k1 == (asc "password").take k.length)

/-- Split at the first space outside quotes: the word, and what follows it from that space on. -/
def takeWord : Bool → List Byte → List Byte × List Byte
  | _, [] => ([], [])
  | q, b :: r =>
    if b = 32 ∧ !q then ([], b :: r)
    else let (w, t) := takeWord (if b = 34 then !q else q) r; (b :: w, t)

/-- The value of every password key as a single `-`; spaces stay as they were. -/
def maskGo (typed : Bool) : Nat → List Byte → List Byte
  | 0, l => l
  | _, [] => []
  | f + 1, b :: r =>
    if b = 32 then 32 :: maskGo typed f r
    else
      let (w, t) := takeWord false (b :: r)
      let k := w.takeWhile fun c => c != 61
      (if k.length < w.length ∧ isPasswordKey typed k then k ++ [61, 45] else w) ++ maskGo typed f t

/-- A line's text as the journal records it. -/
def masked (text : List Byte) : List Byte := maskGo (text.head? != some 64) text.length text

/-! ## The interpreter (R92, R93, R113) -/

/-- Firmware or mask ROM serves the console: no reset is held, not in PS4, not in boundary-scan mode (R51, R93, R493, R513). -/
def State.consoleOn (s : State) : Bool := (s.sys.fw || s.sys.rom) && !s.inReset && decide (s.sys.ps.val < 4) && !s.lan.scan

/-- A path's number in the journal (R114). -/
def Path.num : Path → Nat
  | .uart => 0 | .tunnel => 1 | .tether => 2

/-- The device a line is recorded as from (R114). -/
def State.lineDev (s : State) (c : LineCtx) : Nat := if c.path = .tether then c.entry.val else s.index

/-- Put a whole line in its path's queue; a fifth is refused and trouble bit 44 set (R92). -/
def State.enqueue (s : State) (c : LineCtx) (text : List Byte) : State :=
  if (s.con.queue.countP fun q => q.ctx.path == c.path) ≥ 4 then (s.raise 44).reply c [] (err .busy [word "queue"])
  else { s with con := { s.con with queue := s.con.queue ++ [⟨c, text, s.con.nextOrder⟩], nextOrder := s.con.nextOrder + 1 } }

/-- Execute a line: where it is recorded its entry comes first, and with no entry it is not executed (R113). -/
def State.execLine (s : State) (c : LineCtx) (text : List Byte) (rec : Bool) (act : Option Nat → State → State) : State :=
  if rec then
    match s.journalAdd (Path.num c.path) (s.lineDev c) (masked text) with
    | (none, t) => t.reply c [] (err .fault [word "journal"])
    | (some j, t) => act (some j) t
  else act none s

/-- What mask ROM's console accepts, on the UART alone (R513). -/
def romVerb : Instr → Bool
  | .get _ .state | .rd .. | .wr .. | .updatePiece .. | .updateCommit .. | .updateStatus .. | .consoleReset .. => true
  | _ => false

/-- A line executes. -/
def Console.busy (c : Console) : Bool := c.running.isSome || c.stopping.isSome

/-- A row that is one line: executed, or queued behind the line that executes and those that wait (R92). -/
def State.lineRow (s : State) (c : LineCtx) (i : Instr) (act : Option Nat → State → State) : State :=
  if !s.consoleOn then s
  else if s.con.busy || !s.con.queue.isEmpty then s.enqueue c (lineText c i)
  else if s.sys.rom && !(romVerb i && c.path == .uart) then s.execLine c (lineText c i) (recorded i) fun j t => t.finishLine c j [] (err .state [])
  else s.execLine c (lineText c i) (recorded i) act

/-- A reply whose detail is a key out of range. -/
def badKey (k : String) (v : Val) : Status := err .range [(k, v)]

/-- The first of a list of checks that fails. -/
def firstBad : List (Bool × Status) → Option Status
  | [] => none
  | (bad, st) :: r => if bad then some st else firstBad r

/-- Finish a line with the first failing check, or go on. -/
def State.checked (s : State) (c : LineCtx) (j : Option Nat) (cs : List (Bool × Status)) (act : State → State) : State :=
  match firstBad cs with
  | some st => s.finishLine c j [] st
  | none => act s

/-- A chamber has a die and a profile (R119). -/
def State.chamberHere (s : State) (c : Fin 128) : Bool := s.map.present.contains c && (s.prof c).isSome

end Sys2Proof.Machine
end

