-- ==== Sys2Proof/Machine/Reading.lean ====
section
/-! DEFINITION. The lines that read the device: `show`, `get`, `log` and `help` (R119 to R124). -/

namespace Sys2Proof.Machine

/-! ## Shared words -/

/-- A SYS_STATE's word (R116). -/
def SysState.word : SysState → String
  | .boot => "boot" | .service => "service" | .test => "test" | .recovery => "recovery"

/-- A role's word (R49). -/
def roleWord : Nat → String
  | 0 => "master" | 1 => "sub1" | 2 => "sub2" | _ => "sub3"

/-- A rate code of R414 in GT/s. -/
def rateText : Nat → List Byte
  | 1 => asc "2.5" | 2 => asc "5" | 3 => asc "8" | 4 => asc "16" | 5 => asc "32" | _ => asc "0"

/-- Width and rate of a link. -/
def linkText (w r : Nat) : List Byte := 120 :: natText w ++ 45 :: rateText r ++ asc "GT"

/-- The host link: down, or the width and rate that it trained to, which is between the host and its lanes (log entry 4). -/
def State.hostLink (s : State) : Val :=
  if s.isMaster && (s.sys.lanes == .up || s.sys.lanes == .l12) then
    let ws := if s.rf .sysStrap 14 1 = 1 then [2, 1] else [4, 2, 1]
    .chars (linkText (ws.getD (Config.freeNat s.free % ws.length) 1) (1 + Config.freeNat (s.free + 1) % 5))
  else .word "down"

/-- A flag of a pair. -/
def flagOf (k : String) (b : Bool) : Pair := (k, .flag b)

/-- A number of a pair. -/
def natOf (k : String) (n : Nat) : Pair := (k, .nat n)

/-! ## show (R121) -/

/-- `show health`: bytes 2 to 143 of log page C0h, by topic. -/
def State.healthLines (s : State) : List (List Pair) :=
  let c (k : String) : Nat := s.count k
  [[natOf "state" s.map.health], [natOf "gov_step" (s.rf .govStep 0 3)], [natOf "spare" s.map.spare, natOf "spare_first" s.map.spareFirst],
   [natOf "sump_mib" (s.map.sumpSize / 2 ^ 20)], [natOf "host_sectors" s.front.smart.sectorsWritten, natOf "media_sectors" (c "programmed")],
   [natOf "hard" (c "hard"), natOf "hard_bits" (c "bits")], [natOf "retry" (c "retry")], [natOf "soft" (c "soft")], [natOf "rebuild" (c "rebuild")],
   [natOf "uncorr" (c "uncorr")],
   [natOf "refresh_read" (c "refresh_read"), natOf "refresh_effort" (c "refresh_effort"), natOf "refresh_patrol" (c "refresh_patrol")],
   [natOf "patrols" (c "patrol_wakes"), natOf "over" s.map.patrolOver],
   [natOf "pe_max" s.maxErase, natOf "pe_mean" s.meanErase, natOf "rated_pe" ((s.refProf.map (·.ratedNative)).getD 0)],
   [natOf "isns_ma" s.assay.isnsMa, natOf "ctl_mw" s.assay.ctlMw],
   [("die_c", .int (wholeC s.assay.dieQ)), ("chamber_c", .int (match s.hottest with | some x => x.1 | none => wholeC s.assay.dieQ))],
   [natOf "retrains" (c "retrains")], [natOf "scans" s.map.scans]]

/-- `show gallery`. -/
def State.galleryLine (s : State) (g : Fin 8) : List Pair :=
  [natOf "rate" (s.rate g), flagOf "trained" (s.gals.get g).inService, natOf "chambers" ((chambersOf g).countP fun c => s.map.present.contains c),
   ("suspect", .hex 2 (s.rf (.galSuspect g) 0 16)), ("temp_c", .int (BitVec.ofNat 8 (s.rf (.galTrainInfo g) 0 8)).toInt),
   natOf "retrains" (s.rf (.galTrainInfo g) 16 16), natOf "parity_err" (s.rf (.galParity g) 0 16 + s.rf (.galParity g) 16 16)]

/-- The block records of a chamber. -/
def State.chamberBlks (s : State) (c : Fin 128) : List Blk := (s.map.blks.filter fun (e : Nat × Blk) => e.1 / 65536 == c.val).map (·.2)

/-- `show chamber`; the mean is over every block of the chamber, an unlisted one never erased. -/
def State.chamberLine (s : State) (c : Fin 128) : List Pair :=
  let bs := s.chamberBlks c
  let es := bs.map (·.erase)
  [flagOf "present" (s.map.present.contains c), flagOf "suspect" (s.suspect c), ("temp_c", .int (s.chamberTemp c).1),
   natOf "open_blocks" (bs.countP fun b => b.st == .opened), natOf "bad_blocks" (bs.countP fun b => b.st == .bad),
   natOf "pe_max" (es.foldl max 0), natOf "pe_mean" (if s.blocksOf c = 0 then 0 else sumNat es / s.blocksOf c)]

/-- `show power`. -/
def State.powerLine (s : State) : List Pair :=
  [natOf "gov_step" (s.rf .govStep 0 3), natOf "ctl_mw" s.assay.ctlMw, natOf "isns_ma" s.assay.isnsMa, natOf "cap_mw" s.settings.govCapMw,
   natOf "active_ops" (s.rf .govStep 8 8)]

/-- What a port's link shows. -/
def State.portText (s : State) (p : Port) : Val :=
  let r := statReg p
  match (s.teth.get p).st with
  | .up => .chars (linkText (s.rf r 4 3) (s.rf r 8 3) ++ asc "-up")
  | .off | .absent => .word "none"
  | .training => .word "training"
  | .hold => .word "hold"
  | .down => .word "down"
  | .mismatch => .word "mismatch"

/-- Whether this device counts a device of the chain present: its own links, the master's record of answers, and the chain record beyond them. -/
def State.devHere (s : State) (k : Nat) : Bool :=
  if k = s.index then true
  else if s.isMaster then s.teth.present.getLsbD k && !s.teth.absent.getLsbD k
  else if k < s.index then s.teth.tu.st == .up
  else s.teth.td.st == .up && (decide (k = s.index + 1) || decide (k < s.chainN))

/-- The link between devices k and k + 1 as a line shows it: this device's own port, else that of two devices that are present, whose width
and rate only they know (log entry 4). -/
def State.linkBelow (s : State) (k : Nat) : Val :=
  if k = s.index then s.portText .td
  else if k + 1 = s.index then s.portText .tu
  else if s.devHere k && s.devHere (k + 1) then
    .chars (linkText ([1, 2, 4].getD (Config.freeNat s.free % 3) 1) (1 + Config.freeNat (s.free + 1) % 5) ++ asc "-up")
  else .word "none"

/-- The settings marked to hold the same value along the chain (R140, R412). -/
def chainSettings : List String := ["host.wcache", "host.apst", "host.apst_ps3", "host.apst_ps4", "teth.stripe", "patrol.interval"]

/-- What `show chain` adds to the line of a device that differs from the master: which settings differ no frame says, and stays free
(R412; log entry 64). -/
def State.chainCfg (s : State) (k : Nat) : List Pair :=
  let l := (chainSettings.zipIdx).filter fun x => Config.chainDiffers s.free (8 * k + x.2)
  if k = 0 ∨ l.isEmpty then [] else [("cfg", .word (",".intercalate (l.map (·.1))))]

/-- `show chain`. -/
def State.chainLines (s : State) : List (List Pair) :=
  (List.range 4).map fun k =>
    let n : Pair := ("", .chars (35 :: natText k))
    if s.devHere k then
      [n, word (roleWord k), ("tu", if k = 0 then .word "none" else s.linkBelow (k - 1)), ("td", if k = 3 then .word "none" else s.linkBelow k)] ++ s.chainCfg k
    else [n, word "absent"]

/-- A setting's saved value, or its default where none is saved; a saved rate that the profile does not declare is its highest (R109, R140). -/
def State.savedVal (s : State) (x : Setting) : Val :=
  let t := (s.bst.savedSet).getD (defaultSettings (s.rf .sysStrap 15 1 == 1))
  match x with
  | .galRate g =>
    let y := s.gals.get g
    .nat (if y.declares (t.galRate.get g) then t.galRate.get g else (y.profile.map (·.topRate)).getD 0)
  | x => t.val x

/-- `show settings`: a star follows a value that differs from its saved one. -/
def State.settingLines (s : State) (grp : Option Group) : List (List Pair) :=
  (allSettings.filter fun x => match grp with | none => true | some g => x.group == g).map fun x =>
    let v := (s.settingNow x).text
    [(x.name, .chars (if v = (s.savedVal x).text then v else v ++ [42]))]

/-- `show profile`: one line for each installed image, with the galleries it serves. -/
def State.profileLines (s : State) : List (List Pair) :=
  let ps := (s.gals.toList.filterMap fun (y : Gallery) => y.profile).eraseDups
  ps.map fun p =>
    let gs := (fins 8).filter fun g => (s.gals.get g).profile == some p
    [("galleries", .chars ((gs.map fun g => natText g.val).intersperse [44]).flatten),
     natOf "chambers" ((fins 128).countP fun c => gs.contains (galOf c) && s.map.present.contains c), natOf "rate" p.topRate,
     ("cells", .word (if p.qlc then "qlc" else "tlc")), natOf "rated_pe" p.ratedNative]

/-- `show namespaces`. -/
def State.nsLines (s : State) : List (List Pair) :=
  (fins 8).filterMap fun i => (s.map.ns.get i).map fun r =>
    [natOf "nsid" (i.val + 1), ("size", .size (r.lbas * r.lbaBytes)), natOf "lbaf" (b2n r.lba4k), flagOf "ready" r.ready]

/-- `show version`: what the images and the ROM call themselves the manual does not give (log entry 4). -/
def State.versionLine (s : State) : List Pair :=
  [natOf "rom" (Config.freeNat 0), natOf "fw" (Config.imageVersion s.bst.active.num s.bst.swaps.length), ("twin", .word s.bst.active.word),
   natOf "stepping" Config.revision.toNat]

/-- `show status`. -/
def State.statusLine (s : State) : List Pair :=
  [("state", .word s.sys.st.word), ("role", .word (roleWord s.index)), natOf "ps" s.sys.ps.val, ("link", s.hostLink), flagOf "lock" s.locked,
   flagOf "wcache" s.settings.hostWcache, natOf "lifetime" s.sys.life]

/-- The lines of an object. -/
def State.showLines (s : State) : ShowObj → List (List Pair)
  | .status => [s.statusLine]
  | .health => s.healthLines
  | .gallery g => [s.galleryLine g]
  | .chamber c => [s.chamberLine c]
  | .power => [s.powerLine]
  | .chain => s.chainLines
  | .settings grp => s.settingLines grp
  | .profile => s.profileLines
  | .namespaces => s.nsLines
  | .version => [s.versionLine]

/-- `show`: a chamber with no die or no profile is absent. -/
def State.doShow (s : State) (c : LineCtx) (j : Option Nat) (obj : ShowObj) : State :=
  match obj with
  | .chamber ch => if s.chamberHere ch then s.finishLine c j [s.chamberLine ch] (ok []) else s.finishLine c j [] (err .absent [])
  | o => s.finishLine c j (s.showLines o) (ok [])

/-- SHOW (R119 to R121). -/
def execShow (l : LineCtx) (obj : ShowObj) (s : State) : Host.Outcome State Fault Refusal :=
  .next (s.lineRow l (.show l obj) fun j t => t.doShow l j obj)

/-! ## get (R122) -/

/-- How many galleries hold a profile. -/
def State.profileWord (s : State) : String :=
  let n := (s.gals.toList.countP fun (y : Gallery) => y.profile.isSome)
  if n = 0 then "none" else if n = 8 then "all" else "partial"

/-- The pairs of a `get`. -/
def State.getPairs (s : State) : GetWhat → List Pair
  | .names l => s.setPairs l
  | .strap => [natOf "code" (s.rf .sysStrap 0 6), natOf "index" (s.rf .sysStrap 8 4), ("role", .word (roleWord s.index)),
      flagOf "narrow" (s.rf .sysStrap 14 1 == 1), flagOf "con_fast" (s.rf .sysStrap 15 1 == 1), flagOf "marginal" (s.rf .sysStrap 16 1 == 1)]
  | .state => [("state", .word s.sys.st.word), ("profile", .word s.profileWord)]
  | .cause => [("cause", .hex 4 (s.reg .sysCause).toNat), natOf "level" (s.rf .sysRstLast 0 3), natOf "src" (s.rf .sysRstLast 4 4)]
  | .trouble => [("trouble", .chars (hex16 s.sys.trouble.toNat))]
  | .lifetime => [natOf "lifetime" s.sys.life]

/-- `get`. -/
def State.doGet (s : State) (c : LineCtx) (j : Option Nat) (what : GetWhat) : State := s.finishLine c j [] (ok (s.getPairs what))

/-- GET (R122). -/
def execGet (l : LineCtx) (what : GetWhat) (s : State) : Host.Outcome State Fault Refusal :=
  .next (s.lineRow l (.get l what) fun j t => t.doGet l j what)

/-! ## log (R123) -/

/-- The words of a text, spaces kept: between two spaces stands an empty word. -/
def textWords (t : List Byte) : List Pair := (t.splitOn 32).map fun w => ("", .chars w)

/-- A source path of the journal. -/
def srcWord : Nat → String
  | 0 => "uart" | 1 => "tunnel" | 2 => "tether" | _ => "lantern"

/-- A result byte of the journal. -/
def resultWord (b : Byte) : String :=
  match b.toNat with
  | 0 => "ok" | 1 => "syntax" | 2 => "unknown" | 3 => "ambiguous" | 4 => "range" | 5 => "busy" | 6 => "state" | 7 => "locked"
  | 8 => "password" | 9 => "absent" | 10 => "timeout" | 11 => "fault" | 12 => "crc" | _ => "pending"

/-- Three decimal digits. -/
def digits3 (n : Nat) : List Byte := natText (n / 100 % 10) ++ natText (n / 10 % 10) ++ natText (n % 10)

/-- An entry of the journal as a line. -/
def JEntry.pairs (e : JEntry) : List Pair :=
  [("", .nat e.seq), ("", .chars (natText e.secs ++ 46 :: digits3 e.ms)), word (srcWord e.src), ("", .chars (35 :: natText e.dev)),
   word (resultWord e.result)] ++ textWords e.text

/-- A number is the other's or after it in the ring's order. -/
def seqFrom (a b : Nat) : Bool := decide ((b + 0xFFFFFFFF - a) % 0xFFFFFFFF < 0x80000000)

/-- The entries a `log journal` gives. -/
def journalSel (es : List JEntry) (last from_ : Option Nat) : List JEntry :=
  match from_, last with
  | some f, some n => (es.filter fun e => seqFrom f e.seq).take n
  | some f, none => es.filter fun e => seqFrom f e.seq
  | none, n => es.drop (es.length - n.getD 16)

/-- A list of entries with their count. -/
def State.logReply (s : State) (c : LineCtx) (j : Option Nat) (ls : List (List Pair)) : State := s.finishLine c j ls (ok [natOf "n" ls.length])

/-- `log journal`. -/
def State.doLogJournal (s : State) (c : LineCtx) (j : Option Nat) (last from_ : Option Nat) : State :=
  s.checked c j [(decide (last.getD 16 > 4096), badKey "last" (.nat (last.getD 16))), (decide (from_.getD 1 ≥ 2 ^ 32), badKey "from" (.nat (from_.getD 1)))]
    fun t => t.logReply c j ((journalSel t.bst.journal last from_).map JEntry.pairs)

/-- LOG_JOURNAL (R123). -/
def execLogJournal (l : LineCtx) (last frm : Option Nat) (s : State) : Host.Outcome State Fault Refusal :=
  .next (s.lineRow l (.logJournal l last frm) fun j t => t.doLogJournal l j last frm)

/-- `log trouble`. -/
def State.doLogTrouble (s : State) (c : LineCtx) (j : Option Nat) : State :=
  s.logReply c j (((List.range 64).filter fun n => s.trb n).map fun n =>
    [("", .nat n), ("", .nat (Store.get (fun _ => (0 : Word)) s.sys.trbTime n).toNat)])

/-- LOG_TROUBLE (R123). -/
def execLogTrouble (l : LineCtx) (s : State) : Host.Outcome State Fault Refusal :=
  .next (s.lineRow l (.logTrouble l) fun j t => t.doLogTrouble l j)

/-- `log alarm`. -/
def State.doLogAlarm (s : State) (c : LineCtx) (j : Option Nat) (last : Option Nat) : State :=
  let es := s.bst.alarmLog.drop (s.bst.alarmLog.length - last.getD 16)
  s.logReply c j (es.map fun a => [natOf "source" a.source, natOf "origin" a.origin, natOf "action" a.action, flagOf "tether" a.tether,
    flagOf "lost" a.lostBefore, natOf "secs" a.secs, ("detail", .hex 4 a.detail)])

/-- LOG_ALARM (R123). -/
def execLogAlarm (l : LineCtx) (last : Option Nat) (s : State) : Host.Outcome State Fault Refusal :=
  .next (s.lineRow l (.logAlarm l last) fun j t => t.doLogAlarm l j last)

/-- `log temp`: the bins of log page C1h that are not zero. -/
def State.doLogTemp (s : State) (c : LineCtx) (j : Option Nat) : State :=
  s.logReply c j ((s.sys.hist.bins.zipIdx.filter fun b => b.1 != 0).map fun b => [natOf "bin" b.2, natOf "secs" b.1])

/-- LOG_TEMP (R123). -/
def execLogTemp (l : LineCtx) (s : State) : Host.Outcome State Fault Refusal :=
  .next (s.lineRow l (.logTemp l) fun j t => t.doLogTemp l j)

/-! ## help (R124) -/

/-- Every verb. -/
def allVerbs : List Verb :=
  [.show, .get, .set, .clear, .save, .load, .run, .stop, .reset, .sleep, .lock, .unlock, .rd, .wr, .move, .fill, .assay, .log, .update, .help]

/-- A verb's objects and keys (R118). -/
def verbUses : Verb → List (List String)
  | .show => [["status"], ["health"], ["gallery", "g="], ["chamber", "c="], ["power"], ["chain"], ["settings", "[group=]"], ["profile"],
      ["namespaces"], ["version"]]
  | .get => [["setting..."], ["strap"], ["state"], ["cause"], ["trouble"], ["lifetime"]]
  | .set => [["setting=value..."]]
  | .clear => [["trouble", "[bit=]"], ["cause", "[bit=]"], ["suspect", "c="]]
  | .save => [["settings"], ["profile"]]
  | .load => [["settings"], ["profile", "src=", "len=", "[gal=]"]]
  | .run => [["test"], ["op", "c=", "list=", "block=", "page=", "buf=", "len=", "[force=]"], ["train", "g="], ["checkpoint"], ["patrol"]]
  | .stop => [[], ["test"], ["dma", "ch="]]
  | .reset => [["[level=]", "[unit=]"]]
  | .sleep => [["[ps=]"]]
  | .lock => [["data", "[password=]"]]
  | .unlock => [["data", "password="]]
  | .rd => [["addr=", "[n=]", "[w=]"]]
  | .wr => [["addr=", "[w=]", "d0=", "[d7=]"]]
  | .move => [["src=", "dst=", "len=", "[lines=]", "[sstride=]", "[dstride=]", "[ovl=]", "[pri=]"]]
  | .fill => [["dst=", "len=", "[pattern=]", "[pri=]"]]
  | .assay => [["offsets", "c=", "block="], ["sensors"], ["sentinel", "c=", "block="], ["search", "c=", "block="], ["reset", "c="]]
  | .log => [["journal", "[last=]", "[from=]"], ["trouble"], ["alarm", "[last=]"], ["temp"]]
  | .update => [["piece", "twin=", "src=", "off=", "len="], ["commit", "twin=", "[act=]"], ["status"]]
  | .help => [[], ["verb"], ["setting"]]

/-- A setting's unit (R140). -/
def settingUnit : Setting → String
  | .hostReadahead | .tethStripe => "bytes"
  | .hostApstPs3 | .hostApstPs4 | .assayIdle => "ms"
  | .galRate _ => "MT/s"
  | .cdcStripeWidth => "chambers"
  | .mapRdDisturb => "reads"
  | .mapErrRefreshPct | .mapGcLow => "percent"
  | .govThrottleC => "C"
  | .govCapMw => "mW"
  | .govIsnsGain => "mV/A"
  | .govStandbyMj => "mJ"
  | .conBaud => "baud"
  | .patrolInterval => "h"
  | .patrolFlipLimit => "flips"
  | .dmaHopLimit => "descriptors"
  | .dmaConsoleCh => "channel"
  | .dmaConsolePri => "priority"
  | _ => "none"

/-- A setting's range (R140). -/
def settingRange (x : Setting) : Val :=
  match x, x.bounds with
  | .galRate _, _ => .word "profile"
  | .mapRdDisturb, some (a, b) => .chars (asc "profile," ++ natText a ++ 45 :: natText b)
  | x, some (a, b) => if settingUnit x = "bytes" then .chars (sizeText a ++ 45 :: sizeText b) else .chars (natText a ++ 45 :: natText b)
  | _, none => .word "on,off"

/-- What `help` lists. -/
def State.helpLines (s : State) : HelpTopic → List (List Pair)
  | .none => [allVerbs.map fun v => word v.word]
  | .verb v => (verbUses v).map fun l => l.map word
  | .setting x => [[("default", match x with
      | .galRate _ => .word "highest"
      | x => (defaultSettings (s.rf .sysStrap 15 1 == 1)).val x), ("range", settingRange x), ("unit", .word (settingUnit x)), ("value", s.settingNow x)]]

/-- `help`. -/
def State.doHelp (s : State) (c : LineCtx) (j : Option Nat) (t : HelpTopic) : State := s.finishLine c j (s.helpLines t) (ok [])

/-- HELP (R124). -/
def execHelp (l : LineCtx) (topic : HelpTopic) (s : State) : Host.Outcome State Fault Refusal :=
  .next (s.lineRow l (.help l topic) fun j t => t.doHelp l j topic)

end Sys2Proof.Machine
end

