-- ==== Sys2Proof/Machine/Changing.lean ====
section
/-! DEFINITION. The lines that change settings, trouble and cause bits, suspect chambers and profiles: `set`, `clear`, `save`, `load`
(R125 to R128, R198 to R200), and the installation of a profile on a gallery. -/

namespace Sys2Proof.Machine

/-! ## set (R102, R125, R140) -/

/-- A pair as it was given. -/
def givenPair (x : Setting × SetVal) : Pair := (x.1.name, .chars (givenText x.2))

/-- The first pair whose setting was named before it. -/
def dupPair : List Setting → List (Setting × SetVal) → Option (Setting × SetVal)
  | _, [] => none
  | seen, x :: r => if seen.contains x.1 then some x else dupPair (x.1 :: seen) r

/-- Why a `set` is refused: no pair, a setting twice, a value out of range, a state condition. -/
def State.setRefused (s : State) (ps : List (Setting × SetVal)) : Option Status :=
  if ps.isEmpty then some (err .badForm [word "set"])
  else match dupPair [] ps with
    | some x => some (err .badForm [word x.1.name])
    | none => match ps.find? fun (x : Setting × SetVal) => match x.1 with
        | .galRate g => (s.gals.get g).profile.isNone
        | _ => false with
      | some x => some (err .state [givenPair x])
      | none => match ps.find? fun (x : Setting × SetVal) => !s.setInRange x.1 x.2 with
        | some x => some (err .range [givenPair x])
        | none => (ps.find? fun (x : Setting × SetVal) => !s.setAllowed x.1 x.2).map fun (x : Setting × SetVal) => err .state [givenPair x]

/-- The galleries turned off that do not rest yet. -/
def State.restless (s : State) : Bool := (fins 8).any fun (g : Fin 8) => !s.settings.galEnable.get g && !(s.gals.get g).holdReset

/-- `set`: every pair together, or none; a gallery turned off replies once it rests. -/
def State.doSet (s : State) (c : LineCtx) (j : Option Nat) (ps : List (Setting × SetVal)) : State :=
  match s.setRefused ps with
  | some st => s.finishLine c j [] st
  | none =>
    let names := ps.map (·.1)
    let s1 : State := ps.foldl (fun (t : State) (x : Setting × SetVal) => t.setNow x.1 x.2) s
    let off := ps.any fun (x : Setting × SetVal) => match x with | (.galEnable _, .flag false) => true | _ => false
    if off && s1.restless then s1.run ⟨c, .setOff names, j⟩ else s1.finishLine c j [] (ok (s1.setPairs names))

/-- SET (R125). -/
def execSet (l : LineCtx) (pairs : List (Setting × SetVal)) (s : State) : Host.Outcome State Fault Refusal :=
  .next (s.lineRow l (.set l pairs) fun j t => t.doSet l j pairs)

/-! ## clear (R126) -/

/-- `clear trouble`: a bit whose cause is still present is set again at once. -/
def State.doClearTrouble (s : State) (c : LineCtx) (j : Option Nat) (bit : Option Nat) : State :=
  s.checked c j [(decide (bit.getD 0 > 63), badKey "bit" (.nat (bit.getD 0)))] fun t =>
    (t.clearTrouble (match bit with | none => BitVec.allOnes 64 | some n => 1#64 <<< n)).finishLine c j [] (ok [])

/-- CLEAR_TROUBLE (R126). -/
def execClearTrouble (l : LineCtx) (bit : Option Nat) (s : State) : Host.Outcome State Fault Refusal :=
  .next (s.lineRow l (.clearTrouble l bit) fun j t => t.doClearTrouble l j bit)

/-- `clear cause`: the bits of SYS_CAUSE; of a `bit` outside 0 to 31 the manual says nothing, and the line takes it as out of range (DESIGN
CHOICE, log entry 63). -/
def State.doClearCause (s : State) (c : LineCtx) (j : Option Nat) (bit : Option Nat) : State :=
  s.checked c j [(decide (bit.getD 0 > 31), badKey "bit" (.nat (bit.getD 0)))] fun t =>
    (t.clearCause (match bit with | none => BitVec.allOnes 32 | some n => 1#32 <<< n)).finishLine c j [] (ok [])

/-- CLEAR_CAUSE (R126). -/
def execClearCause (l : LineCtx) (bit : Option Nat) (s : State) : Host.Outcome State Fault Refusal :=
  .next (s.lineRow l (.clearCause l bit) fun j t => t.doClearCause l j bit)

/-- A chamber's target is trained at its gallery's current rate (R148). -/
def State.targetTrained (s : State) (c : Fin 128) : Bool :=
  (s.gals.get (galOf c)).trainResults.any fun (e : TrainRec) => e.ce == (chIn c).val / 2 && e.rate == s.rate (galOf c)

/-- `clear suspect`: the chamber's reset list, then a status check. -/
def State.doClearSuspect (s : State) (c : LineCtx) (j : Option Nat) (ch : Fin 128) (statusOk : Bool) : State :=
  let g := galOf ch
  s.checked c j [(!s.chamberHere ch, err .absent []), (!(s.gals.get g).inService || !s.targetTrained ch, err .state [])] fun t =>
    let (good, s1) := t.resetLun g (chIn ch) (if statusOk then ready else 0)
    if good && statusOk then
      (s1.setReg (.galSuspect g) (s1.reg (.galSuspect g) &&& ~~~(1#32 <<< (chIn ch).val))).finishLine c j [] (ok [])
    else s1.finishLine c j [] (err .fault [word "status"])

/-- CLEAR_SUSPECT (R126). -/
def execClearSuspect (l : LineCtx) (c : Fin 128) (statusOk : Bool) (s : State) : Host.Outcome State Fault Refusal :=
  .next (s.lineRow l (.clearSuspect l c statusOk) fun j t => t.doClearSuspect l j c statusOk)

/-! ## save (R109, R127, R200) -/

/-- The reply of a save. -/
def Saved.status : Saved → Status
  | .done => ok []
  | .failed => err .fault [word "bst"]
  | .stale => err .fault [word "bst", ("saved", .flag true)]

/-- `save settings`. -/
def State.doSaveSettings (s : State) (c : LineCtx) (j : Option Nat) : State := let (r, t) := s.saveSettings; t.finishLine c j [] r.status

/-- SAVE_SETTINGS (R109, R127). -/
def execSaveSettings (l : LineCtx) (s : State) : Host.Outcome State Fault Refusal :=
  .next (s.lineRow l (.saveSettings l) fun j t => t.doSaveSettings l j)

/-- Every byte of a sector reads 0xFF. -/
def BootStore.blankSec (b : BootStore) (sec : Nat) : Bool :=
  (b.bytes.all fun (e : Nat × Byte) => e.1 / 0x10000 != sec) && b.undefinedSecs.all fun (e : Nat × Nat) => e.1 != sec

/-- The first sector, in the die, of a profile half (R200). -/
def profHalf (h : Nat) : Nat := 0x33 + 8 * h

/-- The profile half that a save writes: the one not in use (R200). -/
def BootStore.freeHalf (b : BootStore) : Nat :=
  match b.half 0, b.half 1 with
  | some x, some y => if x.1 ≥ y.1 then 1 else 0
  | some _, none => 1
  | none, _ => 0

/-- The sequence number of the next save: one higher than that of the half in use. -/
def BootStore.nextSave (b : BootStore) : Nat := ((b.bestHalf.map (·.1)).getD ((b.profiles.getLast?.map (·.1)).getD 0)) + 1

/-- Erase the sectors of a half that are not blank. -/
def State.eraseHalf (s : State) (sec : Nat) : Bool × State :=
  (List.range 8).foldl (fun (x : Bool × State) (i : Nat) => if x.1 && !x.2.bst.blankSec (sec + i) then x.2.fwErase (sec + i) else x) (true, s)

/-- The installed images, each once, in gallery order. -/
def State.images (s : State) : List (List Nat) := (s.gals.toList.filterMap fun (g : Gallery) => g.profile.map (·.image)).eraseDups

/-- Where each image stands in a half: one after the other from byte 64. -/
def imageOffs : Nat → List (List Nat) → List Nat
  | _, [] => []
  | o, m :: r => o :: imageOffs (o + m.length) r

/-- The bytes of a half from its byte 4 on. -/
def State.halfBytes (s : State) (seq : Nat) : List Nat :=
  let ms := s.images
  let map_ := s.gals.toList.map fun (g : Gallery) => match g.profile with | some p => ms.findIdx (· == p.image) | none => 0xFF
  let offs := (imageOffs 64 ms ++ List.replicate 8 0).take 8
  leBytes 4 seq ++ map_ ++ offs.flatMap (leBytes 4) ++ List.replicate 16 0 ++ ms.flatten

/-- Write the installed images into the half not in use, then erase the older. -/
def State.saveProfile (s : State) : Saved × State :=
  let seq := s.bst.nextSave
  let h := s.bst.freeHalf
  let inst : List (Fin 8 × List Nat) := (fins 8).filterMap fun (g : Fin 8) => (s.gals.get g).profile.map fun (p : Profile) => (g, p.image)
  match s.eraseHalf (profHalf h) with
  | (false, s1) => (.failed, s1)
  | (true, s1) => match s1.fwProgram (profHalf h * 0x10000 + 4) (s.halfBytes seq) with
    | (false, s2) => (.failed, s2)
    | (true, s2) => match s2.fwProgram (profHalf h * 0x10000) [0x5A, 0x50, 0x53, 0x31] with
      | (false, s3) => (.failed, s3)
      | (true, s3) =>
        let s4 : State := { s3 with bst := { s3.bst with profiles := [(seq, inst)] } }
        match s4.eraseHalf (profHalf (1 - h)) with
        | (true, s5) => (.done, s5)
        | (false, s5) => (.stale, s5)

/-- `save profile`. -/
def State.doSaveProfile (s : State) (c : LineCtx) (j : Option Nat) : State := let (r, t) := s.saveProfile; t.finishLine c j [] r.status

/-- SAVE_PROFILE (R127, R200). -/
def execSaveProfile (l : LineCtx) (s : State) : Host.Outcome State Fault Refusal :=
  .next (s.lineRow l (.saveProfile l) fun j t => t.doSaveProfile l j)

/-! ## load settings (R109, R603) -/

/-- A setting's value as `set` would give it; a rate that the profile does not declare is its highest. -/
def State.givenVal (s : State) (t : Settings) (x : Setting) : SetVal :=
  match x with
  | .galRate g => let y := s.gals.get g
    .num (if y.declares (t.galRate.get g) then t.galRate.get g else (y.profile.map (·.topRate)).getD 0)
  | x => match t.val x with
    | .nat n | .size n => .num n
    | .flag b => .flag b
    | _ => .profile

/-- Load one setting: its saved value, else its default, unless the setting refuses both (log entry 31). -/
def State.loadOne (s : State) (saved : Settings) (x : Setting) : State :=
  let a := s.givenVal saved x
  let d := s.givenVal (defaultSettings (s.rf .sysStrap 15 1 == 1)) x
  let may (v : SetVal) : Bool := s.setInRange x v && s.setAllowed x v
  if may a then s.setNow x a else if may d then s.setNow x d else s

/-- `load settings`: the live settings become the saved set. -/
def State.doLoadSettings (s : State) (c : LineCtx) (j : Option Nat) : State :=
  let saved := s.bst.setStart.savedSet.getD (defaultSettings (s.rf .sysStrap 15 1 == 1))
  (allSettings.foldl (fun (t : State) (x : Setting) => t.loadOne saved x) s).finishLine c j [] (ok [])

/-- LOAD_SETTINGS (R109). -/
def execLoadSettings (l : LineCtx) (s : State) : Host.Outcome State Fault Refusal :=
  .next (s.lineRow l (.loadSettings l) fun j t => t.doLoadSettings l j)

/-! ## load profile (R128, R198, R199) -/

/-- An access that a line made ended badly (R111, R129, R526). -/
def faultStatus (o : Acc) (a : Nat) (more : List Pair) : Status :=
  match o with
  | .refused 3 => err .locked more
  | .ecc => err .fault (("addr", .hex 4 a) :: word "ecc" :: more)
  | _ => err .fault (("addr", .hex 4 a) :: more)

/-- Read bytes as the user class, as every access that a line makes (R19): the bytes, or where and how they stopped. -/
def State.readSpan (s : State) : List (Nat × Nat) → Option (Acc × Nat) × List Nat × State
  | [] => (none, [], s)
  | (a, w) :: r =>
    let (o, v, t) := s.busRead .user 0 a w
    if o = .done then
      let (f, bs, u) := State.readSpan t r
      (f, leBytes w v ++ bs, u)
    else (some (o, a), [], t)

/-- A gallery holds no programmed block (R128). -/
def State.unwritten (s : State) (g : Fin 8) : Bool :=
  s.map.blks.all fun (e : Nat × Blk) => galOf (chOfBlk e.1) != g || match e.2.st with
    | .free | .erased | .bad => true
    | .opened => e.2.next == 0
    | .closed | .tainted => false

/-- The galleries a load names. -/
def loadGals (g : Option (Fin 8)) : List (Fin 8) := match g with | some x => [x] | none => fins 8

/-- `load profile`: the image is read and validated whole, then waits for each gallery to be idle. -/
def State.doLoadProfile (s : State) (c : LineCtx) (j : Option Nat) (src len : Nat) (g : Option (Fin 8)) : State :=
  let gs := loadGals g
  s.checked c j [(decide (src ≥ 2 ^ 32), badKey "src" (.nat src)),
    (s.isSt .service && !gs.all s.unwritten, err .state []), (decide (len < 1024 ∨ len > 32768 ∨ len % 64 ≠ 0), err .range [word "hdr.length"])] fun t =>
    match t.readSpan (cutUp len src len) with
    | (some (o, a), _, u) => u.finishLine c j [] (faultStatus o a [])
    | (none, m, u) =>
      match imgFail m len (u.sys.railMv.get 4) with
      | some f => u.finishLine c j [] (err .range [word f])
      | none =>
        let s1 : State := gs.foldl (fun (v : State) (x : Fin 8) => v.gal x fun y => { y with toInstall := some (imgProfile m) }) u
        s1.run ⟨c, .load gs, j⟩

/-- LOAD_PROFILE (R128). -/
def execLoadProfile (l : LineCtx) (src len : Nat) (g : Option (Fin 8)) (s : State) : Host.Outcome State Fault Refusal :=
  .next (s.lineRow l (.loadProfile l src len g) fun j t => t.doLoadProfile l j src len g)

/-- The targets whose Read ID matched the profile (R189, R199). -/
def matchedCe (p : Profile) (ids : List (List Nat)) : BitVec 8 :=
  BitVec.ofNat 8 (sumNat ((fins 8).map fun (n : Fin 8) => if p.idMatches (ids.getD n.val []) then 2 ^ n.val else 0))

/-- The chambers of a gallery whose Read ID matched the profile. -/
def matched (g : Fin 8) (p : Profile) (ids : List (List Nat)) : List (Fin 128) :=
  (chambersOf g).filter fun (c : Fin 128) => p.idMatches (ids.getD ((chIn c).val / 2) []) && decide ((chIn c).val % 2 < p.luns)

/-- Training step 2, and Read ID on every target: FFh, then slot 14 to firmware's buffer (R146, R199 step 5). -/
def State.installCycles (s : State) (g : Fin 8) (ids : List (List Nat)) : State :=
  let one (t : State) (n : Fin 8) : State :=
    let u : State := t.targetList g n 0 {} { status := ready }
    State.targetList { u with free := u.free + 1 } g n 14 { buf := u.poolBuf } { status := ready, bytes := (ids.getD n.val []).map (BitVec.ofNat 8) }
  (fins 8).foldl one s

/-- Install an image on an idle gallery (R199): its slots, its identity, the populated chambers and its rate; training follows. -/
def State.install (s : State) (g : Fin 8) (p : Profile) (ids : List (List Nat)) : State :=
  let here := matched g p ids
  let s0 : State := s.gal g fun y => { y with
    profile := some p, toInstall := none, slots := p.slots, ceMatch := matchedCe p ids, inService := false, wpN := false, retrain := .none, newRate := none,
    trainResults := [], outCe := 0, lastOfs := [] }
  let s1 : State := s0.installCycles g ids
  let old := s.settings.galRate.get g
  let keep := if (s1.gals.get g).declares old then old else p.topRate
  let s2 : State := { s1 with
    settings := { s1.settings with galRate := setAt s1.settings.galRate g keep }
    map := { s1.map with present := (fins 128).filter fun (c : Fin 128) => (galOf c != g && s1.map.present.contains c) || here.contains c }
    assay := { s1.assay with
      listFails := Store.drop (fun (c : Nat) => c / 16 == g.val) s1.assay.listFails
      ofs := Store.drop (fun (k : Nat) => k / 1024 / 16 == g.val) s1.assay.ofs } }
  (s2.setReg (.galStat g) (s2.reg (.galStat g) &&& 0x8)).galSetup g

/-- Nothing runs on a gallery. -/
def Gallery.still (g : Gallery) : Bool := (g.ops.all fun (o : GOp) => !o.running) && g.ctxs.all fun (c : Nat × SeqCtx) => c.2.st == .idle

/-- The reply of a `load profile` once the last of its galleries has its image. -/
def State.loadReply (s : State) : State :=
  match s.con.running with
  | some ⟨_, .load gs, _⟩ =>
    if gs.all fun (g : Fin 8) => (s.gals.get g).toInstall.isNone then
      let n := s.map.present.countP fun (c : Fin 128) => gs.contains (galOf c)
      let rate := ((gs.head?).bind fun (g : Fin 8) => (s.gals.get g).profile.map (·.topRate)).getD 0
      s.finishJob (fun j => match j with | .load _ => true | _ => false) fun _ =>
        ([], ok [natOf "chambers" n, natOf "rate" rate, natOf "vddqg_mv" (s.sys.railMv.get 4)])
    else s
  | _ => s

/-- PROFILE_INSTALL (R199): once the gallery is idle. -/
def execProfileInstall (g : Fin 8) (ids : List (List Nat)) (s : State) : Host.Outcome State Fault Refusal :=
  .next (match (s.gals.get g).toInstall with
    | some p => if !s.inReset && s.sys.released.getLsbD 3 && decide (s.sys.ps.val ≤ 2) && (s.gals.get g).still then (s.install g p ids).loadReply else s
    | none => s)

end Sys2Proof.Machine
end

