-- ==== Sys2Proof/Machine/Sequencer.lean ====
section
/-! DEFINITION. The gallery sequencer (chapter 7): the rows of its ops, each one op of one context. -/

namespace Sys2Proof.Machine

/-- OP_END (R179). -/
def execOpEnd (g : Fin 8) (x : Fin 64) (s : State) : Host.Outcome State Fault Refusal := .next (s.opEnd g x)

/-- OP_CMD (R149, R179). -/
def execOpCmd (g : Fin 8) (b : ByteIn) (s : State) : Host.Outcome State Fault Refusal := .next (s.opCmd g b.ctx b.mismatch)

/-- OP_ADDR (R149, R180, R183). -/
def execOpAddr (g : Fin 8) (a : CycleIn) (s : State) : Host.Outcome State Fault Refusal := .next (s.opAddr g a.ctx a.mismatches)

/-- OP_DIN (R149, R179, R181). -/
def execOpDin (g : Fin 8) (x : Fin 64) (r : DinRun) (s : State) : Host.Outcome State Fault Refusal := .next (s.opDin g x r none)

/-- OP_DOUT (R175, R179, R181, R202). -/
def execOpDout (g : Fin 8) (x : Fin 64) (bytes : List Byte) (mismatches : Nat) (s : State) :
    Host.Outcome State Fault Refusal := .next (s.opDout g x bytes mismatches)

/-- OP_DINB (R149, R179). -/
def execOpDinb (g : Fin 8) (b : ByteIn) (s : State) : Host.Outcome State Fault Refusal := .next (s.opDinb g b.ctx b.mismatch)

/-- OP_DINV (R149, R194, R195, R260). -/
def execOpDinv (g : Fin 8) (b : ByteIn) (s : State) : Host.Outcome State Fault Refusal := .next (s.opDinv g b.ctx b.mismatch)

/-- OP_WAIT (R175, R179). -/
def execOpWait (g : Fin 8) (x : Fin 64) (s : State) : Host.Outcome State Fault Refusal := .next (s.opWait g x)

/-- OP_WAITP (R179, R192). -/
def execOpWaitp (g : Fin 8) (x : Fin 64) (s : State) : Host.Outcome State Fault Refusal := .next (s.opWaitp g x)

/-- OP_POLL (R149, R175, R179). -/
def execOpPoll (g : Fin 8) (x : Fin 64) (r : StatusIn) (s : State) : Host.Outcome State Fault Refusal := .next (s.opPoll g x r)

/-- OP_STAT (R149, R179). -/
def execOpStat (g : Fin 8) (x : Fin 64) (r : StatusIn) (s : State) : Host.Outcome State Fault Refusal := .next (s.opStat g x r)

/-- OP_BR (R179, R182). -/
def execOpBr (g : Fin 8) (x : Fin 64) (s : State) : Host.Outcome State Fault Refusal := .next (s.opBr g x)

/-- OP_SETL (R179, R182). -/
def execOpSetl (g : Fin 8) (x : Fin 64) (s : State) : Host.Outcome State Fault Refusal := .next (s.opSetl g x)

/-- OP_LOOP (R179). -/
def execOpLoop (g : Fin 8) (x : Fin 64) (s : State) : Host.Outcome State Fault Refusal := .next (s.opLoop g x)

/-- OP_SET (R179). -/
def execOpSet (g : Fin 8) (x : Fin 64) (s : State) : Host.Outcome State Fault Refusal := .next (s.opSet g x)

/-- OP_CALL (R179, R186). -/
def execOpCall (g : Fin 8) (x : Fin 64) (s : State) : Host.Outcome State Fault Refusal := .next (s.opCall g x)

end Sys2Proof.Machine
end

