-- ==== Sys2Proof/Machine/Operating.lean ====
section
/-! DEFINITION. The lines that operate the device: `run`, `stop`, `reset`, `sleep`, `lock` and `unlock` (R117, R132 to R136, R138, R202,
R203). -/

namespace Sys2Proof.Machine

/-! ## run test (R117) -/

/-- `run test` is accepted: on a master while CC.EN is 0, on a subordinate while its master is in `test`. -/
def State.testAllowed (s : State) : Bool := s.isSt .service && (if s.isMaster then !s.front.en else s.teth.masterState == 2)

/-- `run test`. -/
def State.doRunTest (s : State) (c : LineCtx) (j : Option Nat) : State :=
  s.checked c j [(!s.testAllowed, err .state [])] fun t => (t.enter .test).finishLine c j [] (ok [])

/-- RUN_TEST (R117, R133). -/
def execRunTest (l : LineCtx) (s : State) : Host.Outcome State Fault Refusal :=
  .next (s.lineRow l (.runTest l) fun j t => t.doRunTest l j)

/-! ## run op (R132, R202, R203) -/

/-- The context of a `run op`: plane slot 0 of its chamber. -/
def runCtx (ch : Fin 128) : Fin 64 := ⟨4 * (chIn ch).val, by omega⟩

/-- What a raw operation does, by its slot's kind (R184). -/
def kindOp : Nat → OpKind
  | 1 => .read | 2 | 3 => .program | 4 => .erase | 5 => .reset | _ => .other

/-- The mode bit of a raw operation: the block's while it is open or closed in the table, else pSLC for kind 2. -/
def State.rawMode (s : State) (ch : Fin 128) (block kind : Nat) : Bool :=
  match (wptOf ((s.gals.get (galOf ch)).table (chIn ch)) block).map (fun (e : WptEntry) => e.st) with
  | some .openPslc => true
  | some .openNative => false
  | some .closed => (s.blk (ch.val * 65536 + block)).pslc
  | _ => kind == 2

/-- The operation a raw list is for the scheduler and the write-pointer table. -/
def State.rawOp (s : State) (ch : Fin 128) (id kind block page : Nat) : GOp :=
  { id, ch := chIn ch, ctx := (runCtx ch).val, kind := kindOp kind, cls := 0, block, page, pages := s.listPages (galOf ch) kind, pslc := s.rawMode ch block kind
    running := true, need := .console }

/-- A gallery may take a raw list on a chamber: nothing runs there. -/
def State.chamberIdle (s : State) (ch : Fin 128) : Bool :=
  let x := s.gals.get (galOf ch)
  (x.ops.all fun (o : GOp) => !(o.running && o.ch == chIn ch)) && ((x.ctxGet (runCtx ch).val).st == .idle)

/-- A raw list that does not start: its outcome in its context, no cycle placed (R178). -/
def State.runOpRefuse (s : State) (ch : Fin 128) (list : Nat) (o : Outc) : State := s.gal (galOf ch) fun x => x.refuseList (runCtx ch).val list o

/-- The table refuses a raw list: trouble bit 13, the refusal counted, and the die never sees it. -/
def State.runOpOrder (s : State) (ch : Fin 128) (list : Nat) : State :=
  State.raise ((s.runOpRefuse ch list .order).gal (galOf ch) fun x => { x with orders := x.orders + 1 }) 13

/-- Start a raw list in its context. -/
def State.runOpStart (s : State) (c : LineCtx) (j : Option Nat) (ch : Fin 128) (list kind block page buf len : Nat) (force : Bool) : State :=
  let g := galOf ch
  let (id, s1) := s.newId
  let o := s1.rawOp ch id kind block page
  let s2 : State := (s1.endRun g (chIn ch)).gal g fun x => { x with ops := x.ops ++ [o] }
  let s3 : State := if kind = 1 then s2.countRead (ch.val * 65536 + block) 1 else s2
  let k : SeqCtx :=
    { blk := BitVec.ofNat 16 block, page := BitVec.ofNat 12 page, len := BitVec.ofNat 16 (len / 8), buf := BitVec.ofNat 25 (buf - 0x20000000)
      pslc := o.pslc, slot := list, st := .waiting, blk0 := block, page0 := page, force, console := true }
  let tainting := force && writeKind kind
  (s3.beginList g (runCtx ch) k).run ⟨c, .runOp g (runCtx ch) tainting, j⟩

/-- `run op` on a list that exists. R132 names no reply for a gallery that is not in service, a program or erase under the brown-out warning, and a
chamber with an operation running: `err state`, `err state supply` and `err busy` are DESIGN CHOICES (log entry 63). -/
def State.runOpList (s : State) (c : LineCtx) (j : Option Nat) (ch : Fin 128) (list kind block page buf len : Nat) (force : Bool) : State :=
  let x := s.gals.get (galOf ch)
  let guarded := writeKind kind && !force
  s.checked c j [(!x.inService, err .state [])] fun t0 =>
    if guarded && s.suspect ch then (t0.runOpRefuse ch list .suspect).finishLine c j [] (err .state [word "suspect"])
    else t0.checked c j [(writeKind kind && s.brownWarning, err .state [word "supply"]), (!s.chamberIdle ch || !s.mayRun ch, err .busy [])] fun t =>
      if guarded && !x.passes (t.rawOp ch 0 kind block page) then (t.runOpOrder ch list).finishLine c j [] (err .state [word "order"])
      else t.runOpStart c j ch list kind block page buf len force

/-- `run op`. -/
def State.doRunOp (s : State) (c : LineCtx) (j : Option Nat) (ch : Fin 128) (list block page buf len : Nat) (force : Bool) : State :=
  let x := s.gals.get (galOf ch)
  s.checked c j [(decide (list > 63), badKey "list" (.nat list)), (decide (buf < 0x20000000 ∨ buf ≥ 0x21800000 ∨ buf % 8 ≠ 0), badKey "buf" (.hex 4 buf)),
    (decide (len > 18432 ∨ len % 8 ≠ 0), badKey "len" (.nat len)), (!s.isSt .test, err .state []), (!s.chamberHere ch, err .absent []),
    (decide (block ≥ ((s.prof ch).map (·.blocks)).getD 0), badKey "block" (.nat block)),
    (decide (page ≥ ((s.prof ch).map fun (p : Profile) => max p.pagesNative p.pagesPslc).getD 0), badKey "page" (.nat page)),
    ((x.slots.getD list none).isNone, err .absent [natOf "list" list])] fun t =>
      t.runOpList c j ch list (x.kindOf list) block page buf len force

/-- RUN_OP (R132). -/
def execRunOp (l : LineCtx) (c : Fin 128) (list block page buf len : Nat) (force : Bool) (s : State) : Host.Outcome State Fault Refusal :=
  .next (s.lineRow l (.runOp l c list block page buf len force) fun j t => t.doRunOp l j c list block page buf len force)

/-! ## run train, run checkpoint, run patrol (R133) -/

/-- `run train`: the reply comes at the end of the training; a gallery already training or retraining has its line join it (R150). -/
def State.doRunTrain (s : State) (c : LineCtx) (j : Option Nat) (g : Fin 8) : State :=
  s.checked c j [((s.gals.get g).profile.isNone || !s.settings.galEnable.get g, err .state [])] fun t => (t.markRetrain g).run ⟨c, .train g, j⟩

/-- RUN_TRAIN (R133). -/
def execRunTrain (l : LineCtx) (g : Fin 8) (s : State) : Host.Outcome State Fault Refusal :=
  .next (s.lineRow l (.runTrain l g) fun j t => t.doRunTrain l j g)

/-- `run checkpoint`: the reply comes when it is committed. -/
def State.doRunCheckpoint (s : State) (c : LineCtx) (j : Option Nat) : State :=
  s.checked c j [(s.isSt .test || !s.mapUp, err .state [])] fun t =>
    State.run { t with map := { t.map with ckptWant := true } } ⟨c, .checkpoint, j⟩

/-- RUN_CHECKPOINT (R133). -/
def execRunCheckpoint (l : LineCtx) (s : State) : Host.Outcome State Fault Refusal :=
  .next (s.lineRow l (.runCheckpoint l) fun j t => t.doRunCheckpoint l j)

/-- A `stop` line that arrives while this line executes: recorded and answered at once; whether the request is registered (R92, R113, R134). -/
def State.stopWithin (s : State) (sc : LineCtx) : Bool × State :=
  match s.journalAdd (Path.num sc.path) (s.lineDev sc) (masked (lineText sc (.stop sc))) with
  | (none, t) => (false, t.reply sc [] (err .fault [word "journal"]))
  | (some j, t) => (true, t.finishLine sc (some j) [] (ok []))

/-- As `stopWithin` for a row that says whether one arrives. -/
def State.stopMaybe (s : State) : Option LineCtx → Bool × State
  | some sc => s.stopWithin sc
  | none => (false, s)

/-- One block of a console patrol, counted as a read of the block; the number of blocks over the limit so far. -/
def State.patrolOne (s : State) (table : List (Nat × Bool)) (n : Nat) (raw : Option (List Nat)) : Bool × State :=
  let s1 : State := match s.ofDevBlock n with | some k => s.countRead k 1 | none => s
  s1.patrolRead table n raw false

/-- The blocks of a console patrol in turn: how many are over the limit. -/
def State.patrolBlocks (s : State) (table : List (Nat × Bool)) : List (Nat × Option (List Nat)) → Nat × State
  | [] => (0, s)
  | x :: r =>
    let (hit, t) := s.patrolOne table x.1 x.2
    let (n, u) := State.patrolBlocks t table r
    (n + b2n hit, u)

/-- `run patrol`, in an operational state outside `test`: the sentinels of 1/32 of the closed blocks.  A `stop` ends it at the end of the block
that it reads, the last that the row gives (R134); with a chamber that is not free it is `err busy` (log entry 63). -/
def State.doRunPatrol (s : State) (c : LineCtx) (j : Option Nat) (raws : List (Option (List Nat))) (stop : Option LineCtx) : State :=
  s.checked c j [(s.isSt .test || !s.mapUp || decide (s.sys.ps.val > 2), err .state [])] fun t =>
    let table := t.patrolTableNow
    let all := patrolled table t.map.patrolPos (ceilDiv table.length 32)
    t.checked c j [(!(all.all fun n => (t.ofDevBlock n).all fun k => t.mayRun (chOfBlk k)), err .busy [])] fun t0 =>
    let (halt, t1) := t0.stopMaybe stop
    let ks := if halt then all.take (max 1 raws.length) else all
    let (n, u) := t1.patrolBlocks table (ks.zipIdx.map fun (x : Nat × Nat) => (x.1, raws.getD x.2 (some [])))
    let v : State := u.patrolMove ks
    State.finishLine { v with sys := { v.sys with lastPatrol := v.sys.life } } c j []
      (ok (if halt then [("stopped", .flag true), natOf "blocks" ks.length] else [natOf "blocks" ks.length, natOf "over" n]))

/-- RUN_PATROL (R133, R134). -/
def execRunPatrol (l : LineCtx) (r : PatrolRun) (s : State) : Host.Outcome State Fault Refusal :=
  .next (s.lineRow l (.runPatrol l r) fun j t => t.doRunPatrol l j r.raws r.stop)

/-! ## stop (R92, R134) -/

/-- A `stop` line does not wait: it executes at once, even while another line runs. -/
def State.stopRow (s : State) (c : LineCtx) (i : Instr) (text : List Byte) (act : Option Nat → State → State) : State :=
  if !s.consoleOn then s
  else s.execLine c text (recorded i) fun j t => if t.sys.rom then t.finishLine c j [] (err .state []) else act j t

/-- `stop`: a `move` or `fill` ends at its next descriptor boundary; every other line runs to its end. -/
def State.doStop (s : State) (c : LineCtx) (j : Option Nat) : State :=
  if !s.con.busy then s.finishLine c j [] (err .absent [])
  else match s.con.running with
    | some ⟨_, .dma n _, _⟩ => (s.dmaStop n).finishLine c j [] (ok [])
    | _ => s.finishLine c j [] (ok [])

/-- STOP (R134). -/
def execStop (l : LineCtx) (s : State) : Host.Outcome State Fault Refusal :=
  .next (s.stopRow l (.stop l) (lineText l (.stop l)) fun j t => t.doStop l j)

/-- Leaving `test`: galleries left off are enabled, background work resumes, and a checkpoint is taken before `service`. -/
def State.leaveTest (s : State) : State :=
  let s1 : State := (fins 8).foldl (fun (u : State) (g : Fin 8) => if u.settings.galEnable.get g then u else u.setNow (.galEnable g) (.flag true)) s
  { s1 with con := { s1.con with leaving := true }, map := { s1.map with ckptWant := true } }

/-- `stop test`: the reply follows the checkpoint. -/
def State.doStopTest (s : State) (c : LineCtx) (j : Option Nat) : State :=
  s.checked c j [(!s.isSt .test, err .state []), (s.con.stopping.isSome, err .busy [])] fun t =>
    let s1 : State := t.leaveTest
    { s1 with con := { s1.con with stopping := some ⟨c, .stopTest, j⟩ } }

/-- STOP_TEST (R134). -/
def execStopTest (l : LineCtx) (s : State) : Host.Outcome State Fault Refusal :=
  .next (s.stopRow l (.stopTest l) (lineText l (.stopTest l)) fun j t => t.doStopTest l j)

/-- `stop dma`: whoever started the channel. -/
def State.doStopDma (s : State) (c : LineCtx) (j : Option Nat) (n : Fin 8) : State := (s.dmaStop n).finishLine c j [] (ok [])

/-- STOP_DMA (R134). -/
def execStopDma (l : LineCtx) (n : Fin 8) (s : State) : Host.Outcome State Fault Refusal :=
  .next (s.stopRow l (.stopDma l n) (lineText l (.stopDma l n)) fun j t => t.doStopDma l j n)

/-! ## reset (R135) -/

/-- A unit runs again only once its training has ended: a gallery with a profile that is enabled, a port that may train. -/
def State.resetTrains (s : State) : UnitName → Bool
  | .gal g => (s.gals.get g).profile.isSome && s.settings.galEnable.get g
  | .tu => s.portOn .tu
  | .td => s.portOn .td
  | _ => false

/-- A level 4 reset of a unit: the reply comes when the unit is running again (R135). -/
def State.doUnitReset (s : State) (c : LineCtx) (j : Option Nat) (u : UnitName) : State :=
  match s.requestUnit u 7 with
  | (false, t) => t.finishLine c j [] (err .busy [word ("unit=" ++ u.word)])
  | (true, t) => if t.resetTrains u then t.run ⟨c, .reset u, j⟩ else t.finishLine c j [] (ok [])

/-- `reset`: for levels 0 to 3 the reply and the result byte come before the reset, and UART lines queued behind it are discarded. -/
def State.doReset (s : State) (c : LineCtx) (j : Option Nat) (level : Option Nat) (unit : Option UnitName) : State :=
  let l := level.getD 2
  if l > 4 then s.finishLine c j [] (badKey "level" (.nat l))
  else if unit = some .map ∨ unit = some .keeper then s.finishLine c j [] (err .unknown [word ("unit=" ++ (unit.map UnitName.word).getD "")])
  else if l < 4 then
    let s1 : State := s.finishLine c j [] (ok [])
    State.requestReset { s1 with con := { s1.con with queue := s1.con.queue.filter fun (q : QLine) => q.ctx.path != .uart } } 7 l
  else match unit with
    | none => s.finishLine c j [] (err .badForm [word "unit="])
    | some u => s.doUnitReset c j u

/-- CONSOLE_RESET (R135). -/
def execConsoleReset (l : LineCtx) (level : Option Nat) (unit : Option UnitName) (s : State) : Host.Outcome State Fault Refusal :=
  .next (s.lineRow l (.consoleReset l level unit) fun j t => t.doReset l j level unit)

/-! ## sleep (R136) -/

/-- `sleep`: PS3 or PS4 once R84 holds; the reply comes before the state is entered. -/
def State.doSleep (s : State) (c : LineCtx) (j : Option Nat) (ps : Option Nat) : State :=
  let p := ps.getD 4
  s.checked c j [(decide (p ≠ 3 ∧ p ≠ 4), badKey "ps" (.nat p)), (!s.isSt .service, err .state []), (s.isMaster && s.front.en, err .state [word "host"])] fun t =>
    (t.wantPs (if p = 3 then 3 else 4)).run ⟨c, .sleep, j⟩

/-- SLEEP (R136). -/
def execSleep (l : LineCtx) (ps : Option Nat) (s : State) : Host.Outcome State Fault Refusal :=
  .next (s.lineRow l (.sleep l ps) fun j t => t.doSleep l j ps)

/-! ## lock and unlock (R138, R525, R527) -/

/-- `lock` and `unlock` run in `service` and `test`. -/
def State.lockStates (s : State) : Bool := s.isSt .service || s.isSt .test

/-- A password's length is out of its range. -/
def badPassword (p : List Byte) : Bool := decide (p.length < 1 ∨ p.length > 32)

/-- `lock data`: takes effect once everything at the device has drained. -/
def State.doLock (s : State) (c : LineCtx) (j : Option Nat) (pw : Option (List Byte)) : State :=
  let set_ := pw.isSome
  s.checked c j [((pw.map badPassword).getD false, err .range [word "password"]), (!s.lockStates, err .state []),
    (set_ && s.vault.lock == .unlocked, err .state [word "password"]), (set_ && s.locked, err .locked []),
    (!set_ && s.vault.lock == .isOpen, err .state []), (s.vault.lockWait.isSome, err .busy [])] fun t =>
    if t.locked then t.finishLine c j [] (ok [])
    else
      let s1 : State := { t with vault := { t.vault with lockWait := some (.line c j pw) } }
      (s1.run ⟨c, .password, j⟩).lockTry

/-- LOCK_DATA (R138). -/
def execLockData (l : LineCtx) (pw : Option (List Byte)) (s : State) : Host.Outcome State Fault Refusal :=
  .next (s.lineRow l (.lockData l pw) fun j t => t.doLock l j pw)

/-- `unlock data`: the password is checked while data is locked, and has nothing to do otherwise. -/
def State.doUnlock (s : State) (c : LineCtx) (j : Option Nat) (pw : List Byte) : State :=
  s.checked c j [(badPassword pw, err .range [word "password"]), (!s.lockStates, err .state [])] fun t =>
    if t.locked then (t.beginCheck (.unlockLine c j) pw).run ⟨c, .password, j⟩ else t.finishLine c j [] (ok [])

/-- UNLOCK_DATA (R138). -/
def execUnlockData (l : LineCtx) (pw : List Byte) (s : State) : Host.Outcome State Fault Refusal :=
  .next (s.lineRow l (.unlockData l pw) fun j t => t.doUnlock l j pw)

end Sys2Proof.Machine
end

