-- ==== Sys2Proof/Machine/Reaching.lean ====
section
/-! DEFINITION. The lines that reach into memory (`rd`, `wr`, `move`, `fill`), the Assay lines and the firmware update lines (R111,
R129 to R131, R137, R139). -/

namespace Sys2Proof.Machine

/-! ## rd (R129) -/

/-- Read units one after the other as the user class: the units, and where and how the reading ended early. -/
def State.rdUnits (s : State) (w : Nat) : Nat → Nat → List Nat × Option (Acc × Nat) × State
  | 0, _ => ([], none, s)
  | n + 1, a =>
    let (o, v, t) := s.busRead .user 0 (a % 2 ^ 32) w
    if o = .done then
      let (vs, f, u) := State.rdUnits t w n (a + w)
      (v :: vs, f, u)
    else ([], some (o, a % 2 ^ 32), t)

/-- Continuation lines of up to eight units, each beginning with its first unit's address. -/
def unitLines (a w : Nat) (vs : List Nat) : List (List Pair) :=
  (List.range (ceilDiv vs.length 8)).map fun i =>
    ("", .hex 4 ((a + 8 * i * w) % 2 ^ 32)) :: ((vs.drop (8 * i)).take 8).map fun v => ("", .hex w v)

/-- The checks that `rd` and `wr` share. -/
def spanChecks (a w : Nat) : List (Bool × Status) :=
  [(!([1, 2, 4, 8].contains w), badKey "w" (.nat w)), (decide (a ≥ 2 ^ 32), badKey "addr" (.nat a)), (decide (a % w ≠ 0), err .range [word "addr"])]

/-- `rd`. -/
def State.doRd (s : State) (c : LineCtx) (j : Option Nat) (a n w : Nat) : State :=
  s.checked c j ((decide (n < 1 ∨ n > 64), badKey "n" (.nat n)) :: spanChecks a w) fun t =>
    let (vs, f, u) := t.rdUnits w n a
    u.finishLine c j (unitLines a w vs) (match f with | none => ok [] | some (o, b) => faultStatus o b [])

/-- RD (R129). -/
def execRd (l : LineCtx) (addr n w : Nat) (s : State) : Host.Outcome State Fault Refusal :=
  .next (s.lineRow l (.rd l addr n w) fun j t => t.doRd l j addr n w)

/-! ## wr (R130, R426) -/

/-- Write units one after the other as the user class: how many were written, and how the writing ended early. -/
def State.wrUnits (s : State) (w : Nat) : Nat → List Nat → Nat × Option (Acc × Nat) × State
  | _, [] => (0, none, s)
  | a, v :: r =>
    let (o, t) := s.busWrite .user 0 (a % 2 ^ 32) w v
    if o = .done then
      let (n, f, u) := State.wrUnits t w (a + w) r
      (n + 1, f, u)
    else (0, some (o, a % 2 ^ 32), t)

/-- The read back of the last unit, except within the register blocks; a poisoned word shows. -/
def State.readBack (s : State) (a w n : Nat) : Option (Acc × Nat) × State :=
  let last := (a + (n - 1) * w) % 2 ^ 32
  if 0x40000000 ≤ last ∧ last < 0x80000000 then (none, s)
  else
    let (o, _, t) := s.busRead .user 0 last w
    (if o = .done then none else some (o, last), t)

/-- The first value wider than a unit. -/
def wideVal (w : Nat) (ds : List Nat) : Option (Nat × Nat) := ds.zipIdx.find? fun (d : Nat × Nat) => decide (d.1 ≥ 2 ^ (8 * w))

/-- `wr`; a channel that its writes start runs its first descriptor. -/
def State.doWr (s : State) (c : LineCtx) (j : Option Nat) (a w : Nat) (ds : List Nat) : State :=
  s.checked c j ((decide (ds.length < 1 ∨ ds.length > 8), err .badForm [word "d0"]) :: spanChecks a w ++
    [((wideVal w ds).isSome, err .range [word ("d" ++ digit (Fin.ofNat 8 (((wideVal w ds).map (·.2)).getD 0)))])]) fun t =>
    let (n, f, u) := t.wrUnits w a ds
    match f with
    | some (o, b) => u.dmaKick.finishLine c j [] (faultStatus o b [natOf "done" n])
    | none =>
      let (g, v) := u.readBack a w n
      v.dmaKick.finishLine c j [] (match g with | none => ok [] | some (o, b) => faultStatus o b [natOf "done" n])

/-- WR (R130). -/
def execWr (l : LineCtx) (addr w : Nat) (ds : List Nat) (s : State) : Host.Outcome State Fault Refusal :=
  .next (s.lineRow l (.wr l addr w ds) fun j t => t.doWr l j addr w ds)

/-! ## move and fill (R131) -/

/-- A signed 32-bit value. -/
def in32 (x : Int) : Bool := decide (-2147483648 ≤ x ∧ x ≤ 2147483647)

/-- The word of a signed 32-bit value. -/
def word32 (x : Int) : Nat := (BitVec.ofInt 32 x).toNat

/-- Load a descriptor into the console's channel and run it as the user class; the line replies when the channel ends. -/
def State.runConsole (s : State) (c : LineCtx) (j : Option Nat) (fill : Bool) (pri : Nat) (ws : List Nat) : State :=
  let n := s.settings.dmaConsoleCh
  let s1 : State := ((s.loadDesc n ws).setRf (.dmaChCtl n) 2 2 pri).dmaStart n .user
  (s1.run ⟨c, .dma n fill, j⟩).dmaKick

/-- The checks that `move` and `fill` share. -/
def State.dmaChecks (s : State) (dst len : Nat) (pri : Option Nat) : List (Bool × Status) :=
  [(decide (dst ≥ 2 ^ 32), badKey "dst" (.nat dst)), (decide (len > 16777215), badKey "len" (.nat len)), (decide (pri.getD 0 > 3), badKey "pri" (.nat (pri.getD 0))),
   (s.dmaBusy s.settings.dmaConsoleCh, err .busy [])]

/-- `move`: an overlap is refused before anything is read unless it is one-dimensional and permitted. -/
def State.doMove (s : State) (c : LineCtx) (j : Option Nat) (src dst len lines : Nat) (ss ds : Option Int) (ovl : Bool) (pri : Option Nat) : State :=
  let x : Side := ⟨src, len, word32 (ss.getD len), lines⟩
  let y : Side := ⟨dst, len, word32 (ds.getD len), lines⟩
  s.checked c j ([(decide (src ≥ 2 ^ 32), badKey "src" (.nat src)), (decide (lines < 1 ∨ lines > 65535), badKey "lines" (.nat lines)),
    (!in32 (ss.getD 0), badKey "sstride" (.int (ss.getD 0))), (!in32 (ds.getD 0), badKey "dstride" (.int (ds.getD 0)))] ++ s.dmaChecks dst len pri) fun t =>
    if len = 0 then t.finishLine c j [] (ok [natOf "done" 0])
    else if overlapRefused x y ovl then t.finishLine c j [] (err .range [word "overlap"])
    else t.runConsole c j false (pri.getD t.settings.dmaConsolePri) [src, len, x.stride, lines, dst, len, y.stride, lines, 0, b2n ovl, 0, 0]

/-- MOVE (R131). -/
def execMove (l : LineCtx) (src dst len lines : Nat) (sstride dstride : Option Int) (ovl : Bool) (pri : Option Nat) (s : State) :
    Host.Outcome State Fault Refusal :=
  .next (s.lineRow l (.move l src dst len lines sstride dstride ovl pri) fun j t => t.doMove l j src dst len lines sstride dstride ovl pri)

/-- `fill`. -/
def State.doFill (s : State) (c : LineCtx) (j : Option Nat) (dst len : Nat) (pattern : BitVec 64) (pri : Option Nat) : State :=
  s.checked c j (s.dmaChecks dst len pri) fun t =>
    if len = 0 then t.finishLine c j [] (ok [natOf "done" 0])
    else t.runConsole c j true (pri.getD t.settings.dmaConsolePri) [0, 0, 0, 0, dst, len, len, 1, 0, 4, pattern.toNat % 2 ^ 32, pattern.toNat / 2 ^ 32]

/-- FILL (R131). -/
def execFill (l : LineCtx) (dst len : Nat) (pattern : BitVec 64) (pri : Option Nat) (s : State) : Host.Outcome State Fault Refusal :=
  .next (s.lineRow l (.fill l dst len pattern pri) fun j t => t.doFill l j dst len pattern pri)

/-! ## assay (R137) -/

/-- The checks that the lines naming a block share. -/
def State.assayChecks (s : State) (ch : Fin 128) (block : Nat) : List (Bool × Status) :=
  [(s.isSt .boot, err .state []), (!s.chamberHere ch, err .absent []), (decide (block ≥ ((s.prof ch).map (·.blocks)).getD 0), badKey "block" (.nat block))]

/-- A group's vector as it prints. -/
def State.groupPairs (s : State) (ch : Fin 128) (q : Nat) : List Pair :=
  [natOf "group" q, ("cells", .word (if ((s.prof ch).map (·.qlc)).getD false then "qlc" else "tlc"))] ++ (s.ofs ch q).vec.map fun v => ("", .int v)

/-- `assay offsets`: a group never searched shows no age. -/
def State.doAssayOffsets (s : State) (c : LineCtx) (j : Option Nat) (ch : Fin 128) (block : Nat) : State :=
  s.checked c j (s.assayChecks ch block) fun t =>
    let r := t.ofs ch (block / 64)
    t.finishLine c j [] (ok (t.groupPairs ch (block / 64) ++
      [("age_s", if r.searched then .nat ((t.sys.life + 2 ^ 32 - r.secs) % 2 ^ 32) else .word "none"), ("temp_c", .int r.temp)]))

/-- ASSAY_OFFSETS (R137). -/
def execAssayOffsets (l : LineCtx) (c : Fin 128) (block : Nat) (s : State) : Host.Outcome State Fault Refusal :=
  .next (s.lineRow l (.assayOffsets l c block) fun j t => t.doAssayOffsets l j c block)

/-- `assay sensors`. -/
def State.doAssaySensors (s : State) (c : LineCtx) (j : Option Nat) : State :=
  s.checked c j [(s.isSt .boot, err .state [])] fun t =>
    t.finishLine c j [[("die_c", .int (wholeC t.assay.dieQ))], t.populated.map fun (ch : Fin 128) => ("temp_c", .int (t.chamberTemp ch).1),
      [natOf "vddc_mv" (t.assay.railMv.toList.getD 2 0), natOf "ctl_mw" t.assay.ctlMw, natOf "isns_ma" t.assay.isnsMa]] (ok [])

/-- ASSAY_SENSORS (R137). -/
def execAssaySensors (l : LineCtx) (s : State) : Host.Outcome State Fault Refusal :=
  .next (s.lineRow l (.assaySensors l) fun j t => t.doAssaySensors l j)

/-- `assay sentinel`: a closed block's sentinel is read through slot 20, which counts as a read of the block; a sealed block holds none.  A read
that times out has no flips to print, and a chamber that is not free is `err busy` (log entry 63). -/
def State.doAssaySentinel (s : State) (c : LineCtx) (j : Option Nat) (ch : Fin 128) (block : Nat) (raw : Option (List Nat)) : State :=
  let k := ch.val * 65536 + block
  s.checked c j (s.assayChecks ch block ++ [((s.blk k).st != .closed, err .state [word "open"]), ((s.blk k).sealed, err .state [word "sealed"]), (!s.mayRun ch, err .busy [])]) fun t =>
    match (t.countRead k 1).sentinelRead k (t.pagesOf k - 1) (t.blk k).pslc raw with
    | (some n, u) => u.finishLine c j [] (ok [natOf "flips" n])
    | (none, u) => u.finishLine c j [] (err .timeout [])

/-- ASSAY_SENTINEL (R137, R215). -/
def execAssaySentinel (l : LineCtx) (c : Fin 128) (block : Nat) (raw : Option (List Nat)) (s : State) : Host.Outcome State Fault Refusal :=
  .next (s.lineRow l (.assaySentinel l c block raw) fun j t => t.doAssaySentinel l j c block raw)

/-- `assay search`: a valley search on the block's group now; with no closed native block there it has no sample, and a trial that was not
answered ends it; a chamber that is not free is `err busy` (log entry 63).  A `stop` ends it at the end of the group, which is its whole run (R134; what `blocks` then counts, log entry 63). -/
def State.doAssaySearch (s : State) (c : LineCtx) (j : Option Nat) (ch : Fin 128) (block : Nat) (trials : TrialRun)
    (refs : List RefRead) (stop : Option LineCtx) : State :=
  let q := block / 64
  s.checked c j (s.assayChecks ch block ++ [(!s.hook26 ch, err .state [word "hook"]), ((s.sampleBlock ch q).isNone, err .state [word "open"]), (!s.mayRun ch, err .busy [])]) fun t =>
    let (halt, t1) := t.stopMaybe stop
    let (good, u) := t1.search ch q trials refs
    if !good then u.finishLine c j [] (err .timeout [])
    else u.finishLine c j [] (ok (if halt then [("stopped", .flag true), natOf "blocks" 64] else u.groupPairs ch q))

/-- ASSAY_SEARCH (R134, R137). -/
def execAssaySearch (l : LineCtx) (c : Fin 128) (block : Nat) (r : SearchRun) (s : State) : Host.Outcome State Fault Refusal :=
  .next (s.lineRow l (.assaySearch l c block r) fun j t => t.doAssaySearch l j c block r.trials r.refs r.stop)

/-- `assay reset`: every group of the chamber back to the profile's defaults. -/
def State.doAssayReset (s : State) (c : LineCtx) (j : Option Nat) (ch : Fin 128) : State :=
  s.checked c j (s.assayChecks ch 0) fun t =>
    let n := ((t.prof ch).map fun (p : Profile) => ceilDiv p.blocks 64).getD 0
    State.finishLine { t with assay := { t.assay with ofs := Store.drop (fun (k : Nat) => k / 1024 == ch.val) t.assay.ofs } } c j [] (ok [natOf "groups" n])

/-- ASSAY_RESET (R137). -/
def execAssayReset (l : LineCtx) (c : Fin 128) (s : State) : Host.Outcome State Fault Refusal :=
  .next (s.lineRow l (.assayReset l c) fun j t => t.doAssayReset l j c)

/-! ## update (R139, R514) -/

/-- Where the next piece in a twin must begin. -/
def BootStore.pieceAt (b : BootStore) (t : Twin) : Nat := if b.stagedTwin = some t then b.staged else 0

/-- `update piece`. -/
def State.doUpdatePiece (s : State) (c : LineCtx) (j : Option Nat) (twin : Twin) (src off len : Nat) : State :=
  s.checked c j [(decide (src ≥ 2 ^ 32), badKey "src" (.nat src)), (decide (off % 4096 ≠ 0), err .range [word "off"]),
    (decide (len % 4096 ≠ 0 ∨ len > 2 ^ 20), err .range [word "len"]), (decide (off + len > 1572864), err .range [word "off"]),
    (s.isSt .boot, err .state []), (twin == s.bst.active, err .state [word "active"]), (decide (off ≠ 0 ∧ off ≠ s.bst.pieceAt twin), err .range [word "off"])] fun t =>
    match t.readSpan (cutUp len src len) with
    | (some (o, a), _, u) => u.finishLine c j [] (faultStatus o a [])
    | (none, m, u) => match u.stagePiece off m with
      | (true, v) => v.finishLine c j [] (ok [])
      | (false, v) => v.finishLine c j [] (err .fault [word "bst"])

/-- UPDATE_PIECE (R139). -/
def execUpdatePiece (l : LineCtx) (twin : Twin) (src off len : Nat) (s : State) : Host.Outcome State Fault Refusal :=
  .next (s.lineRow l (.updatePiece l twin src off len) fun j t => t.doUpdatePiece l j twin src off len)

/-- `update commit`: the swap record, and with `act=now` a level 2 reset after the `ok`. -/
def State.doUpdateCommit (s : State) (c : LineCtx) (j : Option Nat) (twin : Twin) (now sigOk : Bool) : State :=
  s.checked c j [(s.isSt .boot, err .state []), (twin == s.bst.active, err .state [word "active"]), (!sigOk, err .fault [word "signature"])] fun t =>
    let s1 : State := (t.swapPend twin false).finishLine c j [] (ok [])
    if now then s1.requestReset 7 2 else s1

/-- UPDATE_COMMIT (R139). -/
def execUpdateCommit (l : LineCtx) (twin : Twin) (now sigOk : Bool) (s : State) : Host.Outcome State Fault Refusal :=
  .next (s.lineRow l (.updateCommit l twin now sigOk) fun j t => t.doUpdateCommit l j twin now sigOk)

/-- `update status`. -/
def State.doUpdateStatus (s : State) (c : LineCtx) (j : Option Nat) : State :=
  s.finishLine c j [] (ok ([("active", .word s.bst.active.word)] ++
    (match s.bst.pendingSwap with | some r => [("committed", .word r.twin.word)] | none => []) ++ [natOf "staged" s.bst.staged]))

/-- UPDATE_STATUS (R139). -/
def execUpdateStatus (l : LineCtx) (s : State) : Host.Outcome State Fault Refusal :=
  .next (s.lineRow l (.updateStatus l) fun j t => t.doUpdateStatus l j)

end Sys2Proof.Machine
end

