-- ==== Sys2Proof/Machine/Operands.lean ====
section
/-! DEFINITION. The words of a console line (R95, R97 to R101): tag, CRC, target prefix, words and quotes, shortened words, and the kinds
of value. -/

namespace Sys2Proof.Machine

/-! ## Characters -/

/-- A decimal digit. -/
def isDigit (b : Byte) : Bool := decide (48 ≤ b.toNat ∧ b.toNat ≤ 57)

/-- The value of a hexadecimal digit of either case. -/
def hexValue (b : Byte) : Option Nat :=
  let n := b.toNat
  if 48 ≤ n ∧ n ≤ 57 then some (n - 48) else if 65 ≤ n ∧ n ≤ 70 then some (n - 55) else if 97 ≤ n ∧ n ≤ 102 then some (n - 87) else none

/-- Characters as a string. -/
def ofChars (l : List Byte) : String := String.ofList (l.map fun (b : Byte) => Char.ofNat b.toNat)

/-- A line of spaces only, or an empty one (R94). -/
def blankLine (l : List Byte) : Bool := l.all fun (b : Byte) => b == 32

/-- An error whose detail is a token as it was given (R103). -/
def tokErr (c : ErrCode) (t : List Byte) : Status := err c [("", .chars t)]

/-! ## Tag, CRC and target (R98 to R100) -/

/-- What a line says before its verb. -/
structure Heard where
  tag : Option String := none
  target : Option (Fin 4) := none
  rest : List Byte
  deriving DecidableEq, Repr

/-- The target prefix of a line's body; any other word that begins `#` is malformed. -/
def hearTarget (tag : Option String) (body : List Byte) : Except (Option String × Status) Heard :=
  let b := body.dropWhile fun (c : Byte) => c == 32
  if b.head? = some 35 then
    let (w, r) := takeWord false b
    match w with
    | [_, d] => if h : 48 ≤ d.toNat ∧ d.toNat ≤ 51 then .ok { tag, target := some ⟨d.toNat - 48, by omega⟩, rest := r } else .error (tag, tokErr .badForm w)
    | _ => .error (tag, tokErr .badForm w)
  else .ok { tag, rest := b }

/-- The CRC suffix of a line: its value, and the characters it covers. -/
def crcSuffix (text : List Byte) : Option (Nat × List Byte) :=
  match text.drop (text.length - 4) with
  | [a, b, c, d] => if a = 32 ∧ b = 42 then
      match hexValue c, hexValue d with
      | some x, some y => some (16 * x + y, text.take (text.length - 4))
      | _, _ => none
    else none
  | _ => none

/-- A line's tag, with its CRC checked, and its target; an error with the tag its reply carries. -/
def hear (text : List Byte) : Except (Option String × Status) Heard :=
  if text.head? ≠ some 64 then hearTarget none text
  else
    let ds := (text.drop 1).takeWhile isDigit
    if 1 ≤ ds.length ∧ ds.length ≤ 4 ∧ (text.drop (1 + ds.length)).head? = some 32 then
      let tag := some (ofChars ds)
      match crcSuffix text with
      | none => hearTarget tag (text.drop (2 + ds.length))
      | some (v, t) => if crc8 (t.map (·.toNat)) = v then hearTarget tag (t.drop (2 + ds.length)) else .error (tag, err .crc [])
    else .error (none, err .badForm [word "tag"])

/-- The tag that the replies to a line carry. -/
def tagOf (text : List Byte) : Option String :=
  match hear text with
  | .ok h => h.tag
  | .error e => e.1

/-! ## Words (R95, R97) -/

/-- Cut a line at runs of spaces outside quotes; with a quote not closed, the word it stands in. -/
def cutWords (q : Bool) (cur : List Byte) : List Byte → Except (List Byte) (List (List Byte))
  | [] => if q then .error cur else .ok (if cur.isEmpty then [] else [cur])
  | b :: r =>
    if b = 32 ∧ !q then
      match cutWords false [] r with
      | .ok ws => .ok (if cur.isEmpty then ws else cur :: ws)
      | .error e => .error e
    else cutWords (if b = 34 then !q else q) (cur ++ [b]) r

/-- The candidate that a word names: in full in any case, or, typed, by a prefix of three characters or more that only one begins with. -/
def pickWord {α : Type} (typed : Bool) (shown tok : List Byte) (cands : List (String × α)) : Except Status α :=
  let t := tok.map lower
  match cands.find? fun (x : String × α) => asc x.1 == t with
  | some x => .ok x.2
  | none =>
    if typed && decide (3 ≤ t.length) then
      match cands.filter fun (x : String × α) => t.isPrefixOf (asc x.1) with
      | [] => .error (tokErr .unknown shown)
      | [x] => .ok x.2
      | l => .error (err .ambiguous (("", .chars shown) :: (l.take 4).map fun (x : String × α) => word x.1))
    else .error (tokErr .unknown shown)

/-- Words that stand for themselves. -/
def selves (l : List String) : List (String × String) := l.map fun w => (w, w)

/-! ## Setting names (R97, R108, R140) -/

/-- The groups. -/
def allGroups : List Group := [.host, .gal, .cdc, .map, .assay, .gov, .teth, .con, .patrol, .mpu, .dma, .alarm]

/-- The gallery component of a name: `all` stands for every gallery. -/
def galPart (t : List Byte) : Option (List (Fin 8)) :=
  if t.map lower = asc "all" then some (fins 8)
  else ((fins 8).find? fun (g : Fin 8) => asc (digit g) == t).map fun (g : Fin 8) => [g]

/-- The settings a dotted name stands for. -/
def settingsNamed (typed : Bool) (tok : List Byte) : Except Status (List Setting) :=
  match tok.splitOn 46 with
  | [] => .error (tokErr .unknown tok)
  | g :: r =>
    match pickWord typed tok g (allGroups.map fun (x : Group) => (x.word, x)) with
    | .error e => .error e
    | .ok grp =>
      match decide (grp = .gal), r with
      | false, [x] => (pickWord typed tok x ((allSettings.filter fun (y : Setting) => y.group == grp).map fun (y : Setting) => (y.leaf, y))).map fun y => [y]
      | true, [i, x] => match galPart i with
        | none => .error (tokErr .unknown tok)
        | some gs => (pickWord typed tok x [("rate", Setting.galRate), ("enable", Setting.galEnable)]).map fun f => gs.map f
      | _, _ => .error (tokErr .unknown tok)

/-! ## Values (R101, R119) -/

/-- Decimal digits. -/
def decNum (l : List Byte) : Option Nat :=
  if l.isEmpty || !l.all isDigit then none else some (l.foldl (fun (a : Nat) (b : Byte) => 10 * a + (b.toNat - 48)) 0)

/-- Hexadecimal digits, underscores ignored. -/
def hexNum (l : List Byte) : Option Nat :=
  let ds := l.filter fun (b : Byte) => b != 95
  if ds.isEmpty then none
  else ds.foldl (fun (a : Option Nat) (b : Byte) => match a, hexValue b with | some n, some d => some (16 * n + d) | _, _ => none) (some 0)

/-- A number without its sign. -/
def magnitude (l : List Byte) : Option Nat := if l.take 2 = [48, 120] then hexNum (l.drop 2) else decNum l

/-- An unsigned integer: at most 64 bits; a negative one lies outside its field. -/
def natVal (l : List Byte) : Except ErrCode Nat :=
  let neg := l.head? = some 45
  match magnitude (if neg then l.drop 1 else l) with
  | none => .error .badForm
  | some n => if neg ∨ n ≥ 2 ^ 64 then .error .range else .ok n

/-- A signed integer. -/
def intVal (l : List Byte) : Except ErrCode Int :=
  let neg := l.head? = some 45
  match magnitude (if neg then l.drop 1 else l) with
  | none => .error .badForm
  | some n => if n ≥ 2 ^ 64 then .error .range else .ok (if neg then -(n : Int) else n)

/-- A size: an integer, or one followed by k, M or G. -/
def sizeVal (l : List Byte) : Except ErrCode Nat :=
  match ([(107, 2 ^ 10), (77, 2 ^ 20), (71, 2 ^ 30)] : List (Byte × Nat)).find? fun (x : Byte × Nat) => l.getLast? == some x.1 with
  | some x => (natVal l.dropLast).map fun n => n * x.2
  | none => natVal l

/-- A time in units of so many microseconds: an integer, or one followed by us, ms or s; it must be a whole number of the unit. -/
def timeVal (unitUs : Nat) (l : List Byte) : Except ErrCode Nat :=
  let ends (w : String) : Bool := l.drop (l.length - w.length) == asc w
  let (n, us) := if ends "us" then (2, 1) else if ends "ms" then (2, 1000) else if ends "s" then (1, 1000000) else (0, unitUs)
  match natVal (l.take (l.length - n)) with
  | .error e => .error e
  | .ok x => if x * us % unitUs = 0 then .ok (x * us / unitUs) else .error .range

/-- A boolean. -/
def boolVal (l : List Byte) : Except ErrCode Bool :=
  if l = asc "on" ∨ l = asc "1" then .ok true else if l = asc "off" ∨ l = asc "0" then .ok false else .error .badForm

/-- A word of an enumeration, exactly as it stands there. -/
def wordVal {α : Type} (cands : List (String × α)) (l : List Byte) : Except ErrCode α :=
  match cands.find? fun (x : String × α) => asc x.1 == l with
  | some x => .ok x.2
  | none => if !l.isEmpty && l.all (fun (b : Byte) => isDigit b || decide (97 ≤ (lower b).toNat ∧ (lower b).toNat ≤ 122) || [46, 95, 45].contains b)
      then .error .range else .error .badForm

/-- Text, in quotes or without a space. -/
def textVal (l : List Byte) : Except ErrCode (List Byte) :=
  let inner := (l.drop 1).dropLast
  if l.head? = some 34 then (if 2 ≤ l.length ∧ l.getLast? = some 34 ∧ !inner.contains 34 then .ok inner else .error .badForm)
  else if l.contains 34 then .error .badForm
  else .ok l

/-- A number between bounds. -/
def within (lo hi : Nat) (l : List Byte) : Except ErrCode Nat :=
  match natVal l with
  | .error e => .error e
  | .ok n => if lo ≤ n ∧ n ≤ hi then .ok n else .error .range

/-- A number below a bound. -/
def finVal (n : Nat) (l : List Byte) : Except ErrCode (Fin n) :=
  match natVal l with
  | .error e => .error e
  | .ok x => if h : x < n then .ok ⟨x, h⟩ else .error .range

/-- A chamber: gallery.ce.lun, or its index. -/
def chamberVal (l : List Byte) : Except ErrCode (Fin 128) :=
  match l.splitOn 46 with
  | [g, c, u] => match decNum g, decNum c, decNum u with
    | some a, some b, some d => if h : a < 8 ∧ b < 8 ∧ d < 2 then .ok ⟨16 * a + 2 * b + d, by omega⟩ else .error .range
    | _, _, _ => .error .badForm
  | _ => finVal 128 l

/-! ## Keys (R100) -/

/-- The keys of a line: each key's word, its value, and the whole word as given. -/
abbrev Keys := List (String × List Byte × List Byte)

/-- Cut a word at its first `=`: a key, and its value. -/
def cutKey (w : List Byte) : Option (List Byte × List Byte) :=
  let k := w.takeWhile fun (b : Byte) => b != 61
  if k.isEmpty ∨ k.length = w.length then none else some (k, w.drop (k.length + 1))

/-- The keys of a line, each one of those the verb takes, and none twice. -/
def keyWords (typed : Bool) (cands : List String) : List String → List (List Byte) → Except Status Keys
  | _, [] => .ok []
  | seen, w :: r =>
    match cutKey w with
    | none => .error (tokErr .badForm w)
    | some (k, v) => match pickWord typed k k (selves cands) with
      | .error e => .error e
      | .ok key => if seen.contains key then .error (tokErr .badForm w)
        else (keyWords typed cands (key :: seen) r).map fun ks => (key, v, w) :: ks

/-- The value of a key that may be absent. -/
def Keys.opt {α : Type} (ks : Keys) (k : String) (f : List Byte → Except ErrCode α) : Except Status (Option α) :=
  match ks.find? fun (x : String × List Byte × List Byte) => x.1 == k with
  | none => .ok none
  | some x => match f x.2.1 with
    | .ok v => .ok (some v)
    | .error e => .error (tokErr e x.2.2)

/-- The value of a required key. -/
def Keys.req {α : Type} (ks : Keys) (k : String) (f : List Byte → Except ErrCode α) : Except Status α :=
  match ks.opt k f with
  | .error e => .error e
  | .ok (some v) => .ok v
  | .ok none => .error (err .badForm [word (k ++ "=")])

/-- The value of a key with a default. -/
def Keys.dflt {α : Type} (ks : Keys) (k : String) (f : List Byte → Except ErrCode α) (d : α) : Except Status α := (ks.opt k f).map fun v => v.getD d

end Sys2Proof.Machine
end

