-- ==== Sys2Proof/Machine/Parse.lean ====
section
/-! DEFINITION. What a line's text asks for (R97, R100, R101, R118, R140): its verb, object, keys and settings as a command, and the
action of each line. -/

namespace Sys2Proof.Machine

/-! ## What dies and images answer to a line of text (log entry 4) -/

/-- A command's reader: what a verb's keys say. -/
abbrev Reader := Keys → Except Status Instr

/-- What a sentinel reads raw, from the `k`th free value on: nothing where its read times out. -/
def State.freeRaw (s : State) (k : Nat) : Option (List Nat) :=
  if Config.freeBool (s.free + k) then some ((List.range 4608).map fun (i : Nat) => (Config.freeByte (s.free + k + i)).toNat) else none

/-- How many free values a line of text may read. -/
def State.answers (s : State) : Nat := 256 + 4608 * (ceilDiv s.patrolTableNow.length 32 + 1024)

/-- What the trials of a search read raw, one for each step of each boundary and up to four pages: a trial that times out is not there. -/
def State.searchAnswers (s : State) : TrialRun := TrialRun.mk (moved := Config.freeBool (s.free + 4608 * 964)) <|
  (List.range 16).flatMap fun (j : Nat) => (List.range 15).filterMap fun (d : Nat) =>
    ((List.range 4).mapM fun (p : Nat) => s.freeRaw (4608 * (4 * (15 * j + d) + p))).map fun ps => (j, Int.ofNat d - 7, ps)

/-- What the reads of a search's references give. -/
def State.searchRefs (s : State) : List RefRead := (List.range 3).map fun (p : Nat) =>
  let k := 4608 * (960 + p)
  match s.freeRaw k with
  | some cw => .read cw (Config.freeNat (s.free + k) % 296)
  | none => if Config.freeBool (s.free + k + 1) then .failed else .timedOut

/-! ## Objects -/

/-- A verb that takes an object: each with the keys it takes. -/
def withObject (typed : Bool) (v : Verb) (tbl : List (String × List String × Reader)) : List (List Byte) → Except Status Instr
  | [] => .error (err .badForm [word v.word])
  | w :: r =>
    if w.contains 61 then .error (err .badForm [word v.word])
    else match pickWord typed w w tbl with
      | .error e => .error e
      | .ok (keys, f) => match keyWords typed keys [] r with
        | .error e => .error e
        | .ok ks => f ks

/-- A verb that takes keys alone. -/
def withKeys (typed : Bool) (keys : List String) (f : Reader) (ws : List (List Byte)) : Except Status Instr :=
  match ws with
  | w :: _ => if w.contains 61 then (keyWords typed keys [] ws).bind f else .error (tokErr .unknown w)
  | [] => f []

/-- An object with no keys. -/
def bare (name : String) (i : Instr) : String × List String × Reader := (name, [], fun _ => .ok i)

/-! ## set and get (R122, R125, R140) -/

/-- The value given to a setting. -/
def settingVal (x : Setting) (v : List Byte) : Except ErrCode SetVal :=
  let num (r : Except ErrCode Nat) : Except ErrCode SetVal := r.map SetVal.num
  match x with
  | .hostReadahead | .tethStripe => num (sizeVal v)
  | .hostApstPs3 | .hostApstPs4 | .assayIdle => num (timeVal 1000 v)
  | .patrolInterval => num (timeVal 3600000000 v)
  | .mapRdDisturb => if v = asc "profile" then .ok .profile else num (natVal v)
  | .galRate _ => num (natVal v)
  | x => if x.bounds.isSome then num (natVal v) else (boolVal v).map SetVal.flag

/-- A gallery whose rate a pair names has no profile; `err state` is then the answer. -/
def State.noRate (s : State) (xs : List Setting) : Bool :=
  xs.any fun (x : Setting) => match x with | .galRate g => (s.gals.get g).profile.isNone | _ => false

/-- The pairs of a `set`. -/
def State.setWords (s : State) (typed : Bool) : List Setting → List (List Byte) → Except Status (List (Setting × SetVal))
  | _, [] => .ok []
  | seen, w :: r =>
    match cutKey w with
    | none => .error (tokErr .badForm w)
    | some (k, v) => match settingsNamed typed k with
      | .error e => .error e
      | .ok xs =>
        if xs.any fun (x : Setting) => seen.contains x then .error (tokErr .badForm w)
        else match settingVal (xs.headD .conEcho) v with
          | .error e => .error (tokErr e w)
          | .ok y =>
            if !s.noRate xs && !(xs.all fun (x : Setting) => s.setInRange x y) then .error (tokErr .range w)
            else (s.setWords typed (seen ++ xs) r).map fun l => xs.map (fun (x : Setting) => (x, y)) ++ l

/-- What a `get` asks for: one object, or setting names. -/
def getWords (typed : Bool) (l : LineCtx) (ws : List (List Byte)) : Except Status Instr :=
  let names : Except Status Instr := (ws.mapM fun (w : List Byte) => settingsNamed typed w).map fun xs => .get l (.names xs.flatten)
  match ws with
  | [] => .error (err .badForm [word "get"])
  | [w] => if w.contains 46 then names
    else (pickWord typed w w [("strap", GetWhat.strap), ("state", .state), ("cause", .cause), ("trouble", .trouble), ("lifetime", .lifetime)]).map fun x => .get l x
  | _ => names

/-- What `help` is asked about. -/
def helpWords (typed : Bool) (l : LineCtx) : List (List Byte) → Except Status Instr
  | [] => .ok (.help l .none)
  | [w] => if w.contains 46 then
      match settingsNamed typed w with
      | .ok [x] => .ok (.help l (.setting x))
      | .ok _ => .error (tokErr .unknown w)
      | .error e => .error e
    else (pickWord typed w w (allVerbs.map fun (v : Verb) => (v.word, v))).map fun v => .help l (.verb v)
  | _ :: w :: _ => .error (tokErr .unknown w)

/-! ## The verbs' tables (R118) -/

/-- The words of `unit=` (R135). -/
def unitWords : List (String × UnitName) :=
  let us := (fins 8).map UnitName.gal ++ (fins 8).map UnitName.hard ++ (fins 2).map UnitName.soft ++ (fins 8).map UnitName.dma ++ [.tu, .td, .map, .keeper]
  us.map fun (u : UnitName) => (u.word, u)

/-- The words of `twin=`. -/
def twinWords : List (String × Twin) := [("a", .a), ("b", .b)]

/-- An address of the control address space. -/
def addrVal (l : List Byte) : Except ErrCode Nat := within 0 (2 ^ 32 - 1) l

/-- A size between bounds. -/
def sizeIn (hi : Nat) (l : List Byte) : Except ErrCode Nat :=
  match sizeVal l with
  | .error e => .error e
  | .ok n => if n ≤ hi then .ok n else .error .range

/-- A width of `rd` or `wr`. -/
def widthVal (l : List Byte) : Except ErrCode Nat :=
  match natVal l with
  | .error e => .error e
  | .ok n => if [1, 2, 4, 8].contains n then .ok n else .error .range

/-- A stride. -/
def strideVal (l : List Byte) : Except ErrCode Int :=
  match intVal l with
  | .error e => .error e
  | .ok n => if in32 n then .ok n else .error .range

/-- `gal=`: a gallery, or every one. -/
def galVal (l : List Byte) : Except ErrCode (Option (Fin 8)) := if l = asc "all" then .ok none else (finVal 8 l).map some

/-- `force=`. -/
def forceVal (l : List Byte) : Except ErrCode Bool :=
  match boolVal l with
  | .ok b => .ok b
  | .error _ => (within 0 1 l).map fun n => n == 1

/-- The keys d0 to d7 of a `wr`: without a gap, none wider than a unit. -/
def dataKeys (ks : Keys) (w : Nat) : Except Status (List Nat) :=
  let names := (fins 8).map fun (i : Fin 8) => "d" ++ digit i
  let here := names.map fun n => ks.any fun (x : String × List Byte × List Byte) => x.1 == n
  let n := (here.takeWhile id).length
  if n = 0 ∨ here.countP id ≠ n then .error (err .badForm [word ("d" ++ digit (Fin.ofNat 8 n) ++ "=")])
  else (names.take n).mapM fun k => ks.req k (within 0 (2 ^ (8 * w) - 1))

/-- `show`. -/
def showTable (l : LineCtx) : List (String × List String × Reader) :=
  [bare "status" (.show l .status), bare "health" (.show l .health),
    ("gallery", ["g"], fun ks => do let g ← ks.req "g" (finVal 8); return .show l (.gallery g)),
    ("chamber", ["c"], fun ks => do let c ← ks.req "c" chamberVal; return .show l (.chamber c)),
    bare "power" (.show l .power), bare "chain" (.show l .chain),
    ("settings", ["group"], fun ks => do let g ← ks.opt "group" (wordVal (allGroups.map fun (x : Group) => (x.word, x))); return .show l (.settings g)),
    bare "profile" (.show l .profile), bare "namespaces" (.show l .namespaces), bare "version" (.show l .version)]

/-- `clear`; the bound of `cause bit=` is the model's (log entry 63). -/
def State.clearTable (s : State) (l : LineCtx) : List (String × List String × Reader) :=
  [("trouble", ["bit"], fun ks => do let b ← ks.opt "bit" (within 0 63); return .clearTrouble l b),
    ("cause", ["bit"], fun ks => do let b ← ks.opt "bit" (within 0 31); return .clearCause l b),
    ("suspect", ["c"], fun ks => do let c ← ks.req "c" chamberVal; return .clearSuspect l c (Config.freeBool s.free))]

/-- `load`. -/
def loadTable (l : LineCtx) : List (String × List String × Reader) :=
  [bare "settings" (.loadSettings l),
    ("profile", ["src", "len", "gal"], fun ks => do
      let a ← ks.req "src" addrVal; let n ← ks.req "len" sizeVal; let g ← ks.dflt "gal" galVal none
      return .loadProfile l a n g)]

/-- `run`. -/
def State.runTable (s : State) (l : LineCtx) : List (String × List String × Reader) :=
  [bare "test" (.runTest l),
    ("op", ["c", "list", "block", "page", "buf", "len", "force"], fun ks => do
      let c ← ks.req "c" chamberVal; let n ← ks.req "list" (within 0 63); let b ← ks.req "block" natVal; let p ← ks.req "page" natVal
      let a ← ks.req "buf" addrVal; let k ← ks.req "len" (sizeIn 18432); let f ← ks.dflt "force" forceVal false
      return .runOp l c n b p a k f),
    ("train", ["g"], fun ks => do let g ← ks.req "g" (finVal 8); return .runTrain l g),
    bare "checkpoint" (.runCheckpoint l),
    bare "patrol" (.runPatrol l ⟨(List.range (ceilDiv s.patrolTableNow.length 32)).map fun (i : Nat) => s.freeRaw (4608 * i), none⟩)]

/-- `assay`. -/
def State.assayTable (s : State) (l : LineCtx) : List (String × List String × Reader) :=
  let two (f : Fin 128 → Nat → Instr) : Reader := fun ks => do let c ← ks.req "c" chamberVal; let b ← ks.req "block" natVal; return f c b
  [("offsets", ["c", "block"], two (.assayOffsets l)), bare "sensors" (.assaySensors l),
    ("sentinel", ["c", "block"], two fun c b => .assaySentinel l c b (s.freeRaw 0)),
    ("search", ["c", "block"], two fun c b => .assaySearch l c b ⟨s.searchAnswers, s.searchRefs, none⟩),
    ("reset", ["c"], fun ks => do let c ← ks.req "c" chamberVal; return .assayReset l c)]

/-- `log`. -/
def logTable (l : LineCtx) : List (String × List String × Reader) :=
  [("journal", ["last", "from"], fun ks => do
      let n ← ks.opt "last" (within 0 4096); let f ← ks.opt "from" (within 0 (2 ^ 32 - 1)); return .logJournal l n f),
    bare "trouble" (.logTrouble l),
    ("alarm", ["last"], fun ks => do let n ← ks.opt "last" natVal; return .logAlarm l n),
    bare "temp" (.logTemp l)]

/-- `update`. -/
def State.updateTable (s : State) (l : LineCtx) : List (String × List String × Reader) :=
  [("piece", ["twin", "src", "off", "len"], fun ks => do
      let t ← ks.req "twin" (wordVal twinWords); let a ← ks.req "src" addrVal; let o ← ks.req "off" sizeVal; let n ← ks.req "len" sizeVal
      return .updatePiece l t a o n),
    ("commit", ["twin", "act"], fun ks => do
      let t ← ks.req "twin" (wordVal twinWords); let n ← ks.dflt "act" (wordVal [("next", false), ("now", true)]) false
      return .updateCommit l t n (Config.freeBool s.free)),
    bare "status" (.updateStatus l)]

/-- `rd`. -/
def rdKeys (l : LineCtx) : Reader := fun ks => do
  let a ← ks.req "addr" addrVal; let n ← ks.dflt "n" (within 1 64) 1; let w ← ks.dflt "w" widthVal 4
  return .rd l a n w

/-- `wr`. -/
def wrKeys (l : LineCtx) : Reader := fun ks => do
  let a ← ks.req "addr" addrVal; let w ← ks.dflt "w" widthVal 4; let ds ← dataKeys ks w
  return .wr l a w ds

/-- `move`. -/
def moveKeys (l : LineCtx) : Reader := fun ks => do
  let a ← ks.req "src" addrVal; let b ← ks.req "dst" addrVal; let n ← ks.req "len" (sizeIn 16777215); let k ← ks.dflt "lines" (within 1 65535) 1
  let x ← ks.opt "sstride" strideVal; let y ← ks.opt "dstride" strideVal; let o ← ks.dflt "ovl" boolVal false; let p ← ks.opt "pri" (within 0 3)
  return .move l a b n k x y o p

/-- `fill`. -/
def fillKeys (l : LineCtx) : Reader := fun ks => do
  let b ← ks.req "dst" addrVal; let n ← ks.req "len" (sizeIn 16777215); let v ← ks.dflt "pattern" natVal 0; let p ← ks.opt "pri" (within 0 3)
  return .fill l b n (BitVec.ofNat 64 v) p

/-- The command that a verb's words spell. -/
def State.verbWords (s : State) (typed : Bool) (l : LineCtx) (v : Verb) (ws : List (List Byte)) : Except Status Instr :=
  let obj (t : List (String × List String × Reader)) : Except Status Instr := withObject typed v t ws
  match v with
  | .show => obj (showTable l)
  | .get => getWords typed l ws
  | .set => (s.setWords typed [] ws).map fun ps => .set l ps
  | .clear => obj (s.clearTable l)
  | .save => obj [bare "settings" (.saveSettings l), bare "profile" (.saveProfile l)]
  | .load => obj (loadTable l)
  | .run => obj (s.runTable l)
  | .stop => if ws.isEmpty then .ok (.stop l)
    else obj [bare "test" (.stopTest l), ("dma", ["ch"], fun ks => do let n ← ks.req "ch" (finVal 8); return .stopDma l n)]
  | .reset => withKeys typed ["level", "unit"] (fun ks => do
      let n ← ks.opt "level" (within 0 4); let u ← ks.opt "unit" (wordVal unitWords); return .consoleReset l n u) ws
  | .sleep => withKeys typed ["ps"] (fun ks => do let p ← ks.opt "ps" (within 3 4); return .sleep l p) ws
  | .lock => obj [("data", ["password"], fun ks => do let p ← ks.opt "password" textVal; return .lockData l p)]
  | .unlock => obj [("data", ["password"], fun ks => do let p ← ks.req "password" textVal; return .unlockData l p)]
  | .rd => withKeys typed ["addr", "n", "w"] (rdKeys l) ws
  | .wr => withKeys typed ["addr", "w", "d0", "d1", "d2", "d3", "d4", "d5", "d6", "d7"] (wrKeys l) ws
  | .move => withKeys typed ["src", "dst", "len", "lines", "sstride", "dstride", "ovl", "pri"] (moveKeys l) ws
  | .fill => withKeys typed ["dst", "len", "pattern", "pri"] (fillKeys l) ws
  | .assay => obj (s.assayTable l)
  | .log => obj (logTable l)
  | .update => obj (s.updateTable l)
  | .help => helpWords typed l ws

/-- Whether the line is recorded (R112, R118): by its verb; `assay` where its object is one that writes, and `update` unless its object is `status`
(DEDUCED from R112 and R118 together; log entry 63). -/
def recordedVerb (typed : Bool) (v : Verb) (ws : List (List Byte)) : Bool :=
  let named (objs : List String) (rec : List String) : Bool := match pickWord typed (ws.headD []) (ws.headD []) (selves objs) with
    | .ok o => rec.contains o
    | .error _ => false
  match v with
  | .show | .get | .rd | .log | .help => false
  | .assay => named ["offsets", "sensors", "sentinel", "search", "reset"] ["search", "reset"]
  | .update => !named ["piece", "commit", "status"] ["status"]
  | _ => true

/-! ## The action of each line -/

/-- What a line does once it is recorded. -/
def lineAct (i : Instr) (c : LineCtx) (j : Option Nat) (s : State) : State :=
  match i with
  | .show _ o => s.doShow c j o
  | .get _ w => s.doGet c j w
  | .set _ ps => s.doSet c j ps
  | .clearTrouble _ b => s.doClearTrouble c j b
  | .clearCause _ b => s.doClearCause c j b
  | .clearSuspect _ ch b => s.doClearSuspect c j ch b
  | .saveSettings _ => s.doSaveSettings c j
  | .saveProfile _ => s.doSaveProfile c j
  | .loadSettings _ => s.doLoadSettings c j
  | .loadProfile _ a n g => s.doLoadProfile c j a n g
  | .runTest _ => s.doRunTest c j
  | .runOp _ ch n b p a k f => s.doRunOp c j ch n b p a k f
  | .runTrain _ g => s.doRunTrain c j g
  | .runCheckpoint _ => s.doRunCheckpoint c j
  | .runPatrol _ r => s.doRunPatrol c j r.raws r.stop
  | .stop _ => s.doStop c j
  | .stopTest _ => s.doStopTest c j
  | .stopDma _ n => s.doStopDma c j n
  | .consoleReset _ n u => s.doReset c j n u
  | .sleep _ p => s.doSleep c j p
  | .lockData _ p => s.doLock c j p
  | .unlockData _ p => s.doUnlock c j p
  | .rd _ a n w => s.doRd c j a n w
  | .wr _ a w ds => s.doWr c j a w ds
  | .move _ a b n k x y o p => s.doMove c j a b n k x y o p
  | .fill _ b n v p => s.doFill c j b n v p
  | .assayOffsets _ ch b => s.doAssayOffsets c j ch b
  | .assaySensors _ => s.doAssaySensors c j
  | .assaySentinel _ ch b n => s.doAssaySentinel c j ch b n
  | .assaySearch _ ch b r => s.doAssaySearch c j ch b r.trials r.refs r.stop
  | .assayReset _ ch => s.doAssayReset c j ch
  | .logJournal _ n f => s.doLogJournal c j n f
  | .logTrouble _ => s.doLogTrouble c j
  | .logAlarm _ n => s.doLogAlarm c j n
  | .logTemp _ => s.doLogTemp c j
  | .updatePiece _ t a o n => s.doUpdatePiece c j t a o n
  | .updateCommit _ t n b => s.doUpdateCommit c j t n b
  | .updateStatus _ => s.doUpdateStatus c j
  | .help _ t => s.doHelp c j t
  | _ => s

end Sys2Proof.Machine
end

