-- ==== Sys2Proof/Machine/Console.lean ====
section
/-! DEFINITION. The console (chapters 4 and 5): the UART receiver and its editing, the queues of lines, the interpreter, keep-alives,
routing over Tether, the tunnel's two commands, and the master's state order. -/

namespace Sys2Proof.Machine

/-! ## The interpreter (R92, R102, R106, R112, R113) -/

/-- Send a line toward its target (R106, R404): a port that is down leaves the target unreachable. -/
def State.route (s : State) (c : LineCtx) (d : Fin 4) (text : List Byte) : State :=
  if (s.teth.get (portToward s.index d.val)).st = .up then
    let tag := s.con.nextTag
    let s1 : State := { s with con := { s.con with nextTag := tag + 1, routed := s.con.routed ++ [⟨tag, c, d⟩] } }
    s1.tethSend 4 d tag text.length 0 (.line text)
  else s.reply c [] (err .absent [("", .chars (35 :: natText d.val))])

/-- Execute the words of a line whose verb is known. -/
def State.execVerb (s : State) (c : LineCtx) (text : List Byte) (v : Verb) (ws : List (List Byte)) : State :=
  let typed := c.tag.isNone
  let s1 : State := { s with free := s.free + s.answers }
  s1.execLine c text (recordedVerb typed v ws) fun j t =>
    match s.verbWords typed c v ws with
    | .error st => t.finishLine c j [] st
    | .ok i => if t.sys.rom && !(romVerb i && c.path == .uart) then t.finishLine c j [] (err .state []) else lineAct i c j t

/-- The words of a line whose last quote is not closed, that word among them. -/
def looseWords : Nat → List Byte → List (List Byte)
  | 0, _ => []
  | _, [] => []
  | f + 1, b :: r => if b = 32 then looseWords f r else let (w, t) := takeWord false (b :: r); w :: looseWords f t

/-- A line with a quote left open: it fails, and is recorded where its verb is (R95, R112). -/
def State.openQuote (s : State) (c : LineCtx) (text rest w : List Byte) : State :=
  let typed := c.tag.isNone
  match looseWords rest.length rest with
  | [] => s.reply c [] (tokErr .badForm w)
  | x :: ws => match pickWord typed x x (allVerbs.map fun (v : Verb) => (v.word, v)) with
    | .error _ => s.reply c [] (tokErr .badForm w)
    | .ok v => s.execLine c text (recordedVerb typed v ws) fun j t => t.finishLine c j [] (tokErr .badForm w)

/-- Execute a line of text: what fails before its verb is known is not recorded; a line for another device is sent on. -/
def State.execText (s : State) (c : LineCtx) (text : List Byte) : State :=
  match hear text with
  | .error (tag, st) => s.reply { c with tag } [] st
  | .ok h =>
    let c1 : LineCtx := { c with tag := h.tag }
    match h.target.filter fun d => d.val != s.index with
    | some d => s.route c1 d text
    | none => match cutWords false [] h.rest with
      | .error w => s.openQuote c1 text h.rest w
      | .ok [] => s.reply c1 [] (tokErr .badForm text)
      | .ok (w :: ws) => match pickWord h.tag.isNone w w (allVerbs.map fun (v : Verb) => (v.word, v)) with
        | .error st => s.reply c1 [] st
        | .ok v => s.execVerb c1 text v ws

/-- A line whose verb is `stop`, for whichever device, a quote left open after it or not: it does not wait (R92). -/
def isStop (text : List Byte) : Bool :=
  match hear text with
  | .error _ => false
  | .ok h =>
    let ws := match cutWords false [] h.rest with
      | .ok ws => ws
      | .error _ => looseWords h.rest.length h.rest
    match ws with
    | w :: _ => match pickWord h.tag.isNone w w (allVerbs.map fun (v : Verb) => (v.word, v)) with
      | .ok v => v == .stop
      | .error _ => false
    | [] => false

/-- A whole line arrives on a path. -/
def State.accept (s : State) (c : LineCtx) (text : List Byte) : State :=
  if !s.consoleOn || blankLine text then s
  else
    let c1 : LineCtx := { c with tag := tagOf text }
    if isStop text then s.execText c1 text else s.enqueue c1 text

/-- LINE_EXECUTE (R92, R102): the oldest line waiting, once none executes. -/
def execLineExecute (s : State) : Host.Outcome State Fault Refusal :=
  .next (if s.consoleOn && !s.con.busy then
      match s.con.queue with
      | q :: r => State.execText { s with con := { s.con with queue := r } } q.ctx q.text
      | [] => s
    else s)

/-! ## The UART (R91, R93, R94, R96, R98) -/

/-- Change what the receiver holds. -/
def State.uart (s : State) (f : Uart → Uart) : State := { s with con := { s.con with uart := f s.con.uart } }

/-- The line being assembled is in machine mode: it began with `@`. -/
def Uart.machine (u : Uart) : Bool := u.buf.head? == some 64

/-- Characters echoed, in typed mode with `con.echo` on. -/
def State.echo (s : State) (l : List Byte) : State := if s.settings.conEcho && !s.con.uart.machine then s.uartSend l else s

/-- Where the lines of the UART come from. -/
def State.uartCtx (s : State) (tag : Option String) : LineCtx := ⟨.uart, tag, dev s.index, 0⟩

/-- The terminator: an overrun or a long line is refused, an empty one gives a fresh prompt, and any other is complete. -/
def State.endLine (s : State) : State :=
  let u := s.con.uart
  let s1 : State := (s.echo [13, 10]).uart fun x => { lastCr := x.lastCr }
  if u.overrun then s1.reply (s1.uartCtx none) [] (err .badForm [word "overrun"])
  else if u.long then s1.reply (s1.uartCtx (tagOf u.buf)) [] (err .badForm [word "long"])
  else if blankLine u.buf then s1.uartSend s1.prompt
  else s1.accept (s1.uartCtx none) u.buf

/-- A character taken into the line. -/
def State.takeChar (s : State) (c : Byte) : State :=
  let u := s.con.uart
  if u.overrun || u.long then s
  else if u.buf.length ≥ 250 then s.uart fun x => { x with long := true }
  else (s.uart fun x => { x with buf := x.buf ++ [c] }).echo [c]

/-- BS or DEL: the last character taken goes. -/
def State.backspace (s : State) : State :=
  let u := s.con.uart
  if u.machine || u.buf.isEmpty || u.overrun then s
  else (s.uart fun x => { x with buf := x.buf.dropLast }).echo [8, 32, 8]

/-- NAK: the line so far goes. -/
def State.killLine (s : State) : State :=
  if s.con.uart.machine || s.con.uart.overrun then s
  else
    let s1 : State := s.uart fun _ => {}
    s1.echo ([13, 10] ++ s1.prompt)

/-- One character: a terminator, an edit key, a character of the line, or one that is ignored. -/
def State.rxChar (s : State) (c : Byte) : State :=
  let cr := s.con.uart.lastCr
  let s1 : State := s.uart fun u => { u with lastCr := c == 13 }
  if c = 10 ∧ cr then s1
  else if c = 13 ∨ c = 10 then s1.endLine
  else if c = 8 ∨ c = 0x7F then s1.backspace
  else if c = 0x15 then s1.killLine
  else if c = 9 then s1.takeChar 32
  else if 32 ≤ c.toNat ∧ c.toNat ≤ 126 then s1.takeChar c
  else s1

/-- UART_CHARACTER (R94). -/
def execUartCharacter (c : Byte) (s : State) : Host.Outcome State Fault Refusal := .next (if s.consoleOn then s.rxChar c else s)

/-- UART_OVERRUN (R94): the line being assembled is discarded, and its terminator answers. -/
def execUartOverrun (s : State) : Host.Outcome State Fault Refusal :=
  .next (if s.consoleOn then (s.uart fun u => { buf := [], overrun := true, lastCr := u.lastCr }).raise 44 else s)

/-- PARTIAL_LINE_TIMEOUT (R94): a partial line idle for 60 s is discarded without a reply. -/
def execPartialLineTimeout (s : State) : Host.Outcome State Fault Refusal :=
  .next (if s.consoleOn then s.uart fun u => { lastCr := u.lastCr } else s)

/-! ## Keep-alives (R104) -/

/-- The lines taken and not answered, in order: those that execute, those sent on to their target, then those that wait. -/
def Console.open_ (c : Console) : List LineCtx :=
  (c.running.toList ++ c.stopping.toList).map (fun (x : Running) => x.ctx) ++ c.routed.map (fun (r : Routed) => r.ctx) ++ c.queue.map fun (q : QLine) => q.ctx

/-- KEEP_ALIVE (R104): `.. busy` for every line of the path taken and not answered. -/
def execKeepAlive (p : Path) (s : State) : Host.Outcome State Fault Refusal :=
  .next (if s.consoleOn then
      (s.con.open_.filter fun (c : LineCtx) => c.path == p).foldl (fun (t : State) (c : LineCtx) =>
        State.sendLines { t with con := { t.con with keepAlives := t.con.keepAlives ++ [c] } } c [frameLine c.tag (asc ".. busy")]) s
    else s)

/-! ## Routed lines (R106, R404) -/

/-- A reply line's text, its tag apart. -/
def untagged (l : List Byte) : List Byte := if l.head? = some 64 then ((l.dropWhile fun (b : Byte) => b != 32).drop 1) else l

/-- A line begins with a word. -/
def begins (w : String) (l : List Byte) : Bool := (asc w).isPrefixOf l

/-- A reply line that is not the last. -/
def isMore (l : List Byte) : Bool := begins ".." (untagged l)

/-- A line that is a reply's, and no verb's. -/
def isReply (l : List Byte) : Bool := isMore l || begins "ok" (untagged l) || begins "err " (untagged l)

/-- A reply line comes back to the path its line came from. -/
def State.passReply (s : State) (r : Routed) (l : List Byte) : State :=
  let s1 : State := s.sendLines r.ctx [l]
  if isMore l then s1
  else
    let s2 : State := { s1 with con := { s1.con with routed := s1.con.routed.filter fun (x : Routed) => x.tag != r.tag } }
    if r.ctx.path = .uart then s2.uartSend s2.prompt else s2

/-- A console frame for this device: the answer to a line it sent, or a line to execute. -/
def State.consoleFrame (s : State) (f : FrameHdr) (l : List Byte) : State :=
  let mine := s.con.routed.find? fun (r : Routed) => r.tag == f.tag
  match isReply l, mine with
  | true, some r => s.passReply r l
  | true, none => if isMore l then s else s.fanAnswer f.tag l
  | false, _ => s.accept ⟨.tether, none, f.src, f.tag⟩ l

/-- A console frame for another device: sent on, or answered where the next port is down. -/
def State.consoleOn_ (s : State) (p : Port) (f : FrameHdr) (l : List Byte) : State :=
  let out := portToward s.index f.dst.val
  if out = p then s
  else if isReply l ∨ (s.teth.get out).st = .up then
    let x : Frame := { type := 4, dst := f.dst, src := f.src, seq := 0, tag := f.tag, index := f.index.toNat, arg := 0, body := .line l }
    { s with teth := s.teth.port out fun q => q.send x }
  else
    let a := frameLine (tagOf l) (asc "err absent #" ++ natText f.dst.val)
    s.tethSend 4 f.src f.tag a.length 0 (.line a)

/-- CONSOLE (R106, R404). -/
def execConsole (p : Port) (f : FrameHdr) (line : List Byte) (s : State) : Host.Outcome State Fault Refusal :=
  .next (s.rxSeqd p f 4 fun t => if f.dst.val = t.index then t.consoleFrame f line else t.consoleOn_ p f line)

/-- ROUTED_LINE_TIMEOUT (R106): 5 s without a keep-alive or a status line. -/
def execRoutedLineTimeout (tag : BitVec 16) (s : State) : Host.Outcome State Fault Refusal :=
  .next (match s.con.routed.find? fun (r : Routed) => r.tag == tag with
    | some r => State.reply { s with con := { s.con with routed := s.con.routed.filter fun (x : Routed) => x.tag != tag } } r.ctx [] (err .timeout [])
    | none => s)

/-! ## The tunnel (R75) -/

/-- The characters of a tunnel line that are taken (R94). -/
def taken (l : List Byte) : List Byte :=
  (l.map fun (c : Byte) => if c = 9 then (32 : Byte) else c).filter fun (c : Byte) => decide (32 ≤ c.toNat ∧ c.toNat ≤ 126)

/-- CONSOLE_SEND (R75): the completion says that the line is queued; its result comes through Console Receive. -/
def execConsoleSend (h : Hdr) (len : Nat) (line : List Byte) (s : State) : Host.Outcome State Fault Refusal :=
  .next (s.host h (.consoleSend h len line) fun t =>
    if len < 1 ∨ len > 250 then t.done h .invalidField
    else (t.accept ⟨.tunnel, none, dev t.index, 0⟩ (taken ((line ++ List.replicate len 0).take len))).good h)

/-- The whole reply lines that fit in a buffer. -/
def fitLines : Nat → List (List Byte) → List (List Byte)
  | _, [] => []
  | n, l :: r => if l.length ≤ n then l :: fitLines (n - l.length) r else []

/-- CONSOLE_RECEIVE (R75): whole reply lines in their order, zeros after them, and whether more wait. For a buffer above the maximum the manual
names no status: Invalid Field in Command is a DESIGN CHOICE (log entry 62). -/
def execConsoleReceive (h : Hdr) (numd : Nat) (s : State) : Host.Outcome State Fault Refusal :=
  .next (s.host h (.consoleReceive h numd) fun t =>
    if numd > 1023 then t.done h .invalidField
    else
      let cap := 4 * (numd + 1)
      let all := (if t.con.tunnelLost then [asc ".. lost" ++ [10]] else []) ++ t.con.tunnel
      let out := fitLines cap all
      let bytes := (out.flatten).map fun (b : Byte) => b.toNat
      let rest := all.drop out.length
      let lost := t.con.tunnelLost && out.isEmpty
      let t1 : State := { t with con := { t.con with tunnel := if lost then t.con.tunnel else rest, tunnelLost := lost } }
      t1.done h .success (bytes.length + if rest.isEmpty then 0 else 2 ^ 31) (.bytes ((bytes ++ List.replicate cap 0).take cap)))

/-! ## The master's state order (R397, R398, R406) -/

/-- A standby that a state order ends: the subordinate is brought back. -/
def State.standbyEnds (s : State) : State :=
  if s.sys.ps = 3 then s.leavePs3
  else if s.teth.standbyAsked.isSome then
    { s with sys := { s.sys with psWant := none }, teth := { s.teth with standbyAsked := none } }
  else s

/-- ORDER_STATE (R398): the master's state is recorded; `service` ends a subordinate's `test` as `stop test` does. -/
def execOrderState (p : Port) (f : FrameHdr) (arg : Byte) (s : State) : Host.Outcome State Fault Refusal :=
  .next (s.rxOrder p f 4 arg.toNat fun t =>
    if t.isMaster then t
    else
      let t1 : State := State.standbyEnds { t with teth := { t.teth with masterState := arg.toNat } }
      if arg = 1 && t1.isSt .test && !t1.con.leaving then t1.leaveTest else t1)

end Sys2Proof.Machine
end

