-- ==== Sys2Proof/Machine/Replay.lean ====
section
/-! DEFINITION. The replay of held commands after a level 2 recovery (R88). -/

namespace Sys2Proof.Machine

/-- The state an outcome goes on in. -/
def State.onward (s : State) : Host.Outcome State Fault Refusal → State
  | .next t => t
  | _ => s

/-- Run a held command again from the start; an asynchronous event request waits as before. -/
def State.replay (s : State) (i : Instr) : State :=
  match i with
  | .createIoSq h a b c d => s.onward (execCreateIoSq h a b c d s)
  | .createIoCq h a b c d => s.onward (execCreateIoCq h a b c d s)
  | .deleteIoSq h a => s.onward (execDeleteIoSq h a s)
  | .deleteIoCq h a => s.onward (execDeleteIoCq h a s)
  | .getLogPage h a b c d => s.onward (execGetLogPage h a b c d s)
  | .identify h a b => s.onward (execIdentify h a b s)
  | .abort h a b => s.onward (execAbort h a b s)
  | .setFeaturesArbitration h a => s.onward (execSetFeaturesArbitration h a s)
  | .setFeaturesPowerManagement h a => s.onward (execSetFeaturesPowerManagement h a s)
  | .setFeaturesTempThreshold h a b c => s.onward (execSetFeaturesTempThreshold h a b c s)
  | .setFeaturesErrorRecovery h a => s.onward (execSetFeaturesErrorRecovery h a s)
  | .setFeaturesWriteCache h a b => s.onward (execSetFeaturesWriteCache h a b s)
  | .setFeaturesNumberOfQueues h a b => s.onward (execSetFeaturesNumberOfQueues h a b s)
  | .setFeaturesInterruptCoalescing h a b => s.onward (execSetFeaturesInterruptCoalescing h a b s)
  | .setFeaturesInterruptVector h a b => s.onward (execSetFeaturesInterruptVector h a b s)
  | .setFeaturesWriteAtomicity h a => s.onward (execSetFeaturesWriteAtomicity h a s)
  | .setFeaturesAsyncEventConfig h a => s.onward (execSetFeaturesAsyncEventConfig h a s)
  | .setFeaturesApst h a b c d => s.onward (execSetFeaturesApst h a b c d s)
  | .setFeaturesHostMemoryBuffer h a b => s.onward (execSetFeaturesHostMemoryBuffer h a b s)
  | .setFeaturesThermalManagement h a b => s.onward (execSetFeaturesThermalManagement h a b s)
  | .getFeatures h a => s.onward (execGetFeatures h a s)
  | .namespaceCreate h a b => s.onward (execNamespaceCreate h a b s)
  | .namespaceDelete h a => s.onward (execNamespaceDelete h a s)
  | .namespaceAttachment h a b => s.onward (execNamespaceAttachment h a b s)
  | .firmwareImageDownload h a b c => s.onward (execFirmwareImageDownload h a b c s)
  | .firmwareCommit h a b c => s.onward (execFirmwareCommit h a b c s)
  | .formatNvm h a b c => s.onward (execFormatNvm h a b c s)
  | .sanitizeCryptoErase h => s.onward (execSanitizeCryptoErase h s)
  | .sanitizeBlockErase h => s.onward (execSanitizeBlockErase h s)
  | .sanitizeExitFailureMode h => s.onward (execSanitizeExitFailureMode h s)
  | .securityReceiveProtocols h => s.onward (execSecurityReceiveProtocols h s)
  | .securitySet h a b c d x y => s.onward (execSecuritySet h a b c d x y s)
  | .securityLock h a => s.onward (execSecurityLock h a s)
  | .securityUnlock h a b c d => s.onward (execSecurityUnlock h a b c d s)
  | .securityStatus h => s.onward (execSecurityStatus h s)
  | .consoleSend h a b => s.onward (execConsoleSend h a b s)
  | .consoleReceive h a => s.onward (execConsoleReceive h a s)
  | .flush h a => s.onward (execFlush h a s)
  | .write h a b c d x => s.onward (execWrite h a b c d x s)
  | .read h a b c => s.onward (execRead h a b c s)
  | .writeZeroes h a b c => s.onward (execWriteZeroes h a b c s)
  | .datasetManagement h a b c => s.onward (execDatasetManagement h a b c s)
  | .verify h a b c => s.onward (execVerify h a b c s)
  | .secureDeallocate h a b => s.onward (execSecureDeallocate h a b s)
  | _ => s

/-- A held command that an Abort names completes with Command Abort Requested, and the Abort with it; it is not replayed. -/
def State.abortHeld (s : State) (x : Hdr × Hdr) : State := if (s.front.ctx? x.2).isSome then (s.done x.2 .aborted).good x.1 else s.good x.1

/-- COMMAND_REPLAY (R88): once the device serves again, every held command whose contents were fetched runs again, in the order of
fetching. -/
def execCommandReplay (s : State) : Host.Outcome State Fault Refusal :=
  .next (if s.front.held && !s.inReset && (s.map.mounted || s.isSt .recovery) then
      let s1 : State := { s with front := { s.front with held := false, aborts := [] } }
      let s2 : State := s.front.aborts.foldl State.abortHeld s1
      (s2.front.ctxs.filterMap fun (c : Ctx) => c.cmd).foldl State.replay s2
    else s)

end Sys2Proof.Machine
end

