-- ==== Sys2Proof/Machine/Dispatch.lean ====
section
/-! DEFINITION. One arm per command. -/

namespace Sys2Proof.Machine

/-- What a command does to the device, its queue apart. -/
def exec (i : Instr) (s : State) : Host.Outcome State Fault Refusal :=
  match i with
  | .powerOnReset => Sys2Proof.Machine.execPowerOnReset s
  | .brownOut rail => Sys2Proof.Machine.execBrownOut rail s
  | .rstNLow => Sys2Proof.Machine.execRstNLow s
  | .perstAsserted => Sys2Proof.Machine.execPerstAsserted s
  | .flr => Sys2Proof.Machine.execFlr s
  | .ccEnCleared => Sys2Proof.Machine.execCcEnCleared s
  | .nvmSubsystemReset value => Sys2Proof.Machine.execNvmSubsystemReset value s
  | .domainRelease d good katFail sigA sigB => Sys2Proof.Machine.execDomainRelease d good katFail sigA sigB s
  | .lastRailGood => Sys2Proof.Machine.execLastRailGood s
  | .aonCapGood => Sys2Proof.Machine.execAonCapGood s
  | .strapSample codes => Sys2Proof.Machine.execStrapSample codes s
  | .rootPllLock => Sys2Proof.Machine.execRootPllLock s
  | .hostPhyPllLock => Sys2Proof.Machine.execHostPhyPllLock s
  | .refclkArrival => Sys2Proof.Machine.execRefclkArrival s
  | .pllUnlock planned => Sys2Proof.Machine.execPllUnlock planned s
  | .supplyWarning rail mv => Sys2Proof.Machine.execSupplyWarning rail mv s
  | .forceRelease mask => Sys2Proof.Machine.execForceRelease mask s
  | .sysRstReqGo cls level unit => Sys2Proof.Machine.execSysRstReqGo cls level unit s
  | .sysCauseClear mask => Sys2Proof.Machine.execSysCauseClear mask s
  | .troubleClearWrite hi mask => Sys2Proof.Machine.execTroubleClearWrite hi mask s
  | .mirroredFieldWrite cls f value => Sys2Proof.Machine.execMirroredFieldWrite cls f value s
  | .registerWrite cls addr value => Sys2Proof.Machine.execRegisterWrite cls addr value s
  | .hostLinkDown => Sys2Proof.Machine.execHostLinkDown s
  | .sqTailDoorbell q tail => Sys2Proof.Machine.execSqTailDoorbell q tail s
  | .cqHeadDoorbell q head => Sys2Proof.Machine.execCqHeadDoorbell q head s
  | .commandFetch q sqes => Sys2Proof.Machine.execCommandFetch q sqes s
  | .ccEnSet w => Sys2Proof.Machine.execCcEnSet w s
  | .controllerReady deadline => Sys2Proof.Machine.execControllerReady deadline s
  | .normalShutdown => Sys2Proof.Machine.execNormalShutdown s
  | .abruptShutdown => Sys2Proof.Machine.execAbruptShutdown s
  | .createIoSq h qid qsize pc cqid => Sys2Proof.Machine.execCreateIoSq h qid qsize pc cqid s
  | .createIoCq h qid qsize pc iv => Sys2Proof.Machine.execCreateIoCq h qid qsize pc iv s
  | .deleteIoSq h qid => Sys2Proof.Machine.execDeleteIoSq h qid s
  | .deleteIoCq h qid => Sys2Proof.Machine.execDeleteIoCq h qid s
  | .getLogPage h lid numd lpo rae => Sys2Proof.Machine.execGetLogPage h lid numd lpo rae s
  | .identify h cns nsid => Sys2Proof.Machine.execIdentify h cns nsid s
  | .abort h sqid cid => Sys2Proof.Machine.execAbort h sqid cid s
  | .setFeaturesArbitration h ab => Sys2Proof.Machine.execSetFeaturesArbitration h ab s
  | .setFeaturesPowerManagement h ps => Sys2Proof.Machine.execSetFeaturesPowerManagement h ps s
  | .setFeaturesTempThreshold h sensor under kelvin => Sys2Proof.Machine.execSetFeaturesTempThreshold h sensor under kelvin s
  | .setFeaturesErrorRecovery h tler => Sys2Proof.Machine.execSetFeaturesErrorRecovery h tler s
  | .setFeaturesWriteCache h wce save => Sys2Proof.Machine.execSetFeaturesWriteCache h wce save s
  | .setFeaturesNumberOfQueues h nsq ncq => Sys2Proof.Machine.execSetFeaturesNumberOfQueues h nsq ncq s
  | .setFeaturesInterruptCoalescing h thr time => Sys2Proof.Machine.execSetFeaturesInterruptCoalescing h thr time s
  | .setFeaturesInterruptVector h iv cd => Sys2Proof.Machine.execSetFeaturesInterruptVector h iv cd s
  | .setFeaturesWriteAtomicity h dn => Sys2Proof.Machine.execSetFeaturesWriteAtomicity h dn s
  | .setFeaturesAsyncEventConfig h mask => Sys2Proof.Machine.execSetFeaturesAsyncEventConfig h mask s
  | .setFeaturesApst h enable save ps3ms ps4ms => Sys2Proof.Machine.execSetFeaturesApst h enable save ps3ms ps4ms s
  | .setFeaturesHostMemoryBuffer h enable descs => Sys2Proof.Machine.execSetFeaturesHostMemoryBuffer h enable descs s
  | .setFeaturesThermalManagement h tmt1 tmt2 => Sys2Proof.Machine.execSetFeaturesThermalManagement h tmt1 tmt2 s
  | .getFeatures h ask => Sys2Proof.Machine.execGetFeatures h ask s
  | .asyncEventRequest h => Sys2Proof.Machine.execAsyncEventRequest h s
  | .namespaceCreate h nszeGib flbas => Sys2Proof.Machine.execNamespaceCreate h nszeGib flbas s
  | .namespaceDelete h nsid => Sys2Proof.Machine.execNamespaceDelete h nsid s
  | .namespaceAttachment h nsid attach => Sys2Proof.Machine.execNamespaceAttachment h nsid attach s
  | .firmwareImageDownload h off len bytes => Sys2Proof.Machine.execFirmwareImageDownload h off len bytes s
  | .firmwareCommit h slot action sigOk => Sys2Proof.Machine.execFirmwareCommit h slot action sigOk s
  | .formatNvm h nsid lbaf ses => Sys2Proof.Machine.execFormatNvm h nsid lbaf ses s
  | .sanitizeCryptoErase h => Sys2Proof.Machine.execSanitizeCryptoErase h s
  | .sanitizeBlockErase h => Sys2Proof.Machine.execSanitizeBlockErase h s
  | .sanitizeExitFailureMode h => Sys2Proof.Machine.execSanitizeExitFailureMode h s
  | .securityReceiveProtocols h => Sys2Proof.Machine.execSecurityReceiveProtocols h s
  | .securitySet h version tl oldLen newLen old new => Sys2Proof.Machine.execSecuritySet h version tl oldLen newLen old new s
  | .securityLock h tl => Sys2Proof.Machine.execSecurityLock h tl s
  | .securityUnlock h version tl len pw => Sys2Proof.Machine.execSecurityUnlock h version tl len pw s
  | .securityStatus h => Sys2Proof.Machine.execSecurityStatus h s
  | .consoleSend h len line => Sys2Proof.Machine.execConsoleSend h len line s
  | .consoleReceive h numd => Sys2Proof.Machine.execConsoleReceive h numd s
  | .flush h nsid => Sys2Proof.Machine.execFlush h nsid s
  | .write h nsid slba data lbas fua => Sys2Proof.Machine.execWrite h nsid slba data lbas fua s
  | .read h nsid slba lbas => Sys2Proof.Machine.execRead h nsid slba lbas s
  | .writeZeroes h nsid slba lbas => Sys2Proof.Machine.execWriteZeroes h nsid slba lbas s
  | .datasetManagement h nsid ad ranges => Sys2Proof.Machine.execDatasetManagement h nsid ad ranges s
  | .verify h nsid slba lbas => Sys2Proof.Machine.execVerify h nsid slba lbas s
  | .secureDeallocate h nsid ranges => Sys2Proof.Machine.execSecureDeallocate h nsid ranges s
  | .commandTimerExpiry h => Sys2Proof.Machine.execCommandTimerExpiry h s
  | .interruptCoalescingTimeout iv => Sys2Proof.Machine.execInterruptCoalescingTimeout iv s
  | .stagingDrain => Sys2Proof.Machine.execStagingDrain s
  | .speculativeRead nsid => Sys2Proof.Machine.execSpeculativeRead nsid s
  | .commandReplay => Sys2Proof.Machine.execCommandReplay s
  | .apstIdleTimeout ps4 => Sys2Proof.Machine.execApstIdleTimeout ps4 s
  | .ps3Entry => Sys2Proof.Machine.execPs3Entry s
  | .ps4Entry => Sys2Proof.Machine.execPs4Entry s
  | .clkreqAsserted => Sys2Proof.Machine.execClkreqAsserted s
  | .ps4Exit => Sys2Proof.Machine.execPs4Exit s
  | .ps4RecordReload => Sys2Proof.Machine.execPs4RecordReload s
  | .uartCharacter c => Sys2Proof.Machine.execUartCharacter c s
  | .uartOverrun => Sys2Proof.Machine.execUartOverrun s
  | .partialLineTimeout => Sys2Proof.Machine.execPartialLineTimeout s
  | .lineExecute => Sys2Proof.Machine.execLineExecute s
  | .keepAlive p => Sys2Proof.Machine.execKeepAlive p s
  | .routedLineTimeout tag => Sys2Proof.Machine.execRoutedLineTimeout tag s
  | .show l obj => Sys2Proof.Machine.execShow l obj s
  | .get l what => Sys2Proof.Machine.execGet l what s
  | .set l pairs => Sys2Proof.Machine.execSet l pairs s
  | .clearTrouble l bit => Sys2Proof.Machine.execClearTrouble l bit s
  | .clearCause l bit => Sys2Proof.Machine.execClearCause l bit s
  | .clearSuspect l c statusOk => Sys2Proof.Machine.execClearSuspect l c statusOk s
  | .saveSettings l => Sys2Proof.Machine.execSaveSettings l s
  | .saveProfile l => Sys2Proof.Machine.execSaveProfile l s
  | .loadSettings l => Sys2Proof.Machine.execLoadSettings l s
  | .loadProfile l src len g => Sys2Proof.Machine.execLoadProfile l src len g s
  | .profileInstall g ids => Sys2Proof.Machine.execProfileInstall g ids s
  | .runTest l => Sys2Proof.Machine.execRunTest l s
  | .runOp l c list block page buf len force => Sys2Proof.Machine.execRunOp l c list block page buf len force s
  | .runTrain l g => Sys2Proof.Machine.execRunTrain l g s
  | .runCheckpoint l => Sys2Proof.Machine.execRunCheckpoint l s
  | .runPatrol l r => Sys2Proof.Machine.execRunPatrol l r s
  | .stop l => Sys2Proof.Machine.execStop l s
  | .stopTest l => Sys2Proof.Machine.execStopTest l s
  | .stopDma l n => Sys2Proof.Machine.execStopDma l n s
  | .consoleReset l level unit => Sys2Proof.Machine.execConsoleReset l level unit s
  | .sleep l ps => Sys2Proof.Machine.execSleep l ps s
  | .lockData l pw => Sys2Proof.Machine.execLockData l pw s
  | .unlockData l pw => Sys2Proof.Machine.execUnlockData l pw s
  | .rd l addr n w => Sys2Proof.Machine.execRd l addr n w s
  | .wr l addr w ds => Sys2Proof.Machine.execWr l addr w ds s
  | .move l src dst len lines sstride dstride ovl pri => Sys2Proof.Machine.execMove l src dst len lines sstride dstride ovl pri s
  | .fill l dst len pattern pri => Sys2Proof.Machine.execFill l dst len pattern pri s
  | .assayOffsets l c block => Sys2Proof.Machine.execAssayOffsets l c block s
  | .assaySensors l => Sys2Proof.Machine.execAssaySensors l s
  | .assaySentinel l c block raw => Sys2Proof.Machine.execAssaySentinel l c block raw s
  | .assaySearch l c block r => Sys2Proof.Machine.execAssaySearch l c block r s
  | .assayReset l c => Sys2Proof.Machine.execAssayReset l c s
  | .logJournal l last frm => Sys2Proof.Machine.execLogJournal l last frm s
  | .logTrouble l => Sys2Proof.Machine.execLogTrouble l s
  | .logAlarm l last => Sys2Proof.Machine.execLogAlarm l last s
  | .logTemp l => Sys2Proof.Machine.execLogTemp l s
  | .updatePiece l twin src off len => Sys2Proof.Machine.execUpdatePiece l twin src off len s
  | .updateCommit l twin now sigOk => Sys2Proof.Machine.execUpdateCommit l twin now sigOk s
  | .updateStatus l => Sys2Proof.Machine.execUpdateStatus l s
  | .help l topic => Sys2Proof.Machine.execHelp l topic s
  | .galleryTraining g r => Sys2Proof.Machine.execGalleryTraining g r s
  | .retrainingWindow g r => Sys2Proof.Machine.execRetrainingWindow g r s
  | .galCtlTrain g => Sys2Proof.Machine.execGalCtlTrain g s
  | .galSuspectClear g mask => Sys2Proof.Machine.execGalSuspectClear g mask s
  | .galWptLoad g cls value => Sys2Proof.Machine.execGalWptLoad g cls value s
  | .schedulerDispatch g => Sys2Proof.Machine.execSchedulerDispatch g s
  | .operationAging g id => Sys2Proof.Machine.execOperationAging g id s
  | .busTransferDone g => Sys2Proof.Machine.execBusTransferDone g s
  | .rbNRise g => Sys2Proof.Machine.execRbNRise g s
  | .programSuspend g c ranUs remainUs => Sys2Proof.Machine.execProgramSuspend g c ranUs remainUs s
  | .programResume g c heldUs => Sys2Proof.Machine.execProgramResume g c heldUs s
  | .chamberOpTimeout g id statusOk => Sys2Proof.Machine.execChamberOpTimeout g id statusOk s
  | .sequencerWatchdog g => Sys2Proof.Machine.execSequencerWatchdog g s
  | .opEnd g x => Sys2Proof.Machine.execOpEnd g x s
  | .opCmd g x => Sys2Proof.Machine.execOpCmd g x s
  | .opAddr g x => Sys2Proof.Machine.execOpAddr g x s
  | .opDin g x mismatches => Sys2Proof.Machine.execOpDin g x mismatches s
  | .opDout g x bytes mismatches => Sys2Proof.Machine.execOpDout g x bytes mismatches s
  | .opDinb g b => Sys2Proof.Machine.execOpDinb g b s
  | .opDinv g b => Sys2Proof.Machine.execOpDinv g b s
  | .opWait g x => Sys2Proof.Machine.execOpWait g x s
  | .opWaitp g x => Sys2Proof.Machine.execOpWaitp g x s
  | .opPoll g x status => Sys2Proof.Machine.execOpPoll g x status s
  | .opStat g x status => Sys2Proof.Machine.execOpStat g x status s
  | .opBr g x => Sys2Proof.Machine.execOpBr g x s
  | .opSetl g x => Sys2Proof.Machine.execOpSetl g x s
  | .opLoop g x => Sys2Proof.Machine.execOpLoop g x s
  | .opSet g x => Sys2Proof.Machine.execOpSet g x s
  | .opCall g x => Sys2Proof.Machine.execOpCall g x s
  | .encode id syndromeBad crcBad => Sys2Proof.Machine.execEncode id syndromeBad crcBad s
  | .hardDecode id r => Sys2Proof.Machine.execHardDecode id r s
  | .softDecode id lane r => Sys2Proof.Machine.execSoftDecode id lane r s
  | .stripeRebuild id srcFail r => Sys2Proof.Machine.execStripeRebuild id srcFail r s
  | .softDecodeTimeout id => Sys2Proof.Machine.execSoftDecodeTimeout id s
  | .hardLaneTimeout h => Sys2Proof.Machine.execHardLaneTimeout h s
  | .softLaneTimeout n => Sys2Proof.Machine.execSoftLaneTimeout n s
  | .arrayOpComplete g id failPlanes fail => Sys2Proof.Machine.execArrayOpComplete g id failPlanes fail s
  | .readVerify blk results => Sys2Proof.Machine.execReadVerify blk results s
  | .sumpAllocation => Sys2Proof.Machine.execSumpAllocation s
  | .sumpPageRelease waited => Sys2Proof.Machine.execSumpPageRelease waited s
  | .stripeGroupOpen flow => Sys2Proof.Machine.execStripeGroupOpen flow s
  | .commit id => Sys2Proof.Machine.execCommit id s
  | .relocationSwap id => Sys2Proof.Machine.execRelocationSwap id s
  | .partialWrite ns lba => Sys2Proof.Machine.execPartialWrite ns lba s
  | .mapPageWriteback page => Sys2Proof.Machine.execMapPageWriteback page s
  | .fold blk => Sys2Proof.Machine.execFold blk s
  | .garbageCollection => Sys2Proof.Machine.execGarbageCollection s
  | .wearLevelling => Sys2Proof.Machine.execWearLevelling s
  | .refresh => Sys2Proof.Machine.execRefresh s
  | .sectorRetry d blk => Sys2Proof.Machine.execSectorRetry d blk s
  | .blockErase blk => Sys2Proof.Machine.execBlockErase blk s
  | .reserveErase c => Sys2Proof.Machine.execReserveErase c s
  | .chamberRetire c => Sys2Proof.Machine.execChamberRetire c s
  | .journalPageProgram failA failB => Sys2Proof.Machine.execJournalPageProgram failA failB s
  | .checkpointTimer => Sys2Proof.Machine.execCheckpointTimer s
  | .checkpoint rootFails => Sys2Proof.Machine.execCheckpoint rootFails s
  | .shelfChangeOver => Sys2Proof.Machine.execShelfChangeOver s
  | .mount m => Sys2Proof.Machine.execMount m s
  | .blockTableWalk => Sys2Proof.Machine.execBlockTableWalk s
  | .fullScan => Sys2Proof.Machine.execFullScan s
  | .retentionSweep r => Sys2Proof.Machine.execRetentionSweep r s
  | .mapEngineWatchdog => Sys2Proof.Machine.execMapEngineWatchdog s
  | .temperatureSample which quarterC => Sys2Proof.Machine.execTemperatureSample which quarterC s
  | .chamberTemperatureList c answer => Sys2Proof.Machine.execChamberTemperatureList c answer s
  | .railSample mv ma isnsMv => Sys2Proof.Machine.execRailSample mv ma isnsMv s
  | .governorTick => Sys2Proof.Machine.execGovernorTick s
  | .valleySearch c group trials refs => Sys2Proof.Machine.execValleySearch c group trials refs s
  | .lifetimeSecond => Sys2Proof.Machine.execLifetimeSecond s
  | .hourlyHistory => Sys2Proof.Machine.execHourlyHistory s
  | .patrolWake raws => Sys2Proof.Machine.execPatrolWake raws s
  | .refreshWake energyMj => Sys2Proof.Machine.execRefreshWake energyMj s
  | .tetherTraining p r => Sys2Proof.Machine.execTetherTraining p r s
  | .part p f b => Sys2Proof.Machine.execPart p f b s
  | .data p f d => Sys2Proof.Machine.execData p f d s
  | .done p f b => Sys2Proof.Machine.execDone p f b s
  | .console p f line => Sys2Proof.Machine.execConsole p f line s
  | .orderReset p f arg => Sys2Proof.Machine.execOrderReset p f arg s
  | .orderStandby p f arg => Sys2Proof.Machine.execOrderStandby p f arg s
  | .orderStandbyReady p f arg => Sys2Proof.Machine.execOrderStandbyReady p f arg s
  | .orderState p f arg => Sys2Proof.Machine.execOrderState p f arg s
  | .orderHold p f arg => Sys2Proof.Machine.execOrderHold p f arg s
  | .orderReady p f => Sys2Proof.Machine.execOrderReady p f s
  | .orderAbort p f => Sys2Proof.Machine.execOrderAbort p f s
  | .orderActivate p f => Sys2Proof.Machine.execOrderActivate p f s
  | .alarm p f origin bit secs => Sys2Proof.Machine.execAlarm p f origin bit secs s
  | .admin p f b => Sys2Proof.Machine.execAdmin p f b s
  | .ack p f => Sys2Proof.Machine.execAck p f s
  | .nak p f => Sys2Proof.Machine.execNak p f s
  | .credit p f => Sys2Proof.Machine.execCredit p f s
  | .hello p f b => Sys2Proof.Machine.execHello p f b s
  | .replayTimeout p => Sys2Proof.Machine.execReplayTimeout p s
  | .idleAckTimer p => Sys2Proof.Machine.execIdleAckTimer p s
  | .subordinateSilent k => Sys2Proof.Machine.execSubordinateSilent k s
  | .holdWindowExpiry k => Sys2Proof.Machine.execHoldWindowExpiry k s
  | .chainJoinTimeout => Sys2Proof.Machine.execChainJoinTimeout s
  | .wakeBeacon => Sys2Proof.Machine.execWakeBeacon s
  | .scrubRead => Sys2Proof.Machine.execScrubRead s
  | .narrowWrite cls addr width value parityBad => Sys2Proof.Machine.execNarrowWrite cls addr width value parityBad s
  | .mergeBufferDrain => Sys2Proof.Machine.execMergeBufferDrain s
  | .flipMaskArm cls value => Sys2Proof.Machine.execFlipMaskArm cls value s
  | .dmaStart n cls pri => Sys2Proof.Machine.execDmaStart n cls pri s
  | .dmaStop n => Sys2Proof.Machine.execDmaStop n s
  | .descriptorFetch n => Sys2Proof.Machine.execDescriptorFetch n s
  | .dmaFetchTimeout n addr fetch write => Sys2Proof.Machine.execDmaFetchTimeout n addr fetch write s
  | .dmaComplete n => Sys2Proof.Machine.execDmaComplete n s
  | .mpuCommit cls => Sys2Proof.Machine.execMpuCommit cls s
  | .lanternStatus => Sys2Proof.Machine.execLanternStatus s
  | .lanternRead addr width checkOk => Sys2Proof.Machine.execLanternRead addr width checkOk s
  | .lanternWrite addr width value checkOk => Sys2Proof.Machine.execLanternWrite addr width value checkOk s
  | .lanternBlkrd addr words checkOk => Sys2Proof.Machine.execLanternBlkrd addr words checkOk s
  | .lanternBlkwr addr data badGroup checkOk => Sys2Proof.Machine.execLanternBlkwr addr data badGroup checkOk s
  | .lanternReset checkOk => Sys2Proof.Machine.execLanternReset checkOk s
  | .scanBypass => Sys2Proof.Machine.execScanBypass s
  | .scanIdcode => Sys2Proof.Machine.execScanIdcode s
  | .scanSamplePreload pins => Sys2Proof.Machine.execScanSamplePreload pins s
  | .scanExtest => Sys2Proof.Machine.execScanExtest s
  | .scanShift inp => Sys2Proof.Machine.execScanShift inp s
  | .bstProgramWord addr data cls => Sys2Proof.Machine.execBstProgramWord addr data cls s
  | .bstEraseSector addr cls => Sys2Proof.Machine.execBstEraseSector addr cls s
  | .bstSwapCommit slot cls => Sys2Proof.Machine.execBstSwapCommit slot cls s
  | .bstSuspend => Sys2Proof.Machine.execBstSuspend s
  | .bstResume => Sys2Proof.Machine.execBstResume s
  | .bstReadStatus => Sys2Proof.Machine.execBstReadStatus s
  | .bstArrayRead => Sys2Proof.Machine.execBstArrayRead s
  | .bstOpComplete ok => Sys2Proof.Machine.execBstOpComplete ok s
  | .bstOpTimeout => Sys2Proof.Machine.execBstOpTimeout s
  | .bstCmProgram => Sys2Proof.Machine.execBstCmProgram s
  | .bstCmErase => Sys2Proof.Machine.execBstCmErase s
  | .supplyAlarm mv => Sys2Proof.Machine.execSupplyAlarm mv s
  | .clockAlarm mhz => Sys2Proof.Machine.execClockAlarm mhz s
  | .temperatureAlarm c => Sys2Proof.Machine.execTemperatureAlarm c s
  | .glitchAlarm => Sys2Proof.Machine.execGlitchAlarm s
  | .unlockFailureAlarm => Sys2Proof.Machine.execUnlockFailureAlarm s
  | .alarmLogProgram ok => Sys2Proof.Machine.execAlarmLogProgram ok s
  | .coreWatchdog => Sys2Proof.Machine.execCoreWatchdog s
  | .perstDeasserted => Sys2Proof.Machine.execPerstDeasserted s
  | .rstNHigh => Sys2Proof.Machine.execRstNHigh s
  | .supplyWarningCleared rail mv => Sys2Proof.Machine.execSupplyWarningCleared rail mv s
  | .hotReset => Sys2Proof.Machine.execHotReset s
  | .linkDisable => Sys2Proof.Machine.execLinkDisable s
  | .l12Entry => Sys2Proof.Machine.execL12Entry s
  | .tlerExpiry h => Sys2Proof.Machine.execTlerExpiry h s
  | .sleepTimeout => Sys2Proof.Machine.execSleepTimeout s
  | .mismatchHelloTimer p => Sys2Proof.Machine.execMismatchHelloTimer p s
  | .passwordCheckComplete => Sys2Proof.Machine.execPasswordCheckComplete s

end Sys2Proof.Machine
end

