-- ==== Sys2Proof/Machine/Balls.lean ====
section
/-! DEFINITION. The balls as they stand between commands (chapter 2, R141): the level or condition that R51's table and the state give each.
Within a command a transfer moves them as the cycles of its trace say; WE_N, ALE, CLE, RE and DQS are back at rest when it ends. -/

namespace Sys2Proof.Machine

/-- The two tether ports and the host, as sets of lanes. -/
inductive LaneSet where
  | host | tu | td
  deriving DecidableEq, Repr

/-- A signal ball (R39, R51). -/
inductive Ball where
  | ce (g n : Fin 8) | wp (g : Fin 8) | dq (g n : Fin 8) | dqsT (g : Fin 8) | dqsC (g : Fin 8) | reT (g : Fin 8) | reC (g : Fin 8)
  | we (g : Fin 8) | ale (g : Fin 8) | cle (g : Fin 8) | rb (g : Fin 8) | zq (g : Fin 8) | hcal | tcal
  | tx (l : LaneSet) (n : Fin 4) | rx (l : LaneSet) (n : Fin 4)
  | refclk | perst | clkreq | conTx | conRx | lanClk | lanIo | rstN | cfgRs | isns
  deriving DecidableEq, Repr

/-- What a ball is doing. -/
inductive Level where
  | driven (high : Bool)
  /-- a weak pull, and nothing drives -/
  | pulled (up : Bool)
  /-- open drain released, or a high-impedance input -/
  | released
  /-- driven or terminated as the transfer under way needs -/
  | transfer
  /-- an analogue ball without current -/
  | idle
  | elecIdle
  | termOff
  | detect
  | l12
  | inUse
  | monitored
  | sampled
  /-- a pull-up connected while the strap is sampled -/
  | sampling
  deriving DecidableEq, Repr

/-- A gallery's balls are held by their isolation cells: GCLK is held, the gallery rests or is not configured yet, or its half is off (R51). -/
def State.galHeld (s : State) (g : Fin 8) : Bool :=
  let y := s.gals.get g
  s.inReset || !s.sys.released.getLsbD 3 || y.holdReset || y.profile.isNone || !s.sys.doms.getLsbD (5 + g.val / 4)

/-- A context holds a gallery's bus. -/
def State.galBusy (s : State) (g : Fin 8) : Bool := !s.galHeld g && (s.gals.get g).bus.isSome

/-- A port's lanes. -/
def State.portLevel (s : State) (q : TPort) (tx : Bool) : Level :=
  if !s.sys.tethGo ∨ s.sys.ps.val = 4 ∨ q.st = .off then (if tx then .elecIdle else .termOff) else .inUse

/-- The host lanes: idle until PERST# is high and HCLK is released, Detect, in use, and L1.2. -/
def State.hostLevel (s : State) (tx : Bool) : Level :=
  match s.sys.lanes with
  | .idle | .disabled => if tx then .elecIdle else .termOff
  | .detect => .detect
  | .up => .inUse
  | .l12 => .l12

/-- A lane that the strap leaves unused (R45, R49): every host lane of a subordinate, and with x2 lanes 2 and 3 of a master's host lanes or of a
subordinate's ports. -/
def State.laneUnused (s : State) (l : LaneSet) (n : Fin 4) : Bool :=
  let narrow := s.rf .sysStrap 14 1 == 1 && decide (2 ≤ n.val)
  match l with
  | .host => !s.isMaster || narrow
  | .tu | .td => !s.isMaster && narrow

/-- A lane of a set; one that is unused stays in electrical idle with its terminations off. -/
def State.laneLevel (s : State) (l : LaneSet) (n : Fin 4) (tx : Bool) : Level :=
  if s.laneUnused l n then (if tx then .elecIdle else .termOff)
  else match l with
    | .host => s.hostLevel tx
    | .tu => s.portLevel s.teth.tu tx
    | .td => s.portLevel s.teth.td tx

/-- A reset of level 0 or 1 holds the root's domains: every ball is in its reset state (R51, R53). -/
def State.ballsReset (s : State) : Bool := s.inReset && (s.sys.rst == some 0 || s.sys.rst == some 1)

/-- The balls of a gallery (R51, R141). -/
def State.galBall (s : State) (g : Fin 8) : Ball → Level
  | .ce _ n => .driven (s.galHeld g || (s.gals.get g).ceN.getLsbD n.val)
  | .wp _ => .driven (!s.galHeld g && (s.gals.get g).wpN)
  | .dq _ _ | .dqsT _ => if s.galBusy g then .transfer else .pulled false
  | .dqsC _ => if s.galBusy g then .transfer else .pulled true
  | .reT _ | .we _ => .driven true
  | .reC _ | .ale _ | .cle _ => .driven false
  | .rb _ => .pulled true
  | _ => .idle

/-- What each ball stands at. ISNS shows idle in PS3, as R51's table has it, though its samples go on there (log entry 66). -/
def State.ball (s : State) (b : Ball) : Level :=
  match b with
  | .ce g _ | .wp g | .dq g _ | .dqsT g | .dqsC g | .reT g | .reC g | .we g | .ale g | .cle g | .rb g | .zq g => s.galBall g b
  | .hcal | .tcal => .idle
  | .tx l n => s.laneLevel l n true
  | .rx l n => s.laneLevel l n false
  | .refclk => if s.rf .sysClk 3 1 == 1 && !s.ballsReset then .inUse else .released
  | .perst | .rstN => .monitored
  | .clkreq => if s.sys.clkreqOut then .driven false else .released
  | .conTx => .driven true
  | .conRx => .pulled true
  | .lanClk => .pulled false
  | .lanIo => .pulled true
  | .cfgRs => if s.sys.pullUp then .sampling else .idle
  | .isns => if s.inReset then .released else if s.sys.ps.val ≤ 2 then .sampled else .idle

end Sys2Proof.Machine
end

