-- ==== Sys2Proof/WellFormed.lean ====
section
/-! DEFINITION. Which commands can be given to the device at all: the bounds that the fields carrying them set on an operand whose type is
wider (a length, a list, a tag).  A command that fails a check here is one that nothing can send; `exec` still answers it. -/

namespace Sys2Proof

/-- A machine-mode tag: one to four decimal digits (R98). -/
def tagWf (t : String) : Bool := decide (1 ≤ t.length ∧ t.length ≤ 4) && t.toList.all fun c => decide (48 ≤ c.toNat ∧ c.toNat ≤ 57)

/-- A line's context: its tag has the form of a tag, and only a line that came over Tether entered by another device (R98, R404). -/
def LineCtx.wf (l : LineCtx) : Bool := match l.tag with | none => true | some t => tagWf t

/-- The number of LBAs of an I/O command: NVMe's field holds one less, in 16 bits (PRESUMED, log entry 17). -/
def lbasWf (n : Nat) : Bool := decide (1 ≤ n ∧ n ≤ 65536)

/-- A range list of Dataset Management or Secure Deallocate: its field holds one less than the count, in 8 bits (R76). -/
def rangesWf (l : List (Nat × Nat)) : Bool := decide (1 ≤ l.length ∧ l.length ≤ 256)

/-- The lengths of a BLKWR, in words (R488). -/
def blockWf (l : List Word) : Bool := [8, 16, 32, 64].contains l.length

/-- The console row of a command, where it is a line. -/
def Instr.line? : Instr → Option LineCtx
  | .show l _ | .get l _ | .set l _ | .clearTrouble l _ | .clearCause l _ | .clearSuspect l _ _ | .saveSettings l | .saveProfile l
  | .loadSettings l | .loadProfile l _ _ _ | .runTest l | .runOp l _ _ _ _ _ _ _ | .runTrain l _ | .runCheckpoint l | .runPatrol l _
  | .stop l | .stopTest l | .stopDma l _ | .consoleReset l _ _ | .sleep l _ | .lockData l _ | .unlockData l _ | .rd l _ _ _ | .wr l _ _ _
  | .move l _ _ _ _ _ _ _ _ | .fill l _ _ _ _ | .assayOffsets l _ _ | .assaySensors l | .assaySentinel l _ _ _ | .assaySearch l _ _ _
  | .assayReset l _ | .logJournal l _ _ | .logTrouble l | .logAlarm l _ | .logTemp l | .updatePiece l _ _ _ _ | .updateCommit l _ _ _
  | .updateStatus l | .help l _ => some l
  | _ => none

/-- A command that something can send. -/
def Instr.wf (i : Instr) : Bool :=
  (match i.line? with | some l => l.wf | none => true) &&
  match i with
  | .commandFetch _ sqes => decide (sqes.length ≤ 8)
  | .write _ _ _ _ n _ | .read _ _ _ n | .writeZeroes _ _ _ n | .verify _ _ _ n => lbasWf n
  | .datasetManagement _ _ _ r | .secureDeallocate _ _ r => rangesWf r
  | .consoleSend _ n l => decide (n < 256 ∧ l.length = n)
  | .firmwareImageDownload _ _ n b => decide (b.length = n)
  | .lanternBlkwr _ d _ _ => blockWf d
  | _ => true

end Sys2Proof
end

