-- ==== Sys2Proof/Safety.lean ====
section
/-! DEFINITION. What the statements call sound: the canonical form of everything the device addresses, the bounds of the console's
buffers, and a step that is not stopped. -/

namespace Sys2Proof

/-! ## Rows that act on one part of the device -/

/-- The gallery of a row that acts on one gallery and on nothing else: aging, the bus, and the ops of a program but for those that end it, move
data, address the Keeper or count a parity mismatch. -/
def Instr.oneGallery : Instr → Option (Fin 8)
  | .operationAging g _ | .busTransferDone g | .rbNRise g => some g
  | .opCmd g ⟨_, false⟩ | .opDinb g ⟨_, false⟩ | .opWait g _ | .opWaitp g _ | .opPoll g _ ⟨_, 0, false⟩ | .opStat g _ ⟨_, 0, false⟩ | .opBr g _ | .opSetl g _ | .opLoop g _ | .opSet g _ => some g
  | _ => none

/-- The commands and rows that act on Front alone: its queues, its features, its contexts and its timers. -/
def Instr.frontOnly : Instr → Bool
  | .createIoSq .. | .createIoCq .. | .deleteIoSq .. | .deleteIoCq .. | .identify .. | .setFeaturesArbitration .. | .setFeaturesTempThreshold ..
  | .setFeaturesErrorRecovery .. | .setFeaturesNumberOfQueues .. | .setFeaturesInterruptCoalescing .. | .setFeaturesInterruptVector ..
  | .setFeaturesWriteAtomicity .. | .setFeaturesAsyncEventConfig .. | .setFeaturesThermalManagement .. | .getFeatures .. | .asyncEventRequest ..
  | .sanitizeExitFailureMode .. | .securityReceiveProtocols .. | .commandFetch .. | .controllerReady .. | .interruptCoalescingTimeout ..
  | .stagingDrain => true
  | _ => false

/-- The command sequences of the boot store, written by the privileged class, but for the return to array reads, which starts a request that waited, and
a swap commit, whose error firmware counts. -/
def Instr.storeOnly : Instr → Bool
  | .bstSuspend | .bstResume | .bstReadStatus | .bstProgramWord _ _ .privileged | .bstEraseSector _ .privileged => true
  | _ => false

/-- The line that a row is, if the row is a console line that waits its turn: every line but the `stop` lines (R92). -/
def Instr.waitingLine : Instr → Option LineCtx
  | .show l _ | .get l _ | .logJournal l _ _ | .logTrouble l | .logAlarm l _ | .logTemp l | .help l _ | .set l _ | .clearTrouble l _ | .clearCause l _
  | .clearSuspect l _ _ | .saveSettings l | .saveProfile l | .loadSettings l | .loadProfile l _ _ _ | .runTest l | .runOp l _ _ _ _ _ _ _
  | .runTrain l _ | .runCheckpoint l | .runPatrol l _ | .consoleReset l _ _ | .sleep l _ | .lockData l _ | .unlockData l _ | .rd l _ _ _ | .wr l _ _ _
  | .move l _ _ _ _ _ _ _ _ | .fill l _ _ _ _ | .assayOffsets l _ _ | .assaySensors l | .assaySentinel l _ _ _ | .assaySearch l _ _ _ | .assayReset l _
  | .updatePiece l _ _ _ _ | .updateCommit l _ _ _ | .updateStatus l => some l
  | _ => none

end Sys2Proof

namespace Sys2Proof.Machine

/-- The canonical form of what is addressed: control registers, Keeper words and the bytes of the boot store (log entry 6). -/
def Memory.wf (s : State) : Bool := Store.wf regDefault s.regs && s.kpr.wf && s.bst.wf

/-- The bounds of the console (R75, R92, R94): four lines wait on a path, a line has 250 characters, the tunnel keeps 16 KiB. -/
def Console.wf (c : Console) : Bool :=
  decide (c.uart.buf.length ≤ 250 ∧ (c.tunnel.map List.length).sum ≤ 16384) &&
    ([Path.uart, Path.tunnel, Path.tether].all fun p => decide ((c.queue.countP fun q => q.ctx.path == p) ≤ 4))

/-- A sound state. -/
def State.wf (s : State) : Bool := Memory.wf s && s.con.wf

/-! ## When a command has its own effect -/

/-- Front can run a host command (R57, R61, R64, R65). -/
def State.takes (s : State) (h : Hdr) (i : Instr) : Bool := s.fetched h && (ioCommand i == decide (h.sqid.val ≠ 0)) && s.hasRoom h

/-- The state a host command runs in: its context taken, the LTR value after it. -/
def State.taken (s : State) (h : Hdr) (i : Instr) : State := { s.takeIn h i with front := (s.takeIn h i).front.ltrTick }

/-- A command is completed with a status: its completion is posted, or waits for room in its queue (R58). -/
def State.completed (s : State) (h : Hdr) (st : NStat) : Bool :=
  (s.front.posted ++ s.front.cqWait).any fun (c : Completion) => c.hdr == h && c.sct == st.sct && c.sc == st.sc

/-- Firmware's console takes a line, no other executes and none waits (R51, R92, R93). -/
def State.takesLine (s : State) : Bool := s.consoleOn && !s.con.busy && s.con.queue.isEmpty && !s.sys.rom

/-- The console takes a recorded line, and its journal entry will verify (R113). -/
def State.takesEntry (s : State) : Bool := s.takesLine && !s.bst.failNext

/-- The state a recorded line executes in: its entry programmed, the result pending (R113). -/
def State.entered (s : State) (l : LineCtx) (i : Instr) : State := (s.journalAdd (Path.num l.path) (s.lineDev l) (masked (lineText l i))).2

/-- The next frame in order arrives whole on a port that is up (R387, R395). -/
def State.receives (s : State) (p : Port) (f : FrameHdr) : Bool :=
  (s.teth.get p).live && f.good && f.seq.val == (s.teth.get p).rxSeq

/-- The state after such a frame was acknowledged and its credit given back. -/
def State.received (s : State) (p : Port) (f : FrameHdr) (type : Nat) : State :=
  ((State.sendAck { s with teth := s.teth.port p fun x => { x with rxSeq := (x.rxSeq + 1) % 4096 } } p).returnCredit p type).heard f

/-- An order's argument is noted. -/
def State.ordered (s : State) (p : Port) (f : FrameHdr) (arg : Byte) : State :=
  { s.received p f 5 with teth := { (s.received p f 5).teth with orderArg := arg.toNat } }

/-- A context's current op is `w`, of the code given, and can run: the context runs, the bus is free to it, and WP_N lets it be sent (R52, R175 to
R178). -/
def State.runsOp (s : State) (g : Fin 8) (x : Fin 64) (code : Nat) (c : SeqCtx) (w : Word) : Bool :=
  Store.find (s.gals.get g).ctxs x.val == some c && (s.gals.get g).opAt c == some w && c.runs && opc w == code &&
    (!busOp code || (s.gals.get g).bus.isNone || (s.gals.get g).bus == some x) && !(s.gals.get g).holdReset && !(s.gals.get g).wpHolds w

/-- The gallery with the bus taken by a context. -/
def State.busTaken (s : State) (g : Fin 8) (x : Fin 64) : State := s.gal g fun z => { z with bus := some x }

/-- A request of the debug port that is whole is served (R488, R491). -/
def State.lanternServes (s : State) : Bool := s.lanternOn && !s.locked

/-- The debug port takes scan instructions (R493). -/
def State.scanServes (s : State) : Bool := s.lanternServes && (s.isSt .test || s.isSt .recovery) && !s.front.en

/-- The state in boundary-scan mode. -/
def State.scanned (s : State) : State := { s with lan := { s.lan with scan := true } }

/-- The device goes on: a command had an outcome that is a state. -/
def goesOn (o : Host.Outcome State Fault Refusal) : Bool := match o with | .next _ => true | _ => false

end Sys2Proof.Machine
end

