-- ==== Sys2Proof/Certificates/Slice0/Obligations.lean ====
section
/-! DEFINITION. The statements about the model.  A statement whose hypotheses name `takes`, `takesLine`, `takesEntry`, `receives`, `runsOp` or the
like says when a command has its own effect; the names stand in Sys2Proof/Safety.lean. -/

open Sys2Proof Sys2Proof.Machine

/-- A step runs exactly the command at the front of the queue, on the device with the rest of the queue. The queue of commands is the model's own
form of the outside world (log entry 2). -/
def Obligations.StepRunsFront : Prop :=
  ∀ (c : Instr) (rest : List Instr) (s : State), step { s with pending := c :: rest } = exec c { s with pending := rest }

/-- A step takes the front command off the queue and leaves the order of the others; no command puts another into the queue. With no command waiting
a step changes nothing (log entry 2, the model's choice). That an empty queue idles is the model's choice (log entry 2). -/
def Obligations.StepTakesOne : Prop :=
  (∀ s t : State, s.wf = true → step s = .next t → t.pending = s.pending.tail) ∧
  (∀ s : State, s.pending = [] → step s = .next s)

/-- Every step keeps the device sound: registers, Keeper words and boot store bytes in canonical form, the console within its bounds. The canonical
form of what is addressed is the model's (log entry 6); the bounds of the console are the manual's. -/
def Obligations.StepKeepsSound : Prop :=
  ∀ s t : State, s.wf = true → step s = .next t → t.wf = true

/-- The device never stops: every step of a sound state answers a next state. That a row which does not apply changes nothing is the model's choice
(log entry 3). -/
def Obligations.StepNeverStops : Prop :=
  ∀ s : State, s.wf = true → goesOn (step s) = true

/-- The machine right after reset: sound, no command waiting, the reset of level 0 asserted by source 0 with its cause bit, and every other register
at its reset value. Registers with no reset value of their own start at the one of log entry 1. -/
def Obligations.ResetState : Prop :=
  State.reset.wf = true ∧ State.reset.pending = [] ∧ State.reset.sys.rst = some 0 ∧
  State.reset.reg .sysCause = 1 ∧ State.reset.reg .sysCauseSnap = 1 ∧
  (∀ r : Reg, r ≠ .sysCause → r ≠ .sysCauseSnap → State.reset.reg r = regDefault r.addr) ∧ State.reset.sys.trouble = 0

/-- The trouble word (R12): bit n of the 64-bit quantity is bit n of TRB_LO at SYS+0x0100 for n to 31, and bit n − 32 of TRB_HI at SYS+0x0104 from
32 on. -/
def Obligations.TroubleHalves : Prop :=
  Reg.addr .trbLo = Reg.addr .sysState + 0x0100 ∧ Reg.addr .trbHi = Reg.addr .sysState + 0x0104 ∧
  ∀ (s : State) (n : Nat), (n < 32 → (s.regShown .trbLo).getLsbD n = s.sys.trouble.getLsbD n) ∧
    (32 ≤ n → n < 64 → (s.regShown .trbHi).getLsbD (n - 32) = s.sys.trouble.getLsbD n)

/-- The hop limit register (R466): its place in the DMA block, its reset value, the resets that restore it (its reset level is 2) and those that do
not, what a write of its field does (a write of 0 is ignored, any other is `dma.hop_limit` at once), and a reserved half that no write changes. -/
def Obligations.HopLimitRegister : Prop :=
  Reg.addr .dmaHop = 0x40070000 + 0x0008 ∧ Reg.resetValue .dmaHop = 0x00001000 ∧ Reg.level .dmaHop = 2 ∧ State.reset.reg .dmaHop = 0x00001000 ∧
  (∀ (s : State) (level src : Nat), level ≤ 2 → (s.assertReset level src).reg .dmaHop = 0x00001000) ∧
  (∀ (s : State) (src : Nat), (s.assertReset 3 src).reg .dmaHop = s.reg .dmaHop) ∧
  ∀ (s : State) (cls : Cls) (v : Word), s.regShown .dmaHop = s.reg .dmaHop ∧
    (fld v 0 16 = 0 → (s.regWrite cls .dmaHop v).rf .dmaHop 0 16 = s.rf .dmaHop 0 16 ∧
      (s.regWrite cls .dmaHop v).settings.dmaHopLimit = s.settings.dmaHopLimit) ∧
    (fld v 0 16 ≠ 0 → (s.regWrite cls .dmaHop v).rf .dmaHop 0 16 = fld v 0 16 ∧ (s.regWrite cls .dmaHop v).settings.dmaHopLimit = fld v 0 16) ∧
    (s.regWrite cls .dmaHop v).rf .dmaHop 16 16 = s.rf .dmaHop 16 16

/-- The Keeper's count of corrected errors (R436): its place, its reset value, the resets that restore it and the one that does not, that a write of
it changes no register, and that a corrected error of any source adds one, wrapping. -/
def Obligations.CorrectedErrorCount : Prop :=
  Reg.addr .kprCeCnt = 0x40090000 + 0x0010 ∧ Reg.resetValue .kprCeCnt = 0x00000000 ∧ Reg.level .kprCeCnt = 2 ∧
  (∀ (s : State) (level src : Nat), level ≤ 2 → (s.assertReset level src).reg .kprCeCnt = 0) ∧
  (∀ (s : State) (src : Nat), (s.assertReset 3 src).reg .kprCeCnt = s.reg .kprCeCnt) ∧
  ∀ (s : State) (cls : Cls) (v : Word) (i src : Nat) (syn : Byte), s.regShown .kprCeCnt = s.reg .kprCeCnt ∧
    (∀ r : Reg, (s.regWrite cls .kprCeCnt v).reg r = s.reg r) ∧ (s.kprCe i src syn).reg .kprCeCnt = s.reg .kprCeCnt + 1

/-- A read-modify-write whose read finds a correctable error (R425): the word written is the corrected one with the new bytes in the places the mask
names, with no bit of it in error any more, so that it then reads clean; and the write counts as a corrected error, in the count and in trouble bit
0. A word is written here as its data and the bits that stand flipped in it (log entry 7). -/
def Obligations.CorrectedMerge : Prop :=
  ∀ (s : State) (i : Nat) (new d : BitVec 64) (m : Byte), (s.kprWord i).decode = .corrected d → s.rf .kprFlipCtl 8 1 = 0 →
    (s.kprRmw i new m).kprWord i = { data := mergeBytes d new m } ∧ ((s.kprRmw i new m).kprWord i).decode = .clean (mergeBytes d new m) ∧
    (∀ k : Nat, k < 64 → (mergeBytes d new m).getLsbD k = if m.getLsbD (k / 8) then new.getLsbD k else d.getLsbD k) ∧
    (s.kprRmw i new m).reg .kprCeCnt = s.reg .kprCeCnt + 1 ∧ (s.kprRmw i new m).trb 0 = true

/-- Every control register's address leads back to it, so no two registers share an address; each lies in the register space, on a word. Writing a
stored register gives it the value and leaves every other register, and everything else of the device, as it was. A write of a register with no
behaviour of its own: its RW fields take the value, its W1C fields clear where the value has a 1, and every other bit, every other register and the
rest of the device stay. -/
def Obligations.Registers : Prop :=
  ((∀ r : Reg, Reg.ofAddr r.addr = some r) ∧ (∀ r q : Reg, r.addr = q.addr → r = q) ∧
   (∀ r : Reg, r.addr % 4 = 0 ∧ 0x40000000 ≤ r.addr ∧ r.addr < 0x80000000)) ∧
  (∀ (s : State) (r q : Reg) (v : Word), Memory.wf s = true →
     (s.setReg r v).reg r = v ∧ (q ≠ r → (s.setReg r v).reg q = s.reg q) ∧ Memory.wf (s.setReg r v) = true ∧
     { s.setReg r v with regs := s.regs } = s) ∧
  (∀ (s : State) (r : Reg) (v : Word), mirrorsOf r = [] →
     (s.plainReg r v).reg r = (((s.reg r &&& ~~~r.rw) ||| (v &&& r.rw)) &&& ~~~(v &&& r.w1c)) ∧
     (∀ q : Reg, q ≠ r → (s.plainReg r v).reg q = s.reg q) ∧ { s.plainReg r v with regs := s.regs } = s)

/-- A row that writes a word: an aligned write of a class that can issue, which the protection unit allows, to a register writes that register and
starts the channels it starts; to a Keeper word it writes the word. A write the fabric has no place for leaves the registers as they are (log entry
3). -/
def Obligations.RegisterWriteRows : Prop :=
  ∀ (s : State) (cls : Cls), s.canIssue cls = true →
    (∀ (a v : Word) (r : Reg), s.verdict cls true a.toNat = none → s.place a.toNat 4 = .reg (some r) → (∀ g : Fin 8, r ≠ .galWptLoad g) →
      exec (.registerWrite cls a v) s = .next (s.regWrite cls r v).dmaKick) ∧
    (∀ (a v : Word) (k r : Nat), s.verdict cls true a.toNat = some (k, r) →
      exec (.registerWrite cls a v) s = .next (s.refuse cls true k r (coreOf cls) a.toNat).dmaKick) ∧
    (∀ (a v : Word), s.verdict cls true a.toNat = none → s.place a.toNat 4 = .none → exec (.registerWrite cls a v) s = .next s.dmaKick) ∧
    (∀ (f : Mirror) (value : Nat), s.verdict cls true (mirrorField f).1.addr = none →
      s.place (mirrorField f).1.addr 4 = .reg (some (mirrorField f).1) →
      exec (.mirroredFieldWrite cls f value) s = .next (s.regWrite cls (mirrorField f).1
        (setFld (s.reg (mirrorField f).1 &&& (mirrorField f).1.rw) (mirrorField f).2.1 (mirrorField f).2.2 value)).dmaKick) ∧
    (∀ (a : Word) (w : Width) (v : BitVec 64), w ≠ .w8 → s.verdict cls true a.toNat = none → s.place a.toNat w.bytes = .keeper →
      exec (.narrowWrite cls a w v false) s =
        .next (s.kprNarrow ((a.toNat - 0x20000000) / 8) (laneData a.toNat (v.toNat % 256 ^ w.bytes)) (laneMask a.toNat w.bytes)).dmaKick) ∧
    (∀ (a : Word) (w : Width) (v : BitVec 64), s.verdict cls true a.toNat = none → s.place a.toNat w.bytes = .keeper →
      exec (.narrowWrite cls a w v true) s =
        .next (s.kprParityWrite ((a.toNat - 0x20000000) / 8) (laneData a.toNat v.toNat) (laneMask a.toNat w.bytes))) ∧
    (∀ v : Word, s.verdict cls true (Reg.addr .kprFlipCtl) = none → s.place (Reg.addr .kprFlipCtl) 4 = .reg (some .kprFlipCtl) →
      exec (.flipMaskArm cls v) s = .next (s.writeFlip .kprFlipCtl v).dmaKick) ∧
    (s.verdict cls true (Reg.addr .mpuCtl) = none → s.place (Reg.addr .mpuCtl) 4 = .reg (some .mpuCtl) →
      exec (.mpuCommit cls) s = .next (s.writeMpuCtl (BitVec.ofNat 32 ((s.reg .mpuCtl &&& Reg.rw .mpuCtl).toNat + 1))).dmaKick)

/-- A commit with no bad shadow makes every shadow region active together; with one it changes no region and sets commit_err. The protection unit's
verdict: a privileged access is refused only in overlapping regions; a user access in no region is refused; user accesses outside the Keeper's last
MiB are refused while lockdown is on; the debug class never reaches the Vault's registers. A refused access is recorded with its class, direction,
kind, region and address, counts for its class and sets its trouble bit. -/
def Obligations.Protection : Prop :=
  (∀ s : State,
     ((∀ i : Fin 16, (s.mpu.shadow.get i).commits = true) → s.mpuCommit.mpu.active = s.mpu.shadow ∧ s.mpuCommit.rf .mpuCtl 4 1 = 0) ∧
     ((∃ i : Fin 16, (s.mpu.shadow.get i).commits = false) → s.mpuCommit.mpu = s.mpu ∧ s.mpuCommit.rf .mpuCtl 4 1 = 1)) ∧
  (∀ (s : State) (write : Bool) (a : Nat),
     ((s.mpu.hits a).length ≤ 1 → s.verdict .privileged write a = none) ∧
     (∀ cls : Cls, 2 ≤ (s.mpu.hits a).length → (s.verdict cls write a).isSome = true) ∧
     (s.mpu.hits a = [] → s.rf .mpuCtl 1 1 = 0 → s.locked = false → s.verdict .user write a = some (0, 15)) ∧
     (s.rf .mpuCtl 1 1 = 1 → a < 0x21700000 → (s.verdict .user write a).map (·.1) = some 4) ∧
     (0x40060000 ≤ a → a < 0x40070000 → (s.verdict .debug write a).map (·.1) = some 5) ∧
     (s.locked = true → (s.verdict .debug write a).isSome = true) ∧
     (∀ i : Nat, s.mpu.hits a = [i] → s.rf .mpuCtl 1 1 = 0 → s.locked = false →
       (s.verdict .user write a = none ↔ s.mpu.attr i (if write then 2 else 1) = true))) ∧
  (∀ (s : State) (cls : Cls) (write : Bool) (kind region init a : Nat), kind < 8 → region < 16 → init < 16 → a < 2 ^ 32 →
     let t : State := s.noteRefused cls write kind region init a
     t.rf .mpuFault 0 1 = 1 ∧ t.rf .mpuFault 1 2 = clsNum cls ∧ t.rf .mpuFault 3 1 = b2n write ∧ t.rf .mpuFault 4 3 = kind ∧
     t.rf .mpuFault 8 4 = region ∧ t.rf .mpuFault 16 4 = init ∧ (t.reg .mpuFaultAddr).toNat = a ∧ t.trb (refusedBit cls kind) = true ∧
     t.rf .mpuFaultCnt 0 16 = (if cls = .user then satAdd 16 (s.rf .mpuFaultCnt 0 16) 1 else s.rf .mpuFaultCnt 0 16) ∧
     t.rf .mpuFaultCnt 16 16 = (if cls = .debug then satAdd 16 (s.rf .mpuFaultCnt 16 16) 1 else s.rf .mpuFaultCnt 16 16))

/-- Raising a trouble bit sets it, records the lifetime second, and leaves every other bit and its second. A trouble write of one half clears the
bits it names, zeroes their seconds and leaves the other half; the bits that report a condition (26 a health of 1 or 2, 27 a health of 2, 28 a
backlog, 50 a rail below its warning threshold) set again while it holds, and no register, nothing of the map, the galleries, the boot store, the
Keeper or the console changes. SYS_CAUSE_CLEAR clears the cause bits it names and changes nothing else. -/
def Obligations.TroubleAndCause : Prop :=
  (∀ (s : State) (n m : Nat), n < 64 →
     (s.raise n).trb n = true ∧ Store.get (fun _ => (0 : Word)) (s.raise n).sys.trbTime n = BitVec.ofNat 32 s.sys.life ∧
     (m ≠ n → (s.raise n).trb m = s.trb m ∧ Store.get (fun _ => (0 : Word)) (s.raise n).sys.trbTime m = Store.get (fun _ => (0 : Word)) s.sys.trbTime m)) ∧
  (∀ (s : State) (hi : Bool) (mask : Word),
     let gone (n : Nat) : Bool := decide (n < 64 ∧ (32 ≤ n ↔ hi = true)) && mask.getLsbD (n % 32) && troubleValid.getLsbD n
     let holds (n : Nat) : Bool := (n == 26 && s.map.mounted && decide (1 ≤ s.map.health)) || (n == 27 && s.map.mounted && s.map.health == 2) ||
       (n == 28 && s.map.mounted && s.backlog) || (n == 50 && s.brownWarning)
     ∃ t : State, exec (.troubleClearWrite hi mask) s = .next t ∧ (∀ n : Nat, t.trb n = ((s.trb n && !gone n) || holds n)) ∧
       (∀ n : Nat, holds n = false → Store.get (fun _ => (0 : Word)) t.sys.trbTime n =
         if gone n then 0 else Store.get (fun _ => (0 : Word)) s.sys.trbTime n) ∧
       t.regs = s.regs ∧ t.map = s.map ∧ t.gals = s.gals ∧ t.bst = s.bst ∧ t.kpr = s.kpr ∧ t.con = s.con) ∧
  (∀ (s : State) (mask : Word), ∃ t : State, exec (.sysCauseClear mask) s = .next t ∧
     t.reg .sysCause = s.reg .sysCause &&& ~~~(mask &&& Reg.w1c .sysCause) ∧ (∀ q : Reg, q ≠ .sysCause → t.reg q = s.reg q) ∧
     { t with regs := s.regs } = s)

/-- What asserting a reset of a level from a source leaves, whatever the state: the level in progress, its domains waiting for release in order, the
source's cause bit set and the snapshot equal to the cause register, and SYS_RST_LAST naming the level and the source. A request while no reset is
in progress asserts one; a wider request replaces one in progress; a request inside the scope of the one in progress only sets its cause bit; a
level 3 and a level 2 request that meet each other are kept. SYS_RST_REQ with go: a level 0 to 3 resets the part from source 7, a debug access from
source 11 at its fused level, a level 4 resets an idle unit and fails on one that is not. A level 4 reset of a unit: its level 4 registers read
their reset values, every other register stays but the ones that record the reset, firmware writes a gallery's GAL_CTL again with its setting and its
matched targets, and the reset of a lane puts it back in service. -/
def Obligations.ResetsTaken : Prop :=
  (∀ (s : State) (level src : Nat), level ≤ 3 → src ≤ 12 →
     let t : State := s.assertReset level src
     t.sys.rst = some level ∧ t.sys.toRelease = releaseOrder level ∧ t.rf .sysCause src 1 = 1 ∧
     t.reg .sysCauseSnap = t.reg .sysCause ∧ t.rf .sysRstLast 0 4 = level ∧ t.rf .sysRstLast 4 4 = src ∧
     t.rf .sysRstLast 16 16 = (if level = 0 then 0 else satAdd 16 (s.rf .sysRstLast 16 16) 1)) ∧
  (∀ (s : State) (src level cur : Nat), level ≤ 3 → cur ≤ 3 → s.bst.pendingSwap = none →
     (s.sys.rst = none → s.requestReset src level = s.assertReset level src) ∧
     (s.sys.rst = some cur → levelContains cur level = true → s.requestReset src level = s.cause src) ∧
     (s.sys.rst = some cur → level < cur → level ≤ 1 → s.requestReset src level = s.assertReset level src) ∧
     (s.sys.rst = some 2 → level = 3 → (s.requestReset src level).sys.after2 = some src ∧ (s.requestReset src level).front.ctxs = []) ∧
     (s.sys.rst = some 3 → level = 2 → (s.requestReset src level).sys.after3 = some src)) ∧
  (∀ (s : State) (level : BitVec 3) (unit : BitVec 5), s.sys.rst = none →
     let u : State := (s.setRf .sysRstReq 0 3 level.toNat).setRf .sysRstReq 4 5 unit.toNat
     (∀ cls : Cls, cls ≠ .debug → level.toNat ≤ 3 → exec (.sysRstReqGo cls level unit) s = .next (u.assertReset (u.raised level.toNat) 7)) ∧
     (exec (.sysRstReqGo .debug level unit) s = .next (u.assertReset (u.raised (u.fuseLevel 11)) 11)) ∧
     (∀ (cls : Cls) (n : UnitName), cls ≠ .debug → level.toNat = 4 → unitOf unit.toNat = some n →
       (u.unitIdle n = true → exec (.sysRstReqGo cls level unit) s = .next (u.assertUnit n 7)) ∧
       (u.unitIdle n = false → exec (.sysRstReqGo cls level unit) s = .next (u.setRf .sysRstReq 10 1 1)))) ∧
  (∀ (s : State) (u : UnitName) (src : Nat) (r : Reg), Memory.wf s = true → src ≤ 12 →
     (r ∉ [.sysCause, .sysCauseSnap, .sysRstLast, .trbSnapLo, .trbSnapHi, .cdcLaneStat] → (∀ g : Fin 8, u = .gal g → r ≠ .galCtl g) →
       (s.assertUnit u src).reg r = if r.level = 4 ∧ unitReg u r = true then regDefault r.addr else s.reg r) ∧
     (∀ g : Fin 8, u = .gal g → (s.assertUnit u src).rf (.galCtl g) 0 1 = b2n (s.settings.galEnable.get g) ∧
       (s.assertUnit u src).rf (.galCtl g) 8 8 = (s.gals.get g).ceMatch.toNat) ∧
     (∀ h : Fin 8, u = .hard h → (s.assertUnit u src).reg .cdcLaneStat = s.reg .cdcLaneStat &&& ~~~(BitVec.ofNat 32 (2 ^ (16 + h.val)))) ∧
     (∀ n : Fin 2, u = .soft n → (s.assertUnit u src).reg .cdcLaneStat = s.reg .cdcLaneStat &&& ~~~(BitVec.ofNat 32 (2 ^ (24 + n.val)))))

/-- The rows that request a reset of the whole part: with none in progress each asserts its level from its source. The two rows that reset the
controller, where it can be reached: at level 3 Front's NVMe state goes (no queues, no contexts, not enabled) and nothing of the map but what lies in
host memory. -/
def Obligations.ResetRows : Prop :=
  (∀ s : State, s.sys.rst = none →
     (∃ u : State, exec .powerOnReset s = .next (u.assertReset 0 0) ∧ u.regs = s.regs ∧ u.sys.railsGood = false ∧ u.sys.railMv = Vector.replicate 5 0) ∧
     (∀ rail : Rail, rail = .vcc33 ∨ rail = .vdd18 ∨ rail = .vddc →
       exec (.brownOut rail) s = .next (let u : State := { s with sys := { s.sys with railsGood := false } }
         u.assertReset (u.raised (u.fuseLevel 1)) 1)) ∧
     (∀ rail : Rail, rail = .vphy ∨ rail = .vddqg → exec (.brownOut rail) s = .next s) ∧
     exec .rstNLow s = .next (State.assertReset { s with sys := { s.sys with rstN := false } } 0 2) ∧
     exec .perstAsserted s = .next (let u : State := { s with sys := { s.sys with perst := false } }
       u.assertReset (u.raised (u.fuseLevel 3)) 3) ∧
     (s.barUp = true → s.accessWake.sys.rst = none → exec (.nvmSubsystemReset 0x4E564D65) s =
       .next (s.accessWake.assertReset (s.accessWake.raised (s.accessWake.fuseLevel 6)) 6)) ∧
     (s.barUp = false → exec (.nvmSubsystemReset 0x4E564D65) s = .next s) ∧
     (∀ v : Word, v ≠ 0x4E564D65 → exec (.nvmSubsystemReset v) s = .next s)) ∧
  (∀ s : State,
     (s.cfgUp = true → exec .flr s = .next (s.controllerReset 4)) ∧ (s.cfgUp = false → exec .flr s = .next s) ∧
     (s.barUp = true → s.front.en = true → exec .ccEnCleared s = .next (s.accessWake.controllerReset 5)) ∧
     ((s.barUp = false ∨ s.front.en = false) → exec .ccEnCleared s = .next s) ∧
     (∀ src : Nat, s.sys.rst = none → s.bst.pendingSwap = none → s.fuseLevel src = 3 → s.controllerReset src = s.assertReset 3 src) ∧
     (∀ src : Nat, (s.assertReset 3 src).front.en = false ∧ (s.assertReset 3 src).front.sqs = [] ∧ (s.assertReset 3 src).front.ctxs = [] ∧
       (s.assertReset 3 src).map = { s.map with inHmb := [] } ∧ (s.assertReset 3 src).con = s.con))

/-- The rows of the pins and of the link that assert nothing. The first events after power: the always-on power good, the straps, the root PLL, the
domains and the host PHY. What a row needs to apply is log entries 3 and 28. -/
def Obligations.StartUpRows : Prop :=
  (∀ s : State,
     exec .rstNHigh s = .next { s with sys := { s.sys with rstN := true } } ∧
     exec .perstDeasserted s = .next { s with sys := { s.sys with perst := true } } ∧
     (s.isMaster = true → s.sys.released.getLsbD 4 = true → s.sys.lanes ≠ .idle → s.sys.ps.val ≤ 3 →
       (∃ t : State, exec .hotReset s = .next t ∧ t.sys.lanes = .detect ∧ t.front.en = false ∧ t.front.sqs = [] ∧ t.front.ctxs = [] ∧ t.front.pcie = {} ∧
         t.regs = (s.resetRegs 3).regs ∧ t.sys.trouble = s.sys.trouble ∧ t.con = s.con) ∧
       (∃ t : State, exec .linkDisable s = .next t ∧ t.sys.lanes = .disabled ∧ t.front.en = false ∧ t.front.sqs = [] ∧ t.front.ctxs = [] ∧ t.front.pcie = {} ∧
         t.regs = (s.resetRegs 3).regs ∧ t.sys.trouble = s.sys.trouble ∧ t.con = s.con)) ∧
     (s.isMaster = true → s.sys.perst = true → s.sys.released.getLsbD 4 = true → s.sys.lanes ≠ .idle → s.sys.lanes ≠ .disabled →
       exec .hostLinkDown s = .next (State.raise { s with sys := { s.sys with lanes := .detect } } 40)) ∧
     exec .lastRailGood s = .next { s with sys := { s.sys with railsGood := true } }) ∧
  (∀ s : State,
     (s.powering = true → s.sys.aonGood = false →
       exec .aonCapGood s = .next (State.setRf { s with sys := { s.sys with aonGood := true, pullUp := true } } .sysClk 8 1 1)) ∧
     (∀ codes : Vector (BitVec 6) 16, s.powering = true → s.sys.pullUp = true → ∃ t : State, exec (.strapSample codes) s = .next t ∧
       t.reg .sysStrap = strapWord (medianCode (codes.toList.map BitVec.toNat)) ∧ t.sys.strapped = true ∧ t.sys.pullUp = false) ∧
     (s.sys.released.getLsbD 0 = true → s.rf .sysClk 1 1 = 0 → s.sys.ps ≠ 4 → exec .rootPllLock s = .next s.rootOn) ∧
     (∀ (d : Clk) (kat : BitVec 4) (a b : Bool), exec (.domainRelease d true kat a b) s = .next (s.release d kat a b) ∧
       exec (.domainRelease d false kat a b) s = .next s) ∧
     (s.sys.refclk = true → s.sys.released.getLsbD 0 = true → s.sys.ps ≠ 4 →
       exec .hostPhyPllLock s = .next (((s.setRf .sysClk 2 1 1).setRf .sysClk 12 1 1).release .hclk 0 true true)) ∧
     (∀ mask : BitVec 5, exec (.forceRelease mask) s = .next (s.forceRelease mask)))

/-- The reference clock comes, and is lost: CLK status follows it, and the galleries in service retrain. A rail that falls below its warning
threshold sets its bit of SYS_SUPPLY and trouble bit 50; at or above it the bit clears. -/
def Obligations.ClockAndSupplyRows : Prop :=
  (∀ s : State,
     (s.sys.ps ≠ 4 → ∃ t : State, exec .refclkArrival s = .next t ∧ t.sys.refclk = true ∧ t.rf .sysClk 3 1 = 1) ∧
     (s.rf .sysClk 1 1 = 1 → s.rf .sysClk 0 1 = 0 → ∃ t : State, exec (.pllUnlock false) s = .next t ∧ t.sys.refclk = false ∧ t.trb 49 = true ∧
       t.rf .sysClk 2 1 = 0 ∧ t.rf .sysClk 3 1 = 0 ∧ ∀ g : Fin 8, (s.gals.get g).inService = true → s.galPowered g = true →
         (t.gals.get g).ranFallback = true ∧ (t.gals.get g).retrain ≠ .none ∧ t.rate g ≤ 800) ∧
     (s.rf .sysClk 1 1 = 1 → s.rf .sysClk 0 1 = 0 → exec (.pllUnlock true) s = .next s.rootFallback) ∧
     ((s.rf .sysClk 1 1 ≠ 1 ∨ s.rf .sysClk 0 1 ≠ 0) → exec (.pllUnlock false) s = .next s ∧
       (s.refclkMayStop = true → exec (.pllUnlock true) s = .next s.refclkGone) ∧ (s.refclkMayStop = false → exec (.pllUnlock true) s = .next s)) ∧
     (s.sys.ps = 4 → exec .refclkArrival s = .next { s with sys := { s.sys with refclk := true } })) ∧
  (∀ (s : State) (rail : Rail) (mv : Nat),
     (100 * mv < (s.setRail rail mv).warnLevel rail → ∃ t : State, exec (.supplyWarning rail mv) s = .next t ∧
       t.rf .sysSupply rail.num 1 = 1 ∧ t.trb 50 = true ∧ t.brownWarning = true) ∧
     ((s.setRail rail mv).warnLevel rail ≤ 100 * mv → ∃ t : State, exec (.supplyWarningCleared rail mv) s = .next t ∧
       t.rf .sysSupply rail.num 1 = 0 ∧ t.sys.trouble = s.sys.trouble))

/-- A host command that can be at Front gets its context, runs in it, and everything but Front is as it was. A host command that cannot be at Front
yet waits in its queue: its row changes nothing (four rows stand for the three kinds of command: admin, I/O, feature and log page). Completing a
command posts its completion, or lets it wait for room in its queue, drops its context, and changes nothing but Front. That a command which cannot
be taken waits with no change is log entry 3. -/
def Obligations.HostCommands : Prop :=
  (∀ (s : State) (h : Hdr) (i : Instr), s.takes h i = true →
     (∃ c : Ctx, (s.taken h i).front.ctx? h = some c ∧ c.cmd = some i ∧ c.started = true) ∧
     { s.taken h i with front := s.front } = s ∧ (s.taken h i).front.sqs = s.front.sqs ∧ (s.taken h i).front.cqs = s.front.cqs) ∧
  (∀ (s : State) (h : Hdr) (nsid : Word) (a n : Nat) (lid : Byte) (numd : BitVec 32) (lpo : BitVec 64) (ab : BitVec 3),
     (s.takes h (.read h nsid a n) = false → exec (.read h nsid a n) s = .next s) ∧
     (s.takes h (.sanitizeBlockErase h) = false → exec (.sanitizeBlockErase h) s = .next s) ∧
     (s.takes h (.setFeaturesArbitration h ab) = false → exec (.setFeaturesArbitration h ab) s = .next s) ∧
     (s.takes h (.getLogPage h lid numd lpo true) = false → exec (.getLogPage h lid numd lpo true) s = .next s)) ∧
  (∀ (s : State) (h : Hdr) (st : NStat) (dw0 : Nat) (data : Payload) (x : Ctx) (sq : SubQueue) (cq : ComQueue),
     s.front.ctx? h = some x → Store.find s.front.sqs h.sqid.val = some sq → Store.find s.front.cqs sq.cq = some cq →
     let t : State := s.done h st dw0 data
     t.completed h st = true ∧ t.front.ctx? h = none ∧ { t with front := s.front } = s ∧
     (s.front.aborts = [] → cq.room = true →
       t.front.posted = s.front.posted ++ [{ hdr := h, sct := st.sct, sc := st.sc, dnr := st.dnr, dw0, data }]) ∧
     (s.front.aborts = [] → cq.room = false → t.front.posted = s.front.posted ∧
       t.front.cqWait = s.front.cqWait ++ [{ hdr := h, sct := st.sct, sc := st.sc, dnr := st.dnr, dw0, data }]))

/-- Doorbells move the tail or the head of an existing queue; fetching takes commands at the queue's head into fresh contexts. Enabling the
controller, and its readiness. Shutdown: a normal one leaves SHST at 01b until the map settles, at 10b at once with no map; an abrupt one at 10b at
once. The admin queue's size is log entry 25. -/
def Obligations.ControllerRows : Prop :=
  (∀ (s : State) (q : Fin 129),
     (∀ (tail : BitVec 16) (x : SubQueue), s.barUp = true → s.linked.doorbellWake.front.en = true →
       Store.find s.linked.doorbellWake.front.sqs q.val = some x → tail.toNat < x.size →
       exec (.sqTailDoorbell q tail) s = .next (let t : State := s.linked.doorbellWake
         { t with front := { t.front with sqs := Store.ins q.val { x with tail := tail.toNat } t.front.sqs } })) ∧
     (∀ (head : BitVec 16) (x : ComQueue), s.barUp = true → s.linked.doorbellWake.front.en = true →
       Store.find s.linked.doorbellWake.front.cqs q.val = some x → head.toNat < x.size →
       s.linked.doorbellWake.front.cqWait = [] →
       exec (.cqHeadDoorbell q head) s = .next (let t : State := s.linked.doorbellWake
         { t with front := Front.intxTick { t.front with cqs := Store.ins q.val { x with head := head.toNat } t.front.cqs } })) ∧
     (∀ (sqes : List Sqe) (x : SubQueue), s.mayFetch q sqes = true → Store.find s.front.sqs q.val = some x →
       (∀ e ∈ sqes, sqeFault e (q.val == 0) = none) →
       ∃ t : State, exec (.commandFetch q sqes) s = .next t ∧
         t.front.ctxs = s.front.ctxs ++ sqes.map (fun (e : Sqe) => ({ hdr := ⟨q, e.cid⟩ } : Ctx)) ∧
         t.front.sqs = Store.ins q.val { x with head := (x.head + sqes.length) % x.size } s.front.sqs ∧ { t with front := s.front } = s) ∧
     (∀ (e : Sqe) (x : SubQueue) (cq : ComQueue) (st : NStat), s.mayFetch q [e] = true → Store.find s.front.sqs q.val = some x →
       Store.find s.front.cqs x.cq = some cq → sqeFault e (q.val == 0) = some st →
       ∃ t : State, exec (.commandFetch q [e]) s = .next t ∧ t.completed ⟨q, e.cid⟩ st = true ∧ { t with front := s.front } = s)) ∧
  (∀ (s : State),
     (∀ crime : Bool, s.barUp = true → s.front.en = false → s.bst.pendingSwap = none → s.front.sanitize ≠ .block →
       ∃ t : State, exec (.ccEnSet ⟨crime, []⟩) s = .next t ∧ t.front.en = true ∧ t.front.crime = crime ∧ t.front.shst = 0 ∧
         Store.find t.front.sqs 0 = some s.front.adminQ ∧ Store.find t.front.cqs 0 = some s.front.adminCq) ∧
     (∀ (crime : Bool) (a : HostAccess) (l : List HostAccess), exec (.ccEnSet ⟨crime, a :: l⟩) s = exec (.ccEnSet ⟨crime, l⟩) (s.hostAccess a)) ∧
     (∀ v : Nat, s.barUp = true → s.front.en = false → s.sys.ps ≠ 3 → s.sys.lanes = .up →
       (s.hostAccess (.bar 0x24 4 v)).front.aqa = BitVec.ofNat 32 (v % 2 ^ 32) &&& 0x0FFF0FFF) ∧
     (∀ deadline : Bool, s.front.en = true → s.rdyNow = false → s.sys.st ≠ .test → s.resetting = false →
       (s.front.crime || s.map.mounted || deadline) = true →
       exec (.controllerReady deadline) s = .next { s with front := { s.front with rdy := true, leaving := false } }) ∧
     (s.front.en = true → s.front.crime = false → s.map.mounted = false → exec (.controllerReady false) s = .next s)) ∧
  (∀ (s : State), s.barUp = true → s.front.en = true → s.resetting = false →
     (s.front.shst = 0 → s.accessWake.map.mounted = false → ∃ t : State, exec .normalShutdown s = .next t ∧ t.front.shn = 1 ∧ t.front.shst = 2 ∧
       t.map.normalShutdown = true) ∧
     (s.front.shst = 0 → s.accessWake.map.mounted = true → let u : State := s.accessWake.saveHist
       exec .normalShutdown s = .next (State.settle { u with
         front := { u.front with shn := 1, shst := 1, draining := !u.front.staging.isEmpty } })) ∧
     (∃ t : State, exec .abruptShutdown s = .next t ∧ t.front.shn = 2 ∧ t.front.shst = 2 ∧ t.map = s.accessWake.abandonStaging.map))

/-- The queue commands of the admin set. Abort and Asynchronous Event Request: a command with no part elsewhere is aborted at once; a request with
no event kept is held. Statuses and DW0 of Abort are those of NVMe (log entry 17). -/
def Obligations.QueueAndAbortCommands : Prop :=
  (∀ (s : State) (h : Hdr) (qid qsize iv cqid : BitVec 16),
     (s.takes h (.createIoCq h qid qsize true iv) = true →
       let t : State := s.taken h (.createIoCq h qid qsize true iv)
       qidBad qid.toNat (Store.has t.front.cqs qid.toNat) = false → 1 ≤ qsize.toNat → qsize.toNat ≤ 4095 → iv.toNat ≤ 128 →
       exec (.createIoCq h qid qsize true iv) s = .next (State.good { t with front := { t.front with
         cqs := Store.ins qid.toNat { size := qsize.toNat + 1, iv := iv.toNat, tail := 0, head := 0 } t.front.cqs } } h)) ∧
     (s.takes h (.createIoSq h qid qsize true cqid) = true →
       let t : State := s.taken h (.createIoSq h qid qsize true cqid)
       qidBad qid.toNat (Store.has t.front.sqs qid.toNat) = false → 1 ≤ qsize.toNat → qsize.toNat ≤ 4095 →
       Store.has t.front.cqs cqid.toNat = true →
       exec (.createIoSq h qid qsize true cqid) s = .next (State.good { t with front := { t.front with
         sqs := Store.ins qid.toNat { size := qsize.toNat + 1, cq := cqid.toNat, head := 0, tail := 0 } t.front.sqs } } h)) ∧
     (s.takes h (.deleteIoSq h qid) = true →
       let t : State := s.taken h (.deleteIoSq h qid)
       qid.toNat ≠ 0 → Store.has t.front.sqs qid.toNat = true → (t.front.ctxs.any fun c => c.hdr.sqid.val == qid.toNat) = false →
       exec (.deleteIoSq h qid) s = .next (State.good { t with front := { t.front with sqs := t.front.sqs.del qid.toNat } } h)) ∧
     (s.takes h (.deleteIoCq h qid) = true →
       let t : State := s.taken h (.deleteIoCq h qid)
       qid.toNat ≠ 0 → Store.has t.front.cqs qid.toNat = true → (t.front.sqs.any fun e => e.2.cq == qid.toNat) = true →
       exec (.deleteIoCq h qid) s = .next (t.done h .deletionInvalid)) ∧
     (s.takes h (.deleteIoCq h qid) = true →
       let t : State := s.taken h (.deleteIoCq h qid)
       qid.toNat ≠ 0 → Store.has t.front.cqs qid.toNat = true → (t.front.sqs.any fun e => e.2.cq == qid.toNat) = false → t.front.cqWait = [] →
       exec (.deleteIoCq h qid) s = .next (State.good { t with front := { t.front with cqs := t.front.cqs.del qid.toNat } } h))) ∧
  (∀ (s : State) (h : Hdr),
     (∀ (sqid cid : BitVec 16) (c : Ctx), s.takes h (.abort h sqid cid) = true →
       let t : State := s.taken h (.abort h sqid cid)
       t.front.aborts.length < 4 →
       (t.front.ctxs.find? fun c => c.hdr.sqid.val == sqid.toNat && c.hdr.cid == cid && c.hdr != h) = some c → c.parts = [] →
       exec (.abort h sqid cid) s = .next (((t.stopCommand c.hdr).done c.hdr .aborted).good h)) ∧
     (∀ (sqid cid : BitVec 16), s.takes h (.abort h sqid cid) = true →
       let t : State := s.taken h (.abort h sqid cid)
       t.front.aborts.length < 4 → (t.front.ctxs.find? fun c => c.hdr.sqid.val == sqid.toNat && c.hdr.cid == cid && c.hdr != h) = none →
       exec (.abort h sqid cid) s = .next (t.done h .success 1)) ∧
     (s.takes h (.asyncEventRequest h) = true →
       let t : State := s.taken h (.asyncEventRequest h)
       t.front.aers.length < 8 →
       (t.front.events = [] → ∃ u : State, exec (.asyncEventRequest h) s = .next u ∧ u.front.aers = t.front.aers ++ [h]) ∧
       (∀ (e : AsyncEvent) (rest : List AsyncEvent), t.front.events = e :: rest → exec (.asyncEventRequest h) s =
         .next (State.done { t with front := { t.front with events := rest } } h .success (e.kind + e.info * 256 + e.page * 65536)))) ∧
     (s.takes h (.asyncEventRequest h) = true → 8 ≤ (s.taken h (.asyncEventRequest h)).front.aers.length →
       exec (.asyncEventRequest h) s = .next ((s.taken h (.asyncEventRequest h)).done h .aerLimit)))

/-- Features that are kept with Front: the value given is the value kept, and the command completes Successful; an operand the feature has no place
for ends in Invalid Field in Command. Features that live in the settings (saved, where Save is set, to the saved set) or act at once. Get Features
answers every feature the device has, and refuses any other. Identify and Get Log Page answer with data; an unknown structure, an unknown page and an
offset that is not whole words or lies past the page are refused with their status. Statuses and the fields the manual only names are those of NVMe
(log entries 17 and 62). -/
def Obligations.FeatureCommands : Prop :=
  (∀ (s : State) (h : Hdr),
     (∀ ab : BitVec 3, s.takes h (.setFeaturesArbitration h ab) = true → exec (.setFeaturesArbitration h ab) s =
       .next ((s.taken h (.setFeaturesArbitration h ab)).feature h fun f => { f with arbBurst := ab.toNat })) ∧
     (∀ tler : BitVec 16, s.takes h (.setFeaturesErrorRecovery h tler) = true → exec (.setFeaturesErrorRecovery h tler) s =
       .next ((s.taken h (.setFeaturesErrorRecovery h tler)).feature h fun f => { f with tler := tler.toNat })) ∧
     (∀ thr time : Byte, s.takes h (.setFeaturesInterruptCoalescing h thr time) = true → exec (.setFeaturesInterruptCoalescing h thr time) s =
       .next ((s.taken h (.setFeaturesInterruptCoalescing h thr time)).feature h fun f => { f with coalThr := thr.toNat, coalTime := time.toNat })) ∧
     (∀ dn : Bool, s.takes h (.setFeaturesWriteAtomicity h dn) = true → exec (.setFeaturesWriteAtomicity h dn) s =
       .next ((s.taken h (.setFeaturesWriteAtomicity h dn)).feature h fun f => { f with dn })) ∧
     (∀ mask : Word, s.takes h (.setFeaturesAsyncEventConfig h mask) = true → exec (.setFeaturesAsyncEventConfig h mask) s =
       .next ((s.taken h (.setFeaturesAsyncEventConfig h mask)).feature h fun f => { f with aec := mask })) ∧
     (∀ a b : BitVec 16, s.takes h (.setFeaturesThermalManagement h a b) = true → exec (.setFeaturesThermalManagement h a b) s =
       .next ((s.taken h (.setFeaturesThermalManagement h a b)).feature h fun f => { f with tmt1 := a.toNat, tmt2 := b.toNat })) ∧
     (∀ (iv : BitVec 16) (cd : Bool), s.takes h (.setFeaturesInterruptVector h iv cd) = true →
       let t : State := s.taken h (.setFeaturesInterruptVector h iv cd)
       (iv.toNat ≤ 128 → exec (.setFeaturesInterruptVector h iv cd) s = .next (t.feature h fun f =>
         { f with coalOff := (f.coalOff.filter fun v => v != iv.toNat) ++ (if cd then [iv.toNat] else []) })) ∧
       (128 < iv.toNat → exec (.setFeaturesInterruptVector h iv cd) s = .next (t.done h .invalidField))) ∧
     (∀ (sensor : BitVec 4) (under : Bool) (k : BitVec 16), s.takes h (.setFeaturesTempThreshold h sensor under k) = true →
       let t : State := s.taken h (.setFeaturesTempThreshold h sensor under k)
       let put (v : Vector Nat 3) : Vector Nat 3 := Vector.ofFn fun i : Fin 3 => if sensor.toNat = 15 ∨ sensor.toNat = i.val then k.toNat else v.get i
       ((sensor.toNat ≤ 2 ∨ sensor.toNat = 15) → exec (.setFeaturesTempThreshold h sensor under k) s = .next (t.feature h fun f =>
         if under then { f with underK := put f.underK } else { f with overK := put f.overK })) ∧
       (3 ≤ sensor.toNat → sensor.toNat ≠ 15 → exec (.setFeaturesTempThreshold h sensor under k) s = .next (t.done h .invalidField))) ∧
     (∀ (t : State) (f : Features → Features), t.feature h f = State.good { t with front := { t.front with feats := f t.front.feats } } h)) ∧
  (∀ (s : State) (h : Hdr),
     (∀ ps : BitVec 5, s.takes h (.setFeaturesPowerManagement h ps) = true → ps.toNat ≤ 2 →
       let t : State := s.taken h (.setFeaturesPowerManagement h ps)
       let p : Fin 5 := Fin.ofNat 5 ps.toNat
       exec (.setFeaturesPowerManagement h ps) s = .next (State.good { t with sys := { t.sys with ps := p, lastOp := p, psWant := none } } h)) ∧
     (∀ ps : BitVec 5, s.takes h (.setFeaturesPowerManagement h ps) = true → 3 ≤ ps.toNat → ps.toNat ≤ 4 →
       let t : State := s.taken h (.setFeaturesPowerManagement h ps)
       exec (.setFeaturesPowerManagement h ps) s = .next (State.good { t with
         sys := { t.sys with psWant := some (Fin.ofNat 5 ps.toNat) }
         front := { t.front with draining := t.front.draining || !t.front.staging.isEmpty } } h)) ∧
     (∀ ps : BitVec 5, s.takes h (.setFeaturesPowerManagement h ps) = true → 4 < ps.toNat →
       exec (.setFeaturesPowerManagement h ps) s = .next ((s.taken h (.setFeaturesPowerManagement h ps)).done h .invalidField)) ∧
     (∀ wce save : Bool, s.takes h (.setFeaturesWriteCache h wce save) = true →
       let t : State := s.taken h (.setFeaturesWriteCache h wce save)
       let u : State := { t with
         settings := { t.settings with hostWcache := wce }
         front := { t.front with draining := t.front.draining || (!wce && t.front.staging.any (·.cached)) } }
       exec (.setFeaturesWriteCache h wce save) s =
         .next (State.good (if save then u.saveChange fun x => { x with hostWcache := wce } else u) h)) ∧
     (∀ a b : BitVec 16, s.takes h (.setFeaturesNumberOfQueues h a b) = true →
       let t : State := s.taken h (.setFeaturesNumberOfQueues h a b)
       exec (.setFeaturesNumberOfQueues h a b) s = .next (State.done { t with front := { t.front with
         feats := { t.front.feats with nsq := min 127 a.toNat, ncq := min 127 b.toNat } } } h .success (min 127 a.toNat + 65536 * min 127 b.toNat))) ∧
     (∀ (en save : Bool) (a b : Nat), s.takes h (.setFeaturesApst h en save a b) = true →
       let t : State := s.taken h (.setFeaturesApst h en save a b)
       let f (x : Settings) : Settings := { x with hostApst := en, hostApstPs3 := a, hostApstPs4 := b }
       let u : State := { t with settings := f t.settings }
       (1 ≤ a → a ≤ 60000 → 10 ≤ b → b ≤ 600000 → exec (.setFeaturesApst h en save a b) s = .next (State.good (if save then u.saveChange f else u) h)) ∧
       ((a < 1 ∨ 60000 < a ∨ b < 10 ∨ 600000 < b) → exec (.setFeaturesApst h en save a b) s = .next (t.done h .invalidField))) ∧
     (∀ descs : List (Nat × Nat), s.takes h (.setFeaturesHostMemoryBuffer h true descs) = true →
       let t : State := s.taken h (.setFeaturesHostMemoryBuffer h true descs)
       let mib : Nat := sumNat ((usableHmb descs).map (·.2))
       (64 ≤ mib → exec (.setFeaturesHostMemoryBuffer h true descs) s = .next (State.good (State.setReg { t with
         front := { t.front with hmbBytes := [], hmbDescs := usableHmb descs }, map := { t.map with inHmb := [] } } .mapHmb
           (BitVec.ofNat 32 (mib + 65536))) h)) ∧
       (mib < 64 → exec (.setFeaturesHostMemoryBuffer h true descs) s = .next (t.done h .invalidField))) ∧
     (∀ descs : List (Nat × Nat), s.takes h (.setFeaturesHostMemoryBuffer h false descs) = true →
       let t : State := s.taken h (.setFeaturesHostMemoryBuffer h false descs)
       exec (.setFeaturesHostMemoryBuffer h false descs) s = .next (State.good (State.setReg { t with
         front := { t.front with hmbBytes := [], hmbDescs := [] }, map := { t.map with inHmb := [] } } .mapHmb 0) h)) ∧
     (∀ (fid : Byte) (cdw11 : Word), s.takes h (.getFeatures h ⟨fid, cdw11⟩) = true →
       let t : State := s.taken h (.getFeatures h ⟨fid, cdw11⟩)
       (∀ v : Nat, t.featureValue fid.toNat cdw11 = some v →
         (fid.toNat = 0x0C → exec (.getFeatures h ⟨fid, cdw11⟩) s = .next (t.done h .success v
           (.fields [("ps3_ms", t.settings.hostApstPs3), ("ps4_ms", t.settings.hostApstPs4)]))) ∧
         (fid.toNat = 0x0D → exec (.getFeatures h ⟨fid, cdw11⟩) s = .next (t.done h .success v (.fields [("hmb_mib", t.rf .mapHmb 0 11)]))) ∧
         (fid.toNat ≠ 0x0C → fid.toNat ≠ 0x0D → exec (.getFeatures h ⟨fid, cdw11⟩) s = .next (t.done h .success v))) ∧
       (t.featureValue fid.toNat cdw11 = none → exec (.getFeatures h ⟨fid, cdw11⟩) s = .next (t.done h .invalidField)) ∧
       t.featureValue 0x01 cdw11 = some t.front.feats.arbBurst ∧ t.featureValue 0x02 cdw11 = some t.sys.ps.val ∧
       t.featureValue 0x05 cdw11 = some t.front.feats.tler ∧ t.featureValue 0x06 cdw11 = some (b2n t.settings.hostWcache) ∧
       t.featureValue 0x07 cdw11 = some (t.front.feats.nsq + 65536 * t.front.feats.ncq) ∧
       t.featureValue 0x08 cdw11 = some (t.front.feats.coalThr + 256 * t.front.feats.coalTime) ∧ t.featureValue 0x0A cdw11 = some (b2n t.front.feats.dn) ∧
       t.featureValue 0x0B cdw11 = some t.front.feats.aec.toNat ∧ t.featureValue 0x0C cdw11 = some (b2n t.settings.hostApst) ∧
       t.featureValue 0x0D cdw11 = some (t.rf .mapHmb 16 1) ∧ t.featureValue 0x10 cdw11 = some (t.front.feats.tmt2 + 65536 * t.front.feats.tmt1) ∧
       (fid.toNat ∉ [0x01, 0x02, 0x04, 0x05, 0x06, 0x07, 0x08, 0x09, 0x0A, 0x0B, 0x0C, 0x0D, 0x10] → t.featureValue fid.toNat cdw11 = none))) ∧
  (∀ (s : State) (h : Hdr),
     (∀ (cns : Byte) (nsid : Word), s.takes h (.identify h cns nsid) = true →
       let t : State := s.taken h (.identify h cns nsid)
       (∀ (st : NStat) (d : Payload), t.identify cns.toNat nsid = some (st, d) → exec (.identify h cns nsid) s = .next (t.done h st 0 d)) ∧
       (t.identify cns.toNat nsid = none → exec (.identify h cns nsid) s = .next (t.done h .invalidField))) ∧
     (∀ (lid : Byte) (numd : BitVec 32) (lpo : BitVec 64) (rae : Bool), s.takes h (.getLogPage h lid numd lpo rae) = true →
       let t : State := s.taken h (.getLogPage h lid numd lpo rae)
       (∀ page : List Nat, t.logPage lid.toNat = some page → lpo.toNat % 4 = 0 → lpo.toNat ≤ page.length →
         exec (.getLogPage h lid numd lpo rae) s = .next ((t.pageRead lid.toNat rae).done h .success 0
           (.bytes ((page.drop lpo.toNat).take (4 * (numd.toNat + 1)))))) ∧
       (∀ page : List Nat, t.logPage lid.toNat = some page → (lpo.toNat % 4 ≠ 0 ∨ page.length < lpo.toNat) →
         exec (.getLogPage h lid numd lpo rae) s = .next (t.done h .invalidField)) ∧
       (t.logPage lid.toNat = none → exec (.getLogPage h lid numd lpo rae) s = .next (t.done h .logPage))))

/-- Namespace and erasure commands on a chain of one device: the effect here, then the completion. The firmware commands on a chain of one device.
Every status that stops one of them before it runs; while a device of the chain is absent none of them runs, and on a chain of several devices the
command goes to every present subordinate first. Statuses the manual does not give are those of NVMe (log entries 17 and 62). -/
def Obligations.NamespaceAndFirmwareCommands : Prop :=
  (∀ (s : State) (h : Hdr),
     (∀ (gib : Nat) (fl : BitVec 4) (n : Fin 8) (u : State), s.takes h (.namespaceCreate h gib fl) = true →
       let t : State := s.taken h (.namespaceCreate h gib fl)
       t.locked = false → fl.toNat ≤ 1 → 0 < gib → t.stripeDiffers = false → t.freeNs = some n → ceilDiv gib t.chainN ≤ t.freeUnits.length →
       t.chainN = 1 → t.chainAbsent = false → t.nsCreateHere n gib (fl == 1) = (.success, u) →
       exec (.namespaceCreate h gib fl) s =
         .next (State.done { u with front := { u.front with formatting := [] } } h .success (n.val + 1))) ∧
     (∀ (nsid : Word) (n : Fin 8) (r : NsRec), s.takes h (.namespaceDelete h nsid) = true →
       let t : State := s.taken h (.namespaceDelete h nsid)
       t.locked = false → t.nsOf nsid = some (n, r) → t.chainN = 1 → t.chainAbsent = false →
       exec (.namespaceDelete h nsid) s =
         .next (State.good { t.nsDeleteHere n with front := { (t.nsDeleteHere n).front with formatting := [] } } h)) ∧
     (∀ (nsid : Word) (attach : Bool) (i : Fin 8) (r : NsRec), s.takes h (.namespaceAttachment h nsid attach) = true →
       let t : State := s.taken h (.namespaceAttachment h nsid attach)
       t.locked = false → t.nsOf nsid = some (i, r) → r.attached = !attach →
       exec (.namespaceAttachment h nsid attach) s =
         .next (State.good (State.nsNotice { t with map := { t.map with ns := setAt t.map.ns i (some { r with attached := attach }) } } i) h)) ∧
     (∀ (nsid : Word) (lbaf : BitVec 4) (ses : BitVec 3) (n : Fin 8) (r : NsRec), s.takes h (.formatNvm h nsid lbaf ses) = true →
       let t : State := s.taken h (.formatNvm h nsid lbaf ses)
       (t.locked = false ∨ ses.toNat = 2) → ses.toNat ≤ 2 → lbaf.toNat ≤ 1 → nsid ≠ 0xFFFFFFFF → t.nsOf nsid = some (n, r) → t.sanitizing = false →
       (ses.toNat = 0 → r.lba4k = (lbaf == 1) ∨ t.written r = false) → t.chainN = 1 → t.chainAbsent = false →
       exec (.formatNvm h nsid lbaf ses) s = .next (State.good { t.formatHere [n] (lbaf == 1) ses.toNat with
         front := { (t.formatHere [n] (lbaf == 1) ses.toNat).front with formatting := [] } } h)) ∧
     (s.takes h (.sanitizeCryptoErase h) = true →
       let t : State := s.taken h (.sanitizeCryptoErase h)
       t.sanitizing = false → t.chainN = 1 → t.chainAbsent = false →
       exec (.sanitizeCryptoErase h) s = .next (State.good { t.cryptoHere with front := { t.cryptoHere.front with formatting := [] } } h)) ∧
     (s.takes h (.sanitizeBlockErase h) = true →
       let t : State := s.taken h (.sanitizeBlockErase h)
       t.sanitizing = false → t.locked = false → t.chainN = 1 → t.chainAbsent = false →
       exec (.sanitizeBlockErase h) s = .next (State.good { t.blockEraseHere.sanitizeEnd with
         front := { t.blockEraseHere.sanitizeEnd.front with formatting := [] } } h)) ∧
     (s.takes h (.sanitizeExitFailureMode h) = true → exec (.sanitizeExitFailureMode h) s = .next ((s.taken h (.sanitizeExitFailureMode h)).good h))) ∧
  (∀ (s : State) (h : Hdr),
     (∀ (off len : Nat) (bytes : List Byte) (u : State), s.takes h (.firmwareImageDownload h off len bytes) = true →
       let t : State := s.taken h (.firmwareImageDownload h off len bytes)
       off % 4096 = 0 → len % 4096 = 0 → 0 < len → off + len ≤ 1572864 → t.chainN = 1 → t.chainAbsent = false →
       t.downloadHere off len (bytes.map fun b : Byte => b.toNat) = (.success, u) →
       exec (.firmwareImageDownload h off len bytes) s = .next (State.good { u with front := { u.front with formatting := [] } } h)) ∧
     (∀ (slot action : BitVec 3) (ok : Bool) (st : NStat) (u : State), s.takes h (.firmwareCommit h slot action ok) = true →
       let t : State := s.taken h (.firmwareCommit h slot action ok)
       action.toNat ≤ 2 → t.locked = false → t.chainN = 1 → t.chainAbsent = false → t.commitHere slot.toNat action.toNat ok = (st, u) →
       exec (.firmwareCommit h slot action ok) s = .next (State.done { u with front := { u.front with formatting := [] } } h st)) ∧
     (∀ (slot action : BitVec 3) (ok : Bool) (t : State),
       (2 < action.toNat → t.commitHere slot.toNat action.toNat ok = (.invalidField, t)) ∧
       (action.toNat ≤ 2 → (slot.toNat = 0 ∨ 2 < slot.toNat) → t.commitHere slot.toNat action.toNat ok = (.fwSlot, t)) ∧
       (∀ twin : Twin, slot.toNat = (if twin = .a then 1 else 2) →
         (twin = t.bst.active → action.toNat = 2 → t.commitHere slot.toNat action.toNat ok = (.success, t)) ∧
         (twin = t.bst.active → action.toNat < 2 → t.commitHere slot.toNat action.toNat ok = (.fwSlot, t)) ∧
         (twin ≠ t.bst.active → action.toNat ≤ 2 → ok = false → t.commitHere slot.toNat action.toNat ok = (.fwImage, t)) ∧
         (twin ≠ t.bst.active → action.toNat = 0 → ok = true → t.commitHere slot.toNat action.toNat ok = (.success, t)) ∧
         (twin ≠ t.bst.active → 1 ≤ action.toNat → action.toNat ≤ 2 → ok = true →
           t.commitHere slot.toNat action.toNat ok = (.success, t.swapPend twin true))))) ∧
  (∀ (s : State) (h : Hdr),
     (∀ (gib : Nat) (fl : BitVec 4), s.takes h (.namespaceCreate h gib fl) = true →
       let t : State := s.taken h (.namespaceCreate h gib fl)
       (t.locked = true → exec (.namespaceCreate h gib fl) s = .next (t.done h .denied)) ∧
       (t.locked = false → 1 < fl.toNat → exec (.namespaceCreate h gib fl) s = .next (t.done h .formatInvalid)) ∧
       (t.locked = false → fl.toNat ≤ 1 → (gib = 0 ∨ t.stripeDiffers = true) → exec (.namespaceCreate h gib fl) s = .next (t.done h .invalidField)) ∧
       (t.locked = false → fl.toNat ≤ 1 → 0 < gib → t.stripeDiffers = false →
         (t.freeNs = none → exec (.namespaceCreate h gib fl) s = .next (t.done h .nsidUnavailable)) ∧
         (t.freeNs ≠ none → t.freeUnits.length < ceilDiv gib t.chainN → exec (.namespaceCreate h gib fl) s = .next (t.done h .capacity)) ∧
         (t.freeNs ≠ none → ceilDiv gib t.chainN ≤ t.freeUnits.length →
           exec (.namespaceCreate h gib fl) s = .next (t.adminRun h (.namespaceCreate h gib fl))))) ∧
     (∀ nsid : Word, s.takes h (.namespaceDelete h nsid) = true →
       let t : State := s.taken h (.namespaceDelete h nsid)
       (t.locked = true → exec (.namespaceDelete h nsid) s = .next (t.done h .denied)) ∧
       (t.locked = false → t.nsOf nsid = none → nsid ≠ 0xFFFFFFFF → exec (.namespaceDelete h nsid) s = .next (t.done h .invalidNs)) ∧
       (t.locked = false → (t.nsOf nsid ≠ none ∨ nsid = 0xFFFFFFFF) →
         exec (.namespaceDelete h nsid) s = .next (t.adminRun h (.namespaceDelete h nsid)))) ∧
     (∀ (nsid : Word) (attach : Bool), s.takes h (.namespaceAttachment h nsid attach) = true →
       let t : State := s.taken h (.namespaceAttachment h nsid attach)
       (t.locked = true → exec (.namespaceAttachment h nsid attach) s = .next (t.done h .denied)) ∧
       (t.locked = false → t.nsOf nsid = none → exec (.namespaceAttachment h nsid attach) s = .next (t.done h .invalidNs)) ∧
       (∀ (i : Fin 8) (r : NsRec), t.locked = false → t.nsOf nsid = some (i, r) → r.attached = attach →
         exec (.namespaceAttachment h nsid attach) s = .next (t.done h (if attach then .attached else .notAttached)))) ∧
     (∀ (nsid : Word) (lbaf : BitVec 4) (ses : BitVec 3), s.takes h (.formatNvm h nsid lbaf ses) = true →
       let t : State := s.taken h (.formatNvm h nsid lbaf ses)
       (t.locked = true → ses.toNat < 2 → exec (.formatNvm h nsid lbaf ses) s = .next (t.done h .denied)) ∧
       ((t.locked = false ∨ 2 ≤ ses.toNat) →
         (2 < ses.toNat → exec (.formatNvm h nsid lbaf ses) s = .next (t.done h .invalidField)) ∧
         (ses.toNat ≤ 2 → 1 < lbaf.toNat → exec (.formatNvm h nsid lbaf ses) s = .next (t.done h .formatInvalid)) ∧
         (ses.toNat ≤ 2 → lbaf.toNat ≤ 1 → t.formatNs nsid = [] → exec (.formatNvm h nsid lbaf ses) s = .next (t.done h .invalidNs)) ∧
         (ses.toNat ≤ 2 → lbaf.toNat ≤ 1 → t.formatNs nsid ≠ [] → t.sanitizing = true →
           exec (.formatNvm h nsid lbaf ses) s = .next (t.done h .sanitizing)) ∧
         (ses.toNat = 0 → lbaf.toNat ≤ 1 → t.sanitizing = false → (∃ x ∈ t.formatNs nsid, x.2.lba4k ≠ (lbaf == 1) ∧ t.written x.2 = true) →
           exec (.formatNvm h nsid lbaf ses) s = .next (t.done h .formatInvalid)) ∧
         (ses.toNat ≤ 2 → lbaf.toNat ≤ 1 → t.formatNs nsid ≠ [] → t.sanitizing = false →
           (ses.toNat = 0 → ∀ x ∈ t.formatNs nsid, x.2.lba4k = (lbaf == 1) ∨ t.written x.2 = false) →
           exec (.formatNvm h nsid lbaf ses) s = .next (t.adminRun h (.formatNvm h nsid lbaf ses))))) ∧
     (s.takes h (.sanitizeCryptoErase h) = true →
       let t : State := s.taken h (.sanitizeCryptoErase h)
       (t.sanitizing = true → exec (.sanitizeCryptoErase h) s = .next (t.done h .sanitizing)) ∧
       (t.sanitizing = false → exec (.sanitizeCryptoErase h) s = .next (t.adminRun h (.sanitizeCryptoErase h)))) ∧
     (s.takes h (.sanitizeBlockErase h) = true →
       let t : State := s.taken h (.sanitizeBlockErase h)
       (t.locked = true → exec (.sanitizeBlockErase h) s = .next (t.done h .denied)) ∧
       (t.locked = false → t.sanitizing = true → exec (.sanitizeBlockErase h) s = .next (t.done h .sanitizing)) ∧
       (t.locked = false → t.sanitizing = false → exec (.sanitizeBlockErase h) s = .next (t.adminRun h (.sanitizeBlockErase h)))) ∧
     (∀ (off len : Nat) (bytes : List Byte), s.takes h (.firmwareImageDownload h off len bytes) = true →
       let t : State := s.taken h (.firmwareImageDownload h off len bytes)
       ((off % 4096 ≠ 0 ∨ len % 4096 ≠ 0 ∨ len = 0 ∨ 1572864 < off + len) →
         exec (.firmwareImageDownload h off len bytes) s = .next (t.done h .invalidField)) ∧
       (off % 4096 = 0 → len % 4096 = 0 → 0 < len → off + len ≤ 1572864 →
         exec (.firmwareImageDownload h off len bytes) s = .next (t.adminRun h (.firmwareImageDownload h off len bytes)))) ∧
     (∀ (slot action : BitVec 3) (ok : Bool), s.takes h (.firmwareCommit h slot action ok) = true →
       let t : State := s.taken h (.firmwareCommit h slot action ok)
       (t.locked = true → exec (.firmwareCommit h slot action ok) s = .next (t.done h .denied)) ∧
       (t.locked = false → 2 < action.toNat → exec (.firmwareCommit h slot action ok) s = .next (t.done h .invalidField)) ∧
       (t.locked = false → action.toNat ≤ 2 →
         exec (.firmwareCommit h slot action ok) s = .next (t.adminRun h (.firmwareCommit h slot action ok)))) ∧
     (∀ (t : State) (i : Instr), (t.chainAbsent = true → t.adminRun h i = t.done h .internalDnr) ∧
       (∀ (st : NStat) (dw0 : Nat) (u : State), t.chainAbsent = false → t.chainN = 1 → t.adminHere i = (st, dw0, u) →
         t.adminRun h i = State.done { u with front := { u.front with formatting := [] } } h st dw0) ∧
       (t.chainAbsent = false → t.chainN ≠ 1 → (∀ (x : Hdr) (nsid : Word) (lbaf : BitVec 4) (ses : BitVec 3), i ≠ .formatNvm x nsid lbaf ses) →
         t.adminRun h i = t.presentSubs.foldl (fun (v : State) (k : Fin 4) => v.adminSend h i (t.adminBody i) k) t) ∧
       (∀ (x : Hdr) (nsid : Word) (lbaf : BitVec 4) (ses : BitVec 3), t.chainAbsent = false → t.chainN ≠ 1 → i = .formatNvm x nsid lbaf ses →
         let u : State := { t with front := { t.front with formatting := (t.formatNs nsid).map (·.1) } }
         t.adminRun h i = u.presentSubs.foldl (fun (v : State) (k : Fin 4) => v.adminSend h i (t.adminBody i) k) u)))

/-- Reads and writes of the host that pass their checks: the range is split over the devices that hold it, a part goes to each of the others, and
what lies here is read into the command's slots, or staged. The statuses that stop an I/O command before any access: an absent or detached
namespace, a locked device, a range past the capacity, and for a write read-only health, which sets trouble bit 27 again. Flush, Dataset Management
and Secure Deallocate, and the read-ahead's speculative read of a sector that lies here. The order of the checks is log entry 18, statuses log entry
17. -/
def Obligations.IoCommands : Prop :=
  (∀ (s : State) (h : Hdr) (nsid : Word) (a n : Nat),
     (s.takes h (.read h nsid a n) = true →
       let t : State := s.taken h (.read h nsid a n)
       (∀ (i : Fin 8) (r : NsRec), t.ioCheck nsid a n true false = .ok (i, r) →
         exec (.read h nsid a n) s = .next ((t.readCmd h 0x02 i r a n).noteRead i r a n)) ∧
       (∀ st : NStat, t.ioCheck nsid a n true false = .error st → exec (.read h nsid a n) s = .next (t.stopIo h st))) ∧
     (s.takes h (.verify h nsid a n) = true →
       let t : State := s.taken h (.verify h nsid a n)
       (∀ (i : Fin 8) (r : NsRec), t.ioCheck nsid a n true false = .ok (i, r) → exec (.verify h nsid a n) s = .next (t.readCmd h 0x0C i r a n)) ∧
       (∀ st : NStat, t.ioCheck nsid a n true false = .error st → exec (.verify h nsid a n) s = .next (t.stopIo h st))) ∧
     (∀ (data : List Sector) (fua : Bool), s.takes h (.write h nsid a data n fua) = true →
       let t : State := s.taken h (.write h nsid a data n fua)
       let cached : Bool := t.settings.hostWcache && !fua
       (∀ (i : Fin 8) (r : NsRec), t.ioCheck nsid a n true true = .ok (i, r) →
         let rs : List (Nat × Nat × Nat) := t.runsOf r a n
         let sent : State := if cached then (t.splitRuns h 0x01 rs).cachedSent rs else t.splitRuns h 0x01 rs
         let staged : State := (rs.filter fun x => x.1 == t.index).foldl (fun (u : State) (x : Nat × Nat × Nat) =>
           u.stageHere h i r x.2.1 x.2.2 cached (writeSector r.lba4k a n data)) sent
         exec (.write h nsid a data n fua) s = .next ((staged.cacheAdmit h).ioTry h)) ∧
       (∀ st : NStat, t.ioCheck nsid a n true true = .error st → exec (.write h nsid a data n fua) s = .next (t.stopIo h st))) ∧
     (s.takes h (.writeZeroes h nsid a n) = true →
       let t : State := s.taken h (.writeZeroes h nsid a n)
       (∀ (i : Fin 8) (r : NsRec), t.ioCheck nsid a n false true = .ok (i, r) → exec (.writeZeroes h nsid a n) s =
         .next (((t.splitRanges h 0x08 r [(a, n)]).zeroHere h i r [(a, n)]).ioTry h)) ∧
       (∀ st : NStat, t.ioCheck nsid a n false true = .error st → exec (.writeZeroes h nsid a n) s = .next (t.stopIo h st)))) ∧
  (∀ (t : State) (h : Hdr) (st : NStat) (op : Byte) (rs : List (Nat × Nat × Nat)),
     (st ≠ .writeProtected → t.stopIo h st = t.done h st) ∧
     (t.trb 27 = true → t.stopIo h st = t.done h st) ∧ (t.trb 27 = false → t.stopIo h .writeProtected = (t.raise 27).done h .writeProtected) ∧
     ((∀ x ∈ rs, x.1 = t.index) → t.splitRuns h op rs = t)) ∧
  (∀ (s : State) (nsid : Word) (a n : Nat) (limit writes : Bool),
     (s.nsOf nsid = none → s.ioCheck nsid a n limit writes = .error .invalidNs) ∧
     (∀ (i : Fin 8) (r : NsRec), s.nsOf nsid = some (i, r) →
       (r.attached = false → s.ioCheck nsid a n limit writes = .error .invalidNs) ∧
       (r.attached = true → s.locked = true → s.ioCheck nsid a n limit writes = .error .denied) ∧
       (s.ioStop nsid = none → n * r.lbaBytes ≤ 2097152 → r.lbas < a + n → s.ioCheck nsid a n limit writes = .error .lbaRange) ∧
       (s.ioStop nsid = none → n * r.lbaBytes ≤ 2097152 → a + n ≤ r.lbas → s.readOnly = true → s.ioCheck nsid a n limit true = .error .writeProtected) ∧
       (s.ioStop nsid = none → n * r.lbaBytes ≤ 2097152 → a + n ≤ r.lbas → s.readOnly = false → s.ioCheck nsid a n limit writes = .ok (i, r)))) ∧
  (∀ (s : State) (h : Hdr) (nsid : Word),
     (s.takes h (.flush h nsid) = true →
       let t : State := s.taken h (.flush h nsid)
       (∀ st : NStat, t.flushStop nsid = some st → exec (.flush h nsid) s = .next (t.done h st)) ∧
       (t.flushStop nsid = none → t.chainAbsent = true → exec (.flush h nsid) s = .next (t.done h .internalDnr)) ∧
       (t.flushStop nsid = none → t.chainAbsent = false → exec (.flush h nsid) s = .next (State.flushHere
         (((List.range t.chainN).filter fun k => k != t.index).foldl (fun (u : State) (k : Nat) => u.newPart h 0x00 k 0 0 []) t) h)) ∧
       (t.flushStop nsid = none → t.chainN = 1 → t.chainAbsent = false → t.index = 0 → exec (.flush h nsid) s = .next (t.flushHere h))) ∧
     (∀ (ad : Bool) (ranges : List (Nat × Nat)), s.takes h (.datasetManagement h nsid ad ranges) = true →
       let t : State := s.taken h (.datasetManagement h nsid ad ranges)
       (∀ (i : Fin 8) (r : NsRec), t.rangeCheck nsid ranges = .ok (i, r) → exec (.datasetManagement h nsid ad ranges) s =
         .next (if ad then ((t.splitRanges h 0x09 r ranges).zeroHere h i r ranges).ioTry h else t.good h)) ∧
       (∀ st : NStat, t.rangeCheck nsid ranges = .error st → exec (.datasetManagement h nsid ad ranges) s = .next (t.stopIo h st))) ∧
     (∀ ranges : List (Nat × Nat), s.takes h (.secureDeallocate h nsid ranges) = true →
       let t : State := s.taken h (.secureDeallocate h nsid ranges)
       (∀ (i : Fin 8) (r : NsRec), t.rangeCheck nsid ranges = .ok (i, r) →
         (sumNat (ranges.map (·.2)) * r.lbaBytes ≤ 2 ^ 30 → exec (.secureDeallocate h nsid ranges) s =
           .next (((t.splitRanges h 0xC9 r ranges).secureHere h i r ranges).ioTry h)) ∧
         (2 ^ 30 < sumNat (ranges.map (·.2)) * r.lbaBytes → exec (.secureDeallocate h nsid ranges) s = .next (t.done h .invalidField))) ∧
       (∀ st : NStat, t.rangeCheck nsid ranges = .error st → exec (.secureDeallocate h nsid ranges) s = .next (t.stopIo h st))) ∧
     (∀ (i : Fin 8) (r : NsRec) (x : ReadAhead) (d : Nat), s.nsOf nsid = some (i, r) → (s.front.ra.find? fun x => x.ns == i) = some x →
       s.isMaster = true → s.mapUp = true → s.locked = false → 3 ≤ x.run → s.poolRoom = true → 0 < min (s.settings.hostReadahead / 4096) (r.sectors - (r.span 0 x.next).2) →
       s.ownerOf (r.span 0 x.next).2 = s.index → s.dsec r (r.span 0 x.next).2 = some d → s.specWants i x d = true →
       exec (.speculativeRead nsid) s = .next (s.specOne i d)))

/-- The Keeper's code: the word a write stores reads back clean; with one of its 72 bits flipped it reads corrected, with two it is marked
uncorrectable, and data stored with the poison syndrome is uncorrectable. A full-word write with the flip mask not armed: the word then reads clean
with the data written, every other word holds what it held, and no register and nothing of the device outside the Keeper changes. A word as its data
and its flips is log entry 7. -/
def Obligations.KeeperWords : Prop :=
  (∀ (d flipD : BitVec 64) (flipC : Byte),
     KWord.decode { data := d } = .clean d ∧
     (popCount 64 flipD.toNat + popCount 8 flipC.toNat = 1 → KWord.decode ⟨d, flipD, flipC⟩ = .corrected d) ∧
     (popCount 64 flipD.toNat + popCount 8 flipC.toNat = 2 → KWord.decode ⟨d, flipD, flipC⟩ = .bad (d ^^^ flipD)) ∧
     (KWord.poison d).decode = .bad d ∧ (KWord.poison d).syndrome = 0x03) ∧
  (∀ (s : State) (i : Nat) (d : BitVec 64), s.rf .kprFlipCtl 8 1 = 0 → s.kpr.wf = true →
     (s.kprWrite i d).kprRead i = (d, false, s.kprWrite i d) ∧
     (∀ k : Nat, k ≠ i → (s.kprWrite i d).kprWord k = s.kprWord k) ∧ { s.kprWrite i d with kpr := s.kpr } = s)

/-- The armed flip mask acts on one array write it matches: the word holds the flips, the mask clears itself and is no longer armed, and trouble bit
4 is set. The scrubber and the merge buffer: a clean word, and one with a merge buffer entry, leave the scrubber at the next word; a correctable one
is written back corrected and counted; an uncorrectable one is written back with the poison syndrome; the unit's idle drains the oldest entry. A word as its data and its flips is
log entry 7. -/
def Obligations.KeeperRows : Prop :=
  (∀ (s : State) (i : Nat) (w : KWord), s.flipFires i = true → i < 2 ^ 28 →
     let t : State := s.kprStore i w
     t.kpr = s.kpr.put i ⟨w.data, w.flipD ^^^ s.flipMaskD, w.flipC ^^^ BitVec.ofNat 8 (s.rf .kprFlipCtl 0 8)⟩ ∧
     t.reg .kprFlipLo = 0 ∧ t.reg .kprFlipHi = 0 ∧ t.rf .kprFlipCtl 0 9 = 0 ∧ t.reg .kprFlipLast = BitVec.ofNat 32 (8 * i + 1) ∧
     t.trb 4 = true ∧ ∀ k : Nat, t.flipFires k = false) ∧
  (∀ (s : State),
     (s.rf .kprCtl 0 1 = 1 → s.sys.ps.val < 4 → s.inReset = false → (s.kpr.merge.any fun e => e.word == s.kpr.scrubAt) = false →
       (∀ d, (s.kprWord s.kpr.scrubAt).decode = .clean d → exec .scrubRead s = .next s.scrubNext) ∧
       (∀ d, (s.kprWord s.kpr.scrubAt).decode = .corrected d → exec .scrubRead s =
         .next ((s.kprCe s.kpr.scrubAt 2 (s.kprWord s.kpr.scrubAt).syndrome).kprScrubStore s.kpr.scrubAt { data := d }).scrubNext) ∧
       (∀ d, (s.kprWord s.kpr.scrubAt).decode = .bad d → exec .scrubRead s =
         .next (((s.kprUe s.kpr.scrubAt true (s.kprWord s.kpr.scrubAt).syndrome).raise 3).kprScrubStore s.kpr.scrubAt (KWord.poison d)).scrubNext)) ∧
     (s.rf .kprCtl 0 1 = 1 → s.sys.ps.val < 4 → s.inReset = false → (s.kpr.merge.any fun e => e.word == s.kpr.scrubAt) = true →
       exec .scrubRead s = .next s.scrubNext) ∧
     ((s.rf .kprCtl 0 1 = 0 ∨ s.sys.ps = 4 ∨ s.inReset = true) → exec .scrubRead s = .next s) ∧
     (s.kpr.merge = [] → exec .mergeBufferDrain s = .next { s with kpr := { s.kpr with rmwBusy := none } }) ∧
     (∀ (e : Merge) (l : List Merge), s.kpr.merge = e :: l → exec .mergeBufferDrain s =
       .next { s.kprDrain e with kpr := { (s.kprDrain e).kpr with rmwBusy := some e.word } }))

/-- The DMA rows: a start the protection unit allows runs the channel's first descriptor, one of a busy channel starts nothing and sets trouble bit 34; a stop of a running
channel waits for its boundary; a descriptor that stands loaded runs; at a boundary the linked one is fetched and run, up to the hop limit, where the
chain ends with code 4 and trouble bit 33; a late response is a bus error; the end of a chain completes it with code 0, of a stopped one with 8. A channel
ends: it is idle, it keeps the code it ended with, and the other channels are as they were. -/
def Obligations.DmaRows : Prop :=
  (∀ (s : State) (n : Fin 8),
     (∀ (cls : Cls) (pri : BitVec 2), s.canIssue cls = true → s.verdict cls true (Reg.dmaChCtl n).addr = none →
       s.place (Reg.dmaChCtl n).addr 4 = .reg (some (.dmaChCtl n)) → s.dmaBusy n = false →
       exec (.dmaStart n cls pri) s =
         .next (State.dmaKick ((s.plainReg (.dmaChCtl n) (BitVec.ofNat 32 (1 + 4 * pri.toNat))).dmaSet n fun _ =>
           { st := .running, cls, hopLimit := (s.plainReg (.dmaChCtl n) (BitVec.ofNat 32 (1 + 4 * pri.toNat))).rf .dmaHop 0 16 }))) ∧
     (∀ (cls : Cls) (pri : BitVec 2), s.canIssue cls = true → s.verdict cls true (Reg.dmaChCtl n).addr = none →
       s.place (Reg.dmaChCtl n).addr 4 = .reg (some (.dmaChCtl n)) → s.dmaBusy n = true →
       exec (.dmaStart n cls pri) s =
         .next ((s.plainReg (.dmaChCtl n) (BitVec.ofNat 32 (1 + 4 * pri.toNat))).raise 34).dmaKick) ∧
     ((s.dma.get n).st ≠ .running → exec (.dmaStop n) s = .next s) ∧
     ((s.dma.get n).st = .running → exec (.dmaStop n) s = .next (s.dmaSet n fun d => { d with st := .stopping })) ∧
     (s.dmaBusy n = true → s.lan.scan = false → s.inReset = false → (s.dma.get n).atEnd = false →
       exec (.descriptorFetch n) s = .next (s.runDesc n)) ∧
     (s.dmaBusy n = true → s.lan.scan = false → s.inReset = false → (s.dma.get n).atEnd = true → (s.dma.get n).st = .stopping →
       exec (.descriptorFetch n) s = .next (s.dmaFinish n 8 0)) ∧
     (s.dmaBusy n = true → s.lan.scan = false → s.inReset = false → (s.dma.get n).atEnd = true → (s.dma.get n).st = .running → (s.desc n).link ≠ 0 →
       ((s.dma.get n).hopLimit ≤ (s.dma.get n).hops → exec (.descriptorFetch n) s = .next ((s.raise 33).dmaFinish n 4 0)) ∧
       ((s.dma.get n).hops < (s.dma.get n).hopLimit →
         let r : Run := fetchRun n (s.desc n).link ⟨s, [], none⟩
         (∀ f : Fail, r.fail = some f → exec (.descriptorFetch n) s = .next (r.s.dmaFail n f)) ∧
         (r.fail = none → exec (.descriptorFetch n) s = .next (((r.s.loadDesc n (words48 r.buf)).dmaSet n fun d =>
           { d with cur := BitVec.ofNat 32 (s.desc n).link, atEnd := false }).runDesc n)))) ∧
     (∀ (a : Word) (f w : Bool), s.dmaBusy n = true → s.inReset = false →
       exec (.dmaFetchTimeout n a f w) s = .next (s.dmaBusError n a.toNat f w true)) ∧
     ((s.dma.get n).st = .running → (s.dma.get n).atEnd = true → s.inReset = false → (s.desc n).link = 0 →
       exec (.dmaComplete n) s = .next (s.dmaFinish n 0 0)) ∧
     ((s.dma.get n).st = .stopping → (s.dma.get n).atEnd = true → s.inReset = false → exec (.dmaComplete n) s = .next (s.dmaFinish n 8 0))) ∧
  (∀ (s : State) (n : Fin 8) (code addr : Nat), code < 16 → addr < 2 ^ 32 →
     (s.dmaEnd n code addr).dmaBusy n = false ∧ ((s.dmaEnd n code addr).dma.get n).err = code ∧
     ∀ m : Fin 8, m ≠ n → (s.dmaEnd n code addr).dma.get m = s.dma.get m)

/-- The rows of a gallery's registers and of its training. The scheduler: the operation that comes next starts, if the block order lets it; one that
does not is abandoned and trouble bit 13 set; an operation that waits ages. The bus of a gallery: a transfer that ends gives it up, or to the
context that waits next; RB_N's rise gives a free bus to a polling context. Free values stand where the manual gives none (log entries 4 and 20). -/
def Obligations.GalleryRows : Prop :=
  (∀ (s : State) (g : Fin 8),
     (∀ value : Word, exec (.galWptLoad g .privileged value) s = .next (s.wptLoad g value)) ∧
     (∀ (cls : Cls) (value : Word), cls ≠ .privileged → ∃ t : State, exec (.galWptLoad g cls value) s = .next t ∧ t.gals = s.gals ∧
       t.rf .mpuFault 0 1 = 1 ∧ t.reg .mpuFaultAddr = BitVec.ofNat 32 (Reg.galWptLoad g).addr) ∧
     (∀ mask : BitVec 16, exec (.galSuspectClear g mask) s = .next (s.setReg (.galSuspect g) (s.reg (.galSuspect g) &&& ~~~(mask.zeroExtend 32)))) ∧
     ((s.gals.get g).inService = true → (s.gals.get g).retrain = .none → ∃ t : State, exec (.galCtlTrain g) s = .next t ∧
       (t.gals.get g).retrain = .pending ∧ t.rf (.galStat g) 1 1 = 1) ∧
     (((s.gals.get g).inService = false ∨ (s.gals.get g).retrain ≠ .none) → exec (.galCtlTrain g) s = .next s) ∧
     (∀ r : TrainResult, s.inReset = false → s.sys.released.getLsbD 3 = true → (s.gals.get g).profile.isSome = true →
       (s.gals.get g).inService = false → s.settings.galEnable.get g = true → exec (.galleryTraining g r) s = .next ((s.train g r).trained g)) ∧
     (∀ r : WindowRun, let rate : Nat := s.windowRate g
       let u : State := if (s.gals.get g).retrain ≠ .none ∧ (s.gals.get g).newRate ≠ some rate then s.windowsFrom g rate (s.aimRate g) else s
       (∀ n : Fin 8, u.retrainTarget g = some n → u.windowFree g n r.runs = true →
         let t : State := u.window g n rate r.pass r.retried
         (r.pass = false → exec (.retrainingWindow g r) s = .next (t.finishJob (fun j => j == .train g) fun _ => ([], err .fault [word "train"]))) ∧
         (r.pass = true → (t.gals.get g).newRate = none →
           exec (.retrainingWindow g r) s = .next (t.finishJob (fun j => j == .train g) fun _ => ([], ok []))) ∧
         (r.pass = true → (t.gals.get g).newRate ≠ none → exec (.retrainingWindow g r) s = .next t)) ∧
       (∀ n : Fin 8, u.retrainTarget g = some n → u.windowFree g n r.runs = false → exec (.retrainingWindow g r) s = .next s) ∧
       ((s.gals.get g).retrain ≠ .none → u.retrainTarget g = none → exec (.retrainingWindow g r) s =
         .next ((u.retrainEnd g rate).finishJob (fun j => j == .train g) fun _ => ([], err .fault [word "train"]))) ∧
       ((s.gals.get g).retrain = .none → exec (.retrainingWindow g r) s = .next s))) ∧
  (∀ (s : State) (g : Fin 8),
     (∀ o : GOp, s.doomed g = some o → exec (.schedulerDispatch g) s =
       .next (if o.kind = .read then s.readGone g o else s.refuseOp g o .suspect)) ∧
     (∀ k : Nat, s.doomed g = none → s.stranded g = some k → exec (.schedulerDispatch g) s = .next (s.moveProgram k (s.blk k).next)) ∧
     (∀ o : GOp, s.doomed g = none → s.stranded g = none → s.pick g = some o → (s.gals.get g).passes o = true →
       exec (.schedulerDispatch g) s = .next ((s.joinPlanes g o).2.startOp g (s.joinPlanes g o).1)) ∧
     (∀ o : GOp, s.doomed g = none → s.stranded g = none → s.pick g = some o → (s.gals.get g).passes o = false →
       let u : State := (s.gal g fun x => { x with orders := x.orders + 1 }).raise 13
       u.trb 13 = true ∧ exec (.schedulerDispatch g) s = .next (u.refuseOp g o .order)) ∧
     (s.doomed g = none → s.stranded g = none → s.pick g = none → exec (.schedulerDispatch g) s = .next s) ∧
     (∀ id : Nat, exec (.operationAging g id) s = .next (s.setOp g id fun o => if o.running then o else { o with aged := true }))) ∧
  (∀ (s : State) (g : Fin 8),
     (∀ (i : Nat) (h : i < 64), (s.gals.get g).bus = none → (s.gals.get g).nextBus = some i →
       ∃ t : State, exec (.busTransferDone g) s = .next t ∧ (t.gals.get g).bus = some ⟨i, h⟩ ∧ ((t.gals.get g).ctxGet i).st = .bus ∧
         t = s.gal g fun x => { x with bus := some ⟨i, h⟩, ctxs := (t.gals.get g).ctxs }) ∧
     ((s.gals.get g).bus ≠ none → ∃ t : State, exec (.busTransferDone g) s = .next t ∧ t.gals.get g = s.gals.get g) ∧
     (∀ (c : Nat × SeqCtx) (h : c.1 < 64), (s.gals.get g).bus = none → ((s.gals.get g).ctxs.find? fun c => c.2.st == .polling) = some c →
       ∃ t : State, exec (.rbNRise g) s = .next t ∧ (t.gals.get g).bus = some ⟨c.1, h⟩ ∧ ((t.gals.get g).ctxGet c.1).st = .bus ∧
         t = s.gal g fun x => { x with bus := some ⟨c.1, h⟩, ctxs := (t.gals.get g).ctxs }) ∧
     ((s.gals.get g).bus ≠ none → ∃ t : State, exec (.rbNRise g) s = .next t ∧ t.gals.get g = s.gals.get g))

/-- Suspension: a running program whose chamber has a read waiting is suspended once it ran its minimum, and resumes when its reads are done. The
operation timers: a chamber's timeout sets trouble bits 8 and 9 and frees the bus; the sequencer's watchdog sets bit 15 and ends every running list
as quiesced. -/
def Obligations.GalleryTimeRows : Prop :=
  (∀ (s : State) (g : Fin 8) (c : Fin 16) (o : GOp) (p : Profile) (a b : Nat), (s.gals.get g).profile = some p →
     (((s.gals.get g).ops.find? fun o => o.running && !o.suspended && o.ch == c && (o.kind == .program || o.kind == .erase)) = some o →
       (s.gals.get g).readWaits c = true → (s.gals.get g).mayHold o = true →
       (o.kind = .program → p.minProg ≤ a) → (o.kind = .erase → p.minErase ≤ a) → 2 * p.suspLatency < b →
       exec (.programSuspend g c a b) s = .next (s.suspendOp g o)) ∧
     (((s.gals.get g).ops.find? fun o => o.running && !o.suspended && o.ch == c && (o.kind == .program || o.kind == .erase)) = some o →
       ((s.gals.get g).readWaits c = false ∨ (s.gals.get g).mayHold o = false ∨ b ≤ 2 * p.suspLatency ∨
         a < (if o.kind = .program then p.minProg else p.minErase)) → exec (.programSuspend g c a b) s = .next s) ∧
     (((s.gals.get g).ops.find? fun o => o.running && !o.suspended && o.ch == c && (o.kind == .program || o.kind == .erase)) = none →
       exec (.programSuspend g c a b) s = .next s) ∧
     (((s.gals.get g).ops.find? fun o => o.suspended && o.ch == c) = some o →
       ((s.gals.get g).ops.any fun y => y.running && !y.suspended && y.ch == c) = false →
       ((s.gals.get g).readWaits c = false ∨ 200 ≤ a ∨ min p.suspReads 16 ≤ o.readsIn ∨ o.resumeDue = true) →
       exec (.programResume g c a) s = .next (s.resumeOp g o)) ∧
     (((s.gals.get g).ops.find? fun o => o.suspended && o.ch == c) = some o →
       ((s.gals.get g).ops.any fun y => y.running && !y.suspended && y.ch == c) = true →
       ((s.gals.get g).readWaits c = false ∨ 200 ≤ a ∨ min p.suspReads 16 ≤ o.readsIn ∨ o.resumeDue = true) →
       exec (.programResume g c a) s = .next (s.setOp g o.id fun y => { y with resumeDue := true })) ∧
     (((s.gals.get g).ops.find? fun o => o.suspended && o.ch == c) = some o → (s.gals.get g).readWaits c = true → a < 200 →
       o.readsIn < min p.suspReads 16 → o.resumeDue = false → exec (.programResume g c a) s = .next s) ∧
     (((s.gals.get g).ops.find? fun o => o.suspended && o.ch == c) = none → exec (.programResume g c a) s = .next s)) ∧
  (∀ (s : State) (g : Fin 8),
     (∀ (id : Nat) (o : GOp) (k : OpKind) (b : Bool), s.op? g id = some o → o.running = true → o.suspended = false → o.outcome = none →
       o.need ≠ .console → (s.toPoll g o).armedAt g o.ctx = some k → k ≠ .reset →
       exec (.chamberOpTimeout g id b) s = .next ((s.toPoll g o).opTimeout g o b)) ∧
     (∀ (id : Nat) (o : GOp) (k : OpKind) (b : Bool), s.op? g id = some o → o.running = true → o.suspended = false → o.outcome = none →
       o.need = .console → s.armedAt g o.ctx = some k → k ≠ .reset → exec (.chamberOpTimeout g id b) s = .next (s.opTimeout g o b)) ∧
     (∀ (id : Nat) (o : GOp) (b : Bool), s.op? g id = some o → o.running = true → o.suspended = false → o.outcome = none →
       let u : State := if o.need = .console then s else s.toPoll g o
       (u.armedAt g o.ctx = none → exec (.chamberOpTimeout g id b) s = .next s) ∧
       (u.armedAt g o.ctx = some .reset →
         exec (.chamberOpTimeout g id b) s = .next (((u.listTimeout g o.ctx).dropOp g id).raiseRunTimeout g))) ∧
     (∀ (id : Nat) (o : GOp) (b : Bool), s.op? g id = some o → (o.running = false ∨ o.suspended = true ∨ o.outcome ≠ none) →
       exec (.chamberOpTimeout g id b) s = .next s) ∧
     (∀ (id : Nat) (b : Bool), s.op? g id = none → exec (.chamberOpTimeout g id b) s = .next s) ∧
     (∀ o : GOp, let u : State := ((s.raise 8).countTimeout g .read).listTimeout g o.ctx
       u.trb 8 = true ∧ u.rf (.galTmo g) 0 8 = satAdd 8 (s.rf (.galTmo g) 0 8) 1 ∧ (u.gals.get g).timeouts = (s.gals.get g).timeouts + 1 ∧
       (o.kind = .read → o.retried = false → o.need ≠ .console → (u.recoverLun g o.ch true).1 = true →
         s.opTimeout g o true = (u.recoverLun g o.ch true).2.setOp g o.id fun y =>
           { y with running := false, suspended := false, retried := true, outcome := none })) ∧
     (∀ r : WedgeRun, r.gal = g → (s.gals.get g).ops = [] → ((s.gals.get g).ctxs.all fun c => c.2.st == .idle) = true →
       exec (.sequencerWatchdog r) s = .next s) ∧
     (∀ r : WedgeRun, r.gal = g → ((s.gals.get g).ops ≠ [] ∨ ((s.gals.get g).ctxs.all fun c => c.2.st == .idle) = false) → s.con.running = none →
       let live : List GOp := (s.gals.get g).ops.filter fun o => o.running
       let quiet : State := State.interruptOps ((((s.raise 15).quiesceGal g).wedgeReset g).recordSelf)
         ((live.filter fun o => o.kind == .program || o.kind == .erase).map fun o => (g, o))
       let ready : State := (live.map (·.ch)).eraseDups.foldl (fun t c => let x : Bool × State := t.recoverLun g c (!r.stuck.getLsbD c.val)
         if x.1 then x.2 else x.2.makeSuspect g c) quiet
       let again : State := (live.filter fun o => o.kind == .program && o.need != .console).foldl (fun t o => t.reprogram g o)
         (((ready.reloadWpt g).wedgeTrain g r).driveWp g true)
       again.con.running = none → exec (.sequencerWatchdog r) s = .next again) ∧
     (((s.quiesceGal g).gals.get g).bus = none ∧ ((s.quiesceGal g).gals.get g).wpN = false ∧
       (((s.quiesceGal g).gals.get g).ctxs.all fun c => c.2.st == .idle) = true ∧ (((s.quiesceGal g).gals.get g).ops.all fun o => !o.running) = true))

/-- The ops that send cycles: the context takes the bus, the cycles stand in the trace, what the pad receivers sampled otherwise is counted above
1600 MT/s, and the context goes on at the next op. A row address outside what a program's or erase's list names is not sent; a data transfer past the
Keeper's end ends its list with code 0xFE; a read offset of a STEP above the table's rows ends it with 0xFD; a program's data that a third attempt
does not bring across ends it failed. The end of a list the scheduler runs: the context is idle with its outcome, code and status byte kept, the bus
is free of it, and the operation of its chamber is ready. The codes the manual does not give are free values (log entry 57). -/
def Obligations.SequencerBusRows : Prop :=
  (∀ (s : State) (g : Fin 8) (x : Fin 64) (c : SeqCtx) (w : Word),
     let t : State := s.busTaken g x
     let b : SeqCtx := { c with st := .bus }
     (∀ m : Bool, s.runsOp g x 0x1 c w = true →
       let u : State := (t.cycles g x [.cmd (BitVec.ofNat 8 (opf w 0 8))]).parity g true (b2n m)
       let d : SeqCtx := if opf w 8 1 = 1 then { b with armed := some (armKind (opf w 9 2)) } else b
       exec (.opCmd g ⟨x, m⟩) s = .next ((u.gal g fun y => y.forgetOfs x (opf w 0 8)).seqAdvance g x d)) ∧
     (∀ (p : Profile) (m : Nat), s.runsOp g x 0x2 c w = true → (s.gals.get g).profile = some p → t.rowRefused g b w = false →
       let row : Bool := opf w 0 3 == 1 || opf w 0 3 == 2
       let u : State := (t.cycles g x [.addr (c.addr p ((ctxCh x).val % 2) (opf w 0 3) (opf w 8 8))]).parity g true m
       ((row && writeKind ((s.gals.get g).kindOf c.listSlot) && c.force) = false → exec (.opAddr g ⟨x, m⟩) s = .next (u.seqAdvance g x b)) ∧
       ((row && writeKind ((s.gals.get g).kindOf c.listSlot) && c.force) = true →
         exec (.opAddr g ⟨x, m⟩) s = .next ((u.seqAdvance g x { b with marked := true }).taint g (ctxCh x) c.blk.toNat))) ∧
     (∀ m : Nat, s.runsOp g x 0x2 c w = true → t.rowRefused g b w = true →
       exec (.opAddr g ⟨x, m⟩) s = .next ((t.addrRefused g x b).afterOrder g x)) ∧
     (∀ r : DinRun, s.runsOp g x 0x3 c w = true →
       let step : Nat := if opf w 19 1 = 1 then 8 else c.dataLen w
       (c.fits step = false → exec (.opDin g x r) s = .next (t.listEnd g x b .fail 0xFE)) ∧
       (∀ (p : Profile) (bytes : List Nat) (t1 : State), c.fits step = true → (s.gals.get g).profile = some p →
         t.dinBytes g x b (c.dataLen w) none = (bytes, false, t1) →
         let sent : List Nat := if opf w 16 1 = 1 then randomise (c.seed g x) c.col.toNat (bytes.take (c.dataLen w)) else bytes.take (c.dataLen w)
         let kind : Nat := (s.gals.get g).kindOf c.listSlot
         let tries : List Nat := if s.rate g ≤ 1600 then [0] else if kind = 2 ∨ kind = 3 then attempts r.mismatches else r.mismatches.take 1
         let u : State := ((t1.cycles g x [.din sent]).parity g true (tries.headD 0)).resend g x b p sent
           (fun v => v.retrainOne g (ctxCe x) r.pass) 0 (tries.drop 1)
         (¬(tries.length = 3 ∧ tries.getD 2 0 ≠ 0) → exec (.opDin g x r) s = .next (u.seqAdvance g x (b.moveBuf step))) ∧
         (tries.length = 3 → tries.getD 2 0 ≠ 0 → ∃ code : Nat, code < 256 ∧
           exec (.opDin g x r) s = .next (State.listEnd { u with free := u.free + 1 } g x b .fail code))) ∧
       (∀ (bytes : List Nat) (t1 : State), c.fits step = true → t.dinBytes g x b (c.dataLen w) none = (bytes, true, t1) →
         ∃ code : Nat, code < 256 ∧ exec (.opDin g x r) s = .next (State.listEnd { t1 with free := t1.free + 1 } g x b .fail code))) ∧
     (∀ (m : Nat) (bytes : List Byte), s.runsOp g x 0x4 c w = true →
       let plain (l : List Nat) : List Nat := if opf w 16 1 = 1 then randomise (c.seed g x) c.col.toNat l else l
       let step : Nat := if opf w 19 1 = 1 then 8 else c.dataLen w
       (opf w 17 2 = 2 → exec (.opDout g x bytes m) s = .next (((t.cycles g x [.dout 1]).parity g false m).seqAdvance g x
         { b with s := BitVec.ofNat 8 ((plain (exactly 1 bytes)).headD 0) })) ∧
       (opf w 17 2 = 1 → c.console = false → exec (.opDout g x bytes m) s = .next (t.doutCodec g x b (c.dataLen w) m)) ∧
       (opf w 17 2 ≠ 2 → (opf w 17 2 ≠ 1 ∨ c.console = true) → c.fits step = false →
         exec (.opDout g x bytes m) s = .next (t.listEnd g x b .fail 0xFE)) ∧
       (opf w 17 2 ≠ 2 → (opf w 17 2 ≠ 1 ∨ c.console = true) → c.fits step = true →
         exec (.opDout g x bytes m) s = .next ((((t.cycles g x [.dout (c.dataLen w)]).parity g false m).kprPutBytes c.buf.toNat
           (ceilDiv (c.dataLen w) 8) (plain (exactly (c.dataLen w) bytes))).seqAdvance g x (b.moveBuf step)))) ∧
     (∀ m : Bool, s.runsOp g x 0x5 c w = true →
       exec (.opDinb g ⟨x, m⟩) s = .next (((t.cycles g x [.din [opf w 0 8]]).parity g true (b2n m)).seqAdvance g x b)) ∧
     (∀ (p : Profile) (m : Bool), s.runsOp g x 0x6 c w = true → (s.gals.get g).profile = some p →
       ((opf w 4 2 ≠ 1 ∨ c.step.toNat ≤ p.retry.length) → exec (.opDinv g ⟨x, m⟩) s =
         .next (((t.cycles g x [.din [(BitVec.ofInt 8 (t.dinv (chamberOf g (ctxCh x)) p c.blk.toNat c.step.toNat
           (opf w 4 2) (opf w 0 4))).toNat]]).parity g true (b2n m)).seqAdvance g x b)) ∧
       (opf w 4 2 = 1 → p.retry.length < c.step.toNat → exec (.opDinv g ⟨x, m⟩) s = .next (t.listEnd g x b .fail 0xFD)))) ∧
  (∀ (s : State) (g : Fin 8) (y : Gallery) (x : Fin 64) (byte n : Nat) (wr : Bool),
     (byte ≠ 0xFF → byte ≠ 0xFA → y.forgetOfs x byte = y) ∧
     (∀ i : Nat, Store.find (y.forgetOfs x 0xFF).lastOfs i = if i / 2 = (ctxCe x).val then none else Store.find y.lastOfs i) ∧
     ((n = 0 ∨ s.rate g ≤ 1600) → s.parity g wr n = s) ∧
     (0 < n → 1600 < s.rate g → (s.parity g wr n).trb 14 = true ∧ ((s.parity g wr n).gals.get g).parityErrs = (s.gals.get g).parityErrs + n)) ∧
  (∀ (s : State) (g : Fin 8) (x : Fin 64) (c : SeqCtx) (o : Outc) (code : Nat), c.console = false →
     let t : State := s.listEnd g x c o code
     (∃ d : SeqCtx, Store.find (t.gals.get g).ctxs x.val = some d ∧ d.st = .idle ∧ d.armed = none ∧ d.lastOut = o ∧ d.lastCode = BitVec.ofNat 8 code ∧
       d.lastS = c.s ∧ d.lastSlot = c.listSlot ∧ d.ret = none) ∧ (t.gals.get g).bus ≠ some x ∧
     (t.gals.get g).ops = (s.gals.get g).ops.map (fun p => if p.running && p.ctx == x.val && p.outcome.isNone then
       { p with ready := true, outcome := some (o, code) } else p) ∧
     (∀ h : Fin 8, h ≠ g → t.gals.get h = s.gals.get h) ∧ { t with gals := s.gals } = s)

/-- The status ops: a poll with a first delay gives up the bus before its first read, goes on when the masked status is the value, and otherwise gives
up the bus until its next read. The ops that send nothing: waits, branches, loops, registers (an addition keeps the register's width), calls, and the
end of a list. A loop count from a register of 0 is log entry 70; the set that CALL 26 would apply is that of the block's group (log entry 71). -/
def Obligations.SequencerRegisterRows : Prop :=
  (∀ (s : State) (g : Fin 8) (x : Fin 64) (c : SeqCtx) (w : Word) (r : StatusIn),
     let t : State := s.busTaken g x
     let b : SeqCtx := { c with st := .bus, s := r.status }
     let l : List BusCycle := t.statusCycles g x { c with st := .bus } (opf w 16 1 == 1)
     let u : State := ((t.cycles g x l).parity g true r.driven).parity g false (b2n r.received)
     (opf w 16 1 = 0 → l = [.cmd 0x70, .dout 1]) ∧
     (∀ p : Profile, opf w 16 1 = 1 → (s.gals.get g).profile = some p →
       l = [.cmd 0x78, .addr (p.row ((ctxCh x).val % 2) c.blk.toNat c.page.toNat), .dout 1]) ∧
     (s.runsOp g x 0x9 c w = true → opf w 17 3 ≠ 0 → c.polled = false →
       exec (.opPoll g x r) s = .next ((t.setCtx g x { c with st := .waiting, polled := true }).yieldBus g x)) ∧
     (s.runsOp g x 0x9 c w = true → (opf w 17 3 = 0 ∨ c.polled = true) →
       (r.status &&& BitVec.ofNat 8 (opf w 0 8)) = BitVec.ofNat 8 (opf w 8 8) → exec (.opPoll g x r) s = .next (u.seqAdvance g x b)) ∧
     (s.runsOp g x 0x9 c w = true → (opf w 17 3 = 0 ∨ c.polled = true) →
       (r.status &&& BitVec.ofNat 8 (opf w 0 8)) ≠ BitVec.ofNat 8 (opf w 8 8) →
       exec (.opPoll g x r) s = .next ((u.setCtx g x { b with st := .polling, polled := true }).yieldBus g x)) ∧
     (s.runsOp g x 0xA c w = true → exec (.opStat g x r) s = .next (u.seqAdvance g x b))) ∧
  (∀ (s : State) (g : Fin 8) (x : Fin 64) (c : SeqCtx) (w : Word),
     (s.runsOp g x 0x7 c w = true → opf w 18 1 = 0 → exec (.opWait g x) s = .next (s.seqAdvance g x c)) ∧
     (s.runsOp g x 0x7 c w = true → opf w 18 1 = 1 → exec (.opWait g x) s = .next ((s.seqAdvance g x { c with st := .waiting }).yieldBus g x)) ∧
     (s.runsOp g x 0x8 c w = true → exec (.opWaitp g x) s = .next (s.seqAdvance g x c)) ∧
     (s.runsOp g x 0xB c w = true → exec (.opBr g x) s =
       .next (if (opf w 16 2 = 0 ∧ (c.s &&& BitVec.ofNat 8 (opf w 0 8)) = BitVec.ofNat 8 (opf w 8 8)) ∨
         (opf w 16 2 = 1 ∧ (c.s &&& BitVec.ofNat 8 (opf w 0 8)) ≠ BitVec.ofNat 8 (opf w 8 8)) ∨
         (opf w 16 2 = 2 ∧ c.l0 = 0) ∨ (opf w 16 2 = 3 ∧ c.l1 = 0) then s.setCtx g x { c with pc := opf w 18 6 } else s.seqAdvance g x c)) ∧
     (s.runsOp g x 0xC c w = true → exec (.opSetl g x) s = .next (s.seqAdvance g x (c.setLoop (opf w 16 1)
       (if opf w 17 1 = 0 then max 1 (opf w 0 16) else if opf w 21 1 = 1 then c.get (opf w 18 3) - 1 else max 1 (c.get (opf w 18 3)))))) ∧
     (s.runsOp g x 0xD c w = true → opf w 16 1 = 0 → exec (.opLoop g x) s =
       .next (if 1 < c.l0 then s.setCtx g x { c with l0 := c.l0 - 1, pc := opf w 0 6 } else s.seqAdvance g x { c with l0 := c.l0 - 1 })) ∧
     (s.runsOp g x 0xD c w = true → opf w 16 1 = 1 → exec (.opLoop g x) s =
       .next (if 1 < c.l1 then s.setCtx g x { c with l1 := c.l1 - 1, pc := opf w 0 6 } else s.seqAdvance g x { c with l1 := c.l1 - 1 })) ∧
     (s.runsOp g x 0xE c w = true → opf w 19 1 = 0 → exec (.opSet g x) s = .next (s.seqAdvance g x (c.put (opf w 16 3) (opf w 0 16)))) ∧
     (s.runsOp g x 0xE c w = true → opf w 19 1 = 1 →
       exec (.opSet g x) s = .next (s.seqAdvance g x (c.put (opf w 16 3) (c.get (opf w 16 3) + opf w 0 16)))) ∧
     (s.runsOp g x 0xF c w = true → opf w 0 6 ≠ 26 →
       (((s.gals.get g).slots.getD (opf w 0 6) none).isSome = true → exec (.opCall g x) s =
         .next (s.setCtx g x { c with slot := opf w 0 6, pc := 0, ret := some (c.slot, c.pc + 1), applying := none })) ∧
       (((s.gals.get g).slots.getD (opf w 0 6) none) = none → exec (.opCall g x) s = .next (s.seqAdvance g x c))) ∧
     (∀ (p : Profile) (l : List Int), s.runsOp g x 0xF c w = true → opf w 0 6 = 26 → (s.gals.get g).profile = some p →
       s.offsetSet (chamberOf g (ctxCh x)) p c.blk.toNat c.step.toNat c.pslc = l → let n : Nat := if c.pslc then 27 else 26
       (Store.find (s.gals.get g).lastOfs (ctxCh x).val = some l → exec (.opCall g x) s = .next (s.seqAdvance g x c)) ∧
       (Store.find (s.gals.get g).lastOfs (ctxCh x).val ≠ some l → ((s.gals.get g).slots.getD n none) = none →
         exec (.opCall g x) s = .next (s.seqAdvance g x c)) ∧
       (Store.find (s.gals.get g).lastOfs (ctxCh x).val ≠ some l → ((s.gals.get g).slots.getD n none).isSome = true → exec (.opCall g x) s =
         .next (s.setCtx g x { c with slot := n, pc := 0, ret := some (c.slot, c.pc + 1), applying := some l }))) ∧
     (∀ (slot pc : Nat), s.runsOp g x 0x0 c w = true → opf w 8 1 = 0 → c.ret = some (slot, pc) →
       (c.applying = none → exec (.opEnd g x) s = .next (s.setCtx g x { c with slot, pc, ret := none, applying := none })) ∧
       (∀ l : List Int, c.applying = some l → exec (.opEnd g x) s = .next ((s.gal g fun y =>
         { y with lastOfs := Store.ins (ctxCh x).val l y.lastOfs }).setCtx g x { c with slot, pc, ret := none, applying := none }))) ∧
     (s.runsOp g x 0x0 c w = true → opf w 8 1 = 0 → c.ret = none → exec (.opEnd g x) s = .next (s.listEnd g x c .ok (opf w 0 8))) ∧
     (s.runsOp g x 0x0 c w = true → opf w 8 1 = 1 → exec (.opEnd g x) s = .next (s.listEnd g x c .fail (opf w 0 8))))

/-- Hard decodes of a running read: what it finds is checked, and a read that passes is delivered, one that fails goes up the ladder; every decode
is counted. Soft decodes and their timeout. Rebuilding from the stripe: with a source that failed the codeword is uncorrectable; with all of them
and a decode that passes it is delivered, counted, and trouble bit 18 set; with parity released it is uncorrectable. A decode of a read that does
not run, or in another stage, changes nothing (log entry 3). What a die or a decoder answers is an operand of the row (log entry 6).
-/
def Obligations.DecodeRows : Prop :=
  (∀ (s : State) (id step : Nat) (x : Rd) (r : DecodeResult), s.rd? id = some x → x.hardStep = some step → s.reading x = true →
     let u : State := (s.readDone x).xtsCheck r.xtsFault
     let n : State := u.cdcCount .cdcHardCnt 0 32 "hard"
     (u.readOk x = false → exec (.hardDecode id r) s = .next (u.hardFail x step)) ∧
     (u.readOk x = true →
       (∀ c : Cw, u.hardFinds x r = .pass c → exec (.hardDecode id r) s = .next (n.hardPass x step r.raw c r.outOk)) ∧
       (u.hardFinds x r = .fail → exec (.hardDecode id r) s = .next (n.hardFail x step)) ∧
       (u.hardFinds x r = .wrong → exec (.hardDecode id r) s = .next ((if x.only0 then n else n.miscorrect).hardFail x step)) ∧
       (u.hardFinds x r = .noKey → exec (.hardDecode id r) s = .next (n.cryptoFault x))) ∧
     (r.raw ≤ 295 → u.hardFinds x r = u.check x r) ∧ (295 < r.raw → r.converged = false → u.hardFinds x r = .fail) ∧
     (295 < r.raw → r.converged = true → u.hardFinds x r = .wrong)) ∧
  (∀ (s : State) (id : Nat) (r : DecodeResult),
     (s.rd? id = none → exec (.hardDecode id r) s = .next s) ∧
     (∀ x : Rd, s.rd? id = some x → (x.hardStep = none ∨ s.reading x = false) → exec (.hardDecode id r) s = .next s) ∧
     (∀ (x : Rd) (lane : Fin 2), s.rd? id = some x → (x.soft = false ∨ x.softLane ≠ some lane ∨ s.reading x = false) →
       exec (.softDecode id lane r) s = .next s) ∧
     (∀ (x : Rd) (f : SourceRun), s.rd? id = some x → x.stage ≠ .rebuild → exec (.stripeRebuild id f r) s = .next s)) ∧
  (∀ (s : State) (id : Nat) (x : Rd) (r : DecodeResult), s.rd? id = some x → x.soft = true → s.reading x = true →
     let u : State := (s.readDone x).xtsCheck r.xtsFault
     let v : State := u.readRow x (s.softRow2 x)
     let n : State := v.cdcCount .cdcSoftCnt x.softHalf 16 "soft"
     let late : State := ((s.readDone x).readRow x (s.softRow2 x)).cdcCount .cdcSoftCnt x.softHalf 16 "soft"
     (∀ lane : Fin 2, x.softLane = some lane →
       ((u.readOk x = false → exec (.softDecode id lane r) s = .next (u.softFail x)) ∧
       (u.readOk x = true → v.readOk x = false → exec (.softDecode id lane r) s = .next (v.softFail x)) ∧
       (u.readOk x = true → v.readOk x = true →
         (∀ c : Cw, v.softFinds x r = .pass c →
           exec (.softDecode id lane r) s = .next ((((n.raise 16).softEffort x.loc.blk).endRead x).deliver x c r.outOk)) ∧
         (v.softFinds x r = .wrong → exec (.softDecode id lane r) s = .next (n.miscorrect.softFail x)) ∧
         (v.softFinds x r = .fail → exec (.softDecode id lane r) s = .next (n.softFail x)) ∧
         (v.softFinds x r = .noKey → exec (.softDecode id lane r) s = .next (n.cryptoFault x)))) ∧
       exec (.softDecodeTimeout id) s = .next (((late.bump .cdcLaneTmo 8 8 1).raise 21).softFail x))) ∧
  (∀ (s : State) (id : Nat) (x : Rd) (r : DecodeResult) (f : SourceRun), s.rd? id = some x → x.stage = .rebuild →
     (s.parityHeld x.loc = false → exec (.stripeRebuild id f r) s = .next ((s.bumpWrap .cdcRebuildCnt 16 16 1).uncorrectable x)) ∧
     (s.parityHeld x.loc = true →
       let s0 : State := s.sourceReads x.loc f
       let s1 : State := (s0.xtsCheck r.xtsFault).cdcCount .cdcHardCnt 0 32 "hard"
       (∀ l : Loc, f.fail = some l →
         exec (.stripeRebuild id f r) s = .next (((s0.bumpWrap .cdcRebuildCnt 16 16 1).refreshWant l.blk 5).uncorrectable x)) ∧
       (f.fail = none →
         (∀ c : Cw, s1.softFinds x r = .pass c → exec (.stripeRebuild id f r) s =
           .next (((((s1.cdcCount .cdcRebuildCnt 0 16 "rebuild").raise 18).heavy x.loc.blk).endRead x).deliver x c r.outOk)) ∧
         (s1.softFinds x r = .fail → exec (.stripeRebuild id f r) s = .next ((s1.bumpWrap .cdcRebuildCnt 16 16 1).uncorrectable x)) ∧
         (s1.softFinds x r = .wrong → exec (.stripeRebuild id f r) s = .next ((s1.miscorrect.bumpWrap .cdcRebuildCnt 16 16 1).uncorrectable x)) ∧
         (s1.softFinds x r = .noKey → exec (.stripeRebuild id f r) s = .next (s1.cryptoFault x)))))

/-- A staged sector goes to the page being filled: a codeword is allocated in order, its number taken, and its encoding asked for; a sector whose place
went with a failed block comes first. Encoding a sector: a position without an accumulator waits, a key that is missing fails it, a CRC mismatch is
counted, fetched again once and then a write error (in cached data, damaged). The timeouts of the lanes. Pages are released to the gallery when their
codewords are encoded; a flow without an open group opens one. A programmed sector of no waiting command, of a cached one, or of one whose sectors are
all programmed commits: its mapping goes live. A row that does not apply changes nothing (log entry 3). -/
def Obligations.WritePathRows : Prop :=
  (∀ (s s1 s2 s3 : State) (x : Staged) (g : StripeGroup) (id q : Nat) (l : Loc) (b : Bool), s.openOf .sump = some g →
     s.mapUp = true → s.sumpUsed < s.map.sumpSize → s.fillFull g = false →
     ((s.map.allocs.find? (·.unplaced)) = none → s.nextStaged = some x → s.pendRoom x.dsec = true → s.newId = (id, s1) →
       s1.allocIn g.num id = some (l, b, s2) → s2.newSeq = (q, s3) →
       ∃ t : State, exec .sumpAllocation s = .next t ∧
         t.map.allocs = s3.map.allocs ++ [
           { id, staged := x.id, ns := x.ns, lba := x.lba, dsec := x.dsec, seq := q, loc := l,
             data := x.data, damaged := x.damaged, secs := s.sys.life }] ∧
         t.front.staging = s3.front.staging.map (fun y => if y.id = x.id then { y with alloc := some id } else y) ∧
         (t.cdc.enc.any fun e => e.id == id && !e.encoded && e.alloc == some id) = true ∧ t.regs = s3.regs) ∧
     (∀ a : Alloc, (s.map.allocs.find? (·.unplaced)) = some a → exec .sumpAllocation s = .next (s.placeAgain a g.num)) ∧
     ((s.map.allocs.find? (·.unplaced)) = none → (s.nextStaged = none ∨ (s.nextStaged = some x ∧ s.pendRoom x.dsec = false)) →
       exec .sumpAllocation s = .next s)) ∧
  (∀ s : State, (s.openOf .sump = none ∨ s.mapUp = false ∨ s.map.sumpSize ≤ s.sumpUsed ∨ (∃ g : StripeGroup, s.openOf .sump = some g ∧ s.fillFull g = true)) →
     exec .sumpAllocation s = .next s) ∧
  (∀ (s : State) (id : Nat) (r : EncodeRun) (bad : Bool),
     ((s.cdc.enc.find? fun e => e.id == id) = none → exec (.encode id r bad) s = .next s) ∧
     (∀ e : Enc, (s.cdc.enc.find? fun e => e.id == id) = some e →
       ((e.encoded = true ∨ s.accRoom e.loc.blk e.loc.page 1 = false) → exec (.encode id r bad) s = .next s) ∧
       (e.encoded = false → s.accRoom e.loc.blk e.loc.page 1 = true →
         let u : State := s.xtsCheck r.xtsFault
         let keyed : Prop := ∀ k : Fin 9, State.encSlot e = some k → (u.cdc.keys.get k).isSome = true ∧ u.xtsOut = false
         ((u.map.allocs.find? fun a => e.alloc == some a.id) = none →
           (keyed → exec (.encode id r bad) s = .next (u.encoded e r.syndrome)) ∧ (¬keyed → exec (.encode id r bad) s = .next (u.raise 20))) ∧
         (∀ a : Alloc, (u.map.allocs.find? fun a => e.alloc == some a.id) = some a →
           let cached : Bool := ((u.front.staging.find? fun x => x.id == a.staged).map (·.cached)).getD false
           let v : State := (u.bumpWrap .cdcCrcCnt 16 16 1).raise 19
           (¬keyed → exec (.encode id r bad) s = .next ((u.raise 20).allocFail a .internal)) ∧
           (keyed → bad = false → exec (.encode id r bad) s = .next (u.encoded e r.syndrome)) ∧
           (keyed → bad = true → cached = true →
             exec (.encode id r bad) s = .next ((v.setAlloc a.id fun x => { x with damaged := true }).encoded e r.syndrome)) ∧
           (keyed → bad = true → cached = false → e.tries = 0 → exec (.encode id r bad) s = .next { v with cdc := { v.cdc with
             enc := v.cdc.enc.map fun x => if x.id = id then { x with tries := 1 } else x } }) ∧
           (keyed → bad = true → cached = false → e.tries ≠ 0 → exec (.encode id r bad) s = .next (v.allocFail a ⟨0, 0x04, false⟩)))))) ∧
  (∀ (s : State),
     (∀ h : Fin 8, s.laneBusy h = true →
       exec (.hardLaneTimeout h) s = .next ((((s.raise 21).bump .cdcLaneTmo 0 8 1).hardMove h).laneIn (16 + h.val)).recordSelf) ∧
     (∀ (h : Fin 8) (u : State), (u.laneIn (16 + h.val)).recordSelf.rf .cdcLaneStat (16 + h.val) 1 = 0) ∧
     (∀ h : Fin 8, s.laneBusy h = false → exec (.hardLaneTimeout h) s = .next s) ∧
     (∀ n : Fin 2, 0 < s.softLoad n →
       exec (.softLaneTimeout n) s = .next ((((s.raise 21).bump .cdcLaneTmo 8 8 1).softMove n).laneIn (24 + n.val)).recordSelf) ∧
     (∀ (n : Fin 2) (u : State), (u.laneIn (24 + n.val)).recordSelf.rf .cdcLaneStat (24 + n.val) 1 = 0) ∧
     (∀ n : Fin 2, s.softLoad n = 0 → exec (.softLaneTimeout n) s = .next s)) ∧
  (∀ (s : State),
     (∀ (w : Bool) (g : StripeGroup), s.openOf .sump = some g →
       let ready : Prop := g.filling ≠ [] ∧ ∀ i ∈ g.filling, ∀ e ∈ s.cdc.enc, e.id = i → e.encoded = true
       (ready → (s.fillFull g = true ∨ (w = true ∧ s.pageWaited g.filling = true)) → exec (.sumpPageRelease w) s = .next (s.releaseFill g.num 3 .sumpPage)) ∧
       ((¬ready ∨ (s.fillFull g = false ∧ (w = false ∨ s.pageWaited g.filling = false))) → exec (.sumpPageRelease w) s = .next s)) ∧
     (∀ w : Bool, s.openOf .sump = none → exec (.sumpPageRelease w) s = .next s) ∧
     (∀ f : Flow, let has : Bool := decide (flowGroups f ≤ s.map.groups.countP fun g => g.isOpen && g.flow == f && s.grpRoom g)
       let u : State := { s with map := { s.map with groups := s.map.groups.map fun g => if g.flow = f ∧ s.grpRoom g = false then { g with isOpen := false } else g } }
       (s.mapUp = true → has = false → (s.con.leaving && s.taintLeft) = false →
         (∀ t : State, u.openGroup f = some t → exec (.stripeGroupOpen f) s = .next t) ∧
         (u.openGroup f = none → exec (.stripeGroupOpen f) s = .next s)) ∧
       ((s.mapUp = false ∨ has = true ∨ (s.con.leaving && s.taintLeft) = true) → exec (.stripeGroupOpen f) s = .next s))) ∧
  (∀ (s : State) (id : Nat),
     ((s.map.allocs.find? fun a => a.id == id) = none → exec (.commit id) s = .next s) ∧
     (∀ a : Alloc, (s.map.allocs.find? fun a => a.id == id) = some a →
       let x : Option Staged := s.front.staging.find? fun x => x.id == a.staged
       ((a.programmed = false ∨ s.mapUp = false ∨ s.dirtyRoom a.dsec = false) → exec (.commit id) s = .next s) ∧
       (a.programmed = true → s.mapUp = true → s.dirtyRoom a.dsec = true →
         ((x.bind fun x => x.hdr) = none → exec (.commit id) s = .next (s.commitOne a).settle) ∧
         (∀ h : Hdr, (x.bind fun x => x.hdr) = some h → (s.commandProgrammed h = true ∨ (x.map (·.cached)) = some true) →
           exec (.commit id) s = .next ((s.commitOne a).committed h).settle) ∧
         (∀ h : Hdr, (x.bind fun x => x.hdr) = some h → s.commandProgrammed h = false → (x.map (·.cached)) = some false →
           exec (.commit id) s = .next s))))

/-- The background flows copy blocks: fold, garbage collection, wear levelling and refresh, each with its cause; none while they are paused, and none
of a block that a Secure Deallocate examines. A copy is swapped in where its source still stands, and counted. Retried sectors, partial writes and
the write-back of map pages. What counts as an idle host is log entry 76; a row that does not apply changes nothing (log entry 3). -/
def Obligations.BackgroundRows : Prop :=
  (∀ (s : State), s.mapUp = true → s.bgPaused = false →
     (∀ k : Nat, (s.blk k).use = .sump → (s.blk k).st = .closed → 0 < (s.blk k).valid → (s.map.sumpSize < 2 * s.sumpUsed ∨ s.hostIdle = true) →
       s.candidate k = false →
       (s.map.blks.all fun e => !(e.2.use == .sump && e.2.st == .closed && decide (e.2.valid > 0)) || decide ((s.blk k).closeSeq ≤ e.2.closeSeq)) = true →
       exec (.fold k) s = .next (s.copyBlock k .fold 0 true)) ∧
     (∀ k : Nat, ((s.blk k).use ≠ .sump ∨ (s.blk k).st ≠ .closed ∨ (s.blk k).valid = 0 ∨ s.candidate k = true ∨
       (2 * s.sumpUsed ≤ s.map.sumpSize ∧ s.hostIdle = false)) → exec (.fold k) s = .next s) ∧
     (∀ k : Nat, (s.urgent = true ∨ (s.gcBelow 2 = true ∧ s.hostIdle = true)) → s.victim s.urgent = some k →
       exec .garbageCollection s = .next (if (s.blk k).use = .map then s.collectMap k else s.copyBlock k .relocation causeGc true)) ∧
     ((s.urgent = true ∨ (s.gcBelow 2 = true ∧ s.hostIdle = true)) → s.victim s.urgent = none → exec .garbageCollection s = .next s) ∧
     (s.urgent = false → (s.gcBelow 2 = false ∨ s.hostIdle = false) → exec .garbageCollection s = .next s) ∧
     (∀ (e : Nat × Blk) (p : Profile), s.refProf = some p → s.leastWorn = some e →
       let spread : Nat := s.map.blks.foldl (fun a e => max a e.2.erase) 0 - e.2.erase
       (s.collectable e = true → max 100 (p.ratedNative / 20) < spread → exec .wearLevelling s = .next (s.copyBlock e.1 .relocation causeWear true)) ∧
       ((s.collectable e = false ∨ spread ≤ max 100 (p.ratedNative / 20)) → exec .wearLevelling s = .next s)) ∧
     (∀ e : RefQ, s.map.nextRefresh = some e →
       (0 < (s.blk e.blk).valid → (s.blk e.blk).use = .map → exec .refresh s = .next (s.moveMapPages e.blk)) ∧
       (0 < (s.blk e.blk).valid → (s.blk e.blk).use ≠ .map →
         (s.map.secure = none → exec .refresh s = .next (s.copyBlock e.blk .relocation e.cause true)) ∧
         (∀ x : SecDeal, s.map.secure = some x → x.hits.contains e.blk = false → exec .refresh s = .next (s.copyBlock e.blk .relocation e.cause true)) ∧
         (∀ x : SecDeal, s.map.secure = some x → x.hits.contains e.blk = true → s.readOnly = false →
           exec .refresh s = .next (s.copyBlock e.blk .relocation causeSecure false))) ∧
       ((s.blk e.blk).valid = 0 → (s.map.relocs.any fun r => r.src.blk == e.blk) = false →
         exec .refresh s = .next (((s.refreshStat e.cause).refreshDone e.blk).retireTry e.blk))) ∧
     (s.map.nextRefresh = none → exec .refresh s = .next s) ∧
     (∀ id : Nat, ((s.map.relocs.find? fun r => r.id == id).all fun r => s.dirtyRoom r.dsec) = true →
       exec (.relocationSwap id) s = .next (s.swapOne id)) ∧
     (∀ id : Nat, ((s.map.relocs.find? fun r => r.id == id).all fun r => s.dirtyRoom r.dsec) = false → exec (.relocationSwap id) s = .next s)) ∧
  (∀ (s : State) (id : Nat) (r : Reloc), (s.map.relocs.find? fun r => r.id == id) = some r →
     let u : State := { s with map := { s.map with relocs := s.map.relocs.filter fun x => x.id != id } }
     (r.programmed = false → s.swapOne id = s) ∧
     (r.programmed = true → s.entry r.dsec = .mapped r.src → (s.secured r.dsec = false ∨ r.cause = causeSecure) → s.swapOne id =
       (((((u.retryDrop r.dsec).remap r.dsec (.mapped r.dst)).bumpWrap .mapCasOk 0 32 1).record (.reloc r.dsec r.src r.dst)).emptied r).settle) ∧
     (r.programmed = true → s.entry r.dsec ≠ .mapped r.src → s.secured r.dsec = false → s.swapOne id = u.bumpWrap .mapCasFail 0 32 1)) ∧
  (∀ (s : State), s.bgPaused = true → (∀ k : Nat, exec (.fold k) s = .next s) ∧ exec .garbageCollection s = .next s ∧
     exec .wearLevelling s = .next s ∧ exec .refresh s = .next s) ∧
  (∀ (s : State),
     (∀ (d k : Nat) (r : RetrySec), (s.map.retries.find? fun r => r.dsec == d && r.blk == k) = some r →
       (s.mapRuns = true → s.bgPaused = false → (s.map.relocs.any fun x => x.dsec == d) = false →
         (∀ (l : Loc) (g : StripeGroup), s.entry d = .mapped l → s.openOf .relocation = some g → l.blk = k →
           exec (.sectorRetry d k) s = .next (s.startReloc g.num .relocation (s.blk l.blk).cause (d, l))) ∧
         (∀ (l : Loc) (g : StripeGroup), s.entry d = .mapped l → s.openOf .relocation = some g → l.blk ≠ k →
           exec (.sectorRetry d k) s = .next (s.retryDrop d)) ∧
         (∀ l : Loc, s.entry d = .mapped l → s.openOf .relocation = none → exec (.sectorRetry d k) s = .next s) ∧
         ((∀ l : Loc, s.entry d ≠ .mapped l) → exec (.sectorRetry d k) s = .next (s.retryDrop d))) ∧
       ((s.mapRuns = false ∨ s.bgPaused = true ∨ (s.map.relocs.any fun x => x.dsec == d) = true) → exec (.sectorRetry d k) s = .next s)) ∧
     ((∀ d k : Nat, (s.map.retries.find? fun r => r.dsec == d && r.blk == k) = none → exec (.sectorRetry d k) s = .next s)) ∧
     (∀ (ns : Fin 8) (lba : Nat),
       ((s.front.staging.find? fun x => x.ns == ns && x.lba == lba && x.partialMask.isSome) = none → exec (.partialWrite ns lba) s = .next s) ∧
       (∀ x : Staged, (s.front.staging.find? fun x => x.ns == ns && x.lba == lba && x.partialMask.isSome) = some x →
         let before : List Staged := s.front.staging.filter fun y => y.dsec == x.dsec && decide (y.id < x.id)
         let busy : Bool := (s.cdc.rds.any fun r => r.need == .merge x.id x.ns x.lba) || (s.map.waiters.any fun w => w.2 == .merge x.id x.ns x.lba) ||
           before.any fun y => y.partialMask.isSome || y.locked
         (s.mapUp = true → busy = false → before = [] → exec (.partialWrite ns lba) s = .next (s.readSector x.dsec 1 (.merge x.id x.ns x.lba)).settle) ∧
         (∀ y : Staged, s.mapUp = true → busy = false → before.getLast? = some y → exec (.partialWrite ns lba) s = .next (s.merged x.id y.data).settle) ∧
         ((s.mapUp = false ∨ busy = true) → exec (.partialWrite ns lba) s = .next s))) ∧
     (∀ (page : Nat) (p : MapPage) (g : StripeGroup), s.mapRuns = true →
       (s.map.cache.find? fun p => p.series == page / 2 ^ 38 && p.num == page % 2 ^ 38) = some p → s.openOf .map = some g →
       let busy : Bool := s.cdc.enc.any fun e => e.cw.kind == 1 && e.cw.lba == page
       (∀ (id q : Nat) (l : Loc) (b : Bool) (s1 s2 s3 : State), p.dirty = true → g.fill = [] → busy = false → s.newId = (id, s1) →
         s1.allocIn g.num id = some (l, b, s2) → s2.newSeq = (q, s3) → exec (.mapPageWriteback page) s =
           .next ((s3.pushEnc { id, cw := s.mapCw page q, loc := l, alloc := none, encoded := false }).releaseFill g.num 3 (.mapPage page))) ∧
       ((p.dirty = false ∨ g.fill ≠ [] ∨ busy = true) → exec (.mapPageWriteback page) s = .next s)) ∧
     (∀ page : Nat, (s.mapRuns = false ∨ s.openOf .map = none ∨
       (s.map.cache.find? fun p => p.series == page / 2 ^ 38 && p.num == page % 2 ^ 38) = none) → exec (.mapPageWriteback page) s = .next s))

/-- The end of an array operation, and what erases, verifies and retires blocks and chambers: each outcome of a program's and of an erase's list; a
member whose every codeword passes is verified, and one with a codeword that does not is scheduled for refresh, each lost codeword starting the full
order; an erasable block is erased, or retired in place of its third strike; a chamber without an erased reserve erases one; a chamber suspect for
24 h is retired. A row that does not apply changes nothing (log entry 3). -/
def Obligations.BlockRows : Prop :=
  ∀ (s : State),
    (∀ (g : Fin 8) (id : Nat) (o : GOp) (planes : BitVec 4) (bad : Bool), s.op? g id = some o → o.running = true → o.suspended = false →
      o.need ≠ .console → (o.kind = .program ∨ o.kind = .erase) →
      let u : State := s.finishOp g o { status := if bad then readyFail else ready }
      (u.opOut g id = some .ok → o.kind = .program → exec (.arrayOpComplete g id planes bad) s = .next (u.programOk g o).settle) ∧
      (u.opOut g id = some .ok → o.kind = .erase → exec (.arrayOpComplete g id planes bad) s =
        .next ((o.blks g).foldl (fun (t : State) (k : Nat) => t.eraseOk g o k) (u.dropOp g id)).settle) ∧
      (u.opOut g id = some .fail → o.kind = .program → exec (.arrayOpComplete g id planes bad) s = .next (u.programFail g o planes)) ∧
      (u.opOut g id = some .fail → o.kind = .erase → exec (.arrayOpComplete g id planes bad) s = .next (u.eraseFailed g o planes)) ∧
      (u.opOut g id = some .timeout → exec (.arrayOpComplete g id planes bad) s = .next (u.opTimeout g o true)) ∧
      (u.opOut g id ∉ [some .ok, some .fail, some .timeout] → exec (.arrayOpComplete g id planes bad) s = .next u)) ∧
    (∀ (g : Fin 8) (id : Nat) (planes : BitVec 4) (bad : Bool), (s.op? g id = none ∨ ∃ o : GOp, s.op? g id = some o ∧ (o.running = false ∨
      o.suspended = true ∨ o.need = .console ∨ (o.kind ≠ .program ∧ o.kind ≠ .erase))) → exec (.arrayOpComplete g id planes bad) s = .next s) ∧
    (∀ (g : Fin 8) (o : GOp) (planes : BitVec 4), o.retried = false → (s.eraseFailed g o planes).trb 12 = true) ∧
    (∀ (k : Nat) (g : StripeGroup) (rs : List DecodeResult), s.groupOf k = some g →
      let counted : State := ((s.countRead k (s.pagesOf k)).cdcCount .cdcHardCnt 0 32 "hard" rs.length).cdcCount .cdcHardBits 0 32 "bits"
        (sumNat ((rs.filter fun r => !stepLost r).map (·.raw)))
      let checked : State := rs.foldl (fun (t : State) (r : DecodeResult) => t.xtsCheck r.xtsFault) counted
      let u : State := if (!(s.blk k).pslc && rs.any fun r => !stepLost r && decide (s.rewriteBits ≤ 2 * r.raw)) then checked.searchPend k else checked
      let bad : List (Loc × DecodeResult) := ((s.codewordsOf k).zip rs).filter fun x => stepLost x.2
      ((s.blk k).st = .closed → s.mapRuns = true → rs.length = 4 * s.pagesOf k →
        (rs.all s.verifies = true → exec (.readVerify k rs) s = .next ((u.setGroup g.num fun x =>
          { x with verified := if x.verified.contains k then x.verified else x.verified ++ [k] }).releaseTry g.num)) ∧
        (rs.all s.verifies = false →
          let started : State := bad.foldl (fun (t : State) (x : Loc × DecodeResult) => (t.startRead x.1 5 (.verify k)).2) u
          let missed : State := bad.foldl (fun (t : State) (x : Loc × DecodeResult) =>
            if decide (x.2.raw ≤ 295) || x.2.converged then t.miscorrect else t) started
          exec (.readVerify k rs) s = .next (((missed.setGroup g.num fun x =>
            { x with failing := if x.failing.contains k then x.failing else x.failing ++ [k] }).refreshWant k 2).releaseTry g.num))) ∧
      (((s.blk k).st ≠ .closed ∨ s.mapRuns = false ∨ rs.length ≠ 4 * s.pagesOf k) → exec (.readVerify k rs) s = .next s)) ∧
    (∀ (k : Nat) (rs : List DecodeResult), s.groupOf k = none → exec (.readVerify k rs) s = .next s) ∧
    (∀ k : Nat, let u : State := s.releaseOf k
      (u.mapRuns = true → u.hasBlk k = true → u.erasable k = true →
        ((u.blk k).retire = 0 → ((u.blk k).heavy = false ∨ (u.blk k).strikes < 2) → u.wptRoom k = true → exec (.blockErase k) s = .next (u.queueErase k)) ∧
        ((u.blk k).retire = 0 → ((u.blk k).heavy = false ∨ (u.blk k).strikes < 2) → u.wptRoom k = false → exec (.blockErase k) s = .next u) ∧
        ((u.blk k).retire = 0 → (u.blk k).heavy = true → 2 ≤ (u.blk k).strikes → exec (.blockErase k) s = .next (u.retireBlk k 3)) ∧
        ((u.blk k).retire ≠ 0 → exec (.blockErase k) s = .next (u.retireTry k))) ∧
      ((u.mapRuns = false ∨ u.hasBlk k = false ∨ u.erasable k = false) → exec (.blockErase k) s = .next u)) ∧
    (∀ c : Fin 128, let has : Bool := s.map.blks.any fun e => e.1 / 65536 == c.val && e.2.st == .erased && e.2.use == .none
      (∀ k : Nat, s.mapRuns = true → s.map.present.contains c = true → s.suspect c = false → has = false → (s.con.leaving && s.taintLeft) = false →
        s.reserveOf c = some k → s.wptRoom k = true → exec (.reserveErase c) s = .next (s.queueErase k)) ∧
      ((s.mapRuns = false ∨ s.map.present.contains c = false ∨ s.suspect c = true ∨ has = true ∨ (s.con.leaving && s.taintLeft) = true ∨
        s.reserveOf c = none ∨ (∃ k : Nat, s.reserveOf c = some k ∧ s.wptRoom k = false)) → exec (.reserveErase c) s = .next s)) ∧
    (∀ c : Fin 128, s.mapRuns = true → s.suspect c = true → s.map.present.contains c = true →
      (86400 ≤ Store.get (fun _ => 0) s.map.suspectSecs c.val → exec (.chamberRetire c) s = .next (s.retireChamber c (s.blocksOf c))) ∧
      (Store.get (fun _ => 0) s.map.suspectSecs c.val < 86400 → exec (.chamberRetire c) s = .next s)) ∧
    (∀ c : Fin 128, (s.mapRuns = false ∨ s.suspect c = false ∨ s.map.present.contains c = false) → exec (.chamberRetire c) s = .next s)

/-- Checkpoints and the shelf: a checkpoint that is wanted is written once its chambers and the governor's limit let its pages be programmed; three
failed root copies open a new shelf with trouble bit 24; the shelf changes over when it is due; all of it waits while a supply rail is below its
warning. A journal page: the records of the buffer that fit become
durable, commands waiting for them are tried; two failed copies open a new shelf. Mount and its steps: the first mount of a device with no bad-block
table, the walk of the block table, the phases of the full scan, and the reload of records after PS4 from both copies of every checkpoint page, which hands the patrol's queue over, or,
where a page reads in neither copy (a free value, log entry 4), leaves the map unmounted and begins the scan. The watchdogs: the Map engine's sets trouble
bit 29 and keeps an alarm log entry; a core's sets bit 53, stops Front's fetching and requests its reset. Replay of held commands after a level 2
reset: with the map mounted, or in recovery, Front takes them up again, and holds no more. A row that does not apply changes nothing (log entry 3). -/
def Obligations.RecoveryRows : Prop :=
  (∀ (s : State),
     (s.mapUp = true → s.map.changed = true → exec .checkpointTimer s = .next { s with map := { s.map with ckptWant := true } }) ∧
     ((s.mapUp = false ∨ s.map.changed = false) → exec .checkpointTimer s = .next s) ∧
     (s.mapLoaded = true → s.sys.ps.val ≤ 2 → (s.map.ckptWant = true ∨ s.eraseWaits = true) → s.map.shelf ≠ [] → let u : State := s.mendShelf
       (∀ n : Nat, u.ckptMay = true → n < 3 → s.map.mounted = true → exec (.checkpoint n) s = .next (u.advanceN n).checkpoint) ∧
       (∀ n : Nat, u.ckptMay = true → n < 3 → s.map.mounted = false → exec (.checkpoint n) s = .next (u.advanceN n).checkpoint.mountDone) ∧
       (∀ n : Nat, u.ckptMay = true → 3 ≤ n → exec (.checkpoint n) s = .next ((u.advanceN 3).raise 24).shelfOpen) ∧
       (∀ n : Nat, u.ckptMay = false → exec (.checkpoint n) s = .next u)) ∧
     (∀ n : Nat, (s.mapLoaded = false ∨ s.map.shelf = [] ∨ (s.map.ckptWant = false ∧ s.eraseWaits = false)) → exec (.checkpoint n) s = .next s) ∧
     (s.shelfMay = false → s.ckptMay = false) ∧
     (s.brownWarning = true → s.shelfMay = false) ∧ (2 < s.sys.ps.val → ∀ n : Nat, exec (.checkpoint n) s = .next s) ∧
     (s.mapRuns = true → s.shelfDue = true → s.ckptMay = true → exec .shelfChangeOver s = .next s.shelfOpen.checkpoint) ∧
     ((s.mapRuns = false ∨ s.shelfDue = false ∨ s.ckptMay = false) → exec .shelfChangeOver s = .next s)) ∧
  (∀ (s : State), let recs : List (Nat × JRec) := s.map.jBuf.take (pageTake (s.map.jBuf.map (·.2)) 0 0)
     let t : State := s.mendShelf
     let i : Nat := 2 * (t.map.pos % 8)
     (∀ a b : Bool, (s.mapLoaded = false ∨ 2 < s.sys.ps.val ∨ recs = [] ∨ s.map.shelf = [] ∨ s.freePositions = 0) →
       exec (.journalPageProgram a b) s = .next s) ∧
     (∀ a b : Bool, s.mapLoaded = true → s.sys.ps.val ≤ 2 → recs ≠ [] → s.map.shelf ≠ [] → 0 < s.freePositions → t.shelfMay = false →
       exec (.journalPageProgram a b) s = .next t) ∧
     (s.mapLoaded = true → s.sys.ps.val ≤ 2 → recs ≠ [] → s.map.shelf ≠ [] → 0 < s.freePositions → t.shelfMay = true →
     (∃ u : State, exec (.journalPageProgram false false) s = .next u.settle ∧
       (t.map.jWait = [] → u.map.jWait = [] ∧ (u.map.jBuf.all fun e => !(recs.map (·.1)).contains e.1) = true)) ∧
     exec (.journalPageProgram true true) s = .next t.advance.bothFail ∧
     exec (.journalPageProgram true false) s = .next ((t.advance.copyFail i).shelfSwap i) ∧
     exec (.journalPageProgram false true) s = .next ((t.advance.copyFail (i + 1)).shelfSwap (i + 1)))) ∧
  (∀ (s : State),
     (∀ (m : MountInput) (p : Profile), s.mountReady = true → s.refProf = some p → s.totalBlocks ≤ 524288 →
       let u : State := { s.formChain with bst := s.formChain.bst.ringMount.badMount }
       (u.bst.badTable = none → ∃ t : State, exec (.mount m) s = .next t ∧ t.rf .mapMount 0 2 = 1) ∧
       (u.bst.badTable ≠ none → (u.rootChoices.drop m.rootsBad).head? = none → exec (.mount m) s = .next u.beginScan) ∧
       (∀ r : Root, u.bst.badTable ≠ none → (u.rootChoices.drop m.rootsBad).head? = some r →
         ((m.journalGap = true ∨ u.bst.anchors = []) → exec (.mount m) s = .next u.beginScan) ∧
         (m.journalGap = false → u.bst.anchors ≠ [] →
           exec (.mount m) s = .next (u.mountFrom r m.rootsBad (m.unreadable.map Loc.key)).countUnsafe))) ∧
     (∀ u : State, u.beginScan.trb 25 = true ∧ u.beginScan.rf .mapScan 0 3 = 1 ∧ u.beginScan.rf .mapMount 0 2 = 3 ∧ u.beginScan.sys.st = .recovery) ∧
     (∀ (m : MountInput) (p : Profile), s.mountReady = true → s.refProf = some p → 524288 < s.totalBlocks → exec (.mount m) s = .next (s.enter .recovery)) ∧
     (∀ m : MountInput, (s.mountReady = false ∨ s.refProf = none) → exec (.mount m) s = .next s) ∧
     (s.inReset = false → s.map.walked = false → (s.map.mountPath = 1 ∨ s.map.mountPath = 2) →
       exec .blockTableWalk s = .next { s.refreshScan with map := { s.refreshScan.map with
         walked := true, sumpSize := s.refreshScan.sumpTarget, ckptWant := true } }) ∧
     ((s.inReset = true ∨ s.map.walked = true ∨ (s.map.mountPath ≠ 1 ∧ s.map.mountPath ≠ 2)) → exec .blockTableWalk s = .next s) ∧
     (s.inReset = false → s.rf .mapScan 0 3 ≠ 0 → s.rf .mapScan 0 3 < 5 →
       exec .fullScan s = .next (s.setRf .mapScan 0 3 (s.rf .mapScan 0 3 + 1))) ∧
     (s.inReset = false → 5 ≤ s.rf .mapScan 0 3 →
       let found : State := (s.scanBlocks s.scanBuilt).afterZeroize.countUnsafe
       let done : State := (State.mountDone (State.checkpoint (State.shelfOpen { found with map := { found.map with walked := true } }))).setReg .mapScan 0
       exec .fullScan s = .next (if done.gals.any (·.profile.isNone) then done else done.enter .service)) ∧
     ((s.inReset = true ∨ s.rf .mapScan 0 3 = 0) → exec .fullScan s = .next s) ∧
     (s.inReset = false → s.map.recordsLoaded = false → s.sys.ps.val < 3 →
       let loaded : State := State.reloadRecords { s with free := s.free + 1 }
       let read : State := match s.map.roots.getLast? with
         | some r => (List.range r.pages).foldl (fun (t : State) (i : Nat) =>
             (t.countRead (t.pairOf (r.first + i)).1 1).countRead (t.pairOf (r.first + i)).2 1) loaded
         | none => loaded
       let handed : State := (read.map.patrolQ.filterMap read.patrolLive).foldl (fun (t : State) (k : Nat) => t.refreshWant k 3 true) read
       exec .ps4RecordReload s = .next { handed with map := { handed.map with patrolQ := [] } } ∨
       exec .ps4RecordReload s = .next (State.beginScan { s with free := s.free + 1, map := { s.map with
         recordsLoaded := true, mounted := false, walked := false, ns := s.map.ns.map fun n => n.map fun r => { r with ready := false } } })) ∧
     ((s.inReset = true ∨ s.map.recordsLoaded = true ∨ 3 ≤ s.sys.ps.val) → exec .ps4RecordReload s = .next s)) ∧
  (∀ (s : State), s.inReset = false →
     (∃ t : State, exec .mapEngineWatchdog s = .next t ∧ t.trb 29 = true ∧ t.map = s.map ∧ t.regs = s.regs) ∧
     (s.sys.fw = true → exec .coreWatchdog s = .next (State.requestFused (State.raise { s with front := { s.front with stopped := true } } 53) 8)) ∧
     (s.sys.fw = false → exec .coreWatchdog s = .next s)) ∧
  (∀ (s : State), s.inReset = true → exec .mapEngineWatchdog s = .next s ∧ exec .coreWatchdog s = .next s) ∧
  (∀ (s : State), (s.front.held = false ∨ s.inReset = true ∨ (s.map.mounted = false ∧ s.isSt .recovery = false)) → exec .commandReplay s = .next s) ∧
  (∀ (s : State), s.front.held = true → s.inReset = false → (s.map.mounted = true ∨ s.isSt .recovery = true) →
     exec .commandReplay s = .next (let s1 : State := { s with front := { s.front with held := false, aborts := [] } }
       let s2 : State := s.front.aborts.foldl State.abortHeld s1
       (s2.front.ctxs.filterMap fun (c : Ctx) => c.cmd).foldl State.replay s2))

/-- Temperatures: a die sample is held and counted when it is at or above 125 °C, two of them in a row trip, and so do two of the always-on sensor in
PS4; a pad's sample is held while its gallery is powered; a chamber's list result is held, and its failures counted, three in a row being the last. A
rail sample is held with its power; ten samples give the averages of a millisecond, and the registers that show them follow. Time: the governor's
tick counts a millisecond, the lifetime second counts one second, and one of a full scan that runs, the hourly history keeps the hour's maximum first,
and is written but in PS4. What is counted at a tick is log entry 40; ISNS in PS3 and fields past their width are log entries 66 and 74. -/
def Obligations.GovernorRows : Prop :=
  (∀ (s : State),
     (∀ q : Int, s.sys.ps.val ≠ 4 → let hot : Nat := if 500 ≤ q then s.assay.hot + 1 else 0
       let u : State := State.tempReg { s with assay := { s.assay with dieQ := q, hot } }
       exec (.temperatureSample .die q) s = .next (if hot = 2 ∧ s.sys.tripHold = false then u.trip else u)) ∧
     (∀ q : Int, s.sys.ps.val = 4 → exec (.temperatureSample .die q) s = .next s) ∧
     (∀ q : Int, let c : Int := wholeC q
       let hot : Nat := if 125 ≤ c ∧ s.sys.ps.val = 4 then s.assay.aonHot + 1 else 0
       let u : State := { s with assay := { s.assay with aonC := c, aonHot := hot }, sys := { s.sys with tripHold := s.sys.tripHold && decide (110 ≤ c) } }
       exec (.temperatureSample .alwaysOn q) s = .next (if hot = 2 ∧ s.sys.tripHold = false then u.trip else u)) ∧
     (∀ (g : Fin 8) (q : Int), exec (.temperatureSample (.pad g) q) s = .next (if s.galPowered g = true then
       (State.tempReg { s with assay := { s.assay with padQ := setAt s.assay.padQ g q } }).driftCheck g else s)) ∧
     (∀ (c : Fin 128) (answer : Option (List Byte)) (o : Outc) (v : Int) (t : State), s.inReset = false → s.sys.ps.val ≤ 2 →
       s.populated.contains c = true → s.tempList c = true → (s.gals.get (galOf c)).hasRead = true → s.mayRun c = true →
       let n : Nat := Store.get (fun _ => 0) s.assay.listFails c.val
       (n < 3 → s.runTemp c answer = (.ok, v, t) → exec (.chamberTemperatureList c answer) s =
         .next ((State.tempReg { t with assay := { t.assay with chTemp := Store.ins c.val (v, false) t.assay.chTemp,
                                                                 listFails := Store.set (fun _ => 0) t.assay.listFails c.val 0 } }).driftCheck (galOf c))) ∧
       (n < 3 → s.runTemp c answer = (o, v, t) → (o = .timeout ∨ o = .fail) → exec (.chamberTemperatureList c answer) s =
         .next ((State.tempReg { t with assay := { t.assay with chTemp := Store.del c.val t.assay.chTemp,
                                                                 listFails := Store.set (fun _ => 0) t.assay.listFails c.val (n + 1) } }).driftCheck (galOf c))) ∧
       (n < 3 → s.runTemp c answer = (o, v, t) → o ∉ [.ok, .timeout, .fail] → exec (.chamberTemperatureList c answer) s =
         .next ((State.tempReg { t with assay := { t.assay with chTemp := Store.del c.val t.assay.chTemp } }).driftCheck (galOf c))) ∧
       (3 ≤ n → exec (.chamberTemperatureList c answer) s = .next s)) ∧
     (∀ (c : Fin 128) (answer : Option (List Byte)), (s.inReset = true ∨ 2 < s.sys.ps.val ∨ s.populated.contains c = false ∨ s.tempList c = false ∨
       (s.gals.get (galOf c)).hasRead = false ∨ s.mayRun c = false) → exec (.chamberTemperatureList c answer) s = .next s)) ∧
  (∀ (s : State) (mv ma : Vector Nat 5) (isns : Nat),
     ((s.sys.ps.val = 4 ∨ s.inReset = true) → exec (.railSample mv ma isns) s = .next { s with sys := { s.sys with railMv := mv } }) ∧
     (s.sys.ps.val ≠ 4 → s.inReset = false →
       let mw : Nat := sumNat ((List.range 5).map fun i => mv.toList.getD i 0 * ma.toList.getD i 0) / 1000
       let card : Nat := if s.settings.govIsnsGain = 0 then 0 else min 1200 isns * 1000 / s.settings.govIsnsGain
       let acc : List (Nat × Nat) := s.assay.powAcc ++ [(mw, card)]
       ∃ t : State, exec (.railSample mv ma isns) s = .next t ∧ t.sys.railMv = mv ∧ t.assay.railMa = ma ∧ t.assay.isnsMv = min 1200 isns ∧
         t.rf .assayRail 0 12 = mv.toList.getD 2 0 % 4096 ∧ t.rf .assayRail 16 12 = mv.toList.getD 0 0 % 4096 ∧
         (acc.length < 10 → t.assay.powAcc = acc ∧ t.assay.ctlMw = s.assay.ctlMw ∧ t.assay.isnsMa = s.assay.isnsMa ∧ t.reg .assayPwr = s.reg .assayPwr) ∧
         (10 ≤ acc.length → t.assay.powAcc = [] ∧ t.assay.ctlMw = sumNat (acc.map (·.1)) / 10 ∧ t.assay.isnsMa = sumNat (acc.map (·.2)) / 10 ∧
           t.rf .assayPwr 0 16 = t.assay.ctlMw % 65536 ∧ t.rf .assayPwr 16 16 = t.assay.isnsMa % 65536))) ∧
  (∀ (s : State),
     (s.inReset = false → s.sys.ps.val < 3 → exec .governorTick s = .next (s.countMs.thermalTick.powerTick.applyStep).govShown.secureNext) ∧
     ((s.inReset = true ∨ 3 ≤ s.sys.ps.val) → exec .governorTick s = .next s) ∧
     s.countMs.sys.lifeMs = min 999 (s.sys.lifeMs + 1) ∧
     (∃ t : State, exec .lifetimeSecond s = .next t ∧ t.sys.life = s.sys.life + 1 ∧ t.sys.lifeMs = 0 ∧
       (s.rf .mapScan 0 3 = 0 → t.regs = s.regs) ∧
       (s.rf .mapScan 0 3 ≠ 0 → t.rf .mapScan 16 16 = satAdd 16 (s.rf .mapScan 16 16) 1 ∧ ∀ r : Reg, r ≠ .mapScan → t.reg r = s.reg r)) ∧
     (∀ m : Int, s.sys.hist.hourMax = some m → s.sys.life % 3600 = 0 →
       let u : State := { s with sys := { s.sys with
         hist := { s.sys.hist with hourly := (m :: s.sys.hist.hourly).take 64, hourMax := none }, histDue := true } }
       exec .hourlyHistory s = .next (if s.sys.ps.val = 4 then u else u.saveHist)) ∧
     ((s.sys.life % 3600 ≠ 0 ∨ s.sys.hist.hourMax = none) → exec .hourlyHistory s = .next s))

/-- Valley searches, sweeps, patrols and refreshes: each runs when it is due, and changes nothing when it is not. A search of a suspect chamber is
abandoned, and counted. The sweep reads every closed block's sentinel and codeword 0 of every open block's last page. A patrol reads its blocks gallery
half by gallery half, and moves the patrol on. A refresh wake refreshes the blocks its budget covers, takes a checkpoint, and enters PS4 again. What
the dies answer is an operand of the row (log entry 6). -/
def Obligations.PatrolAndSearchRows : Prop :=
  ∀ (s : State),
    (∀ (c : Fin 128) (group : Nat) (trials : TrialRun) (refs : List RefRead),
      let next : Bool := (s.searchable (galOf c)).contains (c, group) &&
        (s.searchable (galOf c)).all fun x => decide ((s.ofs c group).rank ≤ (s.ofs x.1 x.2).rank)
      (s.mapUp = true → s.hook26 c = true → s.settings.assaySearch = true → s.sys.ps.val ≤ 2 → s.isSt .service = true → s.hostIdle = true →
        s.mayRun c = true → next = true → exec (.valleySearch c group trials refs) s = .next (s.search c group trials refs).2) ∧
      ((s.mapUp = false ∨ s.hook26 c = false ∨ s.settings.assaySearch = false ∨ 2 < s.sys.ps.val ∨ s.isSt .service = false ∨ s.hostIdle = false ∨
        s.mayRun c = false ∨ next = false) → exec (.valleySearch c group trials refs) s = .next s) ∧
      (∀ (p : Profile) (k : Nat), s.prof c = some p → s.sampleBlock c group = some k → s.suspect c = true →
        s.search c group trials refs = (false, (s.refReads k p refs (p.ppw - 1)).bump .assaySearch 16 8 1))) ∧
    (∀ r : SweepRun,
      let may : Bool := ((r.raws.map (·.1)) ++ (r.opens.map (·.1))).all fun k => s.mayRun (chOfBlk k)
      let u : State := s.map.blks.foldl (fun (t : State) (e : Nat × Blk) =>
        if e.2.st = .closed ∧ e.2.sealed = false ∧ e.2.use ≠ .journal then t.sweepClosed e.1 ((resultOf r.raws e.1).getD (some []))
        else if e.2.st = .opened ∧ 0 < e.2.next ∧ e.2.use ≠ .journal then
          t.sweepOpen e.1 ((resultOf r.opens e.1).getD { raw := 0, converged := true, crcOk := true, nameOk := true })
        else t) s
      (s.mapUp = true → s.map.sweepDue = true → s.isSt .service = true → s.sys.ps.val ≤ 2 → may = true →
        exec (.retentionSweep r) s = .next { u with map := { u.map with sweepDue := false } }) ∧
      ((s.mapUp = false ∨ s.map.sweepDue = false ∨ s.isSt .service = false ∨ 2 < s.sys.ps.val ∨ may = false) →
        exec (.retentionSweep r) s = .next s)) ∧
    (∀ raws : List (Option (List Nat)),
      (s.patrolDue = true →
        let n : Nat := ceilDiv s.map.patrolTable.length 32
        let ks : List Nat := patrolled s.map.patrolTable s.map.patrolPos n
        let got : List (Nat × Option (List Nat)) := ks.zipIdx.map fun x => (x.1, raws.getD x.2 (some []))
        let u : State := (((s.stat "patrol_wakes").patrolHalf 0 got).patrolHalf 1 got).patrolMove ks
        exec (.patrolWake raws) s = .next { u with
          map := { u.map with patrolReads := u.map.patrolReads + n }
          sys := { u.sys with lastPatrol := s.sys.life } }) ∧
      (s.patrolDue = false → exec (.patrolWake raws) s = .next s)) ∧
    (∀ r : RefreshRun, let ks : List Nat := s.budgeted ((s.map.patrolQ.filterMap fun q => s.ofDevBlock q.1)) (s.chargedMj + 50)
      (s.sys.ps.val = 4 → s.isSt .test = false → s.settings.patrolWakeRefresh = true → s.brownWarning = false → ks ≠ [] →
        exec (.refreshWake r) s = .next ((s.wakeOn.reloadRecords.wakeRefresh ks r).checkpoint.saveHist.wakeOff (s.reg .sysClk))) ∧
      ((s.sys.ps.val ≠ 4 ∨ s.isSt .test = true ∨ s.settings.patrolWakeRefresh = false ∨ s.brownWarning = true ∨ ks = []) →
        exec (.refreshWake r) s = .next s)) ∧
    (∀ w : Word, (s.wakeOff w).map.recordsLoaded = false ∧ (s.wakeOff w).map.patrolReads = 0 ∧ (s.wakeOff w).sys.doms = 0x03)

/-- Entering and leaving the power states: PS3 and PS4 are entered once the device and its chain are quiet; the host's CLKREQ wakes a PS4; the exit
returns to the last operational state. The idle timeout of the autonomous transitions, and the timeout of a `sleep` that could not be carried out.
Front's timers: coalescing, the command timer, the time-limited error recovery, and the drain of staging. An interrupt goes out as its MSI-X
message, or is pending while it is masked; before MSI-X is enabled the admin queue alone interrupts. What the entry rows stand for is log entry 24. -/
def Obligations.PowerStateRows : Prop :=
  (∀ (s : State),
     (s.inReset = false → s.sys.psWant = some 3 → s.sys.ps.val ≤ 2 → s.quiet = true →
       (((s.standby 3).isMaster = false ∨ (s.standby 3).standbyAll = true) →
         exec .ps3Entry s = .next ((s.standby 3).finishJob (fun j => j == .sleep) fun _ => ([], ok [])).enterPs3) ∧
       ((s.standby 3).isMaster = true → (s.standby 3).standbyAll = false → exec .ps3Entry s = .next (s.standby 3))) ∧
     ((s.inReset = true ∨ s.sys.psWant ≠ some 3 ∨ 2 < s.sys.ps.val ∨ s.quiet = false) → exec .ps3Entry s = .next s) ∧
     (s.inReset = false → s.sys.psWant = some 4 → s.sys.ps.val ≤ 3 → s.quiet = true → s.bst.busy = false →
       (((s.standby 4).isMaster = false ∨ (s.standby 4).standbyAll = true) →
         exec .ps4Entry s = .next ((s.standby 4).finishJob (fun j => j == .sleep) fun _ => ([], ok [])).enterPs4) ∧
       ((s.standby 4).isMaster = true → (s.standby 4).standbyAll = false → exec .ps4Entry s = .next (s.standby 4))) ∧
     ((s.inReset = true ∨ s.sys.psWant ≠ some 4 ∨ 3 < s.sys.ps.val ∨ s.quiet = false ∨ s.bst.busy = true) → exec .ps4Entry s = .next s) ∧
     (s.isMaster = true → s.inReset = false → s.sys.ps = 4 → exec .clkreqAsserted s =
       .next (State.beginWake { s with sys := { s.sys with clkreqHost := true } })) ∧
     (s.isMaster = true → s.inReset = false → s.sys.ps ≠ 4 → s.sys.lanes = .l12 → exec .clkreqAsserted s =
       .next { s with sys := { s.sys with clkreqHost := true, lanes := .up, clkreqOut := true } }) ∧
     (s.isMaster = true → (s.inReset = true ∨ (s.sys.ps ≠ 4 ∧ s.sys.lanes ≠ .l12)) → exec .clkreqAsserted s =
       .next { s with sys := { s.sys with clkreqHost := true } }) ∧
     (s.isMaster = false → exec .clkreqAsserted s = .next s) ∧
     (s.sys.ps = 4 → s.sys.waking = true → s.inReset = false → ∃ t : State, exec .ps4Exit s = .next t ∧ t.sys.ps = s.sys.lastOp ∧
       t.sys.waking = false ∧ t.sys.psWant = none) ∧
     ((s.sys.ps ≠ 4 ∨ s.sys.waking = false ∨ s.inReset = true) → exec .ps4Exit s = .next s) ∧
     (s.isMaster = true → s.sys.ps = 3 → s.sys.lanes = .up → exec .l12Entry s =
       .next (State.rootFallback { s with sys := { s.sys with lanes := .l12, clkreqOut := false, clkreqHost := false } })) ∧
     ((s.isMaster = false ∨ s.sys.ps ≠ 3 ∨ s.sys.lanes ≠ .up) → exec .l12Entry s = .next s)) ∧
  (∀ (s : State),
     (s.isMaster = true → s.inReset = false → s.settings.hostApst = true → s.front.busy = false → s.sys.ps.val < 3 →
       exec (.apstIdleTimeout false) s = .next (s.wantPs 3)) ∧
     (s.isMaster = true → s.inReset = false → s.settings.hostApst = true → s.front.busy = false → s.sys.ps.val < 4 →
       exec (.apstIdleTimeout true) s = .next (s.wantPs 4)) ∧
     (∀ b : Bool, (s.isMaster = false ∨ s.inReset = true ∨ s.settings.hostApst = false ∨ s.front.busy = true ∨ (if b then 4 else 3) ≤ s.sys.ps.val) →
       exec (.apstIdleTimeout b) s = .next s) ∧
     ((∀ x : Running, s.con.running = some x → x.job ≠ .sleep) → exec .sleepTimeout s = .next s) ∧
     (∀ x : Running, s.con.running = some x → x.job = .sleep → exec .sleepTimeout s =
       .next ((State.cancelStandby { s with sys := { s.sys with psWant := none } }).finishJob (fun j => j == .sleep) fun _ => ([], err .busy [])))) ∧
  (∀ (s : State),
     (∀ iv : Fin 129, (s.front.coal.any fun p => p.1 == iv.val) = true →
       exec (.interruptCoalescingTimeout iv) s =
         .next { s with front := Front.fire { s.front with coal := s.front.coal.filter fun p => p.1 != iv.val } 1 iv.val }) ∧
     (∀ iv : Fin 129, (s.front.coal.any fun p => p.1 == iv.val) = false → exec (.interruptCoalescingTimeout iv) s = .next s) ∧
     (∀ (f : Front) (cq iv : Nat),
       (f.pcie.msixOn = true → f.pcie.msixMask = false → ((Store.find f.pcie.msix iv).getD {}).mask = false →
         f.fire cq iv = { f with signalled := f.signalled ++ [iv] }) ∧
       (f.pcie.msixOn = true → (f.pcie.msixMask = true ∨ ((Store.find f.pcie.msix iv).getD {}).mask = true) →
         (f.fire cq iv).signalled = f.signalled ∧ (f.fire cq iv).pcie.pba.contains iv = true) ∧
       (f.pcie.msixOn = false → (f.fire cq iv).signalled = f.signalled ∧ (cq ≠ 0 → f.fire cq iv = f) ∧
         (∀ q : ComQueue, cq = 0 → Store.find f.cqs 0 = some q →
           (f.fire cq iv).pcie.intx = (decide (q.tail ≠ q.head) && !f.pcie.intxOff && !f.intMask.getLsbD 0)))) ∧
     (∀ (h : Hdr) (c : Ctx), s.front.ctx? h = some c → s.isMaster = true → s.timed c = true →
       exec (.commandTimerExpiry h) s = .next (((s.cutOff h).done h .interrupted).raise 41)) ∧
     (∀ (h : Hdr) (c : Ctx), s.front.ctx? h = some c → s.isMaster = true → c.started = true → 0 < s.front.feats.tler → c.smartKind = 1 →
       exec (.tlerExpiry h) s = .next (((s.cutOff h).abandon fun r => match r.need with | .host x _ _ _ => x == h | _ => false).ioEnd h .unrecovered)) ∧
     (∀ h : Hdr, (s.front.ctx? h = none ∨ s.isMaster = false) → exec (.commandTimerExpiry h) s = .next s ∧ exec (.tlerExpiry h) s = .next s) ∧
     (∀ (h : Hdr) (c : Ctx), s.front.ctx? h = some c → s.timed c = false → exec (.commandTimerExpiry h) s = .next s) ∧
     (∀ (h : Hdr) (c : Ctx), s.front.ctx? h = some c → (c.started = false ∨ s.front.feats.tler = 0 ∨ c.smartKind ≠ 1) →
       exec (.tlerExpiry h) s = .next s) ∧
     ((s.front.staging.any fun x => x.cached) = false → exec .stagingDrain s = .next s) ∧
     ((s.front.staging.any fun x => x.cached) = true → exec .stagingDrain s = .next { s with front := { s.front with draining := true } }))

/-- Training, HELLO and its timer: a port with a partner takes the lanes and the rate and sends HELLO, one without is down; a HELLO that fails a check
(a master's TU; on TD a wrong position, another chain's identifier, or a blank partner while namespaces exist) puts the port in mismatch, one that
passes brings the link up. The link frames and timers of a live port. A row that does not apply changes nothing (log entry 3). -/
def Obligations.TetherLinkRows : Prop :=
  (∀ (s : State) (p : Port),
     (∀ r : TethTrain, s.portOn p = true → (s.teth.get p).st ∈ [.training, .down, .absent, .hold] → let w : Nat := min r.lanes.val (s.portLanes)
       (r.partner = true → w ∈ [1, 2, 4] → r.rate.val ≠ 0 → ∃ t : State, exec (.tetherTraining p r) s = .next t ∧ t.rf (statReg p) 4 3 = w ∧
         t.rf (statReg p) 8 3 = r.rate.val ∧ (t.teth.get p).st = .training ∧ (t.teth.get p).sent.length = (s.teth.get p).sent.length + 1) ∧
       ((r.partner = false ∨ w ∉ [1, 2, 4] ∨ r.rate.val = 0) →
         let s1 : State := (s.setRf (statReg p) 4 3 0).setRf (statReg p) 8 3 0
         exec (.tetherTraining p r) s = .next
           (State.portTrained { s1 with teth := s1.teth.port p fun x => { x with st := if x.st = .absent then .absent else .down } } p false))) ∧
     (∀ r : TethTrain, (s.portOn p = false ∨ (s.teth.get p).st ∉ [.training, .down, .absent, .hold]) → exec (.tetherTraining p r) s = .next s) ∧
     (∀ (f : FrameHdr) (b : HelloBody), (s.teth.get p).st ≠ .off → s.rf (statReg p) 8 3 ≠ 0 → f.good = true →
       let s1 : State := s.setRf (statReg p) 12 4 b.strap.val
       (s1.helloOk p b = false → exec (.hello p f b) s = .next
         (State.portTrained { s1 with teth := s1.teth.port p fun x => { x with st := .mismatch, partner := some b } } p false)) ∧
       (s1.helloOk p b = true → (b.fresh = true ∨ (s.teth.get p).st ≠ .up) →
         exec (.hello p f b) s = .next (((s1.takeChain p b).linkUp p b).portTrained p true)) ∧
       (s1.helloOk p b = true → b.fresh = false → (s.teth.get p).st = .up → exec (.hello p f b) s =
         .next { s1.takeChain p b with teth := (s1.takeChain p b).teth.port p fun x => { x with partner := some b } })) ∧
     (∀ (f : FrameHdr) (b : HelloBody), ((s.teth.get p).st = .off ∨ s.rf (statReg p) 8 3 = 0) → exec (.hello p f b) s = .next s) ∧
     (∀ (f : FrameHdr) (b : HelloBody), (s.teth.get p).st ≠ .off → s.rf (statReg p) 8 3 ≠ 0 → f.good = false → exec (.hello p f b) s = .next (s.rxBad p)) ∧
     (∀ b : HelloBody, s.isMaster = true → s.helloOk .tu b = false) ∧
     (∀ b : HelloBody, b.strap.val / 4 ≠ s.index + 1 → s.helloOk .td b = false) ∧
     (∀ b : HelloBody, b.chainId = 0 → s.noNs = false → s.helloOk .td b = false) ∧
     (∀ b : HelloBody, b.chainId ≠ 0 → s.chainId ≠ b.chainId → s.helloOk .td b = false) ∧
     ((s.teth.get p).st = .mismatch → exec (.mismatchHelloTimer p) s = .next (s.sendHello p)) ∧
     ((s.teth.get p).st ≠ .mismatch → exec (.mismatchHelloTimer p) s = .next s)) ∧
  (∀ (s : State) (p : Port), (s.teth.get p).live = true →
     (∀ f : FrameHdr, f.good = true →
       exec (.ack p f) s = .next { s with teth := s.teth.port p fun q => q.acked f.seq.val } ∧
       exec (.nak p f) s = .next (s.replayFrom p f.seq.val) ∧
       exec (.credit p f) s = .next { s with teth := s.teth.port p fun q => q.credited (f.index.getLsbD 0) f.len }) ∧
     (∀ f : FrameHdr, f.good = false → exec (.ack p f) s = .next (s.rxBad p) ∧ exec (.nak p f) s = .next (s.rxBad p) ∧
       exec (.credit p f) s = .next (s.rxBad p)) ∧
     (∀ (f : Frame) (l : List Frame), (s.teth.get p).replay = f :: l → (s.teth.get p).st = .up →
       exec (.replayTimeout p) s = .next (s.replayFrom p f.seq)) ∧
     (((s.teth.get p).replay = [] ∨ (s.teth.get p).st ≠ .up) → exec (.replayTimeout p) s = .next s) ∧
     exec (.idleAckTimer p) s = .next (s.sendAck p)) ∧
  (∀ (s : State) (p : Port) (f : FrameHdr), (s.teth.get p).live = false → exec (.ack p f) s = .next s ∧ exec (.nak p f) s = .next s ∧
     exec (.credit p f) s = .next s ∧ exec (.replayTimeout p) s = .next s ∧ exec (.idleAckTimer p) s = .next s)

/-- Sequence numbers: a frame received before is dropped; one beyond the next in order is answered with a NAK and has no effect; one that fails its CRC
is discarded, counted and answered with a NAK. The sequenced frames that carry work, at the device they name: a part is taken and runs on a
subordinate, in place of one of its tag; data and the end of a part reach the master's command, data of a part or of a firmware piece its subordinate.
A frame for another device is sent on through the other port with its tag, source and index as they were. -/
def Obligations.TetherFrames : Prop :=
  (∀ (s : State) (p : Port) (f : FrameHdr) (arg : Byte), (s.teth.get p).live = true → f.good = true → f.seq.val ≠ (s.teth.get p).rxSeq →
     (((s.teth.get p).rxSeq + 4096 - f.seq.val) % 4096 ≤ 2048 → exec (.orderReset p f arg) s = .next s ∧ exec (.orderReady p f) s = .next s) ∧
     (2048 < ((s.teth.get p).rxSeq + 4096 - f.seq.val) % 4096 →
       exec (.orderReset p f arg) s = .next (s.sendNak p) ∧ exec (.orderReady p f) s = .next (s.sendNak p))) ∧
  (∀ (s : State) (p : Port) (f : FrameHdr) (b : PartBody) (d : Sector), (s.teth.get p).live = true → f.good = false →
     exec (.part p f b) s = .next (s.rxBad p) ∧ exec (.data p f d) s = .next (s.rxBad p) ∧ exec (.orderReady p f) s = .next (s.rxBad p)) ∧
  (∀ (s : State) (p : Port) (f : FrameHdr), s.receives p f = true →
     (∀ b : PartBody, let t : State := s.received p f 1
       f.dst.val = t.index → (t.isMaster = true → exec (.part p f b) s = .next t) ∧
         (t.isMaster = false → let u : State := if t.teth.owned.any fun o => o.tag == f.tag then t.dropPart f.tag else t
           exec (.part p f b) s = .next (State.runPart { u with teth := { u.teth with owned := u.teth.owned ++ [{ tag := f.tag, body := b, got := [] }] } } f.tag))) ∧
     (∀ d : Sector, let t : State := s.received p f 2
       f.dst.val = t.index →
         (∀ q : MPart, t.isMaster = true → (t.teth.parts.find? fun q => q.tag == f.tag) = some q →
           exec (.data p f d) s = .next (t.partData q f.index.toNat d)) ∧
         (t.isMaster = true → (t.teth.parts.find? fun q => q.tag == f.tag) = none → exec (.data p f d) s = .next t) ∧
         (t.isMaster = false → (t.teth.owned.any fun o => o.tag == f.tag) = true → exec (.data p f d) s =
           .next (State.runPart { t with teth := { t.teth with owned := t.teth.owned.map fun o =>
             if o.tag = f.tag then { o with got := putFrame o.got f.index.toNat d } else o } } f.tag)) ∧
         (∀ x : Piece, t.isMaster = false → (t.teth.owned.any fun o => o.tag == f.tag) = false → t.teth.piece = some x → x.tag = f.tag →
           exec (.data p f d) s = .next (t.pieceData x f.index.toNat d))) ∧
     (∀ (b : DoneBody) (q : MPart), let t : State := s.received p f 3
       f.dst.val = t.index → (t.teth.parts.find? fun q => q.tag == f.tag) = some q →
       let u : State := if b.sct = 0 ∧ b.sc = 0 ∧ q.opcode = 0x0C then t.partVerified q else t
       exec (.done p f b) s = .next (u.endPart f.tag ⟨b.sct.toNat, b.sc.toNat, false⟩ b.firstFail)) ∧
     (∀ b : DoneBody, let t : State := s.received p f 3
       f.dst.val = t.index → (t.teth.parts.find? fun q => q.tag == f.tag) = none →
       exec (.done p f b) s = .next (t.adminAnswer f.tag b.sct.toNat b.sc.toNat)) ∧
     (∀ b : AdminBody, let t : State := s.received p f 7
       f.dst.val = t.index → exec (.admin p f b) s = .next (if t.isMaster then t else t.adminFrame f.tag b)) ∧
     (∀ (origin : Fin 4) (bit : Fin 64) (secs : Word),
       (56 ≤ bit.val → bit.val ≤ 62 → exec (.alarm p f origin bit secs) s = .next ((s.received p f 6).alarmIn p origin bit.val secs)) ∧
       ((bit.val < 56 ∨ bit.val = 63) → exec (.alarm p f origin bit secs) s = .next (s.received p f 6)))) ∧
  (∀ (s : State) (p : Port) (f : FrameHdr), s.receives p f = true →
     let on (type arg : Nat) (body : FBody) : State :=
       let t : State := s.received p f type
       let x : Frame := { type, dst := f.dst, src := f.src, seq := 0, tag := f.tag, index := f.index.toNat, arg, body }
       { t with teth := t.teth.port (portToward t.index f.dst.val) fun q => q.send x }
     (∀ type : Nat, (s.received p f type).index = s.index) ∧
     (f.dst.val ≠ s.index → portToward s.index f.dst.val ≠ p →
       (∀ b : PartBody, exec (.part p f b) s = .next (on 1 0 (.part b))) ∧
       (∀ d : Sector, exec (.data p f d) s = .next (on 2 (8 * f.len) (.data d))) ∧
       (∀ b : DoneBody, exec (.done p f b) s = .next (on 3 0 (.done b))) ∧
       (∀ b : AdminBody, exec (.admin p f b) s = .next (on 7 0 (.admin b))) ∧
       (∀ arg : Byte, exec (.orderReset p f arg) s = .next (on 5 (1 + 256 * arg.toNat) .none) ∧
         exec (.orderStandby p f arg) s = .next (on 5 (2 + 256 * arg.toNat) .none) ∧
         exec (.orderStandbyReady p f arg) s = .next (on 5 (3 + 256 * arg.toNat) .none) ∧
         exec (.orderState p f arg) s = .next (on 5 (4 + 256 * arg.toNat) .none) ∧
         exec (.orderHold p f arg) s = .next (on 5 (5 + 256 * arg.toNat) .none)) ∧
       exec (.orderReady p f) s = .next (on 5 6 .none) ∧ exec (.orderAbort p f) s = .next (on 5 7 .none) ∧
       exec (.orderActivate p f) s = .next (on 5 8 .none)) ∧
     (f.dst.val ≠ s.index → portToward s.index f.dst.val = p →
       (∀ b : PartBody, exec (.part p f b) s = .next (s.received p f 1)) ∧ (∀ d : Sector, exec (.data p f d) s = .next (s.received p f 2)) ∧
       (∀ b : DoneBody, exec (.done p f b) s = .next (s.received p f 3)) ∧ (∀ b : AdminBody, exec (.admin p f b) s = .next (s.received p f 7))))

/-- The orders of the master to a subordinate. The orders a subordinate sends its master, and the master's declaration of a device it lost. An order
that is not meant for the device's role is taken with no further effect; a timer that does not apply changes nothing (log entry 3). -/
def Obligations.TetherOrders : Prop :=
  (∀ (s : State) (p : Port) (f : FrameHdr) (arg : Byte), s.receives p f = true → f.dst.val = (s.received p f 5).index →
     (s.received p f 5).isMaster = false →
     exec (.orderReset p f arg) s = .next ((s.ordered p f arg).requestFused 9) ∧
     ((arg = 3 ∨ arg = 4) → exec (.orderStandby p f arg) s = .next (State.wantPs
       { s.ordered p f arg with teth := { (s.ordered p f arg).teth with standbyAsked := some arg.toNat } } (Fin.ofNat 5 arg.toNat))) ∧
     (arg ≠ 3 → arg ≠ 4 → exec (.orderStandby p f arg) s = .next (s.ordered p f arg)) ∧
     (∀ o : OPart, ((s.ordered p f 0).teth.owned.find? fun o => o.tag == f.tag) = some o → exec (.orderAbort p f) s =
       .next (((s.ordered p f 0).dropPart f.tag).tethSend 3 0 f.tag 0 0 (.done { sc := 0x07, sct := 0, lbas := 0, firstFail := o.body.first }))) ∧
     (((s.ordered p f 0).teth.owned.find? fun o => o.tag == f.tag) = none → exec (.orderAbort p f) s = .next (s.ordered p f 0)) ∧
     ((s.ordered p f 0).bst.pendingSwap.isSome = true → exec (.orderActivate p f) s = .next ((s.ordered p f 0).requestReset 9 2)) ∧
     ((s.ordered p f 0).bst.pendingSwap = none → exec (.orderActivate p f) s = .next (s.ordered p f 0)) ∧
     (let u : State := State.standbyEnds { s.ordered p f arg with teth := { (s.ordered p f arg).teth with masterState := arg.toNat } }
      exec (.orderState p f arg) s = .next (if arg = 1 ∧ u.isSt .test = true ∧ u.con.leaving = false then u.leaveTest else u))) ∧
  (∀ (s : State) (p : Port) (f : FrameHdr) (arg : Byte), s.receives p f = true → f.dst.val = (s.received p f 5).index →
     (s.received p f 5).isMaster = true →
     exec (.orderReset p f arg) s = .next (s.ordered p f arg) ∧ exec (.orderStandby p f arg) s = .next (s.ordered p f arg) ∧
     exec (.orderState p f arg) s = .next (s.ordered p f arg) ∧ exec (.orderActivate p f) s = .next (s.ordered p f 0)) ∧
  (∀ (s : State),
     (∀ (p : Port) (f : FrameHdr) (arg : Byte), s.receives p f = true → f.dst.val = (s.received p f 5).index → (s.received p f 5).isMaster = true →
       (∀ t : State, t = s.ordered p f arg → t.teth.standbyAsked = some arg.toNat → t.teth.readyStandby.contains f.src = false →
         exec (.orderStandbyReady p f arg) s = .next { t with teth := { t.teth with readyStandby := t.teth.readyStandby ++ [f.src] } }) ∧
       (∀ t : State, t = s.ordered p f arg → (t.teth.standbyAsked ≠ some arg.toNat ∨ t.teth.readyStandby.contains f.src = true) →
         exec (.orderStandbyReady p f arg) s = .next t) ∧
       (∀ t : State, t = s.ordered p f arg → f.src.val ≠ 0 →
         let u : State := { t with teth := { t.teth with
           holding := (t.teth.holding.filter fun x => !(t.beyond f.src.val).contains x.1) ++ (t.beyond f.src.val).map fun j => (j, arg.toNat) } }
         exec (.orderHold p f arg) s = .next (if f.src = 1 then { u with teth := u.teth.port .td fun q => { q with st := .hold } } else u)) ∧
       (f.src.val = 0 → exec (.orderHold p f arg) s = .next (s.ordered p f arg)) ∧
       (∀ t : State, t = s.ordered p f 0 →
         let u : State := { t with teth := { t.teth with
           holding := t.teth.holding.filter fun x => x.1 != f.src
           parts := t.teth.parts.filter fun q => q.owner != f.src || (t.front.ctx? q.hdr).isSome } }
         exec (.orderReady p f) s = .next ((u.teth.parts.filter fun q => q.owner == f.src).foldl (fun (v : State) (q : MPart) => v.sendPart q) u))) ∧
     (∀ (p : Port) (f : FrameHdr) (arg : Byte), s.receives p f = true → f.dst.val = (s.received p f 5).index → (s.received p f 5).isMaster = false →
       exec (.orderStandbyReady p f arg) s = .next (s.ordered p f arg) ∧ exec (.orderHold p f arg) s = .next (s.ordered p f arg) ∧
       exec (.orderReady p f) s = .next (s.ordered p f 0)) ∧
     (∀ k : Fin 4, s.isMaster = true → k.val ≠ 0 → s.teth.present.getLsbD k.val = true → (∀ x ∈ s.teth.holding, k.val < x.1.val) →
       exec (.subordinateSilent k) s = .next (s.declare (s.beyond k.val))) ∧
     (∀ k : Fin 4, (s.isMaster = false ∨ k.val = 0 ∨ s.teth.present.getLsbD k.val = false ∨ ∃ x ∈ s.teth.holding, x.1.val ≤ k.val) →
       exec (.subordinateSilent k) s = .next s) ∧
     (∀ k : Fin 4, (s.isMaster = false ∨ (s.teth.holding.any fun x => x.1 == k) = false) → exec (.holdWindowExpiry k) s = .next s) ∧
     ((s.isMaster = false ∨ s.map.mounted = true) → exec .chainJoinTimeout s = .next s) ∧
     ((s.isMaster = true ∨ s.sys.ps ≠ 4 ∨ s.inReset = true) → exec .wakeBeacon s = .next s) ∧
     (∀ k : Fin 4, s.isMaster = true → (s.teth.holding.any fun x => x.1 == k) = true →
       exec (.holdWindowExpiry k) s = .next (s.declare (s.beyond k.val))) ∧
     (s.isMaster = true → s.map.mounted = false → exec .chainJoinTimeout s =
       .next (s.declare (([1, 2, 3] : List (Fin 4)).filter fun k => decide (k.val < (s.bst.chain.map (·.n)).getD 1) && !s.teth.present.getLsbD k.val &&
         !s.teth.absent.getLsbD k.val))) ∧
     (s.isMaster = false → s.sys.ps = 4 → s.inReset = false → exec .wakeBeacon s = .next s.beginWake))

/-- A device that is declared lost is absent, no longer present, and trouble bit 43 is set. -/
def Obligations.LostDevices : Prop :=
  ∀ (s : State) (k : Fin 4), s.teth.parts = [] → s.teth.admin = [] → s.vault.fan = none →
    (s.declare [k]).trb 43 = true ∧ (s.declare [k]).teth.absent.getLsbD k.val = true ∧ (s.declare [k]).teth.present.getLsbD k.val = false

/-- The sensors: a reading outside its limits sets the sensor's condition and, while it is armed, raises its alarm; one inside clears the condition.
An alarm sets its trouble bit 56 to 60; its log entry is programmed once the boot store can take it, and kept latched where that fails. A row that
does not apply changes nothing (log entry 3). -/
def Obligations.SensorRows : Prop :=
  (∀ (s : State),
     (∀ mv : Nat, (mv < 650 ∨ 850 < mv) →
       (s.glitchArmed = true → exec (.supplyAlarm mv) s = .next ((s.sense 0 true).alarm 0 mv)) ∧
       (s.glitchArmed = false → exec (.supplyAlarm mv) s = .next (s.sense 0 true))) ∧
     (∀ mv : Nat, 650 ≤ mv → mv ≤ 850 → exec (.supplyAlarm mv) s = .next (s.sense 0 false)) ∧
     (∀ mhz : Nat, (mhz < 600 ∨ 1000 < mhz) →
       (s.glitchArmed = true → exec (.clockAlarm mhz) s = .next ((s.sense 1 true).alarm 1 mhz)) ∧
       (s.glitchArmed = false → exec (.clockAlarm mhz) s = .next (s.sense 1 true))) ∧
     (∀ mhz : Nat, 600 ≤ mhz → mhz ≤ 1000 → exec (.clockAlarm mhz) s = .next (s.sense 1 false)) ∧
     (∀ c : Int, (c < -40 ∨ 130 < c) → 1 ≤ s.assay.odd → exec (.temperatureAlarm c) s =
       .next (State.alarm { s.sense 2 true with assay := { s.assay with odd := s.assay.odd + 1 } } 2 (tempDetail c))) ∧
     (∀ c : Int, (c < -40 ∨ 130 < c) → s.assay.odd = 0 → exec (.temperatureAlarm c) s =
       .next { s.sense 2 true with assay := { s.assay with odd := 1 } }) ∧
     (∀ c : Int, -40 ≤ c → c ≤ 130 → exec (.temperatureAlarm c) s = .next { s.sense 2 false with assay := { s.assay with odd := 0 } }) ∧
     (s.glitchArmed = true → exec .glitchAlarm s = .next (s.alarm 3 0)) ∧ (s.glitchArmed = false → exec .glitchAlarm s = .next s) ∧
     (10 ≤ s.vault.fails → exec .unlockFailureAlarm s = .next (State.alarm { s with vault := { s.vault with fails := 0 } } 4 0)) ∧
     (s.vault.fails < 10 → exec .unlockFailureAlarm s = .next s)) ∧
  (∀ (s : State),
     (∀ (k : Nat) (d : Nat), k ≤ 4 → s.sys.fuses.action k = 0 → (s.alarm k d).trb (56 + k) = true) ∧
     (∀ (k : Nat) (b : Bool), k ≤ 4 → (s.sense k b).vault.now.getLsbD k = b ∧
       ∀ m : Nat, m ≠ k → (s.sense k b).vault.now.getLsbD m = s.vault.now.getLsbD m) ∧
     (∀ (r : AlarmRec) (l : List AlarmRec), s.vault.latched = r :: l → s.inReset = false → s.sys.ps.val ≠ 4 →
       exec (.alarmLogProgram true) s = .next { s with bst := s.bst.alarmAdd r, vault := { s.vault with latched := l } } ∧
       exec (.alarmLogProgram false) s = .next (s.bump .bstErrCnt 0 16 1)) ∧
     ((s.vault.latched = [] ∨ s.inReset = true ∨ s.sys.ps.val = 4) → ∀ b : Bool, exec (.alarmLogProgram b) s = .next s))

/-- The security commands of the host. A header of a form the rules do not give is an invalid field. A new password while locked is denied; with no
password set and none offered there is nothing to do; else the set, and an unlock, go to every present subordinate first (R530) and are checked here
last. A lock of an unlocked device waits for its turn, and is an error of sequence with no password set. The status page tells the lock, the failures
and the zeroizations. A password check that ends: the right password unlocks or sets, the wrong one counts a failure and is denied, and so is an unlock
that was cut off. A password is kept as its bytes and keys as numbers (log entry 8). -/
def Obligations.SecurityCommands : Prop :=
  (∀ (s : State) (h : Hdr),
     (s.takes h (.securityReceiveProtocols h) = true → exec (.securityReceiveProtocols h) s =
       .next ((s.taken h (.securityReceiveProtocols h)).done h .success 0 (.bytes [0, 0, 0, 0, 0, 0, 0, 2, 0x00, 0xF0]))) ∧
     (∀ (version tl k n : Nat) (old new : List Byte), s.takes h (.securitySet h version tl k n old new) = true →
       let t : State := s.taken h (.securitySet h version tl k n old new)
       let i : Instr := .securitySet h version tl k n old new
       let pw : Option (List Byte) := if n = 0 then none else some (new.take n)
       let was : List Byte := if t.vault.lock = .isOpen then [] else old.take k
       ((version ≠ 1 ∨ tl ≠ 72 ∨ 32 < k ∨ 32 < n) → exec i s = .next (t.done h .invalidField)) ∧
       (version = 1 → tl = 72 → k ≤ 32 → n ≤ 32 →
         (t.locked = true → n ≠ 0 → exec i s = .next (t.done h .denied)) ∧
         (t.vault.lock = .isOpen → n = 0 → exec i s = .next (t.good h)) ∧
         (t.vault.lock ≠ .isOpen → (t.locked = false ∨ n = 0) →
           exec i s = .next (t.fanOut h (some (.set h pw, was)) fun u => u.beginCheck (.set h pw) was)) ∧
         (t.vault.lock = .isOpen → n ≠ 0 →
           exec i s = .next (t.fanOut h (some (.set h pw, was)) fun u => u.beginCheck (.set h pw) was)))) ∧
     (∀ tl : Nat, s.takes h (.securityLock h tl) = true →
       let t : State := s.taken h (.securityLock h tl)
       (tl ≠ 0 → exec (.securityLock h tl) s = .next (t.done h .invalidField)) ∧
       (tl = 0 → exec (.securityLock h tl) s = .next (t.fanOut h none fun u => u.hostLock h)) ∧
       ∀ u : State,
         (u.vault.lock = .isOpen → u.hostLock h = u.done h .sequence) ∧ (u.vault.lock = .locked → u.hostLock h = u.good h) ∧
         (u.vault.lock = .unlocked → u.hostLock h = State.lockTry { u with vault := { u.vault with lockWait := some (.host h) } })) ∧
     (∀ (version tl n : Nat) (pw : List Byte), s.takes h (.securityUnlock h version tl n pw) = true →
       let t : State := s.taken h (.securityUnlock h version tl n pw)
       let i : Instr := .securityUnlock h version tl n pw
       ((version ≠ 1 ∨ tl ≠ 36 ∨ n < 1 ∨ 32 < n) → exec i s = .next (t.done h .invalidField)) ∧
       (version = 1 → tl = 36 → 1 ≤ n → n ≤ 32 → exec i s = .next (t.fanOut h (some (.unlock h, pw.take n)) fun u =>
         if u.locked then u.beginCheck (.unlock h) (pw.take n) else u.good h))) ∧
     (s.takes h (.securityStatus h) = true → let t : State := s.taken h (.securityStatus h)
       exec (.securityStatus h) s = .next (State.done { t with vault := { t.vault with zeroizeUnread := false } } h .success 0
         (.bytes ([t.vault.lock.num, min 9 t.vault.fails, 10, b2n t.vault.zeroizeUnread] ++ leBytes 4 t.vault.zeroizes ++ List.replicate 8 0))))) ∧
  (∀ (s : State) (h : Hdr) (w : Option (Check × List Byte)) (here : State → State),
     ((s.isMaster = false ∨ s.presentSubs = [] ∨ lockLine w = none) → s.fanOut h w here = here s) ∧
     (∀ line : List Byte, s.isMaster = true → s.presentSubs ≠ [] → lockLine w = some line →
       ∃ l : List (BitVec 16 × Fin 4), l.map (·.2) = s.presentSubs ∧
         (s.fanOut h w here).vault = { s.vault with fan := some { hdr := h, todo := w, waiting := l } })) ∧
  (∀ (s : State) (pw : List Byte) (l : List (Check × List Byte)),
     let t : State := { s with vault := { s.vault with checks := l, cancelled := false } }
     let bad : State := { t with vault := t.vault.failed }
     (∀ h : Hdr, s.vault.checks = (.unlock h, pw) :: l →
       (s.vault.cancelled = true → exec .passwordCheckComplete s = .next (t.done h .denied)) ∧
       (s.vault.cancelled = false → s.locked = false → exec .passwordCheckComplete s = .next (t.good h)) ∧
       (s.vault.cancelled = false → s.locked = true → s.vault.password = some pw → exec .passwordCheckComplete s = .next (t.unlockNow.good h)) ∧
       (s.vault.cancelled = false → s.locked = true → s.vault.password ≠ some pw → exec .passwordCheckComplete s = .next (bad.done h .denied))) ∧
     (∀ (h : Hdr) (new : Option (List Byte)), s.vault.checks = (.set h new, pw) :: l →
       ((s.vault.password = none ∨ s.vault.password = some pw) → exec .passwordCheckComplete s = .next ((t.setPassword new).good h)) ∧
       (s.vault.password ≠ none → s.vault.password ≠ some pw → exec .passwordCheckComplete s = .next (bad.done h .denied))) ∧
     (∀ (c : LineCtx) (j : Option Nat), s.vault.checks = (.unlockLine c j, pw) :: l → s.con.running = some ⟨c, .password, j⟩ →
       (∀ u : State, exec .passwordCheckComplete s = .next u → u.con.running = none) ∧
       (s.vault.cancelled = false → s.locked = true → s.vault.password = some pw → exec .passwordCheckComplete s =
         .next { t.unlockNow.finishLine c j [] (ok []) with con := { (t.unlockNow.finishLine c j [] (ok [])).con with running := none } }) ∧
       (s.vault.cancelled = false → s.locked = true → s.vault.password ≠ some pw → exec .passwordCheckComplete s =
         .next { bad.finishLine c j [] (err .password []) with con := { (bad.finishLine c j [] (err .password [])).con with running := none } })) ∧
     (s.vault.checks = [] → exec .passwordCheckComplete s = .next s))

/-- The boot store's command sequences: a word programs, a sector erases, a slot commits; while the die is busy none has effect, one the die must
refuse leaves it in status mode with error, another class than the privileged reaches none, and an address outside the window, unaligned, or past the
last slot makes no command. Suspend, resume, status and read sequences of the boot store, the end of its operations and the window of the
Configuration Manager, whose request outside its area fails. -/
def Obligations.BootStoreRows : Prop :=
  (∀ (s : State) (a d : Word) (slot : Nat),
     (inWindow a = true →
       (a.toNat % 4 = 0 → exec (.bstProgramWord a d .privileged) s = .next { s with bst := s.bst.cmdProgram (bstOff a) d false }) ∧
       exec (.bstEraseSector a .privileged) s = .next { s with bst := s.bst.cmdErase (bstOff a) false }) ∧
     (slot < 1024 → exec (.bstSwapCommit slot .privileged) s = .next (s.swapCommit slot) ∧ (s.swapCommit slot).bst = s.bst.cmdSwapCommit slot) ∧
     (∀ cls : Cls, cls ≠ .privileged →
       (inWindow a = true → ∃ t : State, exec (.bstEraseSector a cls) s = .next t ∧ t.bst = s.bst ∧ t.rf .mpuFault 0 1 = 1) ∧
       (inWindow a = true → a.toNat % 4 = 0 → ∃ t : State, exec (.bstProgramWord a d cls) s = .next t ∧ t.bst = s.bst ∧ t.rf .mpuFault 0 1 = 1) ∧
       (slot < 1024 → ∃ t : State, exec (.bstSwapCommit slot cls) s = .next t ∧ t.bst = s.bst ∧ t.rf .mpuFault 0 1 = 1)) ∧
     (∀ cls : Cls, (inWindow a = false → exec (.bstEraseSector a cls) s = .next s) ∧
       ((inWindow a = false ∨ a.toNat % 4 ≠ 0) → exec (.bstProgramWord a d cls) s = .next s) ∧
       (1024 ≤ slot → exec (.bstSwapCommit slot cls) s = .next s))) ∧
  (∀ (b : BootStore) (off slot : Nat) (d : Word) (cm : Bool),
     (b.busy = true → b.cmdProgram off d cm = b ∧ b.cmdErase off cm = b ∧ b.cmdSwapCommit slot = b) ∧
     (b.busy = false →
       ((swapCommitWord off = true ∨ b.suspended = some (off / 0x10000)) → b.cmdProgram off d cm = b.refuse) ∧
       (swapCommitWord off = false → b.suspended ≠ some (off / 0x10000) → b.cmdProgram off d cm = b.start (.program off d) cm) ∧
       (b.suspended.isSome = true → b.cmdErase off cm = b.refuse) ∧ (b.suspended = none → b.cmdErase off cm = b.start (.erase (off / 0x10000)) cm) ∧
       (crc32c (b.read (0x300000 + 64 * slot) 56) = leNat (b.read (0x300000 + 64 * slot + 56) 4) →
         b.cmdSwapCommit slot = b.start (.swapCommit slot) false) ∧
       (crc32c (b.read (0x300000 + 64 * slot) 56) ≠ leNat (b.read (0x300000 + 64 * slot + 56) 4) → b.cmdSwapCommit slot = b.refuse))) ∧
  (∀ (s : State),
     (∀ sec : Nat, s.bst.op = .erase sec → exec .bstSuspend s = .next { s with
       bst := { s.bst with op := .none, opCm := false, suspended := some sec, susCm := s.bst.opCm, toggle := false } }) ∧
     ((∀ sec : Nat, s.bst.op ≠ .erase sec) → exec .bstSuspend s = .next s) ∧
     (∀ sec : Nat, s.bst.suspended = some sec → s.bst.busy = false → exec .bstResume s =
       .next { s with bst := { s.bst with op := .erase sec, opCm := s.bst.susCm, suspended := none, susCm := false, toggle := true } }) ∧
     ((s.bst.suspended = none ∨ s.bst.busy = true) → exec .bstResume s = .next s) ∧
     exec .bstReadStatus s = .next { s with bst := { s.bst with statusMode := true } } ∧
     (s.bst.busy = false → exec .bstArrayRead s = .next (State.bstNext { s with bst := { s.bst with statusMode := false, error := false } })) ∧
     (s.bst.busy = true → exec .bstArrayRead s = .next s) ∧
     (∀ verified : Bool, exec (.bstOpComplete verified) s = .next (s.bstEnd verified)) ∧
     (s.bst.busy = false → exec .bstOpTimeout s = .next { s with bst := { s.bst with failNext := true } }) ∧
     (s.bst.busy = true → exec .bstOpTimeout s = .next (s.bstEnd false)) ∧
     (∀ verified : Bool, s.bst.busy = false → s.bstEnd verified = s) ∧
     (s.bst.busy = true → s.bstEnd true = State.bstNext { s.cmDone false with bst :=
         { (s.cmDone false).bst.apply with op := .none, opCm := false, toggle := false, statusMode := false, error := false } } ∧
       (s.bstEnd false).bst.busy = false ∧ (s.bstEnd false).bst.error = true ∧ (s.bstEnd false).bst.statusMode = true) ∧
     (∀ a : Nat, (s.reg .bstCmAddr).toNat = a → 0x10580000 ≤ a → a < 0x10800000 → a % 4 = 0 →
       exec .bstCmProgram s = .next (State.bstNext { s.setRf .bstCmCmd 0 1 1 with
         bst := { s.bst with reqs := s.bst.reqs ++ [.cmProgram (a - 0x10000000) (s.reg .bstCmData)] } }) ∧
       exec .bstCmErase s = .next (State.bstNext { s.setRf .bstCmCmd 1 1 1 with
         bst := { s.bst with reqs := s.bst.reqs ++ [.cmErase (a - 0x10000000)] } })) ∧
     (∀ a : Nat, (s.reg .bstCmAddr).toNat = a → (a < 0x10580000 ∨ 0x10800000 ≤ a ∨ a % 4 ≠ 0) →
       exec .bstCmProgram s = .next (s.setRf .bstCmCmd 2 1 1) ∧ exec .bstCmErase s = .next (s.setRf .bstCmCmd 2 1 1)))

/-- A programmed word of the boot store can only clear bits, and an erased sector reads FFh. -/
def Obligations.BootStoreBytes : Prop :=
  ∀ (s : State) (a : Nat) (d : Word) (sec : Nat), s.bst.wf = true →
    (s.bst.op = .program a d → ∀ k : Nat, k < 4 → a + k < 0x800000 →
      s.bst.apply.byte (a + k) = s.bst.byte (a + k) &&& BitVec.ofNat 8 (d.toNat / 256 ^ k)) ∧
    (s.bst.op = .erase sec → sec < 128 → ∀ k : Nat, k < 0x10000 → s.bst.apply.byte (0x10000 * sec + k) = 0xFF)

/-- The debug port's requests, when it serves them: status, single accesses and blocks as the debug class, and the reset. A debug read: an address
that is not aligned makes no access; another is one access of the debug class, and its response carries what it answered. While user data is locked
the debug port answers every access with denied and sets trouble bit 37; a request with a wrong check is rejected; with the port off nothing is
answered. -/
def Obligations.LanternRows : Prop :=
  (∀ (s : State), s.lanternOn = true → exec .lanternStatus s = .next (s.respond { status := lanDone, data :=
     [s.sys.st.num + 8 * b2n s.locked + 16 * s.sys.ps.val + 128 * b2n s.lan.scan + 256 * (s.sys.trouble.toNat / 2 ^ 56)] })) ∧
  (∀ (s : State) (a : Word), s.lanternServes = true →
     (∀ w : Width, exec (.lanternRead a w true) s = .next (s.lanternRead a.toNat w.bytes)) ∧
     (∀ (w : Width) (v : BitVec 64), exec (.lanternWrite a w v true) s = .next (s.lanternWrite a.toNat w.bytes (v.toNat % 256 ^ w.bytes))) ∧
     (∀ n : BlkLen, exec (.lanternBlkrd a n true) s = .next (s.lanternBlkrd a.toNat n.words)) ∧
     (∀ (d : List Word) (bad : Option Nat), exec (.lanternBlkwr a d bad true) s = .next (s.lanternBlkwr a.toNat d bad)) ∧
     exec (.lanternReset true) s = .next ((s.respond { status := lanDone }).requestFused 11)) ∧
  (∀ (s : State) (a w : Nat),
     (a % w ≠ 0 → s.lanternRead a w = s.respond { status := lanDone, busErr := true, data := [0] }) ∧
     (∀ (v : Nat) (t : State), a % w = 0 → s.busRead .debug 9 a w = (.done, v, t) → s.lanternRead a w = t.respond { status := lanDone, data := [v] }) ∧
     (∀ k r : Nat, a % w = 0 → s.verdict .debug false a = some (k, r) →
       s.lanternRead a w = (s.refuse .debug false k r 9 a).respond { status := lanDone, denied := true, data := [0] }) ∧
     (∀ v : Nat, s.bst.failNext = false → a % w ≠ 0 → ∃ t : State, s.lanternWrite a w v = t.respond { status := lanDone, busErr := true } ∧
       t.regs = s.regs ∧ t.kpr = s.kpr ∧ t.dma = s.dma)) ∧
  (∀ (s : State) (a : Word) (w : Width) (v : BitVec 64) (n : BlkLen) (d : List Word) (bad : Option Nat) (pins : BitVec 205),
     (s.lanternOn = true → s.locked = true →
       let t : State := s.raise 37
       let no : LanResp := { status := lanDone, denied := true }
       exec (.lanternRead a w true) s = .next (t.respond { no with data := [0] }) ∧
       exec (.lanternWrite a w v true) s = .next (t.deniedWrite a.toNat w.bytes (v.toNat % 256 ^ w.bytes) (.refused 3) id no) ∧
       exec (.lanternBlkrd a n true) s = .next (t.respond { no with data := List.replicate n.words 0 }) ∧
       exec (.lanternBlkwr a d bad true) s = .next (t.deniedBlock a.toNat d (.refused 3) id { no with data := [0] }) ∧
       exec (.lanternReset true) s = .next (t.respond no) ∧ exec .scanBypass s = .next (t.respond no) ∧ exec .scanIdcode s = .next (t.respond no) ∧
       exec (.scanSamplePreload pins) s = .next (t.respond no) ∧ exec .scanExtest s = .next (t.respond no) ∧
       exec (.scanShift v) s = .next (t.respond no)) ∧
     (s.lanternOn = true → let no : Host.Outcome State Fault Refusal := .next (s.respond { status := lanRejected })
       exec (.lanternRead a w false) s = no ∧ exec (.lanternWrite a w v false) s = no ∧ exec (.lanternBlkrd a n false) s = no ∧
       exec (.lanternBlkwr a d bad false) s = no ∧ exec (.lanternReset false) s = no) ∧
     (s.lanternOn = false → exec .lanternStatus s = .next s ∧ ∀ b : Bool,
       exec (.lanternRead a w b) s = .next s ∧ exec (.lanternWrite a w v b) s = .next s ∧ exec (.lanternBlkrd a n b) s = .next s ∧
       exec (.lanternBlkwr a d bad b) s = .next s ∧ exec (.lanternReset b) s = .next s))

/-- Boundary scan in test or recovery with the controller not enabled, and its rejection elsewhere. -/
def Obligations.ScanRows : Prop :=
  (∀ (s : State), s.scanServes = true →
     exec .scanBypass s = .next (State.respond { s.scanned with lan := { s.scanned.lan with instr := .bypass } } { status := lanDone }) ∧
     (∃ (t : State) (r : LanResp), exec .scanIdcode s = .next t ∧ t.lan.resps = s.lan.resps ++ [r] ∧ r.status = lanDone ∧ t.lan.instr = .idcode ∧
       (∃ n : Nat, r.data = [n] ∧ n / 4096 % 65536 = 0x8048)) ∧
     (∀ pins : BitVec 205, exec (.scanSamplePreload pins) s =
       .next (State.respond { s.scanned with lan := { s.scanned.lan with instr := .sample, chain := pins, shifted := 0 } } { status := lanDone })) ∧
     (∃ t : State, exec .scanExtest s = .next t ∧ t.lan.instr = .extest ∧ t.lan.cells = s.lan.chain &&& ~~~wpCells ∧ t.lan.chain = s.lan.chain) ∧
     (∀ v : BitVec 64, exec (.scanShift v) s = .next (s.scanned.scanShift v.toNat))) ∧
  (∀ (s : State) (v : BitVec 64), (s.lan.instr = .sample ∨ s.lan.instr = .extest) →
     let all : Nat := s.lan.chain.toNat + v.toNat * 2 ^ 205
     (s.scanShift v.toNat).lan.chain = BitVec.ofNat 205 (all / 2 ^ 64) ∧
     (s.scanShift v.toNat).lan.resps = s.lan.resps ++ [{ status := lanDone, data := [all % 2 ^ 64] }] ∧
     (s.lan.instr = .extest → 205 ≤ s.lan.shifted + 64 → (s.scanShift v.toNat).lan.cells = BitVec.ofNat 205 (all / 2 ^ 64) &&& ~~~wpCells)) ∧
  (∀ (s : State) (v : BitVec 64) (pins : BitVec 205), s.lanternServes = true → s.scanServes = false →
     let no : Host.Outcome State Fault Refusal := .next (s.respond { status := lanRejected, denied := true })
     exec .scanBypass s = no ∧ exec .scanIdcode s = no ∧ exec (.scanSamplePreload pins) s = no ∧ exec .scanExtest s = no ∧ exec (.scanShift v) s = no) ∧
  (∀ (s : State) (v : BitVec 64) (pins : BitVec 205), s.lanternOn = false →
     exec .scanBypass s = .next s ∧ exec .scanIdcode s = .next s ∧ exec (.scanSamplePreload pins) s = .next s ∧ exec .scanExtest s = .next s ∧
     exec (.scanShift v) s = .next s)

/-- A reply: it is the last of the replies sent, and the console's queue and the line that executes are as they were. A recorded line's entry:
before the line has effect the journal's last entry holds its text, its path, its device, its second and a result still pending; a line whose entry
does not verify is answered with a fault and has no effect. The console's waits: with firmware's console off a line changes nothing (log entry 3);
behind a line that executes or waits it is queued, and a fifth on its path is answered busy with trouble bit 44; `stop` lines never wait. Mask ROM
refuses what it does not serve. -/
def Obligations.LinesAnswered : Prop :=
  (∀ (s : State) (c : LineCtx) (cont : List (List Pair)) (st : Status),
     (s.finishLine c none cont st).con.replies = s.con.replies ++ [⟨c, cont, st⟩] ∧
     (s.finishLine c none cont st).con.queue = s.con.queue ∧ (s.finishLine c none cont st).con.running = s.con.running ∧
     (s.finishLine c none cont st).regs = s.regs ∧ (s.finishLine c none cont st).kpr = s.kpr) ∧
  (∀ (s : State) (l : LineCtx) (i : Instr), s.bst.failNext = false →
     s.journalAdd (Path.num l.path) (s.lineDev l) (masked (lineText l i)) = (some s.bst.jNext, s.entered l i) ∧
     (∃ e : JEntry, (s.entered l i).bst.journal.getLast? = some e ∧ e.text = masked (lineText l i) ∧ e.result = 0xFF ∧ e.src = Path.num l.path ∧
       e.dev = s.lineDev l ∧ e.secs = s.sys.life)) ∧
  (∀ (s : State) (l : LineCtx) (i : Instr), i.waitingLine = some l →
     let behind : Nat := s.con.queue.countP fun q => q.ctx.path == l.path
     (s.consoleOn = false → exec i s = .next s) ∧
     (s.consoleOn = true → (s.con.busy = true ∨ s.con.queue ≠ []) →
       (behind < 4 → exec i s = .next { s with con := { s.con with
         queue := s.con.queue ++ [⟨l, lineText l i, s.con.nextOrder⟩], nextOrder := s.con.nextOrder + 1 } }) ∧
       (4 ≤ behind → exec i s = .next ((s.raise 44).reply l [] (err .busy [word "queue"])))) ∧
     (s.takesLine = true → recorded i = true → s.bst.failNext = true → exec i s = .next ((s.entered l i).reply l [] (err .fault [word "journal"]))) ∧
     (s.consoleOn = true → s.con.busy = false → s.con.queue = [] → s.sys.rom = true → (romVerb i = false ∨ l.path ≠ .uart) →
       (recorded i = false → exec i s = .next (s.finishLine l none [] (err .state []))) ∧
       (recorded i = true → s.bst.failNext = false → exec i s = .next ((s.entered l i).finishLine l (some s.bst.jNext) [] (err .state []))))) ∧
  (∀ (s : State) (l : LineCtx) (n : Fin 8),
     (s.consoleOn = false → exec (.stop l) s = .next s ∧ exec (.stopTest l) s = .next s ∧ exec (.stopDma l n) s = .next s) ∧
     (s.consoleOn = true → s.bst.failNext = true → ∀ i : Instr, (i = .stop l ∨ i = .stopTest l ∨ i = .stopDma l n) →
       exec i s = .next ((s.entered l i).reply l [] (err .fault [word "journal"]))))

/-- The lines that read: each is answered at once, and none is recorded. The lines about offsets and sensors that read. A key out of range, a
chamber that is not there or a state that does not allow the line is answered with an error, and changes nothing. -/
def Obligations.ReadingLines : Prop :=
  (∀ (s : State) (l : LineCtx), s.takesLine = true →
     (∀ c : Fin 128, (s.chamberHere c = true → exec (.show l (.chamber c)) s = .next (s.finishLine l none [s.chamberLine c] (ok []))) ∧
       (s.chamberHere c = false → exec (.show l (.chamber c)) s = .next (s.finishLine l none [] (err .absent [])))) ∧
     (∀ o : ShowObj, (∀ c : Fin 128, o ≠ .chamber c) → exec (.show l o) s = .next (s.finishLine l none (s.showLines o) (ok []))) ∧
     (∀ w : GetWhat, exec (.get l w) s = .next (s.finishLine l none [] (ok (s.getPairs w)))) ∧
     (∀ (n f : Option Nat),
       (n.getD 16 ≤ 4096 → f.getD 1 < 2 ^ 32 → exec (.logJournal l n f) s = .next (s.finishLine l none
         ((journalSel s.bst.journal n f).map JEntry.pairs) (ok [natOf "n" ((journalSel s.bst.journal n f).map JEntry.pairs).length]))) ∧
       ((4096 < n.getD 16 ∨ 2 ^ 32 ≤ f.getD 1) → ∃ d : List Pair, exec (.logJournal l n f) s = .next (s.finishLine l none [] (err .range d)))) ∧
     (∃ ls : List (List Pair), exec (.logTrouble l) s = .next (s.finishLine l none ls (ok [natOf "n" ls.length])) ∧
       ls.length = ((List.range 64).countP fun n => s.trb n)) ∧
     (∀ n : Option Nat, ∃ ls : List (List Pair), exec (.logAlarm l n) s = .next (s.finishLine l none ls (ok [natOf "n" ls.length])) ∧
       ls.length = min (n.getD 16) s.bst.alarmLog.length) ∧
     (∃ ls : List (List Pair), exec (.logTemp l) s = .next (s.finishLine l none ls (ok [natOf "n" ls.length])) ∧
       ls.length = s.sys.hist.bins.countP fun n => n != 0) ∧
     (∀ t : HelpTopic, exec (.help l t) s = .next (s.finishLine l none (s.helpLines t) (ok []))) ∧
     exec (.updateStatus l) s = .next (s.finishLine l none [] (ok ([("active", .word s.bst.active.word)] ++
       (match s.bst.pendingSwap with | some r => [("committed", .word r.twin.word)] | none => []) ++ [natOf "staged" s.bst.staged])))) ∧
  (∀ (s : State) (l : LineCtx) (c : Fin 128) (block : Nat) (raw : Option (List Nat)), s.takesLine = true →
     let no : Prop := s.sys.st = .boot ∨ s.chamberHere c = false ∨ ((s.prof c).map (·.blocks)).getD 0 ≤ block
     (s.sys.st = .boot → exec (.assaySensors l) s = .next (s.finishLine l none [] (err .state []))) ∧
     (s.sys.st ≠ .boot → exec (.assaySensors l) s = .next (s.finishLine l none [[("die_c", .int (wholeC s.assay.dieQ))],
       s.populated.map fun (ch : Fin 128) => ("temp_c", .int (s.chamberTemp ch).1),
       [natOf "vddc_mv" (s.assay.railMv.toList.getD 2 0), natOf "ctl_mw" s.assay.ctlMw, natOf "isns_ma" s.assay.isnsMa]] (ok []))) ∧
     (no → ∃ (k : ErrCode) (d : List Pair), exec (.assayOffsets l c block) s = .next (s.finishLine l none [] (err k d)) ∧
       exec (.assaySentinel l c block raw) s = .next (s.finishLine l none [] (err k d))) ∧
     (¬no →
       (let r : OfsRec := s.ofs c (block / 64)
        exec (.assayOffsets l c block) s = .next (s.finishLine l none [] (ok (s.groupPairs c (block / 64) ++
          [("age_s", if r.searched then .nat ((s.sys.life + 2 ^ 32 - r.secs) % 2 ^ 32) else .word "none"), ("temp_c", .int r.temp)])))) ∧
       let k : Nat := c.val * 65536 + block
       ((s.blk k).st ≠ .closed → exec (.assaySentinel l c block raw) s = .next (s.finishLine l none [] (err .state [word "open"]))) ∧
       ((s.blk k).st = .closed → (s.blk k).sealed = true → exec (.assaySentinel l c block raw) s = .next (s.finishLine l none [] (err .state [word "sealed"]))) ∧
       ((s.blk k).st = .closed → (s.blk k).sealed = false →
         (s.mayRun c = false → exec (.assaySentinel l c block raw) s = .next (s.finishLine l none [] (err .busy []))) ∧
         (s.mayRun c = true → ∀ (r : Option Nat) (u : State), (s.countRead k 1).sentinelRead k (s.pagesOf k - 1) (s.blk k).pslc raw = (r, u) →
           (∀ n : Nat, r = some n → exec (.assaySentinel l c block raw) s = .next (u.finishLine l none [] (ok [natOf "flips" n]))) ∧
           (r = none → exec (.assaySentinel l c block raw) s = .next (u.finishLine l none [] (err .timeout [])))))))

/-- The lines that clear and set: each has its effect after its entry, and is answered. The lines that save and load, and the installation of a
loaded profile on a still gallery. A line that is refused is answered with an error and has no effect but its entry. -/
def Obligations.ChangingLines : Prop :=
  (∀ (s : State) (l : LineCtx), s.takesEntry = true →
     let j : Option Nat := some s.bst.jNext
     (∀ ps : List (Setting × SetVal), let t : State := s.entered l (.set l ps)
       let u : State := ps.foldl (fun (t : State) (x : Setting × SetVal) => t.setNow x.1 x.2) t
       let off : Prop := ∃ g : Fin 8, (Setting.galEnable g, SetVal.flag false) ∈ ps
       (∀ st : Status, t.setRefused ps = some st → exec (.set l ps) s = .next (t.finishLine l j [] st)) ∧
       (t.setRefused ps = none → (¬off ∨ u.restless = false) → exec (.set l ps) s = .next (u.finishLine l j [] (ok (u.setPairs (ps.map (·.1)))))) ∧
       (t.setRefused ps = none → off → u.restless = true → exec (.set l ps) s = .next (u.run ⟨l, .setOff (ps.map (·.1)), j⟩))) ∧
     (exec (.clearTrouble l none) s = .next (((s.entered l (.clearTrouble l none)).clearTrouble (BitVec.allOnes 64)).finishLine l j [] (ok []))) ∧
     (∀ n : Nat, let t : State := s.entered l (.clearTrouble l (some n))
       (n ≤ 63 → exec (.clearTrouble l (some n)) s = .next ((t.clearTrouble (1#64 <<< n)).finishLine l j [] (ok []))) ∧
       (63 < n → exec (.clearTrouble l (some n)) s = .next (t.finishLine l j [] (err .range [("bit", .nat n)])))) ∧
     (exec (.clearCause l none) s = .next (((s.entered l (.clearCause l none)).clearCause (BitVec.allOnes 32)).finishLine l j [] (ok []))) ∧
     (∀ n : Nat, let t : State := s.entered l (.clearCause l (some n))
       (n ≤ 31 → exec (.clearCause l (some n)) s = .next ((t.clearCause (1#32 <<< n)).finishLine l j [] (ok []))) ∧
       (31 < n → exec (.clearCause l (some n)) s = .next (t.finishLine l j [] (err .range [("bit", .nat n)])))) ∧
     (∀ (c : Fin 128) (good : Bool), let t : State := s.entered l (.clearSuspect l c good)
       let r : Bool × State := t.resetLun (galOf c) (chIn c) (if good then ready else 0)
       (t.chamberHere c = false → exec (.clearSuspect l c good) s = .next (t.finishLine l j [] (err .absent []))) ∧
       (t.chamberHere c = true → ((t.gals.get (galOf c)).inService = false ∨ t.targetTrained c = false) →
         exec (.clearSuspect l c good) s = .next (t.finishLine l j [] (err .state []))) ∧
       (t.chamberHere c = true → (t.gals.get (galOf c)).inService = true → t.targetTrained c = true →
         (r.1 = true → good = true → exec (.clearSuspect l c good) s = .next ((r.2.setReg (.galSuspect (galOf c))
           (r.2.reg (.galSuspect (galOf c)) &&& ~~~(1#32 <<< (chIn c).val))).finishLine l j [] (ok []))) ∧
         ((r.1 = false ∨ good = false) → exec (.clearSuspect l c good) s = .next (r.2.finishLine l j [] (err .fault [word "status"])))))) ∧
  (∀ (s : State) (l : LineCtx), s.takesEntry = true →
     let j : Option Nat := some s.bst.jNext
     (let t : Saved × State := (s.entered l (.saveSettings l)).saveSettings
      exec (.saveSettings l) s = .next (t.2.finishLine l j [] t.1.status)) ∧
     (let t : Saved × State := (s.entered l (.saveProfile l)).saveProfile
      exec (.saveProfile l) s = .next (t.2.finishLine l j [] t.1.status)) ∧
     (let t : State := s.entered l (.loadSettings l)
      let saved : Settings := t.bst.setStart.savedSet.getD (defaultSettings (t.rf .sysStrap 15 1 == 1))
      exec (.loadSettings l) s = .next ((allSettings.foldl (fun (u : State) (x : Setting) => u.loadOne saved x) t).finishLine l j [] (ok []))) ∧
     (∀ (src len : Nat) (g : Option (Fin 8)), let t : State := s.entered l (.loadProfile l src len g)
       let bad : Prop := 2 ^ 32 ≤ src ∨ (t.isSt .service = true ∧ (loadGals g).all t.unwritten = false) ∨ len < 1024 ∨ 32768 < len ∨ len % 64 ≠ 0
       (bad → ∃ (k : ErrCode) (d : List Pair), exec (.loadProfile l src len g) s = .next (t.finishLine l j [] (err k d))) ∧
       (¬bad → ∀ (m : List Nat) (u : State),
         (∀ (o : Acc) (a : Nat), t.readSpan (cutUp len src len) = (some (o, a), m, u) →
           exec (.loadProfile l src len g) s = .next (u.finishLine l j [] (faultStatus o a []))) ∧
         (t.readSpan (cutUp len src len) = (none, m, u) →
           (∀ f : String, imgFail m len (u.sys.railMv.get 4) = some f →
             exec (.loadProfile l src len g) s = .next (u.finishLine l j [] (err .range [word f]))) ∧
           (imgFail m len (u.sys.railMv.get 4) = none → exec (.loadProfile l src len g) s = .next (State.run
             ((loadGals g).foldl (fun (v : State) (x : Fin 8) => v.gal x fun y => { y with toInstall := some (imgProfile m) }) u) ⟨l, .load (loadGals g), j⟩))))) ∧
     (∀ (g : Fin 8) (p : Profile) (m : List (List Nat)), (s.gals.get g).toInstall = some p →
       (s.inReset = false → s.sys.released.getLsbD 3 = true → s.sys.ps.val ≤ 2 → (s.gals.get g).still = true →
         exec (.profileInstall g m) s = .next (s.install g p m).loadReply) ∧
       ((s.inReset = true ∨ s.sys.released.getLsbD 3 = false ∨ 2 < s.sys.ps.val ∨ (s.gals.get g).still = false) →
         exec (.profileInstall g m) s = .next s)) ∧
     (∀ (g : Fin 8) (m : List (List Nat)), (s.gals.get g).toInstall = none → exec (.profileInstall g m) s = .next s))

/-- The `run` lines in the states that allow them, and their errors elsewhere; a forced raw operation meets no table and no suspect check. The `stop`
lines execute beside the line that runs. -/
def Obligations.RunLines : Prop :=
  (∀ (s : State) (l : LineCtx), s.takesEntry = true →
     let j : Option Nat := some s.bst.jNext
     (let t : State := s.entered l (.runTest l)
      (t.testAllowed = true → exec (.runTest l) s = .next ((t.enter .test).finishLine l j [] (ok []))) ∧
      (t.testAllowed = false → exec (.runTest l) s = .next (t.finishLine l j [] (err .state [])))) ∧
     (∀ (c : Fin 128) (list block page buf len : Nat) (force : Bool), let i : Instr := .runOp l c list block page buf len force
       let t : State := s.entered l i
       let x : Gallery := t.gals.get (galOf c)
       let kind : Nat := x.kindOf list
       let bad : Prop := 63 < list ∨ buf < 0x20000000 ∨ 0x21800000 ≤ buf ∨ buf % 8 ≠ 0 ∨ 18432 < len ∨ len % 8 ≠ 0 ∨ t.isSt .test = false ∨
         t.chamberHere c = false ∨ ((t.prof c).map (·.blocks)).getD 0 ≤ block ∨
         ((t.prof c).map fun (p : Profile) => max p.pagesNative p.pagesPslc).getD 0 ≤ page ∨ x.slots.getD list none = none ∨ x.inService = false
       let barred : Prop := writeKind kind = true ∧ force = false ∧ t.suspect c = true
       let dark : Prop := writeKind kind = true ∧ t.brownWarning = true
       let out : Prop := writeKind kind = true ∧ force = false ∧ x.passes (t.rawOp c 0 kind block page) = false
       (bad → ∃ (k : ErrCode) (d : List Pair), exec (.runOp l c list block page buf len force) s = .next (t.finishLine l j [] (err k d))) ∧
       (¬bad →
         (barred → exec (.runOp l c list block page buf len force) s =
           .next ((t.runOpRefuse c list .suspect).finishLine l j [] (err .state [word "suspect"]))) ∧
         (¬barred → dark → exec (.runOp l c list block page buf len force) s = .next (t.finishLine l j [] (err .state [word "supply"]))) ∧
         (¬barred → ¬dark → (t.chamberIdle c = false ∨ t.mayRun c = false) →
           exec (.runOp l c list block page buf len force) s = .next (t.finishLine l j [] (err .busy []))) ∧
         (¬barred → ¬dark → t.chamberIdle c = true → t.mayRun c = true →
           (out → exec (.runOp l c list block page buf len force) s = .next ((t.runOpOrder c list).finishLine l j [] (err .state [word "order"]))) ∧
           (¬out → exec (.runOp l c list block page buf len force) s = .next (t.runOpStart l j c list kind block page buf len force))))) ∧
     (∀ g : Fin 8, let t : State := s.entered l (.runTrain l g)
       ((t.gals.get g).profile.isSome = true → t.settings.galEnable.get g = true →
         exec (.runTrain l g) s = .next ((t.markRetrain g).run ⟨l, .train g, j⟩)) ∧
       (((t.gals.get g).profile = none ∨ t.settings.galEnable.get g = false) →
         exec (.runTrain l g) s = .next (t.finishLine l j [] (err .state [])))) ∧
     (let t : State := s.entered l (.runCheckpoint l)
      (t.isSt .test = false → t.mapUp = true →
        exec (.runCheckpoint l) s = .next (State.run { t with map := { t.map with ckptWant := true } } ⟨l, .checkpoint, j⟩)) ∧
      ((t.isSt .test = true ∨ t.mapUp = false) → exec (.runCheckpoint l) s = .next (t.finishLine l j [] (err .state [])))) ∧
     (∀ (raws : List (Option (List Nat))) (stop : Option LineCtx), let t : State := s.entered l (.runPatrol l ⟨raws, stop⟩)
       let table : List (Nat × Bool) := t.patrolTableNow
       let all : List Nat := patrolled table t.map.patrolPos (ceilDiv table.length 32)
       let free : Prop := ∀ n ∈ all, ∀ k : Nat, t.ofDevBlock n = some k → t.mayRun (chOfBlk k) = true
       let halt : Bool × State := t.stopMaybe stop
       let ks : List Nat := if halt.1 then all.take (max 1 raws.length) else all
       let r : Nat × State := halt.2.patrolBlocks table (ks.zipIdx.map fun (x : Nat × Nat) => (x.1, raws.getD x.2 (some [])))
       let u : State := r.2.patrolMove ks
       let say : List Pair := if halt.1 then [("stopped", .flag true), natOf "blocks" ks.length] else [natOf "blocks" ks.length, natOf "over" r.1]
       ((t.isSt .test = true ∨ t.mapUp = false ∨ 2 < t.sys.ps.val) → exec (.runPatrol l ⟨raws, stop⟩) s = .next (t.finishLine l j [] (err .state []))) ∧
       (t.isSt .test = false → t.mapUp = true → t.sys.ps.val ≤ 2 → ¬free →
         exec (.runPatrol l ⟨raws, stop⟩) s = .next (t.finishLine l j [] (err .busy []))) ∧
       (t.isSt .test = false → t.mapUp = true → t.sys.ps.val ≤ 2 → free → exec (.runPatrol l ⟨raws, stop⟩) s =
         .next (State.finishLine { u with sys := { u.sys with lastPatrol := u.sys.life } } l j [] (ok say))))) ∧
  (∀ (s : State) (l : LineCtx), s.consoleOn = true → s.bst.failNext = false → s.sys.rom = false →
     let j : Option Nat := some s.bst.jNext
     (let t : State := s.entered l (.stop l)
      (s.con.busy = false → exec (.stop l) s = .next (t.finishLine l j [] (err .absent []))) ∧
      (∀ (c : LineCtx) (n : Fin 8) (b : Bool) (k : Option Nat), s.con.running = some ⟨c, .dma n b, k⟩ →
        exec (.stop l) s = .next ((t.dmaStop n).finishLine l j [] (ok []))) ∧
      (s.con.busy = true → (∀ (c : LineCtx) (n : Fin 8) (b : Bool) (k : Option Nat), s.con.running ≠ some ⟨c, .dma n b, k⟩) →
        exec (.stop l) s = .next (t.finishLine l j [] (ok [])))) ∧
     (let t : State := s.entered l (.stopTest l)
      (t.isSt .test = true → s.con.stopping = none → exec (.stopTest l) s =
        .next { t.leaveTest with con := { t.leaveTest.con with stopping := some ⟨l, .stopTest, j⟩ } }) ∧
      (t.isSt .test = true → s.con.stopping ≠ none → exec (.stopTest l) s = .next (t.finishLine l j [] (err .busy []))) ∧
      (t.isSt .test = false → exec (.stopTest l) s = .next (t.finishLine l j [] (err .state [])))) ∧
     (∀ n : Fin 8, exec (.stopDma l n) s = .next (((s.entered l (.stopDma l n)).dmaStop n).finishLine l j [] (ok []))))

/-- `reset`, `sleep`, `lock` and `unlock`, and the errors of a level, a unit, a state or a password that is not allowed. -/
def Obligations.StateLines : Prop :=
  ∀ (s : State) (l : LineCtx), s.takesEntry = true →
    let j : Option Nat := some s.bst.jNext
    (∀ (n : Option Nat) (unit : Option UnitName), let t : State := s.entered l (.consoleReset l n unit)
      let t1 : State := t.finishLine l j [] (ok [])
      (4 < n.getD 2 → exec (.consoleReset l n unit) s = .next (t.finishLine l j [] (err .range [("level", .nat (n.getD 2))]))) ∧
      (n.getD 2 ≤ 4 → (unit = some .map ∨ unit = some .keeper) →
        ∃ d : List Pair, exec (.consoleReset l n unit) s = .next (t.finishLine l j [] (err .unknown d))) ∧
      (n.getD 2 < 4 → unit ≠ some .map → unit ≠ some .keeper → exec (.consoleReset l n unit) s = .next (State.requestReset
        { t1 with con := { t1.con with queue := t1.con.queue.filter fun (q : QLine) => q.ctx.path != .uart } } 7 (n.getD 2))) ∧
      (n.getD 2 = 4 → unit = none → exec (.consoleReset l n unit) s = .next (t.finishLine l j [] (err .badForm [word "unit="]))) ∧
      (∀ u : UnitName, n.getD 2 = 4 → unit = some u → u ≠ .map → u ≠ .keeper → let r : Bool × State := t.requestUnit u 7
        (r.1 = false → exec (.consoleReset l n unit) s = .next (r.2.finishLine l j [] (err .busy [word ("unit=" ++ u.word)]))) ∧
        (r.1 = true → r.2.resetTrains u = true → exec (.consoleReset l n unit) s = .next (r.2.run ⟨l, .reset u, j⟩)) ∧
        (r.1 = true → r.2.resetTrains u = false → exec (.consoleReset l n unit) s = .next (r.2.finishLine l j [] (ok []))))) ∧
    (∀ ps : Option Nat, let t : State := s.entered l (.sleep l ps)
      (ps.getD 4 ≠ 3 → ps.getD 4 ≠ 4 → exec (.sleep l ps) s = .next (t.finishLine l j [] (err .range [("ps", .nat (ps.getD 4))]))) ∧
      ((ps.getD 4 = 3 ∨ ps.getD 4 = 4) →
        (t.isSt .service = false → exec (.sleep l ps) s = .next (t.finishLine l j [] (err .state []))) ∧
        (t.isSt .service = true → t.isMaster = true → t.front.en = true → exec (.sleep l ps) s = .next (t.finishLine l j [] (err .state [word "host"]))) ∧
        (t.isSt .service = true → (t.isMaster = false ∨ t.front.en = false) →
          exec (.sleep l ps) s = .next ((t.wantPs (if ps.getD 4 = 3 then 3 else 4)).run ⟨l, .sleep, j⟩)))) ∧
    (∀ pw : Option (List Byte), let t : State := s.entered l (.lockData l pw)
      let bad : Prop := (∃ p : List Byte, pw = some p ∧ (p.length < 1 ∨ 32 < p.length)) ∨ t.lockStates = false ∨
        (pw ≠ none ∧ t.vault.lock ≠ .isOpen) ∨ (pw = none ∧ t.vault.lock = .isOpen) ∨ t.vault.lockWait ≠ none
      (bad → ∃ (k : ErrCode) (d : List Pair), exec (.lockData l pw) s = .next (t.finishLine l j [] (err k d))) ∧
      (¬bad → t.locked = true → exec (.lockData l pw) s = .next (t.finishLine l j [] (ok []))) ∧
      (¬bad → t.locked = false → exec (.lockData l pw) s = .next
        (State.lockTry (State.run { t with vault := { t.vault with lockWait := some (.line l j pw) } } ⟨l, .password, j⟩)))) ∧
    (∀ pw : List Byte, let t : State := s.entered l (.unlockData l pw)
      ((pw.length < 1 ∨ 32 < pw.length) → exec (.unlockData l pw) s = .next (t.finishLine l j [] (err .range [word "password"]))) ∧
      (1 ≤ pw.length → pw.length ≤ 32 →
        (t.lockStates = false → exec (.unlockData l pw) s = .next (t.finishLine l j [] (err .state []))) ∧
        (t.lockStates = true → t.locked = true →
          exec (.unlockData l pw) s = .next ((t.beginCheck (.unlockLine l j) pw).run ⟨l, .password, j⟩)) ∧
        (t.lockStates = true → t.locked = false → exec (.unlockData l pw) s = .next (t.finishLine l j [] (ok [])))))

/-- `rd` and `wr`: units read one after the other as the user class are printed; units written are answered, a refused one by a fault with the units
done. `move` and `fill` run the console's channel; an overlap that is not permitted is refused before anything is read, and no byte is moved for a
length of zero. A key out of range is an error. -/
def Obligations.TransferLines : Prop :=
  (∀ (s : State) (l : LineCtx) (a w : Nat),
     let bad : Prop := (w ≠ 1 ∧ w ≠ 2 ∧ w ≠ 4 ∧ w ≠ 8) ∨ 2 ^ 32 ≤ a ∨ a % w ≠ 0
     (∀ n : Nat, s.takesLine = true →
       ((bad ∨ n < 1 ∨ 64 < n) → ∃ d : List Pair, exec (.rd l a n w) s = .next (s.finishLine l none [] (err .range d))) ∧
       (¬bad → 1 ≤ n → n ≤ 64 → let r : List Nat × Option (Acc × Nat) × State := s.rdUnits w n a
         (r.2.1 = none → exec (.rd l a n w) s = .next (r.2.2.finishLine l none (unitLines a w r.1) (ok []))) ∧
         (∀ (o : Acc) (b : Nat), r.2.1 = some (o, b) →
           exec (.rd l a n w) s = .next (r.2.2.finishLine l none (unitLines a w r.1) (faultStatus o b []))))) ∧
     (∀ ds : List Nat, s.takesEntry = true → let t : State := s.entered l (.wr l a w ds)
       let j : Option Nat := some s.bst.jNext
       let r : Nat × Option (Acc × Nat) × State := t.wrUnits w a ds
       ((ds.length < 1 ∨ 8 < ds.length ∨ bad ∨ (wideVal w ds).isSome = true) →
         ∃ (k : ErrCode) (d : List Pair), exec (.wr l a w ds) s = .next (t.finishLine l j [] (err k d))) ∧
       (1 ≤ ds.length → ds.length ≤ 8 → ¬bad → wideVal w ds = none →
         (∀ (o : Acc) (b : Nat), r.2.1 = some (o, b) →
           exec (.wr l a w ds) s = .next (r.2.2.dmaKick.finishLine l j [] (faultStatus o b [natOf "done" r.1]))) ∧
         (r.2.1 = none → let v : Option (Acc × Nat) × State := r.2.2.readBack a w r.1
           (v.1 = none → exec (.wr l a w ds) s = .next (v.2.dmaKick.finishLine l j [] (ok []))) ∧
           (∀ (o : Acc) (b : Nat), v.1 = some (o, b) →
             exec (.wr l a w ds) s = .next (v.2.dmaKick.finishLine l j [] (faultStatus o b [natOf "done" r.1]))))))) ∧
  (∀ (s : State) (l : LineCtx) (dst len : Nat) (pri : Option Nat), s.takesEntry = true →
     let j : Option Nat := some s.bst.jNext
     let bad (t : State) : Prop := 2 ^ 32 ≤ dst ∨ 16777215 < len ∨ 3 < pri.getD 0 ∨ t.dmaBusy t.settings.dmaConsoleCh = true
     (∀ (src lines : Nat) (ss ds : Option Int) (ovl : Bool), let t : State := s.entered l (.move l src dst len lines ss ds ovl pri)
       let x : Side := ⟨src, len, word32 (ss.getD len), lines⟩
       let y : Side := ⟨dst, len, word32 (ds.getD len), lines⟩
       let no : Prop := 2 ^ 32 ≤ src ∨ lines < 1 ∨ 65535 < lines ∨ in32 (ss.getD 0) = false ∨ in32 (ds.getD 0) = false ∨ bad t
       (no → ∃ (k : ErrCode) (d : List Pair), exec (.move l src dst len lines ss ds ovl pri) s = .next (t.finishLine l j [] (err k d))) ∧
       (¬no → len = 0 → exec (.move l src dst len lines ss ds ovl pri) s = .next (t.finishLine l j [] (ok [natOf "done" 0]))) ∧
       (¬no → 0 < len → overlapRefused x y ovl = true →
         exec (.move l src dst len lines ss ds ovl pri) s = .next (t.finishLine l j [] (err .range [word "overlap"]))) ∧
       (¬no → 0 < len → overlapRefused x y ovl = false → exec (.move l src dst len lines ss ds ovl pri) s =
         .next (t.runConsole l j false (pri.getD t.settings.dmaConsolePri) [src, len, x.stride, lines, dst, len, y.stride, lines, 0, b2n ovl, 0, 0]))) ∧
     (∀ pat : BitVec 64, let t : State := s.entered l (.fill l dst len pat pri)
       (bad t → ∃ (k : ErrCode) (d : List Pair), exec (.fill l dst len pat pri) s = .next (t.finishLine l j [] (err k d))) ∧
       (¬bad t → len = 0 → exec (.fill l dst len pat pri) s = .next (t.finishLine l j [] (ok [natOf "done" 0]))) ∧
       (¬bad t → 0 < len → exec (.fill l dst len pat pri) s = .next (t.runConsole l j true (pri.getD t.settings.dmaConsolePri)
         [0, 0, 0, 0, dst, len, len, 1, 0, 4, pat.toNat % 2 ^ 32, pat.toNat / 2 ^ 32]))))

/-- The recorded lines about offsets, and the firmware lines: a search that a `stop` line or an unanswered trial ends, a piece read and staged, a
commit that leaves a swap pending or resets at once; and their errors. -/
def Obligations.AssayAndUpdateLines : Prop :=
  ∀ (s : State) (l : LineCtx), s.takesEntry = true →
    let j : Option Nat := some s.bst.jNext
    (∀ (c : Fin 128) (block : Nat) (trials : TrialRun) (refs : List RefRead) (stop : Option LineCtx), let i : Instr := .assaySearch l c block ⟨trials, refs, stop⟩
      let t : State := s.entered l i
      let q : Nat := block / 64
      let bad : Prop := t.sys.st = .boot ∨ t.chamberHere c = false ∨ ((t.prof c).map (·.blocks)).getD 0 ≤ block ∨ t.hook26 c = false ∨
        t.sampleBlock c q = none ∨ t.mayRun c = false
      let halt : Bool × State := t.stopMaybe stop
      let r : Bool × State := halt.2.search c q trials refs
      (bad → ∃ (k : ErrCode) (d : List Pair), exec (.assaySearch l c block ⟨trials, refs, stop⟩) s = .next (t.finishLine l j [] (err k d))) ∧
      (¬bad → r.1 = false → exec (.assaySearch l c block ⟨trials, refs, stop⟩) s = .next (r.2.finishLine l j [] (err .timeout []))) ∧
      (¬bad → r.1 = true → halt.1 = false →
        exec (.assaySearch l c block ⟨trials, refs, stop⟩) s = .next (r.2.finishLine l j [] (ok (r.2.groupPairs c q)))) ∧
      (¬bad → r.1 = true → halt.1 = true → exec (.assaySearch l c block ⟨trials, refs, stop⟩) s =
        .next (r.2.finishLine l j [] (ok [("stopped", .flag true), natOf "blocks" 64])))) ∧
    (∀ c : Fin 128, let t : State := s.entered l (.assayReset l c)
      let n : Nat := ((t.prof c).map fun (p : Profile) => ceilDiv p.blocks 64).getD 0
      ((t.sys.st = .boot ∨ t.chamberHere c = false ∨ ((t.prof c).map (·.blocks)).getD 0 = 0) →
        ∃ (k : ErrCode) (d : List Pair), exec (.assayReset l c) s = .next (t.finishLine l j [] (err k d))) ∧
      (t.sys.st ≠ .boot → t.chamberHere c = true → 0 < ((t.prof c).map (·.blocks)).getD 0 → exec (.assayReset l c) s = .next (State.finishLine
        { t with assay := { t.assay with ofs := Store.drop (fun (k : Nat) => k / 1024 == c.val) t.assay.ofs } } l j [] (ok [natOf "groups" n])))) ∧
    (∀ (twin : Twin) (src off len : Nat), let t : State := s.entered l (.updatePiece l twin src off len)
      let bad : Prop := 2 ^ 32 ≤ src ∨ off % 4096 ≠ 0 ∨ len % 4096 ≠ 0 ∨ 2 ^ 20 < len ∨ 1572864 < off + len ∨ t.sys.st = .boot ∨ twin = t.bst.active ∨
        (off ≠ 0 ∧ off ≠ t.bst.pieceAt twin)
      (bad → ∃ (k : ErrCode) (d : List Pair), exec (.updatePiece l twin src off len) s = .next (t.finishLine l j [] (err k d))) ∧
      (¬bad → ∀ (m : List Nat) (u : State),
        (∀ (o : Acc) (a : Nat), t.readSpan (cutUp len src len) = (some (o, a), m, u) →
          exec (.updatePiece l twin src off len) s = .next (u.finishLine l j [] (faultStatus o a []))) ∧
        (t.readSpan (cutUp len src len) = (none, m, u) → let v : Bool × State := u.stagePiece off m
          (v.1 = true → exec (.updatePiece l twin src off len) s = .next (v.2.finishLine l j [] (ok []))) ∧
          (v.1 = false → exec (.updatePiece l twin src off len) s = .next (v.2.finishLine l j [] (err .fault [word "bst"])))))) ∧
    (∀ (twin : Twin) (now signed : Bool), let t : State := s.entered l (.updateCommit l twin now signed)
      ((t.sys.st = .boot ∨ twin = t.bst.active ∨ signed = false) →
        ∃ (k : ErrCode) (d : List Pair), exec (.updateCommit l twin now signed) s = .next (t.finishLine l j [] (err k d))) ∧
      (t.sys.st ≠ .boot → twin ≠ t.bst.active → signed = true → let u : State := (t.swapPend twin false).finishLine l j [] (ok [])
        (now = false → exec (.updateCommit l twin now signed) s = .next u) ∧
        (now = true → exec (.updateCommit l twin now signed) s = .next (u.requestReset 7 2))))

/-- The rows of the paths: the next queued line executes; a character is taken; an overrun loses the line being received and sets trouble bit 44; a
partial line is dropped at its timeout; each line taken on a path and not answered sends its keep-alive. Lines through the tunnel and over Tether: a
line or a reply for this device is taken here, one for another is sent on or answered absent. -/
def Obligations.ConsoleRows : Prop :=
  (∀ (s : State), s.consoleOn = true →
     (∀ (q : QLine) (r : List QLine), s.con.busy = false → s.con.queue = q :: r →
       exec .lineExecute s = .next (State.execText { s with con := { s.con with queue := r } } q.ctx q.text)) ∧
     ((s.con.busy = true ∨ s.con.queue = []) → exec .lineExecute s = .next s) ∧
     (∀ c : Byte, exec (.uartCharacter c) s = .next (s.rxChar c)) ∧
     (∃ t : State, exec .uartOverrun s = .next t ∧ t.con.uart.buf = [] ∧ t.con.uart.overrun = true ∧ t.trb 44 = true) ∧
     (∃ t : State, exec .partialLineTimeout s = .next t ∧ t.con.uart.buf = [] ∧ t.con.queue = s.con.queue) ∧
     (∀ p : Path, exec (.keepAlive p) s = .next ((s.con.open_.filter fun (c : LineCtx) => c.path == p).foldl (fun (t : State) (c : LineCtx) =>
       State.sendLines { t with con := { t.con with keepAlives := t.con.keepAlives ++ [c] } } c [frameLine c.tag (asc ".. busy")]) s))) ∧
  (∀ (s : State), s.consoleOn = false →
     exec .lineExecute s = .next s ∧ (∀ c : Byte, exec (.uartCharacter c) s = .next s) ∧ exec .uartOverrun s = .next s ∧
     exec .partialLineTimeout s = .next s ∧ ∀ p : Path, exec (.keepAlive p) s = .next s) ∧
  (∀ (s : State),
     (∀ (p : Port) (f : FrameHdr) (line : List Byte), s.receives p f = true → let t : State := s.received p f 4
       (f.dst.val = t.index → exec (.console p f line) s = .next (t.consoleFrame f line)) ∧
       (f.dst.val ≠ t.index → exec (.console p f line) s = .next (t.consoleOn_ p f line))) ∧
     (∀ (p : Port) (f : FrameHdr) (line : List Byte), (s.teth.get p).live = false → exec (.console p f line) s = .next s) ∧
     (∀ (tag : BitVec 16) (r : Routed), (s.con.routed.find? fun (r : Routed) => r.tag == tag) = some r → exec (.routedLineTimeout tag) s =
       .next (State.reply { s with con := { s.con with routed := s.con.routed.filter fun (x : Routed) => x.tag != tag } } r.ctx [] (err .timeout []))) ∧
     (∀ tag : BitVec 16, (s.con.routed.find? fun (r : Routed) => r.tag == tag) = none → exec (.routedLineTimeout tag) s = .next s) ∧
     (∀ (h : Hdr) (len : Nat) (line : List Byte), s.takes h (.consoleSend h len line) = true →
       let t : State := s.taken h (.consoleSend h len line)
       (1 ≤ len → len ≤ 250 → exec (.consoleSend h len line) s =
         .next ((t.accept ⟨.tunnel, none, dev t.index, 0⟩ (taken ((line ++ List.replicate len 0).take len))).good h)) ∧
       ((len < 1 ∨ 250 < len) → exec (.consoleSend h len line) s = .next (t.done h .invalidField))) ∧
     (∀ (h : Hdr) (n : Nat), s.takes h (.consoleReceive h n) = true → let t : State := s.taken h (.consoleReceive h n)
       (1023 < n → exec (.consoleReceive h n) s = .next (t.done h .invalidField)) ∧
       (n ≤ 1023 → t.con.tunnelLost = false → let out : List (List Byte) := fitLines (4 * (n + 1)) t.con.tunnel
         let rest : List (List Byte) := t.con.tunnel.drop out.length
         let bytes : List Nat := out.flatten.map fun (b : Byte) => b.toNat
         exec (.consoleReceive h n) s = .next (State.done { t with con := { t.con with tunnel := rest } } h .success
           (bytes.length + if rest.isEmpty then 0 else 2 ^ 31) (.bytes ((bytes ++ List.replicate (4 * (n + 1)) 0).take (4 * (n + 1)))))) ∧
       (n ≤ 1023 → t.con.tunnelLost = true → ∃ u : State, exec (.consoleReceive h n) s = .next u ∧
         (1 ≤ n → u.con.tunnelLost = false))))

/-- Editing on the UART: a printable character of a line that is not too long joins it; CR ends it; BS takes the last character back. -/
def Obligations.UartEditing : Prop :=
  ∀ (s : State), s.consoleOn = true → s.con.uart.overrun = false → s.con.uart.long = false → s.settings.conEcho = false →
    (∀ c : Byte, 32 ≤ c.toNat → c.toNat ≤ 126 → s.con.uart.buf.length < 250 →
      ∃ t : State, exec (.uartCharacter c) s = .next t ∧ t.con.uart.buf = s.con.uart.buf ++ [c] ∧ t.con.tx = s.con.tx) ∧
    (s.con.uart.machine = false → ∃ t : State, exec (.uartCharacter 8) s = .next t ∧ t.con.uart.buf = s.con.uart.buf.dropLast ∧ t.con.queue = s.con.queue)

/-- Frames of whole families. A row of one gallery leaves every other gallery, every register, the Keeper and the rest of the device as they were; a
command or row of Front's own changes nothing outside Front, whether it succeeds or fails; a command sequence of the boot store changes nothing but
the boot store; a return to array reads, which starts a request that waited, BST_CM_CMD beside it, and a swap commit BST_ERR_CNT. -/
def Obligations.UnitFrames : Prop :=
  ∀ (s t : State) (i : Instr), exec i s = .next t →
    (∀ g : Fin 8, i.oneGallery = some g → { t with gals := s.gals } = s ∧ ∀ h : Fin 8, h ≠ g → t.gals.get h = s.gals.get h) ∧
    (i.frontOnly = true → { t with front := s.front } = s) ∧
    (i.storeOnly = true → { t with bst := s.bst } = s) ∧
    (i = .bstArrayRead → { t with bst := s.bst, regs := s.regs } = s ∧ ∀ r : Reg, r ≠ .bstCmCmd → t.reg r = s.reg r) ∧
    (∀ slot : Nat, i = .bstSwapCommit slot .privileged → { t with bst := s.bst, regs := s.regs } = s ∧ ∀ r : Reg, r ≠ .bstErrCnt → t.reg r = s.reg r)

/-- Frames of single rows: an acknowledgement or a HELLO that a timer sends changes the Tether alone; a stop of a DMA channel that channel alone;
the debug port's status request the port alone; a partial line's end the console alone; the checkpoint timer the Map engine alone; a rail or a pin
its own state alone; and a PLL's lock, a cleared cause or a cleared suspect bit one register. -/
def Obligations.RowFrames : Prop :=
  ∀ (s t : State) (i : Instr), exec i s = .next t →
    (∀ p : Port, i = .idleAckTimer p ∨ i = .mismatchHelloTimer p → { t with teth := s.teth } = s) ∧
    (∀ n : Fin 8, i = .dmaStop n → { t with dma := s.dma } = s ∧ ∀ m : Fin 8, m ≠ n → t.dma.get m = s.dma.get m) ∧
    (i = .lanternStatus → { t with lan := s.lan } = s) ∧ (i = .partialLineTimeout → { t with con := s.con } = s) ∧
    (i = .checkpointTimer → { t with map := s.map } = s) ∧
    (i = .lastRailGood ∨ i = .perstDeasserted ∨ i = .rstNHigh → { t with sys := s.sys } = s) ∧
    (i = .rootPllLock → { t with regs := s.regs } = s ∧ ∀ r : Reg, r ≠ .sysClk → t.reg r = s.reg r) ∧
    (∀ mask : Word, i = .sysCauseClear mask → { t with regs := s.regs } = s ∧ ∀ r : Reg, r ≠ .sysCause → t.reg r = s.reg r) ∧
    (∀ (g : Fin 8) (m : BitVec 16), i = .galSuspectClear g m → { t with regs := s.regs } = s ∧ ∀ r : Reg, r ≠ .galSuspect g → t.reg r = s.reg r)

/-- The balls of a gallery that its isolation cells hold (R51): every CE_N high and WP_N low, so that no die is selected, programmed or erased; DQ and
DQS_T pulled weakly low and DQS_C weakly high; RE_T and WE_N high, RE_C, ALE and CLE low; RB_N pulled up and no current in ZQ. A reset of the device,
a profile not installed and a gallery half without power each hold them, and the machine right after reset holds those of every gallery. -/
def Obligations.BallsHeld : Prop :=
  (∀ (s : State) (g n : Fin 8), s.galHeld g = true →
    s.ball (.ce g n) = .driven true ∧ s.ball (.wp g) = .driven false ∧ s.ball (.dq g n) = .pulled false ∧ s.ball (.dqsT g) = .pulled false ∧
    s.ball (.dqsC g) = .pulled true ∧ s.ball (.reT g) = .driven true ∧ s.ball (.reC g) = .driven false ∧ s.ball (.we g) = .driven true ∧
    s.ball (.ale g) = .driven false ∧ s.ball (.cle g) = .driven false ∧ s.ball (.rb g) = .pulled true ∧ s.ball (.zq g) = .idle) ∧
  (∀ (s : State) (g : Fin 8), s.inReset = true ∨ (s.gals.get g).profile = none ∨ s.sys.doms.getLsbD (5 + g.val / 4) = false → s.galHeld g = true) ∧
  (∀ g : Fin 8, State.reset.galHeld g = true)
end

