-- ==== Sys2Proof/Laws/Store.lean ====
section
/-! SUPPORT. Laws of sparse stores: reading after writing, and the canonical form kept by every operation. -/

namespace Sys2Proof

variable {α : Type} [DecidableEq α] {d : Nat → α}

/-- The canonical form of a store with a first entry. -/
theorem Store.wf_cons (a : Nat) (v : α) (r : Store α) :
    Store.wf d ((a, v) :: r) = true ↔ v ≠ d a ∧ (∀ p ∈ r, a < p.1) ∧ Store.wf d r = true := by
  simp [Store.wf, and_assoc]

/-- The keys of a store after an entry is put in. -/
theorem Store.mem_ins {m : Store α} {k : Nat} {v : α} {p : Nat × α} (h : p ∈ m.ins k v) : p = (k, v) ∨ p ∈ m := by
  induction m with
  | nil => simpa [Store.ins] using h
  | cons e r ih =>
    obtain ⟨a, w⟩ := e
    simp only [Store.ins] at h
    split at h
    · simpa using h
    · split at h
      · rcases List.mem_cons.1 h with h | h
        · exact .inl h
        · exact .inr (List.mem_cons_of_mem _ h)
      · rcases List.mem_cons.1 h with h | h
        · exact .inr (by simp [h])
        · rcases ih h with h | h
          · exact .inl h
          · exact .inr (List.mem_cons_of_mem _ h)

/-- Putting an entry in keeps the canonical form where the value is not what its key reads as unlisted. -/
theorem Store.wf_ins {m : Store α} {k : Nat} {v : α} (h : m.wf d = true) (hv : v ≠ d k) : (m.ins k v).wf d = true := by
  induction m with
  | nil => simp [Store.ins, Store.wf, hv]
  | cons e r ih =>
    obtain ⟨a, w⟩ := e
    rw [Store.wf_cons] at h
    simp only [Store.ins]
    split
    · rename_i hk
      rw [Store.wf_cons, Store.wf_cons]
      refine ⟨hv, ?_, h⟩
      intro p hp
      rcases List.mem_cons.1 hp with rfl | hp
      · exact hk
      · exact hk.trans (h.2.1 p hp)
    · split
      · subst k; rw [Store.wf_cons]; exact ⟨hv, h.2⟩
      · rename_i h1 h2
        rw [Store.wf_cons]
        refine ⟨h.1, ?_, ih h.2.2⟩
        intro p hp
        rcases Store.mem_ins hp with rfl | hp
        · omega
        · exact h.2.1 p hp

/-- Leaving entries out keeps the canonical form. -/
theorem Store.wf_filter {m : Store α} (p : Nat × α → Bool) (h : m.wf d = true) : Store.wf d (List.filter p m) = true := by
  induction m with
  | nil => simp [Store.wf]
  | cons e r ih =>
    obtain ⟨a, w⟩ := e
    rw [Store.wf_cons] at h
    rw [List.filter_cons]
    split
    · rw [Store.wf_cons]; exact ⟨h.1, fun q hq => h.2.1 q (List.mem_of_mem_filter hq), ih h.2.2⟩
    · exact ih h.2.2

theorem Store.wf_del {m : Store α} (k : Nat) (h : m.wf d = true) : (m.del k).wf d = true := Store.wf_filter _ h

theorem Store.wf_drop {m : Store α} (p : Nat → Bool) (h : m.wf d = true) : (m.drop p).wf d = true := Store.wf_filter _ h

/-- A write keeps the canonical form. -/
theorem Store.wf_set {m : Store α} (k : Nat) (v : α) (h : m.wf d = true) : (m.set d k v).wf d = true := by
  unfold Store.set
  split
  · exact Store.wf_del k h
  · exact Store.wf_ins h ‹_›

/-- The canonical form rests on what the listed keys read as unlisted, and on no other key. -/
theorem Store.wf_congr {m : Store α} {e : Nat → α} (h : m.wf d = true) (he : ∀ p ∈ m, e p.1 = d p.1) : m.wf e = true := by
  induction m with
  | nil => simp [Store.wf]
  | cons x r ih =>
    obtain ⟨a, v⟩ := x
    rw [Store.wf_cons] at h ⊢
    refine ⟨?_, h.2.1, ih h.2.2 fun p hp => he p (List.mem_cons_of_mem _ hp)⟩
    rw [he (a, v) (by simp)]; exact h.1

/-- Reading after an entry is put in. -/
theorem Store.get_ins (m : Store α) (k j : Nat) (v : α) :
    Store.get d (m.ins k v) j = if j = k then v else m.get d j := by
  induction m with
  | nil => simp [Store.ins, Store.get, eq_comm]
  | cons e r ih =>
    obtain ⟨a, w⟩ := e
    simp only [Store.ins]
    split
    · rename_i h; simp only [Store.get]
      by_cases hk : k = j
      · subst hk; simp
      · simp [hk, Ne.symm hk]
    · split
      · rename_i h; subst h; simp only [Store.get]
        by_cases hj : k = j
        · subst hj; simp
        · simp [hj, Ne.symm hj]
      · rename_i h1 h2
        simp only [Store.get, ih]
        by_cases hj : a = j
        · subst hj; simp [Ne.symm h2]
        · simp [hj]

/-- A key below every listed one reads as unlisted. -/
theorem Store.get_below {m : Store α} {j : Nat} (h : ∀ p ∈ m, j < p.1) : Store.get d m j = d j := by
  induction m with
  | nil => rfl
  | cons e r ih =>
    obtain ⟨a, w⟩ := e
    have ha : j < a := h (a, w) (by simp)
    have hne : a ≠ j := by omega
    simp only [Store.get, hne, if_false]
    exact ih fun p hp => h p (List.mem_cons_of_mem _ hp)

/-- Reading after entries are left out. -/
theorem Store.get_drop {m : Store α} (p : Nat → Bool) (j : Nat) (h : m.wf d = true) :
    Store.get d (m.drop p) j = if p j then d j else m.get d j := by
  induction m with
  | nil => simp [Store.drop, Store.get]
  | cons e r ih =>
    obtain ⟨a, w⟩ := e
    rw [Store.wf_cons] at h
    have ih := ih h.2.2
    unfold Store.drop at ih ⊢
    rw [List.filter_cons]
    by_cases hj : a = j
    · subst hj
      by_cases hp : p a
      · simp only [hp, Bool.not_true, Bool.false_eq_true, if_false, if_true] at ih ⊢; exact ih
      · simp [hp, Store.get]
    · by_cases hp : p a
      · simp only [hp, Bool.not_true, Bool.false_eq_true, if_false, Store.get, hj]; exact ih
      · simp only [hp, Bool.not_false, if_true, Store.get, hj, if_false]; exact ih

/-- Reading after an entry is dropped. -/
theorem Store.get_del {m : Store α} (k j : Nat) (h : m.wf d = true) :
    Store.get d (m.del k) j = if j = k then d j else m.get d j := by
  have := Store.get_drop (fun x => x == k) j h
  simpa [Store.drop, Store.del, bne] using this

/-- Reading after a write. -/
theorem Store.get_set {m : Store α} (k j : Nat) (v : α) (h : m.wf d = true) :
    Store.get d (m.set d k v) j = if j = k then v else m.get d j := by
  unfold Store.set
  split
  · rename_i hv; rw [Store.get_del k j h]; split
    · rename_i hj; subst hj; exact hv.symm
    · rfl
  · exact Store.get_ins m k j v

/-- The value just written. -/
theorem Store.get_set_same {m : Store α} (k : Nat) (v : α) (h : m.wf d = true) : Store.get d (m.set d k v) k = v := by
  simp [Store.get_set k k v h]

/-- Another key reads as before. -/
theorem Store.get_set_ne {m : Store α} {k j : Nat} (v : α) (h : m.wf d = true) (hj : j ≠ k) :
    Store.get d (m.set d k v) j = m.get d j := by
  simp [Store.get_set k j v h, hj]

/-! ## Stores that list what they must, in rising order -/

/-- An entry put in its place leaves the keys rising. -/
theorem Store.rising_ins {m : Store α} {k : Nat} {v : α} (h : m.Pairwise fun a b => a.1 < b.1) :
    (m.ins k v).Pairwise fun a b => a.1 < b.1 := by
  induction m with
  | nil => simp [Store.ins]
  | cons e r ih =>
    obtain ⟨a, w⟩ := e
    rw [List.pairwise_cons] at h
    unfold Store.ins
    split
    · rename_i hk
      refine List.pairwise_cons.2 ⟨fun p hp => ?_, List.pairwise_cons.2 h⟩
      rcases List.mem_cons.1 hp with rfl | hp
      · exact hk
      · exact Nat.lt_trans hk (h.1 p hp)
    · split
      · rename_i hk
        subst hk
        exact List.pairwise_cons.2 h
      · rename_i h1 h2
        refine List.pairwise_cons.2 ⟨fun p hp => ?_, ih h.2⟩
        rcases Store.mem_ins hp with rfl | hp
        · exact Nat.lt_of_le_of_ne (Nat.le_of_not_lt h1) (Ne.symm h2)
        · exact h.1 p hp

theorem Store.rising_filter {m : Store α} (p : Nat × α → Bool) (h : m.Pairwise fun a b => a.1 < b.1) :
    (List.filter p m).Pairwise fun a b => a.1 < b.1 := List.Pairwise.filter p h

end Sys2Proof
end

