-- ==== Sys2Proof/Laws/Bits.lean ====
section
/-! SUPPORT. Laws of fields of words, of vectors and of sparse stores that hold for any store. -/

namespace Sys2Proof.Machine

/-- A bit of a field. -/
theorem testBit_fld (w : Word) (lo n i : Nat) : (fld w lo n).testBit i = (decide (i < n) && w.getLsbD (lo + i)) := by
  simp [fld, Nat.testBit_mod_two_pow, Nat.testBit_shiftRight, BitVec.testBit_toNat]

/-- A bit of a word after a field was set. -/
theorem getLsbD_setFld (w : Word) (lo n v i : Nat) (hi : i < 32) :
    (setFld w lo n v).getLsbD i = if lo ≤ i ∧ i < lo + n then v.testBit (i - lo) else w.getLsbD i := by
  simp only [setFld, fldMask, BitVec.getLsbD_or, BitVec.getLsbD_and, BitVec.getLsbD_not, BitVec.getLsbD_ofNat, hi, decide_true, Bool.true_and,
    Nat.testBit_shiftLeft, Nat.testBit_two_pow_sub_one, Nat.testBit_mod_two_pow]
  by_cases h1 : lo ≤ i <;> by_cases h2 : i < lo + n
  · have : i - lo < n := by omega
    simp [h1, h2, this]
  · have : ¬ i - lo < n := by omega
    simp [h1, h2, this]
  · simp [h1]
  · simp [h1]

/-- A field just set. -/
theorem fld_setFld (w : Word) (lo n v : Nat) (h : lo + n ≤ 32) : fld (setFld w lo n v) lo n = v % 2 ^ n := by
  apply Nat.eq_of_testBit_eq; intro i
  rw [testBit_fld, Nat.testBit_mod_two_pow]
  by_cases hi : i < n
  · rw [getLsbD_setFld _ _ _ _ _ (by omega), if_pos (by omega)]; simp [hi]
  · simp [hi]

/-- A field apart from the one set. -/
theorem fld_setFld_ne (w : Word) (lo n v lo' n' : Nat) (h : lo' + n' ≤ 32) (hd : lo' + n' ≤ lo ∨ lo + n ≤ lo') :
    fld (setFld w lo n v) lo' n' = fld w lo' n' := by
  apply Nat.eq_of_testBit_eq; intro i
  rw [testBit_fld, testBit_fld]
  by_cases hi : i < n'
  · rw [getLsbD_setFld _ _ _ _ _ (by omega), if_neg (by omega)]
  · simp [hi]

/-- A field of a number. -/
theorem fld_ofNat (x lo n : Nat) (h : lo + n ≤ 32) : fld (BitVec.ofNat 32 x) lo n = x / 2 ^ lo % 2 ^ n := by
  apply Nat.eq_of_testBit_eq; intro i
  rw [testBit_fld, Nat.testBit_mod_two_pow, Nat.testBit_div_two_pow]
  by_cases hi : i < n
  · have : lo + i < 32 := by omega
    rw [BitVec.getLsbD_ofNat, Nat.add_comm i lo]; simp [hi, this]
  · simp [hi]

/-- A field is below its power of two. -/
theorem fld_lt (w : Word) (lo n : Nat) : fld w lo n < 2 ^ n := Nat.mod_lt _ (Nat.pow_pos (by decide))

/-- A saturating sum stays in its width. -/
theorem satAdd_lt (n a k : Nat) : satAdd n a k < 2 ^ n := by
  have : 0 < 2 ^ n := Nat.pow_pos (by decide)
  unfold satAdd; omega

/-- A vector after one place was set. -/
theorem get_setAt {α : Type} {n : Nat} (v : Vector α n) (i j : Fin n) (x : α) : (setAt v i x).get j = if j = i then x else v.get j := by
  unfold setAt
  simp only [Vector.get_eq_getElem, Vector.getElem_set]
  by_cases h : i = j
  · subst h; simp
  · have : i.val ≠ j.val := fun e => h (Fin.ext e)
    simp [this, Ne.symm h]

/-- Reading after an entry is dropped, whatever the store. -/
theorem store_get_del_any {α : Type} [DecidableEq α] {d : Nat → α} (m : Store α) (k j : Nat) : Store.get d (m.del k) j = if j = k then d j else m.get d j := by
  induction m with
  | nil => simp [Store.del, Store.get]
  | cons e r ih =>
    obtain ⟨a, w⟩ := e
    unfold Store.del at ih ⊢
    rw [List.filter_cons]
    by_cases h : a = k
    · subst h
      simp only [bne_self_eq_false, Bool.false_eq_true, if_false, ih, Store.get]
      by_cases hj : a = j <;> simp [hj]
    · simp only [bne_iff_ne, ne_eq, h, not_false_eq_true, if_true, Store.get, ih]
      by_cases hj : a = j
      · subst hj; simp [h]
      · simp [hj]

/-- Reading after a write, whatever the store. -/
theorem store_get_set_any {α : Type} [DecidableEq α] {d : Nat → α} (m : Store α) (k j : Nat) (v : α) :
    Store.get d (m.set d k v) j = if j = k then v else m.get d j := by
  unfold Store.set
  split
  · rename_i hv; rw [store_get_del_any]; split
    · rename_i hj; subst hj; exact hv.symm
    · rfl
  · exact Store.get_ins m k j v

/-- An entry just put in is found. -/
theorem store_find_ins {α : Type} (m : Store α) (k : Nat) (v : α) : Store.find (m.ins k v) k = some v := by
  induction m with
  | nil => simp [Store.ins, Store.find]
  | cons e r ih =>
    obtain ⟨a, w⟩ := e
    unfold Store.ins; split
    · simp [Store.find]
    · split
      · simp [Store.find]
      · rename_i h1 h2
        unfold Store.find at ih ⊢
        have : (a == k) = false := by simp; omega
        simpa [List.find?_cons, this] using ih

end Sys2Proof.Machine
end

