-- ==== Sys2Proof/Laws/Effects.lean ====
section
/-! SUPPORT. What shared operations of Front and of the fabric keep, once for each. -/

namespace Sys2Proof.Machine

/-- What every step of a fold keeps, the fold keeps. -/
theorem foldl_keeps {β α : Type} (F : State → α) (l : List β) (f : State → β → State) (hf : ∀ t g, F (f t g) = F t) (t : State) : F (l.foldl f t) = F t := by
  induction l generalizing t with
  | nil => rfl
  | cons x l ih => rw [List.foldl_cons, ih, hf]

/-- An LTR message leaves this alone. -/
theorem Front.ltrTick_ctxs (f : Front) : f.ltrTick.ctxs = f.ctxs := by
  unfold Front.ltrTick Front.ltrBack Front.ltrSend; repeat' split
  all_goals rfl

/-- An LTR message leaves this alone. -/
theorem Front.ltrTick_sqs (f : Front) : f.ltrTick.sqs = f.sqs := by
  unfold Front.ltrTick Front.ltrBack Front.ltrSend; repeat' split
  all_goals rfl

/-- An LTR message leaves this alone. -/
theorem Front.ltrTick_cqs (f : Front) : f.ltrTick.cqs = f.cqs := by
  unfold Front.ltrTick Front.ltrBack Front.ltrSend; repeat' split
  all_goals rfl

/-- An LTR message leaves this alone. -/
theorem Front.ltrTick_posted (f : Front) : f.ltrTick.posted = f.posted := by
  unfold Front.ltrTick Front.ltrBack Front.ltrSend; repeat' split
  all_goals rfl

/-- An LTR message leaves this alone. -/
theorem Front.ltrTick_cqWait (f : Front) : f.ltrTick.cqWait = f.cqWait := by
  unfold Front.ltrTick Front.ltrBack Front.ltrSend; repeat' split
  all_goals rfl

/-- An LTR message leaves this alone. -/
theorem Front.ltrTick_aborts (f : Front) : f.ltrTick.aborts = f.aborts := by
  unfold Front.ltrTick Front.ltrBack Front.ltrSend; repeat' split
  all_goals rfl

/-- An LTR message leaves this alone. -/
theorem Front.ltrTick_aers (f : Front) : f.ltrTick.aers = f.aers := by
  unfold Front.ltrTick Front.ltrBack Front.ltrSend; repeat' split
  all_goals rfl

/-- An interrupt is a pending bit, a message or the level of INTx: it leaves all else of Front alone. -/
theorem Front.fire_keeps (f : Front) (cq iv : Nat) : (f.fire cq iv).posted = f.posted ∧ (f.fire cq iv).cqWait = f.cqWait ∧ (f.fire cq iv).ctxs = f.ctxs ∧ (f.fire cq iv).aborts = f.aborts ∧ (f.fire cq iv).aers = f.aers := by
  unfold Front.fire; dsimp only; repeat' split
  all_goals exact ⟨rfl, rfl, rfl, rfl, rfl⟩

/-- Signalling a completion queue leaves completions, contexts, aborts and event requests alone. -/
theorem Front.signal_keeps (f : Front) (cq iv : Nat) : (f.signal cq iv).posted = f.posted ∧ (f.signal cq iv).cqWait = f.cqWait ∧ (f.signal cq iv).ctxs = f.ctxs ∧ (f.signal cq iv).aborts = f.aborts ∧ (f.signal cq iv).aers = f.aers := by
  unfold Front.signal; dsimp only; repeat' split
  · exact Front.fire_keeps _ _ _
  · exact Front.fire_keeps _ _ _
  · exact ⟨rfl, rfl, rfl, rfl, rfl⟩

/-- Posting a completion leaves contexts and aborts alone. -/
theorem Front.post_keeps (f : Front) (c : Completion) : (f.post c).ctxs = f.ctxs ∧ (f.post c).aborts = f.aborts := by
  unfold Front.post; repeat' split
  all_goals first | exact ⟨rfl, rfl⟩ | exact ⟨(Front.signal_keeps _ _ _).2.2.1, (Front.signal_keeps _ _ _).2.2.2.1⟩

/-- An error log entry leaves all else alone. -/
theorem Front.logError_keeps (f : Front) (c : Completion) (a b : Nat) : (f.logError c a b).ctxs = f.ctxs ∧ (f.logError c a b).aborts = f.aborts ∧ (f.logError c a b).posted = f.posted ∧ (f.logError c a b).cqWait = f.cqWait ∧ (f.logError c a b).sqs = f.sqs ∧ (f.logError c a b).cqs = f.cqs := by
  unfold Front.logError; split <;> exact ⟨rfl, rfl, rfl, rfl, rfl, rfl⟩

/-- An access that is allowed and finds a register writes it. -/
theorem State.issue_register {s : State} {cls : Cls} {a v : Nat} {r : Reg} (hc : s.canIssue cls = true) (hv : s.verdict cls true a = none)
    (hp : s.place a 4 = .reg (some r)) (hr : ∀ g, r ≠ .galWptLoad g) : s.issue cls a 4 v = (s.regWrite cls r (BitVec.ofNat 32 v)).dmaKick := by
  have hq : (Place.reg (some r)).privilegedOnly = false := by cases r <;> first | rfl | exact absurd rfl (hr _)
  simp [State.issue, hc, State.busWrite, hv, State.decodeWrite, hp, hq]

end Sys2Proof.Machine
end

