-- ==== Sys2Proof/Laws/Kept.lean ====
section
/-! SUPPORT. What no operation on a state may break: the queue of commands, and the sound form of State.wf.  The lemmas here are the ways a
state is built from another; one lemma for each operation follows, file by file. -/

namespace Sys2Proof.Machine

/-- The commands that wait are `q`, and the state is sound. -/
def Kept (q : List Instr) (s : State) : Prop := s.pending = q ∧ s.wf = true

/-- A console that is as sound as its queues. -/
theorem Console.wf_iff (c : Console) : c.wf = true ↔ c.uart.buf.length ≤ 250 ∧ (c.tunnel.map List.length).sum ≤ 16384 ∧
    ∀ p : Path, (c.queue.countP fun q => q.ctx.path == p) ≤ 4 := by
  constructor
  · intro h
    simp only [Console.wf, Bool.and_eq_true, decide_eq_true_eq, List.all_cons, List.all_nil] at h
    refine ⟨h.1.1, h.1.2, fun p => ?_⟩
    cases p
    · exact h.2.1
    · exact h.2.2.1
    · exact h.2.2.2.1
  · intro h
    simp only [Console.wf, Bool.and_eq_true, decide_eq_true_eq, List.all_cons, List.all_nil]
    exact ⟨⟨h.1, h.2.1⟩, h.2.2 .uart, h.2.2 .tunnel, h.2.2 .tether, trivial⟩

theorem kept_iff (q : List Instr) (s : State) : Kept q s ↔ s.pending = q ∧ Store.wf regDefault s.regs = true ∧ s.kpr.wf = true ∧ s.bst.wf = true ∧ s.con.wf = true := by
  simp only [Kept, State.wf, Memory.wf, Bool.and_eq_true, and_assoc]

section
variable {q : List Instr} {s : State}

theorem Kept.pending (h : Kept q s) : s.pending = q := h.1
theorem Kept.regs (h : Kept q s) : Store.wf regDefault s.regs = true := ((kept_iff q s).1 h).2.1
theorem Kept.kpr (h : Kept q s) : s.kpr.wf = true := ((kept_iff q s).1 h).2.2.1
theorem Kept.bst (h : Kept q s) : s.bst.wf = true := ((kept_iff q s).1 h).2.2.2.1
theorem Kept.con (h : Kept q s) : s.con.wf = true := ((kept_iff q s).1 h).2.2.2.2

end

/-! ## A state written out

`split` and the lemmas of the operations work on a state's head; a state written out field by field is first turned into these forms. -/

/-- A state with these parts is kept. -/
def KeptMk (q p : List Instr) (r : Store Word) (k : Keeper) (b : BootStore) (c : Console) : Prop :=
  p = q ∧ Store.wf regDefault r = true ∧ k.wf = true ∧ b.wf = true ∧ c.wf = true

theorem kept_mk {q pending sys regs front con settings bst gals cdc map media assay gov teth kpr dma mpu lan vault free} :
    Kept q (State.mk pending sys regs front con settings bst gals cdc map media assay gov teth kpr dma mpu lan vault free) =
      KeptMk q pending regs kpr bst con := propext (kept_iff q _)

section
variable {q : List Instr} {s : State} {r : Store Word} {k : Keeper} {b : BootStore} {c : Console}

theorem KeptMk.same (h : Kept q s) : KeptMk q s.pending s.regs s.kpr s.bst s.con := (kept_iff q s).1 h

theorem KeptMk.setCon (h : Kept q s) (hc : c.wf = true) : KeptMk q s.pending s.regs s.kpr s.bst c := ⟨h.pending, h.regs, h.kpr, h.bst, hc⟩

theorem KeptMk.setBst (h : Kept q s) (hb : b.wf = true) : KeptMk q s.pending s.regs s.kpr b s.con := ⟨h.pending, h.regs, h.kpr, hb, h.con⟩

theorem KeptMk.setKpr (h : Kept q s) (hk : k.wf = true) : KeptMk q s.pending s.regs k s.bst s.con := ⟨h.pending, h.regs, hk, h.bst, h.con⟩

theorem KeptMk.setRegs (h : Kept q s) (hr : Store.wf regDefault r = true) : KeptMk q s.pending r s.kpr s.bst s.con :=
  ⟨h.pending, hr, h.kpr, h.bst, h.con⟩

theorem KeptMk.setAll {p : List Instr} (hp : p = q) (hr : Store.wf regDefault r = true) (hk : k.wf = true) (hb : b.wf = true) (hc : c.wf = true) :
    KeptMk q p r k b c := ⟨hp, hr, hk, hb, hc⟩

theorem Kept.ite {c : Prop} [Decidable c] {a b : State} (ha : Kept q a) (hb : Kept q b) : Kept q (if c then a else b) := by split <;> assumption

theorem Kept.foldl {β : Type} {f : State → β → State} {l : List β} (h : Kept q s) (hf : ∀ t x, Kept q t → Kept q (f t x)) : Kept q (l.foldl f s) := by
  induction l generalizing s with
  | nil => exact h
  | cons x r ih => exact ih (hf s x h)

/-- A fold that carries a state beside something else. -/
theorem Kept.foldl_snd {β γ : Type} {f : γ × State → β → γ × State} {l : List β} {p : γ × State} (h : Kept q p.2)
    (hf : ∀ t x, Kept q t.2 → Kept q (f t x).2) : Kept q (l.foldl f p).2 := by
  induction l generalizing p with
  | nil => exact h
  | cons x r ih => exact ih (hf p x h)

theorem Kept.foldl_fst {β γ : Type} {f : State × γ → β → State × γ} {l : List β} {p : State × γ} (h : Kept q p.1)
    (hf : ∀ t x, Kept q t.1 → Kept q (f t x).1) : Kept q (l.foldl f p).1 := by
  induction l generalizing p with
  | nil => exact h
  | cons x r ih => exact ih (hf p x h)

theorem Kept.id (h : Kept q s) : Kept q (id s) := h

/-- No state, or a kept one. -/
def KeptO (q : List Instr) (o : Option State) : Prop := ∀ t, o = some t → Kept q t

theorem KeptO.none : KeptO q none := fun _ e => nomatch e

theorem KeptO.some (h : Kept q s) : KeptO q (some s) := fun t e => by cases e; exact h

theorem Kept.getD {o : Option State} (h : Kept q s) (ho : KeptO q o) : Kept q (o.getD s) := by
  cases o
  · exact h
  · exact ho _ rfl

/-- Nothing, or a kept state after two other results. -/
def KeptO3 {β γ : Type} (q : List Instr) (o : Option (β × γ × State)) : Prop := ∀ x, o = some x → Kept q x.2.2

theorem KeptO3.none {β γ : Type} : KeptO3 q (none : Option (β × γ × State)) := fun _ e => nomatch e

theorem KeptO3.some {β γ : Type} {b : β} {c : γ} (h : Kept q s) : KeptO3 q (some (b, c, s)) := fun t e => by cases e; exact h

/-- The outcome is no state, or a kept one. -/
def KeptOut (q : List Instr) (o : Host.Outcome State Fault Refusal) : Prop := ∀ t, o = .next t → Kept q t

theorem Kept.next (h : Kept q s) : KeptOut q (.next s) := fun t e => by cases e; exact h

end

/-! ## Parts written out -/

/-- An emptied line buffer. -/
theorem nil_le : ([] : List Byte).length ≤ 250 := by decide

/-- A console with these parts is sound. -/
def ConsoleMk (buf : List Byte) (queue : List QLine) (tunnel : List (List Byte)) : Prop :=
  buf.length ≤ 250 ∧ (tunnel.map List.length).sum ≤ 16384 ∧ ∀ p : Path, (queue.countP fun q => q.ctx.path == p) ≤ 4

theorem console_mk {buf long overrun lastCr tx queue nextOrder running stopping leaving replies keepAlives tunnel tunnelLost routed nextTag} :
    (Console.wf (Console.mk (Uart.mk buf long overrun lastCr) tx queue nextOrder running stopping leaving replies keepAlives tunnel tunnelLost
      routed nextTag) = true) = ConsoleMk buf queue tunnel := propext (Console.wf_iff _)

theorem console_mk' {u tx queue nextOrder running stopping leaving replies keepAlives tunnel tunnelLost routed nextTag} :
    (Console.wf (Console.mk u tx queue nextOrder running stopping leaving replies keepAlives tunnel tunnelLost routed nextTag) = true) =
      ConsoleMk u.buf queue tunnel := propext (Console.wf_iff _)

theorem ConsoleMk.same {c : Console} (h : c.wf = true) : ConsoleMk c.uart.buf c.queue c.tunnel := (Console.wf_iff c).1 h

theorem ConsoleMk.setBuf {c : Console} {b : List Byte} (h : c.wf = true) (hb : b.length ≤ 250) : ConsoleMk b c.queue c.tunnel :=
  ⟨hb, ((Console.wf_iff c).1 h).2⟩

theorem ConsoleMk.setQueue {c : Console} {l : List QLine} (h : c.wf = true) (hl : ∀ p : Path, (l.countP fun q => q.ctx.path == p) ≤ 4) :
    ConsoleMk c.uart.buf l c.tunnel := ⟨((Console.wf_iff c).1 h).1, ((Console.wf_iff c).1 h).2.1, hl⟩

theorem ConsoleMk.setTunnel {c : Console} {l : List (List Byte)} (h : c.wf = true) (hl : (l.map List.length).sum ≤ 16384) :
    ConsoleMk c.uart.buf c.queue l := ⟨((Console.wf_iff c).1 h).1, hl, ((Console.wf_iff c).1 h).2.2⟩

/-- A boot store with these parts is sound. -/
def BootMk (bytes : Store Byte) (undef : List (Nat × Nat)) : Prop := Store.wf (BootStore.blank { undefinedSecs := undef }) bytes = true

theorem boot_mk {bytes undefinedSecs failNext op opCm suspended susCm error statusMode toggle reqs journal jNext jSector jFill settings settingsStale
    profiles swaps active fallback staged stagedTwin hSeq hFill hEntries anchors chain badTable healthRec alarmLog alarmSeq} :
    (BootStore.wf (BootStore.mk bytes undefinedSecs failNext op opCm suspended susCm error statusMode toggle reqs journal jNext jSector jFill settings
      settingsStale profiles swaps active fallback staged stagedTwin hSeq hFill hEntries anchors chain badTable healthRec alarmLog alarmSeq) =
        true) = BootMk bytes undefinedSecs := rfl

theorem BootMk.same {b : BootStore} (h : b.wf = true) : BootMk b.bytes b.undefinedSecs := h

/-- A Keeper with these parts is sound. -/
def KeeperMk (words : Store KWord) (rawScratch : Bool) : Prop := Keeper.wf { words := words, rawScratch := rawScratch } = true

theorem keeper_mk {words rawRet rawScratch rawMain epoch merge rmwBusy scrubAt} :
    (Keeper.wf (Keeper.mk words rawRet rawScratch rawMain epoch merge rmwBusy scrubAt) = true) = KeeperMk words rawScratch := rfl

theorem keeperMk_iff (words : Store KWord) (rs : Bool) : KeeperMk words rs ↔
    words.Pairwise (fun a b => a.1 < b.1) ∧ ∀ e ∈ words, kprScratch ≤ e.1 → rs = false → e.2 ≠ { data := 0 } := by
  simp only [KeeperMk, Keeper.wf, Keeper.plain, Bool.and_eq_true, decide_eq_true_eq, List.all_eq_true, Bool.and_eq_false_imp,
    Bool.not_eq_eq_eq_not, Bool.not_true, beq_eq_false_iff_ne, ne_eq, and_imp]

theorem KeeperMk.same {k : Keeper} (h : k.wf = true) : KeeperMk k.words k.rawScratch := h

end Sys2Proof.Machine
end

