-- ==== Sys2Proof/Laws/KeptOps.lean ====
section
/-! SUPPORT. The operations of Machine/Ops.lean keep the queue of commands and the sound form of the state. -/

namespace Sys2Proof.Machine

theorem State.setReg_kept {pq : List Instr} {s : State} {r : Reg} {v : Word} (hs : Kept pq s) :
    Kept pq (State.setReg s r v) := by
  unfold State.setReg
  simp only [↓kept_mk]
  exact KeptMk.setRegs hs (Store.wf_set _ _ hs.regs)

theorem State.setRf_kept {pq : List Instr} {s : State} {r : Reg} {lo : Nat} {n : Nat} {v : Nat} (hs : Kept pq s) :
    Kept pq (State.setRf s r lo n v) := by
  unfold State.setRf
  with_reducible repeat' first
    | assumption | intro _ | apply Kept.ite | apply State.setReg_kept

theorem State.bump_kept {pq : List Instr} {s : State} {r : Reg} {lo : Nat} {n : Nat} {k : Nat} (hs : Kept pq s) :
    Kept pq (State.bump s r lo n k) := by
  unfold State.bump
  with_reducible repeat' first
    | assumption | intro _ | apply Kept.ite | apply State.setRf_kept

theorem State.bumpWrap_kept {pq : List Instr} {s : State} {r : Reg} {lo : Nat} {n : Nat} {k : Nat} (hs : Kept pq s) :
    Kept pq (State.bumpWrap s r lo n k) := by
  unfold State.bumpWrap
  with_reducible repeat' first
    | assumption | intro _ | apply Kept.ite | apply State.setRf_kept

theorem State.takeFree_kept {pq : List Instr} {s : State} (hs : Kept pq s) :
    Kept pq (State.takeFree s) := by
  unfold State.takeFree
  try dsimp only
  with_reducible repeat' first
    | assumption | intro _ | apply Kept.ite | apply hs | simp -zeta only [↓kept_mk] | apply KeptMk.same

theorem State.gal_kept {pq : List Instr} {s : State} {g : Fin 8} {f : Gallery → Gallery} (hs : Kept pq s) :
    Kept pq (State.gal s g f) := by
  unfold State.gal
  try dsimp only
  with_reducible repeat' first
    | assumption | intro _ | apply Kept.ite | apply hs | simp -zeta only [↓kept_mk] | apply KeptMk.same

end Sys2Proof.Machine
end

