-- ==== Sys2Proof/Laws/KeptFlags.lean ====
section
/-! SUPPORT. The operations of Machine/Flags.lean keep the queue of commands and the sound form of the state. -/

namespace Sys2Proof.Machine

theorem State.raise_kept {pq : List Instr} {s : State} {n : Nat} (hs : Kept pq s) :
    Kept pq (State.raise s n) := by
  unfold State.raise
  try dsimp only
  with_reducible repeat' first
    | assumption | intro _ | apply Kept.ite | apply hs | simp -zeta only [↓kept_mk] | apply KeptMk.same

theorem State.raiseIf_kept {pq : List Instr} {s : State} {c : Bool} {n : Nat} (hs : Kept pq s) :
    Kept pq (State.raiseIf s c n) := by
  unfold State.raiseIf
  with_reducible repeat' first
    | assumption | intro _ | apply Kept.ite | apply State.raise_kept

theorem State.clearBits_kept {pq : List Instr} {s : State} {mask : BitVec 64} (hs : Kept pq s) :
    Kept pq (State.clearBits s mask) := by
  unfold State.clearBits
  try dsimp only
  with_reducible repeat' first
    | assumption | intro _ | apply Kept.ite | apply hs | simp -zeta only [↓kept_mk] | apply KeptMk.same

theorem State.cause_kept {pq : List Instr} {s : State} {src : Nat} (hs : Kept pq s) :
    Kept pq (State.cause s src) := by
  unfold State.cause
  with_reducible repeat' first
    | assumption | intro _ | apply Kept.ite | apply State.setReg_kept

end Sys2Proof.Machine
end

