-- ==== Sys2Proof/Laws/KeptBlocks.lean ====
section
/-! SUPPORT. The operations of Machine/Blocks.lean keep the queue of commands and the sound form of the state. -/

namespace Sys2Proof.Machine

theorem State.setBlk_kept {pq : List Instr} {s : State} {k : Nat} {f : Blk → Blk} (hs : Kept pq s) :
    Kept pq (State.setBlk s k f) := by
  unfold State.setBlk
  try dsimp only
  with_reducible repeat' first
    | assumption | intro _ | apply Kept.ite | apply hs | simp -zeta only [↓kept_mk] | apply KeptMk.same

end Sys2Proof.Machine
end

