-- ==== Sys2Proof/Laws/KeptKeeper.lean ====
section
/-! SUPPORT. The operations of Machine/Keeper.lean keep the queue of commands and the sound form of the state. -/

namespace Sys2Proof.Machine

theorem Keeper.put_kept {k : Keeper} {i : Nat} {w : KWord} (hk : k.wf = true) :
    (Keeper.put k i w).wf = true := by
  unfold Keeper.put
  simp only [↓keeper_mk]
  have h := (keeperMk_iff _ _).1 hk
  refine (keeperMk_iff _ _).2 ?_
  split
  · exact ⟨Store.rising_filter _ h.1, fun e he => h.2 e (List.mem_filter.1 he).1⟩
  · rename_i hc
    refine ⟨Store.rising_ins h.1, fun e he h1 h2 => ?_⟩
    rcases Store.mem_ins he with rfl | he
    · intro h3
      exact hc (by simp [Keeper.plain, h2] at h1 ⊢; exact ⟨h1, h3⟩)
    · exact h.2 e he h1 h2

theorem State.kprCe_kept {pq : List Instr} {s : State} {i : Nat} {src : Nat} {syn : Byte} (hs : Kept pq s) :
    Kept pq (State.kprCe s i src syn) := by
  unfold State.kprCe
  with_reducible repeat' first
    | assumption | intro _ | apply Kept.ite | apply State.setReg_kept | apply State.setRf_kept | apply State.bumpWrap_kept | apply State.raise_kept

theorem State.kprUe_kept {pq : List Instr} {s : State} {i : Nat} {scrub : Bool} {syn : Byte} (hs : Kept pq s) :
    Kept pq (State.kprUe s i scrub syn) := by
  unfold State.kprUe
  with_reducible repeat' first
    | assumption | intro _ | apply Kept.ite | apply State.setReg_kept | apply State.setRf_kept | apply State.bump_kept | apply State.raise_kept

theorem State.kprNote_kept {pq : List Instr} {s : State} {i : Nat} {src : Nat} {w : KWord} (hs : Kept pq s) :
    Kept pq (State.kprNote s i src w) := by
  unfold State.kprNote
  try dsimp only
  with_reducible repeat' first
    | assumption | intro _ | apply Kept.ite | apply State.kprCe_kept | apply State.kprUe_kept | apply State.syndrome_kept | apply hs
    | simp -zeta only [↓kept_mk, ↓console_mk, ↓console_mk', ↓boot_mk, ↓keeper_mk] | apply KeptMk.same | apply KeptMk.setCon | apply KeptMk.setBst
    | apply KeptMk.setKpr | apply KeptMk.setRegs | apply KeptMk.setAll | apply ConsoleMk.same | apply ConsoleMk.setBuf | apply BootMk.same
    | apply KeeperMk.same | apply Kept.pending | apply Kept.regs | apply Kept.bst | apply Kept.kpr | apply Kept.con | exact Nat.zero_le _
    | apply Kept.getD | exact nil_le | apply Kept.foldl_snd | apply Kept.foldl_fst | apply Kept.foldl | apply KeptO.none | apply KeptO.some
    | apply KeptO3.none | apply KeptO3.some | apply Kept.next | split

theorem State.kprStore_kept {pq : List Instr} {s : State} {i : Nat} {w : KWord} (hs : Kept pq s) :
    Kept pq (State.kprStore s i w) := by
  unfold State.kprStore
  try dsimp only
  with_reducible repeat' first
    | assumption | intro _ | apply Kept.ite | apply State.setReg_kept | apply State.raise_kept | apply Keeper.put_kept | apply hs
    | simp -zeta only [↓kept_mk] | apply KeptMk.same | apply KeptMk.setCon | apply KeptMk.setBst | apply KeptMk.setKpr | apply KeptMk.setRegs
    | apply KeptMk.setAll | apply ConsoleMk.same | apply ConsoleMk.setBuf | apply BootMk.same | apply KeeperMk.same | apply Kept.pending
    | apply Kept.regs | apply Kept.bst | apply Kept.kpr

theorem State.kprScrubStore_kept {pq : List Instr} {s : State} {i : Nat} {w : KWord} (hs : Kept pq s) :
    Kept pq (State.kprScrubStore s i w) := by
  unfold State.kprScrubStore
  try dsimp only
  with_reducible repeat' first
    | assumption | intro _ | apply Kept.ite | apply Keeper.put_kept | apply hs | simp -zeta only [↓kept_mk] | apply KeptMk.same | apply KeptMk.setCon
    | apply KeptMk.setBst | apply KeptMk.setKpr | apply KeptMk.setRegs | apply KeptMk.setAll | apply ConsoleMk.same | apply ConsoleMk.setBuf
    | apply BootMk.same | apply KeeperMk.same | apply Kept.pending | apply Kept.regs | apply Kept.bst | apply Kept.kpr

theorem State.kprRmw_kept {pq : List Instr} {s : State} {i : Nat} {new : BitVec 64} {m : Byte} (hs : Kept pq s) :
    Kept pq (State.kprRmw s i new m) := by
  unfold State.kprRmw
  try dsimp only
  with_reducible repeat' first
    | assumption | intro _ | apply Kept.ite | apply State.bump_kept | apply State.raise_kept | apply State.kprCe_kept | apply State.kprUe_kept
    | apply State.kprStore_kept | apply State.syndrome_kept | apply hs | simp -zeta only [↓kept_mk, ↓console_mk, ↓console_mk', ↓boot_mk, ↓keeper_mk]
    | apply KeptMk.same | apply KeptMk.setCon | apply KeptMk.setBst | apply KeptMk.setKpr | apply KeptMk.setRegs | apply KeptMk.setAll
    | apply ConsoleMk.same | apply ConsoleMk.setBuf | apply BootMk.same | apply KeeperMk.same | apply Kept.pending | apply Kept.regs | apply Kept.bst
    | apply Kept.kpr | apply Kept.con | exact Nat.zero_le _ | apply Kept.getD | exact nil_le | apply Kept.foldl_snd | apply Kept.foldl_fst
    | apply Kept.foldl | apply KeptO.none | apply KeptO.some | apply KeptO3.none | apply KeptO3.some | apply Kept.next | split

theorem State.kprWrite_kept {pq : List Instr} {s : State} {i : Nat} {d : BitVec 64} (hs : Kept pq s) :
    Kept pq (State.kprWrite s i d) := by
  unfold State.kprWrite
  try dsimp only
  with_reducible repeat' first
    | assumption | intro _ | apply Kept.ite | apply State.kprStore_kept | apply hs | simp -zeta only [↓kept_mk, ↓keeper_mk] | apply KeptMk.same
    | apply KeptMk.setCon | apply KeptMk.setBst | apply KeptMk.setKpr | apply KeptMk.setRegs | apply KeptMk.setAll | apply ConsoleMk.same
    | apply ConsoleMk.setBuf | apply BootMk.same | apply KeeperMk.same | apply Kept.pending | apply Kept.regs | apply Kept.bst | apply Kept.kpr

theorem State.kprDrain_kept {pq : List Instr} {s : State} {e : Merge} (hs : Kept pq s) :
    Kept pq (State.kprDrain s e) := by
  unfold State.kprDrain
  try dsimp only
  with_reducible repeat' first
    | assumption | intro _ | apply Kept.ite | apply State.kprStore_kept | apply State.kprRmw_kept | apply hs | simp -zeta only [↓kept_mk, ↓keeper_mk]
    | apply KeptMk.same | apply KeptMk.setCon | apply KeptMk.setBst | apply KeptMk.setKpr | apply KeptMk.setRegs | apply KeptMk.setAll
    | apply ConsoleMk.same | apply ConsoleMk.setBuf | apply BootMk.same | apply KeeperMk.same | apply Kept.pending | apply Kept.regs | apply Kept.bst
    | apply Kept.kpr

theorem State.kprUnitIdle_kept {pq : List Instr} {s : State} (hs : Kept pq s) :
    Kept pq (State.kprUnitIdle s) := by
  unfold State.kprUnitIdle
  try dsimp only
  with_reducible repeat' first
    | assumption | intro _ | apply Kept.ite | apply State.kprDrain_kept | apply hs | simp -zeta only [↓kept_mk, ↓keeper_mk] | apply KeptMk.same
    | apply KeptMk.setCon | apply KeptMk.setBst | apply KeptMk.setKpr | apply KeptMk.setRegs | apply KeptMk.setAll | apply ConsoleMk.same
    | apply ConsoleMk.setBuf | apply BootMk.same | apply KeeperMk.same | apply Kept.pending | apply Kept.regs | apply Kept.bst | apply Kept.kpr
    | apply Kept.con | exact Nat.zero_le _ | apply Kept.getD | exact nil_le | apply Kept.foldl_snd | apply Kept.foldl_fst | apply Kept.foldl
    | apply KeptO.none | apply KeptO.some | apply KeptO3.none | apply KeptO3.some | apply Kept.next | split

theorem State.kprSettle_kept {pq : List Instr} {s : State} (hs : Kept pq s) :
    Kept pq (State.kprSettle s) := by
  unfold State.kprSettle
  try dsimp only
  with_reducible repeat' first
    | assumption | intro _ | apply Kept.ite | apply State.kprDrain_kept | apply hs | simp -zeta only [↓kept_mk, ↓keeper_mk] | apply KeptMk.same
    | apply KeptMk.setCon | apply KeptMk.setBst | apply KeptMk.setKpr | apply KeptMk.setRegs | apply KeptMk.setAll | apply ConsoleMk.same
    | apply ConsoleMk.setBuf | apply BootMk.same | apply KeeperMk.same | apply Kept.pending | apply Kept.regs | apply Kept.bst | apply Kept.kpr
    | apply Kept.con | exact Nat.zero_le _ | apply Kept.getD | exact nil_le | apply Kept.foldl_snd | apply Kept.foldl_fst | apply Kept.foldl

theorem State.kprNarrow_kept {pq : List Instr} {s : State} {i : Nat} {new : BitVec 64} {m : Byte} (hs : Kept pq s) :
    Kept pq (State.kprNarrow s i new m) := by
  unfold State.kprNarrow
  try dsimp only
  with_reducible repeat' first
    | assumption | intro _ | apply Kept.ite | apply State.kprRmw_kept | apply State.kprDrain_kept | apply hs | simp -zeta only [↓kept_mk, ↓keeper_mk]
    | apply KeptMk.same | apply KeptMk.setCon | apply KeptMk.setBst | apply KeptMk.setKpr | apply KeptMk.setRegs | apply KeptMk.setAll
    | apply ConsoleMk.same | apply ConsoleMk.setBuf | apply BootMk.same | apply KeeperMk.same | apply Kept.pending | apply Kept.regs | apply Kept.bst
    | apply Kept.kpr | apply Kept.con | exact Nat.zero_le _ | apply Kept.getD | exact nil_le | apply Kept.foldl_snd | apply Kept.foldl_fst
    | apply Kept.foldl | apply KeptO.none | apply KeptO.some | apply KeptO3.none | apply KeptO3.some | apply Kept.next | split

theorem State.kprRead_kept {pq : List Instr} {s : State} {i : Nat} {want : Byte} (hs : Kept pq s) :
    Kept pq (State.kprRead s i want).2.2 := by
  unfold State.kprRead
  try dsimp only
  with_reducible repeat' first
    | assumption | intro _ | apply Kept.ite | apply State.kprCe_kept | apply State.kprUe_kept | apply State.kprStore_kept | apply State.kprRmw_kept
    | apply State.syndrome_kept | apply hs | simp -zeta only [↓kept_mk, ↓keeper_mk] | apply KeptMk.same | apply KeptMk.setCon | apply KeptMk.setBst
    | apply KeptMk.setKpr | apply KeptMk.setRegs | apply KeptMk.setAll | apply ConsoleMk.same | apply ConsoleMk.setBuf | apply BootMk.same
    | apply KeeperMk.same | apply Kept.pending | apply Kept.regs | apply Kept.bst | apply Kept.kpr | apply Kept.con | exact Nat.zero_le _
    | apply Kept.getD | exact nil_le | apply Kept.foldl_snd | apply Kept.foldl_fst | apply Kept.foldl | apply KeptO.none | apply KeptO.some
    | apply KeptO3.none | apply KeptO3.some | apply Kept.next | split

theorem State.kprRead_kept_of {pq : List Instr} {s : State} {i : Nat} {want : Byte} {r0 : BitVec 64} {r1 : Bool} {r2 : State} (e : (State.kprRead s i want) = (r0, r1, r2)) (hs : Kept pq s) :
    Kept pq r2 := by
  have := State.kprRead_kept (pq := pq) (s := s) (i := i) (want := want) hs
  rw [e] at this
  exact this

theorem State.kprParityWrite_kept {pq : List Instr} {s : State} {i : Nat} {new : BitVec 64} {m : Byte} (hs : Kept pq s) :
    Kept pq (State.kprParityWrite s i new m) := by
  unfold State.kprParityWrite
  dsimp only
  apply State.kprStore_kept
  apply State.raise_kept
  apply State.bump_kept
  apply State.bump_kept
  split
  · exact State.kprDrain_kept hs
  · exact hs

theorem Keeper.scramble_kept {k : Keeper} {ret : Bool} {main : Bool} {scratch : Bool} (hk : k.wf = true) :
    (Keeper.scramble k ret main scratch).wf = true := by
  unfold Keeper.scramble
  simp only [↓keeper_mk]
  have h := (keeperMk_iff _ _).1 hk
  exact (keeperMk_iff _ _).2 ⟨Store.rising_filter _ h.1,
    fun e he h1 h2 => h.2 e (List.mem_filter.1 he).1 h1 (Bool.or_eq_false_iff.1 h2).1⟩

theorem State.kprFill_kept {pq : List Instr} {s : State} {ret : Bool} {main : Bool} {scratch : Bool} (hs : Kept pq s) :
    Kept pq (State.kprFill s ret main scratch) := by
  unfold State.kprFill
  apply State.setRf_kept
  simp only [↓kept_mk]
  refine KeptMk.setKpr hs ?_
  simp only [↓keeper_mk]
  have h := (keeperMk_iff _ _).1 hs.kpr
  refine (keeperMk_iff _ _).2 ⟨Store.rising_filter _ h.1, fun e he h1 h2 => ?_⟩
  obtain ⟨hm, hd⟩ := List.mem_filter.1 he
  refine h.2 e hm h1 ?_
  have h3 : ¬ e.1 < kprRetEnd := by unfold kprRetEnd; unfold kprScratch at h1; omega
  have h4 : ¬ e.1 < kprScratch := by omega
  cases scratch
  · simpa using h2
  · simp [h3, h4] at hd

theorem State.scrubNext_kept {pq : List Instr} {s : State} (hs : Kept pq s) :
    Kept pq (State.scrubNext s) := by
  unfold State.scrubNext
  try dsimp only
  with_reducible repeat' first
    | assumption | intro _ | apply Kept.ite | apply State.bumpWrap_kept | apply hs | simp -zeta only [↓kept_mk, ↓keeper_mk] | apply KeptMk.same
    | apply KeptMk.setCon | apply KeptMk.setBst | apply KeptMk.setKpr | apply KeptMk.setRegs | apply KeptMk.setAll | apply ConsoleMk.same
    | apply ConsoleMk.setBuf | apply BootMk.same | apply KeeperMk.same | apply Kept.pending | apply Kept.regs | apply Kept.bst | apply Kept.kpr

theorem State.scrubRead_kept {pq : List Instr} {s : State} (hs : Kept pq s) :
    Kept pq (State.scrubRead s) := by
  unfold State.scrubRead
  try dsimp only
  with_reducible repeat' first
    | assumption | intro _ | apply Kept.ite | apply State.raise_kept | apply State.kprCe_kept | apply State.kprUe_kept
    | apply State.kprScrubStore_kept | apply State.scrubNext_kept | apply State.syndrome_kept | apply hs
    | simp -zeta only [↓kept_mk, ↓console_mk, ↓console_mk', ↓boot_mk, ↓keeper_mk] | apply KeptMk.same | apply KeptMk.setCon | apply KeptMk.setBst
    | apply KeptMk.setKpr | apply KeptMk.setRegs | apply KeptMk.setAll | apply ConsoleMk.same | apply ConsoleMk.setBuf | apply BootMk.same
    | apply KeeperMk.same | apply Kept.pending | apply Kept.regs | apply Kept.bst | apply Kept.kpr | apply Kept.con | exact Nat.zero_le _
    | apply Kept.getD | exact nil_le | apply Kept.foldl_snd | apply Kept.foldl_fst | apply Kept.foldl | apply KeptO.none | apply KeptO.some
    | apply KeptO3.none | apply KeptO3.some | apply Kept.next | split

theorem execScrubRead_kept {pq : List Instr} {s : State} (hs : Kept pq s) :
    KeptOut pq (execScrubRead s) := by
  unfold execScrubRead
  apply Kept.next
  with_reducible repeat' first
    | assumption | intro _ | apply Kept.ite | apply State.scrubRead_kept

theorem execMergeBufferDrain_kept {pq : List Instr} {s : State} (hs : Kept pq s) :
    KeptOut pq (execMergeBufferDrain s) := by
  unfold execMergeBufferDrain
  apply Kept.next
  with_reducible repeat' first
    | assumption | intro _ | apply Kept.ite | apply State.kprUnitIdle_kept

end Sys2Proof.Machine
end

