-- ==== Sys2Proof/Laws/KeptTetherLink.lean ====
section
/-! SUPPORT. The operations of Machine/TetherLink.lean keep the queue of commands and the sound form of the state. -/

namespace Sys2Proof.Machine

theorem State.tethSend_kept {pq : List Instr} {s : State} {type : Nat} {dst : Fin 4} {tag : BitVec 16} {index : Nat} {arg : Nat} {body : FBody} (hs : Kept pq s) :
    Kept pq (State.tethSend s type dst tag index arg body) := by
  unfold State.tethSend
  try dsimp only
  with_reducible repeat' first
    | assumption | intro _ | apply Kept.ite | apply State.seq_kept | apply hs | simp -zeta only [↓kept_mk] | apply KeptMk.same

theorem State.order_kept {pq : List Instr} {s : State} {dst : Fin 4} {sub : Nat} {arg : Nat} (hs : Kept pq s) :
    Kept pq (State.order s dst sub arg) := by
  unfold State.order
  with_reducible repeat' first
    | assumption | intro _ | apply Kept.ite | apply State.tethSend_kept

theorem State.orderAll_kept {pq : List Instr} {s : State} {sub : Nat} {arg : Nat} (hs : Kept pq s) :
    Kept pq (State.orderAll s sub arg) := by
  unfold State.orderAll
  with_reducible repeat' first
    | assumption | intro _ | apply Kept.ite | apply State.order_kept | apply hs
    | simp -zeta only [↓kept_mk, ↓console_mk, ↓console_mk', ↓boot_mk, ↓keeper_mk] | apply KeptMk.same | apply KeptMk.setCon | apply KeptMk.setBst
    | apply KeptMk.setKpr | apply KeptMk.setRegs | apply KeptMk.setAll | apply ConsoleMk.same | apply ConsoleMk.setBuf | apply BootMk.same
    | apply KeeperMk.same | apply Kept.pending | apply Kept.regs | apply Kept.bst | apply Kept.kpr | apply Kept.con | exact Nat.zero_le _
    | apply Kept.getD | exact nil_le | apply Kept.foldl_snd | apply Kept.foldl_fst | apply Kept.foldl

theorem State.sendHello_kept {pq : List Instr} {s : State} {p : Port} (hs : Kept pq s) :
    Kept pq (State.sendHello s p) := by
  unfold State.sendHello
  try dsimp only
  with_reducible repeat' first
    | assumption | intro _ | apply Kept.ite | apply State.seq_kept | apply hs | simp -zeta only [↓kept_mk] | apply KeptMk.same

theorem State.enter_kept {pq : List Instr} {s : State} {x : SysState} (hs : Kept pq s) :
    Kept pq (State.enter s x) := by
  unfold State.enter
  try dsimp only
  with_reducible repeat' first
    | assumption | intro _ | apply Kept.ite | apply State.orderAll_kept | apply hs | simp -zeta only [↓kept_mk] | apply KeptMk.same

end Sys2Proof.Machine
end

