-- ==== Sys2Proof/Laws/KeptMpu.lean ====
section
/-! SUPPORT. The operations of Machine/Mpu.lean keep the queue of commands and the sound form of the state. -/

namespace Sys2Proof.Machine

theorem State.noteRefused_kept {pq : List Instr} {s : State} {cls : Cls} {write : Bool} {kind : Nat} {region : Nat} {init : Nat} {a : Nat} (hs : Kept pq s) :
    Kept pq (State.noteRefused s cls write kind region init a) := by
  unfold State.noteRefused
  try dsimp only
  with_reducible repeat' first
    | assumption | intro _ | apply Kept.ite | apply State.setReg_kept | apply State.bump_kept | apply State.raise_kept | apply Run.write_kept
    | apply hs | simp -zeta only [↓kept_mk, ↓console_mk, ↓console_mk', ↓boot_mk, ↓keeper_mk] | apply KeptMk.same | apply KeptMk.setCon
    | apply KeptMk.setBst | apply KeptMk.setKpr | apply KeptMk.setRegs | apply KeptMk.setAll | apply ConsoleMk.same | apply ConsoleMk.setBuf
    | apply BootMk.same | apply KeeperMk.same | apply Kept.pending | apply Kept.regs | apply Kept.bst | apply Kept.kpr | apply Kept.con
    | exact Nat.zero_le _ | apply Kept.getD | exact nil_le | apply Kept.foldl_snd | apply Kept.foldl_fst | apply Kept.foldl | apply KeptO.none
    | apply KeptO.some | apply KeptO3.none | apply KeptO3.some | apply Kept.next | split

theorem State.refuseOnly_kept {pq : List Instr} {s : State} {cls : Cls} {init : Nat} {a : Nat} (hs : Kept pq s) :
    Kept pq (State.refuseOnly s cls init a) := by
  unfold State.refuseOnly
  with_reducible repeat' first
    | assumption | intro _ | apply Kept.ite | apply State.noteRefused_kept

end Sys2Proof.Machine
end

