-- ==== Sys2Proof/Laws/KeptBootStore.lean ====
section
/-! SUPPORT. The operations of Machine/BootStore.lean keep the queue of commands and the sound form of the state. -/

namespace Sys2Proof.Machine

/-- A byte outside the sector put first in the list, or taken out of it, reads as before when it is not listed. -/
theorem BootStore.find_ne_sec {l : List (Nat × Nat)} {sec o : Nat} (h : o ≠ sec) :
    List.find? (fun p => p.1 == o) (List.filter (fun p => p.1 != sec) l) = List.find? (fun p => p.1 == o) l := by
  induction l with
  | nil => rfl
  | cons a r ih =>
    by_cases ha : a.1 = sec
    · have : ¬ a.1 = o := fun e => h (e ▸ ha)
      simp [ha, this, ih, Ne.symm h]
    · by_cases hb : a.1 = o <;> simp [ha, hb, ih, h]

theorem BootStore.progByte_kept {b : BootStore} {off : Nat} {v : Byte} (hb : b.wf = true) :
    (BootStore.progByte b off v).wf = true := by
  unfold BootStore.progByte
  simp only [↓boot_mk]
  exact Store.wf_set _ _ hb

theorem BootStore.progBytes_kept {b : BootStore} {off : Nat} {x1 : List Nat} (hb : b.wf = true) :
    (BootStore.progBytes b off x1).wf = true := by
  induction x1 generalizing b off with
  | nil => exact hb
  | cons v r ih => exact ih (BootStore.progByte_kept hb)

theorem BootStore.eraseSec_kept {b : BootStore} {sec : Nat} (hb : b.wf = true) :
    (BootStore.eraseSec b sec).wf = true := by
  unfold BootStore.eraseSec
  simp only [↓boot_mk]
  refine Store.wf_congr (Store.wf_drop _ hb) fun p hp => ?_
  have h1 : p.1 / 0x10000 ≠ sec := by simpa [Store.drop] using (List.mem_filter.1 hp).2
  simp [BootStore.blank, BootStore.find_ne_sec h1, Ne.symm h1]

theorem BootStore.eraseSecs_kept {b : BootStore} {sec : Nat} {x1 : Nat} (hb : b.wf = true) :
    (BootStore.eraseSecs b sec x1).wf = true := by
  induction x1 generalizing b sec with
  | zero => exact hb
  | succ n ih => exact ih (BootStore.eraseSec_kept hb)

theorem BootStore.spoilSec_kept {b : BootStore} {sec : Nat} {n : Nat} (hb : b.wf = true) :
    (BootStore.spoilSec b sec n).wf = true := by
  unfold BootStore.spoilSec
  simp only [↓boot_mk]
  refine Store.wf_congr (Store.wf_drop _ hb) fun p hp => ?_
  have h1 : p.1 / 0x10000 ≠ sec := by simpa [Store.drop] using (List.mem_filter.1 hp).2
  simp [BootStore.blank, BootStore.find_ne_sec h1, Ne.symm h1]

theorem BootStore.spoilBytes_kept {b : BootStore} {off : Nat} {n : Nat} {x1 : List Nat} (hb : b.wf = true) :
    (BootStore.spoilBytes b off n x1).wf = true := by
  induction x1 generalizing b off with
  | nil => exact hb
  | cons v r ih => exact ih (BootStore.progByte_kept hb)

theorem BootStore.sendF0_kept {b : BootStore} (hb : b.wf = true) :
    (BootStore.sendF0 b).wf = true := by
  unfold BootStore.sendF0
  try dsimp only
  with_reducible repeat' first
    | assumption | intro _ | apply Kept.ite | apply hb | simp -zeta only [↓kept_mk, ↓console_mk, ↓console_mk', ↓boot_mk, ↓keeper_mk]
    | apply KeptMk.same | apply KeptMk.setCon | apply KeptMk.setBst | apply KeptMk.setKpr | apply KeptMk.setRegs | apply KeptMk.setAll
    | apply ConsoleMk.same | apply ConsoleMk.setBuf | apply BootMk.same | apply KeeperMk.same | apply Kept.pending | apply Kept.regs | apply Kept.bst
    | apply Kept.kpr | apply Kept.con | exact Nat.zero_le _ | apply Kept.getD | exact nil_le | apply Kept.foldl_snd | apply Kept.foldl_fst
    | apply Kept.foldl | apply KeptO.none | apply KeptO.some | apply KeptO3.none | apply KeptO3.some | apply Kept.next | split

theorem State.fwProgram_kept {pq : List Instr} {s : State} {off : Nat} {bytes : List Nat} (hs : Kept pq s) :
    Kept pq (State.fwProgram s off bytes).2 := by
  unfold State.fwProgram
  try dsimp only
  with_reducible repeat' first
    | assumption | intro _ | apply Kept.ite | apply State.bump_kept | apply BootStore.progBytes_kept | apply BootStore.spoilBytes_kept
    | apply BootStore.sendF0_kept | apply hs | simp -zeta only [↓kept_mk, ↓boot_mk] | apply KeptMk.same | apply KeptMk.setCon | apply KeptMk.setBst
    | apply KeptMk.setKpr | apply KeptMk.setRegs | apply KeptMk.setAll | apply ConsoleMk.same | apply ConsoleMk.setBuf | apply BootMk.same
    | apply KeeperMk.same | apply Kept.pending | apply Kept.regs | apply Kept.bst | apply Kept.kpr | apply Kept.con | exact Nat.zero_le _
    | apply Kept.getD | exact nil_le | apply Kept.foldl_snd | apply Kept.foldl_fst | apply Kept.foldl | apply KeptO.none | apply KeptO.some
    | apply KeptO3.none | apply KeptO3.some | apply Kept.next | split

theorem State.fwProgram_kept_of {pq : List Instr} {s : State} {off : Nat} {bytes : List Nat} {r0 : Bool} {r1 : State} (e : (State.fwProgram s off bytes) = (r0, r1)) (hs : Kept pq s) :
    Kept pq r1 := by
  have := State.fwProgram_kept (pq := pq) (s := s) (off := off) (bytes := bytes) hs
  rw [e] at this
  exact this

theorem State.fwErase_kept {pq : List Instr} {s : State} {sec : Nat} (hs : Kept pq s) :
    Kept pq (State.fwErase s sec).2 := by
  unfold State.fwErase
  try dsimp only
  with_reducible repeat' first
    | assumption | intro _ | apply Kept.ite | apply State.bump_kept | apply BootStore.eraseSec_kept | apply BootStore.spoilSec_kept
    | apply BootStore.sendF0_kept | apply hs | simp -zeta only [↓kept_mk, ↓boot_mk] | apply KeptMk.same | apply KeptMk.setCon | apply KeptMk.setBst
    | apply KeptMk.setKpr | apply KeptMk.setRegs | apply KeptMk.setAll | apply ConsoleMk.same | apply ConsoleMk.setBuf | apply BootMk.same
    | apply KeeperMk.same | apply Kept.pending | apply Kept.regs | apply Kept.bst | apply Kept.kpr | apply Kept.con | exact Nat.zero_le _
    | apply Kept.getD | exact nil_le | apply Kept.foldl_snd | apply Kept.foldl_fst | apply Kept.foldl | apply KeptO.none | apply KeptO.some
    | apply KeptO3.none | apply KeptO3.some | apply Kept.next | split

theorem State.fwErase_kept_of {pq : List Instr} {s : State} {sec : Nat} {r0 : Bool} {r1 : State} (e : (State.fwErase s sec) = (r0, r1)) (hs : Kept pq s) :
    Kept pq r1 := by
  have := State.fwErase_kept (pq := pq) (s := s) (sec := sec) hs
  rw [e] at this
  exact this

theorem BootStore.jRoll_kept {b : BootStore} {seq : Nat} (hb : b.wf = true) :
    (BootStore.jRoll b seq).wf = true := by
  unfold BootStore.jRoll
  try dsimp only
  with_reducible repeat' first
    | assumption | intro _ | apply Kept.ite | apply BootStore.progBytes_kept | apply BootStore.eraseSec_kept | apply State.seq_kept | apply hb
    | simp -zeta only [↓boot_mk] | apply KeptMk.same | apply KeptMk.setCon | apply KeptMk.setBst | apply KeptMk.setKpr | apply KeptMk.setRegs
    | apply KeptMk.setAll | apply ConsoleMk.same | apply ConsoleMk.setBuf | apply BootMk.same

theorem BootStore.ringMount_kept {b : BootStore} (hb : b.wf = true) :
    (BootStore.ringMount b).wf = true := by
  unfold BootStore.ringMount
  try dsimp only
  with_reducible repeat' first
    | assumption | intro _ | apply Kept.ite | apply State.seq_kept | apply hb | simp -zeta only [↓boot_mk] | apply KeptMk.same | apply KeptMk.setCon
    | apply KeptMk.setBst | apply KeptMk.setKpr | apply KeptMk.setRegs | apply KeptMk.setAll | apply ConsoleMk.same | apply ConsoleMk.setBuf
    | apply BootMk.same

theorem State.journalAdd_kept {pq : List Instr} {s : State} {src : Nat} {dev : Nat} {text : List Byte} (hs : Kept pq s) :
    Kept pq (State.journalAdd s src dev text).2 := by
  unfold State.journalAdd
  try dsimp only
  with_reducible repeat' first
    | assumption | intro _ | apply Kept.ite | apply State.fwProgram_kept | apply State.fwProgram_kept_of (by assumption) | apply BootStore.jRoll_kept
    | apply State.seq_kept | apply hs | simp -zeta only [↓kept_mk, ↓boot_mk] | apply KeptMk.same | apply KeptMk.setCon | apply KeptMk.setBst
    | apply KeptMk.setKpr | apply KeptMk.setRegs | apply KeptMk.setAll | apply ConsoleMk.same | apply ConsoleMk.setBuf | apply BootMk.same
    | apply KeeperMk.same | apply Kept.pending | apply Kept.regs | apply Kept.bst | apply Kept.kpr | apply Kept.con | exact Nat.zero_le _
    | apply Kept.getD | exact nil_le | apply Kept.foldl_snd | apply Kept.foldl_fst | apply Kept.foldl | apply KeptO.none | apply KeptO.some
    | apply KeptO3.none | apply KeptO3.some | apply Kept.next | split

theorem State.journalAdd_kept_of {pq : List Instr} {s : State} {src : Nat} {dev : Nat} {text : List Byte} {r0 : Option Nat} {r1 : State} (e : (State.journalAdd s src dev text) = (r0, r1)) (hs : Kept pq s) :
    Kept pq r1 := by
  have := State.journalAdd_kept (pq := pq) (s := s) (src := src) (dev := dev) (text := text) hs
  rw [e] at this
  exact this

theorem State.journalResult_kept {pq : List Instr} {s : State} {seq : Nat} {result : Byte} (hs : Kept pq s) :
    Kept pq (State.journalResult s seq result) := by
  unfold State.journalResult
  try dsimp only
  with_reducible repeat' first
    | assumption | intro _ | apply Kept.ite | apply State.fwProgram_kept | apply State.fwProgram_kept_of (by assumption) | apply State.seq_kept
    | apply hs | simp -zeta only [↓kept_mk, ↓boot_mk] | apply KeptMk.same | apply KeptMk.setCon | apply KeptMk.setBst | apply KeptMk.setKpr
    | apply KeptMk.setRegs | apply KeptMk.setAll | apply ConsoleMk.same | apply ConsoleMk.setBuf | apply BootMk.same | apply KeeperMk.same
    | apply Kept.pending | apply Kept.regs | apply Kept.bst | apply Kept.kpr | apply Kept.con | exact Nat.zero_le _ | apply Kept.getD | exact nil_le
    | apply Kept.foldl_snd | apply Kept.foldl_fst | apply Kept.foldl | apply KeptO.none | apply KeptO.some | apply KeptO3.none | apply KeptO3.some
    | apply Kept.next | split

theorem BootStore.hAdd_kept {b : BootStore} {t : Nat} {body : List Nat} (hb : b.wf = true) :
    (BootStore.hAdd b t body).wf = true := by
  unfold BootStore.hAdd
  try dsimp only
  with_reducible repeat' first
    | assumption | intro _ | apply Kept.ite | apply BootStore.progBytes_kept | apply BootStore.eraseSec_kept | apply hb | simp -zeta only [↓boot_mk]
    | apply KeptMk.same | apply KeptMk.setCon | apply KeptMk.setBst | apply KeptMk.setKpr | apply KeptMk.setRegs | apply KeptMk.setAll
    | apply ConsoleMk.same | apply ConsoleMk.setBuf | apply BootMk.same | apply KeeperMk.same | apply Kept.pending | apply Kept.regs | apply Kept.bst
    | apply Kept.kpr | apply Kept.con | exact Nat.zero_le _ | apply Kept.getD | exact nil_le | apply Kept.foldl_snd | apply Kept.foldl_fst
    | apply Kept.foldl | apply KeptO.none | apply KeptO.some | apply KeptO3.none | apply KeptO3.some | apply Kept.next | split

theorem BootStore.hStart_kept {b : BootStore} (hb : b.wf = true) :
    (BootStore.hStart b).wf = true := by
  unfold BootStore.hStart
  try dsimp only
  with_reducible repeat' first
    | assumption | intro _ | apply Kept.ite | apply State.seq_kept | apply hb | simp -zeta only [↓boot_mk] | apply KeptMk.same | apply KeptMk.setCon
    | apply KeptMk.setBst | apply KeptMk.setKpr | apply KeptMk.setRegs | apply KeptMk.setAll | apply ConsoleMk.same | apply ConsoleMk.setBuf
    | apply BootMk.same | apply KeeperMk.same | apply Kept.pending | apply Kept.regs | apply Kept.bst | apply Kept.kpr | apply Kept.con
    | exact Nat.zero_le _ | apply Kept.getD | exact nil_le | apply Kept.foldl_snd | apply Kept.foldl_fst | apply Kept.foldl | apply KeptO.none
    | apply KeptO.some | apply KeptO3.none | apply KeptO3.some | apply Kept.next | split

theorem BootStore.badMount_kept {b : BootStore} (hb : b.wf = true) :
    (BootStore.badMount b).wf = true := by
  unfold BootStore.badMount
  try dsimp only
  with_reducible repeat' first
    | assumption | intro _ | apply Kept.ite | apply BootStore.progBytes_kept | apply BootStore.eraseSec_kept | apply BootStore.hAdd_kept
    | apply State.good_kept | apply hb | simp -zeta only [↓boot_mk] | apply KeptMk.same | apply KeptMk.setCon | apply KeptMk.setBst
    | apply KeptMk.setKpr | apply KeptMk.setRegs | apply KeptMk.setAll | apply ConsoleMk.same | apply ConsoleMk.setBuf | apply BootMk.same
    | apply KeeperMk.same | apply Kept.pending | apply Kept.regs | apply Kept.bst | apply Kept.kpr | apply Kept.con | exact Nat.zero_le _
    | apply Kept.getD | exact nil_le | apply Kept.foldl_snd | apply Kept.foldl_fst | apply Kept.foldl | apply KeptO.none | apply KeptO.some
    | apply KeptO3.none | apply KeptO3.some | apply Kept.next | split

theorem BootStore.alarmAdd_kept {b : BootStore} {a : AlarmRec} (hb : b.wf = true) :
    (BootStore.alarmAdd b a).wf = true := by
  unfold BootStore.alarmAdd
  try dsimp only
  with_reducible repeat' first
    | assumption | intro _ | apply Kept.ite | apply BootStore.progBytes_kept | apply BootStore.eraseSec_kept | apply hb | simp -zeta only [↓boot_mk]
    | apply KeptMk.same | apply KeptMk.setCon | apply KeptMk.setBst | apply KeptMk.setKpr | apply KeptMk.setRegs | apply KeptMk.setAll
    | apply ConsoleMk.same | apply ConsoleMk.setBuf | apply BootMk.same | apply KeeperMk.same | apply Kept.pending | apply Kept.regs | apply Kept.bst
    | apply Kept.kpr | apply Kept.con | exact Nat.zero_le _ | apply Kept.getD | exact nil_le | apply Kept.foldl_snd | apply Kept.foldl_fst
    | apply Kept.foldl | apply KeptO.none | apply KeptO.some | apply KeptO3.none | apply KeptO3.some | apply Kept.next | split

theorem State.swapAdd_kept {pq : List Instr} {s : State} {kind : Nat} {twin : Twin} {l3 : Bool} (hs : Kept pq s) :
    Kept pq (State.swapAdd s kind twin l3) := by
  unfold State.swapAdd
  try dsimp only
  with_reducible repeat' first
    | assumption | intro _ | apply Kept.ite | apply BootStore.progBytes_kept | apply State.seq_kept | apply hs | simp -zeta only [↓kept_mk, ↓boot_mk]
    | apply KeptMk.same | apply KeptMk.setCon | apply KeptMk.setBst | apply KeptMk.setKpr | apply KeptMk.setRegs | apply KeptMk.setAll
    | apply ConsoleMk.same | apply ConsoleMk.setBuf | apply BootMk.same | apply KeeperMk.same | apply Kept.pending | apply Kept.regs | apply Kept.bst

theorem State.swapPend_kept {pq : List Instr} {s : State} {twin : Twin} {l3 : Bool} (hs : Kept pq s) :
    Kept pq (State.swapPend s twin l3) := by
  unfold State.swapPend
  try dsimp only
  with_reducible repeat' first
    | assumption | intro _ | apply Kept.ite | apply BootStore.eraseSec_kept | apply State.swapAdd_kept | apply hs
    | simp -zeta only [↓kept_mk, ↓boot_mk] | apply KeptMk.same | apply KeptMk.setCon | apply KeptMk.setBst | apply KeptMk.setKpr
    | apply KeptMk.setRegs | apply KeptMk.setAll | apply ConsoleMk.same | apply ConsoleMk.setBuf | apply BootMk.same | apply KeeperMk.same
    | apply Kept.pending | apply Kept.regs | apply Kept.bst

theorem State.bootTwin_kept {pq : List Instr} {s : State} {t : Twin} {sigA : Bool} {sigB : Bool} {fell : Bool} (hs : Kept pq s) :
    Kept pq (State.bootTwin s t sigA sigB fell) := by
  unfold State.bootTwin
  try dsimp only
  with_reducible repeat' first
    | assumption | intro _ | apply Kept.ite | apply State.raise_kept | apply hs | simp -zeta only [↓kept_mk, ↓boot_mk] | apply KeptMk.same
    | apply KeptMk.setCon | apply KeptMk.setBst | apply KeptMk.setKpr | apply KeptMk.setRegs | apply KeptMk.setAll | apply ConsoleMk.same
    | apply ConsoleMk.setBuf | apply BootMk.same | apply KeeperMk.same | apply Kept.pending | apply Kept.regs | apply Kept.bst

theorem State.twinSelect_kept {pq : List Instr} {s : State} {sigA : Bool} {sigB : Bool} (hs : Kept pq s) :
    Kept pq (State.twinSelect s sigA sigB) := by
  unfold State.twinSelect
  try dsimp only
  with_reducible repeat' first
    | assumption | intro _ | apply Kept.ite | apply State.raise_kept | apply State.swapAdd_kept | apply State.bootTwin_kept | apply hs
    | simp -zeta only [↓kept_mk, ↓console_mk, ↓console_mk', ↓boot_mk, ↓keeper_mk] | apply KeptMk.same | apply KeptMk.setCon | apply KeptMk.setBst
    | apply KeptMk.setKpr | apply KeptMk.setRegs | apply KeptMk.setAll | apply ConsoleMk.same | apply ConsoleMk.setBuf | apply BootMk.same
    | apply KeeperMk.same | apply Kept.pending | apply Kept.regs | apply Kept.bst | apply Kept.kpr | apply Kept.con | exact Nat.zero_le _
    | apply Kept.getD | exact nil_le | apply Kept.foldl_snd | apply Kept.foldl_fst | apply Kept.foldl | apply KeptO.none | apply KeptO.some
    | apply KeptO3.none | apply KeptO3.some | apply Kept.next | split

theorem State.bstRead_kept {pq : List Instr} {s : State} {off : Nat} {w : Nat} (hs : Kept pq s) :
    Kept pq (State.bstRead s off w).2 := by
  unfold State.bstRead
  try dsimp only
  with_reducible repeat' first
    | assumption | intro _ | apply Kept.ite | apply Run.read_kept | apply hs | simp -zeta only [↓kept_mk, ↓boot_mk] | apply KeptMk.same
    | apply KeptMk.setCon | apply KeptMk.setBst | apply KeptMk.setKpr | apply KeptMk.setRegs | apply KeptMk.setAll | apply ConsoleMk.same
    | apply ConsoleMk.setBuf | apply BootMk.same | apply KeeperMk.same | apply Kept.pending | apply Kept.regs | apply Kept.bst | apply Kept.kpr
    | apply Kept.con | exact Nat.zero_le _ | apply Kept.getD | exact nil_le | apply Kept.foldl_snd | apply Kept.foldl_fst | apply Kept.foldl
    | apply KeptO.none | apply KeptO.some | apply KeptO3.none | apply KeptO3.some | apply Kept.next | split

theorem State.bstRead_kept_of {pq : List Instr} {s : State} {off : Nat} {w : Nat} {r0 : Nat} {r1 : State} (e : (State.bstRead s off w) = (r0, r1)) (hs : Kept pq s) :
    Kept pq r1 := by
  have := State.bstRead_kept (pq := pq) (s := s) (off := off) (w := w) hs
  rw [e] at this
  exact this

theorem BootStore.refuse_kept {b : BootStore} (hb : b.wf = true) :
    (BootStore.refuse b).wf = true := by
  unfold BootStore.refuse
  try dsimp only
  with_reducible repeat' first
    | assumption | intro _ | apply Kept.ite | apply hb | simp -zeta only [↓boot_mk] | apply KeptMk.same | apply KeptMk.setCon | apply KeptMk.setBst
    | apply KeptMk.setKpr | apply KeptMk.setRegs | apply KeptMk.setAll | apply ConsoleMk.same | apply ConsoleMk.setBuf | apply BootMk.same

theorem BootStore.start_kept {b : BootStore} {op : BstOp} {cm : Bool} (hb : b.wf = true) :
    (BootStore.start b op cm).wf = true := by
  unfold BootStore.start
  try dsimp only
  with_reducible repeat' first
    | assumption | intro _ | apply Kept.ite | apply hb | simp -zeta only [↓boot_mk] | apply KeptMk.same | apply KeptMk.setCon | apply KeptMk.setBst
    | apply KeptMk.setKpr | apply KeptMk.setRegs | apply KeptMk.setAll | apply ConsoleMk.same | apply ConsoleMk.setBuf | apply BootMk.same

theorem BootStore.cmdProgram_kept {b : BootStore} {off : Nat} {data : Word} {cm : Bool} (hb : b.wf = true) :
    (BootStore.cmdProgram b off data cm).wf = true := by
  unfold BootStore.cmdProgram
  with_reducible repeat' first
    | assumption | intro _ | apply Kept.ite | apply BootStore.refuse_kept | apply State.refuse_kept | apply BootStore.start_kept | apply hb
    | simp -zeta only [↓kept_mk, ↓console_mk, ↓console_mk', ↓boot_mk, ↓keeper_mk] | apply KeptMk.same | apply KeptMk.setCon | apply KeptMk.setBst
    | apply KeptMk.setKpr | apply KeptMk.setRegs | apply KeptMk.setAll | apply ConsoleMk.same | apply ConsoleMk.setBuf | apply BootMk.same
    | apply KeeperMk.same | apply Kept.pending | apply Kept.regs | apply Kept.bst | apply Kept.kpr | apply Kept.con | exact Nat.zero_le _
    | apply Kept.getD | exact nil_le | apply Kept.foldl_snd | apply Kept.foldl_fst | apply Kept.foldl | apply KeptO.none | apply KeptO.some
    | apply KeptO3.none | apply KeptO3.some | apply Kept.next | split

theorem BootStore.cmdErase_kept {b : BootStore} {off : Nat} {cm : Bool} (hb : b.wf = true) :
    (BootStore.cmdErase b off cm).wf = true := by
  unfold BootStore.cmdErase
  with_reducible repeat' first
    | assumption | intro _ | apply Kept.ite | apply BootStore.refuse_kept | apply State.refuse_kept | apply BootStore.start_kept | apply hb
    | simp -zeta only [↓kept_mk, ↓console_mk, ↓console_mk', ↓boot_mk, ↓keeper_mk] | apply KeptMk.same | apply KeptMk.setCon | apply KeptMk.setBst
    | apply KeptMk.setKpr | apply KeptMk.setRegs | apply KeptMk.setAll | apply ConsoleMk.same | apply ConsoleMk.setBuf | apply BootMk.same
    | apply KeeperMk.same | apply Kept.pending | apply Kept.regs | apply Kept.bst | apply Kept.kpr | apply Kept.con | exact Nat.zero_le _
    | apply Kept.getD | exact nil_le | apply Kept.foldl_snd | apply Kept.foldl_fst | apply Kept.foldl | apply KeptO.none | apply KeptO.some
    | apply KeptO3.none | apply KeptO3.some | apply Kept.next | split

theorem BootStore.cmdSwapCommit_kept {b : BootStore} {slot : Nat} (hb : b.wf = true) :
    (BootStore.cmdSwapCommit b slot).wf = true := by
  unfold BootStore.cmdSwapCommit
  with_reducible repeat' first
    | assumption | intro _ | apply Kept.ite | apply BootStore.refuse_kept | apply State.refuse_kept | apply BootStore.start_kept
    | apply State.swapCommit_kept | apply Run.read_kept | apply hb | simp -zeta only [↓kept_mk, ↓console_mk, ↓console_mk', ↓boot_mk, ↓keeper_mk]
    | apply KeptMk.same | apply KeptMk.setCon | apply KeptMk.setBst | apply KeptMk.setKpr | apply KeptMk.setRegs | apply KeptMk.setAll
    | apply ConsoleMk.same | apply ConsoleMk.setBuf | apply BootMk.same | apply KeeperMk.same | apply Kept.pending | apply Kept.regs | apply Kept.bst
    | apply Kept.kpr | apply Kept.con | exact Nat.zero_le _ | apply Kept.getD | exact nil_le | apply Kept.foldl_snd | apply Kept.foldl_fst
    | apply Kept.foldl | apply KeptO.none | apply KeptO.some | apply KeptO3.none | apply KeptO3.some | apply Kept.next | split

theorem BootStore.next_kept {b : BootStore} (hb : b.wf = true) :
    (BootStore.next b).wf = true := by
  unfold BootStore.next
  try dsimp only
  with_reducible repeat' first
    | assumption | intro _ | apply Kept.ite | apply BootStore.cmdProgram_kept | apply BootStore.cmdErase_kept | apply hb | simp -zeta only [↓boot_mk]
    | apply KeptMk.same | apply KeptMk.setCon | apply KeptMk.setBst | apply KeptMk.setKpr | apply KeptMk.setRegs | apply KeptMk.setAll
    | apply ConsoleMk.same | apply ConsoleMk.setBuf | apply BootMk.same | apply KeeperMk.same | apply Kept.pending | apply Kept.regs | apply Kept.bst
    | apply Kept.kpr | apply Kept.con | exact Nat.zero_le _ | apply Kept.getD | exact nil_le | apply Kept.foldl_snd | apply Kept.foldl_fst
    | apply Kept.foldl | apply KeptO.none | apply KeptO.some | apply KeptO3.none | apply KeptO3.some | apply Kept.next | split

theorem State.bstNext_kept {pq : List Instr} {s : State} (hs : Kept pq s) :
    Kept pq (State.bstNext s) := by
  unfold State.bstNext
  try dsimp only
  with_reducible repeat' first
    | assumption | intro _ | apply Kept.ite | apply State.setRf_kept | apply BootStore.next_kept | apply hs | simp -zeta only [↓kept_mk]
    | apply KeptMk.same | apply KeptMk.setCon | apply KeptMk.setBst | apply KeptMk.setKpr | apply KeptMk.setRegs | apply KeptMk.setAll
    | apply ConsoleMk.same | apply ConsoleMk.setBuf | apply BootMk.same | apply KeeperMk.same | apply Kept.pending | apply Kept.regs | apply Kept.bst
    | apply Kept.kpr | apply Kept.con | exact Nat.zero_le _ | apply Kept.getD | exact nil_le | apply Kept.foldl_snd | apply Kept.foldl_fst
    | apply Kept.foldl | apply KeptO.none | apply KeptO.some | apply KeptO3.none | apply KeptO3.some | apply Kept.next | split

theorem BootStore.dropRecords_kept {b : BootStore} {sec : Nat} (hb : b.wf = true) :
    (BootStore.dropRecords b sec).wf = true := by
  unfold BootStore.dropRecords
  try dsimp only
  with_reducible repeat' first
    | assumption | intro _ | apply Kept.ite | apply hb | simp -zeta only [↓boot_mk] | apply KeptMk.same | apply KeptMk.setCon | apply KeptMk.setBst
    | apply KeptMk.setKpr | apply KeptMk.setRegs | apply KeptMk.setAll | apply ConsoleMk.same | apply ConsoleMk.setBuf | apply BootMk.same

theorem BootStore.committed_kept {b : BootStore} {slot : Nat} (hb : b.wf = true) :
    (BootStore.committed b slot).wf = true := by
  unfold BootStore.committed
  try dsimp only
  with_reducible repeat' first
    | assumption | intro _ | apply Kept.ite | apply State.seq_kept | apply Run.read_kept | apply hb | simp -zeta only [↓boot_mk] | apply KeptMk.same
    | apply KeptMk.setCon | apply KeptMk.setBst | apply KeptMk.setKpr | apply KeptMk.setRegs | apply KeptMk.setAll | apply ConsoleMk.same
    | apply ConsoleMk.setBuf | apply BootMk.same | apply KeeperMk.same | apply Kept.pending | apply Kept.regs | apply Kept.bst | apply Kept.kpr
    | apply Kept.con | exact Nat.zero_le _ | apply Kept.getD | exact nil_le | apply Kept.foldl_snd | apply Kept.foldl_fst | apply Kept.foldl
    | apply KeptO.none | apply KeptO.some | apply KeptO3.none | apply KeptO3.some | apply Kept.next | split

theorem BootStore.apply_kept {b : BootStore} (hb : b.wf = true) :
    (BootStore.apply b).wf = true := by
  unfold BootStore.apply
  try dsimp only
  with_reducible repeat' first
    | assumption | intro _ | apply Kept.ite | apply BootStore.progBytes_kept | apply BootStore.eraseSec_kept | apply BootStore.dropRecords_kept
    | apply BootStore.committed_kept | apply State.committed_kept | apply State.swapCommit_kept | apply hb
    | simp -zeta only [↓kept_mk, ↓console_mk, ↓console_mk', ↓boot_mk, ↓keeper_mk] | apply KeptMk.same | apply KeptMk.setCon | apply KeptMk.setBst
    | apply KeptMk.setKpr | apply KeptMk.setRegs | apply KeptMk.setAll | apply ConsoleMk.same | apply ConsoleMk.setBuf | apply BootMk.same
    | apply KeeperMk.same | apply Kept.pending | apply Kept.regs | apply Kept.bst | apply Kept.kpr | apply Kept.con | exact Nat.zero_le _
    | apply Kept.getD | exact nil_le | apply Kept.foldl_snd | apply Kept.foldl_fst | apply Kept.foldl | apply KeptO.none | apply KeptO.some
    | apply KeptO3.none | apply KeptO3.some | apply Kept.next | split

theorem State.bstSpoil_kept {pq : List Instr} {s : State} (hs : Kept pq s) :
    Kept pq (State.bstSpoil s) := by
  unfold State.bstSpoil
  try dsimp only
  with_reducible repeat' first
    | assumption | intro _ | apply Kept.ite | apply BootStore.spoilSec_kept | apply BootStore.spoilBytes_kept | apply BootStore.dropRecords_kept
    | apply State.swapCommit_kept | apply hs | simp -zeta only [↓kept_mk] | apply KeptMk.same | apply KeptMk.setCon | apply KeptMk.setBst
    | apply KeptMk.setKpr | apply KeptMk.setRegs | apply KeptMk.setAll | apply ConsoleMk.same | apply ConsoleMk.setBuf | apply BootMk.same
    | apply KeeperMk.same | apply Kept.pending | apply Kept.regs | apply Kept.bst | apply Kept.kpr | apply Kept.con | exact Nat.zero_le _
    | apply Kept.getD | exact nil_le | apply Kept.foldl_snd | apply Kept.foldl_fst | apply Kept.foldl | apply KeptO.none | apply KeptO.some
    | apply KeptO3.none | apply KeptO3.some | apply Kept.next | split

theorem State.cmDone_kept {pq : List Instr} {s : State} {failed : Bool} (hs : Kept pq s) :
    Kept pq (State.cmDone s failed) := by
  unfold State.cmDone
  try dsimp only
  with_reducible repeat' first
    | assumption | intro _ | apply Kept.ite | apply State.setRf_kept

theorem State.bstEnd_kept {pq : List Instr} {s : State} {ok : Bool} (hs : Kept pq s) :
    Kept pq (State.bstEnd s ok) := by
  unfold State.bstEnd
  try dsimp only
  with_reducible repeat' first
    | assumption | intro _ | apply Kept.ite | apply State.bump_kept | apply State.bstNext_kept | apply BootStore.apply_kept
    | apply State.bstSpoil_kept | apply State.cmDone_kept | apply hs | simp -zeta only [↓kept_mk, ↓boot_mk] | apply KeptMk.same | apply KeptMk.setCon
    | apply KeptMk.setBst | apply KeptMk.setKpr | apply KeptMk.setRegs | apply KeptMk.setAll | apply ConsoleMk.same | apply ConsoleMk.setBuf
    | apply BootMk.same | apply KeeperMk.same | apply Kept.pending | apply Kept.regs | apply Kept.bst | apply Kept.kpr | apply Kept.con
    | exact Nat.zero_le _ | apply Kept.getD | exact nil_le | apply Kept.foldl_snd | apply Kept.foldl_fst | apply Kept.foldl | apply KeptO.none
    | apply KeptO.some | apply KeptO3.none | apply KeptO3.some | apply Kept.next | split

theorem State.bstClass_kept {pq : List Instr} {s : State} {cls : Cls} {off : Nat} {f : BootStore → BootStore} (hs : Kept pq s) (hf : ∀ (y0 : BootStore), y0.wf = true → (f y0).wf = true) :
    Kept pq (State.bstClass s cls off f) := by
  unfold State.bstClass
  try dsimp only
  with_reducible repeat' first
    | assumption | intro _ | apply Kept.ite | apply State.refuseOnly_kept | apply hs | apply hf | simp -zeta only [↓kept_mk] | apply KeptMk.same
    | apply KeptMk.setCon | apply KeptMk.setBst | apply KeptMk.setKpr | apply KeptMk.setRegs | apply KeptMk.setAll | apply ConsoleMk.same
    | apply ConsoleMk.setBuf | apply BootMk.same | apply KeeperMk.same | apply Kept.pending | apply Kept.regs | apply Kept.bst | apply Kept.kpr
    | apply Kept.con | exact Nat.zero_le _ | apply Kept.getD | exact nil_le | apply Kept.foldl_snd | apply Kept.foldl_fst | apply Kept.foldl
    | apply KeptO.none | apply KeptO.some | apply KeptO3.none | apply KeptO3.some | apply Kept.next | split

theorem execBstProgramWord_kept {pq : List Instr} {addr : Word} {data : Word} {cls : Cls} {s : State} (hs : Kept pq s) :
    KeptOut pq (execBstProgramWord addr data cls s) := by
  unfold execBstProgramWord
  apply Kept.next
  with_reducible repeat' first
    | assumption | intro _ | apply Kept.ite | apply BootStore.cmdProgram_kept | apply BootStore.next_kept | apply State.bstClass_kept

theorem execBstEraseSector_kept {pq : List Instr} {addr : Word} {cls : Cls} {s : State} (hs : Kept pq s) :
    KeptOut pq (execBstEraseSector addr cls s) := by
  unfold execBstEraseSector
  apply Kept.next
  with_reducible repeat' first
    | assumption | intro _ | apply Kept.ite | apply BootStore.cmdErase_kept | apply BootStore.next_kept | apply State.bstClass_kept

theorem State.swapCommit_kept {pq : List Instr} {s : State} {slot : Nat} (hs : Kept pq s) :
    Kept pq (State.swapCommit s slot) := by
  unfold State.swapCommit
  try dsimp only
  with_reducible repeat' first
    | assumption | intro _ | apply Kept.ite | apply State.bump_kept | apply BootStore.cmdSwapCommit_kept | apply hs
    | simp -zeta only [↓kept_mk, ↓console_mk, ↓console_mk', ↓boot_mk, ↓keeper_mk] | apply KeptMk.same | apply KeptMk.setCon | apply KeptMk.setBst
    | apply KeptMk.setKpr | apply KeptMk.setRegs | apply KeptMk.setAll | apply ConsoleMk.same | apply ConsoleMk.setBuf | apply BootMk.same
    | apply KeeperMk.same | apply Kept.pending | apply Kept.regs | apply Kept.bst | apply Kept.kpr | apply Kept.con | exact Nat.zero_le _
    | apply Kept.getD | exact nil_le | apply Kept.foldl_snd | apply Kept.foldl_fst | apply Kept.foldl | apply KeptO.none | apply KeptO.some
    | apply KeptO3.none | apply KeptO3.some | apply Kept.next | split

theorem execBstSwapCommit_kept {pq : List Instr} {slot : Nat} {cls : Cls} {s : State} (hs : Kept pq s) :
    KeptOut pq (execBstSwapCommit slot cls s) := by
  unfold execBstSwapCommit
  apply Kept.next
  apply Kept.ite
  · cases cls
    all_goals first | exact State.swapCommit_kept hs | exact State.bstClass_kept hs (fun _ h => h)
  · exact hs

theorem execBstSuspend_kept {pq : List Instr} {s : State} (hs : Kept pq s) :
    KeptOut pq (execBstSuspend s) := by
  unfold execBstSuspend
  try dsimp only
  apply Kept.next
  with_reducible repeat' first
    | assumption | intro _ | apply Kept.ite | apply BootStore.next_kept | apply hs | simp -zeta only [↓kept_mk, ↓boot_mk] | apply KeptMk.same
    | apply KeptMk.setCon | apply KeptMk.setBst | apply KeptMk.setKpr | apply KeptMk.setRegs | apply KeptMk.setAll | apply ConsoleMk.same
    | apply ConsoleMk.setBuf | apply BootMk.same | apply KeeperMk.same | apply Kept.pending | apply Kept.regs | apply Kept.bst | apply Kept.kpr
    | apply Kept.con | exact Nat.zero_le _ | apply Kept.getD | exact nil_le | apply Kept.foldl_snd | apply Kept.foldl_fst | apply Kept.foldl
    | apply KeptO.none | apply KeptO.some | apply KeptO3.none | apply KeptO3.some | apply Kept.next | split

theorem execBstResume_kept {pq : List Instr} {s : State} (hs : Kept pq s) :
    KeptOut pq (execBstResume s) := by
  unfold execBstResume
  try dsimp only
  apply Kept.next
  with_reducible repeat' first
    | assumption | intro _ | apply Kept.ite | apply BootStore.next_kept | apply hs | simp -zeta only [↓kept_mk, ↓boot_mk] | apply KeptMk.same
    | apply KeptMk.setCon | apply KeptMk.setBst | apply KeptMk.setKpr | apply KeptMk.setRegs | apply KeptMk.setAll | apply ConsoleMk.same
    | apply ConsoleMk.setBuf | apply BootMk.same | apply KeeperMk.same | apply Kept.pending | apply Kept.regs | apply Kept.bst | apply Kept.kpr
    | apply Kept.con | exact Nat.zero_le _ | apply Kept.getD | exact nil_le | apply Kept.foldl_snd | apply Kept.foldl_fst | apply Kept.foldl
    | apply KeptO.none | apply KeptO.some | apply KeptO3.none | apply KeptO3.some | apply Kept.next | split

theorem execBstReadStatus_kept {pq : List Instr} {s : State} (hs : Kept pq s) :
    KeptOut pq (execBstReadStatus s) := by
  unfold execBstReadStatus
  try dsimp only
  apply Kept.next
  with_reducible repeat' first
    | assumption | intro _ | apply Kept.ite | apply BootStore.next_kept | apply hs | simp -zeta only [↓kept_mk, ↓boot_mk] | apply KeptMk.same
    | apply KeptMk.setCon | apply KeptMk.setBst | apply KeptMk.setKpr | apply KeptMk.setRegs | apply KeptMk.setAll | apply ConsoleMk.same
    | apply ConsoleMk.setBuf | apply BootMk.same | apply KeeperMk.same | apply Kept.pending | apply Kept.regs | apply Kept.bst

theorem execBstArrayRead_kept {pq : List Instr} {s : State} (hs : Kept pq s) :
    KeptOut pq (execBstArrayRead s) := by
  unfold execBstArrayRead
  try dsimp only
  apply Kept.next
  with_reducible repeat' first
    | assumption | intro _ | apply Kept.ite | apply BootStore.next_kept | apply State.bstNext_kept | apply hs | simp -zeta only [↓kept_mk, ↓boot_mk]
    | apply KeptMk.same | apply KeptMk.setCon | apply KeptMk.setBst | apply KeptMk.setKpr | apply KeptMk.setRegs | apply KeptMk.setAll
    | apply ConsoleMk.same | apply ConsoleMk.setBuf | apply BootMk.same | apply KeeperMk.same | apply Kept.pending | apply Kept.regs | apply Kept.bst

theorem execBstOpComplete_kept {pq : List Instr} {ok : Bool} {s : State} (hs : Kept pq s) :
    KeptOut pq (execBstOpComplete ok s) := by
  unfold execBstOpComplete
  apply Kept.next
  with_reducible repeat' first
    | assumption | intro _ | apply Kept.ite | apply BootStore.next_kept | apply State.bstEnd_kept

theorem execBstOpTimeout_kept {pq : List Instr} {s : State} (hs : Kept pq s) :
    KeptOut pq (execBstOpTimeout s) := by
  unfold execBstOpTimeout
  try dsimp only
  apply Kept.next
  with_reducible repeat' first
    | assumption | intro _ | apply Kept.ite | apply BootStore.next_kept | apply State.bstEnd_kept | apply hs | simp -zeta only [↓kept_mk, ↓boot_mk]
    | apply KeptMk.same | apply KeptMk.setCon | apply KeptMk.setBst | apply KeptMk.setKpr | apply KeptMk.setRegs | apply KeptMk.setAll
    | apply ConsoleMk.same | apply ConsoleMk.setBuf | apply BootMk.same | apply KeeperMk.same | apply Kept.pending | apply Kept.regs | apply Kept.bst

theorem State.cmRequest_kept {pq : List Instr} {s : State} {erase : Bool} (hs : Kept pq s) :
    Kept pq (State.cmRequest s erase) := by
  unfold State.cmRequest
  try dsimp only
  with_reducible repeat' first
    | assumption | intro _ | apply Kept.ite | apply State.setRf_kept | apply State.bstNext_kept | apply hs | simp -zeta only [↓kept_mk, ↓boot_mk]
    | apply KeptMk.same | apply KeptMk.setCon | apply KeptMk.setBst | apply KeptMk.setKpr | apply KeptMk.setRegs | apply KeptMk.setAll
    | apply ConsoleMk.same | apply ConsoleMk.setBuf | apply BootMk.same | apply KeeperMk.same | apply Kept.pending | apply Kept.regs | apply Kept.bst

theorem execBstCmProgram_kept {pq : List Instr} {s : State} (hs : Kept pq s) :
    KeptOut pq (execBstCmProgram s) := by
  unfold execBstCmProgram
  apply Kept.next
  with_reducible repeat' first
    | assumption | intro _ | apply Kept.ite | apply BootStore.next_kept | apply State.cmRequest_kept

theorem execBstCmErase_kept {pq : List Instr} {s : State} (hs : Kept pq s) :
    KeptOut pq (execBstCmErase s) := by
  unfold execBstCmErase
  apply Kept.next
  with_reducible repeat' first
    | assumption | intro _ | apply Kept.ite | apply BootStore.next_kept | apply State.cmRequest_kept

end Sys2Proof.Machine
end

