-- ==== Sys2Proof/Laws/KeptSettings.lean ====
section
/-! SUPPORT. The operations of Machine/Settings.lean keep the queue of commands and the sound form of the state. -/

namespace Sys2Proof.Machine

theorem State.mirror_kept {pq : List Instr} {s : State} {x : Setting} (hs : Kept pq s) :
    Kept pq (State.mirror s x) := by
  unfold State.mirror
  try dsimp only
  with_reducible repeat' first
    | assumption | intro _ | apply Kept.ite | apply State.setRf_kept | apply hs
    | simp -zeta only [↓kept_mk, ↓console_mk, ↓console_mk', ↓boot_mk, ↓keeper_mk] | apply KeptMk.same | apply KeptMk.setCon | apply KeptMk.setBst
    | apply KeptMk.setKpr | apply KeptMk.setRegs | apply KeptMk.setAll | apply ConsoleMk.same | apply ConsoleMk.setBuf | apply BootMk.same
    | apply KeeperMk.same | apply Kept.pending | apply Kept.regs | apply Kept.bst | apply Kept.kpr | apply Kept.con | exact Nat.zero_le _
    | apply Kept.getD | exact nil_le | apply Kept.foldl_snd | apply Kept.foldl_fst | apply Kept.foldl | apply KeptO.none | apply KeptO.some
    | apply KeptO3.none | apply KeptO3.some | apply Kept.next | split

theorem State.mirrorAll_kept {pq : List Instr} {s : State} (hs : Kept pq s) :
    Kept pq (State.mirrorAll s) := by
  unfold State.mirrorAll
  with_reducible repeat' first
    | assumption | intro _ | apply Kept.ite | apply State.mirror_kept | apply hs
    | simp -zeta only [↓kept_mk, ↓console_mk, ↓console_mk', ↓boot_mk, ↓keeper_mk] | apply KeptMk.same | apply KeptMk.setCon | apply KeptMk.setBst
    | apply KeptMk.setKpr | apply KeptMk.setRegs | apply KeptMk.setAll | apply ConsoleMk.same | apply ConsoleMk.setBuf | apply BootMk.same
    | apply KeeperMk.same | apply Kept.pending | apply Kept.regs | apply Kept.bst | apply Kept.kpr | apply Kept.con | exact Nat.zero_le _
    | apply Kept.getD | exact nil_le | apply Kept.foldl_snd | apply Kept.foldl_fst | apply Kept.foldl

theorem BootStore.setStart_kept {b : BootStore} (hb : b.wf = true) :
    (BootStore.setStart b).wf = true := by
  unfold BootStore.setStart
  try dsimp only
  with_reducible repeat' first
    | assumption | intro _ | apply Kept.ite | apply hb | simp -zeta only [↓boot_mk] | apply KeptMk.same | apply KeptMk.setCon | apply KeptMk.setBst
    | apply KeptMk.setKpr | apply KeptMk.setRegs | apply KeptMk.setAll | apply ConsoleMk.same | apply ConsoleMk.setBuf | apply BootMk.same

theorem State.loadSaved_kept {pq : List Instr} {s : State} (hs : Kept pq s) :
    Kept pq (State.loadSaved s) := by
  unfold State.loadSaved
  try dsimp only
  with_reducible repeat' first
    | assumption | intro _ | apply Kept.ite | apply BootStore.setStart_kept | apply hs | simp -zeta only [↓kept_mk] | apply KeptMk.same
    | apply KeptMk.setCon | apply KeptMk.setBst | apply KeptMk.setKpr | apply KeptMk.setRegs | apply KeptMk.setAll | apply ConsoleMk.same
    | apply ConsoleMk.setBuf | apply BootMk.same | apply KeeperMk.same | apply Kept.pending | apply Kept.regs | apply Kept.bst

theorem State.saveSettings_kept {pq : List Instr} {s : State} (hs : Kept pq s) :
    Kept pq (State.saveSettings s).2 := by
  unfold State.saveSettings
  try dsimp only
  with_reducible repeat' first
    | assumption | intro _ | apply Kept.ite | apply State.fwProgram_kept | apply State.fwProgram_kept_of (by assumption) | apply State.fwErase_kept
    | apply State.fwErase_kept_of (by assumption) | apply State.done_kept | apply State.seq_kept | apply hs | simp -zeta only [↓kept_mk, ↓boot_mk]
    | apply KeptMk.same | apply KeptMk.setCon | apply KeptMk.setBst | apply KeptMk.setKpr | apply KeptMk.setRegs | apply KeptMk.setAll
    | apply ConsoleMk.same | apply ConsoleMk.setBuf | apply BootMk.same | apply KeeperMk.same | apply Kept.pending | apply Kept.regs | apply Kept.bst
    | apply Kept.kpr | apply Kept.con | exact Nat.zero_le _ | apply Kept.getD | exact nil_le | apply Kept.foldl_snd | apply Kept.foldl_fst
    | apply Kept.foldl | apply KeptO.none | apply KeptO.some | apply KeptO3.none | apply KeptO3.some | apply Kept.next | split

theorem State.saveSettings_kept_of {pq : List Instr} {s : State} {r0 : Saved} {r1 : State} (e : (State.saveSettings s) = (r0, r1)) (hs : Kept pq s) :
    Kept pq r1 := by
  have := State.saveSettings_kept (pq := pq) (s := s) hs
  rw [e] at this
  exact this

end Sys2Proof.Machine
end

