-- ==== Sys2Proof/Laws/KeptReply.lean ====
section
/-! SUPPORT. The operations of Machine/Reply.lean keep the queue of commands and the sound form of the state. -/

namespace Sys2Proof.Machine

/-- What is kept of the tunnel's lines fits. -/
theorem trimTunnel_le {f : Nat} {l : List (List Byte)} (h : l.length ≤ f) : ((trimTunnel f l).2.map List.length).sum ≤ 16384 := by
  induction f generalizing l with
  | zero => simp [trimTunnel, List.length_eq_zero_iff.1 (Nat.le_zero.1 h)]
  | succ f ih =>
    unfold trimTunnel
    split
    · assumption
    · exact ih (by rw [List.length_drop]; omega)

theorem State.uartSend_kept {pq : List Instr} {s : State} {c : List Byte} (hs : Kept pq s) :
    Kept pq (State.uartSend s c) := by
  unfold State.uartSend
  try dsimp only
  with_reducible repeat' first
    | assumption | intro _ | apply Kept.ite | apply hs | simp -zeta only [↓kept_mk, ↓console_mk'] | apply KeptMk.same | apply KeptMk.setCon
    | apply KeptMk.setBst | apply KeptMk.setKpr | apply KeptMk.setRegs | apply KeptMk.setAll | apply ConsoleMk.same | apply ConsoleMk.setBuf
    | apply BootMk.same | apply KeeperMk.same | apply Kept.pending | apply Kept.regs | apply Kept.bst | apply Kept.kpr | apply Kept.con

theorem State.tunnelAdd_kept {pq : List Instr} {s : State} {ls : List (List Byte)} (hs : Kept pq s) :
    Kept pq (State.tunnelAdd s ls) := by
  unfold State.tunnelAdd
  dsimp only
  apply State.raiseIf_kept
  simp only [↓kept_mk]
  refine KeptMk.setCon hs ?_
  simp only [↓console_mk']
  exact ConsoleMk.setTunnel hs.con (trimTunnel_le (Nat.le_refl _))

theorem State.sendLines_kept {pq : List Instr} {s : State} {c : LineCtx} {ls : List (List Byte)} (hs : Kept pq s) :
    Kept pq (State.sendLines s c ls) := by
  unfold State.sendLines
  try dsimp only
  with_reducible repeat' first
    | assumption | intro _ | apply Kept.ite | apply State.tethSend_kept | apply State.uartSend_kept | apply State.tunnelAdd_kept
    | apply State.uart_kept | apply hs | simp -zeta only [↓kept_mk, ↓console_mk, ↓console_mk', ↓boot_mk, ↓keeper_mk] | apply KeptMk.same
    | apply KeptMk.setCon | apply KeptMk.setBst | apply KeptMk.setKpr | apply KeptMk.setRegs | apply KeptMk.setAll | apply ConsoleMk.same
    | apply ConsoleMk.setBuf | apply BootMk.same | apply KeeperMk.same | apply Kept.pending | apply Kept.regs | apply Kept.bst | apply Kept.kpr
    | apply Kept.con | exact Nat.zero_le _ | apply Kept.getD | exact nil_le | apply Kept.foldl_snd | apply Kept.foldl_fst | apply Kept.foldl
    | apply KeptO.none | apply KeptO.some | apply KeptO3.none | apply KeptO3.some | apply Kept.next | split

theorem State.reply_kept {pq : List Instr} {s : State} {c : LineCtx} {cont : List (List Pair)} {st : Status} (hs : Kept pq s) :
    Kept pq (State.reply s c cont st) := by
  unfold State.reply
  try dsimp only
  with_reducible repeat' first
    | assumption | intro _ | apply Kept.ite | apply State.uartSend_kept | apply State.sendLines_kept | apply State.uart_kept | apply hs
    | simp -zeta only [↓kept_mk, ↓console_mk'] | apply KeptMk.same | apply KeptMk.setCon | apply KeptMk.setBst | apply KeptMk.setKpr
    | apply KeptMk.setRegs | apply KeptMk.setAll | apply ConsoleMk.same | apply ConsoleMk.setBuf | apply BootMk.same | apply KeeperMk.same
    | apply Kept.pending | apply Kept.regs | apply Kept.bst | apply Kept.kpr | apply Kept.con | exact Nat.zero_le _ | apply Kept.getD | exact nil_le
    | apply Kept.foldl_snd | apply Kept.foldl_fst | apply Kept.foldl | apply KeptO.none | apply KeptO.some | apply KeptO3.none | apply KeptO3.some
    | apply Kept.next | split

theorem State.finishLine_kept {pq : List Instr} {s : State} {c : LineCtx} {j : Option Nat} {cont : List (List Pair)} {st : Status} (hs : Kept pq s) :
    Kept pq (State.finishLine s c j cont st) := by
  unfold State.finishLine
  try dsimp only
  with_reducible repeat' first
    | assumption | intro _ | apply Kept.ite | apply State.journalResult_kept | apply State.reply_kept | apply hs
    | simp -zeta only [↓kept_mk, ↓console_mk, ↓console_mk', ↓boot_mk, ↓keeper_mk] | apply KeptMk.same | apply KeptMk.setCon | apply KeptMk.setBst
    | apply KeptMk.setKpr | apply KeptMk.setRegs | apply KeptMk.setAll | apply ConsoleMk.same | apply ConsoleMk.setBuf | apply BootMk.same
    | apply KeeperMk.same | apply Kept.pending | apply Kept.regs | apply Kept.bst | apply Kept.kpr | apply Kept.con | exact Nat.zero_le _
    | apply Kept.getD | exact nil_le | apply Kept.foldl_snd | apply Kept.foldl_fst | apply Kept.foldl | apply KeptO.none | apply KeptO.some
    | apply KeptO3.none | apply KeptO3.some | apply Kept.next | split

theorem State.finishJob_kept {pq : List Instr} {s : State} {p : Job → Bool} {r : Running → List (List Pair) × Status} (hs : Kept pq s) :
    Kept pq (State.finishJob s p r) := by
  unfold State.finishJob
  try dsimp only
  with_reducible repeat' first
    | assumption | intro _ | apply Kept.ite | apply State.finishLine_kept | apply State.ctx_kept | apply hs | simp -zeta only [↓kept_mk, ↓console_mk']
    | apply KeptMk.same | apply KeptMk.setCon | apply KeptMk.setBst | apply KeptMk.setKpr | apply KeptMk.setRegs | apply KeptMk.setAll
    | apply ConsoleMk.same | apply ConsoleMk.setBuf | apply BootMk.same | apply KeeperMk.same | apply Kept.pending | apply Kept.regs | apply Kept.bst
    | apply Kept.kpr | apply Kept.con | exact Nat.zero_le _ | apply Kept.getD | exact nil_le | apply Kept.foldl_snd | apply Kept.foldl_fst
    | apply Kept.foldl | apply KeptO.none | apply KeptO.some | apply KeptO3.none | apply KeptO3.some | apply Kept.next | split

theorem State.finishStop_kept {pq : List Instr} {s : State} (hs : Kept pq s) :
    Kept pq (State.finishStop s) := by
  unfold State.finishStop
  try dsimp only
  with_reducible repeat' first
    | assumption | intro _ | apply Kept.ite | apply State.finishLine_kept | apply State.ctx_kept | apply hs | simp -zeta only [↓kept_mk, ↓console_mk']
    | apply KeptMk.same | apply KeptMk.setCon | apply KeptMk.setBst | apply KeptMk.setKpr | apply KeptMk.setRegs | apply KeptMk.setAll
    | apply ConsoleMk.same | apply ConsoleMk.setBuf | apply BootMk.same | apply KeeperMk.same | apply Kept.pending | apply Kept.regs | apply Kept.bst
    | apply Kept.kpr | apply Kept.con | exact Nat.zero_le _ | apply Kept.getD | exact nil_le | apply Kept.foldl_snd | apply Kept.foldl_fst
    | apply Kept.foldl | apply KeptO.none | apply KeptO.some | apply KeptO3.none | apply KeptO3.some | apply Kept.next | split

theorem State.run_kept {pq : List Instr} {s : State} {x : Running} (hs : Kept pq s) :
    Kept pq (State.run s x) := by
  unfold State.run
  try dsimp only
  with_reducible repeat' first
    | assumption | intro _ | apply Kept.ite | apply hs | simp -zeta only [↓kept_mk, ↓console_mk'] | apply KeptMk.same | apply KeptMk.setCon
    | apply KeptMk.setBst | apply KeptMk.setKpr | apply KeptMk.setRegs | apply KeptMk.setAll | apply ConsoleMk.same | apply ConsoleMk.setBuf
    | apply BootMk.same | apply KeeperMk.same | apply Kept.pending | apply Kept.regs | apply Kept.bst | apply Kept.kpr | apply Kept.con

end Sys2Proof.Machine
end

