-- ==== Sys2Proof/Laws/KeptResetOps.lean ====
section
/-! SUPPORT. The operations of Machine/ResetOps.lean keep the queue of commands and the sound form of the state. -/

namespace Sys2Proof.Machine

theorem State.resetRegs_kept {pq : List Instr} {s : State} {level : Nat} (hs : Kept pq s) :
    Kept pq (State.resetRegs s level) := by
  unfold State.resetRegs
  simp only [↓kept_mk]
  exact KeptMk.setRegs hs (Store.wf_drop _ hs.regs)

theorem State.interruptOps_kept {pq : List Instr} {s : State} {ops : List (Fin 8 × GOp)} (hs : Kept pq s) :
    Kept pq (State.interruptOps s ops) := by
  unfold State.interruptOps
  try dsimp only
  with_reducible repeat' first
    | assumption | intro _ | apply Kept.ite | apply State.parity_kept | apply hs | simp -zeta only [↓kept_mk] | apply KeptMk.same

theorem State.interrupt_kept {pq : List Instr} {s : State} (hs : Kept pq s) :
    Kept pq (State.interrupt s) := by
  unfold State.interrupt
  with_reducible repeat' first
    | assumption | intro _ | apply Kept.ite | apply State.interruptOps_kept

theorem Console.reset_kept {c : Console} {level : Nat} (hc : c.wf = true) :
    (Console.reset c level).wf = true := by
  unfold Console.reset
  simp only [↓console_mk, ↓console_mk']
  have h := (Console.wf_iff c).1 hc
  refine ⟨by simp, ?_, fun p => ?_⟩
  · split
    · exact h.2.1
    · simp
  · split
    · exact Nat.le_trans (List.Sublist.countP_le List.filter_sublist) (h.2.2 p)
    · simp

theorem State.resetBlocks_kept {pq : List Instr} {s : State} {level : Nat} (hs : Kept pq s) :
    Kept pq (State.resetBlocks s level) := by
  unfold State.resetBlocks
  try dsimp only
  with_reducible repeat' first
    | assumption | intro _ | apply Kept.ite | apply Keeper.scramble_kept | apply Console.reset_kept | apply hs | simp -zeta only [↓kept_mk, ↓boot_mk]
    | apply KeptMk.same | apply KeptMk.setCon | apply KeptMk.setBst | apply KeptMk.setKpr | apply KeptMk.setRegs | apply KeptMk.setAll
    | apply ConsoleMk.same | apply ConsoleMk.setBuf | apply BootMk.same | apply KeeperMk.same | apply Kept.pending | apply Kept.regs | apply Kept.bst
    | apply Kept.kpr | apply Kept.con

theorem State.dropStaging_kept {pq : List Instr} {s : State} (hs : Kept pq s) :
    Kept pq (State.dropStaging s) := by
  unfold State.dropStaging
  try dsimp only
  with_reducible repeat' first
    | assumption | intro _ | apply Kept.ite | apply hs | simp -zeta only [↓kept_mk] | apply KeptMk.same

theorem State.recordReset_kept {pq : List Instr} {s : State} {level : Nat} {src : Nat} {count : Nat} (hs : Kept pq s) :
    Kept pq (State.recordReset s level src count) := by
  unfold State.recordReset
  try dsimp only
  with_reducible repeat' first
    | assumption | intro _ | apply Kept.ite | apply State.setReg_kept | apply State.cause_kept

theorem State.recordSelf_kept {pq : List Instr} {s : State} (hs : Kept pq s) :
    Kept pq (State.recordSelf s) := by
  unfold State.recordSelf
  try dsimp only
  with_reducible repeat' first
    | assumption | intro _ | apply Kept.ite | apply State.setReg_kept | apply hs | simp -zeta only [↓kept_mk] | apply KeptMk.same

theorem State.resetOrders_kept {pq : List Instr} {s : State} {level : Nat} {src : Nat} (hs : Kept pq s) :
    Kept pq (State.resetOrders s level src) := by
  unfold State.resetOrders
  with_reducible repeat' first
    | assumption | intro _ | apply Kept.ite | apply State.order_kept | apply State.orderAll_kept

theorem State.activating_kept {pq : List Instr} {s : State} {level : Nat} (hs : Kept pq s) :
    Kept pq (State.activating s level) := by
  unfold State.activating
  try dsimp only
  with_reducible repeat' first
    | assumption | intro _ | apply Kept.ite | apply hs | simp -zeta only [↓kept_mk] | apply KeptMk.same

theorem State.assertReset_kept {pq : List Instr} {s : State} {level : Nat} {src : Nat} (hs : Kept pq s) :
    Kept pq (State.assertReset s level src) := by
  unfold State.assertReset
  try dsimp only
  with_reducible repeat' first
    | assumption | intro _ | apply Kept.ite | apply State.resetRegs_kept | apply State.interrupt_kept | apply State.resetBlocks_kept
    | apply State.dropStaging_kept | apply State.recordReset_kept | apply State.resetOrders_kept | apply State.activating_kept | apply hs
    | simp -zeta only [↓kept_mk] | apply KeptMk.same

theorem State.requestReset_kept {pq : List Instr} {s : State} {src : Nat} {level : Nat} (hs : Kept pq s) :
    Kept pq (State.requestReset s src level) := by
  unfold State.requestReset
  try dsimp only
  with_reducible repeat' first
    | assumption | intro _ | apply Kept.ite | apply State.cause_kept | apply State.assertReset_kept | apply hs | simp -zeta only [↓kept_mk]
    | apply KeptMk.same | apply KeptMk.setCon | apply KeptMk.setBst | apply KeptMk.setKpr | apply KeptMk.setRegs | apply KeptMk.setAll
    | apply ConsoleMk.same | apply ConsoleMk.setBuf | apply BootMk.same | apply KeeperMk.same | apply Kept.pending | apply Kept.regs | apply Kept.bst
    | apply Kept.kpr | apply Kept.con | exact Nat.zero_le _ | apply Kept.getD | exact nil_le | apply Kept.foldl_snd | apply Kept.foldl_fst
    | apply Kept.foldl | apply KeptO.none | apply KeptO.some | apply KeptO3.none | apply KeptO3.some | apply Kept.next | split

theorem State.requestFused_kept {pq : List Instr} {s : State} {src : Nat} (hs : Kept pq s) :
    Kept pq (State.requestFused s src) := by
  unfold State.requestFused
  with_reducible repeat' first
    | assumption | intro _ | apply Kept.ite | apply State.requestReset_kept

theorem State.unitRegs_kept {pq : List Instr} {s : State} {u : UnitName} (hs : Kept pq s) :
    Kept pq (State.unitRegs s u) := by
  unfold State.unitRegs
  simp only [↓kept_mk]
  exact KeptMk.setRegs hs (Store.wf_drop _ hs.regs)

theorem State.laneIn_kept {pq : List Instr} {s : State} {bit : Nat} (hs : Kept pq s) :
    Kept pq (State.laneIn s bit) := by
  unfold State.laneIn
  with_reducible repeat' first
    | assumption | intro _ | apply Kept.ite | apply State.setReg_kept

theorem State.writeMode_kept {pq : List Instr} {s : State} {g : Fin 8} (hs : Kept pq s) :
    Kept pq (State.writeMode s g) := by
  unfold State.writeMode
  with_reducible repeat' first
    | assumption | intro _ | apply Kept.ite | apply State.setRf_kept

theorem State.galSetup_kept {pq : List Instr} {s : State} {g : Fin 8} (hs : Kept pq s) :
    Kept pq (State.galSetup s g) := by
  unfold State.galSetup
  with_reducible repeat' first
    | assumption | intro _ | apply Kept.ite | apply State.setRf_kept | apply State.writeMode_kept

theorem State.unitState_kept {pq : List Instr} {s : State} {x1 : UnitName} (hs : Kept pq s) :
    Kept pq (State.unitState s x1) := by
  unfold State.unitState
  try dsimp only
  with_reducible repeat' first
    | assumption | intro _ | apply Kept.ite | apply State.gal_kept | apply Console.reset_kept | apply State.laneIn_kept | apply State.galSetup_kept
    | apply hs | simp -zeta only [↓kept_mk] | apply KeptMk.same | apply KeptMk.setCon | apply KeptMk.setBst | apply KeptMk.setKpr
    | apply KeptMk.setRegs | apply KeptMk.setAll | apply ConsoleMk.same | apply ConsoleMk.setBuf | apply BootMk.same | apply KeeperMk.same
    | apply Kept.pending | apply Kept.regs | apply Kept.bst | apply Kept.kpr | apply Kept.con | exact Nat.zero_le _ | apply Kept.getD | exact nil_le
    | apply Kept.foldl_snd | apply Kept.foldl_fst | apply Kept.foldl | apply KeptO.none | apply KeptO.some | apply KeptO3.none | apply KeptO3.some
    | apply Kept.next | split

theorem State.assertUnit_kept {pq : List Instr} {s : State} {u : UnitName} {src : Nat} (hs : Kept pq s) :
    Kept pq (State.assertUnit s u src) := by
  unfold State.assertUnit
  try dsimp only
  with_reducible repeat' first
    | assumption | intro _ | apply Kept.ite | apply State.recordReset_kept | apply State.unitRegs_kept | apply State.unitState_kept | apply hs
    | simp -zeta only [↓kept_mk] | apply KeptMk.same

theorem State.requestUnit_kept {pq : List Instr} {s : State} {u : UnitName} {src : Nat} (hs : Kept pq s) :
    Kept pq (State.requestUnit s u src).2 := by
  unfold State.requestUnit
  with_reducible repeat' first
    | assumption | intro _ | apply Kept.ite | apply State.cause_kept | apply State.assertUnit_kept | apply hs
    | simp -zeta only [↓kept_mk, ↓console_mk, ↓console_mk', ↓boot_mk, ↓keeper_mk] | apply KeptMk.same | apply KeptMk.setCon | apply KeptMk.setBst
    | apply KeptMk.setKpr | apply KeptMk.setRegs | apply KeptMk.setAll | apply ConsoleMk.same | apply ConsoleMk.setBuf | apply BootMk.same
    | apply KeeperMk.same | apply Kept.pending | apply Kept.regs | apply Kept.bst | apply Kept.kpr | apply Kept.con | exact Nat.zero_le _
    | apply Kept.getD | exact nil_le | apply Kept.foldl_snd | apply Kept.foldl_fst | apply Kept.foldl | apply KeptO.none | apply KeptO.some
    | apply KeptO3.none | apply KeptO3.some | apply Kept.next | split

theorem State.requestUnit_kept_of {pq : List Instr} {s : State} {u : UnitName} {src : Nat} {r0 : Bool} {r1 : State} (e : (State.requestUnit s u src) = (r0, r1)) (hs : Kept pq s) :
    Kept pq r1 := by
  have := State.requestUnit_kept (pq := pq) (s := s) (u := u) (src := src) hs
  rw [e] at this
  exact this

end Sys2Proof.Machine
end

