-- ==== Sys2Proof/Laws/KeptMapOps.lean ====
section
/-! SUPPORT. The operations of Machine/MapOps.lean keep the queue of commands and the sound form of the state. -/

namespace Sys2Proof.Machine

theorem State.newId_kept {pq : List Instr} {s : State} (hs : Kept pq s) :
    Kept pq (State.newId s).2 := by
  unfold State.newId
  try dsimp only
  with_reducible repeat' first
    | assumption | intro _ | apply Kept.ite | apply hs | simp -zeta only [↓kept_mk] | apply KeptMk.same

theorem State.newId_kept_of {pq : List Instr} {s : State} {r0 : Nat} {r1 : State} (e : (State.newId s) = (r0, r1)) (hs : Kept pq s) :
    Kept pq r1 := by
  have := State.newId_kept (pq := pq) (s := s) hs
  rw [e] at this
  exact this

theorem State.newSeq_kept {pq : List Instr} {s : State} (hs : Kept pq s) :
    Kept pq (State.newSeq s).2 := by
  unfold State.newSeq
  try dsimp only
  with_reducible repeat' first
    | assumption | intro _ | apply Kept.ite | apply hs | simp -zeta only [↓kept_mk] | apply KeptMk.same

theorem State.newSeq_kept_of {pq : List Instr} {s : State} {r0 : Nat} {r1 : State} (e : (State.newSeq s) = (r0, r1)) (hs : Kept pq s) :
    Kept pq r1 := by
  have := State.newSeq_kept (pq := pq) (s := s) hs
  rw [e] at this
  exact this

theorem State.closeBlk_kept {pq : List Instr} {s : State} {k : Nat} (hs : Kept pq s) :
    Kept pq (State.closeBlk s k) := by
  unfold State.closeBlk
  try dsimp only
  with_reducible repeat' first
    | assumption | intro _ | apply Kept.ite | apply State.setBlk_kept

theorem State.record_kept {pq : List Instr} {s : State} {r : JRec} (hs : Kept pq s) :
    Kept pq (State.record s r) := by
  unfold State.record
  try dsimp only
  with_reducible repeat' first
    | assumption | intro _ | apply Kept.ite | apply State.newSeq_kept | apply State.newSeq_kept_of (by assumption) | apply hs
    | simp -zeta only [↓kept_mk] | apply KeptMk.same

theorem State.poolFit_kept {pq : List Instr} {s : State} (hs : Kept pq s) :
    Kept pq (State.poolFit s) := by
  unfold State.poolFit
  try dsimp only
  with_reducible repeat' first
    | assumption | intro _ | apply Kept.ite | apply hs | simp -zeta only [↓kept_mk] | apply KeptMk.same

theorem State.touch_kept {pq : List Instr} {s : State} {series : Nat} {n : Nat} {dirty : Bool} (hs : Kept pq s) :
    Kept pq (State.touch s series n dirty) := by
  unfold State.touch
  try dsimp only
  with_reducible repeat' first
    | assumption | intro _ | apply Kept.ite | apply hs | simp -zeta only [↓kept_mk] | apply KeptMk.same

theorem State.lookup_kept {pq : List Instr} {s : State} {d : Nat} (hs : Kept pq s) :
    Kept pq (State.lookup s d) := by
  unfold State.lookup
  try dsimp only
  with_reducible repeat' first
    | assumption | intro _ | apply Kept.ite | apply State.bumpWrap_kept | apply State.touch_kept | apply hs
    | simp -zeta only [↓kept_mk, ↓console_mk, ↓console_mk', ↓boot_mk, ↓keeper_mk] | apply KeptMk.same | apply KeptMk.setCon | apply KeptMk.setBst
    | apply KeptMk.setKpr | apply KeptMk.setRegs | apply KeptMk.setAll | apply ConsoleMk.same | apply ConsoleMk.setBuf | apply BootMk.same
    | apply KeeperMk.same | apply Kept.pending | apply Kept.regs | apply Kept.bst | apply Kept.kpr | apply Kept.con | exact Nat.zero_le _
    | apply Kept.getD | exact nil_le | apply Kept.foldl_snd | apply Kept.foldl_fst | apply Kept.foldl | apply KeptO.none | apply KeptO.some
    | apply KeptO3.none | apply KeptO3.some | apply Kept.next | split

theorem State.setEntry_kept {pq : List Instr} {s : State} {d : Nat} {x : Entry} (hs : Kept pq s) :
    Kept pq (State.setEntry s d x) := by
  unfold State.setEntry
  try dsimp only
  with_reducible repeat' first
    | assumption | intro _ | apply Kept.ite | apply State.setBlk_kept | apply State.lose_kept | apply hs | simp -zeta only [↓kept_mk]
    | apply KeptMk.same | apply KeptMk.setCon | apply KeptMk.setBst | apply KeptMk.setKpr | apply KeptMk.setRegs | apply KeptMk.setAll
    | apply ConsoleMk.same | apply ConsoleMk.setBuf | apply BootMk.same | apply KeeperMk.same | apply Kept.pending | apply Kept.regs | apply Kept.bst
    | apply Kept.kpr | apply Kept.con | exact Nat.zero_le _ | apply Kept.getD | exact nil_le | apply Kept.foldl_snd | apply Kept.foldl_fst
    | apply Kept.foldl | apply KeptO.none | apply KeptO.some | apply KeptO3.none | apply KeptO3.some | apply Kept.next | split

theorem State.bumpExt_kept {pq : List Instr} {s : State} {e : Nat} (hs : Kept pq s) :
    Kept pq (State.bumpExt s e) := by
  unfold State.bumpExt
  try dsimp only
  with_reducible repeat' first
    | assumption | intro _ | apply Kept.ite | apply State.bump_kept | apply hs | simp -zeta only [↓kept_mk] | apply KeptMk.same

theorem State.remap_kept {pq : List Instr} {s : State} {d : Nat} {x : Entry} (hs : Kept pq s) :
    Kept pq (State.remap s d x) := by
  unfold State.remap
  with_reducible repeat' first
    | assumption | intro _ | apply Kept.ite | apply State.setEntry_kept | apply State.bumpExt_kept | simp -zeta only [↓kept_mk]

theorem State.refreshWant_kept {pq : List Instr} {s : State} {k : Nat} {cause : Nat} {carried : Bool} (hs : Kept pq s) :
    Kept pq (State.refreshWant s k cause carried) := by
  unfold State.refreshWant
  try dsimp only
  with_reducible repeat' first
    | assumption | intro _ | apply Kept.ite | apply State.raise_kept | apply State.raiseIf_kept | apply State.cause_kept | apply State.setBlk_kept
    | apply hs | simp -zeta only [↓kept_mk] | apply KeptMk.same

theorem State.refreshScan_kept {pq : List Instr} {s : State} (hs : Kept pq s) :
    Kept pq (State.refreshScan s) := by
  unfold State.refreshScan
  with_reducible repeat' first
    | assumption | intro _ | apply Kept.ite | apply State.cause_kept | apply State.refreshWant_kept | apply hs
    | simp -zeta only [↓kept_mk, ↓console_mk, ↓console_mk', ↓boot_mk, ↓keeper_mk] | apply KeptMk.same | apply KeptMk.setCon | apply KeptMk.setBst
    | apply KeptMk.setKpr | apply KeptMk.setRegs | apply KeptMk.setAll | apply ConsoleMk.same | apply ConsoleMk.setBuf | apply BootMk.same
    | apply KeeperMk.same | apply Kept.pending | apply Kept.regs | apply Kept.bst | apply Kept.kpr | apply Kept.con | exact Nat.zero_le _
    | apply Kept.getD | exact nil_le | apply Kept.foldl_snd | apply Kept.foldl_fst | apply Kept.foldl

theorem State.refreshDone_kept {pq : List Instr} {s : State} {k : Nat} (hs : Kept pq s) :
    Kept pq (State.refreshDone s k) := by
  unfold State.refreshDone
  try dsimp only
  with_reducible repeat' first
    | assumption | intro _ | apply Kept.ite | apply State.cause_kept | apply State.setBlk_kept | apply State.refreshScan_kept | apply hs
    | simp -zeta only [↓kept_mk] | apply KeptMk.same

theorem State.stat_kept {pq : List Instr} {s : State} {k : String} {n : Nat} (hs : Kept pq s) :
    Kept pq (State.stat s k n) := by
  unfold State.stat
  try dsimp only
  with_reducible repeat' first
    | assumption | intro _ | apply Kept.ite | apply hs | simp -zeta only [↓kept_mk] | apply KeptMk.same

theorem State.smartEvent_kept {pq : List Instr} {s : State} {bit : Nat} {info : Nat} (hs : Kept pq s) :
    Kept pq (State.smartEvent s bit info) := by
  unfold State.smartEvent
  try dsimp only
  with_reducible repeat' first
    | assumption | intro _ | apply Kept.ite | apply hs | simp -zeta only [↓kept_mk] | apply KeptMk.same

theorem State.saveHealth_kept {pq : List Instr} {s : State} (hs : Kept pq s) :
    Kept pq (State.saveHealth s) := by
  unfold State.saveHealth
  try dsimp only
  with_reducible repeat' first
    | assumption | intro _ | apply Kept.ite | apply BootStore.hAdd_kept | apply hs | simp -zeta only [↓kept_mk, ↓boot_mk] | apply KeptMk.same
    | apply KeptMk.setCon | apply KeptMk.setBst | apply KeptMk.setKpr | apply KeptMk.setRegs | apply KeptMk.setAll | apply ConsoleMk.same
    | apply ConsoleMk.setBuf | apply BootMk.same | apply KeeperMk.same | apply Kept.pending | apply Kept.regs | apply Kept.bst

theorem State.healthNow_kept {pq : List Instr} {s : State} (hs : Kept pq s) :
    Kept pq (State.healthNow s) := by
  unfold State.healthNow
  try dsimp only
  with_reducible repeat' first
    | assumption | intro _ | apply Kept.ite | apply State.raise_kept | apply State.smartEvent_kept | apply State.saveHealth_kept | apply hs
    | simp -zeta only [↓kept_mk] | apply KeptMk.same

theorem State.countRetire_kept {pq : List Instr} {s : State} {reason : Nat} (hs : Kept pq s) :
    Kept pq (State.countRetire s reason) := by
  unfold State.countRetire
  try dsimp only
  with_reducible repeat' first
    | assumption | intro _ | apply Kept.ite | apply State.bump_kept | apply hs
    | simp -zeta only [↓kept_mk, ↓console_mk, ↓console_mk', ↓boot_mk, ↓keeper_mk] | apply KeptMk.same | apply KeptMk.setCon | apply KeptMk.setBst
    | apply KeptMk.setKpr | apply KeptMk.setRegs | apply KeptMk.setAll | apply ConsoleMk.same | apply ConsoleMk.setBuf | apply BootMk.same
    | apply KeeperMk.same | apply Kept.pending | apply Kept.regs | apply Kept.bst | apply Kept.kpr | apply Kept.con | exact Nat.zero_le _
    | apply Kept.getD | exact nil_le | apply Kept.foldl_snd | apply Kept.foldl_fst | apply Kept.foldl | apply KeptO.none | apply KeptO.some
    | apply KeptO3.none | apply KeptO3.some | apply Kept.next | split

theorem State.floorFit_kept {pq : List Instr} {s : State} {c : Fin 128} {n : Nat} (hs : Kept pq s) :
    Kept pq (State.floorFit s c n) := by
  unfold State.floorFit
  try dsimp only
  with_reducible repeat' first
    | assumption | intro _ | apply Kept.ite | apply State.setBlk_kept | apply hs
    | simp -zeta only [↓kept_mk, ↓console_mk, ↓console_mk', ↓boot_mk, ↓keeper_mk] | apply KeptMk.same | apply KeptMk.setCon | apply KeptMk.setBst
    | apply KeptMk.setKpr | apply KeptMk.setRegs | apply KeptMk.setAll | apply ConsoleMk.same | apply ConsoleMk.setBuf | apply BootMk.same
    | apply KeeperMk.same | apply Kept.pending | apply Kept.regs | apply Kept.bst | apply Kept.kpr | apply Kept.con | exact Nat.zero_le _
    | apply Kept.getD | exact nil_le | apply Kept.foldl_snd | apply Kept.foldl_fst | apply Kept.foldl | apply KeptO.none | apply KeptO.some
    | apply KeptO3.none | apply KeptO3.some | apply Kept.next | split

theorem State.retireBlk_kept {pq : List Instr} {s : State} {k : Nat} {reason : Nat} (hs : Kept pq s) :
    Kept pq (State.retireBlk s k reason) := by
  unfold State.retireBlk
  try dsimp only
  with_reducible repeat' first
    | assumption | intro _ | apply Kept.ite | apply State.setBlk_kept | apply State.record_kept | apply State.refreshDone_kept
    | apply State.healthNow_kept | apply State.countRetire_kept | apply State.floorFit_kept | apply hs | simp -zeta only [↓kept_mk]
    | apply KeptMk.same | apply KeptMk.setCon | apply KeptMk.setBst | apply KeptMk.setKpr | apply KeptMk.setRegs | apply KeptMk.setAll
    | apply ConsoleMk.same | apply ConsoleMk.setBuf | apply BootMk.same | apply KeeperMk.same | apply Kept.pending | apply Kept.regs | apply Kept.bst
    | apply Kept.kpr | apply Kept.con | exact Nat.zero_le _ | apply Kept.getD | exact nil_le | apply Kept.foldl_snd | apply Kept.foldl_fst
    | apply Kept.foldl | apply KeptO.none | apply KeptO.some | apply KeptO3.none | apply KeptO3.some | apply Kept.next | split

theorem State.retireTry_kept {pq : List Instr} {s : State} {k : Nat} (hs : Kept pq s) :
    Kept pq (State.retireTry s k) := by
  unfold State.retireTry
  try dsimp only
  with_reducible repeat' first
    | assumption | intro _ | apply Kept.ite | apply State.retireBlk_kept

theorem State.queueOp_kept {pq : List Instr} {s : State} {g : Fin 8} {op : GOp} (hs : Kept pq s) :
    Kept pq (State.queueOp s g op) := by
  unfold State.queueOp
  try dsimp only
  with_reducible repeat' first
    | assumption | intro _ | apply Kept.ite | apply State.gal_kept

theorem State.queueErase_kept {pq : List Instr} {s : State} {k : Nat} (hs : Kept pq s) :
    Kept pq (State.queueErase s k) := by
  unfold State.queueErase
  try dsimp only
  with_reducible repeat' first
    | assumption | intro _ | apply Kept.ite | apply State.newId_kept | apply State.newId_kept_of (by assumption) | apply State.queueOp_kept

theorem State.openBlk_kept {pq : List Instr} {s : State} {k : Nat} {use : BlkUse} {pslc : Bool} (hs : Kept pq s) :
    Kept pq (State.openBlk s k use pslc) := by
  unfold State.openBlk
  try dsimp only
  with_reducible repeat' first
    | assumption | intro _ | apply Kept.ite | apply State.setBlk_kept | apply BootStore.next_kept | apply State.queueErase_kept

theorem State.queueParityPage_kept {pq : List Instr} {s : State} {k : Nat} {page : Nat} {n : Nat} (hs : Kept pq s) :
    Kept pq (State.queueParityPage s k page n) := by
  unfold State.queueParityPage
  try dsimp only
  with_reducible repeat' first
    | assumption | intro _ | apply Kept.ite | apply State.newId_kept | apply State.newId_kept_of (by assumption) | apply State.queueOp_kept

theorem State.pushEnc_kept {pq : List Instr} {s : State} {e : Enc} (hs : Kept pq s) :
    Kept pq (State.pushEnc s e) := by
  unfold State.pushEnc
  try dsimp only
  with_reducible repeat' first
    | assumption | intro _ | apply Kept.ite | apply hs | simp -zeta only [↓kept_mk] | apply KeptMk.same

theorem State.describe_kept {pq : List Instr} {s : State} {g : StripeGroup} {k : Nat} {first : Nat} (hs : Kept pq s) :
    Kept pq (State.describe s g k first) := by
  unfold State.describe
  try dsimp only
  with_reducible repeat' first
    | assumption | intro _ | apply Kept.ite | apply State.newId_kept | apply State.newId_kept_of (by assumption) | apply State.newSeq_kept
    | apply State.newSeq_kept_of (by assumption) | apply State.queueParityPage_kept | apply State.pushEnc_kept

theorem State.openGroup_kept {pq : List Instr} {s : State} {flow : Flow} (hs : Kept pq s) :
    KeptO pq (State.openGroup s flow) := by
  unfold State.openGroup
  try dsimp only
  with_reducible repeat' first
    | assumption | intro _ | apply Kept.ite | apply State.setBlk_kept | apply State.record_kept | apply State.openBlk_kept | apply State.describe_kept
    | apply State.parity_kept | apply hs | simp -zeta only [↓kept_mk] | apply KeptMk.same | apply KeptMk.setCon | apply KeptMk.setBst
    | apply KeptMk.setKpr | apply KeptMk.setRegs | apply KeptMk.setAll | apply ConsoleMk.same | apply ConsoleMk.setBuf | apply BootMk.same
    | apply KeeperMk.same | apply Kept.pending | apply Kept.regs | apply Kept.bst | apply Kept.kpr | apply Kept.con | exact Nat.zero_le _
    | apply Kept.getD | exact nil_le | apply Kept.foldl_snd | apply Kept.foldl_fst | apply Kept.foldl | apply KeptO.none | apply KeptO.some
    | apply KeptO3.none | apply KeptO3.some | apply Kept.next | split

theorem State.openGroup_kept_of {pq : List Instr} {s : State} {flow : Flow} {r0} (e : (State.openGroup s flow) = some r0) (hs : Kept pq s) :
    Kept pq r0 := State.openGroup_kept hs _ e

theorem State.setGroup_kept {pq : List Instr} {s : State} {n : Nat} {f : StripeGroup → StripeGroup} (hs : Kept pq s) :
    Kept pq (State.setGroup s n f) := by
  unfold State.setGroup
  try dsimp only
  with_reducible repeat' first
    | assumption | intro _ | apply Kept.ite | apply hs | simp -zeta only [↓kept_mk] | apply KeptMk.same

theorem State.fillBegin_kept {pq : List Instr} {s : State} {n : Nat} (hs : Kept pq s) :
    Kept pq (State.fillBegin s n) := by
  unfold State.fillBegin
  try dsimp only
  with_reducible repeat' first
    | assumption | intro _ | apply Kept.ite | apply State.setBlk_kept | apply BootStore.next_kept | apply State.setGroup_kept | apply hs
    | simp -zeta only [↓kept_mk, ↓console_mk, ↓console_mk', ↓boot_mk, ↓keeper_mk] | apply KeptMk.same | apply KeptMk.setCon | apply KeptMk.setBst
    | apply KeptMk.setKpr | apply KeptMk.setRegs | apply KeptMk.setAll | apply ConsoleMk.same | apply ConsoleMk.setBuf | apply BootMk.same
    | apply KeeperMk.same | apply Kept.pending | apply Kept.regs | apply Kept.bst | apply Kept.kpr | apply Kept.con | exact Nat.zero_le _
    | apply Kept.getD | exact nil_le | apply Kept.foldl_snd | apply Kept.foldl_fst | apply Kept.foldl | apply KeptO.none | apply KeptO.some
    | apply KeptO3.none | apply KeptO3.some | apply Kept.next | split

theorem State.fillOf_kept {pq : List Instr} {s : State} {n : Nat} (hs : Kept pq s) :
    KeptO3 pq (State.fillOf s n) := by
  have m : ∀ {t : State} (o : Option (Loc × List Nat)), Kept pq t → KeptO3 pq (o.map fun f => (f.1, f.2, t)) := by
    intro t o ht x e
    cases o with
    | none => cases e
    | some f => cases e; exact ht
  unfold State.fillOf
  split
  · exact KeptO3.none
  · dsimp only
    split
    · exact m _ hs
    · exact m _ (by split <;> first | exact State.fillBegin_kept hs | exact hs)

theorem State.fillOf_kept_of {pq : List Instr} {s : State} {n : Nat} {r0} {r1} {r2} (e : (State.fillOf s n) = some (r0, r1, r2)) (hs : Kept pq s) :
    Kept pq r2 := State.fillOf_kept hs _ e

theorem State.allocIn_kept {pq : List Instr} {s : State} {n : Nat} {id : Nat} (hs : Kept pq s) :
    KeptO3 pq (State.allocIn s n id) := by
  unfold State.allocIn
  try dsimp only
  with_reducible repeat' first
    | assumption | intro _ | apply Kept.ite | apply State.setGroup_kept | apply State.fillOf_kept | apply State.fillOf_kept_of (by assumption)
    | apply hs | simp -zeta only [↓kept_mk, ↓console_mk, ↓console_mk', ↓boot_mk, ↓keeper_mk] | apply KeptMk.same | apply KeptMk.setCon
    | apply KeptMk.setBst | apply KeptMk.setKpr | apply KeptMk.setRegs | apply KeptMk.setAll | apply ConsoleMk.same | apply ConsoleMk.setBuf
    | apply BootMk.same | apply KeeperMk.same | apply Kept.pending | apply Kept.regs | apply Kept.bst | apply Kept.kpr | apply Kept.con
    | exact Nat.zero_le _ | apply Kept.getD | exact nil_le | apply Kept.foldl_snd | apply Kept.foldl_fst | apply Kept.foldl | apply KeptO.none
    | apply KeptO.some | apply KeptO3.none | apply KeptO3.some | apply Kept.next | split

theorem State.allocIn_kept_of {pq : List Instr} {s : State} {n : Nat} {id : Nat} {r0} {r1} {r2} (e : (State.allocIn s n id) = some (r0, r1, r2)) (hs : Kept pq s) :
    Kept pq r2 := State.allocIn_kept hs _ e

theorem State.releaseFill_kept {pq : List Instr} {s : State} {n : Nat} {cls : Nat} {need : Need} (hs : Kept pq s) :
    Kept pq (State.releaseFill s n cls need) := by
  unfold State.releaseFill
  try dsimp only
  with_reducible repeat' first
    | assumption | intro _ | apply Kept.ite | apply State.newId_kept | apply State.newId_kept_of (by assumption) | apply State.queueOp_kept
    | apply State.setGroup_kept | apply hs | simp -zeta only [↓kept_mk, ↓console_mk, ↓console_mk', ↓boot_mk, ↓keeper_mk] | apply KeptMk.same
    | apply KeptMk.setCon | apply KeptMk.setBst | apply KeptMk.setKpr | apply KeptMk.setRegs | apply KeptMk.setAll | apply ConsoleMk.same
    | apply ConsoleMk.setBuf | apply BootMk.same | apply KeeperMk.same | apply Kept.pending | apply Kept.regs | apply Kept.bst | apply Kept.kpr
    | apply Kept.con | exact Nat.zero_le _ | apply Kept.getD | exact nil_le | apply Kept.foldl_snd | apply Kept.foldl_fst | apply Kept.foldl
    | apply KeptO.none | apply KeptO.some | apply KeptO3.none | apply KeptO3.some | apply Kept.next | split

theorem State.moreParity_kept {pq : List Instr} {s : State} {g : StripeGroup} {pos : Nat} (hs : Kept pq s) :
    Kept pq (State.moreParity s g pos) := by
  unfold State.moreParity
  try dsimp only
  with_reducible repeat' first
    | assumption | intro _ | apply Kept.ite | apply State.openBlk_kept | apply State.describe_kept | apply State.setGroup_kept
    | apply State.parity_kept | apply hs | simp -zeta only [↓kept_mk, ↓console_mk, ↓console_mk', ↓boot_mk, ↓keeper_mk] | apply KeptMk.same
    | apply KeptMk.setCon | apply KeptMk.setBst | apply KeptMk.setKpr | apply KeptMk.setRegs | apply KeptMk.setAll | apply ConsoleMk.same
    | apply ConsoleMk.setBuf | apply BootMk.same | apply KeeperMk.same | apply Kept.pending | apply Kept.regs | apply Kept.bst | apply Kept.kpr
    | apply Kept.con | exact Nat.zero_le _ | apply Kept.getD | exact nil_le | apply Kept.foldl_snd | apply Kept.foldl_fst | apply Kept.foldl
    | apply KeptO.none | apply KeptO.some | apply KeptO3.none | apply KeptO3.some | apply Kept.next | split

theorem State.queueParity_kept {pq : List Instr} {s : State} {g : StripeGroup} {pos : Nat} (hs : Kept pq s) :
    Kept pq (State.queueParity s g pos) := by
  unfold State.queueParity
  try dsimp only
  with_reducible repeat' first
    | assumption | intro _ | apply Kept.ite | apply State.queueParityPage_kept | apply State.moreParity_kept | apply hs
    | simp -zeta only [↓kept_mk, ↓console_mk, ↓console_mk', ↓boot_mk, ↓keeper_mk] | apply KeptMk.same | apply KeptMk.setCon | apply KeptMk.setBst
    | apply KeptMk.setKpr | apply KeptMk.setRegs | apply KeptMk.setAll | apply ConsoleMk.same | apply ConsoleMk.setBuf | apply BootMk.same
    | apply KeeperMk.same | apply Kept.pending | apply Kept.regs | apply Kept.bst | apply Kept.kpr | apply Kept.con | exact Nat.zero_le _
    | apply Kept.getD | exact nil_le | apply Kept.foldl_snd | apply Kept.foldl_fst | apply Kept.foldl | apply KeptO.none | apply KeptO.some
    | apply KeptO3.none | apply KeptO3.some | apply Kept.next | split

theorem State.closePos_kept {pq : List Instr} {s : State} {n : Nat} {pos : Nat} (hs : Kept pq s) :
    Kept pq (State.closePos s n pos) := by
  unfold State.closePos
  try dsimp only
  with_reducible repeat' first
    | assumption | intro _ | apply Kept.ite | apply State.setGroup_kept | apply State.queueParity_kept | apply hs
    | simp -zeta only [↓kept_mk, ↓console_mk, ↓console_mk', ↓boot_mk, ↓keeper_mk] | apply KeptMk.same | apply KeptMk.setCon | apply KeptMk.setBst
    | apply KeptMk.setKpr | apply KeptMk.setRegs | apply KeptMk.setAll | apply ConsoleMk.same | apply ConsoleMk.setBuf | apply BootMk.same
    | apply KeeperMk.same | apply Kept.pending | apply Kept.regs | apply Kept.bst | apply Kept.kpr | apply Kept.con | exact Nat.zero_le _
    | apply Kept.getD | exact nil_le | apply Kept.foldl_snd | apply Kept.foldl_fst | apply Kept.foldl | apply KeptO.none | apply KeptO.some
    | apply KeptO3.none | apply KeptO3.some | apply Kept.next | split

theorem State.positionOk_kept {pq : List Instr} {s : State} {k : Nat} {pos : Nat} (hs : Kept pq s) :
    Kept pq (State.positionOk s k pos) := by
  unfold State.positionOk
  try dsimp only
  with_reducible repeat' first
    | assumption | intro _ | apply Kept.ite | apply State.setGroup_kept | apply State.closePos_kept | apply State.done_kept | apply hs
    | simp -zeta only [↓kept_mk, ↓console_mk, ↓console_mk', ↓boot_mk, ↓keeper_mk] | apply KeptMk.same | apply KeptMk.setCon | apply KeptMk.setBst
    | apply KeptMk.setKpr | apply KeptMk.setRegs | apply KeptMk.setAll | apply ConsoleMk.same | apply ConsoleMk.setBuf | apply BootMk.same
    | apply KeeperMk.same | apply Kept.pending | apply Kept.regs | apply Kept.bst | apply Kept.kpr | apply Kept.con | exact Nat.zero_le _
    | apply Kept.getD | exact nil_le | apply Kept.foldl_snd | apply Kept.foldl_fst | apply Kept.foldl | apply KeptO.none | apply KeptO.some
    | apply KeptO3.none | apply KeptO3.some | apply Kept.next | split

theorem State.dropMember_kept {pq : List Instr} {s : State} {n : Nat} {k : Nat} {pos : Nat} (hs : Kept pq s) :
    Kept pq (State.dropMember s n k pos) := by
  unfold State.dropMember
  with_reducible refine Kept.getD (State.setGroup_kept hs) fun t e => ?_
  rw [Option.map_eq_some_iff] at e
  obtain ⟨g, -, rfl⟩ := e
  with_reducible exact Kept.foldl (State.setGroup_kept hs) fun t x ht => State.closePos_kept ht

theorem State.putCw_kept {pq : List Instr} {s : State} {l : Loc} {c : Cw} (hs : Kept pq s) :
    Kept pq (State.putCw s l c) := by
  unfold State.putCw
  try dsimp only
  with_reducible repeat' first
    | assumption | intro _ | apply Kept.ite | apply hs | simp -zeta only [↓kept_mk] | apply KeptMk.same

theorem State.padRest_kept {pq : List Instr} {s : State} {k : Nat} {page : Nat} {pages : Nat} {secs : Nat} (hs : Kept pq s) :
    Kept pq (State.padRest s k page pages secs) := by
  unfold State.padRest
  try dsimp only
  with_reducible repeat' first
    | assumption | intro _ | apply Kept.ite | apply State.putCw_kept | apply hs
    | simp -zeta only [↓kept_mk, ↓console_mk, ↓console_mk', ↓boot_mk, ↓keeper_mk] | apply KeptMk.same | apply KeptMk.setCon | apply KeptMk.setBst
    | apply KeptMk.setKpr | apply KeptMk.setRegs | apply KeptMk.setAll | apply ConsoleMk.same | apply ConsoleMk.setBuf | apply BootMk.same
    | apply KeeperMk.same | apply Kept.pending | apply Kept.regs | apply Kept.bst | apply Kept.kpr | apply Kept.con | exact Nat.zero_le _
    | apply Kept.getD | exact nil_le | apply Kept.foldl_snd | apply Kept.foldl_fst | apply Kept.foldl

theorem State.putEncs_kept {pq : List Instr} {s : State} {k : Nat} {page : Nat} {pages : Nat} (hs : Kept pq s) :
    Kept pq (State.putEncs s k page pages) := by
  unfold State.putEncs
  try dsimp only
  with_reducible repeat' first
    | assumption | intro _ | apply Kept.ite | apply State.putCw_kept | apply hs | simp -zeta only [↓kept_mk] | apply KeptMk.same | apply KeptMk.setCon
    | apply KeptMk.setBst | apply KeptMk.setKpr | apply KeptMk.setRegs | apply KeptMk.setAll | apply ConsoleMk.same | apply ConsoleMk.setBuf
    | apply BootMk.same | apply KeeperMk.same | apply Kept.pending | apply Kept.regs | apply Kept.bst | apply Kept.kpr | apply Kept.con
    | exact Nat.zero_le _ | apply Kept.getD | exact nil_le | apply Kept.foldl_snd | apply Kept.foldl_fst | apply Kept.foldl

theorem State.putParity_kept {pq : List Instr} {s : State} {g : StripeGroup} {k : Nat} {page : Nat} {pos : Nat} (hs : Kept pq s) :
    Kept pq (State.putParity s g k page pos) := by
  unfold State.putParity
  try dsimp only
  with_reducible repeat' first
    | assumption | intro _ | apply Kept.ite | apply State.parity_kept | apply hs | simp -zeta only [↓kept_mk] | apply KeptMk.same

theorem State.parityOk_kept {pq : List Instr} {s : State} {k : Nat} {page : Nat} {secs : Nat} (hs : Kept pq s) :
    Kept pq (State.parityOk s k page secs) := by
  unfold State.parityOk
  try dsimp only
  with_reducible repeat' first
    | assumption | intro _ | apply Kept.ite | apply State.setBlk_kept | apply BootStore.next_kept | apply State.closeBlk_kept
    | apply State.queueParityPage_kept | apply State.setGroup_kept | apply State.putCw_kept | apply State.padRest_kept | apply State.putEncs_kept
    | apply State.putParity_kept | apply State.parity_kept | apply hs | simp -zeta only [↓kept_mk, ↓console_mk, ↓console_mk', ↓boot_mk, ↓keeper_mk]
    | apply KeptMk.same | apply KeptMk.setCon | apply KeptMk.setBst | apply KeptMk.setKpr | apply KeptMk.setRegs | apply KeptMk.setAll
    | apply ConsoleMk.same | apply ConsoleMk.setBuf | apply BootMk.same | apply KeeperMk.same | apply Kept.pending | apply Kept.regs | apply Kept.bst
    | apply Kept.kpr | apply Kept.con | exact Nat.zero_le _ | apply Kept.getD | exact nil_le | apply Kept.foldl_snd | apply Kept.foldl_fst
    | apply Kept.foldl | apply KeptO.none | apply KeptO.some | apply KeptO3.none | apply KeptO3.some | apply Kept.next | split

theorem State.accJoin_kept {pq : List Instr} {s : State} {k : Nat} {pos : Nat} (hs : Kept pq s) :
    Kept pq (State.accJoin s k pos) := by
  unfold State.accJoin
  try dsimp only
  with_reducible repeat' first
    | assumption | intro _ | apply Kept.ite | apply State.setGroup_kept | apply hs
    | simp -zeta only [↓kept_mk, ↓console_mk, ↓console_mk', ↓boot_mk, ↓keeper_mk] | apply KeptMk.same | apply KeptMk.setCon | apply KeptMk.setBst
    | apply KeptMk.setKpr | apply KeptMk.setRegs | apply KeptMk.setAll | apply ConsoleMk.same | apply ConsoleMk.setBuf | apply BootMk.same
    | apply KeeperMk.same | apply Kept.pending | apply Kept.regs | apply Kept.bst | apply Kept.kpr | apply Kept.con | exact Nat.zero_le _
    | apply Kept.getD | exact nil_le | apply Kept.foldl_snd | apply Kept.foldl_fst | apply Kept.foldl | apply KeptO.none | apply KeptO.some
    | apply KeptO3.none | apply KeptO3.some | apply Kept.next | split

theorem State.summaryDirty_kept {pq : List Instr} {s : State} {k : Nat} (hs : Kept pq s) :
    Kept pq (State.summaryDirty s k) := by
  unfold State.summaryDirty
  with_reducible repeat' first
    | assumption | intro _ | apply Kept.ite | apply State.touch_kept

theorem State.programmedOk_kept {pq : List Instr} {s : State} {k : Nat} {page : Nat} {pages : Nat} {secs : Nat} (hs : Kept pq s) :
    Kept pq (State.programmedOk s k page pages secs) := by
  unfold State.programmedOk
  try dsimp only
  with_reducible repeat' first
    | assumption | intro _ | apply Kept.ite | apply State.setBlk_kept | apply State.closeBlk_kept | apply State.record_kept | apply State.stat_kept
    | apply State.setGroup_kept | apply State.positionOk_kept | apply State.putCw_kept | apply State.padRest_kept | apply State.putEncs_kept
    | apply State.summaryDirty_kept | apply hs | simp -zeta only [↓kept_mk] | apply KeptMk.same | apply KeptMk.setCon | apply KeptMk.setBst
    | apply KeptMk.setKpr | apply KeptMk.setRegs | apply KeptMk.setAll | apply ConsoleMk.same | apply ConsoleMk.setBuf | apply BootMk.same
    | apply KeeperMk.same | apply Kept.pending | apply Kept.regs | apply Kept.bst | apply Kept.kpr | apply Kept.con | exact Nat.zero_le _
    | apply Kept.getD | exact nil_le | apply Kept.foldl_snd | apply Kept.foldl_fst | apply Kept.foldl | apply KeptO.none | apply KeptO.some
    | apply KeptO3.none | apply KeptO3.some | apply Kept.next | split

theorem State.moveEnc_kept {pq : List Instr} {s : State} {id : Nat} {l : Loc} (hs : Kept pq s) :
    Kept pq (State.moveEnc s id l) := by
  unfold State.moveEnc
  try dsimp only
  with_reducible repeat' first
    | assumption | intro _ | apply Kept.ite | apply State.encoded_kept | apply hs | simp -zeta only [↓kept_mk] | apply KeptMk.same

theorem State.setAlloc_kept {pq : List Instr} {s : State} {id : Nat} {f : Alloc → Alloc} (hs : Kept pq s) :
    Kept pq (State.setAlloc s id f) := by
  unfold State.setAlloc
  try dsimp only
  with_reducible repeat' first
    | assumption | intro _ | apply Kept.ite | apply hs | simp -zeta only [↓kept_mk] | apply KeptMk.same

theorem State.setReloc_kept {pq : List Instr} {s : State} {id : Nat} {f : Reloc → Reloc} (hs : Kept pq s) :
    Kept pq (State.setReloc s id f) := by
  unfold State.setReloc
  try dsimp only
  with_reducible repeat' first
    | assumption | intro _ | apply Kept.ite | apply hs | simp -zeta only [↓kept_mk] | apply KeptMk.same

theorem State.dropReloc_kept {pq : List Instr} {s : State} {id : Nat} (hs : Kept pq s) :
    Kept pq (State.dropReloc s id) := by
  unfold State.dropReloc
  try dsimp only
  with_reducible repeat' first
    | assumption | intro _ | apply Kept.ite | apply hs | simp -zeta only [↓kept_mk] | apply KeptMk.same

theorem State.unplace_kept {pq : List Instr} {s : State} {id : Nat} (hs : Kept pq s) :
    Kept pq (State.unplace s id) := by
  unfold State.unplace
  try dsimp only
  with_reducible repeat' first
    | assumption | intro _ | apply Kept.ite | apply State.setAlloc_kept | apply hs | simp -zeta only [↓kept_mk] | apply KeptMk.same

theorem State.replace_kept {pq : List Instr} {s : State} {n : Nat} {as : List Nat} {rs : List Nat} (hs : Kept pq s) :
    Kept pq (State.replace s n as rs) := by
  unfold State.replace
  try dsimp only
  with_reducible repeat' first
    | assumption | intro _ | apply Kept.ite | apply State.allocIn_kept | apply State.allocIn_kept_of (by assumption) | apply State.releaseFill_kept
    | apply State.moveEnc_kept | apply State.setAlloc_kept | apply State.setReloc_kept | apply State.dropReloc_kept | apply State.unplace_kept
    | apply hs | simp -zeta only [↓kept_mk, ↓console_mk, ↓console_mk', ↓boot_mk, ↓keeper_mk] | apply KeptMk.same | apply KeptMk.setCon
    | apply KeptMk.setBst | apply KeptMk.setKpr | apply KeptMk.setRegs | apply KeptMk.setAll | apply ConsoleMk.same | apply ConsoleMk.setBuf
    | apply BootMk.same | apply KeeperMk.same | apply Kept.pending | apply Kept.regs | apply Kept.bst | apply Kept.kpr | apply Kept.con
    | exact Nat.zero_le _ | apply Kept.getD | exact nil_le | apply Kept.foldl_snd | apply Kept.foldl_fst | apply Kept.foldl | apply KeptO.none
    | apply KeptO.some | apply KeptO3.none | apply KeptO3.some | apply Kept.next | split

theorem State.moveProgram_kept {pq : List Instr} {s : State} {k : Nat} {pos : Nat} (hs : Kept pq s) :
    Kept pq (State.moveProgram s k pos) := by
  unfold State.moveProgram
  try dsimp only
  with_reducible repeat' first
    | assumption | intro _ | apply Kept.ite | apply State.gal_kept | apply State.releaseFill_kept | apply State.dropMember_kept
    | apply State.replace_kept | apply hs | simp -zeta only [↓kept_mk] | apply KeptMk.same | apply KeptMk.setCon | apply KeptMk.setBst
    | apply KeptMk.setKpr | apply KeptMk.setRegs | apply KeptMk.setAll | apply ConsoleMk.same | apply ConsoleMk.setBuf | apply BootMk.same
    | apply KeeperMk.same | apply Kept.pending | apply Kept.regs | apply Kept.bst | apply Kept.kpr | apply Kept.con | exact Nat.zero_le _
    | apply Kept.getD | exact nil_le | apply Kept.foldl_snd | apply Kept.foldl_fst | apply Kept.foldl | apply KeptO.none | apply KeptO.some
    | apply KeptO3.none | apply KeptO3.some | apply Kept.next | split

theorem State.programFailed_kept {pq : List Instr} {s : State} {k : Nat} {pos : Nat} (hs : Kept pq s) :
    Kept pq (State.programFailed s k pos) := by
  unfold State.programFailed
  try dsimp only
  with_reducible repeat' first
    | assumption | intro _ | apply Kept.ite | apply State.gal_kept | apply State.raise_kept | apply State.raiseIf_kept | apply State.setBlk_kept
    | apply State.closeBlk_kept | apply State.refreshWant_kept | apply State.retireTry_kept | apply State.moveProgram_kept

end Sys2Proof.Machine
end

