-- ==== Sys2Proof/Laws/KeptAssayOps.lean ====
section
/-! SUPPORT. The operations of Machine/AssayOps.lean keep the queue of commands and the sound form of the state. -/

namespace Sys2Proof.Machine

theorem State.setOfs_kept {pq : List Instr} {s : State} {c : Fin 128} {group : Nat} {r : OfsRec} (hs : Kept pq s) :
    Kept pq (State.setOfs s c group r) := by
  unfold State.setOfs
  try dsimp only
  with_reducible repeat' first
    | assumption | intro _ | apply Kept.ite | apply hs | simp -zeta only [↓kept_mk] | apply KeptMk.same

theorem State.searchPend_kept {pq : List Instr} {s : State} {k : Nat} (hs : Kept pq s) :
    Kept pq (State.searchPend s k) := by
  unfold State.searchPend
  try dsimp only
  with_reducible repeat' first
    | assumption | intro _ | apply Kept.ite | apply State.setOfs_kept

end Sys2Proof.Machine
end

