-- ==== Sys2Proof/Laws/KeptFrontOps.lean ====
section
/-! SUPPORT. The operations of Machine/FrontOps.lean keep the queue of commands and the sound form of the state. -/

namespace Sys2Proof.Machine

theorem State.takeIn_kept {pq : List Instr} {s : State} {h : Hdr} {i : Instr} (hs : Kept pq s) :
    Kept pq (State.takeIn s h i) := by
  unfold State.takeIn
  try dsimp only
  with_reducible repeat' first
    | assumption | intro _ | apply Kept.ite | apply State.setCtx_kept | apply hs | simp -zeta only [↓kept_mk] | apply KeptMk.same
    | apply KeptMk.setCon | apply KeptMk.setBst | apply KeptMk.setKpr | apply KeptMk.setRegs | apply KeptMk.setAll | apply ConsoleMk.same
    | apply ConsoleMk.setBuf | apply BootMk.same | apply KeeperMk.same | apply Kept.pending | apply Kept.regs | apply Kept.bst | apply Kept.kpr
    | apply Kept.con | exact Nat.zero_le _ | apply Kept.getD | exact nil_le | apply Kept.foldl_snd | apply Kept.foldl_fst | apply Kept.foldl
    | apply KeptO.none | apply KeptO.some | apply KeptO3.none | apply KeptO3.some | apply Kept.next | split

theorem State.host_kept {pq : List Instr} {s : State} {h : Hdr} {i : Instr} {f : State → State} (hs : Kept pq s) (hf : ∀ (y0 : State), Kept pq y0 → Kept pq (f y0)) :
    Kept pq (State.host s h i f) := by
  unfold State.host
  try dsimp only
  with_reducible repeat' first
    | assumption | intro _ | apply Kept.ite | apply State.takeIn_kept | apply hs | apply hf | simp -zeta only [↓kept_mk] | apply KeptMk.same

theorem State.done_kept {pq : List Instr} {s : State} {h : Hdr} {st : NStat} {dw0 : Nat} {data : Payload} (hs : Kept pq s) :
    Kept pq (State.done s h st dw0 data) := by
  unfold State.done
  try dsimp only
  with_reducible repeat' first
    | assumption | intro _ | apply Kept.ite | apply hs | simp -zeta only [↓kept_mk] | apply KeptMk.same

theorem State.good_kept {pq : List Instr} {s : State} {h : Hdr} (hs : Kept pq s) :
    Kept pq (State.good s h) := by
  unfold State.good
  with_reducible repeat' first
    | assumption | intro _ | apply Kept.ite | apply State.done_kept

theorem State.ctx_kept {pq : List Instr} {s : State} {h : Hdr} {f : Ctx → Ctx} (hs : Kept pq s) :
    Kept pq (State.ctx s h f) := by
  unfold State.ctx
  try dsimp only
  with_reducible repeat' first
    | assumption | intro _ | apply Kept.ite | apply State.setCtx_kept | apply hs | simp -zeta only [↓kept_mk] | apply KeptMk.same

end Sys2Proof.Machine
end

