-- ==== Sys2Proof/Laws/KeptGalOps.lean ====
section
/-! SUPPORT. The operations of Machine/GalOps.lean keep the queue of commands and the sound form of the state. -/

namespace Sys2Proof.Machine

theorem State.wptLoad_kept {pq : List Instr} {s : State} {g : Fin 8} {value : Word} (hs : Kept pq s) :
    Kept pq (State.wptLoad s g value) := by
  unfold State.wptLoad
  try dsimp only
  with_reducible repeat' first
    | assumption | intro _ | apply Kept.ite | apply State.gal_kept

theorem State.targetOut_kept {pq : List Instr} {s : State} {g : Fin 8} {n : Fin 8} (hs : Kept pq s) :
    Kept pq (State.targetOut s g n) := by
  unfold State.targetOut
  try dsimp only
  with_reducible repeat' first
    | assumption | intro _ | apply Kept.ite | apply State.setReg_kept | apply State.setRf_kept | apply State.gal_kept

theorem State.bootCheck_kept {pq : List Instr} {s : State} (hs : Kept pq s) :
    Kept pq (State.bootCheck s) := by
  unfold State.bootCheck
  with_reducible repeat' first
    | assumption | intro _ | apply Kept.ite | apply State.enter_kept

theorem State.reloadWpt_kept {pq : List Instr} {s : State} {g : Fin 8} (hs : Kept pq s) :
    Kept pq (State.reloadWpt s g) := by
  unfold State.reloadWpt
  try dsimp only
  with_reducible repeat' first
    | assumption | intro _ | apply Kept.ite | apply State.gal_kept | apply BootStore.next_kept | apply hs
    | simp -zeta only [↓kept_mk, ↓console_mk, ↓console_mk', ↓boot_mk, ↓keeper_mk] | apply KeptMk.same | apply KeptMk.setCon | apply KeptMk.setBst
    | apply KeptMk.setKpr | apply KeptMk.setRegs | apply KeptMk.setAll | apply ConsoleMk.same | apply ConsoleMk.setBuf | apply BootMk.same
    | apply KeeperMk.same | apply Kept.pending | apply Kept.regs | apply Kept.bst | apply Kept.kpr | apply Kept.con | exact Nat.zero_le _
    | apply Kept.getD | exact nil_le | apply Kept.foldl_snd | apply Kept.foldl_fst | apply Kept.foldl

theorem State.markRetrain_kept {pq : List Instr} {s : State} {g : Fin 8} (hs : Kept pq s) :
    Kept pq (State.markRetrain s g) := by
  unfold State.markRetrain
  try dsimp only
  with_reducible repeat' first
    | assumption | intro _ | apply Kept.ite | apply State.setRf_kept | apply State.gal_kept

theorem State.rateChanged_kept {pq : List Instr} {s : State} {g : Fin 8} {old : Nat} (hs : Kept pq s) :
    Kept pq (State.rateChanged s g old) := by
  unfold State.rateChanged
  try dsimp only
  with_reducible repeat' first
    | assumption | intro _ | apply Kept.ite | apply State.writeMode_kept | apply State.markRetrain_kept

theorem State.limitRate_kept {pq : List Instr} {s : State} {g : Fin 8} (hs : Kept pq s) :
    Kept pq (State.limitRate s g) := by
  unfold State.limitRate
  try dsimp only
  with_reducible repeat' first
    | assumption | intro _ | apply Kept.ite | apply State.setRf_kept | apply State.gal_kept

theorem State.galRestOne_kept {pq : List Instr} {s : State} {g : Fin 8} (hs : Kept pq s) :
    Kept pq (State.galRestOne s g) := by
  unfold State.galRestOne
  try dsimp only
  with_reducible repeat' first
    | assumption | intro _ | apply Kept.ite | apply State.setReg_kept | apply State.gal_kept

theorem State.galRest_kept {pq : List Instr} {s : State} {g : Fin 8} (hs : Kept pq s) :
    Kept pq (State.galRest s g) := by
  unfold State.galRest
  try dsimp only
  with_reducible repeat' first
    | assumption | intro _ | apply Kept.ite | apply State.finishJob_kept | apply State.galRestOne_kept

theorem State.dropOp_kept {pq : List Instr} {s : State} {g : Fin 8} {id : Nat} (hs : Kept pq s) :
    Kept pq (State.dropOp s g id) := by
  unfold State.dropOp
  try dsimp only
  with_reducible repeat' first
    | assumption | intro _ | apply Kept.ite | apply State.gal_kept | apply State.galRest_kept

theorem State.setOp_kept {pq : List Instr} {s : State} {g : Fin 8} {id : Nat} {f : GOp → GOp} (hs : Kept pq s) :
    Kept pq (State.setOp s g id f) := by
  unfold State.setOp
  try dsimp only
  with_reducible repeat' first
    | assumption | intro _ | apply Kept.ite | apply State.gal_kept

theorem State.countRead_kept {pq : List Instr} {s : State} {k : Nat} {n : Nat} (hs : Kept pq s) :
    Kept pq (State.countRead s k n) := by
  unfold State.countRead
  try dsimp only
  with_reducible repeat' first
    | assumption | intro _ | apply Kept.ite | apply State.cause_kept | apply State.setBlk_kept | apply BootStore.next_kept | apply State.record_kept
    | apply State.refreshWant_kept | apply State.releaseFill_kept | apply State.dropMember_kept | apply hs | simp -zeta only [↓kept_mk]
    | apply KeptMk.same | apply KeptMk.setCon | apply KeptMk.setBst | apply KeptMk.setKpr | apply KeptMk.setRegs | apply KeptMk.setAll
    | apply ConsoleMk.same | apply ConsoleMk.setBuf | apply BootMk.same | apply KeeperMk.same | apply Kept.pending | apply Kept.regs | apply Kept.bst
    | apply Kept.kpr | apply Kept.con | exact Nat.zero_le _ | apply Kept.getD | exact nil_le | apply Kept.foldl_snd | apply Kept.foldl_fst
    | apply Kept.foldl | apply KeptO.none | apply KeptO.some | apply KeptO3.none | apply KeptO3.some | apply Kept.next | split

theorem State.setCtx_kept {pq : List Instr} {s : State} {g : Fin 8} {x : Fin 64} {c : SeqCtx} (hs : Kept pq s) :
    Kept pq (State.setCtx s g x c) := by
  unfold State.setCtx
  try dsimp only
  with_reducible repeat' first
    | assumption | intro _ | apply Kept.ite | apply State.gal_kept

theorem State.seq_kept {pq : List Instr} {s : State} {g : Fin 8} {x : Fin 64} {code : Nat} {f : State → SeqCtx → Word → State} (hs : Kept pq s) (hf : ∀ (y0 : State) (y1 : SeqCtx) (y2 : Word), Kept pq y0 → Kept pq (f y0 y1 y2)) :
    Kept pq (State.seq s g x code f) := by
  unfold State.seq
  try dsimp only
  with_reducible repeat' first
    | assumption | intro _ | apply Kept.ite | apply State.gal_kept | apply hs | apply hf
    | simp -zeta only [↓kept_mk, ↓console_mk, ↓console_mk', ↓boot_mk, ↓keeper_mk] | apply KeptMk.same | apply KeptMk.setCon | apply KeptMk.setBst
    | apply KeptMk.setKpr | apply KeptMk.setRegs | apply KeptMk.setAll | apply ConsoleMk.same | apply ConsoleMk.setBuf | apply BootMk.same
    | apply KeeperMk.same | apply Kept.pending | apply Kept.regs | apply Kept.bst | apply Kept.kpr | apply Kept.con | exact Nat.zero_le _
    | apply Kept.getD | exact nil_le | apply Kept.foldl_snd | apply Kept.foldl_fst | apply Kept.foldl | apply KeptO.none | apply KeptO.some
    | apply KeptO3.none | apply KeptO3.some | apply Kept.next | split

theorem State.seqAdvance_kept {pq : List Instr} {s : State} {g : Fin 8} {x : Fin 64} {c : SeqCtx} (hs : Kept pq s) :
    Kept pq (State.seqAdvance s g x c) := by
  unfold State.seqAdvance
  try dsimp only
  with_reducible repeat' first
    | assumption | intro _ | apply Kept.ite | apply State.setCtx_kept

theorem State.cycles_kept {pq : List Instr} {s : State} {g : Fin 8} {x : Fin 64} {l : List BusCycle} (hs : Kept pq s) :
    Kept pq (State.cycles s g x l) := by
  unfold State.cycles
  try dsimp only
  with_reducible repeat' first
    | assumption | intro _ | apply Kept.ite | apply State.gal_kept

theorem State.yieldBus_kept {pq : List Instr} {s : State} {g : Fin 8} {x : Fin 64} (hs : Kept pq s) :
    Kept pq (State.yieldBus s g x) := by
  unfold State.yieldBus
  try dsimp only
  with_reducible repeat' first
    | assumption | intro _ | apply Kept.ite | apply State.gal_kept

theorem State.driveWp_kept {pq : List Instr} {s : State} {g : Fin 8} {high : Bool} (hs : Kept pq s) :
    Kept pq (State.driveWp s g high) := by
  unfold State.driveWp
  try dsimp only
  with_reducible repeat' first
    | assumption | intro _ | apply Kept.ite | apply State.gal_kept

theorem State.rawDone_kept {pq : List Instr} {s : State} {g : Fin 8} {x : Fin 64} {c : SeqCtx} {kind : Nat} (hs : Kept pq s) :
    Kept pq (State.rawDone s g x c kind) := by
  unfold State.rawDone
  try dsimp only
  with_reducible repeat' first
    | assumption | intro _ | apply Kept.ite | apply State.gal_kept | apply State.setBlk_kept

theorem State.listEnd_kept {pq : List Instr} {s : State} {g : Fin 8} {x : Fin 64} {c : SeqCtx} {o : Outc} {code : Nat} (hs : Kept pq s) :
    Kept pq (State.listEnd s g x c o code) := by
  unfold State.listEnd
  try dsimp only
  with_reducible repeat' first
    | assumption | intro _ | apply Kept.ite | apply State.setReg_kept | apply State.gal_kept | apply State.order_kept | apply State.finishJob_kept
    | apply State.ctx_kept | apply State.galRest_kept | apply State.setCtx_kept | apply State.yieldBus_kept | apply State.rawDone_kept
    | apply State.taint_kept | apply hs | simp -zeta only [↓kept_mk] | apply KeptMk.same

theorem State.opEnd_kept {pq : List Instr} {s : State} {g : Fin 8} {x : Fin 64} (hs : Kept pq s) :
    Kept pq (State.opEnd s g x) := by
  unfold State.opEnd
  try dsimp only
  with_reducible repeat' first
    | assumption | intro _ | apply Kept.ite | apply State.gal_kept | apply State.setCtx_kept | apply State.seq_kept | apply State.listEnd_kept
    | apply hs | simp -zeta only [↓kept_mk, ↓console_mk, ↓console_mk', ↓boot_mk, ↓keeper_mk] | apply KeptMk.same | apply KeptMk.setCon
    | apply KeptMk.setBst | apply KeptMk.setKpr | apply KeptMk.setRegs | apply KeptMk.setAll | apply ConsoleMk.same | apply ConsoleMk.setBuf
    | apply BootMk.same | apply KeeperMk.same | apply Kept.pending | apply Kept.regs | apply Kept.bst | apply Kept.kpr | apply Kept.con
    | exact Nat.zero_le _ | apply Kept.getD | exact nil_le | apply Kept.foldl_snd | apply Kept.foldl_fst | apply Kept.foldl | apply KeptO.none
    | apply KeptO.some | apply KeptO3.none | apply KeptO3.some | apply Kept.next | split

theorem State.parity_kept {pq : List Instr} {s : State} {g : Fin 8} {write : Bool} {n : Nat} (hs : Kept pq s) :
    Kept pq (State.parity s g write n) := by
  unfold State.parity
  try dsimp only
  with_reducible repeat' first
    | assumption | intro _ | apply Kept.ite | apply State.bump_kept | apply State.gal_kept | apply State.raise_kept | apply State.markRetrain_kept

theorem State.opCmd_kept {pq : List Instr} {s : State} {g : Fin 8} {x : Fin 64} {mismatch : Bool} (hs : Kept pq s) :
    Kept pq (State.opCmd s g x mismatch) := by
  unfold State.opCmd
  try dsimp only
  with_reducible repeat' first
    | assumption | intro _ | apply Kept.ite | apply State.gal_kept | apply State.seq_kept | apply State.seqAdvance_kept | apply State.cycles_kept
    | apply State.parity_kept

theorem State.beginList_kept {pq : List Instr} {s : State} {g : Fin 8} {x : Fin 64} {c : SeqCtx} (hs : Kept pq s) :
    Kept pq (State.beginList s g x c) := by
  unfold State.beginList
  with_reducible repeat' first
    | assumption | intro _ | apply Kept.ite | apply State.setCtx_kept

theorem State.taint_kept {pq : List Instr} {s : State} {g : Fin 8} {ch : Fin 16} {blk : Nat} (hs : Kept pq s) :
    Kept pq (State.taint s g ch blk) := by
  unfold State.taint
  try dsimp only
  with_reducible repeat' first
    | assumption | intro _ | apply Kept.ite | apply State.gal_kept | apply State.setBlk_kept | apply State.remap_kept | apply hs
    | simp -zeta only [↓kept_mk, ↓console_mk, ↓console_mk', ↓boot_mk, ↓keeper_mk] | apply KeptMk.same | apply KeptMk.setCon | apply KeptMk.setBst
    | apply KeptMk.setKpr | apply KeptMk.setRegs | apply KeptMk.setAll | apply ConsoleMk.same | apply ConsoleMk.setBuf | apply BootMk.same
    | apply KeeperMk.same | apply Kept.pending | apply Kept.regs | apply Kept.bst | apply Kept.kpr | apply Kept.con | exact Nat.zero_le _
    | apply Kept.getD | exact nil_le | apply Kept.foldl_snd | apply Kept.foldl_fst | apply Kept.foldl

theorem State.addrCycles_kept {pq : List Instr} {s : State} {g : Fin 8} {x : Fin 64} {c : SeqCtx} {w : Word} {p : Profile} {mismatches : Nat} (hs : Kept pq s) :
    Kept pq (State.addrCycles s g x c w p mismatches) := by
  unfold State.addrCycles
  try dsimp only
  with_reducible repeat' first
    | assumption | intro _ | apply Kept.ite | apply State.seqAdvance_kept | apply State.cycles_kept | apply State.parity_kept | apply State.taint_kept

theorem State.addrRefused_kept {pq : List Instr} {s : State} {g : Fin 8} {x : Fin 64} {c : SeqCtx} (hs : Kept pq s) :
    Kept pq (State.addrRefused s g x c) := by
  unfold State.addrRefused
  try dsimp only
  with_reducible repeat' first
    | assumption | intro _ | apply Kept.ite | apply State.gal_kept | apply State.raise_kept | apply State.order_kept | apply State.listEnd_kept

theorem State.kprBytes_kept {pq : List Instr} {s : State} {x1 : Nat} {x2 : Nat} (hs : Kept pq s) :
    Kept pq (State.kprBytes s x1 x2).2.2 := by
  induction x2 generalizing s x1 with
  | zero => unfold State.kprBytes; exact hs
  | succ n ih => unfold State.kprBytes; exact ih (State.kprRead_kept hs)

theorem State.kprBytes_kept_of {pq : List Instr} {s : State} {x1 : Nat} {x2 : Nat} {r0 : List Nat} {r1 : Bool} {r2 : State} (e : (State.kprBytes s x1 x2) = (r0, r1, r2)) (hs : Kept pq s) :
    Kept pq r2 := by
  have := State.kprBytes_kept (pq := pq) (s := s) (x1 := x1) (x2 := x2) hs
  rw [e] at this
  exact this

theorem State.kprPutBytes_kept {pq : List Instr} {s : State} {x1 : Nat} {x2 : Nat} {x3 : List Nat} (hs : Kept pq s) :
    Kept pq (State.kprPutBytes s x1 x2 x3) := by
  induction x2 generalizing s x1 x3 with
  | zero => unfold State.kprPutBytes; exact hs
  | succ n ih => unfold State.kprPutBytes; exact ih (State.kprWrite_kept hs)

theorem State.dinBytes_kept {pq : List Instr} {s : State} {g : Fin 8} {x : Fin 64} {c : SeqCtx} {n : Nat} {own : Option (List Nat)} (hs : Kept pq s) :
    Kept pq (State.dinBytes s g x c n own).2.2 := by
  unfold State.dinBytes
  try dsimp only
  with_reducible repeat' first
    | assumption | intro _ | apply Kept.ite | apply State.kprBytes_kept | apply State.kprBytes_kept_of (by assumption) | apply hs
    | simp -zeta only [↓kept_mk, ↓console_mk, ↓console_mk', ↓boot_mk, ↓keeper_mk] | apply KeptMk.same | apply KeptMk.setCon | apply KeptMk.setBst
    | apply KeptMk.setKpr | apply KeptMk.setRegs | apply KeptMk.setAll | apply ConsoleMk.same | apply ConsoleMk.setBuf | apply BootMk.same
    | apply KeeperMk.same | apply Kept.pending | apply Kept.regs | apply Kept.bst | apply Kept.kpr | apply Kept.con | exact Nat.zero_le _
    | apply Kept.getD | exact nil_le | apply Kept.foldl_snd | apply Kept.foldl_fst | apply Kept.foldl | apply KeptO.none | apply KeptO.some
    | apply KeptO3.none | apply KeptO3.some | apply Kept.next | split

theorem State.dinBytes_kept_of {pq : List Instr} {s : State} {g : Fin 8} {x : Fin 64} {c : SeqCtx} {n : Nat} {own : Option (List Nat)} {r0 : List Nat} {r1 : Bool} {r2 : State} (e : (State.dinBytes s g x c n own) = (r0, r1, r2)) (hs : Kept pq s) :
    Kept pq r2 := by
  have := State.dinBytes_kept (pq := pq) (s := s) (g := g) (x := x) (c := c) (n := n) (own := own) hs
  rw [e] at this
  exact this

theorem State.resend_kept {pq : List Instr} {s : State} {g : Fin 8} {x : Fin 64} {c : SeqCtx} {p : Profile} {sent : List Nat} {retrain : State → State} {x1 : Nat} {x2 : List Nat} (hs : Kept pq s) (hretrain : ∀ (y0 : State), Kept pq y0 → Kept pq (retrain y0)) :
    Kept pq (State.resend s g x c p sent retrain x1 x2) := by
  induction x2 generalizing s x1 with
  | nil => unfold State.resend; exact hs
  | cons m r ih =>
    unfold State.resend
    dsimp only
    with_reducible refine ih (State.parity_kept (State.cycles_kept ?_))
    split
    · exact hretrain s hs
    · exact hs

theorem State.trainRec_kept {pq : List Instr} {s : State} {g : Fin 8} {n : Fin 8} {rate : Nat} (hs : Kept pq s) :
    Kept pq (State.trainRec s g n rate).2 := by
  unfold State.trainRec
  try dsimp only
  with_reducible repeat' first
    | assumption | intro _ | apply Kept.ite | apply hs | simp -zeta only [↓kept_mk] | apply KeptMk.same

theorem State.trainRec_kept_of {pq : List Instr} {s : State} {g : Fin 8} {n : Fin 8} {rate : Nat} {r0 : TrainRec} {r1 : State} (e : (State.trainRec s g n rate) = (r0, r1)) (hs : Kept pq s) :
    Kept pq r1 := by
  have := State.trainRec_kept (pq := pq) (s := s) (g := g) (n := n) (rate := rate) hs
  rw [e] at this
  exact this

theorem State.windowsFrom_kept {pq : List Instr} {s : State} {g : Fin 8} {rate : Nat} {aim : Nat} (hs : Kept pq s) :
    Kept pq (State.windowsFrom s g rate aim) := by
  unfold State.windowsFrom
  try dsimp only
  with_reducible repeat' first
    | assumption | intro _ | apply Kept.ite | apply State.gal_kept

theorem State.retrainOne_kept {pq : List Instr} {s : State} {g : Fin 8} {n : Fin 8} {pass : Bool} (hs : Kept pq s) :
    Kept pq (State.retrainOne s g n pass) := by
  unfold State.retrainOne
  try dsimp only
  with_reducible repeat' first
    | assumption | intro _ | apply Kept.ite | apply State.bump_kept | apply State.gal_kept | apply State.raise_kept | apply State.targetOut_kept
    | apply State.markRetrain_kept | apply State.trainRec_kept | apply State.windowsFrom_kept

theorem State.opDin_kept {pq : List Instr} {s : State} {g : Fin 8} {x : Fin 64} {r : DinRun} {put : Option (List Nat)} (hs : Kept pq s) :
    Kept pq (State.opDin s g x r put) := by
  unfold State.opDin
  try dsimp only
  with_reducible repeat' first
    | assumption | intro _ | apply Kept.ite | apply Keeper.put_kept | apply State.seq_kept | apply State.seqAdvance_kept | apply State.cycles_kept
    | apply State.listEnd_kept | apply State.parity_kept | apply State.dinBytes_kept | apply State.dinBytes_kept_of (by assumption)
    | apply State.resend_kept | apply State.retrainOne_kept | apply hs | simp -zeta only [↓kept_mk] | apply KeptMk.same | apply KeptMk.setCon
    | apply KeptMk.setBst | apply KeptMk.setKpr | apply KeptMk.setRegs | apply KeptMk.setAll | apply ConsoleMk.same | apply ConsoleMk.setBuf
    | apply BootMk.same | apply KeeperMk.same | apply Kept.pending | apply Kept.regs | apply Kept.bst | apply Kept.kpr | apply Kept.con
    | exact Nat.zero_le _ | apply Kept.getD | exact nil_le | apply Kept.foldl_snd | apply Kept.foldl_fst | apply Kept.foldl | apply KeptO.none
    | apply KeptO.some | apply KeptO3.none | apply KeptO3.some | apply Kept.next | split

theorem State.doutCodec_kept {pq : List Instr} {s : State} {g : Fin 8} {x : Fin 64} {c : SeqCtx} {n : Nat} {mismatches : Nat} (hs : Kept pq s) :
    Kept pq (State.doutCodec s g x c n mismatches) := by
  unfold State.doutCodec
  try dsimp only
  with_reducible repeat' first
    | assumption | intro _ | apply Kept.ite | apply State.gal_kept | apply State.ctx_kept | apply State.setCtx_kept | apply State.seqAdvance_kept
    | apply State.cycles_kept | apply State.yieldBus_kept | apply State.listEnd_kept | apply State.parity_kept | apply hs | simp -zeta only [↓kept_mk]
    | apply KeptMk.same

theorem State.opDout_kept {pq : List Instr} {s : State} {g : Fin 8} {x : Fin 64} {bytes : List Byte} {mismatches : Nat} (hs : Kept pq s) :
    Kept pq (State.opDout s g x bytes mismatches) := by
  unfold State.opDout
  try dsimp only
  with_reducible repeat' first
    | assumption | intro _ | apply Kept.ite | apply State.seq_kept | apply State.seqAdvance_kept | apply State.cycles_kept | apply State.listEnd_kept
    | apply State.parity_kept | apply State.kprPutBytes_kept | apply State.doutCodec_kept

theorem State.opDinb_kept {pq : List Instr} {s : State} {g : Fin 8} {x : Fin 64} {mismatch : Bool} (hs : Kept pq s) :
    Kept pq (State.opDinb s g x mismatch) := by
  unfold State.opDinb
  with_reducible repeat' first
    | assumption | intro _ | apply Kept.ite | apply State.seq_kept | apply State.seqAdvance_kept | apply State.cycles_kept | apply State.parity_kept

theorem State.opDinv_kept {pq : List Instr} {s : State} {g : Fin 8} {x : Fin 64} {mismatch : Bool} (hs : Kept pq s) :
    Kept pq (State.opDinv s g x mismatch) := by
  unfold State.opDinv
  try dsimp only
  with_reducible repeat' first
    | assumption | intro _ | apply Kept.ite | apply State.seq_kept | apply State.seqAdvance_kept | apply State.cycles_kept | apply State.listEnd_kept
    | apply State.parity_kept | apply hs | simp -zeta only [↓kept_mk, ↓console_mk, ↓console_mk', ↓boot_mk, ↓keeper_mk] | apply KeptMk.same
    | apply KeptMk.setCon | apply KeptMk.setBst | apply KeptMk.setKpr | apply KeptMk.setRegs | apply KeptMk.setAll | apply ConsoleMk.same
    | apply ConsoleMk.setBuf | apply BootMk.same | apply KeeperMk.same | apply Kept.pending | apply Kept.regs | apply Kept.bst | apply Kept.kpr
    | apply Kept.con | exact Nat.zero_le _ | apply Kept.getD | exact nil_le | apply Kept.foldl_snd | apply Kept.foldl_fst | apply Kept.foldl
    | apply KeptO.none | apply KeptO.some | apply KeptO3.none | apply KeptO3.some | apply Kept.next | split

theorem State.opWait_kept {pq : List Instr} {s : State} {g : Fin 8} {x : Fin 64} (hs : Kept pq s) :
    Kept pq (State.opWait s g x) := by
  unfold State.opWait
  try dsimp only
  with_reducible repeat' first
    | assumption | intro _ | apply Kept.ite | apply State.seq_kept | apply State.seqAdvance_kept | apply State.yieldBus_kept

theorem State.opWaitp_kept {pq : List Instr} {s : State} {g : Fin 8} {x : Fin 64} (hs : Kept pq s) :
    Kept pq (State.opWaitp s g x) := by
  unfold State.opWaitp
  with_reducible repeat' first
    | assumption | intro _ | apply Kept.ite | apply State.seq_kept | apply State.seqAdvance_kept

theorem State.statusParity_kept {pq : List Instr} {s : State} {g : Fin 8} {r : StatusIn} (hs : Kept pq s) :
    Kept pq (State.statusParity s g r) := by
  unfold State.statusParity
  with_reducible repeat' first
    | assumption | intro _ | apply Kept.ite | apply State.parity_kept

theorem State.opPoll_kept {pq : List Instr} {s : State} {g : Fin 8} {x : Fin 64} {r : StatusIn} (hs : Kept pq s) :
    Kept pq (State.opPoll s g x r) := by
  unfold State.opPoll
  try dsimp only
  with_reducible repeat' first
    | assumption | intro _ | apply Kept.ite | apply State.setCtx_kept | apply State.seq_kept | apply State.seqAdvance_kept | apply State.cycles_kept
    | apply State.yieldBus_kept | apply State.statusParity_kept

theorem State.opStat_kept {pq : List Instr} {s : State} {g : Fin 8} {x : Fin 64} {r : StatusIn} (hs : Kept pq s) :
    Kept pq (State.opStat s g x r) := by
  unfold State.opStat
  try dsimp only
  with_reducible repeat' first
    | assumption | intro _ | apply Kept.ite | apply State.seq_kept | apply State.seqAdvance_kept | apply State.cycles_kept
    | apply State.statusParity_kept

theorem State.opBr_kept {pq : List Instr} {s : State} {g : Fin 8} {x : Fin 64} (hs : Kept pq s) :
    Kept pq (State.opBr s g x) := by
  unfold State.opBr
  try dsimp only
  with_reducible repeat' first
    | assumption | intro _ | apply Kept.ite | apply State.setCtx_kept | apply State.seq_kept | apply State.seqAdvance_kept

theorem State.opSetl_kept {pq : List Instr} {s : State} {g : Fin 8} {x : Fin 64} (hs : Kept pq s) :
    Kept pq (State.opSetl s g x) := by
  unfold State.opSetl
  try dsimp only
  with_reducible repeat' first
    | assumption | intro _ | apply Kept.ite | apply State.seq_kept | apply State.seqAdvance_kept

theorem State.opLoop_kept {pq : List Instr} {s : State} {g : Fin 8} {x : Fin 64} (hs : Kept pq s) :
    Kept pq (State.opLoop s g x) := by
  unfold State.opLoop
  try dsimp only
  with_reducible repeat' first
    | assumption | intro _ | apply Kept.ite | apply State.setCtx_kept | apply State.seq_kept | apply State.seqAdvance_kept

theorem State.opSet_kept {pq : List Instr} {s : State} {g : Fin 8} {x : Fin 64} (hs : Kept pq s) :
    Kept pq (State.opSet s g x) := by
  unfold State.opSet
  try dsimp only
  with_reducible repeat' first
    | assumption | intro _ | apply Kept.ite | apply Keeper.put_kept | apply State.seq_kept | apply State.seqAdvance_kept

theorem State.opCall_kept {pq : List Instr} {s : State} {g : Fin 8} {x : Fin 64} (hs : Kept pq s) :
    Kept pq (State.opCall s g x) := by
  unfold State.opCall
  try dsimp only
  with_reducible repeat' first
    | assumption | intro _ | apply Kept.ite | apply State.enter_kept | apply State.setCtx_kept | apply State.seq_kept | apply State.seqAdvance_kept
    | apply hs | simp -zeta only [↓kept_mk, ↓console_mk, ↓console_mk', ↓boot_mk, ↓keeper_mk] | apply KeptMk.same | apply KeptMk.setCon
    | apply KeptMk.setBst | apply KeptMk.setKpr | apply KeptMk.setRegs | apply KeptMk.setAll | apply ConsoleMk.same | apply ConsoleMk.setBuf
    | apply BootMk.same | apply KeeperMk.same | apply Kept.pending | apply Kept.regs | apply Kept.bst | apply Kept.kpr | apply Kept.con
    | exact Nat.zero_le _ | apply Kept.getD | exact nil_le | apply Kept.foldl_snd | apply Kept.foldl_fst | apply Kept.foldl | apply KeptO.none
    | apply KeptO.some | apply KeptO3.none | apply KeptO3.some | apply Kept.next | split

theorem State.opStep_kept {pq : List Instr} {s : State} {g : Fin 8} {x : Fin 64} {a : DieAnswer} {c : SeqCtx} {w : Word} (hs : Kept pq s) :
    Kept pq (State.opStep s g x a c w) := by
  unfold State.opStep
  try dsimp only
  with_reducible repeat' first
    | assumption | intro _ | apply Kept.ite | apply State.gal_kept | apply Keeper.put_kept | apply State.seq_kept | apply State.listEnd_kept
    | apply State.opEnd_kept | apply State.opCmd_kept | apply State.addrCycles_kept | apply State.addrRefused_kept | apply State.opDin_kept
    | apply State.opDout_kept | apply State.opDinb_kept | apply State.opDinv_kept | apply State.opWait_kept | apply State.opWaitp_kept
    | apply State.opPoll_kept | apply State.opStat_kept | apply State.opBr_kept | apply State.opSetl_kept | apply State.opLoop_kept
    | apply State.opSet_kept | apply State.opCall_kept | apply hs | simp -zeta only [↓kept_mk, ↓console_mk, ↓console_mk', ↓boot_mk, ↓keeper_mk]
    | apply KeptMk.same | apply KeptMk.setCon | apply KeptMk.setBst | apply KeptMk.setKpr | apply KeptMk.setRegs | apply KeptMk.setAll
    | apply ConsoleMk.same | apply ConsoleMk.setBuf | apply BootMk.same | apply KeeperMk.same | apply Kept.pending | apply Kept.regs | apply Kept.bst
    | apply Kept.kpr | apply Kept.con | exact Nat.zero_le _ | apply Kept.getD | exact nil_le | apply Kept.foldl_snd | apply Kept.foldl_fst
    | apply Kept.foldl | apply KeptO.none | apply KeptO.some | apply KeptO3.none | apply KeptO3.some | apply Kept.next | split

theorem State.runSeq_kept {pq : List Instr} {g : Fin 8} {x : Fin 64} {a : DieAnswer} {stop : SeqCtx → Word → Bool} {x1 : Nat} {x2 : State} (hx2 : Kept pq x2) :
    Kept pq (State.runSeq g x a stop x1 x2) := by
  induction x1 generalizing x2 with
  | zero => unfold State.runSeq; exact hx2
  | succ n ih =>
    unfold State.runSeq
    repeat' split
    all_goals first | exact hx2 | with_reducible exact ih (State.opStep_kept hx2)

theorem State.freeAnswer_kept {pq : List Instr} {s : State} (hs : Kept pq s) :
    Kept pq (State.freeAnswer s).2 := by
  unfold State.freeAnswer
  try dsimp only
  with_reducible repeat' first
    | assumption | intro _ | apply Kept.ite | apply hs | simp -zeta only [↓kept_mk] | apply KeptMk.same

theorem State.freeAnswer_kept_of {pq : List Instr} {s : State} {r0 : DieAnswer} {r1 : State} (e : (State.freeAnswer s) = (r0, r1)) (hs : Kept pq s) :
    Kept pq r1 := by
  have := State.freeAnswer_kept (pq := pq) (s := s) hs
  rw [e] at this
  exact this

theorem State.toBoundary_kept {pq : List Instr} {g : Fin 8} {y : Fin 64} {x1 : Nat} {x2 : State} (hx2 : Kept pq x2) :
    Kept pq (State.toBoundary g y x1 x2) := by
  induction x1 generalizing x2 with
  | zero => exact State.yieldBus_kept hx2
  | succ f ih =>
    unfold State.toBoundary
    dsimp only
    split
    · exact hx2
    · split
      · exact State.gal_kept (State.yieldBus_kept hx2)
      · split
        · exact State.yieldBus_kept hx2
        · split
          · exact State.yieldBus_kept hx2
          · split <;> refine ih (State.opStep_kept ?_)
            · exact State.freeAnswer_kept hx2
            · exact hx2

theorem State.freeBus_kept {pq : List Instr} {s : State} {g : Fin 8} {x : Fin 64} (hs : Kept pq s) :
    Kept pq (State.freeBus s g x) := by
  unfold State.freeBus
  try dsimp only
  with_reducible repeat' first
    | assumption | intro _ | apply Kept.ite | apply State.toBoundary_kept | apply hs
    | simp -zeta only [↓kept_mk, ↓console_mk, ↓console_mk', ↓boot_mk, ↓keeper_mk] | apply KeptMk.same | apply KeptMk.setCon | apply KeptMk.setBst
    | apply KeptMk.setKpr | apply KeptMk.setRegs | apply KeptMk.setAll | apply ConsoleMk.same | apply ConsoleMk.setBuf | apply BootMk.same
    | apply KeeperMk.same | apply Kept.pending | apply Kept.regs | apply Kept.bst | apply Kept.kpr | apply Kept.con | exact Nat.zero_le _
    | apply Kept.getD | exact nil_le | apply Kept.foldl_snd | apply Kept.foldl_fst | apply Kept.foldl | apply KeptO.none | apply KeptO.some
    | apply KeptO3.none | apply KeptO3.some | apply Kept.next | split

theorem State.afterOrder_kept {pq : List Instr} {s : State} {g : Fin 8} {x : Fin 64} (hs : Kept pq s) :
    Kept pq (State.afterOrder s g x) := by
  unfold State.afterOrder
  try dsimp only
  with_reducible repeat' first
    | assumption | intro _ | apply Kept.ite | apply State.gal_kept | apply State.order_kept | apply State.moveProgram_kept | apply State.ctx_kept
    | apply State.dropOp_kept | apply State.beginList_kept | apply State.runSeq_kept | apply State.freeBus_kept | apply hs
    | simp -zeta only [↓kept_mk, ↓console_mk, ↓console_mk', ↓boot_mk, ↓keeper_mk] | apply KeptMk.same | apply KeptMk.setCon | apply KeptMk.setBst
    | apply KeptMk.setKpr | apply KeptMk.setRegs | apply KeptMk.setAll | apply ConsoleMk.same | apply ConsoleMk.setBuf | apply BootMk.same
    | apply KeeperMk.same | apply Kept.pending | apply Kept.regs | apply Kept.bst | apply Kept.kpr | apply Kept.con | exact Nat.zero_le _
    | apply Kept.getD | exact nil_le | apply Kept.foldl_snd | apply Kept.foldl_fst | apply Kept.foldl | apply KeptO.none | apply KeptO.some
    | apply KeptO3.none | apply KeptO3.some | apply Kept.next | split

theorem State.runTo_kept {pq : List Instr} {s : State} {g : Fin 8} {x : Fin 64} {a : DieAnswer} {stop : SeqCtx → Word → Bool} (hs : Kept pq s) :
    Kept pq (State.runTo s g x a stop) := by
  unfold State.runTo
  try dsimp only
  with_reducible repeat' first
    | assumption | intro _ | apply Kept.ite | apply State.gal_kept | apply State.order_kept | apply State.ctx_kept | apply State.runSeq_kept
    | apply State.freeBus_kept | apply State.afterOrder_kept

theorem State.runList_kept {pq : List Instr} {s : State} {g : Fin 8} {x : Fin 64} {slot : Nat} {c : SeqCtx} {a : DieAnswer} (hs : Kept pq s) :
    Kept pq (State.runList s g x slot c a) := by
  unfold State.runList
  try dsimp only
  with_reducible repeat' first
    | assumption | intro _ | apply Kept.ite | apply State.beginList_kept | apply State.runTo_kept

theorem State.applyOffsets_kept {pq : List Instr} {s : State} {g : Fin 8} {x : Fin 64} {c : SeqCtx} (hs : Kept pq s) :
    Kept pq (State.applyOffsets s g x c) := by
  unfold State.applyOffsets
  try dsimp only
  with_reducible repeat' first
    | assumption | intro _ | apply Kept.ite | apply State.gal_kept | apply State.runList_kept | apply hs
    | simp -zeta only [↓kept_mk, ↓console_mk, ↓console_mk', ↓boot_mk, ↓keeper_mk] | apply KeptMk.same | apply KeptMk.setCon | apply KeptMk.setBst
    | apply KeptMk.setKpr | apply KeptMk.setRegs | apply KeptMk.setAll | apply ConsoleMk.same | apply ConsoleMk.setBuf | apply BootMk.same
    | apply KeeperMk.same | apply Kept.pending | apply Kept.regs | apply Kept.bst | apply Kept.kpr | apply Kept.con | exact Nat.zero_le _
    | apply Kept.getD | exact nil_le | apply Kept.foldl_snd | apply Kept.foldl_fst | apply Kept.foldl | apply KeptO.none | apply KeptO.some
    | apply KeptO3.none | apply KeptO3.some | apply Kept.next | split

theorem State.endRun_kept {pq : List Instr} {s : State} {g : Fin 8} {c : Fin 16} (hs : Kept pq s) :
    Kept pq (State.endRun s g c) := by
  unfold State.endRun
  try dsimp only
  with_reducible repeat' first
    | assumption | intro _ | apply Kept.ite | apply State.gal_kept | apply State.runList_kept | apply hs
    | simp -zeta only [↓kept_mk, ↓console_mk, ↓console_mk', ↓boot_mk, ↓keeper_mk] | apply KeptMk.same | apply KeptMk.setCon | apply KeptMk.setBst
    | apply KeptMk.setKpr | apply KeptMk.setRegs | apply KeptMk.setAll | apply ConsoleMk.same | apply ConsoleMk.setBuf | apply BootMk.same
    | apply KeeperMk.same | apply Kept.pending | apply Kept.regs | apply Kept.bst | apply Kept.kpr | apply Kept.con | exact Nat.zero_le _
    | apply Kept.getD | exact nil_le | apply Kept.foldl_snd | apply Kept.foldl_fst | apply Kept.foldl | apply KeptO.none | apply KeptO.some
    | apply KeptO3.none | apply KeptO3.some | apply Kept.next | split

theorem State.endCacheRun_kept {pq : List Instr} {s : State} {g : Fin 8} {o : GOp} (hs : Kept pq s) :
    Kept pq (State.endCacheRun s g o) := by
  unfold State.endCacheRun
  try dsimp only
  with_reducible repeat' first
    | assumption | intro _ | apply Kept.ite | apply State.endRun_kept | apply hs
    | simp -zeta only [↓kept_mk, ↓console_mk, ↓console_mk', ↓boot_mk, ↓keeper_mk] | apply KeptMk.same | apply KeptMk.setCon | apply KeptMk.setBst
    | apply KeptMk.setKpr | apply KeptMk.setRegs | apply KeptMk.setAll | apply ConsoleMk.same | apply ConsoleMk.setBuf | apply BootMk.same
    | apply KeeperMk.same | apply Kept.pending | apply Kept.regs | apply Kept.bst | apply Kept.kpr | apply Kept.con | exact Nat.zero_le _
    | apply Kept.getD | exact nil_le | apply Kept.foldl_snd | apply Kept.foldl_fst | apply Kept.foldl | apply KeptO.none | apply KeptO.some
    | apply KeptO3.none | apply KeptO3.some | apply Kept.next | split

theorem State.resetLun_kept {pq : List Instr} {s : State} {g : Fin 8} {c : Fin 16} {status : Byte} (hs : Kept pq s) :
    Kept pq (State.resetLun s g c status).2 := by
  unfold State.resetLun
  try dsimp only
  with_reducible repeat' first
    | assumption | intro _ | apply Kept.ite | apply State.runList_kept

theorem State.resetLun_kept_of {pq : List Instr} {s : State} {g : Fin 8} {c : Fin 16} {status : Byte} {r0 : Bool} {r1 : State} (e : (State.resetLun s g c status) = (r0, r1)) (hs : Kept pq s) :
    Kept pq r1 := by
  have := State.resetLun_kept (pq := pq) (s := s) (g := g) (c := c) (status := status) hs
  rw [e] at this
  exact this

theorem State.opAddr_kept {pq : List Instr} {s : State} {g : Fin 8} {x : Fin 64} {mismatches : Nat} (hs : Kept pq s) :
    Kept pq (State.opAddr s g x mismatches) := by
  unfold State.opAddr
  try dsimp only
  with_reducible repeat' first
    | assumption | intro _ | apply Kept.ite | apply State.seq_kept | apply State.addrCycles_kept | apply State.addrRefused_kept
    | apply State.afterOrder_kept | apply hs | simp -zeta only [↓kept_mk, ↓console_mk, ↓console_mk', ↓boot_mk, ↓keeper_mk] | apply KeptMk.same
    | apply KeptMk.setCon | apply KeptMk.setBst | apply KeptMk.setKpr | apply KeptMk.setRegs | apply KeptMk.setAll | apply ConsoleMk.same
    | apply ConsoleMk.setBuf | apply BootMk.same | apply KeeperMk.same | apply Kept.pending | apply Kept.regs | apply Kept.bst | apply Kept.kpr
    | apply Kept.con | exact Nat.zero_le _ | apply Kept.getD | exact nil_le | apply Kept.foldl_snd | apply Kept.foldl_fst | apply Kept.foldl
    | apply KeptO.none | apply KeptO.some | apply KeptO3.none | apply KeptO3.some | apply Kept.next | split

end Sys2Proof.Machine
end

