-- ==== Sys2Proof/Laws/KeptGallery.lean ====
section
/-! SUPPORT. The operations of Machine/Gallery.lean keep the queue of commands and the sound form of the state. -/

namespace Sys2Proof.Machine

theorem execGalWptLoad_kept {pq : List Instr} {g : Fin 8} {cls : Cls} {value : Word} {s : State} (hs : Kept pq s) :
    KeptOut pq (execGalWptLoad g cls value s) := by
  unfold execGalWptLoad
  try dsimp only
  apply Kept.next
  with_reducible repeat' first
    | assumption | intro _ | apply Kept.ite | apply State.refuseOnly_kept | apply BootStore.next_kept | apply State.wptLoad_kept | apply hs
    | simp -zeta only [↓kept_mk, ↓console_mk, ↓console_mk', ↓boot_mk, ↓keeper_mk] | apply KeptMk.same | apply KeptMk.setCon | apply KeptMk.setBst
    | apply KeptMk.setKpr | apply KeptMk.setRegs | apply KeptMk.setAll | apply ConsoleMk.same | apply ConsoleMk.setBuf | apply BootMk.same
    | apply KeeperMk.same | apply Kept.pending | apply Kept.regs | apply Kept.bst | apply Kept.kpr | apply Kept.con | exact Nat.zero_le _
    | apply Kept.getD | exact nil_le | apply Kept.foldl_snd | apply Kept.foldl_fst | apply Kept.foldl | apply KeptO.none | apply KeptO.some
    | apply KeptO3.none | apply KeptO3.some | apply Kept.next | split

theorem State.targetList_kept {pq : List Instr} {s : State} {g : Fin 8} {n : Fin 8} {slot : Nat} {c : SeqCtx} {a : DieAnswer} (hs : Kept pq s) :
    Kept pq (State.targetList s g n slot c a) := by
  unfold State.targetList
  with_reducible repeat' first
    | assumption | intro _ | apply Kept.ite | apply State.runList_kept

theorem State.trainReset_kept {pq : List Instr} {s : State} {g : Fin 8} {r : TrainResult} {ts : List (Fin 8)} (hs : Kept pq s) :
    Kept pq (State.trainReset s g r ts) := by
  unfold State.trainReset
  try dsimp only
  with_reducible repeat' first
    | assumption | intro _ | apply Kept.ite | apply State.targetList_kept | apply hs
    | simp -zeta only [↓kept_mk, ↓console_mk, ↓console_mk', ↓boot_mk, ↓keeper_mk] | apply KeptMk.same | apply KeptMk.setCon | apply KeptMk.setBst
    | apply KeptMk.setKpr | apply KeptMk.setRegs | apply KeptMk.setAll | apply ConsoleMk.same | apply ConsoleMk.setBuf | apply BootMk.same
    | apply KeeperMk.same | apply Kept.pending | apply Kept.regs | apply Kept.bst | apply Kept.kpr | apply Kept.con | exact Nat.zero_le _
    | apply Kept.getD | exact nil_le | apply Kept.foldl_snd | apply Kept.foldl_fst | apply Kept.foldl

theorem State.trainIdentify_kept {pq : List Instr} {s : State} {g : Fin 8} {r : TrainResult} {n : Fin 8} (hs : Kept pq s) :
    Kept pq (State.trainIdentify s g r n) := by
  unfold State.trainIdentify
  try dsimp only
  with_reducible repeat' first
    | assumption | intro _ | apply Kept.ite | apply State.targetList_kept | apply hs | simp -zeta only [↓kept_mk] | apply KeptMk.same

theorem State.calibrate_kept {pq : List Instr} {s : State} {g : Fin 8} {n : Fin 8} {rate : Nat} {slot : Nat} (hs : Kept pq s) :
    Kept pq (State.calibrate s g n rate slot) := by
  unfold State.calibrate
  with_reducible repeat' first
    | assumption | intro _ | apply Kept.ite | apply State.targetList_kept

theorem State.trainFeatures_kept {pq : List Instr} {s : State} {g : Fin 8} {rate : Nat} {ts : List (Fin 8)} (hs : Kept pq s) :
    Kept pq (State.trainFeatures s g rate ts) := by
  unfold State.trainFeatures
  try dsimp only
  with_reducible repeat' first
    | assumption | intro _ | apply Kept.ite | apply Keeper.put_kept | apply State.targetList_kept | apply State.calibrate_kept | apply hs
    | simp -zeta only [↓kept_mk, ↓console_mk, ↓console_mk', ↓boot_mk, ↓keeper_mk] | apply KeptMk.same | apply KeptMk.setCon | apply KeptMk.setBst
    | apply KeptMk.setKpr | apply KeptMk.setRegs | apply KeptMk.setAll | apply ConsoleMk.same | apply ConsoleMk.setBuf | apply BootMk.same
    | apply KeeperMk.same | apply Kept.pending | apply Kept.regs | apply Kept.bst | apply Kept.kpr | apply Kept.con | exact Nat.zero_le _
    | apply Kept.getD | exact nil_le | apply Kept.foldl_snd | apply Kept.foldl_fst | apply Kept.foldl

theorem State.trainAll_kept {pq : List Instr} {s : State} {g : Fin 8} {rate : Nat} {ts : List (Fin 8)} (hs : Kept pq s) :
    Kept pq (State.trainAll s g rate ts).2 := by
  unfold State.trainAll
  try dsimp only
  with_reducible repeat' first
    | assumption | intro _ | apply Kept.ite | apply State.trainRec_kept | apply State.trainRec_kept_of (by assumption) | apply hs
    | simp -zeta only [↓kept_mk, ↓console_mk, ↓console_mk', ↓boot_mk, ↓keeper_mk] | apply KeptMk.same | apply KeptMk.setCon | apply KeptMk.setBst
    | apply KeptMk.setKpr | apply KeptMk.setRegs | apply KeptMk.setAll | apply ConsoleMk.same | apply ConsoleMk.setBuf | apply BootMk.same
    | apply KeeperMk.same | apply Kept.pending | apply Kept.regs | apply Kept.bst | apply Kept.kpr | apply Kept.con | exact Nat.zero_le _
    | apply Kept.getD | exact nil_le | apply Kept.foldl_snd

theorem State.trainAll_kept_of {pq : List Instr} {s : State} {g : Fin 8} {rate : Nat} {ts : List (Fin 8)} {r0 : List TrainRec} {r1 : State} (e : (State.trainAll s g rate ts) = (r0, r1)) (hs : Kept pq s) :
    Kept pq r1 := by
  have := State.trainAll_kept (pq := pq) (s := s) (g := g) (rate := rate) (ts := ts) hs
  rw [e] at this
  exact this

theorem State.trainStat_kept {pq : List Instr} {s : State} {g : Fin 8} {ts : List (Fin 8)} {all : Bool} {rate : Nat} (hs : Kept pq s) :
    Kept pq (State.trainStat s g ts all rate) := by
  unfold State.trainStat
  try dsimp only
  with_reducible repeat' first
    | assumption | intro _ | apply Kept.ite | apply State.setReg_kept | apply State.setRf_kept | apply hs | simp -zeta only [↓kept_mk]
    | apply KeptMk.same

theorem State.trainReady_kept {pq : List Instr} {s : State} {g : Fin 8} {p : Profile} {r : TrainResult} {all : List (Fin 8)} {ts : List (Fin 8)} (hs : Kept pq s) :
    Kept pq (State.trainReady s g p r all ts) := by
  unfold State.trainReady
  try dsimp only
  with_reducible repeat' first
    | assumption | intro _ | apply Kept.ite | apply State.bump_kept | apply State.gal_kept | apply State.raiseIf_kept | apply State.targetOut_kept
    | apply State.bootCheck_kept | apply State.driveWp_kept | apply State.trainFeatures_kept | apply State.trainAll_kept
    | apply State.trainAll_kept_of (by assumption) | apply State.trainStat_kept | apply State.retrain_kept | apply hs
    | simp -zeta only [↓kept_mk, ↓console_mk, ↓console_mk', ↓boot_mk, ↓keeper_mk] | apply KeptMk.same | apply KeptMk.setCon | apply KeptMk.setBst
    | apply KeptMk.setKpr | apply KeptMk.setRegs | apply KeptMk.setAll | apply ConsoleMk.same | apply ConsoleMk.setBuf | apply BootMk.same
    | apply KeeperMk.same | apply Kept.pending | apply Kept.regs | apply Kept.bst | apply Kept.kpr | apply Kept.con | exact Nat.zero_le _
    | apply Kept.getD | exact nil_le | apply Kept.foldl_snd | apply Kept.foldl_fst | apply Kept.foldl

theorem State.train_kept {pq : List Instr} {s : State} {g : Fin 8} {r : TrainResult} (hs : Kept pq s) :
    Kept pq (State.train s g r) := by
  unfold State.train
  try dsimp only
  with_reducible repeat' first
    | assumption | intro _ | apply Kept.ite | apply State.bump_kept | apply State.gal_kept | apply State.raiseIf_kept | apply State.enter_kept
    | apply State.targetOut_kept | apply State.trainReset_kept | apply State.trainIdentify_kept | apply State.trainReady_kept | apply hs
    | simp -zeta only [↓kept_mk, ↓console_mk, ↓console_mk', ↓boot_mk, ↓keeper_mk] | apply KeptMk.same | apply KeptMk.setCon | apply KeptMk.setBst
    | apply KeptMk.setKpr | apply KeptMk.setRegs | apply KeptMk.setAll | apply ConsoleMk.same | apply ConsoleMk.setBuf | apply BootMk.same
    | apply KeeperMk.same | apply Kept.pending | apply Kept.regs | apply Kept.bst | apply Kept.kpr | apply Kept.con | exact Nat.zero_le _
    | apply Kept.getD | exact nil_le | apply Kept.foldl_snd | apply Kept.foldl_fst | apply Kept.foldl | apply KeptO.none | apply KeptO.some
    | apply KeptO3.none | apply KeptO3.some | apply Kept.next | split

theorem State.trained_kept {pq : List Instr} {s : State} {g : Fin 8} (hs : Kept pq s) :
    Kept pq (State.trained s g) := by
  unfold State.trained
  try dsimp only
  with_reducible repeat' first
    | assumption | intro _ | apply Kept.ite | apply State.gal_kept | apply State.finishJob_kept | apply Console.reset_kept
    | apply State.reloadWpt_kept

theorem execGalleryTraining_kept {pq : List Instr} {g : Fin 8} {r : TrainResult} {s : State} (hs : Kept pq s) :
    KeptOut pq (execGalleryTraining g r s) := by
  unfold execGalleryTraining
  apply Kept.next
  with_reducible repeat' first
    | assumption | intro _ | apply Kept.ite | apply BootStore.next_kept | apply State.train_kept | apply State.trained_kept

theorem State.toPoll_kept {pq : List Instr} {s : State} {g : Fin 8} {o : GOp} (hs : Kept pq s) :
    Kept pq (State.toPoll s g o) := by
  unfold State.toPoll
  with_reducible repeat' first
    | assumption | intro _ | apply Kept.ite | apply State.ctx_kept | apply State.runTo_kept

theorem State.ctxState_kept {pq : List Instr} {s : State} {g : Fin 8} {n : Nat} {st : CtxState} (hs : Kept pq s) :
    Kept pq (State.ctxState s g n st) := by
  unfold State.ctxState
  try dsimp only
  with_reducible repeat' first
    | assumption | intro _ | apply Kept.ite | apply State.gal_kept

theorem State.suspendOp_kept {pq : List Instr} {s : State} {g : Fin 8} {o : GOp} (hs : Kept pq s) :
    Kept pq (State.suspendOp s g o) := by
  unfold State.suspendOp
  try dsimp only
  with_reducible repeat' first
    | assumption | intro _ | apply Kept.ite | apply State.ctx_kept | apply State.setOp_kept | apply State.runList_kept | apply State.toPoll_kept
    | apply State.ctxState_kept

theorem State.resumeOp_kept {pq : List Instr} {s : State} {g : Fin 8} {o : GOp} (hs : Kept pq s) :
    Kept pq (State.resumeOp s g o) := by
  unfold State.resumeOp
  try dsimp only
  with_reducible repeat' first
    | assumption | intro _ | apply Kept.ite | apply State.ctx_kept | apply State.setOp_kept | apply State.runList_kept | apply State.ctxState_kept

theorem execProgramSuspend_kept {pq : List Instr} {g : Fin 8} {c : Fin 16} {ranUs : Nat} {remainUs : Nat} {s : State} (hs : Kept pq s) :
    KeptOut pq (execProgramSuspend g c ranUs remainUs s) := by
  unfold execProgramSuspend
  try dsimp only
  apply Kept.next
  with_reducible repeat' first
    | assumption | intro _ | apply Kept.ite | apply BootStore.next_kept | apply State.suspendOp_kept | apply hs
    | simp -zeta only [↓kept_mk, ↓console_mk, ↓console_mk', ↓boot_mk, ↓keeper_mk] | apply KeptMk.same | apply KeptMk.setCon | apply KeptMk.setBst
    | apply KeptMk.setKpr | apply KeptMk.setRegs | apply KeptMk.setAll | apply ConsoleMk.same | apply ConsoleMk.setBuf | apply BootMk.same
    | apply KeeperMk.same | apply Kept.pending | apply Kept.regs | apply Kept.bst | apply Kept.kpr | apply Kept.con | exact Nat.zero_le _
    | apply Kept.getD | exact nil_le | apply Kept.foldl_snd | apply Kept.foldl_fst | apply Kept.foldl | apply KeptO.none | apply KeptO.some
    | apply KeptO3.none | apply KeptO3.some | apply Kept.next | split

theorem execProgramResume_kept {pq : List Instr} {g : Fin 8} {c : Fin 16} {heldUs : Nat} {s : State} (hs : Kept pq s) :
    KeptOut pq (execProgramResume g c heldUs s) := by
  unfold execProgramResume
  try dsimp only
  apply Kept.next
  with_reducible repeat' first
    | assumption | intro _ | apply Kept.ite | apply BootStore.next_kept | apply State.setOp_kept | apply State.resumeOp_kept | apply hs
    | simp -zeta only [↓kept_mk, ↓console_mk, ↓console_mk', ↓boot_mk, ↓keeper_mk] | apply KeptMk.same | apply KeptMk.setCon | apply KeptMk.setBst
    | apply KeptMk.setKpr | apply KeptMk.setRegs | apply KeptMk.setAll | apply ConsoleMk.same | apply ConsoleMk.setBuf | apply BootMk.same
    | apply KeeperMk.same | apply Kept.pending | apply Kept.regs | apply Kept.bst | apply Kept.kpr | apply Kept.con | exact Nat.zero_le _
    | apply Kept.getD | exact nil_le | apply Kept.foldl_snd | apply Kept.foldl_fst | apply Kept.foldl | apply KeptO.none | apply KeptO.some
    | apply KeptO3.none | apply KeptO3.some | apply Kept.next | split

theorem State.retrainEnd_kept {pq : List Instr} {s : State} {g : Fin 8} {rate : Nat} (hs : Kept pq s) :
    Kept pq (State.retrainEnd s g rate) := by
  unfold State.retrainEnd
  try dsimp only
  with_reducible repeat' first
    | assumption | intro _ | apply Kept.ite | apply State.bump_kept | apply State.gal_kept | apply State.stat_kept | apply State.markRetrain_kept
    | apply State.trainStat_kept

theorem State.windowNext_kept {pq : List Instr} {s : State} {g : Fin 8} {n : Fin 8} {rate : Nat} (hs : Kept pq s) :
    Kept pq (State.windowNext s g n rate) := by
  unfold State.windowNext
  try dsimp only
  with_reducible repeat' first
    | assumption | intro _ | apply Kept.ite | apply State.gal_kept | apply State.retrainEnd_kept | apply State.retrain_kept | apply hs
    | simp -zeta only [↓kept_mk, ↓console_mk, ↓console_mk', ↓boot_mk, ↓keeper_mk] | apply KeptMk.same | apply KeptMk.setCon | apply KeptMk.setBst
    | apply KeptMk.setKpr | apply KeptMk.setRegs | apply KeptMk.setAll | apply ConsoleMk.same | apply ConsoleMk.setBuf | apply BootMk.same
    | apply KeeperMk.same | apply Kept.pending | apply Kept.regs | apply Kept.bst | apply Kept.kpr | apply Kept.con | exact Nat.zero_le _
    | apply Kept.getD | exact nil_le | apply Kept.foldl_snd | apply Kept.foldl_fst | apply Kept.foldl | apply KeptO.none | apply KeptO.some
    | apply KeptO3.none | apply KeptO3.some | apply Kept.next | split

theorem State.window_kept {pq : List Instr} {s : State} {g : Fin 8} {n : Fin 8} {rate : Nat} {pass : Bool} {retried : Bool} (hs : Kept pq s) :
    Kept pq (State.window s g n rate pass retried) := by
  unfold State.window
  try dsimp only
  with_reducible repeat' first
    | assumption | intro _ | apply Kept.ite | apply State.bump_kept | apply State.gal_kept | apply State.raise_kept | apply State.targetOut_kept
    | apply State.trainRec_kept | apply State.trainRec_kept_of (by assumption) | apply State.windowsFrom_kept | apply State.calibrate_kept
    | apply State.suspendOp_kept | apply State.resumeOp_kept | apply State.windowNext_kept | apply hs
    | simp -zeta only [↓kept_mk, ↓console_mk, ↓console_mk', ↓boot_mk, ↓keeper_mk] | apply KeptMk.same | apply KeptMk.setCon | apply KeptMk.setBst
    | apply KeptMk.setKpr | apply KeptMk.setRegs | apply KeptMk.setAll | apply ConsoleMk.same | apply ConsoleMk.setBuf | apply BootMk.same
    | apply KeeperMk.same | apply Kept.pending | apply Kept.regs | apply Kept.bst | apply Kept.kpr | apply Kept.con | exact Nat.zero_le _
    | apply Kept.getD | exact nil_le | apply Kept.foldl_snd | apply Kept.foldl_fst | apply Kept.foldl

theorem execRetrainingWindow_kept {pq : List Instr} {g : Fin 8} {r : WindowRun} {s : State} (hs : Kept pq s) :
    KeptOut pq (execRetrainingWindow g r s) := by
  unfold execRetrainingWindow
  try dsimp only
  apply Kept.next
  with_reducible repeat' first
    | assumption | intro _ | apply Kept.ite | apply BootStore.next_kept | apply State.finishJob_kept | apply State.windowsFrom_kept
    | apply State.train_kept | apply State.retrainEnd_kept | apply State.window_kept | apply State.retrain_kept | apply hs
    | simp -zeta only [↓kept_mk, ↓console_mk, ↓console_mk', ↓boot_mk, ↓keeper_mk] | apply KeptMk.same | apply KeptMk.setCon | apply KeptMk.setBst
    | apply KeptMk.setKpr | apply KeptMk.setRegs | apply KeptMk.setAll | apply ConsoleMk.same | apply ConsoleMk.setBuf | apply BootMk.same
    | apply KeeperMk.same | apply Kept.pending | apply Kept.regs | apply Kept.bst | apply Kept.kpr | apply Kept.con | exact Nat.zero_le _
    | apply Kept.getD | exact nil_le | apply Kept.foldl_snd | apply Kept.foldl_fst | apply Kept.foldl | apply KeptO.none | apply KeptO.some
    | apply KeptO3.none | apply KeptO3.some | apply Kept.next | split

theorem execGalCtlTrain_kept {pq : List Instr} {g : Fin 8} {s : State} (hs : Kept pq s) :
    KeptOut pq (execGalCtlTrain g s) := by
  unfold execGalCtlTrain
  apply Kept.next
  with_reducible repeat' first
    | assumption | intro _ | apply Kept.ite | apply BootStore.next_kept | apply State.markRetrain_kept

theorem execGalSuspectClear_kept {pq : List Instr} {g : Fin 8} {mask : BitVec 16} {s : State} (hs : Kept pq s) :
    KeptOut pq (execGalSuspectClear g mask s) := by
  unfold execGalSuspectClear
  apply Kept.next
  with_reducible repeat' first
    | assumption | intro _ | apply Kept.ite | apply State.setReg_kept

theorem State.joinPlanes_kept {pq : List Instr} {s : State} {g : Fin 8} {o : GOp} (hs : Kept pq s) :
    Kept pq (State.joinPlanes s g o).2 := by
  unfold State.joinPlanes
  try dsimp only
  with_reducible repeat' first
    | assumption | intro _ | apply Kept.ite | apply State.gal_kept | apply hs
    | simp -zeta only [↓kept_mk, ↓console_mk, ↓console_mk', ↓boot_mk, ↓keeper_mk] | apply KeptMk.same | apply KeptMk.setCon | apply KeptMk.setBst
    | apply KeptMk.setKpr | apply KeptMk.setRegs | apply KeptMk.setAll | apply ConsoleMk.same | apply ConsoleMk.setBuf | apply BootMk.same
    | apply KeeperMk.same | apply Kept.pending | apply Kept.regs | apply Kept.bst | apply Kept.kpr | apply Kept.con | exact Nat.zero_le _
    | apply Kept.getD | exact nil_le | apply Kept.foldl_snd | apply Kept.foldl_fst | apply Kept.foldl | apply KeptO.none | apply KeptO.some
    | apply KeptO3.none | apply KeptO3.some | apply Kept.next | split

theorem State.joinPlanes_kept_of {pq : List Instr} {s : State} {g : Fin 8} {o : GOp} {r0 : GOp} {r1 : State} (e : (State.joinPlanes s g o) = (r0, r1)) (hs : Kept pq s) :
    Kept pq r1 := by
  have := State.joinPlanes_kept (pq := pq) (s := s) (g := g) (o := o) hs
  rw [e] at this
  exact this

theorem State.startCtx_kept {pq : List Instr} {s : State} {g : Fin 8} {o : GOp} {slot : Nat} {n : Nat} (hs : Kept pq s) :
    Kept pq (State.startCtx s g o slot n) := by
  unfold State.startCtx
  try dsimp only
  with_reducible repeat' first
    | assumption | intro _ | apply Kept.ite | apply State.beginList_kept | apply hs | simp -zeta only [↓kept_mk] | apply KeptMk.same

theorem State.startOp_kept {pq : List Instr} {s : State} {g : Fin 8} {o : GOp} (hs : Kept pq s) :
    Kept pq (State.startOp s g o) := by
  unfold State.startOp
  try dsimp only
  with_reducible repeat' first
    | assumption | intro _ | apply Kept.ite | apply State.gal_kept | apply State.run_kept | apply State.accJoin_kept | apply State.ctx_kept
    | apply State.setOp_kept | apply State.countRead_kept | apply State.endCacheRun_kept | apply State.startCtx_kept | apply Run.read_kept | apply hs
    | simp -zeta only [↓kept_mk, ↓console_mk, ↓console_mk', ↓boot_mk, ↓keeper_mk] | apply KeptMk.same | apply KeptMk.setCon | apply KeptMk.setBst
    | apply KeptMk.setKpr | apply KeptMk.setRegs | apply KeptMk.setAll | apply ConsoleMk.same | apply ConsoleMk.setBuf | apply BootMk.same
    | apply KeeperMk.same | apply Kept.pending | apply Kept.regs | apply Kept.bst | apply Kept.kpr | apply Kept.con | exact Nat.zero_le _
    | apply Kept.getD | exact nil_le | apply Kept.foldl_snd | apply Kept.foldl_fst | apply Kept.foldl | apply KeptO.none | apply KeptO.some
    | apply KeptO3.none | apply KeptO3.some | apply Kept.next | split

theorem execOperationAging_kept {pq : List Instr} {g : Fin 8} {id : Nat} {s : State} (hs : Kept pq s) :
    KeptOut pq (execOperationAging g id s) := by
  unfold execOperationAging
  try dsimp only
  apply Kept.next
  with_reducible repeat' first
    | assumption | intro _ | apply Kept.ite | apply BootStore.next_kept | apply State.setOp_kept

theorem execBusTransferDone_kept {pq : List Instr} {g : Fin 8} {s : State} (hs : Kept pq s) :
    KeptOut pq (execBusTransferDone g s) := by
  unfold execBusTransferDone
  try dsimp only
  apply Kept.next
  with_reducible repeat' first
    | assumption | intro _ | apply Kept.ite | apply State.gal_kept

theorem execRbNRise_kept {pq : List Instr} {g : Fin 8} {s : State} (hs : Kept pq s) :
    KeptOut pq (execRbNRise g s) := by
  unfold execRbNRise
  try dsimp only
  apply Kept.next
  with_reducible repeat' first
    | assumption | intro _ | apply Kept.ite | apply State.gal_kept

end Sys2Proof.Machine
end

