-- ==== Sys2Proof/Laws/KeptIoDone.lean ====
section
/-! SUPPORT. The operations of Machine/IoDone.lean keep the queue of commands and the sound form of the state. -/

namespace Sys2Proof.Machine

theorem State.smartDone_kept {pq : List Instr} {s : State} {c : Ctx} {st : NStat} (hs : Kept pq s) :
    Kept pq (State.smartDone s c st) := by
  unfold State.smartDone
  try dsimp only
  with_reducible repeat' first
    | assumption | intro _ | apply Kept.ite | apply hs | simp -zeta only [↓kept_mk] | apply KeptMk.same

theorem State.partDone_kept {pq : List Instr} {s : State} {c : Ctx} {st : NStat} (hs : Kept pq s) :
    Kept pq (State.partDone s c st) := by
  unfold State.partDone
  try dsimp only
  with_reducible repeat' first
    | assumption | intro _ | apply Kept.ite | apply State.tethSend_kept | apply State.done_kept | apply hs | simp -zeta only [↓kept_mk]
    | apply KeptMk.same | apply KeptMk.setCon | apply KeptMk.setBst | apply KeptMk.setKpr | apply KeptMk.setRegs | apply KeptMk.setAll
    | apply ConsoleMk.same | apply ConsoleMk.setBuf | apply BootMk.same | apply KeeperMk.same | apply Kept.pending | apply Kept.regs | apply Kept.bst
    | apply Kept.kpr | apply Kept.con | exact Nat.zero_le _ | apply Kept.getD | exact nil_le | apply Kept.foldl_snd | apply Kept.foldl_fst
    | apply Kept.foldl | apply KeptO.none | apply KeptO.some | apply KeptO3.none | apply KeptO3.some | apply Kept.next | split

theorem State.ioEnd_kept {pq : List Instr} {s : State} {h : Hdr} {st : NStat} {data : Payload} (hs : Kept pq s) :
    Kept pq (State.ioEnd s h st data) := by
  unfold State.ioEnd
  try dsimp only
  with_reducible repeat' first
    | assumption | intro _ | apply Kept.ite | apply State.done_kept | apply State.smartDone_kept | apply State.partDone_kept | apply hs
    | simp -zeta only [↓kept_mk] | apply KeptMk.same | apply KeptMk.setCon | apply KeptMk.setBst | apply KeptMk.setKpr | apply KeptMk.setRegs
    | apply KeptMk.setAll | apply ConsoleMk.same | apply ConsoleMk.setBuf | apply BootMk.same | apply KeeperMk.same | apply Kept.pending
    | apply Kept.regs | apply Kept.bst | apply Kept.kpr | apply Kept.con | exact Nat.zero_le _ | apply Kept.getD | exact nil_le | apply Kept.foldl_snd
    | apply Kept.foldl_fst | apply Kept.foldl | apply KeptO.none | apply KeptO.some | apply KeptO3.none | apply KeptO3.some | apply Kept.next | split

theorem State.ioTry_kept {pq : List Instr} {s : State} {h : Hdr} (hs : Kept pq s) :
    Kept pq (State.ioTry s h) := by
  unfold State.ioTry
  try dsimp only
  with_reducible repeat' first
    | assumption | intro _ | apply Kept.ite | apply State.smartEvent_kept | apply State.ioEnd_kept | apply hs
    | simp -zeta only [↓kept_mk, ↓console_mk, ↓console_mk', ↓boot_mk, ↓keeper_mk] | apply KeptMk.same | apply KeptMk.setCon | apply KeptMk.setBst
    | apply KeptMk.setKpr | apply KeptMk.setRegs | apply KeptMk.setAll | apply ConsoleMk.same | apply ConsoleMk.setBuf | apply BootMk.same
    | apply KeeperMk.same | apply Kept.pending | apply Kept.regs | apply Kept.bst | apply Kept.kpr | apply Kept.con | exact Nat.zero_le _
    | apply Kept.getD | exact nil_le | apply Kept.foldl_snd | apply Kept.foldl_fst | apply Kept.foldl | apply KeptO.none | apply KeptO.some
    | apply KeptO3.none | apply KeptO3.some | apply Kept.next | split

theorem State.ctxFail_kept {pq : List Instr} {s : State} {h : Hdr} {st : NStat} {lba : Option Nat} (hs : Kept pq s) :
    Kept pq (State.ctxFail s h st lba) := by
  unfold State.ctxFail
  with_reducible repeat' first
    | assumption | intro _ | apply Kept.ite | apply State.ctx_kept

theorem State.putSlot_kept {pq : List Instr} {s : State} {h : Hdr} {i : Nat} {x : Slot} {failLba : Option Nat} (hs : Kept pq s) :
    Kept pq (State.putSlot s h i x failLba) := by
  unfold State.putSlot
  try dsimp only
  with_reducible repeat' first
    | assumption | intro _ | apply Kept.ite | apply State.ctx_kept

theorem State.fillSlot_kept {pq : List Instr} {s : State} {h : Hdr} {i : Nat} {x : Slot} {failLba : Option Nat} (hs : Kept pq s) :
    Kept pq (State.fillSlot s h i x failLba) := by
  unfold State.fillSlot
  with_reducible repeat' first
    | assumption | intro _ | apply Kept.ite | apply State.ioTry_kept | apply State.putSlot_kept

theorem State.committed_kept {pq : List Instr} {s : State} {h : Hdr} (hs : Kept pq s) :
    Kept pq (State.committed s h) := by
  unfold State.committed
  try dsimp only
  with_reducible repeat' first
    | assumption | intro _ | apply Kept.ite | apply State.ctx_kept | apply State.ioTry_kept

end Sys2Proof.Machine
end

