-- ==== Sys2Proof/Laws/KeptCodec.lean ====
section
/-! SUPPORT. The operations of Machine/Codec.lean keep the queue of commands and the sound form of the state. -/

namespace Sys2Proof.Machine

theorem State.startRead_kept {pq : List Instr} {s : State} {l : Loc} {cls : Nat} {need : Need} (hs : Kept pq s) :
    Kept pq (State.startRead s l cls need).2 := by
  unfold State.startRead
  try dsimp only
  with_reducible repeat' first
    | assumption | intro _ | apply Kept.ite | apply State.newId_kept | apply State.newId_kept_of (by assumption) | apply State.queueOp_kept
    | apply Run.read_kept | apply hs | simp -zeta only [↓kept_mk] | apply KeptMk.same

theorem State.startRead_kept_of {pq : List Instr} {s : State} {l : Loc} {cls : Nat} {need : Need} {r0 : Nat} {r1 : State} (e : (State.startRead s l cls need) = (r0, r1)) (hs : Kept pq s) :
    Kept pq r1 := by
  have := State.startRead_kept (pq := pq) (s := s) (l := l) (cls := cls) (need := need) hs
  rw [e] at this
  exact this

theorem State.setRd_kept {pq : List Instr} {s : State} {id : Nat} {f : Rd → Rd} (hs : Kept pq s) :
    Kept pq (State.setRd s id f) := by
  unfold State.setRd
  try dsimp only
  with_reducible repeat' first
    | assumption | intro _ | apply Kept.ite | apply hs | simp -zeta only [↓kept_mk] | apply KeptMk.same

theorem State.softTick_kept {pq : List Instr} {s : State} (hs : Kept pq s) :
    Kept pq (State.softTick s) := by
  unfold State.softTick
  try dsimp only
  with_reducible repeat' first
    | assumption | intro _ | apply Kept.ite | apply State.setRd_kept | apply hs
    | simp -zeta only [↓kept_mk, ↓console_mk, ↓console_mk', ↓boot_mk, ↓keeper_mk] | apply KeptMk.same | apply KeptMk.setCon | apply KeptMk.setBst
    | apply KeptMk.setKpr | apply KeptMk.setRegs | apply KeptMk.setAll | apply ConsoleMk.same | apply ConsoleMk.setBuf | apply BootMk.same
    | apply KeeperMk.same | apply Kept.pending | apply Kept.regs | apply Kept.bst | apply Kept.kpr | apply Kept.con | exact Nat.zero_le _
    | apply Kept.getD | exact nil_le | apply Kept.foldl_snd | apply Kept.foldl_fst | apply Kept.foldl

theorem State.endRead_kept {pq : List Instr} {s : State} {r : Rd} (hs : Kept pq s) :
    Kept pq (State.endRead s r) := by
  unfold State.endRead
  try dsimp only
  with_reducible repeat' first
    | assumption | intro _ | apply Kept.ite | apply State.dropOp_kept | apply State.softTick_kept | apply hs | simp -zeta only [↓kept_mk]
    | apply KeptMk.same

theorem State.merged_kept {pq : List Instr} {s : State} {id : Nat} {old : Sector} (hs : Kept pq s) :
    Kept pq (State.merged s id old) := by
  unfold State.merged
  try dsimp only
  with_reducible repeat' first
    | assumption | intro _ | apply Kept.ite | apply hs | simp -zeta only [↓kept_mk] | apply KeptMk.same

theorem State.answer_kept {pq : List Instr} {s : State} {n : Need} {d : Sector} (hs : Kept pq s) :
    Kept pq (State.answer s n d) := by
  unfold State.answer
  try dsimp only
  with_reducible repeat' first
    | assumption | intro _ | apply Kept.ite | apply State.host_kept | apply State.fillSlot_kept | apply State.merged_kept | apply hs
    | simp -zeta only [↓kept_mk, ↓console_mk, ↓console_mk', ↓boot_mk, ↓keeper_mk] | apply KeptMk.same | apply KeptMk.setCon | apply KeptMk.setBst
    | apply KeptMk.setKpr | apply KeptMk.setRegs | apply KeptMk.setAll | apply ConsoleMk.same | apply ConsoleMk.setBuf | apply BootMk.same
    | apply KeeperMk.same | apply Kept.pending | apply Kept.regs | apply Kept.bst | apply Kept.kpr | apply Kept.con | exact Nat.zero_le _
    | apply Kept.getD | exact nil_le | apply Kept.foldl_snd | apply Kept.foldl_fst | apply Kept.foldl | apply KeptO.none | apply KeptO.some
    | apply KeptO3.none | apply KeptO3.some | apply Kept.next | split

theorem State.lose_kept {pq : List Instr} {s : State} {n : Need} {st : NStat} (hs : Kept pq s) :
    Kept pq (State.lose s n st) := by
  unfold State.lose
  try dsimp only
  with_reducible repeat' first
    | assumption | intro _ | apply Kept.ite | apply BootStore.committed_kept | apply State.committed_kept | apply State.host_kept
    | apply State.ctxFail_kept | apply State.fillSlot_kept | apply hs | simp -zeta only [↓kept_mk] | apply KeptMk.same | apply KeptMk.setCon
    | apply KeptMk.setBst | apply KeptMk.setKpr | apply KeptMk.setRegs | apply KeptMk.setAll | apply ConsoleMk.same | apply ConsoleMk.setBuf
    | apply BootMk.same | apply KeeperMk.same | apply Kept.pending | apply Kept.regs | apply Kept.bst | apply Kept.kpr | apply Kept.con
    | exact Nat.zero_le _ | apply Kept.getD | exact nil_le | apply Kept.foldl_snd | apply Kept.foldl_fst | apply Kept.foldl | apply KeptO.none
    | apply KeptO.some | apply KeptO3.none | apply KeptO3.some | apply Kept.next | split

theorem State.miscorrect_kept {pq : List Instr} {s : State} (hs : Kept pq s) :
    Kept pq (State.miscorrect s) := by
  unfold State.miscorrect
  with_reducible repeat' first
    | assumption | intro _ | apply Kept.ite | apply State.bumpWrap_kept | apply State.raise_kept

theorem State.readAgain_kept {pq : List Instr} {s : State} {l : Loc} {cls : Nat} {n : Need} {h : Hdr} {i : Nat} (hs : Kept pq s) :
    Kept pq (State.readAgain s l cls n h i) := by
  unfold State.readAgain
  try dsimp only
  with_reducible repeat' first
    | assumption | apply State.putSlot_kept | apply State.startRead_kept | apply State.setRd_kept
    | apply State.miscorrect_kept

theorem State.fetchSector_kept {pq : List Instr} {s : State} {d : Nat} {cls : Nat} {n : Need} (hs : Kept pq s) :
    Kept pq (State.fetchSector s d cls n) := by
  unfold State.fetchSector
  try dsimp only
  with_reducible repeat' first
    | assumption | apply Kept.ite | apply State.fillSlot_kept | apply State.readAgain_kept | apply State.putSlot_kept
    | apply State.startRead_kept | apply State.answer_kept | apply State.lose_kept | split

theorem State.readSector_kept {pq : List Instr} {s : State} {d : Nat} {cls : Nat} {n : Need} (hs : Kept pq s) :
    Kept pq (State.readSector s d cls n) := by
  unfold State.readSector
  try dsimp only
  with_reducible repeat' first
    | assumption | intro _ | apply Kept.ite | apply State.lookup_kept | apply State.startRead_kept | apply State.startRead_kept_of (by assumption)
    | apply State.fetchSector_kept | apply hs | simp -zeta only [↓kept_mk] | apply KeptMk.same | apply KeptMk.setCon | apply KeptMk.setBst
    | apply KeptMk.setKpr | apply KeptMk.setRegs | apply KeptMk.setAll | apply ConsoleMk.same | apply ConsoleMk.setBuf | apply BootMk.same
    | apply KeeperMk.same | apply Kept.pending | apply Kept.regs | apply Kept.bst | apply Kept.kpr | apply Kept.con | exact Nat.zero_le _
    | apply Kept.getD | exact nil_le | apply Kept.foldl_snd | apply Kept.foldl_fst | apply Kept.foldl | apply KeptO.none | apply KeptO.some
    | apply KeptO3.none | apply KeptO3.some | apply Kept.next | split

theorem State.pageCame_kept {pq : List Instr} {s : State} {page : Nat} {go : State → Nat × Need → State} (hs : Kept pq s) (hgo : ∀ (y0 : State) (y1 : Nat × Need), Kept pq y0 → Kept pq (go y0 y1)) :
    Kept pq (State.pageCame s page go) := by
  unfold State.pageCame
  try dsimp only
  with_reducible repeat' first
    | assumption | intro _ | apply Kept.ite | apply hs | apply hgo | simp -zeta only [↓kept_mk] | apply KeptMk.same | apply KeptMk.setCon
    | apply KeptMk.setBst | apply KeptMk.setKpr | apply KeptMk.setRegs | apply KeptMk.setAll | apply ConsoleMk.same | apply ConsoleMk.setBuf
    | apply BootMk.same | apply KeeperMk.same | apply Kept.pending | apply Kept.regs | apply Kept.bst | apply Kept.kpr | apply Kept.con
    | exact Nat.zero_le _ | apply Kept.getD | exact nil_le | apply Kept.foldl_snd | apply Kept.foldl_fst | apply Kept.foldl

theorem State.xtsCheck_kept {pq : List Instr} {s : State} {x1 : Option (Fin 4)} (hs : Kept pq s) :
    Kept pq (State.xtsCheck s x1) := by
  unfold State.xtsCheck
  with_reducible repeat' first
    | assumption | intro _ | apply Kept.ite | apply State.setReg_kept | apply State.raise_kept | apply hs
    | simp -zeta only [↓kept_mk, ↓console_mk, ↓console_mk', ↓boot_mk, ↓keeper_mk] | apply KeptMk.same | apply KeptMk.setCon | apply KeptMk.setBst
    | apply KeptMk.setKpr | apply KeptMk.setRegs | apply KeptMk.setAll | apply ConsoleMk.same | apply ConsoleMk.setBuf | apply BootMk.same
    | apply KeeperMk.same | apply Kept.pending | apply Kept.regs | apply Kept.bst | apply Kept.kpr | apply Kept.con | exact Nat.zero_le _
    | apply Kept.getD | exact nil_le | apply Kept.foldl_snd | apply Kept.foldl_fst | apply Kept.foldl | apply KeptO.none | apply KeptO.some
    | apply KeptO3.none | apply KeptO3.some | apply Kept.next | split

theorem State.cdcCount_kept {pq : List Instr} {s : State} {r : Reg} {lo : Nat} {n : Nat} {key : String} {k : Nat} (hs : Kept pq s) :
    Kept pq (State.cdcCount s r lo n key k) := by
  unfold State.cdcCount
  with_reducible repeat' first
    | assumption | intro _ | apply Kept.ite | apply State.bumpWrap_kept | apply State.stat_kept

theorem State.effort_kept {pq : List Instr} {s : State} {k : Nat} {step : Nat} {raw : Nat} (hs : Kept pq s) :
    Kept pq (State.effort s k step raw) := by
  unfold State.effort
  try dsimp only
  with_reducible repeat' first
    | assumption | intro _ | apply Kept.ite | apply State.refreshWant_kept | apply State.searchPend_kept

theorem State.heavy_kept {pq : List Instr} {s : State} {k : Nat} (hs : Kept pq s) :
    Kept pq (State.heavy s k) := by
  unfold State.heavy
  try dsimp only
  with_reducible repeat' first
    | assumption | intro _ | apply Kept.ite | apply State.setBlk_kept | apply State.refreshWant_kept

theorem State.softEffort_kept {pq : List Instr} {s : State} {k : Nat} (hs : Kept pq s) :
    Kept pq (State.softEffort s k) := by
  unfold State.softEffort
  try dsimp only
  with_reducible repeat' first
    | assumption | intro _ | apply Kept.ite | apply State.searchPend_kept | apply State.heavy_kept

theorem State.deliver_kept {pq : List Instr} {s : State} {r : Rd} {c : Cw} {outOk : Bool} (hs : Kept pq s) :
    Kept pq (State.deliver s r c outOk) := by
  unfold State.deliver
  try dsimp only
  with_reducible repeat' first
    | assumption | intro _ | apply Kept.ite | apply State.answer_kept | apply State.lose_kept | apply State.miscorrect_kept
    | apply State.readAgain_kept | apply State.setReloc_kept | apply State.pushEnc_kept | apply State.touch_kept
    | apply State.fetchSector_kept | apply State.pageCame_kept | apply hs | simp -zeta only [↓kept_mk] | apply KeptMk.same | split

theorem State.hardPass_kept {pq : List Instr} {s : State} {r : Rd} {step : Nat} {raw : Nat} {c : Cw} {outOk : Bool} (hs : Kept pq s) :
    Kept pq (State.hardPass s r step raw c outOk) := by
  unfold State.hardPass
  with_reducible repeat' first
    | assumption | intro _ | apply Kept.ite | apply State.endRead_kept | apply State.cdcCount_kept | apply State.effort_kept
    | apply State.deliver_kept

theorem State.retryNote_kept {pq : List Instr} {s : State} {d : Nat} {k : Nat} (hs : Kept pq s) :
    Kept pq (State.retryNote s d k) := by
  unfold State.retryNote
  try dsimp only
  with_reducible repeat' first
    | assumption | intro _ | apply Kept.ite | apply State.raise_kept | apply State.remap_kept | apply hs | simp -zeta only [↓kept_mk]
    | apply KeptMk.same | apply KeptMk.setCon | apply KeptMk.setBst | apply KeptMk.setKpr | apply KeptMk.setRegs | apply KeptMk.setAll
    | apply ConsoleMk.same | apply ConsoleMk.setBuf | apply BootMk.same | apply KeeperMk.same | apply Kept.pending | apply Kept.regs | apply Kept.bst
    | apply Kept.kpr | apply Kept.con | exact Nat.zero_le _ | apply Kept.getD | exact nil_le | apply Kept.foldl_snd | apply Kept.foldl_fst
    | apply Kept.foldl | apply KeptO.none | apply KeptO.some | apply KeptO3.none | apply KeptO3.some | apply Kept.next | split

theorem State.uncNote_kept {pq : List Instr} {s : State} {l : Loc} (hs : Kept pq s) :
    Kept pq (State.uncNote s l) := by
  unfold State.uncNote
  with_reducible repeat' first
    | assumption | intro _ | apply Kept.ite | apply State.setReg_kept | apply State.raise_kept | apply State.cdcCount_kept | apply State.heavy_kept

theorem State.uncorrectable_kept {pq : List Instr} {s : State} {r : Rd} (hs : Kept pq s) :
    Kept pq (State.uncorrectable s r) := by
  unfold State.uncorrectable
  try dsimp only
  with_reducible repeat' first
    | assumption | intro _ | apply Kept.ite | apply State.stat_kept | apply State.dropReloc_kept | apply State.searchPend_kept | apply State.host_kept
    | apply State.endRead_kept | apply State.lose_kept | apply State.pageCame_kept | apply State.retryNote_kept | apply State.uncNote_kept | apply hs
    | simp -zeta only [↓kept_mk, ↓console_mk, ↓console_mk', ↓boot_mk, ↓keeper_mk] | apply KeptMk.same | apply KeptMk.setCon | apply KeptMk.setBst
    | apply KeptMk.setKpr | apply KeptMk.setRegs | apply KeptMk.setAll | apply ConsoleMk.same | apply ConsoleMk.setBuf | apply BootMk.same
    | apply KeeperMk.same | apply Kept.pending | apply Kept.regs | apply Kept.bst | apply Kept.kpr | apply Kept.con | exact Nat.zero_le _
    | apply Kept.getD | exact nil_le | apply Kept.foldl_snd | apply Kept.foldl_fst | apply Kept.foldl | apply KeptO.none | apply KeptO.some
    | apply KeptO3.none | apply KeptO3.some | apply Kept.next | split

theorem State.abandon_kept {pq : List Instr} {s : State} {p : Rd → Bool} (hs : Kept pq s) :
    Kept pq (State.abandon s p) := by
  unfold State.abandon
  try dsimp only
  with_reducible repeat' first
    | assumption | intro _ | apply Kept.ite | apply State.setRd_kept | apply State.endRead_kept | apply hs
    | simp -zeta only [↓kept_mk, ↓console_mk, ↓console_mk', ↓boot_mk, ↓keeper_mk] | apply KeptMk.same | apply KeptMk.setCon | apply KeptMk.setBst
    | apply KeptMk.setKpr | apply KeptMk.setRegs | apply KeptMk.setAll | apply ConsoleMk.same | apply ConsoleMk.setBuf | apply BootMk.same
    | apply KeeperMk.same | apply Kept.pending | apply Kept.regs | apply Kept.bst | apply Kept.kpr | apply Kept.con | exact Nat.zero_le _
    | apply Kept.getD | exact nil_le | apply Kept.foldl_snd | apply Kept.foldl_fst | apply Kept.foldl

theorem State.toRebuild_kept {pq : List Instr} {s : State} {r : Rd} (hs : Kept pq s) :
    Kept pq (State.toRebuild s r) := by
  unfold State.toRebuild
  try dsimp only
  with_reducible repeat' first
    | assumption | intro _ | apply Kept.ite | apply State.bumpWrap_kept | apply State.dropOp_kept | apply State.setRd_kept | apply State.softTick_kept
    | apply State.uncorrectable_kept

theorem State.reread_kept {pq : List Instr} {s : State} {r : Rd} {st : RdStage} {row : Nat} (hs : Kept pq s) :
    Kept pq (State.reread s r st row) := by
  unfold State.reread
  try dsimp only
  with_reducible repeat' first
    | assumption | intro _ | apply Kept.ite | apply State.setOp_kept | apply State.setRd_kept | apply State.softTick_kept

theorem State.hardFail_kept {pq : List Instr} {s : State} {r : Rd} {step : Nat} (hs : Kept pq s) :
    Kept pq (State.hardFail s r step) := by
  unfold State.hardFail
  try dsimp only
  with_reducible repeat' first
    | assumption | intro _ | apply Kept.ite | apply State.endRead_kept | apply State.cdcCount_kept | apply State.toRebuild_kept
    | apply State.reread_kept

theorem State.cryptoFault_kept {pq : List Instr} {s : State} {r : Rd} (hs : Kept pq s) :
    Kept pq (State.cryptoFault s r) := by
  unfold State.cryptoFault
  try dsimp only
  with_reducible repeat' first
    | assumption | intro _ | apply Kept.ite | apply State.raise_kept | apply State.dropReloc_kept | apply State.endRead_kept | apply State.lose_kept
    | apply State.pageCame_kept | apply hs | simp -zeta only [↓kept_mk, ↓console_mk, ↓console_mk', ↓boot_mk, ↓keeper_mk] | apply KeptMk.same
    | apply KeptMk.setCon | apply KeptMk.setBst | apply KeptMk.setKpr | apply KeptMk.setRegs | apply KeptMk.setAll | apply ConsoleMk.same
    | apply ConsoleMk.setBuf | apply BootMk.same | apply KeeperMk.same | apply Kept.pending | apply Kept.regs | apply Kept.bst | apply Kept.kpr
    | apply Kept.con | exact Nat.zero_le _ | apply Kept.getD | exact nil_le | apply Kept.foldl_snd | apply Kept.foldl_fst | apply Kept.foldl
    | apply KeptO.none | apply KeptO.some | apply KeptO3.none | apply KeptO3.some | apply Kept.next | split

theorem State.finishOp_kept {pq : List Instr} {s : State} {g : Fin 8} {o : GOp} {a : DieAnswer} (hs : Kept pq s) :
    Kept pq (State.finishOp s g o a) := by
  unfold State.finishOp
  with_reducible repeat' first
    | assumption | intro _ | apply Kept.ite | apply State.ctx_kept | apply State.runTo_kept

theorem State.readDone_kept {pq : List Instr} {s : State} {r : Rd} (hs : Kept pq s) :
    Kept pq (State.readDone s r) := by
  unfold State.readDone
  try dsimp only
  with_reducible repeat' first
    | assumption | intro _ | apply Kept.ite | apply State.finishOp_kept | apply hs
    | simp -zeta only [↓kept_mk, ↓console_mk, ↓console_mk', ↓boot_mk, ↓keeper_mk] | apply KeptMk.same | apply KeptMk.setCon | apply KeptMk.setBst
    | apply KeptMk.setKpr | apply KeptMk.setRegs | apply KeptMk.setAll | apply ConsoleMk.same | apply ConsoleMk.setBuf | apply BootMk.same
    | apply KeeperMk.same | apply Kept.pending | apply Kept.regs | apply Kept.bst | apply Kept.kpr | apply Kept.con | exact Nat.zero_le _
    | apply Kept.getD | exact nil_le | apply Kept.foldl_snd | apply Kept.foldl_fst | apply Kept.foldl | apply KeptO.none | apply KeptO.some
    | apply KeptO3.none | apply KeptO3.some | apply Kept.next | split

theorem State.readRow_kept {pq : List Instr} {s : State} {r : Rd} {row : Nat} (hs : Kept pq s) :
    Kept pq (State.readRow s r row) := by
  unfold State.readRow
  try dsimp only
  with_reducible repeat' first
    | assumption | intro _ | apply Kept.ite | apply State.ctx_kept | apply State.setOp_kept | apply State.countRead_kept | apply State.startCtx_kept
    | apply State.readDone_kept | apply hs | simp -zeta only [↓kept_mk, ↓console_mk, ↓console_mk', ↓boot_mk, ↓keeper_mk] | apply KeptMk.same
    | apply KeptMk.setCon | apply KeptMk.setBst | apply KeptMk.setKpr | apply KeptMk.setRegs | apply KeptMk.setAll | apply ConsoleMk.same
    | apply ConsoleMk.setBuf | apply BootMk.same | apply KeeperMk.same | apply Kept.pending | apply Kept.regs | apply Kept.bst | apply Kept.kpr
    | apply Kept.con | exact Nat.zero_le _ | apply Kept.getD | exact nil_le | apply Kept.foldl_snd | apply Kept.foldl_fst | apply Kept.foldl
    | apply KeptO.none | apply KeptO.some | apply KeptO3.none | apply KeptO3.some | apply Kept.next | split

theorem execHardDecode_kept {pq : List Instr} {id : Nat} {r : DecodeResult} {s : State} (hs : Kept pq s) :
    KeptOut pq (execHardDecode id r s) := by
  unfold execHardDecode
  try dsimp only
  apply Kept.next
  with_reducible repeat' first
    | assumption | intro _ | apply Kept.ite | apply BootStore.next_kept | apply State.miscorrect_kept | apply State.xtsCheck_kept
    | apply State.cdcCount_kept | apply State.hardPass_kept | apply State.hardFail_kept | apply State.cryptoFault_kept | apply State.readDone_kept
    | apply hs | simp -zeta only [↓kept_mk, ↓console_mk, ↓console_mk', ↓boot_mk, ↓keeper_mk] | apply KeptMk.same | apply KeptMk.setCon
    | apply KeptMk.setBst | apply KeptMk.setKpr | apply KeptMk.setRegs | apply KeptMk.setAll | apply ConsoleMk.same | apply ConsoleMk.setBuf
    | apply BootMk.same | apply KeeperMk.same | apply Kept.pending | apply Kept.regs | apply Kept.bst | apply Kept.kpr | apply Kept.con
    | exact Nat.zero_le _ | apply Kept.getD | exact nil_le | apply Kept.foldl_snd | apply Kept.foldl_fst | apply Kept.foldl | apply KeptO.none
    | apply KeptO.some | apply KeptO3.none | apply KeptO3.some | apply Kept.next | split

theorem State.softFail_kept {pq : List Instr} {s : State} {r : Rd} (hs : Kept pq s) :
    Kept pq (State.softFail s r) := by
  unfold State.softFail
  with_reducible repeat' first
    | assumption | intro _ | apply Kept.ite | apply State.toRebuild_kept | apply State.reread_kept

theorem execSoftDecode_kept {pq : List Instr} {id : Nat} {lane : Fin 2} {r : DecodeResult} {s : State} (hs : Kept pq s) :
    KeptOut pq (execSoftDecode id lane r s) := by
  unfold execSoftDecode
  try dsimp only
  apply Kept.next
  with_reducible repeat' first
    | assumption | intro _ | apply Kept.ite | apply State.raise_kept | apply BootStore.next_kept | apply State.endRead_kept
    | apply State.miscorrect_kept | apply State.xtsCheck_kept | apply State.cdcCount_kept | apply State.softEffort_kept | apply State.deliver_kept
    | apply State.cryptoFault_kept | apply State.readDone_kept | apply State.readRow_kept | apply State.softFail_kept | apply hs
    | simp -zeta only [↓kept_mk, ↓console_mk, ↓console_mk', ↓boot_mk, ↓keeper_mk] | apply KeptMk.same | apply KeptMk.setCon | apply KeptMk.setBst
    | apply KeptMk.setKpr | apply KeptMk.setRegs | apply KeptMk.setAll | apply ConsoleMk.same | apply ConsoleMk.setBuf | apply BootMk.same
    | apply KeeperMk.same | apply Kept.pending | apply Kept.regs | apply Kept.bst | apply Kept.kpr | apply Kept.con | exact Nat.zero_le _
    | apply Kept.getD | exact nil_le | apply Kept.foldl_snd | apply Kept.foldl_fst | apply Kept.foldl | apply KeptO.none | apply KeptO.some
    | apply KeptO3.none | apply KeptO3.some | apply Kept.next | split

theorem execSoftDecodeTimeout_kept {pq : List Instr} {id : Nat} {s : State} (hs : Kept pq s) :
    KeptOut pq (execSoftDecodeTimeout id s) := by
  unfold execSoftDecodeTimeout
  try dsimp only
  apply Kept.next
  with_reducible repeat' first
    | assumption | intro _ | apply Kept.ite | apply State.bump_kept | apply State.raise_kept | apply BootStore.next_kept | apply State.cdcCount_kept
    | apply State.readDone_kept | apply State.readRow_kept | apply State.softFail_kept | apply hs
    | simp -zeta only [↓kept_mk, ↓console_mk, ↓console_mk', ↓boot_mk, ↓keeper_mk] | apply KeptMk.same | apply KeptMk.setCon | apply KeptMk.setBst
    | apply KeptMk.setKpr | apply KeptMk.setRegs | apply KeptMk.setAll | apply ConsoleMk.same | apply ConsoleMk.setBuf | apply BootMk.same
    | apply KeeperMk.same | apply Kept.pending | apply Kept.regs | apply Kept.bst | apply Kept.kpr | apply Kept.con | exact Nat.zero_le _
    | apply Kept.getD | exact nil_le | apply Kept.foldl_snd | apply Kept.foldl_fst | apply Kept.foldl | apply KeptO.none | apply KeptO.some
    | apply KeptO3.none | apply KeptO3.some | apply Kept.next | split

theorem State.sourceRead_kept {pq : List Instr} {s : State} {k : Nat} {e : SourceRead} {passed : Bool} (hs : Kept pq s) :
    Kept pq (State.sourceRead s k e passed) := by
  unfold State.sourceRead
  try dsimp only
  with_reducible repeat' first
    | assumption | intro _ | apply Kept.ite | apply State.raise_kept | apply State.countRead_kept | apply State.cdcCount_kept
    | apply State.effort_kept | apply State.softEffort_kept

theorem State.sourceReads_kept {pq : List Instr} {s : State} {l : Loc} {f : SourceRun} (hs : Kept pq s) :
    Kept pq (State.sourceReads s l f) := by
  unfold State.sourceReads
  with_reducible repeat' first
    | assumption | intro _ | apply Kept.ite | apply State.sourceRead_kept | apply hs
    | simp -zeta only [↓kept_mk, ↓console_mk, ↓console_mk', ↓boot_mk, ↓keeper_mk] | apply KeptMk.same | apply KeptMk.setCon | apply KeptMk.setBst
    | apply KeptMk.setKpr | apply KeptMk.setRegs | apply KeptMk.setAll | apply ConsoleMk.same | apply ConsoleMk.setBuf | apply BootMk.same
    | apply KeeperMk.same | apply Kept.pending | apply Kept.regs | apply Kept.bst | apply Kept.kpr | apply Kept.con | exact Nat.zero_le _
    | apply Kept.getD | exact nil_le | apply Kept.foldl_snd | apply Kept.foldl_fst | apply Kept.foldl

theorem execStripeRebuild_kept {pq : List Instr} {id : Nat} {f : SourceRun} {r : DecodeResult} {s : State} (hs : Kept pq s) :
    KeptOut pq (execStripeRebuild id f r s) := by
  unfold execStripeRebuild
  try dsimp only
  apply Kept.next
  with_reducible repeat' first
    | assumption | intro _ | apply Kept.ite | apply State.bumpWrap_kept | apply State.raise_kept | apply BootStore.next_kept
    | apply State.refreshWant_kept | apply State.endRead_kept | apply State.miscorrect_kept | apply State.xtsCheck_kept | apply State.cdcCount_kept
    | apply State.heavy_kept | apply State.deliver_kept | apply State.uncorrectable_kept | apply State.cryptoFault_kept | apply State.sourceReads_kept
    | apply hs | simp -zeta only [↓kept_mk, ↓console_mk, ↓console_mk', ↓boot_mk, ↓keeper_mk] | apply KeptMk.same | apply KeptMk.setCon
    | apply KeptMk.setBst | apply KeptMk.setKpr | apply KeptMk.setRegs | apply KeptMk.setAll | apply ConsoleMk.same | apply ConsoleMk.setBuf
    | apply BootMk.same | apply KeeperMk.same | apply Kept.pending | apply Kept.regs | apply Kept.bst | apply Kept.kpr | apply Kept.con
    | exact Nat.zero_le _ | apply Kept.getD | exact nil_le | apply Kept.foldl_snd | apply Kept.foldl_fst | apply Kept.foldl | apply KeptO.none
    | apply KeptO.some | apply KeptO3.none | apply KeptO3.some | apply Kept.next | split

theorem State.allocFail_kept {pq : List Instr} {s : State} {a : Alloc} {st : NStat} (hs : Kept pq s) :
    Kept pq (State.allocFail s a st) := by
  unfold State.allocFail
  try dsimp only
  with_reducible repeat' first
    | assumption | intro _ | apply Kept.ite | apply BootStore.committed_kept | apply State.committed_kept | apply State.ctxFail_kept | apply hs
    | simp -zeta only [↓kept_mk] | apply KeptMk.same | apply KeptMk.setCon | apply KeptMk.setBst | apply KeptMk.setKpr | apply KeptMk.setRegs
    | apply KeptMk.setAll | apply ConsoleMk.same | apply ConsoleMk.setBuf | apply BootMk.same | apply KeeperMk.same | apply Kept.pending
    | apply Kept.regs | apply Kept.bst | apply Kept.kpr | apply Kept.con | exact Nat.zero_le _ | apply Kept.getD | exact nil_le | apply Kept.foldl_snd
    | apply Kept.foldl_fst | apply Kept.foldl | apply KeptO.none | apply KeptO.some | apply KeptO3.none | apply KeptO3.some | apply Kept.next | split

theorem State.syndrome_kept {pq : List Instr} {s : State} {g : Nat} (hs : Kept pq s) :
    Kept pq (State.syndrome s g) := by
  unfold State.syndrome
  with_reducible repeat' first
    | assumption | intro _ | apply Kept.ite | apply State.setReg_kept | apply State.bump_kept | apply State.raise_kept

theorem State.encoded_kept {pq : List Instr} {s : State} {e : Enc} {syndromeBad : Bool} (hs : Kept pq s) :
    Kept pq (State.encoded s e syndromeBad) := by
  unfold State.encoded
  try dsimp only
  with_reducible repeat' first
    | assumption | intro _ | apply Kept.ite | apply State.accJoin_kept | apply State.syndrome_kept | apply hs | simp -zeta only [↓kept_mk]
    | apply KeptMk.same

theorem execEncode_kept {pq : List Instr} {id : Nat} {r : EncodeRun} {crcBad : Bool} {s0 : State} (hs0 : Kept pq s0) :
    KeptOut pq (execEncode id r crcBad s0) := by
  unfold execEncode
  try dsimp only
  apply Kept.next
  with_reducible repeat' first
    | assumption | intro _ | apply Kept.ite | apply State.bumpWrap_kept | apply State.raise_kept | apply BootStore.next_kept
    | apply State.setAlloc_kept | apply State.xtsCheck_kept | apply State.allocFail_kept | apply State.syndrome_kept | apply State.encoded_kept
    | apply hs0 | simp -zeta only [↓kept_mk] | apply KeptMk.same | apply KeptMk.setCon | apply KeptMk.setBst | apply KeptMk.setKpr
    | apply KeptMk.setRegs | apply KeptMk.setAll | apply ConsoleMk.same | apply ConsoleMk.setBuf | apply BootMk.same | apply KeeperMk.same
    | apply Kept.pending | apply Kept.regs | apply Kept.bst | apply Kept.kpr | apply Kept.con | exact Nat.zero_le _ | apply Kept.getD | exact nil_le
    | apply Kept.foldl_snd | apply Kept.foldl_fst | apply Kept.foldl | apply KeptO.none | apply KeptO.some | apply KeptO3.none | apply KeptO3.some
    | apply Kept.next | split

theorem State.hardMove_kept {pq : List Instr} {s : State} {h : Fin 8} (hs : Kept pq s) :
    Kept pq (State.hardMove s h) := by
  unfold State.hardMove
  try dsimp only
  with_reducible repeat' first
    | assumption | intro _ | apply Kept.ite | apply State.encoded_kept | apply hs | simp -zeta only [↓kept_mk] | apply KeptMk.same

theorem execHardLaneTimeout_kept {pq : List Instr} {h : Fin 8} {s : State} (hs : Kept pq s) :
    KeptOut pq (execHardLaneTimeout h s) := by
  unfold execHardLaneTimeout
  apply Kept.next
  with_reducible repeat' first
    | assumption | intro _ | apply Kept.ite | apply State.bump_kept | apply State.raise_kept | apply BootStore.next_kept | apply State.recordSelf_kept
    | apply State.laneIn_kept | apply State.hardMove_kept

theorem State.softMove_kept {pq : List Instr} {s : State} {n : Fin 2} (hs : Kept pq s) :
    Kept pq (State.softMove s n) := by
  unfold State.softMove
  try dsimp only
  with_reducible repeat' first
    | assumption | intro _ | apply Kept.ite | apply State.setRd_kept | apply hs
    | simp -zeta only [↓kept_mk, ↓console_mk, ↓console_mk', ↓boot_mk, ↓keeper_mk] | apply KeptMk.same | apply KeptMk.setCon | apply KeptMk.setBst
    | apply KeptMk.setKpr | apply KeptMk.setRegs | apply KeptMk.setAll | apply ConsoleMk.same | apply ConsoleMk.setBuf | apply BootMk.same
    | apply KeeperMk.same | apply Kept.pending | apply Kept.regs | apply Kept.bst | apply Kept.kpr | apply Kept.con | exact Nat.zero_le _
    | apply Kept.getD | exact nil_le | apply Kept.foldl_snd | apply Kept.foldl_fst | apply Kept.foldl

theorem execSoftLaneTimeout_kept {pq : List Instr} {n : Fin 2} {s : State} (hs : Kept pq s) :
    KeptOut pq (execSoftLaneTimeout n s) := by
  unfold execSoftLaneTimeout
  apply Kept.next
  with_reducible repeat' first
    | assumption | intro _ | apply Kept.ite | apply State.bump_kept | apply State.raise_kept | apply BootStore.next_kept | apply State.recordSelf_kept
    | apply State.laneIn_kept | apply State.softMove_kept

end Sys2Proof.Machine
end

