-- ==== Sys2Proof/Laws/KeptVault.lean ====
section
/-! SUPPORT. The operations of Machine/Vault.lean keep the queue of commands and the sound form of the state. -/

namespace Sys2Proof.Machine

theorem State.loadKeys_kept {pq : List Instr} {s : State} (hs : Kept pq s) :
    Kept pq (State.loadKeys s) := by
  unfold State.loadKeys
  try dsimp only
  with_reducible repeat' first
    | assumption | intro _ | apply Kept.ite | apply hs | simp -zeta only [↓kept_mk] | apply KeptMk.same

theorem State.clearKeys_kept {pq : List Instr} {s : State} (hs : Kept pq s) :
    Kept pq (State.clearKeys s) := by
  unfold State.clearKeys
  try dsimp only
  with_reducible repeat' first
    | assumption | intro _ | apply Kept.ite | apply hs | simp -zeta only [↓kept_mk] | apply KeptMk.same

theorem State.newKey_kept {pq : List Instr} {s : State} {n : Fin 8} (hs : Kept pq s) :
    Kept pq (State.newKey s n) := by
  unfold State.newKey
  try dsimp only
  with_reducible repeat' first
    | assumption | intro _ | apply Kept.ite | apply State.loadKeys_kept | apply hs | simp -zeta only [↓kept_mk] | apply KeptMk.same

theorem State.dropKey_kept {pq : List Instr} {s : State} {n : Fin 8} (hs : Kept pq s) :
    Kept pq (State.dropKey s n) := by
  unfold State.dropKey
  try dsimp only
  with_reducible repeat' first
    | assumption | intro _ | apply Kept.ite | apply State.loadKeys_kept | apply hs | simp -zeta only [↓kept_mk] | apply KeptMk.same

theorem State.floodAlarm_kept {pq : List Instr} {s : State} {origin : Nat} {bit : Nat} {secs : Word} {except_ : Option Port} (hs : Kept pq s) :
    Kept pq (State.floodAlarm s origin bit secs except_) := by
  unfold State.floodAlarm
  try dsimp only
  with_reducible repeat' first
    | assumption | intro _ | apply Kept.ite | apply State.seq_kept | apply State.alarm_kept | apply hs | simp -zeta only [↓kept_mk]
    | apply KeptMk.same

theorem State.alarmLock_kept {pq : List Instr} {s : State} (hs : Kept pq s) :
    Kept pq (State.alarmLock s) := by
  unfold State.alarmLock
  try dsimp only
  with_reducible repeat' first
    | assumption | intro _ | apply Kept.ite | apply State.clearKeys_kept | apply hs | simp -zeta only [↓kept_mk] | apply KeptMk.same

theorem State.zeroizeMeets_kept {pq : List Instr} {s : State} (hs : Kept pq s) :
    Kept pq (State.zeroizeMeets s) := by
  unfold State.zeroizeMeets
  with_reducible repeat' first
    | assumption | intro _ | apply Kept.ite | apply State.done_kept | apply hs
    | simp -zeta only [↓kept_mk, ↓console_mk, ↓console_mk', ↓boot_mk, ↓keeper_mk] | apply KeptMk.same | apply KeptMk.setCon | apply KeptMk.setBst
    | apply KeptMk.setKpr | apply KeptMk.setRegs | apply KeptMk.setAll | apply ConsoleMk.same | apply ConsoleMk.setBuf | apply BootMk.same
    | apply KeeperMk.same | apply Kept.pending | apply Kept.regs | apply Kept.bst | apply Kept.kpr | apply Kept.con | exact Nat.zero_le _
    | apply Kept.getD | exact nil_le | apply Kept.foldl_snd | apply Kept.foldl_fst | apply Kept.foldl

theorem State.zeroize_kept {pq : List Instr} {s : State} (hs : Kept pq s) :
    Kept pq (State.zeroize s) := by
  unfold State.zeroize
  try dsimp only
  with_reducible repeat' first
    | assumption | intro _ | apply Kept.ite | apply State.raise_kept | apply State.requestFused_kept | apply State.clearKeys_kept
    | apply State.zeroizeMeets_kept | apply hs | simp -zeta only [↓kept_mk] | apply KeptMk.same

theorem State.alarmAct_kept {pq : List Instr} {s : State} {a : Nat} (hs : Kept pq s) :
    Kept pq (State.alarmAct s a) := by
  unfold State.alarmAct
  try dsimp only
  with_reducible repeat' first
    | assumption | intro _ | apply Kept.ite | apply State.alarmLock_kept | apply State.zeroize_kept | apply hs
    | simp -zeta only [↓kept_mk, ↓console_mk, ↓console_mk', ↓boot_mk, ↓keeper_mk] | apply KeptMk.same | apply KeptMk.setCon | apply KeptMk.setBst
    | apply KeptMk.setKpr | apply KeptMk.setRegs | apply KeptMk.setAll | apply ConsoleMk.same | apply ConsoleMk.setBuf | apply BootMk.same
    | apply KeeperMk.same | apply Kept.pending | apply Kept.regs | apply Kept.bst | apply Kept.kpr | apply Kept.con | exact Nat.zero_le _
    | apply Kept.getD | exact nil_le | apply Kept.foldl_snd | apply Kept.foldl_fst | apply Kept.foldl | apply KeptO.none | apply KeptO.some
    | apply KeptO3.none | apply KeptO3.some | apply Kept.next | split

theorem State.alarm_kept {pq : List Instr} {s : State} {k : Nat} {detail : Nat} (hs : Kept pq s) :
    Kept pq (State.alarm s k detail) := by
  unfold State.alarm
  try dsimp only
  with_reducible repeat' first
    | assumption | intro _ | apply Kept.ite | apply State.raise_kept | apply State.floodAlarm_kept | apply State.alarmAct_kept | apply hs
    | simp -zeta only [↓kept_mk] | apply KeptMk.same

theorem State.alarmIn_kept {pq : List Instr} {s : State} {p : Port} {origin : Fin 4} {bit : Nat} {secs : Word} (hs : Kept pq s) :
    Kept pq (State.alarmIn s p origin bit secs) := by
  unfold State.alarmIn
  try dsimp only
  with_reducible repeat' first
    | assumption | intro _ | apply Kept.ite | apply State.raise_kept | apply State.floodAlarm_kept | apply State.alarmAct_kept | apply hs
    | simp -zeta only [↓kept_mk] | apply KeptMk.same

theorem State.sense_kept {pq : List Instr} {s : State} {k : Nat} {on : Bool} (hs : Kept pq s) :
    Kept pq (State.sense s k on) := by
  unfold State.sense
  try dsimp only
  with_reducible repeat' first
    | assumption | intro _ | apply Kept.ite | apply hs | simp -zeta only [↓kept_mk] | apply KeptMk.same

theorem execSupplyAlarm_kept {pq : List Instr} {mv : Nat} {s : State} (hs : Kept pq s) :
    KeptOut pq (execSupplyAlarm mv s) := by
  unfold execSupplyAlarm
  try dsimp only
  with_reducible repeat' first
    | assumption | intro _ | apply Kept.ite | apply BootStore.next_kept | apply State.alarm_kept | apply State.sense_kept | apply hs
    | simp -zeta only [↓kept_mk, ↓console_mk, ↓console_mk', ↓boot_mk, ↓keeper_mk] | apply KeptMk.same | apply KeptMk.setCon | apply KeptMk.setBst
    | apply KeptMk.setKpr | apply KeptMk.setRegs | apply KeptMk.setAll | apply ConsoleMk.same | apply ConsoleMk.setBuf | apply BootMk.same
    | apply KeeperMk.same | apply Kept.pending | apply Kept.regs | apply Kept.bst | apply Kept.kpr | apply Kept.con | exact Nat.zero_le _
    | apply Kept.getD | exact nil_le | apply Kept.foldl_snd | apply Kept.foldl_fst | apply Kept.foldl | apply KeptO.none | apply KeptO.some
    | apply KeptO3.none | apply KeptO3.some | apply Kept.next

theorem execClockAlarm_kept {pq : List Instr} {mhz : Nat} {s : State} (hs : Kept pq s) :
    KeptOut pq (execClockAlarm mhz s) := by
  unfold execClockAlarm
  try dsimp only
  with_reducible repeat' first
    | assumption | intro _ | apply Kept.ite | apply BootStore.next_kept | apply State.alarm_kept | apply State.sense_kept | apply hs
    | simp -zeta only [↓kept_mk, ↓console_mk, ↓console_mk', ↓boot_mk, ↓keeper_mk] | apply KeptMk.same | apply KeptMk.setCon | apply KeptMk.setBst
    | apply KeptMk.setKpr | apply KeptMk.setRegs | apply KeptMk.setAll | apply ConsoleMk.same | apply ConsoleMk.setBuf | apply BootMk.same
    | apply KeeperMk.same | apply Kept.pending | apply Kept.regs | apply Kept.bst | apply Kept.kpr | apply Kept.con | exact Nat.zero_le _
    | apply Kept.getD | exact nil_le | apply Kept.foldl_snd | apply Kept.foldl_fst | apply Kept.foldl | apply KeptO.none | apply KeptO.some
    | apply KeptO3.none | apply KeptO3.some | apply Kept.next

theorem execTemperatureAlarm_kept {pq : List Instr} {c : Int} {s : State} (hs : Kept pq s) :
    KeptOut pq (execTemperatureAlarm c s) := by
  unfold execTemperatureAlarm
  try dsimp only
  with_reducible repeat' first
    | assumption | intro _ | apply Kept.ite | apply BootStore.next_kept | apply State.alarm_kept | apply State.sense_kept | apply hs
    | simp -zeta only [↓kept_mk] | apply KeptMk.same | apply KeptMk.setCon | apply KeptMk.setBst | apply KeptMk.setKpr | apply KeptMk.setRegs
    | apply KeptMk.setAll | apply ConsoleMk.same | apply ConsoleMk.setBuf | apply BootMk.same | apply KeeperMk.same | apply Kept.pending
    | apply Kept.regs | apply Kept.bst | apply Kept.kpr | apply Kept.con | exact Nat.zero_le _ | apply Kept.getD | exact nil_le | apply Kept.foldl_snd
    | apply Kept.foldl_fst | apply Kept.foldl | apply KeptO.none | apply KeptO.some | apply KeptO3.none | apply KeptO3.some | apply Kept.next

theorem execGlitchAlarm_kept {pq : List Instr} {s : State} (hs : Kept pq s) :
    KeptOut pq (execGlitchAlarm s) := by
  unfold execGlitchAlarm
  apply Kept.next
  with_reducible repeat' first
    | assumption | intro _ | apply Kept.ite | apply BootStore.next_kept | apply State.alarm_kept

theorem execUnlockFailureAlarm_kept {pq : List Instr} {s : State} (hs : Kept pq s) :
    KeptOut pq (execUnlockFailureAlarm s) := by
  unfold execUnlockFailureAlarm
  try dsimp only
  apply Kept.next
  with_reducible repeat' first
    | assumption | intro _ | apply Kept.ite | apply BootStore.next_kept | apply State.alarm_kept | apply hs | simp -zeta only [↓kept_mk]
    | apply KeptMk.same

theorem execAlarmLogProgram_kept {pq : List Instr} {good : Bool} {s : State} (hs : Kept pq s) :
    KeptOut pq (execAlarmLogProgram good s) := by
  unfold execAlarmLogProgram
  try dsimp only
  apply Kept.next
  with_reducible repeat' first
    | assumption | intro _ | apply Kept.ite | apply State.bump_kept | apply BootStore.alarmAdd_kept | apply BootStore.next_kept
    | apply State.good_kept | apply hs | simp -zeta only [↓kept_mk] | apply KeptMk.same | apply KeptMk.setCon | apply KeptMk.setBst
    | apply KeptMk.setKpr | apply KeptMk.setRegs | apply KeptMk.setAll | apply ConsoleMk.same | apply ConsoleMk.setBuf | apply BootMk.same
    | apply KeeperMk.same | apply Kept.pending | apply Kept.regs | apply Kept.bst | apply Kept.kpr | apply Kept.con | exact Nat.zero_le _
    | apply Kept.getD | exact nil_le | apply Kept.foldl_snd | apply Kept.foldl_fst | apply Kept.foldl | apply KeptO.none | apply KeptO.some
    | apply KeptO3.none | apply KeptO3.some | apply Kept.next | split

theorem State.lockNow_kept {pq : List Instr} {s : State} (hs : Kept pq s) :
    Kept pq (State.lockNow s) := by
  unfold State.lockNow
  try dsimp only
  with_reducible repeat' first
    | assumption | intro _ | apply Kept.ite | apply State.clearKeys_kept | apply hs | simp -zeta only [↓kept_mk] | apply KeptMk.same

theorem State.lockTry_kept {pq : List Instr} {s : State} (hs : Kept pq s) :
    Kept pq (State.lockTry s) := by
  unfold State.lockTry
  try dsimp only
  with_reducible repeat' first
    | assumption | intro _ | apply Kept.ite | apply State.finishLine_kept | apply State.host_kept | apply State.good_kept | apply State.lockNow_kept
    | apply hs | simp -zeta only [↓kept_mk, ↓console_mk'] | apply KeptMk.same | apply KeptMk.setCon | apply KeptMk.setBst | apply KeptMk.setKpr
    | apply KeptMk.setRegs | apply KeptMk.setAll | apply ConsoleMk.same | apply ConsoleMk.setBuf | apply BootMk.same | apply KeeperMk.same
    | apply Kept.pending | apply Kept.regs | apply Kept.bst | apply Kept.kpr | apply Kept.con | exact Nat.zero_le _ | apply Kept.getD | exact nil_le
    | apply Kept.foldl_snd | apply Kept.foldl_fst | apply Kept.foldl | apply KeptO.none | apply KeptO.some | apply KeptO3.none | apply KeptO3.some
    | apply Kept.next | split

theorem State.beginCheck_kept {pq : List Instr} {s : State} {c : Check} {pw : List Byte} (hs : Kept pq s) :
    Kept pq (State.beginCheck s c pw) := by
  unfold State.beginCheck
  try dsimp only
  with_reducible repeat' first
    | assumption | intro _ | apply Kept.ite | apply hs | simp -zeta only [↓kept_mk] | apply KeptMk.same

theorem State.fanOut_kept {pq : List Instr} {s : State} {h : Hdr} {w : Option (Check × List Byte)} {here : State → State} (hs : Kept pq s) (hhere : ∀ (y0 : State), Kept pq y0 → Kept pq (here y0)) :
    Kept pq (State.fanOut s h w here) := by
  unfold State.fanOut
  try dsimp only
  with_reducible repeat' first
    | assumption | intro _ | apply Kept.ite | apply State.tethSend_kept | apply hs | apply hhere | simp -zeta only [↓kept_mk, ↓console_mk']
    | apply KeptMk.same | apply KeptMk.setCon | apply KeptMk.setBst | apply KeptMk.setKpr | apply KeptMk.setRegs | apply KeptMk.setAll
    | apply ConsoleMk.same | apply ConsoleMk.setBuf | apply BootMk.same | apply KeeperMk.same | apply Kept.pending | apply Kept.regs | apply Kept.bst
    | apply Kept.kpr | apply Kept.con | exact Nat.zero_le _ | apply Kept.getD | exact nil_le | apply Kept.foldl_snd | apply Kept.foldl_fst
    | apply Kept.foldl | apply KeptO.none | apply KeptO.some | apply KeptO3.none | apply KeptO3.some | apply Kept.next | split

theorem State.hostLock_kept {pq : List Instr} {s : State} {h : Hdr} (hs : Kept pq s) :
    Kept pq (State.hostLock s h) := by
  unfold State.hostLock
  try dsimp only
  with_reducible repeat' first
    | assumption | intro _ | apply Kept.ite | apply State.host_kept | apply State.done_kept | apply State.good_kept | apply State.lockTry_kept
    | apply hs | simp -zeta only [↓kept_mk] | apply KeptMk.same | apply KeptMk.setCon | apply KeptMk.setBst | apply KeptMk.setKpr
    | apply KeptMk.setRegs | apply KeptMk.setAll | apply ConsoleMk.same | apply ConsoleMk.setBuf | apply BootMk.same | apply KeeperMk.same
    | apply Kept.pending | apply Kept.regs | apply Kept.bst | apply Kept.kpr | apply Kept.con | exact Nat.zero_le _ | apply Kept.getD | exact nil_le
    | apply Kept.foldl_snd | apply Kept.foldl_fst | apply Kept.foldl | apply KeptO.none | apply KeptO.some | apply KeptO3.none | apply KeptO3.some
    | apply Kept.next | split

theorem State.fanAnswer_kept {pq : List Instr} {s : State} {tag : BitVec 16} {line : List Byte} (hs : Kept pq s) :
    Kept pq (State.fanAnswer s tag line) := by
  unfold State.fanAnswer
  try dsimp only
  with_reducible repeat' first
    | assumption | intro _ | apply Kept.ite | apply State.done_kept | apply State.beginCheck_kept | apply State.hostLock_kept | apply hs
    | simp -zeta only [↓kept_mk] | apply KeptMk.same | apply KeptMk.setCon | apply KeptMk.setBst | apply KeptMk.setKpr | apply KeptMk.setRegs
    | apply KeptMk.setAll | apply ConsoleMk.same | apply ConsoleMk.setBuf | apply BootMk.same | apply KeeperMk.same | apply Kept.pending
    | apply Kept.regs | apply Kept.bst | apply Kept.kpr | apply Kept.con | exact Nat.zero_le _ | apply Kept.getD | exact nil_le | apply Kept.foldl_snd
    | apply Kept.foldl_fst | apply Kept.foldl | apply KeptO.none | apply KeptO.some | apply KeptO3.none | apply KeptO3.some | apply Kept.next | split

theorem State.unlockNow_kept {pq : List Instr} {s : State} (hs : Kept pq s) :
    Kept pq (State.unlockNow s) := by
  unfold State.unlockNow
  try dsimp only
  with_reducible repeat' first
    | assumption | intro _ | apply Kept.ite | apply State.loadKeys_kept | apply hs | simp -zeta only [↓kept_mk] | apply KeptMk.same

theorem State.setPassword_kept {pq : List Instr} {s : State} {new : Option (List Byte)} (hs : Kept pq s) :
    Kept pq (State.setPassword s new) := by
  unfold State.setPassword
  try dsimp only
  with_reducible repeat' first
    | assumption | intro _ | apply Kept.ite | apply State.loadKeys_kept | apply hs | simp -zeta only [↓kept_mk] | apply KeptMk.same

theorem execSecurityReceiveProtocols_kept {pq : List Instr} {h : Hdr} {s : State} (hs : Kept pq s) :
    KeptOut pq (execSecurityReceiveProtocols h s) := by
  unfold execSecurityReceiveProtocols
  apply Kept.next
  with_reducible repeat' first
    | assumption | intro _ | apply Kept.ite | apply BootStore.next_kept | apply State.host_kept | apply State.done_kept

theorem State.hostSet_kept {pq : List Instr} {s : State} {h : Hdr} {oldLen : Nat} {newLen : Nat} {old : List Byte} {new : List Byte} (hs : Kept pq s) :
    Kept pq (State.hostSet s h oldLen newLen old new) := by
  unfold State.hostSet
  try dsimp only
  with_reducible repeat' first
    | assumption | intro _ | apply Kept.ite | apply State.done_kept | apply State.good_kept | apply State.beginCheck_kept | apply State.fanOut_kept

theorem execSecuritySet_kept {pq : List Instr} {h : Hdr} {version : Nat} {tl : Nat} {oldLen : Nat} {newLen : Nat} {old : List Byte} {new : List Byte} {s : State} (hs : Kept pq s) :
    KeptOut pq (execSecuritySet h version tl oldLen newLen old new s) := by
  unfold execSecuritySet
  apply Kept.next
  with_reducible repeat' first
    | assumption | intro _ | apply Kept.ite | apply BootStore.next_kept | apply State.host_kept | apply State.done_kept | apply State.hostSet_kept

theorem execSecurityLock_kept {pq : List Instr} {h : Hdr} {tl : Nat} {s : State} (hs : Kept pq s) :
    KeptOut pq (execSecurityLock h tl s) := by
  unfold execSecurityLock
  apply Kept.next
  with_reducible repeat' first
    | assumption | intro _ | apply Kept.ite | apply BootStore.next_kept | apply State.host_kept | apply State.done_kept | apply State.fanOut_kept
    | apply State.hostLock_kept

theorem execSecurityUnlock_kept {pq : List Instr} {h : Hdr} {version : Nat} {tl : Nat} {len : Nat} {pw : List Byte} {s : State} (hs : Kept pq s) :
    KeptOut pq (execSecurityUnlock h version tl len pw s) := by
  unfold execSecurityUnlock
  apply Kept.next
  with_reducible repeat' first
    | assumption | intro _ | apply Kept.ite | apply BootStore.next_kept | apply State.host_kept | apply State.done_kept | apply State.good_kept
    | apply State.beginCheck_kept | apply State.fanOut_kept

theorem execSecurityStatus_kept {pq : List Instr} {h : Hdr} {s : State} (hs : Kept pq s) :
    KeptOut pq (execSecurityStatus h s) := by
  unfold execSecurityStatus
  try dsimp only
  apply Kept.next
  with_reducible repeat' first
    | assumption | intro _ | apply Kept.ite | apply BootStore.next_kept | apply State.host_kept | apply State.done_kept | apply hs
    | simp -zeta only [↓kept_mk] | apply KeptMk.same

theorem State.checkDone_kept {pq : List Instr} {s : State} (hs : Kept pq s) :
    Kept pq (State.checkDone s) := by
  unfold State.checkDone
  try dsimp only
  with_reducible repeat' first
    | assumption | intro _ | apply Kept.ite | apply State.finishLine_kept | apply State.done_kept | apply State.good_kept | apply State.unlockNow_kept
    | apply State.setPassword_kept | apply hs | simp -zeta only [↓kept_mk] | apply KeptMk.same | apply KeptMk.setCon | apply KeptMk.setBst
    | apply KeptMk.setKpr | apply KeptMk.setRegs | apply KeptMk.setAll | apply ConsoleMk.same | apply ConsoleMk.setBuf | apply BootMk.same
    | apply KeeperMk.same | apply Kept.pending | apply Kept.regs | apply Kept.bst | apply Kept.kpr | apply Kept.con | exact Nat.zero_le _
    | apply Kept.getD | exact nil_le | apply Kept.foldl_snd | apply Kept.foldl_fst | apply Kept.foldl | apply KeptO.none | apply KeptO.some
    | apply KeptO3.none | apply KeptO3.some | apply Kept.next | split

theorem execPasswordCheckComplete_kept {pq : List Instr} {s : State} (hs : Kept pq s) :
    KeptOut pq (execPasswordCheckComplete s) := by
  unfold execPasswordCheckComplete
  try dsimp only
  apply Kept.next
  with_reducible repeat' first
    | assumption | intro _ | apply Kept.ite | apply BootStore.next_kept | apply State.checkDone_kept | apply hs
    | simp -zeta only [↓kept_mk, ↓console_mk'] | apply KeptMk.same | apply KeptMk.setCon | apply KeptMk.setBst | apply KeptMk.setKpr
    | apply KeptMk.setRegs | apply KeptMk.setAll | apply ConsoleMk.same | apply ConsoleMk.setBuf | apply BootMk.same | apply KeeperMk.same
    | apply Kept.pending | apply Kept.regs | apply Kept.bst | apply Kept.kpr | apply Kept.con | exact Nat.zero_le _ | apply Kept.getD | exact nil_le
    | apply Kept.foldl_snd | apply Kept.foldl_fst | apply Kept.foldl | apply KeptO.none | apply KeptO.some | apply KeptO3.none | apply KeptO3.some
    | apply Kept.next | split

end Sys2Proof.Machine
end

