-- ==== Sys2Proof/Laws/KeptDealloc.lean ====
section
/-! SUPPORT. The operations of Machine/Dealloc.lean keep the queue of commands and the sound form of the state. -/

namespace Sys2Proof.Machine

theorem State.pendNote_kept {pq : List Instr} {s : State} {d : Nat} {q : Nat} (hs : Kept pq s) :
    Kept pq (State.pendNote s d q) := by
  unfold State.pendNote
  try dsimp only
  with_reducible repeat' first
    | assumption | intro _ | apply Kept.ite | apply hs | simp -zeta only [↓kept_mk] | apply KeptMk.same

theorem State.deallocOne_kept {pq : List Instr} {s : State} {first : Nat} {count : Nat} (hs : Kept pq s) :
    Kept pq (State.deallocOne s first count) := by
  unfold State.deallocOne
  try dsimp only
  with_reducible repeat' first
    | assumption | intro _ | apply Kept.ite | apply State.record_kept | apply State.setEntry_kept | apply State.bumpExt_kept
    | apply State.pendNote_kept | apply hs | simp -zeta only [↓kept_mk] | apply KeptMk.same | apply KeptMk.setCon | apply KeptMk.setBst
    | apply KeptMk.setKpr | apply KeptMk.setRegs | apply KeptMk.setAll | apply ConsoleMk.same | apply ConsoleMk.setBuf | apply BootMk.same
    | apply KeeperMk.same | apply Kept.pending | apply Kept.regs | apply Kept.bst | apply Kept.kpr | apply Kept.con | exact Nat.zero_le _
    | apply Kept.getD | exact nil_le | apply Kept.foldl_snd | apply Kept.foldl_fst | apply Kept.foldl

theorem State.deallocRun_kept {pq : List Instr} {s : State} {x1 : List (Option Hdr × Nat × Nat)} (hs : Kept pq s) :
    Kept pq (State.deallocRun s x1) := by
  induction x1 generalizing s with
  | nil => exact hs
  | cons e r ih =>
    obtain ⟨h, first, count⟩ := e
    unfold State.deallocRun
    dsimp only
    split
    · exact hs
    · refine ih ?_
      have k := State.deallocOne_kept (pq := pq) (first := first) (count := count) hs
      generalize s.deallocOne first count = t at k ⊢
      split <;> [split; skip] <;> exact k

theorem State.deallocate_kept {pq : List Instr} {s : State} {h : Option Hdr} {ranges : List (Nat × Nat)} (hs : Kept pq s) :
    Kept pq (State.deallocate s h ranges) := by
  unfold State.deallocate
  with_reducible repeat' first
    | assumption | intro _ | apply Kept.ite | apply State.deallocRun_kept

theorem State.setSecure_kept {pq : List Instr} {s : State} {f : SecDeal → SecDeal} (hs : Kept pq s) :
    Kept pq (State.setSecure s f) := by
  unfold State.setSecure
  try dsimp only
  with_reducible repeat' first
    | assumption | intro _ | apply Kept.ite | apply hs | simp -zeta only [↓kept_mk] | apply KeptMk.same

theorem State.recordSecure_kept {pq : List Instr} {s : State} {s0 : Nat} {ranges : List (Nat × Nat)} (hs : Kept pq s) :
    Kept pq (State.recordSecure s s0 ranges) := by
  unfold State.recordSecure
  try dsimp only
  with_reducible repeat' first
    | assumption | intro _ | apply Kept.ite | apply State.record_kept | apply hs
    | simp -zeta only [↓kept_mk, ↓console_mk, ↓console_mk', ↓boot_mk, ↓keeper_mk] | apply KeptMk.same | apply KeptMk.setCon | apply KeptMk.setBst
    | apply KeptMk.setKpr | apply KeptMk.setRegs | apply KeptMk.setAll | apply ConsoleMk.same | apply ConsoleMk.setBuf | apply BootMk.same
    | apply KeeperMk.same | apply Kept.pending | apply Kept.regs | apply Kept.bst | apply Kept.kpr | apply Kept.con | exact Nat.zero_le _
    | apply Kept.getD | exact nil_le | apply Kept.foldl_snd | apply Kept.foldl_fst | apply Kept.foldl

theorem State.secureRecord_kept {pq : List Instr} {s : State} (hs : Kept pq s) :
    Kept pq (State.secureRecord s) := by
  unfold State.secureRecord
  try dsimp only
  with_reducible repeat' first
    | assumption | intro _ | apply Kept.ite | apply State.setSecure_kept | apply State.recordSecure_kept | apply hs
    | simp -zeta only [↓kept_mk, ↓console_mk, ↓console_mk', ↓boot_mk, ↓keeper_mk] | apply KeptMk.same | apply KeptMk.setCon | apply KeptMk.setBst
    | apply KeptMk.setKpr | apply KeptMk.setRegs | apply KeptMk.setAll | apply ConsoleMk.same | apply ConsoleMk.setBuf | apply BootMk.same
    | apply KeeperMk.same | apply Kept.pending | apply Kept.regs | apply Kept.bst | apply Kept.kpr | apply Kept.con | exact Nat.zero_le _
    | apply Kept.getD | exact nil_le | apply Kept.foldl_snd | apply Kept.foldl_fst | apply Kept.foldl | apply KeptO.none | apply KeptO.some
    | apply KeptO3.none | apply KeptO3.some | apply Kept.next | split

theorem State.secureBegin_kept {pq : List Instr} {s : State} {h : Option Hdr} {ranges : List (Nat × Nat)} (hs : Kept pq s) :
    Kept pq (State.secureBegin s h ranges) := by
  unfold State.secureBegin
  try dsimp only
  with_reducible repeat' first
    | assumption | intro _ | apply Kept.ite | apply State.deallocate_kept | apply State.secureRecord_kept | apply hs | simp -zeta only [↓kept_mk]
    | apply KeptMk.same

theorem State.dissolve_kept {pq : List Instr} {s : State} {k : Nat} (hs : Kept pq s) :
    Kept pq (State.dissolve s k) := by
  unfold State.dissolve
  try dsimp only
  with_reducible repeat' first
    | assumption | intro _ | apply Kept.ite | apply State.setBlk_kept | apply State.setGroup_kept | apply State.releaseFill_kept
    | apply State.parity_kept | apply State.setSecure_kept | apply hs | simp -zeta only [↓kept_mk, ↓console_mk, ↓console_mk', ↓boot_mk, ↓keeper_mk]
    | apply KeptMk.same | apply KeptMk.setCon | apply KeptMk.setBst | apply KeptMk.setKpr | apply KeptMk.setRegs | apply KeptMk.setAll
    | apply ConsoleMk.same | apply ConsoleMk.setBuf | apply BootMk.same | apply KeeperMk.same | apply Kept.pending | apply Kept.regs | apply Kept.bst
    | apply Kept.kpr | apply Kept.con | exact Nat.zero_le _ | apply Kept.getD | exact nil_le | apply Kept.foldl_snd | apply Kept.foldl_fst
    | apply Kept.foldl | apply KeptO.none | apply KeptO.some | apply KeptO3.none | apply KeptO3.some | apply Kept.next | split

theorem State.secureFind_kept {pq : List Instr} {s : State} {x : SecDeal} (hs : Kept pq s) :
    Kept pq (State.secureFind s x) := by
  unfold State.secureFind
  try dsimp only
  with_reducible repeat' first
    | assumption | intro _ | apply Kept.ite | apply State.setSecure_kept

theorem State.secureScan_kept {pq : List Instr} {s : State} {x : SecDeal} (hs : Kept pq s) :
    Kept pq (State.secureScan s x) := by
  unfold State.secureScan
  try dsimp only
  with_reducible repeat' first
    | assumption | intro _ | apply Kept.ite | apply State.raiseIf_kept | apply State.countRead_kept | apply State.setSecure_kept
    | apply State.dissolve_kept | apply hs | simp -zeta only [↓kept_mk, ↓console_mk, ↓console_mk', ↓boot_mk, ↓keeper_mk] | apply KeptMk.same
    | apply KeptMk.setCon | apply KeptMk.setBst | apply KeptMk.setKpr | apply KeptMk.setRegs | apply KeptMk.setAll | apply ConsoleMk.same
    | apply ConsoleMk.setBuf | apply BootMk.same | apply KeeperMk.same | apply Kept.pending | apply Kept.regs | apply Kept.bst | apply Kept.kpr
    | apply Kept.con | exact Nat.zero_le _ | apply Kept.getD | exact nil_le | apply Kept.foldl_snd | apply Kept.foldl_fst | apply Kept.foldl

theorem State.scrubStaged_kept {pq : List Instr} {s : State} {x : SecDeal} (hs : Kept pq s) :
    Kept pq (State.scrubStaged s x) := by
  unfold State.scrubStaged
  try dsimp only
  with_reducible repeat' first
    | assumption | intro _ | apply Kept.ite | apply State.seq_kept | apply hs | simp -zeta only [↓kept_mk] | apply KeptMk.same

theorem State.secureEnd_kept {pq : List Instr} {s : State} {x : SecDeal} (hs : Kept pq s) :
    Kept pq (State.secureEnd s x) := by
  unfold State.secureEnd
  try dsimp only
  with_reducible repeat' first
    | assumption | intro _ | apply Kept.ite | apply State.record_kept | apply State.setSecure_kept | apply State.scrubStaged_kept

theorem State.nsReady_kept {pq : List Instr} {s : State} (hs : Kept pq s) :
    Kept pq (State.nsReady s) := by
  unfold State.nsReady
  try dsimp only
  with_reducible repeat' first
    | assumption | intro _ | apply Kept.ite | apply hs | simp -zeta only [↓kept_mk] | apply KeptMk.same

theorem State.secureDone_kept {pq : List Instr} {s : State} {x : SecDeal} (hs : Kept pq s) :
    Kept pq (State.secureDone s x) := by
  unfold State.secureDone
  try dsimp only
  with_reducible repeat' first
    | assumption | intro _ | apply Kept.ite | apply State.ioTry_kept | apply State.secureBegin_kept | apply State.nsReady_kept | apply hs
    | simp -zeta only [↓kept_mk] | apply KeptMk.same | apply KeptMk.setCon | apply KeptMk.setBst | apply KeptMk.setKpr | apply KeptMk.setRegs
    | apply KeptMk.setAll | apply ConsoleMk.same | apply ConsoleMk.setBuf | apply BootMk.same | apply KeeperMk.same | apply Kept.pending
    | apply Kept.regs | apply Kept.bst | apply Kept.kpr | apply Kept.con | exact Nat.zero_le _ | apply Kept.getD | exact nil_le | apply Kept.foldl_snd
    | apply Kept.foldl_fst | apply Kept.foldl | apply KeptO.none | apply KeptO.some | apply KeptO3.none | apply KeptO3.some | apply Kept.next | split

theorem State.secureDrop_kept {pq : List Instr} {s : State} {x : SecDeal} (hs : Kept pq s) :
    Kept pq (State.secureDrop s x) := by
  unfold State.secureDrop
  with_reducible repeat' first
    | assumption | intro _ | apply Kept.ite | apply State.record_kept | apply State.secureEnd_kept | apply State.secureDone_kept

theorem State.giveUp_kept {pq : List Instr} {s : State} {k : Nat} (hs : Kept pq s) :
    Kept pq (State.giveUp s k) := by
  unfold State.giveUp
  try dsimp only
  with_reducible repeat' first
    | assumption | intro _ | apply Kept.ite | apply State.raiseIf_kept | apply State.setBlk_kept | apply hs | simp -zeta only [↓kept_mk]
    | apply KeptMk.same

theorem State.secureWork_kept {pq : List Instr} {s0 : State} {x0 : SecDeal} (hs0 : Kept pq s0) :
    Kept pq (State.secureWork s0 x0) := by
  unfold State.secureWork
  try dsimp only
  with_reducible repeat' first
    | assumption | intro _ | apply Kept.ite | apply State.setBlk_kept | apply State.closeBlk_kept | apply State.refreshWant_kept
    | apply State.setSecure_kept | apply State.dissolve_kept | apply State.giveUp_kept | apply hs0 | simp -zeta only [↓kept_mk] | apply KeptMk.same
    | apply KeptMk.setCon | apply KeptMk.setBst | apply KeptMk.setKpr | apply KeptMk.setRegs | apply KeptMk.setAll | apply ConsoleMk.same
    | apply ConsoleMk.setBuf | apply BootMk.same | apply KeeperMk.same | apply Kept.pending | apply Kept.regs | apply Kept.bst | apply Kept.kpr
    | apply Kept.con | exact Nat.zero_le _ | apply Kept.getD | exact nil_le | apply Kept.foldl_snd | apply Kept.foldl_fst | apply Kept.foldl

theorem State.secureTick_kept {pq : List Instr} {s : State} (hs : Kept pq s) :
    Kept pq (State.secureTick s) := by
  unfold State.secureTick
  try dsimp only
  with_reducible repeat' first
    | assumption | intro _ | apply Kept.ite | apply State.secureRecord_kept | apply State.secureFind_kept | apply State.secureScan_kept
    | apply State.secureEnd_kept | apply State.secureDone_kept | apply State.secureWork_kept | apply hs
    | simp -zeta only [↓kept_mk, ↓console_mk, ↓console_mk', ↓boot_mk, ↓keeper_mk] | apply KeptMk.same | apply KeptMk.setCon | apply KeptMk.setBst
    | apply KeptMk.setKpr | apply KeptMk.setRegs | apply KeptMk.setAll | apply ConsoleMk.same | apply ConsoleMk.setBuf | apply BootMk.same
    | apply KeeperMk.same | apply Kept.pending | apply Kept.regs | apply Kept.bst | apply Kept.kpr | apply Kept.con | exact Nat.zero_le _
    | apply Kept.getD | exact nil_le | apply Kept.foldl_snd | apply Kept.foldl_fst | apply Kept.foldl | apply KeptO.none | apply KeptO.some
    | apply KeptO3.none | apply KeptO3.some | apply Kept.next | split

theorem State.secureTarget_kept {pq : List Instr} {s : State} {k : Nat} (hs : Kept pq s) :
    Kept pq (State.secureTarget s k) := by
  unfold State.secureTarget
  try dsimp only
  with_reducible repeat' first
    | assumption | intro _ | apply Kept.ite | apply State.setSecure_kept | apply hs
    | simp -zeta only [↓kept_mk, ↓console_mk, ↓console_mk', ↓boot_mk, ↓keeper_mk] | apply KeptMk.same | apply KeptMk.setCon | apply KeptMk.setBst
    | apply KeptMk.setKpr | apply KeptMk.setRegs | apply KeptMk.setAll | apply ConsoleMk.same | apply ConsoleMk.setBuf | apply BootMk.same
    | apply KeeperMk.same | apply Kept.pending | apply Kept.regs | apply Kept.bst | apply Kept.kpr | apply Kept.con | exact Nat.zero_le _
    | apply Kept.getD | exact nil_le | apply Kept.foldl_snd | apply Kept.foldl_fst | apply Kept.foldl | apply KeptO.none | apply KeptO.some
    | apply KeptO3.none | apply KeptO3.some | apply Kept.next | split

theorem State.sanitized_kept {pq : List Instr} {s : State} (hs : Kept pq s) :
    Kept pq (State.sanitized s) := by
  unfold State.sanitized
  try dsimp only
  with_reducible repeat' first
    | assumption | intro _ | apply Kept.ite | apply State.done_kept | apply hs | simp -zeta only [↓kept_mk] | apply KeptMk.same

theorem State.sanitizeEnd_kept {pq : List Instr} {s : State} (hs : Kept pq s) :
    Kept pq (State.sanitizeEnd s) := by
  unfold State.sanitizeEnd
  with_reducible repeat' first
    | assumption | intro _ | apply Kept.ite | apply State.sanitized_kept

theorem State.sanitizeErases_kept {pq : List Instr} {s : State} (hs : Kept pq s) :
    Kept pq (State.sanitizeErases s) := by
  unfold State.sanitizeErases
  try dsimp only
  with_reducible repeat' first
    | assumption | intro _ | apply Kept.ite | apply State.retireBlk_kept | apply State.queueErase_kept | apply State.heavy_kept | apply hs
    | simp -zeta only [↓kept_mk, ↓console_mk, ↓console_mk', ↓boot_mk, ↓keeper_mk] | apply KeptMk.same | apply KeptMk.setCon | apply KeptMk.setBst
    | apply KeptMk.setKpr | apply KeptMk.setRegs | apply KeptMk.setAll | apply ConsoleMk.same | apply ConsoleMk.setBuf | apply BootMk.same
    | apply KeeperMk.same | apply Kept.pending | apply Kept.regs | apply Kept.bst | apply Kept.kpr | apply Kept.con | exact Nat.zero_le _
    | apply Kept.getD | exact nil_le | apply Kept.foldl_snd | apply Kept.foldl_fst | apply Kept.foldl

theorem State.sanitizeOn_kept {pq : List Instr} {s : State} (hs : Kept pq s) :
    Kept pq (State.sanitizeOn s) := by
  unfold State.sanitizeOn
  with_reducible repeat' first
    | assumption | intro _ | apply Kept.ite | apply State.sanitizeEnd_kept | apply State.sanitizeErases_kept

theorem State.cacheAdmit_kept {pq : List Instr} {s : State} {h : Hdr} (hs : Kept pq s) :
    Kept pq (State.cacheAdmit s h) := by
  unfold State.cacheAdmit
  try dsimp only
  with_reducible repeat' first
    | assumption | intro _ | apply Kept.ite | apply BootStore.committed_kept | apply State.committed_kept | apply hs | simp -zeta only [↓kept_mk]
    | apply KeptMk.same | apply KeptMk.setCon | apply KeptMk.setBst | apply KeptMk.setKpr | apply KeptMk.setRegs | apply KeptMk.setAll
    | apply ConsoleMk.same | apply ConsoleMk.setBuf | apply BootMk.same | apply KeeperMk.same | apply Kept.pending | apply Kept.regs | apply Kept.bst
    | apply Kept.kpr | apply Kept.con | exact Nat.zero_le _ | apply Kept.getD | exact nil_le | apply Kept.foldl_snd | apply Kept.foldl_fst
    | apply Kept.foldl

theorem State.cacheTick_kept {pq : List Instr} {s : State} (hs : Kept pq s) :
    Kept pq (State.cacheTick s) := by
  unfold State.cacheTick
  with_reducible repeat' first
    | assumption | intro _ | apply Kept.ite | apply State.cacheAdmit_kept | apply hs
    | simp -zeta only [↓kept_mk, ↓console_mk, ↓console_mk', ↓boot_mk, ↓keeper_mk] | apply KeptMk.same | apply KeptMk.setCon | apply KeptMk.setBst
    | apply KeptMk.setKpr | apply KeptMk.setRegs | apply KeptMk.setAll | apply ConsoleMk.same | apply ConsoleMk.setBuf | apply BootMk.same
    | apply KeeperMk.same | apply Kept.pending | apply Kept.regs | apply Kept.bst | apply Kept.kpr | apply Kept.con | exact Nat.zero_le _
    | apply Kept.getD | exact nil_le | apply Kept.foldl_snd | apply Kept.foldl_fst | apply Kept.foldl

theorem State.settle_kept {pq : List Instr} {s : State} (hs : Kept pq s) :
    Kept pq (State.settle s) := by
  unfold State.settle
  try dsimp only
  with_reducible repeat' first
    | assumption | intro _ | apply Kept.ite | apply State.done_kept | apply State.ctx_kept | apply State.ioTry_kept | apply State.lockTry_kept
    | apply State.deallocRun_kept | apply State.secureTick_kept | apply State.sanitizeEnd_kept | apply State.cacheTick_kept
    | apply State.checkpoint_kept | apply hs | simp -zeta only [↓kept_mk] | apply KeptMk.same | apply KeptMk.setCon | apply KeptMk.setBst
    | apply KeptMk.setKpr | apply KeptMk.setRegs | apply KeptMk.setAll | apply ConsoleMk.same | apply ConsoleMk.setBuf | apply BootMk.same
    | apply KeeperMk.same | apply Kept.pending | apply Kept.regs | apply Kept.bst | apply Kept.kpr | apply Kept.con | exact Nat.zero_le _
    | apply Kept.getD | exact nil_le | apply Kept.foldl_snd | apply Kept.foldl_fst | apply Kept.foldl

end Sys2Proof.Machine
end

