-- ==== Sys2Proof/Laws/KeptSchedule.lean ====
section
/-! SUPPORT. The operations of Machine/Schedule.lean keep the queue of commands and the sound form of the state. -/

namespace Sys2Proof.Machine

theorem State.parityAway_kept {pq : List Instr} {s : State} {sg : StripeGroup} {k : Nat} {page : Nat} (hs : Kept pq s) :
    Kept pq (State.parityAway s sg k page) := by
  unfold State.parityAway
  try dsimp only
  with_reducible repeat' first
    | assumption | intro _ | apply Kept.ite | apply State.gal_kept | apply State.moreParity_kept | apply State.queueParity_kept
    | apply State.parity_kept | apply hs | simp -zeta only [↓kept_mk] | apply KeptMk.same | apply KeptMk.setCon | apply KeptMk.setBst
    | apply KeptMk.setKpr | apply KeptMk.setRegs | apply KeptMk.setAll | apply ConsoleMk.same | apply ConsoleMk.setBuf | apply BootMk.same
    | apply KeeperMk.same | apply Kept.pending | apply Kept.regs | apply Kept.bst | apply Kept.kpr | apply Kept.con | exact Nat.zero_le _
    | apply Kept.getD | exact nil_le | apply Kept.foldl_snd | apply Kept.foldl_fst | apply Kept.foldl | apply KeptO.none | apply KeptO.some
    | apply KeptO3.none | apply KeptO3.some | apply Kept.next | split

theorem State.parityGone_kept {pq : List Instr} {s : State} {sg : StripeGroup} {k : Nat} (hs : Kept pq s) :
    Kept pq (State.parityGone s sg k) := by
  unfold State.parityGone
  try dsimp only
  with_reducible repeat' first
    | assumption | intro _ | apply Kept.ite | apply State.setGroup_kept | apply State.parity_kept | apply State.parityAway_kept | apply hs
    | simp -zeta only [↓kept_mk, ↓console_mk, ↓console_mk', ↓boot_mk, ↓keeper_mk] | apply KeptMk.same | apply KeptMk.setCon | apply KeptMk.setBst
    | apply KeptMk.setKpr | apply KeptMk.setRegs | apply KeptMk.setAll | apply ConsoleMk.same | apply ConsoleMk.setBuf | apply BootMk.same
    | apply KeeperMk.same | apply Kept.pending | apply Kept.regs | apply Kept.bst | apply Kept.kpr | apply Kept.con | exact Nat.zero_le _
    | apply Kept.getD | exact nil_le | apply Kept.foldl_snd | apply Kept.foldl_fst | apply Kept.foldl | apply KeptO.none | apply KeptO.some
    | apply KeptO3.none | apply KeptO3.some | apply Kept.next | split

theorem State.programGone_kept {pq : List Instr} {s : State} {g : Fin 8} {o : GOp} (hs : Kept pq s) :
    Kept pq (State.programGone s g o) := by
  unfold State.programGone
  try dsimp only
  with_reducible repeat' first
    | assumption | intro _ | apply Kept.ite | apply State.moveProgram_kept | apply State.parityAway_kept | apply hs
    | simp -zeta only [↓kept_mk, ↓console_mk, ↓console_mk', ↓boot_mk, ↓keeper_mk] | apply KeptMk.same | apply KeptMk.setCon | apply KeptMk.setBst
    | apply KeptMk.setKpr | apply KeptMk.setRegs | apply KeptMk.setAll | apply ConsoleMk.same | apply ConsoleMk.setBuf | apply BootMk.same
    | apply KeeperMk.same | apply Kept.pending | apply Kept.regs | apply Kept.bst | apply Kept.kpr | apply Kept.con | exact Nat.zero_le _
    | apply Kept.getD | exact nil_le | apply Kept.foldl_snd | apply Kept.foldl_fst | apply Kept.foldl | apply KeptO.none | apply KeptO.some
    | apply KeptO3.none | apply KeptO3.some | apply Kept.next | split

theorem State.opGone_kept {pq : List Instr} {s : State} {g : Fin 8} {o : GOp} (hs : Kept pq s) :
    Kept pq (State.opGone s g o) := by
  unfold State.opGone
  try dsimp only
  with_reducible repeat' first
    | assumption | intro _ | apply Kept.ite | apply State.setBlk_kept | apply State.moveProgram_kept | apply State.parityGone_kept
    | apply State.programGone_kept | apply hs | simp -zeta only [↓kept_mk, ↓console_mk, ↓console_mk', ↓boot_mk, ↓keeper_mk] | apply KeptMk.same
    | apply KeptMk.setCon | apply KeptMk.setBst | apply KeptMk.setKpr | apply KeptMk.setRegs | apply KeptMk.setAll | apply ConsoleMk.same
    | apply ConsoleMk.setBuf | apply BootMk.same | apply KeeperMk.same | apply Kept.pending | apply Kept.regs | apply Kept.bst | apply Kept.kpr
    | apply Kept.con | exact Nat.zero_le _ | apply Kept.getD | exact nil_le | apply Kept.foldl_snd | apply Kept.foldl_fst | apply Kept.foldl
    | apply KeptO.none | apply KeptO.some | apply KeptO3.none | apply KeptO3.some | apply Kept.next | split

theorem State.readGone_kept {pq : List Instr} {s : State} {g : Fin 8} {o : GOp} (hs : Kept pq s) :
    Kept pq (State.readGone s g o) := by
  unfold State.readGone
  try dsimp only
  with_reducible repeat' first
    | assumption | intro _ | apply Kept.ite | apply State.dropOp_kept | apply State.endRead_kept | apply State.toRebuild_kept | apply hs
    | simp -zeta only [↓kept_mk, ↓console_mk, ↓console_mk', ↓boot_mk, ↓keeper_mk] | apply KeptMk.same | apply KeptMk.setCon | apply KeptMk.setBst
    | apply KeptMk.setKpr | apply KeptMk.setRegs | apply KeptMk.setAll | apply ConsoleMk.same | apply ConsoleMk.setBuf | apply BootMk.same
    | apply KeeperMk.same | apply Kept.pending | apply Kept.regs | apply Kept.bst | apply Kept.kpr | apply Kept.con | exact Nat.zero_le _
    | apply Kept.getD | exact nil_le | apply Kept.foldl_snd | apply Kept.foldl_fst | apply Kept.foldl | apply KeptO.none | apply KeptO.some
    | apply KeptO3.none | apply KeptO3.some | apply Kept.next | split

theorem State.refuseOp_kept {pq : List Instr} {s : State} {g : Fin 8} {o : GOp} {out : Outc} (hs : Kept pq s) :
    Kept pq (State.refuseOp s g o out) := by
  unfold State.refuseOp
  try dsimp only
  with_reducible repeat' first
    | assumption | intro _ | apply Kept.ite | apply State.gal_kept | apply State.dropOp_kept | apply State.opGone_kept

theorem execSchedulerDispatch_kept {pq : List Instr} {g : Fin 8} {s : State} (hs : Kept pq s) :
    KeptOut pq (execSchedulerDispatch g s) := by
  unfold execSchedulerDispatch
  try dsimp only
  apply Kept.next
  with_reducible repeat' first
    | assumption | intro _ | apply Kept.ite | apply State.gal_kept | apply State.raise_kept | apply State.order_kept | apply BootStore.next_kept
    | apply State.moveProgram_kept | apply State.joinPlanes_kept | apply State.joinPlanes_kept_of (by assumption) | apply State.startOp_kept
    | apply State.readGone_kept | apply State.refuseOp_kept | apply Run.read_kept | apply hs
    | simp -zeta only [↓kept_mk, ↓console_mk, ↓console_mk', ↓boot_mk, ↓keeper_mk] | apply KeptMk.same | apply KeptMk.setCon | apply KeptMk.setBst
    | apply KeptMk.setKpr | apply KeptMk.setRegs | apply KeptMk.setAll | apply ConsoleMk.same | apply ConsoleMk.setBuf | apply BootMk.same
    | apply KeeperMk.same | apply Kept.pending | apply Kept.regs | apply Kept.bst | apply Kept.kpr | apply Kept.con | exact Nat.zero_le _
    | apply Kept.getD | exact nil_le | apply Kept.foldl_snd | apply Kept.foldl_fst | apply Kept.foldl | apply KeptO.none | apply KeptO.some
    | apply KeptO3.none | apply KeptO3.some | apply Kept.next | split

theorem State.countTimeout_kept {pq : List Instr} {s : State} {g : Fin 8} {k : OpKind} (hs : Kept pq s) :
    Kept pq (State.countTimeout s g k) := by
  unfold State.countTimeout
  try dsimp only
  with_reducible repeat' first
    | assumption | intro _ | apply Kept.ite | apply State.bump_kept | apply State.gal_kept | apply Run.read_kept | apply hs
    | simp -zeta only [↓kept_mk, ↓console_mk, ↓console_mk', ↓boot_mk, ↓keeper_mk] | apply KeptMk.same | apply KeptMk.setCon | apply KeptMk.setBst
    | apply KeptMk.setKpr | apply KeptMk.setRegs | apply KeptMk.setAll | apply ConsoleMk.same | apply ConsoleMk.setBuf | apply BootMk.same
    | apply KeeperMk.same | apply Kept.pending | apply Kept.regs | apply Kept.bst | apply Kept.kpr | apply Kept.con | exact Nat.zero_le _
    | apply Kept.getD | exact nil_le | apply Kept.foldl_snd | apply Kept.foldl_fst | apply Kept.foldl | apply KeptO.none | apply KeptO.some
    | apply KeptO3.none | apply KeptO3.some | apply Kept.next | split

theorem State.shiftBlock_kept {pq : List Instr} {s : State} {k : Nat} {from_ : Nat} {n : Nat} (hs : Kept pq s) :
    Kept pq (State.shiftBlock s k from_ n) := by
  unfold State.shiftBlock
  try dsimp only
  with_reducible repeat' first
    | assumption | intro _ | apply Kept.ite | apply State.gal_kept | apply State.setBlk_kept | apply BootStore.next_kept | apply State.setGroup_kept
    | apply State.replace_kept | apply State.encoded_kept | apply hs | simp -zeta only [↓kept_mk] | apply KeptMk.same | apply KeptMk.setCon
    | apply KeptMk.setBst | apply KeptMk.setKpr | apply KeptMk.setRegs | apply KeptMk.setAll | apply ConsoleMk.same | apply ConsoleMk.setBuf
    | apply BootMk.same | apply KeeperMk.same | apply Kept.pending | apply Kept.regs | apply Kept.bst | apply Kept.kpr | apply Kept.con
    | exact Nat.zero_le _ | apply Kept.getD | exact nil_le | apply Kept.foldl_snd | apply Kept.foldl_fst | apply Kept.foldl | apply KeptO.none
    | apply KeptO.some | apply KeptO3.none | apply KeptO3.some | apply Kept.next | split

theorem State.reprogramBlk_kept {pq : List Instr} {s : State} {g : Fin 8} {o : GOp} {k : Nat} (hs : Kept pq s) :
    Kept pq (State.reprogramBlk s g o k) := by
  unfold State.reprogramBlk
  try dsimp only
  with_reducible repeat' first
    | assumption | intro _ | apply Kept.ite | apply State.gal_kept | apply State.setBlk_kept | apply State.closeBlk_kept
    | apply State.refreshWant_kept | apply State.positionOk_kept | apply State.moveProgram_kept | apply State.dropOp_kept
    | apply State.shiftBlock_kept | apply hs | simp -zeta only [↓kept_mk, ↓console_mk, ↓console_mk', ↓boot_mk, ↓keeper_mk] | apply KeptMk.same
    | apply KeptMk.setCon | apply KeptMk.setBst | apply KeptMk.setKpr | apply KeptMk.setRegs | apply KeptMk.setAll | apply ConsoleMk.same
    | apply ConsoleMk.setBuf | apply BootMk.same | apply KeeperMk.same | apply Kept.pending | apply Kept.regs | apply Kept.bst | apply Kept.kpr
    | apply Kept.con | exact Nat.zero_le _ | apply Kept.getD | exact nil_le | apply Kept.foldl_snd | apply Kept.foldl_fst | apply Kept.foldl

theorem State.reprogramParity_kept {pq : List Instr} {s : State} {g : Fin 8} {o : GOp} {sg : StripeGroup} {k : Nat} (hs : Kept pq s) :
    Kept pq (State.reprogramParity s g o sg k) := by
  unfold State.reprogramParity
  try dsimp only
  with_reducible repeat' first
    | assumption | intro _ | apply Kept.ite | apply State.gal_kept | apply State.setBlk_kept | apply BootStore.next_kept | apply State.closeBlk_kept
    | apply State.refreshWant_kept | apply State.dropOp_kept | apply State.parityAway_kept

theorem State.reprogram_kept {pq : List Instr} {s : State} {g : Fin 8} {o : GOp} (hs : Kept pq s) :
    Kept pq (State.reprogram s g o) := by
  unfold State.reprogram
  try dsimp only
  with_reducible repeat' first
    | assumption | intro _ | apply Kept.ite | apply State.interruptOps_kept | apply State.reprogramBlk_kept | apply State.reprogramParity_kept
    | apply hs | simp -zeta only [↓kept_mk, ↓console_mk, ↓console_mk', ↓boot_mk, ↓keeper_mk] | apply KeptMk.same | apply KeptMk.setCon
    | apply KeptMk.setBst | apply KeptMk.setKpr | apply KeptMk.setRegs | apply KeptMk.setAll | apply ConsoleMk.same | apply ConsoleMk.setBuf
    | apply BootMk.same | apply KeeperMk.same | apply Kept.pending | apply Kept.regs | apply Kept.bst | apply Kept.kpr | apply Kept.con
    | exact Nat.zero_le _ | apply Kept.getD | exact nil_le | apply Kept.foldl_snd | apply Kept.foldl_fst | apply Kept.foldl | apply KeptO.none
    | apply KeptO.some | apply KeptO3.none | apply KeptO3.some | apply Kept.next | split

theorem State.raiseRunTimeout_kept {pq : List Instr} {s : State} {g : Fin 8} (hs : Kept pq s) :
    Kept pq (State.raiseRunTimeout s g) := by
  unfold State.raiseRunTimeout
  try dsimp only
  with_reducible repeat' first
    | assumption | intro _ | apply Kept.ite | apply State.finishJob_kept

theorem State.makeSuspect_kept {pq : List Instr} {s : State} {g : Fin 8} {c : Fin 16} (hs : Kept pq s) :
    Kept pq (State.makeSuspect s g c) := by
  unfold State.makeSuspect
  with_reducible repeat' first
    | assumption | intro _ | apply Kept.ite | apply State.setReg_kept

theorem State.listTimeout_kept {pq : List Instr} {s : State} {g : Fin 8} {n : Nat} (hs : Kept pq s) :
    Kept pq (State.listTimeout s g n) := by
  unfold State.listTimeout
  try dsimp only
  with_reducible repeat' first
    | assumption | intro _ | apply Kept.ite | apply State.gal_kept | apply State.yieldBus_kept

theorem State.recoverLun_kept {pq : List Instr} {s : State} {g : Fin 8} {c : Fin 16} {statusOk : Bool} (hs : Kept pq s) :
    Kept pq (State.recoverLun s g c statusOk).2 := by
  unfold State.recoverLun
  with_reducible repeat' first
    | assumption | intro _ | apply Kept.ite | apply State.bump_kept | apply State.raise_kept | apply State.resetLun_kept

theorem State.recoverLun_kept_of {pq : List Instr} {s : State} {g : Fin 8} {c : Fin 16} {statusOk : Bool} {r0 : Bool} {r1 : State} (e : (State.recoverLun s g c statusOk) = (r0, r1)) (hs : Kept pq s) :
    Kept pq r1 := by
  have := State.recoverLun_kept (pq := pq) (s := s) (g := g) (c := c) (statusOk := statusOk) hs
  rw [e] at this
  exact this

theorem State.opTimeout_kept {pq : List Instr} {s : State} {g : Fin 8} {o : GOp} {statusOk : Bool} (hs : Kept pq s) :
    Kept pq (State.opTimeout s g o statusOk) := by
  unfold State.opTimeout
  try dsimp only
  with_reducible repeat' first
    | assumption | intro _ | apply Kept.ite | apply State.raise_kept | apply State.interruptOps_kept | apply State.good_kept | apply State.ctx_kept
    | apply State.dropOp_kept | apply State.setOp_kept | apply State.opGone_kept | apply State.readGone_kept | apply State.countTimeout_kept
    | apply State.reprogram_kept | apply State.raiseRunTimeout_kept | apply State.makeSuspect_kept | apply State.listTimeout_kept
    | apply State.recoverLun_kept

theorem execChamberOpTimeout_kept {pq : List Instr} {g : Fin 8} {id : Nat} {statusOk : Bool} {s : State} (hs : Kept pq s) :
    KeptOut pq (execChamberOpTimeout g id statusOk s) := by
  unfold execChamberOpTimeout
  try dsimp only
  apply Kept.next
  with_reducible repeat' first
    | assumption | intro _ | apply Kept.ite | apply BootStore.next_kept | apply Console.reset_kept | apply State.ctx_kept | apply State.dropOp_kept
    | apply State.toPoll_kept | apply State.raiseRunTimeout_kept | apply State.listTimeout_kept | apply State.opTimeout_kept | apply hs
    | simp -zeta only [↓kept_mk, ↓console_mk, ↓console_mk', ↓boot_mk, ↓keeper_mk] | apply KeptMk.same | apply KeptMk.setCon | apply KeptMk.setBst
    | apply KeptMk.setKpr | apply KeptMk.setRegs | apply KeptMk.setAll | apply ConsoleMk.same | apply ConsoleMk.setBuf | apply BootMk.same
    | apply KeeperMk.same | apply Kept.pending | apply Kept.regs | apply Kept.bst | apply Kept.kpr | apply Kept.con | exact Nat.zero_le _
    | apply Kept.getD | exact nil_le | apply Kept.foldl_snd | apply Kept.foldl_fst | apply Kept.foldl | apply KeptO.none | apply KeptO.some
    | apply KeptO3.none | apply KeptO3.some | apply Kept.next | split

theorem State.quiesceGal_kept {pq : List Instr} {s : State} {g : Fin 8} (hs : Kept pq s) :
    Kept pq (State.quiesceGal s g) := by
  unfold State.quiesceGal
  try dsimp only
  with_reducible repeat' first
    | assumption | intro _ | apply Kept.ite | apply State.gal_kept | apply State.driveWp_kept

theorem State.wedgeReset_kept {pq : List Instr} {s : State} {g : Fin 8} (hs : Kept pq s) :
    Kept pq (State.wedgeReset s g) := by
  unfold State.wedgeReset
  try dsimp only
  with_reducible repeat' first
    | assumption | intro _ | apply Kept.ite | apply State.setRf_kept | apply State.gal_kept | apply Console.reset_kept | apply State.unitRegs_kept
    | apply State.galSetup_kept

theorem State.wedgeTrain_kept {pq : List Instr} {s : State} {g : Fin 8} {r : WedgeRun} (hs : Kept pq s) :
    Kept pq (State.wedgeTrain s g r) := by
  unfold State.wedgeTrain
  try dsimp only
  with_reducible repeat' first
    | assumption | intro _ | apply Kept.ite | apply State.bump_kept | apply State.gal_kept | apply State.raiseIf_kept | apply State.stat_kept
    | apply State.targetOut_kept | apply State.calibrate_kept | apply State.trainAll_kept | apply State.trainAll_kept_of (by assumption)
    | apply State.trainStat_kept | apply hs | simp -zeta only [↓kept_mk, ↓console_mk, ↓console_mk', ↓boot_mk, ↓keeper_mk] | apply KeptMk.same
    | apply KeptMk.setCon | apply KeptMk.setBst | apply KeptMk.setKpr | apply KeptMk.setRegs | apply KeptMk.setAll | apply ConsoleMk.same
    | apply ConsoleMk.setBuf | apply BootMk.same | apply KeeperMk.same | apply Kept.pending | apply Kept.regs | apply Kept.bst | apply Kept.kpr
    | apply Kept.con | exact Nat.zero_le _ | apply Kept.getD | exact nil_le | apply Kept.foldl_snd | apply Kept.foldl_fst | apply Kept.foldl

theorem execSequencerWatchdog_kept {pq : List Instr} {r : WedgeRun} {s : State} (hs : Kept pq s) :
    KeptOut pq (execSequencerWatchdog r s) := by
  unfold execSequencerWatchdog
  try dsimp only
  apply Kept.next
  with_reducible repeat' first
    | assumption | intro _ | apply Kept.ite | apply State.gal_kept | apply State.raise_kept | apply BootStore.next_kept | apply State.finishJob_kept
    | apply State.interruptOps_kept | apply State.recordSelf_kept | apply State.good_kept | apply State.reloadWpt_kept | apply State.driveWp_kept
    | apply State.reprogram_kept | apply State.makeSuspect_kept | apply State.recoverLun_kept | apply State.recoverLun_kept_of (by assumption)
    | apply State.quiesceGal_kept | apply State.wedgeReset_kept | apply State.wedgeTrain_kept | apply Run.write_kept | apply hs
    | simp -zeta only [↓kept_mk, ↓console_mk, ↓console_mk', ↓boot_mk, ↓keeper_mk] | apply KeptMk.same | apply KeptMk.setCon | apply KeptMk.setBst
    | apply KeptMk.setKpr | apply KeptMk.setRegs | apply KeptMk.setAll | apply ConsoleMk.same | apply ConsoleMk.setBuf | apply BootMk.same
    | apply KeeperMk.same | apply Kept.pending | apply Kept.regs | apply Kept.bst | apply Kept.kpr | apply Kept.con | exact Nat.zero_le _
    | apply Kept.getD | exact nil_le | apply Kept.foldl_snd | apply Kept.foldl_fst | apply Kept.foldl

end Sys2Proof.Machine
end

