-- ==== Sys2Proof/Laws/KeptMapEngine.lean ====
section
/-! SUPPORT. The operations of Machine/MapEngine.lean keep the queue of commands and the sound form of the state. -/

namespace Sys2Proof.Machine

theorem State.placeAgain_kept {pq : List Instr} {s : State} {a : Alloc} {n : Nat} (hs : Kept pq s) :
    Kept pq (State.placeAgain s a n) := by
  unfold State.placeAgain
  try dsimp only
  with_reducible repeat' first
    | assumption | intro _ | apply Kept.ite | apply State.pushEnc_kept | apply State.allocIn_kept | apply State.allocIn_kept_of (by assumption)
    | apply State.setAlloc_kept | apply State.encoded_kept | apply hs | simp -zeta only [↓kept_mk, ↓console_mk, ↓console_mk', ↓boot_mk, ↓keeper_mk]
    | apply KeptMk.same | apply KeptMk.setCon | apply KeptMk.setBst | apply KeptMk.setKpr | apply KeptMk.setRegs | apply KeptMk.setAll
    | apply ConsoleMk.same | apply ConsoleMk.setBuf | apply BootMk.same | apply KeeperMk.same | apply Kept.pending | apply Kept.regs | apply Kept.bst
    | apply Kept.kpr | apply Kept.con | exact Nat.zero_le _ | apply Kept.getD | exact nil_le | apply Kept.foldl_snd | apply Kept.foldl_fst
    | apply Kept.foldl | apply KeptO.none | apply KeptO.some | apply KeptO3.none | apply KeptO3.some | apply Kept.next | split

theorem State.allocStaged_kept {pq : List Instr} {s : State} {x : Staged} {n : Nat} (hs : Kept pq s) :
    Kept pq (State.allocStaged s x n) := by
  unfold State.allocStaged
  try dsimp only
  with_reducible repeat' first
    | assumption | intro _ | apply Kept.ite | apply State.newId_kept | apply State.newId_kept_of (by assumption) | apply State.newSeq_kept
    | apply State.newSeq_kept_of (by assumption) | apply State.pushEnc_kept | apply State.allocIn_kept | apply State.allocIn_kept_of (by assumption)
    | apply State.seq_kept | apply State.encoded_kept | apply hs | simp -zeta only [↓kept_mk] | apply KeptMk.same | apply KeptMk.setCon
    | apply KeptMk.setBst | apply KeptMk.setKpr | apply KeptMk.setRegs | apply KeptMk.setAll | apply ConsoleMk.same | apply ConsoleMk.setBuf
    | apply BootMk.same | apply KeeperMk.same | apply Kept.pending | apply Kept.regs | apply Kept.bst | apply Kept.kpr | apply Kept.con
    | exact Nat.zero_le _ | apply Kept.getD | exact nil_le | apply Kept.foldl_snd | apply Kept.foldl_fst | apply Kept.foldl | apply KeptO.none
    | apply KeptO.some | apply KeptO3.none | apply KeptO3.some | apply Kept.next | split

theorem execSumpAllocation_kept {pq : List Instr} {s : State} (hs : Kept pq s) :
    KeptOut pq (execSumpAllocation s) := by
  unfold execSumpAllocation
  try dsimp only
  apply Kept.next
  with_reducible repeat' first
    | assumption | intro _ | apply Kept.ite | apply BootStore.next_kept | apply State.placeAgain_kept | apply State.allocStaged_kept | apply hs
    | simp -zeta only [↓kept_mk, ↓console_mk, ↓console_mk', ↓boot_mk, ↓keeper_mk] | apply KeptMk.same | apply KeptMk.setCon | apply KeptMk.setBst
    | apply KeptMk.setKpr | apply KeptMk.setRegs | apply KeptMk.setAll | apply ConsoleMk.same | apply ConsoleMk.setBuf | apply BootMk.same
    | apply KeeperMk.same | apply Kept.pending | apply Kept.regs | apply Kept.bst | apply Kept.kpr | apply Kept.con | exact Nat.zero_le _
    | apply Kept.getD | exact nil_le | apply Kept.foldl_snd | apply Kept.foldl_fst | apply Kept.foldl | apply KeptO.none | apply KeptO.some
    | apply KeptO3.none | apply KeptO3.some | apply Kept.next | split

theorem execSumpPageRelease_kept {pq : List Instr} {waited : Bool} {s : State} (hs : Kept pq s) :
    KeptOut pq (execSumpPageRelease waited s) := by
  unfold execSumpPageRelease
  try dsimp only
  apply Kept.next
  with_reducible repeat' first
    | assumption | intro _ | apply Kept.ite | apply BootStore.next_kept | apply State.releaseFill_kept | apply State.encoded_kept | apply hs
    | simp -zeta only [↓kept_mk, ↓console_mk, ↓console_mk', ↓boot_mk, ↓keeper_mk] | apply KeptMk.same | apply KeptMk.setCon | apply KeptMk.setBst
    | apply KeptMk.setKpr | apply KeptMk.setRegs | apply KeptMk.setAll | apply ConsoleMk.same | apply ConsoleMk.setBuf | apply BootMk.same
    | apply KeeperMk.same | apply Kept.pending | apply Kept.regs | apply Kept.bst | apply Kept.kpr | apply Kept.con | exact Nat.zero_le _
    | apply Kept.getD | exact nil_le | apply Kept.foldl_snd | apply Kept.foldl_fst | apply Kept.foldl | apply KeptO.none | apply KeptO.some
    | apply KeptO3.none | apply KeptO3.some | apply Kept.next | split

theorem execStripeGroupOpen_kept {pq : List Instr} {flow : Flow} {s : State} (hs : Kept pq s) :
    KeptOut pq (execStripeGroupOpen flow s) := by
  unfold execStripeGroupOpen
  try dsimp only
  apply Kept.next
  with_reducible repeat' first
    | assumption | intro _ | apply Kept.ite | apply BootStore.next_kept | apply State.openGroup_kept | apply State.openGroup_kept_of (by assumption)
    | apply hs | simp -zeta only [↓kept_mk] | apply KeptMk.same | apply KeptMk.setCon | apply KeptMk.setBst | apply KeptMk.setKpr
    | apply KeptMk.setRegs | apply KeptMk.setAll | apply ConsoleMk.same | apply ConsoleMk.setBuf | apply BootMk.same | apply KeeperMk.same
    | apply Kept.pending | apply Kept.regs | apply Kept.bst | apply Kept.kpr | apply Kept.con | exact Nat.zero_le _ | apply Kept.getD

theorem State.pendDrop_kept {pq : List Instr} {s : State} {d : Nat} (hs : Kept pq s) :
    Kept pq (State.pendDrop s d) := by
  unfold State.pendDrop
  try dsimp only
  with_reducible repeat' first
    | assumption | intro _ | apply Kept.ite | apply hs | simp -zeta only [↓kept_mk] | apply KeptMk.same

theorem State.commitOne_kept {pq : List Instr} {s : State} {a : Alloc} (hs : Kept pq s) :
    Kept pq (State.commitOne s a) := by
  unfold State.commitOne
  try dsimp only
  with_reducible repeat' first
    | assumption | intro _ | apply Kept.ite | apply State.bumpWrap_kept | apply State.remap_kept | apply State.seq_kept | apply State.pendNote_kept
    | apply State.pendDrop_kept | apply hs | simp -zeta only [↓kept_mk] | apply KeptMk.same

theorem execCommit_kept {pq : List Instr} {id : Nat} {s : State} (hs : Kept pq s) :
    KeptOut pq (execCommit id s) := by
  unfold execCommit
  try dsimp only
  apply Kept.next
  with_reducible repeat' first
    | assumption | intro _ | apply Kept.ite | apply BootStore.next_kept | apply BootStore.committed_kept | apply State.committed_kept
    | apply State.settle_kept | apply State.commitOne_kept | apply hs | simp -zeta only [↓kept_mk, ↓console_mk, ↓console_mk', ↓boot_mk, ↓keeper_mk]
    | apply KeptMk.same | apply KeptMk.setCon | apply KeptMk.setBst | apply KeptMk.setKpr | apply KeptMk.setRegs | apply KeptMk.setAll
    | apply ConsoleMk.same | apply ConsoleMk.setBuf | apply BootMk.same | apply KeeperMk.same | apply Kept.pending | apply Kept.regs | apply Kept.bst
    | apply Kept.kpr | apply Kept.con | exact Nat.zero_le _ | apply Kept.getD | exact nil_le | apply Kept.foldl_snd | apply Kept.foldl_fst
    | apply Kept.foldl | apply KeptO.none | apply KeptO.some | apply KeptO3.none | apply KeptO3.some | apply Kept.next | split

theorem State.startReloc_kept {pq : List Instr} {s : State} {n : Nat} {flow : Flow} {cause : Nat} {x : Nat × Loc} (hs : Kept pq s) :
    Kept pq (State.startReloc s n flow cause x) := by
  unfold State.startReloc
  try dsimp only
  with_reducible repeat' first
    | assumption | intro _ | apply Kept.ite | apply State.cause_kept | apply State.newId_kept | apply State.newId_kept_of (by assumption)
    | apply State.allocIn_kept | apply State.allocIn_kept_of (by assumption) | apply State.startRead_kept
    | apply State.startRead_kept_of (by assumption) | apply hs | simp -zeta only [↓kept_mk] | apply KeptMk.same | apply KeptMk.setCon
    | apply KeptMk.setBst | apply KeptMk.setKpr | apply KeptMk.setRegs | apply KeptMk.setAll | apply ConsoleMk.same | apply ConsoleMk.setBuf
    | apply BootMk.same | apply KeeperMk.same | apply Kept.pending | apply Kept.regs | apply Kept.bst | apply Kept.kpr | apply Kept.con
    | exact Nat.zero_le _ | apply Kept.getD | exact nil_le | apply Kept.foldl_snd | apply Kept.foldl_fst | apply Kept.foldl | apply KeptO.none
    | apply KeptO.some | apply KeptO3.none | apply KeptO3.some | apply Kept.next | split

theorem State.retryDrop_kept {pq : List Instr} {s : State} {d : Nat} (hs : Kept pq s) :
    Kept pq (State.retryDrop s d) := by
  unfold State.retryDrop
  try dsimp only
  with_reducible repeat' first
    | assumption | intro _ | apply Kept.ite | apply hs | simp -zeta only [↓kept_mk] | apply KeptMk.same

theorem State.copyBlock_kept {pq : List Instr} {s : State} {k : Nat} {flow : Flow} {cause : Nat} {skipSecure : Bool} (hs : Kept pq s) :
    Kept pq (State.copyBlock s k flow cause skipSecure) := by
  unfold State.copyBlock
  try dsimp only
  with_reducible repeat' first
    | assumption | intro _ | apply Kept.ite | apply State.cause_kept | apply State.releaseFill_kept | apply State.startReloc_kept | apply hs
    | simp -zeta only [↓kept_mk, ↓console_mk, ↓console_mk', ↓boot_mk, ↓keeper_mk] | apply KeptMk.same | apply KeptMk.setCon | apply KeptMk.setBst
    | apply KeptMk.setKpr | apply KeptMk.setRegs | apply KeptMk.setAll | apply ConsoleMk.same | apply ConsoleMk.setBuf | apply BootMk.same
    | apply KeeperMk.same | apply Kept.pending | apply Kept.regs | apply Kept.bst | apply Kept.kpr | apply Kept.con | exact Nat.zero_le _
    | apply Kept.getD | exact nil_le | apply Kept.foldl_snd | apply Kept.foldl_fst | apply Kept.foldl | apply KeptO.none | apply KeptO.some
    | apply KeptO3.none | apply KeptO3.some | apply Kept.next | split

theorem execFold_kept {pq : List Instr} {blk : Nat} {s : State} (hs : Kept pq s) :
    KeptOut pq (execFold blk s) := by
  unfold execFold
  try dsimp only
  apply Kept.next
  with_reducible repeat' first
    | assumption | intro _ | apply Kept.ite | apply BootStore.next_kept | apply State.copyBlock_kept

theorem State.moveMapPage_kept {pq : List Instr} {s : State} {page : Nat} {l : Loc} (hs : Kept pq s) :
    Kept pq (State.moveMapPage s page l) := by
  unfold State.moveMapPage
  with_reducible repeat' first
    | assumption | intro _ | apply Kept.ite | apply State.touch_kept | apply State.startRead_kept

theorem State.moveMapPages_kept {pq : List Instr} {s : State} {k : Nat} (hs : Kept pq s) :
    Kept pq (State.moveMapPages s k) := by
  unfold State.moveMapPages
  with_reducible repeat' first
    | assumption | intro _ | apply Kept.ite | apply State.moveMapPage_kept | apply hs
    | simp -zeta only [↓kept_mk, ↓console_mk, ↓console_mk', ↓boot_mk, ↓keeper_mk] | apply KeptMk.same | apply KeptMk.setCon | apply KeptMk.setBst
    | apply KeptMk.setKpr | apply KeptMk.setRegs | apply KeptMk.setAll | apply ConsoleMk.same | apply ConsoleMk.setBuf | apply BootMk.same
    | apply KeeperMk.same | apply Kept.pending | apply Kept.regs | apply Kept.bst | apply Kept.kpr | apply Kept.con | exact Nat.zero_le _
    | apply Kept.getD | exact nil_le | apply Kept.foldl_snd | apply Kept.foldl_fst | apply Kept.foldl | apply KeptO.none | apply KeptO.some
    | apply KeptO3.none | apply KeptO3.some | apply Kept.next | split

theorem State.collectMap_kept {pq : List Instr} {s : State} {k : Nat} (hs : Kept pq s) :
    Kept pq (State.collectMap s k) := by
  unfold State.collectMap
  try dsimp only
  with_reducible repeat' first
    | assumption | intro _ | apply Kept.ite | apply State.moveMapPages_kept | apply hs | simp -zeta only [↓kept_mk] | apply KeptMk.same
    | apply KeptMk.setCon | apply KeptMk.setBst | apply KeptMk.setKpr | apply KeptMk.setRegs | apply KeptMk.setAll | apply ConsoleMk.same
    | apply ConsoleMk.setBuf | apply BootMk.same | apply KeeperMk.same | apply Kept.pending | apply Kept.regs | apply Kept.bst | apply Kept.kpr
    | apply Kept.con | exact Nat.zero_le _ | apply Kept.getD | exact nil_le | apply Kept.foldl_snd | apply Kept.foldl_fst | apply Kept.foldl

theorem execGarbageCollection_kept {pq : List Instr} {s : State} (hs : Kept pq s) :
    KeptOut pq (execGarbageCollection s) := by
  unfold execGarbageCollection
  try dsimp only
  apply Kept.next
  with_reducible repeat' first
    | assumption | intro _ | apply Kept.ite | apply BootStore.next_kept | apply State.copyBlock_kept | apply State.collectMap_kept | apply hs
    | simp -zeta only [↓kept_mk, ↓console_mk, ↓console_mk', ↓boot_mk, ↓keeper_mk] | apply KeptMk.same | apply KeptMk.setCon | apply KeptMk.setBst
    | apply KeptMk.setKpr | apply KeptMk.setRegs | apply KeptMk.setAll | apply ConsoleMk.same | apply ConsoleMk.setBuf | apply BootMk.same
    | apply KeeperMk.same | apply Kept.pending | apply Kept.regs | apply Kept.bst | apply Kept.kpr | apply Kept.con | exact Nat.zero_le _
    | apply Kept.getD | exact nil_le | apply Kept.foldl_snd | apply Kept.foldl_fst | apply Kept.foldl | apply KeptO.none | apply KeptO.some
    | apply KeptO3.none | apply KeptO3.some | apply Kept.next | split

theorem execWearLevelling_kept {pq : List Instr} {s : State} (hs : Kept pq s) :
    KeptOut pq (execWearLevelling s) := by
  unfold execWearLevelling
  try dsimp only
  apply Kept.next
  with_reducible repeat' first
    | assumption | intro _ | apply Kept.ite | apply BootStore.next_kept | apply State.copyBlock_kept | apply hs
    | simp -zeta only [↓kept_mk, ↓console_mk, ↓console_mk', ↓boot_mk, ↓keeper_mk] | apply KeptMk.same | apply KeptMk.setCon | apply KeptMk.setBst
    | apply KeptMk.setKpr | apply KeptMk.setRegs | apply KeptMk.setAll | apply ConsoleMk.same | apply ConsoleMk.setBuf | apply BootMk.same
    | apply KeeperMk.same | apply Kept.pending | apply Kept.regs | apply Kept.bst | apply Kept.kpr | apply Kept.con | exact Nat.zero_le _
    | apply Kept.getD | exact nil_le | apply Kept.foldl_snd | apply Kept.foldl_fst | apply Kept.foldl | apply KeptO.none | apply KeptO.some
    | apply KeptO3.none | apply KeptO3.some | apply Kept.next | split

theorem State.refreshStat_kept {pq : List Instr} {s : State} {x1 : Nat} (hs : Kept pq s) :
    Kept pq (State.refreshStat s x1) := by
  unfold State.refreshStat
  with_reducible repeat' first
    | assumption | intro _ | apply Kept.ite | apply State.stat_kept | apply hs
    | simp -zeta only [↓kept_mk, ↓console_mk, ↓console_mk', ↓boot_mk, ↓keeper_mk] | apply KeptMk.same | apply KeptMk.setCon | apply KeptMk.setBst
    | apply KeptMk.setKpr | apply KeptMk.setRegs | apply KeptMk.setAll | apply ConsoleMk.same | apply ConsoleMk.setBuf | apply BootMk.same
    | apply KeeperMk.same | apply Kept.pending | apply Kept.regs | apply Kept.bst | apply Kept.kpr | apply Kept.con | exact Nat.zero_le _
    | apply Kept.getD | exact nil_le | apply Kept.foldl_snd | apply Kept.foldl_fst | apply Kept.foldl | apply KeptO.none | apply KeptO.some
    | apply KeptO3.none | apply KeptO3.some | apply Kept.next | split

theorem execRefresh_kept {pq : List Instr} {s : State} (hs : Kept pq s) :
    KeptOut pq (execRefresh s) := by
  unfold execRefresh
  try dsimp only
  apply Kept.next
  with_reducible repeat' first
    | assumption | intro _ | apply Kept.ite | apply State.cause_kept | apply BootStore.next_kept | apply State.refreshDone_kept
    | apply State.retireTry_kept | apply State.openGroup_kept | apply State.openGroup_kept_of (by assumption) | apply State.ctxFail_kept
    | apply State.secureDrop_kept | apply State.copyBlock_kept | apply State.moveMapPages_kept | apply State.refreshStat_kept | apply hs
    | simp -zeta only [↓kept_mk, ↓console_mk, ↓console_mk', ↓boot_mk, ↓keeper_mk] | apply KeptMk.same | apply KeptMk.setCon | apply KeptMk.setBst
    | apply KeptMk.setKpr | apply KeptMk.setRegs | apply KeptMk.setAll | apply ConsoleMk.same | apply ConsoleMk.setBuf | apply BootMk.same
    | apply KeeperMk.same | apply Kept.pending | apply Kept.regs | apply Kept.bst | apply Kept.kpr | apply Kept.con | exact Nat.zero_le _
    | apply Kept.getD | exact nil_le | apply Kept.foldl_snd | apply Kept.foldl_fst | apply Kept.foldl | apply KeptO.none | apply KeptO.some
    | apply KeptO3.none | apply KeptO3.some | apply Kept.next | split

theorem State.releaseTry_kept {pq : List Instr} {s : State} {n : Nat} (hs : Kept pq s) :
    Kept pq (State.releaseTry s n) := by
  unfold State.releaseTry
  try dsimp only
  with_reducible repeat' first
    | assumption | intro _ | apply Kept.ite | apply State.setBlk_kept | apply State.setGroup_kept | apply State.parity_kept | apply hs
    | simp -zeta only [↓kept_mk, ↓console_mk, ↓console_mk', ↓boot_mk, ↓keeper_mk] | apply KeptMk.same | apply KeptMk.setCon | apply KeptMk.setBst
    | apply KeptMk.setKpr | apply KeptMk.setRegs | apply KeptMk.setAll | apply ConsoleMk.same | apply ConsoleMk.setBuf | apply BootMk.same
    | apply KeeperMk.same | apply Kept.pending | apply Kept.regs | apply Kept.bst | apply Kept.kpr | apply Kept.con | exact Nat.zero_le _
    | apply Kept.getD | exact nil_le | apply Kept.foldl_snd | apply Kept.foldl_fst | apply Kept.foldl | apply KeptO.none | apply KeptO.some
    | apply KeptO3.none | apply KeptO3.some | apply Kept.next | split

theorem State.releaseOf_kept {pq : List Instr} {s : State} {k : Nat} (hs : Kept pq s) :
    Kept pq (State.releaseOf s k) := by
  unfold State.releaseOf
  try dsimp only
  with_reducible repeat' first
    | assumption | intro _ | apply Kept.ite | apply State.releaseTry_kept | apply hs
    | simp -zeta only [↓kept_mk, ↓console_mk, ↓console_mk', ↓boot_mk, ↓keeper_mk] | apply KeptMk.same | apply KeptMk.setCon | apply KeptMk.setBst
    | apply KeptMk.setKpr | apply KeptMk.setRegs | apply KeptMk.setAll | apply ConsoleMk.same | apply ConsoleMk.setBuf | apply BootMk.same
    | apply KeeperMk.same | apply Kept.pending | apply Kept.regs | apply Kept.bst | apply Kept.kpr | apply Kept.con | exact Nat.zero_le _
    | apply Kept.getD | exact nil_le | apply Kept.foldl_snd | apply Kept.foldl_fst | apply Kept.foldl | apply KeptO.none | apply KeptO.some
    | apply KeptO3.none | apply KeptO3.some | apply Kept.next | split

theorem State.emptied_kept {pq : List Instr} {s : State} {r : Reloc} (hs : Kept pq s) :
    Kept pq (State.emptied s r) := by
  unfold State.emptied
  try dsimp only
  with_reducible repeat' first
    | assumption | intro _ | apply Kept.ite | apply State.bumpWrap_kept | apply State.cause_kept | apply State.refreshDone_kept
    | apply State.retireTry_kept | apply State.refreshStat_kept | apply State.releaseOf_kept

theorem State.swapOne_kept {pq : List Instr} {s : State} {id : Nat} (hs : Kept pq s) :
    Kept pq (State.swapOne s id) := by
  unfold State.swapOne
  try dsimp only
  with_reducible repeat' first
    | assumption | intro _ | apply Kept.ite | apply State.bumpWrap_kept | apply State.cause_kept | apply State.record_kept | apply State.remap_kept
    | apply State.secureTarget_kept | apply State.settle_kept | apply State.retryDrop_kept | apply State.emptied_kept | apply hs
    | simp -zeta only [↓kept_mk] | apply KeptMk.same | apply KeptMk.setCon | apply KeptMk.setBst | apply KeptMk.setKpr | apply KeptMk.setRegs
    | apply KeptMk.setAll | apply ConsoleMk.same | apply ConsoleMk.setBuf | apply BootMk.same | apply KeeperMk.same | apply Kept.pending
    | apply Kept.regs | apply Kept.bst | apply Kept.kpr | apply Kept.con | exact Nat.zero_le _ | apply Kept.getD | exact nil_le | apply Kept.foldl_snd
    | apply Kept.foldl_fst | apply Kept.foldl | apply KeptO.none | apply KeptO.some | apply KeptO3.none | apply KeptO3.some | apply Kept.next | split

theorem execRelocationSwap_kept {pq : List Instr} {id : Nat} {s : State} (hs : Kept pq s) :
    KeptOut pq (execRelocationSwap id s) := by
  unfold execRelocationSwap
  apply Kept.next
  with_reducible repeat' first
    | assumption | intro _ | apply Kept.ite | apply BootStore.next_kept | apply State.swapOne_kept

theorem execSectorRetry_kept {pq : List Instr} {d : Nat} {blk : Nat} {s : State} (hs : Kept pq s) :
    KeptOut pq (execSectorRetry d blk s) := by
  unfold execSectorRetry
  try dsimp only
  apply Kept.next
  with_reducible repeat' first
    | assumption | intro _ | apply Kept.ite | apply State.cause_kept | apply BootStore.next_kept | apply State.startReloc_kept
    | apply State.retryDrop_kept | apply hs | simp -zeta only [↓kept_mk, ↓console_mk, ↓console_mk', ↓boot_mk, ↓keeper_mk] | apply KeptMk.same
    | apply KeptMk.setCon | apply KeptMk.setBst | apply KeptMk.setKpr | apply KeptMk.setRegs | apply KeptMk.setAll | apply ConsoleMk.same
    | apply ConsoleMk.setBuf | apply BootMk.same | apply KeeperMk.same | apply Kept.pending | apply Kept.regs | apply Kept.bst | apply Kept.kpr
    | apply Kept.con | exact Nat.zero_le _ | apply Kept.getD | exact nil_le | apply Kept.foldl_snd | apply Kept.foldl_fst | apply Kept.foldl
    | apply KeptO.none | apply KeptO.some | apply KeptO3.none | apply KeptO3.some | apply Kept.next | split

theorem execPartialWrite_kept {pq : List Instr} {ns : Fin 8} {lba : Nat} {s : State} (hs : Kept pq s) :
    KeptOut pq (execPartialWrite ns lba s) := by
  unfold execPartialWrite
  try dsimp only
  apply Kept.next
  with_reducible repeat' first
    | assumption | intro _ | apply Kept.ite | apply BootStore.next_kept | apply State.merged_kept | apply State.readSector_kept
    | apply State.settle_kept | apply hs | simp -zeta only [↓kept_mk, ↓console_mk, ↓console_mk', ↓boot_mk, ↓keeper_mk] | apply KeptMk.same
    | apply KeptMk.setCon | apply KeptMk.setBst | apply KeptMk.setKpr | apply KeptMk.setRegs | apply KeptMk.setAll | apply ConsoleMk.same
    | apply ConsoleMk.setBuf | apply BootMk.same | apply KeeperMk.same | apply Kept.pending | apply Kept.regs | apply Kept.bst | apply Kept.kpr
    | apply Kept.con | exact Nat.zero_le _ | apply Kept.getD | exact nil_le | apply Kept.foldl_snd | apply Kept.foldl_fst | apply Kept.foldl
    | apply KeptO.none | apply KeptO.some | apply KeptO3.none | apply KeptO3.some | apply Kept.next | split

theorem execMapPageWriteback_kept {pq : List Instr} {page : Nat} {s : State} (hs : Kept pq s) :
    KeptOut pq (execMapPageWriteback page s) := by
  unfold execMapPageWriteback
  try dsimp only
  apply Kept.next
  with_reducible repeat' first
    | assumption | intro _ | apply Kept.ite | apply BootStore.next_kept | apply State.newId_kept | apply State.newId_kept_of (by assumption)
    | apply State.newSeq_kept | apply State.newSeq_kept_of (by assumption) | apply State.pushEnc_kept | apply State.allocIn_kept
    | apply State.allocIn_kept_of (by assumption) | apply State.releaseFill_kept | apply State.encoded_kept | apply hs
    | simp -zeta only [↓kept_mk, ↓console_mk, ↓console_mk', ↓boot_mk, ↓keeper_mk] | apply KeptMk.same | apply KeptMk.setCon | apply KeptMk.setBst
    | apply KeptMk.setKpr | apply KeptMk.setRegs | apply KeptMk.setAll | apply ConsoleMk.same | apply ConsoleMk.setBuf | apply BootMk.same
    | apply KeeperMk.same | apply Kept.pending | apply Kept.regs | apply Kept.bst | apply Kept.kpr | apply Kept.con | exact Nat.zero_le _
    | apply Kept.getD | exact nil_le | apply Kept.foldl_snd | apply Kept.foldl_fst | apply Kept.foldl | apply KeptO.none | apply KeptO.some
    | apply KeptO3.none | apply KeptO3.some | apply Kept.next | split

theorem State.mapEmptied_kept {pq : List Instr} {s : State} {k : Nat} (hs : Kept pq s) :
    Kept pq (State.mapEmptied s k) := by
  unfold State.mapEmptied
  try dsimp only
  with_reducible repeat' first
    | assumption | intro _ | apply Kept.ite | apply State.bumpWrap_kept | apply State.cause_kept | apply State.refreshDone_kept
    | apply State.retireTry_kept | apply State.refreshStat_kept | apply State.releaseOf_kept | apply hs | simp -zeta only [↓kept_mk]
    | apply KeptMk.same

theorem State.mapPageOk_kept {pq : List Instr} {s : State} {page : Nat} {l : Loc} (hs : Kept pq s) :
    Kept pq (State.mapPageOk s page l) := by
  unfold State.mapPageOk
  try dsimp only
  with_reducible repeat' first
    | assumption | intro _ | apply Kept.ite | apply State.setBlk_kept | apply State.touch_kept | apply State.lose_kept | apply State.mapEmptied_kept
    | apply hs | simp -zeta only [↓kept_mk] | apply KeptMk.same | apply KeptMk.setCon | apply KeptMk.setBst | apply KeptMk.setKpr
    | apply KeptMk.setRegs | apply KeptMk.setAll | apply ConsoleMk.same | apply ConsoleMk.setBuf | apply BootMk.same | apply KeeperMk.same
    | apply Kept.pending | apply Kept.regs | apply Kept.bst | apply Kept.kpr | apply Kept.con | exact Nat.zero_le _ | apply Kept.getD | exact nil_le
    | apply Kept.foldl_snd | apply Kept.foldl_fst | apply Kept.foldl | apply KeptO.none | apply KeptO.some | apply KeptO3.none | apply KeptO3.some
    | apply Kept.next | split

theorem State.leaveGroups_kept {pq : List Instr} {s : State} {k : Nat} (hs : Kept pq s) :
    Kept pq (State.leaveGroups s k) := by
  unfold State.leaveGroups
  try dsimp only
  with_reducible repeat' first
    | assumption | intro _ | apply Kept.ite | apply State.parity_kept | apply hs | simp -zeta only [↓kept_mk] | apply KeptMk.same

theorem State.erasedOk_kept {pq : List Instr} {s : State} {k : Nat} (hs : Kept pq s) :
    Kept pq (State.erasedOk s k) := by
  unfold State.erasedOk
  try dsimp only
  with_reducible repeat' first
    | assumption | intro _ | apply Kept.ite | apply State.cause_kept | apply State.setBlk_kept | apply State.record_kept
    | apply State.refreshDone_kept | apply State.summaryDirty_kept | apply State.parity_kept | apply State.heavy_kept | apply State.refreshStat_kept
    | apply State.leaveGroups_kept | apply hs | simp -zeta only [↓kept_mk] | apply KeptMk.same

theorem State.eraseOk_kept {pq : List Instr} {s : State} {g : Fin 8} {o : GOp} {k : Nat} (hs : Kept pq s) :
    Kept pq (State.eraseOk s g o k) := by
  unfold State.eraseOk
  with_reducible repeat' first
    | assumption | intro _ | apply Kept.ite | apply State.gal_kept | apply State.erasedOk_kept

theorem State.eraseLost_kept {pq : List Instr} {s : State} {k : Nat} (hs : Kept pq s) :
    Kept pq (State.eraseLost s k) := by
  unfold State.eraseLost
  try dsimp only
  with_reducible repeat' first
    | assumption | intro _ | apply Kept.ite | apply State.retireBlk_kept | apply State.dropMember_kept | apply State.parityGone_kept | apply hs
    | simp -zeta only [↓kept_mk, ↓console_mk, ↓console_mk', ↓boot_mk, ↓keeper_mk] | apply KeptMk.same | apply KeptMk.setCon | apply KeptMk.setBst
    | apply KeptMk.setKpr | apply KeptMk.setRegs | apply KeptMk.setAll | apply ConsoleMk.same | apply ConsoleMk.setBuf | apply BootMk.same
    | apply KeeperMk.same | apply Kept.pending | apply Kept.regs | apply Kept.bst | apply Kept.kpr | apply Kept.con | exact Nat.zero_le _
    | apply Kept.getD | exact nil_le | apply Kept.foldl_snd | apply Kept.foldl_fst | apply Kept.foldl | apply KeptO.none | apply KeptO.some
    | apply KeptO3.none | apply KeptO3.some | apply Kept.next | split

theorem State.eraseFailed_kept {pq : List Instr} {s : State} {g : Fin 8} {o : GOp} {planes : BitVec 4} (hs : Kept pq s) :
    Kept pq (State.eraseFailed s g o planes) := by
  unfold State.eraseFailed
  try dsimp only
  with_reducible repeat' first
    | assumption | intro _ | apply Kept.ite | apply State.gal_kept | apply State.raise_kept | apply State.dropOp_kept | apply State.setOp_kept
    | apply State.eraseOk_kept | apply State.eraseLost_kept | apply hs | simp -zeta only [↓kept_mk, ↓console_mk, ↓console_mk', ↓boot_mk, ↓keeper_mk]
    | apply KeptMk.same | apply KeptMk.setCon | apply KeptMk.setBst | apply KeptMk.setKpr | apply KeptMk.setRegs | apply KeptMk.setAll
    | apply ConsoleMk.same | apply ConsoleMk.setBuf | apply BootMk.same | apply KeeperMk.same | apply Kept.pending | apply Kept.regs | apply Kept.bst
    | apply Kept.kpr | apply Kept.con | exact Nat.zero_le _ | apply Kept.getD | exact nil_le | apply Kept.foldl_snd | apply Kept.foldl_fst
    | apply Kept.foldl

theorem State.programOk_kept {pq : List Instr} {s : State} {g : Fin 8} {o : GOp} (hs : Kept pq s) :
    Kept pq (State.programOk s g o) := by
  unfold State.programOk
  try dsimp only
  with_reducible repeat' first
    | assumption | intro _ | apply Kept.ite | apply State.gal_kept | apply State.parityOk_kept | apply State.programmedOk_kept
    | apply State.dropOp_kept | apply State.mapPageOk_kept | apply hs | simp -zeta only [↓kept_mk, ↓console_mk, ↓console_mk', ↓boot_mk, ↓keeper_mk]
    | apply KeptMk.same | apply KeptMk.setCon | apply KeptMk.setBst | apply KeptMk.setKpr | apply KeptMk.setRegs | apply KeptMk.setAll
    | apply ConsoleMk.same | apply ConsoleMk.setBuf | apply BootMk.same | apply KeeperMk.same | apply Kept.pending | apply Kept.regs | apply Kept.bst
    | apply Kept.kpr | apply Kept.con | exact Nat.zero_le _ | apply Kept.getD | exact nil_le | apply Kept.foldl_snd | apply Kept.foldl_fst
    | apply Kept.foldl | apply KeptO.none | apply KeptO.some | apply KeptO3.none | apply KeptO3.some | apply Kept.next | split

theorem State.planesFailed_kept {pq : List Instr} {s : State} {g : Fin 8} {o : GOp} {planes : BitVec 4} (hs : Kept pq s) :
    Kept pq (State.planesFailed s g o planes) := by
  unfold State.planesFailed
  try dsimp only
  with_reducible repeat' first
    | assumption | intro _ | apply Kept.ite | apply State.setBlk_kept | apply State.closeBlk_kept | apply State.refreshWant_kept
    | apply State.moveProgram_kept | apply State.programFailed_kept | apply State.heavy_kept | apply hs
    | simp -zeta only [↓kept_mk, ↓console_mk, ↓console_mk', ↓boot_mk, ↓keeper_mk] | apply KeptMk.same | apply KeptMk.setCon | apply KeptMk.setBst
    | apply KeptMk.setKpr | apply KeptMk.setRegs | apply KeptMk.setAll | apply ConsoleMk.same | apply ConsoleMk.setBuf | apply BootMk.same
    | apply KeeperMk.same | apply Kept.pending | apply Kept.regs | apply Kept.bst | apply Kept.kpr | apply Kept.con | exact Nat.zero_le _
    | apply Kept.getD | exact nil_le | apply Kept.foldl_snd | apply Kept.foldl_fst | apply Kept.foldl

theorem State.programFail_kept {pq : List Instr} {s : State} {g : Fin 8} {o : GOp} {planes : BitVec 4} (hs : Kept pq s) :
    Kept pq (State.programFail s g o planes) := by
  unfold State.programFail
  try dsimp only
  with_reducible repeat' first
    | assumption | intro _ | apply Kept.ite | apply State.gal_kept | apply State.raise_kept | apply State.retireBlk_kept
    | apply State.programFailed_kept | apply State.dropOp_kept | apply State.parityAway_kept | apply State.planesFailed_kept | apply hs
    | simp -zeta only [↓kept_mk, ↓console_mk, ↓console_mk', ↓boot_mk, ↓keeper_mk] | apply KeptMk.same | apply KeptMk.setCon | apply KeptMk.setBst
    | apply KeptMk.setKpr | apply KeptMk.setRegs | apply KeptMk.setAll | apply ConsoleMk.same | apply ConsoleMk.setBuf | apply BootMk.same
    | apply KeeperMk.same | apply Kept.pending | apply Kept.regs | apply Kept.bst | apply Kept.kpr | apply Kept.con | exact Nat.zero_le _
    | apply Kept.getD | exact nil_le | apply Kept.foldl_snd | apply Kept.foldl_fst | apply Kept.foldl | apply KeptO.none | apply KeptO.some
    | apply KeptO3.none | apply KeptO3.some | apply Kept.next | split

theorem execArrayOpComplete_kept {pq : List Instr} {g : Fin 8} {id : Nat} {failPlanes : BitVec 4} {fail : Bool} {s : State} (hs : Kept pq s) :
    KeptOut pq (execArrayOpComplete g id failPlanes fail s) := by
  unfold execArrayOpComplete
  try dsimp only
  apply Kept.next
  with_reducible repeat' first
    | assumption | intro _ | apply Kept.ite | apply BootStore.next_kept | apply State.dropOp_kept | apply State.finishOp_kept
    | apply State.settle_kept | apply State.opTimeout_kept | apply State.eraseOk_kept | apply State.eraseFailed_kept | apply State.programOk_kept
    | apply State.programFail_kept | apply hs | simp -zeta only [↓kept_mk, ↓console_mk, ↓console_mk', ↓boot_mk, ↓keeper_mk] | apply KeptMk.same
    | apply KeptMk.setCon | apply KeptMk.setBst | apply KeptMk.setKpr | apply KeptMk.setRegs | apply KeptMk.setAll | apply ConsoleMk.same
    | apply ConsoleMk.setBuf | apply BootMk.same | apply KeeperMk.same | apply Kept.pending | apply Kept.regs | apply Kept.bst | apply Kept.kpr
    | apply Kept.con | exact Nat.zero_le _ | apply Kept.getD | exact nil_le | apply Kept.foldl_snd | apply Kept.foldl_fst | apply Kept.foldl
    | apply KeptO.none | apply KeptO.some | apply KeptO3.none | apply KeptO3.some | apply Kept.next | split

theorem execReadVerify_kept {pq : List Instr} {blk : Nat} {results : List DecodeResult} {s : State} (hs : Kept pq s) :
    KeptOut pq (execReadVerify blk results s) := by
  unfold execReadVerify
  try dsimp only
  apply Kept.next
  with_reducible repeat' first
    | assumption | intro _ | apply Kept.ite | apply BootStore.next_kept | apply State.refreshWant_kept | apply State.setGroup_kept
    | apply State.searchPend_kept | apply State.countRead_kept | apply State.startRead_kept | apply State.startRead_kept_of (by assumption)
    | apply State.miscorrect_kept | apply State.xtsCheck_kept | apply State.cdcCount_kept | apply State.effort_kept | apply State.releaseTry_kept
    | apply hs | simp -zeta only [↓kept_mk, ↓console_mk, ↓console_mk', ↓boot_mk, ↓keeper_mk] | apply KeptMk.same | apply KeptMk.setCon
    | apply KeptMk.setBst | apply KeptMk.setKpr | apply KeptMk.setRegs | apply KeptMk.setAll | apply ConsoleMk.same | apply ConsoleMk.setBuf
    | apply BootMk.same | apply KeeperMk.same | apply Kept.pending | apply Kept.regs | apply Kept.bst | apply Kept.kpr | apply Kept.con
    | exact Nat.zero_le _ | apply Kept.getD | exact nil_le | apply Kept.foldl_snd | apply Kept.foldl_fst | apply Kept.foldl | apply KeptO.none
    | apply KeptO.some | apply KeptO3.none | apply KeptO3.some | apply Kept.next | split

theorem execBlockErase_kept {pq : List Instr} {blk : Nat} {s : State} (hs : Kept pq s) :
    KeptOut pq (execBlockErase blk s) := by
  unfold execBlockErase
  try dsimp only
  apply Kept.next
  with_reducible repeat' first
    | assumption | intro _ | apply Kept.ite | apply BootStore.next_kept | apply State.retireBlk_kept | apply State.retireTry_kept
    | apply State.queueErase_kept | apply State.heavy_kept | apply State.releaseOf_kept

theorem execReserveErase_kept {pq : List Instr} {c : Fin 128} {s : State} (hs : Kept pq s) :
    KeptOut pq (execReserveErase c s) := by
  unfold execReserveErase
  try dsimp only
  apply Kept.next
  with_reducible repeat' first
    | assumption | intro _ | apply Kept.ite | apply BootStore.next_kept | apply State.queueErase_kept | apply hs
    | simp -zeta only [↓kept_mk, ↓console_mk, ↓console_mk', ↓boot_mk, ↓keeper_mk] | apply KeptMk.same | apply KeptMk.setCon | apply KeptMk.setBst
    | apply KeptMk.setKpr | apply KeptMk.setRegs | apply KeptMk.setAll | apply ConsoleMk.same | apply ConsoleMk.setBuf | apply BootMk.same
    | apply KeeperMk.same | apply Kept.pending | apply Kept.regs | apply Kept.bst | apply Kept.kpr | apply Kept.con | exact Nat.zero_le _
    | apply Kept.getD | exact nil_le | apply Kept.foldl_snd | apply Kept.foldl_fst | apply Kept.foldl | apply KeptO.none | apply KeptO.some
    | apply KeptO3.none | apply KeptO3.some | apply Kept.next | split

theorem State.retireChamber_kept {pq : List Instr} {s : State} {c : Fin 128} {x1 : Nat} (hs : Kept pq s) :
    Kept pq (State.retireChamber s c x1) := by
  induction x1 with
  | zero => unfold State.retireChamber; with_reducible exact hs
  | succ n ih =>
    unfold State.retireChamber
    dsimp only
    split
    · have ih := State.moveProgram_kept (k := c.val * 65536 + n) (pos := ((s.retireChamber c n).blk (c.val * 65536 + n)).next) ih
      split
      · with_reducible exact ih
      · split
        · with_reducible exact State.retireBlk_kept ih
        · with_reducible exact State.refreshWant_kept (State.setBlk_kept ih)
    · split
      · with_reducible exact ih
      · split
        · with_reducible exact State.retireBlk_kept ih
        · with_reducible exact State.refreshWant_kept (State.setBlk_kept ih)

theorem execChamberRetire_kept {pq : List Instr} {c : Fin 128} {s : State} (hs : Kept pq s) :
    KeptOut pq (execChamberRetire c s) := by
  unfold execChamberRetire
  apply Kept.next
  with_reducible repeat' first
    | assumption | intro _ | apply Kept.ite | apply BootStore.next_kept | apply State.retireChamber_kept

end Sys2Proof.Machine
end

