-- ==== Sys2Proof/Laws/KeptJournal.lean ====
section
/-! SUPPORT. The operations of Machine/Journal.lean keep the queue of commands and the sound form of the state. -/

namespace Sys2Proof.Machine

theorem State.putStream_kept {pq : List Instr} {s : State} {blks : List Nat} {page : Nat} {cw : Fin 4} {kind : Nat} {lba : Nat} {data : List Nat} (hs : Kept pq s) :
    Kept pq (State.putStream s blks page cw kind lba data) := by
  unfold State.putStream
  try dsimp only
  with_reducible repeat' first
    | assumption | intro _ | apply Kept.ite | apply State.newSeq_kept | apply State.newSeq_kept_of (by assumption) | apply State.putCw_kept
    | apply State.seq_kept | apply hs | simp -zeta only [↓kept_mk, ↓console_mk, ↓console_mk', ↓boot_mk, ↓keeper_mk] | apply KeptMk.same
    | apply KeptMk.setCon | apply KeptMk.setBst | apply KeptMk.setKpr | apply KeptMk.setRegs | apply KeptMk.setAll | apply ConsoleMk.same
    | apply ConsoleMk.setBuf | apply BootMk.same | apply KeeperMk.same | apply Kept.pending | apply Kept.regs | apply Kept.bst | apply Kept.kpr
    | apply Kept.con | exact Nat.zero_le _ | apply Kept.getD | exact nil_le | apply Kept.foldl_snd | apply Kept.foldl_fst | apply Kept.foldl

theorem State.putJournal_kept {pq : List Instr} {s : State} {blks : List Nat} {pos : Nat} {page : Nat} {recs : List (Nat × JRec)} (hs : Kept pq s) :
    Kept pq (State.putJournal s blks pos page recs) := by
  unfold State.putJournal
  try dsimp only
  with_reducible repeat' first
    | assumption | intro _ | apply Kept.ite | apply State.padRest_kept | apply State.seq_kept | apply State.putStream_kept | apply hs
    | simp -zeta only [↓kept_mk, ↓console_mk, ↓console_mk', ↓boot_mk, ↓keeper_mk] | apply KeptMk.same | apply KeptMk.setCon | apply KeptMk.setBst
    | apply KeptMk.setKpr | apply KeptMk.setRegs | apply KeptMk.setAll | apply ConsoleMk.same | apply ConsoleMk.setBuf | apply BootMk.same
    | apply KeeperMk.same | apply Kept.pending | apply Kept.regs | apply Kept.bst | apply Kept.kpr | apply Kept.con | exact Nat.zero_le _
    | apply Kept.getD | exact nil_le | apply Kept.foldl_snd | apply Kept.foldl_fst | apply Kept.foldl

theorem State.putRoot_kept {pq : List Instr} {s : State} {blks : List Nat} {page : Nat} {x : Root} {n : Nat} {first : Nat} (hs : Kept pq s) :
    Kept pq (State.putRoot s blks page x n first) := by
  unfold State.putRoot
  with_reducible repeat' first
    | assumption | intro _ | apply Kept.ite | apply State.padRest_kept | apply State.putStream_kept | apply hs
    | simp -zeta only [↓kept_mk, ↓console_mk, ↓console_mk', ↓boot_mk, ↓keeper_mk] | apply KeptMk.same | apply KeptMk.setCon | apply KeptMk.setBst
    | apply KeptMk.setKpr | apply KeptMk.setRegs | apply KeptMk.setAll | apply ConsoleMk.same | apply ConsoleMk.setBuf | apply BootMk.same
    | apply KeeperMk.same | apply Kept.pending | apply Kept.regs | apply Kept.bst | apply Kept.kpr | apply Kept.con | exact Nat.zero_le _
    | apply Kept.getD | exact nil_le | apply Kept.foldl_snd | apply Kept.foldl_fst | apply Kept.foldl

end Sys2Proof.Machine
end

