-- ==== Sys2Proof/Laws/KeptRecovery.lean ====
section
/-! SUPPORT. The operations of Machine/Recovery.lean keep the queue of commands and the sound form of the state. -/

namespace Sys2Proof.Machine

theorem State.openShelf_kept {pq : List Instr} {s : State} {k : Nat} {page : Nat} (hs : Kept pq s) :
    Kept pq (State.openShelf s k page) := by
  unfold State.openShelf
  try dsimp only
  with_reducible repeat' first
    | assumption | intro _ | apply Kept.ite | apply State.gal_kept | apply State.setBlk_kept | apply BootStore.next_kept | apply State.erasedOk_kept

theorem State.shelfBlocks_kept {pq : List Instr} {s : State} {x1 : Nat} {x2 : Nat} {x3 : List Nat} (hs : Kept pq s) :
    Kept pq (State.shelfBlocks s x1 x2 x3).2 := by
  induction x1 generalizing s x2 x3 with
  | zero => unfold State.shelfBlocks; with_reducible exact hs
  | succ n ih =>
    unfold State.shelfBlocks
    split
    · with_reducible exact hs
    · with_reducible exact ih (State.openShelf_kept hs)

theorem State.shelfBlocks_kept_of {pq : List Instr} {s : State} {x1 : Nat} {x2 : Nat} {x3 : List Nat} {r0 : List Nat} {r1 : State} (e : (State.shelfBlocks s x1 x2 x3) = (r0, r1)) (hs : Kept pq s) :
    Kept pq r1 := by
  have := State.shelfBlocks_kept (pq := pq) (s := s) (x1 := x1) (x2 := x2) (x3 := x3) hs
  rw [e] at this
  exact this

theorem State.anchorAdd_kept {pq : List Instr} {s : State} (hs : Kept pq s) :
    Kept pq (State.anchorAdd s) := by
  unfold State.anchorAdd
  try dsimp only
  with_reducible repeat' first
    | assumption | intro _ | apply Kept.ite | apply BootStore.hAdd_kept | apply State.seq_kept | apply hs | simp -zeta only [↓kept_mk, ↓boot_mk]
    | apply KeptMk.same | apply KeptMk.setCon | apply KeptMk.setBst | apply KeptMk.setKpr | apply KeptMk.setRegs | apply KeptMk.setAll
    | apply ConsoleMk.same | apply ConsoleMk.setBuf | apply BootMk.same | apply KeeperMk.same | apply Kept.pending | apply Kept.regs | apply Kept.bst

theorem State.ckptPage_kept {pq : List Instr} {s : State} {page : Nat} (hs : Kept pq s) :
    Kept pq (State.ckptPage s page) := by
  unfold State.ckptPage
  try dsimp only
  with_reducible repeat' first
    | assumption | intro _ | apply Kept.ite | apply State.gal_kept | apply State.raise_kept | apply State.newId_kept
    | apply State.newId_kept_of (by assumption) | apply State.newSeq_kept | apply State.newSeq_kept_of (by assumption) | apply State.pushEnc_kept
    | apply State.setGroup_kept | apply State.allocIn_kept | apply State.allocIn_kept_of (by assumption) | apply State.accJoin_kept
    | apply State.programmedOk_kept | apply State.encoded_kept | apply State.mapPageOk_kept | apply hs
    | simp -zeta only [↓kept_mk, ↓console_mk, ↓console_mk', ↓boot_mk, ↓keeper_mk] | apply KeptMk.same | apply KeptMk.setCon | apply KeptMk.setBst
    | apply KeptMk.setKpr | apply KeptMk.setRegs | apply KeptMk.setAll | apply ConsoleMk.same | apply ConsoleMk.setBuf | apply BootMk.same
    | apply KeeperMk.same | apply Kept.pending | apply Kept.regs | apply Kept.bst | apply Kept.kpr | apply Kept.con | exact Nat.zero_le _
    | apply Kept.getD | exact nil_le | apply Kept.foldl_snd | apply Kept.foldl_fst | apply Kept.foldl | apply KeptO.none | apply KeptO.some
    | apply KeptO3.none | apply KeptO3.some | apply Kept.next | split

theorem State.ckptSeries_kept {pq : List Instr} {s : State} {series : Nat} (hs : Kept pq s) :
    Kept pq (State.ckptSeries s series) := by
  unfold State.ckptSeries
  with_reducible repeat' first
    | assumption | intro _ | apply Kept.ite | apply State.ckptPage_kept | apply hs
    | simp -zeta only [↓kept_mk, ↓console_mk, ↓console_mk', ↓boot_mk, ↓keeper_mk] | apply KeptMk.same | apply KeptMk.setCon | apply KeptMk.setBst
    | apply KeptMk.setKpr | apply KeptMk.setRegs | apply KeptMk.setAll | apply ConsoleMk.same | apply ConsoleMk.setBuf | apply BootMk.same
    | apply KeeperMk.same | apply Kept.pending | apply Kept.regs | apply Kept.bst | apply Kept.kpr | apply Kept.con | exact Nat.zero_le _
    | apply Kept.getD | exact nil_le | apply Kept.foldl_snd | apply Kept.foldl_fst | apply Kept.foldl

theorem State.shelfSwap_kept {pq : List Instr} {s : State} {i : Nat} (hs : Kept pq s) :
    Kept pq (State.shelfSwap s i) := by
  unfold State.shelfSwap
  try dsimp only
  with_reducible repeat' first
    | assumption | intro _ | apply Kept.ite | apply State.openShelf_kept | apply hs | simp -zeta only [↓kept_mk] | apply KeptMk.same
    | apply KeptMk.setCon | apply KeptMk.setBst | apply KeptMk.setKpr | apply KeptMk.setRegs | apply KeptMk.setAll | apply ConsoleMk.same
    | apply ConsoleMk.setBuf | apply BootMk.same | apply KeeperMk.same | apply Kept.pending | apply Kept.regs | apply Kept.bst | apply Kept.kpr
    | apply Kept.con | exact Nat.zero_le _ | apply Kept.getD | exact nil_le | apply Kept.foldl_snd | apply Kept.foldl_fst | apply Kept.foldl
    | apply KeptO.none | apply KeptO.some | apply KeptO3.none | apply KeptO3.some | apply Kept.next | split

theorem State.shelfClose_kept {pq : List Instr} {s : State} {k : Nat} (hs : Kept pq s) :
    Kept pq (State.shelfClose s k) := by
  unfold State.shelfClose
  try dsimp only
  with_reducible repeat' first
    | assumption | intro _ | apply Kept.ite | apply State.setBlk_kept | apply State.closeBlk_kept

theorem State.shelfLeave_kept {pq : List Instr} {s : State} {i : Nat} (hs : Kept pq s) :
    Kept pq (State.shelfLeave s i) := by
  unfold State.shelfLeave
  try dsimp only
  with_reducible repeat' first
    | assumption | intro _ | apply Kept.ite | apply State.shelfSwap_kept | apply State.shelfClose_kept | apply hs
    | simp -zeta only [↓kept_mk, ↓console_mk, ↓console_mk', ↓boot_mk, ↓keeper_mk] | apply KeptMk.same | apply KeptMk.setCon | apply KeptMk.setBst
    | apply KeptMk.setKpr | apply KeptMk.setRegs | apply KeptMk.setAll | apply ConsoleMk.same | apply ConsoleMk.setBuf | apply BootMk.same
    | apply KeeperMk.same | apply Kept.pending | apply Kept.regs | apply Kept.bst | apply Kept.kpr | apply Kept.con | exact Nat.zero_le _
    | apply Kept.getD | exact nil_le | apply Kept.foldl_snd | apply Kept.foldl_fst | apply Kept.foldl | apply KeptO.none | apply KeptO.some
    | apply KeptO3.none | apply KeptO3.some | apply Kept.next | split

theorem State.mendCopy_kept {pq : List Instr} {s : State} {i : Nat} (hs : Kept pq s) :
    Kept pq (State.mendCopy s i) := by
  unfold State.mendCopy
  try dsimp only
  with_reducible repeat' first
    | assumption | intro _ | apply Kept.ite | apply State.gal_kept | apply State.raise_kept | apply State.shelfLeave_kept | apply hs
    | simp -zeta only [↓kept_mk, ↓console_mk, ↓console_mk', ↓boot_mk, ↓keeper_mk] | apply KeptMk.same | apply KeptMk.setCon | apply KeptMk.setBst
    | apply KeptMk.setKpr | apply KeptMk.setRegs | apply KeptMk.setAll | apply ConsoleMk.same | apply ConsoleMk.setBuf | apply BootMk.same
    | apply KeeperMk.same | apply Kept.pending | apply Kept.regs | apply Kept.bst | apply Kept.kpr | apply Kept.con | exact Nat.zero_le _
    | apply Kept.getD | exact nil_le | apply Kept.foldl_snd | apply Kept.foldl_fst | apply Kept.foldl | apply KeptO.none | apply KeptO.some
    | apply KeptO3.none | apply KeptO3.some | apply Kept.next | split

theorem State.mendShelf_kept {pq : List Instr} {s : State} (hs : Kept pq s) :
    Kept pq (State.mendShelf s) := by
  unfold State.mendShelf
  with_reducible repeat' first
    | assumption | intro _ | apply Kept.ite | apply State.mendCopy_kept

theorem State.advance_kept {pq : List Instr} {s0 : State} (hs0 : Kept pq s0) :
    Kept pq (State.advance s0) := by
  unfold State.advance
  try dsimp only
  with_reducible repeat' first
    | assumption | intro _ | apply Kept.ite | apply State.gal_kept | apply State.setBlk_kept | apply BootStore.next_kept | apply State.mendShelf_kept
    | apply hs0 | simp -zeta only [↓kept_mk] | apply KeptMk.same

theorem State.advanceN_kept {pq : List Instr} {s : State} {x1 : Nat} (hs : Kept pq s) :
    Kept pq (State.advanceN s x1) := by
  induction x1 generalizing s with
  | zero => unfold State.advanceN; with_reducible exact hs
  | succ n ih => unfold State.advanceN; with_reducible exact ih (State.advance_kept hs)

theorem State.ckptDone_kept {pq : List Instr} {s : State} (hs : Kept pq s) :
    Kept pq (State.ckptDone s) := by
  unfold State.ckptDone
  try dsimp only
  with_reducible repeat' first
    | assumption | intro _ | apply Kept.ite | apply State.setRf_kept | apply State.enter_kept | apply State.finishJob_kept
    | apply State.finishStop_kept | apply State.settle_kept | apply State.checkpoint_kept | apply hs | simp -zeta only [↓kept_mk] | apply KeptMk.same

theorem State.rootPage_kept {pq : List Instr} {s : State} {root : Root} {n : Nat} {first : Nat} (hs : Kept pq s) :
    Kept pq (State.rootPage s root n first) := by
  unfold State.rootPage
  try dsimp only
  with_reducible repeat' first
    | assumption | intro _ | apply Kept.ite | apply State.putRoot_kept | apply State.mendShelf_kept | apply State.advance_kept

theorem State.ckptPut_kept {pq : List Instr} {s : State} {l : List (Nat × (Nat → List Nat))} {i : Nat} (hs : Kept pq s) :
    Kept pq (State.ckptPut s l i) := by
  unfold State.ckptPut
  try dsimp only
  with_reducible repeat' first
    | assumption | intro _ | apply Kept.ite | apply State.putStream_kept | apply State.mendShelf_kept | apply State.advance_kept | apply hs
    | simp -zeta only [↓kept_mk, ↓console_mk, ↓console_mk', ↓boot_mk, ↓keeper_mk] | apply KeptMk.same | apply KeptMk.setCon | apply KeptMk.setBst
    | apply KeptMk.setKpr | apply KeptMk.setRegs | apply KeptMk.setAll | apply ConsoleMk.same | apply ConsoleMk.setBuf | apply BootMk.same
    | apply KeeperMk.same | apply Kept.pending | apply Kept.regs | apply Kept.bst | apply Kept.kpr | apply Kept.con | exact Nat.zero_le _
    | apply Kept.getD | exact nil_le | apply Kept.foldl_snd | apply Kept.foldl_fst | apply Kept.foldl

theorem State.checkpoint_kept {pq : List Instr} {s : State} (hs : Kept pq s) :
    Kept pq (State.checkpoint s) := by
  unfold State.checkpoint
  try dsimp only
  with_reducible repeat' first
    | assumption | intro _ | apply Kept.ite | apply State.ckptSeries_kept | apply State.ckptDone_kept | apply State.rootPage_kept
    | apply State.ckptPut_kept | apply hs | simp -zeta only [↓kept_mk] | apply KeptMk.same | apply KeptMk.setCon | apply KeptMk.setBst
    | apply KeptMk.setKpr | apply KeptMk.setRegs | apply KeptMk.setAll | apply ConsoleMk.same | apply ConsoleMk.setBuf | apply BootMk.same
    | apply KeeperMk.same | apply Kept.pending | apply Kept.regs | apply Kept.bst | apply Kept.kpr | apply Kept.con | exact Nat.zero_le _
    | apply Kept.getD | exact nil_le | apply Kept.foldl_snd | apply Kept.foldl_fst | apply Kept.foldl

theorem State.shelfOpen_kept {pq : List Instr} {s : State} (hs : Kept pq s) :
    Kept pq (State.shelfOpen s) := by
  unfold State.shelfOpen
  try dsimp only
  with_reducible repeat' first
    | assumption | intro _ | apply Kept.ite | apply State.shelfBlocks_kept | apply State.shelfBlocks_kept_of (by assumption)
    | apply State.anchorAdd_kept | apply State.shelfClose_kept | apply hs | simp -zeta only [↓kept_mk] | apply KeptMk.same | apply KeptMk.setCon
    | apply KeptMk.setBst | apply KeptMk.setKpr | apply KeptMk.setRegs | apply KeptMk.setAll | apply ConsoleMk.same | apply ConsoleMk.setBuf
    | apply BootMk.same | apply KeeperMk.same | apply Kept.pending | apply Kept.regs | apply Kept.bst | apply Kept.kpr | apply Kept.con
    | exact Nat.zero_le _ | apply Kept.getD | exact nil_le | apply Kept.foldl_snd | apply Kept.foldl_fst | apply Kept.foldl

theorem execCheckpointTimer_kept {pq : List Instr} {s : State} (hs : Kept pq s) :
    KeptOut pq (execCheckpointTimer s) := by
  unfold execCheckpointTimer
  try dsimp only
  apply Kept.next
  with_reducible repeat' first
    | assumption | intro _ | apply Kept.ite | apply BootStore.next_kept | apply hs | simp -zeta only [↓kept_mk] | apply KeptMk.same

theorem State.mountDone_kept {pq : List Instr} {s : State} (hs : Kept pq s) :
    Kept pq (State.mountDone s) := by
  unfold State.mountDone
  try dsimp only
  with_reducible repeat' first
    | assumption | intro _ | apply Kept.ite | apply State.setRf_kept | apply State.takeFree_kept | apply State.bootCheck_kept
    | apply State.nsReady_kept | apply State.secureTick_kept | apply State.sanitizeOn_kept | apply hs | simp -zeta only [↓kept_mk] | apply KeptMk.same

theorem State.copyFail_kept {pq : List Instr} {s : State} {i : Nat} (hs : Kept pq s) :
    Kept pq (State.copyFail s i) := by
  unfold State.copyFail
  try dsimp only
  with_reducible repeat' first
    | assumption | intro _ | apply Kept.ite | apply State.gal_kept | apply State.raise_kept | apply State.retireBlk_kept

theorem State.bothFail_kept {pq : List Instr} {s : State} (hs : Kept pq s) :
    Kept pq (State.bothFail s) := by
  unfold State.bothFail
  try dsimp only
  with_reducible repeat' first
    | assumption | intro _ | apply Kept.ite | apply State.raise_kept | apply State.shelfOpen_kept | apply State.copyFail_kept

theorem execCheckpoint_kept {pq : List Instr} {rootFails : Nat} {s : State} (hs : Kept pq s) :
    KeptOut pq (execCheckpoint rootFails s) := by
  unfold execCheckpoint
  try dsimp only
  apply Kept.next
  with_reducible repeat' first
    | assumption | intro _ | apply Kept.ite | apply State.raise_kept | apply BootStore.next_kept | apply State.mendShelf_kept
    | apply State.advanceN_kept | apply State.checkpoint_kept | apply State.shelfOpen_kept | apply State.mountDone_kept

theorem execShelfChangeOver_kept {pq : List Instr} {s : State} (hs : Kept pq s) :
    KeptOut pq (execShelfChangeOver s) := by
  unfold execShelfChangeOver
  apply Kept.next
  with_reducible repeat' first
    | assumption | intro _ | apply Kept.ite | apply BootStore.next_kept | apply State.checkpoint_kept | apply State.shelfOpen_kept

theorem execJournalPageProgram_kept {pq : List Instr} {failA : Bool} {failB : Bool} {s : State} (hs : Kept pq s) :
    KeptOut pq (execJournalPageProgram failA failB s) := by
  unfold execJournalPageProgram
  try dsimp only
  apply Kept.next
  with_reducible repeat' first
    | assumption | intro _ | apply Kept.ite | apply BootStore.next_kept | apply State.ioTry_kept | apply State.settle_kept
    | apply State.putJournal_kept | apply State.shelfSwap_kept | apply State.mendShelf_kept | apply State.advance_kept | apply State.copyFail_kept
    | apply State.bothFail_kept | apply hs | simp -zeta only [↓kept_mk] | apply KeptMk.same | apply KeptMk.setCon | apply KeptMk.setBst
    | apply KeptMk.setKpr | apply KeptMk.setRegs | apply KeptMk.setAll | apply ConsoleMk.same | apply ConsoleMk.setBuf | apply BootMk.same
    | apply KeeperMk.same | apply Kept.pending | apply Kept.regs | apply Kept.bst | apply Kept.kpr | apply Kept.con | exact Nat.zero_le _
    | apply Kept.getD | exact nil_le | apply Kept.foldl_snd | apply Kept.foldl_fst | apply Kept.foldl

theorem State.frontiers_kept {pq : List Instr} {s : State} (hs : Kept pq s) :
    Kept pq (State.frontiers s) := by
  unfold State.frontiers
  try dsimp only
  with_reducible repeat' first
    | assumption | intro _ | apply Kept.ite | apply BootStore.next_kept | apply State.parity_kept | apply hs | simp -zeta only [↓kept_mk]
    | apply KeptMk.same

theorem State.sealParity_kept {pq : List Instr} {s : State} {g : StripeGroup} (hs : Kept pq s) :
    Kept pq (State.sealParity s g) := by
  unfold State.sealParity
  try dsimp only
  with_reducible repeat' first
    | assumption | intro _ | apply Kept.ite | apply State.gal_kept | apply State.setBlk_kept | apply BootStore.next_kept | apply State.describe_kept
    | apply State.padRest_kept | apply State.putEncs_kept | apply State.parity_kept | apply hs
    | simp -zeta only [↓kept_mk, ↓console_mk, ↓console_mk', ↓boot_mk, ↓keeper_mk] | apply KeptMk.same | apply KeptMk.setCon | apply KeptMk.setBst
    | apply KeptMk.setKpr | apply KeptMk.setRegs | apply KeptMk.setAll | apply ConsoleMk.same | apply ConsoleMk.setBuf | apply BootMk.same
    | apply KeeperMk.same | apply Kept.pending | apply Kept.regs | apply Kept.bst | apply Kept.kpr | apply Kept.con | exact Nat.zero_le _
    | apply Kept.getD | exact nil_le | apply Kept.foldl_snd | apply Kept.foldl_fst | apply Kept.foldl | apply KeptO.none | apply KeptO.some
    | apply KeptO3.none | apply KeptO3.some | apply Kept.next | split

theorem State.seal_kept {pq : List Instr} {s0 : State} (hs0 : Kept pq s0) :
    Kept pq (State.seal s0) := by
  unfold State.seal
  try dsimp only
  with_reducible repeat' first
    | assumption | intro _ | apply Kept.ite | apply State.setRf_kept | apply State.cause_kept | apply State.frontiers_kept
    | apply State.sealParity_kept | apply hs0 | simp -zeta only [↓kept_mk] | apply KeptMk.same | apply KeptMk.setCon | apply KeptMk.setBst
    | apply KeptMk.setKpr | apply KeptMk.setRegs | apply KeptMk.setAll | apply ConsoleMk.same | apply ConsoleMk.setBuf | apply BootMk.same
    | apply KeeperMk.same | apply Kept.pending | apply Kept.regs | apply Kept.bst | apply Kept.kpr | apply Kept.con | exact Nat.zero_le _
    | apply Kept.getD | exact nil_le | apply Kept.foldl_snd | apply Kept.foldl_fst | apply Kept.foldl

theorem State.tablesBack_kept {pq : List Instr} {s : State} (hs : Kept pq s) :
    Kept pq (State.tablesBack s) := by
  unfold State.tablesBack
  with_reducible repeat' first
    | assumption | intro _ | apply Kept.ite | apply State.reloadWpt_kept | apply hs
    | simp -zeta only [↓kept_mk, ↓console_mk, ↓console_mk', ↓boot_mk, ↓keeper_mk] | apply KeptMk.same | apply KeptMk.setCon | apply KeptMk.setBst
    | apply KeptMk.setKpr | apply KeptMk.setRegs | apply KeptMk.setAll | apply ConsoleMk.same | apply ConsoleMk.setBuf | apply BootMk.same
    | apply KeeperMk.same | apply Kept.pending | apply Kept.regs | apply Kept.bst | apply Kept.kpr | apply Kept.con | exact Nat.zero_le _
    | apply Kept.getD | exact nil_le | apply Kept.foldl_snd | apply Kept.foldl_fst | apply Kept.foldl

theorem State.eraseAgain_kept {pq : List Instr} {s : State} (hs : Kept pq s) :
    Kept pq (State.eraseAgain s) := by
  unfold State.eraseAgain
  try dsimp only
  with_reducible repeat' first
    | assumption | intro _ | apply Kept.ite | apply State.setBlk_kept | apply hs
    | simp -zeta only [↓kept_mk, ↓console_mk, ↓console_mk', ↓boot_mk, ↓keeper_mk] | apply KeptMk.same | apply KeptMk.setCon | apply KeptMk.setBst
    | apply KeptMk.setKpr | apply KeptMk.setRegs | apply KeptMk.setAll | apply ConsoleMk.same | apply ConsoleMk.setBuf | apply BootMk.same
    | apply KeeperMk.same | apply Kept.pending | apply Kept.regs | apply Kept.bst | apply Kept.kpr | apply Kept.con | exact Nat.zero_le _
    | apply Kept.getD | exact nil_le | apply Kept.foldl_snd | apply Kept.foldl_fst | apply Kept.foldl

theorem State.resumeGroups_kept {pq : List Instr} {s : State} (hs : Kept pq s) :
    Kept pq (State.resumeGroups s) := by
  unfold State.resumeGroups
  try dsimp only
  with_reducible repeat' first
    | assumption | intro _ | apply Kept.ite | apply State.setBlk_kept | apply BootStore.next_kept | apply State.describe_kept
    | apply State.setGroup_kept | apply State.queueParity_kept | apply State.done_kept | apply State.parity_kept | apply State.tablesBack_kept
    | apply State.eraseAgain_kept | apply hs | simp -zeta only [↓kept_mk] | apply KeptMk.same | apply KeptMk.setCon | apply KeptMk.setBst
    | apply KeptMk.setKpr | apply KeptMk.setRegs | apply KeptMk.setAll | apply ConsoleMk.same | apply ConsoleMk.setBuf | apply BootMk.same
    | apply KeeperMk.same | apply Kept.pending | apply Kept.regs | apply Kept.bst | apply Kept.kpr | apply Kept.con | exact Nat.zero_le _
    | apply Kept.getD | exact nil_le | apply Kept.foldl_snd | apply Kept.foldl_fst | apply Kept.foldl | apply KeptO.none | apply KeptO.some
    | apply KeptO3.none | apply KeptO3.some | apply Kept.next | split

theorem State.markFloor_kept {pq : List Instr} {s : State} {n : Nat} (hs : Kept pq s) :
    Kept pq (State.markFloor s n) := by
  unfold State.markFloor
  try dsimp only
  with_reducible repeat' first
    | assumption | intro _ | apply Kept.ite | apply State.setBlk_kept | apply State.good_kept | apply hs | simp -zeta only [] | apply KeptMk.same
    | apply KeptMk.setCon | apply KeptMk.setBst | apply KeptMk.setKpr | apply KeptMk.setRegs | apply KeptMk.setAll | apply ConsoleMk.same
    | apply ConsoleMk.setBuf | apply BootMk.same | apply KeeperMk.same | apply Kept.pending | apply Kept.regs | apply Kept.bst | apply Kept.kpr
    | apply Kept.con | exact Nat.zero_le _ | apply Kept.getD | exact nil_le | apply Kept.foldl_snd | apply Kept.foldl_fst | apply Kept.foldl

theorem State.formChain_kept {pq : List Instr} {s : State} (hs : Kept pq s) :
    Kept pq (State.formChain s) := by
  unfold State.formChain
  try dsimp only
  with_reducible repeat' first
    | assumption | intro _ | apply Kept.ite | apply State.takeFree_kept | apply State.sendHello_kept | apply BootStore.hAdd_kept | apply hs
    | simp -zeta only [↓kept_mk, ↓boot_mk] | apply KeptMk.same | apply KeptMk.setCon | apply KeptMk.setBst | apply KeptMk.setKpr
    | apply KeptMk.setRegs | apply KeptMk.setAll | apply ConsoleMk.same | apply ConsoleMk.setBuf | apply BootMk.same | apply KeeperMk.same
    | apply Kept.pending | apply Kept.regs | apply Kept.bst | apply Kept.kpr | apply Kept.con | exact Nat.zero_le _ | apply Kept.getD | exact nil_le
    | apply Kept.foldl_snd | apply Kept.foldl_fst | apply Kept.foldl | apply KeptO.none | apply KeptO.some | apply KeptO3.none | apply KeptO3.some
    | apply Kept.next | split

theorem State.saveBad_kept {pq : List Instr} {s : State} {bad : List Nat} (hs : Kept pq s) :
    Kept pq (State.saveBad s bad) := by
  unfold State.saveBad
  try dsimp only
  with_reducible repeat' first
    | assumption | intro _ | apply Kept.ite | apply BootStore.progBytes_kept | apply BootStore.hAdd_kept | apply hs
    | simp -zeta only [↓kept_mk, ↓boot_mk] | apply KeptMk.same | apply KeptMk.setCon | apply KeptMk.setBst | apply KeptMk.setKpr
    | apply KeptMk.setRegs | apply KeptMk.setAll | apply ConsoleMk.same | apply ConsoleMk.setBuf | apply BootMk.same | apply KeeperMk.same
    | apply Kept.pending | apply Kept.regs | apply Kept.bst

theorem State.firstMount_kept {pq : List Instr} {s : State} {p : Profile} {markers : List Nat} (hs : Kept pq s) :
    Kept pq (State.firstMount s p markers) := by
  unfold State.firstMount
  try dsimp only
  with_reducible repeat' first
    | assumption | intro _ | apply Kept.ite | apply State.setBlk_kept | apply State.saveHealth_kept | apply State.countRead_kept
    | apply State.shelfOpen_kept | apply State.tablesBack_kept | apply State.markFloor_kept | apply State.saveBad_kept | apply hs
    | simp -zeta only [↓kept_mk] | apply KeptMk.same | apply KeptMk.setCon | apply KeptMk.setBst | apply KeptMk.setKpr | apply KeptMk.setRegs
    | apply KeptMk.setAll | apply ConsoleMk.same | apply ConsoleMk.setBuf | apply BootMk.same | apply KeeperMk.same | apply Kept.pending
    | apply Kept.regs | apply Kept.bst | apply Kept.kpr | apply Kept.con | exact Nat.zero_le _ | apply Kept.getD | exact nil_le | apply Kept.foldl_snd
    | apply Kept.foldl_fst | apply Kept.foldl

theorem State.floorReads_kept {pq : List Instr} {s : State} (hs : Kept pq s) :
    Kept pq (State.floorReads s) := by
  unfold State.floorReads
  try dsimp only
  with_reducible repeat' first
    | assumption | intro _ | apply Kept.ite | apply hs | simp -zeta only [↓kept_mk] | apply KeptMk.same

theorem State.holdMembers_kept {pq : List Instr} {s : State} (hs : Kept pq s) :
    Kept pq (State.holdMembers s) := by
  unfold State.holdMembers
  try dsimp only
  with_reducible repeat' first
    | assumption | intro _ | apply Kept.ite | apply State.setBlk_kept | apply State.parity_kept | apply hs
    | simp -zeta only [↓kept_mk, ↓console_mk, ↓console_mk', ↓boot_mk, ↓keeper_mk] | apply KeptMk.same | apply KeptMk.setCon | apply KeptMk.setBst
    | apply KeptMk.setKpr | apply KeptMk.setRegs | apply KeptMk.setAll | apply ConsoleMk.same | apply ConsoleMk.setBuf | apply BootMk.same
    | apply KeeperMk.same | apply Kept.pending | apply Kept.regs | apply Kept.bst | apply Kept.kpr | apply Kept.con | exact Nat.zero_le _
    | apply Kept.getD | exact nil_le | apply Kept.foldl_snd | apply Kept.foldl_fst | apply Kept.foldl

theorem State.afterZeroize_kept {pq : List Instr} {s : State} (hs : Kept pq s) :
    Kept pq (State.afterZeroize s) := by
  unfold State.afterZeroize
  try dsimp only
  with_reducible repeat' first
    | assumption | intro _ | apply Kept.ite | apply State.newKey_kept | apply State.anchorAdd_kept | apply hs | simp -zeta only [↓kept_mk]
    | apply KeptMk.same | apply KeptMk.setCon | apply KeptMk.setBst | apply KeptMk.setKpr | apply KeptMk.setRegs | apply KeptMk.setAll
    | apply ConsoleMk.same | apply ConsoleMk.setBuf | apply BootMk.same | apply KeeperMk.same | apply Kept.pending | apply Kept.regs | apply Kept.bst
    | apply Kept.kpr | apply Kept.con | exact Nat.zero_le _ | apply Kept.getD | exact nil_le | apply Kept.foldl_snd | apply Kept.foldl_fst
    | apply Kept.foldl

theorem State.countersBack_kept {pq : List Instr} {s : State} {root : Root} (hs : Kept pq s) :
    Kept pq (State.countersBack s root) := by
  unfold State.countersBack
  try dsimp only
  with_reducible repeat' first
    | assumption | intro _ | apply Kept.ite | apply State.gal_kept | apply hs
    | simp -zeta only [↓kept_mk, ↓console_mk, ↓console_mk', ↓boot_mk, ↓keeper_mk] | apply KeptMk.same | apply KeptMk.setCon | apply KeptMk.setBst
    | apply KeptMk.setKpr | apply KeptMk.setRegs | apply KeptMk.setAll | apply ConsoleMk.same | apply ConsoleMk.setBuf | apply BootMk.same
    | apply KeeperMk.same | apply Kept.pending | apply Kept.regs | apply Kept.bst | apply Kept.kpr | apply Kept.con | exact Nat.zero_le _
    | apply Kept.getD | exact nil_le | apply Kept.foldl_snd | apply Kept.foldl_fst | apply Kept.foldl | apply KeptO.none | apply KeptO.some
    | apply KeptO3.none | apply KeptO3.some | apply Kept.next | split

theorem State.load_kept {pq : List Instr} {s : State} {root : Root} {b : Built} (hs : Kept pq s) :
    Kept pq (State.load s root b) := by
  unfold State.load
  try dsimp only
  with_reducible repeat' first
    | assumption | intro _ | apply Kept.ite | apply State.setReg_kept | apply State.record_kept | apply State.floorFit_kept
    | apply State.secureEnd_kept | apply State.countersBack_kept | apply hs | simp -zeta only [↓kept_mk] | apply KeptMk.same | apply KeptMk.setCon
    | apply KeptMk.setBst | apply KeptMk.setKpr | apply KeptMk.setRegs | apply KeptMk.setAll | apply ConsoleMk.same | apply ConsoleMk.setBuf
    | apply BootMk.same | apply KeeperMk.same | apply Kept.pending | apply Kept.regs | apply Kept.bst | apply Kept.kpr | apply Kept.con
    | exact Nat.zero_le _ | apply Kept.getD | exact nil_le | apply Kept.foldl_snd | apply Kept.foldl_fst | apply Kept.foldl | apply KeptO.none
    | apply KeptO.some | apply KeptO3.none | apply KeptO3.some | apply Kept.next | split

theorem State.beginScan_kept {pq : List Instr} {s : State} (hs : Kept pq s) :
    Kept pq (State.beginScan s) := by
  unfold State.beginScan
  try dsimp only
  with_reducible repeat' first
    | assumption | intro _ | apply Kept.ite | apply State.setReg_kept | apply State.setRf_kept | apply State.raise_kept | apply State.enter_kept
    | apply hs | simp -zeta only [↓kept_mk] | apply KeptMk.same

theorem State.userBlocksNow_kept {pq : List Instr} {s : State} (hs : Kept pq s) :
    Kept pq (State.userBlocksNow s) := by
  unfold State.userBlocksNow
  try dsimp only
  with_reducible repeat' first
    | assumption | intro _ | apply Kept.ite | apply hs | simp -zeta only [↓kept_mk] | apply KeptMk.same

theorem State.readStream_kept {pq : List Instr} {s : State} {first : Nat} {n : Nat} (hs : Kept pq s) :
    Kept pq (State.readStream s first n) := by
  unfold State.readStream
  with_reducible repeat' first
    | assumption | intro _ | apply Kept.ite | apply State.countRead_kept | apply hs
    | simp -zeta only [↓kept_mk, ↓console_mk, ↓console_mk', ↓boot_mk, ↓keeper_mk] | apply KeptMk.same | apply KeptMk.setCon | apply KeptMk.setBst
    | apply KeptMk.setKpr | apply KeptMk.setRegs | apply KeptMk.setAll | apply ConsoleMk.same | apply ConsoleMk.setBuf | apply BootMk.same
    | apply KeeperMk.same | apply Kept.pending | apply Kept.regs | apply Kept.bst | apply Kept.kpr | apply Kept.con | exact Nat.zero_le _
    | apply Kept.getD | exact nil_le | apply Kept.foldl_snd | apply Kept.foldl_fst | apply Kept.foldl

theorem State.mountReads_kept {pq : List Instr} {s : State} {root : Root} {cold : Bool} (hs : Kept pq s) :
    Kept pq (State.mountReads s root cold) := by
  unfold State.mountReads
  try dsimp only
  with_reducible repeat' first
    | assumption | intro _ | apply Kept.ite | apply State.countRead_kept | apply State.parity_kept | apply State.readStream_kept | apply hs
    | simp -zeta only [↓kept_mk, ↓console_mk, ↓console_mk', ↓boot_mk, ↓keeper_mk] | apply KeptMk.same | apply KeptMk.setCon | apply KeptMk.setBst
    | apply KeptMk.setKpr | apply KeptMk.setRegs | apply KeptMk.setAll | apply ConsoleMk.same | apply ConsoleMk.setBuf | apply BootMk.same
    | apply KeeperMk.same | apply Kept.pending | apply Kept.regs | apply Kept.bst | apply Kept.kpr | apply Kept.con | exact Nat.zero_le _
    | apply Kept.getD | exact nil_le | apply Kept.foldl_snd | apply Kept.foldl_fst | apply Kept.foldl | apply KeptO.none | apply KeptO.some
    | apply KeptO3.none | apply KeptO3.some | apply Kept.next | split

theorem State.mountFrom_kept {pq : List Instr} {s : State} {root : Root} {skipped : Nat} {bad : List Nat} (hs : Kept pq s) :
    Kept pq (State.mountFrom s root skipped bad) := by
  unfold State.mountFrom
  try dsimp only
  with_reducible repeat' first
    | assumption | intro _ | apply Kept.ite | apply State.setRf_kept | apply State.raiseIf_kept | apply State.mountDone_kept | apply State.seal_kept
    | apply State.tablesBack_kept | apply State.eraseAgain_kept | apply State.resumeGroups_kept | apply State.floorReads_kept
    | apply State.holdMembers_kept | apply State.afterZeroize_kept | apply State.load_kept | apply State.userBlocksNow_kept
    | apply State.mountReads_kept | apply hs | simp -zeta only [↓kept_mk] | apply KeptMk.same

theorem State.countUnsafe_kept {pq : List Instr} {s : State} (hs : Kept pq s) :
    Kept pq (State.countUnsafe s) := by
  unfold State.countUnsafe
  try dsimp only
  with_reducible repeat' first
    | assumption | intro _ | apply Kept.ite | apply hs | simp -zeta only [↓kept_mk] | apply KeptMk.same

theorem execMount_kept {pq : List Instr} {m : MountInput} {s : State} (hs : Kept pq s) :
    KeptOut pq (execMount m s) := by
  unfold execMount
  try dsimp only
  apply Kept.next
  with_reducible repeat' first
    | assumption | intro _ | apply Kept.ite | apply State.setRf_kept | apply State.enter_kept | apply BootStore.ringMount_kept
    | apply BootStore.badMount_kept | apply BootStore.next_kept | apply State.formChain_kept | apply State.firstMount_kept
    | apply State.beginScan_kept | apply State.mountFrom_kept | apply State.countUnsafe_kept | apply hs | simp -zeta only [↓kept_mk]
    | apply KeptMk.same | apply KeptMk.setCon | apply KeptMk.setBst | apply KeptMk.setKpr | apply KeptMk.setRegs | apply KeptMk.setAll
    | apply ConsoleMk.same | apply ConsoleMk.setBuf | apply BootMk.same | apply KeeperMk.same | apply Kept.pending | apply Kept.regs | apply Kept.bst
    | apply Kept.kpr | apply Kept.con | exact Nat.zero_le _ | apply Kept.getD | exact nil_le | apply Kept.foldl_snd | apply Kept.foldl_fst
    | apply Kept.foldl | apply KeptO.none | apply KeptO.some | apply KeptO3.none | apply KeptO3.some | apply Kept.next | split

theorem execBlockTableWalk_kept {pq : List Instr} {s : State} (hs : Kept pq s) :
    KeptOut pq (execBlockTableWalk s) := by
  unfold execBlockTableWalk
  try dsimp only
  apply Kept.next
  with_reducible repeat' first
    | assumption | intro _ | apply Kept.ite | apply BootStore.next_kept | apply State.refreshScan_kept | apply hs | simp -zeta only [↓kept_mk]
    | apply KeptMk.same

theorem State.scanReads_kept {pq : List Instr} {s : State} {t : State} (hs : Kept pq s) (ht : Kept pq t) :
    Kept pq (State.scanReads s t) := by
  unfold State.scanReads
  try dsimp only
  with_reducible repeat' first
    | assumption | intro _ | apply Kept.ite | apply State.countRead_kept | apply hs | apply ht
    | simp -zeta only [↓kept_mk, ↓console_mk, ↓console_mk', ↓boot_mk, ↓keeper_mk] | apply KeptMk.same | apply KeptMk.setCon | apply KeptMk.setBst
    | apply KeptMk.setKpr | apply KeptMk.setRegs | apply KeptMk.setAll | apply ConsoleMk.same | apply ConsoleMk.setBuf | apply BootMk.same
    | apply KeeperMk.same | apply Kept.pending | apply Kept.regs | apply Kept.bst | apply Kept.kpr | apply Kept.con | exact Nat.zero_le _
    | apply Kept.getD | exact nil_le | apply Kept.foldl_snd | apply Kept.foldl_fst | apply Kept.foldl

theorem State.scanBlocks_kept {pq : List Instr} {s : State} {b : Built} (hs : Kept pq s) :
    Kept pq (State.scanBlocks s b) := by
  unfold State.scanBlocks
  try dsimp only
  with_reducible repeat' first
    | assumption | intro _ | apply Kept.ite | apply State.setBlk_kept | apply State.seal_kept | apply State.tablesBack_kept
    | apply State.eraseAgain_kept | apply State.floorReads_kept | apply State.holdMembers_kept | apply State.load_kept
    | apply State.userBlocksNow_kept | apply State.scanReads_kept | apply hs
    | simp -zeta only [↓kept_mk, ↓console_mk, ↓console_mk', ↓boot_mk, ↓keeper_mk] | apply KeptMk.same | apply KeptMk.setCon | apply KeptMk.setBst
    | apply KeptMk.setKpr | apply KeptMk.setRegs | apply KeptMk.setAll | apply ConsoleMk.same | apply ConsoleMk.setBuf | apply BootMk.same
    | apply KeeperMk.same | apply Kept.pending | apply Kept.regs | apply Kept.bst | apply Kept.kpr | apply Kept.con | exact Nat.zero_le _
    | apply Kept.getD | exact nil_le | apply Kept.foldl_snd | apply Kept.foldl_fst | apply Kept.foldl

theorem execFullScan_kept {pq : List Instr} {s : State} (hs : Kept pq s) :
    KeptOut pq (execFullScan s) := by
  unfold execFullScan
  try dsimp only
  apply Kept.next
  with_reducible repeat' first
    | assumption | intro _ | apply Kept.ite | apply State.setReg_kept | apply State.setRf_kept | apply State.enter_kept | apply BootStore.next_kept
    | apply State.checkpoint_kept | apply State.shelfOpen_kept | apply State.mountDone_kept | apply State.afterZeroize_kept
    | apply State.countUnsafe_kept | apply State.scanBlocks_kept | apply hs | simp -zeta only [↓kept_mk] | apply KeptMk.same

theorem execMapEngineWatchdog_kept {pq : List Instr} {s : State} (hs : Kept pq s) :
    KeptOut pq (execMapEngineWatchdog s) := by
  unfold execMapEngineWatchdog
  try dsimp only
  apply Kept.next
  with_reducible repeat' first
    | assumption | intro _ | apply Kept.ite | apply State.raise_kept | apply BootStore.alarmAdd_kept | apply BootStore.next_kept | apply hs
    | simp -zeta only [↓kept_mk] | apply KeptMk.same | apply KeptMk.setCon | apply KeptMk.setBst | apply KeptMk.setKpr | apply KeptMk.setRegs
    | apply KeptMk.setAll | apply ConsoleMk.same | apply ConsoleMk.setBuf | apply BootMk.same | apply KeeperMk.same | apply Kept.pending
    | apply Kept.regs | apply Kept.bst

theorem execCoreWatchdog_kept {pq : List Instr} {s : State} (hs : Kept pq s) :
    KeptOut pq (execCoreWatchdog s) := by
  unfold execCoreWatchdog
  try dsimp only
  apply Kept.next
  with_reducible repeat' first
    | assumption | intro _ | apply Kept.ite | apply State.raise_kept | apply BootStore.next_kept | apply State.requestFused_kept | apply hs
    | simp -zeta only [↓kept_mk] | apply KeptMk.same

theorem State.reloadRecords_kept {pq : List Instr} {s : State} (hs : Kept pq s) :
    Kept pq (State.reloadRecords s) := by
  unfold State.reloadRecords
  try dsimp only
  with_reducible repeat' first
    | assumption | intro _ | apply Kept.ite | apply State.countRead_kept | apply hs | simp -zeta only [↓kept_mk] | apply KeptMk.same
    | apply KeptMk.setCon | apply KeptMk.setBst | apply KeptMk.setKpr | apply KeptMk.setRegs | apply KeptMk.setAll | apply ConsoleMk.same
    | apply ConsoleMk.setBuf | apply BootMk.same | apply KeeperMk.same | apply Kept.pending | apply Kept.regs | apply Kept.bst | apply Kept.kpr
    | apply Kept.con | exact Nat.zero_le _ | apply Kept.getD | exact nil_le | apply Kept.foldl_snd | apply Kept.foldl_fst | apply Kept.foldl
    | apply KeptO.none | apply KeptO.some | apply KeptO3.none | apply KeptO3.some | apply Kept.next | split

theorem execPs4RecordReload_kept {pq : List Instr} {s : State} (hs : Kept pq s) :
    KeptOut pq (execPs4RecordReload s) := by
  unfold execPs4RecordReload
  try dsimp only
  apply Kept.next
  with_reducible repeat' first
    | assumption | intro _ | apply Kept.ite | apply BootStore.next_kept | apply State.refreshWant_kept | apply State.countRead_kept
    | apply State.checkpoint_kept | apply State.beginScan_kept | apply State.reloadRecords_kept | apply Run.read_kept | apply hs
    | simp -zeta only [↓kept_mk] | apply KeptMk.same | apply KeptMk.setCon | apply KeptMk.setBst | apply KeptMk.setKpr | apply KeptMk.setRegs
    | apply KeptMk.setAll | apply ConsoleMk.same | apply ConsoleMk.setBuf | apply BootMk.same | apply KeeperMk.same | apply Kept.pending
    | apply Kept.regs | apply Kept.bst | apply Kept.kpr | apply Kept.con | exact Nat.zero_le _ | apply Kept.getD | exact nil_le | apply Kept.foldl_snd
    | apply Kept.foldl_fst | apply Kept.foldl | apply KeptO.none | apply KeptO.some | apply KeptO3.none | apply KeptO3.some | apply Kept.next | split

end Sys2Proof.Machine
end

