-- ==== Sys2Proof/Laws/KeptAssay.lean ====
section
/-! SUPPORT. The operations of Machine/Assay.lean keep the queue of commands and the sound form of the state. -/

namespace Sys2Proof.Machine

theorem State.tempReg_kept {pq : List Instr} {s : State} (hs : Kept pq s) :
    Kept pq (State.tempReg s) := by
  unfold State.tempReg
  try dsimp only
  with_reducible repeat' first
    | assumption | intro _ | apply Kept.ite | apply State.setReg_kept

theorem State.driftCheck_kept {pq : List Instr} {s : State} {g : Fin 8} (hs : Kept pq s) :
    Kept pq (State.driftCheck s g) := by
  unfold State.driftCheck
  try dsimp only
  with_reducible repeat' first
    | assumption | intro _ | apply Kept.ite | apply State.markRetrain_kept | apply hs
    | simp -zeta only [↓kept_mk, ↓console_mk, ↓console_mk', ↓boot_mk, ↓keeper_mk] | apply KeptMk.same | apply KeptMk.setCon | apply KeptMk.setBst
    | apply KeptMk.setKpr | apply KeptMk.setRegs | apply KeptMk.setAll | apply ConsoleMk.same | apply ConsoleMk.setBuf | apply BootMk.same
    | apply KeeperMk.same | apply Kept.pending | apply Kept.regs | apply Kept.bst | apply Kept.kpr | apply Kept.con | exact Nat.zero_le _
    | apply Kept.getD | exact nil_le | apply Kept.foldl_snd | apply Kept.foldl_fst | apply Kept.foldl | apply KeptO.none | apply KeptO.some
    | apply KeptO3.none | apply KeptO3.some | apply Kept.next | split

theorem State.trip_kept {pq : List Instr} {s : State} (hs : Kept pq s) :
    Kept pq (State.trip s) := by
  unfold State.trip
  try dsimp only
  with_reducible repeat' first
    | assumption | intro _ | apply Kept.ite | apply State.raise_kept | apply State.requestFused_kept | apply hs | simp -zeta only [↓kept_mk]
    | apply KeptMk.same

theorem execTemperatureSample_kept {pq : List Instr} {which : Sensor} {quarterC : Int} {s : State} (hs : Kept pq s) :
    KeptOut pq (execTemperatureSample which quarterC s) := by
  unfold execTemperatureSample
  try dsimp only
  apply Kept.next
  with_reducible repeat' first
    | assumption | intro _ | apply Kept.ite | apply BootStore.next_kept | apply State.tempReg_kept | apply State.driftCheck_kept
    | apply State.trip_kept | apply hs | simp -zeta only [↓kept_mk] | apply KeptMk.same | apply KeptMk.setCon | apply KeptMk.setBst
    | apply KeptMk.setKpr | apply KeptMk.setRegs | apply KeptMk.setAll | apply ConsoleMk.same | apply ConsoleMk.setBuf | apply BootMk.same
    | apply KeeperMk.same | apply Kept.pending | apply Kept.regs | apply Kept.bst | apply Kept.kpr | apply Kept.con | exact Nat.zero_le _
    | apply Kept.getD | exact nil_le | apply Kept.foldl_snd | apply Kept.foldl_fst | apply Kept.foldl | apply KeptO.none | apply KeptO.some
    | apply KeptO3.none | apply KeptO3.some | apply Kept.next | split

theorem State.runTemp_kept {pq : List Instr} {s : State} {c : Fin 128} {answer : Option (List Byte)} (hs : Kept pq s) :
    Kept pq (State.runTemp s c answer).2.2 := by
  unfold State.runTemp
  try dsimp only
  with_reducible repeat' first
    | assumption | intro _ | apply Kept.ite | apply State.runList_kept | apply State.endRun_kept

theorem State.runTemp_kept_of {pq : List Instr} {s : State} {c : Fin 128} {answer : Option (List Byte)} {r0 : Outc} {r1 : Int} {r2 : State} (e : (State.runTemp s c answer) = (r0, r1, r2)) (hs : Kept pq s) :
    Kept pq r2 := by
  have := State.runTemp_kept (pq := pq) (s := s) (c := c) (answer := answer) hs
  rw [e] at this
  exact this

theorem execChamberTemperatureList_kept {pq : List Instr} {c : Fin 128} {answer : Option (List Byte)} {s : State} (hs : Kept pq s) :
    KeptOut pq (execChamberTemperatureList c answer s) := by
  unfold execChamberTemperatureList
  try dsimp only
  apply Kept.next
  with_reducible repeat' first
    | assumption | intro _ | apply Kept.ite | apply BootStore.next_kept | apply State.answer_kept | apply State.tempReg_kept
    | apply State.driftCheck_kept | apply State.runTemp_kept | apply State.runTemp_kept_of (by assumption) | apply hs | simp -zeta only [↓kept_mk]
    | apply KeptMk.same | apply KeptMk.setCon | apply KeptMk.setBst | apply KeptMk.setKpr | apply KeptMk.setRegs | apply KeptMk.setAll
    | apply ConsoleMk.same | apply ConsoleMk.setBuf | apply BootMk.same | apply KeeperMk.same | apply Kept.pending | apply Kept.regs | apply Kept.bst
    | apply Kept.kpr | apply Kept.con | exact Nat.zero_le _ | apply Kept.getD | exact nil_le | apply Kept.foldl_snd | apply Kept.foldl_fst
    | apply Kept.foldl | apply KeptO.none | apply KeptO.some | apply KeptO3.none | apply KeptO3.some | apply Kept.next | split

theorem State.report_kept {pq : List Instr} {s : State} (hs : Kept pq s) :
    Kept pq (State.report s) := by
  unfold State.report
  try dsimp only
  with_reducible repeat' first
    | assumption | intro _ | apply Kept.ite | apply State.setReg_kept | apply hs | simp -zeta only [↓kept_mk] | apply KeptMk.same

theorem execRailSample_kept {pq : List Instr} {mv : Vector Nat 5} {ma : Vector Nat 5} {isnsMv : Nat} {s : State} (hs : Kept pq s) :
    KeptOut pq (execRailSample mv ma isnsMv s) := by
  unfold execRailSample
  try dsimp only
  apply Kept.next
  with_reducible repeat' first
    | assumption | intro _ | apply Kept.ite | apply State.setReg_kept | apply BootStore.next_kept | apply State.report_kept | apply hs
    | simp -zeta only [↓kept_mk] | apply KeptMk.same

theorem State.thermalTick_kept {pq : List Instr} {s : State} (hs : Kept pq s) :
    Kept pq (State.thermalTick s) := by
  unfold State.thermalTick
  try dsimp only
  with_reducible repeat' first
    | assumption | intro _ | apply Kept.ite | apply State.raiseIf_kept | apply hs | simp -zeta only [↓kept_mk] | apply KeptMk.same

theorem State.powerTick_kept {pq : List Instr} {s : State} (hs : Kept pq s) :
    Kept pq (State.powerTick s) := by
  unfold State.powerTick
  try dsimp only
  with_reducible repeat' first
    | assumption | intro _ | apply Kept.ite | apply hs | simp -zeta only [↓kept_mk] | apply KeptMk.same

theorem State.applyStep_kept {pq : List Instr} {s : State} (hs : Kept pq s) :
    Kept pq (State.applyStep s) := by
  unfold State.applyStep
  try dsimp only
  with_reducible repeat' first
    | assumption | intro _ | apply Kept.ite | apply State.setReg_kept | apply State.rateChanged_kept | apply hs
    | simp -zeta only [↓kept_mk, ↓console_mk, ↓console_mk', ↓boot_mk, ↓keeper_mk] | apply KeptMk.same | apply KeptMk.setCon | apply KeptMk.setBst
    | apply KeptMk.setKpr | apply KeptMk.setRegs | apply KeptMk.setAll | apply ConsoleMk.same | apply ConsoleMk.setBuf | apply BootMk.same
    | apply KeeperMk.same | apply Kept.pending | apply Kept.regs | apply Kept.bst | apply Kept.kpr | apply Kept.con | exact Nat.zero_le _
    | apply Kept.getD | exact nil_le | apply Kept.foldl_snd | apply Kept.foldl_fst | apply Kept.foldl

theorem State.countMs_kept {pq : List Instr} {s : State} (hs : Kept pq s) :
    Kept pq (State.countMs s) := by
  unfold State.countMs
  try dsimp only
  with_reducible repeat' first
    | assumption | intro _ | apply Kept.ite | apply hs | simp -zeta only [↓kept_mk] | apply KeptMk.same

theorem State.govShown_kept {pq : List Instr} {s : State} (hs : Kept pq s) :
    Kept pq (State.govShown s) := by
  unfold State.govShown
  with_reducible repeat' first
    | assumption | intro _ | apply Kept.ite | apply State.smartEvent_kept

theorem State.secureNext_kept {pq : List Instr} {s : State} (hs : Kept pq s) :
    Kept pq (State.secureNext s) := by
  unfold State.secureNext
  try dsimp only
  with_reducible repeat' first
    | assumption | intro _ | apply Kept.ite | apply State.secureTick_kept | apply hs
    | simp -zeta only [↓kept_mk, ↓console_mk, ↓console_mk', ↓boot_mk, ↓keeper_mk] | apply KeptMk.same | apply KeptMk.setCon | apply KeptMk.setBst
    | apply KeptMk.setKpr | apply KeptMk.setRegs | apply KeptMk.setAll | apply ConsoleMk.same | apply ConsoleMk.setBuf | apply BootMk.same
    | apply KeeperMk.same | apply Kept.pending | apply Kept.regs | apply Kept.bst | apply Kept.kpr | apply Kept.con | exact Nat.zero_le _
    | apply Kept.getD | exact nil_le | apply Kept.foldl_snd | apply Kept.foldl_fst | apply Kept.foldl | apply KeptO.none | apply KeptO.some
    | apply KeptO3.none | apply KeptO3.some | apply Kept.next | split

theorem execGovernorTick_kept {pq : List Instr} {s : State} (hs : Kept pq s) :
    KeptOut pq (execGovernorTick s) := by
  unfold execGovernorTick
  apply Kept.next
  with_reducible repeat' first
    | assumption | intro _ | apply Kept.ite | apply BootStore.next_kept | apply State.thermalTick_kept | apply State.powerTick_kept
    | apply State.applyStep_kept | apply State.countMs_kept | apply State.govShown_kept | apply State.secureNext_kept

theorem State.sentinelRead_kept {pq : List Instr} {s : State} {k : Nat} {page : Nat} {pslc : Bool} {raw : Option (List Nat)} (hs : Kept pq s) :
    Kept pq (State.sentinelRead s k page pslc raw).2 := by
  unfold State.sentinelRead
  try dsimp only
  with_reducible repeat' first
    | assumption | intro _ | apply Kept.ite | apply State.ctx_kept | apply State.runList_kept | apply State.applyOffsets_kept
    | apply State.endRun_kept | apply hs | simp -zeta only [↓kept_mk] | apply KeptMk.same

theorem State.sentinelRead_kept_of {pq : List Instr} {s : State} {k : Nat} {page : Nat} {pslc : Bool} {raw : Option (List Nat)} {r0 : Option Nat} {r1 : State} (e : (State.sentinelRead s k page pslc raw) = (r0, r1)) (hs : Kept pq s) :
    Kept pq r1 := by
  have := State.sentinelRead_kept (pq := pq) (s := s) (k := k) (page := page) (pslc := pslc) (raw := raw) hs
  rw [e] at this
  exact this

theorem State.trialReads_kept {pq : List Instr} {s : State} {k : Nat} {pages : List (Nat × List Nat)} {vec : List Int} {raws : List (List Nat)} (hs : Kept pq s) :
    Kept pq (State.trialReads s k pages vec raws) := by
  unfold State.trialReads
  try dsimp only
  with_reducible repeat' first
    | assumption | intro _ | apply Kept.ite | apply State.setOfs_kept | apply State.countRead_kept | apply State.sentinelRead_kept
    | apply State.sentinelRead_kept_of (by assumption) | apply hs | simp -zeta only [↓kept_mk, ↓console_mk, ↓console_mk', ↓boot_mk, ↓keeper_mk]
    | apply KeptMk.same | apply KeptMk.setCon | apply KeptMk.setBst | apply KeptMk.setKpr | apply KeptMk.setRegs | apply KeptMk.setAll
    | apply ConsoleMk.same | apply ConsoleMk.setBuf | apply BootMk.same | apply KeeperMk.same | apply Kept.pending | apply Kept.regs | apply Kept.bst
    | apply Kept.kpr | apply Kept.con | exact Nat.zero_le _ | apply Kept.getD | exact nil_le | apply Kept.foldl_snd | apply Kept.foldl_fst
    | apply Kept.foldl

theorem State.refRead_kept {pq : List Instr} {s : State} {k : Nat} {page : Nat} {r : RefRead} (hs : Kept pq s) :
    Kept pq (State.refRead s k page r) := by
  unfold State.refRead
  try dsimp only
  with_reducible repeat' first
    | assumption | intro _ | apply Kept.ite | apply State.ctx_kept | apply State.countRead_kept | apply State.runList_kept | apply State.endRun_kept
    | apply State.cdcCount_kept | apply Run.read_kept | apply hs | simp -zeta only [↓kept_mk] | apply KeptMk.same | apply KeptMk.setCon
    | apply KeptMk.setBst | apply KeptMk.setKpr | apply KeptMk.setRegs | apply KeptMk.setAll | apply ConsoleMk.same | apply ConsoleMk.setBuf
    | apply BootMk.same | apply KeeperMk.same | apply Kept.pending | apply Kept.regs | apply Kept.bst | apply Kept.kpr | apply Kept.con
    | exact Nat.zero_le _ | apply Kept.getD | exact nil_le | apply Kept.foldl_snd | apply Kept.foldl_fst | apply Kept.foldl | apply KeptO.none
    | apply KeptO.some | apply KeptO3.none | apply KeptO3.some | apply Kept.next | split

theorem State.refReads_kept {pq : List Instr} {s : State} {k : Nat} {p : Profile} {x1 : List RefRead} {x2 : Nat} (hs : Kept pq s) :
    Kept pq (State.refReads s k p x1 x2) := by
  induction x2 generalizing s x1 with
  | zero => unfold State.refReads; exact hs
  | succ n ih =>
    unfold State.refReads
    dsimp only
    split
    · exact ih (State.refRead_kept hs)
    · exact State.refRead_kept hs

theorem State.search_kept {pq : List Instr} {s : State} {c : Fin 128} {q : Nat} {trials : TrialRun} {refs : List RefRead} (hs : Kept pq s) :
    Kept pq (State.search s c q trials refs).2 := by
  unfold State.search
  try dsimp only
  with_reducible repeat' first
    | assumption | intro _ | apply Kept.ite | apply State.bump_kept | apply State.bumpWrap_kept | apply State.setOfs_kept
    | apply State.trialReads_kept | apply State.refReads_kept | apply hs | simp -zeta only [↓kept_mk, ↓console_mk, ↓console_mk', ↓boot_mk, ↓keeper_mk]
    | apply KeptMk.same | apply KeptMk.setCon | apply KeptMk.setBst | apply KeptMk.setKpr | apply KeptMk.setRegs | apply KeptMk.setAll
    | apply ConsoleMk.same | apply ConsoleMk.setBuf | apply BootMk.same | apply KeeperMk.same | apply Kept.pending | apply Kept.regs | apply Kept.bst
    | apply Kept.kpr | apply Kept.con | exact Nat.zero_le _ | apply Kept.getD | exact nil_le | apply Kept.foldl_snd | apply Kept.foldl_fst
    | apply Kept.foldl | apply KeptO.none | apply KeptO.some | apply KeptO3.none | apply KeptO3.some | apply Kept.next | split

theorem State.search_kept_of {pq : List Instr} {s : State} {c : Fin 128} {q : Nat} {trials : TrialRun} {refs : List RefRead} {r0 : Bool} {r1 : State} (e : (State.search s c q trials refs) = (r0, r1)) (hs : Kept pq s) :
    Kept pq r1 := by
  have := State.search_kept (pq := pq) (s := s) (c := c) (q := q) (trials := trials) (refs := refs) hs
  rw [e] at this
  exact this

theorem execValleySearch_kept {pq : List Instr} {c : Fin 128} {group : Nat} {trials : TrialRun} {refs : List RefRead} {s : State} (hs : Kept pq s) :
    KeptOut pq (execValleySearch c group trials refs s) := by
  unfold execValleySearch
  try dsimp only
  apply Kept.next
  with_reducible repeat' first
    | assumption | intro _ | apply Kept.ite | apply BootStore.next_kept | apply State.search_kept

theorem State.saveHist_kept {pq : List Instr} {s : State} (hs : Kept pq s) :
    Kept pq (State.saveHist s) := by
  unfold State.saveHist
  try dsimp only
  with_reducible repeat' first
    | assumption | intro _ | apply Kept.ite | apply BootStore.hAdd_kept | apply State.saveHealth_kept | apply hs | simp -zeta only [↓kept_mk]
    | apply KeptMk.same | apply KeptMk.setCon | apply KeptMk.setBst | apply KeptMk.setKpr | apply KeptMk.setRegs | apply KeptMk.setAll
    | apply ConsoleMk.same | apply ConsoleMk.setBuf | apply BootMk.same | apply KeeperMk.same | apply Kept.pending | apply Kept.regs | apply Kept.bst

theorem State.secondOver_kept {pq : List Instr} {s : State} (hs : Kept pq s) :
    Kept pq (State.secondOver s) := by
  unfold State.secondOver
  try dsimp only
  with_reducible repeat' first
    | assumption | intro _ | apply Kept.ite | apply hs | simp -zeta only [↓kept_mk] | apply KeptMk.same

theorem State.scanTick_kept {pq : List Instr} {s : State} (hs : Kept pq s) :
    Kept pq (State.scanTick s) := by
  unfold State.scanTick
  with_reducible repeat' first
    | assumption | intro _ | apply Kept.ite | apply State.setRf_kept

theorem execLifetimeSecond_kept {pq : List Instr} {s : State} (hs : Kept pq s) :
    KeptOut pq (execLifetimeSecond s) := by
  unfold execLifetimeSecond
  apply Kept.next
  with_reducible repeat' first
    | assumption | intro _ | apply Kept.ite | apply State.raiseIf_kept | apply BootStore.next_kept | apply State.secondOver_kept
    | apply State.scanTick_kept

theorem execHourlyHistory_kept {pq : List Instr} {s : State} (hs : Kept pq s) :
    KeptOut pq (execHourlyHistory s) := by
  unfold execHourlyHistory
  try dsimp only
  apply Kept.next
  with_reducible repeat' first
    | assumption | intro _ | apply Kept.ite | apply BootStore.next_kept | apply State.saveHist_kept | apply hs | simp -zeta only [↓kept_mk]
    | apply KeptMk.same | apply KeptMk.setCon | apply KeptMk.setBst | apply KeptMk.setKpr | apply KeptMk.setRegs | apply KeptMk.setAll
    | apply ConsoleMk.same | apply ConsoleMk.setBuf | apply BootMk.same | apply KeeperMk.same | apply Kept.pending | apply Kept.regs | apply Kept.bst
    | apply Kept.kpr | apply Kept.con | exact Nat.zero_le _ | apply Kept.getD | exact nil_le | apply Kept.foldl_snd | apply Kept.foldl_fst
    | apply Kept.foldl | apply KeptO.none | apply KeptO.some | apply KeptO3.none | apply KeptO3.some | apply Kept.next | split

theorem State.sweepClosed_kept {pq : List Instr} {s : State} {k : Nat} {raw : Option (List Nat)} (hs : Kept pq s) :
    Kept pq (State.sweepClosed s k raw) := by
  unfold State.sweepClosed
  try dsimp only
  with_reducible repeat' first
    | assumption | intro _ | apply Kept.ite | apply State.refreshWant_kept | apply State.countRead_kept | apply State.sentinelRead_kept

theorem State.sweepOpen_kept {pq : List Instr} {s : State} {k : Nat} {r : DecodeResult} (hs : Kept pq s) :
    Kept pq (State.sweepOpen s k r) := by
  unfold State.sweepOpen
  try dsimp only
  with_reducible repeat' first
    | assumption | intro _ | apply Kept.ite | apply State.refreshWant_kept | apply State.searchPend_kept | apply State.countRead_kept
    | apply State.miscorrect_kept | apply State.xtsCheck_kept | apply State.cdcCount_kept

theorem execRetentionSweep_kept {pq : List Instr} {r : SweepRun} {s : State} (hs : Kept pq s) :
    KeptOut pq (execRetentionSweep r s) := by
  unfold execRetentionSweep
  try dsimp only
  apply Kept.next
  with_reducible repeat' first
    | assumption | intro _ | apply Kept.ite | apply BootStore.next_kept | apply State.sweepClosed_kept | apply State.sweepOpen_kept | apply hs
    | simp -zeta only [↓kept_mk] | apply KeptMk.same | apply KeptMk.setCon | apply KeptMk.setBst | apply KeptMk.setKpr | apply KeptMk.setRegs
    | apply KeptMk.setAll | apply ConsoleMk.same | apply ConsoleMk.setBuf | apply BootMk.same | apply KeeperMk.same | apply Kept.pending
    | apply Kept.regs | apply Kept.bst | apply Kept.kpr | apply Kept.con | exact Nat.zero_le _ | apply Kept.getD | exact nil_le | apply Kept.foldl_snd
    | apply Kept.foldl_fst | apply Kept.foldl

theorem State.patrolFind_kept {pq : List Instr} {s : State} {n : Nat} {flips : Option Nat} {queue : Bool} (hs : Kept pq s) :
    Kept pq (State.patrolFind s n flips queue) := by
  unfold State.patrolFind
  try dsimp only
  with_reducible repeat' first
    | assumption | intro _ | apply Kept.ite | apply State.raise_kept | apply State.refreshWant_kept | apply State.stat_kept
    | apply State.searchPend_kept | apply hs | simp -zeta only [↓kept_mk] | apply KeptMk.same | apply KeptMk.setCon | apply KeptMk.setBst
    | apply KeptMk.setKpr | apply KeptMk.setRegs | apply KeptMk.setAll | apply ConsoleMk.same | apply ConsoleMk.setBuf | apply BootMk.same
    | apply KeeperMk.same | apply Kept.pending | apply Kept.regs | apply Kept.bst | apply Kept.kpr | apply Kept.con | exact Nat.zero_le _
    | apply Kept.getD | exact nil_le | apply Kept.foldl_snd | apply Kept.foldl_fst | apply Kept.foldl | apply KeptO.none | apply KeptO.some
    | apply KeptO3.none | apply KeptO3.some | apply Kept.next | split

theorem State.patrolMove_kept {pq : List Instr} {s : State} {ks : List Nat} (hs : Kept pq s) :
    Kept pq (State.patrolMove s ks) := by
  unfold State.patrolMove
  try dsimp only
  with_reducible repeat' first
    | assumption | intro _ | apply Kept.ite | apply hs | simp -zeta only [↓kept_mk] | apply KeptMk.same | apply KeptMk.setCon | apply KeptMk.setBst
    | apply KeptMk.setKpr | apply KeptMk.setRegs | apply KeptMk.setAll | apply ConsoleMk.same | apply ConsoleMk.setBuf | apply BootMk.same
    | apply KeeperMk.same | apply Kept.pending | apply Kept.regs | apply Kept.bst | apply Kept.kpr | apply Kept.con | exact Nat.zero_le _
    | apply Kept.getD | exact nil_le | apply Kept.foldl_snd | apply Kept.foldl_fst | apply Kept.foldl | apply KeptO.none | apply KeptO.some
    | apply KeptO3.none | apply KeptO3.some | apply Kept.next | split

theorem State.patrolRead_kept {pq : List Instr} {s : State} {table : List (Nat × Bool)} {n : Nat} {raw : Option (List Nat)} {queue : Bool} (hs : Kept pq s) :
    Kept pq (State.patrolRead s table n raw queue).2 := by
  unfold State.patrolRead
  try dsimp only
  with_reducible repeat' first
    | assumption | intro _ | apply Kept.ite | apply State.sentinelRead_kept | apply State.sentinelRead_kept_of (by assumption)
    | apply State.patrolFind_kept | apply hs | simp -zeta only [↓kept_mk, ↓console_mk, ↓console_mk', ↓boot_mk, ↓keeper_mk] | apply KeptMk.same
    | apply KeptMk.setCon | apply KeptMk.setBst | apply KeptMk.setKpr | apply KeptMk.setRegs | apply KeptMk.setAll | apply ConsoleMk.same
    | apply ConsoleMk.setBuf | apply BootMk.same | apply KeeperMk.same | apply Kept.pending | apply Kept.regs | apply Kept.bst | apply Kept.kpr
    | apply Kept.con | exact Nat.zero_le _ | apply Kept.getD | exact nil_le | apply Kept.foldl_snd | apply Kept.foldl_fst | apply Kept.foldl
    | apply KeptO.none | apply KeptO.some | apply KeptO3.none | apply KeptO3.some | apply Kept.next | split

theorem State.patrolRead_kept_of {pq : List Instr} {s : State} {table : List (Nat × Bool)} {n : Nat} {raw : Option (List Nat)} {queue : Bool} {r0 : Bool} {r1 : State} (e : (State.patrolRead s table n raw queue) = (r0, r1)) (hs : Kept pq s) :
    Kept pq r1 := by
  have := State.patrolRead_kept (pq := pq) (s := s) (table := table) (n := n) (raw := raw) (queue := queue) hs
  rw [e] at this
  exact this

theorem State.patrolRate_kept {pq : List Instr} {s : State} {g : Fin 8} (hs : Kept pq s) :
    Kept pq (State.patrolRate s g) := by
  unfold State.patrolRate
  try dsimp only
  with_reducible repeat' first
    | assumption | intro _ | apply Kept.ite | apply State.setRf_kept | apply State.calibrate_kept | apply hs
    | simp -zeta only [↓kept_mk, ↓console_mk, ↓console_mk', ↓boot_mk, ↓keeper_mk] | apply KeptMk.same | apply KeptMk.setCon | apply KeptMk.setBst
    | apply KeptMk.setKpr | apply KeptMk.setRegs | apply KeptMk.setAll | apply ConsoleMk.same | apply ConsoleMk.setBuf | apply BootMk.same
    | apply KeeperMk.same | apply Kept.pending | apply Kept.regs | apply Kept.bst | apply Kept.kpr | apply Kept.con | exact Nat.zero_le _
    | apply Kept.getD | exact nil_le | apply Kept.foldl_snd | apply Kept.foldl_fst | apply Kept.foldl | apply KeptO.none | apply KeptO.some
    | apply KeptO3.none | apply KeptO3.some | apply Kept.next | split

theorem State.patrolHalf_kept {pq : List Instr} {s : State} {half : Nat} {ks : List (Nat × Option (List Nat))} (hs : Kept pq s) :
    Kept pq (State.patrolHalf s half ks) := by
  unfold State.patrolHalf
  try dsimp only
  with_reducible repeat' first
    | assumption | intro _ | apply Kept.ite | apply State.setReg_kept | apply State.setRf_kept | apply State.patrolRead_kept
    | apply State.patrolRead_kept_of (by assumption) | apply State.patrolRate_kept | apply hs | simp -zeta only [↓kept_mk] | apply KeptMk.same
    | apply KeptMk.setCon | apply KeptMk.setBst | apply KeptMk.setKpr | apply KeptMk.setRegs | apply KeptMk.setAll | apply ConsoleMk.same
    | apply ConsoleMk.setBuf | apply BootMk.same | apply KeeperMk.same | apply Kept.pending | apply Kept.regs | apply Kept.bst | apply Kept.kpr
    | apply Kept.con | exact Nat.zero_le _ | apply Kept.getD | exact nil_le | apply Kept.foldl_snd | apply Kept.foldl_fst | apply Kept.foldl

theorem execPatrolWake_kept {pq : List Instr} {raws : List (Option (List Nat))} {s : State} (hs : Kept pq s) :
    KeptOut pq (execPatrolWake raws s) := by
  unfold execPatrolWake
  try dsimp only
  apply Kept.next
  with_reducible repeat' first
    | assumption | intro _ | apply Kept.ite | apply BootStore.next_kept | apply State.stat_kept | apply State.patrolMove_kept
    | apply State.patrolHalf_kept | apply hs | simp -zeta only [↓kept_mk] | apply KeptMk.same

theorem State.finishFill_kept {pq : List Instr} {s : State} {n : Nat} (hs : Kept pq s) :
    Kept pq (State.finishFill s n) := by
  unfold State.finishFill
  try dsimp only
  with_reducible repeat' first
    | assumption | intro _ | apply Kept.ite | apply State.gal_kept | apply State.raise_kept | apply State.setGroup_kept
    | apply State.programmedOk_kept | apply State.moveProgram_kept | apply hs
    | simp -zeta only [↓kept_mk, ↓console_mk, ↓console_mk', ↓boot_mk, ↓keeper_mk] | apply KeptMk.same | apply KeptMk.setCon | apply KeptMk.setBst
    | apply KeptMk.setKpr | apply KeptMk.setRegs | apply KeptMk.setAll | apply ConsoleMk.same | apply ConsoleMk.setBuf | apply BootMk.same
    | apply KeeperMk.same | apply Kept.pending | apply Kept.regs | apply Kept.bst | apply Kept.kpr | apply Kept.con | exact Nat.zero_le _
    | apply Kept.getD | exact nil_le | apply Kept.foldl_snd | apply Kept.foldl_fst | apply Kept.foldl | apply KeptO.none | apply KeptO.some
    | apply KeptO3.none | apply KeptO3.some | apply Kept.next | split

theorem State.copyNow_kept {pq : List Instr} {s : State} {cause : Nat} {x : Nat × Loc} (hs : Kept pq s) :
    Kept pq (State.copyNow s cause x) := by
  unfold State.copyNow
  try dsimp only
  with_reducible repeat' first
    | assumption | intro _ | apply Kept.ite | apply State.cause_kept | apply State.newId_kept | apply State.newId_kept_of (by assumption)
    | apply State.pushEnc_kept | apply State.allocIn_kept | apply State.allocIn_kept_of (by assumption) | apply State.accJoin_kept
    | apply State.countRead_kept | apply State.cdcCount_kept | apply State.encoded_kept | apply State.finishFill_kept | apply hs
    | simp -zeta only [↓kept_mk] | apply KeptMk.same | apply KeptMk.setCon | apply KeptMk.setBst | apply KeptMk.setKpr | apply KeptMk.setRegs
    | apply KeptMk.setAll | apply ConsoleMk.same | apply ConsoleMk.setBuf | apply BootMk.same | apply KeeperMk.same | apply Kept.pending
    | apply Kept.regs | apply Kept.bst | apply Kept.kpr | apply Kept.con | exact Nat.zero_le _ | apply Kept.getD | exact nil_le | apply Kept.foldl_snd
    | apply Kept.foldl_fst | apply Kept.foldl | apply KeptO.none | apply KeptO.some | apply KeptO3.none | apply KeptO3.some | apply Kept.next | split

theorem State.lostCopy_kept {pq : List Instr} {s : State} {x : Nat × Loc} (hs : Kept pq s) :
    Kept pq (State.lostCopy s x) := by
  unfold State.lostCopy
  with_reducible repeat' first
    | assumption | intro _ | apply Kept.ite | apply State.searchPend_kept | apply State.countRead_kept | apply State.cdcCount_kept
    | apply State.retryNote_kept | apply State.uncNote_kept

theorem State.refreshNow_kept {pq : List Instr} {s : State} {lost : List Nat} {k : Nat} (hs : Kept pq s) :
    Kept pq (State.refreshNow s lost k) := by
  unfold State.refreshNow
  try dsimp only
  with_reducible repeat' first
    | assumption | intro _ | apply Kept.ite | apply State.openGroup_kept | apply State.openGroup_kept_of (by assumption) | apply State.swapOne_kept
    | apply State.finishFill_kept | apply State.copyNow_kept | apply State.lostCopy_kept | apply hs
    | simp -zeta only [↓kept_mk, ↓console_mk, ↓console_mk', ↓boot_mk, ↓keeper_mk] | apply KeptMk.same | apply KeptMk.setCon | apply KeptMk.setBst
    | apply KeptMk.setKpr | apply KeptMk.setRegs | apply KeptMk.setAll | apply ConsoleMk.same | apply ConsoleMk.setBuf | apply BootMk.same
    | apply KeeperMk.same | apply Kept.pending | apply Kept.regs | apply Kept.bst | apply Kept.kpr | apply Kept.con | exact Nat.zero_le _
    | apply Kept.getD | exact nil_le | apply Kept.foldl_snd | apply Kept.foldl_fst | apply Kept.foldl | apply KeptO.none | apply KeptO.some
    | apply KeptO3.none | apply KeptO3.some | apply Kept.next | split

theorem State.wakeOn_kept {pq : List Instr} {s : State} (hs : Kept pq s) :
    Kept pq (State.wakeOn s) := by
  unfold State.wakeOn
  try dsimp only
  with_reducible repeat' first
    | assumption | intro _ | apply Kept.ite | apply State.setRf_kept | apply State.driveWp_kept | apply hs | simp -zeta only [↓kept_mk]
    | apply KeptMk.same | apply KeptMk.setCon | apply KeptMk.setBst | apply KeptMk.setKpr | apply KeptMk.setRegs | apply KeptMk.setAll
    | apply ConsoleMk.same | apply ConsoleMk.setBuf | apply BootMk.same | apply KeeperMk.same | apply Kept.pending | apply Kept.regs | apply Kept.bst
    | apply Kept.kpr | apply Kept.con | exact Nat.zero_le _ | apply Kept.getD | exact nil_le | apply Kept.foldl_snd | apply Kept.foldl_fst
    | apply Kept.foldl

theorem State.wakeOff_kept {pq : List Instr} {s : State} {clk : Word} (hs : Kept pq s) :
    Kept pq (State.wakeOff s clk) := by
  unfold State.wakeOff
  try dsimp only
  with_reducible repeat' first
    | assumption | intro _ | apply Kept.ite | apply State.setReg_kept | apply State.driveWp_kept | apply hs | simp -zeta only [↓kept_mk]
    | apply KeptMk.same | apply KeptMk.setCon | apply KeptMk.setBst | apply KeptMk.setKpr | apply KeptMk.setRegs | apply KeptMk.setAll
    | apply ConsoleMk.same | apply ConsoleMk.setBuf | apply BootMk.same | apply KeeperMk.same | apply Kept.pending | apply Kept.regs | apply Kept.bst
    | apply Kept.kpr | apply Kept.con | exact Nat.zero_le _ | apply Kept.getD | exact nil_le | apply Kept.foldl_snd | apply Kept.foldl_fst
    | apply Kept.foldl

theorem State.wakeRefresh_kept {pq : List Instr} {s : State} {ks : List Nat} {r : RefreshRun} (hs : Kept pq s) :
    Kept pq (State.wakeRefresh s ks r) := by
  unfold State.wakeRefresh
  try dsimp only
  with_reducible repeat' first
    | assumption | intro _ | apply Kept.ite | apply State.refreshWant_kept | apply State.refreshNow_kept | apply hs | simp -zeta only [↓kept_mk]
    | apply KeptMk.same | apply KeptMk.setCon | apply KeptMk.setBst | apply KeptMk.setKpr | apply KeptMk.setRegs | apply KeptMk.setAll
    | apply ConsoleMk.same | apply ConsoleMk.setBuf | apply BootMk.same | apply KeeperMk.same | apply Kept.pending | apply Kept.regs | apply Kept.bst
    | apply Kept.kpr | apply Kept.con | exact Nat.zero_le _ | apply Kept.getD | exact nil_le | apply Kept.foldl_snd | apply Kept.foldl_fst
    | apply Kept.foldl

theorem execRefreshWake_kept {pq : List Instr} {r : RefreshRun} {s : State} (hs : Kept pq s) :
    KeptOut pq (execRefreshWake r s) := by
  unfold execRefreshWake
  try dsimp only
  apply Kept.next
  with_reducible repeat' first
    | assumption | intro _ | apply Kept.ite | apply BootStore.next_kept | apply State.checkpoint_kept | apply State.reloadRecords_kept
    | apply State.saveHist_kept | apply State.wakeOn_kept | apply State.wakeOff_kept | apply State.wakeRefresh_kept

end Sys2Proof.Machine
end

