-- ==== Sys2Proof/Laws/KeptPower.lean ====
section
/-! SUPPORT. The operations of Machine/Power.lean keep the queue of commands and the sound form of the state. -/

namespace Sys2Proof.Machine

theorem State.wantPs_kept {pq : List Instr} {s : State} {p : Fin 5} (hs : Kept pq s) :
    Kept pq (State.wantPs s p) := by
  unfold State.wantPs
  try dsimp only
  with_reducible repeat' first
    | assumption | intro _ | apply Kept.ite | apply hs | simp -zeta only [↓kept_mk] | apply KeptMk.same

theorem State.standby_kept {pq : List Instr} {s : State} {p : Nat} (hs : Kept pq s) :
    Kept pq (State.standby s p) := by
  unfold State.standby
  try dsimp only
  with_reducible repeat' first
    | assumption | intro _ | apply Kept.ite | apply State.order_kept | apply State.orderAll_kept | apply hs | simp -zeta only [↓kept_mk]
    | apply KeptMk.same

theorem State.cancelStandby_kept {pq : List Instr} {s : State} (hs : Kept pq s) :
    Kept pq (State.cancelStandby s) := by
  unfold State.cancelStandby
  try dsimp only
  with_reducible repeat' first
    | assumption | intro _ | apply Kept.ite | apply State.orderAll_kept | apply hs | simp -zeta only [↓kept_mk] | apply KeptMk.same

theorem State.wpLow_kept {pq : List Instr} {s : State} (hs : Kept pq s) :
    Kept pq (State.wpLow s) := by
  unfold State.wpLow
  with_reducible repeat' first
    | assumption | intro _ | apply Kept.ite | apply State.driveWp_kept | apply hs
    | simp -zeta only [↓kept_mk, ↓console_mk, ↓console_mk', ↓boot_mk, ↓keeper_mk] | apply KeptMk.same | apply KeptMk.setCon | apply KeptMk.setBst
    | apply KeptMk.setKpr | apply KeptMk.setRegs | apply KeptMk.setAll | apply ConsoleMk.same | apply ConsoleMk.setBuf | apply BootMk.same
    | apply KeeperMk.same | apply Kept.pending | apply Kept.regs | apply Kept.bst | apply Kept.kpr | apply Kept.con | exact Nat.zero_le _
    | apply Kept.getD | exact nil_le | apply Kept.foldl_snd | apply Kept.foldl_fst | apply Kept.foldl

theorem State.galOn_kept {pq : List Instr} {s : State} {g : Fin 8} (hs : Kept pq s) :
    Kept pq (State.galOn s g) := by
  unfold State.galOn
  try dsimp only
  with_reducible repeat' first
    | assumption | intro _ | apply Kept.ite | apply State.gal_kept | apply State.markRetrain_kept | apply State.limitRate_kept
    | apply State.driveWp_kept | apply hs | simp -zeta only [↓kept_mk, ↓console_mk, ↓console_mk', ↓boot_mk, ↓keeper_mk] | apply KeptMk.same
    | apply KeptMk.setCon | apply KeptMk.setBst | apply KeptMk.setKpr | apply KeptMk.setRegs | apply KeptMk.setAll | apply ConsoleMk.same
    | apply ConsoleMk.setBuf | apply BootMk.same | apply KeeperMk.same | apply Kept.pending | apply Kept.regs | apply Kept.bst | apply Kept.kpr
    | apply Kept.con | exact Nat.zero_le _ | apply Kept.getD | exact nil_le | apply Kept.foldl_snd | apply Kept.foldl_fst | apply Kept.foldl
    | apply KeptO.none | apply KeptO.some | apply KeptO3.none | apply KeptO3.some | apply Kept.next | split

theorem State.galsOn_kept {pq : List Instr} {s : State} (hs : Kept pq s) :
    Kept pq (State.galsOn s) := by
  unfold State.galsOn
  with_reducible repeat' first
    | assumption | intro _ | apply Kept.ite | apply State.galOn_kept | apply hs
    | simp -zeta only [↓kept_mk, ↓console_mk, ↓console_mk', ↓boot_mk, ↓keeper_mk] | apply KeptMk.same | apply KeptMk.setCon | apply KeptMk.setBst
    | apply KeptMk.setKpr | apply KeptMk.setRegs | apply KeptMk.setAll | apply ConsoleMk.same | apply ConsoleMk.setBuf | apply BootMk.same
    | apply KeeperMk.same | apply Kept.pending | apply Kept.regs | apply Kept.bst | apply Kept.kpr | apply Kept.con | exact Nat.zero_le _
    | apply Kept.getD | exact nil_le | apply Kept.foldl_snd | apply Kept.foldl_fst | apply Kept.foldl

theorem State.rootFallback_kept {pq : List Instr} {s : State} (hs : Kept pq s) :
    Kept pq (State.rootFallback s) := by
  unfold State.rootFallback
  try dsimp only
  with_reducible repeat' first
    | assumption | intro _ | apply Kept.ite | apply State.setRf_kept | apply State.markRetrain_kept | apply State.limitRate_kept | apply hs
    | simp -zeta only [↓kept_mk, ↓console_mk, ↓console_mk', ↓boot_mk, ↓keeper_mk] | apply KeptMk.same | apply KeptMk.setCon | apply KeptMk.setBst
    | apply KeptMk.setKpr | apply KeptMk.setRegs | apply KeptMk.setAll | apply ConsoleMk.same | apply ConsoleMk.setBuf | apply BootMk.same
    | apply KeeperMk.same | apply Kept.pending | apply Kept.regs | apply Kept.bst | apply Kept.kpr | apply Kept.con | exact Nat.zero_le _
    | apply Kept.getD | exact nil_le | apply Kept.foldl_snd | apply Kept.foldl_fst | apply Kept.foldl

theorem State.govZero_kept {pq : List Instr} {s : State} (hs : Kept pq s) :
    Kept pq (State.govZero s) := by
  unfold State.govZero
  try dsimp only
  with_reducible repeat' first
    | assumption | intro _ | apply Kept.ite | apply State.applyStep_kept | apply hs | simp -zeta only [↓kept_mk] | apply KeptMk.same

theorem State.enterPs3_kept {pq : List Instr} {s : State} (hs : Kept pq s) :
    Kept pq (State.enterPs3 s) := by
  unfold State.enterPs3
  try dsimp only
  with_reducible repeat' first
    | assumption | intro _ | apply Kept.ite | apply State.wpLow_kept | apply State.govZero_kept | apply hs | simp -zeta only [↓kept_mk]
    | apply KeptMk.same

theorem State.leavePs3_kept {pq : List Instr} {s : State} (hs : Kept pq s) :
    Kept pq (State.leavePs3 s) := by
  unfold State.leavePs3
  try dsimp only
  with_reducible repeat' first
    | assumption | intro _ | apply Kept.ite | apply State.orderAll_kept | apply State.galsOn_kept | apply hs | simp -zeta only [↓kept_mk]
    | apply KeptMk.same

theorem State.doorbellWake_kept {pq : List Instr} {s : State} (hs : Kept pq s) :
    Kept pq (State.doorbellWake s) := by
  unfold State.doorbellWake
  with_reducible repeat' first
    | assumption | intro _ | apply Kept.ite | apply State.cancelStandby_kept | apply State.leavePs3_kept

theorem State.accessWake_kept {pq : List Instr} {s : State} (hs : Kept pq s) :
    Kept pq (State.accessWake s) := by
  unfold State.accessWake
  with_reducible repeat' first
    | assumption | intro _ | apply Kept.ite | apply State.leavePs3_kept

theorem execPs3Entry_kept {pq : List Instr} {s : State} (hs : Kept pq s) :
    KeptOut pq (execPs3Entry s) := by
  unfold execPs3Entry
  try dsimp only
  apply Kept.next
  with_reducible repeat' first
    | assumption | intro _ | apply Kept.ite | apply BootStore.next_kept | apply State.finishJob_kept | apply State.standby_kept
    | apply State.enterPs3_kept

theorem State.enterPs4_kept {pq : List Instr} {s : State} (hs : Kept pq s) :
    Kept pq (State.enterPs4 s) := by
  unfold State.enterPs4
  try dsimp only
  with_reducible repeat' first
    | assumption | intro _ | apply Kept.ite | apply State.setReg_kept | apply Keeper.scramble_kept | apply State.checkpoint_kept
    | apply State.saveHist_kept | apply State.wpLow_kept | apply State.govZero_kept | apply State.uart_kept | apply hs
    | simp -zeta only [↓kept_mk, ↓console_mk'] | apply KeptMk.same | apply KeptMk.setCon | apply KeptMk.setBst | apply KeptMk.setKpr
    | apply KeptMk.setRegs | apply KeptMk.setAll | apply ConsoleMk.same | apply ConsoleMk.setBuf | apply BootMk.same | apply KeeperMk.same
    | apply Kept.pending | apply Kept.regs | apply Kept.bst | apply Kept.kpr | apply Kept.con | exact Nat.zero_le _ | apply Kept.getD | exact nil_le

theorem execPs4Entry_kept {pq : List Instr} {s : State} (hs : Kept pq s) :
    KeptOut pq (execPs4Entry s) := by
  unfold execPs4Entry
  try dsimp only
  apply Kept.next
  with_reducible repeat' first
    | assumption | intro _ | apply Kept.ite | apply BootStore.next_kept | apply State.finishJob_kept | apply State.standby_kept
    | apply State.enterPs4_kept

theorem State.beginWake_kept {pq : List Instr} {s : State} (hs : Kept pq s) :
    Kept pq (State.beginWake s) := by
  unfold State.beginWake
  try dsimp only
  with_reducible repeat' first
    | assumption | intro _ | apply Kept.ite | apply hs | simp -zeta only [↓kept_mk] | apply KeptMk.same

theorem execClkreqAsserted_kept {pq : List Instr} {s : State} (hs : Kept pq s) :
    KeptOut pq (execClkreqAsserted s) := by
  unfold execClkreqAsserted
  try dsimp only
  apply Kept.next
  with_reducible repeat' first
    | assumption | intro _ | apply Kept.ite | apply BootStore.next_kept | apply State.beginWake_kept | apply hs | simp -zeta only [↓kept_mk]
    | apply KeptMk.same

theorem State.startPorts_kept {pq : List Instr} {s : State} (hs : Kept pq s) :
    Kept pq (State.startPorts s) := by
  unfold State.startPorts
  try dsimp only
  with_reducible repeat' first
    | assumption | intro _ | apply Kept.ite | apply hs | simp -zeta only [↓kept_mk] | apply KeptMk.same

theorem execPs4Exit_kept {pq : List Instr} {s : State} (hs : Kept pq s) :
    KeptOut pq (execPs4Exit s) := by
  unfold execPs4Exit
  try dsimp only
  apply Kept.next
  with_reducible repeat' first
    | assumption | intro _ | apply Kept.ite | apply State.setReg_kept | apply State.kprFill_kept | apply BootStore.next_kept
    | apply State.loadKeys_kept | apply State.saveHist_kept | apply State.galsOn_kept | apply State.startPorts_kept | apply hs
    | simp -zeta only [↓kept_mk] | apply KeptMk.same

theorem execApstIdleTimeout_kept {pq : List Instr} {ps4 : Bool} {s : State} (hs : Kept pq s) :
    KeptOut pq (execApstIdleTimeout ps4 s) := by
  unfold execApstIdleTimeout
  apply Kept.next
  with_reducible repeat' first
    | assumption | intro _ | apply Kept.ite | apply BootStore.next_kept | apply State.wantPs_kept

theorem execSleepTimeout_kept {pq : List Instr} {s : State} (hs : Kept pq s) :
    KeptOut pq (execSleepTimeout s) := by
  unfold execSleepTimeout
  try dsimp only
  apply Kept.next
  with_reducible repeat' first
    | assumption | intro _ | apply Kept.ite | apply BootStore.next_kept | apply State.finishJob_kept | apply State.cancelStandby_kept | apply hs
    | simp -zeta only [↓kept_mk] | apply KeptMk.same | apply KeptMk.setCon | apply KeptMk.setBst | apply KeptMk.setKpr | apply KeptMk.setRegs
    | apply KeptMk.setAll | apply ConsoleMk.same | apply ConsoleMk.setBuf | apply BootMk.same | apply KeeperMk.same | apply Kept.pending
    | apply Kept.regs | apply Kept.bst | apply Kept.kpr | apply Kept.con | exact Nat.zero_le _ | apply Kept.getD | exact nil_le | apply Kept.foldl_snd
    | apply Kept.foldl_fst | apply Kept.foldl | apply KeptO.none | apply KeptO.some | apply KeptO3.none | apply KeptO3.some | apply Kept.next | split

theorem execL12Entry_kept {pq : List Instr} {s : State} (hs : Kept pq s) :
    KeptOut pq (execL12Entry s) := by
  unfold execL12Entry
  try dsimp only
  apply Kept.next
  with_reducible repeat' first
    | assumption | intro _ | apply Kept.ite | apply BootStore.next_kept | apply State.rootFallback_kept | apply hs | simp -zeta only [↓kept_mk]
    | apply KeptMk.same

end Sys2Proof.Machine
end

