-- ==== Sys2Proof/Laws/KeptFrontQueues.lean ====
section
/-! SUPPORT. The operations of Machine/FrontQueues.lean keep the queue of commands and the sound form of the state. -/

namespace Sys2Proof.Machine

theorem State.linked_kept {pq : List Instr} {s : State} (hs : Kept pq s) :
    Kept pq (State.linked s) := by
  unfold State.linked
  try dsimp only
  with_reducible repeat' first
    | assumption | intro _ | apply Kept.ite | apply hs | simp -zeta only [↓kept_mk] | apply KeptMk.same | apply KeptMk.setCon | apply KeptMk.setBst
    | apply KeptMk.setKpr | apply KeptMk.setRegs | apply KeptMk.setAll | apply ConsoleMk.same | apply ConsoleMk.setBuf | apply BootMk.same
    | apply KeeperMk.same | apply Kept.pending | apply Kept.regs | apply Kept.bst | apply Kept.kpr | apply Kept.con | exact Nat.zero_le _
    | apply Kept.getD | exact nil_le | apply Kept.foldl_snd | apply Kept.foldl_fst | apply Kept.foldl | apply KeptO.none | apply KeptO.some
    | apply KeptO3.none | apply KeptO3.some | apply Kept.next | split

theorem State.sqTail_kept {pq : List Instr} {s : State} {q : Nat} {tail : Nat} (hs : Kept pq s) :
    Kept pq (State.sqTail s q tail) := by
  unfold State.sqTail
  try dsimp only
  with_reducible repeat' first
    | assumption | intro _ | apply Kept.ite | apply State.doorbellWake_kept | apply State.linked_kept | apply hs | simp -zeta only [↓kept_mk]
    | apply KeptMk.same | apply KeptMk.setCon | apply KeptMk.setBst | apply KeptMk.setKpr | apply KeptMk.setRegs | apply KeptMk.setAll
    | apply ConsoleMk.same | apply ConsoleMk.setBuf | apply BootMk.same | apply KeeperMk.same | apply Kept.pending | apply Kept.regs | apply Kept.bst
    | apply Kept.kpr | apply Kept.con | exact Nat.zero_le _ | apply Kept.getD | exact nil_le | apply Kept.foldl_snd | apply Kept.foldl_fst
    | apply Kept.foldl | apply KeptO.none | apply KeptO.some | apply KeptO3.none | apply KeptO3.some | apply Kept.next | split

theorem execSqTailDoorbell_kept {pq : List Instr} {q : Fin 129} {tail : BitVec 16} {s : State} (hs : Kept pq s) :
    KeptOut pq (execSqTailDoorbell q tail s) := by
  unfold execSqTailDoorbell
  apply Kept.next
  with_reducible repeat' first
    | assumption | intro _ | apply Kept.ite | apply BootStore.next_kept | apply State.sqTail_kept

theorem State.cqHead_kept {pq : List Instr} {s : State} {q : Nat} {head : Nat} (hs : Kept pq s) :
    Kept pq (State.cqHead s q head) := by
  unfold State.cqHead
  try dsimp only
  with_reducible repeat' first
    | assumption | intro _ | apply Kept.ite | apply State.doorbellWake_kept | apply State.linked_kept | apply hs | simp -zeta only [↓kept_mk]
    | apply KeptMk.same | apply KeptMk.setCon | apply KeptMk.setBst | apply KeptMk.setKpr | apply KeptMk.setRegs | apply KeptMk.setAll
    | apply ConsoleMk.same | apply ConsoleMk.setBuf | apply BootMk.same | apply KeeperMk.same | apply Kept.pending | apply Kept.regs | apply Kept.bst
    | apply Kept.kpr | apply Kept.con | exact Nat.zero_le _ | apply Kept.getD | exact nil_le | apply Kept.foldl_snd | apply Kept.foldl_fst
    | apply Kept.foldl | apply KeptO.none | apply KeptO.some | apply KeptO3.none | apply KeptO3.some | apply Kept.next | split

theorem execCqHeadDoorbell_kept {pq : List Instr} {q : Fin 129} {head : BitVec 16} {s : State} (hs : Kept pq s) :
    KeptOut pq (execCqHeadDoorbell q head s) := by
  unfold execCqHeadDoorbell
  apply Kept.next
  with_reducible repeat' first
    | assumption | intro _ | apply Kept.ite | apply BootStore.next_kept | apply State.cqHead_kept

theorem State.fetchOne_kept {pq : List Instr} {s : State} {q : Fin 129} {e : Sqe} (hs : Kept pq s) :
    Kept pq (State.fetchOne s q e) := by
  unfold State.fetchOne
  try dsimp only
  with_reducible repeat' first
    | assumption | intro _ | apply Kept.ite | apply State.done_kept | apply hs | simp -zeta only [↓kept_mk] | apply KeptMk.same | apply KeptMk.setCon
    | apply KeptMk.setBst | apply KeptMk.setKpr | apply KeptMk.setRegs | apply KeptMk.setAll | apply ConsoleMk.same | apply ConsoleMk.setBuf
    | apply BootMk.same | apply KeeperMk.same | apply Kept.pending | apply Kept.regs | apply Kept.bst | apply Kept.kpr | apply Kept.con
    | exact Nat.zero_le _ | apply Kept.getD | exact nil_le | apply Kept.foldl_snd | apply Kept.foldl_fst | apply Kept.foldl | apply KeptO.none
    | apply KeptO.some | apply KeptO3.none | apply KeptO3.some | apply Kept.next | split

theorem execCommandFetch_kept {pq : List Instr} {q : Fin 129} {sqes : List Sqe} {s : State} (hs : Kept pq s) :
    KeptOut pq (execCommandFetch q sqes s) := by
  unfold execCommandFetch
  try dsimp only
  apply Kept.next
  with_reducible repeat' first
    | assumption | intro _ | apply Kept.ite | apply BootStore.next_kept | apply State.fetchOne_kept | apply hs | simp -zeta only [↓kept_mk]
    | apply KeptMk.same | apply KeptMk.setCon | apply KeptMk.setBst | apply KeptMk.setKpr | apply KeptMk.setRegs | apply KeptMk.setAll
    | apply ConsoleMk.same | apply ConsoleMk.setBuf | apply BootMk.same | apply KeeperMk.same | apply Kept.pending | apply Kept.regs | apply Kept.bst
    | apply Kept.kpr | apply Kept.con | exact Nat.zero_le _ | apply Kept.getD | exact nil_le | apply Kept.foldl_snd | apply Kept.foldl_fst
    | apply Kept.foldl | apply KeptO.none | apply KeptO.some | apply KeptO3.none | apply KeptO3.some | apply Kept.next | split

theorem State.ccEnable_kept {pq : List Instr} {s : State} {crime : Bool} (hs : Kept pq s) :
    Kept pq (State.ccEnable s crime) := by
  unfold State.ccEnable
  try dsimp only
  with_reducible repeat' first
    | assumption | intro _ | apply Kept.ite | apply State.requestReset_kept | apply State.sanitizeOn_kept | apply State.accessWake_kept
    | apply State.linked_kept | apply hs | simp -zeta only [↓kept_mk] | apply KeptMk.same

theorem execControllerReady_kept {pq : List Instr} {deadline : Bool} {s : State} (hs : Kept pq s) :
    KeptOut pq (execControllerReady deadline s) := by
  unfold execControllerReady
  try dsimp only
  apply Kept.next
  with_reducible repeat' first
    | assumption | intro _ | apply Kept.ite | apply BootStore.next_kept | apply hs | simp -zeta only [↓kept_mk] | apply KeptMk.same

theorem State.controllerReset_kept {pq : List Instr} {s : State} {src : Nat} (hs : Kept pq s) :
    Kept pq (State.controllerReset s src) := by
  unfold State.controllerReset
  try dsimp only
  with_reducible repeat' first
    | assumption | intro _ | apply Kept.ite | apply State.resetRegs_kept | apply State.requestReset_kept | apply hs | simp -zeta only [↓kept_mk]
    | apply KeptMk.same

theorem State.ccDisable_kept {pq : List Instr} {s : State} (hs : Kept pq s) :
    Kept pq (State.ccDisable s) := by
  unfold State.ccDisable
  with_reducible repeat' first
    | assumption | intro _ | apply Kept.ite | apply State.accessWake_kept | apply State.controllerReset_kept

theorem execCcEnCleared_kept {pq : List Instr} {s : State} (hs : Kept pq s) :
    KeptOut pq (execCcEnCleared s) := by
  unfold execCcEnCleared
  apply Kept.next
  with_reducible repeat' first
    | assumption | intro _ | apply Kept.ite | apply BootStore.next_kept | apply State.ccDisable_kept

theorem execFlr_kept {pq : List Instr} {s : State} (hs : Kept pq s) :
    KeptOut pq (execFlr s) := by
  unfold execFlr
  apply Kept.next
  with_reducible repeat' first
    | assumption | intro _ | apply Kept.ite | apply BootStore.next_kept | apply State.controllerReset_kept

theorem State.nssrWrite_kept {pq : List Instr} {s : State} {value : Word} (hs : Kept pq s) :
    Kept pq (State.nssrWrite s value) := by
  unfold State.nssrWrite
  with_reducible repeat' first
    | assumption | intro _ | apply Kept.ite | apply State.requestFused_kept | apply State.accessWake_kept

theorem execNvmSubsystemReset_kept {pq : List Instr} {value : Word} {s : State} (hs : Kept pq s) :
    KeptOut pq (execNvmSubsystemReset value s) := by
  unfold execNvmSubsystemReset
  apply Kept.next
  with_reducible repeat' first
    | assumption | intro _ | apply Kept.ite | apply BootStore.next_kept | apply State.nssrWrite_kept

theorem State.shutNormal_kept {pq : List Instr} {s : State} (hs : Kept pq s) :
    Kept pq (State.shutNormal s) := by
  unfold State.shutNormal
  try dsimp only
  with_reducible repeat' first
    | assumption | intro _ | apply Kept.ite | apply State.settle_kept | apply State.saveHist_kept | apply State.accessWake_kept | apply hs
    | simp -zeta only [↓kept_mk] | apply KeptMk.same

theorem execNormalShutdown_kept {pq : List Instr} {s : State} (hs : Kept pq s) :
    KeptOut pq (execNormalShutdown s) := by
  unfold execNormalShutdown
  apply Kept.next
  with_reducible repeat' first
    | assumption | intro _ | apply Kept.ite | apply BootStore.next_kept | apply State.shutNormal_kept

theorem State.abandonStaging_kept {pq : List Instr} {s : State} (hs : Kept pq s) :
    Kept pq (State.abandonStaging s) := by
  unfold State.abandonStaging
  try dsimp only
  with_reducible repeat' first
    | assumption | intro _ | apply Kept.ite | apply hs | simp -zeta only [↓kept_mk] | apply KeptMk.same

theorem State.shutAbrupt_kept {pq : List Instr} {s : State} (hs : Kept pq s) :
    Kept pq (State.shutAbrupt s) := by
  unfold State.shutAbrupt
  try dsimp only
  with_reducible repeat' first
    | assumption | intro _ | apply Kept.ite | apply State.accessWake_kept | apply State.abandonStaging_kept | apply hs | simp -zeta only [↓kept_mk]
    | apply KeptMk.same

theorem execAbruptShutdown_kept {pq : List Instr} {s : State} (hs : Kept pq s) :
    KeptOut pq (execAbruptShutdown s) := by
  unfold execAbruptShutdown
  apply Kept.next
  with_reducible repeat' first
    | assumption | intro _ | apply Kept.ite | apply BootStore.next_kept | apply State.shutAbrupt_kept

theorem execCreateIoCq_kept {pq : List Instr} {h : Hdr} {qid : BitVec 16} {qsize : BitVec 16} {pc : Bool} {iv : BitVec 16} {s : State} (hs : Kept pq s) :
    KeptOut pq (execCreateIoCq h qid qsize pc iv s) := by
  unfold execCreateIoCq
  try dsimp only
  apply Kept.next
  with_reducible repeat' first
    | assumption | intro _ | apply Kept.ite | apply BootStore.next_kept | apply State.host_kept | apply State.done_kept | apply State.good_kept
    | apply hs | simp -zeta only [↓kept_mk] | apply KeptMk.same

theorem execCreateIoSq_kept {pq : List Instr} {h : Hdr} {qid : BitVec 16} {qsize : BitVec 16} {pc : Bool} {cqid : BitVec 16} {s : State} (hs : Kept pq s) :
    KeptOut pq (execCreateIoSq h qid qsize pc cqid s) := by
  unfold execCreateIoSq
  try dsimp only
  apply Kept.next
  with_reducible repeat' first
    | assumption | intro _ | apply Kept.ite | apply BootStore.next_kept | apply State.host_kept | apply State.done_kept | apply State.good_kept
    | apply hs | simp -zeta only [↓kept_mk] | apply KeptMk.same

theorem execDeleteIoSq_kept {pq : List Instr} {h : Hdr} {qid : BitVec 16} {s : State} (hs : Kept pq s) :
    KeptOut pq (execDeleteIoSq h qid s) := by
  unfold execDeleteIoSq
  try dsimp only
  apply Kept.next
  with_reducible repeat' first
    | assumption | intro _ | apply Kept.ite | apply BootStore.next_kept | apply State.host_kept | apply State.done_kept | apply State.good_kept
    | apply hs | simp -zeta only [↓kept_mk] | apply KeptMk.same | apply KeptMk.setCon | apply KeptMk.setBst | apply KeptMk.setKpr
    | apply KeptMk.setRegs | apply KeptMk.setAll | apply ConsoleMk.same | apply ConsoleMk.setBuf | apply BootMk.same | apply KeeperMk.same
    | apply Kept.pending | apply Kept.regs | apply Kept.bst | apply Kept.kpr | apply Kept.con | exact Nat.zero_le _ | apply Kept.getD | exact nil_le
    | apply Kept.foldl_snd | apply Kept.foldl_fst | apply Kept.foldl

theorem execDeleteIoCq_kept {pq : List Instr} {h : Hdr} {qid : BitVec 16} {s : State} (hs : Kept pq s) :
    KeptOut pq (execDeleteIoCq h qid s) := by
  unfold execDeleteIoCq
  try dsimp only
  apply Kept.next
  with_reducible repeat' first
    | assumption | intro _ | apply Kept.ite | apply BootStore.next_kept | apply State.host_kept | apply State.done_kept | apply State.good_kept
    | apply hs | simp -zeta only [↓kept_mk] | apply KeptMk.same

theorem State.stopCommand_kept {pq : List Instr} {s : State} {h : Hdr} (hs : Kept pq s) :
    Kept pq (State.stopCommand s h) := by
  unfold State.stopCommand
  try dsimp only
  with_reducible repeat' first
    | assumption | intro _ | apply Kept.ite | apply State.host_kept | apply State.deallocate_kept | apply State.secureDrop_kept | apply hs
    | simp -zeta only [↓kept_mk] | apply KeptMk.same | apply KeptMk.setCon | apply KeptMk.setBst | apply KeptMk.setKpr | apply KeptMk.setRegs
    | apply KeptMk.setAll | apply ConsoleMk.same | apply ConsoleMk.setBuf | apply BootMk.same | apply KeeperMk.same | apply Kept.pending
    | apply Kept.regs | apply Kept.bst | apply Kept.kpr | apply Kept.con | exact Nat.zero_le _ | apply Kept.getD | exact nil_le | apply Kept.foldl_snd
    | apply Kept.foldl_fst | apply Kept.foldl | apply KeptO.none | apply KeptO.some | apply KeptO3.none | apply KeptO3.some | apply Kept.next | split

theorem execAbort_kept {pq : List Instr} {h : Hdr} {sqid : BitVec 16} {cid : BitVec 16} {s : State} (hs : Kept pq s) :
    KeptOut pq (execAbort h sqid cid s) := by
  unfold execAbort
  try dsimp only
  apply Kept.next
  with_reducible repeat' first
    | assumption | intro _ | apply Kept.ite | apply State.tethSend_kept | apply BootStore.next_kept | apply State.host_kept | apply State.done_kept
    | apply State.good_kept | apply State.stopCommand_kept | apply hs | simp -zeta only [↓kept_mk] | apply KeptMk.same | apply KeptMk.setCon
    | apply KeptMk.setBst | apply KeptMk.setKpr | apply KeptMk.setRegs | apply KeptMk.setAll | apply ConsoleMk.same | apply ConsoleMk.setBuf
    | apply BootMk.same | apply KeeperMk.same | apply Kept.pending | apply Kept.regs | apply Kept.bst | apply Kept.kpr | apply Kept.con
    | exact Nat.zero_le _ | apply Kept.getD | exact nil_le | apply Kept.foldl_snd | apply Kept.foldl_fst | apply Kept.foldl | apply KeptO.none
    | apply KeptO.some | apply KeptO3.none | apply KeptO3.some | apply Kept.next | split

theorem execAsyncEventRequest_kept {pq : List Instr} {h : Hdr} {s : State} (hs : Kept pq s) :
    KeptOut pq (execAsyncEventRequest h s) := by
  unfold execAsyncEventRequest
  try dsimp only
  apply Kept.next
  with_reducible repeat' first
    | assumption | intro _ | apply Kept.ite | apply BootStore.next_kept | apply State.host_kept | apply State.done_kept | apply hs
    | simp -zeta only [↓kept_mk] | apply KeptMk.same | apply KeptMk.setCon | apply KeptMk.setBst | apply KeptMk.setKpr | apply KeptMk.setRegs
    | apply KeptMk.setAll | apply ConsoleMk.same | apply ConsoleMk.setBuf | apply BootMk.same | apply KeeperMk.same | apply Kept.pending
    | apply Kept.regs | apply Kept.bst | apply Kept.kpr | apply Kept.con | exact Nat.zero_le _ | apply Kept.getD | exact nil_le | apply Kept.foldl_snd
    | apply Kept.foldl_fst | apply Kept.foldl | apply KeptO.none | apply KeptO.some | apply KeptO3.none | apply KeptO3.some | apply Kept.next | split

theorem execInterruptCoalescingTimeout_kept {pq : List Instr} {iv : Fin 129} {s : State} (hs : Kept pq s) :
    KeptOut pq (execInterruptCoalescingTimeout iv s) := by
  unfold execInterruptCoalescingTimeout
  try dsimp only
  apply Kept.next
  with_reducible repeat' first
    | assumption | intro _ | apply Kept.ite | apply BootStore.next_kept | apply hs | simp -zeta only [↓kept_mk] | apply KeptMk.same

theorem State.cutOff_kept {pq : List Instr} {s : State} {h : Hdr} (hs : Kept pq s) :
    Kept pq (State.cutOff s h) := by
  unfold State.cutOff
  try dsimp only
  with_reducible repeat' first
    | assumption | intro _ | apply Kept.ite | apply State.stopCommand_kept | apply hs | simp -zeta only [↓kept_mk] | apply KeptMk.same

theorem execCommandTimerExpiry_kept {pq : List Instr} {h : Hdr} {s : State} (hs : Kept pq s) :
    KeptOut pq (execCommandTimerExpiry h s) := by
  unfold execCommandTimerExpiry
  try dsimp only
  apply Kept.next
  with_reducible repeat' first
    | assumption | intro _ | apply Kept.ite | apply State.raise_kept | apply BootStore.next_kept | apply State.done_kept | apply State.cutOff_kept
    | apply hs | simp -zeta only [↓kept_mk, ↓console_mk, ↓console_mk', ↓boot_mk, ↓keeper_mk] | apply KeptMk.same | apply KeptMk.setCon
    | apply KeptMk.setBst | apply KeptMk.setKpr | apply KeptMk.setRegs | apply KeptMk.setAll | apply ConsoleMk.same | apply ConsoleMk.setBuf
    | apply BootMk.same | apply KeeperMk.same | apply Kept.pending | apply Kept.regs | apply Kept.bst | apply Kept.kpr | apply Kept.con
    | exact Nat.zero_le _ | apply Kept.getD | exact nil_le | apply Kept.foldl_snd | apply Kept.foldl_fst | apply Kept.foldl | apply KeptO.none
    | apply KeptO.some | apply KeptO3.none | apply KeptO3.some | apply Kept.next | split

theorem execTlerExpiry_kept {pq : List Instr} {h : Hdr} {s : State} (hs : Kept pq s) :
    KeptOut pq (execTlerExpiry h s) := by
  unfold execTlerExpiry
  try dsimp only
  apply Kept.next
  with_reducible repeat' first
    | assumption | intro _ | apply Kept.ite | apply BootStore.next_kept | apply State.host_kept | apply State.ioEnd_kept | apply State.abandon_kept
    | apply State.cutOff_kept | apply hs | simp -zeta only [↓kept_mk, ↓console_mk, ↓console_mk', ↓boot_mk, ↓keeper_mk] | apply KeptMk.same
    | apply KeptMk.setCon | apply KeptMk.setBst | apply KeptMk.setKpr | apply KeptMk.setRegs | apply KeptMk.setAll | apply ConsoleMk.same
    | apply ConsoleMk.setBuf | apply BootMk.same | apply KeeperMk.same | apply Kept.pending | apply Kept.regs | apply Kept.bst | apply Kept.kpr
    | apply Kept.con | exact Nat.zero_le _ | apply Kept.getD | exact nil_le | apply Kept.foldl_snd | apply Kept.foldl_fst | apply Kept.foldl
    | apply KeptO.none | apply KeptO.some | apply KeptO3.none | apply KeptO3.some | apply Kept.next | split

theorem execStagingDrain_kept {pq : List Instr} {s : State} (hs : Kept pq s) :
    KeptOut pq (execStagingDrain s) := by
  unfold execStagingDrain
  try dsimp only
  apply Kept.next
  with_reducible repeat' first
    | assumption | intro _ | apply Kept.ite | apply BootStore.next_kept | apply hs | simp -zeta only [↓kept_mk] | apply KeptMk.same

end Sys2Proof.Machine
end

