-- ==== Sys2Proof/Laws/KeptPcie.lean ====
section
/-! SUPPORT. The operations of Machine/Pcie.lean keep the queue of commands and the sound form of the state. -/

namespace Sys2Proof.Machine

theorem State.ccWrite_kept {pq : List Instr} {s : State} {v : Word} (hs : Kept pq s) :
    Kept pq (State.ccWrite s v) := by
  unfold State.ccWrite
  try dsimp only
  with_reducible repeat' first
    | assumption | intro _ | apply Kept.ite | apply State.ccEnable_kept | apply State.ccDisable_kept | apply State.shutNormal_kept
    | apply State.shutAbrupt_kept | apply hs | simp -zeta only [↓kept_mk] | apply KeptMk.same

theorem State.whileOff_kept {pq : List Instr} {s : State} {f : Front → Front} (hs : Kept pq s) :
    Kept pq (State.whileOff s f) := by
  unfold State.whileOff
  try dsimp only
  with_reducible repeat' first
    | assumption | intro _ | apply Kept.ite | apply hs | simp -zeta only [↓kept_mk] | apply KeptMk.same

theorem State.barWriteDword_kept {pq : List Instr} {s : State} {off : Nat} {v : Word} (hs : Kept pq s) :
    Kept pq (State.barWriteDword s off v) := by
  unfold State.barWriteDword
  try dsimp only
  with_reducible repeat' first
    | assumption | intro _ | apply Kept.ite | apply State.sqTail_kept | apply State.cqHead_kept | apply State.nssrWrite_kept
    | apply State.ccWrite_kept | apply State.whileOff_kept | apply Run.write_kept | apply hs | simp -zeta only [↓kept_mk] | apply KeptMk.same
    | apply KeptMk.setCon | apply KeptMk.setBst | apply KeptMk.setKpr | apply KeptMk.setRegs | apply KeptMk.setAll | apply ConsoleMk.same
    | apply ConsoleMk.setBuf | apply BootMk.same | apply KeeperMk.same | apply Kept.pending | apply Kept.regs | apply Kept.bst | apply Kept.kpr
    | apply Kept.con | exact Nat.zero_le _ | apply Kept.getD | exact nil_le | apply Kept.foldl_snd | apply Kept.foldl_fst | apply Kept.foldl
    | apply KeptO.none | apply KeptO.some | apply KeptO3.none | apply KeptO3.some | apply Kept.next | split

theorem State.barWrite_kept {pq : List Instr} {s : State} {off : Nat} {width : Nat} {v : Nat} (hs : Kept pq s) :
    Kept pq (State.barWrite s off width v) := by
  unfold State.barWrite
  try dsimp only
  with_reducible repeat' first
    | assumption | intro _ | apply Kept.ite | apply State.accessWake_kept | apply State.linked_kept | apply State.barWriteDword_kept

theorem State.cfgWrite_kept {pq : List Instr} {s : State} {r : CfgReg} {v : Word} (hs : Kept pq s) :
    Kept pq (State.cfgWrite s r v) := by
  unfold State.cfgWrite
  try dsimp only
  with_reducible repeat' first
    | assumption | intro _ | apply Kept.ite | apply Keeper.put_kept | apply State.controllerReset_kept | apply hs | simp -zeta only [↓kept_mk]
    | apply KeptMk.same | apply KeptMk.setCon | apply KeptMk.setBst | apply KeptMk.setKpr | apply KeptMk.setRegs | apply KeptMk.setAll
    | apply ConsoleMk.same | apply ConsoleMk.setBuf | apply BootMk.same | apply KeeperMk.same | apply Kept.pending | apply Kept.regs | apply Kept.bst
    | apply Kept.kpr | apply Kept.con | exact Nat.zero_le _ | apply Kept.getD | exact nil_le | apply Kept.foldl_snd | apply Kept.foldl_fst
    | apply Kept.foldl | apply KeptO.none | apply KeptO.some | apply KeptO3.none | apply KeptO3.some | apply Kept.next | split

theorem State.linkError_kept {pq : List Instr} {s : State} {uncorr : Bool} {bit : Fin 32} {header : List Word} (hs : Kept pq s) :
    Kept pq (State.linkError s uncorr bit header) := by
  unfold State.linkError
  try dsimp only
  with_reducible repeat' first
    | assumption | intro _ | apply Kept.ite | apply hs | simp -zeta only [↓kept_mk] | apply KeptMk.same

theorem State.hostAccess_kept {pq : List Instr} {s : State} {a : HostAccess} (hs : Kept pq s) :
    Kept pq (State.hostAccess s a) := by
  unfold State.hostAccess
  try dsimp only
  with_reducible repeat' first
    | assumption | intro _ | apply Kept.ite | apply State.accessWake_kept | apply State.linked_kept | apply State.barWrite_kept
    | apply State.cfgWrite_kept | apply State.linkError_kept | apply hs | simp -zeta only [↓kept_mk, ↓console_mk, ↓console_mk', ↓boot_mk, ↓keeper_mk]
    | apply KeptMk.same | apply KeptMk.setCon | apply KeptMk.setBst | apply KeptMk.setKpr | apply KeptMk.setRegs | apply KeptMk.setAll
    | apply ConsoleMk.same | apply ConsoleMk.setBuf | apply BootMk.same | apply KeeperMk.same | apply Kept.pending | apply Kept.regs | apply Kept.bst
    | apply Kept.kpr | apply Kept.con | exact Nat.zero_le _ | apply Kept.getD | exact nil_le | apply Kept.foldl_snd | apply Kept.foldl_fst
    | apply Kept.foldl | apply KeptO.none | apply KeptO.some | apply KeptO3.none | apply KeptO3.some | apply Kept.next | split

theorem execCcEnSet_kept {pq : List Instr} {w : EnableWrite} {s : State} (hs : Kept pq s) :
    KeptOut pq (execCcEnSet w s) := by
  unfold execCcEnSet
  apply Kept.next
  with_reducible repeat' first
    | assumption | intro _ | apply Kept.ite | apply BootStore.next_kept | apply State.ccEnable_kept | apply State.hostAccess_kept | apply hs
    | simp -zeta only [↓kept_mk, ↓console_mk, ↓console_mk', ↓boot_mk, ↓keeper_mk] | apply KeptMk.same | apply KeptMk.setCon | apply KeptMk.setBst
    | apply KeptMk.setKpr | apply KeptMk.setRegs | apply KeptMk.setAll | apply ConsoleMk.same | apply ConsoleMk.setBuf | apply BootMk.same
    | apply KeeperMk.same | apply Kept.pending | apply Kept.regs | apply Kept.bst | apply Kept.kpr | apply Kept.con | exact Nat.zero_le _
    | apply Kept.getD | exact nil_le | apply Kept.foldl_snd | apply Kept.foldl_fst | apply Kept.foldl

end Sys2Proof.Machine
end

