-- ==== Sys2Proof/Laws/KeptAdminOps.lean ====
section
/-! SUPPORT. The operations of Machine/AdminOps.lean keep the queue of commands and the sound form of the state. -/

namespace Sys2Proof.Machine

theorem State.raiseFloor_kept {pq : List Instr} {s : State} {i : Fin 8} (hs : Kept pq s) :
    Kept pq (State.raiseFloor s i) := by
  unfold State.raiseFloor
  try dsimp only
  with_reducible repeat' first
    | assumption | intro _ | apply Kept.ite | apply hs | simp -zeta only [↓kept_mk] | apply KeptMk.same

theorem State.fixStripe_kept {pq : List Instr} {s : State} (hs : Kept pq s) :
    Kept pq (State.fixStripe s) := by
  unfold State.fixStripe
  try dsimp only
  with_reducible repeat' first
    | assumption | intro _ | apply Kept.ite | apply BootStore.hAdd_kept | apply hs | simp -zeta only [↓kept_mk, ↓boot_mk] | apply KeptMk.same
    | apply KeptMk.setCon | apply KeptMk.setBst | apply KeptMk.setKpr | apply KeptMk.setRegs | apply KeptMk.setAll | apply ConsoleMk.same
    | apply ConsoleMk.setBuf | apply BootMk.same | apply KeeperMk.same | apply Kept.pending | apply Kept.regs | apply Kept.bst | apply Kept.kpr
    | apply Kept.con | exact Nat.zero_le _ | apply Kept.getD | exact nil_le | apply Kept.foldl_snd | apply Kept.foldl_fst | apply Kept.foldl
    | apply KeptO.none | apply KeptO.some | apply KeptO3.none | apply KeptO3.some | apply Kept.next | split

theorem State.nsCreateHere_kept {pq : List Instr} {s : State} {i : Fin 8} {gib : Nat} {lba4k : Bool} (hs : Kept pq s) :
    Kept pq (State.nsCreateHere s i gib lba4k).2 := by
  unfold State.nsCreateHere
  try dsimp only
  with_reducible repeat' first
    | assumption | intro _ | apply Kept.ite | apply State.newKey_kept | apply State.anchorAdd_kept | apply State.raiseFloor_kept
    | apply State.fixStripe_kept | apply hs | simp -zeta only [↓kept_mk] | apply KeptMk.same | apply KeptMk.setCon | apply KeptMk.setBst
    | apply KeptMk.setKpr | apply KeptMk.setRegs | apply KeptMk.setAll | apply ConsoleMk.same | apply ConsoleMk.setBuf | apply BootMk.same
    | apply KeeperMk.same | apply Kept.pending | apply Kept.regs | apply Kept.bst | apply Kept.kpr | apply Kept.con | exact Nat.zero_le _
    | apply Kept.getD | exact nil_le | apply Kept.foldl_snd | apply Kept.foldl_fst | apply Kept.foldl | apply KeptO.none | apply KeptO.some
    | apply KeptO3.none | apply KeptO3.some | apply Kept.next | split

theorem State.nsCreateHere_kept_of {pq : List Instr} {s : State} {i : Fin 8} {gib : Nat} {lba4k : Bool} {r0 : NStat} {r1 : State} (e : (State.nsCreateHere s i gib lba4k) = (r0, r1)) (hs : Kept pq s) :
    Kept pq r1 := by
  have := State.nsCreateHere_kept (pq := pq) (s := s) (i := i) (gib := gib) (lba4k := lba4k) hs
  rw [e] at this
  exact this

theorem State.nsDrain_kept {pq : List Instr} {s : State} {i : Fin 8} {st : NStat} (hs : Kept pq s) :
    Kept pq (State.nsDrain s i st) := by
  unfold State.nsDrain
  try dsimp only
  with_reducible repeat' first
    | assumption | intro _ | apply Kept.ite | apply State.host_kept | apply State.ioEnd_kept | apply State.abandon_kept | apply State.cutOff_kept
    | apply hs | simp -zeta only [↓kept_mk] | apply KeptMk.same | apply KeptMk.setCon | apply KeptMk.setBst | apply KeptMk.setKpr
    | apply KeptMk.setRegs | apply KeptMk.setAll | apply ConsoleMk.same | apply ConsoleMk.setBuf | apply BootMk.same | apply KeeperMk.same
    | apply Kept.pending | apply Kept.regs | apply Kept.bst | apply Kept.kpr | apply Kept.con | exact Nat.zero_le _ | apply Kept.getD | exact nil_le
    | apply Kept.foldl_snd | apply Kept.foldl_fst | apply Kept.foldl

theorem State.nsClear_kept {pq : List Instr} {s0 : State} {i : Fin 8} {st : NStat} (hs0 : Kept pq s0) :
    Kept pq (State.nsClear s0 i st) := by
  unfold State.nsClear
  try dsimp only
  with_reducible repeat' first
    | assumption | intro _ | apply Kept.ite | apply State.remap_kept | apply State.nsDrain_kept | apply hs0 | simp -zeta only [↓kept_mk]
    | apply KeptMk.same | apply KeptMk.setCon | apply KeptMk.setBst | apply KeptMk.setKpr | apply KeptMk.setRegs | apply KeptMk.setAll
    | apply ConsoleMk.same | apply ConsoleMk.setBuf | apply BootMk.same | apply KeeperMk.same | apply Kept.pending | apply Kept.regs | apply Kept.bst
    | apply Kept.kpr | apply Kept.con | exact Nat.zero_le _ | apply Kept.getD | exact nil_le | apply Kept.foldl_snd | apply Kept.foldl_fst
    | apply Kept.foldl | apply KeptO.none | apply KeptO.some | apply KeptO3.none | apply KeptO3.some | apply Kept.next | split

theorem State.nsNotice_kept {pq : List Instr} {s : State} {i : Fin 8} (hs : Kept pq s) :
    Kept pq (State.nsNotice s i) := by
  unfold State.nsNotice
  try dsimp only
  with_reducible repeat' first
    | assumption | intro _ | apply Kept.ite | apply hs | simp -zeta only [↓kept_mk] | apply KeptMk.same

theorem State.nsDeleteHere_kept {pq : List Instr} {s : State} {i : Fin 8} (hs : Kept pq s) :
    Kept pq (State.nsDeleteHere s i) := by
  unfold State.nsDeleteHere
  try dsimp only
  with_reducible repeat' first
    | assumption | intro _ | apply Kept.ite | apply State.dropKey_kept | apply State.anchorAdd_kept | apply State.raiseFloor_kept
    | apply State.nsClear_kept | apply State.nsNotice_kept | apply hs | simp -zeta only [↓kept_mk] | apply KeptMk.same | apply KeptMk.setCon
    | apply KeptMk.setBst | apply KeptMk.setKpr | apply KeptMk.setRegs | apply KeptMk.setAll | apply ConsoleMk.same | apply ConsoleMk.setBuf
    | apply BootMk.same | apply KeeperMk.same | apply Kept.pending | apply Kept.regs | apply Kept.bst | apply Kept.kpr | apply Kept.con
    | exact Nat.zero_le _ | apply Kept.getD | exact nil_le | apply Kept.foldl_snd | apply Kept.foldl_fst | apply Kept.foldl | apply KeptO.none
    | apply KeptO.some | apply KeptO3.none | apply KeptO3.some | apply Kept.next | split

theorem State.formatHere_kept {pq : List Instr} {s : State} {l : List (Fin 8)} {lba4k : Bool} {ses : Nat} (hs : Kept pq s) :
    Kept pq (State.formatHere s l lba4k ses) := by
  unfold State.formatHere
  try dsimp only
  with_reducible repeat' first
    | assumption | intro _ | apply Kept.ite | apply State.newKey_kept | apply State.anchorAdd_kept | apply State.raiseFloor_kept
    | apply State.nsClear_kept | apply hs | simp -zeta only [↓kept_mk] | apply KeptMk.same | apply KeptMk.setCon | apply KeptMk.setBst
    | apply KeptMk.setKpr | apply KeptMk.setRegs | apply KeptMk.setAll | apply ConsoleMk.same | apply ConsoleMk.setBuf | apply BootMk.same
    | apply KeeperMk.same | apply Kept.pending | apply Kept.regs | apply Kept.bst | apply Kept.kpr | apply Kept.con | exact Nat.zero_le _
    | apply Kept.getD | exact nil_le | apply Kept.foldl_snd | apply Kept.foldl_fst | apply Kept.foldl

theorem State.cryptoHere_kept {pq : List Instr} {s : State} (hs : Kept pq s) :
    Kept pq (State.cryptoHere s) := by
  unfold State.cryptoHere
  try dsimp only
  with_reducible repeat' first
    | assumption | intro _ | apply Kept.ite | apply State.newKey_kept | apply State.setPassword_kept | apply State.sanitized_kept
    | apply State.anchorAdd_kept | apply State.raiseFloor_kept | apply State.nsClear_kept | apply hs
    | simp -zeta only [↓kept_mk, ↓console_mk, ↓console_mk', ↓boot_mk, ↓keeper_mk] | apply KeptMk.same | apply KeptMk.setCon | apply KeptMk.setBst
    | apply KeptMk.setKpr | apply KeptMk.setRegs | apply KeptMk.setAll | apply ConsoleMk.same | apply ConsoleMk.setBuf | apply BootMk.same
    | apply KeeperMk.same | apply Kept.pending | apply Kept.regs | apply Kept.bst | apply Kept.kpr | apply Kept.con | exact Nat.zero_le _
    | apply Kept.getD | exact nil_le | apply Kept.foldl_snd | apply Kept.foldl_fst | apply Kept.foldl

theorem State.blockEraseHere_kept {pq : List Instr} {s : State} (hs : Kept pq s) :
    Kept pq (State.blockEraseHere s) := by
  unfold State.blockEraseHere
  try dsimp only
  with_reducible repeat' first
    | assumption | intro _ | apply Kept.ite | apply State.sanitizeErases_kept | apply State.checkpoint_kept | apply State.shelfOpen_kept
    | apply State.raiseFloor_kept | apply State.nsClear_kept | apply hs | simp -zeta only [↓kept_mk] | apply KeptMk.same | apply KeptMk.setCon
    | apply KeptMk.setBst | apply KeptMk.setKpr | apply KeptMk.setRegs | apply KeptMk.setAll | apply ConsoleMk.same | apply ConsoleMk.setBuf
    | apply BootMk.same | apply KeeperMk.same | apply Kept.pending | apply Kept.regs | apply Kept.bst | apply Kept.kpr | apply Kept.con
    | exact Nat.zero_le _ | apply Kept.getD | exact nil_le | apply Kept.foldl_snd | apply Kept.foldl_fst | apply Kept.foldl

theorem State.stagePiece_kept {pq : List Instr} {s : State} {off : Nat} {bytes : List Nat} (hs : Kept pq s) :
    Kept pq (State.stagePiece s off bytes).2 := by
  unfold State.stagePiece
  try dsimp only
  with_reducible repeat' first
    | assumption | intro _ | apply Kept.ite | apply State.fwProgram_kept | apply State.fwProgram_kept_of (by assumption) | apply State.fwErase_kept
    | apply State.fwErase_kept_of (by assumption) | apply State.good_kept | apply hs | simp -zeta only [↓kept_mk, ↓boot_mk] | apply KeptMk.same
    | apply KeptMk.setCon | apply KeptMk.setBst | apply KeptMk.setKpr | apply KeptMk.setRegs | apply KeptMk.setAll | apply ConsoleMk.same
    | apply ConsoleMk.setBuf | apply BootMk.same | apply KeeperMk.same | apply Kept.pending | apply Kept.regs | apply Kept.bst | apply Kept.kpr
    | apply Kept.con | exact Nat.zero_le _ | apply Kept.getD | exact nil_le | apply Kept.foldl_snd | apply Kept.foldl_fst | apply Kept.foldl
    | apply KeptO.none | apply KeptO.some | apply KeptO3.none | apply KeptO3.some | apply Kept.next | split

theorem State.stagePiece_kept_of {pq : List Instr} {s : State} {off : Nat} {bytes : List Nat} {r0 : Bool} {r1 : State} (e : (State.stagePiece s off bytes) = (r0, r1)) (hs : Kept pq s) :
    Kept pq r1 := by
  have := State.stagePiece_kept (pq := pq) (s := s) (off := off) (bytes := bytes) hs
  rw [e] at this
  exact this

theorem State.downloadHere_kept {pq : List Instr} {s : State} {off : Nat} {len : Nat} {bytes : List Nat} (hs : Kept pq s) :
    Kept pq (State.downloadHere s off len bytes).2 := by
  unfold State.downloadHere
  try dsimp only
  with_reducible repeat' first
    | assumption | intro _ | apply Kept.ite | apply State.stagePiece_kept | apply State.stagePiece_kept_of (by assumption) | apply hs
    | simp -zeta only [↓kept_mk, ↓console_mk, ↓console_mk', ↓boot_mk, ↓keeper_mk] | apply KeptMk.same | apply KeptMk.setCon | apply KeptMk.setBst
    | apply KeptMk.setKpr | apply KeptMk.setRegs | apply KeptMk.setAll | apply ConsoleMk.same | apply ConsoleMk.setBuf | apply BootMk.same
    | apply KeeperMk.same | apply Kept.pending | apply Kept.regs | apply Kept.bst | apply Kept.kpr | apply Kept.con | exact Nat.zero_le _
    | apply Kept.getD | exact nil_le | apply Kept.foldl_snd | apply Kept.foldl_fst | apply Kept.foldl | apply KeptO.none | apply KeptO.some
    | apply KeptO3.none | apply KeptO3.some | apply Kept.next | split

theorem State.downloadHere_kept_of {pq : List Instr} {s : State} {off : Nat} {len : Nat} {bytes : List Nat} {r0 : NStat} {r1 : State} (e : (State.downloadHere s off len bytes) = (r0, r1)) (hs : Kept pq s) :
    Kept pq r1 := by
  have := State.downloadHere_kept (pq := pq) (s := s) (off := off) (len := len) (bytes := bytes) hs
  rw [e] at this
  exact this

theorem State.commitHere_kept {pq : List Instr} {s : State} {slot : Nat} {action : Nat} {sigOk : Bool} (hs : Kept pq s) :
    Kept pq (State.commitHere s slot action sigOk).2 := by
  unfold State.commitHere
  try dsimp only
  with_reducible repeat' first
    | assumption | intro _ | apply Kept.ite | apply State.swapPend_kept | apply hs
    | simp -zeta only [↓kept_mk, ↓console_mk, ↓console_mk', ↓boot_mk, ↓keeper_mk] | apply KeptMk.same | apply KeptMk.setCon | apply KeptMk.setBst
    | apply KeptMk.setKpr | apply KeptMk.setRegs | apply KeptMk.setAll | apply ConsoleMk.same | apply ConsoleMk.setBuf | apply BootMk.same
    | apply KeeperMk.same | apply Kept.pending | apply Kept.regs | apply Kept.bst | apply Kept.kpr | apply Kept.con | exact Nat.zero_le _
    | apply Kept.getD | exact nil_le | apply Kept.foldl_snd | apply Kept.foldl_fst | apply Kept.foldl | apply KeptO.none | apply KeptO.some
    | apply KeptO3.none | apply KeptO3.some | apply Kept.next | split

theorem State.commitHere_kept_of {pq : List Instr} {s : State} {slot : Nat} {action : Nat} {sigOk : Bool} {r0 : NStat} {r1 : State} (e : (State.commitHere s slot action sigOk) = (r0, r1)) (hs : Kept pq s) :
    Kept pq r1 := by
  have := State.commitHere_kept (pq := pq) (s := s) (slot := slot) (action := action) (sigOk := sigOk) hs
  rw [e] at this
  exact this

theorem State.adminHere_kept {pq : List Instr} {s : State} {i : Instr} (hs : Kept pq s) :
    Kept pq (State.adminHere s i).2.2 := by
  unfold State.adminHere
  try dsimp only
  with_reducible repeat' first
    | assumption | intro _ | apply Kept.ite | apply State.sanitizeEnd_kept | apply State.nsCreateHere_kept
    | apply State.nsCreateHere_kept_of (by assumption) | apply State.nsDeleteHere_kept | apply State.formatHere_kept | apply State.cryptoHere_kept
    | apply State.blockEraseHere_kept | apply State.downloadHere_kept | apply State.downloadHere_kept_of (by assumption) | apply State.commitHere_kept
    | apply State.commitHere_kept_of (by assumption) | apply hs | simp -zeta only [] | apply KeptMk.same | apply KeptMk.setCon | apply KeptMk.setBst
    | apply KeptMk.setKpr | apply KeptMk.setRegs | apply KeptMk.setAll | apply ConsoleMk.same | apply ConsoleMk.setBuf | apply BootMk.same
    | apply KeeperMk.same | apply Kept.pending | apply Kept.regs | apply Kept.bst | apply Kept.kpr | apply Kept.con | exact Nat.zero_le _
    | apply Kept.getD | exact nil_le | apply Kept.foldl_snd | apply Kept.foldl_fst | apply Kept.foldl | apply KeptO.none | apply KeptO.some
    | apply KeptO3.none | apply KeptO3.some | apply Kept.next | split

theorem State.adminHere_kept_of {pq : List Instr} {s : State} {i : Instr} {r0 : NStat} {r1 : Nat} {r2 : State} (e : (State.adminHere s i) = (r0, r1, r2)) (hs : Kept pq s) :
    Kept pq r2 := by
  have := State.adminHere_kept (pq := pq) (s := s) (i := i) hs
  rw [e] at this
  exact this

theorem State.newTag_kept {pq : List Instr} {s : State} (hs : Kept pq s) :
    Kept pq (State.newTag s).2 := by
  unfold State.newTag
  try dsimp only
  with_reducible repeat' first
    | assumption | intro _ | apply Kept.ite | apply hs | simp -zeta only [↓kept_mk] | apply KeptMk.same

theorem State.newTag_kept_of {pq : List Instr} {s : State} {r0 : BitVec 16} {r1 : State} (e : (State.newTag s) = (r0, r1)) (hs : Kept pq s) :
    Kept pq r1 := by
  have := State.newTag_kept (pq := pq) (s := s) hs
  rw [e] at this
  exact this

theorem State.adminSend_kept {pq : List Instr} {s : State} {h : Hdr} {i : Instr} {b : AdminBody} {k : Fin 4} (hs : Kept pq s) :
    Kept pq (State.adminSend s h i b k) := by
  unfold State.adminSend
  try dsimp only
  with_reducible repeat' first
    | assumption | intro _ | apply Kept.ite | apply State.tethSend_kept | apply State.newTag_kept | apply State.newTag_kept_of (by assumption)
    | apply hs | simp -zeta only [↓kept_mk] | apply KeptMk.same | apply KeptMk.setCon | apply KeptMk.setBst | apply KeptMk.setKpr
    | apply KeptMk.setRegs | apply KeptMk.setAll | apply ConsoleMk.same | apply ConsoleMk.setBuf | apply BootMk.same | apply KeeperMk.same
    | apply Kept.pending | apply Kept.regs | apply Kept.bst | apply Kept.kpr | apply Kept.con | exact Nat.zero_le _ | apply Kept.getD | exact nil_le
    | apply Kept.foldl_snd | apply Kept.foldl_fst | apply Kept.foldl

theorem State.adminFinish_kept {pq : List Instr} {s : State} {h : Hdr} {i : Instr} (hs : Kept pq s) :
    Kept pq (State.adminFinish s h i) := by
  unfold State.adminFinish
  try dsimp only
  with_reducible repeat' first
    | assumption | intro _ | apply Kept.ite | apply State.done_kept | apply State.adminHere_kept | apply State.adminHere_kept_of (by assumption)
    | apply hs | simp -zeta only [↓kept_mk] | apply KeptMk.same

theorem State.adminRun_kept {pq : List Instr} {s : State} {h : Hdr} {i : Instr} (hs : Kept pq s) :
    Kept pq (State.adminRun s h i) := by
  unfold State.adminRun
  try dsimp only
  with_reducible repeat' first
    | assumption | intro _ | apply Kept.ite | apply State.done_kept | apply State.adminSend_kept | apply State.adminFinish_kept | apply hs
    | simp -zeta only [↓kept_mk] | apply KeptMk.same | apply KeptMk.setCon | apply KeptMk.setBst | apply KeptMk.setKpr | apply KeptMk.setRegs
    | apply KeptMk.setAll | apply ConsoleMk.same | apply ConsoleMk.setBuf | apply BootMk.same | apply KeeperMk.same | apply Kept.pending
    | apply Kept.regs | apply Kept.bst | apply Kept.kpr | apply Kept.con | exact Nat.zero_le _ | apply Kept.getD | exact nil_le | apply Kept.foldl_snd
    | apply Kept.foldl_fst | apply Kept.foldl | apply KeptO.none | apply KeptO.some | apply KeptO3.none | apply KeptO3.some | apply Kept.next | split

theorem State.adminAnswer_kept {pq : List Instr} {s : State} {tag : BitVec 16} {sct : Nat} {sc : Nat} (hs : Kept pq s) :
    Kept pq (State.adminAnswer s tag sct sc) := by
  unfold State.adminAnswer
  try dsimp only
  with_reducible repeat' first
    | assumption | intro _ | apply Kept.ite | apply State.tethSend_kept | apply State.done_kept | apply State.answer_kept
    | apply State.adminFinish_kept | apply hs | simp -zeta only [↓kept_mk] | apply KeptMk.same | apply KeptMk.setCon | apply KeptMk.setBst
    | apply KeptMk.setKpr | apply KeptMk.setRegs | apply KeptMk.setAll | apply ConsoleMk.same | apply ConsoleMk.setBuf | apply BootMk.same
    | apply KeeperMk.same | apply Kept.pending | apply Kept.regs | apply Kept.bst | apply Kept.kpr | apply Kept.con | exact Nat.zero_le _
    | apply Kept.getD | exact nil_le | apply Kept.foldl_snd | apply Kept.foldl_fst | apply Kept.foldl | apply KeptO.none | apply KeptO.some
    | apply KeptO3.none | apply KeptO3.some | apply Kept.next | split

end Sys2Proof.Machine
end

