-- ==== Sys2Proof/Laws/KeptFrontAdmin.lean ====
section
/-! SUPPORT. The operations of Machine/FrontAdmin.lean keep the queue of commands and the sound form of the state. -/

namespace Sys2Proof.Machine

theorem State.feature_kept {pq : List Instr} {s : State} {h : Hdr} {f : Features → Features} (hs : Kept pq s) :
    Kept pq (State.feature s h f) := by
  unfold State.feature
  try dsimp only
  with_reducible repeat' first
    | assumption | intro _ | apply Kept.ite | apply State.good_kept | apply hs | simp -zeta only [↓kept_mk] | apply KeptMk.same

theorem execSetFeaturesArbitration_kept {pq : List Instr} {h : Hdr} {ab : BitVec 3} {s : State} (hs : Kept pq s) :
    KeptOut pq (execSetFeaturesArbitration h ab s) := by
  unfold execSetFeaturesArbitration
  try dsimp only
  apply Kept.next
  with_reducible repeat' first
    | assumption | intro _ | apply Kept.ite | apply BootStore.next_kept | apply State.host_kept | apply State.feature_kept

theorem execSetFeaturesPowerManagement_kept {pq : List Instr} {h : Hdr} {ps : BitVec 5} {s : State} (hs : Kept pq s) :
    KeptOut pq (execSetFeaturesPowerManagement h ps s) := by
  unfold execSetFeaturesPowerManagement
  try dsimp only
  apply Kept.next
  with_reducible repeat' first
    | assumption | intro _ | apply Kept.ite | apply BootStore.next_kept | apply State.host_kept | apply State.done_kept | apply State.good_kept
    | apply State.wantPs_kept | apply hs | simp -zeta only [↓kept_mk] | apply KeptMk.same

theorem execSetFeaturesTempThreshold_kept {pq : List Instr} {h : Hdr} {sensor : BitVec 4} {under : Bool} {kelvin : BitVec 16} {s : State} (hs : Kept pq s) :
    KeptOut pq (execSetFeaturesTempThreshold h sensor under kelvin s) := by
  unfold execSetFeaturesTempThreshold
  try dsimp only
  apply Kept.next
  with_reducible repeat' first
    | assumption | intro _ | apply Kept.ite | apply BootStore.next_kept | apply State.host_kept | apply State.done_kept | apply State.feature_kept

theorem execSetFeaturesErrorRecovery_kept {pq : List Instr} {h : Hdr} {tler : BitVec 16} {s : State} (hs : Kept pq s) :
    KeptOut pq (execSetFeaturesErrorRecovery h tler s) := by
  unfold execSetFeaturesErrorRecovery
  try dsimp only
  apply Kept.next
  with_reducible repeat' first
    | assumption | intro _ | apply Kept.ite | apply BootStore.next_kept | apply State.host_kept | apply State.feature_kept

theorem State.saveChange_kept {pq : List Instr} {s : State} {f : Settings → Settings} (hs : Kept pq s) :
    Kept pq (State.saveChange s f) := by
  unfold State.saveChange
  try dsimp only
  with_reducible repeat' first
    | assumption | intro _ | apply Kept.ite | apply State.saveSettings_kept | apply State.saveSettings_kept_of (by assumption) | apply hs
    | simp -zeta only [↓kept_mk] | apply KeptMk.same

theorem execSetFeaturesWriteCache_kept {pq : List Instr} {h : Hdr} {wce : Bool} {save : Bool} {s : State} (hs : Kept pq s) :
    KeptOut pq (execSetFeaturesWriteCache h wce save s) := by
  unfold execSetFeaturesWriteCache
  try dsimp only
  apply Kept.next
  with_reducible repeat' first
    | assumption | intro _ | apply Kept.ite | apply BootStore.next_kept | apply State.host_kept | apply State.good_kept | apply State.saveChange_kept
    | apply hs | simp -zeta only [↓kept_mk] | apply KeptMk.same

theorem execSetFeaturesNumberOfQueues_kept {pq : List Instr} {h : Hdr} {nsq : BitVec 16} {ncq : BitVec 16} {s : State} (hs : Kept pq s) :
    KeptOut pq (execSetFeaturesNumberOfQueues h nsq ncq s) := by
  unfold execSetFeaturesNumberOfQueues
  try dsimp only
  apply Kept.next
  with_reducible repeat' first
    | assumption | intro _ | apply Kept.ite | apply BootStore.next_kept | apply State.host_kept | apply State.done_kept | apply hs
    | simp -zeta only [↓kept_mk] | apply KeptMk.same

theorem execSetFeaturesInterruptCoalescing_kept {pq : List Instr} {h : Hdr} {thr : Byte} {time : Byte} {s : State} (hs : Kept pq s) :
    KeptOut pq (execSetFeaturesInterruptCoalescing h thr time s) := by
  unfold execSetFeaturesInterruptCoalescing
  try dsimp only
  apply Kept.next
  with_reducible repeat' first
    | assumption | intro _ | apply Kept.ite | apply BootStore.next_kept | apply State.host_kept | apply State.feature_kept

theorem execSetFeaturesInterruptVector_kept {pq : List Instr} {h : Hdr} {iv : BitVec 16} {cd : Bool} {s : State} (hs : Kept pq s) :
    KeptOut pq (execSetFeaturesInterruptVector h iv cd s) := by
  unfold execSetFeaturesInterruptVector
  try dsimp only
  apply Kept.next
  with_reducible repeat' first
    | assumption | intro _ | apply Kept.ite | apply BootStore.next_kept | apply State.host_kept | apply State.done_kept | apply State.feature_kept

theorem execSetFeaturesWriteAtomicity_kept {pq : List Instr} {h : Hdr} {dn : Bool} {s : State} (hs : Kept pq s) :
    KeptOut pq (execSetFeaturesWriteAtomicity h dn s) := by
  unfold execSetFeaturesWriteAtomicity
  try dsimp only
  apply Kept.next
  with_reducible repeat' first
    | assumption | intro _ | apply Kept.ite | apply BootStore.next_kept | apply State.host_kept | apply State.feature_kept

theorem execSetFeaturesAsyncEventConfig_kept {pq : List Instr} {h : Hdr} {mask : Word} {s : State} (hs : Kept pq s) :
    KeptOut pq (execSetFeaturesAsyncEventConfig h mask s) := by
  unfold execSetFeaturesAsyncEventConfig
  try dsimp only
  apply Kept.next
  with_reducible repeat' first
    | assumption | intro _ | apply Kept.ite | apply BootStore.next_kept | apply State.host_kept | apply State.feature_kept

theorem execSetFeaturesApst_kept {pq : List Instr} {h : Hdr} {enable : Bool} {save : Bool} {ps3ms : Nat} {ps4ms : Nat} {s : State} (hs : Kept pq s) :
    KeptOut pq (execSetFeaturesApst h enable save ps3ms ps4ms s) := by
  unfold execSetFeaturesApst
  try dsimp only
  apply Kept.next
  with_reducible repeat' first
    | assumption | intro _ | apply Kept.ite | apply BootStore.next_kept | apply State.host_kept | apply State.done_kept | apply State.good_kept
    | apply State.saveChange_kept | apply hs | simp -zeta only [↓kept_mk] | apply KeptMk.same

theorem execSetFeaturesHostMemoryBuffer_kept {pq : List Instr} {h : Hdr} {enable : Bool} {descs : List (Nat × Nat)} {s : State} (hs : Kept pq s) :
    KeptOut pq (execSetFeaturesHostMemoryBuffer h enable descs s) := by
  unfold execSetFeaturesHostMemoryBuffer
  try dsimp only
  apply Kept.next
  with_reducible repeat' first
    | assumption | intro _ | apply Kept.ite | apply State.setReg_kept | apply BootStore.next_kept | apply State.host_kept | apply State.done_kept
    | apply State.good_kept | apply hs | simp -zeta only [↓kept_mk] | apply KeptMk.same

theorem execSetFeaturesThermalManagement_kept {pq : List Instr} {h : Hdr} {tmt1 : BitVec 16} {tmt2 : BitVec 16} {s : State} (hs : Kept pq s) :
    KeptOut pq (execSetFeaturesThermalManagement h tmt1 tmt2 s) := by
  unfold execSetFeaturesThermalManagement
  try dsimp only
  apply Kept.next
  with_reducible repeat' first
    | assumption | intro _ | apply Kept.ite | apply BootStore.next_kept | apply State.host_kept | apply State.feature_kept

theorem execGetFeatures_kept {pq : List Instr} {h : Hdr} {ask : FeatureAsk} {s : State} (hs : Kept pq s) :
    KeptOut pq (execGetFeatures h ask s) := by
  unfold execGetFeatures
  try dsimp only
  apply Kept.next
  with_reducible repeat' first
    | assumption | intro _ | apply Kept.ite | apply BootStore.next_kept | apply State.host_kept | apply State.done_kept | apply hs
    | simp -zeta only [↓kept_mk, ↓console_mk, ↓console_mk', ↓boot_mk, ↓keeper_mk] | apply KeptMk.same | apply KeptMk.setCon | apply KeptMk.setBst
    | apply KeptMk.setKpr | apply KeptMk.setRegs | apply KeptMk.setAll | apply ConsoleMk.same | apply ConsoleMk.setBuf | apply BootMk.same
    | apply KeeperMk.same | apply Kept.pending | apply Kept.regs | apply Kept.bst | apply Kept.kpr | apply Kept.con | exact Nat.zero_le _
    | apply Kept.getD | exact nil_le | apply Kept.foldl_snd | apply Kept.foldl_fst | apply Kept.foldl | apply KeptO.none | apply KeptO.some
    | apply KeptO3.none | apply KeptO3.some | apply Kept.next | split

theorem execIdentify_kept {pq : List Instr} {h : Hdr} {cns : Byte} {nsid : Word} {s : State} (hs : Kept pq s) :
    KeptOut pq (execIdentify h cns nsid s) := by
  unfold execIdentify
  try dsimp only
  apply Kept.next
  with_reducible repeat' first
    | assumption | intro _ | apply Kept.ite | apply BootStore.next_kept | apply State.host_kept | apply State.done_kept | apply hs
    | simp -zeta only [↓kept_mk, ↓console_mk, ↓console_mk', ↓boot_mk, ↓keeper_mk] | apply KeptMk.same | apply KeptMk.setCon | apply KeptMk.setBst
    | apply KeptMk.setKpr | apply KeptMk.setRegs | apply KeptMk.setAll | apply ConsoleMk.same | apply ConsoleMk.setBuf | apply BootMk.same
    | apply KeeperMk.same | apply Kept.pending | apply Kept.regs | apply Kept.bst | apply Kept.kpr | apply Kept.con | exact Nat.zero_le _
    | apply Kept.getD | exact nil_le | apply Kept.foldl_snd | apply Kept.foldl_fst | apply Kept.foldl | apply KeptO.none | apply KeptO.some
    | apply KeptO3.none | apply KeptO3.some | apply Kept.next | split

theorem execNamespaceCreate_kept {pq : List Instr} {h : Hdr} {nszeGib : Nat} {flbas : BitVec 4} {s : State} (hs : Kept pq s) :
    KeptOut pq (execNamespaceCreate h nszeGib flbas s) := by
  unfold execNamespaceCreate
  apply Kept.next
  with_reducible repeat' first
    | assumption | intro _ | apply Kept.ite | apply BootStore.next_kept | apply State.host_kept | apply State.done_kept | apply State.adminRun_kept

theorem execNamespaceDelete_kept {pq : List Instr} {h : Hdr} {nsid : Word} {s : State} (hs : Kept pq s) :
    KeptOut pq (execNamespaceDelete h nsid s) := by
  unfold execNamespaceDelete
  apply Kept.next
  with_reducible repeat' first
    | assumption | intro _ | apply Kept.ite | apply BootStore.next_kept | apply State.host_kept | apply State.done_kept | apply State.adminRun_kept

theorem execNamespaceAttachment_kept {pq : List Instr} {h : Hdr} {nsid : Word} {attach : Bool} {s : State} (hs : Kept pq s) :
    KeptOut pq (execNamespaceAttachment h nsid attach s) := by
  unfold execNamespaceAttachment
  try dsimp only
  apply Kept.next
  with_reducible repeat' first
    | assumption | intro _ | apply Kept.ite | apply BootStore.next_kept | apply State.host_kept | apply State.done_kept | apply State.good_kept
    | apply State.nsNotice_kept | apply hs | simp -zeta only [↓kept_mk] | apply KeptMk.same | apply KeptMk.setCon | apply KeptMk.setBst
    | apply KeptMk.setKpr | apply KeptMk.setRegs | apply KeptMk.setAll | apply ConsoleMk.same | apply ConsoleMk.setBuf | apply BootMk.same
    | apply KeeperMk.same | apply Kept.pending | apply Kept.regs | apply Kept.bst | apply Kept.kpr | apply Kept.con | exact Nat.zero_le _
    | apply Kept.getD | exact nil_le | apply Kept.foldl_snd | apply Kept.foldl_fst | apply Kept.foldl | apply KeptO.none | apply KeptO.some
    | apply KeptO3.none | apply KeptO3.some | apply Kept.next | split

theorem execFormatNvm_kept {pq : List Instr} {h : Hdr} {nsid : Word} {lbaf : BitVec 4} {ses : BitVec 3} {s : State} (hs : Kept pq s) :
    KeptOut pq (execFormatNvm h nsid lbaf ses s) := by
  unfold execFormatNvm
  apply Kept.next
  with_reducible repeat' first
    | assumption | intro _ | apply Kept.ite | apply BootStore.next_kept | apply State.host_kept | apply State.done_kept | apply State.adminRun_kept

theorem execSanitizeCryptoErase_kept {pq : List Instr} {h : Hdr} {s : State} (hs : Kept pq s) :
    KeptOut pq (execSanitizeCryptoErase h s) := by
  unfold execSanitizeCryptoErase
  apply Kept.next
  with_reducible repeat' first
    | assumption | intro _ | apply Kept.ite | apply BootStore.next_kept | apply State.host_kept | apply State.done_kept | apply State.adminRun_kept

theorem execSanitizeBlockErase_kept {pq : List Instr} {h : Hdr} {s : State} (hs : Kept pq s) :
    KeptOut pq (execSanitizeBlockErase h s) := by
  unfold execSanitizeBlockErase
  apply Kept.next
  with_reducible repeat' first
    | assumption | intro _ | apply Kept.ite | apply BootStore.next_kept | apply State.host_kept | apply State.done_kept | apply State.adminRun_kept

theorem execSanitizeExitFailureMode_kept {pq : List Instr} {h : Hdr} {s : State} (hs : Kept pq s) :
    KeptOut pq (execSanitizeExitFailureMode h s) := by
  unfold execSanitizeExitFailureMode
  apply Kept.next
  with_reducible repeat' first
    | assumption | intro _ | apply Kept.ite | apply BootStore.next_kept | apply State.host_kept | apply State.good_kept

theorem execFirmwareImageDownload_kept {pq : List Instr} {h : Hdr} {off : Nat} {len : Nat} {bytes : List Byte} {s : State} (hs : Kept pq s) :
    KeptOut pq (execFirmwareImageDownload h off len bytes s) := by
  unfold execFirmwareImageDownload
  apply Kept.next
  with_reducible repeat' first
    | assumption | intro _ | apply Kept.ite | apply BootStore.next_kept | apply State.host_kept | apply State.done_kept | apply State.adminRun_kept

theorem execFirmwareCommit_kept {pq : List Instr} {h : Hdr} {slot : BitVec 3} {action : BitVec 3} {sigOk : Bool} {s : State} (hs : Kept pq s) :
    KeptOut pq (execFirmwareCommit h slot action sigOk s) := by
  unfold execFirmwareCommit
  apply Kept.next
  with_reducible repeat' first
    | assumption | intro _ | apply Kept.ite | apply BootStore.next_kept | apply State.host_kept | apply State.done_kept | apply State.adminRun_kept

end Sys2Proof.Machine
end

