-- ==== Sys2Proof/Laws/KeptFrontIo.lean ====
section
/-! SUPPORT. The operations of Machine/FrontIo.lean keep the queue of commands and the sound form of the state. -/

namespace Sys2Proof.Machine

theorem State.stopIo_kept {pq : List Instr} {s : State} {h : Hdr} {st : NStat} (hs : Kept pq s) :
    Kept pq (State.stopIo s h st) := by
  unfold State.stopIo
  with_reducible repeat' first
    | assumption | intro _ | apply Kept.ite | apply State.raiseIf_kept | apply State.done_kept

theorem State.sendPart_kept {pq : List Instr} {s : State} {p : MPart} (hs : Kept pq s) :
    Kept pq (State.sendPart s p) := by
  unfold State.sendPart
  try dsimp only
  with_reducible repeat' first
    | assumption | intro _ | apply Kept.ite | apply State.tethSend_kept | apply hs
    | simp -zeta only [↓kept_mk, ↓console_mk, ↓console_mk', ↓boot_mk, ↓keeper_mk] | apply KeptMk.same | apply KeptMk.setCon | apply KeptMk.setBst
    | apply KeptMk.setKpr | apply KeptMk.setRegs | apply KeptMk.setAll | apply ConsoleMk.same | apply ConsoleMk.setBuf | apply BootMk.same
    | apply KeeperMk.same | apply Kept.pending | apply Kept.regs | apply Kept.bst | apply Kept.kpr | apply Kept.con | exact Nat.zero_le _
    | apply Kept.getD | exact nil_le | apply Kept.foldl_snd | apply Kept.foldl_fst | apply Kept.foldl | apply KeptO.none | apply KeptO.some
    | apply KeptO3.none | apply KeptO3.some | apply Kept.next | split

theorem State.failSlots_kept {pq : List Instr} {s : State} {h : Hdr} {first : Nat} {n : Nat} (hs : Kept pq s) :
    Kept pq (State.failSlots s h first n) := by
  unfold State.failSlots
  try dsimp only
  with_reducible repeat' first
    | assumption | intro _ | apply Kept.ite | apply State.ctx_kept | apply hs
    | simp -zeta only [↓kept_mk, ↓console_mk, ↓console_mk', ↓boot_mk, ↓keeper_mk] | apply KeptMk.same | apply KeptMk.setCon | apply KeptMk.setBst
    | apply KeptMk.setKpr | apply KeptMk.setRegs | apply KeptMk.setAll | apply ConsoleMk.same | apply ConsoleMk.setBuf | apply BootMk.same
    | apply KeeperMk.same | apply Kept.pending | apply Kept.regs | apply Kept.bst | apply Kept.kpr | apply Kept.con | exact Nat.zero_le _
    | apply Kept.getD | exact nil_le | apply Kept.foldl_snd | apply Kept.foldl_fst | apply Kept.foldl | apply KeptO.none | apply KeptO.some
    | apply KeptO3.none | apply KeptO3.some | apply Kept.next | split

theorem State.newPart_kept {pq : List Instr} {s : State} {h : Hdr} {op : Byte} {owner : Nat} {first : Nat} {n : Nat} {ranges : List (Nat × Nat)} (hs : Kept pq s) :
    Kept pq (State.newPart s h op owner first n ranges) := by
  unfold State.newPart
  try dsimp only
  with_reducible repeat' first
    | assumption | intro _ | apply Kept.ite | apply State.ctx_kept | apply State.ctxFail_kept | apply State.newTag_kept
    | apply State.newTag_kept_of (by assumption) | apply State.sendPart_kept | apply State.failSlots_kept | apply hs | simp -zeta only [↓kept_mk]
    | apply KeptMk.same

theorem State.splitRuns_kept {pq : List Instr} {s : State} {h : Hdr} {op : Byte} {rs : List (Nat × Nat × Nat)} (hs : Kept pq s) :
    Kept pq (State.splitRuns s h op rs) := by
  unfold State.splitRuns
  with_reducible repeat' first
    | assumption | intro _ | apply Kept.ite | apply State.newPart_kept | apply hs
    | simp -zeta only [↓kept_mk, ↓console_mk, ↓console_mk', ↓boot_mk, ↓keeper_mk] | apply KeptMk.same | apply KeptMk.setCon | apply KeptMk.setBst
    | apply KeptMk.setKpr | apply KeptMk.setRegs | apply KeptMk.setAll | apply ConsoleMk.same | apply ConsoleMk.setBuf | apply BootMk.same
    | apply KeeperMk.same | apply Kept.pending | apply Kept.regs | apply Kept.bst | apply Kept.kpr | apply Kept.con | exact Nat.zero_le _
    | apply Kept.getD | exact nil_le | apply Kept.foldl_snd | apply Kept.foldl_fst | apply Kept.foldl

theorem State.splitRanges_kept {pq : List Instr} {s : State} {h : Hdr} {op : Byte} {r : NsRec} {ranges : List (Nat × Nat)} (hs : Kept pq s) :
    Kept pq (State.splitRanges s h op r ranges) := by
  unfold State.splitRanges
  try dsimp only
  with_reducible repeat' first
    | assumption | intro _ | apply Kept.ite | apply State.newPart_kept | apply hs
    | simp -zeta only [↓kept_mk, ↓console_mk, ↓console_mk', ↓boot_mk, ↓keeper_mk] | apply KeptMk.same | apply KeptMk.setCon | apply KeptMk.setBst
    | apply KeptMk.setKpr | apply KeptMk.setRegs | apply KeptMk.setAll | apply ConsoleMk.same | apply ConsoleMk.setBuf | apply BootMk.same
    | apply KeeperMk.same | apply Kept.pending | apply Kept.regs | apply Kept.bst | apply Kept.kpr | apply Kept.con | exact Nat.zero_le _
    | apply Kept.getD | exact nil_le | apply Kept.foldl_snd | apply Kept.foldl_fst | apply Kept.foldl

theorem State.endPart_kept {pq : List Instr} {s : State} {tag : BitVec 16} {st : NStat} {lba : Nat} (hs : Kept pq s) :
    Kept pq (State.endPart s tag st lba) := by
  unfold State.endPart
  try dsimp only
  with_reducible repeat' first
    | assumption | intro _ | apply Kept.ite | apply State.ctx_kept | apply State.ioTry_kept | apply State.ctxFail_kept | apply State.failSlots_kept
    | apply hs | simp -zeta only [↓kept_mk] | apply KeptMk.same | apply KeptMk.setCon | apply KeptMk.setBst | apply KeptMk.setKpr
    | apply KeptMk.setRegs | apply KeptMk.setAll | apply ConsoleMk.same | apply ConsoleMk.setBuf | apply BootMk.same | apply KeeperMk.same
    | apply Kept.pending | apply Kept.regs | apply Kept.bst | apply Kept.kpr | apply Kept.con | exact Nat.zero_le _ | apply Kept.getD | exact nil_le
    | apply Kept.foldl_snd | apply Kept.foldl_fst | apply Kept.foldl | apply KeptO.none | apply KeptO.some | apply KeptO3.none | apply KeptO3.some
    | apply Kept.next | split

theorem State.readOne_kept {pq : List Instr} {s : State} {h : Hdr} {ns : Fin 8} {r : NsRec} {base : Nat} {j : Nat} (hs : Kept pq s) :
    Kept pq (State.readOne s h ns r base j) := by
  unfold State.readOne
  try dsimp only
  with_reducible repeat' first
    | assumption | intro _ | apply Kept.ite | apply State.host_kept | apply State.putSlot_kept | apply State.readSector_kept | apply hs
    | simp -zeta only [↓kept_mk, ↓console_mk, ↓console_mk', ↓boot_mk, ↓keeper_mk] | apply KeptMk.same | apply KeptMk.setCon | apply KeptMk.setBst
    | apply KeptMk.setKpr | apply KeptMk.setRegs | apply KeptMk.setAll | apply ConsoleMk.same | apply ConsoleMk.setBuf | apply BootMk.same
    | apply KeeperMk.same | apply Kept.pending | apply Kept.regs | apply Kept.bst | apply Kept.kpr | apply Kept.con | exact Nat.zero_le _
    | apply Kept.getD | exact nil_le | apply Kept.foldl_snd | apply Kept.foldl_fst | apply Kept.foldl | apply KeptO.none | apply KeptO.some
    | apply KeptO3.none | apply KeptO3.some | apply Kept.next | split

theorem State.readHere_kept {pq : List Instr} {s : State} {h : Hdr} {ns : Fin 8} {r : NsRec} {base : Nat} {first : Nat} {n : Nat} (hs : Kept pq s) :
    Kept pq (State.readHere s h ns r base first n) := by
  unfold State.readHere
  with_reducible repeat' first
    | assumption | intro _ | apply Kept.ite | apply State.readOne_kept | apply hs
    | simp -zeta only [↓kept_mk, ↓console_mk, ↓console_mk', ↓boot_mk, ↓keeper_mk] | apply KeptMk.same | apply KeptMk.setCon | apply KeptMk.setBst
    | apply KeptMk.setKpr | apply KeptMk.setRegs | apply KeptMk.setAll | apply ConsoleMk.same | apply ConsoleMk.setBuf | apply BootMk.same
    | apply KeeperMk.same | apply Kept.pending | apply Kept.regs | apply Kept.bst | apply Kept.kpr | apply Kept.con | exact Nat.zero_le _
    | apply Kept.getD | exact nil_le | apply Kept.foldl_snd | apply Kept.foldl_fst | apply Kept.foldl

theorem State.noteRead_kept {pq : List Instr} {s : State} {ns : Fin 8} {r : NsRec} {lba : Nat} {n : Nat} (hs : Kept pq s) :
    Kept pq (State.noteRead s ns r lba n) := by
  unfold State.noteRead
  try dsimp only
  with_reducible repeat' first
    | assumption | intro _ | apply Kept.ite | apply BootStore.next_kept | apply State.run_kept | apply hs | simp -zeta only [↓kept_mk]
    | apply KeptMk.same

theorem State.readCmd_kept {pq : List Instr} {s : State} {h : Hdr} {op : Byte} {ns : Fin 8} {r : NsRec} {lba : Nat} {n : Nat} (hs : Kept pq s) :
    Kept pq (State.readCmd s h op ns r lba n) := by
  unfold State.readCmd
  try dsimp only
  with_reducible repeat' first
    | assumption | intro _ | apply Kept.ite | apply State.ctx_kept | apply State.ioTry_kept | apply State.splitRuns_kept | apply State.readHere_kept
    | apply hs | simp -zeta only [↓kept_mk, ↓console_mk, ↓console_mk', ↓boot_mk, ↓keeper_mk] | apply KeptMk.same | apply KeptMk.setCon
    | apply KeptMk.setBst | apply KeptMk.setKpr | apply KeptMk.setRegs | apply KeptMk.setAll | apply ConsoleMk.same | apply ConsoleMk.setBuf
    | apply BootMk.same | apply KeeperMk.same | apply Kept.pending | apply Kept.regs | apply Kept.bst | apply Kept.kpr | apply Kept.con
    | exact Nat.zero_le _ | apply Kept.getD | exact nil_le | apply Kept.foldl_snd | apply Kept.foldl_fst | apply Kept.foldl

theorem execRead_kept {pq : List Instr} {h : Hdr} {nsid : Word} {slba : Nat} {lbas : Nat} {s : State} (hs : Kept pq s) :
    KeptOut pq (execRead h nsid slba lbas s) := by
  unfold execRead
  try dsimp only
  apply Kept.next
  with_reducible repeat' first
    | assumption | intro _ | apply Kept.ite | apply BootStore.next_kept | apply State.host_kept | apply State.stopIo_kept | apply State.noteRead_kept
    | apply State.readCmd_kept | apply Run.read_kept | apply hs | simp -zeta only [↓kept_mk, ↓console_mk, ↓console_mk', ↓boot_mk, ↓keeper_mk]
    | apply KeptMk.same | apply KeptMk.setCon | apply KeptMk.setBst | apply KeptMk.setKpr | apply KeptMk.setRegs | apply KeptMk.setAll
    | apply ConsoleMk.same | apply ConsoleMk.setBuf | apply BootMk.same | apply KeeperMk.same | apply Kept.pending | apply Kept.regs | apply Kept.bst
    | apply Kept.kpr | apply Kept.con | exact Nat.zero_le _ | apply Kept.getD | exact nil_le | apply Kept.foldl_snd | apply Kept.foldl_fst
    | apply Kept.foldl | apply KeptO.none | apply KeptO.some | apply KeptO3.none | apply KeptO3.some | apply Kept.next | split

theorem execVerify_kept {pq : List Instr} {h : Hdr} {nsid : Word} {slba : Nat} {lbas : Nat} {s : State} (hs : Kept pq s) :
    KeptOut pq (execVerify h nsid slba lbas s) := by
  unfold execVerify
  try dsimp only
  apply Kept.next
  with_reducible repeat' first
    | assumption | intro _ | apply Kept.ite | apply BootStore.next_kept | apply State.host_kept | apply State.stopIo_kept | apply State.readCmd_kept
    | apply hs | simp -zeta only [↓kept_mk, ↓console_mk, ↓console_mk', ↓boot_mk, ↓keeper_mk] | apply KeptMk.same | apply KeptMk.setCon
    | apply KeptMk.setBst | apply KeptMk.setKpr | apply KeptMk.setRegs | apply KeptMk.setAll | apply ConsoleMk.same | apply ConsoleMk.setBuf
    | apply BootMk.same | apply KeeperMk.same | apply Kept.pending | apply Kept.regs | apply Kept.bst | apply Kept.kpr | apply Kept.con
    | exact Nat.zero_le _ | apply Kept.getD | exact nil_le | apply Kept.foldl_snd | apply Kept.foldl_fst | apply Kept.foldl | apply KeptO.none
    | apply KeptO.some | apply KeptO3.none | apply KeptO3.some | apply Kept.next | split

theorem State.specOne_kept {pq : List Instr} {s : State} {ns : Fin 8} {d : Nat} (hs : Kept pq s) :
    Kept pq (State.specOne s ns d) := by
  unfold State.specOne
  with_reducible repeat' first
    | assumption | intro _ | apply Kept.ite | apply State.readSector_kept

theorem execSpeculativeRead_kept {pq : List Instr} {nsid : Word} {s : State} (hs : Kept pq s) :
    KeptOut pq (execSpeculativeRead nsid s) := by
  unfold execSpeculativeRead
  try dsimp only
  apply Kept.next
  with_reducible repeat' first
    | assumption | intro _ | apply Kept.ite | apply State.tethSend_kept | apply BootStore.next_kept | apply State.run_kept | apply State.newTag_kept
    | apply State.newTag_kept_of (by assumption) | apply State.specOne_kept | apply hs | simp -zeta only [↓kept_mk] | apply KeptMk.same
    | apply KeptMk.setCon | apply KeptMk.setBst | apply KeptMk.setKpr | apply KeptMk.setRegs | apply KeptMk.setAll | apply ConsoleMk.same
    | apply ConsoleMk.setBuf | apply BootMk.same | apply KeeperMk.same | apply Kept.pending | apply Kept.regs | apply Kept.bst | apply Kept.kpr
    | apply Kept.con | exact Nat.zero_le _ | apply Kept.getD | exact nil_le | apply Kept.foldl_snd | apply Kept.foldl_fst | apply Kept.foldl
    | apply KeptO.none | apply KeptO.some | apply KeptO3.none | apply KeptO3.some | apply Kept.next | split

theorem State.stageOne_kept {pq : List Instr} {s : State} {h : Hdr} {ns : Fin 8} {lba : Nat} {d : Nat} {x : Sector} {mask : Option (List Bool)} {cached : Bool} (hs : Kept pq s) :
    Kept pq (State.stageOne s h ns lba d x mask cached) := by
  unfold State.stageOne
  try dsimp only
  with_reducible repeat' first
    | assumption | intro _ | apply Kept.ite | apply State.poolFit_kept | apply State.ctx_kept | apply hs | simp -zeta only [↓kept_mk]
    | apply KeptMk.same | apply KeptMk.setCon | apply KeptMk.setBst | apply KeptMk.setKpr | apply KeptMk.setRegs | apply KeptMk.setAll
    | apply ConsoleMk.same | apply ConsoleMk.setBuf | apply BootMk.same | apply KeeperMk.same | apply Kept.pending | apply Kept.regs | apply Kept.bst
    | apply Kept.kpr | apply Kept.con | exact Nat.zero_le _ | apply Kept.getD | exact nil_le | apply Kept.foldl_snd | apply Kept.foldl_fst
    | apply Kept.foldl | apply KeptO.none | apply KeptO.some | apply KeptO3.none | apply KeptO3.some | apply Kept.next | split

theorem State.stageHere_kept {pq : List Instr} {s : State} {h : Hdr} {ns : Fin 8} {r : NsRec} {first : Nat} {n : Nat} {cached : Bool} {sec : Nat → Sector} (hs : Kept pq s) :
    Kept pq (State.stageHere s h ns r first n cached sec) := by
  unfold State.stageHere
  try dsimp only
  with_reducible repeat' first
    | assumption | intro _ | apply Kept.ite | apply State.stageOne_kept | apply hs
    | simp -zeta only [↓kept_mk, ↓console_mk, ↓console_mk', ↓boot_mk, ↓keeper_mk] | apply KeptMk.same | apply KeptMk.setCon | apply KeptMk.setBst
    | apply KeptMk.setKpr | apply KeptMk.setRegs | apply KeptMk.setAll | apply ConsoleMk.same | apply ConsoleMk.setBuf | apply BootMk.same
    | apply KeeperMk.same | apply Kept.pending | apply Kept.regs | apply Kept.bst | apply Kept.kpr | apply Kept.con | exact Nat.zero_le _
    | apply Kept.getD | exact nil_le | apply Kept.foldl_snd | apply Kept.foldl_fst | apply Kept.foldl | apply KeptO.none | apply KeptO.some
    | apply KeptO3.none | apply KeptO3.some | apply Kept.next | split

theorem State.cachedSent_kept {pq : List Instr} {s : State} {rs : List (Nat × Nat × Nat)} (hs : Kept pq s) :
    Kept pq (State.cachedSent s rs) := by
  unfold State.cachedSent
  try dsimp only
  with_reducible repeat' first
    | assumption | intro _ | apply Kept.ite | apply hs | simp -zeta only [↓kept_mk] | apply KeptMk.same

theorem execWrite_kept {pq : List Instr} {h : Hdr} {nsid : Word} {slba : Nat} {data : List Sector} {lbas : Nat} {fua : Bool} {s : State} (hs : Kept pq s) :
    KeptOut pq (execWrite h nsid slba data lbas fua s) := by
  unfold execWrite
  try dsimp only
  apply Kept.next
  with_reducible repeat' first
    | assumption | intro _ | apply Kept.ite | apply BootStore.next_kept | apply State.host_kept | apply State.ioTry_kept | apply State.cacheAdmit_kept
    | apply State.stopIo_kept | apply State.splitRuns_kept | apply State.stageHere_kept | apply State.cachedSent_kept | apply Run.write_kept
    | apply hs | simp -zeta only [↓kept_mk, ↓console_mk, ↓console_mk', ↓boot_mk, ↓keeper_mk] | apply KeptMk.same | apply KeptMk.setCon
    | apply KeptMk.setBst | apply KeptMk.setKpr | apply KeptMk.setRegs | apply KeptMk.setAll | apply ConsoleMk.same | apply ConsoleMk.setBuf
    | apply BootMk.same | apply KeeperMk.same | apply Kept.pending | apply Kept.regs | apply Kept.bst | apply Kept.kpr | apply Kept.con
    | exact Nat.zero_le _ | apply Kept.getD | exact nil_le | apply Kept.foldl_snd | apply Kept.foldl_fst | apply Kept.foldl | apply KeptO.none
    | apply KeptO.some | apply KeptO3.none | apply KeptO3.some | apply Kept.next | split

theorem State.flushHere_kept {pq : List Instr} {s : State} {h : Hdr} (hs : Kept pq s) :
    Kept pq (State.flushHere s h) := by
  unfold State.flushHere
  try dsimp only
  with_reducible repeat' first
    | assumption | intro _ | apply Kept.ite | apply State.ctx_kept | apply State.settle_kept

theorem execFlush_kept {pq : List Instr} {h : Hdr} {nsid : Word} {s : State} (hs : Kept pq s) :
    KeptOut pq (execFlush h nsid s) := by
  unfold execFlush
  try dsimp only
  apply Kept.next
  with_reducible repeat' first
    | assumption | intro _ | apply Kept.ite | apply BootStore.next_kept | apply State.host_kept | apply State.done_kept | apply State.newPart_kept
    | apply State.flushHere_kept | apply hs | simp -zeta only [↓kept_mk, ↓console_mk, ↓console_mk', ↓boot_mk, ↓keeper_mk] | apply KeptMk.same
    | apply KeptMk.setCon | apply KeptMk.setBst | apply KeptMk.setKpr | apply KeptMk.setRegs | apply KeptMk.setAll | apply ConsoleMk.same
    | apply ConsoleMk.setBuf | apply BootMk.same | apply KeeperMk.same | apply Kept.pending | apply Kept.regs | apply Kept.bst | apply Kept.kpr
    | apply Kept.con | exact Nat.zero_le _ | apply Kept.getD | exact nil_le | apply Kept.foldl_snd | apply Kept.foldl_fst | apply Kept.foldl
    | apply KeptO.none | apply KeptO.some | apply KeptO3.none | apply KeptO3.some | apply Kept.next | split

theorem State.zeroParts_kept {pq : List Instr} {s : State} {h : Hdr} {ns : Fin 8} {r : NsRec} {ranges : List (Nat × Nat)} (hs : Kept pq s) :
    Kept pq (State.zeroParts s h ns r ranges) := by
  unfold State.zeroParts
  try dsimp only
  with_reducible repeat' first
    | assumption | intro _ | apply Kept.ite | apply State.stageOne_kept | apply hs
    | simp -zeta only [↓kept_mk, ↓console_mk, ↓console_mk', ↓boot_mk, ↓keeper_mk] | apply KeptMk.same | apply KeptMk.setCon | apply KeptMk.setBst
    | apply KeptMk.setKpr | apply KeptMk.setRegs | apply KeptMk.setAll | apply ConsoleMk.same | apply ConsoleMk.setBuf | apply BootMk.same
    | apply KeeperMk.same | apply Kept.pending | apply Kept.regs | apply Kept.bst | apply Kept.kpr | apply Kept.con | exact Nat.zero_le _
    | apply Kept.getD | exact nil_le | apply Kept.foldl_snd | apply Kept.foldl_fst | apply Kept.foldl | apply KeptO.none | apply KeptO.some
    | apply KeptO3.none | apply KeptO3.some | apply Kept.next | split

theorem State.zeroHere_kept {pq : List Instr} {s : State} {h : Hdr} {ns : Fin 8} {r : NsRec} {ranges : List (Nat × Nat)} (hs : Kept pq s) :
    Kept pq (State.zeroHere s h ns r ranges) := by
  unfold State.zeroHere
  try dsimp only
  with_reducible repeat' first
    | assumption | intro _ | apply Kept.ite | apply State.deallocate_kept | apply State.zeroParts_kept | simp -zeta only [↓kept_mk]

theorem execWriteZeroes_kept {pq : List Instr} {h : Hdr} {nsid : Word} {slba : Nat} {lbas : Nat} {s : State} (hs : Kept pq s) :
    KeptOut pq (execWriteZeroes h nsid slba lbas s) := by
  unfold execWriteZeroes
  try dsimp only
  apply Kept.next
  with_reducible repeat' first
    | assumption | intro _ | apply Kept.ite | apply BootStore.next_kept | apply State.host_kept | apply State.ioTry_kept | apply State.stopIo_kept
    | apply State.splitRanges_kept | apply State.zeroHere_kept | apply hs
    | simp -zeta only [↓kept_mk, ↓console_mk, ↓console_mk', ↓boot_mk, ↓keeper_mk] | apply KeptMk.same | apply KeptMk.setCon | apply KeptMk.setBst
    | apply KeptMk.setKpr | apply KeptMk.setRegs | apply KeptMk.setAll | apply ConsoleMk.same | apply ConsoleMk.setBuf | apply BootMk.same
    | apply KeeperMk.same | apply Kept.pending | apply Kept.regs | apply Kept.bst | apply Kept.kpr | apply Kept.con | exact Nat.zero_le _
    | apply Kept.getD | exact nil_le | apply Kept.foldl_snd | apply Kept.foldl_fst | apply Kept.foldl | apply KeptO.none | apply KeptO.some
    | apply KeptO3.none | apply KeptO3.some | apply Kept.next | split

theorem execDatasetManagement_kept {pq : List Instr} {h : Hdr} {nsid : Word} {ad : Bool} {ranges : List (Nat × Nat)} {s : State} (hs : Kept pq s) :
    KeptOut pq (execDatasetManagement h nsid ad ranges s) := by
  unfold execDatasetManagement
  try dsimp only
  apply Kept.next
  with_reducible repeat' first
    | assumption | intro _ | apply Kept.ite | apply BootStore.next_kept | apply State.host_kept | apply State.good_kept | apply State.ioTry_kept
    | apply State.stopIo_kept | apply State.splitRanges_kept | apply State.zeroHere_kept | apply hs
    | simp -zeta only [↓kept_mk, ↓console_mk, ↓console_mk', ↓boot_mk, ↓keeper_mk] | apply KeptMk.same | apply KeptMk.setCon | apply KeptMk.setBst
    | apply KeptMk.setKpr | apply KeptMk.setRegs | apply KeptMk.setAll | apply ConsoleMk.same | apply ConsoleMk.setBuf | apply BootMk.same
    | apply KeeperMk.same | apply Kept.pending | apply Kept.regs | apply Kept.bst | apply Kept.kpr | apply Kept.con | exact Nat.zero_le _
    | apply Kept.getD | exact nil_le | apply Kept.foldl_snd | apply Kept.foldl_fst | apply Kept.foldl | apply KeptO.none | apply KeptO.some
    | apply KeptO3.none | apply KeptO3.some | apply Kept.next | split

theorem State.secureHere_kept {pq : List Instr} {s : State} {h : Hdr} {ns : Fin 8} {r : NsRec} {ranges : List (Nat × Nat)} (hs : Kept pq s) :
    Kept pq (State.secureHere s h ns r ranges) := by
  unfold State.secureHere
  try dsimp only
  with_reducible repeat' first
    | assumption | intro _ | apply Kept.ite | apply State.secureBegin_kept | apply State.zeroParts_kept | apply hs | simp -zeta only [↓kept_mk]
    | apply KeptMk.same

theorem execSecureDeallocate_kept {pq : List Instr} {h : Hdr} {nsid : Word} {ranges : List (Nat × Nat)} {s : State} (hs : Kept pq s) :
    KeptOut pq (execSecureDeallocate h nsid ranges s) := by
  unfold execSecureDeallocate
  try dsimp only
  apply Kept.next
  with_reducible repeat' first
    | assumption | intro _ | apply Kept.ite | apply BootStore.next_kept | apply State.host_kept | apply State.done_kept | apply State.ioTry_kept
    | apply State.stopIo_kept | apply State.splitRanges_kept | apply State.secureHere_kept | apply hs
    | simp -zeta only [↓kept_mk, ↓console_mk, ↓console_mk', ↓boot_mk, ↓keeper_mk] | apply KeptMk.same | apply KeptMk.setCon | apply KeptMk.setBst
    | apply KeptMk.setKpr | apply KeptMk.setRegs | apply KeptMk.setAll | apply ConsoleMk.same | apply ConsoleMk.setBuf | apply BootMk.same
    | apply KeeperMk.same | apply Kept.pending | apply Kept.regs | apply Kept.bst | apply Kept.kpr | apply Kept.con | exact Nat.zero_le _
    | apply Kept.getD | exact nil_le | apply Kept.foldl_snd | apply Kept.foldl_fst | apply Kept.foldl | apply KeptO.none | apply KeptO.some
    | apply KeptO3.none | apply KeptO3.some | apply Kept.next | split

theorem State.dropPart_kept {pq : List Instr} {s : State} {tag : BitVec 16} (hs : Kept pq s) :
    Kept pq (State.dropPart s tag) := by
  unfold State.dropPart
  try dsimp only
  with_reducible repeat' first
    | assumption | intro _ | apply Kept.ite | apply State.stopCommand_kept | apply hs | simp -zeta only [↓kept_mk] | apply KeptMk.same

theorem State.runPart_kept {pq : List Instr} {s : State} {tag : BitVec 16} (hs : Kept pq s) :
    Kept pq (State.runPart s tag) := by
  unfold State.runPart
  try dsimp only
  with_reducible repeat' first
    | assumption | intro _ | apply Kept.ite | apply State.raiseIf_kept | apply BootStore.next_kept | apply State.run_kept | apply State.ctx_kept
    | apply State.setCtx_kept | apply State.partDone_kept | apply State.ioTry_kept | apply State.cacheAdmit_kept | apply State.readHere_kept
    | apply State.specOne_kept | apply State.stageHere_kept | apply State.flushHere_kept | apply State.zeroHere_kept | apply State.secureHere_kept
    | apply hs | simp -zeta only [↓kept_mk] | apply KeptMk.same | apply KeptMk.setCon | apply KeptMk.setBst | apply KeptMk.setKpr
    | apply KeptMk.setRegs | apply KeptMk.setAll | apply ConsoleMk.same | apply ConsoleMk.setBuf | apply BootMk.same | apply KeeperMk.same
    | apply Kept.pending | apply Kept.regs | apply Kept.bst | apply Kept.kpr | apply Kept.con | exact Nat.zero_le _ | apply Kept.getD | exact nil_le
    | apply Kept.foldl_snd | apply Kept.foldl_fst | apply Kept.foldl | apply KeptO.none | apply KeptO.some | apply KeptO3.none | apply KeptO3.some
    | apply Kept.next | split

end Sys2Proof.Machine
end

