-- ==== Sys2Proof/Laws/KeptLogPages.lean ====
section
/-! SUPPORT. The operations of Machine/LogPages.lean keep the queue of commands and the sound form of the state. -/

namespace Sys2Proof.Machine

theorem State.pageRead_kept {pq : List Instr} {s : State} {lid : Nat} {rae : Bool} (hs : Kept pq s) :
    Kept pq (State.pageRead s lid rae) := by
  unfold State.pageRead
  try dsimp only
  with_reducible repeat' first
    | assumption | intro _ | apply Kept.ite | apply hs | simp -zeta only [↓kept_mk] | apply KeptMk.same

theorem execGetLogPage_kept {pq : List Instr} {h : Hdr} {lid : Byte} {numd : BitVec 32} {lpo : BitVec 64} {rae : Bool} {s : State} (hs : Kept pq s) :
    KeptOut pq (execGetLogPage h lid numd lpo rae s) := by
  unfold execGetLogPage
  try dsimp only
  apply Kept.next
  with_reducible repeat' first
    | assumption | intro _ | apply Kept.ite | apply BootStore.next_kept | apply State.host_kept | apply State.done_kept | apply State.pageRead_kept
    | apply hs | simp -zeta only [↓kept_mk, ↓console_mk, ↓console_mk', ↓boot_mk, ↓keeper_mk] | apply KeptMk.same | apply KeptMk.setCon
    | apply KeptMk.setBst | apply KeptMk.setKpr | apply KeptMk.setRegs | apply KeptMk.setAll | apply ConsoleMk.same | apply ConsoleMk.setBuf
    | apply BootMk.same | apply KeeperMk.same | apply Kept.pending | apply Kept.regs | apply Kept.bst | apply Kept.kpr | apply Kept.con
    | exact Nat.zero_le _ | apply Kept.getD | exact nil_le | apply Kept.foldl_snd | apply Kept.foldl_fst | apply Kept.foldl | apply KeptO.none
    | apply KeptO.some | apply KeptO3.none | apply KeptO3.some | apply Kept.next | split

end Sys2Proof.Machine
end

