-- ==== Sys2Proof/Laws/KeptReset.lean ====
section
/-! SUPPORT. The operations of Machine/Reset.lean keep the queue of commands and the sound form of the state. -/

namespace Sys2Proof.Machine

theorem execPowerOnReset_kept {pq : List Instr} {s : State} (hs : Kept pq s) :
    KeptOut pq (execPowerOnReset s) := by
  unfold execPowerOnReset
  try dsimp only
  apply Kept.next
  with_reducible repeat' first
    | assumption | intro _ | apply Kept.ite | apply BootStore.spoilSec_kept | apply BootStore.next_kept | apply State.bstSpoil_kept
    | apply State.assertReset_kept | apply hs | simp -zeta only [↓kept_mk, ↓boot_mk] | apply KeptMk.same | apply KeptMk.setCon | apply KeptMk.setBst
    | apply KeptMk.setKpr | apply KeptMk.setRegs | apply KeptMk.setAll | apply ConsoleMk.same | apply ConsoleMk.setBuf | apply BootMk.same
    | apply KeeperMk.same | apply Kept.pending | apply Kept.regs | apply Kept.bst | apply Kept.kpr | apply Kept.con | exact Nat.zero_le _
    | apply Kept.getD | exact nil_le | apply Kept.foldl_snd | apply Kept.foldl_fst | apply Kept.foldl | apply KeptO.none | apply KeptO.some
    | apply KeptO3.none | apply KeptO3.some | apply Kept.next | split

theorem State.restart0_kept {pq : List Instr} {s : State} {src : Nat} (hs : Kept pq s) :
    Kept pq (State.restart0 s src) := by
  unfold State.restart0
  try dsimp only
  with_reducible repeat' first
    | assumption | intro _ | apply Kept.ite | apply State.setReg_kept | apply State.cause_kept | apply State.assertReset_kept

theorem State.requestDown_kept {pq : List Instr} {s : State} {src : Nat} (hs : Kept pq s) :
    Kept pq (State.requestDown s src) := by
  unfold State.requestDown
  with_reducible repeat' first
    | assumption | intro _ | apply Kept.ite | apply State.requestFused_kept | apply State.restart0_kept

theorem execBrownOut_kept {pq : List Instr} {rail : Rail} {s : State} (hs : Kept pq s) :
    KeptOut pq (execBrownOut rail s) := by
  unfold execBrownOut
  try dsimp only
  apply Kept.next
  with_reducible repeat' first
    | assumption | intro _ | apply Kept.ite | apply BootStore.next_kept | apply State.requestDown_kept | apply hs | simp -zeta only [↓kept_mk]
    | apply KeptMk.same | apply KeptMk.setCon | apply KeptMk.setBst | apply KeptMk.setKpr | apply KeptMk.setRegs | apply KeptMk.setAll
    | apply ConsoleMk.same | apply ConsoleMk.setBuf | apply BootMk.same | apply KeeperMk.same | apply Kept.pending | apply Kept.regs | apply Kept.bst
    | apply Kept.kpr | apply Kept.con | exact Nat.zero_le _ | apply Kept.getD | exact nil_le | apply Kept.foldl_snd | apply Kept.foldl_fst
    | apply Kept.foldl | apply KeptO.none | apply KeptO.some | apply KeptO3.none | apply KeptO3.some | apply Kept.next | split

theorem execRstNLow_kept {pq : List Instr} {s : State} (hs : Kept pq s) :
    KeptOut pq (execRstNLow s) := by
  unfold execRstNLow
  try dsimp only
  apply Kept.next
  with_reducible repeat' first
    | assumption | intro _ | apply Kept.ite | apply BootStore.next_kept | apply State.requestDown_kept | apply hs | simp -zeta only [↓kept_mk]
    | apply KeptMk.same

theorem execRstNHigh_kept {pq : List Instr} {s : State} (hs : Kept pq s) :
    KeptOut pq (execRstNHigh s) := by
  unfold execRstNHigh
  try dsimp only
  apply Kept.next
  with_reducible repeat' first
    | assumption | intro _ | apply Kept.ite | apply BootStore.next_kept | apply hs | simp -zeta only [↓kept_mk] | apply KeptMk.same

theorem execPerstAsserted_kept {pq : List Instr} {s : State} (hs : Kept pq s) :
    KeptOut pq (execPerstAsserted s) := by
  unfold execPerstAsserted
  try dsimp only
  apply Kept.next
  with_reducible repeat' first
    | assumption | intro _ | apply Kept.ite | apply BootStore.next_kept | apply State.requestFused_kept | apply hs | simp -zeta only [↓kept_mk]
    | apply KeptMk.same

theorem execPerstDeasserted_kept {pq : List Instr} {s : State} (hs : Kept pq s) :
    KeptOut pq (execPerstDeasserted s) := by
  unfold execPerstDeasserted
  try dsimp only
  apply Kept.next
  with_reducible repeat' first
    | assumption | intro _ | apply Kept.ite | apply BootStore.next_kept | apply hs | simp -zeta only [↓kept_mk] | apply KeptMk.same

theorem State.linkReset_kept {pq : List Instr} {s : State} {lanes : HostLanes} (hs : Kept pq s) :
    Kept pq (State.linkReset s lanes) := by
  unfold State.linkReset
  try dsimp only
  with_reducible repeat' first
    | assumption | intro _ | apply Kept.ite | apply State.resetRegs_kept | apply hs | simp -zeta only [↓kept_mk] | apply KeptMk.same

theorem execHotReset_kept {pq : List Instr} {s : State} (hs : Kept pq s) :
    KeptOut pq (execHotReset s) := by
  unfold execHotReset
  apply Kept.next
  with_reducible repeat' first
    | assumption | intro _ | apply Kept.ite | apply BootStore.next_kept | apply State.linkReset_kept

theorem execLinkDisable_kept {pq : List Instr} {s : State} (hs : Kept pq s) :
    KeptOut pq (execLinkDisable s) := by
  unfold execLinkDisable
  apply Kept.next
  with_reducible repeat' first
    | assumption | intro _ | apply Kept.ite | apply BootStore.next_kept | apply State.linkReset_kept

theorem execHostLinkDown_kept {pq : List Instr} {s : State} (hs : Kept pq s) :
    KeptOut pq (execHostLinkDown s) := by
  unfold execHostLinkDown
  try dsimp only
  apply Kept.next
  with_reducible repeat' first
    | assumption | intro _ | apply Kept.ite | apply State.raise_kept | apply BootStore.next_kept | apply hs | simp -zeta only [↓kept_mk]
    | apply KeptMk.same

theorem State.goReset_kept {pq : List Instr} {s : State} {cls : Cls} {level : Nat} {unit : Nat} (hs : Kept pq s) :
    Kept pq (State.goReset s cls level unit) := by
  unfold State.goReset
  try dsimp only
  with_reducible repeat' first
    | assumption | intro _ | apply Kept.ite | apply State.setRf_kept | apply State.requestReset_kept | apply State.requestFused_kept
    | apply State.requestUnit_kept | apply State.requestUnit_kept_of (by assumption) | apply hs
    | simp -zeta only [↓kept_mk, ↓console_mk, ↓console_mk', ↓boot_mk, ↓keeper_mk] | apply KeptMk.same | apply KeptMk.setCon | apply KeptMk.setBst
    | apply KeptMk.setKpr | apply KeptMk.setRegs | apply KeptMk.setAll | apply ConsoleMk.same | apply ConsoleMk.setBuf | apply BootMk.same
    | apply KeeperMk.same | apply Kept.pending | apply Kept.regs | apply Kept.bst | apply Kept.kpr | apply Kept.con | exact Nat.zero_le _
    | apply Kept.getD | exact nil_le | apply Kept.foldl_snd | apply Kept.foldl_fst | apply Kept.foldl | apply KeptO.none | apply KeptO.some
    | apply KeptO3.none | apply KeptO3.some | apply Kept.next | split

theorem execSysRstReqGo_kept {pq : List Instr} {cls : Cls} {level : BitVec 3} {unit : BitVec 5} {s : State} (hs : Kept pq s) :
    KeptOut pq (execSysRstReqGo cls level unit s) := by
  unfold execSysRstReqGo
  apply Kept.next
  with_reducible repeat' first
    | assumption | intro _ | apply Kept.ite | apply State.setRf_kept | apply BootStore.next_kept | apply State.goReset_kept

theorem State.clearCause_kept {pq : List Instr} {s : State} {mask : Word} (hs : Kept pq s) :
    Kept pq (State.clearCause s mask) := by
  unfold State.clearCause
  with_reducible repeat' first
    | assumption | intro _ | apply Kept.ite | apply State.setReg_kept

theorem execSysCauseClear_kept {pq : List Instr} {mask : Word} {s : State} (hs : Kept pq s) :
    KeptOut pq (execSysCauseClear mask s) := by
  unfold execSysCauseClear
  apply Kept.next
  with_reducible repeat' first
    | assumption | intro _ | apply Kept.ite | apply BootStore.next_kept | apply State.clearCause_kept

theorem execLastRailGood_kept {pq : List Instr} {s : State} (hs : Kept pq s) :
    KeptOut pq (execLastRailGood s) := by
  unfold execLastRailGood
  try dsimp only
  apply Kept.next
  with_reducible repeat' first
    | assumption | intro _ | apply Kept.ite | apply BootStore.next_kept | apply hs | simp -zeta only [↓kept_mk] | apply KeptMk.same

theorem execAonCapGood_kept {pq : List Instr} {s : State} (hs : Kept pq s) :
    KeptOut pq (execAonCapGood s) := by
  unfold execAonCapGood
  try dsimp only
  apply Kept.next
  with_reducible repeat' first
    | assumption | intro _ | apply Kept.ite | apply State.setRf_kept | apply BootStore.next_kept | apply hs | simp -zeta only [↓kept_mk]
    | apply KeptMk.same

theorem execStrapSample_kept {pq : List Instr} {codes : Vector (BitVec 6) 16} {s : State} (hs : Kept pq s) :
    KeptOut pq (execStrapSample codes s) := by
  unfold execStrapSample
  try dsimp only
  apply Kept.next
  with_reducible repeat' first
    | assumption | intro _ | apply Kept.ite | apply State.setReg_kept | apply BootStore.next_kept | apply hs | simp -zeta only [↓kept_mk]
    | apply KeptMk.same

theorem State.rootOn_kept {pq : List Instr} {s : State} (hs : Kept pq s) :
    Kept pq (State.rootOn s) := by
  unfold State.rootOn
  try dsimp only
  with_reducible repeat' first
    | assumption | intro _ | apply Kept.ite | apply State.setRf_kept

theorem execRootPllLock_kept {pq : List Instr} {s : State} (hs : Kept pq s) :
    KeptOut pq (execRootPllLock s) := by
  unfold execRootPllLock
  apply Kept.next
  with_reducible repeat' first
    | assumption | intro _ | apply Kept.ite | apply BootStore.next_kept | apply State.rootOn_kept

theorem State.tethStart_kept {pq : List Instr} {s : State} (hs : Kept pq s) :
    Kept pq (State.tethStart s) := by
  unfold State.tethStart
  try dsimp only
  with_reducible repeat' first
    | assumption | intro _ | apply Kept.ite | apply State.startPorts_kept | apply hs | simp -zeta only [↓kept_mk] | apply KeptMk.same

theorem State.loadMap_kept {pq : List Instr} {s : State} (hs : Kept pq s) :
    Kept pq (State.loadMap s) := by
  unfold State.loadMap
  try dsimp only
  with_reducible repeat' first
    | assumption | intro _ | apply Kept.ite | apply hs | simp -zeta only [↓kept_mk] | apply KeptMk.same

theorem State.coldLife_kept {pq : List Instr} {s : State} (hs : Kept pq s) :
    Kept pq (State.coldLife s) := by
  unfold State.coldLife
  try dsimp only
  with_reducible repeat' first
    | assumption | intro _ | apply Kept.ite | apply hs | simp -zeta only [↓kept_mk] | apply KeptMk.same

theorem State.bootProfiles_kept {pq : List Instr} {s : State} (hs : Kept pq s) :
    Kept pq (State.bootProfiles s) := by
  unfold State.bootProfiles
  try dsimp only
  with_reducible repeat' first
    | assumption | intro _ | apply Kept.ite | apply State.gal_kept | apply hs
    | simp -zeta only [↓kept_mk, ↓console_mk, ↓console_mk', ↓boot_mk, ↓keeper_mk] | apply KeptMk.same | apply KeptMk.setCon | apply KeptMk.setBst
    | apply KeptMk.setKpr | apply KeptMk.setRegs | apply KeptMk.setAll | apply ConsoleMk.same | apply ConsoleMk.setBuf | apply BootMk.same
    | apply KeeperMk.same | apply Kept.pending | apply Kept.regs | apply Kept.bst | apply Kept.kpr | apply Kept.con | exact Nat.zero_le _
    | apply Kept.getD | exact nil_le | apply Kept.foldl_snd | apply Kept.foldl_fst | apply Kept.foldl | apply KeptO.none | apply KeptO.some
    | apply KeptO3.none | apply KeptO3.some | apply Kept.next | split

theorem State.tethEnables_kept {pq : List Instr} {s : State} (hs : Kept pq s) :
    Kept pq (State.tethEnables s) := by
  unfold State.tethEnables
  with_reducible repeat' first
    | assumption | intro _ | apply Kept.ite | apply State.setReg_kept

theorem State.coresStart_kept {pq : List Instr} {s : State} {l : Nat} {sigA : Bool} {sigB : Bool} (hs : Kept pq s) :
    Kept pq (State.coresStart s l sigA sigB) := by
  unfold State.coresStart
  try dsimp only
  with_reducible repeat' first
    | assumption | intro _ | apply Kept.ite | apply State.kprFill_kept | apply State.enter_kept | apply BootStore.hStart_kept
    | apply State.twinSelect_kept | apply State.mirrorAll_kept | apply State.loadSaved_kept | apply State.galSetup_kept | apply State.loadMap_kept
    | apply State.coldLife_kept | apply State.bootProfiles_kept | apply State.tethEnables_kept | apply hs | simp -zeta only [↓kept_mk, ↓boot_mk]
    | apply KeptMk.same | apply KeptMk.setCon | apply KeptMk.setBst | apply KeptMk.setKpr | apply KeptMk.setRegs | apply KeptMk.setAll
    | apply ConsoleMk.same | apply ConsoleMk.setBuf | apply BootMk.same | apply KeeperMk.same | apply Kept.pending | apply Kept.regs | apply Kept.bst
    | apply Kept.kpr | apply Kept.con | exact Nat.zero_le _ | apply Kept.getD | exact nil_le | apply Kept.foldl_snd | apply Kept.foldl_fst
    | apply Kept.foldl

theorem State.codecStart_kept {pq : List Instr} {s : State} {katFail : BitVec 4} (hs : Kept pq s) :
    Kept pq (State.codecStart s katFail) := by
  unfold State.codecStart
  try dsimp only
  with_reducible repeat' first
    | assumption | intro _ | apply Kept.ite | apply State.setRf_kept | apply State.raiseIf_kept | apply State.loadKeys_kept

theorem State.hostStart_kept {pq : List Instr} {s : State} {l : Nat} (hs : Kept pq s) :
    Kept pq (State.hostStart s l) := by
  unfold State.hostStart
  try dsimp only
  with_reducible repeat' first
    | assumption | intro _ | apply Kept.ite | apply State.tethStart_kept | apply hs | simp -zeta only [↓kept_mk] | apply KeptMk.same

theorem State.domainStart_kept {pq : List Instr} {s : State} {d : Clk} {l : Nat} {katFail : BitVec 4} {sigA : Bool} {sigB : Bool} (hs : Kept pq s) :
    Kept pq (State.domainStart s d l katFail sigA sigB) := by
  unfold State.domainStart
  try dsimp only
  with_reducible repeat' first
    | assumption | intro _ | apply Kept.ite | apply State.coresStart_kept | apply State.codecStart_kept | apply State.hostStart_kept | apply hs
    | simp -zeta only [↓kept_mk, ↓console_mk, ↓console_mk', ↓boot_mk, ↓keeper_mk] | apply KeptMk.same | apply KeptMk.setCon | apply KeptMk.setBst
    | apply KeptMk.setKpr | apply KeptMk.setRegs | apply KeptMk.setAll | apply ConsoleMk.same | apply ConsoleMk.setBuf | apply BootMk.same
    | apply KeeperMk.same | apply Kept.pending | apply Kept.regs | apply Kept.bst | apply Kept.kpr | apply Kept.con | exact Nat.zero_le _
    | apply Kept.getD | exact nil_le | apply Kept.foldl_snd | apply Kept.foldl_fst | apply Kept.foldl | apply KeptO.none | apply KeptO.some
    | apply KeptO3.none | apply KeptO3.some | apply Kept.next | split

theorem State.resetEnd_kept {pq : List Instr} {s : State} (hs : Kept pq s) :
    Kept pq (State.resetEnd s) := by
  unfold State.resetEnd
  try dsimp only
  with_reducible repeat' first
    | assumption | intro _ | apply Kept.ite | apply State.assertReset_kept | apply hs | simp -zeta only [↓kept_mk] | apply KeptMk.same
    | apply KeptMk.setCon | apply KeptMk.setBst | apply KeptMk.setKpr | apply KeptMk.setRegs | apply KeptMk.setAll | apply ConsoleMk.same
    | apply ConsoleMk.setBuf | apply BootMk.same | apply KeeperMk.same | apply Kept.pending | apply Kept.regs | apply Kept.bst | apply Kept.kpr
    | apply Kept.con | exact Nat.zero_le _ | apply Kept.getD | exact nil_le | apply Kept.foldl_snd | apply Kept.foldl_fst | apply Kept.foldl
    | apply KeptO.none | apply KeptO.some | apply KeptO3.none | apply KeptO3.some | apply Kept.next | split

theorem State.release_kept {pq : List Instr} {s : State} {d : Clk} {katFail : BitVec 4} {sigA : Bool} {sigB : Bool} (hs : Kept pq s) :
    Kept pq (State.release s d katFail sigA sigB) := by
  unfold State.release
  try dsimp only
  with_reducible repeat' first
    | assumption | intro _ | apply Kept.ite | apply State.domainStart_kept | apply State.resetEnd_kept | apply hs | simp -zeta only [↓kept_mk]
    | apply KeptMk.same | apply KeptMk.setCon | apply KeptMk.setBst | apply KeptMk.setKpr | apply KeptMk.setRegs | apply KeptMk.setAll
    | apply ConsoleMk.same | apply ConsoleMk.setBuf | apply BootMk.same | apply KeeperMk.same | apply Kept.pending | apply Kept.regs | apply Kept.bst
    | apply Kept.kpr | apply Kept.con | exact Nat.zero_le _ | apply Kept.getD | exact nil_le | apply Kept.foldl_snd | apply Kept.foldl_fst
    | apply Kept.foldl | apply KeptO.none | apply KeptO.some | apply KeptO3.none | apply KeptO3.some | apply Kept.next | split

theorem execDomainRelease_kept {pq : List Instr} {d : Clk} {good : Bool} {katFail : BitVec 4} {sigA : Bool} {sigB : Bool} {s : State} (hs : Kept pq s) :
    KeptOut pq (execDomainRelease d good katFail sigA sigB s) := by
  unfold execDomainRelease
  apply Kept.next
  with_reducible repeat' first
    | assumption | intro _ | apply Kept.ite | apply BootStore.next_kept | apply State.good_kept | apply State.release_kept

theorem execHostPhyPllLock_kept {pq : List Instr} {s : State} (hs : Kept pq s) :
    KeptOut pq (execHostPhyPllLock s) := by
  unfold execHostPhyPllLock
  apply Kept.next
  with_reducible repeat' first
    | assumption | intro _ | apply Kept.ite | apply State.setRf_kept | apply BootStore.next_kept | apply State.release_kept

theorem execRefclkArrival_kept {pq : List Instr} {s : State} (hs : Kept pq s) :
    KeptOut pq (execRefclkArrival s) := by
  unfold execRefclkArrival
  try dsimp only
  apply Kept.next
  with_reducible repeat' first
    | assumption | intro _ | apply Kept.ite | apply State.setRf_kept | apply State.gal_kept | apply BootStore.next_kept | apply State.markRetrain_kept
    | apply State.rootOn_kept | apply hs | simp -zeta only [↓kept_mk] | apply KeptMk.same | apply KeptMk.setCon | apply KeptMk.setBst
    | apply KeptMk.setKpr | apply KeptMk.setRegs | apply KeptMk.setAll | apply ConsoleMk.same | apply ConsoleMk.setBuf | apply BootMk.same
    | apply KeeperMk.same | apply Kept.pending | apply Kept.regs | apply Kept.bst | apply Kept.kpr | apply Kept.con | exact Nat.zero_le _
    | apply Kept.getD | exact nil_le | apply Kept.foldl_snd | apply Kept.foldl_fst | apply Kept.foldl

theorem State.refclkGone_kept {pq : List Instr} {s : State} (hs : Kept pq s) :
    Kept pq (State.refclkGone s) := by
  unfold State.refclkGone
  try dsimp only
  with_reducible repeat' first
    | assumption | intro _ | apply Kept.ite | apply State.setRf_kept | apply hs | simp -zeta only [↓kept_mk] | apply KeptMk.same

theorem execPllUnlock_kept {pq : List Instr} {planned : Bool} {s : State} (hs : Kept pq s) :
    KeptOut pq (execPllUnlock planned s) := by
  unfold execPllUnlock
  apply Kept.next
  with_reducible repeat' first
    | assumption | intro _ | apply Kept.ite | apply State.raise_kept | apply BootStore.next_kept | apply State.rootFallback_kept
    | apply State.refclkGone_kept | simp -zeta only [↓kept_mk]

theorem State.forceRelease_kept {pq : List Instr} {s : State} {mask : BitVec 5} (hs : Kept pq s) :
    Kept pq (State.forceRelease s mask) := by
  unfold State.forceRelease
  try dsimp only
  with_reducible repeat' first
    | assumption | intro _ | apply Kept.ite | apply State.raise_kept | apply State.good_kept | apply hs | simp -zeta only [↓kept_mk]
    | apply KeptMk.same

theorem execForceRelease_kept {pq : List Instr} {mask : BitVec 5} {s : State} (hs : Kept pq s) :
    KeptOut pq (execForceRelease mask s) := by
  unfold execForceRelease
  apply Kept.next
  with_reducible repeat' first
    | assumption | intro _ | apply Kept.ite | apply BootStore.next_kept | apply State.forceRelease_kept

theorem State.setRail_kept {pq : List Instr} {s : State} {r : Rail} {mv : Nat} (hs : Kept pq s) :
    Kept pq (State.setRail s r mv) := by
  unfold State.setRail
  try dsimp only
  with_reducible repeat' first
    | assumption | intro _ | apply Kept.ite | apply hs | simp -zeta only [↓kept_mk] | apply KeptMk.same

theorem execSupplyWarning_kept {pq : List Instr} {rail : Rail} {mv : Nat} {s : State} (hs : Kept pq s) :
    KeptOut pq (execSupplyWarning rail mv s) := by
  unfold execSupplyWarning
  try dsimp only
  apply Kept.next
  with_reducible repeat' first
    | assumption | intro _ | apply Kept.ite | apply State.setRf_kept | apply State.raise_kept | apply BootStore.next_kept | apply State.setRail_kept

theorem execSupplyWarningCleared_kept {pq : List Instr} {rail : Rail} {mv : Nat} {s : State} (hs : Kept pq s) :
    KeptOut pq (execSupplyWarningCleared rail mv s) := by
  unfold execSupplyWarningCleared
  try dsimp only
  apply Kept.next
  with_reducible repeat' first
    | assumption | intro _ | apply Kept.ite | apply State.setRf_kept | apply BootStore.next_kept | apply State.setRail_kept

end Sys2Proof.Machine
end

