-- ==== Sys2Proof/Laws/KeptTether.lean ====
section
/-! SUPPORT. The operations of Machine/Tether.lean keep the queue of commands and the sound form of the state. -/

namespace Sys2Proof.Machine

theorem State.retrain_kept {pq : List Instr} {s : State} {p : Port} (hs : Kept pq s) :
    Kept pq (State.retrain s p) := by
  unfold State.retrain
  try dsimp only
  with_reducible repeat' first
    | assumption | intro _ | apply Kept.ite | apply State.bump_kept | apply hs | simp -zeta only [↓kept_mk] | apply KeptMk.same

theorem State.replayFrom_kept {pq : List Instr} {s : State} {p : Port} {seq : Nat} (hs : Kept pq s) :
    Kept pq (State.replayFrom s p seq) := by
  unfold State.replayFrom
  try dsimp only
  with_reducible repeat' first
    | assumption | intro _ | apply Kept.ite | apply State.bump_kept | apply State.raise_kept | apply State.seq_kept | apply State.resend_kept
    | apply State.retrain_kept | apply State.replay_kept | apply hs | simp -zeta only [↓kept_mk] | apply KeptMk.same | apply KeptMk.setCon
    | apply KeptMk.setBst | apply KeptMk.setKpr | apply KeptMk.setRegs | apply KeptMk.setAll | apply ConsoleMk.same | apply ConsoleMk.setBuf
    | apply BootMk.same | apply KeeperMk.same | apply Kept.pending | apply Kept.regs | apply Kept.bst | apply Kept.kpr | apply Kept.con
    | exact Nat.zero_le _ | apply Kept.getD | exact nil_le | apply Kept.foldl_snd | apply Kept.foldl_fst | apply Kept.foldl | apply KeptO.none
    | apply KeptO.some | apply KeptO3.none | apply KeptO3.some | apply Kept.next | split

theorem State.linkFrame_kept {pq : List Instr} {s : State} {p : Port} {type : Nat} {seq : Nat} {index : Nat} {arg : Nat} (hs : Kept pq s) :
    Kept pq (State.linkFrame s p type seq index arg) := by
  unfold State.linkFrame
  try dsimp only
  with_reducible repeat' first
    | assumption | intro _ | apply Kept.ite | apply State.seq_kept | apply hs | simp -zeta only [↓kept_mk] | apply KeptMk.same

theorem State.sendAck_kept {pq : List Instr} {s : State} {p : Port} (hs : Kept pq s) :
    Kept pq (State.sendAck s p) := by
  unfold State.sendAck
  with_reducible repeat' first
    | assumption | intro _ | apply Kept.ite | apply State.linkFrame_kept

theorem State.sendNak_kept {pq : List Instr} {s : State} {p : Port} (hs : Kept pq s) :
    Kept pq (State.sendNak s p) := by
  unfold State.sendNak
  with_reducible repeat' first
    | assumption | intro _ | apply Kept.ite | apply State.linkFrame_kept

theorem State.returnCredit_kept {pq : List Instr} {s : State} {p : Port} {type : Nat} (hs : Kept pq s) :
    Kept pq (State.returnCredit s p type) := by
  unfold State.returnCredit
  try dsimp only
  with_reducible repeat' first
    | assumption | intro _ | apply Kept.ite | apply State.linkFrame_kept | apply hs
    | simp -zeta only [↓kept_mk, ↓console_mk, ↓console_mk', ↓boot_mk, ↓keeper_mk] | apply KeptMk.same | apply KeptMk.setCon | apply KeptMk.setBst
    | apply KeptMk.setKpr | apply KeptMk.setRegs | apply KeptMk.setAll | apply ConsoleMk.same | apply ConsoleMk.setBuf | apply BootMk.same
    | apply KeeperMk.same | apply Kept.pending | apply Kept.regs | apply Kept.bst | apply Kept.kpr | apply Kept.con | exact Nat.zero_le _
    | apply Kept.getD | exact nil_le | apply Kept.foldl_snd | apply Kept.foldl_fst | apply Kept.foldl | apply KeptO.none | apply KeptO.some
    | apply KeptO3.none | apply KeptO3.some | apply Kept.next | split

theorem State.rxBad_kept {pq : List Instr} {s : State} {p : Port} (hs : Kept pq s) :
    Kept pq (State.rxBad s p) := by
  unfold State.rxBad
  with_reducible repeat' first
    | assumption | intro _ | apply Kept.ite | apply State.bump_kept | apply State.sendNak_kept

theorem State.rxLink_kept {pq : List Instr} {s : State} {p : Port} {f : FrameHdr} {act : State → State} (hs : Kept pq s) (hact : ∀ (y0 : State), Kept pq y0 → Kept pq (act y0)) :
    Kept pq (State.rxLink s p f act) := by
  unfold State.rxLink
  with_reducible repeat' first
    | assumption | intro _ | apply Kept.ite | apply State.good_kept | apply State.rxBad_kept | apply hs | apply hact

theorem State.heard_kept {pq : List Instr} {s : State} {f : FrameHdr} (hs : Kept pq s) :
    Kept pq (State.heard s f) := by
  unfold State.heard
  try dsimp only
  with_reducible repeat' first
    | assumption | intro _ | apply Kept.ite | apply hs | simp -zeta only [↓kept_mk] | apply KeptMk.same

theorem State.rxSeqd_kept {pq : List Instr} {s : State} {p : Port} {f : FrameHdr} {type : Nat} {act : State → State} (hs : Kept pq s) (hact : ∀ (y0 : State), Kept pq y0 → Kept pq (act y0)) :
    Kept pq (State.rxSeqd s p f type act) := by
  unfold State.rxSeqd
  try dsimp only
  with_reducible repeat' first
    | assumption | intro _ | apply Kept.ite | apply State.good_kept | apply State.seq_kept | apply State.sendAck_kept | apply State.sendNak_kept
    | apply State.returnCredit_kept | apply State.rxBad_kept | apply State.heard_kept | apply hs | apply hact | simp -zeta only [↓kept_mk]
    | apply KeptMk.same

theorem State.rxRouted_kept {pq : List Instr} {s : State} {p : Port} {f : FrameHdr} {type : Nat} {arg : Nat} {body : FBody} {act : State → State} (hs : Kept pq s) (hact : ∀ (y0 : State), Kept pq y0 → Kept pq (act y0)) :
    Kept pq (State.rxRouted s p f type arg body act) := by
  unfold State.rxRouted
  try dsimp only
  with_reducible repeat' first
    | assumption | intro _ | apply Kept.ite | apply State.seq_kept | apply State.rxSeqd_kept | apply hs | apply hact | simp -zeta only [↓kept_mk]
    | apply KeptMk.same

theorem State.portTrained_kept {pq : List Instr} {s : State} {p : Port} {good : Bool} (hs : Kept pq s) :
    Kept pq (State.portTrained s p good) := by
  unfold State.portTrained
  try dsimp only
  with_reducible repeat' first
    | assumption | intro _ | apply Kept.ite | apply State.finishJob_kept

theorem execTetherTraining_kept {pq : List Instr} {p : Port} {r : TethTrain} {s : State} (hs : Kept pq s) :
    KeptOut pq (execTetherTraining p r s) := by
  unfold execTetherTraining
  try dsimp only
  apply Kept.next
  with_reducible repeat' first
    | assumption | intro _ | apply Kept.ite | apply State.setRf_kept | apply State.sendHello_kept | apply BootStore.next_kept
    | apply State.portTrained_kept | apply hs | simp -zeta only [↓kept_mk] | apply KeptMk.same

theorem State.takeChain_kept {pq : List Instr} {s : State} {p : Port} {b : HelloBody} (hs : Kept pq s) :
    Kept pq (State.takeChain s p b) := by
  unfold State.takeChain
  try dsimp only
  with_reducible repeat' first
    | assumption | intro _ | apply Kept.ite | apply State.sendHello_kept | apply BootStore.hAdd_kept | apply hs | simp -zeta only [↓kept_mk, ↓boot_mk]
    | apply KeptMk.same | apply KeptMk.setCon | apply KeptMk.setBst | apply KeptMk.setKpr | apply KeptMk.setRegs | apply KeptMk.setAll
    | apply ConsoleMk.same | apply ConsoleMk.setBuf | apply BootMk.same | apply KeeperMk.same | apply Kept.pending | apply Kept.regs | apply Kept.bst

theorem State.dropParts_kept {pq : List Instr} {s : State} (hs : Kept pq s) :
    Kept pq (State.dropParts s) := by
  unfold State.dropParts
  with_reducible repeat' first
    | assumption | intro _ | apply Kept.ite | apply State.dropPart_kept | apply hs
    | simp -zeta only [↓kept_mk, ↓console_mk, ↓console_mk', ↓boot_mk, ↓keeper_mk] | apply KeptMk.same | apply KeptMk.setCon | apply KeptMk.setBst
    | apply KeptMk.setKpr | apply KeptMk.setRegs | apply KeptMk.setAll | apply ConsoleMk.same | apply ConsoleMk.setBuf | apply BootMk.same
    | apply KeeperMk.same | apply Kept.pending | apply Kept.regs | apply Kept.bst | apply Kept.kpr | apply Kept.con | exact Nat.zero_le _
    | apply Kept.getD | exact nil_le | apply Kept.foldl_snd | apply Kept.foldl_fst | apply Kept.foldl

theorem State.linkUp_kept {pq : List Instr} {s : State} {p : Port} {b : HelloBody} (hs : Kept pq s) :
    Kept pq (State.linkUp s p b) := by
  unfold State.linkUp
  try dsimp only
  with_reducible repeat' first
    | assumption | intro _ | apply Kept.ite | apply State.order_kept | apply State.seq_kept | apply State.resend_kept | apply State.dropParts_kept
    | apply State.replay_kept | apply hs | simp -zeta only [↓kept_mk] | apply KeptMk.same

theorem execHello_kept {pq : List Instr} {p : Port} {f : FrameHdr} {b : HelloBody} {s : State} (hs : Kept pq s) :
    KeptOut pq (execHello p f b s) := by
  unfold execHello
  try dsimp only
  apply Kept.next
  with_reducible repeat' first
    | assumption | intro _ | apply Kept.ite | apply State.setRf_kept | apply BootStore.next_kept | apply State.good_kept | apply State.rxBad_kept
    | apply State.portTrained_kept | apply State.takeChain_kept | apply State.linkUp_kept | apply hs | simp -zeta only [↓kept_mk] | apply KeptMk.same

theorem execMismatchHelloTimer_kept {pq : List Instr} {p : Port} {s : State} (hs : Kept pq s) :
    KeptOut pq (execMismatchHelloTimer p s) := by
  unfold execMismatchHelloTimer
  apply Kept.next
  with_reducible repeat' first
    | assumption | intro _ | apply Kept.ite | apply State.sendHello_kept

theorem execAck_kept {pq : List Instr} {p : Port} {f : FrameHdr} {s : State} (hs : Kept pq s) :
    KeptOut pq (execAck p f s) := by
  unfold execAck
  try dsimp only
  apply Kept.next
  with_reducible repeat' first
    | assumption | intro _ | apply Kept.ite | apply BootStore.next_kept | apply State.seq_kept | apply State.rxLink_kept | apply hs
    | simp -zeta only [↓kept_mk] | apply KeptMk.same

theorem execNak_kept {pq : List Instr} {p : Port} {f : FrameHdr} {s : State} (hs : Kept pq s) :
    KeptOut pq (execNak p f s) := by
  unfold execNak
  apply Kept.next
  with_reducible repeat' first
    | assumption | intro _ | apply Kept.ite | apply BootStore.next_kept | apply State.seq_kept | apply State.replayFrom_kept | apply State.rxLink_kept

theorem execCredit_kept {pq : List Instr} {p : Port} {f : FrameHdr} {s : State} (hs : Kept pq s) :
    KeptOut pq (execCredit p f s) := by
  unfold execCredit
  try dsimp only
  apply Kept.next
  with_reducible repeat' first
    | assumption | intro _ | apply Kept.ite | apply BootStore.next_kept | apply State.rxLink_kept | apply hs | simp -zeta only [↓kept_mk]
    | apply KeptMk.same

theorem execReplayTimeout_kept {pq : List Instr} {p : Port} {s : State} (hs : Kept pq s) :
    KeptOut pq (execReplayTimeout p s) := by
  unfold execReplayTimeout
  try dsimp only
  apply Kept.next
  with_reducible repeat' first
    | assumption | intro _ | apply Kept.ite | apply BootStore.next_kept | apply State.seq_kept | apply State.replayFrom_kept | apply State.replay_kept
    | apply hs | simp -zeta only [↓kept_mk, ↓console_mk, ↓console_mk', ↓boot_mk, ↓keeper_mk] | apply KeptMk.same | apply KeptMk.setCon
    | apply KeptMk.setBst | apply KeptMk.setKpr | apply KeptMk.setRegs | apply KeptMk.setAll | apply ConsoleMk.same | apply ConsoleMk.setBuf
    | apply BootMk.same | apply KeeperMk.same | apply Kept.pending | apply Kept.regs | apply Kept.bst | apply Kept.kpr | apply Kept.con
    | exact Nat.zero_le _ | apply Kept.getD | exact nil_le | apply Kept.foldl_snd | apply Kept.foldl_fst | apply Kept.foldl | apply KeptO.none
    | apply KeptO.some | apply KeptO3.none | apply KeptO3.some | apply Kept.next | split

theorem execIdleAckTimer_kept {pq : List Instr} {p : Port} {s : State} (hs : Kept pq s) :
    KeptOut pq (execIdleAckTimer p s) := by
  unfold execIdleAckTimer
  apply Kept.next
  with_reducible repeat' first
    | assumption | intro _ | apply Kept.ite | apply BootStore.next_kept | apply State.sendAck_kept

theorem execPart_kept {pq : List Instr} {p : Port} {f : FrameHdr} {b : PartBody} {s : State} (hs : Kept pq s) :
    KeptOut pq (execPart p f b s) := by
  unfold execPart
  try dsimp only
  apply Kept.next
  with_reducible repeat' first
    | assumption | intro _ | apply Kept.ite | apply BootStore.next_kept | apply State.dropPart_kept | apply State.runPart_kept
    | apply State.rxRouted_kept | apply hs | simp -zeta only [↓kept_mk] | apply KeptMk.same

theorem State.partData_kept {pq : List Instr} {s : State} {q : MPart} {i : Nat} {d : Sector} (hs : Kept pq s) :
    Kept pq (State.partData s q i d) := by
  unfold State.partData
  try dsimp only
  with_reducible repeat' first
    | assumption | intro _ | apply Kept.ite | apply State.putSlot_kept | apply hs
    | simp -zeta only [↓kept_mk, ↓console_mk, ↓console_mk', ↓boot_mk, ↓keeper_mk] | apply KeptMk.same | apply KeptMk.setCon | apply KeptMk.setBst
    | apply KeptMk.setKpr | apply KeptMk.setRegs | apply KeptMk.setAll | apply ConsoleMk.same | apply ConsoleMk.setBuf | apply BootMk.same
    | apply KeeperMk.same | apply Kept.pending | apply Kept.regs | apply Kept.bst | apply Kept.kpr | apply Kept.con | exact Nat.zero_le _
    | apply Kept.getD | exact nil_le | apply Kept.foldl_snd | apply Kept.foldl_fst | apply Kept.foldl | apply KeptO.none | apply KeptO.some
    | apply KeptO3.none | apply KeptO3.some | apply Kept.next | split

theorem State.adminDone_kept {pq : List Instr} {s : State} {tag : BitVec 16} {st : NStat} (hs : Kept pq s) :
    Kept pq (State.adminDone s tag st) := by
  unfold State.adminDone
  with_reducible repeat' first
    | assumption | intro _ | apply Kept.ite | apply State.tethSend_kept

theorem State.pieceData_kept {pq : List Instr} {s : State} {x : Piece} {i : Nat} {d : Sector} (hs : Kept pq s) :
    Kept pq (State.pieceData s x i d) := by
  unfold State.pieceData
  try dsimp only
  with_reducible repeat' first
    | assumption | intro _ | apply Kept.ite | apply State.downloadHere_kept | apply State.downloadHere_kept_of (by assumption)
    | apply State.adminDone_kept | apply hs | simp -zeta only [↓kept_mk] | apply KeptMk.same

theorem execData_kept {pq : List Instr} {p : Port} {f : FrameHdr} {d : Sector} {s : State} (hs : Kept pq s) :
    KeptOut pq (execData p f d s) := by
  unfold execData
  try dsimp only
  apply Kept.next
  with_reducible repeat' first
    | assumption | intro _ | apply Kept.ite | apply BootStore.next_kept | apply State.runPart_kept | apply State.rxRouted_kept
    | apply State.partData_kept | apply State.pieceData_kept | apply hs | simp -zeta only [↓kept_mk] | apply KeptMk.same | apply KeptMk.setCon
    | apply KeptMk.setBst | apply KeptMk.setKpr | apply KeptMk.setRegs | apply KeptMk.setAll | apply ConsoleMk.same | apply ConsoleMk.setBuf
    | apply BootMk.same | apply KeeperMk.same | apply Kept.pending | apply Kept.regs | apply Kept.bst | apply Kept.kpr | apply Kept.con
    | exact Nat.zero_le _ | apply Kept.getD | exact nil_le | apply Kept.foldl_snd | apply Kept.foldl_fst | apply Kept.foldl | apply KeptO.none
    | apply KeptO.some | apply KeptO3.none | apply KeptO3.some | apply Kept.next | split

theorem State.partVerified_kept {pq : List Instr} {s : State} {q : MPart} (hs : Kept pq s) :
    Kept pq (State.partVerified s q) := by
  unfold State.partVerified
  try dsimp only
  with_reducible repeat' first
    | assumption | intro _ | apply Kept.ite | apply State.putSlot_kept | apply hs
    | simp -zeta only [↓kept_mk, ↓console_mk, ↓console_mk', ↓boot_mk, ↓keeper_mk] | apply KeptMk.same | apply KeptMk.setCon | apply KeptMk.setBst
    | apply KeptMk.setKpr | apply KeptMk.setRegs | apply KeptMk.setAll | apply ConsoleMk.same | apply ConsoleMk.setBuf | apply BootMk.same
    | apply KeeperMk.same | apply Kept.pending | apply Kept.regs | apply Kept.bst | apply Kept.kpr | apply Kept.con | exact Nat.zero_le _
    | apply Kept.getD | exact nil_le | apply Kept.foldl_snd | apply Kept.foldl_fst | apply Kept.foldl | apply KeptO.none | apply KeptO.some
    | apply KeptO3.none | apply KeptO3.some | apply Kept.next | split

theorem execDone_kept {pq : List Instr} {p : Port} {f : FrameHdr} {b : DoneBody} {s : State} (hs : Kept pq s) :
    KeptOut pq (execDone p f b s) := by
  unfold execDone
  try dsimp only
  apply Kept.next
  with_reducible repeat' first
    | assumption | intro _ | apply Kept.ite | apply BootStore.next_kept | apply State.done_kept | apply State.adminAnswer_kept
    | apply State.endPart_kept | apply State.rxRouted_kept | apply State.partVerified_kept | apply hs
    | simp -zeta only [↓kept_mk, ↓console_mk, ↓console_mk', ↓boot_mk, ↓keeper_mk] | apply KeptMk.same | apply KeptMk.setCon | apply KeptMk.setBst
    | apply KeptMk.setKpr | apply KeptMk.setRegs | apply KeptMk.setAll | apply ConsoleMk.same | apply ConsoleMk.setBuf | apply BootMk.same
    | apply KeeperMk.same | apply Kept.pending | apply Kept.regs | apply Kept.bst | apply Kept.kpr | apply Kept.con | exact Nat.zero_le _
    | apply Kept.getD | exact nil_le | apply Kept.foldl_snd | apply Kept.foldl_fst | apply Kept.foldl | apply KeptO.none | apply KeptO.some
    | apply KeptO3.none | apply KeptO3.some | apply Kept.next | split

theorem State.adminFrame_kept {pq : List Instr} {s : State} {tag : BitVec 16} {b : AdminBody} (hs : Kept pq s) :
    Kept pq (State.adminFrame s tag b) := by
  unfold State.adminFrame
  try dsimp only
  with_reducible repeat' first
    | assumption | intro _ | apply Kept.ite | apply State.run_kept | apply State.nsCreateHere_kept | apply State.nsCreateHere_kept_of (by assumption)
    | apply State.adminHere_kept | apply State.adminHere_kept_of (by assumption) | apply State.adminDone_kept | apply hs | simp -zeta only [↓kept_mk]
    | apply KeptMk.same | apply KeptMk.setCon | apply KeptMk.setBst | apply KeptMk.setKpr | apply KeptMk.setRegs | apply KeptMk.setAll
    | apply ConsoleMk.same | apply ConsoleMk.setBuf | apply BootMk.same | apply KeeperMk.same | apply Kept.pending | apply Kept.regs | apply Kept.bst
    | apply Kept.kpr | apply Kept.con | exact Nat.zero_le _ | apply Kept.getD | exact nil_le | apply Kept.foldl_snd | apply Kept.foldl_fst
    | apply Kept.foldl | apply KeptO.none | apply KeptO.some | apply KeptO3.none | apply KeptO3.some | apply Kept.next | split

theorem execAdmin_kept {pq : List Instr} {p : Port} {f : FrameHdr} {b : AdminBody} {s : State} (hs : Kept pq s) :
    KeptOut pq (execAdmin p f b s) := by
  unfold execAdmin
  apply Kept.next
  with_reducible repeat' first
    | assumption | intro _ | apply Kept.ite | apply BootStore.next_kept | apply State.rxRouted_kept | apply State.adminFrame_kept

theorem State.rxOrder_kept {pq : List Instr} {s : State} {p : Port} {f : FrameHdr} {sub : Nat} {arg : Nat} {act : State → State} (hs : Kept pq s) (hact : ∀ (y0 : State), Kept pq y0 → Kept pq (act y0)) :
    Kept pq (State.rxOrder s p f sub arg act) := by
  unfold State.rxOrder
  try dsimp only
  with_reducible repeat' first
    | assumption | intro _ | apply Kept.ite | apply State.rxRouted_kept | apply hs | apply hact | simp -zeta only [↓kept_mk] | apply KeptMk.same

theorem execOrderReset_kept {pq : List Instr} {p : Port} {f : FrameHdr} {arg : Byte} {s : State} (hs : Kept pq s) :
    KeptOut pq (execOrderReset p f arg s) := by
  unfold execOrderReset
  apply Kept.next
  with_reducible repeat' first
    | assumption | intro _ | apply Kept.ite | apply BootStore.next_kept | apply State.requestFused_kept | apply State.rxOrder_kept

theorem execOrderStandby_kept {pq : List Instr} {p : Port} {f : FrameHdr} {arg : Byte} {s : State} (hs : Kept pq s) :
    KeptOut pq (execOrderStandby p f arg s) := by
  unfold execOrderStandby
  try dsimp only
  apply Kept.next
  with_reducible repeat' first
    | assumption | intro _ | apply Kept.ite | apply BootStore.next_kept | apply State.wantPs_kept | apply State.rxOrder_kept | apply hs
    | simp -zeta only [↓kept_mk] | apply KeptMk.same

theorem execOrderStandbyReady_kept {pq : List Instr} {p : Port} {f : FrameHdr} {arg : Byte} {s : State} (hs : Kept pq s) :
    KeptOut pq (execOrderStandbyReady p f arg s) := by
  unfold execOrderStandbyReady
  try dsimp only
  apply Kept.next
  with_reducible repeat' first
    | assumption | intro _ | apply Kept.ite | apply BootStore.next_kept | apply State.rxOrder_kept | apply hs | simp -zeta only [↓kept_mk]
    | apply KeptMk.same

theorem execOrderHold_kept {pq : List Instr} {p : Port} {f : FrameHdr} {arg : Byte} {s : State} (hs : Kept pq s) :
    KeptOut pq (execOrderHold p f arg s) := by
  unfold execOrderHold
  try dsimp only
  apply Kept.next
  with_reducible repeat' first
    | assumption | intro _ | apply Kept.ite | apply BootStore.next_kept | apply State.rxOrder_kept | apply hs | simp -zeta only [↓kept_mk]
    | apply KeptMk.same

theorem execOrderReady_kept {pq : List Instr} {p : Port} {f : FrameHdr} {s : State} (hs : Kept pq s) :
    KeptOut pq (execOrderReady p f s) := by
  unfold execOrderReady
  try dsimp only
  apply Kept.next
  with_reducible repeat' first
    | assumption | intro _ | apply Kept.ite | apply BootStore.next_kept | apply State.sendPart_kept | apply State.rxOrder_kept | apply hs
    | simp -zeta only [↓kept_mk] | apply KeptMk.same | apply KeptMk.setCon | apply KeptMk.setBst | apply KeptMk.setKpr | apply KeptMk.setRegs
    | apply KeptMk.setAll | apply ConsoleMk.same | apply ConsoleMk.setBuf | apply BootMk.same | apply KeeperMk.same | apply Kept.pending
    | apply Kept.regs | apply Kept.bst | apply Kept.kpr | apply Kept.con | exact Nat.zero_le _ | apply Kept.getD | exact nil_le | apply Kept.foldl_snd
    | apply Kept.foldl_fst | apply Kept.foldl

theorem execOrderAbort_kept {pq : List Instr} {p : Port} {f : FrameHdr} {s : State} (hs : Kept pq s) :
    KeptOut pq (execOrderAbort p f s) := by
  unfold execOrderAbort
  try dsimp only
  apply Kept.next
  with_reducible repeat' first
    | assumption | intro _ | apply Kept.ite | apply State.tethSend_kept | apply BootStore.next_kept | apply State.done_kept
    | apply State.dropPart_kept | apply State.rxOrder_kept | apply hs | simp -zeta only [↓kept_mk, ↓console_mk, ↓console_mk', ↓boot_mk, ↓keeper_mk]
    | apply KeptMk.same | apply KeptMk.setCon | apply KeptMk.setBst | apply KeptMk.setKpr | apply KeptMk.setRegs | apply KeptMk.setAll
    | apply ConsoleMk.same | apply ConsoleMk.setBuf | apply BootMk.same | apply KeeperMk.same | apply Kept.pending | apply Kept.regs | apply Kept.bst
    | apply Kept.kpr | apply Kept.con | exact Nat.zero_le _ | apply Kept.getD | exact nil_le | apply Kept.foldl_snd | apply Kept.foldl_fst
    | apply Kept.foldl | apply KeptO.none | apply KeptO.some | apply KeptO3.none | apply KeptO3.some | apply Kept.next | split

theorem execOrderActivate_kept {pq : List Instr} {p : Port} {f : FrameHdr} {s : State} (hs : Kept pq s) :
    KeptOut pq (execOrderActivate p f s) := by
  unfold execOrderActivate
  apply Kept.next
  with_reducible repeat' first
    | assumption | intro _ | apply Kept.ite | apply BootStore.next_kept | apply State.requestReset_kept | apply State.rxOrder_kept

theorem execAlarm_kept {pq : List Instr} {p : Port} {f : FrameHdr} {origin : Fin 4} {bit : Fin 64} {secs : Word} {s : State} (hs : Kept pq s) :
    KeptOut pq (execAlarm p f origin bit secs s) := by
  unfold execAlarm
  apply Kept.next
  with_reducible repeat' first
    | assumption | intro _ | apply Kept.ite | apply BootStore.next_kept | apply State.alarmIn_kept | apply State.rxSeqd_kept

theorem State.loseDev_kept {pq : List Instr} {s : State} {k : Fin 4} (hs : Kept pq s) :
    Kept pq (State.loseDev s k) := by
  unfold State.loseDev
  try dsimp only
  with_reducible repeat' first
    | assumption | intro _ | apply Kept.ite | apply State.answer_kept | apply State.fanAnswer_kept | apply State.adminAnswer_kept
    | apply State.endPart_kept | apply hs | simp -zeta only [↓kept_mk] | apply KeptMk.same | apply KeptMk.setCon | apply KeptMk.setBst
    | apply KeptMk.setKpr | apply KeptMk.setRegs | apply KeptMk.setAll | apply ConsoleMk.same | apply ConsoleMk.setBuf | apply BootMk.same
    | apply KeeperMk.same | apply Kept.pending | apply Kept.regs | apply Kept.bst | apply Kept.kpr | apply Kept.con | exact Nat.zero_le _
    | apply Kept.getD | exact nil_le | apply Kept.foldl_snd | apply Kept.foldl_fst | apply Kept.foldl | apply KeptO.none | apply KeptO.some
    | apply KeptO3.none | apply KeptO3.some | apply Kept.next | split

theorem State.declare_kept {pq : List Instr} {s : State} {l : List (Fin 4)} (hs : Kept pq s) :
    Kept pq (State.declare s l) := by
  unfold State.declare
  try dsimp only
  with_reducible repeat' first
    | assumption | intro _ | apply Kept.ite | apply State.raise_kept | apply State.loseDev_kept | apply hs | simp -zeta only [↓kept_mk]
    | apply KeptMk.same | apply KeptMk.setCon | apply KeptMk.setBst | apply KeptMk.setKpr | apply KeptMk.setRegs | apply KeptMk.setAll
    | apply ConsoleMk.same | apply ConsoleMk.setBuf | apply BootMk.same | apply KeeperMk.same | apply Kept.pending | apply Kept.regs | apply Kept.bst
    | apply Kept.kpr | apply Kept.con | exact Nat.zero_le _ | apply Kept.getD | exact nil_le | apply Kept.foldl_snd | apply Kept.foldl_fst
    | apply Kept.foldl

theorem execSubordinateSilent_kept {pq : List Instr} {k : Fin 4} {s : State} (hs : Kept pq s) :
    KeptOut pq (execSubordinateSilent k s) := by
  unfold execSubordinateSilent
  apply Kept.next
  with_reducible repeat' first
    | assumption | intro _ | apply Kept.ite | apply BootStore.next_kept | apply State.declare_kept

theorem execHoldWindowExpiry_kept {pq : List Instr} {k : Fin 4} {s : State} (hs : Kept pq s) :
    KeptOut pq (execHoldWindowExpiry k s) := by
  unfold execHoldWindowExpiry
  apply Kept.next
  with_reducible repeat' first
    | assumption | intro _ | apply Kept.ite | apply BootStore.next_kept | apply State.declare_kept

theorem execChainJoinTimeout_kept {pq : List Instr} {s : State} (hs : Kept pq s) :
    KeptOut pq (execChainJoinTimeout s) := by
  unfold execChainJoinTimeout
  apply Kept.next
  with_reducible repeat' first
    | assumption | intro _ | apply Kept.ite | apply BootStore.next_kept | apply State.declare_kept

theorem execWakeBeacon_kept {pq : List Instr} {s : State} (hs : Kept pq s) :
    KeptOut pq (execWakeBeacon s) := by
  unfold execWakeBeacon
  apply Kept.next
  with_reducible repeat' first
    | assumption | intro _ | apply Kept.ite | apply BootStore.next_kept | apply State.beginWake_kept

end Sys2Proof.Machine
end

