-- ==== Sys2Proof/Laws/KeptSetNow.lean ====
section
/-! SUPPORT. The operations of Machine/SetNow.lean keep the queue of commands and the sound form of the state. -/

namespace Sys2Proof.Machine

theorem State.setEffect_kept {pq : List Instr} {s : State} {x : Setting} (hs : Kept pq s) :
    Kept pq (State.setEffect s x) := by
  unfold State.setEffect
  try dsimp only
  with_reducible repeat' first
    | assumption | intro _ | apply Kept.ite | apply State.setReg_kept | apply State.gal_kept | apply State.galRest_kept | apply hs
    | simp -zeta only [↓kept_mk] | apply KeptMk.same | apply KeptMk.setCon | apply KeptMk.setBst | apply KeptMk.setKpr | apply KeptMk.setRegs
    | apply KeptMk.setAll | apply ConsoleMk.same | apply ConsoleMk.setBuf | apply BootMk.same | apply KeeperMk.same | apply Kept.pending
    | apply Kept.regs | apply Kept.bst | apply Kept.kpr | apply Kept.con | exact Nat.zero_le _ | apply Kept.getD | exact nil_le | apply Kept.foldl_snd
    | apply Kept.foldl_fst | apply Kept.foldl | apply KeptO.none | apply KeptO.some | apply KeptO3.none | apply KeptO3.some | apply Kept.next | split

theorem State.setNow_kept {pq : List Instr} {s : State} {x : Setting} {v : SetVal} (hs : Kept pq s) :
    Kept pq (State.setNow s x v) := by
  unfold State.setNow
  try dsimp only
  with_reducible repeat' first
    | assumption | intro _ | apply Kept.ite | apply Keeper.put_kept | apply State.mirror_kept | apply State.rateChanged_kept
    | apply State.setEffect_kept | apply hs | simp -zeta only [↓kept_mk] | apply KeptMk.same | apply KeptMk.setCon | apply KeptMk.setBst
    | apply KeptMk.setKpr | apply KeptMk.setRegs | apply KeptMk.setAll | apply ConsoleMk.same | apply ConsoleMk.setBuf | apply BootMk.same
    | apply KeeperMk.same | apply Kept.pending | apply Kept.regs | apply Kept.bst | apply Kept.kpr | apply Kept.con | exact Nat.zero_le _
    | apply Kept.getD | exact nil_le | apply Kept.foldl_snd | apply Kept.foldl_fst | apply Kept.foldl | apply KeptO.none | apply KeptO.some
    | apply KeptO3.none | apply KeptO3.some | apply Kept.next | split

theorem State.mirrorWrite_kept {pq : List Instr} {s : State} {f : Mirror} {n : Nat} (hs : Kept pq s) :
    Kept pq (State.mirrorWrite s f n) := by
  unfold State.mirrorWrite
  try dsimp only
  with_reducible repeat' first
    | assumption | intro _ | apply Kept.ite | apply State.setNow_kept

end Sys2Proof.Machine
end

