-- ==== Sys2Proof/Laws/KeptRegWrite.lean ====
section
/-! SUPPORT. The operations of Machine/RegWrite.lean keep the queue of commands and the sound form of the state. -/

namespace Sys2Proof.Machine

theorem State.conditions_kept {pq : List Instr} {s : State} (hs : Kept pq s) :
    Kept pq (State.conditions s) := by
  unfold State.conditions
  try dsimp only
  with_reducible repeat' first
    | assumption | intro _ | apply Kept.ite | apply State.raiseIf_kept

theorem State.clearTrouble_kept {pq : List Instr} {s : State} {mask : BitVec 64} (hs : Kept pq s) :
    Kept pq (State.clearTrouble s mask) := by
  unfold State.clearTrouble
  with_reducible repeat' first
    | assumption | intro _ | apply Kept.ite | apply State.clearBits_kept | apply State.conditions_kept

theorem State.mpuCommit_kept {pq : List Instr} {s : State} (hs : Kept pq s) :
    Kept pq (State.mpuCommit s) := by
  unfold State.mpuCommit
  try dsimp only
  with_reducible repeat' first
    | assumption | intro _ | apply Kept.ite | apply State.setRf_kept | apply hs | simp -zeta only [↓kept_mk] | apply KeptMk.same

theorem State.mirrorFields_kept {pq : List Instr} {s : State} {r : Reg} {v : Word} (hs : Kept pq s) :
    Kept pq (State.mirrorFields s r v) := by
  unfold State.mirrorFields
  with_reducible repeat' first
    | assumption | intro _ | apply Kept.ite | apply State.mirrorWrite_kept | apply hs
    | simp -zeta only [↓kept_mk, ↓console_mk, ↓console_mk', ↓boot_mk, ↓keeper_mk] | apply KeptMk.same | apply KeptMk.setCon | apply KeptMk.setBst
    | apply KeptMk.setKpr | apply KeptMk.setRegs | apply KeptMk.setAll | apply ConsoleMk.same | apply ConsoleMk.setBuf | apply BootMk.same
    | apply KeeperMk.same | apply Kept.pending | apply Kept.regs | apply Kept.bst | apply Kept.kpr | apply Kept.con | exact Nat.zero_le _
    | apply Kept.getD | exact nil_le | apply Kept.foldl_snd | apply Kept.foldl_fst | apply Kept.foldl

theorem State.plainReg_kept {pq : List Instr} {s : State} {r : Reg} {v : Word} (hs : Kept pq s) :
    Kept pq (State.plainReg s r v) := by
  unfold State.plainReg
  with_reducible repeat' first
    | assumption | intro _ | apply Kept.ite | apply State.setReg_kept | apply State.mirrorFields_kept

theorem State.writeGalCtl_kept {pq : List Instr} {s : State} {g : Fin 8} {v : Word} (hs : Kept pq s) :
    Kept pq (State.writeGalCtl s g v) := by
  unfold State.writeGalCtl
  try dsimp only
  with_reducible repeat' first
    | assumption | intro _ | apply Kept.ite | apply State.setReg_kept | apply State.markRetrain_kept | apply State.mirrorFields_kept

theorem State.writeRstReq_kept {pq : List Instr} {s : State} {cls : Cls} {v : Word} (hs : Kept pq s) :
    Kept pq (State.writeRstReq s cls v) := by
  unfold State.writeRstReq
  try dsimp only
  with_reducible repeat' first
    | assumption | intro _ | apply Kept.ite | apply State.goReset_kept | apply State.plainReg_kept

theorem State.writeFlip_kept {pq : List Instr} {s : State} {r : Reg} {v : Word} (hs : Kept pq s) :
    Kept pq (State.writeFlip s r v) := by
  unfold State.writeFlip
  try dsimp only
  with_reducible repeat' first
    | assumption | intro _ | apply Kept.ite | apply State.setReg_kept | apply hs
    | simp -zeta only [↓kept_mk, ↓console_mk, ↓console_mk', ↓boot_mk, ↓keeper_mk] | apply KeptMk.same | apply KeptMk.setCon | apply KeptMk.setBst
    | apply KeptMk.setKpr | apply KeptMk.setRegs | apply KeptMk.setAll | apply ConsoleMk.same | apply ConsoleMk.setBuf | apply BootMk.same
    | apply KeeperMk.same | apply Kept.pending | apply Kept.regs | apply Kept.bst | apply Kept.kpr | apply Kept.con | exact Nat.zero_le _
    | apply Kept.getD | exact nil_le | apply Kept.foldl_snd | apply Kept.foldl_fst | apply Kept.foldl | apply KeptO.none | apply KeptO.some
    | apply KeptO3.none | apply KeptO3.some | apply Kept.next | split

theorem State.writeTethCtl_kept {pq : List Instr} {s : State} {v : Word} (hs : Kept pq s) :
    Kept pq (State.writeTethCtl s v) := by
  unfold State.writeTethCtl
  try dsimp only
  with_reducible repeat' first
    | assumption | intro _ | apply Kept.ite | apply State.retrain_kept | apply State.plainReg_kept

theorem State.writeMpuCtl_kept {pq : List Instr} {s : State} {v : Word} (hs : Kept pq s) :
    Kept pq (State.writeMpuCtl s v) := by
  unfold State.writeMpuCtl
  try dsimp only
  with_reducible repeat' first
    | assumption | intro _ | apply Kept.ite | apply State.mpuCommit_kept | apply State.plainReg_kept

theorem State.writeCmCmd_kept {pq : List Instr} {s : State} {v : Word} (hs : Kept pq s) :
    Kept pq (State.writeCmCmd s v) := by
  unfold State.writeCmCmd
  try dsimp only
  with_reducible repeat' first
    | assumption | intro _ | apply Kept.ite | apply State.setRf_kept | apply State.cmRequest_kept | apply State.plainReg_kept

theorem State.writeRegion_kept {pq : List Instr} {s : State} {i : Fin 16} {f : Region → Region} (hs : Kept pq s) :
    Kept pq (State.writeRegion s i f) := by
  unfold State.writeRegion
  try dsimp only
  with_reducible repeat' first
    | assumption | intro _ | apply Kept.ite | apply hs | simp -zeta only [↓kept_mk] | apply KeptMk.same

theorem State.dmaSet_kept {pq : List Instr} {s : State} {n : Fin 8} {f : DmaChan → DmaChan} (hs : Kept pq s) :
    Kept pq (State.dmaSet s n f) := by
  unfold State.dmaSet
  try dsimp only
  with_reducible repeat' first
    | assumption | intro _ | apply Kept.ite | apply hs | simp -zeta only [↓kept_mk] | apply KeptMk.same

theorem State.dmaStart_kept {pq : List Instr} {s : State} {n : Fin 8} {cls : Cls} (hs : Kept pq s) :
    Kept pq (State.dmaStart s n cls) := by
  unfold State.dmaStart
  with_reducible repeat' first
    | assumption | intro _ | apply Kept.ite | apply State.raise_kept | apply State.dmaSet_kept

theorem State.dmaStop_kept {pq : List Instr} {s : State} {n : Fin 8} (hs : Kept pq s) :
    Kept pq (State.dmaStop s n) := by
  unfold State.dmaStop
  try dsimp only
  with_reducible repeat' first
    | assumption | intro _ | apply Kept.ite | apply State.dmaSet_kept

theorem State.writeDmaCtl_kept {pq : List Instr} {s : State} {n : Fin 8} {cls : Cls} {v : Word} (hs : Kept pq s) :
    Kept pq (State.writeDmaCtl s n cls v) := by
  unfold State.writeDmaCtl
  try dsimp only
  with_reducible repeat' first
    | assumption | intro _ | apply Kept.ite | apply State.plainReg_kept | apply State.dmaStart_kept | apply State.dmaStop_kept

theorem State.writeDma_kept {pq : List Instr} {s : State} {n : Fin 8} {r : Reg} {v : Word} (hs : Kept pq s) :
    Kept pq (State.writeDma s n r v) := by
  unfold State.writeDma
  with_reducible repeat' first
    | assumption | intro _ | apply Kept.ite | apply State.plainReg_kept

theorem State.regWrite_kept {pq : List Instr} {s : State} {cls : Cls} {r : Reg} {v : Word} (hs : Kept pq s) :
    Kept pq (State.regWrite s cls r v) := by
  unfold State.regWrite
  try dsimp only
  with_reducible repeat' first
    | assumption | intro _ | apply Kept.ite | apply State.wptLoad_kept | apply State.clearCause_kept | apply State.forceRelease_kept
    | apply State.clearTrouble_kept | apply State.plainReg_kept | apply State.writeGalCtl_kept | apply State.writeRstReq_kept
    | apply State.writeFlip_kept | apply State.writeTethCtl_kept | apply State.writeMpuCtl_kept | apply State.writeCmCmd_kept
    | apply State.writeRegion_kept | apply State.writeDmaCtl_kept | apply State.writeDma_kept | apply hs
    | simp -zeta only [↓kept_mk, ↓console_mk, ↓console_mk', ↓boot_mk, ↓keeper_mk] | apply KeptMk.same | apply KeptMk.setCon | apply KeptMk.setBst
    | apply KeptMk.setKpr | apply KeptMk.setRegs | apply KeptMk.setAll | apply ConsoleMk.same | apply ConsoleMk.setBuf | apply BootMk.same
    | apply KeeperMk.same | apply Kept.pending | apply Kept.regs | apply Kept.bst | apply Kept.kpr | apply Kept.con | exact Nat.zero_le _
    | apply Kept.getD | exact nil_le | apply Kept.foldl_snd | apply Kept.foldl_fst | apply Kept.foldl | apply KeptO.none | apply KeptO.some
    | apply KeptO3.none | apply KeptO3.some | apply Kept.next | split

end Sys2Proof.Machine
end

