-- ==== Sys2Proof/Laws/KeptAccess.lean ====
section
/-! SUPPORT. The operations of Machine/Access.lean keep the queue of commands and the sound form of the state. -/

namespace Sys2Proof.Machine

theorem State.readReg_kept {pq : List Instr} {s : State} {x1 : Option Reg} (hs : Kept pq s) :
    Kept pq (State.readReg s x1).2 := by
  unfold State.readReg
  with_reducible repeat' first
    | assumption | intro _ | apply Kept.ite | apply State.takeFree_kept | apply hs
    | simp -zeta only [↓kept_mk, ↓console_mk, ↓console_mk', ↓boot_mk, ↓keeper_mk] | apply KeptMk.same | apply KeptMk.setCon | apply KeptMk.setBst
    | apply KeptMk.setKpr | apply KeptMk.setRegs | apply KeptMk.setAll | apply ConsoleMk.same | apply ConsoleMk.setBuf | apply BootMk.same
    | apply KeeperMk.same | apply Kept.pending | apply Kept.regs | apply Kept.bst | apply Kept.kpr | apply Kept.con | exact Nat.zero_le _
    | apply Kept.getD | exact nil_le | apply Kept.foldl_snd | apply Kept.foldl_fst | apply Kept.foldl | apply KeptO.none | apply KeptO.some
    | apply KeptO3.none | apply KeptO3.some | apply Kept.next | split

theorem State.readReg_kept_of {pq : List Instr} {s : State} {x1 : Option Reg} {r0 : Nat} {r1 : State} (e : (State.readReg s x1) = (r0, r1)) (hs : Kept pq s) :
    Kept pq r1 := by
  have := State.readReg_kept (pq := pq) (s := s) (x1 := x1) hs
  rw [e] at this
  exact this

theorem State.decodeRead_kept {pq : List Instr} {s : State} {a : Nat} {w : Nat} (hs : Kept pq s) :
    Kept pq (State.decodeRead s a w).2.2 := by
  unfold State.decodeRead
  try dsimp only
  with_reducible repeat' first
    | assumption | intro _ | apply Kept.ite | apply State.kprRead_kept | apply State.kprRead_kept_of (by assumption) | apply State.bstRead_kept
    | apply State.bstRead_kept_of (by assumption) | apply State.done_kept | apply State.readReg_kept | apply State.readReg_kept_of (by assumption)
    | apply hs | simp -zeta only [↓kept_mk, ↓console_mk, ↓console_mk', ↓boot_mk, ↓keeper_mk] | apply KeptMk.same | apply KeptMk.setCon
    | apply KeptMk.setBst | apply KeptMk.setKpr | apply KeptMk.setRegs | apply KeptMk.setAll | apply ConsoleMk.same | apply ConsoleMk.setBuf
    | apply BootMk.same | apply KeeperMk.same | apply Kept.pending | apply Kept.regs | apply Kept.bst | apply Kept.kpr | apply Kept.con
    | exact Nat.zero_le _ | apply Kept.getD | exact nil_le | apply Kept.foldl_snd | apply Kept.foldl_fst | apply Kept.foldl | apply KeptO.none
    | apply KeptO.some | apply KeptO3.none | apply KeptO3.some | apply Kept.next | split

theorem State.decodeRead_kept_of {pq : List Instr} {s : State} {a : Nat} {w : Nat} {r0 : Acc} {r1 : Nat} {r2 : State} (e : (State.decodeRead s a w) = (r0, r1, r2)) (hs : Kept pq s) :
    Kept pq r2 := by
  have := State.decodeRead_kept (pq := pq) (s := s) (a := a) (w := w) hs
  rw [e] at this
  exact this

theorem State.hmbWrite_kept {pq : List Instr} {s : State} {k : Nat} {w : Nat} {v : Nat} (hs : Kept pq s) :
    Kept pq (State.hmbWrite s k w v) := by
  unfold State.hmbWrite
  try dsimp only
  with_reducible repeat' first
    | assumption | intro _ | apply Kept.ite | apply hs | simp -zeta only [↓kept_mk] | apply KeptMk.same

theorem State.keeperWrite_kept {pq : List Instr} {s : State} {a : Nat} {w : Nat} {v : Nat} (hs : Kept pq s) :
    Kept pq (State.keeperWrite s a w v) := by
  unfold State.keeperWrite
  with_reducible repeat' first
    | assumption | intro _ | apply Kept.ite | apply State.kprWrite_kept | apply State.kprNarrow_kept

theorem State.decodeWrite_kept {pq : List Instr} {s : State} {cls : Cls} {init : Nat} {a : Nat} {w : Nat} {v : Nat} (hs : Kept pq s) :
    Kept pq (State.decodeWrite s cls init a w v).2 := by
  unfold State.decodeWrite
  try dsimp only
  with_reducible repeat' first
    | assumption | intro _ | apply Kept.ite | apply State.refuseOnly_kept | apply State.done_kept | apply State.regWrite_kept
    | apply State.hmbWrite_kept | apply State.keeperWrite_kept | apply hs
    | simp -zeta only [↓kept_mk, ↓console_mk, ↓console_mk', ↓boot_mk, ↓keeper_mk] | apply KeptMk.same | apply KeptMk.setCon | apply KeptMk.setBst
    | apply KeptMk.setKpr | apply KeptMk.setRegs | apply KeptMk.setAll | apply ConsoleMk.same | apply ConsoleMk.setBuf | apply BootMk.same
    | apply KeeperMk.same | apply Kept.pending | apply Kept.regs | apply Kept.bst | apply Kept.kpr | apply Kept.con | exact Nat.zero_le _
    | apply Kept.getD | exact nil_le | apply Kept.foldl_snd | apply Kept.foldl_fst | apply Kept.foldl | apply KeptO.none | apply KeptO.some
    | apply KeptO3.none | apply KeptO3.some | apply Kept.next | split

theorem State.decodeWrite_kept_of {pq : List Instr} {s : State} {cls : Cls} {init : Nat} {a : Nat} {w : Nat} {v : Nat} {r0 : Acc} {r1 : State} (e : (State.decodeWrite s cls init a w v) = (r0, r1)) (hs : Kept pq s) :
    Kept pq r1 := by
  have := State.decodeWrite_kept (pq := pq) (s := s) (cls := cls) (init := init) (a := a) (w := w) (v := v) hs
  rw [e] at this
  exact this

theorem State.refuse_kept {pq : List Instr} {s : State} {cls : Cls} {write : Bool} {kind : Nat} {region : Nat} {init : Nat} {a : Nat} (hs : Kept pq s) :
    Kept pq (State.refuse s cls write kind region init a) := by
  unfold State.refuse
  try dsimp only
  with_reducible repeat' first
    | assumption | intro _ | apply Kept.ite | apply State.noteRefused_kept | apply BootStore.alarmAdd_kept | apply Run.write_kept | apply hs
    | simp -zeta only [↓kept_mk] | apply KeptMk.same | apply KeptMk.setCon | apply KeptMk.setBst | apply KeptMk.setKpr | apply KeptMk.setRegs
    | apply KeptMk.setAll | apply ConsoleMk.same | apply ConsoleMk.setBuf | apply BootMk.same | apply KeeperMk.same | apply Kept.pending
    | apply Kept.regs | apply Kept.bst

theorem State.busRead_kept {pq : List Instr} {s : State} {cls : Cls} {init : Nat} {a : Nat} {w : Nat} (hs : Kept pq s) :
    Kept pq (State.busRead s cls init a w).2.2 := by
  unfold State.busRead
  try dsimp only
  with_reducible repeat' first
    | assumption | intro _ | apply Kept.ite | apply BootStore.refuse_kept | apply State.refuse_kept | apply State.decodeRead_kept
    | apply State.decodeRead_kept_of (by assumption) | apply hs | simp -zeta only [↓kept_mk, ↓console_mk, ↓console_mk', ↓boot_mk, ↓keeper_mk]
    | apply KeptMk.same | apply KeptMk.setCon | apply KeptMk.setBst | apply KeptMk.setKpr | apply KeptMk.setRegs | apply KeptMk.setAll
    | apply ConsoleMk.same | apply ConsoleMk.setBuf | apply BootMk.same | apply KeeperMk.same | apply Kept.pending | apply Kept.regs | apply Kept.bst
    | apply Kept.kpr | apply Kept.con | exact Nat.zero_le _ | apply Kept.getD | exact nil_le | apply Kept.foldl_snd | apply Kept.foldl_fst
    | apply Kept.foldl | apply KeptO.none | apply KeptO.some | apply KeptO3.none | apply KeptO3.some | apply Kept.next | split

theorem State.busRead_kept_of {pq : List Instr} {s : State} {cls : Cls} {init : Nat} {a : Nat} {w : Nat} {r0 : Acc} {r1 : Nat} {r2 : State} (e : (State.busRead s cls init a w) = (r0, r1, r2)) (hs : Kept pq s) :
    Kept pq r2 := by
  have := State.busRead_kept (pq := pq) (s := s) (cls := cls) (init := init) (a := a) (w := w) hs
  rw [e] at this
  exact this

theorem State.busWrite_kept {pq : List Instr} {s : State} {cls : Cls} {init : Nat} {a : Nat} {w : Nat} {v : Nat} (hs : Kept pq s) :
    Kept pq (State.busWrite s cls init a w v).2 := by
  unfold State.busWrite
  try dsimp only
  with_reducible repeat' first
    | assumption | intro _ | apply Kept.ite | apply BootStore.refuse_kept | apply State.refuse_kept | apply State.decodeWrite_kept
    | apply State.decodeWrite_kept_of (by assumption) | apply hs | simp -zeta only [↓kept_mk, ↓console_mk, ↓console_mk', ↓boot_mk, ↓keeper_mk]
    | apply KeptMk.same | apply KeptMk.setCon | apply KeptMk.setBst | apply KeptMk.setKpr | apply KeptMk.setRegs | apply KeptMk.setAll
    | apply ConsoleMk.same | apply ConsoleMk.setBuf | apply BootMk.same | apply KeeperMk.same | apply Kept.pending | apply Kept.regs | apply Kept.bst
    | apply Kept.kpr | apply Kept.con | exact Nat.zero_le _ | apply Kept.getD | exact nil_le | apply Kept.foldl_snd | apply Kept.foldl_fst
    | apply Kept.foldl | apply KeptO.none | apply KeptO.some | apply KeptO3.none | apply KeptO3.some | apply Kept.next | split

theorem State.busWrite_kept_of {pq : List Instr} {s : State} {cls : Cls} {init : Nat} {a : Nat} {w : Nat} {v : Nat} {r0 : Acc} {r1 : State} (e : (State.busWrite s cls init a w v) = (r0, r1)) (hs : Kept pq s) :
    Kept pq r1 := by
  have := State.busWrite_kept (pq := pq) (s := s) (cls := cls) (init := init) (a := a) (w := w) (v := v) hs
  rw [e] at this
  exact this

end Sys2Proof.Machine
end

