-- ==== Sys2Proof/Laws/KeptDma.lean ====
section
/-! SUPPORT. The operations of Machine/Dma.lean keep the queue of commands and the sound form of the state. -/

namespace Sys2Proof.Machine

/-- A fold over a transfer under way. -/
theorem Kept.foldl_run {q : List Instr} {β : Type} {f : Run → β → Run} {l : List β} {r : Run} (h : Kept q r.s)
    (hf : ∀ t x, Kept q t.s → Kept q (f t x).s) : Kept q (l.foldl f r).s := by
  induction l generalizing r with
  | nil => exact h
  | cons x l ih => exact ih (hf r x h)

theorem State.loadDesc_kept {pq : List Instr} {s : State} {n : Fin 8} {ws : List Nat} (hs : Kept pq s) :
    Kept pq (State.loadDesc s n ws) := by
  unfold State.loadDesc
  with_reducible repeat' first
    | assumption | intro _ | apply Kept.ite | apply State.setReg_kept | apply hs
    | simp -zeta only [↓kept_mk, ↓console_mk, ↓console_mk', ↓boot_mk, ↓keeper_mk] | apply KeptMk.same | apply KeptMk.setCon | apply KeptMk.setBst
    | apply KeptMk.setKpr | apply KeptMk.setRegs | apply KeptMk.setAll | apply ConsoleMk.same | apply ConsoleMk.setBuf | apply BootMk.same
    | apply KeeperMk.same | apply Kept.pending | apply Kept.regs | apply Kept.bst | apply Kept.kpr | apply Kept.con | exact Nat.zero_le _
    | apply Kept.getD | exact nil_le | apply Kept.foldl_snd | apply Kept.foldl_fst | apply Kept.foldl

theorem Run.write_kept {pq : List Instr} {r : Run} {n : Fin 8} {a : Nat} {w : Nat} {bytes : List Nat} (hr : Kept pq r.s) :
    Kept pq (Run.write r n a w bytes).s := by
  unfold Run.write
  try dsimp only
  with_reducible repeat' first
    | assumption | intro _ | apply Kept.ite | apply State.done_kept | apply State.dmaSet_kept | apply State.busWrite_kept
    | apply State.busWrite_kept_of (by assumption) | apply hr | simp -zeta only [↓kept_mk, ↓console_mk, ↓console_mk', ↓boot_mk, ↓keeper_mk]
    | apply KeptMk.same | apply KeptMk.setCon | apply KeptMk.setBst | apply KeptMk.setKpr | apply KeptMk.setRegs | apply KeptMk.setAll
    | apply ConsoleMk.same | apply ConsoleMk.setBuf | apply BootMk.same | apply KeeperMk.same | apply Kept.pending | apply Kept.regs | apply Kept.bst
    | apply Kept.kpr | apply Kept.con | exact Nat.zero_le _ | apply Kept.getD | exact nil_le | apply Kept.foldl_snd | apply Kept.foldl_fst
    | apply Kept.foldl | apply KeptO.none | apply KeptO.some | apply KeptO3.none | apply KeptO3.some | apply Kept.next | apply Kept.foldl_run | split

theorem Run.read_kept {pq : List Instr} {r : Run} {n : Fin 8} {down : Bool} {fetch : Bool} {a : Nat} {w : Nat} (hr : Kept pq r.s) :
    Kept pq (Run.read r n down fetch a w).s := by
  unfold Run.read
  try dsimp only
  with_reducible repeat' first
    | assumption | intro _ | apply Kept.ite | apply State.done_kept | apply State.busRead_kept | apply State.busRead_kept_of (by assumption)
    | apply hr | simp -zeta only [↓kept_mk, ↓console_mk, ↓console_mk', ↓boot_mk, ↓keeper_mk] | apply KeptMk.same | apply KeptMk.setCon
    | apply KeptMk.setBst | apply KeptMk.setKpr | apply KeptMk.setRegs | apply KeptMk.setAll | apply ConsoleMk.same | apply ConsoleMk.setBuf
    | apply BootMk.same | apply KeeperMk.same | apply Kept.pending | apply Kept.regs | apply Kept.bst | apply Kept.kpr | apply Kept.con
    | exact Nat.zero_le _ | apply Kept.getD | exact nil_le | apply Kept.foldl_snd | apply Kept.foldl_fst | apply Kept.foldl | apply KeptO.none
    | apply KeptO.some | apply KeptO3.none | apply KeptO3.some | apply Kept.next | apply Kept.foldl_run | split

theorem copyRun_kept {pq : List Instr} {n : Fin 8} {down : Bool} {x1 : Nat} {x2 : List (Nat × Nat)} {x3 : List (Nat × Nat)} {x4 : Run} (hx4 : Kept pq x4.s) :
    Kept pq (copyRun n down x1 x2 x3 x4).s := by
  induction x1 generalizing x2 x3 x4 with
  | zero => unfold copyRun; exact hx4
  | succ f ih =>
    unfold copyRun
    dsimp only
    split
    · exact hx4
    · split
      · exact hx4
      · split
        · exact ih (Run.write_kept hx4)
        · split
          · exact hx4
          · exact ih (Run.read_kept hx4)

theorem fillLine_kept {pq : List Instr} {n : Fin 8} {pattern : Nat} {start : Nat} {r : Run} {l : List (Nat × Nat)} (hr : Kept pq r.s) :
    Kept pq (fillLine n pattern start r l).s := by
  unfold fillLine
  with_reducible repeat' first
    | assumption | intro _ | apply Kept.ite | apply BootStore.start_kept | apply Run.write_kept | apply hr
    | simp -zeta only [↓kept_mk, ↓console_mk, ↓console_mk', ↓boot_mk, ↓keeper_mk] | apply KeptMk.same | apply KeptMk.setCon | apply KeptMk.setBst
    | apply KeptMk.setKpr | apply KeptMk.setRegs | apply KeptMk.setAll | apply ConsoleMk.same | apply ConsoleMk.setBuf | apply BootMk.same
    | apply KeeperMk.same | apply Kept.pending | apply Kept.regs | apply Kept.bst | apply Kept.kpr | apply Kept.con | exact Nat.zero_le _
    | apply Kept.getD | exact nil_le | apply Kept.foldl_snd | apply Kept.foldl_fst | apply Kept.foldl | apply KeptO.none | apply KeptO.some
    | apply KeptO3.none | apply KeptO3.some | apply Kept.next | apply Kept.foldl_run | split

theorem copySides_kept {pq : List Instr} {n : Fin 8} {x : Side} {y : Side} {r : Run} (hr : Kept pq r.s) :
    Kept pq (copySides n x y r).s := by
  unfold copySides
  try dsimp only
  with_reducible repeat' first
    | assumption | intro _ | apply Kept.ite | apply copyRun_kept | apply hr
    | simp -zeta only [↓kept_mk, ↓console_mk, ↓console_mk', ↓boot_mk, ↓keeper_mk] | apply KeptMk.same | apply KeptMk.setCon | apply KeptMk.setBst
    | apply KeptMk.setKpr | apply KeptMk.setRegs | apply KeptMk.setAll | apply ConsoleMk.same | apply ConsoleMk.setBuf | apply BootMk.same
    | apply KeeperMk.same | apply Kept.pending | apply Kept.regs | apply Kept.bst | apply Kept.kpr | apply Kept.con | exact Nat.zero_le _
    | apply Kept.getD | exact nil_le | apply Kept.foldl_snd | apply Kept.foldl_fst | apply Kept.foldl | apply KeptO.none | apply KeptO.some
    | apply KeptO3.none | apply KeptO3.some | apply Kept.next | apply Kept.foldl_run | split

theorem State.dmaEnd_kept {pq : List Instr} {s : State} {n : Fin 8} {code : Nat} {addr : Nat} (hs : Kept pq s) :
    Kept pq (State.dmaEnd s n code addr) := by
  unfold State.dmaEnd
  try dsimp only
  with_reducible repeat' first
    | assumption | intro _ | apply Kept.ite | apply State.setRf_kept | apply State.done_kept | apply State.dmaSet_kept

theorem State.fenceRead_kept {pq : List Instr} {s : State} {n : Fin 8} (hs : Kept pq s) :
    Kept pq (State.fenceRead s n) := by
  unfold State.fenceRead
  try dsimp only
  with_reducible repeat' first
    | assumption | intro _ | apply Kept.ite | apply State.kprRead_kept

theorem State.dmaLine_kept {pq : List Instr} {s : State} {n : Fin 8} (hs : Kept pq s) :
    Kept pq (State.dmaLine s n) := by
  unfold State.dmaLine
  try dsimp only
  with_reducible repeat' first
    | assumption | intro _ | apply Kept.ite | apply State.finishJob_kept | apply State.fenceRead_kept | apply hs
    | simp -zeta only [↓kept_mk, ↓console_mk, ↓console_mk', ↓boot_mk, ↓keeper_mk] | apply KeptMk.same | apply KeptMk.setCon | apply KeptMk.setBst
    | apply KeptMk.setKpr | apply KeptMk.setRegs | apply KeptMk.setAll | apply ConsoleMk.same | apply ConsoleMk.setBuf | apply BootMk.same
    | apply KeeperMk.same | apply Kept.pending | apply Kept.regs | apply Kept.bst | apply Kept.kpr | apply Kept.con | exact Nat.zero_le _
    | apply Kept.getD | exact nil_le | apply Kept.foldl_snd | apply Kept.foldl_fst | apply Kept.foldl | apply KeptO.none | apply KeptO.some
    | apply KeptO3.none | apply KeptO3.some | apply Kept.next | apply Kept.foldl_run | split

theorem State.dmaFinish_kept {pq : List Instr} {s : State} {n : Fin 8} {code : Nat} {addr : Nat} (hs : Kept pq s) :
    Kept pq (State.dmaFinish s n code addr) := by
  unfold State.dmaFinish
  with_reducible repeat' first
    | assumption | intro _ | apply Kept.ite | apply State.dmaEnd_kept | apply State.dmaLine_kept

theorem State.dmaBusError_kept {pq : List Instr} {s : State} {n : Fin 8} {addr : Nat} {fetch : Bool} {write : Bool} {timeout : Bool} (hs : Kept pq s) :
    Kept pq (State.dmaBusError s n addr fetch write timeout) := by
  unfold State.dmaBusError
  try dsimp only
  with_reducible repeat' first
    | assumption | intro _ | apply Kept.ite | apply State.setReg_kept | apply State.raise_kept | apply Run.write_kept | apply State.dmaFinish_kept
    | apply hs | simp -zeta only [↓kept_mk, ↓console_mk, ↓console_mk', ↓boot_mk, ↓keeper_mk] | apply KeptMk.same | apply KeptMk.setCon
    | apply KeptMk.setBst | apply KeptMk.setKpr | apply KeptMk.setRegs | apply KeptMk.setAll | apply ConsoleMk.same | apply ConsoleMk.setBuf
    | apply BootMk.same | apply KeeperMk.same | apply Kept.pending | apply Kept.regs | apply Kept.bst | apply Kept.kpr | apply Kept.con
    | exact Nat.zero_le _ | apply Kept.getD | exact nil_le | apply Kept.foldl_snd | apply Kept.foldl_fst | apply Kept.foldl

theorem State.dmaFail_kept {pq : List Instr} {s : State} {n : Fin 8} {f : Fail} (hs : Kept pq s) :
    Kept pq (State.dmaFail s n f) := by
  unfold State.dmaFail
  try dsimp only
  with_reducible repeat' first
    | assumption | intro _ | apply Kept.ite | apply State.done_kept | apply Run.write_kept | apply State.dmaFinish_kept | apply State.dmaBusError_kept
    | apply hs | simp -zeta only [↓kept_mk, ↓console_mk, ↓console_mk', ↓boot_mk, ↓keeper_mk] | apply KeptMk.same | apply KeptMk.setCon
    | apply KeptMk.setBst | apply KeptMk.setKpr | apply KeptMk.setRegs | apply KeptMk.setAll | apply ConsoleMk.same | apply ConsoleMk.setBuf
    | apply BootMk.same | apply KeeperMk.same | apply Kept.pending | apply Kept.regs | apply Kept.bst | apply Kept.kpr | apply Kept.con
    | exact Nat.zero_le _ | apply Kept.getD | exact nil_le | apply Kept.foldl_snd | apply Kept.foldl_fst | apply Kept.foldl | apply KeptO.none
    | apply KeptO.some | apply KeptO3.none | apply KeptO3.some | apply Kept.next | apply Kept.foldl_run | split

theorem State.dmaRefuse_kept {pq : List Instr} {s : State} {n : Fin 8} {code : Nat} (hs : Kept pq s) :
    Kept pq (State.dmaRefuse s n code) := by
  unfold State.dmaRefuse
  with_reducible repeat' first
    | assumption | intro _ | apply Kept.ite | apply State.raise_kept | apply State.dmaFinish_kept

theorem sgElement_kept {pq : List Instr} {n : Fin 8} {ovl : Bool} {a : Nat} {r : Run} (hr : Kept pq r.s) :
    Kept pq (sgElement n ovl a r).2.s := by
  unfold sgElement
  try dsimp only
  with_reducible repeat' first
    | assumption | intro _ | apply Kept.ite | apply Run.read_kept | apply copySides_kept | apply hr
    | simp -zeta only [↓kept_mk, ↓console_mk, ↓console_mk', ↓boot_mk, ↓keeper_mk] | apply KeptMk.same | apply KeptMk.setCon | apply KeptMk.setBst
    | apply KeptMk.setKpr | apply KeptMk.setRegs | apply KeptMk.setAll | apply ConsoleMk.same | apply ConsoleMk.setBuf | apply BootMk.same
    | apply KeeperMk.same | apply Kept.pending | apply Kept.regs | apply Kept.bst | apply Kept.kpr | apply Kept.con | exact Nat.zero_le _
    | apply Kept.getD | exact nil_le | apply Kept.foldl_snd | apply Kept.foldl_fst | apply Kept.foldl | apply KeptO.none | apply KeptO.some
    | apply KeptO3.none | apply KeptO3.some | apply Kept.next | apply Kept.foldl_run | split

theorem sgElement_kept_of {pq : List Instr} {n : Fin 8} {ovl : Bool} {a : Nat} {r : Run} {r0 : Option Nat} {r1 : Run} (e : (sgElement n ovl a r) = (r0, r1)) (hr : Kept pq r.s) :
    Kept pq r1.s := by
  have := sgElement_kept (pq := pq) (n := n) (ovl := ovl) (a := a) (r := r) hr
  rw [e] at this
  exact this

theorem sgRun_kept {pq : List Instr} {n : Fin 8} {ovl : Bool} {x1 : Nat} {x2 : Nat} {x3 : Run} (hx3 : Kept pq x3.s) :
    Kept pq (sgRun n ovl x1 x2 x3).2.s := by
  induction x1 generalizing x2 x3 with
  | zero => unfold sgRun; exact hx3
  | succ k ih =>
    unfold sgRun
    split
    · exact hx3
    · split
      · rename_i e; exact sgElement_kept_of e hx3
      · rename_i e; exact ih (sgElement_kept_of e hx3)

theorem sgRun_kept_of {pq : List Instr} {n : Fin 8} {ovl : Bool} {x1 : Nat} {x2 : Nat} {x3 : Run} {r0 : Option Nat} {r1 : Run} (e : (sgRun n ovl x1 x2 x3) = (r0, r1)) (hx3 : Kept pq x3.s) :
    Kept pq r1.s := by
  have := sgRun_kept (pq := pq) (n := n) (ovl := ovl) (x1 := x1) (x2 := x2) (x3 := x3) hx3
  rw [e] at this
  exact this

theorem State.transfer_kept {pq : List Instr} {s : State} {n : Fin 8} {d : Desc} (hs : Kept pq s) :
    Kept pq (State.transfer s n d).2.s := by
  unfold State.transfer
  try dsimp only
  with_reducible repeat' first
    | assumption | intro _ | apply Kept.ite | apply fillLine_kept | apply copySides_kept | apply sgRun_kept | apply sgRun_kept_of (by assumption)
    | apply hs | simp -zeta only [] | apply KeptMk.same | apply KeptMk.setCon | apply KeptMk.setBst | apply KeptMk.setKpr | apply KeptMk.setRegs
    | apply KeptMk.setAll | apply ConsoleMk.same | apply ConsoleMk.setBuf | apply BootMk.same | apply KeeperMk.same | apply Kept.pending
    | apply Kept.regs | apply Kept.bst | apply Kept.kpr | apply Kept.con | exact Nat.zero_le _ | apply Kept.getD | exact nil_le | apply Kept.foldl_snd
    | apply Kept.foldl_fst | apply Kept.foldl | apply KeptO.none | apply KeptO.some | apply KeptO3.none | apply KeptO3.some | apply Kept.next
    | apply Kept.foldl_run | split

theorem State.transfer_kept_of {pq : List Instr} {s : State} {n : Fin 8} {d : Desc} {r0 : Option Nat} {r1 : Run} (e : (State.transfer s n d) = (r0, r1)) (hs : Kept pq s) :
    Kept pq r1.s := by
  have := State.transfer_kept (pq := pq) (s := s) (n := n) (d := d) hs
  rw [e] at this
  exact this

theorem State.descEnd_kept {pq : List Instr} {s : State} {n : Fin 8} {d : Desc} (hs : Kept pq s) :
    Kept pq (State.descEnd s n d) := by
  unfold State.descEnd
  try dsimp only
  with_reducible repeat' first
    | assumption | intro _ | apply Kept.ite | apply State.setRf_kept | apply State.dmaSet_kept | apply State.dmaFinish_kept

theorem State.runDesc_kept {pq : List Instr} {s : State} {n : Fin 8} (hs : Kept pq s) :
    Kept pq (State.runDesc s n) := by
  unfold State.runDesc
  try dsimp only
  with_reducible repeat' first
    | assumption | intro _ | apply Kept.ite | apply State.dmaFail_kept | apply State.dmaRefuse_kept | apply State.transfer_kept
    | apply State.transfer_kept_of (by assumption) | apply State.descEnd_kept | apply hs
    | simp -zeta only [↓kept_mk, ↓console_mk, ↓console_mk', ↓boot_mk, ↓keeper_mk] | apply KeptMk.same | apply KeptMk.setCon | apply KeptMk.setBst
    | apply KeptMk.setKpr | apply KeptMk.setRegs | apply KeptMk.setAll | apply ConsoleMk.same | apply ConsoleMk.setBuf | apply BootMk.same
    | apply KeeperMk.same | apply Kept.pending | apply Kept.regs | apply Kept.bst | apply Kept.kpr | apply Kept.con | exact Nat.zero_le _
    | apply Kept.getD | exact nil_le | apply Kept.foldl_snd | apply Kept.foldl_fst | apply Kept.foldl | apply KeptO.none | apply KeptO.some
    | apply KeptO3.none | apply KeptO3.some | apply Kept.next | apply Kept.foldl_run | split

theorem State.dmaKick_kept {pq : List Instr} {s : State} (hs : Kept pq s) :
    Kept pq (State.dmaKick s) := by
  unfold State.dmaKick
  with_reducible repeat' first
    | assumption | intro _ | apply Kept.ite | apply State.runDesc_kept | apply hs
    | simp -zeta only [↓kept_mk, ↓console_mk, ↓console_mk', ↓boot_mk, ↓keeper_mk] | apply KeptMk.same | apply KeptMk.setCon | apply KeptMk.setBst
    | apply KeptMk.setKpr | apply KeptMk.setRegs | apply KeptMk.setAll | apply ConsoleMk.same | apply ConsoleMk.setBuf | apply BootMk.same
    | apply KeeperMk.same | apply Kept.pending | apply Kept.regs | apply Kept.bst | apply Kept.kpr | apply Kept.con | exact Nat.zero_le _
    | apply Kept.getD | exact nil_le | apply Kept.foldl_snd | apply Kept.foldl_fst | apply Kept.foldl

theorem fetchRun_kept {pq : List Instr} {n : Fin 8} {a : Nat} {r : Run} (hr : Kept pq r.s) :
    Kept pq (fetchRun n a r).s := by
  unfold fetchRun
  with_reducible repeat' first
    | assumption | intro _ | apply Kept.ite | apply Run.read_kept | apply hr
    | simp -zeta only [↓kept_mk, ↓console_mk, ↓console_mk', ↓boot_mk, ↓keeper_mk] | apply KeptMk.same | apply KeptMk.setCon | apply KeptMk.setBst
    | apply KeptMk.setKpr | apply KeptMk.setRegs | apply KeptMk.setAll | apply ConsoleMk.same | apply ConsoleMk.setBuf | apply BootMk.same
    | apply KeeperMk.same | apply Kept.pending | apply Kept.regs | apply Kept.bst | apply Kept.kpr | apply Kept.con | exact Nat.zero_le _
    | apply Kept.getD | exact nil_le | apply Kept.foldl_snd | apply Kept.foldl_fst | apply Kept.foldl | apply KeptO.none | apply KeptO.some
    | apply KeptO3.none | apply KeptO3.some | apply Kept.next | apply Kept.foldl_run | split

theorem State.nextDesc_kept {pq : List Instr} {s : State} {n : Fin 8} (hs : Kept pq s) :
    Kept pq (State.nextDesc s n) := by
  unfold State.nextDesc
  try dsimp only
  with_reducible repeat' first
    | assumption | intro _ | apply Kept.ite | apply State.raise_kept | apply State.dmaSet_kept | apply State.loadDesc_kept
    | apply State.dmaFinish_kept | apply State.dmaFail_kept | apply State.runDesc_kept | apply fetchRun_kept | apply hs
    | simp -zeta only [↓kept_mk, ↓console_mk, ↓console_mk', ↓boot_mk, ↓keeper_mk] | apply KeptMk.same | apply KeptMk.setCon | apply KeptMk.setBst
    | apply KeptMk.setKpr | apply KeptMk.setRegs | apply KeptMk.setAll | apply ConsoleMk.same | apply ConsoleMk.setBuf | apply BootMk.same
    | apply KeeperMk.same | apply Kept.pending | apply Kept.regs | apply Kept.bst | apply Kept.kpr | apply Kept.con | exact Nat.zero_le _
    | apply Kept.getD | exact nil_le | apply Kept.foldl_snd | apply Kept.foldl_fst | apply Kept.foldl | apply KeptO.none | apply KeptO.some
    | apply KeptO3.none | apply KeptO3.some | apply Kept.next | apply Kept.foldl_run | split

theorem State.issue_kept {pq : List Instr} {s : State} {cls : Cls} {a : Nat} {w : Nat} {v : Nat} (hs : Kept pq s) :
    Kept pq (State.issue s cls a w v) := by
  unfold State.issue
  with_reducible repeat' first
    | assumption | intro _ | apply Kept.ite | apply State.busWrite_kept | apply State.busWrite_kept_of (by assumption) | apply State.dmaKick_kept

theorem execDmaStart_kept {pq : List Instr} {n : Fin 8} {cls : Cls} {pri : BitVec 2} {s : State} (hs : Kept pq s) :
    KeptOut pq (execDmaStart n cls pri s) := by
  unfold execDmaStart
  apply Kept.next
  with_reducible repeat' first
    | assumption | intro _ | apply Kept.ite | apply BootStore.next_kept | apply State.issue_kept

theorem execDmaStop_kept {pq : List Instr} {n : Fin 8} {s : State} (hs : Kept pq s) :
    KeptOut pq (execDmaStop n s) := by
  unfold execDmaStop
  apply Kept.next
  with_reducible repeat' first
    | assumption | intro _ | apply Kept.ite | apply BootStore.next_kept | apply State.dmaStop_kept

theorem execDescriptorFetch_kept {pq : List Instr} {n : Fin 8} {s : State} (hs : Kept pq s) :
    KeptOut pq (execDescriptorFetch n s) := by
  unfold execDescriptorFetch
  apply Kept.next
  with_reducible repeat' first
    | assumption | intro _ | apply Kept.ite | apply BootStore.next_kept | apply State.runDesc_kept | apply State.nextDesc_kept

theorem execDmaFetchTimeout_kept {pq : List Instr} {n : Fin 8} {addr : Word} {fetch : Bool} {write : Bool} {s : State} (hs : Kept pq s) :
    KeptOut pq (execDmaFetchTimeout n addr fetch write s) := by
  unfold execDmaFetchTimeout
  apply Kept.next
  with_reducible repeat' first
    | assumption | intro _ | apply Kept.ite | apply BootStore.next_kept | apply Run.write_kept | apply State.dmaBusError_kept

theorem execDmaComplete_kept {pq : List Instr} {n : Fin 8} {s : State} (hs : Kept pq s) :
    KeptOut pq (execDmaComplete n s) := by
  unfold execDmaComplete
  apply Kept.next
  with_reducible repeat' first
    | assumption | intro _ | apply Kept.ite | apply BootStore.next_kept | apply State.dmaFinish_kept

end Sys2Proof.Machine
end

