-- ==== Sys2Proof/Laws/KeptRegRows.lean ====
section
/-! SUPPORT. The operations of Machine/RegRows.lean keep the queue of commands and the sound form of the state. -/

namespace Sys2Proof.Machine

theorem execRegisterWrite_kept {pq : List Instr} {cls : Cls} {addr : Word} {value : Word} {s : State} (hs : Kept pq s) :
    KeptOut pq (execRegisterWrite cls addr value s) := by
  unfold execRegisterWrite
  apply Kept.next
  with_reducible repeat' first
    | assumption | intro _ | apply Kept.ite | apply BootStore.next_kept | apply State.issue_kept

theorem execMirroredFieldWrite_kept {pq : List Instr} {cls : Cls} {f : Mirror} {value : Nat} {s : State} (hs : Kept pq s) :
    KeptOut pq (execMirroredFieldWrite cls f value s) := by
  unfold execMirroredFieldWrite
  try dsimp only
  with_reducible repeat' first
    | assumption | intro _ | apply Kept.ite | apply BootStore.next_kept | apply State.issue_kept | apply hs
    | simp -zeta only [↓kept_mk, ↓console_mk, ↓console_mk', ↓boot_mk, ↓keeper_mk] | apply KeptMk.same | apply KeptMk.setCon | apply KeptMk.setBst
    | apply KeptMk.setKpr | apply KeptMk.setRegs | apply KeptMk.setAll | apply ConsoleMk.same | apply ConsoleMk.setBuf | apply BootMk.same
    | apply KeeperMk.same | apply Kept.pending | apply Kept.regs | apply Kept.bst | apply Kept.kpr | apply Kept.con | exact Nat.zero_le _
    | apply Kept.getD | exact nil_le | apply Kept.foldl_snd | apply Kept.foldl_fst | apply Kept.foldl | apply KeptO.none | apply KeptO.some
    | apply KeptO3.none | apply KeptO3.some | apply Kept.next

theorem execTroubleClearWrite_kept {pq : List Instr} {hi : Bool} {mask : Word} {s : State} (hs : Kept pq s) :
    KeptOut pq (execTroubleClearWrite hi mask s) := by
  unfold execTroubleClearWrite
  apply Kept.next
  with_reducible repeat' first
    | assumption | intro _ | apply Kept.ite | apply BootStore.next_kept | apply State.clearTrouble_kept

theorem execNarrowWrite_kept {pq : List Instr} {cls : Cls} {addr : Word} {width : Width} {value : BitVec 64} {parityBad : Bool} {s : State} (hs : Kept pq s) :
    KeptOut pq (execNarrowWrite cls addr width value parityBad s) := by
  unfold execNarrowWrite
  try dsimp only
  with_reducible repeat' first
    | assumption | intro _ | apply Kept.ite | apply State.kprParityWrite_kept | apply BootStore.next_kept | apply State.issue_kept | apply hs
    | simp -zeta only [↓kept_mk, ↓console_mk, ↓console_mk', ↓boot_mk, ↓keeper_mk] | apply KeptMk.same | apply KeptMk.setCon | apply KeptMk.setBst
    | apply KeptMk.setKpr | apply KeptMk.setRegs | apply KeptMk.setAll | apply ConsoleMk.same | apply ConsoleMk.setBuf | apply BootMk.same
    | apply KeeperMk.same | apply Kept.pending | apply Kept.regs | apply Kept.bst | apply Kept.kpr | apply Kept.con | exact Nat.zero_le _
    | apply Kept.getD | exact nil_le | apply Kept.foldl_snd | apply Kept.foldl_fst | apply Kept.foldl | apply KeptO.none | apply KeptO.some
    | apply KeptO3.none | apply KeptO3.some | apply Kept.next

theorem execFlipMaskArm_kept {pq : List Instr} {cls : Cls} {value : Word} {s : State} (hs : Kept pq s) :
    KeptOut pq (execFlipMaskArm cls value s) := by
  unfold execFlipMaskArm
  apply Kept.next
  with_reducible repeat' first
    | assumption | intro _ | apply Kept.ite | apply BootStore.next_kept | apply State.issue_kept

theorem execMpuCommit_kept {pq : List Instr} {cls : Cls} {s : State} (hs : Kept pq s) :
    KeptOut pq (execMpuCommit cls s) := by
  unfold execMpuCommit
  apply Kept.next
  with_reducible repeat' first
    | assumption | intro _ | apply Kept.ite | apply BootStore.next_kept | apply State.issue_kept

end Sys2Proof.Machine
end

