-- ==== Sys2Proof/Laws/KeptLantern.lean ====
section
/-! SUPPORT. The operations of Machine/Lantern.lean keep the queue of commands and the sound form of the state. -/

namespace Sys2Proof.Machine

theorem blkRead_kept {pq : List Instr} {k a x1 : Nat} {x2 : State × List Nat × Bool × Bool} (hx2 : Kept pq x2.1) :
    Kept pq (blkRead k a x1 x2).1 := by
  induction x1 generalizing k x2 with
  | zero => unfold blkRead; exact hx2
  | succ n ih =>
    obtain ⟨s, vs, ecc, stop⟩ := x2
    unfold blkRead
    split
    · exact ih hx2
    · dsimp only
      split <;> exact ih (State.decodeRead_kept hx2)

theorem State.respond_kept {pq : List Instr} {s : State} {r : LanResp} (hs : Kept pq s) :
    Kept pq (State.respond s r) := by
  unfold State.respond
  try dsimp only
  with_reducible repeat' first
    | assumption | intro _ | apply Kept.ite | apply hs | simp -zeta only [↓kept_mk] | apply KeptMk.same

theorem State.lanternReq_kept {pq : List Instr} {s : State} {checkOk : Bool} {act : State → State} {denied : State → State} (hs : Kept pq s) (hact : ∀ (y0 : State), Kept pq y0 → Kept pq (act y0)) (hdenied : ∀ (y0 : State), Kept pq y0 → Kept pq (denied y0)) :
    Kept pq (State.lanternReq s checkOk act denied) := by
  unfold State.lanternReq
  with_reducible repeat' first
    | assumption | intro _ | apply Kept.ite | apply State.raise_kept | apply State.respond_kept | apply hs | apply hact | apply hdenied

theorem State.lanternRead_kept {pq : List Instr} {s : State} {a : Nat} {w : Nat} (hs : Kept pq s) :
    Kept pq (State.lanternRead s a w) := by
  unfold State.lanternRead
  try dsimp only
  with_reducible repeat' first
    | assumption | intro _ | apply Kept.ite | apply State.busRead_kept | apply State.busRead_kept_of (by assumption) | apply State.respond_kept

theorem State.recordedWrite_kept {pq : List Instr} {s : State} {a : Nat} {w : Nat} {v : Nat} {wr : State → Acc × State} (hs : Kept pq s) (hwr : ∀ y, Kept pq y → Kept pq (wr y).2) :
    Kept pq (State.recordedWrite s a w v wr).2 := by
  unfold State.recordedWrite
  try dsimp only
  with_reducible repeat' first
    | assumption | intro _ | apply Kept.ite | apply State.journalAdd_kept | apply State.journalAdd_kept_of (by assumption)
    | apply State.journalResult_kept | apply hs | apply hwr | simp -zeta only [↓kept_mk, ↓console_mk, ↓console_mk', ↓boot_mk, ↓keeper_mk]
    | apply KeptMk.same | apply KeptMk.setCon | apply KeptMk.setBst | apply KeptMk.setKpr | apply KeptMk.setRegs | apply KeptMk.setAll
    | apply ConsoleMk.same | apply ConsoleMk.setBuf | apply BootMk.same | apply KeeperMk.same | apply Kept.pending | apply Kept.regs | apply Kept.bst
    | apply Kept.kpr | apply Kept.con | exact Nat.zero_le _ | apply Kept.getD | exact nil_le | apply Kept.foldl_snd | apply Kept.foldl_fst
    | apply Kept.foldl | apply KeptO.none | apply KeptO.some | apply KeptO3.none | apply KeptO3.some | apply Kept.next | apply Kept.id | split

theorem State.recordedWrite_kept_of {pq : List Instr} {s : State} {a : Nat} {w : Nat} {v : Nat} {wr : State → Acc × State} {r0 : Option (Acc × State)} {r1 : State} (e : (State.recordedWrite s a w v wr) = (r0, r1)) (hs : Kept pq s) (hwr : ∀ y, Kept pq y → Kept pq (wr y).2) :
    Kept pq r1 := by
  have := State.recordedWrite_kept (pq := pq) (s := s) (a := a) (w := w) (v := v) (wr := wr) hs hwr
  rw [e] at this
  exact this

theorem State.deniedWrite_kept {pq : List Instr} {s : State} {a : Nat} {w : Nat} {v : Nat} {why : Acc} {note : State → State} {answer : LanResp} (hs : Kept pq s) (hnote : ∀ (y0 : State), Kept pq y0 → Kept pq (note y0)) :
    Kept pq (State.deniedWrite s a w v why note answer) := by
  unfold State.deniedWrite
  try dsimp only
  with_reducible repeat' first
    | assumption | intro _ | apply Kept.ite | apply State.answer_kept | apply State.respond_kept | apply State.recordedWrite_kept
    | apply State.recordedWrite_kept_of (by assumption) | apply hs | apply hnote
    | simp -zeta only [↓kept_mk, ↓console_mk, ↓console_mk', ↓boot_mk, ↓keeper_mk] | apply KeptMk.same | apply KeptMk.setCon | apply KeptMk.setBst
    | apply KeptMk.setKpr | apply KeptMk.setRegs | apply KeptMk.setAll | apply ConsoleMk.same | apply ConsoleMk.setBuf | apply BootMk.same
    | apply KeeperMk.same | apply Kept.pending | apply Kept.regs | apply Kept.bst | apply Kept.kpr | apply Kept.con | exact Nat.zero_le _
    | apply Kept.getD | exact nil_le | apply Kept.foldl_snd | apply Kept.foldl_fst | apply Kept.foldl | apply KeptO.none | apply KeptO.some
    | apply KeptO3.none | apply KeptO3.some | apply Kept.next | apply Kept.id | split

theorem State.lanternWrite_kept {pq : List Instr} {s : State} {a : Nat} {w : Nat} {v : Nat} (hs : Kept pq s) :
    Kept pq (State.lanternWrite s a w v) := by
  unfold State.lanternWrite
  try dsimp only
  with_reducible repeat' first
    | assumption | intro _ | apply Kept.ite | apply State.busWrite_kept | apply State.busWrite_kept_of (by assumption) | apply State.dmaKick_kept
    | apply State.respond_kept | apply State.recordedWrite_kept | apply State.recordedWrite_kept_of (by assumption) | apply State.deniedWrite_kept
    | apply hs | simp -zeta only [↓kept_mk, ↓console_mk, ↓console_mk', ↓boot_mk, ↓keeper_mk] | apply KeptMk.same | apply KeptMk.setCon
    | apply KeptMk.setBst | apply KeptMk.setKpr | apply KeptMk.setRegs | apply KeptMk.setAll | apply ConsoleMk.same | apply ConsoleMk.setBuf
    | apply BootMk.same | apply KeeperMk.same | apply Kept.pending | apply Kept.regs | apply Kept.bst | apply Kept.kpr | apply Kept.con
    | exact Nat.zero_le _ | apply Kept.getD | exact nil_le | apply Kept.foldl_snd | apply Kept.foldl_fst | apply Kept.foldl | apply KeptO.none
    | apply KeptO.some | apply KeptO3.none | apply KeptO3.some | apply Kept.next | apply Kept.id | split

theorem State.lanternBlkrd_kept {pq : List Instr} {s : State} {a : Nat} {n : Nat} (hs : Kept pq s) :
    Kept pq (State.lanternBlkrd s a n) := by
  unfold State.lanternBlkrd
  try dsimp only
  with_reducible repeat' first
    | assumption | intro _ | apply Kept.ite | apply BootStore.refuse_kept | apply State.refuse_kept | apply State.respond_kept | apply hs
    | simp -zeta only [↓kept_mk, ↓console_mk, ↓console_mk', ↓boot_mk, ↓keeper_mk] | apply KeptMk.same | apply KeptMk.setCon | apply KeptMk.setBst
    | apply KeptMk.setKpr | apply KeptMk.setRegs | apply KeptMk.setAll | apply ConsoleMk.same | apply ConsoleMk.setBuf | apply BootMk.same
    | apply KeeperMk.same | apply Kept.pending | apply Kept.regs | apply Kept.bst | apply Kept.kpr | apply Kept.con | exact Nat.zero_le _
    | apply Kept.getD | exact nil_le | apply Kept.foldl_snd | apply Kept.foldl_fst | apply Kept.foldl | apply KeptO.none | apply KeptO.some
    | apply KeptO3.none | apply KeptO3.some | apply Kept.next | apply blkRead_kept | apply Kept.id | split

theorem blkWrite_kept {pq : List Instr} {a : Nat} {x1 : Nat} {x2 : List Word} {x3 : State} (hx3 : Kept pq x3) :
    Kept pq (blkWrite a x1 x2 x3).2.2.2 := by
  induction x2 generalizing x1 x3 with
  | nil => unfold blkWrite; exact hx3
  | cons v r ih =>
    unfold blkWrite
    split
    · rename_i e; exact State.recordedWrite_kept_of e hx3 fun y hy => State.decodeWrite_kept hy
    · rename_i e; exact ih (State.recordedWrite_kept_of e hx3 fun y hy => State.decodeWrite_kept hy)
    · rename_i e; exact State.recordedWrite_kept_of e hx3 fun y hy => State.decodeWrite_kept hy

theorem blkWrite_kept_of {pq : List Instr} {a : Nat} {x1 : Nat} {x2 : List Word} {x3 : State} {r0 : Nat} {r1 : Acc} {r2 : Bool} {r3 : State} (e : (blkWrite a x1 x2 x3) = (r0, r1, r2, r3)) (hx3 : Kept pq x3) :
    Kept pq r3 := by
  have := blkWrite_kept (pq := pq) (a := a) (x1 := x1) (x2 := x2) (x3 := x3) hx3
  rw [e] at this
  exact this

theorem State.deniedBlock_kept {pq : List Instr} {s : State} {a : Nat} {data : List Word} {why : Acc} {note : State → State} {answer : LanResp} (hs : Kept pq s) (hnote : ∀ (y0 : State), Kept pq y0 → Kept pq (note y0)) :
    Kept pq (State.deniedBlock s a data why note answer) := by
  unfold State.deniedBlock
  try dsimp only
  with_reducible repeat' first
    | assumption | intro _ | apply Kept.ite | apply State.answer_kept | apply State.respond_kept | apply State.deniedWrite_kept | apply hs
    | apply hnote | simp -zeta only [↓kept_mk, ↓console_mk, ↓console_mk', ↓boot_mk, ↓keeper_mk] | apply KeptMk.same | apply KeptMk.setCon
    | apply KeptMk.setBst | apply KeptMk.setKpr | apply KeptMk.setRegs | apply KeptMk.setAll | apply ConsoleMk.same | apply ConsoleMk.setBuf
    | apply BootMk.same | apply KeeperMk.same | apply Kept.pending | apply Kept.regs | apply Kept.bst | apply Kept.kpr | apply Kept.con
    | exact Nat.zero_le _ | apply Kept.getD | exact nil_le | apply Kept.foldl_snd | apply Kept.foldl_fst | apply Kept.foldl | apply KeptO.none
    | apply KeptO.some | apply KeptO3.none | apply KeptO3.some | apply Kept.next | apply Kept.id | split

theorem State.lanternBlkwr_kept {pq : List Instr} {s : State} {a : Nat} {data : List Word} {badGroup : Option Nat} (hs : Kept pq s) :
    Kept pq (State.lanternBlkwr s a data badGroup) := by
  unfold State.lanternBlkwr
  try dsimp only
  with_reducible repeat' first
    | assumption | intro _ | apply Kept.ite | apply BootStore.refuse_kept | apply State.refuse_kept | apply State.done_kept | apply State.good_kept
    | apply State.respond_kept | apply blkWrite_kept | apply blkWrite_kept_of (by assumption) | apply State.deniedBlock_kept | apply hs
    | simp -zeta only [↓kept_mk, ↓console_mk, ↓console_mk', ↓boot_mk, ↓keeper_mk] | apply KeptMk.same | apply KeptMk.setCon | apply KeptMk.setBst
    | apply KeptMk.setKpr | apply KeptMk.setRegs | apply KeptMk.setAll | apply ConsoleMk.same | apply ConsoleMk.setBuf | apply BootMk.same
    | apply KeeperMk.same | apply Kept.pending | apply Kept.regs | apply Kept.bst | apply Kept.kpr | apply Kept.con | exact Nat.zero_le _
    | apply Kept.getD | exact nil_le | apply Kept.foldl_snd | apply Kept.foldl_fst | apply Kept.foldl | apply KeptO.none | apply KeptO.some
    | apply KeptO3.none | apply KeptO3.some | apply Kept.next | apply Kept.id | split

theorem execLanternStatus_kept {pq : List Instr} {s : State} (hs : Kept pq s) :
    KeptOut pq (execLanternStatus s) := by
  unfold execLanternStatus
  apply Kept.next
  with_reducible repeat' first
    | assumption | intro _ | apply Kept.ite | apply BootStore.next_kept | apply State.respond_kept

theorem execLanternRead_kept {pq : List Instr} {addr : Word} {width : Width} {checkOk : Bool} {s : State} (hs : Kept pq s) :
    KeptOut pq (execLanternRead addr width checkOk s) := by
  unfold execLanternRead
  apply Kept.next
  with_reducible repeat' first
    | assumption | intro _ | apply Kept.ite | apply BootStore.next_kept | apply State.respond_kept | apply State.lanternReq_kept
    | apply State.lanternRead_kept

theorem execLanternWrite_kept {pq : List Instr} {addr : Word} {width : Width} {value : BitVec 64} {checkOk : Bool} {s : State} (hs : Kept pq s) :
    KeptOut pq (execLanternWrite addr width value checkOk s) := by
  unfold execLanternWrite
  try dsimp only
  apply Kept.next
  with_reducible repeat' first
    | assumption | intro _ | apply Kept.ite | apply BootStore.next_kept | apply State.lanternReq_kept | apply State.deniedWrite_kept
    | apply State.lanternWrite_kept | apply hs | simp -zeta only [↓kept_mk, ↓console_mk, ↓console_mk', ↓boot_mk, ↓keeper_mk] | apply KeptMk.same
    | apply KeptMk.setCon | apply KeptMk.setBst | apply KeptMk.setKpr | apply KeptMk.setRegs | apply KeptMk.setAll | apply ConsoleMk.same
    | apply ConsoleMk.setBuf | apply BootMk.same | apply KeeperMk.same | apply Kept.pending | apply Kept.regs | apply Kept.bst | apply Kept.kpr
    | apply Kept.con | exact Nat.zero_le _ | apply Kept.getD | exact nil_le | apply Kept.foldl_snd | apply Kept.foldl_fst | apply Kept.foldl
    | apply KeptO.none | apply KeptO.some | apply KeptO3.none | apply KeptO3.some | apply Kept.next | apply Kept.id

theorem execLanternBlkrd_kept {pq : List Instr} {addr : Word} {words : BlkLen} {checkOk : Bool} {s : State} (hs : Kept pq s) :
    KeptOut pq (execLanternBlkrd addr words checkOk s) := by
  unfold execLanternBlkrd
  apply Kept.next
  with_reducible repeat' first
    | assumption | intro _ | apply Kept.ite | apply BootStore.next_kept | apply State.respond_kept | apply State.lanternReq_kept
    | apply State.lanternBlkrd_kept

theorem execLanternBlkwr_kept {pq : List Instr} {addr : Word} {data : List Word} {badGroup : Option Nat} {checkOk : Bool} {s : State} (hs : Kept pq s) :
    KeptOut pq (execLanternBlkwr addr data badGroup checkOk s) := by
  unfold execLanternBlkwr
  apply Kept.next
  with_reducible repeat' first
    | assumption | intro _ | apply Kept.ite | apply BootStore.next_kept | apply State.lanternReq_kept | apply State.deniedBlock_kept
    | apply State.lanternBlkwr_kept | apply hs | simp -zeta only [↓kept_mk, ↓console_mk, ↓console_mk', ↓boot_mk, ↓keeper_mk] | apply KeptMk.same
    | apply KeptMk.setCon | apply KeptMk.setBst | apply KeptMk.setKpr | apply KeptMk.setRegs | apply KeptMk.setAll | apply ConsoleMk.same
    | apply ConsoleMk.setBuf | apply BootMk.same | apply KeeperMk.same | apply Kept.pending | apply Kept.regs | apply Kept.bst | apply Kept.kpr
    | apply Kept.con | exact Nat.zero_le _ | apply Kept.getD | exact nil_le | apply Kept.foldl_snd | apply Kept.foldl_fst | apply Kept.foldl
    | apply KeptO.none | apply KeptO.some | apply KeptO3.none | apply KeptO3.some | apply Kept.next | apply Kept.id

theorem execLanternReset_kept {pq : List Instr} {checkOk : Bool} {s : State} (hs : Kept pq s) :
    KeptOut pq (execLanternReset checkOk s) := by
  unfold execLanternReset
  apply Kept.next
  with_reducible repeat' first
    | assumption | intro _ | apply Kept.ite | apply BootStore.next_kept | apply State.requestFused_kept | apply State.respond_kept
    | apply State.lanternReq_kept

theorem State.scanReq_kept {pq : List Instr} {s : State} {act : State → State} (hs : Kept pq s) (hact : ∀ (y0 : State), Kept pq y0 → Kept pq (act y0)) :
    Kept pq (State.scanReq s act) := by
  unfold State.scanReq
  try dsimp only
  with_reducible repeat' first
    | assumption | intro _ | apply Kept.ite | apply State.respond_kept | apply State.lanternReq_kept | apply hs | apply hact
    | simp -zeta only [↓kept_mk] | apply KeptMk.same

theorem execScanBypass_kept {pq : List Instr} {s : State} (hs : Kept pq s) :
    KeptOut pq (execScanBypass s) := by
  unfold execScanBypass
  try dsimp only
  apply Kept.next
  with_reducible repeat' first
    | assumption | intro _ | apply Kept.ite | apply BootStore.next_kept | apply State.respond_kept | apply State.scanReq_kept | apply hs
    | simp -zeta only [↓kept_mk] | apply KeptMk.same

theorem execScanIdcode_kept {pq : List Instr} {s : State} (hs : Kept pq s) :
    KeptOut pq (execScanIdcode s) := by
  unfold execScanIdcode
  try dsimp only
  apply Kept.next
  with_reducible repeat' first
    | assumption | intro _ | apply Kept.ite | apply State.takeFree_kept | apply BootStore.next_kept | apply State.respond_kept
    | apply State.scanReq_kept | apply hs | simp -zeta only [↓kept_mk] | apply KeptMk.same

theorem execScanSamplePreload_kept {pq : List Instr} {pins : BitVec 205} {s : State} (hs : Kept pq s) :
    KeptOut pq (execScanSamplePreload pins s) := by
  unfold execScanSamplePreload
  try dsimp only
  apply Kept.next
  with_reducible repeat' first
    | assumption | intro _ | apply Kept.ite | apply BootStore.next_kept | apply State.respond_kept | apply State.scanReq_kept | apply hs
    | simp -zeta only [↓kept_mk] | apply KeptMk.same

theorem execScanExtest_kept {pq : List Instr} {s : State} (hs : Kept pq s) :
    KeptOut pq (execScanExtest s) := by
  unfold execScanExtest
  try dsimp only
  apply Kept.next
  with_reducible repeat' first
    | assumption | intro _ | apply Kept.ite | apply BootStore.next_kept | apply State.respond_kept | apply State.scanReq_kept | apply hs
    | simp -zeta only [↓kept_mk] | apply KeptMk.same

theorem State.scanShift_kept {pq : List Instr} {s : State} {inp : Nat} (hs : Kept pq s) :
    Kept pq (State.scanShift s inp) := by
  unfold State.scanShift
  try dsimp only
  with_reducible repeat' first
    | assumption | intro _ | apply Kept.ite | apply State.takeFree_kept | apply State.respond_kept | apply hs | simp -zeta only [↓kept_mk]
    | apply KeptMk.same | apply KeptMk.setCon | apply KeptMk.setBst | apply KeptMk.setKpr | apply KeptMk.setRegs | apply KeptMk.setAll
    | apply ConsoleMk.same | apply ConsoleMk.setBuf | apply BootMk.same | apply KeeperMk.same | apply Kept.pending | apply Kept.regs | apply Kept.bst
    | apply Kept.kpr | apply Kept.con | exact Nat.zero_le _ | apply Kept.getD | exact nil_le | apply Kept.foldl_snd | apply Kept.foldl_fst
    | apply Kept.foldl | apply KeptO.none | apply KeptO.some | apply KeptO3.none | apply KeptO3.some | apply Kept.next | apply Kept.id | split

theorem execScanShift_kept {pq : List Instr} {inp : BitVec 64} {s : State} (hs : Kept pq s) :
    KeptOut pq (execScanShift inp s) := by
  unfold execScanShift
  apply Kept.next
  with_reducible repeat' first
    | assumption | intro _ | apply Kept.ite | apply BootStore.next_kept | apply State.scanReq_kept | apply State.scanShift_kept

end Sys2Proof.Machine
end

