-- ==== Sys2Proof/Laws/KeptLines.lean ====
section
/-! SUPPORT. The operations of Machine/Lines.lean keep the queue of commands and the sound form of the state. -/

namespace Sys2Proof.Machine

theorem State.enqueue_kept {pq : List Instr} {s : State} {c : LineCtx} {text : List Byte} (hs : Kept pq s) :
    Kept pq (State.enqueue s c text) := by
  unfold State.enqueue
  split
  · exact State.reply_kept (State.raise_kept hs)
  · rename_i hc
    simp only [↓kept_mk]
    refine KeptMk.setCon hs ?_
    simp only [↓console_mk']
    refine ConsoleMk.setQueue hs.con fun p => ?_
    have h := ((Console.wf_iff _).1 hs.con).2.2 p
    rw [List.countP_append]
    by_cases hp : c.path = p
    · subst hp; simp at hc ⊢; omega
    · simp [hp]; omega

theorem State.execLine_kept {pq : List Instr} {s : State} {c : LineCtx} {text : List Byte} {rec : Bool} {act : Option Nat → State → State} (hs : Kept pq s) (hact : ∀ (y0 : Option Nat) (y1 : State), Kept pq y1 → Kept pq (act y0 y1)) :
    Kept pq (State.execLine s c text rec act) := by
  unfold State.execLine
  try dsimp only
  with_reducible repeat' first
    | assumption | intro _ | apply Kept.ite | apply State.journalAdd_kept | apply State.journalAdd_kept_of (by assumption) | apply State.reply_kept
    | apply hs | apply hact | simp -zeta only [↓kept_mk, ↓console_mk, ↓console_mk', ↓boot_mk, ↓keeper_mk] | apply KeptMk.same | apply KeptMk.setCon
    | apply KeptMk.setBst | apply KeptMk.setKpr | apply KeptMk.setRegs | apply KeptMk.setAll | apply ConsoleMk.same | apply ConsoleMk.setBuf
    | apply BootMk.same | apply KeeperMk.same | apply Kept.pending | apply Kept.regs | apply Kept.bst | apply Kept.kpr | apply Kept.con
    | exact Nat.zero_le _ | apply Kept.getD | exact nil_le | apply Kept.foldl_snd | apply Kept.foldl_fst | apply Kept.foldl | apply KeptO.none
    | apply KeptO.some | apply KeptO3.none | apply KeptO3.some | apply Kept.next | split

theorem State.lineRow_kept {pq : List Instr} {s : State} {c : LineCtx} {i : Instr} {act : Option Nat → State → State} (hs : Kept pq s) (hact : ∀ (y0 : Option Nat) (y1 : State), Kept pq y1 → Kept pq (act y0 y1)) :
    Kept pq (State.lineRow s c i act) := by
  unfold State.lineRow
  with_reducible repeat' first
    | assumption | intro _ | apply Kept.ite | apply State.finishLine_kept | apply State.enqueue_kept | apply State.execLine_kept

theorem State.checked_kept {pq : List Instr} {s : State} {c : LineCtx} {j : Option Nat} {cs : List (Bool × Status)} {act : State → State} (hs : Kept pq s) (hact : ∀ (y0 : State), Kept pq y0 → Kept pq (act y0)) :
    Kept pq (State.checked s c j cs act) := by
  unfold State.checked
  try dsimp only
  with_reducible repeat' first
    | assumption | intro _ | apply Kept.ite | apply State.finishLine_kept | apply hs | apply hact
    | simp -zeta only [↓kept_mk, ↓console_mk, ↓console_mk', ↓boot_mk, ↓keeper_mk] | apply KeptMk.same | apply KeptMk.setCon | apply KeptMk.setBst
    | apply KeptMk.setKpr | apply KeptMk.setRegs | apply KeptMk.setAll | apply ConsoleMk.same | apply ConsoleMk.setBuf | apply BootMk.same
    | apply KeeperMk.same | apply Kept.pending | apply Kept.regs | apply Kept.bst | apply Kept.kpr | apply Kept.con | exact Nat.zero_le _
    | apply Kept.getD | exact nil_le | apply Kept.foldl_snd | apply Kept.foldl_fst | apply Kept.foldl | apply KeptO.none | apply KeptO.some
    | apply KeptO3.none | apply KeptO3.some | apply Kept.next | split

end Sys2Proof.Machine
end

