-- ==== Sys2Proof/Laws/KeptReading.lean ====
section
/-! SUPPORT. The operations of Machine/Reading.lean keep the queue of commands and the sound form of the state. -/

namespace Sys2Proof.Machine

theorem State.doShow_kept {pq : List Instr} {s : State} {c : LineCtx} {j : Option Nat} {obj : ShowObj} (hs : Kept pq s) :
    Kept pq (State.doShow s c j obj) := by
  unfold State.doShow
  try dsimp only
  with_reducible repeat' first
    | assumption | intro _ | apply Kept.ite | apply State.finishLine_kept | apply hs
    | simp -zeta only [↓kept_mk, ↓console_mk, ↓console_mk', ↓boot_mk, ↓keeper_mk] | apply KeptMk.same | apply KeptMk.setCon | apply KeptMk.setBst
    | apply KeptMk.setKpr | apply KeptMk.setRegs | apply KeptMk.setAll | apply ConsoleMk.same | apply ConsoleMk.setBuf | apply BootMk.same
    | apply KeeperMk.same | apply Kept.pending | apply Kept.regs | apply Kept.bst | apply Kept.kpr | apply Kept.con | exact Nat.zero_le _
    | apply Kept.getD | exact nil_le | apply Kept.foldl_snd | apply Kept.foldl_fst | apply Kept.foldl | apply KeptO.none | apply KeptO.some
    | apply KeptO3.none | apply KeptO3.some | apply Kept.next | split

theorem execShow_kept {pq : List Instr} {l : LineCtx} {obj : ShowObj} {s : State} (hs : Kept pq s) :
    KeptOut pq (execShow l obj s) := by
  unfold execShow
  apply Kept.next
  with_reducible repeat' first
    | assumption | intro _ | apply Kept.ite | apply BootStore.next_kept | apply State.lineRow_kept | apply State.doShow_kept

theorem State.doGet_kept {pq : List Instr} {s : State} {c : LineCtx} {j : Option Nat} {what : GetWhat} (hs : Kept pq s) :
    Kept pq (State.doGet s c j what) := by
  unfold State.doGet
  with_reducible repeat' first
    | assumption | intro _ | apply Kept.ite | apply State.finishLine_kept

theorem execGet_kept {pq : List Instr} {l : LineCtx} {what : GetWhat} {s : State} (hs : Kept pq s) :
    KeptOut pq (execGet l what s) := by
  unfold execGet
  apply Kept.next
  with_reducible repeat' first
    | assumption | intro _ | apply Kept.ite | apply BootStore.next_kept | apply State.lineRow_kept | apply State.doGet_kept

theorem State.logReply_kept {pq : List Instr} {s : State} {c : LineCtx} {j : Option Nat} {ls : List (List Pair)} (hs : Kept pq s) :
    Kept pq (State.logReply s c j ls) := by
  unfold State.logReply
  with_reducible repeat' first
    | assumption | intro _ | apply Kept.ite | apply State.finishLine_kept

theorem State.doLogJournal_kept {pq : List Instr} {s : State} {c : LineCtx} {j : Option Nat} {last : Option Nat} {from_ : Option Nat} (hs : Kept pq s) :
    Kept pq (State.doLogJournal s c j last from_) := by
  unfold State.doLogJournal
  with_reducible repeat' first
    | assumption | intro _ | apply Kept.ite | apply State.checked_kept | apply State.logReply_kept

theorem execLogJournal_kept {pq : List Instr} {l : LineCtx} {last : Option Nat} {frm : Option Nat} {s : State} (hs : Kept pq s) :
    KeptOut pq (execLogJournal l last frm s) := by
  unfold execLogJournal
  apply Kept.next
  with_reducible repeat' first
    | assumption | intro _ | apply Kept.ite | apply BootStore.next_kept | apply State.lineRow_kept | apply State.doLogJournal_kept

theorem State.doLogTrouble_kept {pq : List Instr} {s : State} {c : LineCtx} {j : Option Nat} (hs : Kept pq s) :
    Kept pq (State.doLogTrouble s c j) := by
  unfold State.doLogTrouble
  with_reducible repeat' first
    | assumption | intro _ | apply Kept.ite | apply State.logReply_kept

theorem execLogTrouble_kept {pq : List Instr} {l : LineCtx} {s : State} (hs : Kept pq s) :
    KeptOut pq (execLogTrouble l s) := by
  unfold execLogTrouble
  apply Kept.next
  with_reducible repeat' first
    | assumption | intro _ | apply Kept.ite | apply BootStore.next_kept | apply State.lineRow_kept | apply State.doLogTrouble_kept

theorem State.doLogAlarm_kept {pq : List Instr} {s : State} {c : LineCtx} {j : Option Nat} {last : Option Nat} (hs : Kept pq s) :
    Kept pq (State.doLogAlarm s c j last) := by
  unfold State.doLogAlarm
  try dsimp only
  with_reducible repeat' first
    | assumption | intro _ | apply Kept.ite | apply State.logReply_kept

theorem execLogAlarm_kept {pq : List Instr} {l : LineCtx} {last : Option Nat} {s : State} (hs : Kept pq s) :
    KeptOut pq (execLogAlarm l last s) := by
  unfold execLogAlarm
  apply Kept.next
  with_reducible repeat' first
    | assumption | intro _ | apply Kept.ite | apply BootStore.next_kept | apply State.lineRow_kept | apply State.doLogAlarm_kept

theorem State.doLogTemp_kept {pq : List Instr} {s : State} {c : LineCtx} {j : Option Nat} (hs : Kept pq s) :
    Kept pq (State.doLogTemp s c j) := by
  unfold State.doLogTemp
  with_reducible repeat' first
    | assumption | intro _ | apply Kept.ite | apply State.logReply_kept

theorem execLogTemp_kept {pq : List Instr} {l : LineCtx} {s : State} (hs : Kept pq s) :
    KeptOut pq (execLogTemp l s) := by
  unfold execLogTemp
  apply Kept.next
  with_reducible repeat' first
    | assumption | intro _ | apply Kept.ite | apply BootStore.next_kept | apply State.lineRow_kept | apply State.doLogTemp_kept

theorem State.doHelp_kept {pq : List Instr} {s : State} {c : LineCtx} {j : Option Nat} {t : HelpTopic} (hs : Kept pq s) :
    Kept pq (State.doHelp s c j t) := by
  unfold State.doHelp
  with_reducible repeat' first
    | assumption | intro _ | apply Kept.ite | apply State.finishLine_kept

theorem execHelp_kept {pq : List Instr} {l : LineCtx} {topic : HelpTopic} {s : State} (hs : Kept pq s) :
    KeptOut pq (execHelp l topic s) := by
  unfold execHelp
  apply Kept.next
  with_reducible repeat' first
    | assumption | intro _ | apply Kept.ite | apply BootStore.next_kept | apply State.lineRow_kept | apply State.doHelp_kept

end Sys2Proof.Machine
end

