-- ==== Sys2Proof/Laws/KeptChanging.lean ====
section
/-! SUPPORT. The operations of Machine/Changing.lean keep the queue of commands and the sound form of the state. -/

namespace Sys2Proof.Machine

theorem State.doSet_kept {pq : List Instr} {s : State} {c : LineCtx} {j : Option Nat} {ps : List (Setting × SetVal)} (hs : Kept pq s) :
    Kept pq (State.doSet s c j ps) := by
  unfold State.doSet
  try dsimp only
  with_reducible repeat' first
    | assumption | intro _ | apply Kept.ite | apply State.finishLine_kept | apply State.run_kept | apply State.setNow_kept | apply hs
    | simp -zeta only [↓kept_mk, ↓console_mk, ↓console_mk', ↓boot_mk, ↓keeper_mk] | apply KeptMk.same | apply KeptMk.setCon | apply KeptMk.setBst
    | apply KeptMk.setKpr | apply KeptMk.setRegs | apply KeptMk.setAll | apply ConsoleMk.same | apply ConsoleMk.setBuf | apply BootMk.same
    | apply KeeperMk.same | apply Kept.pending | apply Kept.regs | apply Kept.bst | apply Kept.kpr | apply Kept.con | exact Nat.zero_le _
    | apply Kept.getD | exact nil_le | apply Kept.foldl_snd | apply Kept.foldl_fst | apply Kept.foldl | apply KeptO.none | apply KeptO.some
    | apply KeptO3.none | apply KeptO3.some | apply Kept.next | split

theorem execSet_kept {pq : List Instr} {l : LineCtx} {pairs : List (Setting × SetVal)} {s : State} (hs : Kept pq s) :
    KeptOut pq (execSet l pairs s) := by
  unfold execSet
  apply Kept.next
  with_reducible repeat' first
    | assumption | intro _ | apply Kept.ite | apply BootStore.next_kept | apply State.lineRow_kept | apply State.doSet_kept

theorem State.doClearTrouble_kept {pq : List Instr} {s : State} {c : LineCtx} {j : Option Nat} {bit : Option Nat} (hs : Kept pq s) :
    Kept pq (State.doClearTrouble s c j bit) := by
  unfold State.doClearTrouble
  try dsimp only
  with_reducible repeat' first
    | assumption | intro _ | apply Kept.ite | apply State.finishLine_kept | apply State.clearTrouble_kept | apply State.checked_kept

theorem execClearTrouble_kept {pq : List Instr} {l : LineCtx} {bit : Option Nat} {s : State} (hs : Kept pq s) :
    KeptOut pq (execClearTrouble l bit s) := by
  unfold execClearTrouble
  apply Kept.next
  with_reducible repeat' first
    | assumption | intro _ | apply Kept.ite | apply BootStore.next_kept | apply State.clearTrouble_kept | apply State.lineRow_kept
    | apply State.doClearTrouble_kept

theorem State.doClearCause_kept {pq : List Instr} {s : State} {c : LineCtx} {j : Option Nat} {bit : Option Nat} (hs : Kept pq s) :
    Kept pq (State.doClearCause s c j bit) := by
  unfold State.doClearCause
  try dsimp only
  with_reducible repeat' first
    | assumption | intro _ | apply Kept.ite | apply State.finishLine_kept | apply State.clearCause_kept | apply State.checked_kept

theorem execClearCause_kept {pq : List Instr} {l : LineCtx} {bit : Option Nat} {s : State} (hs : Kept pq s) :
    KeptOut pq (execClearCause l bit s) := by
  unfold execClearCause
  apply Kept.next
  with_reducible repeat' first
    | assumption | intro _ | apply Kept.ite | apply BootStore.next_kept | apply State.clearCause_kept | apply State.lineRow_kept
    | apply State.doClearCause_kept

theorem State.doClearSuspect_kept {pq : List Instr} {s : State} {c : LineCtx} {j : Option Nat} {ch : Fin 128} {statusOk : Bool} (hs : Kept pq s) :
    Kept pq (State.doClearSuspect s c j ch statusOk) := by
  unfold State.doClearSuspect
  try dsimp only
  with_reducible repeat' first
    | assumption | intro _ | apply Kept.ite | apply State.setReg_kept | apply State.finishLine_kept | apply State.good_kept
    | apply State.resetLun_kept | apply State.resetLun_kept_of (by assumption) | apply State.checked_kept

theorem execClearSuspect_kept {pq : List Instr} {l : LineCtx} {c : Fin 128} {statusOk : Bool} {s : State} (hs : Kept pq s) :
    KeptOut pq (execClearSuspect l c statusOk s) := by
  unfold execClearSuspect
  apply Kept.next
  with_reducible repeat' first
    | assumption | intro _ | apply Kept.ite | apply BootStore.next_kept | apply State.lineRow_kept | apply State.doClearSuspect_kept

theorem State.doSaveSettings_kept {pq : List Instr} {s : State} {c : LineCtx} {j : Option Nat} (hs : Kept pq s) :
    Kept pq (State.doSaveSettings s c j) := by
  unfold State.doSaveSettings
  try dsimp only
  with_reducible repeat' first
    | assumption | intro _ | apply Kept.ite | apply State.saveSettings_kept | apply State.saveSettings_kept_of (by assumption)
    | apply State.finishLine_kept

theorem execSaveSettings_kept {pq : List Instr} {l : LineCtx} {s : State} (hs : Kept pq s) :
    KeptOut pq (execSaveSettings l s) := by
  unfold execSaveSettings
  apply Kept.next
  with_reducible repeat' first
    | assumption | intro _ | apply Kept.ite | apply BootStore.next_kept | apply State.saveSettings_kept
    | apply State.saveSettings_kept_of (by assumption) | apply State.lineRow_kept | apply State.doSaveSettings_kept

theorem State.eraseHalf_kept {pq : List Instr} {s : State} {sec : Nat} (hs : Kept pq s) :
    Kept pq (State.eraseHalf s sec).2 := by
  unfold State.eraseHalf
  with_reducible repeat' first
    | assumption | intro _ | apply Kept.ite | apply State.fwErase_kept | apply State.fwErase_kept_of (by assumption) | apply hs
    | simp -zeta only [↓kept_mk, ↓console_mk, ↓console_mk', ↓boot_mk, ↓keeper_mk] | apply KeptMk.same | apply KeptMk.setCon | apply KeptMk.setBst
    | apply KeptMk.setKpr | apply KeptMk.setRegs | apply KeptMk.setAll | apply ConsoleMk.same | apply ConsoleMk.setBuf | apply BootMk.same
    | apply KeeperMk.same | apply Kept.pending | apply Kept.regs | apply Kept.bst | apply Kept.kpr | apply Kept.con | exact Nat.zero_le _
    | apply Kept.getD | exact nil_le | apply Kept.foldl_snd | apply Kept.foldl_fst | apply Kept.foldl | apply KeptO.none | apply KeptO.some
    | apply KeptO3.none | apply KeptO3.some | apply Kept.next | split

theorem State.eraseHalf_kept_of {pq : List Instr} {s : State} {sec : Nat} {r0 : Bool} {r1 : State} (e : (State.eraseHalf s sec) = (r0, r1)) (hs : Kept pq s) :
    Kept pq r1 := by
  have := State.eraseHalf_kept (pq := pq) (s := s) (sec := sec) hs
  rw [e] at this
  exact this

theorem State.saveProfile_kept {pq : List Instr} {s : State} (hs : Kept pq s) :
    Kept pq (State.saveProfile s).2 := by
  unfold State.saveProfile
  try dsimp only
  with_reducible repeat' first
    | assumption | intro _ | apply Kept.ite | apply State.fwProgram_kept | apply State.fwProgram_kept_of (by assumption) | apply State.done_kept
    | apply State.seq_kept | apply State.eraseHalf_kept | apply State.eraseHalf_kept_of (by assumption) | apply hs
    | simp -zeta only [↓kept_mk, ↓boot_mk] | apply KeptMk.same | apply KeptMk.setCon | apply KeptMk.setBst | apply KeptMk.setKpr
    | apply KeptMk.setRegs | apply KeptMk.setAll | apply ConsoleMk.same | apply ConsoleMk.setBuf | apply BootMk.same | apply KeeperMk.same
    | apply Kept.pending | apply Kept.regs | apply Kept.bst | apply Kept.kpr | apply Kept.con | exact Nat.zero_le _ | apply Kept.getD | exact nil_le
    | apply Kept.foldl_snd | apply Kept.foldl_fst | apply Kept.foldl | apply KeptO.none | apply KeptO.some | apply KeptO3.none | apply KeptO3.some
    | apply Kept.next | split

theorem State.saveProfile_kept_of {pq : List Instr} {s : State} {r0 : Saved} {r1 : State} (e : (State.saveProfile s) = (r0, r1)) (hs : Kept pq s) :
    Kept pq r1 := by
  have := State.saveProfile_kept (pq := pq) (s := s) hs
  rw [e] at this
  exact this

theorem State.doSaveProfile_kept {pq : List Instr} {s : State} {c : LineCtx} {j : Option Nat} (hs : Kept pq s) :
    Kept pq (State.doSaveProfile s c j) := by
  unfold State.doSaveProfile
  try dsimp only
  with_reducible repeat' first
    | assumption | intro _ | apply Kept.ite | apply State.finishLine_kept | apply State.saveProfile_kept

theorem execSaveProfile_kept {pq : List Instr} {l : LineCtx} {s : State} (hs : Kept pq s) :
    KeptOut pq (execSaveProfile l s) := by
  unfold execSaveProfile
  apply Kept.next
  with_reducible repeat' first
    | assumption | intro _ | apply Kept.ite | apply BootStore.next_kept | apply State.lineRow_kept | apply State.saveProfile_kept
    | apply State.saveProfile_kept_of (by assumption) | apply State.doSaveProfile_kept

theorem State.loadOne_kept {pq : List Instr} {s : State} {saved : Settings} {x : Setting} (hs : Kept pq s) :
    Kept pq (State.loadOne s saved x) := by
  unfold State.loadOne
  try dsimp only
  with_reducible repeat' first
    | assumption | intro _ | apply Kept.ite | apply State.setNow_kept

theorem State.doLoadSettings_kept {pq : List Instr} {s : State} {c : LineCtx} {j : Option Nat} (hs : Kept pq s) :
    Kept pq (State.doLoadSettings s c j) := by
  unfold State.doLoadSettings
  try dsimp only
  with_reducible repeat' first
    | assumption | intro _ | apply Kept.ite | apply BootStore.setStart_kept | apply State.finishLine_kept | apply State.loadOne_kept | apply hs
    | simp -zeta only [↓kept_mk, ↓console_mk, ↓console_mk', ↓boot_mk, ↓keeper_mk] | apply KeptMk.same | apply KeptMk.setCon | apply KeptMk.setBst
    | apply KeptMk.setKpr | apply KeptMk.setRegs | apply KeptMk.setAll | apply ConsoleMk.same | apply ConsoleMk.setBuf | apply BootMk.same
    | apply KeeperMk.same | apply Kept.pending | apply Kept.regs | apply Kept.bst | apply Kept.kpr | apply Kept.con | exact Nat.zero_le _
    | apply Kept.getD | exact nil_le | apply Kept.foldl_snd | apply Kept.foldl_fst | apply Kept.foldl

theorem execLoadSettings_kept {pq : List Instr} {l : LineCtx} {s : State} (hs : Kept pq s) :
    KeptOut pq (execLoadSettings l s) := by
  unfold execLoadSettings
  apply Kept.next
  with_reducible repeat' first
    | assumption | intro _ | apply Kept.ite | apply BootStore.next_kept | apply State.lineRow_kept | apply State.doLoadSettings_kept

theorem State.readSpan_kept {pq : List Instr} {s : State} {x1 : List (Nat × Nat)} (hs : Kept pq s) :
    Kept pq (State.readSpan s x1).2.2 := by
  induction x1 generalizing s with
  | nil => unfold State.readSpan; exact hs
  | cons e r ih =>
    obtain ⟨a, w⟩ := e
    unfold State.readSpan
    dsimp only
    split
    · exact ih (State.busRead_kept hs)
    · exact State.busRead_kept hs

theorem State.readSpan_kept_of {pq : List Instr} {s : State} {x1 : List (Nat × Nat)} {r0 : Option (Acc × Nat)} {r1 : List Nat} {r2 : State} (e : (State.readSpan s x1) = (r0, r1, r2)) (hs : Kept pq s) :
    Kept pq r2 := by
  have := State.readSpan_kept (pq := pq) (s := s) (x1 := x1) hs
  rw [e] at this
  exact this

theorem State.doLoadProfile_kept {pq : List Instr} {s : State} {c : LineCtx} {j : Option Nat} {src : Nat} {len : Nat} {g : Option (Fin 8)} (hs : Kept pq s) :
    Kept pq (State.doLoadProfile s c j src len g) := by
  unfold State.doLoadProfile
  try dsimp only
  with_reducible repeat' first
    | assumption | intro _ | apply Kept.ite | apply State.gal_kept | apply State.finishLine_kept | apply State.run_kept | apply State.load_kept
    | apply State.checked_kept | apply State.readSpan_kept | apply State.readSpan_kept_of (by assumption) | apply hs
    | simp -zeta only [↓kept_mk, ↓console_mk, ↓console_mk', ↓boot_mk, ↓keeper_mk] | apply KeptMk.same | apply KeptMk.setCon | apply KeptMk.setBst
    | apply KeptMk.setKpr | apply KeptMk.setRegs | apply KeptMk.setAll | apply ConsoleMk.same | apply ConsoleMk.setBuf | apply BootMk.same
    | apply KeeperMk.same | apply Kept.pending | apply Kept.regs | apply Kept.bst | apply Kept.kpr | apply Kept.con | exact Nat.zero_le _
    | apply Kept.getD | exact nil_le | apply Kept.foldl_snd | apply Kept.foldl_fst | apply Kept.foldl | apply KeptO.none | apply KeptO.some
    | apply KeptO3.none | apply KeptO3.some | apply Kept.next | split

theorem execLoadProfile_kept {pq : List Instr} {l : LineCtx} {src : Nat} {len : Nat} {g : Option (Fin 8)} {s : State} (hs : Kept pq s) :
    KeptOut pq (execLoadProfile l src len g s) := by
  unfold execLoadProfile
  apply Kept.next
  with_reducible repeat' first
    | assumption | intro _ | apply Kept.ite | apply BootStore.next_kept | apply State.lineRow_kept | apply State.doLoadProfile_kept

theorem State.installCycles_kept {pq : List Instr} {s : State} {g : Fin 8} {ids : List (List Nat)} (hs : Kept pq s) :
    Kept pq (State.installCycles s g ids) := by
  unfold State.installCycles
  try dsimp only
  with_reducible repeat' first
    | assumption | intro _ | apply Kept.ite | apply State.targetList_kept | apply hs | simp -zeta only [↓kept_mk] | apply KeptMk.same
    | apply KeptMk.setCon | apply KeptMk.setBst | apply KeptMk.setKpr | apply KeptMk.setRegs | apply KeptMk.setAll | apply ConsoleMk.same
    | apply ConsoleMk.setBuf | apply BootMk.same | apply KeeperMk.same | apply Kept.pending | apply Kept.regs | apply Kept.bst | apply Kept.kpr
    | apply Kept.con | exact Nat.zero_le _ | apply Kept.getD | exact nil_le | apply Kept.foldl_snd | apply Kept.foldl_fst | apply Kept.foldl

theorem State.install_kept {pq : List Instr} {s : State} {g : Fin 8} {p : Profile} {ids : List (List Nat)} (hs : Kept pq s) :
    Kept pq (State.install s g p ids) := by
  unfold State.install
  try dsimp only
  with_reducible repeat' first
    | assumption | intro _ | apply Kept.ite | apply State.setReg_kept | apply State.gal_kept | apply State.galSetup_kept | apply State.retrain_kept
    | apply State.installCycles_kept | apply hs | simp -zeta only [↓kept_mk] | apply KeptMk.same

theorem State.loadReply_kept {pq : List Instr} {s : State} (hs : Kept pq s) :
    Kept pq (State.loadReply s) := by
  unfold State.loadReply
  try dsimp only
  with_reducible repeat' first
    | assumption | intro _ | apply Kept.ite | apply State.finishJob_kept | apply State.load_kept | apply hs
    | simp -zeta only [↓kept_mk, ↓console_mk, ↓console_mk', ↓boot_mk, ↓keeper_mk] | apply KeptMk.same | apply KeptMk.setCon | apply KeptMk.setBst
    | apply KeptMk.setKpr | apply KeptMk.setRegs | apply KeptMk.setAll | apply ConsoleMk.same | apply ConsoleMk.setBuf | apply BootMk.same
    | apply KeeperMk.same | apply Kept.pending | apply Kept.regs | apply Kept.bst | apply Kept.kpr | apply Kept.con | exact Nat.zero_le _
    | apply Kept.getD | exact nil_le | apply Kept.foldl_snd | apply Kept.foldl_fst | apply Kept.foldl | apply KeptO.none | apply KeptO.some
    | apply KeptO3.none | apply KeptO3.some | apply Kept.next | split

theorem execProfileInstall_kept {pq : List Instr} {g : Fin 8} {ids : List (List Nat)} {s : State} (hs : Kept pq s) :
    KeptOut pq (execProfileInstall g ids s) := by
  unfold execProfileInstall
  try dsimp only
  apply Kept.next
  with_reducible repeat' first
    | assumption | intro _ | apply Kept.ite | apply BootStore.next_kept | apply State.install_kept | apply State.loadReply_kept | apply hs
    | simp -zeta only [↓kept_mk, ↓console_mk, ↓console_mk', ↓boot_mk, ↓keeper_mk] | apply KeptMk.same | apply KeptMk.setCon | apply KeptMk.setBst
    | apply KeptMk.setKpr | apply KeptMk.setRegs | apply KeptMk.setAll | apply ConsoleMk.same | apply ConsoleMk.setBuf | apply BootMk.same
    | apply KeeperMk.same | apply Kept.pending | apply Kept.regs | apply Kept.bst | apply Kept.kpr | apply Kept.con | exact Nat.zero_le _
    | apply Kept.getD | exact nil_le | apply Kept.foldl_snd | apply Kept.foldl_fst | apply Kept.foldl | apply KeptO.none | apply KeptO.some
    | apply KeptO3.none | apply KeptO3.some | apply Kept.next | split

end Sys2Proof.Machine
end

