-- ==== Sys2Proof/Laws/KeptSequencer.lean ====
section
/-! SUPPORT. The operations of Machine/Sequencer.lean keep the queue of commands and the sound form of the state. -/

namespace Sys2Proof.Machine

theorem execOpEnd_kept {pq : List Instr} {g : Fin 8} {x : Fin 64} {s : State} (hs : Kept pq s) :
    KeptOut pq (execOpEnd g x s) := by
  unfold execOpEnd
  apply Kept.next
  with_reducible repeat' first
    | assumption | intro _ | apply Kept.ite | apply BootStore.next_kept | apply State.opEnd_kept

theorem execOpCmd_kept {pq : List Instr} {g : Fin 8} {b : ByteIn} {s : State} (hs : Kept pq s) :
    KeptOut pq (execOpCmd g b s) := by
  unfold execOpCmd
  apply Kept.next
  with_reducible repeat' first
    | assumption | intro _ | apply Kept.ite | apply BootStore.next_kept | apply State.ctx_kept | apply State.opCmd_kept

theorem execOpAddr_kept {pq : List Instr} {g : Fin 8} {a : CycleIn} {s : State} (hs : Kept pq s) :
    KeptOut pq (execOpAddr g a s) := by
  unfold execOpAddr
  apply Kept.next
  with_reducible repeat' first
    | assumption | intro _ | apply Kept.ite | apply BootStore.next_kept | apply State.ctx_kept | apply State.opAddr_kept

theorem execOpDin_kept {pq : List Instr} {g : Fin 8} {x : Fin 64} {r : DinRun} {s : State} (hs : Kept pq s) :
    KeptOut pq (execOpDin g x r s) := by
  unfold execOpDin
  apply Kept.next
  with_reducible repeat' first
    | assumption | intro _ | apply Kept.ite | apply BootStore.next_kept | apply State.opDin_kept

theorem execOpDout_kept {pq : List Instr} {g : Fin 8} {x : Fin 64} {bytes : List Byte} {mismatches : Nat} {s : State} (hs : Kept pq s) :
    KeptOut pq (execOpDout g x bytes mismatches s) := by
  unfold execOpDout
  apply Kept.next
  with_reducible repeat' first
    | assumption | intro _ | apply Kept.ite | apply BootStore.next_kept | apply State.opDout_kept

theorem execOpDinb_kept {pq : List Instr} {g : Fin 8} {b : ByteIn} {s : State} (hs : Kept pq s) :
    KeptOut pq (execOpDinb g b s) := by
  unfold execOpDinb
  apply Kept.next
  with_reducible repeat' first
    | assumption | intro _ | apply Kept.ite | apply BootStore.next_kept | apply State.ctx_kept | apply State.opDinb_kept

theorem execOpDinv_kept {pq : List Instr} {g : Fin 8} {b : ByteIn} {s : State} (hs : Kept pq s) :
    KeptOut pq (execOpDinv g b s) := by
  unfold execOpDinv
  apply Kept.next
  with_reducible repeat' first
    | assumption | intro _ | apply Kept.ite | apply BootStore.next_kept | apply State.ctx_kept | apply State.opDinv_kept

theorem execOpWait_kept {pq : List Instr} {g : Fin 8} {x : Fin 64} {s : State} (hs : Kept pq s) :
    KeptOut pq (execOpWait g x s) := by
  unfold execOpWait
  apply Kept.next
  with_reducible repeat' first
    | assumption | intro _ | apply Kept.ite | apply BootStore.next_kept | apply State.opWait_kept

theorem execOpWaitp_kept {pq : List Instr} {g : Fin 8} {x : Fin 64} {s : State} (hs : Kept pq s) :
    KeptOut pq (execOpWaitp g x s) := by
  unfold execOpWaitp
  apply Kept.next
  with_reducible repeat' first
    | assumption | intro _ | apply Kept.ite | apply BootStore.next_kept | apply State.opWaitp_kept

theorem execOpPoll_kept {pq : List Instr} {g : Fin 8} {x : Fin 64} {r : StatusIn} {s : State} (hs : Kept pq s) :
    KeptOut pq (execOpPoll g x r s) := by
  unfold execOpPoll
  apply Kept.next
  with_reducible repeat' first
    | assumption | intro _ | apply Kept.ite | apply BootStore.next_kept | apply State.opPoll_kept

theorem execOpStat_kept {pq : List Instr} {g : Fin 8} {x : Fin 64} {r : StatusIn} {s : State} (hs : Kept pq s) :
    KeptOut pq (execOpStat g x r s) := by
  unfold execOpStat
  apply Kept.next
  with_reducible repeat' first
    | assumption | intro _ | apply Kept.ite | apply BootStore.next_kept | apply State.opStat_kept

theorem execOpBr_kept {pq : List Instr} {g : Fin 8} {x : Fin 64} {s : State} (hs : Kept pq s) :
    KeptOut pq (execOpBr g x s) := by
  unfold execOpBr
  apply Kept.next
  with_reducible repeat' first
    | assumption | intro _ | apply Kept.ite | apply BootStore.next_kept | apply State.opBr_kept

theorem execOpSetl_kept {pq : List Instr} {g : Fin 8} {x : Fin 64} {s : State} (hs : Kept pq s) :
    KeptOut pq (execOpSetl g x s) := by
  unfold execOpSetl
  apply Kept.next
  with_reducible repeat' first
    | assumption | intro _ | apply Kept.ite | apply BootStore.next_kept | apply State.opSetl_kept

theorem execOpLoop_kept {pq : List Instr} {g : Fin 8} {x : Fin 64} {s : State} (hs : Kept pq s) :
    KeptOut pq (execOpLoop g x s) := by
  unfold execOpLoop
  apply Kept.next
  with_reducible repeat' first
    | assumption | intro _ | apply Kept.ite | apply BootStore.next_kept | apply State.opLoop_kept

theorem execOpSet_kept {pq : List Instr} {g : Fin 8} {x : Fin 64} {s : State} (hs : Kept pq s) :
    KeptOut pq (execOpSet g x s) := by
  unfold execOpSet
  apply Kept.next
  with_reducible repeat' first
    | assumption | intro _ | apply Kept.ite | apply BootStore.next_kept | apply State.opSet_kept

theorem execOpCall_kept {pq : List Instr} {g : Fin 8} {x : Fin 64} {s : State} (hs : Kept pq s) :
    KeptOut pq (execOpCall g x s) := by
  unfold execOpCall
  apply Kept.next
  with_reducible repeat' first
    | assumption | intro _ | apply Kept.ite | apply BootStore.next_kept | apply State.opCall_kept

end Sys2Proof.Machine
end

