-- ==== Sys2Proof/Laws/KeptOperating.lean ====
section
/-! SUPPORT. The operations of Machine/Operating.lean keep the queue of commands and the sound form of the state. -/

namespace Sys2Proof.Machine

/-- Fewer lines wait than before. -/
theorem queue_filter {c : Console} (h : c.wf = true) (f : QLine → Bool) : ConsoleMk c.uart.buf (c.queue.filter f) c.tunnel :=
  ConsoleMk.setQueue h fun p => Nat.le_trans (List.Sublist.countP_le List.filter_sublist) (((Console.wf_iff c).1 h).2.2 p)

theorem State.doRunTest_kept {pq : List Instr} {s : State} {c : LineCtx} {j : Option Nat} (hs : Kept pq s) :
    Kept pq (State.doRunTest s c j) := by
  unfold State.doRunTest
  with_reducible repeat' first
    | assumption | intro _ | apply Kept.ite | apply State.enter_kept | apply State.finishLine_kept | apply State.checked_kept

theorem execRunTest_kept {pq : List Instr} {l : LineCtx} {s : State} (hs : Kept pq s) :
    KeptOut pq (execRunTest l s) := by
  unfold execRunTest
  apply Kept.next
  with_reducible repeat' first
    | assumption | intro _ | apply Kept.ite | apply BootStore.next_kept | apply State.lineRow_kept | apply State.doRunTest_kept

theorem State.runOpRefuse_kept {pq : List Instr} {s : State} {ch : Fin 128} {list : Nat} {o : Outc} (hs : Kept pq s) :
    Kept pq (State.runOpRefuse s ch list o) := by
  unfold State.runOpRefuse
  with_reducible repeat' first
    | assumption | intro _ | apply Kept.ite | apply State.gal_kept

theorem State.runOpOrder_kept {pq : List Instr} {s : State} {ch : Fin 128} {list : Nat} (hs : Kept pq s) :
    Kept pq (State.runOpOrder s ch list) := by
  unfold State.runOpOrder
  try dsimp only
  with_reducible repeat' first
    | assumption | intro _ | apply Kept.ite | apply State.gal_kept | apply State.raise_kept | apply State.order_kept | apply State.runOpRefuse_kept

theorem State.runOpStart_kept {pq : List Instr} {s : State} {c : LineCtx} {j : Option Nat} {ch : Fin 128} {list : Nat} {kind : Nat} {block : Nat} {page : Nat} {buf : Nat} {len : Nat} {force : Bool} (hs : Kept pq s) :
    Kept pq (State.runOpStart s c j ch list kind block page buf len force) := by
  unfold State.runOpStart
  try dsimp only
  with_reducible repeat' first
    | assumption | intro _ | apply Kept.ite | apply State.gal_kept | apply State.run_kept | apply State.newId_kept
    | apply State.newId_kept_of (by assumption) | apply State.countRead_kept | apply State.beginList_kept | apply State.endRun_kept

theorem State.runOpList_kept {pq : List Instr} {s : State} {c : LineCtx} {j : Option Nat} {ch : Fin 128} {list : Nat} {kind : Nat} {block : Nat} {page : Nat} {buf : Nat} {len : Nat} {force : Bool} (hs : Kept pq s) :
    Kept pq (State.runOpList s c j ch list kind block page buf len force) := by
  unfold State.runOpList
  try dsimp only
  with_reducible repeat' first
    | assumption | intro _ | apply Kept.ite | apply State.order_kept | apply State.finishLine_kept | apply State.checked_kept
    | apply State.runOpRefuse_kept | apply State.runOpOrder_kept | apply State.runOpStart_kept

theorem State.doRunOp_kept {pq : List Instr} {s : State} {c : LineCtx} {j : Option Nat} {ch : Fin 128} {list : Nat} {block : Nat} {page : Nat} {buf : Nat} {len : Nat} {force : Bool} (hs : Kept pq s) :
    Kept pq (State.doRunOp s c j ch list block page buf len force) := by
  unfold State.doRunOp
  try dsimp only
  with_reducible repeat' first
    | assumption | intro _ | apply Kept.ite | apply State.checked_kept | apply State.runOpList_kept

theorem execRunOp_kept {pq : List Instr} {l : LineCtx} {c : Fin 128} {list : Nat} {block : Nat} {page : Nat} {buf : Nat} {len : Nat} {force : Bool} {s : State} (hs : Kept pq s) :
    KeptOut pq (execRunOp l c list block page buf len force s) := by
  unfold execRunOp
  apply Kept.next
  with_reducible repeat' first
    | assumption | intro _ | apply Kept.ite | apply BootStore.next_kept | apply State.lineRow_kept | apply State.doRunOp_kept

theorem State.doRunTrain_kept {pq : List Instr} {s : State} {c : LineCtx} {j : Option Nat} {g : Fin 8} (hs : Kept pq s) :
    Kept pq (State.doRunTrain s c j g) := by
  unfold State.doRunTrain
  with_reducible repeat' first
    | assumption | intro _ | apply Kept.ite | apply State.run_kept | apply State.markRetrain_kept | apply State.train_kept | apply State.checked_kept

theorem execRunTrain_kept {pq : List Instr} {l : LineCtx} {g : Fin 8} {s : State} (hs : Kept pq s) :
    KeptOut pq (execRunTrain l g s) := by
  unfold execRunTrain
  apply Kept.next
  with_reducible repeat' first
    | assumption | intro _ | apply Kept.ite | apply BootStore.next_kept | apply State.lineRow_kept | apply State.doRunTrain_kept

theorem State.doRunCheckpoint_kept {pq : List Instr} {s : State} {c : LineCtx} {j : Option Nat} (hs : Kept pq s) :
    Kept pq (State.doRunCheckpoint s c j) := by
  unfold State.doRunCheckpoint
  try dsimp only
  with_reducible repeat' first
    | assumption | intro _ | apply Kept.ite | apply State.run_kept | apply State.checkpoint_kept | apply State.checked_kept | apply hs
    | simp -zeta only [↓kept_mk] | apply KeptMk.same

theorem execRunCheckpoint_kept {pq : List Instr} {l : LineCtx} {s : State} (hs : Kept pq s) :
    KeptOut pq (execRunCheckpoint l s) := by
  unfold execRunCheckpoint
  apply Kept.next
  with_reducible repeat' first
    | assumption | intro _ | apply Kept.ite | apply BootStore.next_kept | apply State.lineRow_kept | apply State.doRunCheckpoint_kept

theorem State.stopWithin_kept {pq : List Instr} {s : State} {sc : LineCtx} (hs : Kept pq s) :
    Kept pq (State.stopWithin s sc).2 := by
  unfold State.stopWithin
  try dsimp only
  with_reducible repeat' first
    | assumption | intro _ | apply Kept.ite | apply State.journalAdd_kept | apply State.journalAdd_kept_of (by assumption) | apply State.reply_kept
    | apply State.finishLine_kept | apply hs | simp -zeta only [↓kept_mk, ↓console_mk, ↓console_mk', ↓boot_mk, ↓keeper_mk] | apply KeptMk.same
    | apply KeptMk.setCon | apply KeptMk.setBst | apply KeptMk.setKpr | apply KeptMk.setRegs | apply KeptMk.setAll | apply ConsoleMk.same
    | apply ConsoleMk.setBuf | apply BootMk.same | apply KeeperMk.same | apply Kept.pending | apply Kept.regs | apply Kept.bst | apply Kept.kpr
    | apply Kept.con | exact Nat.zero_le _ | apply Kept.getD | exact nil_le | apply Kept.foldl_snd | apply Kept.foldl_fst | apply Kept.foldl
    | apply KeptO.none | apply KeptO.some | apply KeptO3.none | apply KeptO3.some | apply Kept.next | split

theorem State.stopWithin_kept_of {pq : List Instr} {s : State} {sc : LineCtx} {r0 : Bool} {r1 : State} (e : (State.stopWithin s sc) = (r0, r1)) (hs : Kept pq s) :
    Kept pq r1 := by
  have := State.stopWithin_kept (pq := pq) (s := s) (sc := sc) hs
  rw [e] at this
  exact this

theorem State.stopMaybe_kept {pq : List Instr} {s : State} {x1 : Option LineCtx} (hs : Kept pq s) :
    Kept pq (State.stopMaybe s x1).2 := by
  unfold State.stopMaybe
  with_reducible repeat' first
    | assumption | intro _ | apply Kept.ite | apply State.stopWithin_kept | apply State.stopWithin_kept_of (by assumption) | apply hs
    | simp -zeta only [↓kept_mk, ↓console_mk, ↓console_mk', ↓boot_mk, ↓keeper_mk] | apply KeptMk.same | apply KeptMk.setCon | apply KeptMk.setBst
    | apply KeptMk.setKpr | apply KeptMk.setRegs | apply KeptMk.setAll | apply ConsoleMk.same | apply ConsoleMk.setBuf | apply BootMk.same
    | apply KeeperMk.same | apply Kept.pending | apply Kept.regs | apply Kept.bst | apply Kept.kpr | apply Kept.con | exact Nat.zero_le _
    | apply Kept.getD | exact nil_le | apply Kept.foldl_snd | apply Kept.foldl_fst | apply Kept.foldl | apply KeptO.none | apply KeptO.some
    | apply KeptO3.none | apply KeptO3.some | apply Kept.next | split

theorem State.stopMaybe_kept_of {pq : List Instr} {s : State} {x1 : Option LineCtx} {r0 : Bool} {r1 : State} (e : (State.stopMaybe s x1) = (r0, r1)) (hs : Kept pq s) :
    Kept pq r1 := by
  have := State.stopMaybe_kept (pq := pq) (s := s) (x1 := x1) hs
  rw [e] at this
  exact this

theorem State.patrolOne_kept {pq : List Instr} {s : State} {table : List (Nat × Bool)} {n : Nat} {raw : Option (List Nat)} (hs : Kept pq s) :
    Kept pq (State.patrolOne s table n raw).2 := by
  unfold State.patrolOne
  try dsimp only
  with_reducible repeat' first
    | assumption | intro _ | apply Kept.ite | apply State.countRead_kept | apply State.patrolRead_kept
    | apply State.patrolRead_kept_of (by assumption) | apply hs | simp -zeta only [↓kept_mk, ↓console_mk, ↓console_mk', ↓boot_mk, ↓keeper_mk]
    | apply KeptMk.same | apply KeptMk.setCon | apply KeptMk.setBst | apply KeptMk.setKpr | apply KeptMk.setRegs | apply KeptMk.setAll
    | apply ConsoleMk.same | apply ConsoleMk.setBuf | apply BootMk.same | apply KeeperMk.same | apply Kept.pending | apply Kept.regs | apply Kept.bst
    | apply Kept.kpr | apply Kept.con | exact Nat.zero_le _ | apply Kept.getD | exact nil_le | apply Kept.foldl_snd | apply Kept.foldl_fst
    | apply Kept.foldl | apply KeptO.none | apply KeptO.some | apply KeptO3.none | apply KeptO3.some | apply Kept.next | split

theorem State.patrolOne_kept_of {pq : List Instr} {s : State} {table : List (Nat × Bool)} {n : Nat} {raw : Option (List Nat)} {r0 : Bool} {r1 : State} (e : (State.patrolOne s table n raw) = (r0, r1)) (hs : Kept pq s) :
    Kept pq r1 := by
  have := State.patrolOne_kept (pq := pq) (s := s) (table := table) (n := n) (raw := raw) hs
  rw [e] at this
  exact this

theorem State.patrolBlocks_kept {pq : List Instr} {s : State} {table : List (Nat × Bool)} {x1 : List (Nat × Option (List Nat))} (hs : Kept pq s) :
    Kept pq (State.patrolBlocks s table x1).2 := by
  induction x1 generalizing s with
  | nil => unfold State.patrolBlocks; exact hs
  | cons x r ih =>
    unfold State.patrolBlocks
    with_reducible exact ih (State.patrolOne_kept hs)

theorem State.patrolBlocks_kept_of {pq : List Instr} {s : State} {table : List (Nat × Bool)} {x1 : List (Nat × Option (List Nat))} {r0 : Nat} {r1 : State} (e : (State.patrolBlocks s table x1) = (r0, r1)) (hs : Kept pq s) :
    Kept pq r1 := by
  have := State.patrolBlocks_kept (pq := pq) (s := s) (table := table) (x1 := x1) hs
  rw [e] at this
  exact this

theorem State.doRunPatrol_kept {pq : List Instr} {s : State} {c : LineCtx} {j : Option Nat} {raws : List (Option (List Nat))} {stop : Option LineCtx} (hs : Kept pq s) :
    Kept pq (State.doRunPatrol s c j raws stop) := by
  unfold State.doRunPatrol
  try dsimp only
  with_reducible repeat' first
    | assumption | intro _ | apply Kept.ite | apply State.finishLine_kept | apply State.patrolMove_kept | apply State.checked_kept
    | apply State.stopMaybe_kept | apply State.stopMaybe_kept_of (by assumption) | apply State.patrolBlocks_kept
    | apply State.patrolBlocks_kept_of (by assumption) | apply hs | simp -zeta only [↓kept_mk] | apply KeptMk.same

theorem execRunPatrol_kept {pq : List Instr} {l : LineCtx} {r : PatrolRun} {s : State} (hs : Kept pq s) :
    KeptOut pq (execRunPatrol l r s) := by
  unfold execRunPatrol
  apply Kept.next
  with_reducible repeat' first
    | assumption | intro _ | apply Kept.ite | apply BootStore.next_kept | apply State.lineRow_kept | apply State.doRunPatrol_kept

theorem State.stopRow_kept {pq : List Instr} {s : State} {c : LineCtx} {i : Instr} {text : List Byte} {act : Option Nat → State → State} (hs : Kept pq s) (hact : ∀ (y0 : Option Nat) (y1 : State), Kept pq y1 → Kept pq (act y0 y1)) :
    Kept pq (State.stopRow s c i text act) := by
  unfold State.stopRow
  with_reducible repeat' first
    | assumption | intro _ | apply Kept.ite | apply State.finishLine_kept | apply State.execLine_kept | apply hs | apply hact

theorem State.doStop_kept {pq : List Instr} {s : State} {c : LineCtx} {j : Option Nat} (hs : Kept pq s) :
    Kept pq (State.doStop s c j) := by
  unfold State.doStop
  try dsimp only
  with_reducible repeat' first
    | assumption | intro _ | apply Kept.ite | apply State.finishLine_kept | apply State.dmaStop_kept | apply hs
    | simp -zeta only [↓kept_mk, ↓console_mk, ↓console_mk', ↓boot_mk, ↓keeper_mk] | apply KeptMk.same | apply KeptMk.setCon | apply KeptMk.setBst
    | apply KeptMk.setKpr | apply KeptMk.setRegs | apply KeptMk.setAll | apply ConsoleMk.same | apply ConsoleMk.setBuf | apply BootMk.same
    | apply KeeperMk.same | apply Kept.pending | apply Kept.regs | apply Kept.bst | apply Kept.kpr | apply Kept.con | exact Nat.zero_le _
    | apply Kept.getD | exact nil_le | apply Kept.foldl_snd | apply Kept.foldl_fst | apply Kept.foldl | apply KeptO.none | apply KeptO.some
    | apply KeptO3.none | apply KeptO3.some | apply Kept.next | split

theorem execStop_kept {pq : List Instr} {l : LineCtx} {s : State} (hs : Kept pq s) :
    KeptOut pq (execStop l s) := by
  unfold execStop
  apply Kept.next
  with_reducible repeat' first
    | assumption | intro _ | apply Kept.ite | apply BootStore.next_kept | apply State.stopRow_kept | apply State.doStop_kept

theorem State.leaveTest_kept {pq : List Instr} {s : State} (hs : Kept pq s) :
    Kept pq (State.leaveTest s) := by
  unfold State.leaveTest
  try dsimp only
  with_reducible repeat' first
    | assumption | intro _ | apply Kept.ite | apply State.setNow_kept | apply hs | simp -zeta only [↓kept_mk, ↓console_mk'] | apply KeptMk.same
    | apply KeptMk.setCon | apply KeptMk.setBst | apply KeptMk.setKpr | apply KeptMk.setRegs | apply KeptMk.setAll | apply ConsoleMk.same
    | apply ConsoleMk.setBuf | apply BootMk.same | apply KeeperMk.same | apply Kept.pending | apply Kept.regs | apply Kept.bst | apply Kept.kpr
    | apply Kept.con | exact Nat.zero_le _ | apply Kept.getD | exact nil_le | apply Kept.foldl_snd | apply Kept.foldl_fst | apply Kept.foldl

theorem State.doStopTest_kept {pq : List Instr} {s : State} {c : LineCtx} {j : Option Nat} (hs : Kept pq s) :
    Kept pq (State.doStopTest s c j) := by
  unfold State.doStopTest
  try dsimp only
  with_reducible repeat' first
    | assumption | intro _ | apply Kept.ite | apply State.checked_kept | apply State.leaveTest_kept | apply hs
    | simp -zeta only [↓kept_mk, ↓console_mk'] | apply KeptMk.same | apply KeptMk.setCon | apply KeptMk.setBst | apply KeptMk.setKpr
    | apply KeptMk.setRegs | apply KeptMk.setAll | apply ConsoleMk.same | apply ConsoleMk.setBuf | apply BootMk.same | apply KeeperMk.same
    | apply Kept.pending | apply Kept.regs | apply Kept.bst | apply Kept.kpr | apply Kept.con

theorem execStopTest_kept {pq : List Instr} {l : LineCtx} {s : State} (hs : Kept pq s) :
    KeptOut pq (execStopTest l s) := by
  unfold execStopTest
  apply Kept.next
  with_reducible repeat' first
    | assumption | intro _ | apply Kept.ite | apply BootStore.next_kept | apply State.stopRow_kept | apply State.doStopTest_kept

theorem State.doStopDma_kept {pq : List Instr} {s : State} {c : LineCtx} {j : Option Nat} {n : Fin 8} (hs : Kept pq s) :
    Kept pq (State.doStopDma s c j n) := by
  unfold State.doStopDma
  with_reducible repeat' first
    | assumption | intro _ | apply Kept.ite | apply State.finishLine_kept | apply State.dmaStop_kept

theorem execStopDma_kept {pq : List Instr} {l : LineCtx} {n : Fin 8} {s : State} (hs : Kept pq s) :
    KeptOut pq (execStopDma l n s) := by
  unfold execStopDma
  apply Kept.next
  with_reducible repeat' first
    | assumption | intro _ | apply Kept.ite | apply BootStore.next_kept | apply State.stopRow_kept | apply State.doStopDma_kept

theorem State.doUnitReset_kept {pq : List Instr} {s : State} {c : LineCtx} {j : Option Nat} {u : UnitName} (hs : Kept pq s) :
    Kept pq (State.doUnitReset s c j u) := by
  unfold State.doUnitReset
  try dsimp only
  with_reducible repeat' first
    | assumption | intro _ | apply Kept.ite | apply State.finishLine_kept | apply State.run_kept | apply Console.reset_kept
    | apply State.requestUnit_kept | apply State.requestUnit_kept_of (by assumption) | apply hs
    | simp -zeta only [↓kept_mk, ↓console_mk, ↓console_mk', ↓boot_mk, ↓keeper_mk] | apply KeptMk.same | apply KeptMk.setCon | apply KeptMk.setBst
    | apply KeptMk.setKpr | apply KeptMk.setRegs | apply KeptMk.setAll | apply ConsoleMk.same | apply ConsoleMk.setBuf | apply BootMk.same
    | apply KeeperMk.same | apply Kept.pending | apply Kept.regs | apply Kept.bst | apply Kept.kpr | apply Kept.con | exact Nat.zero_le _
    | apply Kept.getD | exact nil_le | apply Kept.foldl_snd | apply Kept.foldl_fst | apply Kept.foldl | apply KeptO.none | apply KeptO.some
    | apply KeptO3.none | apply KeptO3.some | apply Kept.next | split

theorem State.doReset_kept {pq : List Instr} {s : State} {c : LineCtx} {j : Option Nat} {level : Option Nat} {unit : Option UnitName} (hs : Kept pq s) :
    Kept pq (State.doReset s c j level unit) := by
  unfold State.doReset
  try dsimp only
  with_reducible repeat' first
    | assumption | refine queue_filter ?_ _ | intro _ | apply Kept.ite | apply State.finishLine_kept | apply State.requestReset_kept
    | apply State.ctx_kept | apply State.doUnitReset_kept | apply State.uart_kept | apply hs | simp -zeta only [↓kept_mk, ↓console_mk']
    | apply KeptMk.same | apply KeptMk.setCon | apply KeptMk.setBst | apply KeptMk.setKpr | apply KeptMk.setRegs | apply KeptMk.setAll
    | apply ConsoleMk.same | apply ConsoleMk.setBuf | apply BootMk.same | apply KeeperMk.same | apply Kept.pending | apply Kept.regs | apply Kept.bst
    | apply Kept.kpr | apply Kept.con | exact Nat.zero_le _ | apply Kept.getD | exact nil_le | apply Kept.foldl_snd | apply Kept.foldl_fst
    | apply Kept.foldl | apply KeptO.none | apply KeptO.some | apply KeptO3.none | apply KeptO3.some | apply Kept.next | split

theorem execConsoleReset_kept {pq : List Instr} {l : LineCtx} {level : Option Nat} {unit : Option UnitName} {s : State} (hs : Kept pq s) :
    KeptOut pq (execConsoleReset l level unit s) := by
  unfold execConsoleReset
  apply Kept.next
  with_reducible repeat' first
    | assumption | intro _ | apply Kept.ite | apply BootStore.next_kept | apply State.lineRow_kept | apply State.doReset_kept

theorem State.doSleep_kept {pq : List Instr} {s : State} {c : LineCtx} {j : Option Nat} {ps : Option Nat} (hs : Kept pq s) :
    Kept pq (State.doSleep s c j ps) := by
  unfold State.doSleep
  try dsimp only
  with_reducible repeat' first
    | assumption | intro _ | apply Kept.ite | apply State.run_kept | apply State.host_kept | apply State.wantPs_kept | apply State.checked_kept

theorem execSleep_kept {pq : List Instr} {l : LineCtx} {ps : Option Nat} {s : State} (hs : Kept pq s) :
    KeptOut pq (execSleep l ps s) := by
  unfold execSleep
  apply Kept.next
  with_reducible repeat' first
    | assumption | intro _ | apply Kept.ite | apply BootStore.next_kept | apply State.lineRow_kept | apply State.doSleep_kept

theorem State.doLock_kept {pq : List Instr} {s : State} {c : LineCtx} {j : Option Nat} {pw : Option (List Byte)} (hs : Kept pq s) :
    Kept pq (State.doLock s c j pw) := by
  unfold State.doLock
  try dsimp only
  with_reducible repeat' first
    | assumption | intro _ | apply Kept.ite | apply State.finishLine_kept | apply State.run_kept | apply State.lockTry_kept | apply State.checked_kept
    | apply hs | simp -zeta only [↓kept_mk] | apply KeptMk.same

theorem execLockData_kept {pq : List Instr} {l : LineCtx} {pw : Option (List Byte)} {s : State} (hs : Kept pq s) :
    KeptOut pq (execLockData l pw s) := by
  unfold execLockData
  apply Kept.next
  with_reducible repeat' first
    | assumption | intro _ | apply Kept.ite | apply BootStore.next_kept | apply State.lineRow_kept | apply State.doLock_kept

theorem State.doUnlock_kept {pq : List Instr} {s : State} {c : LineCtx} {j : Option Nat} {pw : List Byte} (hs : Kept pq s) :
    Kept pq (State.doUnlock s c j pw) := by
  unfold State.doUnlock
  with_reducible repeat' first
    | assumption | intro _ | apply Kept.ite | apply State.finishLine_kept | apply State.run_kept | apply State.beginCheck_kept
    | apply State.checked_kept

theorem execUnlockData_kept {pq : List Instr} {l : LineCtx} {pw : List Byte} {s : State} (hs : Kept pq s) :
    KeptOut pq (execUnlockData l pw s) := by
  unfold execUnlockData
  apply Kept.next
  with_reducible repeat' first
    | assumption | intro _ | apply Kept.ite | apply BootStore.next_kept | apply State.lineRow_kept | apply State.doUnlock_kept

end Sys2Proof.Machine
end

