-- ==== Sys2Proof/Laws/KeptReaching.lean ====
section
/-! SUPPORT. The operations of Machine/Reaching.lean keep the queue of commands and the sound form of the state. -/

namespace Sys2Proof.Machine

theorem State.rdUnits_kept {pq : List Instr} {s : State} {w : Nat} {x1 : Nat} {x2 : Nat} (hs : Kept pq s) :
    Kept pq (State.rdUnits s w x1 x2).2.2 := by
  induction x1 generalizing s x2 with
  | zero => unfold State.rdUnits; exact hs
  | succ n ih =>
    unfold State.rdUnits
    dsimp only
    split
    · exact ih (State.busRead_kept hs)
    · exact State.busRead_kept hs

theorem State.rdUnits_kept_of {pq : List Instr} {s : State} {w : Nat} {x1 : Nat} {x2 : Nat} {r0 : List Nat} {r1 : Option (Acc × Nat)} {r2 : State} (e : (State.rdUnits s w x1 x2) = (r0, r1, r2)) (hs : Kept pq s) :
    Kept pq r2 := by
  have := State.rdUnits_kept (pq := pq) (s := s) (w := w) (x1 := x1) (x2 := x2) hs
  rw [e] at this
  exact this

theorem State.doRd_kept {pq : List Instr} {s : State} {c : LineCtx} {j : Option Nat} {a : Nat} {n : Nat} {w : Nat} (hs : Kept pq s) :
    Kept pq (State.doRd s c j a n w) := by
  unfold State.doRd
  try dsimp only
  with_reducible repeat' first
    | assumption | intro _ | apply Kept.ite | apply State.finishLine_kept | apply State.checked_kept | apply State.rdUnits_kept

theorem execRd_kept {pq : List Instr} {l : LineCtx} {addr : Nat} {n : Nat} {w : Nat} {s : State} (hs : Kept pq s) :
    KeptOut pq (execRd l addr n w s) := by
  unfold execRd
  apply Kept.next
  with_reducible repeat' first
    | assumption | intro _ | apply Kept.ite | apply BootStore.next_kept | apply State.lineRow_kept | apply State.doRd_kept

theorem State.wrUnits_kept {pq : List Instr} {s : State} {w : Nat} {x1 : Nat} {x2 : List Nat} (hs : Kept pq s) :
    Kept pq (State.wrUnits s w x1 x2).2.2 := by
  induction x2 generalizing s x1 with
  | nil => unfold State.wrUnits; exact hs
  | cons v r ih =>
    unfold State.wrUnits
    dsimp only
    split
    · exact ih (State.busWrite_kept hs)
    · exact State.busWrite_kept hs

theorem State.wrUnits_kept_of {pq : List Instr} {s : State} {w : Nat} {x1 : Nat} {x2 : List Nat} {r0 : Nat} {r1 : Option (Acc × Nat)} {r2 : State} (e : (State.wrUnits s w x1 x2) = (r0, r1, r2)) (hs : Kept pq s) :
    Kept pq r2 := by
  have := State.wrUnits_kept (pq := pq) (s := s) (w := w) (x1 := x1) (x2 := x2) hs
  rw [e] at this
  exact this

theorem State.readBack_kept {pq : List Instr} {s : State} {a : Nat} {w : Nat} {n : Nat} (hs : Kept pq s) :
    Kept pq (State.readBack s a w n).2 := by
  unfold State.readBack
  try dsimp only
  with_reducible repeat' first
    | assumption | intro _ | apply Kept.ite | apply State.done_kept | apply State.busRead_kept | apply State.busRead_kept_of (by assumption)
    | apply hs | simp -zeta only [↓kept_mk, ↓console_mk, ↓console_mk', ↓boot_mk, ↓keeper_mk] | apply KeptMk.same | apply KeptMk.setCon
    | apply KeptMk.setBst | apply KeptMk.setKpr | apply KeptMk.setRegs | apply KeptMk.setAll | apply ConsoleMk.same | apply ConsoleMk.setBuf
    | apply BootMk.same | apply KeeperMk.same | apply Kept.pending | apply Kept.regs | apply Kept.bst | apply Kept.kpr | apply Kept.con
    | exact Nat.zero_le _ | apply Kept.getD | exact nil_le | apply Kept.foldl_snd | apply Kept.foldl_fst | apply Kept.foldl | apply KeptO.none
    | apply KeptO.some | apply KeptO3.none | apply KeptO3.some | apply Kept.next | split

theorem State.readBack_kept_of {pq : List Instr} {s : State} {a : Nat} {w : Nat} {n : Nat} {r0 : Option (Acc × Nat)} {r1 : State} (e : (State.readBack s a w n) = (r0, r1)) (hs : Kept pq s) :
    Kept pq r1 := by
  have := State.readBack_kept (pq := pq) (s := s) (a := a) (w := w) (n := n) hs
  rw [e] at this
  exact this

theorem State.doWr_kept {pq : List Instr} {s : State} {c : LineCtx} {j : Option Nat} {a : Nat} {w : Nat} {ds : List Nat} (hs : Kept pq s) :
    Kept pq (State.doWr s c j a w ds) := by
  unfold State.doWr
  try dsimp only
  with_reducible repeat' first
    | assumption | intro _ | apply Kept.ite | apply State.finishLine_kept | apply State.done_kept | apply State.dmaKick_kept
    | apply State.checked_kept | apply State.wrUnits_kept | apply State.wrUnits_kept_of (by assumption) | apply State.readBack_kept
    | apply State.readBack_kept_of (by assumption) | apply hs | simp -zeta only [↓kept_mk, ↓console_mk, ↓console_mk', ↓boot_mk, ↓keeper_mk]
    | apply KeptMk.same | apply KeptMk.setCon | apply KeptMk.setBst | apply KeptMk.setKpr | apply KeptMk.setRegs | apply KeptMk.setAll
    | apply ConsoleMk.same | apply ConsoleMk.setBuf | apply BootMk.same | apply KeeperMk.same | apply Kept.pending | apply Kept.regs | apply Kept.bst
    | apply Kept.kpr | apply Kept.con | exact Nat.zero_le _ | apply Kept.getD | exact nil_le | apply Kept.foldl_snd | apply Kept.foldl_fst
    | apply Kept.foldl | apply KeptO.none | apply KeptO.some | apply KeptO3.none | apply KeptO3.some | apply Kept.next | split

theorem execWr_kept {pq : List Instr} {l : LineCtx} {addr : Nat} {w : Nat} {ds : List Nat} {s : State} (hs : Kept pq s) :
    KeptOut pq (execWr l addr w ds s) := by
  unfold execWr
  apply Kept.next
  with_reducible repeat' first
    | assumption | intro _ | apply Kept.ite | apply BootStore.next_kept | apply State.lineRow_kept | apply State.doWr_kept

theorem State.runConsole_kept {pq : List Instr} {s : State} {c : LineCtx} {j : Option Nat} {fill : Bool} {pri : Nat} {ws : List Nat} (hs : Kept pq s) :
    Kept pq (State.runConsole s c j fill pri ws) := by
  unfold State.runConsole
  try dsimp only
  with_reducible repeat' first
    | assumption | intro _ | apply Kept.ite | apply State.setRf_kept | apply State.run_kept | apply State.dmaStart_kept | apply State.loadDesc_kept
    | apply State.dmaKick_kept

theorem State.doMove_kept {pq : List Instr} {s : State} {c : LineCtx} {j : Option Nat} {src : Nat} {dst : Nat} {len : Nat} {lines : Nat} {ss : Option Int} {ds : Option Int} {ovl : Bool} {pri : Option Nat} (hs : Kept pq s) :
    Kept pq (State.doMove s c j src dst len lines ss ds ovl pri) := by
  unfold State.doMove
  try dsimp only
  with_reducible repeat' first
    | assumption | intro _ | apply Kept.ite | apply State.finishLine_kept | apply State.done_kept | apply State.checked_kept
    | apply State.runConsole_kept

theorem execMove_kept {pq : List Instr} {l : LineCtx} {src : Nat} {dst : Nat} {len : Nat} {lines : Nat} {sstride : Option Int} {dstride : Option Int} {ovl : Bool} {pri : Option Nat} {s : State} (hs : Kept pq s) :
    KeptOut pq (execMove l src dst len lines sstride dstride ovl pri s) := by
  unfold execMove
  apply Kept.next
  with_reducible repeat' first
    | assumption | intro _ | apply Kept.ite | apply BootStore.next_kept | apply State.lineRow_kept | apply State.doMove_kept

theorem State.doFill_kept {pq : List Instr} {s : State} {c : LineCtx} {j : Option Nat} {dst : Nat} {len : Nat} {pattern : BitVec 64} {pri : Option Nat} (hs : Kept pq s) :
    Kept pq (State.doFill s c j dst len pattern pri) := by
  unfold State.doFill
  with_reducible repeat' first
    | assumption | intro _ | apply Kept.ite | apply State.finishLine_kept | apply State.done_kept | apply State.checked_kept
    | apply State.runConsole_kept

theorem execFill_kept {pq : List Instr} {l : LineCtx} {dst : Nat} {len : Nat} {pattern : BitVec 64} {pri : Option Nat} {s : State} (hs : Kept pq s) :
    KeptOut pq (execFill l dst len pattern pri s) := by
  unfold execFill
  apply Kept.next
  with_reducible repeat' first
    | assumption | intro _ | apply Kept.ite | apply BootStore.next_kept | apply State.lineRow_kept | apply State.doFill_kept

theorem State.doAssayOffsets_kept {pq : List Instr} {s : State} {c : LineCtx} {j : Option Nat} {ch : Fin 128} {block : Nat} (hs : Kept pq s) :
    Kept pq (State.doAssayOffsets s c j ch block) := by
  unfold State.doAssayOffsets
  try dsimp only
  with_reducible repeat' first
    | assumption | intro _ | apply Kept.ite | apply State.finishLine_kept | apply State.checked_kept

theorem execAssayOffsets_kept {pq : List Instr} {l : LineCtx} {c : Fin 128} {block : Nat} {s : State} (hs : Kept pq s) :
    KeptOut pq (execAssayOffsets l c block s) := by
  unfold execAssayOffsets
  apply Kept.next
  with_reducible repeat' first
    | assumption | intro _ | apply Kept.ite | apply BootStore.next_kept | apply State.lineRow_kept | apply State.doAssayOffsets_kept

theorem State.doAssaySensors_kept {pq : List Instr} {s : State} {c : LineCtx} {j : Option Nat} (hs : Kept pq s) :
    Kept pq (State.doAssaySensors s c j) := by
  unfold State.doAssaySensors
  with_reducible repeat' first
    | assumption | intro _ | apply Kept.ite | apply State.finishLine_kept | apply State.checked_kept

theorem execAssaySensors_kept {pq : List Instr} {l : LineCtx} {s : State} (hs : Kept pq s) :
    KeptOut pq (execAssaySensors l s) := by
  unfold execAssaySensors
  apply Kept.next
  with_reducible repeat' first
    | assumption | intro _ | apply Kept.ite | apply BootStore.next_kept | apply State.lineRow_kept | apply State.doAssaySensors_kept

theorem State.doAssaySentinel_kept {pq : List Instr} {s : State} {c : LineCtx} {j : Option Nat} {ch : Fin 128} {block : Nat} {raw : Option (List Nat)} (hs : Kept pq s) :
    Kept pq (State.doAssaySentinel s c j ch block raw) := by
  unfold State.doAssaySentinel
  try dsimp only
  with_reducible repeat' first
    | assumption | intro _ | apply Kept.ite | apply State.finishLine_kept | apply State.countRead_kept | apply State.sentinelRead_kept
    | apply State.sentinelRead_kept_of (by assumption) | apply State.checked_kept | apply hs
    | simp -zeta only [↓kept_mk, ↓console_mk, ↓console_mk', ↓boot_mk, ↓keeper_mk] | apply KeptMk.same | apply KeptMk.setCon | apply KeptMk.setBst
    | apply KeptMk.setKpr | apply KeptMk.setRegs | apply KeptMk.setAll | apply ConsoleMk.same | apply ConsoleMk.setBuf | apply BootMk.same
    | apply KeeperMk.same | apply Kept.pending | apply Kept.regs | apply Kept.bst | apply Kept.kpr | apply Kept.con | exact Nat.zero_le _
    | apply Kept.getD | exact nil_le | apply Kept.foldl_snd | apply Kept.foldl_fst | apply Kept.foldl | apply KeptO.none | apply KeptO.some
    | apply KeptO3.none | apply KeptO3.some | apply Kept.next | split

theorem execAssaySentinel_kept {pq : List Instr} {l : LineCtx} {c : Fin 128} {block : Nat} {raw : Option (List Nat)} {s : State} (hs : Kept pq s) :
    KeptOut pq (execAssaySentinel l c block raw s) := by
  unfold execAssaySentinel
  apply Kept.next
  with_reducible repeat' first
    | assumption | intro _ | apply Kept.ite | apply BootStore.next_kept | apply State.lineRow_kept | apply State.doAssaySentinel_kept

theorem State.doAssaySearch_kept {pq : List Instr} {s : State} {c : LineCtx} {j : Option Nat} {ch : Fin 128} {block : Nat} {trials : TrialRun} {refs : List RefRead} {stop : Option LineCtx} (hs : Kept pq s) :
    Kept pq (State.doAssaySearch s c j ch block trials refs stop) := by
  unfold State.doAssaySearch
  try dsimp only
  with_reducible repeat' first
    | assumption | intro _ | apply Kept.ite | apply State.finishLine_kept | apply State.good_kept | apply State.search_kept
    | apply State.search_kept_of (by assumption) | apply State.checked_kept | apply State.stopMaybe_kept

theorem execAssaySearch_kept {pq : List Instr} {l : LineCtx} {c : Fin 128} {block : Nat} {r : SearchRun} {s : State} (hs : Kept pq s) :
    KeptOut pq (execAssaySearch l c block r s) := by
  unfold execAssaySearch
  apply Kept.next
  with_reducible repeat' first
    | assumption | intro _ | apply Kept.ite | apply BootStore.next_kept | apply State.lineRow_kept | apply State.doAssaySearch_kept

theorem State.doAssayReset_kept {pq : List Instr} {s : State} {c : LineCtx} {j : Option Nat} {ch : Fin 128} (hs : Kept pq s) :
    Kept pq (State.doAssayReset s c j ch) := by
  unfold State.doAssayReset
  try dsimp only
  with_reducible repeat' first
    | assumption | intro _ | apply Kept.ite | apply State.finishLine_kept | apply State.checked_kept | apply hs | simp -zeta only [↓kept_mk]
    | apply KeptMk.same

theorem execAssayReset_kept {pq : List Instr} {l : LineCtx} {c : Fin 128} {s : State} (hs : Kept pq s) :
    KeptOut pq (execAssayReset l c s) := by
  unfold execAssayReset
  apply Kept.next
  with_reducible repeat' first
    | assumption | intro _ | apply Kept.ite | apply BootStore.next_kept | apply State.lineRow_kept | apply State.doAssayReset_kept

theorem State.doUpdatePiece_kept {pq : List Instr} {s : State} {c : LineCtx} {j : Option Nat} {twin : Twin} {src : Nat} {off : Nat} {len : Nat} (hs : Kept pq s) :
    Kept pq (State.doUpdatePiece s c j twin src off len) := by
  unfold State.doUpdatePiece
  try dsimp only
  with_reducible repeat' first
    | assumption | intro _ | apply Kept.ite | apply State.finishLine_kept | apply State.stagePiece_kept
    | apply State.stagePiece_kept_of (by assumption) | apply State.checked_kept | apply State.readSpan_kept
    | apply State.readSpan_kept_of (by assumption) | apply hs | simp -zeta only [↓kept_mk, ↓console_mk, ↓console_mk', ↓boot_mk, ↓keeper_mk]
    | apply KeptMk.same | apply KeptMk.setCon | apply KeptMk.setBst | apply KeptMk.setKpr | apply KeptMk.setRegs | apply KeptMk.setAll
    | apply ConsoleMk.same | apply ConsoleMk.setBuf | apply BootMk.same | apply KeeperMk.same | apply Kept.pending | apply Kept.regs | apply Kept.bst
    | apply Kept.kpr | apply Kept.con | exact Nat.zero_le _ | apply Kept.getD | exact nil_le | apply Kept.foldl_snd | apply Kept.foldl_fst
    | apply Kept.foldl | apply KeptO.none | apply KeptO.some | apply KeptO3.none | apply KeptO3.some | apply Kept.next | split

theorem execUpdatePiece_kept {pq : List Instr} {l : LineCtx} {twin : Twin} {src : Nat} {off : Nat} {len : Nat} {s : State} (hs : Kept pq s) :
    KeptOut pq (execUpdatePiece l twin src off len s) := by
  unfold execUpdatePiece
  apply Kept.next
  with_reducible repeat' first
    | assumption | intro _ | apply Kept.ite | apply BootStore.next_kept | apply State.lineRow_kept | apply State.doUpdatePiece_kept

theorem State.doUpdateCommit_kept {pq : List Instr} {s : State} {c : LineCtx} {j : Option Nat} {twin : Twin} {now : Bool} {sigOk : Bool} (hs : Kept pq s) :
    Kept pq (State.doUpdateCommit s c j twin now sigOk) := by
  unfold State.doUpdateCommit
  try dsimp only
  with_reducible repeat' first
    | assumption | intro _ | apply Kept.ite | apply State.swapPend_kept | apply State.finishLine_kept | apply State.requestReset_kept
    | apply State.checked_kept

theorem execUpdateCommit_kept {pq : List Instr} {l : LineCtx} {twin : Twin} {now : Bool} {sigOk : Bool} {s : State} (hs : Kept pq s) :
    KeptOut pq (execUpdateCommit l twin now sigOk s) := by
  unfold execUpdateCommit
  apply Kept.next
  with_reducible repeat' first
    | assumption | intro _ | apply Kept.ite | apply BootStore.next_kept | apply State.lineRow_kept | apply State.doUpdateCommit_kept

theorem State.doUpdateStatus_kept {pq : List Instr} {s : State} {c : LineCtx} {j : Option Nat} (hs : Kept pq s) :
    Kept pq (State.doUpdateStatus s c j) := by
  unfold State.doUpdateStatus
  try dsimp only
  with_reducible repeat' first
    | assumption | intro _ | apply Kept.ite | apply BootStore.committed_kept | apply State.committed_kept | apply State.finishLine_kept

theorem execUpdateStatus_kept {pq : List Instr} {l : LineCtx} {s : State} (hs : Kept pq s) :
    KeptOut pq (execUpdateStatus l s) := by
  unfold execUpdateStatus
  apply Kept.next
  with_reducible repeat' first
    | assumption | intro _ | apply Kept.ite | apply BootStore.next_kept | apply State.lineRow_kept | apply State.doUpdateStatus_kept

end Sys2Proof.Machine
end

