-- ==== Sys2Proof/Laws/KeptParse.lean ====
section
/-! SUPPORT. The operations of Machine/Parse.lean keep the queue of commands and the sound form of the state. -/

namespace Sys2Proof.Machine

theorem lineAct_kept {pq : List Instr} {i : Instr} {c : LineCtx} {j : Option Nat} {s : State} (hs : Kept pq s) :
    Kept pq (lineAct i c j s) := by
  unfold lineAct
  try dsimp only
  with_reducible repeat' first
    | assumption | intro _ | apply Kept.ite | apply State.saveSettings_kept | apply State.saveSettings_kept_of (by assumption)
    | apply State.clearCause_kept | apply State.clearTrouble_kept | apply State.doShow_kept | apply State.doGet_kept | apply State.doLogJournal_kept
    | apply State.doLogTrouble_kept | apply State.doLogAlarm_kept | apply State.doLogTemp_kept | apply State.doHelp_kept | apply State.doSet_kept
    | apply State.doClearTrouble_kept | apply State.doClearCause_kept | apply State.doClearSuspect_kept | apply State.doSaveSettings_kept
    | apply State.saveProfile_kept | apply State.saveProfile_kept_of (by assumption) | apply State.doSaveProfile_kept
    | apply State.doLoadSettings_kept | apply State.doLoadProfile_kept | apply State.doRunTest_kept | apply State.doRunOp_kept
    | apply State.doRunTrain_kept | apply State.doRunCheckpoint_kept | apply State.doRunPatrol_kept | apply State.doStop_kept
    | apply State.doStopTest_kept | apply State.doStopDma_kept | apply State.doReset_kept | apply State.doSleep_kept | apply State.doLock_kept
    | apply State.doUnlock_kept | apply State.doRd_kept | apply State.doWr_kept | apply State.doMove_kept | apply State.doFill_kept
    | apply State.doAssayOffsets_kept | apply State.doAssaySensors_kept | apply State.doAssaySentinel_kept | apply State.doAssaySearch_kept
    | apply State.doAssayReset_kept | apply State.doUpdatePiece_kept | apply State.doUpdateCommit_kept | apply State.doUpdateStatus_kept | apply hs
    | simp -zeta only [↓kept_mk, ↓console_mk, ↓console_mk', ↓boot_mk, ↓keeper_mk] | apply KeptMk.same | apply KeptMk.setCon | apply KeptMk.setBst
    | apply KeptMk.setKpr | apply KeptMk.setRegs | apply KeptMk.setAll | apply ConsoleMk.same | apply ConsoleMk.setBuf | apply BootMk.same
    | apply KeeperMk.same | apply Kept.pending | apply Kept.regs | apply Kept.bst | apply Kept.kpr | apply Kept.con | exact Nat.zero_le _
    | apply Kept.getD | exact nil_le | apply Kept.foldl_snd | apply Kept.foldl_fst | apply Kept.foldl | apply KeptO.none | apply KeptO.some
    | apply KeptO3.none | apply KeptO3.some | apply Kept.next | split

end Sys2Proof.Machine
end

