-- ==== Sys2Proof/Laws/KeptConsole.lean ====
section
/-! SUPPORT. The operations of Machine/Console.lean keep the queue of commands and the sound form of the state. -/

namespace Sys2Proof.Machine

/-- The line being assembled fits. -/
theorem uart_le {c : Console} (h : c.wf = true) : c.uart.buf.length ≤ 250 := ((Console.wf_iff c).1 h).1

/-- What is left of the tunnel's lines once some have been read: the mark of lost lines, if there was one, went first. -/
theorem tunnel_rest {m t : List (List Byte)} {n : Nat} (h : (t.map List.length).sum ≤ 16384) (hm : m.length ≤ n) :
    (((m ++ t).drop n).map List.length).sum ≤ 16384 := by
  rw [List.drop_append, List.drop_eq_nil_of_le hm, List.nil_append]
  refine Nat.le_trans ?_ h
  exact ((List.drop_sublist _ t).map List.length).sum_le_sum fun _ _ => Nat.zero_le _

theorem State.route_kept {pq : List Instr} {s : State} {c : LineCtx} {d : Fin 4} {text : List Byte} (hs : Kept pq s) :
    Kept pq (State.route s c d text) := by
  unfold State.route
  try dsimp only
  with_reducible repeat' first
    | assumption | intro _ | apply Kept.ite | apply State.tethSend_kept | apply State.reply_kept | apply hs | simp -zeta only [↓kept_mk, ↓console_mk']
    | apply KeptMk.same | apply KeptMk.setCon | apply KeptMk.setBst | apply KeptMk.setKpr | apply KeptMk.setRegs | apply KeptMk.setAll
    | apply ConsoleMk.same | apply ConsoleMk.setBuf | apply BootMk.same | apply KeeperMk.same | apply Kept.pending | apply Kept.regs | apply Kept.bst
    | apply Kept.kpr | apply Kept.con

theorem State.execVerb_kept {pq : List Instr} {s : State} {c : LineCtx} {text : List Byte} {v : Verb} {ws : List (List Byte)} (hs : Kept pq s) :
    Kept pq (State.execVerb s c text v ws) := by
  unfold State.execVerb
  try dsimp only
  with_reducible repeat' first
    | assumption | intro _ | apply Kept.ite | apply State.finishLine_kept | apply State.execLine_kept | apply lineAct_kept | apply State.uart_kept
    | apply hs | simp -zeta only [↓kept_mk] | apply KeptMk.same | apply KeptMk.setCon | apply KeptMk.setBst | apply KeptMk.setKpr
    | apply KeptMk.setRegs | apply KeptMk.setAll | apply ConsoleMk.same | apply ConsoleMk.setBuf | apply BootMk.same | apply KeeperMk.same
    | apply Kept.pending | apply Kept.regs | apply Kept.bst | apply Kept.kpr | apply Kept.con | exact Nat.zero_le _ | apply Kept.getD | exact nil_le
    | apply Kept.foldl_snd | apply Kept.foldl_fst | apply Kept.foldl | apply KeptO.none | apply KeptO.some | apply KeptO3.none | apply KeptO3.some
    | apply Kept.next | exact uart_le hs.con | split

theorem State.openQuote_kept {pq : List Instr} {s : State} {c : LineCtx} {text : List Byte} {rest : List Byte} {w : List Byte} (hs : Kept pq s) :
    Kept pq (State.openQuote s c text rest w) := by
  unfold State.openQuote
  try dsimp only
  with_reducible repeat' first
    | assumption | intro _ | apply Kept.ite | apply State.reply_kept | apply State.finishLine_kept | apply State.execLine_kept | apply hs
    | simp -zeta only [↓kept_mk, ↓console_mk, ↓console_mk', ↓boot_mk, ↓keeper_mk] | apply KeptMk.same | apply KeptMk.setCon | apply KeptMk.setBst
    | apply KeptMk.setKpr | apply KeptMk.setRegs | apply KeptMk.setAll | apply ConsoleMk.same | apply ConsoleMk.setBuf | apply BootMk.same
    | apply KeeperMk.same | apply Kept.pending | apply Kept.regs | apply Kept.bst | apply Kept.kpr | apply Kept.con | exact Nat.zero_le _
    | apply Kept.getD | exact nil_le | apply Kept.foldl_snd | apply Kept.foldl_fst | apply Kept.foldl | apply KeptO.none | apply KeptO.some
    | apply KeptO3.none | apply KeptO3.some | apply Kept.next | exact uart_le hs.con | split

theorem State.execText_kept {pq : List Instr} {s : State} {c : LineCtx} {text : List Byte} (hs : Kept pq s) :
    Kept pq (State.execText s c text) := by
  unfold State.execText
  try dsimp only
  with_reducible repeat' first
    | assumption | intro _ | apply Kept.ite | apply State.reply_kept | apply State.route_kept | apply State.execVerb_kept | apply State.openQuote_kept
    | apply hs | simp -zeta only [↓kept_mk, ↓console_mk, ↓console_mk', ↓boot_mk, ↓keeper_mk] | apply KeptMk.same | apply KeptMk.setCon
    | apply KeptMk.setBst | apply KeptMk.setKpr | apply KeptMk.setRegs | apply KeptMk.setAll | apply ConsoleMk.same | apply ConsoleMk.setBuf
    | apply BootMk.same | apply KeeperMk.same | apply Kept.pending | apply Kept.regs | apply Kept.bst | apply Kept.kpr | apply Kept.con
    | exact Nat.zero_le _ | apply Kept.getD | exact nil_le | apply Kept.foldl_snd | apply Kept.foldl_fst | apply Kept.foldl | apply KeptO.none
    | apply KeptO.some | apply KeptO3.none | apply KeptO3.some | apply Kept.next | exact uart_le hs.con | split

theorem State.accept_kept {pq : List Instr} {s : State} {c : LineCtx} {text : List Byte} (hs : Kept pq s) :
    Kept pq (State.accept s c text) := by
  unfold State.accept
  try dsimp only
  with_reducible repeat' first
    | assumption | intro _ | apply Kept.ite | apply State.enqueue_kept | apply State.execText_kept

theorem execLineExecute_kept {pq : List Instr} {s : State} (hs : Kept pq s) :
    KeptOut pq (execLineExecute s) := by
  unfold execLineExecute
  apply Kept.next
  split
  · split
    · rename_i q r e
      apply State.execText_kept
      simp only [↓kept_mk]
      refine KeptMk.setCon hs ?_
      simp only [↓console_mk']
      refine ConsoleMk.setQueue hs.con fun p => ?_
      have h := ((Console.wf_iff _).1 hs.con).2.2 p
      rw [e] at h
      exact Nat.le_trans (List.Sublist.countP_le (List.sublist_cons_self q r)) h
    · exact hs
  · exact hs

theorem State.uart_kept {pq : List Instr} {s : State} {f : Uart → Uart} (hs : Kept pq s) (hf : (f s.con.uart).buf.length ≤ 250) :
    Kept pq (State.uart s f) := by
  unfold State.uart
  simp only [↓kept_mk]
  refine KeptMk.setCon hs ?_
  simp only [↓console_mk']
  exact ConsoleMk.setBuf hs.con hf

theorem State.echo_kept {pq : List Instr} {s : State} {l : List Byte} (hs : Kept pq s) :
    Kept pq (State.echo s l) := by
  unfold State.echo
  with_reducible repeat' first
    | assumption | intro _ | apply Kept.ite | apply State.uartSend_kept

theorem State.endLine_kept {pq : List Instr} {s : State} (hs : Kept pq s) :
    Kept pq (State.endLine s) := by
  unfold State.endLine
  try dsimp only
  with_reducible repeat' first
    | assumption | intro _ | apply Kept.ite | apply State.uartSend_kept | apply State.reply_kept | apply State.accept_kept | apply State.uart_kept
    | apply State.echo_kept | apply hs | simp -zeta only [] | apply KeptMk.same | apply KeptMk.setCon | apply KeptMk.setBst | apply KeptMk.setKpr
    | apply KeptMk.setRegs | apply KeptMk.setAll | apply ConsoleMk.same | apply ConsoleMk.setBuf | apply BootMk.same | apply KeeperMk.same
    | apply Kept.pending | apply Kept.regs | apply Kept.bst | apply Kept.kpr | apply Kept.con | exact Nat.zero_le _ | apply Kept.getD | exact nil_le

theorem State.takeChar_kept {pq : List Instr} {s : State} {c : Byte} (hs : Kept pq s) :
    Kept pq (State.takeChar s c) := by
  unfold State.takeChar
  dsimp only
  split
  · exact hs
  · split
    · exact State.uart_kept hs (uart_le hs.con)
    · refine State.echo_kept (State.uart_kept hs ?_)
      rw [List.length_append, List.length_singleton]; omega

theorem State.backspace_kept {pq : List Instr} {s : State} (hs : Kept pq s) :
    Kept pq (State.backspace s) := by
  unfold State.backspace
  dsimp only
  split
  · exact hs
  · refine State.echo_kept (State.uart_kept hs ?_)
    have := uart_le hs.con
    rw [List.length_dropLast]; omega

theorem State.killLine_kept {pq : List Instr} {s : State} (hs : Kept pq s) :
    Kept pq (State.killLine s) := by
  unfold State.killLine
  try dsimp only
  with_reducible repeat' first
    | assumption | intro _ | apply Kept.ite | apply State.uart_kept | apply State.echo_kept | apply hs | simp -zeta only [] | apply KeptMk.same
    | apply KeptMk.setCon | apply KeptMk.setBst | apply KeptMk.setKpr | apply KeptMk.setRegs | apply KeptMk.setAll | apply ConsoleMk.same
    | apply ConsoleMk.setBuf | apply BootMk.same | apply KeeperMk.same | apply Kept.pending | apply Kept.regs | apply Kept.bst | apply Kept.kpr
    | apply Kept.con | exact Nat.zero_le _ | apply Kept.getD | exact nil_le

theorem State.rxChar_kept {pq : List Instr} {s : State} {c : Byte} (hs : Kept pq s) :
    Kept pq (State.rxChar s c) := by
  unfold State.rxChar
  try dsimp only
  with_reducible repeat' first
    | assumption | intro _ | apply Kept.ite | apply State.uart_kept | apply State.endLine_kept | apply State.takeChar_kept
    | apply State.backspace_kept | apply State.killLine_kept | apply hs | simp -zeta only [] | apply KeptMk.same | apply KeptMk.setCon
    | apply KeptMk.setBst | apply KeptMk.setKpr | apply KeptMk.setRegs | apply KeptMk.setAll | apply ConsoleMk.same | apply ConsoleMk.setBuf
    | apply BootMk.same | apply KeeperMk.same | apply Kept.pending | apply Kept.regs | apply Kept.bst | apply Kept.kpr | apply Kept.con
    | exact Nat.zero_le _ | apply Kept.getD | exact nil_le | apply Kept.foldl_snd | apply Kept.foldl_fst | apply Kept.foldl | apply KeptO.none
    | apply KeptO.some | apply KeptO3.none | apply KeptO3.some | apply Kept.next | exact uart_le hs.con

theorem execUartCharacter_kept {pq : List Instr} {c : Byte} {s : State} (hs : Kept pq s) :
    KeptOut pq (execUartCharacter c s) := by
  unfold execUartCharacter
  apply Kept.next
  with_reducible repeat' first
    | assumption | intro _ | apply Kept.ite | apply BootStore.next_kept | apply State.rxChar_kept

theorem execUartOverrun_kept {pq : List Instr} {s : State} (hs : Kept pq s) :
    KeptOut pq (execUartOverrun s) := by
  unfold execUartOverrun
  apply Kept.next
  with_reducible repeat' first
    | assumption | intro _ | apply Kept.ite | apply State.raise_kept | apply BootStore.next_kept | apply State.uart_kept | apply hs
    | simp -zeta only [] | apply KeptMk.same | apply KeptMk.setCon | apply KeptMk.setBst | apply KeptMk.setKpr | apply KeptMk.setRegs
    | apply KeptMk.setAll | apply ConsoleMk.same | apply ConsoleMk.setBuf | apply BootMk.same | apply KeeperMk.same | apply Kept.pending
    | apply Kept.regs | apply Kept.bst | apply Kept.kpr | apply Kept.con | exact Nat.zero_le _ | apply Kept.getD | exact nil_le

theorem execPartialLineTimeout_kept {pq : List Instr} {s : State} (hs : Kept pq s) :
    KeptOut pq (execPartialLineTimeout s) := by
  unfold execPartialLineTimeout
  apply Kept.next
  with_reducible repeat' first
    | assumption | intro _ | apply Kept.ite | apply BootStore.next_kept | apply State.uart_kept | apply hs | simp -zeta only [] | apply KeptMk.same
    | apply KeptMk.setCon | apply KeptMk.setBst | apply KeptMk.setKpr | apply KeptMk.setRegs | apply KeptMk.setAll | apply ConsoleMk.same
    | apply ConsoleMk.setBuf | apply BootMk.same | apply KeeperMk.same | apply Kept.pending | apply Kept.regs | apply Kept.bst | apply Kept.kpr
    | apply Kept.con | exact Nat.zero_le _ | apply Kept.getD | exact nil_le

theorem execKeepAlive_kept {pq : List Instr} {p : Path} {s : State} (hs : Kept pq s) :
    KeptOut pq (execKeepAlive p s) := by
  unfold execKeepAlive
  try dsimp only
  apply Kept.next
  with_reducible repeat' first
    | assumption | intro _ | apply Kept.ite | apply BootStore.next_kept | apply State.sendLines_kept | apply hs
    | simp -zeta only [↓kept_mk, ↓console_mk'] | apply KeptMk.same | apply KeptMk.setCon | apply KeptMk.setBst | apply KeptMk.setKpr
    | apply KeptMk.setRegs | apply KeptMk.setAll | apply ConsoleMk.same | apply ConsoleMk.setBuf | apply BootMk.same | apply KeeperMk.same
    | apply Kept.pending | apply Kept.regs | apply Kept.bst | apply Kept.kpr | apply Kept.con | exact Nat.zero_le _ | apply Kept.getD | exact nil_le
    | apply Kept.foldl_snd | apply Kept.foldl_fst | apply Kept.foldl

theorem State.passReply_kept {pq : List Instr} {s : State} {r : Routed} {l : List Byte} (hs : Kept pq s) :
    Kept pq (State.passReply s r l) := by
  unfold State.passReply
  try dsimp only
  with_reducible repeat' first
    | assumption | intro _ | apply Kept.ite | apply State.uartSend_kept | apply State.sendLines_kept | apply State.ctx_kept | apply State.uart_kept
    | apply hs | simp -zeta only [↓kept_mk, ↓console_mk'] | apply KeptMk.same | apply KeptMk.setCon | apply KeptMk.setBst | apply KeptMk.setKpr
    | apply KeptMk.setRegs | apply KeptMk.setAll | apply ConsoleMk.same | apply ConsoleMk.setBuf | apply BootMk.same | apply KeeperMk.same
    | apply Kept.pending | apply Kept.regs | apply Kept.bst | apply Kept.kpr | apply Kept.con

theorem State.consoleFrame_kept {pq : List Instr} {s : State} {f : FrameHdr} {l : List Byte} (hs : Kept pq s) :
    Kept pq (State.consoleFrame s f l) := by
  unfold State.consoleFrame
  try dsimp only
  with_reducible repeat' first
    | assumption | intro _ | apply Kept.ite | apply State.fanAnswer_kept | apply State.accept_kept | apply State.passReply_kept | apply hs
    | simp -zeta only [↓kept_mk, ↓console_mk, ↓console_mk', ↓boot_mk, ↓keeper_mk] | apply KeptMk.same | apply KeptMk.setCon | apply KeptMk.setBst
    | apply KeptMk.setKpr | apply KeptMk.setRegs | apply KeptMk.setAll | apply ConsoleMk.same | apply ConsoleMk.setBuf | apply BootMk.same
    | apply KeeperMk.same | apply Kept.pending | apply Kept.regs | apply Kept.bst | apply Kept.kpr | apply Kept.con | exact Nat.zero_le _
    | apply Kept.getD | exact nil_le | apply Kept.foldl_snd | apply Kept.foldl_fst | apply Kept.foldl | apply KeptO.none | apply KeptO.some
    | apply KeptO3.none | apply KeptO3.some | apply Kept.next | exact uart_le hs.con | split

theorem State.consoleOn__kept {pq : List Instr} {s : State} {p : Port} {f : FrameHdr} {l : List Byte} (hs : Kept pq s) :
    Kept pq (State.consoleOn_ s p f l) := by
  unfold State.consoleOn_
  try dsimp only
  with_reducible repeat' first
    | assumption | intro _ | apply Kept.ite | apply State.tethSend_kept | apply State.seq_kept | apply hs | simp -zeta only [↓kept_mk]
    | apply KeptMk.same

theorem execConsole_kept {pq : List Instr} {p : Port} {f : FrameHdr} {line : List Byte} {s : State} (hs : Kept pq s) :
    KeptOut pq (execConsole p f line s) := by
  unfold execConsole
  apply Kept.next
  with_reducible repeat' first
    | assumption | intro _ | apply Kept.ite | apply BootStore.next_kept | apply State.rxSeqd_kept | apply State.consoleFrame_kept
    | apply State.consoleOn__kept

theorem execRoutedLineTimeout_kept {pq : List Instr} {tag : BitVec 16} {s : State} (hs : Kept pq s) :
    KeptOut pq (execRoutedLineTimeout tag s) := by
  unfold execRoutedLineTimeout
  try dsimp only
  apply Kept.next
  with_reducible repeat' first
    | assumption | intro _ | apply Kept.ite | apply BootStore.next_kept | apply State.reply_kept | apply State.ctx_kept | apply hs
    | simp -zeta only [↓kept_mk, ↓console_mk'] | apply KeptMk.same | apply KeptMk.setCon | apply KeptMk.setBst | apply KeptMk.setKpr
    | apply KeptMk.setRegs | apply KeptMk.setAll | apply ConsoleMk.same | apply ConsoleMk.setBuf | apply BootMk.same | apply KeeperMk.same
    | apply Kept.pending | apply Kept.regs | apply Kept.bst | apply Kept.kpr | apply Kept.con | exact Nat.zero_le _ | apply Kept.getD | exact nil_le
    | apply Kept.foldl_snd | apply Kept.foldl_fst | apply Kept.foldl | apply KeptO.none | apply KeptO.some | apply KeptO3.none | apply KeptO3.some
    | apply Kept.next | exact uart_le hs.con | split

theorem execConsoleSend_kept {pq : List Instr} {h : Hdr} {len : Nat} {line : List Byte} {s : State} (hs : Kept pq s) :
    KeptOut pq (execConsoleSend h len line s) := by
  unfold execConsoleSend
  apply Kept.next
  with_reducible repeat' first
    | assumption | intro _ | apply Kept.ite | apply BootStore.next_kept | apply State.host_kept | apply State.done_kept | apply State.good_kept
    | apply State.accept_kept

theorem execConsoleReceive_kept {pq : List Instr} {h : Hdr} {numd : Nat} {s : State} (hs : Kept pq s) :
    KeptOut pq (execConsoleReceive h numd s) := by
  unfold execConsoleReceive
  apply Kept.next
  apply State.host_kept hs
  intro t ht
  dsimp only
  split
  · exact State.done_kept ht
  · apply State.done_kept
    simp only [↓kept_mk]
    refine KeptMk.setCon ht ?_
    simp only [↓console_mk']
    refine ConsoleMk.setTunnel ht.con ?_
    have h := ((Console.wf_iff _).1 ht.con).2.1
    split <;> rename_i hc
    · split
      · exact h
      · rename_i hl
        refine tunnel_rest h ?_
        simp only [hc, Bool.true_and, List.isEmpty_iff] at hl
        exact List.length_pos_iff.2 hl
    · split
      · exact h
      · exact tunnel_rest h (Nat.zero_le _)

theorem State.standbyEnds_kept {pq : List Instr} {s : State} (hs : Kept pq s) :
    Kept pq (State.standbyEnds s) := by
  unfold State.standbyEnds
  try dsimp only
  with_reducible repeat' first
    | assumption | intro _ | apply Kept.ite | apply State.leavePs3_kept | apply hs | simp -zeta only [↓kept_mk] | apply KeptMk.same

theorem execOrderState_kept {pq : List Instr} {p : Port} {f : FrameHdr} {arg : Byte} {s : State} (hs : Kept pq s) :
    KeptOut pq (execOrderState p f arg s) := by
  unfold execOrderState
  try dsimp only
  apply Kept.next
  with_reducible repeat' first
    | assumption | intro _ | apply Kept.ite | apply BootStore.next_kept | apply State.rxOrder_kept | apply State.leaveTest_kept
    | apply State.standbyEnds_kept | apply hs | simp -zeta only [↓kept_mk] | apply KeptMk.same

end Sys2Proof.Machine
end

