-- ==== Sys2Proof/Laws/KeptReplay.lean ====
section
/-! SUPPORT. The operations of Machine/Replay.lean keep the queue of commands and the sound form of the state. -/

namespace Sys2Proof.Machine

theorem State.onward_kept {pq : List Instr} {s : State} {x1 : Host.Outcome State Fault Refusal} (hs : Kept pq s) (hx1 : KeptOut pq x1) :
    Kept pq (State.onward s x1) := by
  unfold State.onward
  split
  · exact hx1 _ rfl
  · exact hs

theorem State.replay_kept {pq : List Instr} {s : State} {i : Instr} (hs : Kept pq s) :
    Kept pq (State.replay s i) := by
  unfold State.replay
  try dsimp only
  with_reducible repeat' first
    | assumption | intro _ | apply Kept.ite | apply execSecurityReceiveProtocols_kept | apply execSecuritySet_kept | apply execSecurityLock_kept
    | apply execSecurityUnlock_kept | apply execSecurityStatus_kept | apply execCreateIoCq_kept | apply execCreateIoSq_kept
    | apply execDeleteIoSq_kept | apply execDeleteIoCq_kept | apply execAbort_kept | apply execSetFeaturesArbitration_kept
    | apply execSetFeaturesPowerManagement_kept | apply execSetFeaturesTempThreshold_kept | apply execSetFeaturesErrorRecovery_kept
    | apply execSetFeaturesWriteCache_kept | apply execSetFeaturesNumberOfQueues_kept | apply execSetFeaturesInterruptCoalescing_kept
    | apply execSetFeaturesInterruptVector_kept | apply execSetFeaturesWriteAtomicity_kept | apply execSetFeaturesAsyncEventConfig_kept
    | apply execSetFeaturesApst_kept | apply execSetFeaturesHostMemoryBuffer_kept | apply execSetFeaturesThermalManagement_kept
    | apply execGetFeatures_kept | apply execIdentify_kept | apply execNamespaceCreate_kept | apply execNamespaceDelete_kept
    | apply execNamespaceAttachment_kept | apply execFormatNvm_kept | apply execSanitizeCryptoErase_kept | apply execSanitizeBlockErase_kept
    | apply execSanitizeExitFailureMode_kept | apply execFirmwareImageDownload_kept | apply execFirmwareCommit_kept | apply execRead_kept
    | apply execVerify_kept | apply execWrite_kept | apply execFlush_kept | apply execWriteZeroes_kept | apply execDatasetManagement_kept
    | apply execSecureDeallocate_kept | apply execGetLogPage_kept | apply Run.write_kept | apply Run.read_kept | apply execConsoleSend_kept
    | apply execConsoleReceive_kept | apply State.onward_kept | apply hs | simp -zeta only [↓kept_mk, ↓console_mk, ↓console_mk', ↓boot_mk, ↓keeper_mk]
    | apply KeptMk.same | apply KeptMk.setCon | apply KeptMk.setBst | apply KeptMk.setKpr | apply KeptMk.setRegs | apply KeptMk.setAll
    | apply ConsoleMk.same | apply ConsoleMk.setBuf | apply BootMk.same | apply KeeperMk.same | apply Kept.pending | apply Kept.regs | apply Kept.bst
    | apply Kept.kpr | apply Kept.con | exact Nat.zero_le _ | apply Kept.getD | exact nil_le | apply Kept.foldl_snd | apply Kept.foldl_fst
    | apply Kept.foldl | apply KeptO.none | apply KeptO.some | apply KeptO3.none | apply KeptO3.some | apply Kept.next | split

theorem State.abortHeld_kept {pq : List Instr} {s : State} {x : Hdr × Hdr} (hs : Kept pq s) :
    Kept pq (State.abortHeld s x) := by
  unfold State.abortHeld
  with_reducible repeat' first
    | assumption | intro _ | apply Kept.ite | apply State.done_kept | apply State.good_kept

theorem execCommandReplay_kept {pq : List Instr} {s : State} (hs : Kept pq s) :
    KeptOut pq (execCommandReplay s) := by
  unfold execCommandReplay
  try dsimp only
  apply Kept.next
  with_reducible repeat' first
    | assumption | intro _ | apply Kept.ite | apply BootStore.next_kept | apply State.replay_kept | apply State.abortHeld_kept | apply hs
    | simp -zeta only [↓kept_mk] | apply KeptMk.same | apply KeptMk.setCon | apply KeptMk.setBst | apply KeptMk.setKpr | apply KeptMk.setRegs
    | apply KeptMk.setAll | apply ConsoleMk.same | apply ConsoleMk.setBuf | apply BootMk.same | apply KeeperMk.same | apply Kept.pending
    | apply Kept.regs | apply Kept.bst | apply Kept.kpr | apply Kept.con | exact Nat.zero_le _ | apply Kept.getD | exact nil_le | apply Kept.foldl_snd
    | apply Kept.foldl_fst | apply Kept.foldl

end Sys2Proof.Machine
end

