-- ==== Sys2Proof/Laws/State.lean ====
section
/-! SUPPORT. What the named updates of State leave alone: one lemma for each field an update does not touch, true by `rfl`. -/

namespace Sys2Proof.Machine

/-! ### `State.setReg` -/

@[simp] theorem State.setReg_pending (s : State) (r : Reg) (v : Word) : (s.setReg r v).pending = s.pending := rfl
@[simp] theorem State.setReg_sys (s : State) (r : Reg) (v : Word) : (s.setReg r v).sys = s.sys := rfl
@[simp] theorem State.setReg_front (s : State) (r : Reg) (v : Word) : (s.setReg r v).front = s.front := rfl
@[simp] theorem State.setReg_con (s : State) (r : Reg) (v : Word) : (s.setReg r v).con = s.con := rfl
@[simp] theorem State.setReg_settings (s : State) (r : Reg) (v : Word) : (s.setReg r v).settings = s.settings := rfl
@[simp] theorem State.setReg_bst (s : State) (r : Reg) (v : Word) : (s.setReg r v).bst = s.bst := rfl
@[simp] theorem State.setReg_gals (s : State) (r : Reg) (v : Word) : (s.setReg r v).gals = s.gals := rfl
@[simp] theorem State.setReg_cdc (s : State) (r : Reg) (v : Word) : (s.setReg r v).cdc = s.cdc := rfl
@[simp] theorem State.setReg_map (s : State) (r : Reg) (v : Word) : (s.setReg r v).map = s.map := rfl
@[simp] theorem State.setReg_media (s : State) (r : Reg) (v : Word) : (s.setReg r v).media = s.media := rfl
@[simp] theorem State.setReg_assay (s : State) (r : Reg) (v : Word) : (s.setReg r v).assay = s.assay := rfl
@[simp] theorem State.setReg_gov (s : State) (r : Reg) (v : Word) : (s.setReg r v).gov = s.gov := rfl
@[simp] theorem State.setReg_teth (s : State) (r : Reg) (v : Word) : (s.setReg r v).teth = s.teth := rfl
@[simp] theorem State.setReg_kpr (s : State) (r : Reg) (v : Word) : (s.setReg r v).kpr = s.kpr := rfl
@[simp] theorem State.setReg_dma (s : State) (r : Reg) (v : Word) : (s.setReg r v).dma = s.dma := rfl
@[simp] theorem State.setReg_mpu (s : State) (r : Reg) (v : Word) : (s.setReg r v).mpu = s.mpu := rfl
@[simp] theorem State.setReg_lan (s : State) (r : Reg) (v : Word) : (s.setReg r v).lan = s.lan := rfl
@[simp] theorem State.setReg_vault (s : State) (r : Reg) (v : Word) : (s.setReg r v).vault = s.vault := rfl
@[simp] theorem State.setReg_free (s : State) (r : Reg) (v : Word) : (s.setReg r v).free = s.free := rfl

/-! ### `State.setRf` -/

@[simp] theorem State.setRf_pending (s : State) (r : Reg) (lo n v : Nat) : (s.setRf r lo n v).pending = s.pending := rfl
@[simp] theorem State.setRf_sys (s : State) (r : Reg) (lo n v : Nat) : (s.setRf r lo n v).sys = s.sys := rfl
@[simp] theorem State.setRf_front (s : State) (r : Reg) (lo n v : Nat) : (s.setRf r lo n v).front = s.front := rfl
@[simp] theorem State.setRf_con (s : State) (r : Reg) (lo n v : Nat) : (s.setRf r lo n v).con = s.con := rfl
@[simp] theorem State.setRf_settings (s : State) (r : Reg) (lo n v : Nat) : (s.setRf r lo n v).settings = s.settings := rfl
@[simp] theorem State.setRf_bst (s : State) (r : Reg) (lo n v : Nat) : (s.setRf r lo n v).bst = s.bst := rfl
@[simp] theorem State.setRf_gals (s : State) (r : Reg) (lo n v : Nat) : (s.setRf r lo n v).gals = s.gals := rfl
@[simp] theorem State.setRf_cdc (s : State) (r : Reg) (lo n v : Nat) : (s.setRf r lo n v).cdc = s.cdc := rfl
@[simp] theorem State.setRf_map (s : State) (r : Reg) (lo n v : Nat) : (s.setRf r lo n v).map = s.map := rfl
@[simp] theorem State.setRf_media (s : State) (r : Reg) (lo n v : Nat) : (s.setRf r lo n v).media = s.media := rfl
@[simp] theorem State.setRf_assay (s : State) (r : Reg) (lo n v : Nat) : (s.setRf r lo n v).assay = s.assay := rfl
@[simp] theorem State.setRf_gov (s : State) (r : Reg) (lo n v : Nat) : (s.setRf r lo n v).gov = s.gov := rfl
@[simp] theorem State.setRf_teth (s : State) (r : Reg) (lo n v : Nat) : (s.setRf r lo n v).teth = s.teth := rfl
@[simp] theorem State.setRf_kpr (s : State) (r : Reg) (lo n v : Nat) : (s.setRf r lo n v).kpr = s.kpr := rfl
@[simp] theorem State.setRf_dma (s : State) (r : Reg) (lo n v : Nat) : (s.setRf r lo n v).dma = s.dma := rfl
@[simp] theorem State.setRf_mpu (s : State) (r : Reg) (lo n v : Nat) : (s.setRf r lo n v).mpu = s.mpu := rfl
@[simp] theorem State.setRf_lan (s : State) (r : Reg) (lo n v : Nat) : (s.setRf r lo n v).lan = s.lan := rfl
@[simp] theorem State.setRf_vault (s : State) (r : Reg) (lo n v : Nat) : (s.setRf r lo n v).vault = s.vault := rfl
@[simp] theorem State.setRf_free (s : State) (r : Reg) (lo n v : Nat) : (s.setRf r lo n v).free = s.free := rfl

/-! ### `State.bump` -/

@[simp] theorem State.bump_pending (s : State) (r : Reg) (lo n k : Nat) : (s.bump r lo n k).pending = s.pending := rfl
@[simp] theorem State.bump_sys (s : State) (r : Reg) (lo n k : Nat) : (s.bump r lo n k).sys = s.sys := rfl
@[simp] theorem State.bump_front (s : State) (r : Reg) (lo n k : Nat) : (s.bump r lo n k).front = s.front := rfl
@[simp] theorem State.bump_con (s : State) (r : Reg) (lo n k : Nat) : (s.bump r lo n k).con = s.con := rfl
@[simp] theorem State.bump_settings (s : State) (r : Reg) (lo n k : Nat) : (s.bump r lo n k).settings = s.settings := rfl
@[simp] theorem State.bump_bst (s : State) (r : Reg) (lo n k : Nat) : (s.bump r lo n k).bst = s.bst := rfl
@[simp] theorem State.bump_gals (s : State) (r : Reg) (lo n k : Nat) : (s.bump r lo n k).gals = s.gals := rfl
@[simp] theorem State.bump_cdc (s : State) (r : Reg) (lo n k : Nat) : (s.bump r lo n k).cdc = s.cdc := rfl
@[simp] theorem State.bump_map (s : State) (r : Reg) (lo n k : Nat) : (s.bump r lo n k).map = s.map := rfl
@[simp] theorem State.bump_media (s : State) (r : Reg) (lo n k : Nat) : (s.bump r lo n k).media = s.media := rfl
@[simp] theorem State.bump_assay (s : State) (r : Reg) (lo n k : Nat) : (s.bump r lo n k).assay = s.assay := rfl
@[simp] theorem State.bump_gov (s : State) (r : Reg) (lo n k : Nat) : (s.bump r lo n k).gov = s.gov := rfl
@[simp] theorem State.bump_teth (s : State) (r : Reg) (lo n k : Nat) : (s.bump r lo n k).teth = s.teth := rfl
@[simp] theorem State.bump_kpr (s : State) (r : Reg) (lo n k : Nat) : (s.bump r lo n k).kpr = s.kpr := rfl
@[simp] theorem State.bump_dma (s : State) (r : Reg) (lo n k : Nat) : (s.bump r lo n k).dma = s.dma := rfl
@[simp] theorem State.bump_mpu (s : State) (r : Reg) (lo n k : Nat) : (s.bump r lo n k).mpu = s.mpu := rfl
@[simp] theorem State.bump_lan (s : State) (r : Reg) (lo n k : Nat) : (s.bump r lo n k).lan = s.lan := rfl
@[simp] theorem State.bump_vault (s : State) (r : Reg) (lo n k : Nat) : (s.bump r lo n k).vault = s.vault := rfl
@[simp] theorem State.bump_free (s : State) (r : Reg) (lo n k : Nat) : (s.bump r lo n k).free = s.free := rfl

/-! ### `State.bumpWrap` -/

@[simp] theorem State.bumpWrap_pending (s : State) (r : Reg) (lo n k : Nat) : (s.bumpWrap r lo n k).pending = s.pending := rfl
@[simp] theorem State.bumpWrap_sys (s : State) (r : Reg) (lo n k : Nat) : (s.bumpWrap r lo n k).sys = s.sys := rfl
@[simp] theorem State.bumpWrap_front (s : State) (r : Reg) (lo n k : Nat) : (s.bumpWrap r lo n k).front = s.front := rfl
@[simp] theorem State.bumpWrap_con (s : State) (r : Reg) (lo n k : Nat) : (s.bumpWrap r lo n k).con = s.con := rfl
@[simp] theorem State.bumpWrap_settings (s : State) (r : Reg) (lo n k : Nat) : (s.bumpWrap r lo n k).settings = s.settings := rfl
@[simp] theorem State.bumpWrap_bst (s : State) (r : Reg) (lo n k : Nat) : (s.bumpWrap r lo n k).bst = s.bst := rfl
@[simp] theorem State.bumpWrap_gals (s : State) (r : Reg) (lo n k : Nat) : (s.bumpWrap r lo n k).gals = s.gals := rfl
@[simp] theorem State.bumpWrap_cdc (s : State) (r : Reg) (lo n k : Nat) : (s.bumpWrap r lo n k).cdc = s.cdc := rfl
@[simp] theorem State.bumpWrap_map (s : State) (r : Reg) (lo n k : Nat) : (s.bumpWrap r lo n k).map = s.map := rfl
@[simp] theorem State.bumpWrap_media (s : State) (r : Reg) (lo n k : Nat) : (s.bumpWrap r lo n k).media = s.media := rfl
@[simp] theorem State.bumpWrap_assay (s : State) (r : Reg) (lo n k : Nat) : (s.bumpWrap r lo n k).assay = s.assay := rfl
@[simp] theorem State.bumpWrap_gov (s : State) (r : Reg) (lo n k : Nat) : (s.bumpWrap r lo n k).gov = s.gov := rfl
@[simp] theorem State.bumpWrap_teth (s : State) (r : Reg) (lo n k : Nat) : (s.bumpWrap r lo n k).teth = s.teth := rfl
@[simp] theorem State.bumpWrap_kpr (s : State) (r : Reg) (lo n k : Nat) : (s.bumpWrap r lo n k).kpr = s.kpr := rfl
@[simp] theorem State.bumpWrap_dma (s : State) (r : Reg) (lo n k : Nat) : (s.bumpWrap r lo n k).dma = s.dma := rfl
@[simp] theorem State.bumpWrap_mpu (s : State) (r : Reg) (lo n k : Nat) : (s.bumpWrap r lo n k).mpu = s.mpu := rfl
@[simp] theorem State.bumpWrap_lan (s : State) (r : Reg) (lo n k : Nat) : (s.bumpWrap r lo n k).lan = s.lan := rfl
@[simp] theorem State.bumpWrap_vault (s : State) (r : Reg) (lo n k : Nat) : (s.bumpWrap r lo n k).vault = s.vault := rfl
@[simp] theorem State.bumpWrap_free (s : State) (r : Reg) (lo n k : Nat) : (s.bumpWrap r lo n k).free = s.free := rfl

/-! ### `State.gal` -/

@[simp] theorem State.gal_pending (s : State) (g : Fin 8) (f : Gallery → Gallery) : (s.gal g f).pending = s.pending := rfl
@[simp] theorem State.gal_sys (s : State) (g : Fin 8) (f : Gallery → Gallery) : (s.gal g f).sys = s.sys := rfl
@[simp] theorem State.gal_regs (s : State) (g : Fin 8) (f : Gallery → Gallery) : (s.gal g f).regs = s.regs := rfl
@[simp] theorem State.gal_front (s : State) (g : Fin 8) (f : Gallery → Gallery) : (s.gal g f).front = s.front := rfl
@[simp] theorem State.gal_con (s : State) (g : Fin 8) (f : Gallery → Gallery) : (s.gal g f).con = s.con := rfl
@[simp] theorem State.gal_settings (s : State) (g : Fin 8) (f : Gallery → Gallery) : (s.gal g f).settings = s.settings := rfl
@[simp] theorem State.gal_bst (s : State) (g : Fin 8) (f : Gallery → Gallery) : (s.gal g f).bst = s.bst := rfl
@[simp] theorem State.gal_cdc (s : State) (g : Fin 8) (f : Gallery → Gallery) : (s.gal g f).cdc = s.cdc := rfl
@[simp] theorem State.gal_map (s : State) (g : Fin 8) (f : Gallery → Gallery) : (s.gal g f).map = s.map := rfl
@[simp] theorem State.gal_media (s : State) (g : Fin 8) (f : Gallery → Gallery) : (s.gal g f).media = s.media := rfl
@[simp] theorem State.gal_assay (s : State) (g : Fin 8) (f : Gallery → Gallery) : (s.gal g f).assay = s.assay := rfl
@[simp] theorem State.gal_gov (s : State) (g : Fin 8) (f : Gallery → Gallery) : (s.gal g f).gov = s.gov := rfl
@[simp] theorem State.gal_teth (s : State) (g : Fin 8) (f : Gallery → Gallery) : (s.gal g f).teth = s.teth := rfl
@[simp] theorem State.gal_kpr (s : State) (g : Fin 8) (f : Gallery → Gallery) : (s.gal g f).kpr = s.kpr := rfl
@[simp] theorem State.gal_dma (s : State) (g : Fin 8) (f : Gallery → Gallery) : (s.gal g f).dma = s.dma := rfl
@[simp] theorem State.gal_mpu (s : State) (g : Fin 8) (f : Gallery → Gallery) : (s.gal g f).mpu = s.mpu := rfl
@[simp] theorem State.gal_lan (s : State) (g : Fin 8) (f : Gallery → Gallery) : (s.gal g f).lan = s.lan := rfl
@[simp] theorem State.gal_vault (s : State) (g : Fin 8) (f : Gallery → Gallery) : (s.gal g f).vault = s.vault := rfl
@[simp] theorem State.gal_free (s : State) (g : Fin 8) (f : Gallery → Gallery) : (s.gal g f).free = s.free := rfl

/-! ### `State.raise` -/

@[simp] theorem State.raise_pending (s : State) (n : Nat) : (s.raise n).pending = s.pending := rfl
@[simp] theorem State.raise_regs (s : State) (n : Nat) : (s.raise n).regs = s.regs := rfl
@[simp] theorem State.raise_con (s : State) (n : Nat) : (s.raise n).con = s.con := rfl
@[simp] theorem State.raise_settings (s : State) (n : Nat) : (s.raise n).settings = s.settings := rfl
@[simp] theorem State.raise_bst (s : State) (n : Nat) : (s.raise n).bst = s.bst := rfl
@[simp] theorem State.raise_gals (s : State) (n : Nat) : (s.raise n).gals = s.gals := rfl
@[simp] theorem State.raise_cdc (s : State) (n : Nat) : (s.raise n).cdc = s.cdc := rfl
@[simp] theorem State.raise_map (s : State) (n : Nat) : (s.raise n).map = s.map := rfl
@[simp] theorem State.raise_media (s : State) (n : Nat) : (s.raise n).media = s.media := rfl
@[simp] theorem State.raise_assay (s : State) (n : Nat) : (s.raise n).assay = s.assay := rfl
@[simp] theorem State.raise_gov (s : State) (n : Nat) : (s.raise n).gov = s.gov := rfl
@[simp] theorem State.raise_teth (s : State) (n : Nat) : (s.raise n).teth = s.teth := rfl
@[simp] theorem State.raise_kpr (s : State) (n : Nat) : (s.raise n).kpr = s.kpr := rfl
@[simp] theorem State.raise_dma (s : State) (n : Nat) : (s.raise n).dma = s.dma := rfl
@[simp] theorem State.raise_mpu (s : State) (n : Nat) : (s.raise n).mpu = s.mpu := rfl
@[simp] theorem State.raise_lan (s : State) (n : Nat) : (s.raise n).lan = s.lan := rfl
@[simp] theorem State.raise_vault (s : State) (n : Nat) : (s.raise n).vault = s.vault := rfl
@[simp] theorem State.raise_free (s : State) (n : Nat) : (s.raise n).free = s.free := rfl

/-! ### `State.takeFree` -/

@[simp] theorem State.takeFree_pending (s : State) : s.takeFree.pending = s.pending := rfl
@[simp] theorem State.takeFree_sys (s : State) : s.takeFree.sys = s.sys := rfl
@[simp] theorem State.takeFree_regs (s : State) : s.takeFree.regs = s.regs := rfl
@[simp] theorem State.takeFree_front (s : State) : s.takeFree.front = s.front := rfl
@[simp] theorem State.takeFree_con (s : State) : s.takeFree.con = s.con := rfl
@[simp] theorem State.takeFree_settings (s : State) : s.takeFree.settings = s.settings := rfl
@[simp] theorem State.takeFree_bst (s : State) : s.takeFree.bst = s.bst := rfl
@[simp] theorem State.takeFree_gals (s : State) : s.takeFree.gals = s.gals := rfl
@[simp] theorem State.takeFree_cdc (s : State) : s.takeFree.cdc = s.cdc := rfl
@[simp] theorem State.takeFree_map (s : State) : s.takeFree.map = s.map := rfl
@[simp] theorem State.takeFree_media (s : State) : s.takeFree.media = s.media := rfl
@[simp] theorem State.takeFree_assay (s : State) : s.takeFree.assay = s.assay := rfl
@[simp] theorem State.takeFree_gov (s : State) : s.takeFree.gov = s.gov := rfl
@[simp] theorem State.takeFree_teth (s : State) : s.takeFree.teth = s.teth := rfl
@[simp] theorem State.takeFree_kpr (s : State) : s.takeFree.kpr = s.kpr := rfl
@[simp] theorem State.takeFree_dma (s : State) : s.takeFree.dma = s.dma := rfl
@[simp] theorem State.takeFree_mpu (s : State) : s.takeFree.mpu = s.mpu := rfl
@[simp] theorem State.takeFree_lan (s : State) : s.takeFree.lan = s.lan := rfl
@[simp] theorem State.takeFree_vault (s : State) : s.takeFree.vault = s.vault := rfl

/-! ### `State.done` -/

@[simp] theorem State.done_pending (s : State) (h : Hdr) (st : NStat) (dw0 : Nat) (d : Payload) : (s.done h st dw0 d).pending = s.pending := rfl
@[simp] theorem State.done_sys (s : State) (h : Hdr) (st : NStat) (dw0 : Nat) (d : Payload) : (s.done h st dw0 d).sys = s.sys := rfl
@[simp] theorem State.done_regs (s : State) (h : Hdr) (st : NStat) (dw0 : Nat) (d : Payload) : (s.done h st dw0 d).regs = s.regs := rfl
@[simp] theorem State.done_con (s : State) (h : Hdr) (st : NStat) (dw0 : Nat) (d : Payload) : (s.done h st dw0 d).con = s.con := rfl
@[simp] theorem State.done_settings (s : State) (h : Hdr) (st : NStat) (dw0 : Nat) (d : Payload) : (s.done h st dw0 d).settings = s.settings := rfl
@[simp] theorem State.done_bst (s : State) (h : Hdr) (st : NStat) (dw0 : Nat) (d : Payload) : (s.done h st dw0 d).bst = s.bst := rfl
@[simp] theorem State.done_gals (s : State) (h : Hdr) (st : NStat) (dw0 : Nat) (d : Payload) : (s.done h st dw0 d).gals = s.gals := rfl
@[simp] theorem State.done_cdc (s : State) (h : Hdr) (st : NStat) (dw0 : Nat) (d : Payload) : (s.done h st dw0 d).cdc = s.cdc := rfl
@[simp] theorem State.done_map (s : State) (h : Hdr) (st : NStat) (dw0 : Nat) (d : Payload) : (s.done h st dw0 d).map = s.map := rfl
@[simp] theorem State.done_media (s : State) (h : Hdr) (st : NStat) (dw0 : Nat) (d : Payload) : (s.done h st dw0 d).media = s.media := rfl
@[simp] theorem State.done_assay (s : State) (h : Hdr) (st : NStat) (dw0 : Nat) (d : Payload) : (s.done h st dw0 d).assay = s.assay := rfl
@[simp] theorem State.done_gov (s : State) (h : Hdr) (st : NStat) (dw0 : Nat) (d : Payload) : (s.done h st dw0 d).gov = s.gov := rfl
@[simp] theorem State.done_teth (s : State) (h : Hdr) (st : NStat) (dw0 : Nat) (d : Payload) : (s.done h st dw0 d).teth = s.teth := rfl
@[simp] theorem State.done_kpr (s : State) (h : Hdr) (st : NStat) (dw0 : Nat) (d : Payload) : (s.done h st dw0 d).kpr = s.kpr := rfl
@[simp] theorem State.done_dma (s : State) (h : Hdr) (st : NStat) (dw0 : Nat) (d : Payload) : (s.done h st dw0 d).dma = s.dma := rfl
@[simp] theorem State.done_mpu (s : State) (h : Hdr) (st : NStat) (dw0 : Nat) (d : Payload) : (s.done h st dw0 d).mpu = s.mpu := rfl
@[simp] theorem State.done_lan (s : State) (h : Hdr) (st : NStat) (dw0 : Nat) (d : Payload) : (s.done h st dw0 d).lan = s.lan := rfl
@[simp] theorem State.done_vault (s : State) (h : Hdr) (st : NStat) (dw0 : Nat) (d : Payload) : (s.done h st dw0 d).vault = s.vault := rfl
@[simp] theorem State.done_free (s : State) (h : Hdr) (st : NStat) (dw0 : Nat) (d : Payload) : (s.done h st dw0 d).free = s.free := rfl

/-! ### `State.good` -/

@[simp] theorem State.good_pending (s : State) (h : Hdr) : (s.good h).pending = s.pending := rfl
@[simp] theorem State.good_sys (s : State) (h : Hdr) : (s.good h).sys = s.sys := rfl
@[simp] theorem State.good_regs (s : State) (h : Hdr) : (s.good h).regs = s.regs := rfl
@[simp] theorem State.good_con (s : State) (h : Hdr) : (s.good h).con = s.con := rfl
@[simp] theorem State.good_settings (s : State) (h : Hdr) : (s.good h).settings = s.settings := rfl
@[simp] theorem State.good_bst (s : State) (h : Hdr) : (s.good h).bst = s.bst := rfl
@[simp] theorem State.good_gals (s : State) (h : Hdr) : (s.good h).gals = s.gals := rfl
@[simp] theorem State.good_cdc (s : State) (h : Hdr) : (s.good h).cdc = s.cdc := rfl
@[simp] theorem State.good_map (s : State) (h : Hdr) : (s.good h).map = s.map := rfl
@[simp] theorem State.good_media (s : State) (h : Hdr) : (s.good h).media = s.media := rfl
@[simp] theorem State.good_assay (s : State) (h : Hdr) : (s.good h).assay = s.assay := rfl
@[simp] theorem State.good_gov (s : State) (h : Hdr) : (s.good h).gov = s.gov := rfl
@[simp] theorem State.good_teth (s : State) (h : Hdr) : (s.good h).teth = s.teth := rfl
@[simp] theorem State.good_kpr (s : State) (h : Hdr) : (s.good h).kpr = s.kpr := rfl
@[simp] theorem State.good_dma (s : State) (h : Hdr) : (s.good h).dma = s.dma := rfl
@[simp] theorem State.good_mpu (s : State) (h : Hdr) : (s.good h).mpu = s.mpu := rfl
@[simp] theorem State.good_lan (s : State) (h : Hdr) : (s.good h).lan = s.lan := rfl
@[simp] theorem State.good_vault (s : State) (h : Hdr) : (s.good h).vault = s.vault := rfl
@[simp] theorem State.good_free (s : State) (h : Hdr) : (s.good h).free = s.free := rfl

/-! ### `State.ctx` -/

@[simp] theorem State.ctx_pending (s : State) (h : Hdr) (f : Ctx → Ctx) : (s.ctx h f).pending = s.pending := rfl
@[simp] theorem State.ctx_sys (s : State) (h : Hdr) (f : Ctx → Ctx) : (s.ctx h f).sys = s.sys := rfl
@[simp] theorem State.ctx_regs (s : State) (h : Hdr) (f : Ctx → Ctx) : (s.ctx h f).regs = s.regs := rfl
@[simp] theorem State.ctx_con (s : State) (h : Hdr) (f : Ctx → Ctx) : (s.ctx h f).con = s.con := rfl
@[simp] theorem State.ctx_settings (s : State) (h : Hdr) (f : Ctx → Ctx) : (s.ctx h f).settings = s.settings := rfl
@[simp] theorem State.ctx_bst (s : State) (h : Hdr) (f : Ctx → Ctx) : (s.ctx h f).bst = s.bst := rfl
@[simp] theorem State.ctx_gals (s : State) (h : Hdr) (f : Ctx → Ctx) : (s.ctx h f).gals = s.gals := rfl
@[simp] theorem State.ctx_cdc (s : State) (h : Hdr) (f : Ctx → Ctx) : (s.ctx h f).cdc = s.cdc := rfl
@[simp] theorem State.ctx_map (s : State) (h : Hdr) (f : Ctx → Ctx) : (s.ctx h f).map = s.map := rfl
@[simp] theorem State.ctx_media (s : State) (h : Hdr) (f : Ctx → Ctx) : (s.ctx h f).media = s.media := rfl
@[simp] theorem State.ctx_assay (s : State) (h : Hdr) (f : Ctx → Ctx) : (s.ctx h f).assay = s.assay := rfl
@[simp] theorem State.ctx_gov (s : State) (h : Hdr) (f : Ctx → Ctx) : (s.ctx h f).gov = s.gov := rfl
@[simp] theorem State.ctx_teth (s : State) (h : Hdr) (f : Ctx → Ctx) : (s.ctx h f).teth = s.teth := rfl
@[simp] theorem State.ctx_kpr (s : State) (h : Hdr) (f : Ctx → Ctx) : (s.ctx h f).kpr = s.kpr := rfl
@[simp] theorem State.ctx_dma (s : State) (h : Hdr) (f : Ctx → Ctx) : (s.ctx h f).dma = s.dma := rfl
@[simp] theorem State.ctx_mpu (s : State) (h : Hdr) (f : Ctx → Ctx) : (s.ctx h f).mpu = s.mpu := rfl
@[simp] theorem State.ctx_lan (s : State) (h : Hdr) (f : Ctx → Ctx) : (s.ctx h f).lan = s.lan := rfl
@[simp] theorem State.ctx_vault (s : State) (h : Hdr) (f : Ctx → Ctx) : (s.ctx h f).vault = s.vault := rfl
@[simp] theorem State.ctx_free (s : State) (h : Hdr) (f : Ctx → Ctx) : (s.ctx h f).free = s.free := rfl

/-! ### `State.dmaSet` -/

@[simp] theorem State.dmaSet_pending (s : State) (n : Fin 8) (f : DmaChan → DmaChan) : (s.dmaSet n f).pending = s.pending := rfl
@[simp] theorem State.dmaSet_sys (s : State) (n : Fin 8) (f : DmaChan → DmaChan) : (s.dmaSet n f).sys = s.sys := rfl
@[simp] theorem State.dmaSet_regs (s : State) (n : Fin 8) (f : DmaChan → DmaChan) : (s.dmaSet n f).regs = s.regs := rfl
@[simp] theorem State.dmaSet_front (s : State) (n : Fin 8) (f : DmaChan → DmaChan) : (s.dmaSet n f).front = s.front := rfl
@[simp] theorem State.dmaSet_con (s : State) (n : Fin 8) (f : DmaChan → DmaChan) : (s.dmaSet n f).con = s.con := rfl
@[simp] theorem State.dmaSet_settings (s : State) (n : Fin 8) (f : DmaChan → DmaChan) : (s.dmaSet n f).settings = s.settings := rfl
@[simp] theorem State.dmaSet_bst (s : State) (n : Fin 8) (f : DmaChan → DmaChan) : (s.dmaSet n f).bst = s.bst := rfl
@[simp] theorem State.dmaSet_gals (s : State) (n : Fin 8) (f : DmaChan → DmaChan) : (s.dmaSet n f).gals = s.gals := rfl
@[simp] theorem State.dmaSet_cdc (s : State) (n : Fin 8) (f : DmaChan → DmaChan) : (s.dmaSet n f).cdc = s.cdc := rfl
@[simp] theorem State.dmaSet_map (s : State) (n : Fin 8) (f : DmaChan → DmaChan) : (s.dmaSet n f).map = s.map := rfl
@[simp] theorem State.dmaSet_media (s : State) (n : Fin 8) (f : DmaChan → DmaChan) : (s.dmaSet n f).media = s.media := rfl
@[simp] theorem State.dmaSet_assay (s : State) (n : Fin 8) (f : DmaChan → DmaChan) : (s.dmaSet n f).assay = s.assay := rfl
@[simp] theorem State.dmaSet_gov (s : State) (n : Fin 8) (f : DmaChan → DmaChan) : (s.dmaSet n f).gov = s.gov := rfl
@[simp] theorem State.dmaSet_teth (s : State) (n : Fin 8) (f : DmaChan → DmaChan) : (s.dmaSet n f).teth = s.teth := rfl
@[simp] theorem State.dmaSet_kpr (s : State) (n : Fin 8) (f : DmaChan → DmaChan) : (s.dmaSet n f).kpr = s.kpr := rfl
@[simp] theorem State.dmaSet_mpu (s : State) (n : Fin 8) (f : DmaChan → DmaChan) : (s.dmaSet n f).mpu = s.mpu := rfl
@[simp] theorem State.dmaSet_lan (s : State) (n : Fin 8) (f : DmaChan → DmaChan) : (s.dmaSet n f).lan = s.lan := rfl
@[simp] theorem State.dmaSet_vault (s : State) (n : Fin 8) (f : DmaChan → DmaChan) : (s.dmaSet n f).vault = s.vault := rfl
@[simp] theorem State.dmaSet_free (s : State) (n : Fin 8) (f : DmaChan → DmaChan) : (s.dmaSet n f).free = s.free := rfl

/-! ### `State.uart` -/

@[simp] theorem State.uart_pending (s : State) (f : Uart → Uart) : (s.uart f).pending = s.pending := rfl
@[simp] theorem State.uart_sys (s : State) (f : Uart → Uart) : (s.uart f).sys = s.sys := rfl
@[simp] theorem State.uart_regs (s : State) (f : Uart → Uart) : (s.uart f).regs = s.regs := rfl
@[simp] theorem State.uart_front (s : State) (f : Uart → Uart) : (s.uart f).front = s.front := rfl
@[simp] theorem State.uart_settings (s : State) (f : Uart → Uart) : (s.uart f).settings = s.settings := rfl
@[simp] theorem State.uart_bst (s : State) (f : Uart → Uart) : (s.uart f).bst = s.bst := rfl
@[simp] theorem State.uart_gals (s : State) (f : Uart → Uart) : (s.uart f).gals = s.gals := rfl
@[simp] theorem State.uart_cdc (s : State) (f : Uart → Uart) : (s.uart f).cdc = s.cdc := rfl
@[simp] theorem State.uart_map (s : State) (f : Uart → Uart) : (s.uart f).map = s.map := rfl
@[simp] theorem State.uart_media (s : State) (f : Uart → Uart) : (s.uart f).media = s.media := rfl
@[simp] theorem State.uart_assay (s : State) (f : Uart → Uart) : (s.uart f).assay = s.assay := rfl
@[simp] theorem State.uart_gov (s : State) (f : Uart → Uart) : (s.uart f).gov = s.gov := rfl
@[simp] theorem State.uart_teth (s : State) (f : Uart → Uart) : (s.uart f).teth = s.teth := rfl
@[simp] theorem State.uart_kpr (s : State) (f : Uart → Uart) : (s.uart f).kpr = s.kpr := rfl
@[simp] theorem State.uart_dma (s : State) (f : Uart → Uart) : (s.uart f).dma = s.dma := rfl
@[simp] theorem State.uart_mpu (s : State) (f : Uart → Uart) : (s.uart f).mpu = s.mpu := rfl
@[simp] theorem State.uart_lan (s : State) (f : Uart → Uart) : (s.uart f).lan = s.lan := rfl
@[simp] theorem State.uart_vault (s : State) (f : Uart → Uart) : (s.uart f).vault = s.vault := rfl
@[simp] theorem State.uart_free (s : State) (f : Uart → Uart) : (s.uart f).free = s.free := rfl

/-! ### `State.setCtx` -/

@[simp] theorem State.setCtx_pending (s : State) (g : Fin 8) (x : Fin 64) (c : SeqCtx) : (s.setCtx g x c).pending = s.pending := rfl
@[simp] theorem State.setCtx_sys (s : State) (g : Fin 8) (x : Fin 64) (c : SeqCtx) : (s.setCtx g x c).sys = s.sys := rfl
@[simp] theorem State.setCtx_regs (s : State) (g : Fin 8) (x : Fin 64) (c : SeqCtx) : (s.setCtx g x c).regs = s.regs := rfl
@[simp] theorem State.setCtx_front (s : State) (g : Fin 8) (x : Fin 64) (c : SeqCtx) : (s.setCtx g x c).front = s.front := rfl
@[simp] theorem State.setCtx_con (s : State) (g : Fin 8) (x : Fin 64) (c : SeqCtx) : (s.setCtx g x c).con = s.con := rfl
@[simp] theorem State.setCtx_settings (s : State) (g : Fin 8) (x : Fin 64) (c : SeqCtx) : (s.setCtx g x c).settings = s.settings := rfl
@[simp] theorem State.setCtx_bst (s : State) (g : Fin 8) (x : Fin 64) (c : SeqCtx) : (s.setCtx g x c).bst = s.bst := rfl
@[simp] theorem State.setCtx_cdc (s : State) (g : Fin 8) (x : Fin 64) (c : SeqCtx) : (s.setCtx g x c).cdc = s.cdc := rfl
@[simp] theorem State.setCtx_map (s : State) (g : Fin 8) (x : Fin 64) (c : SeqCtx) : (s.setCtx g x c).map = s.map := rfl
@[simp] theorem State.setCtx_media (s : State) (g : Fin 8) (x : Fin 64) (c : SeqCtx) : (s.setCtx g x c).media = s.media := rfl
@[simp] theorem State.setCtx_assay (s : State) (g : Fin 8) (x : Fin 64) (c : SeqCtx) : (s.setCtx g x c).assay = s.assay := rfl
@[simp] theorem State.setCtx_gov (s : State) (g : Fin 8) (x : Fin 64) (c : SeqCtx) : (s.setCtx g x c).gov = s.gov := rfl
@[simp] theorem State.setCtx_teth (s : State) (g : Fin 8) (x : Fin 64) (c : SeqCtx) : (s.setCtx g x c).teth = s.teth := rfl
@[simp] theorem State.setCtx_kpr (s : State) (g : Fin 8) (x : Fin 64) (c : SeqCtx) : (s.setCtx g x c).kpr = s.kpr := rfl
@[simp] theorem State.setCtx_dma (s : State) (g : Fin 8) (x : Fin 64) (c : SeqCtx) : (s.setCtx g x c).dma = s.dma := rfl
@[simp] theorem State.setCtx_mpu (s : State) (g : Fin 8) (x : Fin 64) (c : SeqCtx) : (s.setCtx g x c).mpu = s.mpu := rfl
@[simp] theorem State.setCtx_lan (s : State) (g : Fin 8) (x : Fin 64) (c : SeqCtx) : (s.setCtx g x c).lan = s.lan := rfl
@[simp] theorem State.setCtx_vault (s : State) (g : Fin 8) (x : Fin 64) (c : SeqCtx) : (s.setCtx g x c).vault = s.vault := rfl
@[simp] theorem State.setCtx_free (s : State) (g : Fin 8) (x : Fin 64) (c : SeqCtx) : (s.setCtx g x c).free = s.free := rfl

/-! ### `State.setOp` -/

@[simp] theorem State.setOp_pending (s : State) (g : Fin 8) (id : Nat) (f : GOp → GOp) : (s.setOp g id f).pending = s.pending := rfl
@[simp] theorem State.setOp_sys (s : State) (g : Fin 8) (id : Nat) (f : GOp → GOp) : (s.setOp g id f).sys = s.sys := rfl
@[simp] theorem State.setOp_regs (s : State) (g : Fin 8) (id : Nat) (f : GOp → GOp) : (s.setOp g id f).regs = s.regs := rfl
@[simp] theorem State.setOp_front (s : State) (g : Fin 8) (id : Nat) (f : GOp → GOp) : (s.setOp g id f).front = s.front := rfl
@[simp] theorem State.setOp_con (s : State) (g : Fin 8) (id : Nat) (f : GOp → GOp) : (s.setOp g id f).con = s.con := rfl
@[simp] theorem State.setOp_settings (s : State) (g : Fin 8) (id : Nat) (f : GOp → GOp) : (s.setOp g id f).settings = s.settings := rfl
@[simp] theorem State.setOp_bst (s : State) (g : Fin 8) (id : Nat) (f : GOp → GOp) : (s.setOp g id f).bst = s.bst := rfl
@[simp] theorem State.setOp_cdc (s : State) (g : Fin 8) (id : Nat) (f : GOp → GOp) : (s.setOp g id f).cdc = s.cdc := rfl
@[simp] theorem State.setOp_map (s : State) (g : Fin 8) (id : Nat) (f : GOp → GOp) : (s.setOp g id f).map = s.map := rfl
@[simp] theorem State.setOp_media (s : State) (g : Fin 8) (id : Nat) (f : GOp → GOp) : (s.setOp g id f).media = s.media := rfl
@[simp] theorem State.setOp_assay (s : State) (g : Fin 8) (id : Nat) (f : GOp → GOp) : (s.setOp g id f).assay = s.assay := rfl
@[simp] theorem State.setOp_gov (s : State) (g : Fin 8) (id : Nat) (f : GOp → GOp) : (s.setOp g id f).gov = s.gov := rfl
@[simp] theorem State.setOp_teth (s : State) (g : Fin 8) (id : Nat) (f : GOp → GOp) : (s.setOp g id f).teth = s.teth := rfl
@[simp] theorem State.setOp_kpr (s : State) (g : Fin 8) (id : Nat) (f : GOp → GOp) : (s.setOp g id f).kpr = s.kpr := rfl
@[simp] theorem State.setOp_dma (s : State) (g : Fin 8) (id : Nat) (f : GOp → GOp) : (s.setOp g id f).dma = s.dma := rfl
@[simp] theorem State.setOp_mpu (s : State) (g : Fin 8) (id : Nat) (f : GOp → GOp) : (s.setOp g id f).mpu = s.mpu := rfl
@[simp] theorem State.setOp_lan (s : State) (g : Fin 8) (id : Nat) (f : GOp → GOp) : (s.setOp g id f).lan = s.lan := rfl
@[simp] theorem State.setOp_vault (s : State) (g : Fin 8) (id : Nat) (f : GOp → GOp) : (s.setOp g id f).vault = s.vault := rfl
@[simp] theorem State.setOp_free (s : State) (g : Fin 8) (id : Nat) (f : GOp → GOp) : (s.setOp g id f).free = s.free := rfl

/-! ### `State.kprCe` -/

@[simp] theorem State.kprCe_pending (s : State) (i src : Nat) (syn : Byte) : (s.kprCe i src syn).pending = s.pending := rfl
@[simp] theorem State.kprCe_con (s : State) (i src : Nat) (syn : Byte) : (s.kprCe i src syn).con = s.con := rfl
@[simp] theorem State.kprCe_settings (s : State) (i src : Nat) (syn : Byte) : (s.kprCe i src syn).settings = s.settings := rfl
@[simp] theorem State.kprCe_bst (s : State) (i src : Nat) (syn : Byte) : (s.kprCe i src syn).bst = s.bst := rfl
@[simp] theorem State.kprCe_gals (s : State) (i src : Nat) (syn : Byte) : (s.kprCe i src syn).gals = s.gals := rfl
@[simp] theorem State.kprCe_cdc (s : State) (i src : Nat) (syn : Byte) : (s.kprCe i src syn).cdc = s.cdc := rfl
@[simp] theorem State.kprCe_map (s : State) (i src : Nat) (syn : Byte) : (s.kprCe i src syn).map = s.map := rfl
@[simp] theorem State.kprCe_media (s : State) (i src : Nat) (syn : Byte) : (s.kprCe i src syn).media = s.media := rfl
@[simp] theorem State.kprCe_assay (s : State) (i src : Nat) (syn : Byte) : (s.kprCe i src syn).assay = s.assay := rfl
@[simp] theorem State.kprCe_gov (s : State) (i src : Nat) (syn : Byte) : (s.kprCe i src syn).gov = s.gov := rfl
@[simp] theorem State.kprCe_teth (s : State) (i src : Nat) (syn : Byte) : (s.kprCe i src syn).teth = s.teth := rfl
@[simp] theorem State.kprCe_kpr (s : State) (i src : Nat) (syn : Byte) : (s.kprCe i src syn).kpr = s.kpr := rfl
@[simp] theorem State.kprCe_dma (s : State) (i src : Nat) (syn : Byte) : (s.kprCe i src syn).dma = s.dma := rfl
@[simp] theorem State.kprCe_mpu (s : State) (i src : Nat) (syn : Byte) : (s.kprCe i src syn).mpu = s.mpu := rfl
@[simp] theorem State.kprCe_lan (s : State) (i src : Nat) (syn : Byte) : (s.kprCe i src syn).lan = s.lan := rfl
@[simp] theorem State.kprCe_vault (s : State) (i src : Nat) (syn : Byte) : (s.kprCe i src syn).vault = s.vault := rfl
@[simp] theorem State.kprCe_free (s : State) (i src : Nat) (syn : Byte) : (s.kprCe i src syn).free = s.free := rfl

/-! ### `State.sense` -/

@[simp] theorem State.sense_pending (s : State) (k : Nat) (on : Bool) : (s.sense k on).pending = s.pending := rfl
@[simp] theorem State.sense_sys (s : State) (k : Nat) (on : Bool) : (s.sense k on).sys = s.sys := rfl
@[simp] theorem State.sense_regs (s : State) (k : Nat) (on : Bool) : (s.sense k on).regs = s.regs := rfl
@[simp] theorem State.sense_front (s : State) (k : Nat) (on : Bool) : (s.sense k on).front = s.front := rfl
@[simp] theorem State.sense_con (s : State) (k : Nat) (on : Bool) : (s.sense k on).con = s.con := rfl
@[simp] theorem State.sense_settings (s : State) (k : Nat) (on : Bool) : (s.sense k on).settings = s.settings := rfl
@[simp] theorem State.sense_bst (s : State) (k : Nat) (on : Bool) : (s.sense k on).bst = s.bst := rfl
@[simp] theorem State.sense_gals (s : State) (k : Nat) (on : Bool) : (s.sense k on).gals = s.gals := rfl
@[simp] theorem State.sense_cdc (s : State) (k : Nat) (on : Bool) : (s.sense k on).cdc = s.cdc := rfl
@[simp] theorem State.sense_map (s : State) (k : Nat) (on : Bool) : (s.sense k on).map = s.map := rfl
@[simp] theorem State.sense_media (s : State) (k : Nat) (on : Bool) : (s.sense k on).media = s.media := rfl
@[simp] theorem State.sense_assay (s : State) (k : Nat) (on : Bool) : (s.sense k on).assay = s.assay := rfl
@[simp] theorem State.sense_gov (s : State) (k : Nat) (on : Bool) : (s.sense k on).gov = s.gov := rfl
@[simp] theorem State.sense_teth (s : State) (k : Nat) (on : Bool) : (s.sense k on).teth = s.teth := rfl
@[simp] theorem State.sense_kpr (s : State) (k : Nat) (on : Bool) : (s.sense k on).kpr = s.kpr := rfl
@[simp] theorem State.sense_dma (s : State) (k : Nat) (on : Bool) : (s.sense k on).dma = s.dma := rfl
@[simp] theorem State.sense_mpu (s : State) (k : Nat) (on : Bool) : (s.sense k on).mpu = s.mpu := rfl
@[simp] theorem State.sense_lan (s : State) (k : Nat) (on : Bool) : (s.sense k on).lan = s.lan := rfl
@[simp] theorem State.sense_free (s : State) (k : Nat) (on : Bool) : (s.sense k on).free = s.free := rfl

/-! ### `State.cycles` -/

@[simp] theorem State.cycles_pending (s : State) (g : Fin 8) (x : Fin 64) (l : List BusCycle) : (s.cycles g x l).pending = s.pending := rfl
@[simp] theorem State.cycles_sys (s : State) (g : Fin 8) (x : Fin 64) (l : List BusCycle) : (s.cycles g x l).sys = s.sys := rfl
@[simp] theorem State.cycles_regs (s : State) (g : Fin 8) (x : Fin 64) (l : List BusCycle) : (s.cycles g x l).regs = s.regs := rfl
@[simp] theorem State.cycles_front (s : State) (g : Fin 8) (x : Fin 64) (l : List BusCycle) : (s.cycles g x l).front = s.front := rfl
@[simp] theorem State.cycles_con (s : State) (g : Fin 8) (x : Fin 64) (l : List BusCycle) : (s.cycles g x l).con = s.con := rfl
@[simp] theorem State.cycles_settings (s : State) (g : Fin 8) (x : Fin 64) (l : List BusCycle) : (s.cycles g x l).settings = s.settings := rfl
@[simp] theorem State.cycles_bst (s : State) (g : Fin 8) (x : Fin 64) (l : List BusCycle) : (s.cycles g x l).bst = s.bst := rfl
@[simp] theorem State.cycles_cdc (s : State) (g : Fin 8) (x : Fin 64) (l : List BusCycle) : (s.cycles g x l).cdc = s.cdc := rfl
@[simp] theorem State.cycles_map (s : State) (g : Fin 8) (x : Fin 64) (l : List BusCycle) : (s.cycles g x l).map = s.map := rfl
@[simp] theorem State.cycles_media (s : State) (g : Fin 8) (x : Fin 64) (l : List BusCycle) : (s.cycles g x l).media = s.media := rfl
@[simp] theorem State.cycles_assay (s : State) (g : Fin 8) (x : Fin 64) (l : List BusCycle) : (s.cycles g x l).assay = s.assay := rfl
@[simp] theorem State.cycles_gov (s : State) (g : Fin 8) (x : Fin 64) (l : List BusCycle) : (s.cycles g x l).gov = s.gov := rfl
@[simp] theorem State.cycles_teth (s : State) (g : Fin 8) (x : Fin 64) (l : List BusCycle) : (s.cycles g x l).teth = s.teth := rfl
@[simp] theorem State.cycles_kpr (s : State) (g : Fin 8) (x : Fin 64) (l : List BusCycle) : (s.cycles g x l).kpr = s.kpr := rfl
@[simp] theorem State.cycles_dma (s : State) (g : Fin 8) (x : Fin 64) (l : List BusCycle) : (s.cycles g x l).dma = s.dma := rfl
@[simp] theorem State.cycles_mpu (s : State) (g : Fin 8) (x : Fin 64) (l : List BusCycle) : (s.cycles g x l).mpu = s.mpu := rfl
@[simp] theorem State.cycles_lan (s : State) (g : Fin 8) (x : Fin 64) (l : List BusCycle) : (s.cycles g x l).lan = s.lan := rfl
@[simp] theorem State.cycles_vault (s : State) (g : Fin 8) (x : Fin 64) (l : List BusCycle) : (s.cycles g x l).vault = s.vault := rfl
@[simp] theorem State.cycles_free (s : State) (g : Fin 8) (x : Fin 64) (l : List BusCycle) : (s.cycles g x l).free = s.free := rfl

/-! ### `State.seqAdvance` -/

@[simp] theorem State.seqAdvance_pending (s : State) (g : Fin 8) (x : Fin 64) (c : SeqCtx) : (s.seqAdvance g x c).pending = s.pending := rfl
@[simp] theorem State.seqAdvance_sys (s : State) (g : Fin 8) (x : Fin 64) (c : SeqCtx) : (s.seqAdvance g x c).sys = s.sys := rfl
@[simp] theorem State.seqAdvance_regs (s : State) (g : Fin 8) (x : Fin 64) (c : SeqCtx) : (s.seqAdvance g x c).regs = s.regs := rfl
@[simp] theorem State.seqAdvance_front (s : State) (g : Fin 8) (x : Fin 64) (c : SeqCtx) : (s.seqAdvance g x c).front = s.front := rfl
@[simp] theorem State.seqAdvance_con (s : State) (g : Fin 8) (x : Fin 64) (c : SeqCtx) : (s.seqAdvance g x c).con = s.con := rfl
@[simp] theorem State.seqAdvance_settings (s : State) (g : Fin 8) (x : Fin 64) (c : SeqCtx) : (s.seqAdvance g x c).settings = s.settings := rfl
@[simp] theorem State.seqAdvance_bst (s : State) (g : Fin 8) (x : Fin 64) (c : SeqCtx) : (s.seqAdvance g x c).bst = s.bst := rfl
@[simp] theorem State.seqAdvance_cdc (s : State) (g : Fin 8) (x : Fin 64) (c : SeqCtx) : (s.seqAdvance g x c).cdc = s.cdc := rfl
@[simp] theorem State.seqAdvance_map (s : State) (g : Fin 8) (x : Fin 64) (c : SeqCtx) : (s.seqAdvance g x c).map = s.map := rfl
@[simp] theorem State.seqAdvance_media (s : State) (g : Fin 8) (x : Fin 64) (c : SeqCtx) : (s.seqAdvance g x c).media = s.media := rfl
@[simp] theorem State.seqAdvance_assay (s : State) (g : Fin 8) (x : Fin 64) (c : SeqCtx) : (s.seqAdvance g x c).assay = s.assay := rfl
@[simp] theorem State.seqAdvance_gov (s : State) (g : Fin 8) (x : Fin 64) (c : SeqCtx) : (s.seqAdvance g x c).gov = s.gov := rfl
@[simp] theorem State.seqAdvance_teth (s : State) (g : Fin 8) (x : Fin 64) (c : SeqCtx) : (s.seqAdvance g x c).teth = s.teth := rfl
@[simp] theorem State.seqAdvance_kpr (s : State) (g : Fin 8) (x : Fin 64) (c : SeqCtx) : (s.seqAdvance g x c).kpr = s.kpr := rfl
@[simp] theorem State.seqAdvance_dma (s : State) (g : Fin 8) (x : Fin 64) (c : SeqCtx) : (s.seqAdvance g x c).dma = s.dma := rfl
@[simp] theorem State.seqAdvance_mpu (s : State) (g : Fin 8) (x : Fin 64) (c : SeqCtx) : (s.seqAdvance g x c).mpu = s.mpu := rfl
@[simp] theorem State.seqAdvance_lan (s : State) (g : Fin 8) (x : Fin 64) (c : SeqCtx) : (s.seqAdvance g x c).lan = s.lan := rfl
@[simp] theorem State.seqAdvance_vault (s : State) (g : Fin 8) (x : Fin 64) (c : SeqCtx) : (s.seqAdvance g x c).vault = s.vault := rfl
@[simp] theorem State.seqAdvance_free (s : State) (g : Fin 8) (x : Fin 64) (c : SeqCtx) : (s.seqAdvance g x c).free = s.free := rfl

/-! ### `State.yieldBus` -/

@[simp] theorem State.yieldBus_pending (s : State) (g : Fin 8) (x : Fin 64) : (s.yieldBus g x).pending = s.pending := rfl
@[simp] theorem State.yieldBus_sys (s : State) (g : Fin 8) (x : Fin 64) : (s.yieldBus g x).sys = s.sys := rfl
@[simp] theorem State.yieldBus_regs (s : State) (g : Fin 8) (x : Fin 64) : (s.yieldBus g x).regs = s.regs := rfl
@[simp] theorem State.yieldBus_front (s : State) (g : Fin 8) (x : Fin 64) : (s.yieldBus g x).front = s.front := rfl
@[simp] theorem State.yieldBus_con (s : State) (g : Fin 8) (x : Fin 64) : (s.yieldBus g x).con = s.con := rfl
@[simp] theorem State.yieldBus_settings (s : State) (g : Fin 8) (x : Fin 64) : (s.yieldBus g x).settings = s.settings := rfl
@[simp] theorem State.yieldBus_bst (s : State) (g : Fin 8) (x : Fin 64) : (s.yieldBus g x).bst = s.bst := rfl
@[simp] theorem State.yieldBus_cdc (s : State) (g : Fin 8) (x : Fin 64) : (s.yieldBus g x).cdc = s.cdc := rfl
@[simp] theorem State.yieldBus_map (s : State) (g : Fin 8) (x : Fin 64) : (s.yieldBus g x).map = s.map := rfl
@[simp] theorem State.yieldBus_media (s : State) (g : Fin 8) (x : Fin 64) : (s.yieldBus g x).media = s.media := rfl
@[simp] theorem State.yieldBus_assay (s : State) (g : Fin 8) (x : Fin 64) : (s.yieldBus g x).assay = s.assay := rfl
@[simp] theorem State.yieldBus_gov (s : State) (g : Fin 8) (x : Fin 64) : (s.yieldBus g x).gov = s.gov := rfl
@[simp] theorem State.yieldBus_teth (s : State) (g : Fin 8) (x : Fin 64) : (s.yieldBus g x).teth = s.teth := rfl
@[simp] theorem State.yieldBus_kpr (s : State) (g : Fin 8) (x : Fin 64) : (s.yieldBus g x).kpr = s.kpr := rfl
@[simp] theorem State.yieldBus_dma (s : State) (g : Fin 8) (x : Fin 64) : (s.yieldBus g x).dma = s.dma := rfl
@[simp] theorem State.yieldBus_mpu (s : State) (g : Fin 8) (x : Fin 64) : (s.yieldBus g x).mpu = s.mpu := rfl
@[simp] theorem State.yieldBus_lan (s : State) (g : Fin 8) (x : Fin 64) : (s.yieldBus g x).lan = s.lan := rfl
@[simp] theorem State.yieldBus_vault (s : State) (g : Fin 8) (x : Fin 64) : (s.yieldBus g x).vault = s.vault := rfl
@[simp] theorem State.yieldBus_free (s : State) (g : Fin 8) (x : Fin 64) : (s.yieldBus g x).free = s.free := rfl

/-! ### `State.beginList` -/

@[simp] theorem State.beginList_pending (s : State) (g : Fin 8) (x : Fin 64) (c : SeqCtx) : (s.beginList g x c).pending = s.pending := rfl
@[simp] theorem State.beginList_sys (s : State) (g : Fin 8) (x : Fin 64) (c : SeqCtx) : (s.beginList g x c).sys = s.sys := rfl
@[simp] theorem State.beginList_regs (s : State) (g : Fin 8) (x : Fin 64) (c : SeqCtx) : (s.beginList g x c).regs = s.regs := rfl
@[simp] theorem State.beginList_front (s : State) (g : Fin 8) (x : Fin 64) (c : SeqCtx) : (s.beginList g x c).front = s.front := rfl
@[simp] theorem State.beginList_con (s : State) (g : Fin 8) (x : Fin 64) (c : SeqCtx) : (s.beginList g x c).con = s.con := rfl
@[simp] theorem State.beginList_settings (s : State) (g : Fin 8) (x : Fin 64) (c : SeqCtx) : (s.beginList g x c).settings = s.settings := rfl
@[simp] theorem State.beginList_bst (s : State) (g : Fin 8) (x : Fin 64) (c : SeqCtx) : (s.beginList g x c).bst = s.bst := rfl
@[simp] theorem State.beginList_cdc (s : State) (g : Fin 8) (x : Fin 64) (c : SeqCtx) : (s.beginList g x c).cdc = s.cdc := rfl
@[simp] theorem State.beginList_map (s : State) (g : Fin 8) (x : Fin 64) (c : SeqCtx) : (s.beginList g x c).map = s.map := rfl
@[simp] theorem State.beginList_media (s : State) (g : Fin 8) (x : Fin 64) (c : SeqCtx) : (s.beginList g x c).media = s.media := rfl
@[simp] theorem State.beginList_assay (s : State) (g : Fin 8) (x : Fin 64) (c : SeqCtx) : (s.beginList g x c).assay = s.assay := rfl
@[simp] theorem State.beginList_gov (s : State) (g : Fin 8) (x : Fin 64) (c : SeqCtx) : (s.beginList g x c).gov = s.gov := rfl
@[simp] theorem State.beginList_teth (s : State) (g : Fin 8) (x : Fin 64) (c : SeqCtx) : (s.beginList g x c).teth = s.teth := rfl
@[simp] theorem State.beginList_kpr (s : State) (g : Fin 8) (x : Fin 64) (c : SeqCtx) : (s.beginList g x c).kpr = s.kpr := rfl
@[simp] theorem State.beginList_dma (s : State) (g : Fin 8) (x : Fin 64) (c : SeqCtx) : (s.beginList g x c).dma = s.dma := rfl
@[simp] theorem State.beginList_mpu (s : State) (g : Fin 8) (x : Fin 64) (c : SeqCtx) : (s.beginList g x c).mpu = s.mpu := rfl
@[simp] theorem State.beginList_lan (s : State) (g : Fin 8) (x : Fin 64) (c : SeqCtx) : (s.beginList g x c).lan = s.lan := rfl
@[simp] theorem State.beginList_vault (s : State) (g : Fin 8) (x : Fin 64) (c : SeqCtx) : (s.beginList g x c).vault = s.vault := rfl
@[simp] theorem State.beginList_free (s : State) (g : Fin 8) (x : Fin 64) (c : SeqCtx) : (s.beginList g x c).free = s.free := rfl

/-! ### `State.driveWp` -/

@[simp] theorem State.driveWp_pending (s : State) (g : Fin 8) (high : Bool) : (s.driveWp g high).pending = s.pending := rfl
@[simp] theorem State.driveWp_sys (s : State) (g : Fin 8) (high : Bool) : (s.driveWp g high).sys = s.sys := rfl
@[simp] theorem State.driveWp_regs (s : State) (g : Fin 8) (high : Bool) : (s.driveWp g high).regs = s.regs := rfl
@[simp] theorem State.driveWp_front (s : State) (g : Fin 8) (high : Bool) : (s.driveWp g high).front = s.front := rfl
@[simp] theorem State.driveWp_con (s : State) (g : Fin 8) (high : Bool) : (s.driveWp g high).con = s.con := rfl
@[simp] theorem State.driveWp_settings (s : State) (g : Fin 8) (high : Bool) : (s.driveWp g high).settings = s.settings := rfl
@[simp] theorem State.driveWp_bst (s : State) (g : Fin 8) (high : Bool) : (s.driveWp g high).bst = s.bst := rfl
@[simp] theorem State.driveWp_cdc (s : State) (g : Fin 8) (high : Bool) : (s.driveWp g high).cdc = s.cdc := rfl
@[simp] theorem State.driveWp_map (s : State) (g : Fin 8) (high : Bool) : (s.driveWp g high).map = s.map := rfl
@[simp] theorem State.driveWp_media (s : State) (g : Fin 8) (high : Bool) : (s.driveWp g high).media = s.media := rfl
@[simp] theorem State.driveWp_assay (s : State) (g : Fin 8) (high : Bool) : (s.driveWp g high).assay = s.assay := rfl
@[simp] theorem State.driveWp_gov (s : State) (g : Fin 8) (high : Bool) : (s.driveWp g high).gov = s.gov := rfl
@[simp] theorem State.driveWp_teth (s : State) (g : Fin 8) (high : Bool) : (s.driveWp g high).teth = s.teth := rfl
@[simp] theorem State.driveWp_kpr (s : State) (g : Fin 8) (high : Bool) : (s.driveWp g high).kpr = s.kpr := rfl
@[simp] theorem State.driveWp_dma (s : State) (g : Fin 8) (high : Bool) : (s.driveWp g high).dma = s.dma := rfl
@[simp] theorem State.driveWp_mpu (s : State) (g : Fin 8) (high : Bool) : (s.driveWp g high).mpu = s.mpu := rfl
@[simp] theorem State.driveWp_lan (s : State) (g : Fin 8) (high : Bool) : (s.driveWp g high).lan = s.lan := rfl
@[simp] theorem State.driveWp_vault (s : State) (g : Fin 8) (high : Bool) : (s.driveWp g high).vault = s.vault := rfl
@[simp] theorem State.driveWp_free (s : State) (g : Fin 8) (high : Bool) : (s.driveWp g high).free = s.free := rfl

/-! ### `State.ctxState` -/

@[simp] theorem State.ctxState_pending (s : State) (g : Fin 8) (n : Nat) (st : CtxState) : (s.ctxState g n st).pending = s.pending := rfl
@[simp] theorem State.ctxState_sys (s : State) (g : Fin 8) (n : Nat) (st : CtxState) : (s.ctxState g n st).sys = s.sys := rfl
@[simp] theorem State.ctxState_regs (s : State) (g : Fin 8) (n : Nat) (st : CtxState) : (s.ctxState g n st).regs = s.regs := rfl
@[simp] theorem State.ctxState_front (s : State) (g : Fin 8) (n : Nat) (st : CtxState) : (s.ctxState g n st).front = s.front := rfl
@[simp] theorem State.ctxState_con (s : State) (g : Fin 8) (n : Nat) (st : CtxState) : (s.ctxState g n st).con = s.con := rfl
@[simp] theorem State.ctxState_settings (s : State) (g : Fin 8) (n : Nat) (st : CtxState) : (s.ctxState g n st).settings = s.settings := rfl
@[simp] theorem State.ctxState_bst (s : State) (g : Fin 8) (n : Nat) (st : CtxState) : (s.ctxState g n st).bst = s.bst := rfl
@[simp] theorem State.ctxState_cdc (s : State) (g : Fin 8) (n : Nat) (st : CtxState) : (s.ctxState g n st).cdc = s.cdc := rfl
@[simp] theorem State.ctxState_map (s : State) (g : Fin 8) (n : Nat) (st : CtxState) : (s.ctxState g n st).map = s.map := rfl
@[simp] theorem State.ctxState_media (s : State) (g : Fin 8) (n : Nat) (st : CtxState) : (s.ctxState g n st).media = s.media := rfl
@[simp] theorem State.ctxState_assay (s : State) (g : Fin 8) (n : Nat) (st : CtxState) : (s.ctxState g n st).assay = s.assay := rfl
@[simp] theorem State.ctxState_gov (s : State) (g : Fin 8) (n : Nat) (st : CtxState) : (s.ctxState g n st).gov = s.gov := rfl
@[simp] theorem State.ctxState_teth (s : State) (g : Fin 8) (n : Nat) (st : CtxState) : (s.ctxState g n st).teth = s.teth := rfl
@[simp] theorem State.ctxState_kpr (s : State) (g : Fin 8) (n : Nat) (st : CtxState) : (s.ctxState g n st).kpr = s.kpr := rfl
@[simp] theorem State.ctxState_dma (s : State) (g : Fin 8) (n : Nat) (st : CtxState) : (s.ctxState g n st).dma = s.dma := rfl
@[simp] theorem State.ctxState_mpu (s : State) (g : Fin 8) (n : Nat) (st : CtxState) : (s.ctxState g n st).mpu = s.mpu := rfl
@[simp] theorem State.ctxState_lan (s : State) (g : Fin 8) (n : Nat) (st : CtxState) : (s.ctxState g n st).lan = s.lan := rfl
@[simp] theorem State.ctxState_vault (s : State) (g : Fin 8) (n : Nat) (st : CtxState) : (s.ctxState g n st).vault = s.vault := rfl
@[simp] theorem State.ctxState_free (s : State) (g : Fin 8) (n : Nat) (st : CtxState) : (s.ctxState g n st).free = s.free := rfl

end Sys2Proof.Machine
end

