-- ==== Sys2Proof/Laws/Taken.lean ====
section
/-! SUPPORT. What the shared ways of taking a command do, once for each: a host command that can be at Front, a line the console takes, a frame that
arrives in order, an op of a context, a request of the debug port. -/

namespace Sys2Proof.Machine

theorem host_eq {s : State} {h : Hdr} {i : Instr} (f : State → State) (p : s.takes h i = true) : s.host h i f = f (s.taken h i) := by
  unfold State.takes at p; unfold State.host State.taken; rw [if_pos p]

theorem host_waits {s : State} {h : Hdr} {i : Instr} (f : State → State) (p : s.takes h i = false) : s.host h i f = s := by
  unfold State.takes at p; unfold State.host; rw [p]; rfl

@[simp] theorem sendF0_failNext (b : BootStore) : b.sendF0.failNext = b.failNext := by
  unfold BootStore.sendF0; split <;> rfl

theorem fwProgram_true {s : State} (off : Nat) (l : List Nat) (p : s.bst.failNext = false) :
    s.fwProgram off l = (true, (s.fwProgram off l).2) := by
  simp [State.fwProgram, p]

theorem jRoll_keeps (b : BootStore) (n : Nat) : (b.jRoll n).jNext = b.jNext ∧ (b.jRoll n).failNext = b.failNext := by
  constructor <;> rfl

theorem journalAdd_eq {s : State} (src dev : Nat) (text : List Byte) (p : s.bst.failNext = false) :
    s.journalAdd src dev text = (some s.bst.jNext, (s.journalAdd src dev text).2) := by
  unfold State.journalAdd
  generalize e : (if s.bst.jSector = 0 ∨ s.bst.jFill + jLen text.length > 0x10000 then s.bst.jRoll s.bst.jNext else s.bst) = b
  have q : b.failNext = false ∧ b.jNext = s.bst.jNext := by
    subst e; split
    · exact ⟨(jRoll_keeps _ _).2.trans p, (jRoll_keeps _ _).1⟩
    · exact ⟨p, rfl⟩
  dsimp only
  rw [fwProgram_true (s := { s with bst := b }) _ _ q.1, q.2]

theorem lineRow_reads {s : State} {l : LineCtx} {i : Instr} (f : Option Nat → State → State) (p : s.takesLine = true)
    (r : recorded i = false) : s.lineRow l i f = f none s := by
  unfold State.takesLine at p; simp only [Bool.and_eq_true, Bool.not_eq_true'] at p
  unfold State.lineRow State.execLine; simp [p, r]

theorem lineRow_enters {s : State} {l : LineCtx} {i : Instr} (f : Option Nat → State → State) (p : s.takesEntry = true)
    (r : recorded i = true) : s.lineRow l i f = f (some s.bst.jNext) (s.entered l i) := by
  unfold State.takesEntry State.takesLine at p; simp only [Bool.and_eq_true, Bool.not_eq_true'] at p
  unfold State.lineRow State.execLine State.entered; rw [journalAdd_eq _ _ _ p.2]; simp [p, r]

theorem rxSeqd_eq {s : State} {p : Port} {f : FrameHdr} (type : Nat) (act : State → State) (r : s.receives p f = true) :
    s.rxSeqd p f type act = act (s.received p f type) := by
  unfold State.receives at r; simp only [Bool.and_eq_true, beq_iff_eq] at r
  unfold State.rxSeqd State.received; simp [r]

theorem rxRouted_eq {s : State} {p : Port} {f : FrameHdr} (type arg : Nat) (body : FBody) (act : State → State) (r : s.receives p f = true)
    (d : f.dst.val = (s.received p f type).index) : s.rxRouted p f type arg body act = act (s.received p f type) := by
  unfold State.rxRouted; rw [rxSeqd_eq _ _ r, if_pos d]

theorem rxOrder_eq {s : State} {p : Port} {f : FrameHdr} (sub : Nat) (arg : Byte) (act : State → State) (r : s.receives p f = true)
    (d : f.dst.val = (s.received p f 5).index) : s.rxOrder p f sub arg.toNat act = act (s.ordered p f arg) := by
  unfold State.rxOrder; rw [rxRouted_eq _ _ _ _ r d]; rfl

theorem rxOrder_zero {s : State} {p : Port} {f : FrameHdr} (sub : Nat) (act : State → State) (r : s.receives p f = true)
    (d : f.dst.val = (s.received p f 5).index) : s.rxOrder p f sub 0 act = act (s.ordered p f 0) := rxOrder_eq sub 0 act r d

theorem seq_bus {s : State} {g : Fin 8} {x : Fin 64} {code : Nat} {c : SeqCtx} {w : Word} (f : State → SeqCtx → Word → State)
    (p : s.runsOp g x code c w = true) (b : busOp code = true) : s.seq g x code f = f (s.busTaken g x) { c with st := .bus } w := by
  unfold State.runsOp at p; simp only [Bool.and_eq_true, beq_iff_eq] at p
  unfold State.seq State.busTaken; simp_all

theorem seq_plain {s : State} {g : Fin 8} {x : Fin 64} {code : Nat} {c : SeqCtx} {w : Word} (f : State → SeqCtx → Word → State)
    (p : s.runsOp g x code c w = true) (b : busOp code = false) : s.seq g x code f = f s c w := by
  unfold State.runsOp at p; simp only [Bool.and_eq_true, beq_iff_eq] at p
  unfold State.seq; simp_all

theorem lanternReq_eq {s : State} (act denied : State → State) (p : s.lanternServes = true) : s.lanternReq true act denied = act s := by
  unfold State.lanternServes at p; simp only [Bool.and_eq_true, Bool.not_eq_true'] at p
  unfold State.lanternReq; simp [p]

theorem scanReq_eq {s : State} (act : State → State) (p : s.scanServes = true) : s.scanReq act = act s.scanned := by
  unfold State.scanServes at p; simp only [Bool.and_eq_true, Bool.not_eq_true', Bool.or_eq_true] at p
  unfold State.scanReq; rw [lanternReq_eq _ _ p.1.1]; simp [p, State.scanned]

/-- A check that fails ends the line; with none the line goes on. -/
theorem checked_cons {s : State} (c : LineCtx) (j : Option Nat) (b : Bool) (st : Status) (l : List (Bool × Status)) (f : State → State) :
    s.checked c j ((b, st) :: l) f = if b then s.finishLine c j [] st else s.checked c j l f := by
  cases b <;> simp [State.checked, firstBad]

theorem checked_nil {s : State} (c : LineCtx) (j : Option Nat) (f : State → State) : s.checked c j [] f = f s := rfl

end Sys2Proof.Machine
end

