-- ==== Sys2Proof/Machine/Frames.lean ====
section
/-! DEFINITION. A Tether frame on the wire, byte for byte (R393 to R399, R403, R404): header, payload and CRC-32C of the frames that `sent` and `replay`
hold. -/

namespace Sys2Proof.Machine

/-- A frame's payload. -/
def Frame.payload (f : Frame) : List Nat :=
  match f.body with
  | .none => if f.type = 5 then padTo 8 [f.arg % 256, f.arg / 256 % 256] else []
  | .line t => padTo (8 * ceilDiv t.length 8) (t.map (·.toNat))
  | .data d => d.bytes.take f.arg
  | .part b =>
    [b.opcode.toNat, b.nsid.val + 8 * b2n b.wcache + 16 * b2n b.fua + 32 * b2n b.lba4k + 64 * b2n b.speculative] ++
      leBytes 2 b.ranges.length ++ leBytes 4 b.lbas ++ leBytes 8 b.first ++ List.replicate 16 0 ++
      b.ranges.flatMap fun r => leBytes 4 0 ++ leBytes 4 r.2 ++ leBytes 8 r.1
  | .done b => leBytes 2 (b.sc.toNat + 256 * b.sct.toNat) ++ [0, 0] ++ leBytes 4 b.lbas ++ leBytes 8 b.firstFail
  | .admin b => [b.opcode.toNat, b.flbas.toNat, 0, 0] ++ leBytes 4 b.nsid ++ leBytes 4 b.cdw10.toNat ++ leBytes 4 b.cdw11.toNat ++
      leBytes 8 b.amount ++ leBytes 4 b.bytes ++ leBytes 4 0
  | .alarm origin bit secs => [origin, bit, 0, 0] ++ leBytes 4 secs.toNat
  | .hello b => padTo 16 ([b.strap.val, b.lanes.val + 8 * b.rate.val, b.state.val, b2n b.fresh] ++ leBytes 4 b.chainId.toNat ++ [b.n, b.stripeLog2])

/-- A frame's header; the len field of a CREDIT frame holds the credits returned. -/
def Frame.header (f : Frame) : Nat :=
  f.type + 2 ^ 4 * f.dst.val + 2 ^ 6 * f.src.val + 2 ^ 8 * (f.seq % 4096) + 2 ^ 20 * (if f.type = 10 then f.arg % 4096 else f.units) +
    2 ^ 32 * f.tag.toNat + 2 ^ 48 * (f.index % 65536)

/-- A frame as it is sent: header, payload and the CRC-32C over both. -/
def Frame.wire (f : Frame) : List Nat :=
  let b := leBytes 8 f.header ++ f.payload
  b ++ leBytes 4 (crc32c b)

end Sys2Proof.Machine
end

