-- ==== Sys2Proof/Tests/Slice0.lean ====
section
/-! SUPPORT. Tests of the model: what the well-formedness checks refuse, single steps with results worked out from the rules, and states that meet
the hypotheses of the statements. -/

namespace Sys2Proof.Tests
open Sys2Proof.Machine

-- One theorem at a time: many kernel evaluations waiting for one another would each hold a thread.
set_option Elab.async false

/-! ## What the well-formedness checks refuse -/

def line : LineCtx := ⟨.uart, none, 0, 0⟩
def hdr : Hdr := ⟨0, 1⟩
def hdr1 : Hdr := ⟨1, 1⟩

/-- A tag of five digits (R98). -/
theorem test_wf_tag : Instr.wf (.logTrouble { line with tag := some "12345" }) = false := by decide
/-- A tag that is not of digits (R98). -/
theorem test_wf_tag_letter : Instr.wf (.logTrouble { line with tag := some "1a" }) = false := by decide
/-- Nine commands in one fetch: the arbitration burst is at most eight (R63). -/
theorem test_wf_fetch : Instr.wf (.commandFetch 1 (List.replicate 9 ⟨0, 0, .prp 0 0, 0⟩)) = false := by decide
/-- No LBA, and one more than the 16-bit field can say (R66). -/
theorem test_wf_lbas : Instr.wf (.read hdr1 1 0 0) = false ∧ Instr.wf (.write hdr1 1 0 [] 65537 false) = false ∧
    Instr.wf (.writeZeroes hdr1 1 0 65537) = false ∧ Instr.wf (.verify hdr1 1 0 0) = false := by decide
/-- No range (R76). -/
theorem test_wf_ranges : Instr.wf (.datasetManagement hdr1 1 true []) = false ∧ Instr.wf (.secureDeallocate hdr1 1 []) = false := by decide
/-- More than 256 ranges (R76). -/
theorem test_wf_ranges_many (l : List (Nat × Nat)) (h : 256 < l.length) : Instr.wf (.datasetManagement hdr1 1 true l) = false := by
  have : ¬ (1 ≤ l.length ∧ l.length ≤ 256) := by omega
  simp [Instr.wf, Instr.line?, rangesWf, this]
/-- A console line that is not as long as the command says (R75). -/
theorem test_wf_console : Instr.wf (.consoleSend hdr 3 [0x41]) = false ∧ Instr.wf (.consoleSend hdr 256 (List.replicate 256 0x41)) = false := by decide
/-- A piece of an image that is not as long as the command says (R74). -/
theorem test_wf_download : Instr.wf (.firmwareImageDownload hdr 0 4096 []) = false := by decide
/-- A block of nine words (R488). -/
theorem test_wf_block : Instr.wf (.lanternBlkwr 0 (List.replicate 9 0) none true) = false := by decide
/-- A command with nothing out of bounds passes. -/
theorem test_wf_good : Instr.wf (.logTrouble { line with tag := some "7" }) = true ∧ Instr.wf (.read hdr1 1 0 65536) = true := by decide

/-! ## States to start from -/

/-- A master in service with its controller enabled: the admin queue and one I/O queue pair. -/
def live : State := { State.reset with
  sys := { State.reset.sys with rst := none, toRelease := [], st := .service, released := 0x1F, doms := 0xFF, fw := true, railsGood := true,
                                aonGood := true, strapped := true, lanes := .up, refclk := true }
  front := { en := true, rdy := true
             sqs := [(0, ⟨16, 0, 0, 0⟩), (1, ⟨16, 1, 0, 0⟩)], cqs := [(0, ⟨16, 0, 0, 0⟩), (1, ⟨16, 1, 0, 0⟩)] } }

/-- The same with the controller not enabled. -/
def still : State := { live with front := {} }

/-- A subordinate, at place 1 of its chain. -/
def sub : State := { still with regs := [(0x40000060, 0x1000), (0x40000080, 1), (0x40000088, 1)] }

/-- A profile of four small blocks a chamber, one mode, every page pSLC or native. -/
def prof : Profile :=
  { crc := 0, image := [], readId := [0x98], readIdN := 1, maker := [], model := [], guarded := [], qlc := false, planes := 1, luns := 1, rowCycles := 3, colCycles := 2,
    lunBit := 0, blkBit := 0, ppw := 3, blocks := 4, pagesNative := 6, pagesPslc := 2, pageBytes := 18432, bbmCol := 0, bbmMask := 0, flags := 0,
    ioMv := 1200, modes := [⟨800, 0, 0, 0, 0, []⟩], tReadPslc := (25, 50), tReadNative := (60, 90), tProgPslc := (200, 400),
    tProgNative := (1500, 2500), tErase := (4000, 10000), tReset := (100, 500), suspFlags := 3, suspMax := 4, suspReads := 8, suspLatency := 50,
    minProg := 100, minErase := 500, suspCmd := 0x61, resumeCmd := 0xD2, ofsLo := -100, ofsHi := 100, refTemp := 30,
    ofsDefault := List.replicate 7 0, coef := List.replicate 7 0, retry := [List.replicate 7 0], ratedNative := 3000, ratedPslc := 60000,
    rdNative := 1000, rdPslc := 10000, lists := [(26, ⟨5, [0]⟩)] }

/-- Gallery 0 in service with that profile, its first chamber present. -/
def up : State := State.setRf { live with
  gals := setAt live.gals 0 { live.gals.get 0 with
    profile := some prof, inService := true, ceMatch := 1, trainResults := [{ ce := 0, rate := 800 }], wptReady := true }
  settings := { live.settings with galRate := setAt live.settings.galRate 0 800 }
  map := { live.map with present := [0], mounted := true } } (.galStat 0) 8 8 1

/-- A namespace of 1 GiB with 4096-byte LBAs, attached. -/
def ns1 : NsRec := { units := [0], lba4k := true, sectors := 262144, attached := true, ready := true, floor := 0 }
/-- Mounted, with that namespace. -/
def disk : State := { up with map := { up.map with ns := setAt up.map.ns 0 (some ns1), userBlocks := 4 } }

theorem vec_any {α : Type} {n : Nat} (v : Vector α n) (f : α → Bool) : v.any f = v.toList.any f := by simp
theorem vec_all {α : Type} {n : Nat} (v : Vector α n) (f : α → Bool) : v.all f = v.toList.all f := by simp

/-! ## States that meet the hypotheses of the statements -/

theorem witness_StepTakesOne : State.wf { live with pending := [.rstNHigh] } = true ∧ live.pending = [] ∧
    (∃ t : State, step { live with pending := [.rstNHigh] } = .next t) := ⟨by decide, rfl, _, rfl⟩

theorem witness_StepKeepsSound : State.wf { live with pending := [.rstNHigh] } = true ∧
    (∃ t : State, step { live with pending := [.rstNHigh] } = .next t) := ⟨by decide, _, rfl⟩

theorem witness_StepNeverStops : State.reset.wf = true ∧ State.wf live = true := by decide

/-- The last register the clause takes in and the two it leaves out. -/
theorem witness_ResetState : Reg.sysRstReq ≠ .sysCause ∧ Reg.sysRstReq ≠ .sysCauseSnap := by decide

/-- The last bit of the low half, and the first and the last of the high half. -/
theorem witness_TroubleHalves : 31 < 32 ∧ (32 ≤ 32 ∧ 32 < 64) ∧ (32 ≤ 63 ∧ 63 < 64) := by decide

/-- The widest and the narrowest level that restore it; a value of 0 and the smallest that is not. -/
theorem witness_HopLimitRegister : (0 : Nat) ≤ 2 ∧ (2 : Nat) ≤ 2 ∧ fld (0xFFFF0000 : Word) 0 16 = 0 ∧ fld (0x00000001 : Word) 0 16 ≠ 0 := by decide

theorem witness_CorrectedErrorCount : (0 : Nat) ≤ 2 ∧ (2 : Nat) ≤ 2 := by decide

/-- A word with one data bit flipped, the flip mask not armed; the first and the last bit. -/
def flipped : State := { live with kpr := { live.kpr with words := [(5, ⟨0xAB, 1, 0⟩)] } }
theorem witness_CorrectedMerge : (flipped.kprWord 5).decode = .corrected 0xAB ∧ flipped.rf .kprFlipCtl 8 1 = 0 ∧ (0 < 64 ∧ 63 < 64) := by decide

theorem witness_Registers : Memory.wf live = true ∧ Reg.sysStrap ≠ Reg.sysCause ∧ mirrorsOf (.dmaChSrc 7) = [] ∧ Reg.addr .sysStrap ≠ Reg.addr .sysCause := by
  decide

/-- Region 0 over the whole space, for the user class to read; and with region 1 over a part of it. -/
def guarded : State := { live with mpu := { live.mpu with active := setAt live.mpu.active 0 ⟨0, 0x2003⟩ } }
def crossed : State := { live with mpu := { guarded.mpu with active := setAt guarded.mpu.active 1 ⟨0x40000000, 0x1003⟩ } }

/-- A register that the privileged class writes; one in two regions; an address with no place; a mirrored field; a narrow write to the first word of
the Keeper; the flip control; the protection unit's own control. -/
theorem witness_RegisterWriteRows : live.canIssue .privileged = true ∧
    (live.verdict .privileged true (0x40070100 : Word).toNat = none ∧ live.place (0x40070100 : Word).toNat 4 = .reg (some (.dmaChSrc 0)) ∧
      ∀ g : Fin 8, Reg.dmaChSrc 0 ≠ .galWptLoad g) ∧
    (crossed.canIssue .privileged = true ∧ crossed.verdict .privileged true (0x40000000 : Word).toNat = some (2, 0)) ∧
    (live.verdict .privileged true (0xFFFFFFFC : Word).toNat = none ∧ live.place (0xFFFFFFFC : Word).toNat 4 = .none) ∧
    (live.verdict .privileged true (mirrorField .hopLimit).1.addr = none ∧ live.place (mirrorField .hopLimit).1.addr 4 = .reg (some (mirrorField .hopLimit).1)) ∧
    (Width.w4 ≠ .w8 ∧ live.verdict .privileged true (0x20000000 : Word).toNat = none ∧ live.place (0x20000000 : Word).toNat Width.w4.bytes = .keeper ∧
      live.place (0x217FFFFC : Word).toNat Width.w4.bytes = .keeper) ∧
    (live.verdict .privileged true (Reg.addr .kprFlipCtl) = none ∧ live.place (Reg.addr .kprFlipCtl) 4 = .reg (some .kprFlipCtl)) ∧
    (live.verdict .privileged true (Reg.addr .mpuCtl) = none) := by decide

/-- Shadows that commit and one that does not (size 2^7); an address in no region, in one and in two; lockdown at the last byte outside the scratch
MiB; the Vault's first and last byte; locked; the first and the last kind, region, initiator and address. -/
def badShadow : State := { live with mpu := { live.mpu with shadow := setAt live.mpu.shadow 3 ⟨0, 0x0701⟩ } }
def lockdown : State := live.setRf .mpuCtl 1 1 1
def lockedUp : State := { live with vault := { live.vault with lock := .locked } }
theorem witness_Protection :
    (∀ i : Fin 16, (live.mpu.shadow.get i).commits = true) ∧ (badShadow.mpu.shadow.get 3).commits = false ∧
    (live.mpu.hits 0).length ≤ 1 ∧ 2 ≤ (crossed.mpu.hits 0x40000000).length ∧
    (live.mpu.hits 0 = [] ∧ live.rf .mpuCtl 1 1 = 0 ∧ live.locked = false) ∧
    (lockdown.rf .mpuCtl 1 1 = 1 ∧ 0x216FFFFF < 0x21700000) ∧
    (0x40060000 ≤ 0x4006FFFF ∧ 0x4006FFFF < 0x40070000) ∧ lockedUp.locked = true ∧
    (guarded.mpu.hits 0xFFFFFFFF = [0] ∧ guarded.rf .mpuCtl 1 1 = 0 ∧ guarded.locked = false) ∧
    (7 < 8 ∧ 15 < 16 ∧ 0xFFFFFFFF < 2 ^ 32) := by decide

/-- The first and the last trouble bit; a bit the condition does not set again; the conditions of bits 26 and 50. -/
theorem witness_TroubleAndCause : (0 < 64 ∧ 63 < 64 ∧ (0 : Nat) ≠ 63) ∧ 63 ∉ [26, 27, 28, 50] ∧
    (let s : State := { disk with map := { disk.map with health := 1 } }
     s.map.mounted = true ∧ 1 ≤ s.map.health) ∧ (live.setRf .sysSupply 0 5 1).brownWarning = true ∧ Reg.sysRstLast ≠ .sysCause := by decide

/-- Level 0 and level 3, source 12; no reset and every nesting of two; an idle unit and one that is not; a register of the unit's. -/
def resetting (l : Nat) : State := { live with sys := { live.sys with rst := some l } }
theorem witness_ResetsTaken : ((0 : Nat) ≤ 3 ∧ (3 : Nat) ≤ 3 ∧ (12 : Nat) ≤ 12) ∧ (live.bst.pendingSwap = none ∧ live.sys.rst = none) ∧
    ((resetting 1).sys.rst = some 1 ∧ (resetting 1).bst.pendingSwap = none ∧ levelContains 1 3 = true) ∧
    ((resetting 3).sys.rst = some 3 ∧ (1 : Nat) < 3 ∧ (1 : Nat) ≤ 1) ∧ (resetting 2).sys.rst = some 2 ∧ (resetting 3).sys.rst = some 3 ∧
    (Cls.privileged ≠ .debug ∧ (3 : BitVec 3).toNat ≤ 3 ∧ (4 : BitVec 3).toNat = 4 ∧ unitOf (27 : BitVec 5).toNat = some .td ∧ unitOf (0 : BitVec 5).toNat = some (.gal 0)) ∧
    (((live.setRf .sysRstReq 0 3 4).setRf .sysRstReq 4 5 0).unitIdle (.gal 0) = true ∧
      (let s : State := { live with gals := setAt live.gals 0 { live.gals.get 0 with ops := [{ id := 1, ch := 0, kind := .read, cls := 1, block := 0 }] } }
       s.sys.rst = none ∧ ((s.setRf .sysRstReq 0 3 4).setRf .sysRstReq 4 5 0).unitIdle (.gal 0) = false)) ∧
    (Memory.wf live = true ∧ Reg.galTmo 0 ∉ [.sysCause, .sysCauseSnap, .sysRstLast, .trbSnapLo, .trbSnapHi, .cdcLaneStat] ∧ Reg.level (.galTmo 0) = 4 ∧
      unitReg (.gal 0) (.galTmo 0) = true ∧ unitReg (.gal 1) (.galTmo 0) = false) := by decide

/-- No reset in progress, the host's registers reachable, and neither they nor its configuration space; the fuses' levels 3 for FLR and CC.EN. -/
theorem witness_ResetRows : live.sys.rst = none ∧ live.barUp = true ∧ (0 : Word) ≠ 0x4E564D65 ∧ live.cfgUp = true ∧ sub.cfgUp = false ∧ sub.barUp = false ∧
    still.front.en = false ∧ (live.bst.pendingSwap = none ∧ live.fuseLevel 4 = 3 ∧ live.front.en = true ∧ live.accessWake.sys.rst = none ∧
      live.accessWake.bst.pendingSwap = none ∧ live.accessWake.fuseLevel 5 = 3) := by decide

/-- The link rows on a master with its link up in PS3; power-on with its rails good, then the pull-up; the root PLL; the reference clock. -/
def rising : State := { State.reset with sys := { State.reset.sys with railsGood := true } }
theorem witness_StartUpRows :
    (let s : State := { live with sys := { live.sys with ps := 3 } }
     s.isMaster = true ∧ s.sys.released.getLsbD 4 = true ∧ s.sys.lanes ≠ .idle ∧ s.sys.ps.val ≤ 3) ∧
    (live.isMaster = true ∧ live.sys.perst = true ∧ live.sys.released.getLsbD 4 = true ∧ live.sys.lanes ≠ .idle ∧ live.sys.lanes ≠ .disabled) ∧ State.reset.sys.rst = some 0 ∧
    (rising.powering = true ∧ rising.sys.aonGood = false) ∧
    (let s : State := { rising with sys := { rising.sys with pullUp := true } }
     s.powering = true ∧ s.sys.pullUp = true) ∧
    (live.sys.released.getLsbD 0 = true ∧ live.rf .sysClk 1 1 = 0 ∧ live.sys.ps ≠ 4) ∧
    (live.sys.refclk = true ∧ live.sys.released.getLsbD 0 = true ∧ live.sys.ps ≠ 4) := by decide

/-- A locked root PLL with a gallery in service; the root not locked, in PS3 with the link in L1.2 and out of PS3; VDDC at its warning level and one
below. -/
theorem witness_ClockAndSupplyRows : live.sys.ps ≠ 4 ∧
    (let s : State := { live with sys := { live.sys with ps := 3, lanes := .l12 } }
     s.rf .sysClk 1 1 ≠ 1 ∧ s.refclkMayStop = true) ∧
    (live.rf .sysClk 1 1 ≠ 1 ∧ live.refclkMayStop = false) ∧ (up.setRf .sysClk 0 1 1).rf .sysClk 0 1 ≠ 0 ∧
    ({ live with sys := { live.sys with ps := 4 } } : State).sys.ps = 4 ∧
    (let s : State := up.setRf .sysClk 1 1 1
     s.rf .sysClk 1 1 = 1 ∧ s.rf .sysClk 0 1 = 0 ∧ (s.gals.get 0).inService = true ∧ s.galPowered 0 = true) ∧
    100 * 714 < (live.setRail .vddc 714).warnLevel .vddc ∧ (live.setRail .vddc 715).warnLevel .vddc ≤ 100 * 715 := by decide

/-- An admin and an I/O command at Front; one while the controller is not enabled; a command with its context, its completion queue with room and
full. -/
def held1 : State := { live with front := { live.front with ctxs := [{ hdr := hdr1 }] } }
def fullCq : State := { held1 with front := { held1.front with cqs := [(0, ⟨16, 0, 0, 0⟩), (1, ⟨16, 1, 15, 0⟩)] } }
theorem witness_HostCommands : live.takes hdr (.securityStatus hdr) = true ∧ live.takes hdr1 (.flush hdr1 1) = true ∧
    still.takes hdr1 (.read hdr1 1 0 1) = false ∧ still.takes hdr (.sanitizeBlockErase hdr) = false ∧
    still.takes hdr (.setFeaturesArbitration hdr 0) = false ∧ still.takes hdr (.getLogPage hdr 2 0 0 true) = false ∧
    ((held1.front.ctx? hdr1).isSome = true ∧ (Store.find held1.front.sqs 1).isSome = true ∧ Store.find held1.front.cqs 1 = some ⟨16, 1, 0, 0⟩ ∧
      held1.front.aborts = [] ∧ ComQueue.room ⟨16, 1, 0, 0⟩ = true) ∧
    (Store.find fullCq.front.cqs 1 = some ⟨16, 1, 15, 0⟩ ∧ ComQueue.room ⟨16, 1, 15, 0⟩ = false) := by decide

/-- Doorbells of the admin queue and of queue 1 at the last entry; a fetch of one command, of eight, and of one whose entry fails; enabling; readiness with the map, at once and at the
deadline; shutdown with and without the map. -/
def rung : State := { live with front := { live.front with sqs := [(0, ⟨16, 0, 0, 0⟩), (1, ⟨16, 1, 0, 15⟩)] } }
def sqeRead : Sqe := ⟨7, 0x02, .prp 0x1000 0, 0⟩
theorem witness_ControllerRows :
    (live.barUp = true ∧ live.linked.doorbellWake.front.en = true ∧ Store.find live.linked.doorbellWake.front.sqs 1 = some ⟨16, 1, 0, 0⟩ ∧
      (15 : BitVec 16).toNat < 16 ∧ Store.find live.linked.doorbellWake.front.cqs 0 = some ⟨16, 0, 0, 0⟩ ∧ live.linked.doorbellWake.front.cqWait = []) ∧
    (rung.mayFetch 1 [sqeRead] = true ∧ rung.mayFetch 1 (List.replicate 8 sqeRead) = true ∧ Store.find rung.front.sqs 1 = some ⟨16, 1, 0, 15⟩ ∧
      sqeFault sqeRead ((1 : Fin 129).val == 0) = none ∧ Store.find rung.front.cqs 1 = some ⟨16, 1, 0, 0⟩ ∧
      rung.mayFetch 1 [{ sqeRead with opcode := 0x7F }] = true ∧ sqeFault { sqeRead with opcode := 0x7F } ((1 : Fin 129).val == 0) = some .invalidOpcode) ∧
    (still.barUp = true ∧ still.front.en = false ∧ still.bst.pendingSwap = none ∧ still.front.sanitize ≠ .block ∧ still.sys.ps ≠ 3 ∧
      still.sys.lanes = .up) ∧
    (let s : State := { disk with front := { disk.front with rdy := false } }
     s.front.en = true ∧ s.rdyNow = false ∧ s.sys.st ≠ .test ∧ s.resetting = false ∧ (s.front.crime || s.map.mounted || false) = true) ∧
    (live.front.en = true ∧ live.front.crime = false ∧ live.map.mounted = false) ∧
    (live.barUp = true ∧ live.front.en = true ∧ live.resetting = false ∧ live.front.shst = 0 ∧ live.accessWake.map.mounted = false) ∧
    (disk.barUp = true ∧ disk.front.en = true ∧ disk.resetting = false ∧ disk.front.shst = 0 ∧ disk.accessWake.map.mounted = true) := by decide

/-- Queue 2 created at its smallest and at its largest size; queue 1 and its completion queue deleted, the latter in use and not. -/
theorem witness_QueueAndAbortCommands :
    (let t : State := live.taken hdr (.createIoCq hdr 128 4095 true 128)
     live.takes hdr (.createIoCq hdr 128 4095 true 128) = true ∧ qidBad (128 : BitVec 16).toNat (Store.has t.front.cqs (128 : BitVec 16).toNat) = false ∧
       1 ≤ (4095 : BitVec 16).toNat ∧ (4095 : BitVec 16).toNat ≤ 4095 ∧ (128 : BitVec 16).toNat ≤ 128) ∧
    (let t : State := live.taken hdr (.createIoSq hdr 2 1 true 1)
     live.takes hdr (.createIoSq hdr 2 1 true 1) = true ∧ qidBad 2 (Store.has t.front.sqs 2) = false ∧ 1 ≤ (1 : BitVec 16).toNat ∧
       Store.has t.front.cqs (1 : BitVec 16).toNat = true) ∧
    (let t : State := live.taken hdr (.deleteIoSq hdr 1)
     live.takes hdr (.deleteIoSq hdr 1) = true ∧ (1 : BitVec 16).toNat ≠ 0 ∧ Store.has t.front.sqs 1 = true ∧
       (t.front.ctxs.any fun c => c.hdr.sqid.val == 1) = false) ∧
    (let t : State := live.taken hdr (.deleteIoCq hdr 1)
     live.takes hdr (.deleteIoCq hdr 1) = true ∧ (1 : BitVec 16).toNat ≠ 0 ∧ Store.has t.front.cqs 1 = true ∧ (t.front.sqs.any fun e => e.2.cq == 1) = true) ∧
    (let s : State := { live with front := { live.front with sqs := [(0, ⟨16, 0, 0, 0⟩)] } }
     let t : State := s.taken hdr (.deleteIoCq hdr 1)
     s.takes hdr (.deleteIoCq hdr 1) = true ∧ (1 : BitVec 16).toNat ≠ 0 ∧ Store.has t.front.cqs 1 = true ∧ (t.front.sqs.any fun e => e.2.cq == 1) = false ∧ t.front.cqWait = []) := by
  decide

/-- Abort of a command that has its context and of one that has none; event requests with no event kept, with one, and with eight held. -/
theorem witness_Abort :
    (let t : State := held1.taken hdr (.abort hdr 1 1)
     held1.takes hdr (.abort hdr 1 1) = true ∧ t.front.aborts.length < 4 ∧
       ((t.front.ctxs.find? fun c => c.hdr.sqid.val == 1 && c.hdr.cid == 1 && c.hdr != hdr).map fun c => c.parts) = some []) ∧
    (let t : State := live.taken hdr (.abort hdr 1 1)
     live.takes hdr (.abort hdr 1 1) = true ∧ t.front.aborts.length < 4 ∧
       ((t.front.ctxs.find? fun c => c.hdr.sqid.val == 1 && c.hdr.cid == 1 && c.hdr != hdr).map fun c => c.parts) = none) ∧
    (let t : State := live.taken hdr (.asyncEventRequest hdr)
     live.takes hdr (.asyncEventRequest hdr) = true ∧ t.front.aers.length < 8 ∧ t.front.events = []) ∧
    (let s : State := { live with front := { live.front with events := [⟨1, 0, 2⟩], aers := List.replicate 7 ⟨0, 9⟩ } }
     s.takes hdr (.asyncEventRequest hdr) = true ∧ (s.taken hdr (.asyncEventRequest hdr)).front.aers.length < 8 ∧
       (s.taken hdr (.asyncEventRequest hdr)).front.events = [⟨1, 0, 2⟩]) ∧
    (let s : State := { live with front := { live.front with aers := List.replicate 8 ⟨0, 9⟩ } }
     s.takes hdr (.asyncEventRequest hdr) = true ∧ 8 ≤ (s.taken hdr (.asyncEventRequest hdr)).front.aers.length) := by decide

/-- The features of Front, at the last vector and sensor that a feature takes, one past them, and all sensors. -/
theorem witness_FeatureCommands : live.takes hdr (.setFeaturesArbitration hdr 7) = true ∧ live.takes hdr (.setFeaturesErrorRecovery hdr 0xFFFF) = true ∧
    live.takes hdr (.setFeaturesInterruptCoalescing hdr 255 255) = true ∧ live.takes hdr (.setFeaturesWriteAtomicity hdr true) = true ∧
    live.takes hdr (.setFeaturesAsyncEventConfig hdr 0xFFFFFFFF) = true ∧ live.takes hdr (.setFeaturesThermalManagement hdr 300 310) = true ∧
    (live.takes hdr (.setFeaturesInterruptVector hdr 128 true) = true ∧ (128 : BitVec 16).toNat ≤ 128) ∧
    (live.takes hdr (.setFeaturesInterruptVector hdr 129 true) = true ∧ 128 < (129 : BitVec 16).toNat) ∧
    (live.takes hdr (.setFeaturesTempThreshold hdr 2 false 300) = true ∧ (2 : BitVec 4).toNat ≤ 2) ∧
    (live.takes hdr (.setFeaturesTempThreshold hdr 15 true 300) = true ∧ (15 : BitVec 4).toNat = 15) ∧
    (live.takes hdr (.setFeaturesTempThreshold hdr 3 false 300) = true ∧ 3 ≤ (3 : BitVec 4).toNat ∧ (3 : BitVec 4).toNat ≠ 15) := by decide

/-- Power states 2, 3 and 5, the write cache, the queue counts, APST at both ends of its ranges, the smallest buffer and one too small, a feature
that is read and one that is none. -/
theorem witness_SettingFeatures :
    (live.takes hdr (.setFeaturesPowerManagement hdr 2) = true ∧ (2 : BitVec 5).toNat ≤ 2) ∧
    (live.takes hdr (.setFeaturesPowerManagement hdr 3) = true ∧ 3 ≤ (3 : BitVec 5).toNat ∧ (4 : BitVec 5).toNat ≤ 4) ∧
    (live.takes hdr (.setFeaturesPowerManagement hdr 5) = true ∧ 4 < (5 : BitVec 5).toNat) ∧
    live.takes hdr (.setFeaturesWriteCache hdr true false) = true ∧ live.takes hdr (.setFeaturesNumberOfQueues hdr 0 0xFFFE) = true ∧
    (live.takes hdr (.setFeaturesApst hdr true false 1 10) = true ∧ live.takes hdr (.setFeaturesApst hdr true false 60000 600000) = true) ∧
    (live.takes hdr (.setFeaturesApst hdr true false 0 600001) = true ∧ live.takes hdr (.setFeaturesHostMemoryBuffer hdr false []) = true) ∧
    (live.takes hdr (.setFeaturesHostMemoryBuffer hdr true [(0x1000, 2), (0, 1), (0x400000, 62)]) = true ∧
      sumNat ((usableHmb [(0x1000, 2), (0, 1), (0x400000, 62)]).map (·.2)) = 64 ∧ sumNat ((usableHmb [(0, 63)]).map (·.2)) < 64) ∧
    ((live.taken hdr (.getFeatures hdr ⟨0x0C, 0⟩)).featureValue 0x0C 0 = some 0 ∧ (live.taken hdr (.getFeatures hdr ⟨0x0D, 0⟩)).featureValue 0x0D 0 = some 0) ∧
    (live.takes hdr (.getFeatures hdr ⟨0x01, 0⟩) = true ∧ (live.taken hdr (.getFeatures hdr ⟨0x01, 0⟩)).featureValue 0x01 0 = some 3) ∧
    (live.takes hdr (.getFeatures hdr ⟨0x03, 0⟩) = true ∧ (live.taken hdr (.getFeatures hdr ⟨0x03, 0⟩)).featureValue 0x03 0 = none) := by decide

/-- Identify of the active namespaces and of no structure; a page from its start and from an odd byte; a page that is none. -/
theorem witness_IdentifyAndPages :
    (live.takes hdr (.identify hdr 0x02 0) = true ∧ (live.taken hdr (.identify hdr 0x02 0)).identify 2 0 = some (.success, .list [])) ∧
    (live.takes hdr (.getLogPage hdr 0x05 0 0 true) = true ∧ (live.taken hdr (.getLogPage hdr 0x05 0 0 true)).logPage 5 = none) ∧
    (live.takes hdr (.identify hdr 0x55 0) = true ∧ (live.taken hdr (.identify hdr 0x55 0)).identify 0x55 0 = none) ∧
    (live.takes hdr (.getLogPage hdr 0x0C 0 2 true) = true ∧ ((live.taken hdr (.getLogPage hdr 0x0C 0 2 true)).logPage 0x0C).isSome = true ∧
      (2 : BitVec 64).toNat % 4 ≠ 0) ∧
    (live.takes hdr (.getLogPage hdr 0x0C 0 0 true) = true ∧ ((live.taken hdr (.getLogPage hdr 0x0C 0 0 true)).logPage 0x0C).isSome = true ∧
      (0 : BitVec 64).toNat % 4 = 0 ∧ (0 : BitVec 64).toNat ≤ 4) := by decide

/-- A chain of two devices, the second away, and joined. -/
def apart : State := { live with teth := { live.teth with chain := some ⟨1, 2, 18, 0⟩ } }
def joined : State := { apart with teth := { apart.teth with present := 3 } }
/-- Namespace commands: a create of one GiB where there is room; a delete, an attachment, a format and the sanitize commands of a namespace. -/
theorem witness_NamespaceAndFirmwareCommands :
    (disk.takes hdr (.namespaceDelete hdr 1) = true ∧ (disk.taken hdr (.namespaceDelete hdr 1)).locked = false ∧
      (disk.taken hdr (.namespaceDelete hdr 1)).nsOf 1 = some (0, ns1) ∧ (disk.taken hdr (.namespaceDelete hdr 1)).chainN = 1 ∧
      (disk.taken hdr (.namespaceDelete hdr 1)).chainAbsent = false) ∧
    (disk.takes hdr (.namespaceAttachment hdr 1 false) = true ∧ (disk.taken hdr (.namespaceAttachment hdr 1 false)).locked = false ∧ ns1.attached = !false ∧
      (disk.taken hdr (.namespaceAttachment hdr 1 false)).nsOf 1 = some (0, ns1)) ∧
    (let t : State := disk.taken hdr (.formatNvm hdr 1 1 2)
     disk.takes hdr (.formatNvm hdr 1 1 2) = true ∧ t.locked = false ∧ (2 : BitVec 3).toNat ≤ 2 ∧ (1 : BitVec 4).toNat ≤ 1 ∧ (1 : Word) ≠ 0xFFFFFFFF ∧
       t.nsOf 1 = some (0, ns1) ∧ t.sanitizing = false ∧ (2 : BitVec 3).toNat ≠ 0 ∧ t.chainN = 1 ∧ t.chainAbsent = false) ∧
    (let t : State := disk.taken hdr (.sanitizeCryptoErase hdr)
     disk.takes hdr (.sanitizeCryptoErase hdr) = true ∧ t.sanitizing = false ∧ t.chainN = 1 ∧ t.chainAbsent = false) ∧
    (let t : State := disk.taken hdr (.sanitizeBlockErase hdr)
     disk.takes hdr (.sanitizeBlockErase hdr) = true ∧ t.sanitizing = false ∧ t.locked = false ∧ t.chainN = 1 ∧ t.chainAbsent = false) ∧
    disk.takes hdr (.sanitizeExitFailureMode hdr) = true := by decide

/-- What stops a command: a lock, a second format, no size, no number left, no units left, no such namespace, one attached already, an erase or a format of
none, a piece of no size or not on its place, an action past 2; two devices in the chain. -/
def fullNs : State := { disk with map := { disk.map with ns := Vector.replicate 8 (some ns1) } }
def cleaning : State := { disk with front := { disk.front with sanitize := .block } }
theorem witness_AdminRefusals :
    (let t : State := lockedUp.taken hdr (.namespaceCreate hdr 1 1)
     lockedUp.takes hdr (.namespaceCreate hdr 1 1) = true ∧ t.locked = true) ∧
    (let t : State := disk.taken hdr (.namespaceCreate hdr 1 2)
     disk.takes hdr (.namespaceCreate hdr 1 2) = true ∧ t.locked = false ∧ 1 < (2 : BitVec 4).toNat) ∧
    (let t : State := disk.taken hdr (.namespaceCreate hdr 0 1)
     disk.takes hdr (.namespaceCreate hdr 0 1) = true ∧ t.locked = false ∧ t.stripeDiffers = false) ∧
    (let t : State := fullNs.taken hdr (.namespaceCreate hdr 1 1)
     fullNs.takes hdr (.namespaceCreate hdr 1 1) = true ∧ t.locked = false ∧ t.stripeDiffers = false ∧ t.freeNs = none) ∧
    (let t : State := disk.taken hdr (.namespaceCreate hdr 1 1)
     disk.takes hdr (.namespaceCreate hdr 1 1) = true ∧ t.stripeDiffers = false ∧ t.freeNs ≠ none ∧ t.freeUnits.length < ceilDiv 1 t.chainN) ∧
    (let t : State := disk.taken hdr (.namespaceDelete hdr 9)
     disk.takes hdr (.namespaceDelete hdr 9) = true ∧ t.locked = false ∧ t.nsOf 9 = none ∧ (9 : Word) ≠ 0xFFFFFFFF ∧ t.nsOf 0 = none) ∧
    (let t : State := disk.taken hdr (.namespaceAttachment hdr 1 true)
     disk.takes hdr (.namespaceAttachment hdr 1 true) = true ∧ t.locked = false ∧ t.nsOf 1 = some (0, ns1) ∧ ns1.attached = true ∧ t.nsOf 2 = none) := by
  decide
theorem witness_EraseRefusals :
    (let t : State := disk.taken hdr (.formatNvm hdr 1 1 3)
     disk.takes hdr (.formatNvm hdr 1 1 3) = true ∧ t.locked = false ∧ 2 < (3 : BitVec 3).toNat ∧ 1 < (2 : BitVec 4).toNat ∧ t.formatNs 9 = [] ∧
       t.formatNs 1 = [(0, ns1)] ∧ t.sanitizing = false ∧ ns1.lba4k = ((1 : BitVec 4) == 1)) ∧
    (lockedUp.takes hdr (.formatNvm hdr 1 1 1) = true ∧ (lockedUp.taken hdr (.formatNvm hdr 1 1 1)).locked = true ∧ (1 : BitVec 3).toNat < 2) ∧
    (let t : State := cleaning.taken hdr (.formatNvm hdr 1 1 2)
     cleaning.takes hdr (.formatNvm hdr 1 1 2) = true ∧ t.locked = false ∧ t.formatNs 1 ≠ [] ∧ t.sanitizing = true) ∧
    (cleaning.takes hdr (.sanitizeCryptoErase hdr) = true ∧ (cleaning.taken hdr (.sanitizeCryptoErase hdr)).sanitizing = true ∧
      cleaning.takes hdr (.sanitizeBlockErase hdr) = true ∧ (cleaning.taken hdr (.sanitizeBlockErase hdr)).sanitizing = true ∧
      (cleaning.taken hdr (.sanitizeBlockErase hdr)).locked = false ∧ lockedUp.takes hdr (.sanitizeBlockErase hdr) = true ∧
      (lockedUp.taken hdr (.sanitizeBlockErase hdr)).locked = true) ∧
    (live.takes hdr (.firmwareImageDownload hdr 0 0 []) = true ∧ live.takes hdr (.firmwareImageDownload hdr 2048 4096 []) = true) ∧
    (live.takes hdr (.firmwareCommit hdr 2 3 true) = true ∧ (live.taken hdr (.firmwareCommit hdr 2 3 true)).locked = false ∧ 2 < (3 : BitVec 3).toNat) ∧
    (apart.chainAbsent = true ∧ disk.chainAbsent = false ∧ disk.chainN = 1 ∧ joined.chainAbsent = false ∧ joined.chainN ≠ 1) ∧
    ((1 : BitVec 3).toNat = (if Twin.a = .a then 1 else 2) ∧ Twin.a = live.bst.active ∧ Twin.b ≠ live.bst.active) := by decide

/-- The firmware commands, an image piece at the second 4 KiB; a commit to slot 2 of an image that is good, on a locked device, and with a device of
the chain away. -/
theorem witness_FirmwareCommands :
    (let t : State := live.taken hdr (.firmwareImageDownload hdr 4096 4096 [])
     live.takes hdr (.firmwareImageDownload hdr 4096 4096 []) = true ∧ 4096 % 4096 = 0 ∧ 0 < 4096 ∧ 4096 + 4096 ≤ 1572864 ∧ t.chainN = 1 ∧
       t.chainAbsent = false ∧ ∃ u : State, t.downloadHere 4096 4096 [] = (.success, u)) ∧
    (let t : State := live.taken hdr (.firmwareCommit hdr 2 0 true)
     live.takes hdr (.firmwareCommit hdr 2 0 true) = true ∧ (0 : BitVec 3).toNat ≤ 2 ∧ t.locked = false ∧ t.chainN = 1 ∧ t.chainAbsent = false ∧
       ∃ u : State, t.commitHere 2 0 true = (.success, u)) ∧
    (lockedUp.takes hdr (.firmwareCommit hdr 2 0 true) = true ∧ (lockedUp.taken hdr (.firmwareCommit hdr 2 0 true)).locked = true) ∧
    (apart.takes hdr (.firmwareCommit hdr 2 0 true) = true ∧ (apart.taken hdr (.firmwareCommit hdr 2 0 true)).locked = false ∧
      (apart.taken hdr (.firmwareCommit hdr 2 0 true)).chainAbsent = true) ∧
    (lockedUp.takes hdr (.namespaceDelete hdr 1) = true ∧ (lockedUp.taken hdr (.namespaceDelete hdr 1)).locked = true) :=
  ⟨⟨by decide, by decide, by decide, by decide, by decide, by decide, _, rfl⟩, ⟨by decide, by decide, by decide, by decide, by decide, _, rfl⟩,
   by decide, by decide, by decide⟩

/-- Room for one namespace of one GiB. -/
def roomy : State := { up with map := { up.map with userBlocks := 20000 } }
def created : State := roomy.taken hdr (.namespaceCreate hdr 1 1)
theorem created_freeUnits : created.freeUnits = [0] := by
  simp only [State.freeUnits, vec_any]; decide
theorem witness_NamespaceCreate :
    roomy.takes hdr (.namespaceCreate hdr 1 1) = true ∧ created.locked = false ∧ (1 : BitVec 4).toNat ≤ 1 ∧ 0 < 1 ∧ created.stripeDiffers = false ∧
      created.freeNs = some 0 ∧ ceilDiv 1 created.chainN ≤ created.freeUnits.length ∧ created.chainN = 1 ∧ created.chainAbsent = false ∧
      (created.nsCreateHere 0 1 true).1 = .success := by
  rw [show (created.nsCreateHere 0 1 true).1 = .success from by
    simp only [State.nsCreateHere, created_freeUnits]; rfl, created_freeUnits]
  decide

/-- I/O on the namespace: the last LBA of it, and the largest transfer. -/
theorem witness_IoCommands :
    (disk.takes hdr1 (.read hdr1 1 262143 1) = true ∧ (disk.taken hdr1 (.read hdr1 1 262143 1)).ioCheck 1 262143 1 true false = .ok (0, ns1)) ∧
    (disk.takes hdr1 (.verify hdr1 1 0 512) = true ∧ (disk.taken hdr1 (.verify hdr1 1 0 512)).ioCheck 1 0 512 true false = .ok (0, ns1)) ∧
    (let t : State := disk.taken hdr1 (.write hdr1 1 5 [Sector.zero] 1 false)
     disk.takes hdr1 (.write hdr1 1 5 [Sector.zero] 1 false) = true ∧ t.ioCheck 1 5 1 true true = .ok (0, ns1) ∧ t.runsOf ns1 5 1 = [(t.index, 5, 1)]) ∧
    (disk.takes hdr1 (.writeZeroes hdr1 1 0 1) = true ∧ (disk.taken hdr1 (.writeZeroes hdr1 1 0 1)).ioCheck 1 0 1 false true = .ok (0, ns1)) :=
  ⟨⟨by decide, rfl⟩, ⟨by decide, rfl⟩, ⟨by decide, rfl, by decide⟩, ⟨by decide, rfl⟩⟩

/-- No namespace; a detached one; a locked device; the first LBA past the end; read-only health; and none of these. -/
def detached : State := { disk with map := { disk.map with ns := setAt disk.map.ns 0 (some { ns1 with attached := false }) } }
def worn : State := { disk with map := { disk.map with health := 2 } }
theorem witness_IoChecks : disk.nsOf 2 = none ∧ disk.nsOf 9 = none ∧ detached.nsOf 1 = some (0, { ns1 with attached := false }) ∧
    (let s : State := { disk with vault := { disk.vault with lock := .locked } }
     s.nsOf 1 = some (0, ns1) ∧ s.locked = true ∧ ns1.attached = true) ∧
    (disk.nsOf 1 = some (0, ns1) ∧ disk.ioStop 1 = none ∧ 512 * ns1.lbaBytes ≤ 2097152 ∧ ns1.lbas < 262143 + 2 ∧ 262143 + 1 ≤ ns1.lbas ∧ disk.readOnly = false) ∧
    (worn.nsOf 1 = some (0, ns1) ∧ worn.ioStop 1 = none ∧ worn.readOnly = true) := by decide

/-- A flush, Dataset Management with and without AD over the whole namespace, a Secure Deallocate of 1 GiB, and a sector to read ahead. -/
def ahead : State := { disk with
  map := { disk.map with entries := [(0, .mapped ⟨0, 0, 0, 0⟩)] }, front := { disk.front with ra := [⟨0, 0, 3, [], [], []⟩] } }
theorem witness_FlushAndDeallocation :
    (let t : State := disk.taken hdr1 (.flush hdr1 1)
     disk.takes hdr1 (.flush hdr1 1) = true ∧ t.flushStop 1 = none ∧ t.chainN = 1 ∧ t.chainAbsent = false ∧ t.index = 0) ∧
    (disk.takes hdr1 (.datasetManagement hdr1 1 true [(0, 262144)]) = true ∧
      (disk.taken hdr1 (.datasetManagement hdr1 1 true [(0, 262144)])).rangeCheck 1 [(0, 262144)] = .ok (0, ns1)) ∧
    (disk.takes hdr1 (.datasetManagement hdr1 1 false [(0, 1)]) = true ∧
      (disk.taken hdr1 (.datasetManagement hdr1 1 false [(0, 1)])).rangeCheck 1 [(0, 1)] = .ok (0, ns1)) ∧
    (disk.takes hdr1 (.secureDeallocate hdr1 1 [(0, 262144)]) = true ∧
      (disk.taken hdr1 (.secureDeallocate hdr1 1 [(0, 262144)])).rangeCheck 1 [(0, 262144)] = .ok (0, ns1) ∧
      sumNat ([((0 : Nat), (262144 : Nat))].map (·.2)) * ns1.lbaBytes ≤ 2 ^ 30) ∧
    (ahead.nsOf 1 = some (0, ns1) ∧ (ahead.front.ra.find? fun x => x.ns == 0) = some ⟨0, 0, 3, [], [], []⟩ ∧ ahead.isMaster = true ∧ ahead.mapUp = true ∧
      ahead.locked = false ∧ ahead.poolRoom = true ∧ 0 < min (ahead.settings.hostReadahead / 4096) (ns1.sectors - (ns1.span 0 0).2) ∧
      ahead.ownerOf (ns1.span 0 0).2 = ahead.index ∧ ahead.dsec ns1 (ns1.span 0 0).2 = some 0 ∧ ahead.specWants 0 ⟨0, 0, 3, [], [], []⟩ 0 = true) :=
  ⟨by decide, ⟨by decide, rfl⟩, ⟨by decide, rfl⟩, ⟨by decide, rfl, by decide⟩, by decide⟩

/-- One flip, in the data and in the check bits; two, one in each; a write with the flip mask not armed. -/
theorem witness_KeeperWords : popCount 64 (0x8000000000000000 : BitVec 64).toNat + popCount 8 (0 : Byte).toNat = 1 ∧
    popCount 64 (0 : BitVec 64).toNat + popCount 8 (0x80 : Byte).toNat = 1 ∧ popCount 64 (1 : BitVec 64).toNat + popCount 8 (1 : Byte).toNat = 2 ∧
    live.rf .kprFlipCtl 8 1 = 0 ∧ live.kpr.wf = true := by decide

/-- The flip mask armed for any word; the scrubber on at a clean word, a corrected and a bad one; a merge entry and none. -/
def scrubbing (w : KWord) : State := { live.setRf .kprCtl 0 1 1 with kpr := { live.kpr with words := [(5, w)], scrubAt := 5 } }
theorem witness_KeeperRows : (live.setRf .kprFlipCtl 8 1 1).flipFires 5 = true ∧ 5 < 2 ^ 28 ∧
    ((scrubbing ⟨7, 0, 0⟩).rf .kprCtl 0 1 = 1 ∧ (scrubbing ⟨7, 0, 0⟩).sys.ps.val < 4 ∧ (scrubbing ⟨7, 0, 0⟩).inReset = false ∧
      ((scrubbing ⟨7, 0, 0⟩).kpr.merge.any fun e => e.word == (scrubbing ⟨7, 0, 0⟩).kpr.scrubAt) = false ∧
      ((scrubbing ⟨7, 0, 0⟩).kprWord 5).decode = .clean 7) ∧
    ((scrubbing ⟨7, 2, 0⟩).kprWord 5).decode = .corrected 7 ∧ ((scrubbing ⟨7, 3, 0⟩).kprWord 5).decode = .bad 4 ∧
    (let s : State := { scrubbing ⟨7, 0, 0⟩ with kpr := { (scrubbing ⟨7, 0, 0⟩).kpr with merge := [⟨5, 0xFF, 1⟩] } }
     (s.kpr.merge.any fun e => e.word == s.kpr.scrubAt) = true ∧ s.rf .kprCtl 0 1 = 1 ∧ s.sys.ps.val < 4 ∧ s.inReset = false) ∧
    (live.setRf .kprCtl 0 1 0).rf .kprCtl 0 1 = 0 ∧ live.kpr.merge = [] ∧
    ({ live with kpr := { live.kpr with merge := [⟨5, 0xFF, 1⟩] } } : State).kpr.merge = [⟨5, 0xFF, 1⟩] := by decide

/-- The last channel idle, running at its boundary and before it, and stopping. -/
def chan (st : DmaSt) (atEnd : Bool) : State := { live with dma := setAt live.dma 7 { st, atEnd } }
def words6 : Keeper := { live.kpr with words := (List.range 6).map fun i => (i, ⟨0, 0, 0⟩) }
theorem witness_DmaRows : (live.canIssue .privileged = true ∧ live.verdict .privileged true (Reg.dmaChCtl 7).addr = none ∧
      live.place (Reg.dmaChCtl 7).addr 4 = .reg (some (.dmaChCtl 7)) ∧ live.dmaBusy 7 = false) ∧
    ((chan .running false).dmaBusy 7 = true ∧ ((chan .running false).dma.get 7).st = .running ∧ (chan .running false).lan.scan = false ∧
      (chan .running false).inReset = false ∧ ((chan .running false).dma.get 7).atEnd = false) ∧
    (((chan .running true).dma.get 7).atEnd = true ∧ ((chan .running true).desc 7).link = 0) ∧
    ((live.dma.get 7).st ≠ .running ∧ (chan .running false).canIssue .privileged = true ∧
      (chan .running false).verdict .privileged true (Reg.dmaChCtl 7).addr = none ∧ (chan .running false).place (Reg.dmaChCtl 7).addr 4 = .reg (some (.dmaChCtl 7))) ∧
    (let s (n : Nat) : State := { (chan .running true).setReg (.dmaChLink 7) 0x20000000 with dma := setAt live.dma 7 { st := .running, atEnd := true, hops := n, hopLimit := 1, cls := .privileged }, kpr := words6 }
     (s 1).dmaBusy 7 = true ∧ ((s 1).desc 7).link ≠ 0 ∧ ((s 1).dma.get 7).hopLimit ≤ ((s 1).dma.get 7).hops ∧
       ((s 0).desc 7).link ≠ 0 ∧ ((s 0).dma.get 7).hops < ((s 0).dma.get 7).hopLimit ∧ (fetchRun 7 ((s 0).desc 7).link ⟨s 0, [], none⟩).fail = none ∧
       (let u : State := (s 0).setReg (.dmaChLink 7) 0xF0000000
        (fetchRun 7 (u.desc 7).link ⟨u, [], none⟩).fail.isSome = true)) ∧
    ((chan .stopping true).dmaBusy 7 = true ∧ ((chan .stopping true).dma.get 7).st = .stopping ∧ ((chan .stopping true).dma.get 7).atEnd = true) ∧
    (15 < 16 ∧ 0xFFFFFFFF < 2 ^ 32 ∧ (0 : Fin 8) ≠ 7) := by decide +kernel

/-- A gallery in service and one to train; a target with its window free, in a retraining under way and in one that begins. -/
def training : State := { up with gals := setAt up.gals 0 { up.gals.get 0 with inService := false } }
def opRead : GOp := { id := 1, ch := 0, kind := .read, cls := 1, block := 0 }
def windowed (r : Option Nat) : State := State.setRf { up with gals := setAt up.gals 0 { up.gals.get 0 with retrain := .pending, newRate := r } } (.galCtl 0) 8 8 1
theorem witness_GalleryRows : Cls.user ≠ .privileged ∧ ((up.gals.get 0).inService = true ∧ (up.gals.get 0).retrain = .none) ∧
    (training.inReset = false ∧ training.sys.released.getLsbD 3 = true ∧ (training.gals.get 0).profile.isSome = true ∧
      (training.gals.get 0).inService = false ∧ training.settings.galEnable.get 0 = true) ∧
    ((windowed (some 800)).windowRate 0 = 800 ∧ (windowed (some 800)).retrainTarget 0 = some 0 ∧ (windowed (some 800)).windowFree 0 0 [] = true ∧
      ((windowed (some 800)).window 0 0 800 true false).con.running = none) ∧
    (let u : State := (windowed none).windowsFrom 0 800 ((windowed none).aimRate 0)
     (windowed none).windowRate 0 = 800 ∧ ((windowed none).gals.get 0).retrain ≠ .none ∧ u.retrainTarget 0 = some 0 ∧ u.windowFree 0 0 [] = true ∧
      (u.window 0 0 800 true false).con.running = none) ∧
    (let s : State := (windowed (some 800)).setRf (.galCtl 0) 8 8 0
     (s.gals.get 0).retrain ≠ .none ∧ s.retrainTarget 0 = none) ∧
    (let s : State := (windowed (some 800)).gal 0 fun y => { y with ops := [{ opRead with running := true }] }
     s.retrainTarget 0 = some 0 ∧ s.windowFree 0 0 [] = false) ∧
    ((windowed (some 800)).window 0 0 800 true false).gals.get 0 ≠ (windowed (some 800)).gals.get 0 ∧
    (let s : State := ((windowed (some 800)).setRf (.galCtl 0) 8 8 3).gal 0 fun y => { y with ceMatch := 3 }
     s.retrainTarget 0 = some 0 ∧ ((s.window 0 0 800 true false).gals.get 0).newRate ≠ none) ∧
    (((windowed (some 800)).window 0 0 800 true false).gals.get 0).newRate = none := by decide +kernel

/-- A waiting read, a waiting erase the block order refuses, none; an erase of a suspect chamber and a read of a target out of service; an open
member on a suspect chamber; a free bus with a context that polls. -/
def opErase : GOp := { id := 2, ch := 0, kind := .erase, cls := 6, block := 0 }
def withOps (l : List GOp) : State := { up with gals := setAt up.gals 0 { up.gals.get 0 with ops := l } }
def outOfOrder : State := { up with gals := setAt up.gals 0 { up.gals.get 0 with ops := [opErase], wpt := List.replicate 16 [⟨1, 0, .erased⟩] } }
def polling : State := { up with gals := setAt up.gals 0 { up.gals.get 0 with ctxs := [(63, { st := .polling })] } }
def suspectOnly (s : State) : State := s.setRf (.galSuspect 0) 0 1 1
def openMember : State := suspectOnly { up with map := { up.map with
  groups := [{ num := 0, flow := .sump, width := 2, pslc := true, members := [some 0, some 65536], parity := [(2, 0)] }]
  blks := [(0, { st := .opened, use := .sump, pslc := true })] } }
theorem witness_SchedulerRows :
    ((withOps [opRead]).doomed 0 = none ∧ (withOps [opRead]).stranded 0 = none ∧ (withOps [opRead]).pick 0 = some opRead ∧
      ((withOps [opRead]).gals.get 0).passes opRead = true) ∧
    (outOfOrder.doomed 0 = none ∧ outOfOrder.stranded 0 = none ∧ outOfOrder.pick 0 = some opErase ∧ (outOfOrder.gals.get 0).passes opErase = false) ∧
    (up.doomed 0 = none ∧ up.stranded 0 = none ∧ up.pick 0 = none) ∧ (suspectOnly (withOps [opErase])).doomed 0 = some opErase ∧
    (let s : State := { up with gals := setAt up.gals 0 { up.gals.get 0 with ops := [opRead], outCe := 1 } }
     s.doomed 0 = some opRead) ∧
    (openMember.doomed 0 = none ∧ openMember.stranded 0 = some 0) ∧
    (63 < 64 ∧ (polling.gals.get 0).bus = none ∧ (polling.gals.get 0).nextBus = some 63 ∧
      (((polling.gals.get 0).ctxs.find? fun c => c.2.st == .polling).map (·.1)) = some 63) := by decide

/-- A running program with a read of its chamber waiting, at its minimum run; the same suspended, its reads done. -/
def opProg (susp : Bool) : GOp := { id := 3, ch := 0, kind := .program, cls := 3, block := 0, running := true, suspended := susp }
theorem witness_GalleryTimeRows :
    (let s : State := withOps [opProg false, opRead]
     ((s.gals.get 0).ops.find? fun o => o.running && !o.suspended && o.ch == 0 && (o.kind == .program || o.kind == .erase)) = some (opProg false) ∧
       (s.gals.get 0).profile = some prof ∧ (s.gals.get 0).readWaits 0 = true ∧ (s.gals.get 0).mayHold (opProg false) = true ∧
       (opProg false).kind = .program ∧ prof.minProg ≤ 100 ∧ 2 * prof.suspLatency < 101) ∧
    (let s : State := withOps [opProg true]
     ((s.gals.get 0).ops.find? fun o => o.suspended && o.ch == 0) = some (opProg true) ∧ (s.gals.get 0).profile = some prof ∧
       ((s.gals.get 0).ops.any fun y => y.running && !y.suspended && y.ch == 0) = false ∧ (s.gals.get 0).readWaits 0 = false) ∧
    (let s : State := withOps [opProg true, { opRead with running := true }]
     ((s.gals.get 0).ops.find? fun o => o.suspended && o.ch == 0) = some (opProg true) ∧
       ((s.gals.get 0).ops.any fun y => y.running && !y.suspended && y.ch == 0) = true) ∧
    (let s : State := withOps [opProg true, opRead]
     ((s.gals.get 0).ops.find? fun o => o.suspended && o.ch == 0) = some (opProg true) ∧ (s.gals.get 0).readWaits 0 = true ∧
       (opProg true).readsIn < min prof.suspReads 16 ∧ (opProg true).resumeDue = false) ∧
    (((withOps []).gals.get 0).ops.find? fun o => o.suspended && o.ch == 0) = none ∧
    ((withOps [opRead]).op? 0 1 = some opRead ∧ opRead.running = false) := by decide

/-- A read whose list has come to its poll, and its recovery; a gallery with nothing to quiesce, and one with an operation that waits. -/
def polled : State := { up with gals := setAt up.gals 0 { up.gals.get 0 with
  slots := prof.slots, ops := [{ opRead with running := true }], ctxs := [(0, { slot := 1, st := .bus, len := 576, pslc := true })] } }
/-- A wedge leaves the console as it is, here of a gallery without a profile. -/
theorem calibrate_none (s : State) (g n : Fin 8) (rate slot : Nat) (h : (s.gals.get g).profile = none) : s.calibrate g n rate slot = s := by
  simp [State.calibrate, Gallery.stepsAt, h]
theorem calibrates_none (s : State) (g : Fin 8) (rate slot : Nat) (ts : List (Fin 8)) (h : (s.gals.get g).profile = none) :
    ts.foldl (fun (t : State) (n : Fin 8) => t.calibrate g n rate slot) s = s := by
  induction ts with
  | nil => rfl
  | cons n l ih => rw [List.foldl_cons, calibrate_none s g n rate slot h, ih]
theorem targetOuts_con (s : State) (g : Fin 8) (ts : List (Fin 8)) : (ts.foldl (fun (t : State) (n : Fin 8) => t.targetOut g n) s).con = s.con := by
  induction ts generalizing s with
  | nil => rfl
  | cons n l ih => rw [List.foldl_cons, ih]; rfl
theorem trainAll_fold (g : Fin 8) (rate : Nat) (ts : List (Fin 8)) (s : State) (a : List TrainRec) :
    (ts.foldl (fun (x : List TrainRec × State) (n : Fin 8) => let (r, t1) := x.2.trainRec g n rate; (x.1 ++ [r], t1)) (a, s)).2.con = s.con := by
  induction ts generalizing s a with
  | nil => rfl
  | cons n l ih => rw [List.foldl_cons, ih]; rfl
theorem trainAll_con (s : State) (g : Fin 8) (rate : Nat) (ts : List (Fin 8)) : (s.trainAll g rate ts).2.con = s.con := trainAll_fold g rate ts s []
theorem gal_con (s : State) (g : Fin 8) (f : Gallery → Gallery) : (s.gal g f).con = s.con := rfl
theorem stat_con (s : State) (k : String) (n : Nat) : (s.stat k n).con = s.con := rfl
theorem driveWp_con (s : State) (g : Fin 8) (b : Bool) : (s.driveWp g b).con = s.con := rfl
theorem bump_con (s : State) (r : Reg) (a b n : Nat) : (s.bump r a b n).con = s.con := rfl
theorem trainStat_con (s : State) (g : Fin 8) (ts : List (Fin 8)) (a : Bool) (n : Nat) : (s.trainStat g ts a n).con = s.con := rfl
theorem raiseIf_con (s : State) (c : Bool) (n : Nat) : (s.raiseIf c n).con = s.con := by unfold State.raiseIf; split <;> rfl
theorem wedgeTrain_con (s : State) (g : Fin 8) (r : WedgeRun) (h : (s.gals.get g).profile = none) : (s.wedgeTrain g r).con = s.con := by
  unfold State.wedgeTrain
  simp only [calibrates_none s g _ _ _ h, gal_con, stat_con, bump_con, trainStat_con, raiseIf_con, targetOuts_con, trainAll_con]
def bare : State := (withOps [opRead]).gal 0 fun y => { y with profile := none }
def wedged : State := ((((State.interruptOps (((bare.raise 15).quiesceGal 0).wedgeReset 0).recordSelf []).reloadWpt 0).wedgeTrain 0
  { gal := 0 }).driveWp 0 true)
theorem wedged_runs : wedged.con.running = none := by
  unfold wedged
  rw [driveWp_con, wedgeTrain_con _ _ _ (by rfl)]
  rfl
/-- A `run op` at its poll, under the timer of its confirm, of a reset, and of none; and one not at a poll. -/
def atPoll (a : Option OpKind) (w : Word) : State := { up with gals := setAt up.gals 0 { up.gals.get 0 with
  slots := some ⟨1, [w]⟩ :: List.replicate 63 none, ops := [{ opRead with running := true, need := .console }], ctxs := [(0, { st := .bus, armed := a })] } }
theorem witness_OperationTimers :
    (let o : GOp := { opRead with running := true }
     polled.op? 0 1 = some o ∧ o.suspended = false ∧ o.outcome = none ∧ o.need ≠ .console ∧ (polled.toPoll 0 o).armedAt 0 o.ctx = some .read ∧
       OpKind.read ≠ .reset ∧ o.retried = false ∧
       ((((polled.raise 8).countTimeout 0 .read).listTimeout 0 o.ctx).recoverLun 0 o.ch true).1 = true) ∧
    (let o : GOp := { opRead with running := true, need := .console }
     (atPoll (some .read) 0x48034040).op? 0 1 = some o ∧ o.outcome = none ∧ (atPoll (some .read) 0x48034040).armedAt 0 o.ctx = some .read ∧
       (atPoll none 0x48034040).armedAt 0 o.ctx = some .other ∧ (atPoll (some .reset) 0x48034040).armedAt 0 o.ctx = some .reset ∧
       (atPoll none 0).armedAt 0 o.ctx = none) ∧
    (up.op? 0 1 = none ∧ (up.gals.get 0).ops = [] ∧ ((up.gals.get 0).ctxs.all fun c => c.2.st == .idle) = true) ∧
    ((bare.gals.get 0).ops ≠ [] ∧ bare.con.running = none ∧ ((bare.gals.get 0).ops.any (·.running)) = false ∧ wedged.con.running = none) :=
  ⟨by decide +kernel, by decide +kernel, by decide +kernel, by decide +kernel, by decide +kernel, by decide +kernel, wedged_runs⟩

/-- Context 5 of gallery 0 at one op. -/
def atOp (w : Word) : State := { up with gals := setAt up.gals 0 { up.gals.get 0 with
  ctxs := [(5, { st := .bus })], slots := some ⟨1, [w]⟩ :: List.replicate 63 none } }
theorem witness_SequencerBusRows : (atOp 0x08000070).runsOp 0 5 0x1 { st := .bus } 0x08000070 = true ∧
    ((atOp 0x10000003).runsOp 0 5 0x2 { st := .bus } 0x10000003 = true ∧ ((atOp 0x10000003).gals.get 0).profile = some prof ∧ 3 ≤ opf 0x10000003 0 3) ∧
    ((atOp 0x18000001).runsOp 0 5 0x3 { st := .bus } 0x18000001 = true ∧ opf 0x18000001 19 1 = 0 ∧ opf 0x18000001 16 1 = 0 ∧
      SeqCtx.fits { st := .bus } (SeqCtx.dataLen { st := .bus } 0x18000001) = true ∧
      (((atOp 0x18000001).setRf .kprCtl 0 1 0).busTaken 0 5).kpr.words = []) ∧
    ((atOp 0x20000001).runsOp 0 5 0x4 { st := .bus } 0x20000001 = true ∧ opf 0x20000001 17 2 = 0) ∧
    (atOp 0x280000AA).runsOp 0 5 0x5 { st := .bus } 0x280000AA = true ∧
    ((atOp 0x30000000).runsOp 0 5 0x6 { st := .bus } 0x30000000 = true ∧ opf 0x30000000 4 2 ≠ 1) := by decide

/-- A poll whose value comes and one whose does not; a status; and each op that sends nothing. -/
theorem witness_SequencerRegisterRows : ((atOp 0x48004040).runsOp 0 5 0x9 { st := .bus } 0x48004040 = true ∧
      ((0x40 : Byte) &&& BitVec.ofNat 8 (opf 0x48004040 0 8)) = BitVec.ofNat 8 (opf 0x48004040 8 8) ∧
      ((0x00 : Byte) &&& BitVec.ofNat 8 (opf 0x48004040 0 8)) ≠ BitVec.ofNat 8 (opf 0x48004040 8 8) ∧ opf 0x48004040 16 1 = 0) ∧
    (atOp 0x50000000).runsOp 0 5 0xA { st := .bus } 0x50000000 = true ∧
    ((atOp 0x38000001).runsOp 0 5 0x7 { st := .bus } 0x38000001 = true ∧ opf 0x38000001 18 1 = 0) ∧
    ((atOp 0x38040001).runsOp 0 5 0x7 { st := .bus } 0x38040001 = true ∧ opf 0x38040001 18 1 = 1) ∧
    (atOp 0x40000001).runsOp 0 5 0x8 { st := .bus } 0x40000001 = true ∧
    ((atOp 0x58000000).runsOp 0 5 0xB { st := .bus } 0x58000000 = true ∧ opf 0x58000000 16 2 = 0) ∧
    ((atOp 0x60000000).runsOp 0 5 0xC { st := .bus } 0x60000000 = true ∧ opf 0x60000000 17 1 = 0) ∧
    ((atOp 0x68000000).runsOp 0 5 0xD { st := .bus } 0x68000000 = true ∧ opf 0x68000000 16 1 = 0) ∧
    ((atOp 0x70000000).runsOp 0 5 0xE { st := .bus } 0x70000000 = true ∧ opf 0x70000000 19 1 = 0) ∧
    ((atOp 0x7800003F).runsOp 0 5 0xF { st := .bus } 0x7800003F = true ∧ opf 0x7800003F 0 6 ≠ 26) ∧
    ((atOp 0x00000000).runsOp 0 5 0x0 { st := .bus } 0x00000000 = true ∧ opf 0x00000000 8 1 = 0) ∧
    ((atOp 0x00000100).runsOp 0 5 0x0 { st := .bus } 0x00000100 = true ∧ opf 0x00000100 8 1 = 1) ∧
    (let s : State := { up with gals := setAt up.gals 0 { up.gals.get 0 with
       ctxs := [(5, { st := .bus, ret := some (1, 1) })], slots := some ⟨1, [0]⟩ :: List.replicate 63 none } }
     s.runsOp 0 5 0x0 { st := .bus, ret := some (1, 1) } 0 = true) := by decide

/-- Context 5 of gallery 0 at one op of a list of kind `k`, at a rate. -/
def atKind (k : Nat) (c : SeqCtx) (w : Word) : State := State.setRf { up with
  gals := setAt up.gals 0 { up.gals.get 0 with ctxs := [(5, c)], slots := some ⟨k, [w]⟩ :: List.replicate 63 none, wpN := true }
  kpr := { up.kpr with words := [(0, KWord.poison 0)] } } (.galStat 0) 16 16 2400
theorem witness_SequencerData :
    (let c : SeqCtx := { st := .bus, force := true }
     (atKind 2 c 0x10000002).runsOp 0 5 0x2 c 0x10000002 = true ∧ ((atKind 2 c 0x10000002).busTaken 0 5).rowRefused 0 c 0x10000002 = false ∧
       writeKind (((atKind 2 c 0x10000002).gals.get 0).kindOf c.listSlot) = true ∧ opf 0x10000002 0 3 = 2) ∧
    (let c : SeqCtx := { st := .bus, blk := 1 }
     (atKind 2 c 0x10000002).runsOp 0 5 0x2 c 0x10000002 = true ∧ ((atKind 2 c 0x10000002).busTaken 0 5).rowRefused 0 c 0x10000002 = true) ∧
    (let c : SeqCtx := { st := .bus, console := true, buf := 0x17FFFFC }
     (atKind 1 c 0x18080001).runsOp 0 5 0x3 c 0x18080001 = true ∧ c.fits 8 = false ∧ (atKind 1 c 0x20000001).runsOp 0 5 0x4 c 0x20000001 = true ∧
       c.fits (c.dataLen 0x20000001) = false) ∧
    (let c : SeqCtx := { st := .bus }
     (atKind 2 c 0x18000001).runsOp 0 5 0x3 c 0x18000001 = true ∧ c.fits 8 = true ∧ ¬ (atKind 2 c 0x18000001).rate 0 ≤ 1600 ∧
       ((atKind 2 c 0x18000001).gals.get 0).kindOf c.listSlot = 2 ∧ (attempts [1, 1, 1]).length = 3 ∧ (attempts [1, 1, 1]).getD 2 0 ≠ 0 ∧
       (((atKind 2 c 0x18000001).busTaken 0 5).dinBytes 0 5 c 8 none).2.1 = false) ∧
    (let c : SeqCtx := { st := .bus, console := true }
     (atKind 1 c 0x18000001).runsOp 0 5 0x3 c 0x18000001 = true ∧ (((atKind 1 c 0x18000001).busTaken 0 5).dinBytes 0 5 c 8 none).2.1 = true) ∧
    (let c : SeqCtx := { st := .bus }
     (atKind 1 c 0x20040001).runsOp 0 5 0x4 c 0x20040001 = true ∧ opf 0x20040001 17 2 = 2 ∧
       (atKind 1 c 0x20020001).runsOp 0 5 0x4 c 0x20020001 = true ∧ opf 0x20020001 17 2 = 1 ∧ c.console = false ∧ c.fits (c.dataLen 0x20000001) = true) ∧
    (let c : SeqCtx := { st := .bus, step := 2 }
     (atKind 1 c 0x30000010).runsOp 0 5 0x6 c 0x30000010 = true ∧ opf 0x30000010 4 2 = 1 ∧ prof.retry.length < c.step.toNat ∧ prof.retry.length = 1) := by
  decide +kernel

/-- A poll whose first delay has not run and has; a call of hook 26 that supplies the set, that supplies none, and whose set stands; its end. -/
def hooked (last : List (Nat × List Int)) (l : Option OpSlot) (c : SeqCtx) (w : Word) : State := { up with gals := setAt up.gals 0 { up.gals.get 0 with
  ctxs := [(5, c)], slots := some ⟨1, [w]⟩ :: (List.replicate 25 none ++ [l] ++ List.replicate 37 none), lastOfs := last } }
theorem witness_SequencerHooks :
    ((atOp 0x48024040).runsOp 0 5 0x9 { st := .bus } 0x48024040 = true ∧ opf 0x48024040 17 3 ≠ 0 ∧
      (hooked [] none { st := .bus, polled := true } 0x48024040).runsOp 0 5 0x9 { st := .bus, polled := true } 0x48024040 = true) ∧
    (let c : SeqCtx := { st := .bus }
     let s : State := hooked [] (some ⟨5, [0]⟩) c 0x7800001A
     s.runsOp 0 5 0xF c 0x7800001A = true ∧ opf 0x7800001A 0 6 = 26 ∧ (s.gals.get 0).profile = some prof ∧
       s.offsetSet (chamberOf 0 (ctxCh 5)) prof c.blk.toNat c.step.toNat c.pslc = List.replicate 7 0 ∧
       Store.find (s.gals.get 0).lastOfs (ctxCh 5).val ≠ some (List.replicate 7 0) ∧ ((s.gals.get 0).slots.getD 26 none).isSome = true) ∧
    (let c : SeqCtx := { st := .bus }
     let s : State := hooked [] none c 0x7800001A
     s.runsOp 0 5 0xF c 0x7800001A = true ∧ ((s.gals.get 0).slots.getD 26 none) = none) ∧
    (let c : SeqCtx := { st := .bus }
     let s : State := hooked [((ctxCh 5).val, List.replicate 7 0)] (some ⟨5, [0]⟩) c 0x7800001A
     s.runsOp 0 5 0xF c 0x7800001A = true ∧ Store.find (s.gals.get 0).lastOfs (ctxCh 5).val = some (List.replicate 7 0)) ∧
    (let c : SeqCtx := { st := .bus, ret := some (0, 1), applying := some (List.replicate 7 0) }
     (hooked [] none c 0).runsOp 0 5 0x0 c 0 = true) ∧
    (let c : SeqCtx := { st := .bus }
     let s : State := hooked [] (some ⟨1, [0]⟩) c 0x7800001B
     (hooked [] none c 0x7800001B).runsOp 0 5 0xF c 0x7800001B = true ∧ opf 0x7800001B 0 6 ≠ 26 ∧ (s.gals.get 0).slots.getD 27 none = none) := by decide +kernel

/-- A running read of a sector that the media hold, at its stage, its list at its end or unable to go on. -/
def reading (st : RdStage) (raw : Bool) : State := { polled with
  cdc := { keys := setAt live.cdc.keys 0 (some 1), rds := [{ id := 1, loc := ⟨0, 0, 0, 0⟩, stage := st, need := .host hdr1 0 0 0 }] }
  media := { cws := if raw then [] else [(0, { kind := 0, lba := 0, key := some 1 })] } }
def rd (st : RdStage) : Rd := { id := 1, loc := ⟨0, 0, 0, 0⟩, stage := st, need := .host hdr1 0 0 0 }
/-- A group of two blocks, its parity held. -/
def grouped (st : RdStage) : State := { reading st false with map := { up.map with
  groups := [{ num := 0, flow := .sump, width := 2, pslc := true, members := [some 0, some 1], parity := [(2, 0)] }], blks := [(0, { held := true })] } }
theorem witness_DecodeRows :
    (let s : State := reading (.hard 0) false
     let u : State := s.readDone (rd (.hard 0))
     s.rd? 1 = some (rd (.hard 0)) ∧ (rd (.hard 0)).hardStep = some 0 ∧ s.reading (rd (.hard 0)) = true ∧ u.readOk (rd (.hard 0)) = true ∧
      u.hardFinds (rd (.hard 0)) ⟨295, true, true, true, true, none⟩ = .pass { kind := 0, lba := 0, key := some 1 } ∧
      295 < 296 ∧ u.hardFinds (rd (.hard 0)) ⟨296, false, true, true, true, none⟩ = .fail ∧ u.hardFinds (rd (.hard 0)) ⟨296, true, true, true, true, none⟩ = .wrong) ∧
    (let s : State := { reading (.hard 0) false with gals := setAt polled.gals 0 { polled.gals.get 0 with slots := List.replicate 64 (some ⟨1, [0x100]⟩) } }
     s.reading (rd (.hard 0)) = true ∧ (s.readDone (rd (.hard 0))).readOk (rd (.hard 0)) = false) ∧
    (let s : State := { reading (.hard 0) false with cdc := { (reading (.hard 0) false).cdc with keys := Vector.replicate 9 none } }
     (s.readDone (rd (.hard 0))).readOk (rd (.hard 0)) = true ∧ (s.readDone (rd (.hard 0))).hardFinds (rd (.hard 0)) ⟨0, true, true, true, true, none⟩ = .noKey) ∧
    (let x : Rd := { rd .soft1 with softLane := some 1 }
     let s : State := { reading .soft1 false with cdc := { (reading .soft1 false).cdc with rds := [x] } }
     let u : State := s.readDone x
     let v : State := u.readRow x (s.softRow2 x)
     s.rd? 1 = some x ∧ x.soft = true ∧ s.reading x = true ∧ u.readOk x = true ∧ v.readOk x = true ∧
      v.softFinds x ⟨400, true, true, true, true, none⟩ = .pass { kind := 0, lba := 0, key := some 1 } ∧ v.softFinds x ⟨400, false, true, true, true, none⟩ = .fail ∧
      v.softFinds x ⟨400, true, false, true, true, none⟩ = .wrong) ∧
    ((reading .rebuild false).rd? 1 = some (rd .rebuild) ∧ (reading .rebuild false).parityHeld ⟨0, 0, 0, 0⟩ = false) ∧
    ((grouped .rebuild).rd? 1 = some (rd .rebuild) ∧ (grouped .rebuild).parityHeld ⟨0, 0, 0, 0⟩ = true ∧
      (grouped .rebuild).softFinds (rd .rebuild) ⟨0, false, true, true, true, none⟩ = .fail ∧
      (grouped .rebuild).softFinds (rd .rebuild) ⟨0, true, true, true, true, none⟩ = .pass { kind := 0, lba := 0, key := some 1 }) := by decide +kernel

/-- A read that is not there, one in a soft stage and one that does not run; a soft read whose list cannot go on; rebuilds without a key and with a wrong
header, and after its sources. -/
theorem witness_DecodeStops :
    (live.rd? 1 = none) ∧
    ((reading .soft1 false).rd? 1 = some (rd .soft1) ∧ (rd .soft1).hardStep = none ∧ (rd .soft1).softLane ≠ some 0) ∧
    (let s : State := { reading (.hard 0) false with gals := live.gals }
     s.rd? 1 = some (rd (.hard 0)) ∧ s.reading (rd (.hard 0)) = false ∧ (rd (.hard 0)).soft = false ∧ (rd (.hard 0)).stage ≠ .rebuild) ∧
    (let x : Rd := { rd .soft1 with softLane := some 1 }
     let s : State := { reading .soft1 false with
       cdc := { (reading .soft1 false).cdc with rds := [x] }
       gals := setAt polled.gals 0 { polled.gals.get 0 with slots := List.replicate 64 (some ⟨1, [0x100]⟩) } }
     s.rd? 1 = some x ∧ x.soft = true ∧ s.reading x = true ∧ (s.readDone x).readOk x = false) ∧
    (let s : State := { (grouped .rebuild) with cdc := { (grouped .rebuild).cdc with keys := Vector.replicate 9 none } }
     s.parityHeld ⟨0, 0, 0, 0⟩ = true ∧ s.softFinds (rd .rebuild) ⟨0, true, true, true, true, none⟩ = .noKey ∧
       (grouped .rebuild).softFinds (rd .rebuild) ⟨0, true, false, true, true, none⟩ = .wrong) ∧
    (let s : State := (grouped .rebuild).sourceReads ⟨0, 0, 0, 0⟩ {}
     (s.cdcCount .cdcHardCnt 0 32 "hard").softFinds (rd .rebuild) ⟨0, true, true, true, true, none⟩ = .pass { kind := 0, lba := 0, key := some 1 }) := by decide +kernel

/-- A staged sector with the Sump's group open; an allocation that lost its place; a codeword unencoded, with its accumulator free and with eight in
use; the lane of its gallery; a soft lane with a codeword in its queue. -/
def stagedOne : Staged := { id := 1, hdr := none, ns := 0, lba := 0, dsec := 0, data := Sector.zero, cached := true }
def sumpGroup (fill : List (Loc × List Nat)) : StripeGroup :=
  { num := 0, flow := .sump, width := 2, pslc := true, members := [some 0, some 65536], parity := [(2, 0)], fill := fill }
def alloc1 (p : Bool) : Alloc := { id := 0, staged := 1, ns := 0, lba := 0, dsec := 0, seq := 1, loc := ⟨0, 0, 0, 0⟩, data := Sector.zero, damaged := false, programmed := p }
def writing : State := { disk with
  front := { disk.front with staging := [stagedOne] }, map := { disk.map with groups := [sumpGroup []], sumpSize := 2 ^ 32, blks := [(0, { st := .opened, use := .sump, pslc := true })] } }
def encoding (e : Bool) : State := { writing with
  map := { writing.map with allocs := [alloc1 false] }
  cdc := { keys := setAt live.cdc.keys 0 (some 1), enc := [{ id := 0, cw := { kind := 0, lba := 0 }, loc := ⟨0, 0, 0, 0⟩, alloc := some 0, encoded := e }] } }
def enc0 (e : Bool) : Enc := { id := 0, cw := { kind := 0, lba := 0 }, loc := ⟨0, 0, 0, 0⟩, alloc := some 0, encoded := e }
theorem witness_WritePathRows :
    (writing.openOf .sump = some (sumpGroup []) ∧ writing.mapUp = true ∧ writing.sumpUsed < writing.map.sumpSize ∧
      writing.fillFull (sumpGroup []) = false ∧ (writing.map.allocs.find? (·.unplaced)) = none ∧ writing.nextStaged = some stagedOne ∧
      writing.pendRoom 0 = true ∧ (writing.newId.2.allocIn 0 0).isSome = true) ∧
    (let s : State := { writing with map := { writing.map with allocs := [{ alloc1 false with unplaced := true }] } }
     s.openOf .sump = some (sumpGroup []) ∧ s.mapUp = true ∧ s.sumpUsed < s.map.sumpSize ∧ s.fillFull (sumpGroup []) = false ∧
      (s.map.allocs.find? (·.unplaced)) = some { alloc1 false with unplaced := true }) ∧
    (let s : State := encoding false
     (s.cdc.enc.find? fun e => e.id == 0) = some (enc0 false) ∧ s.accRoom (enc0 false).loc.blk (enc0 false).loc.page 1 = true ∧
      State.encSlot (enc0 false) = some 0 ∧ (s.cdc.keys.get 0).isSome = true ∧ s.xtsOut = false ∧
      (s.map.allocs.find? fun a => (enc0 false).alloc == some a.id) = some (alloc1 false)) ∧
    (let s : State := { encoding false with front := { disk.front with staging := [{ stagedOne with cached := false }] } }
     ((s.front.staging.find? fun x => x.id == (alloc1 false).staged).map (·.cached)).getD false = false ∧ (enc0 false).tries = 0) ∧
    (let s : State := { encoding false with map := { writing.map with groups := [{ sumpGroup [] with accs := (List.range 8).map fun i => (i + 1, []) }] } }
     s.accRoom (enc0 false).loc.blk (enc0 false).loc.page 1 = false) ∧
    (encoding false).laneBusy 0 = true ∧ (encoding false).laneBusy 7 = false ∧ (encoding false).softLoad 1 = 0 ∧
    0 < ({ encoding false with cdc := { (encoding false).cdc with rds := [{ rd .soft2 with softLane := some 1 }] } } : State).softLoad 1 := by decide

/-- A full page of encoded codewords; no group and none that can be opened but the Map engine's own; the map not mounted. -/
def filled : State := { encoding true with map := { writing.map with groups := [sumpGroup [(⟨0, 0, 0, 0⟩, [0, 0, 0, 0])]] } }
theorem witness_PageRelease :
    (filled.openOf .sump = some (sumpGroup [(⟨0, 0, 0, 0⟩, [0, 0, 0, 0])]) ∧ ([0, 0, 0, 0] : List Nat) ≠ [] ∧
      ([0, 0, 0, 0].all fun i => filled.cdc.enc.all fun e => e.id != i || e.encoded) = true ∧
      filled.fillFull (sumpGroup [(⟨0, 0, 0, 0⟩, [0, 0, 0, 0])]) = true) ∧ live.mapUp = false := by decide

/-- A programmed allocation of no command, of one that is all programmed, and of one that is not. -/
def committing (h : Option Hdr) (cached : Bool) (l : List Staged) : State := { disk with
  front := { disk.front with staging := { stagedOne with hdr := h, cached, alloc := some 0 } :: l }, map := { disk.map with allocs := [alloc1 true] } }
theorem witness_Commit :
    (((committing none false []).map.allocs.find? fun a => a.id == 0) = some (alloc1 true) ∧ (committing none false []).mapUp = true ∧
      (committing none false []).dirtyRoom (alloc1 true).dsec = true ∧
      (((committing none false []).front.staging.find? fun x => x.id == 1).bind fun x => x.hdr) = none) ∧
    ((((committing (some hdr1) false []).front.staging.find? fun x => x.id == 1).bind fun x => x.hdr) = some hdr1 ∧
      (committing (some hdr1) false []).commandProgrammed hdr1 = true) ∧
    (let s : State := committing (some hdr1) false [{ stagedOne with id := 2, hdr := some hdr1, cached := false }]
     s.commandProgrammed hdr1 = false ∧ ((s.front.staging.find? fun x => x.id == 1).map (·.cached)) = some false) := by decide

/-- A closed Sump block with a valid sector; closed native blocks to collect and to level; a refresh that waits. -/
def blocks (l : List (Nat × Blk)) : State := { disk with map := { disk.map with blks := l } }
def natBlk (n : Nat) : Blk := { st := .closed, use := .native, valid := 1, erase := n }
theorem witness_BackgroundRows : (disk.mapUp = true ∧ disk.bgPaused = false ∧ disk.hostIdle = true) ∧
    ((let s : State := blocks [(0, { st := .closed, use := .sump, valid := 1, pslc := true })]
      (s.blk 0).use = .sump ∧ (s.blk 0).st = .closed ∧ 0 < (s.blk 0).valid ∧ s.candidate 0 = false ∧ s.map.sumpSize < 2 * s.sumpUsed ∧
      (s.map.blks.all fun e => !(e.2.use == .sump && e.2.st == .closed && decide (e.2.valid > 0)) || decide ((s.blk 0).closeSeq ≤ e.2.closeSeq)) = true)) ∧
    (let s : State := blocks [(0, natBlk 0), (1, natBlk 151)]
     s.refProf = some prof ∧ s.leastWorn = some (0, natBlk 0) ∧ s.collectable (0, natBlk 0) = true ∧ max 100 (prof.ratedNative / 20) < s.map.blks.foldl (fun a e => max a e.2.erase) 0 - (natBlk 0).erase) ∧
    (let s : State := { blocks [(2, natBlk 0)] with map := { (blocks [(2, natBlk 0)]).map with refQ := [⟨2, 5, 0, false, 0⟩] } }
     s.map.nextRefresh = some ⟨2, 5, 0, false, 0⟩ ∧ 0 < (s.blk 2).valid ∧ (s.blk 2).use ≠ .map ∧ s.map.secure = none) ∧
    (let s : State := { blocks [(2, { natBlk 0 with use := .map })] with map := { (blocks [(2, { natBlk 0 with use := .map })]).map with refQ := [⟨2, 5, 0, false, 0⟩] } }
     s.map.nextRefresh = some ⟨2, 5, 0, false, 0⟩ ∧ 0 < (s.blk 2).valid ∧ (s.blk 2).use = .map) ∧
    (let s : State := { disk with map := { disk.map with refQ := [⟨2, 5, 0, false, 0⟩] } }
     s.map.nextRefresh = some ⟨2, 5, 0, false, 0⟩ ∧ (s.blk 2).valid = 0 ∧ (s.map.relocs.any fun r => r.src.blk == 2) = false) ∧
    ((disk.map.relocs.find? fun r => r.id == 0).all fun r => disk.dirtyRoom r.dsec) = true ∧
    ({ disk with sys := { disk.sys with st := .test } } : State).bgPaused = true := by decide

/-- No block free, with one to collect; a stripe group that can be placed on eight galleries. -/
def wide (p : Profile) (bs : List (Nat × Blk)) : State := { disk with
  gals := setAt disk.gals 0 { disk.gals.get 0 with profile := some p }, map := { disk.map with blks := bs } }
def eight : State := State.setRf { disk with gals := Vector.replicate 8 (disk.gals.get 0), map := { disk.map with present := [0, 16, 32, 48, 64, 80, 96, 112, 2] } } .cdcCtl 8 5 8
theorem witness_FoldAndCollection :
    (let s : State := { wide { prof with blocks := 10 } ((List.range 10).map fun i => (i, natBlk 0)) with settings := { disk.settings with mapGcLow := 15 } }
     s.mapUp = true ∧ s.bgPaused = false ∧ s.urgent = true ∧ s.victim s.urgent = some 0) := by decide

theorem witness_StripeGroupOpen : eight.mapUp = true ∧ eight.map.groups = [] ∧ (eight.openGroup .fold).isSome = true := by decide +kernel

/-- A sector to retry where it stood, one that moved, and one no longer mapped; a partial write alone, after a whole write and after a partial one of its
sector; a dirty page with the Map engine's own group open. -/
def retrying (n : Nat) : State := { disk with map := { disk.map with retries := [⟨0, 0, n⟩] } }
def partialOne : Staged := { stagedOne with partialMask := some [true] }
def mapping : State := { disk with map := { disk.map with
  cache := [⟨0, 3, true, false, 1⟩], groups := [{ sumpGroup [] with flow := .map }], blks := [(0, { st := .opened, use := .map, pslc := true })] } }
def retryMapped (blk : Nat) : State := { disk with map := { disk.map with
  retries := [⟨0, blk, 0⟩], entries := [(0, .mapped ⟨0, 0, 0, 0⟩)], groups := [{ sumpGroup [] with flow := .relocation }] } }
def staging2 (p : Option (List Bool)) : State := { disk with front := { disk.front with staging := [partialOne, { stagedOne with id := 0, partialMask := p }] } }
theorem witness_SectorRows :
    (((retryMapped 0).map.retries.find? fun r => r.dsec == 0 && r.blk == 0) = some ⟨0, 0, 0⟩ ∧ (retryMapped 0).mapRuns = true ∧ (retryMapped 0).bgPaused = false ∧
      ((retryMapped 0).map.relocs.any fun x => x.dsec == 0) = false ∧ (retryMapped 0).entry 0 = .mapped ⟨0, 0, 0, 0⟩ ∧
      (retryMapped 0).openOf .relocation = some { sumpGroup [] with flow := .relocation } ∧ (⟨0, 0, 0, 0⟩ : Loc).blk = 0) ∧
    (((retryMapped 9).map.retries.find? fun r => r.dsec == 0 && r.blk == 9) = some ⟨0, 9, 0⟩ ∧ (⟨0, 0, 0, 0⟩ : Loc).blk ≠ 9) ∧
    (((retrying 1).map.retries.find? fun r => r.dsec == 0 && r.blk == 0) = some ⟨0, 0, 1⟩ ∧ (retrying 1).entry 0 = .unmapped) ∧
    (let s : State := { disk with front := { disk.front with staging := [partialOne] } }
     (s.front.staging.find? fun x => x.ns == 0 && x.lba == 0 && x.partialMask.isSome) = some partialOne ∧ s.mapUp = true ∧
       (s.cdc.rds.any fun r => r.need == .merge 1 0 0) = false ∧ (s.map.waiters.any fun w => w.2 == .merge 1 0 0) = false ∧
       (s.front.staging.filter fun y => y.dsec == partialOne.dsec && decide (y.id < 1)) = []) ∧
    (([staging2 none, staging2 (some [true])].all fun s =>
        (s.front.staging.find? fun x => x.ns == 0 && x.lba == 0 && x.partialMask.isSome) == some partialOne) = true ∧
      ((staging2 none).front.staging.filter fun y => y.dsec == 0 && decide (y.id < 1)).getLast? = some { stagedOne with id := 0 } ∧
      (((staging2 none).front.staging.filter fun y => y.dsec == 0 && decide (y.id < 1)).any fun y => y.partialMask.isSome) = false ∧
      (((staging2 (some [true])).front.staging.filter fun y => y.dsec == 0 && decide (y.id < 1)).any fun y => y.partialMask.isSome) = true) ∧
    (mapping.mapRuns = true ∧ (mapping.map.cache.find? fun p => p.series == 3 / 2 ^ 38 && p.num == 3 % 2 ^ 38) = some ⟨0, 3, true, false, 1⟩ ∧
      mapping.openOf .map = some { sumpGroup [] with flow := .map } ∧ (mapping.cdc.enc.any fun e => e.cw.kind == 1 && e.cw.lba == 3) = false ∧
      (mapping.newId.2.allocIn 0 mapping.newId.1).isSome = true) := by decide

/-- Nothing staged, and no group; a codeword encoded already, one without its key, one of no allocation, one of cached data and one that was fetched
twice; a flow whose group is open, and a device that leaves `test`; an allocation not programmed, and one of a cached command. -/
theorem witness_WritePathStops :
    (let s : State := { writing with front := { writing.front with staging := [] } }
     s.openOf .sump = some (sumpGroup []) ∧ (s.map.allocs.find? (·.unplaced)) = none ∧ s.nextStaged = none) ∧
    (disk.openOf .sump = none ∧ filled.fillFull (sumpGroup [(⟨0, 0, 0, 0⟩, [0, 0, 0, 0])]) = true) ∧
    (live.cdc.enc.find? fun e => e.id == 0) = none ∧ ((encoding true).cdc.enc.find? fun e => e.id == 0) = some (enc0 true) ∧
    (let s : State := { encoding false with cdc := { (encoding false).cdc with keys := Vector.replicate 9 none } }
     (s.cdc.enc.find? fun e => e.id == 0) = some (enc0 false) ∧ s.accRoom (enc0 false).loc.blk (enc0 false).loc.page 1 = true ∧ State.encSlot (enc0 false) = some 0 ∧
       (s.cdc.keys.get 0).isSome = false) ∧
    (let e : Enc := { enc0 false with alloc := none }
     let s : State := { encoding false with cdc := { (encoding false).cdc with enc := [e] } }
     (s.cdc.enc.find? fun e => e.id == 0) = some e ∧ (s.map.allocs.find? fun a => e.alloc == some a.id) = none) ∧
    (((encoding false).front.staging.find? fun x => x.id == (alloc1 false).staged).map (·.cached)).getD false = true ∧
    (let e : Enc := { enc0 false with tries := 1 }
     let s : State := { encoding false with
       front := { disk.front with staging := [{ stagedOne with cached := false }] }, cdc := { (encoding false).cdc with enc := [e] } }
     (s.cdc.enc.find? fun e => e.id == 0) = some e ∧ (s.map.allocs.find? fun a => e.alloc == some a.id) = some (alloc1 false) ∧ e.tries ≠ 0) ∧
    (filled.map.groups.any fun g => g.isOpen && g.flow == .sump && ((filled.nextMember g).isSome || !g.fill.isEmpty)) = true ∧
    (disk.con.leaving && disk.taintLeft) = false ∧
    (let s : State := { blocks [(0, { st := .tainted })] with con := { live.con with leaving := true } }
     (s.con.leaving && s.taintLeft) = true) ∧
    ((encoding false).map.allocs.find? fun a => a.id == 0) = some (alloc1 false) ∧ (live.map.allocs.find? fun a => a.id == 0) = none ∧
    (let s : State := committing (some hdr1) true []
     ((s.front.staging.find? fun x => x.id == 1).bind fun x => x.hdr) = some hdr1 ∧ ((s.front.staging.find? fun x => x.id == 1).map (·.cached)) = some true) := by
  decide +kernel

/-- A block that a Secure Deallocate examines; an idle host with few free blocks and nothing to collect, and one with enough; a block held, which wear
levelling leaves; refreshes of a block that is examined and of another; a copy that is not programmed, one that finds its source and one that does not. -/
def examined (l : List (Nat × Blk)) : State := { blocks l with map := { (blocks l).map with
  secure := some { hdr := none, s0 := 0, ranges := [], candidates := [], hits := [2], phase := 2, resumed := false }, refQ := [⟨2, 5, 0, false, 0⟩] } }
def copying (p : Bool) (e : Entry) : State := { disk with map := { disk.map with
  entries := [(0, e)], relocs := [{ id := 0, flow := .relocation, dsec := 0, src := ⟨0, 0, 0, 0⟩, dst := ⟨0, 1, 0, 0⟩, cause := 1, programmed := p }] } }
theorem witness_BackgroundStops :
    ((examined [(2, natBlk 0)]).candidate 2 = true ∧ (examined [(2, natBlk 0)]).map.nextRefresh = some ⟨2, 5, 0, false, 0⟩ ∧
      0 < ((examined [(2, natBlk 0)]).blk 2).valid ∧ (examined [(2, natBlk 0)]).readOnly = false ∧ (examined [(2, natBlk 0)]).map.secure.isSome = true) ∧
    (let s : State := { examined [(3, natBlk 0)] with map := { (examined [(3, natBlk 0)]).map with refQ := [⟨3, 5, 0, false, 0⟩] } }
     s.map.nextRefresh = some ⟨3, 5, 0, false, 0⟩ ∧ 0 < (s.blk 3).valid ∧ s.map.secure.isSome = true ∧ ((s.map.secure.map fun x => x.hits.contains 3).getD true) = false) ∧
    (let s : State := { wide { prof with blocks := 10 } ((List.range 10).map fun i => (i, { natBlk 0 with held := true })) with settings := { disk.settings with mapGcLow := 15 } }
     s.urgent = true ∧ s.victim s.urgent = none) ∧
    (let s : State := { wide { prof with blocks := 10 } ((List.range 8).map fun i => (i, natBlk 0)) with settings := { disk.settings with mapGcLow := 15 } }
     s.mapUp = true ∧ s.bgPaused = false ∧ s.urgent = false ∧ s.gcBelow 2 = true ∧ s.hostIdle = true ∧ s.victim s.urgent = some 0) ∧
    (disk.urgent = false ∧ disk.gcBelow 2 = false) ∧
    (let s : State := blocks [(0, { natBlk 0 with held := true })]
     s.leastWorn = some (0, { natBlk 0 with held := true }) ∧ s.collectable (0, { natBlk 0 with held := true }) = false) ∧
    ((copying true (.mapped ⟨0, 0, 0, 0⟩)).entry 0 = .mapped ⟨0, 0, 0, 0⟩ ∧ (copying true (.mapped ⟨0, 0, 0, 0⟩)).secured 0 = false ∧
      (copying true (.mapped ⟨0, 2, 0, 0⟩)).entry 0 ≠ .mapped ⟨0, 0, 0, 0⟩ ∧ (copying true (.mapped ⟨0, 2, 0, 0⟩)).secured 0 = false ∧
      ((copying false .unmapped).map.relocs.find? fun r => r.id == 0).map (·.programmed) = some false) ∧
    (let s : State := { disk with map := { disk.map with retries := [⟨0, 0, 0⟩], entries := [(0, .mapped ⟨0, 0, 0, 0⟩)] } }
     (s.map.retries.find? fun r => r.dsec == 0 && r.blk == 0) = some ⟨0, 0, 0⟩ ∧ s.mapRuns = true ∧ s.openOf .relocation = none ∧ s.entry 0 = .mapped ⟨0, 0, 0, 0⟩) ∧
    (disk.map.retries.find? fun r => r.dsec == 0 && r.blk == 0) = none ∧
    (let s : State := { mapping with map := { mapping.map with cache := [⟨0, 3, false, false, 1⟩] } }
     (s.map.cache.find? fun p => p.series == 3 / 2 ^ 38 && p.num == 3 % 2 ^ 38) = some ⟨0, 3, false, false, 1⟩ ∧ s.openOf .map = some { sumpGroup [] with flow := .map }) ∧
    disk.openOf .map = none := by decide +kernel

/-- Programs and erases whose lists end ok and fail; a closed member that verifies; an empty closed block, one with two heavy decodes and one to be
retired; a chamber to prepare a block on; a chamber suspect for a day and for a second less. -/
def verifyGroup : StripeGroup := { sumpGroup [] with flow := .relocation }
def ending (k : OpKind) (code : Word) : State := { up with gals := setAt up.gals 0 { up.gals.get 0 with
  slots := List.replicate 64 (some ⟨2, [code]⟩), ops := [{ opProg false with kind := k }], ctxs := [(0, { slot := 2, st := .bus })] } }
def verifyState : State := { disk with map := { disk.map with groups := [verifyGroup], blks := [(0, natBlk 0)] } }
def emptied (b : Blk) : State := blocks [(3, { b with st := .closed, use := .native, emptyAt := some 2 })]
def aged (n : Nat) : State := { disk.setRf (.galSuspect 0) 0 1 1 with map := { disk.map with suspectSecs := [(0, n)] } }
theorem witness_BlockRows :
    (let o (k : OpKind) : GOp := { opProg false with kind := k }
     ((ending .program 0).op? 0 3 = some (o .program) ∧ (o .program).running = true ∧ (o .program).suspended = false ∧ (o .program).need ≠ .console ∧
       ((ending .program 0).finishOp 0 (o .program) { status := ready }).opOut 0 3 = some .ok) ∧
     ((ending .erase 0).op? 0 3 = some (o .erase) ∧ ((ending .erase 0).finishOp 0 (o .erase) { status := ready }).opOut 0 3 = some .ok) ∧
     ((ending .program 0x100).finishOp 0 (o .program) { status := readyFail }).opOut 0 3 = some .fail ∧
     ((ending .erase 0x100).finishOp 0 (o .erase) { status := readyFail }).opOut 0 3 = some .fail) ∧ opErase.retried = false ∧
    (verifyState.groupOf 0 = some verifyGroup ∧ (verifyState.blk 0).st = .closed ∧ verifyState.mapRuns = true ∧
      (List.replicate 24 (⟨0, true, true, true, true, none⟩ : DecodeResult)).length = 4 * verifyState.pagesOf 0 ∧
      (List.replicate 24 (⟨0, true, true, true, true, none⟩ : DecodeResult)).all verifyState.verifies = true) ∧
    (let u : State := (emptied {}).releaseOf 3
     u.mapRuns = true ∧ u.hasBlk 3 = true ∧ u.erasable 3 = true ∧ (u.blk 3).retire = 0 ∧ (u.blk 3).heavy = false ∧ u.wptRoom 3 = true) ∧
    (let u : State := (emptied { heavy := true, strikes := 2 }).releaseOf 3
     u.hasBlk 3 = true ∧ u.erasable 3 = true ∧ (u.blk 3).retire = 0 ∧ (u.blk 3).heavy = true ∧ 2 ≤ (u.blk 3).strikes) ∧
    (let u : State := (emptied { retire := 4 }).releaseOf 3
     u.hasBlk 3 = true ∧ u.erasable 3 = true ∧ (u.blk 3).retire ≠ 0) ∧
    (disk.mapRuns = true ∧ disk.map.present.contains 0 = true ∧ disk.suspect 0 = false ∧ (disk.con.leaving && disk.taintLeft) = false ∧
      disk.reserveOf 0 = some 0 ∧ disk.wptRoom 0 = true ∧
      (disk.map.blks.any fun e => e.1 / 65536 == (0 : Fin 128).val && e.2.st == .erased && e.2.use == .none) = false) ∧
    ((aged 86400).mapRuns = true ∧ (aged 86400).suspect 0 = true ∧ (aged 86400).map.present.contains 0 = true ∧
      86400 ≤ Store.get (fun _ => 0) (aged 86400).map.suspectSecs (0 : Fin 128).val ∧
      Store.get (fun _ => 0) (aged 86399).map.suspectSecs (0 : Fin 128).val < 86400) := by decide +kernel

/-- An erase whose list times out; no operation, one suspended and a read; a member with codewords that fail, and a block of no group; an erasable block
whose chamber's table is full; one that cannot be erased, and none; a chamber with its reserve; none suspect, and none there. -/
theorem witness_BlockStops :
    (let o : GOp := { opProg false with kind := .erase }
     ((ending .erase 0x48004040).op? 0 3 = some o ∧ ((ending .erase 0x48004040).finishOp 0 o { status := 0 }).opOut 0 3 = some .timeout)) ∧
    (up.op? 0 3 = none ∧ (opProg true).suspended = true ∧ opRead.kind = .read) ∧
    (verifyState.groupOf 0 = some verifyGroup ∧ (List.replicate 24 (⟨296, false, true, true, true, none⟩ : DecodeResult)).all verifyState.verifies = false ∧
      (blocks [(0, natBlk 0)]).groupOf 0 = none) ∧
    (let s : State := (emptied {}).gal 0 fun y => { y with wpt := List.replicate 16 (List.replicate 8 ⟨9, 0, .erased⟩) }
     let u : State := s.releaseOf 3
     u.mapRuns = true ∧ u.hasBlk 3 = true ∧ u.erasable 3 = true ∧ (u.blk 3).retire = 0 ∧ (u.blk 3).heavy = false ∧ u.wptRoom 3 = false) ∧
    (let u : State := (blocks [(3, natBlk 0)]).releaseOf 3
     u.erasable 3 = false ∧ u.hasBlk 70000 = false) ∧
    (let s : State := blocks [(3, { st := .erased })]
     (s.map.blks.any fun e => e.1 / 65536 == (0 : Fin 128).val && e.2.st == .erased && e.2.use == .none) = true) ∧
    (disk.suspect 0 = false ∧ disk.map.present.contains 1 = false) := by decide +kernel

/-- A checkpoint wanted, with a shelf; a supply rail below its warning; a shelf at its end; a journal record that fits. -/
def shelved : State := { disk with
  gals := setAt disk.gals 0 { disk.gals.get 0 with wpt := List.replicate 16 [⟨1, 0, .erased⟩] }
  map := { disk.map with changed := true, ckptWant := true, shelf := [1, 65537], jBuf := [(1, .closed 5)] } }
def shelvedAs (mounted : Bool) : State := { shelved with map := { shelved.map with mounted, walked := true } }
theorem witness_RecoveryRows : (shelved.mapUp = true ∧ shelved.map.changed = true) ∧
    (shelved.mapLoaded = true ∧ shelved.sys.ps.val ≤ 2 ∧ shelved.map.ckptWant = true ∧ shelved.map.shelf ≠ [] ∧ shelved.mendShelf.ckptMay = true ∧
      shelved.map.mounted = true) ∧
    ((shelvedAs false).mapLoaded = true ∧ (shelvedAs false).mendShelf.ckptMay = true ∧ (shelvedAs false).map.mounted = false) ∧
    ((shelved.setRf .sysSupply 0 5 1).brownWarning = true ∧ (shelved.setRf .sysSupply 0 5 1).mendShelf.ckptMay = false ∧
      (shelved.setRf .sysSupply 0 5 1).mendShelf.shelfMay = false) ∧
    (shelved.mapRuns = true ∧ shelved.shelfDue = true ∧ shelved.ckptMay = true) ∧
    (shelved.mapLoaded = true ∧ shelved.sys.ps.val ≤ 2 ∧ shelved.mendShelf.shelfMay = true) ∧
    (disk.map.changed = false ∧ disk.map.shelf = [] ∧ disk.map.ckptWant = false ∧ disk.eraseWaits = false ∧ disk.map.jBuf.take (pageTake (disk.map.jBuf.map (·.2)) 0 0) = []) ∧
    2 < ({ shelved with sys := { shelved.sys with ps := 3 } } : State).sys.ps.val ∧
    (shelved.map.jBuf.take (pageTake (shelved.map.jBuf.map (·.2)) 0 0) ≠ [] ∧ 0 < shelved.freePositions ∧ shelved.mendShelf.map.jWait = []) ∧
    2 < (4 : Fin 5).val := by decide +kernel

/-- A device ready to mount; one with more blocks than the map holds; the walk, the scan at its first and last phase, the reload. -/
def ready (p : Profile) : State := { up with
  gals := setAt up.gals 0 { up.gals.get 0 with profile := some p }, map := { up.map with mounted := false, present := [0] } }
def many : Profile := { prof with blocks := 524289 }
theorem ready_mounts : (ready prof).mountReady = true ∧ (ready many).mountReady = true := by
  simp only [State.mountReady, vec_any]
  decide
def readyWith (b : Option (List Nat)) (a : List Anchor) (r : List Root) : State := { ready prof with
  map := { (ready prof).map with roots := r, ns := disk.map.ns }, bst := { live.bst with badTable := b, anchors := a, chain := some ⟨1, 1, 18, 0⟩ } }
def rootOne : Root := ⟨1, 7, 0, 0, 0, 0, [], [], [], [], {}, [], [], 0, 0, none, 0, 0, 0, 0, []⟩
def anchorOne : Anchor := ⟨7, 1, [1, 65537], [], []⟩
def mounting (s : State) : State := { s.formChain with bst := s.formChain.bst.ringMount.badMount }
theorem readyWith_mounts : (readyWith none [] []).mountReady = true ∧ (readyWith (some []) [] []).mountReady = true ∧
    (readyWith (some []) [] [rootOne]).mountReady = true ∧ (readyWith (some []) [anchorOne] [rootOne]).mountReady = true := by
  simp only [State.mountReady, vec_any]
  decide
theorem readyWith_kept : (mounting (readyWith none [] [])).bst.badTable = none ∧ (mounting (readyWith (some []) [] [])).bst.badTable = some [] ∧
    (mounting (readyWith (some []) [] [])).rootChoices = [] ∧ (mounting (readyWith (some []) [anchorOne] [rootOne])).bst.badTable = some [] ∧
    (mounting (readyWith (some []) [] [rootOne])).rootChoices = [rootOne] ∧ (mounting (readyWith (some []) [] [rootOne])).bst.anchors = [] ∧
    (mounting (readyWith (some []) [anchorOne] [rootOne])).rootChoices = [rootOne] ∧
    (mounting (readyWith (some []) [anchorOne] [rootOne])).bst.anchors ≠ [] := by
  simp only [mounting, State.formChain, vec_all]
  decide +kernel
theorem witness_MountRows : (ready prof).mountReady = true ∧ ((ready prof).refProf = some prof ∧ (ready prof).totalBlocks ≤ 524288) ∧
    ((ready many).mountReady = true ∧ (ready many).refProf = some many ∧
      524288 < (ready many).totalBlocks) :=
  ⟨ready_mounts.1, ⟨by decide, by decide⟩, ready_mounts.2, by decide, by decide⟩
theorem witness_MountSteps :
    (let s : State := { live with map := { live.map with mountPath := 1 } }
     s.inReset = false ∧ s.map.walked = false ∧ s.map.mountPath = 1) ∧
    ((live.setRf .mapScan 0 3 1).rf .mapScan 0 3 ≠ 0 ∧ (live.setRf .mapScan 0 3 4).rf .mapScan 0 3 < 5 ∧ live.rf .mapScan 0 3 = 0) ∧
    (let s : State := { live with map := { live.map with recordsLoaded := false } }
     s.inReset = false ∧ s.map.recordsLoaded = false ∧ s.sys.ps.val < 3) ∧
    (live.map.walked = true ∨ (live.map.mountPath ≠ 1 ∧ live.map.mountPath ≠ 2)) ∧ 5 ≤ (live.setRf .mapScan 0 3 5).rf .mapScan 0 3 ∧
    live.map.recordsLoaded = true ∧ live.refProf = none := by decide

/-- Firmware running and not; held commands with the map mounted. -/
theorem witness_WatchdogAndReplay : live.sys.fw = true ∧ live.inReset = false ∧
    ({ live with sys := { live.sys with fw := false } } : State).sys.fw = false ∧
    (let s : State := { disk with front := { disk.front with held := true } }
     s.front.held = true ∧ s.inReset = false ∧ s.map.mounted = true) ∧
    (let s : State := { live with front := { live.front with held := true }, sys := { live.sys with st := .recovery } }
     s.front.held = true ∧ s.inReset = false ∧ s.map.mounted = false ∧ s.isSt .recovery = true) ∧
    live.front.held = false ∧ State.reset.inReset = true := by decide

/-- Die samples on either side of 125 °C, the second one in a row; a chamber's list; a rail sample with its gain; an hour at its end. -/
def hot : State := { live with assay := { live.assay with hot := 1 } }
def tempListed (code : Word) : State := { disk with gals := setAt disk.gals 0 { disk.gals.get 0 with slots := List.replicate 64 (some ⟨0, [code]⟩), hasRead := true } }
theorem witness_GovernorRows : (live.sys.ps.val ≠ 4 ∧ (499 : Int) < 500) ∧ ((500 : Int) ≤ 500 ∧ hot.assay.hot = 1 ∧ hot.sys.tripHold = false) ∧
    ((tempListed 0).inReset = false ∧ (tempListed 0).sys.ps.val ≤ 2 ∧ (tempListed 0).populated.contains 0 = true ∧ (tempListed 0).tempList 0 = true ∧
      ((tempListed 0).gals.get (galOf 0)).hasRead = true ∧ (tempListed 0).mayRun 0 = true ∧
      Store.get (fun _ => 0) (tempListed 0).assay.listFails 0 < 3 ∧ ((tempListed 0).runTemp 0 (some [0x19])).1 = .ok) ∧
    (((tempListed 0x100).runTemp 0 (some [])).1 = .fail ∧ ((tempListed 0x48004040).runTemp 0 none).1 = .timeout) ∧
    (let s : State := { tempListed 0 with assay := { live.assay with listFails := [(0, 3)] } }
     3 ≤ Store.get (fun _ => 0) s.assay.listFails (0 : Fin 128).val) ∧
    (let s : State := { live with settings := { live.settings with govIsnsGain := 1 } }
     s.sys.ps.val ≠ 4 ∧ s.inReset = false ∧ s.settings.govIsnsGain ≠ 0 ∧ (s.assay.powAcc ++ [(0, 0)]).length < 10) ∧
    (let s : State := { live with assay := { live.assay with powAcc := List.replicate 9 (0, 0) } }
     s.sys.ps.val ≠ 4 ∧ s.inReset = false ∧ 10 ≤ (s.assay.powAcc ++ [(0, 0)]).length) ∧
    ((disk.gals.get (galOf 0)).hasRead = false ∧ disk.tempList 0 = false ∧ live.populated.contains 0 = false ∧
      ((tempListed 0).gal 0 fun y => { y with inService := false }).mayRun 0 = false) ∧
    (125 ≤ wholeC 500 ∧ ({ live with sys := { live.sys with ps := 4 } } : State).sys.ps.val = 4 ∧ up.galPowered 0 = true ∧ live.galPowered 0 = true) ∧
    (live.inReset = false ∧ live.sys.ps.val < 3) ∧ live.rf .mapScan 0 3 = 0 ∧ (live.setRf .mapScan 0 3 5).rf .mapScan 0 3 ≠ 0 ∧
    (let s : State := { live with sys := { live.sys with ps := 4, life := 3600, hist := { live.sys.hist with hourMax := some 50 } } }
     s.sys.hist.hourMax.isSome = true ∧ s.sys.life % 3600 = 0 ∧ s.sys.ps.val = 4) ∧
    ({ live with sys := { live.sys with life := 3599 } } : State).sys.life % 3600 ≠ 0 := by decide +kernel

/-- A group that a valley search can take; sweeps with no block, with a closed and with an open one; a patrol and a refresh wake that are due. -/
def searching : State := { blocks [(0, natBlk 0)] with settings := { live.settings with assaySearch := true } }
def asleep : State := { disk with sys := { disk.sys with ps := 4, life := 28800, ps4At := 28800 } }
theorem witness_PatrolAndSearchRows :
    (searching.mapUp = true ∧ searching.hook26 0 = true ∧ searching.settings.assaySearch = true ∧ searching.sys.ps.val ≤ 2 ∧ searching.isSt .service = true ∧ searching.mayRun 0 = true ∧
      searching.hostIdle = true ∧ (searching.searchable (galOf 0)).contains (0, 0) = true ∧
      ((searching.searchable (galOf 0)).all fun x => decide ((searching.ofs 0 0).rank ≤ (searching.ofs x.1 x.2).rank)) = true) ∧
    (let s : State := { disk with map := { disk.map with sweepDue := true } }
     s.mapUp = true ∧ s.map.sweepDue = true ∧ s.isSt .service = true ∧ s.sys.ps.val ≤ 2 ∧ s.map.blks = []) ∧
    (let s : State := blocks [(0, natBlk 0)]
     s.map.blks = [(0, natBlk 0)] ∧ (natBlk 0).st = .closed ∧ (natBlk 0).sealed = false ∧ (natBlk 0).use = .native ∧
       resultOf [(0, (none : Option (List Nat)))] 0 = some none) ∧
    (let s : State := blocks [(0, { st := .opened, use := .native, next := 1 })]
     s.map.blks = [(0, { st := .opened, use := .native, next := 1 })] ∧ resultOf [(0, (⟨296, false, true, true, true, none⟩ : DecodeResult))] 0 ≠ none) ∧
    (searching.suspect 0 = false ∧ (suspectOnly searching).suspect 0 = true ∧ (suspectOnly searching).prof 0 = some prof ∧
      ((suspectOnly searching).sampleBlock 0 0).isSome = true) ∧ ([(0 : Nat)].all fun k => (blocks [(0, natBlk 0)]).mayRun (chOfBlk k)) = true ∧
    disk.map.sweepDue = false ∧ asleep.patrolDue = true ∧ disk.patrolDue = false ∧
    (let s : State := { asleep with map := { asleep.map with patrolQ := [(0, 0)] } }
     s.sys.ps.val = 4 ∧ s.isSt .test = false ∧ s.settings.patrolWakeRefresh = true ∧ s.brownWarning = false ∧
       s.budgeted ((s.map.patrolQ.filterMap fun q => s.ofDevBlock q.1)) (s.chargedMj + 50) ≠ []) := by decide +kernel

/-- A subordinate that is to enter PS3 and PS4; a master asked for its clock in PS4 and in L1.2; a wake that has begun; a link to put in L1.2. -/
def wanting (p : Fin 5) : State := { sub with sys := { sub.sys with psWant := some p } }
theorem witness_PowerStateRows :
    ((wanting 3).inReset = false ∧ (wanting 3).sys.psWant = some 3 ∧ (wanting 3).sys.ps.val ≤ 2 ∧ (wanting 3).quiet = true ∧ (wanting 3).isMaster = false ∧
      ((wanting 3).standby 3).isMaster = false) ∧
    ((wanting 4).inReset = false ∧ (wanting 4).sys.psWant = some 4 ∧ (wanting 4).quiet = true ∧ (wanting 4).bst.busy = false ∧
      ((wanting 4).standby 4).standbyAll = true) ∧
    (asleep.isMaster = true ∧ asleep.inReset = false ∧ asleep.sys.ps = 4) ∧
    (let s : State := { live with sys := { live.sys with lanes := .l12 } }
     s.isMaster = true ∧ s.inReset = false ∧ s.sys.ps ≠ 4 ∧ s.sys.lanes = .l12) ∧
    (let s : State := { asleep with sys := { asleep.sys with waking := true } }
     s.sys.ps = 4 ∧ s.sys.waking = true ∧ s.inReset = false) ∧
    (let s : State := { live with sys := { live.sys with ps := 3 } }
     s.isMaster = true ∧ s.sys.ps = 3 ∧ s.sys.lanes = .up) := by decide

/-- A master whose subordinate has not answered. -/
theorem witness_PowerWaits :
    (let s : State := { live with sys := { live.sys with psWant := some 3 }, teth := joined.teth }
     s.isMaster = true ∧ (s.standby 3).isMaster = true ∧ (s.standby 3).standbyAll = false ∧ s.quiet = true) ∧
    (live.sys.psWant ≠ some 3 ∧ live.sys.psWant ≠ some 4 ∧ sub.isMaster = false ∧ live.sys.lanes ≠ .l12 ∧ live.sys.ps ≠ 3) := by
  simp only [State.quiet, vec_all]
  decide +kernel

/-- APST on with no command and off; a `sleep` that waits; a coalesced vector; a read that the timers can end; a cached sector. -/
def apst : State := { live with settings := { live.settings with hostApst := true } }
def readCtx : Ctx := { hdr := hdr1, cmd := some (.read hdr1 1 0 1), started := true, slots := [.wait 1] }
theorem witness_TimerRows : (apst.isMaster = true ∧ apst.inReset = false ∧ apst.settings.hostApst = true ∧ apst.front.busy = false ∧ apst.sys.ps.val < 3) ∧
    live.settings.hostApst = false ∧
    ({ live with con := { live.con with running := some ⟨line, .sleep, none⟩ } } : State).con.running = some ⟨line, .sleep, none⟩ ∧
    ({ live with front := { live.front with coal := [(128, 1)] } } : State).front.coal.any (fun p => p.1 == (128 : Fin 129).val) = true ∧
    (let p (a b : Bool) : Pcie := { msixOn := a, msix := [(3, { mask := b })] }
     (p true false).msixOn = true ∧ (p true false).msixMask = false ∧ ((Store.find (p true false).msix 3).getD {}).mask = false ∧
       ((Store.find (p true true).msix 3).getD {}).mask = true ∧ (p false false).msixOn = false) ∧
    (let s : State := { disk with front := { disk.front with ctxs := [readCtx], feats := { disk.front.feats with tler := 1 } } }
     s.front.ctx? hdr1 = some readCtx ∧ s.isMaster = true ∧ s.timed readCtx = true ∧ readCtx.started = true ∧ 0 < s.front.feats.tler ∧ readCtx.smartKind = 1) ∧
    (({ live with front := { live.front with staging := [stagedOne] } } : State).front.staging.any fun x => x.cached) = true := by decide

/-- A command not started and none; nothing cached or coalesced; a queue that interrupts by its pin. -/
theorem witness_TimerStops :
    (let s : State := { disk with front := { disk.front with ctxs := [{ readCtx with started := false }] } }
     s.front.ctx? hdr1 = some { readCtx with started := false } ∧ s.timed { readCtx with started := false } = false) ∧
    (live.front.ctx? hdr1 = none ∧ (live.front.staging.any fun x => x.cached) = false ∧ (live.front.coal.any fun p => p.1 == (128 : Fin 129).val) = false) ∧
    (let f : Front := { live.front with cqs := [(0, ⟨16, 0, 1, 0⟩)] }
     f.pcie.msixOn = false ∧ Store.find f.cqs 0 = some ⟨16, 0, 1, 0⟩) := by decide +kernel

/-- A port in training with a partner of four lanes; a HELLO that passes and one that does not; a port in mismatch. -/
def porting (st : PortState) : State := State.setRf { live with
  sys := { live.sys with tethGo := true }, teth := { live.teth with td := { live.teth.td with st } } } .tethCtl 1 1 1
def hello (strap : Fin 16) : HelloBody := ⟨strap, 4, 5, 1, true, 0, 0, 0⟩
def frame : FrameHdr := ⟨0, 1, 0, 8, 7, 0, true⟩
theorem witness_TetherLinkRows :
    ((porting .training).portOn .td = true ∧ ((porting .training).teth.get .td).st = .training ∧ (porting .training).portLanes = 4 ∧ (5 : Fin 6).val ≠ 0) ∧
    (let s : State := (porting .training).setRf .tethTdStat 8 3 5
     (s.teth.get .td).st ≠ .off ∧ s.rf (statReg .td) 8 3 ≠ 0 ∧ frame.good = true ∧
       (s.setRf (statReg .td) 12 4 8).helloOk .td (hello 8) = false ∧ (s.setRf (statReg .td) 12 4 4).helloOk .td (hello 4) = true ∧ (hello 4).fresh = true) ∧
    ((porting .mismatch).teth.get .td).st = .mismatch ∧ ((porting .up).teth.get .td).st ≠ .mismatch := by decide

/-- Widths that are one and none; a port off; a HELLO on a link that is up; a frame whose CRC failed. -/
theorem witness_TetherLinkStops : min (4 : Nat) (porting .training).portLanes ∈ [1, 2, 4] ∧ min (3 : Nat) (porting .training).portLanes ∉ [1, 2, 4] ∧
    (live.portOn .td = false) ∧ (let s : State := (porting .up).setRf .tethTdStat 8 3 5
     (s.setRf (statReg .td) 12 4 4).helloOk .td { hello 4 with fresh := false } = true ∧ (s.teth.get .td).st = .up) ∧ FrameHdr.good { frame with crcOk := false } = false := by decide +kernel

/-- A live port with a frame to send again; a good frame of the longest payload and a bad one, one character longer. -/
def replayed : State := { porting .up with teth := { (porting .up).teth with td := { (porting .up).teth.td with replay := [⟨1, 1, 0, 0, 0, 0, 0, .none⟩] } } }
theorem witness_TetherLinkFrames : (replayed.teth.get .td).live = true ∧ FrameHdr.good { frame with len := 516 } = true ∧
    FrameHdr.good { frame with len := 517 } = false ∧ (replayed.teth.get .td).replay = [⟨1, 1, 0, 0, 0, 0, 0, .none⟩] ∧ (replayed.teth.get .td).st = .up := by
  decide

/-- A frame just received before, one half the number space back, one just beyond it and the one after the next. -/
theorem witness_TetherOrder : ((porting .up).teth.get .td).live = true ∧
    ((4095 : Fin 4096).val ≠ ((porting .up).teth.get .td).rxSeq ∧ (((porting .up).teth.get .td).rxSeq + 4096 - 4095) % 4096 ≤ 2048 ∧
      (((porting .up).teth.get .td).rxSeq + 4096 - 2048) % 4096 ≤ 2048) ∧
    (2048 < (((porting .up).teth.get .td).rxSeq + 4096 - 2047) % 4096 ∧ 2048 < (((porting .up).teth.get .td).rxSeq + 4096 - 1) % 4096) := by decide

/-- A subordinate and a master with the link up; a part, an unknown tag, an alarm at both ends of its bits; a frame for another device. -/
def subUp : State := { sub with teth := { sub.teth with tu := { sub.teth.tu with st := .up }, td := { sub.teth.td with st := .up } } }
def toSub : FrameHdr := { frame with dst := 1, src := 0 }
def part1 : MPart := { tag := 7, owner := 1, hdr := hdr1, first := 0, lbas := 1, opcode := 2 }
def masterUp : State := { porting .up with teth := { (porting .up).teth with parts := [part1] } }
theorem witness_TetherFrames :
    (subUp.receives .tu toSub = true ∧ toSub.dst.val = (subUp.received .tu toSub 1).index ∧ (subUp.received .tu toSub 1).isMaster = false ∧
      ((subUp.received .tu toSub 1).teth.owned.any fun o => o.tag == toSub.tag) = false) ∧
    (masterUp.receives .td frame = true ∧ frame.dst.val = (masterUp.received .td frame 2).index ∧ (masterUp.received .td frame 2).isMaster = true ∧
      ((masterUp.received .td frame 2).teth.parts.find? fun q => q.tag == frame.tag) = some part1) ∧
    (((masterUp.received .td frame 3).teth.parts.find? fun q => q.tag == frame.tag) = some part1 ∧ part1.opcode ≠ 0x0C) ∧
    (((porting .up).received .td frame 3).teth.parts.find? fun q => q.tag == frame.tag) = none ∧
    (toSub.dst.val = (subUp.received .tu toSub 7).index ∧ (subUp.received .tu toSub 7).isMaster = false) ∧
    (56 ≤ (56 : Fin 64).val ∧ (62 : Fin 64).val ≤ 62) ∧
    (let f : FrameHdr := { frame with dst := 2, src := 0 }
     subUp.receives .tu f = true ∧ f.dst.val ≠ (subUp.received .tu f 7).index ∧ portToward (subUp.received .tu f 7).index f.dst.val ≠ .tu) := by decide

/-- The orders of a master at a subordinate, and of a subordinate at a master; devices that hold and that fall silent. -/
theorem witness_TetherOrders :
    (subUp.receives .tu toSub = true ∧ toSub.dst.val = (subUp.received .tu toSub 5).index ∧ (subUp.received .tu toSub 5).isMaster = false ∧ (2 : Byte) ≠ 1) ∧
    (let s : State := { subUp with teth := { subUp.teth with owned := [⟨7, ⟨2, 0, false, false, true, false, 1, 0, []⟩, []⟩] } }
     ((s.ordered .tu toSub 0).teth.owned.find? fun o => o.tag == toSub.tag).isSome = true) ∧
    (let s : State := { subUp with bst := { subUp.bst with swaps := [⟨1, 1, .b, false⟩] } }
     (s.ordered .tu toSub 0).bst.pendingSwap.isSome = true) ∧
    (let s : State := { porting .up with teth := { (porting .up).teth with standbyAsked := some 3 } }
     s.receives .td frame = true ∧ frame.dst.val = (s.received .td frame 5).index ∧ (s.received .td frame 5).isMaster = true ∧
       (s.ordered .td frame 3).teth.standbyAsked = some (3 : Byte).toNat ∧ (s.ordered .td frame 3).teth.readyStandby.contains frame.src = false) ∧
    (let f : FrameHdr := { frame with src := 2 }
     (porting .up).receives .td f = true ∧ 1 < f.src.val) ∧
    (((porting .up).ordered .td frame 0).teth.parts.any fun q => q.owner == frame.src) = false ∧
    (let s : State := { live with teth := { live.teth with present := 3 } }
     s.isMaster = true ∧ (1 : Fin 4).val ≠ 0 ∧ s.teth.present.getLsbD 1 = true ∧ s.teth.holding = []) ∧
    (let s : State := { live with teth := { live.teth with holding := [(3, 2)] } }
     s.isMaster = true ∧ (s.teth.holding.any fun x => x.1 == 3) = true) ∧
    (live.isMaster = true ∧ live.map.mounted = false) ∧
    (let s : State := { sub with sys := { sub.sys with ps := 4 } }
     s.isMaster = false ∧ s.sys.ps = 4 ∧ s.inReset = false) := by decide

/-- A subordinate's order for another device that its own port leads to, a piece it receives; a part it does not know; an answer not asked for, one counted
already, a hold from the master itself. -/
theorem witness_TetherStops :
    (let f : FrameHdr := { frame with dst := 0, src := 1 }
     subUp.receives .tu f = true ∧ f.dst.val ≠ subUp.index ∧ portToward subUp.index f.dst.val = .tu) ∧
    (let s : State := { subUp with teth := { subUp.teth with piece := some ⟨7, 0, 4096, []⟩ } }
     let t : State := s.received .tu toSub 2
     t.isMaster = false ∧ (t.teth.owned.any fun o => o.tag == toSub.tag) = false ∧ t.teth.piece = some ⟨7, 0, 4096, []⟩) ∧
    (let s : State := { subUp with teth := { subUp.teth with owned := [⟨7, ⟨2, 0, false, false, true, false, 1, 0, []⟩, []⟩] } }
     ((s.received .tu toSub 1).teth.owned.any fun o => o.tag == toSub.tag) = true) ∧
    ((porting .up).received .td frame 1).isMaster = true ∧ (((porting .up).received .td frame 2).teth.parts.find? fun q => q.tag == frame.tag) = none ∧
    ((subUp.ordered .tu toSub 0).teth.owned.find? fun o => o.tag == toSub.tag) = none ∧ (subUp.ordered .tu toSub 0).bst.pendingSwap = none ∧
    ((porting .up).ordered .td frame 3).teth.standbyAsked ≠ some (3 : Byte).toNat ∧ { frame with src := 0 }.src.val = 0 ∧ frame.src.val ≠ 0 ∧
    (let s : State := { subUp with sys := { subUp.sys with st := .test } }
     let u : State := State.standbyEnds { s.ordered .tu toSub 1 with teth := { (s.ordered .tu toSub 1).teth with masterState := 1 } }
     u.isSt .test = true ∧ u.con.leaving = false) ∧
    (subUp.received .tu toSub 5).isMaster = false ∧ live.teth.present.getLsbD 1 = false ∧ disk.map.mounted = true ∧ live.sys.ps ≠ 4 := by decide +kernel

theorem witness_LostDevices : live.teth.parts = [] ∧ live.teth.admin = [] ∧ live.vault.fan = none := by decide

/-- Readings on both sides of each limit, with the alarms armed; a second odd sample; the tenth failure; a latched record. -/
theorem witness_SensorRows : live.glitchArmed = true ∧ (649 < 650 ∨ 850 < 649) ∧ (851 < 650 ∨ 850 < 851) ∧ (650 ≤ 650 ∧ 850 ≤ 850) ∧
    (599 < 600 ∨ 1000 < 599) ∧ (1001 < 600 ∨ 1000 < 1001) ∧ ((-41 : Int) < -40 ∨ (130 : Int) < -41) ∧ ((131 : Int) < -40 ∨ (130 : Int) < 131) ∧
    (1 ≤ ({ live with assay := { live.assay with odd := 1 } } : State).assay.odd ∧ live.assay.odd = 0) ∧
    10 ≤ ({ live with vault := { live.vault with fails := 10 } } : State).vault.fails ∧ (4 ≤ 4 ∧ live.sys.fuses.action 4 = 0 ∧ live.sys.fuses.action 0 = 0) ∧
    (let s : State := { live with vault := { live.vault with latched := [⟨56, 0, 0, false, false, 0, 0⟩] } }
     s.vault.latched = [⟨56, 0, 0, false, false, 0, 0⟩] ∧ s.inReset = false ∧ s.sys.ps.val ≠ 4) ∧ live.vault.latched = [] := by decide

/-- Passwords of one byte and of 32; an open, an unlocked and a locked device; checks that are right and wrong. -/
def unlockedUp : State := { live with vault := { live.vault with lock := .unlocked, password := some [1] } }
def checking (pw : List Byte) : State := { lockedUp with vault := { lockedUp.vault with password := some [1], checks := [(.unlock hdr, pw)] } }
theorem witness_SecurityCommands : live.takes hdr (.securityReceiveProtocols hdr) = true ∧
    (let c : Instr := .securitySet hdr 1 72 1 32 [1] (List.replicate 32 2)
     unlockedUp.takes hdr c = true ∧ (unlockedUp.taken hdr c).locked = false ∧ (unlockedUp.taken hdr c).vault.lock ≠ .isOpen ∧ 1 ≤ 32 ∧ 32 ≤ 32 ∧
       (unlockedUp.taken hdr c).presentSubs = []) ∧
    (live.takes hdr (.securityLock hdr 0) = true ∧ (live.taken hdr (.securityLock hdr 0)).presentSubs = [] ∧
      (live.taken hdr (.securityLock hdr 0)).vault.lock = .isOpen) ∧
    (lockedUp.takes hdr (.securityLock hdr 0) = true ∧ (lockedUp.taken hdr (.securityLock hdr 0)).vault.lock = .locked) ∧
    (unlockedUp.takes hdr (.securityLock hdr 0) = true ∧ (unlockedUp.taken hdr (.securityLock hdr 0)).vault.lock = .unlocked) ∧
    (lockedUp.takes hdr (.securityUnlock hdr 1 36 1 [1]) = true ∧ (lockedUp.taken hdr (.securityUnlock hdr 1 36 1 [1])).locked = true ∧
      (lockedUp.taken hdr (.securityUnlock hdr 1 36 1 [1])).presentSubs = []) ∧
    live.takes hdr (.securityStatus hdr) = true ∧
    ((checking [1]).vault.checks = [(.unlock hdr, [1])] ∧ (checking [1]).vault.cancelled = false ∧ (checking [1]).locked = true ∧
      (checking [1]).vault.password = some [1] ∧ (checking [2]).vault.password ≠ some [2]) := by decide

/-- Headers of no form; a new password while locked, none in an open device, one in it and in an unlocked one; a chain to carry a lock to; a check cut off, one of an
unlocked device, of a new password with the old one right and wrong, and one of a line. -/
theorem witness_SecurityStops :
    (let c : Instr := .securitySet hdr 2 72 0 0 [] []
     live.takes hdr c = true ∧ (live.taken hdr c).vault.lock = .isOpen) ∧
    (let c : Instr := .securitySet hdr 1 72 0 1 [] [2]
     lockedUp.takes hdr c = true ∧ (lockedUp.taken hdr c).locked = true ∧ live.takes hdr c = true ∧ (live.taken hdr c).vault.lock = .isOpen) ∧
    (live.takes hdr (.securitySet hdr 1 72 0 0 [] []) = true ∧ live.takes hdr (.securityLock hdr 1) = true ∧ live.takes hdr (.securityUnlock hdr 1 36 33 []) = true) ∧
    (joined.isMaster = true ∧ joined.presentSubs ≠ [] ∧ (lockLine none).isSome = true ∧ live.presentSubs = [] ∧ lockLine (some (.set hdr none, [1])) = none) ∧
    (let s : State := { checking [1] with vault := { (checking [1]).vault with cancelled := true } }
     s.vault.checks = [(.unlock hdr, [1])] ∧ s.vault.cancelled = true) ∧
    (let s : State := { unlockedUp with vault := { unlockedUp.vault with checks := [(.unlock hdr, [1])] } }
     s.vault.cancelled = false ∧ s.locked = false) ∧
    (let s : State := { unlockedUp with vault := { unlockedUp.vault with checks := [(.set hdr (some [2]), [1])] } }
     s.vault.checks = (.set hdr (some [2]), [1]) :: [] ∧ s.vault.password = some [1] ∧ s.vault.password ≠ none ∧ s.vault.password ≠ some [2]) ∧
    (let s : State := { lockedUp with
       vault := { lockedUp.vault with password := some [1], checks := [(.unlockLine line none, [1])] }, con := { live.con with running := some ⟨line, .password, none⟩ } }
     s.vault.checks = (.unlockLine line none, [1]) :: [] ∧ s.con.running = some ⟨line, .password, none⟩ ∧ s.vault.cancelled = false ∧ s.locked = true ∧
       s.vault.password = some [1] ∧ s.vault.password ≠ some [3]) ∧ live.vault.checks = [] := by decide +kernel

/-- A swap record whose CRC matches: fifty-six erased bytes and the CRC of them. -/
def swapReady : State := { live with bst := { live.bst with bytes := [(0x300038, 201), (0x300039, 129), (0x30003A, 129), (0x30003B, 96)] } }
theorem witness_BootStoreSwapCommit : 0 < 1024 ∧ 1023 < 1024 ∧ swapReady.bst.busy = false ∧
    crc32c (swapReady.bst.read 0x300000 56) = leNat (swapReady.bst.read (0x300000 + 56) 4) := by decide +kernel

def erasing : State := { live with bst := { live.bst with op := .erase 127 } }
/-- The window's first and last byte; an idle and a busy die; erase, suspension, and the
Configuration Manager's addresses at both ends. -/
theorem witness_BootStoreRows : (inWindow 0x10000000 = true ∧ inWindow 0x107FFFFF = true ∧ inWindow 0x107FFFFC = true) ∧
    (live.bst.busy = false ∧ swapCommitWord (bstOff 0x107FFFFC) = false ∧ live.bst.suspended = none ∧ (0x107FFFFC : Word).toNat % 4 = 0) ∧
    (erasing.bst.busy = true ∧ erasing.bst.op = .erase 127) ∧
    (let s : State := { live with bst := { live.bst with suspended := some 127 } }
     s.bst.suspended = some 127 ∧ s.bst.busy = false) ∧
    (((live.setReg .bstCmAddr 0x10580000).reg .bstCmAddr).toNat = 0x10580000 ∧ 0x10580000 % 4 = 0 ∧
      ((live.setReg .bstCmAddr 0x107FFFFC).reg .bstCmAddr).toNat = 0x107FFFFC ∧ 0x107FFFFC < 0x10800000) ∧
    ((live.setReg .bstCmAddr 0x1057FFFC).reg .bstCmAddr).toNat < 0x10580000 := by decide

/-- The sequences a die refuses: the last word of a slot, a word of the suspended sector, an erase beside a suspended one; an address outside the window and one
not on a word. -/
theorem witness_BootStoreStops : inWindow 0x10800000 = false ∧ (0x10000002 : Word).toNat % 4 ≠ 0 ∧ (1024 : Nat) ≤ 1024 ∧ swapCommitWord 0x30003C = true ∧
    (let b : BootStore := { suspended := some 127 }
     b.busy = false ∧ b.suspended = some (0x7FFFFC / 0x10000) ∧ b.suspended.isSome = true) ∧
    crc32c ((({} : BootStore)).read 0x300000 56) ≠ leNat ((({} : BootStore)).read (0x300000 + 56) 4) ∧ Cls.user ≠ .privileged ∧ live.bst.suspended = none := by
  decide +kernel

/-- A program of the last word, and an erase of the first sector and of the last. -/
theorem witness_BootStoreBytes : (let b : BootStore := { op := .program 0x7FFFFC 0 }
     b.wf = true ∧ b.op = .program 0x7FFFFC 0 ∧ 0x7FFFFC + 3 < 0x800000) ∧ erasing.bst.wf = true ∧ (127 < 128 ∧ 0 < 128 ∧ 0xFFFF < 0x10000) := by decide

/-- A port that serves; an address that is not aligned, one that is done, and one that is denied; a locked device; the port off. -/
theorem witness_LanternRows : live.lanternServes = true ∧ 2 % 4 ≠ 0 ∧
    (0x40000060 % 4 = 0 ∧ (live.busRead .debug 9 0x40000060 4).1 = .done) ∧ (0x40060000 % 4 = 0 ∧ live.verdict .debug false 0x40060000 = some (5, 15)) ∧
    (lockedUp.lanternOn = true ∧ lockedUp.locked = true) ∧
    ({ live with sys := { live.sys with fuses := { live.sys.fuses with lanternOff := true } } } : State).lanternOn = false := by decide

theorem witness_ScanRows : ({ still with sys := { still.sys with st := .test } } : State).scanServes = true ∧
    ({ still with sys := { still.sys with st := .recovery } } : State).scanServes = true := by decide

/-- The chain sampled and driven, 64 cells from its end; a port that serves while the part is in service; the port off. -/
theorem witness_ScanStops :
    (let s : State := { still with lan := { still.lan with instr := .extest, shifted := 141 } }
     s.lan.instr = .extest ∧ 205 ≤ s.lan.shifted + 64) ∧ ({ still with lan := { still.lan with instr := .sample } } : State).lan.instr = .sample ∧
    (live.lanternServes = true ∧ live.scanServes = false) ∧
    ({ live with sys := { live.sys with fuses := { live.sys.fuses with lanternOff := true } } } : State).lanternOn = false := by decide

/-- The console on and off; a line that runs with three and with four lines waiting on its path; a line that waits alone; an entry that will fail; the mask
ROM. -/
def serving (n : Nat) : State := { live with con := { live.con with running := some ⟨line, .checkpoint, none⟩, queue := List.replicate n ⟨line, [], 0⟩ } }
theorem witness_LinesAnswered : live.bst.failNext = false ∧ State.reset.consoleOn = false ∧ Instr.waitingLine (.logTrouble line) = some line ∧
    ((serving 3).consoleOn = true ∧ (serving 3).con.busy = true ∧ ((serving 3).con.queue.countP fun q => q.ctx.path == line.path) < 4) ∧
    4 ≤ ((serving 4).con.queue.countP fun q => q.ctx.path == line.path) ∧
    ({ live with con := { live.con with queue := [⟨line, [], 0⟩] } } : State).con.queue ≠ [] ∧
    (let s : State := { live with bst := { live.bst with failNext := true } }
     s.takesLine = true ∧ recorded (.runTest line) = true ∧ Instr.waitingLine (.runTest line) = some line ∧ s.bst.failNext = true ∧ s.consoleOn = true) ∧
    (let s : State := { live with sys := { live.sys with rom := true } }
     s.consoleOn = true ∧ s.con.busy = false ∧ s.con.queue = [] ∧ s.sys.rom = true ∧ romVerb (.runTest line) = false ∧ recorded (.logTrouble line) = false ∧
       romVerb (.logTrouble line) = false ∧ s.bst.failNext = false) := by decide

/-- A journal page of the most lines from the last number; a chamber with its profile and a closed block, whose sentinel reads and does not. -/
def slotted (l : List (Option OpSlot)) (s : State) : State := { s with gals := setAt s.gals 0 { s.gals.get 0 with slots := l } }
theorem witness_ReadingLines : live.takesLine = true ∧ ((some 4096).getD 16 ≤ 4096 ∧ (some (2 ^ 32 - 1)).getD 1 < 2 ^ 32) ∧
    (let s : State := blocks [(3, natBlk 0)]
     s.takesLine = true ∧ s.sys.st ≠ .boot ∧ s.chamberHere 0 = true ∧ s.prof 0 = some prof ∧ 3 < prof.blocks ∧ (s.blk (0 * 65536 + 3)).st = .closed ∧
       (s.blk (0 * 65536 + 3)).sealed = false) ∧
    (let s (w : Word) : State := slotted (List.replicate 64 (some ⟨1, [w]⟩)) (blocks [(3, natBlk 0)])
     (s 0).mayRun 0 = true ∧ (((s 0).countRead 3 1).sentinelRead 3 ((s 0).pagesOf 3 - 1) false (some [])).1.isSome = true ∧
       (((s 0x48004040).countRead 3 1).sentinelRead 3 ((s 0).pagesOf 3 - 1) false none).1 = none) ∧
    ((blocks [(3, natBlk 0)]).gal 0 fun y => { y with inService := false }).mayRun 0 = false ∧
    (still.sys.st ≠ .boot ∧ still.chamberHere 0 = false ∧ State.reset.sys.st = .boot) ∧
    (let s : State := blocks [(2, { natBlk 0 with st := .opened }), (3, { natBlk 0 with sealed := true })]
     (s.blk (0 * 65536 + 2)).st ≠ .closed ∧ (s.blk (0 * 65536 + 3)).st = .closed ∧ (s.blk (0 * 65536 + 3)).sealed = true) := by decide +kernel

/-- A setting that can be set; the last trouble and cause bit, and one past it; a suspect chamber whose target is trained, where
its reset ends and where it does not. -/
theorem witness_ChangingLines : live.takesEntry = true ∧
    (let i : Instr := .set line [(.hostWcache, .flag true)]
     let t : State := live.entered line i
     t.setRefused [(.hostWcache, .flag true)] = none ∧ (t.setNow .hostWcache (.flag true)).restless = false) ∧
    (let i : Instr := .set line [(.galEnable 0, .flag false)]
     let s : State := { live with sys := { live.sys with st := .test } }
     let t : State := s.entered line i
     s.takesEntry = true ∧ t.setRefused [(.galEnable 0, .flag false)] = none ∧ (t.setNow (.galEnable 0) (.flag false)).restless = false) ∧
    (let i : Instr := .set line [(.galEnable 0, .flag false)]
     let s : State := { withOps [{ opRead with running := true }] with sys := { live.sys with st := .test } }
     let t : State := s.entered line i
     s.takesEntry = true ∧ t.setRefused [(.galEnable 0, .flag false)] = none ∧ (t.setNow (.galEnable 0) (.flag false)).restless = true) ∧
    ((live.entered line (.set line [(.galEnable 0, .flag false)])).setRefused [(.galEnable 0, .flag false)]).isSome = true ∧
    (let t : State := live.entered line (.clearSuspect line 0 true)
     t.chamberHere 0 = false) ∧
    (let t : State := up.entered line (.clearSuspect line 0 true)
     t.chamberHere 0 = true ∧ t.targetTrained 0 = false) ∧ (63 ≤ 63 ∧ 31 ≤ 31 ∧ 63 < 64) ∧
    (let s (l : List (Option OpSlot)) : State := slotted l (up.setRf (.galStat 0) 16 16 800)
     let t (l : List (Option OpSlot)) : State := (s l).entered line (.clearSuspect line 0 true)
     let stuck : List (Option OpSlot) := List.replicate 64 (some ⟨5, [0x48000101]⟩)
     (s prof.slots).takesEntry = true ∧ (t prof.slots).chamberHere 0 = true ∧ ((t prof.slots).gals.get (galOf 0)).inService = true ∧
       (t prof.slots).targetTrained 0 = true ∧ ((t prof.slots).resetLun (galOf 0) (chIn 0) Sys2Proof.Machine.ready).1 = true ∧
       (s stuck).takesEntry = true ∧ (t stuck).chamberHere 0 = true ∧ ((t stuck).gals.get (galOf 0)).inService = true ∧ (t stuck).targetTrained 0 = true ∧ ((t stuck).resetLun (galOf 0) (chIn 0) Sys2Proof.Machine.ready).1 = false) := by decide +kernel

/-- A still gallery with a profile to install. -/
theorem witness_ProfileInstall :
    let s : State := { up with gals := setAt up.gals 0 { up.gals.get 0 with toInstall := some prof } }
    (s.gals.get 0).toInstall = some prof ∧ s.inReset = false ∧ s.sys.released.getLsbD 3 = true ∧ s.sys.ps.val ≤ 2 ∧ (s.gals.get 0).still = true := by decide

/-- `run`: in service and not; an op list of kind 1 in test; a training, a checkpoint, a patrol. -/
def testing : State := { disk with sys := { disk.sys with st := .test }, gals := setAt disk.gals 0 { disk.gals.get 0 with slots := List.replicate 64 (some ⟨1, [0]⟩) } }
theorem witness_RunLines : still.takesEntry = true ∧ (still.entered line (.runTest line)).testAllowed = true ∧ (live.entered line (.runTest line)).testAllowed = false ∧
    (let i : Instr := .runOp line 0 63 3 5 0x217FFFF8 18432 false
     let t : State := testing.entered line i
     testing.takesEntry = true ∧ 63 ≤ 63 ∧ 0x217FFFF8 < 0x21800000 ∧ 0x217FFFF8 % 8 = 0 ∧ 18432 % 8 = 0 ∧ t.isSt .test = true ∧ t.chamberHere 0 = true ∧
       t.prof 0 = some prof ∧ 3 < prof.blocks ∧ 5 < max prof.pagesNative prof.pagesPslc ∧ ((t.gals.get (galOf 0)).slots.getD 63 none).isSome = true ∧
       (t.gals.get (galOf 0)).inService = true ∧ (t.gals.get (galOf 0)).kindOf 63 = 1 ∧ t.chamberIdle 0 = true ∧ t.mayRun 0 = true) ∧
    (let t : State := disk.entered line (.runTrain line 0)
     disk.takesEntry = true ∧ (t.gals.get 0).profile.isSome = true ∧ t.settings.galEnable.get 0 = true ∧ (t.gals.get 0).inService = true) ∧
    (let t : State := disk.entered line (.runCheckpoint line)
     t.isSt .test = false ∧ t.mapUp = true) ∧
    (let t : State := disk.entered line (.runPatrol line ⟨[], none⟩)
     t.isSt .test = false ∧ t.mapUp = true ∧ t.sys.ps.val ≤ 2) := by decide

/-- `run op` past its slots, of a program in a suspect chamber, below a supply warning, while the chamber works, out of order and in order; `run train` of a gallery turned
off; a checkpoint and a patrol in `test`, a patrol that a `stop` line follows, and one whose chambers are free. -/
def raw (force : Bool) : Instr := .runOp line 0 63 3 0 0x20000000 0 force
def rawIn (s : State) (k : Nat) : State := s.gal 0 fun y => { y with slots := List.replicate 64 (some ⟨k, [0]⟩) }
theorem witness_RunStops :
    (63 < 64 ∧ (0x20000000 : Nat) % 8 = 0 ∧ (testing.entered line (raw false)).chamberHere 1 = false) ∧
    (let t : State := (suspectOnly (rawIn testing 2)).entered line (raw false)
     writeKind ((t.gals.get 0).kindOf 63) = true ∧ t.suspect 0 = true) ∧
    (let t : State := ((rawIn testing 2).setRf .sysSupply 0 5 1).entered line (raw false)
     writeKind ((t.gals.get 0).kindOf 63) = true ∧ t.suspect 0 = false ∧ t.brownWarning = true) ∧
    (let t : State := (testing.gal 0 fun y => { y with ops := [{ opRead with running := true }] }).entered line (raw false)
     t.chamberIdle 0 = false ∧ t.brownWarning = false) ∧
    (let t : State := (rawIn testing 2).entered line (raw false)
     t.chamberIdle 0 = true ∧ t.mayRun 0 = true ∧ (t.gals.get 0).passes (t.rawOp 0 0 2 3 0) = false) ∧
    (let t : State := (rawIn testing 2).entered line (raw true)
     t.chamberIdle 0 = true ∧ t.mayRun 0 = true ∧ t.isSt .test = true) ∧
    ((live.entered line (.runTrain line 0)).gals.get 0).profile = none ∧
    (testing.entered line (.runCheckpoint line)).isSt .test = true ∧ (testing.entered line (.runPatrol line ⟨[], none⟩)).isSt .test = true := by decide +kernel
theorem witness_RunPatrol : let t : State := disk.entered line (.runPatrol line ⟨[], none⟩)
    t.isSt .test = false ∧ t.mapUp = true ∧ t.sys.ps.val ≤ 2 ∧
      ∀ n ∈ patrolled t.patrolTableNow t.map.patrolPos (ceilDiv t.patrolTableNow.length 32), ∀ k : Nat, t.ofDevBlock n = some k → t.mayRun (chOfBlk k) = true := by
  intro t
  have h : t.patrolTableNow = [] := by
    have b : t.map.blks = [] := rfl
    simp [State.patrolTableNow, b]
  rw [h]
  exact ⟨rfl, rfl, by decide, by intro n hn; simp [patrolled] at hn⟩

/-- `stop` with nothing running, with a move running, and in test. -/
theorem witness_StopLines : (live.consoleOn = true ∧ live.bst.failNext = false ∧ live.sys.rom = false ∧ live.con.busy = false) ∧
    ({ live with con := { live.con with running := some ⟨line, .dma 7 false, none⟩ } } : State).con.running = some ⟨line, .dma 7 false, none⟩ ∧
    (testing.consoleOn = true ∧ testing.bst.failNext = false ∧ testing.sys.rom = false ∧ (testing.entered line (.stopTest line)).isSt .test = true ∧
      (testing.entered line (.stopTest line)).con.stopping = none) := by decide

/-- The lowest and the highest level; `sleep` in service, `lock` of an unlocked device, `unlock` of a locked one with the longest password. -/
theorem witness_StateLines : still.takesEntry = true ∧ (0 < 4 ∧ 3 < 4) ∧
    (let t : State := still.entered line (.sleep line none)
     t.isSt .service = true ∧ (t.isMaster = true → t.front.en = false)) ∧
    (let t : State := unlockedUp.entered line (.lockData line none)
     unlockedUp.takesEntry = true ∧ t.lockStates = true ∧ t.vault.lock = .unlocked ∧ t.vault.lockWait = none) ∧
    (let pw : List Byte := List.replicate 32 0x61
     let t : State := lockedUp.entered line (.unlockData line pw)
     lockedUp.takesEntry = true ∧ t.lockStates = true ∧ 1 ≤ pw.length ∧ pw.length ≤ 32 ∧ t.locked = true) := by decide

/-- A level past 4; the Map engine as a unit; units idle and at work, one that trains; a device in `test` and a lock in its boot; a password that is too long. -/
theorem witness_StateStops : still.takesEntry = true ∧ 4 < (some 5).getD 2 ∧ (some 4).getD 2 = 4 ∧
    ((still.entered line (.consoleReset line (some 4) (some .td))).requestUnit .td 7).1 = true ∧
    (((still.entered line (.consoleReset line (some 4) (some .td))).requestUnit .td 7).2.resetTrains .td) = false ∧
    (let t : State := up.entered line (.consoleReset line (some 4) (some (.gal 0)))
     (t.requestUnit (.gal 0) 7).1 = true ∧ (t.requestUnit (.gal 0) 7).2.resetTrains (.gal 0) = true) ∧
    (let t : State := (withOps [{ opRead with running := true }]).entered line (.consoleReset line (some 4) (some (.gal 0)))
     (t.requestUnit (.gal 0) 7).1 = false) ∧
    ((testing.entered line (.sleep line none)).isSt .service = false ∧ (live.entered line (.sleep line none)).isSt .service = true ∧
      (live.entered line (.sleep line none)).isMaster = true ∧ (live.entered line (.sleep line none)).front.en = true ∧ (some 3).getD 4 = 3 ∧ (none : Option Nat).getD 4 = 4) ∧
    (let t : State := lockedUp.entered line (.lockData line none)
     t.lockStates = true ∧ t.vault.lock ≠ .isOpen ∧ t.vault.lockWait = none ∧ t.locked = true) ∧
    (live.entered line (.lockData line none)).vault.lock = .isOpen ∧
    (unlockedUp.entered line (.unlockData line [1])).locked = false ∧ (unlockedUp.entered line (.unlockData line [1])).lockStates = true ∧
    (let s : State := { lockedUp with sys := { lockedUp.sys with st := .recovery } }
     s.takesEntry = true ∧ (s.entered line (.unlockData line [1])).lockStates = false) := by decide +kernel

/-- Units that the user class reads and writes, and one it may not write; a copy that does not overlap and one that does; a fill. -/
def userAll : State := { live with kpr := { live.kpr with words := [(0, ⟨7, 0, 0⟩)] }, mpu := { live.mpu with active := setAt live.mpu.active 0 ⟨0x20000000, 0x1807⟩ } }
theorem witness_TransferLines :
    (userAll.takesLine = true ∧ 0x20000000 < 2 ^ 32 ∧ 0x20000000 % 8 = 0 ∧ (userAll.rdUnits 8 1 0x20000000).2.1 = none) ∧
    (let i : Instr := .wr line 0x20000000 8 [5]
     userAll.takesEntry = true ∧ wideVal 8 [5] = none ∧ ((userAll.entered line i).wrUnits 8 0x20000000 [5]).2.1 = none ∧
       (((userAll.entered line i).wrUnits 8 0x20000000 [5]).2.2.readBack 0x20000000 8 1).1 = none) ∧
    (let i : Instr := .wr line 0x20000000 8 [5]
     live.takesEntry = true ∧ ((live.entered line i).wrUnits 8 0x20000000 [5]).2.1 = some (.refused 0, 0x20000000)) ∧
    (let i : Instr := .move line 0 0x20000000 16777215 1 none none false none
     let t : State := live.entered line i
     0 < 16777215 ∧ 16777215 ≤ 16777215 ∧ t.dmaBusy t.settings.dmaConsoleCh = false ∧
       overlapRefused ⟨0, 16777215, word32 16777215, 1⟩ ⟨0x20000000, 16777215, word32 16777215, 1⟩ false = false ∧
       overlapRefused ⟨0x20000001, 16777215, word32 16777215, 1⟩ ⟨0x20000000, 16777215, word32 16777215, 1⟩ false = true) ∧
    (let t : State := live.entered line (.fill line 0x20000000 1 0 none)
     t.dmaBusy t.settings.dmaConsoleCh = false) := by decide

/-- Widths that are none; a read refused; a value wider than its unit; a move and a fill of nothing. -/
theorem witness_TransferStops : ((3 : Nat) ≠ 1 ∧ (3 : Nat) ≠ 2 ∧ (3 : Nat) ≠ 4 ∧ (3 : Nat) ≠ 8) ∧ (live.takesLine = true ∧ (live.rdUnits 8 1 0x20000000).2.1.isSome = true) ∧
    (wideVal 1 [256]).isSome = true ∧
    (let t : State := live.entered line (.move line 0 0x20000000 0 1 none none false none)
     t.dmaBusy t.settings.dmaConsoleCh = false ∧ in32 ((none : Option Int).getD 0) = true) := by decide +kernel

/-- An offset reset of a chamber; the first image piece after another, and commits to the other twin. -/
theorem witness_AssayAndUpdateLines : live.takesEntry = true ∧
    (let t : State := disk.entered line (.assayReset line 0)
     disk.takesEntry = true ∧ t.sys.st ≠ .boot ∧ t.chamberHere 0 = true ∧ t.prof 0 = some prof ∧ 0 < prof.blocks) ∧
    (let t : State := live.entered line (.updateCommit line .b false true)
     t.sys.st ≠ .boot ∧ Twin.b ≠ t.bst.active) ∧
    (let t : State := live.entered line (.updateCommit line .b true false)
     t.sys.st ≠ .boot ∧ Twin.b ≠ t.bst.active) := by decide +kernel

/-- Trials of a search whose pages all read with no flip. -/
def trials : TrialRun :=
  { reads := (List.range 7).flatMap fun j => ([-6, -3, -2, -1, 0, 1, 2, 3, 6] : List Int).map fun d => (j, d, []) }
theorem witness_AssaySearch :
    let s : State := blocks [(0, natBlk 0)]
    let t : State := s.entered line (.assaySearch line 0 0 ⟨trials, [], none⟩)
    s.takesEntry = true ∧ t.sys.st ≠ .boot ∧ t.chamberHere 0 = true ∧ t.prof 0 = some prof ∧ 0 < prof.blocks ∧ t.hook26 0 = true ∧ t.mayRun 0 = true ∧
      (t.sampleBlock 0 (0 / 64)).isSome = true ∧ (t.search 0 (0 / 64) trials []).1 = true := by decide +kernel

/-- A piece at the second 4 KiB of the other twin, from the mask ROM. -/
def pieced : State := { live with mpu := guarded.mpu, bst := { live.bst with staged := 4096, stagedTwin := some .b } }
def pieceLine : Instr := .updatePiece line .b 0 4096 4096
theorem witness_UpdatePiece :
    let t : State := pieced.entered line pieceLine
    pieced.takesEntry = true ∧ 4096 % 4096 = 0 ∧ 0 < 4096 ∧ 4096 ≤ 2 ^ 20 ∧ 4096 + 4096 ≤ 1572864 ∧ t.sys.st ≠ .boot ∧ Twin.b ≠ t.bst.active ∧
      4096 = t.bst.pieceAt .b ∧ (t.readSpan (cutUp 4096 0 4096)).1 = none ∧
      ((t.readSpan (cutUp 4096 0 4096)).2.2.stagePiece 4096 (t.readSpan (cutUp 4096 0 4096)).2.1).1 = true := by decide +kernel

/-- A search in a chamber that is not there, of a group with no closed block, one with a trial that is not answered, and one that a `stop` line follows; a piece that
does not follow the last, one that cannot be read; a commit not signed. -/
theorem witness_UpdateStops : (live.entered line (.assayReset line 0)).chamberHere 0 = false ∧
    (let t : State := disk.entered line (.assaySearch line 0 0 ⟨trials, [], none⟩)
     t.chamberHere 0 = true ∧ t.sampleBlock 0 0 = none) ∧
    (let s : State := blocks [(0, natBlk 0)]
     let t : State := s.entered line (.assaySearch line 0 0 ⟨{ reads := [] }, [], none⟩)
     t.mayRun 0 = true ∧ (t.search 0 0 { reads := [] } []).1 = false) ∧
    (let t : State := pieced.entered line (.updatePiece line .b 0 8192 4096)
     8192 ≠ t.bst.pieceAt .b ∧ t.sys.st ≠ .boot ∧ Twin.b ≠ t.bst.active) ∧
    (let t : State := { pieced with mpu := live.mpu }.entered line pieceLine
     (t.readSpan (cutUp 4096 0 4096)).1.isSome = true) := by decide +kernel
theorem witness_SearchStopped :
    let s : State := blocks [(0, natBlk 0)]
    let t : State := s.entered line (.assaySearch line 0 0 ⟨trials, [], some line⟩)
    t.mayRun 0 = true ∧ (t.stopMaybe (some line)).1 = true ∧ ((t.stopMaybe (some line)).2.search 0 0 trials []).1 = true := by decide +kernel

/-- A line that waits, with the console free; no line open and one; a frame for this device and a routed line; lines of the tunnel at both ends of
its length. -/
theorem witness_ConsoleRows : (live.consoleOn = true ∧ live.con.busy = false ∧ live.con.open_ = []) ∧ (serving 0).con.busy = true ∧
    ((serving 0).con.open_ = [line] ∧ line.path = .uart) ∧
    ({ live with con := { live.con with queue := [⟨line, [], 0⟩] } } : State).con.queue = ⟨line, [], 0⟩ :: [] ∧
    (subUp.receives .tu toSub = true ∧ toSub.dst.val = (subUp.received .tu toSub 4).index) ∧
    (({ live with con := { live.con with routed := [⟨7, line, 1⟩] } } : State).con.routed.find? fun (r : Routed) => r.tag == 7).isSome = true ∧
    (live.takes hdr (.consoleSend hdr 250 []) = true ∧ live.takes hdr (.consoleSend hdr 251 []) = true ∧ live.takes hdr (.consoleSend hdr 0 []) = true) ∧
    (live.takes hdr (.consoleReceive hdr 1023) = true ∧ (live.taken hdr (.consoleReceive hdr 1023)).con.tunnel = [] ∧
      (live.taken hdr (.consoleReceive hdr 1023)).con.tunnelLost = false) := by decide

/-- A line for another device, a path with none; a tunnel that lost lines, a buffer past its room. -/
theorem witness_ConsoleStops :
    (let f : FrameHdr := { frame with dst := 2, src := 0 }
     subUp.receives .tu f = true ∧ f.dst.val ≠ (subUp.received .tu f 4).index) ∧ (live.teth.get .td).live = false ∧
    (live.con.routed.find? fun (r : Routed) => r.tag == 7) = none ∧ State.reset.consoleOn = false ∧ live.con.queue = [] ∧
    (let s : State := { live with con := { live.con with tunnelLost := true } }
     s.takes hdr (.consoleReceive hdr 1) = true ∧ (s.taken hdr (.consoleReceive hdr 1)).con.tunnelLost = true) ∧
    live.takes hdr (.consoleReceive hdr 1024) = true := by decide +kernel

/-- Echo off, a line of 249 characters, the first and the last printable character. -/
theorem witness_UartEditing :
    let s : State := { live with settings := { live.settings with conEcho := false }, con := { live.con with uart := { live.con.uart with buf := List.replicate 249 0x20 } } }
    s.consoleOn = true ∧ s.con.uart.overrun = false ∧ s.con.uart.long = false ∧ s.settings.conEcho = false ∧ 32 ≤ (32 : Byte).toNat ∧ (126 : Byte).toNat ≤ 126 ∧
      s.con.uart.buf.length < 250 ∧ s.con.uart.machine = false := by decide +kernel

/-- A row of each family the frames are about has a next state. -/
theorem witness_UnitFrames : (∃ t : State, exec (.operationAging 0 1) live = .next t) ∧ Instr.oneGallery (.operationAging 0 1) = some 0 ∧ (1 : Fin 8) ≠ 0 ∧
    Instr.frontOnly .stagingDrain = true ∧ (∃ t : State, exec .stagingDrain live = .next t) ∧ Instr.storeOnly .bstSuspend = true ∧
    (∃ t : State, exec .bstSuspend live = .next t) ∧ (∃ t : State, exec .bstArrayRead live = .next t) ∧ Reg.bstStat ≠ .bstCmCmd ∧
    (∃ t : State, exec (.bstSwapCommit 0 .privileged) live = .next t) ∧ Reg.bstStat ≠ .bstErrCnt :=
  ⟨⟨_, rfl⟩, rfl, by decide, rfl, ⟨_, rfl⟩, rfl, ⟨_, rfl⟩, ⟨_, rfl⟩, by decide, ⟨_, rfl⟩, by decide⟩
theorem witness_RowFrames : (∃ t : State, exec (.idleAckTimer .tu) live = .next t) ∧ (∃ t : State, exec (.dmaStop 7) live = .next t) ∧
    (∃ t : State, exec .lanternStatus live = .next t) ∧ (∃ t : State, exec .partialLineTimeout live = .next t) ∧
    (∃ t : State, exec .checkpointTimer live = .next t) ∧ (∃ t : State, exec .rstNHigh live = .next t) ∧
    (∃ t : State, exec .rootPllLock live = .next t) ∧ (∃ t : State, exec (.sysCauseClear 1) live = .next t) ∧
    (∃ t : State, exec (.galSuspectClear 0 1) live = .next t) ∧ Reg.sysStrap ≠ .sysClk :=
  ⟨⟨_, rfl⟩, ⟨_, rfl⟩, ⟨_, rfl⟩, ⟨_, rfl⟩, ⟨_, rfl⟩, ⟨_, rfl⟩, ⟨_, rfl⟩, ⟨_, rfl⟩, ⟨_, rfl⟩, by decide⟩

/-- A profile image of 1024 bytes laid out from R187 to R197, as Keeper words: TLC, 64 blocks, one mode of 800 MT/s at 1200 mV. -/
def imageWords : List Nat :=
  [0x4000013150435A, 0x704235C500000400, 0x0, 0x0, 0x40008000400040, 0x4000E4002400C0, 0xB0144001D0124, 0x8017000200150,
   0x98, 0x1, 0x0, 0x0, 0x0, 0x0, 0x0, 0x0,
   0x300000203010101, 0x4800000200060040, 0x4B000010000, 0x0, 0x0, 0x0, 0x0, 0x0,
   0x32000000001, 0x0, 0x0, 0x0, 0x32001900000000, 0x19000C8005A003C, 0x27100FA009C405DC, 0x8040301F40064,
   0xD26101F400640032, 0x0, 0x0, 0x0, 0x9C07000000000000, 0x1E64, 0x0, 0x0,
   0x70100000000, 0x0, 0xEA6000000BB8, 0x271003E8]
def loading : State := { up with
  mpu := guarded.mpu
  sys := { up.sys with railMv := setAt up.sys.railMv 4 1200 }
  kpr := { up.kpr with words := (List.range 128).map fun i => (i, ⟨BitVec.ofNat 64 (imageWords.getD i 0), 0, 0⟩) } }
def loadLine : Instr := .loadProfile line 0x20000000 1024 (some 0)
/-- The bytes of the image, and the same with the CRC's field zero. -/
def imageBytes : List Nat := imageWords.flatMap (fun w => leBytes 8 w) ++ List.replicate 672 0
def imageZeroed : List Nat := imageBytes.take 12 ++ [0, 0, 0, 0] ++ imageBytes.drop 16
/-- The register of the CRC after each 64 bytes (worked out apart from the model). -/
def imageCrcs : List Nat :=
  [0x5231B4BE, 0xB982B66, 0x1F140AC3, 0x4F9C7913, 0xF6F039FA, 0xF76C7364, 0x9DEC9313, 0x1715C18,
   0x9DDF5F8F, 0xD829AAC, 0x90B3A191, 0x8599D5CD, 0x48FFE84C, 0xA950A5FB, 0x99F650FE, 0x8FBDCA3A]

def crcOn (c : Nat) (b : List Nat) : Nat := b.foldl (fun c b => Nat.repeat crc32cBit 8 (c ^^^ b)) c
def crcSteps : Nat → List (List Nat × Nat) → Bool
  | _, [] => true
  | c, (b, d) :: r => crcOn c b == d && crcSteps d r
theorem crcSteps_all (c : Nat) (l : List (List Nat × Nat)) (h : crcSteps c l = true) :
    crcOn c (l.flatMap (·.1)) = ((l.getLast?).map (·.2)).getD c := by
  induction l generalizing c with
  | nil => rfl
  | cons x r ih =>
    obtain ⟨b, d⟩ := x
    simp only [crcSteps, Bool.and_eq_true, beq_iff_eq] at h
    have := ih d h.2
    cases r with
    | nil => simp_all [crcOn]
    | cons y r => simp_all [crcOn, List.getLast?_cons]

def imageSteps : List (List Nat × Nat) := (List.range 16).map fun i => ((imageZeroed.drop (64 * i)).take 64, imageCrcs.getD i 0)
theorem crc32c_on (l : List Nat) : crc32c l = crcOn 0xFFFFFFFF l ^^^ 0xFFFFFFFF := rfl
theorem image_crc : crc32c imageZeroed = i32 imageBytes 12 := by
  have h : imageZeroed = imageSteps.flatMap (·.1) := by decide +kernel
  have k : crcOn 0xFFFFFFFF (imageSteps.flatMap (·.1)) = _ := crcSteps_all _ _ (by decide +kernel)
  rw [crc32c_on, h, k]
  decide +kernel
theorem image_header : firstFail (headerChecks imageBytes 1024) = none := by
  have h : imageBytes.take 12 ++ [0, 0, 0, 0] ++ imageBytes.drop 16 = imageZeroed := rfl
  unfold headerChecks
  rw [h, image_crc]
  decide +kernel
theorem image_sections : firstFail (sectionChecks imageBytes) = none := by decide +kernel
theorem image_ops : firstFail (opsChecks imageBytes) = none := by decide +kernel
theorem imgFail_none (m : List Nat) (len mv : Nat) (h1 : firstFail (headerChecks m len) = none) (h2 : firstFail (sectionChecks m) = none)
    (h3 : vddqgMatches (imgProfile m).ioMv mv = true) (h4 : firstFail (opsChecks m) = none) : imgFail m len mv = none := by
  simp only [imgFail, h1, h2, h3, h4, if_true]
theorem image_valid : imgFail imageBytes 1024 1200 = none :=
  imgFail_none _ _ _ image_header image_sections (by decide +kernel) image_ops

theorem witness_LoadProfile :
    let t : State := loading.entered line loadLine
    loading.takesEntry = true ∧ 0x20000000 < 2 ^ 32 ∧ (t.isSt .service = true → (loadGals (some 0)).all t.unwritten = true) ∧ 1024 ≤ 1024 ∧ 1024 % 64 = 0 ∧
      (t.readSpan (cutUp 1024 0x20000000 1024)).1 = none ∧
      imgFail (t.readSpan (cutUp 1024 0x20000000 1024)).2.1 1024 ((t.readSpan (cutUp 1024 0x20000000 1024)).2.2.sys.railMv.get 4) = none := by
  intro t
  have h : (t.readSpan (cutUp 1024 0x20000000 1024)).2.1 = imageBytes := by decide +kernel
  have k : (t.readSpan (cutUp 1024 0x20000000 1024)).2.2.sys.railMv.get 4 = 1200 := by decide +kernel
  rw [h, k, image_valid]
  decide +kernel

/-! ## Worked examples of the manual, and single steps -/

/-- The CRC-8 of three lines (the example under R99). -/
theorem test_crc8 : crc8 ("@1 clear trouble".toList.map Char.toNat) = 0xA4 ∧ crc8 ("@1 err crc".toList.map Char.toNat) = 0x5C ∧
    crc8 ("@1 ok".toList.map Char.toNat) = 0x14 := by decide +kernel
/-- CRC-32C of the nine digits, its published check value. -/
theorem test_crc32c : crc32c ("123456789".toList.map Char.toNat) = 0xE3069283 := by decide +kernel
/-- The strap of the recording card's master reads 0x0000_8107 (bring-up example); its subordinate's code 22 is index 4. -/
theorem test_strap : strapWord 7 = 0x00008107 ∧ (strapWord 22).extractLsb' 8 4 = 4 ∧ strapMarginal 22 = false := by decide
/-- The randomiser of chamber 3.5.1 block 1207 page 88 (the example under R217): its seed and first three bytes. -/
theorem test_randomiser : rndSeed 1207 88 59 = 0x0317FE54 ∧ keystream (rndSeed 1207 88 59) 0 3 = [0x03, 0x17, 0x3B] := by decide
/-- Three regions of a 512 KiB write at LBA 96 over two devices with 256 KiB stripes (the example of R90). -/
theorem test_stripes :
    let s : State := { live with teth := { live.teth with chain := some ⟨1, 2, 18, 0⟩ } }
    s.runsOf { ns1 with units := [0, 1] } 96 128 = [(1, 96, 32), (0, 128, 64), (1, 192, 32)] := by decide
/-- The accesses of line 0 of the two-dimensional move of the example under R455. -/
theorem test_widths : cutUp 21 0x21700003 21 = [(0x21700003, 1), (0x21700004, 4), (0x21700008, 8), (0x21700010, 8)] ∧
    cutUp 21 0x21700105 21 = [(0x21700105, 1), (0x21700106, 2), (0x21700108, 8), (0x21700110, 8), (0x21700118, 2)] := by decide
/-- The unmatched read of the example in "Protection": MPU_FAULT reads 0x0000_0F03. -/
theorem test_fault_record : (live.refuse .user false 0 15 0 0x20000000).reg .mpuFault = 0x00000F03 := by decide
/-- Bits 11 and 30 give TRB_LO 0x4000_0800; a write that clears bit 30 leaves bit 11 (the example of chapter 20). -/
theorem test_trouble : ((live.raise 11).raise 30).regShown .trbLo = 0x40000800 ∧
    (match exec (.troubleClearWrite false 0x40000000) ((live.raise 11).raise 30) with | .next t => t.regShown .trbLo | _ => 0) = 0x00000800 := by decide
/-- A temperature-tracked entry, a retry row and the clamp (the example of chapter 9): −9, then −12. -/
def tracked : State := { up with
  assay := { up.assay with chTemp := [(0, (72, false))], ofs := [(0, { vec := [0, 0, 0, 3, 0, 0, 0], searched := true, temp := 40 })] } }
def trackedProf : Profile := { prof with ofsLo := -12, ofsHi := 20, coef := [0, 0, 0, -96, 0, 0, 0], retry := [List.replicate 7 0, [0, 0, 0, -4, 0, 0, 0]] }
theorem test_offsets : tracked.dinv 0 trackedProf 0 0 0 3 = -9 ∧ tracked.dinv 0 trackedProf 0 2 1 3 = -12 := by decide
/-- The stored byte 0x88 with bit 0 flipped reads back corrected (the example of chapter 14); a narrow write of four bytes keeps the other four. -/
theorem test_narrow : (⟨0x8877665544332288, 1, 0⟩ : KWord).decode = .corrected 0x8877665544332288 ∧
    (let s : State := { live with kpr := { live.kpr with words := [(0x2E0000, ⟨0x8877665544332211, 0, 0⟩)] } }
     (s.kprRmw 0x2E0000 0xAABBCCDD 0x0F).kprWord 0x2E0000 = ⟨0x88776655AABBCCDD, 0, 0⟩) := by decide
/-- A reset of level 1 from source 9 sets cause bit 9 and leaves Front no context (R9, R549). -/
theorem test_reset_level1 : (live.requestReset 9 1).sys.rst = some 1 ∧ ((live.requestReset 9 1).reg .sysCause).getLsbD 9 = true ∧
    (live.requestReset 9 1).front.ctxs = [] := by decide
/-- An Abort with no such command answers DW0 bit 0 set (NVMe). -/
theorem test_abort_none : (match exec (.abort hdr 1 9) live with | .next t => t.front.posted.map fun c => (c.sc, c.dw0) | _ => []) = [(0, 1)] := by decide
/-- A read past the capacity is refused with LBA Out of Range (80h). -/
theorem test_lba_range : (match exec (.read hdr1 1 262143 2) disk with | .next t => t.front.posted.map fun c => (c.sct, c.sc) | _ => []) = [(0, 0x80)] := by decide
/-- `sleep` with the controller enabled answers `err state host` (R136). -/
theorem test_sleep_state : (match exec (.sleep line none) live with | .next t => t.con.replies.map fun r => r.status == .err .state [("", .word "host")] | _ => []) = [true] := by decide
/-- A doorbell moves the tail. -/
theorem test_doorbell : (match exec (.sqTailDoorbell 1 5) live with | .next t => (Store.find t.front.sqs 1).map (·.tail) | _ => none) = some 5 := by decide
/-- Standard slots 1 and 3, word for word (the two examples under R186). -/
theorem test_standard_slots : (stdSlot 1 false 0x61 0xD2).map (·.ops) = some [0x7800001A, 0x08000000, 0x10000002, 0x08000130, 0x40000000, 0x48034040,
      0x08000006, 0x10000002, 0x080000E0, 0x40000003, 0x20030000, 0x00000000] ∧
    (stdSlot 3 false 0x61 0xD2).map (·.ops) = some [0x78000018, 0x602E0000, 0x582E0000, 0x08000080, 0x10000002, 0x40000002, 0x18010000, 0x08000011,
      0x40000008, 0x70080001, 0x68000003, 0x08000080, 0x10000002, 0x40000002, 0x18010000, 0x08000310, 0x40000000, 0x48054040, 0x58500001, 0x00000101,
      0x00000000] := by decide
/-- The header of a PART frame, its bytes and the first of its payload (the example of chapter 13). -/
theorem test_frame :
    let f : Frame := ⟨1, 1, 0, 0x2A5, 0x0103, 0, 0, .part ⟨1, 0, false, false, true, false, 32, 96, []⟩⟩
    f.header = 0x0000010300420000 + 0xA511 ∧ (leBytes 8 f.header) = [0x11, 0xA5, 0x42, 0, 3, 1, 0, 0] ∧
      f.payload.take 16 = [1, 0x20, 0, 0, 32, 0, 0, 0, 96, 0, 0, 0, 0, 0, 0, 0] := by decide
/-- The balls of a gallery before it trains: CE_N high and WP_N low (R51). -/
theorem witness_BallsHeld : State.reset.galHeld 7 = true ∧ (State.reset.gals.get 7).profile = none ∧ State.reset.inReset = true ∧
    State.reset.ball (.ce 7 7) = .driven true ∧ State.reset.ball (.wp 0) = .driven false ∧ State.reset.ball .conTx = .driven true := by decide

end Sys2Proof.Tests
end

section
/-! Register addresses and what the registers hold: reading after a write of a register, of a field of one, and after a reset drops
the values in its scope. -/

namespace Sys2Proof

/-- A gallery's registers lie in its own 64 KiB of the register space (R22). -/
theorem Reg.ofAddr_gal (g : Fin 8) (off : Nat) (h : off < 0x10000) :
    Reg.ofAddr (0x40100000 + g.val * 0x10000 + off) = Reg.ofGalOff g off := by
  have hin : 0x40100000 ≤ 0x40100000 + g.val * 0x10000 + off ∧ 0x40100000 + g.val * 0x10000 + off < 0x40180000 := by omega
  have hg : (0x40100000 + g.val * 0x10000 + off - 0x40100000) / 0x10000 = g.val := by omega
  have hoff : (0x40100000 + g.val * 0x10000 + off) % 0x10000 = off := by omega
  simp only [Reg.ofAddr, hin, hg, hoff, and_self, dif_pos, Fin.eta]

/-- A DMA channel's registers lie in its own 64 bytes of the DMA block. -/
theorem Reg.ofAddr_dma (n : Fin 8) (off : Nat) (h : off < 0x40) :
    Reg.ofAddr (off + 0x40070100 + n.val * 0x40) = Reg.ofDmaOff n off := by
  have hgal : ¬(0x40100000 ≤ off + 0x40070100 + n.val * 0x40 ∧ off + 0x40070100 + n.val * 0x40 < 0x40180000) := by omega
  have hin : 0x40070100 ≤ off + 0x40070100 + n.val * 0x40 ∧ off + 0x40070100 + n.val * 0x40 < 0x40070300 := by omega
  have hn : (off + 0x40070100 + n.val * 0x40 - 0x40070100) / 0x40 = n.val := by omega
  have hoff : (off + 0x40070100 + n.val * 0x40) % 0x40 = off := by omega
  simp only [Reg.ofAddr, dif_neg hgal, hin, hn, hoff, and_self, dif_pos, Fin.eta]

/-- The bases of the protection regions stand every 8 bytes. -/
theorem Reg.ofAddr_rgnBase (i : Fin 16) : Reg.ofAddr (Reg.mpuRgnBase i).addr = some (.mpuRgnBase i) := by
  revert i; decide

/-- The second words of the protection regions stand between the bases. -/
theorem Reg.ofAddr_rgnAttr (i : Fin 16) : Reg.ofAddr (Reg.mpuRgnAttr i).addr = some (.mpuRgnAttr i) := by
  revert i; decide

/-- A register's address leads back to it. -/
@[simp] theorem Reg.ofAddr_addr (r : Reg) : Reg.ofAddr r.addr = some r := by
  cases r with
  | galCtl g | galStat g | galTrainInfo g | galSuspect g | galParity g | galTmo g | galWptSel g | galWptData g | galWptLoad g
  | galSeqSel g | galSeqCtx g | galSeqLast g | galOpsAddr g | galOpsData g | galProfId g | galRunTicks g =>
    exact Reg.ofAddr_gal g _ (by decide)
  | dmaChSrc n | dmaChDst n | dmaChSlen n | dmaChDlen n | dmaChSstride n | dmaChDstride n | dmaChSlines n | dmaChDlines n
  | dmaChLink n | dmaChCfg n | dmaChPatlo n | dmaChPathi n | dmaChCtl n | dmaChStat n | dmaChDone n | dmaChCur n =>
    exact Reg.ofAddr_dma n _ (by decide)
  | mpuRgnBase i => exact Reg.ofAddr_rgnBase i
  | mpuRgnAttr i => exact Reg.ofAddr_rgnAttr i
  | _ => rfl

/-- No two registers share an address. -/
theorem Reg.addr_inj {r q : Reg} : r.addr = q.addr ↔ r = q := by
  refine ⟨fun h => Option.some.inj ?_, congrArg _⟩
  rw [← Reg.ofAddr_addr r, h, Reg.ofAddr_addr]

/-- Every register is a word of the register space (R20). -/
theorem Reg.addr_place (r : Reg) : r.addr % 4 = 0 ∧ 0x40000000 ≤ r.addr ∧ r.addr < 0x80000000 := by
  cases r <;> dsimp only [Reg.addr] <;> omega

end Sys2Proof

namespace Sys2Proof.Machine

/-- Reading after entries are left out, whatever the store. -/
theorem store_get_drop_any {α : Type} {d : Nat → α} (m : Store α) (p : Nat → Bool) (j : Nat) :
    Store.get d (m.drop p) j = if p j then d j else m.get d j := by
  induction m with
  | nil => simp [Store.drop, Store.get]
  | cons e m ih =>
    obtain ⟨a, w⟩ := e
    unfold Store.drop at ih ⊢
    rw [List.filter_cons]
    by_cases hj : a = j
    · subst hj
      cases hp : p a <;> simp [hp, Store.get] at ih ⊢
      exact ih
    · cases hp : p a <;> simp [Store.get, hj, ih]

/-! ### What a register holds after a write -/

theorem State.reg_setReg (s : State) (r q : Reg) (v : Word) : (s.setReg r v).reg q = if q = r then v else s.reg q := by
  unfold State.reg State.setReg
  simp only [store_get_set_any, Reg.addr_inj]

@[simp] theorem State.reg_setReg_same (s : State) (r : Reg) (v : Word) : (s.setReg r v).reg r = v := by simp [State.reg_setReg]

@[simp] theorem State.reg_setReg_ne (s : State) {r q : Reg} (v : Word) (h : q ≠ r) : (s.setReg r v).reg q = s.reg q := by
  simp [State.reg_setReg, h]

@[simp] theorem State.reg_setRf_ne (s : State) {r q : Reg} (lo n v : Nat) (h : q ≠ r) : (s.setRf r lo n v).reg q = s.reg q :=
  State.reg_setReg_ne s _ h

/-- A field just set. -/
theorem State.rf_setRf_same (s : State) (r : Reg) (lo n v : Nat) (h : lo + n ≤ 32) : (s.setRf r lo n v).rf r lo n = v % 2 ^ n := by
  simp only [State.rf, State.setRf, State.reg_setReg_same, fld_setFld _ _ _ _ h]

/-- A field of the same register apart from the one set. -/
theorem State.rf_setRf_apart (s : State) (r : Reg) (lo n v lo' n' : Nat) (h : lo' + n' ≤ 32) (hd : lo' + n' ≤ lo ∨ lo + n ≤ lo') :
    (s.setRf r lo n v).rf r lo' n' = s.rf r lo' n' := by
  simp only [State.rf, State.setRf, State.reg_setReg_same, fld_setFld_ne _ _ _ _ _ _ h hd]

/-- Registers are held in `regs` alone. -/
theorem State.reg_congr {s t : State} (h : s.regs = t.regs) (r : Reg) : s.reg r = t.reg r := by unfold State.reg; rw [h]

/-- A field of one bit is that bit. -/
theorem fld_bit (w : Word) (i : Nat) : fld w i 1 = b2n (w.getLsbD i) := by
  have h := Nat.toNat_testBit w.toNat i
  rw [BitVec.testBit_toNat] at h
  rw [fld, Nat.shiftRight_eq_div_pow, pow_one, ← h]
  cases w.getLsbD i <;> rfl

end Sys2Proof.Machine
end

section
/-! The registers as they stand and as they are written: the reset state, plain writes, and the accesses that end in one write. -/

namespace Sys2Proof.Machine

/-- A register with no mirroring field keeps none of its bits from a write for one. -/
theorem not_mirrorMask {r : Reg} (h : mirrorsOf r = []) : ~~~(mirrorMask r) = BitVec.allOnes 32 := by unfold mirrorMask; rw [h]; rfl

/-- A plain write of a register that mirrors no setting is a write of that register alone. -/
theorem State.plainReg_eq (s : State) {r : Reg} (v : Word) (h : mirrorsOf r = []) :
    s.plainReg r v = s.setReg r (((s.reg r &&& ~~~r.rw) ||| (v &&& r.rw)) &&& ~~~(v &&& r.w1c)) := by
  simp only [State.plainReg, State.mirrorFields, not_mirrorMask h, h, List.foldl_nil, plainWrite, BitVec.and_allOnes]

/-- The device but for its registers is what it was before a write of one. -/
theorem State.setReg_frame (s : State) (r : Reg) (v : Word) : { s.setReg r v with regs := s.regs } = s := rfl

/-- A write of a register keeps what is addressed in canonical form. -/
theorem State.setReg_wf {s : State} (r : Reg) (v : Word) (h : Memory.wf s = true) : Memory.wf (s.setReg r v) = true := by
  simp only [Memory.wf, Bool.and_eq_true] at h ⊢
  obtain ⟨⟨hregs, hkpr⟩, hbst⟩ := h
  exact ⟨⟨Store.wf_set _ _ hregs, hkpr⟩, hbst⟩

/-! ### Writes that a control core or Lantern issues -/

section
variable {s : State} {cls : Cls} {a w v : Nat} (hc : s.canIssue cls = true)
include hc

/-- A refused write leaves its record. -/
theorem State.issue_refused {k r : Nat} (hv : s.verdict cls true a = some (k, r)) :
    s.issue cls a w v = (s.refuse cls true k r (coreOf cls) a).dmaKick := by
  simp only [State.issue, hc, State.busWrite, hv, if_true]

/-- A write with no place changes no register. -/
theorem State.issue_nowhere (hv : s.verdict cls true a = none) (hp : s.place a w = .none) : s.issue cls a w v = s.dmaKick := by
  simp [State.issue, hc, State.busWrite, hv, State.decodeWrite, hp, Place.privilegedOnly]

/-- A write to a Keeper word or a part of one. -/
theorem State.issue_keeper (hv : s.verdict cls true a = none) (hp : s.place a w = .keeper) :
    s.issue cls a w v = (s.keeperWrite a w v).dmaKick := by
  simp [State.issue, hc, State.busWrite, hv, State.decodeWrite, hp, Place.privilegedOnly]

end

/-- A write of less than a word goes to its lanes of the word. -/
theorem State.keeperWrite_narrow (s : State) (a v : Nat) {w : Width} (h : w ≠ .w8) :
    s.keeperWrite a w.bytes v = s.kprNarrow ((a - 0x20000000) / 8) (laneData a v) (laneMask a w.bytes) := by
  cases w with
  | w8 => exact absurd rfl h
  | w1 | w2 | w4 => rfl

/-! ### The rows -/

theorem exec_registerWrite (cls : Cls) (a v : Word) (s : State) :
    exec (.registerWrite cls a v) s = .next (s.issue cls a.toNat 4 v.toNat) := rfl

theorem exec_mirroredFieldWrite (cls : Cls) (f : Mirror) (n : Nat) (s : State) :
    exec (.mirroredFieldWrite cls f n) s = .next (s.issue cls (mirrorField f).1.addr 4
      (setFld (s.reg (mirrorField f).1 &&& (mirrorField f).1.rw) (mirrorField f).2.1 (mirrorField f).2.2 n).toNat) := rfl

theorem exec_narrowWrite_good (cls : Cls) (a : Word) (w : Width) (v : BitVec 64) (s : State) :
    exec (.narrowWrite cls a w v false) s = .next (s.issue cls a.toNat w.bytes (v.toNat % 256 ^ w.bytes)) := rfl

/-- A write whose parity fails at the Keeper poisons its word. -/
theorem exec_narrowWrite_bad {s : State} {cls : Cls} {a : Word} {w : Width} (v : BitVec 64) (hc : s.canIssue cls = true)
    (hv : s.verdict cls true a.toNat = none) (hp : s.place a.toNat w.bytes = .keeper) :
    exec (.narrowWrite cls a w v true) s =
      .next (s.kprParityWrite ((a.toNat - 0x20000000) / 8) (laneData a.toNat v.toNat) (laneMask a.toNat w.bytes)) := by
  change execNarrowWrite cls a w v true s = _
  simp [execNarrowWrite, hc, hv, hp]

theorem exec_flipMaskArm (cls : Cls) (v : Word) (s : State) :
    exec (.flipMaskArm cls v) s = .next (s.issue cls (Reg.addr .kprFlipCtl) 4 v.toNat) := rfl

theorem exec_mpuCommit (cls : Cls) (s : State) :
    exec (.mpuCommit cls) s = .next (s.issue cls (Reg.addr .mpuCtl) 4 ((s.reg .mpuCtl &&& Reg.rw .mpuCtl).toNat + 1)) := rfl

/-- No mirroring field lies in GAL_WPT_LOAD. -/
theorem mirrorField_ne_load (f : Mirror) (g : Fin 8) : (mirrorField f).1 ≠ .galWptLoad g := by cases f <;> simp [mirrorField]

end Sys2Proof.Machine

namespace Sys2Proof
open Machine

/-- Settles O5: the two registers listed at reset are the cause register and its snapshot, and the rest is evaluated. -/
theorem resetState : Obligations.ResetState := by
  have hwf : State.reset.wf = true := by decide
  refine ⟨hwf, rfl, rfl, rfl, rfl, fun r hcause hsnap => ?_, rfl⟩
  have h1 : ¬0x40000080 = r.addr := fun h => hcause (Reg.addr_inj.1 (h.symm : r.addr = Reg.addr .sysCause))
  have h2 : ¬0x40000088 = r.addr := fun h => hsnap (Reg.addr_inj.1 (h.symm : r.addr = Reg.addr .sysCauseSnap))
  simp only [State.reg, State.reset, Store.get, if_neg h1, if_neg h2]

/-- Settles O10: the decode inverts the addresses, and a write of a register is a write of one key of the store. -/
theorem registers : Obligations.Registers := by
  refine ⟨⟨Reg.ofAddr_addr, fun _ _ => Reg.addr_inj.1, Reg.addr_place⟩, fun s r q v hwf => ?_, fun s r v hr => ?_⟩
  · exact ⟨s.reg_setReg_same r v, s.reg_setReg_ne v, s.setReg_wf r v hwf, s.setReg_frame r v⟩
  · rw [s.plainReg_eq v hr]
    exact ⟨s.reg_setReg_same r _, fun _ => s.reg_setReg_ne _, s.setReg_frame r _⟩

/-- Settles O11: each row is one issued write, by what the protection unit and the decode say of its address. -/
theorem registerWriteRows : Obligations.RegisterWriteRows := by
  intro s cls hc
  refine ⟨fun a v r hv hp hr => ?_, fun a v k r hv => ?_, fun a v hv hp => ?_, fun f n hv hp => ?_, fun a w v hw hv hp => ?_,
    fun a w v hv hp => exec_narrowWrite_bad v hc hv hp, fun v hv hp => ?_, fun hv hp => ?_⟩
  · rw [exec_registerWrite, State.issue_register hc hv hp hr, BitVec.ofNat_toNat, BitVec.setWidth_eq]
  · rw [exec_registerWrite, State.issue_refused hc hv]
  · rw [exec_registerWrite, State.issue_nowhere hc hv hp]
  · rw [exec_mirroredFieldWrite, State.issue_register hc hv hp (mirrorField_ne_load f), BitVec.ofNat_toNat, BitVec.setWidth_eq]
  · rw [exec_narrowWrite_good, State.issue_keeper hc hv hp, State.keeperWrite_narrow s _ _ hw]
  · rw [exec_flipMaskArm, State.issue_register hc hv hp (fun _ => nofun), BitVec.ofNat_toNat, BitVec.setWidth_eq, State.regWrite]
  · rw [exec_mpuCommit, State.issue_register hc hv hp (fun _ => nofun), State.regWrite]

end Sys2Proof
end

section
/-! The trouble word: its two halves as registers, a bit raised, bits cleared, and the bits that report a condition (R12, R575 to R578). -/

namespace Sys2Proof.Machine

/-- The lifetime second recorded with a trouble bit, 0 where it has none (R575). -/
def State.trbSecond (s : State) (n : Nat) : Word := Store.get (fun _ => (0 : Word)) s.sys.trbTime n

/-! ### A bit raised -/

theorem State.trb_raise (s : State) (n m : Nat) (hn : n < 64) : (s.raise n).trb m = (s.trb m || m == n) := by
  have hbit : (1#64 <<< n).getLsbD m = (m == n) := by
    change (BitVec.twoPow 64 n).getLsbD m = (m == n)
    simp [BitVec.getLsbD_twoPow, hn, Bool.beq_eq_decide_eq, eq_comm]
  simp only [State.trb, State.raise, BitVec.getLsbD_or, hbit]

theorem State.trbSecond_raise (s : State) (n m : Nat) :
    (s.raise n).trbSecond m = if m = n then BitVec.ofNat 32 s.sys.life else s.trbSecond m := store_get_set_any _ _ _ _

theorem State.trb_raiseIf (s : State) (c : Bool) (n m : Nat) (hn : n < 64) : (s.raiseIf c n).trb m = (s.trb m || (m == n && c)) := by
  cases c
  · simp [State.raiseIf]
  · simp [State.raiseIf, State.trb_raise s n m hn]

/-- A bit that is not raised keeps its second. -/
theorem State.trbSecond_raiseIf (s : State) {c : Bool} {n m : Nat} (h : (m == n && c) = false) :
    (s.raiseIf c n).trbSecond m = s.trbSecond m := by
  cases c
  · rfl
  · have hne : m ≠ n := by simpa using h
    exact (s.trbSecond_raise n m).trans (if_neg hne)

/-! What raising a bit leaves alone, where it is done on a condition. -/

@[simp] theorem State.raiseIf_regs (s : State) (c : Bool) (n : Nat) : (s.raiseIf c n).regs = s.regs := by cases c <;> rfl
@[simp] theorem State.raiseIf_map (s : State) (c : Bool) (n : Nat) : (s.raiseIf c n).map = s.map := by cases c <;> rfl
@[simp] theorem State.raiseIf_gals (s : State) (c : Bool) (n : Nat) : (s.raiseIf c n).gals = s.gals := by cases c <;> rfl
@[simp] theorem State.raiseIf_bst (s : State) (c : Bool) (n : Nat) : (s.raiseIf c n).bst = s.bst := by cases c <;> rfl
@[simp] theorem State.raiseIf_kpr (s : State) (c : Bool) (n : Nat) : (s.raiseIf c n).kpr = s.kpr := by cases c <;> rfl
@[simp] theorem State.raiseIf_con (s : State) (c : Bool) (n : Nat) : (s.raiseIf c n).con = s.con := by cases c <;> rfl
@[simp] theorem State.raiseIf_backlog (s : State) (c : Bool) (n : Nat) : (s.raiseIf c n).backlog = s.backlog := by cases c <;> rfl
@[simp] theorem State.raiseIf_brownWarning (s : State) (c : Bool) (n : Nat) : (s.raiseIf c n).brownWarning = s.brownWarning := by
  cases c <;> rfl

/-! ### The bits that report a condition (R577) -/

/-- The condition that a bit reports holds now. -/
def State.reports (s : State) (n : Nat) : Bool :=
  (n == 26 && s.map.mounted && decide (1 ≤ s.map.health)) || (n == 27 && s.map.mounted && s.map.health == 2) ||
    (n == 28 && s.map.mounted && s.backlog) || (n == 50 && s.brownWarning)

/-- The four bits are raised on what the state itself says: raising one changes no condition of another. -/
theorem State.conditions_eq (s : State) :
    s.conditions = (((s.raiseIf (s.map.mounted && decide (1 ≤ s.map.health)) 26).raiseIf (s.map.mounted && s.map.health == 2) 27).raiseIf
      (s.map.mounted && s.backlog) 28).raiseIf s.brownWarning 50 := by
  simp only [State.conditions, State.raiseIf_map, State.raiseIf_backlog, State.raiseIf_brownWarning]

theorem State.trb_conditions (s : State) (n : Nat) : s.conditions.trb n = (s.trb n || s.reports n) := by
  simp only [State.conditions_eq, State.trb_raiseIf, State.reports, Nat.reduceLT, Bool.or_assoc, Bool.and_assoc]

/-- A bit whose condition does not hold keeps its second. -/
theorem State.trbSecond_conditions {s : State} {n : Nat} (h : s.reports n = false) : s.conditions.trbSecond n = s.trbSecond n := by
  simp only [State.reports, Bool.or_eq_false_iff, Bool.and_assoc] at h
  obtain ⟨⟨⟨h26, h27⟩, h28⟩, h50⟩ := h
  rw [State.conditions_eq, State.trbSecond_raiseIf _ h50, State.trbSecond_raiseIf _ h28, State.trbSecond_raiseIf _ h27,
    State.trbSecond_raiseIf _ h26]

/-! ### Bits cleared (R576) -/

theorem State.trb_clearBits (s : State) (mask : BitVec 64) (n : Nat) : (s.clearBits mask).trb n = (s.trb n && !mask.getLsbD n) := by
  simp only [State.trb, State.clearBits, BitVec.getLsbD_and, BitVec.getLsbD_not]
  by_cases hn : n < 64
  · simp [hn]
  · simp [BitVec.getLsbD_of_ge s.sys.trouble n (by omega)]

theorem State.trbSecond_clearBits (s : State) (mask : BitVec 64) (n : Nat) :
    (s.clearBits mask).trbSecond n = if mask.getLsbD n then 0 else s.trbSecond n := store_get_drop_any _ _ _

/-- The bits of the trouble word that a mask written to one half clears; the reserved positions are not there to clear. -/
def clearedBy (hi : Bool) (mask : Word) (n : Nat) : Bool :=
  decide (n < 64 ∧ (32 ≤ n ↔ hi = true)) && mask.getLsbD (n % 32) && troubleValid.getLsbD n

theorem getLsbD_clearMask (hi : Bool) (mask : Word) (n : Nat) :
    (BitVec.ofNat 64 (if hi then mask.toNat * 2 ^ 32 else mask.toNat) &&& troubleValid).getLsbD n = clearedBy hi mask n := by
  rw [BitVec.getLsbD_and, BitVec.getLsbD_ofNat, clearedBy]
  congr 1
  cases hi with
  | false =>
    by_cases h : n < 32
    · have : n < 64 := by omega
      simp [h, this, Nat.mod_eq_of_lt h, BitVec.testBit_toNat]
    · have hge : 32 ≤ n := by omega
      simp [hge, BitVec.testBit_toNat]
  | true =>
    rw [if_pos rfl, Nat.testBit_mul_two_pow]
    by_cases h : 32 ≤ n ∧ n < 64
    · have : n % 32 = n - 32 := by omega
      simp [h, this, BitVec.testBit_toNat]
    · have hout : (decide (n < 64) && decide (32 ≤ n)) = false := by simp; omega
      simp [← Bool.and_assoc, hout]

theorem State.trb_clearTrouble (s : State) (mask : BitVec 64) (n : Nat) :
    (s.clearTrouble mask).trb n = ((s.trb n && !(mask &&& troubleValid).getLsbD n) || s.reports n) := by
  rw [State.clearTrouble, State.trb_conditions, State.trb_clearBits]; rfl

theorem State.trbSecond_clearTrouble {s : State} (mask : BitVec 64) {n : Nat} (h : s.reports n = false) :
    (s.clearTrouble mask).trbSecond n = if (mask &&& troubleValid).getLsbD n then 0 else s.trbSecond n := by
  rw [State.clearTrouble, State.trbSecond_conditions (by exact h), State.trbSecond_clearBits]

/-- Clearing trouble bits changes the trouble word and what Front tells of it, nothing else of these. -/
theorem State.clearTrouble_keeps (s : State) (mask : BitVec 64) :
    (s.clearTrouble mask).regs = s.regs ∧ (s.clearTrouble mask).map = s.map ∧ (s.clearTrouble mask).gals = s.gals ∧
      (s.clearTrouble mask).bst = s.bst ∧ (s.clearTrouble mask).kpr = s.kpr ∧ (s.clearTrouble mask).con = s.con := by
  simp only [State.clearTrouble, State.conditions_eq, State.raiseIf_regs, State.raiseIf_map, State.raiseIf_gals, State.raiseIf_bst,
    State.raiseIf_kpr, State.raiseIf_con]
  exact ⟨rfl, rfl, rfl, rfl, rfl, rfl⟩

/-! ### The rows -/

theorem exec_troubleClearWrite (hi : Bool) (mask : Word) (s : State) : exec (.troubleClearWrite hi mask) s =
    .next (s.clearTrouble (BitVec.ofNat 64 (if hi then mask.toNat * 2 ^ 32 else mask.toNat))) := rfl

theorem exec_sysCauseClear (mask : Word) (s : State) : exec (.sysCauseClear mask) s = .next (s.clearCause mask) := rfl

end Sys2Proof.Machine

namespace Sys2Proof
open Machine

/-- Settles O6: each half shows the quotient or the remainder of the trouble word by 2^32. -/
theorem troubleHalves : Obligations.TroubleHalves := by
  refine ⟨rfl, rfl, fun s n => ⟨fun hn => ?_, fun hlo hhi => ?_⟩⟩
  · have hshown : s.regShown .trbLo = BitVec.ofNat 32 (s.sys.trouble.toNat % 2 ^ 32) := rfl
    rw [hshown, BitVec.getLsbD_ofNat, Nat.testBit_mod_two_pow, BitVec.testBit_toNat]
    simp [hn]
  · have hshown : s.regShown .trbHi = BitVec.ofNat 32 (s.sys.trouble.toNat / 2 ^ 32) := rfl
    have hn : n - 32 < 32 := by omega
    have hsum : n - 32 + 32 = n := by omega
    rw [hshown, BitVec.getLsbD_ofNat, Nat.testBit_div_two_pow, BitVec.testBit_toNat, hsum]
    simp [hn]

/-- Settles O13: clearing is a mask on the word and its seconds, after which the bits whose conditions hold are raised again. -/
theorem troubleAndCause : Obligations.TroubleAndCause := by
  refine ⟨fun s n m hn => ⟨?_, ?_, fun hm => ⟨?_, ?_⟩⟩, fun s hi mask => ⟨_, exec_troubleClearWrite hi mask s, fun n => ?_, fun n hn => ?_,
    s.clearTrouble_keeps _⟩, fun s mask => ⟨_, exec_sysCauseClear mask s, s.reg_setReg_same _ _, fun _ => s.reg_setReg_ne _, rfl⟩⟩
  · simp [State.trb_raise s n n hn]
  · exact (s.trbSecond_raise n n).trans (if_pos rfl)
  · simp [State.trb_raise s n m hn, hm]
  · exact (s.trbSecond_raise n m).trans (if_neg hm)
  · rw [State.trb_clearTrouble, getLsbD_clearMask]; rfl
  · have h := s.trbSecond_clearTrouble (BitVec.ofNat 64 (if hi then mask.toNat * 2 ^ 32 else mask.toNat)) hn
    rw [getLsbD_clearMask] at h
    exact h

end Sys2Proof
end

section
/-! Resets: what the record of one says, what the request of one becomes, and what the reset of a unit leaves (R9, R547 to R551, R570). -/

namespace Sys2Proof.Machine

/-! ### The record of a reset (R547) -/

section
variable (s : State) (level src count : Nat)

/-- The record sets the source's cause bit. -/
theorem State.recordReset_cause : (s.recordReset level src count).reg .sysCause = s.reg .sysCause ||| BitVec.ofNat 32 (2 ^ src) := by
  unfold State.recordReset State.cause
  split <;> simp

/-- The snapshot is the cause register with that bit. -/
theorem State.recordReset_snap : (s.recordReset level src count).reg .sysCauseSnap = (s.recordReset level src count).reg .sysCause := by
  rw [State.recordReset_cause]
  unfold State.recordReset State.cause
  split <;> simp

theorem State.recordReset_last :
    (s.recordReset level src count).reg .sysRstLast = BitVec.ofNat 32 (level + 16 * src + 65536 * count) := by
  unfold State.recordReset
  split <;> simp

/-- The registers that record a reset. -/
def recordRegs : List Reg := [.sysCause, .sysCauseSnap, .sysRstLast, .trbSnapLo, .trbSnapHi]

/-- The record changes no other register. -/
theorem State.recordReset_other {r : Reg} (h : r ∉ recordRegs) : (s.recordReset level src count).reg r = s.reg r := by
  simp only [recordRegs, List.mem_cons, List.not_mem_nil, or_false, not_or] at h
  obtain ⟨hcause, hsnap, hlast, hlo, hhi⟩ := h
  unfold State.recordReset State.cause
  split <;> simp [hcause, hsnap, hlast, hlo, hhi]

end

/-- A bit set in a word. -/
theorem getLsbD_or_two_pow (w : Word) {i : Nat} (h : i < 32) : (w ||| BitVec.ofNat 32 (2 ^ i)).getLsbD i = true := by
  rw [BitVec.getLsbD_or, BitVec.getLsbD_ofNat, Nat.testBit_two_pow_self]
  simp [h]

/-- The fields of SYS_RST_LAST (R567). -/
theorem fld_rstLast {level src count : Nat} (hl : level < 16) (hs : src < 16) (hc : count < 65536) :
    let w : Word := BitVec.ofNat 32 (level + 16 * src + 65536 * count)
    fld w 0 4 = level ∧ fld w 4 4 = src ∧ fld w 16 16 = count := by
  refine ⟨?_, ?_, ?_⟩ <;> rw [fld_ofNat _ _ _ (by decide)] <;> omega

/-! ### A reset asserted (R548) -/

theorem State.orderAll_regs (s : State) (sub arg : Nat) : (s.orderAll sub arg).regs = s.regs :=
  foldl_keeps State.regs s.presentSubs (fun t k => t.order k sub arg) (fun _ _ => rfl) s

/-- The orders and the event that go before a reset touch no register. -/
theorem State.resetOrders_regs (s : State) (level src : Nat) : (s.resetOrders level src).regs = s.regs := by
  unfold State.resetOrders
  repeat' split
  · exact s.orderAll_regs _ _
  · exact s.orderAll_regs _ _
  all_goals rfl

theorem State.activating_regs (s : State) (level : Nat) : (s.activating level).regs = s.regs := by
  unfold State.activating; split <;> rfl

theorem State.resetCount_congr {s t : State} (h : s.regs = t.regs) (level : Nat) : s.resetCount level = t.resetCount level := by
  unfold State.resetCount State.rf; rw [State.reg_congr h]

theorem State.resetCount_lt (s : State) (level : Nat) : s.resetCount level < 65536 := by
  unfold State.resetCount
  split
  · decide
  · exact satAdd_lt 16 _ _

/-- The registers after a reset of level 0 to 3 are the record of it over those of some state. -/
theorem State.assertReset_record (s : State) (level src : Nat) :
    ∃ u : State, ∀ r : Reg, (s.assertReset level src).reg r = (u.recordReset level src (s.resetCount level)).reg r := by
  have hregs : ((s.resetOrders level src).activating level).regs = s.regs := by rw [State.activating_regs, State.resetOrders_regs]
  rw [← State.resetCount_congr hregs]
  exact ⟨_, fun _ => rfl⟩

/-! ### A reset requested (R549) -/

/-- With no swap committed, no request is raised. -/
theorem State.raised_of_no_swap {s : State} (h : s.bst.pendingSwap = none) (level : Nat) : s.raised level = level := by
  simp [State.raised, h]

/-- With no reset in progress a request asserts its own. -/
theorem State.requestReset_free {s : State} (h : s.sys.rst = none) (src level : Nat) :
    s.requestReset src level = s.assertReset (s.raised level) src := by
  simp only [State.requestReset, h]

/-- A request inside the scope of the reset in progress sets its cause bit. -/
theorem State.requestReset_inside {s : State} {src level cur : Nat} (h : s.sys.rst = some cur)
    (hin : levelContains cur (s.raised level) = true) : s.requestReset src level = s.cause src := by
  simp only [State.requestReset, h, hin, if_true]

/-- A wider request replaces the reset in progress. -/
theorem State.requestReset_wider {s : State} {src level cur : Nat} (h : s.sys.rst = some cur)
    (hout : levelContains cur (s.raised level) = false) (hin : levelContains (s.raised level) cur = true) :
    s.requestReset src level = s.assertReset (s.raised level) src := by
  simp only [State.requestReset, h, hout, hin, if_true, Bool.false_eq_true, if_false]

/-- Levels 0 and 1 are wider than every level above them. -/
theorem levelContains_lower {a b : Nat} (h : a < b) (ha : a ≤ 1) : levelContains a b = true ∧ levelContains b a = false := by
  obtain rfl | rfl : a = 0 ∨ a = 1 := by omega
  all_goals simp [levelContains]; omega

/-- Levels 2 and 3 contain neither the other: a level 3 request waits for the end of a level 2 reset, whose held commands go. -/
theorem State.requestReset_three_in_two {s : State} (h : s.sys.rst = some 2) (hr : s.raised 3 = 3) (src : Nat) :
    (s.requestReset src 3).sys.after2 = some src ∧ (s.requestReset src 3).front.ctxs = [] := by
  simp [State.requestReset, h, hr, levelContains]

theorem State.requestReset_two_in_three {s : State} (h : s.sys.rst = some 3) (hr : s.raised 2 = 2) (src : Nat) :
    (s.requestReset src 2).sys.after3 = some src := by
  simp [State.requestReset, h, hr, levelContains]

/-! ### SYS_RST_REQ (R570) -/

theorem exec_sysRstReqGo (cls : Cls) (level : BitVec 3) (unit : BitVec 5) (s : State) : exec (.sysRstReqGo cls level unit) s =
    .next (((s.setRf .sysRstReq 0 3 level.toNat).setRf .sysRstReq 4 5 unit.toNat).goReset cls level.toNat unit.toNat) := rfl

section
variable {u : State} (h : u.sys.rst = none)
include h

theorem State.goReset_part {cls : Cls} (hc : cls ≠ .debug) {level : Nat} (hl : level ≤ 3) (unit : Nat) :
    u.goReset cls level unit = u.assertReset (u.raised level) 7 := by
  rw [State.goReset, if_neg hc, if_pos hl, State.requestReset_free h]

theorem State.goReset_debug (level unit : Nat) : u.goReset .debug level unit = u.assertReset (u.raised (u.fuseLevel 11)) 11 := by
  rw [State.goReset, if_pos rfl, State.requestFused, State.requestReset_free h]

/-- A unit that is idle is reset; for one that is not, fail is set. -/
theorem State.goReset_unit {cls : Cls} (hc : cls ≠ .debug) {level unit : Nat} (hl : level = 4) {n : UnitName} (hu : unitOf unit = some n) :
    u.goReset cls level unit = if u.unitIdle n then u.assertUnit n 7 else u.setRf .sysRstReq 10 1 1 := by
  have hresetting : u.resetting = false := by simp [State.resetting, h]
  subst hl
  cases hidle : u.unitIdle n <;> simp [State.goReset, hc, hu, State.requestUnit, hresetting, hidle]

end

/-! ### The reset of a unit (R551) -/

/-- A unit's registers of level 4 read their reset values, every other register what it held. -/
theorem State.unitRegs_reg (s : State) (u : UnitName) (r : Reg) :
    (s.unitRegs u).reg r = if r.level = 4 ∧ unitReg u r = true then regDefault r.addr else s.reg r := by
  simp only [State.reg, State.unitRegs, store_get_drop_any, Reg.ofAddr_addr, Bool.and_eq_true, decide_eq_true_eq]

/-- Firmware writes of a gallery's setup are writes of its GAL_CTL. -/
theorem State.galSetup_reg_ne (s : State) {g : Fin 8} {r : Reg} (h : r ≠ .galCtl g) : (s.galSetup g).reg r = s.reg r := by
  simp only [State.galSetup, State.writeMode, State.reg_setRf_ne _ _ _ _ h]

theorem State.galSetup_enable (s : State) (g : Fin 8) : (s.galSetup g).rf (.galCtl g) 0 1 = b2n (s.settings.galEnable.get g) := by
  rw [State.galSetup, State.writeMode, State.rf_setRf_apart _ _ _ _ _ _ _ (by decide) (by decide),
    State.rf_setRf_apart _ _ _ _ _ _ _ (by decide) (by decide), State.rf_setRf_same _ _ _ _ _ (by decide)]
  cases s.settings.galEnable.get g <;> rfl

theorem State.galSetup_targets (s : State) (g : Fin 8) : (s.galSetup g).rf (.galCtl g) 8 8 = (s.gals.get g).ceMatch.toNat := by
  rw [State.galSetup, State.writeMode, State.rf_setRf_apart _ _ _ _ _ _ _ (by decide) (by decide),
    State.rf_setRf_same _ _ _ _ _ (by decide)]
  exact Nat.mod_eq_of_lt (BitVec.isLt _)

/-- Beside its own registers of level 4, a unit's reset writes GAL_CTL of a gallery and the lanes' register alone. -/
theorem State.unitState_reg (s : State) {u : UnitName} {r : Reg} (hlane : r ≠ .cdcLaneStat) (hctl : ∀ g : Fin 8, u = .gal g → r ≠ .galCtl g) :
    (s.unitState u).reg r = s.reg r := by
  cases u with
  | gal g => exact State.galSetup_reg_ne _ (hctl g rfl)
  | hard h => exact State.reg_setReg_ne _ _ hlane
  | soft n => exact State.reg_setReg_ne _ _ hlane
  | dma | tu | td | map | keeper => rfl

/-- A register outside the record reads what the reset of the unit alone left in it. -/
theorem State.assertUnit_reg (s : State) (u : UnitName) (src : Nat) {r : Reg} (h : r ∉ recordRegs) :
    (s.assertUnit u src).reg r = ((s.unitRegs u).unitState u).reg r := State.recordReset_other _ _ _ _ h

theorem galCtl_not_recorded (g : Fin 8) : Reg.galCtl g ∉ recordRegs := by simp [recordRegs]

theorem cdcLaneStat_not_recorded : Reg.cdcLaneStat ∉ recordRegs := by decide

/-- Firmware writes GAL_CTL of a gallery that was reset: its setting and its matched targets, which the reset keeps (R165). -/
theorem State.assertUnit_galCtl (s : State) (g : Fin 8) (src : Nat) :
    (s.assertUnit (.gal g) src).rf (.galCtl g) 0 1 = b2n (s.settings.galEnable.get g) ∧
      (s.assertUnit (.gal g) src).rf (.galCtl g) 8 8 = (s.gals.get g).ceMatch.toNat := by
  have hrf (lo n : Nat) : (s.assertUnit (.gal g) src).rf (.galCtl g) lo n =
      (((s.unitRegs (.gal g)).gal g Gallery.reset).galSetup g).rf (.galCtl g) lo n :=
    congrArg (fld · lo n) (s.assertUnit_reg (.gal g) src (galCtl_not_recorded g))
  have hmatch : (((s.unitRegs (.gal g)).gal g Gallery.reset).gals.get g).ceMatch = (s.gals.get g).ceMatch := by
    simp only [State.gal, get_setAt, if_true]; rfl
  exact ⟨(hrf 0 1).trans (State.galSetup_enable _ g), by rw [hrf, State.galSetup_targets, hmatch]⟩

/-- A lane that was reset is in service again. -/
theorem State.assertUnit_lane {s : State} {u : UnitName} {bit : Nat} (src : Nat) (hu : ∀ t : State, t.unitState u = t.laneIn bit)
    (hr : unitReg u .cdcLaneStat = false) :
    (s.assertUnit u src).reg .cdcLaneStat = s.reg .cdcLaneStat &&& ~~~(BitVec.ofNat 32 (2 ^ bit)) := by
  rw [State.assertUnit_reg s u src cdcLaneStat_not_recorded, hu, State.laneIn, State.reg_setReg_same, State.unitRegs_reg, hr]
  simp

end Sys2Proof.Machine

namespace Sys2Proof
open Machine

/-- What the assertion of a reset records, whatever the state (R547, R567). -/
theorem assertReset_records (s : State) {level src : Nat} (hl : level ≤ 3) (hs : src ≤ 12) :
    (s.assertReset level src).rf .sysCause src 1 = 1 ∧
      (s.assertReset level src).reg .sysCauseSnap = (s.assertReset level src).reg .sysCause ∧
      (s.assertReset level src).rf .sysRstLast 0 4 = level ∧ (s.assertReset level src).rf .sysRstLast 4 4 = src ∧
      (s.assertReset level src).rf .sysRstLast 16 16 = s.resetCount level := by
  obtain ⟨u, hu⟩ := s.assertReset_record level src
  simp only [State.rf, hu, State.recordReset_snap, State.recordReset_cause, State.recordReset_last, fld_bit,
    getLsbD_or_two_pow _ (show src < 32 by omega)]
  exact ⟨rfl, trivial, fld_rstLast (by omega) (by omega) (s.resetCount_lt level)⟩

/-- Settles O14: the record of a reset is read register by register, a request by the scopes of the two levels, and a unit's reset by its registers. -/
theorem resetsTaken : Obligations.ResetsTaken := by
  refine ⟨fun s level src hl hs => ?_, fun s src level cur hl hcur hswap => ?_, fun s level unit hrst => ?_, fun s u src r _ _ => ?_⟩
  · exact ⟨rfl, rfl, assertReset_records s hl hs⟩
  · have hr := State.raised_of_no_swap hswap
    refine ⟨fun h => ?_, fun h hin => ?_, fun h hlt hle => ?_, fun h h3 => ?_, fun h h2 => ?_⟩
    · rw [State.requestReset_free h, hr]
    · exact State.requestReset_inside h (by rwa [hr])
    · obtain ⟨hwide, hout⟩ := levelContains_lower hlt hle
      rw [State.requestReset_wider h (by rwa [hr]) (by rwa [hr]), hr]
    · exact h3 ▸ State.requestReset_three_in_two h (hr 3) src
    · exact h2 ▸ State.requestReset_two_in_three h (hr 2) src
  · intro u
    have hfree : u.sys.rst = none := hrst
    have hgo (cls : Cls) {t : State} (h : u.goReset cls level.toNat unit.toNat = t) : exec (.sysRstReqGo cls level unit) s = .next t :=
      (exec_sysRstReqGo cls level unit s).trans (congrArg _ h)
    refine ⟨fun cls hc hl => hgo cls (State.goReset_part hfree hc hl _), hgo .debug (State.goReset_debug hfree _ _),
      fun cls n hc hl hu => ⟨fun hidle => hgo cls ?_, fun hbusy => hgo cls ?_⟩⟩
    · rw [State.goReset_unit hfree hc hl hu, if_pos hidle]
    · rw [State.goReset_unit hfree hc hl hu, hbusy, if_neg Bool.false_ne_true]
  · refine ⟨fun hother hctl => ?_, fun g hg => hg ▸ s.assertUnit_galCtl g src, fun h hh => ?_, fun n hn => ?_⟩
    · have hlane : r ≠ .cdcLaneStat := fun h => hother (by simp [h])
      have hrec : r ∉ recordRegs := fun h => hother (List.mem_append_left [Reg.cdcLaneStat] h)
      rw [State.assertUnit_reg s u src hrec, State.unitState_reg _ hlane hctl, State.unitRegs_reg]
    · subst hh; exact State.assertUnit_lane src (fun _ => rfl) rfl
    · subst hn; exact State.assertUnit_lane src (fun _ => rfl) rfl

end Sys2Proof
end

section
/-! Host commands: one that is taken or waits in its queue, and its completion posted or waiting for room (R57, R58, R61, R64). -/

namespace Sys2Proof.Machine

/-! ### A command taken -/

section
variable {s : State} {h : Hdr} {i : Instr} {f : State → State} (hrow : exec i s = .next (s.host h i f))
include hrow

/-- The row of a host command that can be at Front runs its work in the state with the command's context. -/
theorem exec_taken (p : s.takes h i = true) : exec i s = .next (f (s.taken h i)) := by rw [hrow, host_eq f p]

/-- The row of a host command that cannot be at Front changes nothing. -/
theorem exec_waits (p : s.takes h i = false) : exec i s = .next s := by rw [hrow, host_waits f p]

end

theorem Front.ctx?_congr {f g : Front} (e : f.ctxs = g.ctxs) (h : Hdr) : f.ctx? h = g.ctx? h := by unfold Front.ctx?; rw [e]

/-- A change of a command's context is what is then found under its header. -/
theorem Front.ctx?_setCtx (f : Front) (h : Hdr) {g : Ctx → Ctx} (hg : ∀ c, (g c).hdr = c.hdr) :
    (f.setCtx h g).ctx? h = (f.ctx? h).map g := by
  unfold Front.ctx? Front.setCtx
  dsimp only
  induction f.ctxs with
  | nil => rfl
  | cons c l ih =>
    cases hc : c.hdr == h
    · simp only [List.map_cons, List.find?_cons, hc, Bool.false_eq_true, if_false, ih]
    · simp only [List.map_cons, List.find?_cons, hc, if_true, hg, Option.map_some]

/-- A command taken in has a context, which holds it and runs. -/
theorem State.takeIn_ctx? (s : State) (h : Hdr) (i : Instr) :
    ∃ c : Ctx, (s.takeIn h i).front.ctx? h = some c ∧ c.cmd = some i ∧ c.started = true := by
  unfold State.takeIn
  cases hc : s.front.ctx? h with
  | some x =>
    have hset := s.front.ctx?_setCtx h (g := fun c => { c with cmd := some i, started := true }) fun _ => rfl
    exact ⟨{ x with cmd := some i, started := true }, by rw [hc] at hset; exact hset, rfl, rfl⟩
  | none =>
    refine ⟨{ hdr := h, cmd := some i, started := true }, ?_, rfl, rfl⟩
    unfold Front.ctx? at hc ⊢
    rw [List.find?_append, hc]
    simp

/-- Taking a command in changes Front alone, and no queue of it. -/
theorem State.takeIn_frame (s : State) (h : Hdr) (i : Instr) :
    { s.takeIn h i with front := s.front } = s ∧ (s.takeIn h i).front.sqs = s.front.sqs ∧ (s.takeIn h i).front.cqs = s.front.cqs := by
  unfold State.takeIn
  cases s.front.ctx? h <;> exact ⟨rfl, rfl, rfl⟩

/-! ### A completion posted or waiting (R58) -/

/-- The completion of a command with a status, DW0 and data. -/
def NStat.completion (st : NStat) (h : Hdr) (dw0 : Nat) (data : Payload) : Completion :=
  { hdr := h, sct := st.sct, sc := st.sc, dnr := st.dnr, dw0, data }

/-- Front's completions only grow at their ends, and no context is new. -/
structure Front.Grows (f g : Front) : Prop where
  posted : f.posted <+: g.posted
  waiting : f.cqWait <+: g.cqWait
  ctxs : g.ctxs ⊆ f.ctxs

theorem Front.Grows.refl (f : Front) : f.Grows f := ⟨List.prefix_rfl, List.prefix_rfl, List.Subset.refl _⟩

theorem Front.Grows.trans {f g k : Front} (a : f.Grows g) (b : g.Grows k) : f.Grows k :=
  ⟨a.posted.trans b.posted, a.waiting.trans b.waiting, List.Subset.trans b.ctxs a.ctxs⟩

theorem Front.Grows.mem {f g : Front} (a : f.Grows g) {c : Completion} (hc : c ∈ f.posted ++ f.cqWait) : c ∈ g.posted ++ g.cqWait := by
  rw [List.mem_append] at hc ⊢
  exact hc.imp (fun h => a.posted.subset h) fun h => a.waiting.subset h

theorem Front.Grows.ctx?_none {f g : Front} (a : f.Grows g) {h : Hdr} (hf : f.ctx? h = none) : g.ctx? h = none := by
  unfold Front.ctx? at hf ⊢
  rw [List.find?_eq_none] at hf ⊢
  exact fun c hc => hf c (a.ctxs hc)

section
variable {f : Front} {c : Completion} {sq : SubQueue} {q : ComQueue}
  (hsq : Store.find f.sqs c.hdr.sqid.val = some sq) (hcq : Store.find f.cqs sq.cq = some q)
include hsq hcq

theorem Front.post_room (hr : q.room = true) : (f.post c).posted = f.posted ++ [c] ∧ (f.post c).cqWait = f.cqWait := by
  simp only [Front.post, hsq, hcq, hr, if_true]
  exact ⟨(Front.signal_keeps _ _ _).1, (Front.signal_keeps _ _ _).2.1⟩

theorem Front.post_full (hr : q.room = false) : (f.post c).posted = f.posted ∧ (f.post c).cqWait = f.cqWait ++ [c] := by
  simp [Front.post, hsq, hcq, hr]

/-- A completion whose queues exist is posted or waits. -/
theorem Front.mem_post : c ∈ (f.post c).posted ++ (f.post c).cqWait := by
  cases hr : q.room
  · rw [(Front.post_full hsq hcq hr).1, (Front.post_full hsq hcq hr).2]; simp
  · rw [(Front.post_room hsq hcq hr).1]; simp

end

theorem Front.post_grows (f : Front) (c : Completion) : f.Grows (f.post c) := by
  have hctxs : (f.post c).ctxs ⊆ f.ctxs := by rw [(Front.post_keeps f c).1]; exact List.Subset.refl _
  cases hsq : Store.find f.sqs c.hdr.sqid.val with
  | none => simp only [Front.post, hsq]; exact .refl f
  | some sq =>
    cases hcq : Store.find f.cqs sq.cq with
    | none => simp only [Front.post, hsq, hcq]; exact .refl f
    | some q =>
      cases hr : q.room
      · obtain ⟨hp, hw⟩ := Front.post_full hsq hcq hr
        exact ⟨by rw [hp], by rw [hw]; exact List.prefix_append _ _, hctxs⟩
      · obtain ⟨hp, hw⟩ := Front.post_room hsq hcq hr
        exact ⟨by rw [hp]; exact List.prefix_append _ _, by rw [hw], hctxs⟩

/-- Front as a completion finds it: the command's context dropped, and the failure logged. -/
def Front.closing (f : Front) (c : Completion) (x : Ctx) : Front := (f.dropCtx c.hdr).logError c (x.failLba.getD 0) x.nsid

theorem Front.closing_keeps (f : Front) (c : Completion) (x : Ctx) :
    (f.closing c x).ctxs = f.ctxs.filter (fun y => y.hdr != c.hdr) ∧ (f.closing c x).aborts = f.aborts ∧ (f.closing c x).posted = f.posted ∧
      (f.closing c x).cqWait = f.cqWait ∧ (f.closing c x).sqs = f.sqs ∧ (f.closing c x).cqs = f.cqs := Front.logError_keeps _ _ _ _

theorem Front.finishOne_some {f : Front} {c : Completion} {x : Ctx} (hx : f.ctx? c.hdr = some x) :
    f.finishOne c = ((f.closing c x).post c).ltrTick := by simp only [Front.finishOne, hx, Front.closing]

theorem Front.ltrTick_grows (f : Front) : f.Grows f.ltrTick :=
  ⟨by rw [Front.ltrTick_posted], by rw [Front.ltrTick_cqWait], by rw [Front.ltrTick_ctxs]; exact List.Subset.refl _⟩

theorem Front.closing_grows (f : Front) (c : Completion) (x : Ctx) : f.Grows (f.closing c x) := by
  obtain ⟨hctxs, -, hp, hw, -⟩ := f.closing_keeps c x
  exact ⟨by rw [hp], by rw [hw], by rw [hctxs]; exact List.filter_subset_self _⟩

theorem Front.finishOne_grows (f : Front) (c : Completion) : f.Grows (f.finishOne c) := by
  cases hx : f.ctx? c.hdr with
  | none => simp only [Front.finishOne, hx]; exact .refl f
  | some x =>
    rw [Front.finishOne_some hx]
    exact ((f.closing_grows c x).trans (Front.post_grows _ _)).trans (Front.ltrTick_grows _)

/-- The Aborts that waited for a command end after it. -/
theorem Front.finish_grows (f : Front) (c : Completion) : (f.finishOne c).Grows (f.finish c) := by
  have hfold (l : List (Hdr × Hdr)) (g : Front) : g.Grows (l.foldl (fun g a => g.finishOne { hdr := a.1 }) g) := by
    induction l generalizing g with
    | nil => exact .refl g
    | cons a l ih => exact (g.finishOne_grows _).trans (ih _)
  have haborts (g : Front) (l : List (Hdr × Hdr)) : g.Grows { g with aborts := l } :=
    ⟨List.prefix_rfl, List.prefix_rfl, List.Subset.refl _⟩
  exact (haborts _ _).trans (hfold _ _)

section
variable {f : Front} {c : Completion} {x : Ctx} (hx : f.ctx? c.hdr = some x)
include hx

/-- A completed command has no context any more. -/
theorem Front.finish_ctx? : (f.finish c).ctx? c.hdr = none := by
  apply (f.finish_grows c).ctx?_none
  rw [Front.finishOne_some hx]
  apply ((Front.post_grows _ c).trans (Front.ltrTick_grows _)).ctx?_none
  unfold Front.ctx?
  rw [(f.closing_keeps c x).1, List.find?_eq_none]
  intro y hy
  simpa using (List.mem_filter.1 hy).2

/-- With no Abort outstanding the completion is all that is posted. -/
theorem Front.finish_alone (ha : f.aborts = []) :
    (f.finish c).posted = ((f.closing c x).post c).posted ∧ (f.finish c).cqWait = ((f.closing c x).post c).cqWait := by
  have hnone : (f.finishOne c).aborts = [] := by
    rw [Front.finishOne_some hx, Front.ltrTick_aborts, (Front.post_keeps _ _).2, (f.closing_keeps c x).2.1, ha]
  have hfin : f.finish c = { f.finishOne c with aborts := [] } := by simp [Front.finish, hnone]
  rw [hfin, Front.finishOne_some hx]
  exact ⟨Front.ltrTick_posted _, Front.ltrTick_cqWait _⟩

variable {sq : SubQueue} {q : ComQueue} (hsq : Store.find f.sqs c.hdr.sqid.val = some sq) (hcq : Store.find f.cqs sq.cq = some q)
include hsq hcq

theorem Front.mem_finish : c ∈ (f.finish c).posted ++ (f.finish c).cqWait := by
  obtain ⟨-, -, -, -, hs, hc⟩ := f.closing_keeps c x
  have hpost : c ∈ ((f.closing c x).post c).posted ++ ((f.closing c x).post c).cqWait :=
    Front.mem_post (by rw [hs, hsq]) (by rw [hc, hcq])
  apply (f.finish_grows c).mem
  rw [Front.finishOne_some hx]
  exact (Front.ltrTick_grows _).mem hpost

variable (ha : f.aborts = [])
include ha

theorem Front.finish_room (hr : q.room = true) : (f.finish c).posted = f.posted ++ [c] := by
  obtain ⟨-, -, hp, -, hs, hc⟩ := f.closing_keeps c x
  rw [(Front.finish_alone hx ha).1, (Front.post_room (by rw [hs, hsq]) (by rw [hc, hcq]) hr).1, hp]

theorem Front.finish_full (hr : q.room = false) : (f.finish c).posted = f.posted ∧ (f.finish c).cqWait = f.cqWait ++ [c] := by
  obtain ⟨-, -, hp, hw, hs, hc⟩ := f.closing_keeps c x
  obtain ⟨hposted, hwait⟩ := Front.post_full (f := f.closing c x) (c := c) (by rw [hs, hsq]) (by rw [hc, hcq]) hr
  rw [(Front.finish_alone hx ha).1, (Front.finish_alone hx ha).2, hposted, hwait, hp, hw]
  exact ⟨rfl, rfl⟩

end

/-- A command with a context and queues has its completion posted or waiting. -/
theorem State.completed_done {s : State} {h : Hdr} {x : Ctx} {sq : SubQueue} {q : ComQueue} (hx : s.front.ctx? h = some x)
    (hsq : Store.find s.front.sqs h.sqid.val = some sq) (hcq : Store.find s.front.cqs sq.cq = some q) (st : NStat) (dw0 : Nat) (data : Payload) :
    (s.done h st dw0 data).completed h st = true := by
  have hmem := Front.mem_finish (c := st.completion h dw0 data) hx hsq hcq
  exact List.any_eq_true.2 ⟨_, hmem, by simp [NStat.completion]⟩

end Sys2Proof.Machine

namespace Sys2Proof
open Machine

/-- Settles O18: a command taken is its context and an LTR message; a completion drops the context, and what follows it only appends. -/
theorem hostCommands : Obligations.HostCommands := by
  refine ⟨fun s h i _ => ?_, fun s h nsid a n lid numd lpo ab => ?_, fun s h st dw0 data x sq cq hx hsq hcq => ?_⟩
  · obtain ⟨c, hc, hcmd, hrun⟩ := s.takeIn_ctx? h i
    obtain ⟨hframe, hsqs, hcqs⟩ := s.takeIn_frame h i
    have hctx : (s.taken h i).front.ctx? h = some c := (Front.ctx?_congr (Front.ltrTick_ctxs _) h).trans hc
    exact ⟨⟨c, hctx, hcmd, hrun⟩, hframe, (Front.ltrTick_sqs _).trans hsqs, (Front.ltrTick_cqs _).trans hcqs⟩
  · exact ⟨exec_waits rfl, exec_waits rfl, exec_waits rfl, exec_waits rfl⟩
  · intro t
    exact ⟨State.completed_done hx hsq hcq st dw0 data, Front.finish_ctx? (c := st.completion h dw0 data) hx, rfl,
      Front.finish_room (c := st.completion h dw0 data) hx hsq hcq, Front.finish_full (c := st.completion h dw0 data) hx hsq hcq⟩

end Sys2Proof
end

section
/-! Features, Identify and Get Log Page: each command's work is that of the state it is taken in (R65, R69, R70, R77). -/

namespace Sys2Proof.Machine

/-- Get Features knows the identifiers of R69 and no other. -/
theorem State.featureValue_unlisted (s : State) {fid : Nat} (h : fid ∉ featureIds) (cdw11 : Word) : s.featureValue fid cdw11 = none := by
  simp only [featureIds, List.mem_cons, List.not_mem_nil, or_false, not_or] at h
  unfold State.featureValue
  split <;> simp_all

section
variable {s : State} {h : Hdr}

theorem exec_setFeaturesInterruptVector {iv : BitVec 16} {cd : Bool} (p : s.takes h (.setFeaturesInterruptVector h iv cd) = true) :
    let t : State := s.taken h (.setFeaturesInterruptVector h iv cd)
    (iv.toNat ≤ 128 → exec (.setFeaturesInterruptVector h iv cd) s = .next (t.feature h fun f =>
      { f with coalOff := (f.coalOff.filter fun v => v != iv.toNat) ++ (if cd then [iv.toNat] else []) })) ∧
    (128 < iv.toNat → exec (.setFeaturesInterruptVector h iv cd) s = .next (t.done h .invalidField)) := by
  refine ⟨fun hle => ?_, fun hgt => ?_⟩
  · rw [exec_taken rfl p, if_neg (by omega)]
    cases cd <;> simp
  · rw [exec_taken rfl p, if_pos hgt]

section
variable {ps : BitVec 5} (p : s.takes h (.setFeaturesPowerManagement h ps) = true)
include p

theorem exec_setFeaturesPowerManagement_operational (hle : ps.toNat ≤ 2) :
    let t : State := s.taken h (.setFeaturesPowerManagement h ps)
    let q : Fin 5 := Fin.ofNat 5 ps.toNat
    exec (.setFeaturesPowerManagement h ps) s = .next (State.good { t with sys := { t.sys with ps := q, lastOp := q, psWant := none } } h) := by
  intro t q
  rw [exec_taken rfl p, if_neg (by omega), if_pos hle]

/-- PS3 and PS4 are asked for, and entered later. -/
theorem exec_setFeaturesPowerManagement_asked (hge : 3 ≤ ps.toNat) (hle : ps.toNat ≤ 4) : exec (.setFeaturesPowerManagement h ps) s =
    .next (State.good ((s.taken h (.setFeaturesPowerManagement h ps)).wantPs (Fin.ofNat 5 ps.toNat)) h) := by
  rw [exec_taken rfl p, if_neg (by omega), if_neg (by omega)]

theorem exec_setFeaturesPowerManagement_invalid (hgt : 4 < ps.toNat) : exec (.setFeaturesPowerManagement h ps) s =
    .next ((s.taken h (.setFeaturesPowerManagement h ps)).done h .invalidField) := by
  rw [exec_taken rfl p, if_pos hgt]

end

/-- A grant is refused below HMMIN, and MAP_HMB tells what of it is used. -/
theorem exec_setFeaturesHostMemoryBuffer {descs : List (Nat × Nat)} (p : s.takes h (.setFeaturesHostMemoryBuffer h true descs) = true) :
    let t : State := s.taken h (.setFeaturesHostMemoryBuffer h true descs)
    let mib : Nat := sumNat ((usableHmb descs).map (·.2))
    (64 ≤ mib → exec (.setFeaturesHostMemoryBuffer h true descs) s = .next (State.good (State.setReg { t with
      front := { t.front with hmbBytes := [], hmbDescs := usableHmb descs }, map := { t.map with inHmb := [] } } .mapHmb
        (BitVec.ofNat 32 (mib + 65536))) h)) ∧
    (mib < 64 → exec (.setFeaturesHostMemoryBuffer h true descs) s = .next (t.done h .invalidField)) := by
  refine ⟨fun hge => ?_, fun hlt => ?_⟩
  · rw [exec_taken rfl p, if_neg fun hc => absurd hge (by omega)]; rfl
  · rw [exec_taken rfl p, if_pos ⟨rfl, hlt⟩]

theorem exec_getFeatures {fid : Byte} {cdw11 : Word} (p : s.takes h (.getFeatures h ⟨fid, cdw11⟩) = true) :
    let t : State := s.taken h (.getFeatures h ⟨fid, cdw11⟩)
    (∀ v : Nat, t.featureValue fid.toNat cdw11 = some v →
      (fid.toNat = 0x0C → exec (.getFeatures h ⟨fid, cdw11⟩) s = .next (t.done h .success v
        (.fields [("ps3_ms", t.settings.hostApstPs3), ("ps4_ms", t.settings.hostApstPs4)]))) ∧
      (fid.toNat = 0x0D → exec (.getFeatures h ⟨fid, cdw11⟩) s = .next (t.done h .success v (.fields [("hmb_mib", t.rf .mapHmb 0 11)]))) ∧
      (fid.toNat ≠ 0x0C → fid.toNat ≠ 0x0D → exec (.getFeatures h ⟨fid, cdw11⟩) s = .next (t.done h .success v))) ∧
    (t.featureValue fid.toNat cdw11 = none → exec (.getFeatures h ⟨fid, cdw11⟩) s = .next (t.done h .invalidField)) := by
  refine ⟨fun v hv => ⟨fun hf => ?_, fun hf => ?_, fun hc hd => ?_⟩, fun hv => ?_⟩
  all_goals rw [exec_taken rfl p]; simp only [hv]
  · simp only [hf]
  · simp only [hf]

theorem exec_identify {cns : Byte} {nsid : Word} (p : s.takes h (.identify h cns nsid) = true) :
    let t : State := s.taken h (.identify h cns nsid)
    (∀ (st : NStat) (d : Payload), t.identify cns.toNat nsid = some (st, d) → exec (.identify h cns nsid) s = .next (t.done h st 0 d)) ∧
    (t.identify cns.toNat nsid = none → exec (.identify h cns nsid) s = .next (t.done h .invalidField)) := by
  refine ⟨fun st d hi => ?_, fun hi => ?_⟩ <;> rw [exec_taken rfl p] <;> simp only [hi]

theorem exec_getLogPage {lid : Byte} {numd : BitVec 32} {lpo : BitVec 64} {rae : Bool} (p : s.takes h (.getLogPage h lid numd lpo rae) = true) :
    let t : State := s.taken h (.getLogPage h lid numd lpo rae)
    (∀ page : List Nat, t.logPage lid.toNat = some page → lpo.toNat % 4 = 0 → lpo.toNat ≤ page.length →
      exec (.getLogPage h lid numd lpo rae) s = .next ((t.pageRead lid.toNat rae).done h .success 0
        (.bytes ((page.drop lpo.toNat).take (4 * (numd.toNat + 1)))))) ∧
    (∀ page : List Nat, t.logPage lid.toNat = some page → (lpo.toNat % 4 ≠ 0 ∨ page.length < lpo.toNat) →
      exec (.getLogPage h lid numd lpo rae) s = .next (t.done h .invalidField)) ∧
    (t.logPage lid.toNat = none → exec (.getLogPage h lid numd lpo rae) s = .next (t.done h .logPage)) := by
  refine ⟨fun page hp hw hin => ?_, fun page hp hbad => ?_, fun hp => ?_⟩
  all_goals rw [exec_taken rfl p]; simp only [hp]
  · rw [if_neg (by omega)]
  · rw [if_pos hbad]

end

end Sys2Proof.Machine

namespace Sys2Proof
open Machine

/-- Settles O21: each command's row runs its work in the state it is taken in; what the work looks up decides between its ends. -/
theorem featureCommands : Obligations.FeatureCommands := by
  refine ⟨fun s h => ?_, fun s h => ?_, fun s h => ⟨fun cns nsid p => exec_identify p, fun lid numd lpo rae p => exec_getLogPage p⟩⟩
  · refine ⟨fun ab p => exec_taken rfl p, fun tler p => exec_taken rfl p, fun thr time p => exec_taken rfl p, fun dn p => exec_taken rfl p,
      fun mask p => exec_taken rfl p, fun a b p => exec_taken rfl p, fun iv cd p => exec_setFeaturesInterruptVector p,
      fun sensor under k p => ⟨fun hin => ?_, fun hge hne => ?_⟩, fun _ _ => rfl⟩
    · rw [exec_taken rfl p, if_neg (by omega)]; rfl
    · rw [exec_taken rfl p, if_pos ⟨by omega, hne⟩]
  · refine ⟨fun ps p => exec_setFeaturesPowerManagement_operational p, fun ps p => exec_setFeaturesPowerManagement_asked p,
      fun ps p => exec_setFeaturesPowerManagement_invalid p, fun wce save p => exec_taken rfl p, fun a b p => exec_taken rfl p,
      fun en save a b p => ⟨fun ha ha' hb hb' => ?_, fun hbad => ?_⟩, fun descs p => exec_setFeaturesHostMemoryBuffer p,
      fun descs p => exec_taken rfl p, fun fid cdw11 p => ?_⟩
    · rw [exec_taken rfl p, if_neg (by omega)]
    · rw [exec_taken rfl p, if_pos hbad]
    · intro t
      obtain ⟨hval, hnone⟩ := exec_getFeatures p
      exact ⟨hval, hnone, rfl, rfl, rfl, rfl, rfl, rfl, rfl, rfl, rfl, rfl, rfl, fun hf => t.featureValue_unlisted hf cdw11⟩

end Sys2Proof
end

section
/-! I/O commands: the checks before them, and their rows (R23, R27, R28, R65, R68, R86, R304, R307, R347). -/

namespace Sys2Proof.Machine

/-! ### The checks (R68, R347, R526) -/

section
variable {s : State} {nsid : Word}

theorem State.ioStop_absent (h : s.nsOf nsid = none) : s.ioStop nsid = some .invalidNs := by simp only [State.ioStop, h]

theorem State.ioStop_detached {i : Fin 8} {r : NsRec} (h : s.nsOf nsid = some (i, r)) (ha : r.attached = false) :
    s.ioStop nsid = some .invalidNs := by simp [State.ioStop, h, ha]

theorem State.ioStop_locked {i : Fin 8} {r : NsRec} (h : s.nsOf nsid = some (i, r)) (ha : r.attached = true) (hl : s.locked = true) :
    s.ioStop nsid = some .denied := by simp [State.ioStop, h, ha, hl]

variable {a n : Nat} {limit writes : Bool}

theorem State.ioCheck_stopped {st : NStat} (h : s.ioStop nsid = some st) : s.ioCheck nsid a n limit writes = .error st := by
  simp only [State.ioCheck, h]

/-- With nothing to stop a command and a transfer within the limit, the range and then the health decide. -/
theorem State.ioCheck_free {i : Fin 8} {r : NsRec} (h : s.nsOf nsid = some (i, r)) (hstop : s.ioStop nsid = none)
    (hlen : n * r.lbaBytes ≤ 2097152) :
    s.ioCheck nsid a n limit writes =
      if a + n > r.lbas then .error .lbaRange else if writes ∧ s.readOnly then .error .writeProtected else .ok (i, r) := by
  simp only [State.ioCheck, h, hstop]
  exact if_neg fun hc => absurd hlen (by omega)

end

theorem State.stopIo_quiet {s : State} {st : NStat} (h : st ≠ .writeProtected ∨ s.trb 27 = true) (x : Hdr) : s.stopIo x st = s.done x st := by
  have hc : (decide (st = .writeProtected) && !s.trb 27) = false := by
    rcases h with h | h <;> simp [h]
  simp only [State.stopIo, hc, State.raiseIf, Bool.false_eq_true, if_false]

theorem State.stopIo_readOnly {s : State} (h : s.trb 27 = false) (x : Hdr) :
    s.stopIo x .writeProtected = (s.raise 27).done x .writeProtected := by
  simp [State.stopIo, h, State.raiseIf]

/-! ### Parts of other devices -/

/-- A range that lies here has no part elsewhere. -/
theorem State.splitRuns_here {s : State} {rs : List (Nat × Nat × Nat)} (hin : ∀ x ∈ rs, x.1 = s.index) (h : Hdr) (op : Byte) :
    s.splitRuns h op rs = s := by
  have hnone : rs.filter (fun x => x.1 != s.index) = [] := List.filter_eq_nil_iff.2 fun x hx => by simp [hin x hx]
  rw [State.splitRuns, hnone, List.foldl_nil]

/-- The master of a chain of one device has no other device. -/
theorem State.others_alone {s : State} (hn : s.chainN = 1) (h0 : s.index = 0) :
    (List.range s.chainN).filter (fun k => k != s.index) = [] := by rw [hn, h0]; rfl

/-! ### The rows -/

section
variable {s : State} {h : Hdr} {nsid : Word}

theorem exec_flush (p : s.takes h (.flush h nsid) = true) :
    let t : State := s.taken h (.flush h nsid)
    (∀ st : NStat, t.flushStop nsid = some st → exec (.flush h nsid) s = .next (t.done h st)) ∧
    (t.flushStop nsid = none → t.chainAbsent = true → exec (.flush h nsid) s = .next (t.done h .internalDnr)) ∧
    (t.flushStop nsid = none → t.chainAbsent = false → exec (.flush h nsid) s = .next (State.flushHere
      (((List.range t.chainN).filter fun k => k != t.index).foldl (fun (u : State) (k : Nat) => u.newPart h 0x00 k 0 0 []) t) h)) := by
  refine ⟨fun st hst => ?_, fun hst habs => ?_, fun hst habs => ?_⟩ <;> rw [exec_taken rfl p] <;> simp only [hst]
  · rw [habs, if_pos rfl]
  · rw [habs, if_neg Bool.false_ne_true]

/-- A row whose check gives a namespace or a status that stops the command. -/
theorem exec_checked {i : Instr} {check : State → Except NStat (Fin 8 × NsRec)} {run : State → Fin 8 → NsRec → State}
    (hrow : exec i s = .next (s.host h i fun t => match check t with | .error st => t.stopIo h st | .ok (n, r) => run t n r))
    (p : s.takes h i = true) :
    (∀ (n : Fin 8) (r : NsRec), check (s.taken h i) = .ok (n, r) → exec i s = .next (run (s.taken h i) n r)) ∧
    (∀ st : NStat, check (s.taken h i) = .error st → exec i s = .next ((s.taken h i).stopIo h st)) := by
  refine ⟨fun n r hok => ?_, fun st herr => ?_⟩ <;> rw [exec_taken hrow p]
  · simp only [hok]
  · simp only [herr]

theorem exec_datasetManagement {ad : Bool} {ranges : List (Nat × Nat)} (p : s.takes h (.datasetManagement h nsid ad ranges) = true) :
    let t : State := s.taken h (.datasetManagement h nsid ad ranges)
    (∀ (i : Fin 8) (r : NsRec), t.rangeCheck nsid ranges = .ok (i, r) → exec (.datasetManagement h nsid ad ranges) s =
      .next (if ad then ((t.splitRanges h 0x09 r ranges).zeroHere h i r ranges).ioTry h else t.good h)) ∧
    (∀ st : NStat, t.rangeCheck nsid ranges = .error st → exec (.datasetManagement h nsid ad ranges) s = .next (t.stopIo h st)) := by
  obtain ⟨hrun, hstop⟩ := exec_checked rfl p
  refine ⟨fun i r hok => ?_, hstop⟩
  rw [hrun i r hok]
  cases ad <;> rfl

theorem exec_secureDeallocate {ranges : List (Nat × Nat)} (p : s.takes h (.secureDeallocate h nsid ranges) = true) :
    let t : State := s.taken h (.secureDeallocate h nsid ranges)
    (∀ (i : Fin 8) (r : NsRec), t.rangeCheck nsid ranges = .ok (i, r) →
      (sumNat (ranges.map (·.2)) * r.lbaBytes ≤ 2 ^ 30 → exec (.secureDeallocate h nsid ranges) s =
        .next (((t.splitRanges h 0xC9 r ranges).secureHere h i r ranges).ioTry h)) ∧
      (2 ^ 30 < sumNat (ranges.map (·.2)) * r.lbaBytes → exec (.secureDeallocate h nsid ranges) s = .next (t.done h .invalidField))) ∧
    (∀ st : NStat, t.rangeCheck nsid ranges = .error st → exec (.secureDeallocate h nsid ranges) s = .next (t.stopIo h st)) := by
  obtain ⟨hrun, hstop⟩ := exec_checked rfl p
  refine ⟨fun i r hok => ⟨fun hle => ?_, fun hgt => ?_⟩, hstop⟩ <;> rw [hrun i r hok]
  · exact congrArg _ (if_neg (Nat.not_lt.2 hle))
  · exact congrArg _ (if_pos hgt)

end

/-- The first sector of the read-ahead distance, where it lies here and wants its read, is the one read. -/
theorem exec_speculativeRead_here {s : State} {nsid : Word} {i : Fin 8} {r : NsRec} {x : ReadAhead} {d : Nat} (hns : s.nsOf nsid = some (i, r))
    (hra : (s.front.ra.find? fun x => x.ns == i) = some x)
    (hon : (s.isMaster && s.mapUp && !s.locked && decide (x.run ≥ 3) && s.poolRoom) = true)
    (hn : 0 < min (s.settings.hostReadahead / 4096) (r.sectors - (r.span 0 x.next).2)) (hown : s.ownerOf (r.span 0 x.next).2 = s.index)
    (hd : s.dsec r (r.span 0 x.next).2 = some d) (hw : s.specWants i x d = true) :
    exec (.speculativeRead nsid) s = .next (s.specOne i d) := by
  change execSpeculativeRead nsid s = _
  obtain ⟨m, hm⟩ := Nat.exists_eq_succ_of_ne_zero hn.ne'
  simp only [execSpeculativeRead, hns, hra, hon, hm, if_true, List.range_succ_eq_map, List.map_cons, Nat.zero_add, List.find?_cons, hown, hd, hw]

end Sys2Proof.Machine

namespace Sys2Proof
open Machine

/-- Settles O23: a row's check gives a namespace or a status, and each of the two has its own end. -/
theorem ioCommands : Obligations.IoCommands := by
  refine ⟨fun s h nsid a n => ?_, fun t h st op rs => ?_, fun s nsid a n limit writes => ?_, fun s h nsid => ?_⟩
  · exact ⟨fun p => exec_checked rfl p, fun p => exec_checked rfl p, fun data fua p => exec_checked rfl p, fun p => exec_checked rfl p⟩
  · exact ⟨fun hst => State.stopIo_quiet (.inl hst) h, fun hb => State.stopIo_quiet (.inr hb) h, fun hb => State.stopIo_readOnly hb h,
      fun hin => State.splitRuns_here hin h op⟩
  · refine ⟨fun hns => State.ioCheck_stopped (State.ioStop_absent hns), fun i r hns => ⟨fun ha =>
      State.ioCheck_stopped (State.ioStop_detached hns ha), fun ha hl => State.ioCheck_stopped (State.ioStop_locked hns ha hl),
      fun hs hlen hout => ?_, fun hs hlen hin hro => ?_, fun hs hlen hin hrw => ?_⟩⟩
    · rw [State.ioCheck_free hns hs hlen, if_pos hout]
    · rw [State.ioCheck_free hns hs hlen, if_neg (Nat.not_lt.2 hin), if_pos ⟨rfl, hro⟩]
    · rw [State.ioCheck_free hns hs hlen, if_neg (Nat.not_lt.2 hin), if_neg fun hc => by simp [hrw] at hc]
  · refine ⟨fun p => ?_, fun ad ranges p => exec_datasetManagement p, fun ranges p => exec_secureDeallocate p,
      fun i r x d hns hra hm hup hl hrun hroom => exec_speculativeRead_here hns hra (by simp [hm, hup, hl, hrun, hroom])⟩
    intro t
    obtain ⟨hstop, habs, hrun⟩ := exec_flush p
    refine ⟨hstop, habs, hrun, fun hs hn ha h0 => ?_⟩
    rw [hrun hs ha, State.others_alone hn h0, List.foldl_nil]

end Sys2Proof
end

section
/-! Power states and the timers of Front (R69, R83 to R85, R89, R136, R553, R556). -/

namespace Sys2Proof.Machine

/-! ### The exit from PS4 (R85, R556) -/

theorem State.markRetrain_sys (s : State) (g : Fin 8) : (s.markRetrain g).sys = s.sys := by unfold State.markRetrain; dsimp only; split <;> rfl

theorem State.limitRate_sys (s : State) (g : Fin 8) : (s.limitRate g).sys = s.sys := by unfold State.limitRate; split <;> rfl

theorem State.galOn_sys (s : State) (g : Fin 8) : (s.galOn g).sys = s.sys := by
  unfold State.galOn
  repeat' split
  · rfl
  · simp only [State.gal_sys, State.markRetrain_sys, State.limitRate_sys, State.driveWp_sys]
  all_goals simp only [State.gal_sys, State.limitRate_sys, State.driveWp_sys]

theorem State.galsOn_sys (s : State) : s.galsOn.sys = s.sys := foldl_keeps State.sys (fins 8) State.galOn State.galOn_sys s

theorem State.startPorts_sys (s : State) : s.startPorts.sys = s.sys := by unfold State.startPorts; split <;> rfl

/-- Saving the temperature history changes what is noted of that history, no power state. -/
theorem State.saveHist_sys (s : State) : s.saveHist.sys = { s.sys with histSaved := s.sys.hist, histDue := false } := by
  unfold State.saveHist; dsimp only; split <;> rfl

theorem exec_ps4Exit_wakes {s : State} (hps : s.sys.ps = 4) (hw : s.sys.waking = true) (hr : s.inReset = false) :
    ∃ t : State, exec .ps4Exit s = .next t ∧ t.sys.ps = s.sys.lastOp ∧ t.sys.waking = false ∧ t.sys.psWant = none := by
  refine ⟨_, congrArg Host.Outcome.next (if_pos ⟨hps, hw, hr⟩), ?_⟩
  simp only [State.galsOn_sys, State.saveHist_sys]
  split
  · simp only [State.startPorts_sys]; exact ⟨rfl, rfl, rfl⟩
  · exact ⟨rfl, rfl, rfl⟩

/-! ### Entry to PS3 and PS4 (R84, R136, R406) -/

/-- The conditions of an entry: the state asked for, from a higher one, with nothing outstanding. -/
def State.mayEnter (s : State) (p : Fin 5) (top : Nat) : Bool :=
  !s.inReset && s.sys.psWant == some p && decide (s.sys.ps.val ≤ top) && s.quiet

/-- The standby orders have gone out and nobody is waited for. -/
def State.standbyDone (s : State) (p : Nat) : Bool := !(s.standby p).isMaster || (s.standby p).standbyAll

theorem exec_ps3Entry (s : State) : exec .ps3Entry s = .next (if s.mayEnter 3 2 then
    (if s.standbyDone 3 then ((s.standby 3).finishJob (fun j => j == .sleep) fun _ => ([], ok [])).enterPs3 else s.standby 3) else s) := rfl

theorem exec_ps4Entry (s : State) : exec .ps4Entry s = .next (if s.mayEnter 4 3 && !s.bst.busy then
    (if s.standbyDone 4 then ((s.standby 4).finishJob (fun j => j == .sleep) fun _ => ([], ok [])).enterPs4 else s.standby 4) else s) := rfl

theorem State.mayEnter_iff (s : State) (p : Fin 5) (top : Nat) :
    s.mayEnter p top = true ↔ s.inReset = false ∧ s.sys.psWant = some p ∧ s.sys.ps.val ≤ top ∧ s.quiet = true := by
  simp [State.mayEnter, and_assoc]

theorem State.standbyDone_iff (s : State) (p : Nat) :
    s.standbyDone p = true ↔ (s.standby p).isMaster = false ∨ (s.standby p).standbyAll = true := by simp [State.standbyDone]

/-- A condition of the entry that does not hold keeps the state. -/
theorem State.not_mayEnter {s : State} {p : Fin 5} {top : Nat}
    (h : s.inReset = true ∨ s.sys.psWant ≠ some p ∨ top < s.sys.ps.val ∨ s.quiet = false) : ¬s.mayEnter p top = true := by
  rw [State.mayEnter_iff]
  rintro ⟨hr, hw, hp, hq⟩
  rcases h with h | h | h | h
  · simp [hr] at h
  · exact h hw
  · omega
  · simp [hq] at h

theorem State.not_standbyDone (s : State) {p : Nat} (hm : (s.standby p).isMaster = true) (hall : (s.standby p).standbyAll = false) :
    ¬s.standbyDone p = true := by simp [State.standbyDone, hm, hall]

section
variable {s : State}

theorem exec_ps3Entry_quiet (h : s.mayEnter 3 2 = true) :
    (((s.standby 3).isMaster = false ∨ (s.standby 3).standbyAll = true) →
      exec .ps3Entry s = .next ((s.standby 3).finishJob (fun j => j == .sleep) fun _ => ([], ok [])).enterPs3) ∧
    ((s.standby 3).isMaster = true → (s.standby 3).standbyAll = false → exec .ps3Entry s = .next (s.standby 3)) := by
  refine ⟨fun hdone => ?_, fun hm hall => ?_⟩ <;> rw [exec_ps3Entry, if_pos h]
  · rw [if_pos ((s.standbyDone_iff 3).2 hdone)]
  · rw [if_neg (s.not_standbyDone hm hall)]

theorem exec_ps4Entry_quiet (h : s.mayEnter 4 3 = true) (hb : s.bst.busy = false) :
    (((s.standby 4).isMaster = false ∨ (s.standby 4).standbyAll = true) →
      exec .ps4Entry s = .next ((s.standby 4).finishJob (fun j => j == .sleep) fun _ => ([], ok [])).enterPs4) ∧
    ((s.standby 4).isMaster = true → (s.standby 4).standbyAll = false → exec .ps4Entry s = .next (s.standby 4)) := by
  refine ⟨fun hdone => ?_, fun hm hall => ?_⟩ <;> rw [exec_ps4Entry, if_pos (by simp [h, hb])]
  · rw [if_pos ((s.standbyDone_iff 4).2 hdone)]
  · rw [if_neg (s.not_standbyDone hm hall)]

end

/-! ### The host's CLKREQ and L1.2 (R51, R85, R553, R560) -/

theorem exec_clkreqAsserted (s : State) : exec .clkreqAsserted s = .next (if !s.isMaster then s
    else if s.inReset then { s with sys := { s.sys with clkreqHost := true } }
    else if s.sys.ps = 4 then State.beginWake { s with sys := { s.sys with clkreqHost := true } }
    else if s.sys.lanes = .l12 then { s with sys := { s.sys with clkreqHost := true, lanes := .up, clkreqOut := true } }
    else { s with sys := { s.sys with clkreqHost := true } }) := rfl

theorem exec_l12Entry (s : State) : exec .l12Entry s = .next (if s.isMaster ∧ s.sys.ps = 3 ∧ s.sys.lanes = .up then
    State.rootFallback { s with sys := { s.sys with lanes := .l12, clkreqOut := false, clkreqHost := false } } else s) := rfl

/-! ### The idle timeout and the timeout of `sleep` (R69, R83, R136) -/

theorem exec_apstIdleTimeout (ps4 : Bool) (s : State) : exec (.apstIdleTimeout ps4) s = .next (if s.isMaster && !s.inReset &&
    s.settings.hostApst && !s.front.busy && decide (s.sys.ps.val < (if ps4 then 4 else 3)) then s.wantPs (if ps4 then 4 else 3) else s) := rfl

section
variable {s : State}

theorem exec_sleepTimeout_sleeping {x : Running} (hx : s.con.running = some x) (hj : x.job = .sleep) : exec .sleepTimeout s =
    .next ((State.cancelStandby { s with sys := { s.sys with psWant := none } }).finishJob (fun j => j == .sleep)
      fun _ => ([], err .busy [])) := by
  change execSleepTimeout s = _
  simp only [execSleepTimeout, hx, hj, if_true]

theorem exec_sleepTimeout_other (h : ∀ x : Running, s.con.running = some x → x.job ≠ .sleep) : exec .sleepTimeout s = .next s := by
  change execSleepTimeout s = _
  cases hx : s.con.running with
  | none => simp only [execSleepTimeout, hx]
  | some x => simp only [execSleepTimeout, hx, if_neg (h x hx)]

end

/-! ### Interrupts (R55, R58, R69) -/

section
variable {f : Front} {cq iv : Nat}

theorem Front.fire_sent (hon : f.pcie.msixOn = true) (hf : f.pcie.msixMask = false) (hv : ((Store.find f.pcie.msix iv).getD {}).mask = false) :
    f.fire cq iv = { f with signalled := f.signalled ++ [iv] } := by
  simp only [Front.fire, hon, hf, hv, if_true, Bool.or_self, Bool.false_eq_true, if_false]

theorem Front.fire_masked (hon : f.pcie.msixOn = true)
    (hm : f.pcie.msixMask = true ∨ ((Store.find f.pcie.msix iv).getD {}).mask = true) :
    (f.fire cq iv).signalled = f.signalled ∧ (f.fire cq iv).pcie.pba.contains iv = true := by
  have hmask : (f.pcie.msixMask || ((Store.find f.pcie.msix iv).getD {}).mask) = true := by simpa using hm
  simp only [Front.fire, hon, hmask, if_true, true_and]
  split
  · assumption
  · simp

theorem Front.fire_other (hoff : f.pcie.msixOn = false) (hcq : cq ≠ 0) : f.fire cq iv = f := by simp [Front.fire, hoff, hcq]

theorem Front.fire_admin (hoff : f.pcie.msixOn = false) : f.fire 0 iv = f.intxTick := by simp [Front.fire, hoff]

theorem Front.intxTick_intx {q : ComQueue} (hoff : f.pcie.msixOn = false) (hq : Store.find f.cqs 0 = some q) :
    f.intxTick.pcie.intx = (decide (q.tail ≠ q.head) && !f.pcie.intxOff && !f.intMask.getLsbD 0) := by
  have hne : (q.tail != q.head) = decide (q.tail ≠ q.head) := by simp [bne, Bool.beq_eq_decide_eq]
  simp only [Front.intxTick, hq, hoff, Bool.not_false, Bool.and_true, hne]

/-- Before MSI-X is enabled nothing is sent as a message. -/
theorem Front.fire_signalled (hoff : f.pcie.msixOn = false) : (f.fire cq iv).signalled = f.signalled := by
  by_cases hcq : cq = 0
  · subst hcq; rw [Front.fire_admin hoff]; rfl
  · rw [Front.fire_other hoff hcq]

end

/-! ### The timers (R26, R69, R89) -/

theorem exec_interruptCoalescingTimeout (iv : Fin 129) (s : State) : exec (.interruptCoalescingTimeout iv) s =
    .next (if s.front.coal.any fun p => p.1 == iv.val then
      { s with front := Front.fire { s.front with coal := s.front.coal.filter fun p => p.1 != iv.val } 1 iv.val } else s) := rfl

theorem exec_stagingDrain (s : State) : exec .stagingDrain s =
    .next (if s.front.staging.any fun x => x.cached then { s with front := { s.front with draining := true } } else s) := rfl

/-- A codeword is read for a command's own slot. -/
def Rd.readFor (h : Hdr) (r : Rd) : Bool := match r.need with | .host x _ _ _ => x == h | _ => false

section
variable {s : State} {h : Hdr}

/-- The timers of a command that has no context are not there. -/
theorem exec_timers_idle (hc : s.front.ctx? h = none) :
    exec (.commandTimerExpiry h) s = .next s ∧ exec (.tlerExpiry h) s = .next s := by
  change execCommandTimerExpiry h s = _ ∧ execTlerExpiry h s = _
  simp only [execCommandTimerExpiry, execTlerExpiry, hc, and_self]

variable {c : Ctx} (hc : s.front.ctx? h = some c)
include hc

theorem exec_commandTimerExpiry : exec (.commandTimerExpiry h) s =
    .next (if s.isMaster && s.timed c then ((s.cutOff h).done h .interrupted).raise 41 else s) := by
  change execCommandTimerExpiry h s = _
  simp only [execCommandTimerExpiry, hc]

theorem exec_commandTimerExpiry_off (hoff : (s.isMaster && s.timed c) = false) : exec (.commandTimerExpiry h) s = .next s := by
  rw [exec_commandTimerExpiry hc, hoff, if_neg Bool.false_ne_true]

theorem exec_tlerExpiry : exec (.tlerExpiry h) s =
    .next (if s.isMaster && c.started && decide (s.front.feats.tler > 0) && c.smartKind == 1 then
      ((s.cutOff h).abandon (Rd.readFor h)).ioEnd h .unrecovered else s) := by
  change execTlerExpiry h s = _
  simp only [execTlerExpiry, hc]
  rfl

theorem exec_tlerExpiry_off (hoff : s.isMaster = false ∨ c.started = false ∨ s.front.feats.tler = 0 ∨ c.smartKind ≠ 1) :
    exec (.tlerExpiry h) s = .next s := by
  rw [exec_tlerExpiry hc]
  rcases hoff with hoff | hoff | hoff | hoff <;> simp [hoff]

end

end Sys2Proof.Machine

namespace Sys2Proof
open Machine

/-- Settles O38: a row is its condition and its effect, written out above, and each clause decides the condition; the exit from PS4 sets the
power state first, and what comes after it changes no power state. -/
theorem powerStateRows : Obligations.PowerStateRows := by
  refine ⟨fun s => ?_, fun s => ?_, fun s => ?_⟩
  · refine ⟨fun hr hw hp hq => exec_ps3Entry_quiet ((s.mayEnter_iff 3 2).2 ⟨hr, hw, hp, hq⟩), fun hno => ?_,
      fun hr hw hp hq hb => exec_ps4Entry_quiet ((s.mayEnter_iff 4 3).2 ⟨hr, hw, hp, hq⟩) hb, fun hno => ?_, fun hm hr hp => ?_,
      fun hm hr hp hl => ?_, fun hm hno => ?_, fun hm => ?_, exec_ps4Exit_wakes, fun hno => ?_, fun hm hp hl => ?_, fun hno => ?_⟩
    · rw [exec_ps3Entry, if_neg (State.not_mayEnter hno)]
    · rw [exec_ps4Entry, if_neg]
      rw [Bool.and_eq_true, Bool.not_eq_true']
      rintro ⟨hin, hidle⟩
      refine State.not_mayEnter ?_ hin
      simpa [hidle] using hno
    · simp [exec_clkreqAsserted, hm, hr, hp]
    · simp [exec_clkreqAsserted, hm, hr, hp, hl]
    · rcases hno with hr | ⟨hp, hl⟩
      · simp [exec_clkreqAsserted, hm, hr]
      · simp [exec_clkreqAsserted, hm, hp, hl]
    · simp [exec_clkreqAsserted, hm]
    · exact congrArg _ (if_neg fun ⟨hps, hw, hr⟩ => by simp [hps, hw, hr] at hno)
    · rw [exec_l12Entry, if_pos ⟨hm, hp, hl⟩]
    · rw [exec_l12Entry, if_neg fun ⟨hm, hp, hl⟩ => by simp [hm, hp, hl] at hno]
  · refine ⟨fun hm hr ha hb hp => ?_, fun hm hr ha hb hp => ?_, fun b hno => ?_, exec_sleepTimeout_other,
      fun x hx hj => exec_sleepTimeout_sleeping hx hj⟩
    · rw [exec_apstIdleTimeout, if_pos (by simp [hm, hr, ha, hb, hp])]; rfl
    · rw [exec_apstIdleTimeout, if_pos (by simp [hm, hr, ha, hb, hp])]; rfl
    · rw [exec_apstIdleTimeout, if_neg]
      simp only [Bool.and_eq_true, Bool.not_eq_true', decide_eq_true_eq]
      rintro ⟨⟨⟨⟨hm, hr⟩, ha⟩, hb⟩, hp⟩
      simp only [hm, hr, ha, hb, Bool.true_eq_false, Bool.false_eq_true, false_or] at hno
      omega
  · refine ⟨fun iv hv => ?_, fun iv hv => ?_, fun f cq iv => ⟨Front.fire_sent, Front.fire_masked, fun hoff => ⟨Front.fire_signalled hoff,
        Front.fire_other hoff, fun q hcq hq => ?_⟩⟩, fun h c hc hm ht => ?_, fun h c hc hm hs ht hk => ?_, fun h hno => ?_,
      fun h c hc ht => ?_, fun h c hc hoff => exec_tlerExpiry_off hc (.inr hoff), fun hno => ?_, fun hany => ?_⟩
    · rw [exec_interruptCoalescingTimeout, if_pos hv]
    · rw [exec_interruptCoalescingTimeout, hv, if_neg Bool.false_ne_true]
    · rw [hcq, Front.fire_admin hoff, Front.intxTick_intx hoff hq]
    · rw [exec_commandTimerExpiry hc, if_pos (by simp [hm, ht])]
    · rw [exec_tlerExpiry hc, if_pos (by simp [hm, hs, ht, hk])]; rfl
    · cases hc : s.front.ctx? h with
      | none => exact exec_timers_idle hc
      | some c =>
        have hm : s.isMaster = false := hno.resolve_left (by simp [hc])
        exact ⟨exec_commandTimerExpiry_off hc (by simp [hm]), exec_tlerExpiry_off hc (.inl hm)⟩
    · exact exec_commandTimerExpiry_off hc (by simp [ht])
    · rw [exec_stagingDrain, hno, if_neg Bool.false_ne_true]
    · rw [exec_stagingDrain, if_pos hany]

end Sys2Proof
end

section
/-! The balls of a gallery that its isolation cells hold (R51). -/

namespace Sys2Proof.Machine

/-- What each ball of a held gallery stands at. -/
def heldLevel : Ball → Level
  | .ce _ _ | .reT _ | .we _ => .driven true
  | .wp _ | .reC _ | .ale _ | .cle _ => .driven false
  | .dq _ _ | .dqsT _ => .pulled false
  | .dqsC _ | .rb _ => .pulled true
  | _ => .idle

/-- No context holds the bus of a held gallery. -/
theorem State.galBusy_of_galHeld {s : State} {g : Fin 8} (h : s.galHeld g = true) : s.galBusy g = false := by simp [State.galBusy, h]

/-- A held gallery's balls depend on nothing else of the state: each of its own signals is overridden by the cells. -/
theorem State.galBall_held {s : State} {g : Fin 8} (h : s.galHeld g = true) (b : Ball) : s.galBall g b = heldLevel b := by
  have hbus : s.galBusy g = false := State.galBusy_of_galHeld h
  cases b with
  | ce _ n => simp [State.galBall, heldLevel, h]
  | wp => simp [State.galBall, heldLevel, h]
  | dq | dqsT | dqsC => simp [State.galBall, heldLevel, hbus]
  | _ => rfl

/-- What holds a gallery's balls: a reset, GCLK held, the gallery's own reset, no profile, or its half off. -/
theorem State.galHeld_iff (s : State) (g : Fin 8) : s.galHeld g = true ↔
    s.inReset = true ∨ s.sys.released.getLsbD 3 = false ∨ (s.gals.get g).holdReset = true ∨ (s.gals.get g).profile = none ∨
      s.sys.doms.getLsbD (5 + g.val / 4) = false := by
  simp [State.galHeld, or_assoc]

/-- After power-on every domain waits for its release. -/
theorem State.reset_inReset : State.reset.inReset = true := by decide

end Sys2Proof.Machine

namespace Sys2Proof
open Machine

/-- Settles O60: the isolation cells fix each ball of the gallery, and each of the causes is one of those that close them; the machine right
after reset is in reset. -/
theorem ballsHeld : Obligations.BallsHeld := by
  have hcause (s : State) (g : Fin 8)
      (h : s.inReset = true ∨ (s.gals.get g).profile = none ∨ s.sys.doms.getLsbD (5 + g.val / 4) = false) : s.galHeld g = true := by
    rw [State.galHeld_iff]
    rcases h with hreset | hprofile | hhalf
    · exact .inl hreset
    · exact .inr (.inr (.inr (.inl hprofile)))
    · exact .inr (.inr (.inr (.inr hhalf)))
  refine ⟨fun s g n h => ?_, hcause, fun g => hcause _ g (.inl State.reset_inReset)⟩
  have hball := State.galBall_held h
  exact ⟨hball (.ce g n), hball (.wp g), hball (.dq g n), hball (.dqsT g), hball (.dqsC g), hball (.reT g), hball (.reC g), hball (.we g),
    hball (.ale g), hball (.cle g), hball (.rb g), hball (.zq g)⟩

end Sys2Proof
end

section
/-! The pins, the host link and power-up: the rows that assert no reset (R48, R54, R55, R550, R552, R553, R578). -/

namespace Sys2Proof.Machine

/-! ### The host link (R55, R578) -/

/-- What Front tells of its latency does not enable or disable the controller. -/
theorem Front.ltrTick_en (f : Front) : f.ltrTick.en = f.en := by
  unfold Front.ltrTick Front.ltrBack Front.ltrSend
  repeat' split
  all_goals rfl

/-- A reset of the controller leaves it disabled, with no queue and no command. -/
theorem Front.resetNvme_off (f : Front) : f.resetNvme.en = false ∧ f.resetNvme.sqs = [] ∧ f.resetNvme.ctxs = [] :=
  ⟨Front.ltrTick_en _, Front.ltrTick_sqs _, Front.ltrTick_ctxs _⟩

/-- A reset that comes over the link reaches the endpoint: a master's, released, out of PS4, with lanes that are not idle (log entries 3 and 28). -/
def State.linkHeard (s : State) : Bool :=
  s.isMaster && s.sys.released.getLsbD 4 && s.sys.lanes != .idle && decide (s.sys.ps.val ≤ 3)

theorem State.linkReset_eq (s : State) (lanes : HostLanes) : s.linkReset lanes = if s.linkHeard then
    { s.resetRegs 3 with
      front := { s.front.resetNvme with pcie := {} }
      map := { s.map with inHmb := [] }
      sys := { s.sys with lanes } } else s := rfl

/-- A reset over the link takes the controller, the endpoint and the registers of level 3, and sets no trouble bit (R55, R578). -/
theorem State.linkReset_heard {s : State} (h : s.linkHeard = true) (lanes : HostLanes) :
    let t := s.linkReset lanes
    t.sys.lanes = lanes ∧ t.front.en = false ∧ t.front.sqs = [] ∧ t.front.ctxs = [] ∧ t.front.pcie = {} ∧
      t.regs = (s.resetRegs 3).regs ∧ t.sys.trouble = s.sys.trouble ∧ t.con = s.con := by
  obtain ⟨hen, hsqs, hctxs⟩ := s.front.resetNvme_off
  rw [State.linkReset_eq, if_pos h]
  exact ⟨rfl, hen, hsqs, hctxs, rfl, rfl, rfl, rfl⟩

theorem exec_hotReset (s : State) : exec .hotReset s = .next (s.linkReset .detect) := rfl

theorem exec_linkDisable (s : State) : exec .linkDisable s = .next (s.linkReset .disabled) := rfl

theorem exec_hostLinkDown (s : State) : exec .hostLinkDown s =
    .next (if s.isMaster && s.sys.perst && s.sys.released.getLsbD 4 && s.sys.lanes != .idle && s.sys.lanes != .disabled then
      State.raise { s with sys := { s.sys with lanes := .detect } } 40 else s) := rfl

/-! ### The pins -/

theorem exec_rstNHigh (s : State) : exec .rstNHigh s = .next { s with sys := { s.sys with rstN := true } } := rfl

theorem exec_perstDeasserted (s : State) : exec .perstDeasserted s = .next { s with sys := { s.sys with perst := true } } := rfl

/-! ### Power-up (R48, R54, R550, R552, R553) -/

theorem exec_lastRailGood (s : State) : exec .lastRailGood s = .next { s with sys := { s.sys with railsGood := true } } := rfl

theorem exec_aonCapGood (s : State) : exec .aonCapGood s = .next (if s.powering && !s.sys.aonGood then
    State.setRf { s with sys := { s.sys with aonGood := true, pullUp := true } } .sysClk 8 1 1 else s) := rfl

/-- The state with the strap of sixteen codes latched and the pull-up disconnected (R48 to R51). -/
def State.strapLatched (s : State) (codes : Vector (BitVec 6) 16) : State :=
  let s1 : State := s.setReg .sysStrap (strapWord (medianCode (codes.toList.map BitVec.toNat)))
  { s1 with sys := { s1.sys with pullUp := false, strapped := true, clkreqOut := s1.isMaster } }

theorem exec_strapSample (codes : Vector (BitVec 6) 16) (s : State) :
    exec (.strapSample codes) s = .next (if s.powering && s.sys.pullUp then s.strapLatched codes else s) := rfl

theorem State.strapLatched_strap (s : State) (codes : Vector (BitVec 6) 16) :
    (s.strapLatched codes).reg .sysStrap = strapWord (medianCode (codes.toList.map BitVec.toNat)) := s.reg_setReg_same _ _

theorem exec_rootPllLock (s : State) : exec .rootPllLock s =
    .next (if s.sys.released.getLsbD 0 && s.rf .sysClk 1 1 == 0 && s.sys.ps != 4 then s.rootOn else s) := rfl

theorem exec_domainRelease (d : Clk) (good : Bool) (kat : BitVec 4) (a b : Bool) (s : State) :
    exec (.domainRelease d good kat a b) s = .next (if good then s.release d kat a b else s) := rfl

theorem exec_hostPhyPllLock (s : State) : exec .hostPhyPllLock s =
    .next (if s.sys.refclk && s.sys.released.getLsbD 0 && s.sys.ps != 4 then
      ((s.setRf .sysClk 2 1 1).setRf .sysClk 12 1 1).release .hclk 0 true true else s) := rfl

theorem exec_forceRelease (mask : BitVec 5) (s : State) : exec (.forceRelease mask) s = .next (s.forceRelease mask) := rfl

end Sys2Proof.Machine

namespace Sys2Proof
open Machine

/-- Settles O16: a row is its condition and its effect, written out above, and each clause meets the condition; the two resets over the link are
one operation that differs in the lanes it leaves. -/
theorem startUpRows : Obligations.StartUpRows := by
  refine ⟨fun s => ⟨exec_rstNHigh s, exec_perstDeasserted s, fun hm hr hl hp => ?_, fun hm hperst hr hl hd => ?_, exec_lastRailGood s⟩,
    fun s => ⟨fun hpow haon => ?_, fun codes hpow hpull => ?_, fun hr hoff hp => ?_,
      fun d kat a b => ⟨exec_domainRelease d true kat a b s, exec_domainRelease d false kat a b s⟩, fun hclk hr hp => ?_,
      fun mask => exec_forceRelease mask s⟩⟩
  · have hheard : s.linkHeard = true := by simp [State.linkHeard, hm, hr, hl, hp]
    exact ⟨⟨_, exec_hotReset s, State.linkReset_heard hheard .detect⟩, ⟨_, exec_linkDisable s, State.linkReset_heard hheard .disabled⟩⟩
  · rw [exec_hostLinkDown, if_pos (by simp [hm, hperst, hr, hl, hd])]
  · rw [exec_aonCapGood, if_pos (by simp [hpow, haon])]
  · refine ⟨s.strapLatched codes, ?_, s.strapLatched_strap codes, rfl, rfl⟩
    rw [exec_strapSample, if_pos (by simp [hpow, hpull])]
  · rw [exec_rootPllLock, if_pos (by simp [hr, hoff, hp])]
  · rw [exec_hostPhyPllLock, if_pos (by simp [hclk, hr, hp])]

end Sys2Proof
end

section
/-! Console lines: a row that is a line is its turn at the console and the line's own work (R92, R93, R113). -/

namespace Sys2Proof.Machine

/-! ### A line's row -/

/-- The row of a line that waits its turn is the line's work at the console (R92). -/
theorem exec_line {i : Instr} {l : LineCtx} (h : i.waitingLine = some l) (s : State) : exec i s = .next (s.lineRow l i (lineAct i l)) := by
  unfold Instr.waitingLine at h
  -- each line carries its own context, and no other row has one
  split at h <;> cases h <;> rfl

/-- A recorded line that the console takes does its work in the state of its entry (R113). -/
theorem exec_entered {s t : State} {i : Instr} {l : LineCtx} (h : i.waitingLine = some l) (hr : recorded i = true) (ht : s.takesEntry = true)
    (hact : lineAct i l (some s.bst.jNext) (s.entered l i) = t) : exec i s = .next t := by rw [exec_line h, lineRow_enters _ ht hr, hact]

/-! ### The checks of a line -/

section
variable {s : State} {c : LineCtx} {j : Option Nat} {cs : List (Bool × Status)} {act : State → State}

/-- A line none of whose checks fails goes on. -/
theorem State.checked_passes (h : ∀ x ∈ cs, x.1 = false) : s.checked c j cs act = act s := by
  induction cs with
  | nil => rfl
  | cons x cs ih =>
    obtain ⟨b, st⟩ := x
    obtain ⟨rfl, hcs⟩ := List.forall_mem_cons.1 h
    rw [checked_cons, if_neg Bool.false_ne_true, ih hcs]

/-- A line one of whose checks fails ends with an error, and changes nothing else. -/
theorem State.checked_refused (h : ∃ x ∈ cs, x.1 = true) (he : ∀ x ∈ cs, ∃ k d, x.2 = err k d) :
    ∃ (k : ErrCode) (d : List Pair), s.checked c j cs act = s.finishLine c j [] (err k d) := by
  induction cs with
  | nil => obtain ⟨x, hx, -⟩ := h; cases hx
  | cons x cs ih =>
    obtain ⟨b, st⟩ := x
    obtain ⟨⟨k, d, rfl⟩, hcs⟩ := List.forall_mem_cons.1 he
    cases b with
    | true => exact ⟨k, d, by rw [checked_cons, if_pos rfl]⟩
    | false =>
      rw [checked_cons, if_neg Bool.false_ne_true]
      exact ih (by simpa using h) hcs

end

end Sys2Proof.Machine
end

section
/-! The lines that change settings, clear, save and load (R109, R125 to R128, R198 to R200): one lemma for each outcome of a line. -/

namespace Sys2Proof.Machine

/-! ### set (R125) -/

/-- The state with every pair of a `set` in effect. -/
def State.setAll (s : State) (ps : List (Setting × SetVal)) : State := ps.foldl (fun (t : State) (x : Setting × SetVal) => t.setNow x.1 x.2) s

section
variable {s : State} {c : LineCtx} {j : Option Nat} {ps : List (Setting × SetVal)}

theorem State.doSet_refused {st : Status} (h : s.setRefused ps = some st) : s.doSet c j ps = s.finishLine c j [] st := by
  unfold State.doSet; rw [h]

/-- A `set` that turns no gallery off, or only galleries at rest, is answered at once. -/
theorem State.doSet_rests (h : s.setRefused ps = none)
    (hoff : (¬∃ g : Fin 8, (Setting.galEnable g, SetVal.flag false) ∈ ps) ∨ (s.setAll ps).restless = false) :
    s.doSet c j ps = (s.setAll ps).finishLine c j [] (ok ((s.setAll ps).setPairs (ps.map (·.1)))) := by
  unfold State.doSet
  rw [h]
  refine if_neg fun hwait => ?_
  obtain ⟨hany, hrestless⟩ := Bool.and_eq_true_iff.1 hwait
  rcases hoff with hnone | hrest
  · obtain ⟨x, hx, hturns⟩ := List.any_eq_true.1 hany
    split at hturns
    · exact hnone ⟨_, hx⟩
    · cases hturns
  · exact Bool.false_ne_true (hrest.symm.trans hrestless)

/-- A `set` that turns a gallery off while one that is off does not rest waits for it. -/
theorem State.doSet_waits (h : s.setRefused ps = none) (hoff : ∃ g : Fin 8, (Setting.galEnable g, SetVal.flag false) ∈ ps)
    (hrestless : (s.setAll ps).restless = true) : s.doSet c j ps = (s.setAll ps).run ⟨c, .setOff (ps.map (·.1)), j⟩ := by
  obtain ⟨g, hg⟩ := hoff
  unfold State.doSet
  rw [h]
  exact if_pos (Bool.and_eq_true_iff.2 ⟨List.any_eq_true.2 ⟨_, hg, rfl⟩, hrestless⟩)

end

/-! ### clear (R126) -/

section
variable (s : State) (c : LineCtx) (j : Option Nat)

theorem State.doClearTrouble_all : s.doClearTrouble c j none = (s.clearTrouble (BitVec.allOnes 64)).finishLine c j [] (ok []) := rfl

theorem State.doClearTrouble_bit (n : Nat) : s.doClearTrouble c j (some n) =
    if 63 < n then s.finishLine c j [] (err .range [("bit", .nat n)]) else (s.clearTrouble (1#64 <<< n)).finishLine c j [] (ok []) := by
  simp only [State.doClearTrouble, checked_cons, checked_nil, Option.getD_some, decide_eq_true_eq, gt_iff_lt, badKey]

theorem State.doClearCause_all : s.doClearCause c j none = (s.clearCause (BitVec.allOnes 32)).finishLine c j [] (ok []) := rfl

theorem State.doClearCause_bit (n : Nat) : s.doClearCause c j (some n) =
    if 31 < n then s.finishLine c j [] (err .range [("bit", .nat n)]) else (s.clearCause (1#32 <<< n)).finishLine c j [] (ok []) := by
  simp only [State.doClearCause, checked_cons, checked_nil, Option.getD_some, decide_eq_true_eq, gt_iff_lt, badKey]

end

/-- A chamber's bit of GAL_SUSPECT cleared. -/
def State.unsuspect (s : State) (ch : Fin 128) : State :=
  s.setReg (.galSuspect (galOf ch)) (s.reg (.galSuspect (galOf ch)) &&& ~~~(1#32 <<< (chIn ch).val))

section
variable {s : State} {c : LineCtx} {j : Option Nat} {ch : Fin 128} {good : Bool}

theorem State.doClearSuspect_absent (h : s.chamberHere ch = false) : s.doClearSuspect c j ch good = s.finishLine c j [] (err .absent []) := by
  unfold State.doClearSuspect; rw [checked_cons, h]; rfl

theorem State.doClearSuspect_unready (h : s.chamberHere ch = true)
    (hg : (s.gals.get (galOf ch)).inService = false ∨ s.targetTrained ch = false) :
    s.doClearSuspect c j ch good = s.finishLine c j [] (err .state []) := by
  have hbad : (!(s.gals.get (galOf ch)).inService || !s.targetTrained ch) = true := by simpa using hg
  unfold State.doClearSuspect
  rw [checked_cons, if_neg (by simp [h]), checked_cons, if_pos hbad]

variable (h : s.chamberHere ch = true) (hserves : (s.gals.get (galOf ch)).inService = true) (htrained : s.targetTrained ch = true)
include h hserves htrained

/-- A chamber that can be reset is: its bit is cleared where its reset ends and its status is good. -/
theorem State.doClearSuspect_reset {r : Bool × State} (hr : s.resetLun (galOf ch) (chIn ch) (if good then ready else 0) = r) :
    s.doClearSuspect c j ch good =
      if (r.1 && good) = true then (r.2.unsuspect ch).finishLine c j [] (ok []) else r.2.finishLine c j [] (err .fault [word "status"]) := by
  unfold State.doClearSuspect
  rw [checked_cons, if_neg (by simp [h]), checked_cons, if_neg (by simp [hserves, htrained]), checked_nil, hr]
  rfl

end

/-! ### load profile (R128, R198, R199) -/

/-- What a `load profile` is checked for before its image is read. -/
def State.loadChecks (s : State) (src len : Nat) (g : Option (Fin 8)) : List (Bool × Status) :=
  [(decide (src ≥ 2 ^ 32), badKey "src" (.nat src)), (s.isSt .service && !(loadGals g).all s.unwritten, err .state []),
    (decide (len < 1024 ∨ len > 32768 ∨ len % 64 ≠ 0), err .range [word "hdr.length"])]

/-- What the checks of a `load profile` refuse. -/
def State.loadBarred (s : State) (src len : Nat) (g : Option (Fin 8)) : Prop :=
  2 ^ 32 ≤ src ∨ (s.isSt .service = true ∧ (loadGals g).all s.unwritten = false) ∨ len < 1024 ∨ 32768 < len ∨ len % 64 ≠ 0

theorem State.loadBarred_iff (s : State) (src len : Nat) (g : Option (Fin 8)) :
    s.loadBarred src len g ↔ ∃ x ∈ s.loadChecks src len g, x.1 = true := by
  simp [State.loadBarred, State.loadChecks]

/-- A profile waits to be installed on each of some galleries. -/
def State.awaitInstall (s : State) (gs : List (Fin 8)) (p : Profile) : State :=
  gs.foldl (fun (v : State) (x : Fin 8) => v.gal x fun y => { y with toInstall := some p }) s

section
variable {s : State} {c : LineCtx} {j : Option Nat} {src len : Nat} {g : Option (Fin 8)}

theorem State.doLoadProfile_barred (h : s.loadBarred src len g) :
    ∃ (k : ErrCode) (d : List Pair), s.doLoadProfile c j src len g = s.finishLine c j [] (err k d) := by
  unfold State.doLoadProfile
  exact State.checked_refused ((s.loadBarred_iff src len g).1 h) (by simp [badKey, err])

variable {m : List Nat} {u : State} (h : ¬s.loadBarred src len g)
include h

theorem State.loadChecks_pass : ∀ x ∈ s.loadChecks src len g, x.1 = false := by
  simpa [State.loadBarred_iff] using h

/-- A load whose image cannot be read ends with the access that failed. -/
theorem State.doLoadProfile_unread {o : Acc} {a : Nat} (hread : s.readSpan (cutUp len src len) = (some (o, a), m, u)) :
    s.doLoadProfile c j src len g = u.finishLine c j [] (faultStatus o a []) := by
  unfold State.doLoadProfile
  refine (State.checked_passes (State.loadChecks_pass h)).trans ?_
  rw [hread]

/-- A load of an image that is not valid names the check that it fails. -/
theorem State.doLoadProfile_invalid (hread : s.readSpan (cutUp len src len) = (none, m, u)) {f : String}
    (himg : imgFail m len (u.sys.railMv.get 4) = some f) : s.doLoadProfile c j src len g = u.finishLine c j [] (err .range [word f]) := by
  unfold State.doLoadProfile
  refine (State.checked_passes (State.loadChecks_pass h)).trans ?_
  rw [hread]
  dsimp only
  rw [himg]

/-- A load of a valid image waits for its galleries. -/
theorem State.doLoadProfile_valid (hread : s.readSpan (cutUp len src len) = (none, m, u))
    (himg : imgFail m len (u.sys.railMv.get 4) = none) :
    s.doLoadProfile c j src len g = (u.awaitInstall (loadGals g) (imgProfile m)).run ⟨c, .load (loadGals g), j⟩ := by
  unfold State.doLoadProfile
  refine (State.checked_passes (State.loadChecks_pass h)).trans ?_
  rw [hread]
  dsimp only
  rw [himg]
  rfl

end

/-- The conditions of an installation (R199): GCLK runs, and the gallery does nothing. -/
theorem exec_profileInstall_waiting {s : State} {g : Fin 8} {p : Profile} (m : List (List Nat)) (h : (s.gals.get g).toInstall = some p) :
    exec (.profileInstall g m) s = .next (if !s.inReset && s.sys.released.getLsbD 3 && decide (s.sys.ps.val ≤ 2) && (s.gals.get g).still then
      (s.install g p m).loadReply else s) := by
  change execProfileInstall g m s = _
  unfold execProfileInstall; rw [h]

theorem exec_profileInstall_none {s : State} {g : Fin 8} (m : List (List Nat)) (h : (s.gals.get g).toInstall = none) :
    exec (.profileInstall g m) s = .next s := by
  change execProfileInstall g m s = _
  unfold execProfileInstall; rw [h]

end Sys2Proof.Machine

namespace Sys2Proof
open Machine

/-- Settles O51: a line that the console takes does its work in the state of its entry, and the work has one lemma for each outcome. -/
theorem changingLines : Obligations.ChangingLines := by
  refine ⟨fun s l ht => ⟨fun ps => ⟨fun st h => ?_, fun h hoff => ?_, fun h hoff hrest => ?_⟩, ?_, fun n => ⟨fun h => ?_, fun h => ?_⟩, ?_,
      fun n => ⟨fun h => ?_, fun h => ?_⟩, fun c good => ⟨fun h => ?_, fun h hun => ?_, fun h hserves htrained => ?_⟩⟩,
    fun s l ht => ⟨?_, ?_, ?_, fun src len g => ⟨fun h => ?_, fun h m u => ⟨fun o a hread => ?_, fun hread => ⟨fun f himg => ?_, fun himg => ?_⟩⟩⟩,
      fun g p m h => ⟨fun hrst hclk hps hstill => ?_, fun hbusy => ?_⟩, fun g m h => exec_profileInstall_none m h⟩⟩
  · exact exec_entered rfl rfl ht (State.doSet_refused h)
  · exact exec_entered rfl rfl ht (State.doSet_rests h hoff)
  · exact exec_entered rfl rfl ht (State.doSet_waits h hoff hrest)
  · exact exec_entered rfl rfl ht (State.doClearTrouble_all _ _ _)
  · exact exec_entered rfl rfl ht ((State.doClearTrouble_bit _ _ _ n).trans (if_neg (Nat.not_lt.2 h)))
  · exact exec_entered rfl rfl ht ((State.doClearTrouble_bit _ _ _ n).trans (if_pos h))
  · exact exec_entered rfl rfl ht (State.doClearCause_all _ _ _)
  · exact exec_entered rfl rfl ht ((State.doClearCause_bit _ _ _ n).trans (if_neg (Nat.not_lt.2 h)))
  · exact exec_entered rfl rfl ht ((State.doClearCause_bit _ _ _ n).trans (if_pos h))
  · exact exec_entered rfl rfl ht (State.doClearSuspect_absent h)
  · exact exec_entered rfl rfl ht (State.doClearSuspect_unready h hun)
  · have hact := State.doClearSuspect_reset (c := l) (j := some s.bst.jNext) (good := good) h hserves htrained rfl
    refine ⟨fun hr hgood => exec_entered rfl rfl ht (hact.trans (if_pos ?_)), fun hbad => exec_entered rfl rfl ht (hact.trans (if_neg ?_))⟩
    · exact Bool.and_eq_true_iff.2 ⟨hr, hgood⟩
    · rw [Bool.not_eq_true, Bool.and_eq_false_iff]; exact hbad
  · exact exec_entered rfl rfl ht rfl
  · exact exec_entered rfl rfl ht rfl
  · exact exec_entered rfl rfl ht rfl
  · obtain ⟨k, d, hact⟩ := State.doLoadProfile_barred (c := l) (j := some s.bst.jNext) h
    exact ⟨k, d, exec_entered rfl rfl ht hact⟩
  · exact exec_entered rfl rfl ht (State.doLoadProfile_unread h hread)
  · exact exec_entered rfl rfl ht (State.doLoadProfile_invalid h hread himg)
  · exact exec_entered rfl rfl ht (State.doLoadProfile_valid h hread himg)
  · rw [exec_profileInstall_waiting m h, if_pos (by simp [hrst, hclk, hps, hstill])]
  · rw [exec_profileInstall_waiting m h, if_neg ?_]
    simp only [Bool.and_eq_true, Bool.not_eq_true', decide_eq_true_eq, not_and_or, Bool.not_eq_false, Bool.not_eq_true, not_le]
    tauto

end Sys2Proof
end

section
/-! The console's own part in a line (R92, R93, R106, R109, R113): its reply, its entry in the journal, and its turn. -/

namespace Sys2Proof.Machine

/-! ### The reply (R91, R103, R109) -/

/-- What the sending of a reply's lines leaves alone, on each of the three paths: it adds to a path's buffer or to a Tether port. -/
structure State.SendsFrom (s t : State) : Prop where
  replies : t.con.replies = s.con.replies
  queue : t.con.queue = s.con.queue
  running : t.con.running = s.con.running
  regs : t.regs = s.regs
  kpr : t.kpr = s.kpr

/-- A line that goes over Tether changes its port alone. -/
theorem State.SendsFrom.tethSends {s : State} {c : LineCtx} {ls : List (List Byte)} {t : State} (h : s.SendsFrom t) :
    s.SendsFrom (ls.foldl (fun t l => t.tethSend 4 c.entry c.rtag l.length 0 (.line l)) t) := by
  induction ls generalizing t with
  | nil => exact h
  | cons l ls ih =>
    obtain ⟨hreplies, hqueue, hrunning, hregs, hkpr⟩ := h
    exact ih ⟨hreplies, hqueue, hrunning, hregs, hkpr⟩

theorem State.sendLines_sends (s : State) (c : LineCtx) (ls : List (List Byte)) : s.SendsFrom (s.sendLines c ls) := by
  unfold State.sendLines
  cases c.path with
  | uart => exact ⟨rfl, rfl, rfl, rfl, rfl⟩
  | tunnel => constructor <;> simp only [State.tunnelAdd, State.raiseIf_con, State.raiseIf_regs, State.raiseIf_kpr]
  | tether => exact State.SendsFrom.tethSends ⟨rfl, rfl, rfl, rfl, rfl⟩

/-- A reply is kept as the last of the replies sent; the rest is the sending of its lines. -/
theorem State.reply_sends (s : State) (c : LineCtx) (cont : List (List Pair)) (st : Status) :
    State.SendsFrom { s with con := { s.con with replies := s.con.replies ++ [⟨c, cont, st⟩] } } (s.reply c cont st) := by
  obtain ⟨hreplies, hqueue, hrunning, hregs, hkpr⟩ :=
    State.sendLines_sends { s with con := { s.con with replies := s.con.replies ++ [⟨c, cont, st⟩] } } c (Reply.lines ⟨c, cont, st⟩)
  unfold State.reply
  cases c.path <;> exact ⟨hreplies, hqueue, hrunning, hregs, hkpr⟩

/-! ### The entry (R113, R114; log entry 15) -/

/-- Whether the die does not verify firmware's next program: a time-out is due, and a free value puts it there (log entry 15). -/
def State.failsNow (s : State) : Bool := s.bst.failNext && Config.freeBool s.free

theorem State.failsNow_of_sound {s : State} (h : s.bst.failNext = false) : s.failsNow = false := by rw [State.failsNow, h]; rfl

/-- A program of firmware's verifies unless it is the failing one, and leaves the console alone. -/
theorem State.fwProgram_answers (s : State) (off : Nat) (l : List Nat) : ∃ t : State, s.fwProgram off l = (!s.failsNow, t) ∧ t.con = s.con := by
  unfold State.fwProgram State.failsNow
  dsimp only
  rw [sendF0_failNext]
  cases s.bst.failNext && Config.freeBool s.free <;> exact ⟨_, rfl, rfl⟩

/-- The boot store with room in the journal's sector for a line of `n` characters. -/
def BootStore.jReady (b : BootStore) (n : Nat) : BootStore := if b.jSector = 0 ∨ b.jFill + jLen n > 0x10000 then b.jRoll b.jNext else b

theorem BootStore.jReady_keeps (b : BootStore) (n : Nat) : (b.jReady n).jNext = b.jNext ∧ (b.jReady n).failNext = b.failNext := by
  unfold BootStore.jReady
  split
  · exact jRoll_keeps b b.jNext
  · exact ⟨rfl, rfl⟩

/-- The entry of a line, its result pending (R114). -/
def State.lineEntry (s : State) (src dev : Nat) (text : List Byte) : JEntry :=
  { seq := (s.bst.jReady text.length).jNext, src, dev, secs := s.sys.life, ms := s.sys.lifeMs, result := 0xFF, text
    sector := (s.bst.jReady text.length).jSector, off := (s.bst.jReady text.length).jFill }

section
variable (s : State) (src dev : Nat) (text : List Byte)

/-- The program of a line's entry verifies unless it is the failing one. -/
theorem State.lineEntry_program : ∃ t : State, State.fwProgram { s with bst := s.bst.jReady text.length }
      (jSec (s.bst.jReady text.length).jSector * 0x10000 + (s.bst.jReady text.length).jFill) (s.lineEntry src dev text).bytes = (!s.failsNow, t) ∧
    t.con = s.con := by
  obtain ⟨t, hprog, hcon⟩ := State.fwProgram_answers { s with bst := s.bst.jReady text.length }
    (jSec (s.bst.jReady text.length).jSector * 0x10000 + (s.bst.jReady text.length).jFill) (s.lineEntry src dev text).bytes
  have hfails : State.failsNow { s with bst := s.bst.jReady text.length } = s.failsNow := by
    rw [State.failsNow, (s.bst.jReady_keeps text.length).2]; rfl
  exact ⟨t, hfails ▸ hprog, hcon⟩

/-- An entry that verifies is the journal's last (R113). -/
theorem State.journalAdd_verified (h : s.failsNow = false) : ∃ t : State, s.journalAdd src dev text = (some s.bst.jNext, t) ∧
    t.con = s.con ∧ t.bst.journal.getLast? = some (s.lineEntry src dev text) := by
  obtain ⟨t, hprog, hcon⟩ := s.lineEntry_program src dev text
  rw [← (s.bst.jReady_keeps text.length).1]
  unfold State.journalAdd
  unfold State.lineEntry BootStore.jReady at *
  dsimp only at *
  rw [hprog, h]
  exact ⟨_, rfl, hcon, List.getLast?_concat⟩

/-- An entry that does not verify has no number to answer by (R113). -/
theorem State.journalAdd_unverified (h : s.failsNow = true) : ∃ t : State, s.journalAdd src dev text = (none, t) ∧ t.con = s.con := by
  obtain ⟨t, hprog, hcon⟩ := s.lineEntry_program src dev text
  unfold State.journalAdd
  unfold State.lineEntry BootStore.jReady at hprog
  dsimp only at *
  rw [hprog, h]
  exact ⟨_, rfl, hcon⟩

end

/-- A result byte is the boot store's business (R113). -/
@[simp] theorem State.journalResult_con (s : State) (seq : Nat) (result : Byte) : (s.journalResult seq result).con = s.con := by
  unfold State.journalResult
  split
  · rfl
  · next e _ =>
    obtain ⟨t, hprog, hcon⟩ := s.fwProgram_answers (jSec e.sector * 0x10000 + e.off + 18) [result.toNat]
    rw [hprog]
    cases s.failsNow <;> exact hcon

/-- A line that is finished, recorded or not, is answered last. -/
theorem State.finishLine_replies (s : State) (c : LineCtx) (j : Option Nat) (cont : List (List Pair)) (st : Status) :
    (s.finishLine c j cont st).con.replies = s.con.replies ++ [⟨c, cont, st⟩] := by
  cases j with
  | none => exact (s.reply_sends c cont st).replies
  | some n => exact ((s.journalResult n st.byte).reply_sends c cont st).replies.trans (by rw [State.journalResult_con])

/-! ### The turn (R51, R92, R93) -/

section
variable {s : State} {l : LineCtx} {i : Instr} {text : List Byte} {act : Option Nat → State → State}

/-- A recorded line whose entry verifies does its work with the entry's number. -/
theorem State.execLine_verified (h : s.failsNow = false) :
    s.execLine l text true act = act (some s.bst.jNext) (s.journalAdd (Path.num l.path) (s.lineDev l) (masked text)).2 := by
  obtain ⟨t, hadd, -⟩ := s.journalAdd_verified (Path.num l.path) (s.lineDev l) (masked text) h
  unfold State.execLine
  rw [if_pos rfl, hadd]

/-- A recorded line whose entry does not verify is not executed (R113). -/
theorem State.execLine_unverified (h : s.failsNow = true) : s.execLine l text true act =
    (s.journalAdd (Path.num l.path) (s.lineDev l) (masked text)).2.reply l [] (err .fault [word "journal"]) := by
  obtain ⟨t, hadd, -⟩ := s.journalAdd_unverified (Path.num l.path) (s.lineDev l) (masked text) h
  unfold State.execLine
  rw [if_pos rfl, hadd]

theorem State.enqueue_room (h : (s.con.queue.countP fun q => q.ctx.path == l.path) < 4) : s.enqueue l text =
    { s with con := { s.con with queue := s.con.queue ++ [⟨l, text, s.con.nextOrder⟩], nextOrder := s.con.nextOrder + 1 } } :=
  if_neg (Nat.not_le.2 h)

theorem State.enqueue_full (h : 4 ≤ s.con.queue.countP fun q => q.ctx.path == l.path) :
    s.enqueue l text = (s.raise 44).reply l [] (err .busy [word "queue"]) := if_pos h

theorem State.lineRow_off (h : s.consoleOn = false) : s.lineRow l i act = s := by unfold State.lineRow; rw [h]; rfl

theorem State.stopRow_off (h : s.consoleOn = false) : s.stopRow l i text act = s := by unfold State.stopRow; rw [h]; rfl

theorem State.lineRow_takes (h : s.takesLine = true) : s.lineRow l i act = s.execLine l (lineText l i) (recorded i) act := by
  simp only [State.takesLine, Bool.and_eq_true, Bool.not_eq_true'] at h
  obtain ⟨⟨⟨hon, hidle⟩, hempty⟩, hrom⟩ := h
  simp [State.lineRow, hon, hidle, hempty, hrom]

variable (hon : s.consoleOn = true)
include hon

/-- A `stop` line whose entry does not verify stops nothing. -/
theorem State.stopRow_unverified (hr : recorded i = true) (h : s.failsNow = true) : s.stopRow l i text act =
    (s.journalAdd (Path.num l.path) (s.lineDev l) (masked text)).2.reply l [] (err .fault [word "journal"]) := by
  unfold State.stopRow
  rw [hon, hr, if_neg (by decide), State.execLine_unverified h]

theorem State.lineRow_waits (h : s.con.busy = true ∨ s.con.queue ≠ []) : s.lineRow l i act = s.enqueue l (lineText l i) := by
  have hwait : (s.con.busy || !s.con.queue.isEmpty) = true := by simpa using h
  unfold State.lineRow
  rw [hon, if_neg (by decide), if_pos hwait]

/-- Mask ROM executes a line that it does not serve as far as its entry (R513; log entry 46). -/
theorem State.lineRow_romRefuses (hidle : s.con.busy = false) (hempty : s.con.queue = []) (hrom : s.sys.rom = true)
    (hno : romVerb i = false ∨ l.path ≠ .uart) : s.lineRow l i act =
      s.execLine l (lineText l i) (recorded i) fun j t => t.finishLine l j [] (err .state []) := by
  have hrefuses : (s.sys.rom && !(romVerb i && l.path == .uart)) = true := by rw [hrom]; rcases hno with hno | hno <;> simp [hno]
  unfold State.lineRow
  rw [hon, if_neg (by decide), if_neg (by simp [hidle, hempty]), if_pos hrefuses]

end

/-- A `stop` line is recorded, and its row does not wait its turn (R92, R112, R134). -/
theorem exec_stopLine {i : Instr} {l : LineCtx} {n : Fin 8} (h : i = .stop l ∨ i = .stopTest l ∨ i = .stopDma l n) (s : State) :
    recorded i = true ∧ exec i s = .next (s.stopRow l i (lineText l i) (lineAct i l)) := by
  rcases h with rfl | rfl | rfl <;> exact ⟨rfl, rfl⟩

/-! ### The outcomes of a line's row -/

section
variable {s : State} {i : Instr} {l : LineCtx} (hi : i.waitingLine = some l)
include hi

theorem exec_line_unverified (ht : s.takesLine = true) (hr : recorded i = true) (h : s.failsNow = true) :
    exec i s = .next ((s.entered l i).reply l [] (err .fault [word "journal"])) := by
  rw [exec_line hi, State.lineRow_takes ht, hr, State.execLine_unverified h]; rfl

theorem exec_line_verified (ht : s.takesLine = true) (hr : recorded i = true) (h : s.failsNow = false) :
    exec i s = .next (lineAct i l (some s.bst.jNext) (s.entered l i)) := by
  rw [exec_line hi, State.lineRow_takes ht, hr, State.execLine_verified h]; rfl

/-- A line meets its turn: with the console off it changes nothing, behind others it is queued or refused, and mask ROM refuses it. -/
theorem exec_line_turn :
    (s.consoleOn = false → exec i s = .next s) ∧
    (s.consoleOn = true → (s.con.busy = true ∨ s.con.queue ≠ []) → exec i s = .next (s.enqueue l (lineText l i))) ∧
    (s.consoleOn = true → s.con.busy = false → s.con.queue = [] → s.sys.rom = true → (romVerb i = false ∨ l.path ≠ .uart) → exec i s =
      .next (s.execLine l (lineText l i) (recorded i) fun j t => t.finishLine l j [] (err .state []))) := by
  rw [exec_line hi]
  exact ⟨fun hoff => congrArg _ (State.lineRow_off hoff), fun hon h => congrArg _ (State.lineRow_waits hon h),
    fun hon hidle hempty hrom hno => congrArg _ (State.lineRow_romRefuses hon hidle hempty hrom hno)⟩

end

/-! ### What the fault clauses of LinesAnswered rest on -/

/-- A line typed at the UART. -/
def typedLine : LineCtx := ⟨.uart, none, 0, 0⟩

/-- A machine with its console up on which a time-out of the boot store is due, and its count of free values. -/
def timeOutDue (n : Nat) : State := { State.reset with
  sys := { State.reset.sys with rst := none, fw := true, rom := false }, bst := { State.reset.bst with failNext := true }, free := n }

theorem timeOutDue_takesLine (n : Nat) : (timeOutDue n).takesLine = true := rfl

theorem timeOutDue_failsNow (n : Nat) : (timeOutDue n).failsNow = Config.freeBool n := rfl

/-- While a time-out is due the free value alone says whether a line's entry fails: a line is answered for its entry only if it does. -/
theorem freeBool_of_unverified {n : Nat} {l : LineCtx} (h : exec (.clearTrouble l (some 64)) (timeOutDue n) =
    .next (((timeOutDue n).entered l (.clearTrouble l (some 64))).reply l [] (err .fault [word "journal"]))) : Config.freeBool n = true := by
  by_contra hfree
  have hverifies : (timeOutDue n).failsNow = false := by rw [timeOutDue_failsNow, Bool.eq_false_iff]; exact hfree
  have hact := (exec_line_verified (i := .clearTrouble l (some 64)) rfl (timeOutDue_takesLine n) rfl hverifies).symm.trans h
  have hrange := (State.doClearTrouble_bit ((timeOutDue n).entered l (.clearTrouble l (some 64))) l (some (timeOutDue n).bst.jNext) 64).trans
    (if_pos (by decide))
  have hstate := hrange.symm.trans (Host.Outcome.next.inj hact)
  have hreplies := congrArg (fun t : State => t.con.replies) hstate
  rw [State.finishLine_replies, (State.reply_sends _ _ _ _).replies] at hreplies
  exact absurd (List.append_cancel_left hreplies) (by simp [err])

end Sys2Proof.Machine

namespace Sys2Proof
open Machine

/-- The statement stands or falls with what the model leaves open: while a time-out is due, a free value says whether it falls on a line's entry
or on a later program (log entry 15), and the clauses on an entry that does not verify take it to fall on the entry.  Nothing evaluates that value
(log entry 4), so neither the statement nor its negation follows from the model. -/
theorem linesAnswered_iff_freeBool : Obligations.LinesAnswered ↔ ∀ n : Nat, Config.freeBool n = true := by
  refine ⟨fun h n => ?_, fun hfree => ?_⟩
  · obtain ⟨-, -, hrow, -⟩ := h
    obtain ⟨-, -, hfault, -⟩ := hrow (timeOutDue n) typedLine (.clearTrouble typedLine (some 64)) rfl
    exact freeBool_of_unverified (hfault (timeOutDue_takesLine n) rfl rfl)
  · have hfails {s : State} (hdue : s.bst.failNext = true) : s.failsNow = true := by rw [State.failsNow, hdue, hfree]; rfl
    refine ⟨fun s c cont st => ?_, fun s l i hsound => ?_, fun s l i hi => ?_, fun s l n => ⟨fun hoff => ?_, fun hon hdue i h => ?_⟩⟩
    · have hsends := s.reply_sends c cont st
      exact ⟨hsends.replies, hsends.queue, hsends.running, hsends.regs, hsends.kpr⟩
    · obtain ⟨t, hadd, -, hlast⟩ := s.journalAdd_verified (Path.num l.path) (s.lineDev l) (masked (lineText l i)) (State.failsNow_of_sound hsound)
      have hentered : s.entered l i = t := congrArg Prod.snd hadd
      rw [hentered]
      exact ⟨hadd, _, hlast, rfl, rfl, rfl, rfl, rfl⟩
    · obtain ⟨hoff, hwaits, hrom⟩ := exec_line_turn (s := s) hi
      refine ⟨hoff, fun hon h => ⟨fun hroom => ?_, fun hfull => ?_⟩, fun ht hr hdue => exec_line_unverified hi ht hr (hfails hdue),
        fun hon hidle hempty hr hno => ⟨fun hrec => ?_, fun hrec hsound => ?_⟩⟩
      · rw [hwaits hon h, State.enqueue_room hroom]
      · rw [hwaits hon h, State.enqueue_full hfull]
      · rw [hrom hon hidle hempty hr hno, hrec]; rfl
      · rw [hrom hon hidle hempty hr hno, hrec, State.execLine_verified (State.failsNow_of_sound hsound)]; rfl
    · exact ⟨congrArg _ (State.stopRow_off hoff), congrArg _ (State.stopRow_off hoff), congrArg _ (State.stopRow_off hoff)⟩
    · obtain ⟨hrec, hrow⟩ := exec_stopLine h s
      rw [hrow, State.stopRow_unverified hon hrec (hfails hdue)]; rfl

end Sys2Proof
end

section
/-! The checks of a line, its work when it is not recorded, and the `stop` lines that execute beside another (R92, R112, R113, R134). -/

namespace Sys2Proof.Machine

/-- A line that is not recorded, taken by the console, does its work at once (R112). -/
theorem exec_reads {s t : State} {i : Instr} {l : LineCtx} (h : i.waitingLine = some l) (hr : recorded i = false) (ht : s.takesLine = true)
    (hact : lineAct i l none s = t) : exec i s = .next t := by rw [exec_line h, lineRow_reads _ ht hr, hact]

/-- A recorded line whose work is refused ends with that error. -/
theorem exec_entered_refused {s : State} {i : Instr} {l : LineCtx} (h : i.waitingLine = some l) (hr : recorded i = true) (ht : s.takesEntry = true)
    (hact : ∃ (k : ErrCode) (d : List Pair), lineAct i l (some s.bst.jNext) (s.entered l i) =
      (s.entered l i).finishLine l (some s.bst.jNext) [] (err k d)) :
    ∃ (k : ErrCode) (d : List Pair), exec i s = .next ((s.entered l i).finishLine l (some s.bst.jNext) [] (err k d)) := by
  obtain ⟨k, d, hact⟩ := hact
  exact ⟨k, d, exec_entered h hr ht hact⟩

/-! ### The checks of a line -/

section
variable {s : State} {c : LineCtx} {j : Option Nat} {cs : List (Bool × Status)} {act : State → State}

/-- A line one of whose checks fails ends with the status of a check, whatever its work would have been. -/
theorem State.checked_refused_by {P : Status → Prop} (h : ∃ x ∈ cs, x.1 = true) (he : ∀ x ∈ cs, P x.2) :
    ∃ st : Status, P st ∧ ∀ act : State → State, s.checked c j cs act = s.finishLine c j [] st := by
  induction cs with
  | nil => obtain ⟨x, hx, -⟩ := h; cases hx
  | cons x cs ih =>
    obtain ⟨b, st⟩ := x
    obtain ⟨hst, hcs⟩ := List.forall_mem_cons.1 he
    cases b with
    | true => exact ⟨st, hst, fun act => by rw [checked_cons, if_pos rfl]⟩
    | false => simpa only [checked_cons, Bool.false_eq_true, if_false] using ih (by simpa using h) hcs

/-- A line one of whose checks fails ends with the code that they all have. -/
theorem State.checked_refused_code {k : ErrCode} (h : ∃ x ∈ cs, x.1 = true) (he : ∀ x ∈ cs, ∃ d : List Pair, x.2 = err k d) :
    ∃ d : List Pair, s.checked c j cs act = s.finishLine c j [] (err k d) := by
  obtain ⟨-, ⟨d, rfl⟩, hact⟩ := State.checked_refused_by (s := s) (c := c) (j := j) (P := fun st => ∃ d : List Pair, st = err k d) h he
  exact ⟨d, hact act⟩

/-- Checks made after others are checks at the end of the list. -/
theorem State.checked_then {ds : List (Bool × Status)} {act' : State → State} (h : act s = s.checked c j ds act') :
    s.checked c j cs act = s.checked c j (cs ++ ds) act' := by
  induction cs with
  | nil => rw [checked_nil, h, List.nil_append]
  | cons x cs ih => rw [List.cons_append, checked_cons, checked_cons, ih]

theorem State.checked_append {ds : List (Bool × Status)} :
    s.checked c j (cs ++ ds) act = s.checked c j cs fun t => t.checked c j ds act := (State.checked_then rfl).symm

end

/-! ### The entry's frame (R113) -/

@[simp] theorem State.fwProgram_sys (s : State) (off : Nat) (l : List Nat) : (s.fwProgram off l).2.sys = s.sys := by
  unfold State.fwProgram
  dsimp only
  split <;> rfl

section
variable (s : State) (src dev : Nat) (text : List Byte)

theorem State.journalAdd_sys : (s.journalAdd src dev text).2.sys = s.sys := by
  have hprog := State.fwProgram_sys { s with bst := s.bst.jReady text.length }
    (jSec (s.bst.jReady text.length).jSector * 0x10000 + (s.bst.jReady text.length).jFill) (s.lineEntry src dev text).bytes
  unfold State.journalAdd
  unfold State.lineEntry BootStore.jReady at hprog
  dsimp only at *
  split <;> next heq => rw [heq] at hprog; exact hprog

theorem State.journalAdd_con : (s.journalAdd src dev text).2.con = s.con := by
  cases h : s.failsNow with
  | false => obtain ⟨t, hadd, hcon, -⟩ := s.journalAdd_verified src dev text h; rw [hadd]; exact hcon
  | true => obtain ⟨t, hadd, hcon⟩ := s.journalAdd_unverified src dev text h; rw [hadd]; exact hcon

end

section
variable (s : State) (l : LineCtx) (i : Instr)

@[simp] theorem State.entered_sys : (s.entered l i).sys = s.sys := s.journalAdd_sys _ _ _

@[simp] theorem State.entered_con : (s.entered l i).con = s.con := s.journalAdd_con _ _ _

end

/-- A `stop` line of firmware's console does its work in the state of its entry, beside the line that executes (R92, R134). -/
theorem exec_stops {s t : State} {i : Instr} {l : LineCtx} {n : Fin 8} (h : i = .stop l ∨ i = .stopTest l ∨ i = .stopDma l n)
    (hon : s.consoleOn = true) (hsound : s.bst.failNext = false) (hrom : s.sys.rom = false)
    (hact : lineAct i l (some s.bst.jNext) (s.entered l i) = t) : exec i s = .next t := by
  obtain ⟨hrec, hrow⟩ := exec_stopLine h s
  have hfw : (s.entered l i).sys.rom = false := by rw [State.entered_sys, hrom]
  rw [hrow, State.stopRow, hon, if_neg (by decide), hrec, State.execLine_verified (State.failsNow_of_sound hsound)]
  exact congrArg _ ((if_neg (Bool.eq_false_iff.1 hfw)).trans hact)

end Sys2Proof.Machine
end

section
/-! The lines that read (R121 to R124, R137, R139): one lemma for each outcome of a line. -/

namespace Sys2Proof.Machine

section
variable {s : State} {c : LineCtx} {j : Option Nat}

/-! ### show and log (R121, R123) -/

theorem State.doShow_chamber (ch : Fin 128) : s.doShow c j (.chamber ch) =
    if s.chamberHere ch then s.finishLine c j [s.chamberLine ch] (ok []) else s.finishLine c j [] (err .absent []) := rfl

theorem State.doShow_of_ne {o : ShowObj} (h : ∀ ch : Fin 128, o ≠ .chamber ch) : s.doShow c j o = s.finishLine c j (s.showLines o) (ok []) := by
  unfold State.doShow
  split
  · exact absurd rfl (h _)
  · rfl

section
variable {n f : Option Nat}

theorem State.doLogJournal_lists (hn : n.getD 16 ≤ 4096) (hf : f.getD 1 < 2 ^ 32) :
    s.doLogJournal c j n f = s.logReply c j ((journalSel s.bst.journal n f).map JEntry.pairs) :=
  State.checked_passes (by simpa [hn] using hf)

theorem State.doLogJournal_refused (h : 4096 < n.getD 16 ∨ 2 ^ 32 ≤ f.getD 1) :
    ∃ d : List Pair, s.doLogJournal c j n f = s.finishLine c j [] (err .range d) := by
  unfold State.doLogJournal
  exact State.checked_refused_code (by simpa using h) (by simp [badKey, err])

end

/-- The entries of a list that satisfy a test, paired with their places, are as many as the entries that do. -/
theorem length_filter_zipIdx {α : Type} (p : α → Bool) (l : List α) : (l.zipIdx.filter fun x => p x.1).length = l.countP p := by
  rw [← List.countP_eq_length_filter, ← Function.comp_def p, ← List.countP_map, List.zipIdx_map_fst]

/-! ### assay sensors, offsets and sentinel (R137) -/

/-- What the checks of a line that names a block refuse. -/
def State.blockBarred (s : State) (ch : Fin 128) (block : Nat) : Prop :=
  s.sys.st = .boot ∨ s.chamberHere ch = false ∨ ((s.prof ch).map (·.blocks)).getD 0 ≤ block

theorem State.doAssaySensors_boot (h : s.sys.st = .boot) : s.doAssaySensors c j = s.finishLine c j [] (err .state []) := by
  unfold State.doAssaySensors
  rw [checked_cons, if_pos (by simp [State.isSt, h])]

theorem State.doAssaySensors_shows (h : s.sys.st ≠ .boot) : s.doAssaySensors c j =
    s.finishLine c j [[("die_c", .int (wholeC s.assay.dieQ))], s.populated.map fun (ch : Fin 128) => ("temp_c", .int (s.chamberTemp ch).1),
      [natOf "vddc_mv" (s.assay.railMv.toList.getD 2 0), natOf "ctl_mw" s.assay.ctlMw, natOf "isns_ma" s.assay.isnsMa]] (ok []) :=
  State.checked_passes (by simp [State.isSt, h])

section
variable {ch : Fin 128} {block : Nat}

theorem State.blockBarred_iff : s.blockBarred ch block ↔ ∃ x ∈ s.assayChecks ch block, x.1 = true := by
  simp [State.blockBarred, State.assayChecks, State.isSt]

theorem State.assayChecks_errors : ∀ x ∈ s.assayChecks ch block, ∃ (k : ErrCode) (d : List Pair), x.2 = err k d := by
  simp [State.assayChecks, badKey, err]

/-- A line that names a block it cannot have ends with an error, which its checks alone decide. -/
theorem State.assayChecks_refuse (h : s.blockBarred ch block) :
    ∃ (k : ErrCode) (d : List Pair), ∀ act : State → State, s.checked c j (s.assayChecks ch block) act = s.finishLine c j [] (err k d) := by
  obtain ⟨-, ⟨k, d, rfl⟩, hact⟩ := State.checked_refused_by (s := s) (c := c) (j := j)
    (P := fun st => ∃ (k : ErrCode) (d : List Pair), st = err k d) (State.blockBarred_iff.1 h) State.assayChecks_errors
  exact ⟨k, d, hact⟩

theorem State.assayChecks_pass (h : ¬s.blockBarred ch block) {act : State → State} : s.checked c j (s.assayChecks ch block) act = act s :=
  State.checked_passes (by simpa [State.blockBarred_iff] using h)

/-- The read of a closed block's sentinel: slot 20, counted as a read of the block (R215). -/
def State.sentinelOf (s : State) (ch : Fin 128) (block : Nat) (raw : Option (List Nat)) : Option Nat × State :=
  (s.countRead (ch.val * 65536 + block) 1).sentinelRead (ch.val * 65536 + block) (s.pagesOf (ch.val * 65536 + block) - 1)
    (s.blk (ch.val * 65536 + block)).pslc raw

/-- The reply to a sentinel that was read, or that timed out (log entry 63). -/
def sentinelStatus : Option Nat → Status
  | some n => ok [natOf "flips" n]
  | none => err .timeout []

/-- The lines about a block's offsets that cannot have the block both end with the error of that check. -/
theorem State.doAssay_barred (raw : Option (List Nat)) (h : s.blockBarred ch block) : ∃ (k : ErrCode) (d : List Pair),
    s.doAssayOffsets c j ch block = s.finishLine c j [] (err k d) ∧ s.doAssaySentinel c j ch block raw = s.finishLine c j [] (err k d) := by
  obtain ⟨k, d, hact⟩ := State.assayChecks_refuse (c := c) (j := j) h
  refine ⟨k, d, hact _, ?_⟩
  unfold State.doAssaySentinel
  rw [State.checked_append]
  exact hact _

/-- `assay offsets`: the vector of the block's group, its age and its temperature. -/
theorem State.doAssayOffsets_shows (h : ¬s.blockBarred ch block) : s.doAssayOffsets c j ch block =
    s.finishLine c j [] (ok (s.groupPairs ch (block / 64) ++ [("age_s", if (s.ofs ch (block / 64)).searched then
      .nat ((s.sys.life + 2 ^ 32 - (s.ofs ch (block / 64)).secs) % 2 ^ 32) else .word "none"), ("temp_c", .int (s.ofs ch (block / 64)).temp)])) :=
  State.assayChecks_pass h

/-! A sentinel is refused for an open block, for a sealed one, and for a chamber that is not free (log entries 49 and 63). -/

section
variable (c : LineCtx) (j : Option Nat) (raw : Option (List Nat)) (h : ¬s.blockBarred ch block)
include h

theorem State.doAssaySentinel_open (hst : (s.blk (ch.val * 65536 + block)).st ≠ .closed) :
    s.doAssaySentinel c j ch block raw = s.finishLine c j [] (err .state [word "open"]) := by
  unfold State.doAssaySentinel
  rw [State.checked_append, State.assayChecks_pass h, checked_cons, if_pos (bne_iff_ne.2 hst)]

variable (hst : (s.blk (ch.val * 65536 + block)).st = .closed)
include hst

theorem State.doAssaySentinel_sealed (hsealed : (s.blk (ch.val * 65536 + block)).sealed = true) :
    s.doAssaySentinel c j ch block raw = s.finishLine c j [] (err .state [word "sealed"]) := by
  unfold State.doAssaySentinel
  rw [State.checked_append, State.assayChecks_pass h, checked_cons, if_neg (by simp [hst]), checked_cons, if_pos hsealed]

variable (hsealed : (s.blk (ch.val * 65536 + block)).sealed = false)
include hsealed

theorem State.doAssaySentinel_busy (hrun : s.mayRun ch = false) : s.doAssaySentinel c j ch block raw = s.finishLine c j [] (err .busy []) := by
  unfold State.doAssaySentinel
  rw [State.checked_append, State.assayChecks_pass h, checked_cons, if_neg (by simp [hst]), checked_cons, if_neg (by simp [hsealed]), checked_cons,
    if_pos (by simp [hrun])]

theorem State.doAssaySentinel_reads (hrun : s.mayRun ch = true) {r : Option Nat} {u : State} (hread : s.sentinelOf ch block raw = (r, u)) :
    s.doAssaySentinel c j ch block raw = u.finishLine c j [] (sentinelStatus r) := by
  unfold State.sentinelOf at hread
  unfold State.doAssaySentinel
  rw [State.checked_append, State.assayChecks_pass h, checked_cons, if_neg (by simp [hst]), checked_cons, if_neg (by simp [hsealed]), checked_cons,
    if_neg (by simp [hrun]), checked_nil, hread]
  cases r <;> rfl

end
end
end

end Sys2Proof.Machine

namespace Sys2Proof
open Machine

/-- Settles O50: a line that is not recorded does its work in the state it meets, and the work has one lemma for each outcome. -/
theorem readingLines : Obligations.ReadingLines := by
  refine ⟨fun s l ht => ⟨fun c => ⟨fun h => ?_, fun h => ?_⟩, fun o h => ?_, fun w => ?_, fun n f => ⟨fun hn hf => ?_, fun h => ?_⟩, ?_,
      fun n => ?_, ?_, fun t => ?_, ?_⟩,
    fun s l c block raw ht => ⟨fun h => ?_, fun h => ?_, fun h => ?_, fun h => ⟨?_, fun hst => ?_, fun hst hsealed => ?_,
      fun hst hsealed => ⟨fun hrun => ?_, fun hrun r u hread => ?_⟩⟩⟩⟩
  · exact exec_reads rfl rfl ht ((State.doShow_chamber c).trans (if_pos h))
  · exact exec_reads rfl rfl ht ((State.doShow_chamber c).trans (if_neg (by simp [h])))
  · exact exec_reads rfl rfl ht (State.doShow_of_ne h)
  · exact exec_reads rfl rfl ht rfl
  · exact exec_reads rfl rfl ht (State.doLogJournal_lists hn hf)
  · obtain ⟨d, hact⟩ := State.doLogJournal_refused (s := s) (c := l) (j := none) h
    exact ⟨d, exec_reads rfl rfl ht hact⟩
  · exact ⟨_, exec_reads rfl rfl ht rfl, by rw [List.length_map, ← List.countP_eq_length_filter]⟩
  · exact ⟨_, exec_reads rfl rfl ht rfl, by rw [List.length_map, List.length_drop]; omega⟩
  · exact ⟨_, exec_reads rfl rfl ht rfl, by rw [List.length_map, length_filter_zipIdx (· != 0)]⟩
  · exact exec_reads rfl rfl ht rfl
  · exact exec_reads rfl rfl ht rfl
  · exact exec_reads rfl rfl ht (State.doAssaySensors_boot h)
  · exact exec_reads rfl rfl ht (State.doAssaySensors_shows h)
  · obtain ⟨k, d, hofs, hsentinel⟩ := State.doAssay_barred (c := l) (j := none) raw h
    exact ⟨k, d, exec_reads rfl rfl ht hofs, exec_reads rfl rfl ht hsentinel⟩
  · exact exec_reads rfl rfl ht (State.doAssayOffsets_shows h)
  · have hact := State.doAssaySentinel_open l none raw h hst
    exact exec_reads rfl rfl ht hact
  · have hact := State.doAssaySentinel_sealed l none raw h hst hsealed
    exact exec_reads rfl rfl ht hact
  · have hact := State.doAssaySentinel_busy l none raw h hst hsealed hrun
    exact exec_reads rfl rfl ht hact
  · have hact := State.doAssaySentinel_reads l none raw h hst hsealed hrun hread
    exact ⟨fun n hr => exec_reads rfl rfl ht (by subst hr; exact hact), fun hr => exec_reads rfl rfl ht (by subst hr; exact hact)⟩

end Sys2Proof
end

section
/-! The lines that run and stop work (R117, R132 to R134, R202, R203): one lemma for each outcome of a line. -/

namespace Sys2Proof.Machine

section
variable {s : State} {c : LineCtx} {j : Option Nat}

/-! ### run test (R117) -/

theorem State.doRunTest_eq : s.doRunTest c j =
    if s.testAllowed = false then s.finishLine c j [] (err .state []) else (s.enter .test).finishLine c j [] (ok []) := by
  unfold State.doRunTest
  rw [checked_cons, checked_nil]
  simp only [Bool.not_eq_true']

/-! ### run op (R132) -/

section
variable {ch : Fin 128} {list kind block page buf len : Nat} {force : Bool}

/-- What the checks of a `run op` refuse: a key out of range, the state, a chamber or a list that is not there, and a gallery that is not in service
(log entry 63). -/
def State.opBarred (s : State) (ch : Fin 128) (list block page buf len : Nat) : Prop :=
  63 < list ∨ buf < 0x20000000 ∨ 0x21800000 ≤ buf ∨ buf % 8 ≠ 0 ∨ 18432 < len ∨ len % 8 ≠ 0 ∨ s.isSt .test = false ∨
    s.chamberHere ch = false ∨ ((s.prof ch).map (·.blocks)).getD 0 ≤ block ∨
    ((s.prof ch).map fun (p : Profile) => max p.pagesNative p.pagesPslc).getD 0 ≤ page ∨
    (s.gals.get (galOf ch)).slots.getD list none = none ∨ (s.gals.get (galOf ch)).inService = false

/-- The checks of a `run op`, that of its gallery last. -/
def State.opChecks (s : State) (ch : Fin 128) (list block page buf len : Nat) : List (Bool × Status) :=
  [(decide (list > 63), badKey "list" (.nat list)), (decide (buf < 0x20000000 ∨ buf ≥ 0x21800000 ∨ buf % 8 ≠ 0), badKey "buf" (.hex 4 buf)),
    (decide (len > 18432 ∨ len % 8 ≠ 0), badKey "len" (.nat len)), (!s.isSt .test, err .state []), (!s.chamberHere ch, err .absent []),
    (decide (block ≥ ((s.prof ch).map (·.blocks)).getD 0), badKey "block" (.nat block)),
    (decide (page ≥ ((s.prof ch).map fun (p : Profile) => max p.pagesNative p.pagesPslc).getD 0), badKey "page" (.nat page)),
    (((s.gals.get (galOf ch)).slots.getD list none).isNone, err .absent [natOf "list" list]),
    (!(s.gals.get (galOf ch)).inService, err .state [])]

theorem State.opBarred_iff : s.opBarred ch list block page buf len ↔ ∃ x ∈ s.opChecks ch list block page buf len, x.1 = true := by
  simp [State.opBarred, State.opChecks, or_assoc]

/-- What a `run op` comes to on a gallery in service (R132, R202, R203; log entries 48 and 63). -/
def State.opOutcome (s : State) (c : LineCtx) (j : Option Nat) (ch : Fin 128) (list kind block page buf len : Nat) (force : Bool) : State :=
  if writeKind kind = true ∧ force = false ∧ s.suspect ch = true then (s.runOpRefuse ch list .suspect).finishLine c j [] (err .state [word "suspect"])
  else if writeKind kind = true ∧ s.brownWarning = true then s.finishLine c j [] (err .state [word "supply"])
  else if s.chamberIdle ch = false ∨ s.mayRun ch = false then s.finishLine c j [] (err .busy [])
  else if writeKind kind = true ∧ force = false ∧ (s.gals.get (galOf ch)).passes (s.rawOp ch 0 kind block page) = false then
    (s.runOpOrder ch list).finishLine c j [] (err .state [word "order"])
  else s.runOpStart c j ch list kind block page buf len force

theorem State.runOpList_eq : s.runOpList c j ch list kind block page buf len force =
    s.checked c j [(!(s.gals.get (galOf ch)).inService, err .state [])] fun t => t.opOutcome c j ch list kind block page buf len force := by
  unfold State.runOpList State.opOutcome
  simp only [checked_cons, checked_nil, Bool.and_eq_true, Bool.or_eq_true, Bool.not_eq_true', and_assoc]

theorem State.doRunOp_eq : s.doRunOp c j ch list block page buf len force =
    s.checked c j (s.opChecks ch list block page buf len) fun t =>
      t.opOutcome c j ch list ((t.gals.get (galOf ch)).kindOf list) block page buf len force := by
  unfold State.doRunOp
  exact State.checked_then State.runOpList_eq

theorem State.doRunOp_barred (h : s.opBarred ch list block page buf len) :
    ∃ (k : ErrCode) (d : List Pair), s.doRunOp c j ch list block page buf len force = s.finishLine c j [] (err k d) := by
  rw [State.doRunOp_eq]
  exact State.checked_refused (State.opBarred_iff.1 h) (by simp [State.opChecks, badKey, err])

theorem State.doRunOp_passes (h : ¬s.opBarred ch list block page buf len) : s.doRunOp c j ch list block page buf len force =
    s.opOutcome c j ch list ((s.gals.get (galOf ch)).kindOf list) block page buf len force := by
  rw [State.doRunOp_eq]
  exact State.checked_passes (by simpa [State.opBarred_iff] using h)

end

/-! ### run train, run checkpoint, run patrol (R133) -/

theorem State.doRunTrain_eq (g : Fin 8) : s.doRunTrain c j g =
    if (s.gals.get g).profile = none ∨ s.settings.galEnable.get g = false then s.finishLine c j [] (err .state [])
    else (s.markRetrain g).run ⟨c, .train g, j⟩ := by
  unfold State.doRunTrain
  rw [checked_cons, checked_nil]
  simp only [Bool.or_eq_true, Option.isNone_iff_eq_none, Bool.not_eq_true']

theorem State.doRunCheckpoint_eq : s.doRunCheckpoint c j =
    if s.isSt .test = true ∨ s.mapUp = false then s.finishLine c j [] (err .state [])
    else State.run { s with map := { s.map with ckptWant := true } } ⟨c, .checkpoint, j⟩ := by
  unfold State.doRunCheckpoint
  rw [checked_cons, checked_nil]
  simp only [Bool.or_eq_true, Bool.not_eq_true']

/-- The blocks that a patrol reads: a thirty-second of the patrol table, from its position on. -/
def State.patrolShare (s : State) : List Nat := patrolled s.patrolTableNow s.map.patrolPos (ceilDiv s.patrolTableNow.length 32)

/-- Every chamber that a patrol reads is free. -/
def State.patrolFree (s : State) : Prop := ∀ n ∈ s.patrolShare, ∀ k : Nat, s.ofDevBlock n = some k → s.mayRun (chOfBlk k) = true

theorem State.patrolFree_iff : s.patrolFree ↔ (s.patrolShare.all fun n => (s.ofDevBlock n).all fun k => s.mayRun (chOfBlk k)) = true := by
  simp only [State.patrolFree, List.all_eq_true, Option.all_eq_true]

/-- A patrol that is not refused: a `stop` line that meets it ends it at the block that it reads (R133, R134; log entry 48). -/
def State.patrolGoes (s : State) (c : LineCtx) (j : Option Nat) (raws : List (Option (List Nat))) (stop : Option LineCtx) : State :=
  let halt : Bool × State := s.stopMaybe stop
  let ks : List Nat := if halt.1 then s.patrolShare.take (max 1 raws.length) else s.patrolShare
  let r : Nat × State := halt.2.patrolBlocks s.patrolTableNow (ks.zipIdx.map fun (x : Nat × Nat) => (x.1, raws.getD x.2 (some [])))
  let u : State := r.2.patrolMove ks
  State.finishLine { u with sys := { u.sys with lastPatrol := u.sys.life } } c j []
    (ok (if halt.1 then [("stopped", .flag true), natOf "blocks" ks.length] else [natOf "blocks" ks.length, natOf "over" r.1]))

section
variable {raws : List (Option (List Nat))} {stop : Option LineCtx}

theorem State.doRunPatrol_state (h : s.isSt .test = true ∨ s.mapUp = false ∨ 2 < s.sys.ps.val) :
    s.doRunPatrol c j raws stop = s.finishLine c j [] (err .state []) := by
  unfold State.doRunPatrol
  rw [checked_cons, if_pos (by simpa [or_assoc] using h)]

section
variable (htest : s.isSt .test = false) (hmap : s.mapUp = true) (hps : s.sys.ps.val ≤ 2)
include htest hmap hps

theorem State.doRunPatrol_busy (h : ¬s.patrolFree) : s.doRunPatrol c j raws stop = s.finishLine c j [] (err .busy []) := by
  have hall : (!(s.patrolShare.all fun n => (s.ofDevBlock n).all fun k => s.mayRun (chOfBlk k))) = true := by
    rwa [Bool.not_eq_true', ← Bool.not_eq_true, ← State.patrolFree_iff]
  unfold State.doRunPatrol
  rw [checked_cons, if_neg (by simp [htest, hmap, hps]), checked_nil, checked_cons]
  exact if_pos hall

theorem State.doRunPatrol_goes (h : s.patrolFree) : s.doRunPatrol c j raws stop = s.patrolGoes c j raws stop := by
  have hall : ¬(!(s.patrolShare.all fun n => (s.ofDevBlock n).all fun k => s.mayRun (chOfBlk k))) = true := by
    rw [State.patrolFree_iff.1 h]; decide
  unfold State.doRunPatrol
  rw [checked_cons, if_neg (by simp [htest, hmap, hps]), checked_nil, checked_cons]
  refine (if_neg hall).trans ?_
  rw [checked_nil]
  unfold State.patrolGoes State.patrolShare
  generalize s.stopMaybe stop = halt
  obtain ⟨halt, t⟩ := halt
  rfl

end
end

/-! ### stop (R134) -/

theorem State.doStop_idle (h : s.con.busy = false) : s.doStop c j = s.finishLine c j [] (err .absent []) := by
  unfold State.doStop; rw [h]; rfl

/-- A `move` or `fill` that runs has its channel stopped. -/
theorem State.doStop_dma {c' : LineCtx} {n : Fin 8} {fill : Bool} {k : Option Nat} (h : s.con.running = some ⟨c', .dma n fill, k⟩) :
    s.doStop c j = (s.dmaStop n).finishLine c j [] (ok []) := by
  unfold State.doStop Console.busy; rw [h]; rfl

/-- Any other line that runs is answered for: it ends at its own safe point. -/
theorem State.doStop_other (hbusy : s.con.busy = true) (h : ∀ (c' : LineCtx) (n : Fin 8) (fill : Bool) (k : Option Nat),
    s.con.running ≠ some ⟨c', .dma n fill, k⟩) : s.doStop c j = s.finishLine c j [] (ok []) := by
  unfold State.doStop
  rw [if_neg (by simp [hbusy])]
  split
  · next hdma => exact absurd hdma (h _ _ _ _)
  · rfl

theorem State.doStopTest_eq : s.doStopTest c j =
    if s.isSt .test = false then s.finishLine c j [] (err .state [])
    else if s.con.stopping ≠ none then s.finishLine c j [] (err .busy [])
    else { s.leaveTest with con := { s.leaveTest.con with stopping := some ⟨c, .stopTest, j⟩ } } := by
  unfold State.doStopTest
  rw [checked_cons, checked_cons, checked_nil]
  simp only [Bool.not_eq_true', Option.isSome_iff_ne_none]

end

end Sys2Proof.Machine

namespace Sys2Proof
open Machine

/-- Settles O52: a `run` line does its work in the state of its entry, a `stop` line beside the line that runs, which its entry leaves alone. -/
theorem runLines : Obligations.RunLines := by
  refine ⟨fun s l ht => ⟨⟨fun h => ?_, fun h => ?_⟩, fun c list block page buf len force => ⟨fun h => ?_, fun h => ?_⟩,
      fun g => ⟨fun hprof hen => ?_, fun h => ?_⟩, ⟨fun htest hmap => ?_, fun h => ?_⟩,
      fun raws stop => ⟨fun h => ?_, fun htest hmap hps h => ?_, fun htest hmap hps h => ?_⟩⟩,
    fun s l hon hsound hrom => ⟨⟨fun h => ?_, fun c n b k h => ?_, fun hbusy h => ?_⟩,
      ⟨fun h hno => ?_, fun h hstop => ?_, fun h => ?_⟩, fun n => ?_⟩⟩
  · exact exec_entered rfl rfl ht (State.doRunTest_eq.trans (if_neg (by simp [h])))
  · exact exec_entered rfl rfl ht (State.doRunTest_eq.trans (if_pos h))
  · exact exec_entered_refused rfl rfl ht (State.doRunOp_barred h)
  · have hact := State.doRunOp_passes (c := l) (j := some s.bst.jNext) (force := force) h
    refine ⟨fun hbarred => exec_entered rfl rfl ht (hact.trans (if_pos hbarred)), fun hbarred hdark => exec_entered rfl rfl ht ?_,
      fun hbarred hdark hbusy => exec_entered rfl rfl ht ?_, fun hbarred hdark hidle hrun => ?_⟩
    · exact hact.trans ((if_neg hbarred).trans (if_pos hdark))
    · exact hact.trans ((if_neg hbarred).trans ((if_neg hdark).trans (if_pos hbusy)))
    · have hgoes := hact.trans ((if_neg hbarred).trans ((if_neg hdark).trans (if_neg (by simp [hidle, hrun]))))
      exact ⟨fun hout => exec_entered rfl rfl ht (hgoes.trans (if_pos hout)), fun hout => exec_entered rfl rfl ht (hgoes.trans (if_neg hout))⟩
  · exact exec_entered rfl rfl ht ((State.doRunTrain_eq g).trans (if_neg (by simp [Option.isSome_iff_ne_none.1 hprof, hen])))
  · exact exec_entered rfl rfl ht ((State.doRunTrain_eq g).trans (if_pos h))
  · exact exec_entered rfl rfl ht (State.doRunCheckpoint_eq.trans (if_neg (by simp [htest, hmap])))
  · exact exec_entered rfl rfl ht (State.doRunCheckpoint_eq.trans (if_pos h))
  · exact exec_entered rfl rfl ht (State.doRunPatrol_state h)
  · exact exec_entered rfl rfl ht (State.doRunPatrol_busy htest hmap hps h)
  · exact exec_entered rfl rfl ht (State.doRunPatrol_goes htest hmap hps h)
  · exact exec_stops (n := 0) (.inl rfl) hon hsound hrom (State.doStop_idle (by simpa using h))
  · exact exec_stops (n := 0) (.inl rfl) hon hsound hrom (State.doStop_dma (by simpa using h))
  · exact exec_stops (n := 0) (.inl rfl) hon hsound hrom (State.doStop_other (by simpa using hbusy) (by simpa using h))
  · exact exec_stops (n := 0) (.inr (.inl rfl)) hon hsound hrom (State.doStopTest_eq.trans ((if_neg (by simp [h])).trans (if_neg (by simp [hno]))))
  · exact exec_stops (n := 0) (.inr (.inl rfl)) hon hsound hrom (State.doStopTest_eq.trans ((if_neg (by simp [h])).trans (if_pos (by simpa using hstop))))
  · exact exec_stops (n := 0) (.inr (.inl rfl)) hon hsound hrom (State.doStopTest_eq.trans (if_pos h))
  · exact exec_stops (.inr (.inr rfl)) hon hsound hrom rfl

end Sys2Proof
end

section
/-! The lines that change the state of the device (R135, R136, R138, R525): one lemma for each outcome of a line. -/

namespace Sys2Proof.Machine

section
variable {s : State} {c : LineCtx} {j : Option Nat}

/-! ### reset (R135) -/

section
variable {level : Option Nat} {unit : Option UnitName}

theorem State.doReset_level (h : 4 < level.getD 2) :
    s.doReset c j level unit = s.finishLine c j [] (err .range [("level", .nat (level.getD 2))]) := if_pos h

/-- The Map engine and the Keeper are not units that a line resets. -/
theorem State.doReset_noUnit (hlevel : level.getD 2 ≤ 4) (h : unit = some .map ∨ unit = some .keeper) :
    s.doReset c j level unit = s.finishLine c j [] (err .unknown [word ("unit=" ++ (unit.map UnitName.word).getD "")]) :=
  (if_neg (Nat.not_lt.2 hlevel)).trans (if_pos h)

/-- A reset of the device is answered before it is taken, and discards the lines of the UART that wait; its unit is
ignored (log entry 47). -/
theorem State.doReset_device (hlevel : level.getD 2 < 4) (hmap : unit ≠ some .map) (hkpr : unit ≠ some .keeper) :
    s.doReset c j level unit = State.requestReset { s.finishLine c j [] (ok []) with con := { (s.finishLine c j [] (ok [])).con with
      queue := (s.finishLine c j [] (ok [])).con.queue.filter fun (q : QLine) => q.ctx.path != .uart } } 7 (level.getD 2) :=
  (if_neg (Nat.not_lt.2 hlevel.le)).trans ((if_neg (not_or.2 ⟨hmap, hkpr⟩)).trans (if_pos hlevel))

theorem State.doReset_unnamed (hlevel : level.getD 2 = 4) : s.doReset c j level none = s.finishLine c j [] (err .badForm [word "unit="]) :=
  (if_neg (Nat.not_lt.2 hlevel.le)).trans ((if_neg (by simp)).trans (if_neg (Nat.not_lt.2 hlevel.ge)))

theorem State.doReset_one {u : UnitName} (hlevel : level.getD 2 = 4) (hmap : u ≠ .map) (hkpr : u ≠ .keeper) :
    s.doReset c j level (some u) = s.doUnitReset c j u :=
  (if_neg (Nat.not_lt.2 hlevel.le)).trans ((if_neg (by simp [hmap, hkpr])).trans (if_neg (Nat.not_lt.2 hlevel.ge)))

end

section
variable {u : UnitName} {t : State}

theorem State.doUnitReset_busy (h : s.requestUnit u 7 = (false, t)) :
    s.doUnitReset c j u = t.finishLine c j [] (err .busy [word ("unit=" ++ u.word)]) := by
  unfold State.doUnitReset; rw [h]

theorem State.doUnitReset_taken (h : s.requestUnit u 7 = (true, t)) :
    s.doUnitReset c j u = if t.resetTrains u = true then t.run ⟨c, .reset u, j⟩ else t.finishLine c j [] (ok []) := by
  unfold State.doUnitReset; rw [h]

end

/-! ### sleep (R136) -/

theorem State.doSleep_eq (ps : Option Nat) : s.doSleep c j ps =
    if ps.getD 4 ≠ 3 ∧ ps.getD 4 ≠ 4 then s.finishLine c j [] (err .range [("ps", .nat (ps.getD 4))])
    else if s.isSt .service = false then s.finishLine c j [] (err .state [])
    else if s.isMaster = true ∧ s.front.en = true then s.finishLine c j [] (err .state [word "host"])
    else (s.wantPs (if ps.getD 4 = 3 then 3 else 4)).run ⟨c, .sleep, j⟩ := by
  unfold State.doSleep
  simp only [checked_cons, checked_nil, decide_eq_true_eq, Bool.not_eq_true', Bool.and_eq_true, badKey]

/-! ### lock and unlock (R138, R525) -/

/-- What the checks of a `lock data` refuse: a password out of its range, the state, a password that is set, one that is not, and a lock that waits. -/
def State.lockBarred (s : State) (pw : Option (List Byte)) : Prop :=
  (∃ p : List Byte, pw = some p ∧ (p.length < 1 ∨ 32 < p.length)) ∨ s.lockStates = false ∨ (pw ≠ none ∧ s.vault.lock ≠ .isOpen) ∨
    (pw = none ∧ s.vault.lock = .isOpen) ∨ s.vault.lockWait ≠ none

/-- The checks of a `lock data`. -/
def State.lockChecks (s : State) (pw : Option (List Byte)) : List (Bool × Status) :=
  [((pw.map badPassword).getD false, err .range [word "password"]), (!s.lockStates, err .state []),
    (pw.isSome && s.vault.lock == .unlocked, err .state [word "password"]), (pw.isSome && s.locked, err .locked []),
    (!pw.isSome && s.vault.lock == .isOpen, err .state []), (s.vault.lockWait.isSome, err .busy [])]

/-- Data that is not open to a first password is unlocked or locked. -/
theorem LockState.ne_isOpen (x : LockState) : x ≠ .isOpen ↔ x = .unlocked ∨ x = .locked := by cases x <;> decide

theorem State.lockBarred_iff (pw : Option (List Byte)) : s.lockBarred pw ↔ ∃ x ∈ s.lockChecks pw, x.1 = true := by
  cases pw with
  | none => simp [State.lockBarred, State.lockChecks, ← Option.ne_none_iff_isSome]
  | some p => simp [State.lockBarred, State.lockChecks, badPassword, State.locked, LockState.ne_isOpen, ← Option.ne_none_iff_isSome, or_assoc]

theorem State.doLock_barred {pw : Option (List Byte)} (h : s.lockBarred pw) :
    ∃ (k : ErrCode) (d : List Pair), s.doLock c j pw = s.finishLine c j [] (err k d) := by
  unfold State.doLock
  exact State.checked_refused ((State.lockBarred_iff pw).1 h) (by simp [err])

theorem State.doLock_passes {pw : Option (List Byte)} (h : ¬s.lockBarred pw) : s.doLock c j pw =
    if s.locked = true then s.finishLine c j [] (ok [])
    else State.lockTry (State.run { s with vault := { s.vault with lockWait := some (.line c j pw) } } ⟨c, .password, j⟩) := by
  unfold State.doLock
  exact State.checked_passes (cs := s.lockChecks pw) (by simpa [State.lockBarred_iff] using h)

theorem State.doUnlock_eq (pw : List Byte) : s.doUnlock c j pw =
    if pw.length < 1 ∨ 32 < pw.length then s.finishLine c j [] (err .range [word "password"])
    else if s.lockStates = false then s.finishLine c j [] (err .state [])
    else if s.locked = true then (s.beginCheck (.unlockLine c j) pw).run ⟨c, .password, j⟩ else s.finishLine c j [] (ok []) := by
  unfold State.doUnlock badPassword
  simp only [checked_cons, checked_nil, decide_eq_true_eq, Bool.not_eq_true', gt_iff_lt]

end

end Sys2Proof.Machine

namespace Sys2Proof
open Machine

/-- Settles O53: each line does its work in the state of its entry, and the work has one lemma for each outcome. -/
theorem stateLines : Obligations.StateLines := by
  refine fun s l ht => ⟨fun n unit => ⟨fun h => ?_, fun hn h => ?_, fun hn hmap hkpr => ?_, fun hn hu => ?_, fun u hn hu hmap hkpr => ?_⟩,
    fun ps => ⟨fun h3 h4 => ?_, fun h => ?_⟩, fun pw => ⟨fun h => ?_, fun h hlocked => ?_, fun h hlocked => ?_⟩,
    fun pw => ⟨fun h => ?_, fun h1 h32 => ?_⟩⟩
  · exact exec_entered rfl rfl ht (State.doReset_level h)
  · exact ⟨_, exec_entered rfl rfl ht (State.doReset_noUnit hn h)⟩
  · exact exec_entered rfl rfl ht (State.doReset_device hn hmap hkpr)
  · subst hu; exact exec_entered rfl rfl ht (State.doReset_unnamed hn)
  · subst hu
    refine ⟨fun hr => ?_, fun hr htrains => ?_, fun hr htrains => ?_⟩
    · exact exec_entered rfl rfl ht ((State.doReset_one hn hmap hkpr).trans (State.doUnitReset_busy (Prod.ext hr rfl)))
    · exact exec_entered rfl rfl ht ((State.doReset_one hn hmap hkpr).trans ((State.doUnitReset_taken (Prod.ext hr rfl)).trans (if_pos htrains)))
    · exact exec_entered rfl rfl ht
        ((State.doReset_one hn hmap hkpr).trans ((State.doUnitReset_taken (Prod.ext hr rfl)).trans (if_neg (by simp [htrains]))))
  · exact exec_entered rfl rfl ht ((State.doSleep_eq ps).trans (if_pos ⟨h3, h4⟩))
  · have hact := (State.doSleep_eq (s := s.entered l (.sleep l ps)) (c := l) (j := some s.bst.jNext) ps).trans (if_neg (by omega))
    refine ⟨fun hst => exec_entered rfl rfl ht (hact.trans (if_pos hst)), fun hst hm hen => ?_, fun hst hfree => ?_⟩
    · exact exec_entered rfl rfl ht (hact.trans ((if_neg (by simp [hst])).trans (if_pos ⟨hm, hen⟩)))
    · exact exec_entered rfl rfl ht (hact.trans ((if_neg (by simp [hst])).trans (if_neg fun hhost => by simp [hhost] at hfree)))
  · exact exec_entered_refused rfl rfl ht (State.doLock_barred h)
  · exact exec_entered rfl rfl ht ((State.doLock_passes h).trans (if_pos hlocked))
  · exact exec_entered rfl rfl ht ((State.doLock_passes h).trans (if_neg (by simp [hlocked])))
  · exact exec_entered rfl rfl ht ((State.doUnlock_eq pw).trans (if_pos h))
  · have hact := (State.doUnlock_eq (s := s.entered l (.unlockData l pw)) (c := l) (j := some s.bst.jNext) pw).trans (if_neg (by omega))
    refine ⟨fun hst => exec_entered rfl rfl ht (hact.trans (if_pos hst)), fun hst hlocked => ?_, fun hst hlocked => ?_⟩
    · exact exec_entered rfl rfl ht (hact.trans ((if_neg (by simp [hst])).trans (if_pos hlocked)))
    · exact exec_entered rfl rfl ht (hact.trans ((if_neg (by simp [hst])).trans (if_neg (by simp [hlocked]))))

end Sys2Proof
end

section
/-! The lines that read, write, move and fill memory (R129 to R131): one lemma for each outcome of a line. -/

namespace Sys2Proof.Machine

/-! ### rd and wr (R129, R130) -/

/-- A width or an address that `rd` and `wr` refuse. -/
def spanBarred (a w : Nat) : Prop := (w ≠ 1 ∧ w ≠ 2 ∧ w ≠ 4 ∧ w ≠ 8) ∨ 2 ^ 32 ≤ a ∨ a % w ≠ 0

theorem spanBarred_iff (a w : Nat) : spanBarred a w ↔ ∃ x ∈ spanChecks a w, x.1 = true := by
  simp [spanBarred, spanChecks]

theorem spanChecks_range (a w : Nat) : ∀ x ∈ spanChecks a w, ∃ d : List Pair, x.2 = err .range d := by
  simp [spanChecks, badKey, err]

/-- A triple whose middle part is known. -/
theorem eq_of_snd_fst {α β γ : Type} {p : α × β × γ} {b : β} (h : p.2.1 = b) : p = (p.1, b, p.2.2) := Prod.ext rfl (Prod.ext h rfl)

/-- The status of units that were all done, or that ended early. -/
def unitStatus (more : List Pair) : Option (Acc × Nat) → Status
  | none => ok []
  | some (o, b) => faultStatus o b more

section
variable {s : State} {c : LineCtx} {j : Option Nat} {a w : Nat}

theorem State.doRd_barred {n : Nat} (h : spanBarred a w ∨ n < 1 ∨ 64 < n) :
    ∃ d : List Pair, s.doRd c j a n w = s.finishLine c j [] (err .range d) := by
  unfold State.doRd
  exact State.checked_refused_code (by simpa [spanBarred_iff, or_comm] using h) (List.forall_mem_cons.2 ⟨⟨_, rfl⟩, spanChecks_range a w⟩)

/-- The units that were read are printed, and after them how the reading ended. -/
theorem State.doRd_reads {n : Nat} (h : ¬spanBarred a w) (hn : 1 ≤ n) (h64 : n ≤ 64) {vs : List Nat} {f : Option (Acc × Nat)} {u : State}
    (hread : s.rdUnits w n a = (vs, f, u)) : s.doRd c j a n w = u.finishLine c j (unitLines a w vs) (unitStatus [] f) := by
  unfold State.doRd
  refine (State.checked_passes ?_).trans ?_
  · simpa [spanBarred_iff, hn, h64, Nat.one_le_iff_ne_zero.1 hn] using h
  · rw [hread]
    cases f <;> rfl

/-- What the checks of a `wr` refuse: the number of its values, its width and address, and a value wider than a unit. -/
def wrBarred (a w : Nat) (ds : List Nat) : Prop := ds.length < 1 ∨ 8 < ds.length ∨ spanBarred a w ∨ (wideVal w ds).isSome = true

/-- The checks of a `wr`. -/
def wrChecks (a w : Nat) (ds : List Nat) : List (Bool × Status) :=
  (decide (ds.length < 1 ∨ ds.length > 8), err .badForm [word "d0"]) :: spanChecks a w ++
    [((wideVal w ds).isSome, err .range [word ("d" ++ digit (Fin.ofNat 8 (((wideVal w ds).map (·.2)).getD 0)))])]

section
variable {ds : List Nat}

theorem wrBarred_iff : wrBarred a w ds ↔ ∃ x ∈ wrChecks a w ds, x.1 = true := by
  simp [wrBarred, wrChecks, spanBarred_iff, or_and_right, exists_or, or_assoc]

theorem State.doWr_barred (h : wrBarred a w ds) : ∃ (k : ErrCode) (d : List Pair), s.doWr c j a w ds = s.finishLine c j [] (err k d) := by
  have herr : ∀ x ∈ wrChecks a w ds, ∃ (k : ErrCode) (d : List Pair), x.2 = err k d := by
    simp only [wrChecks, List.cons_append, List.forall_mem_cons, List.forall_mem_append]
    exact ⟨⟨_, _, rfl⟩, fun x hx => ⟨_, spanChecks_range a w x hx⟩, ⟨_, _, rfl⟩, by simp⟩
  unfold State.doWr
  exact State.checked_refused (wrBarred_iff.1 h) herr

section
variable (h : ¬wrBarred a w ds) {n : Nat} {u : State}
include h

theorem wrChecks_pass : ∀ x ∈ wrChecks a w ds, x.1 = false := by simpa [wrBarred_iff] using h

/-- A unit that is refused stops the line, which says how many were written. -/
theorem State.doWr_stops {o : Acc} {b : Nat} (hwrite : s.wrUnits w a ds = (n, some (o, b), u)) :
    s.doWr c j a w ds = u.dmaKick.finishLine c j [] (faultStatus o b [natOf "done" n]) := by
  unfold State.doWr
  refine (State.checked_passes (wrChecks_pass h)).trans ?_
  rw [hwrite]

/-- Units that were all written are answered for by the read back of the last. -/
theorem State.doWr_writes {g : Option (Acc × Nat)} {v : State} (hwrite : s.wrUnits w a ds = (n, none, u)) (hread : u.readBack a w n = (g, v)) :
    s.doWr c j a w ds = v.dmaKick.finishLine c j [] (unitStatus [natOf "done" n] g) := by
  unfold State.doWr
  refine (State.checked_passes (wrChecks_pass h)).trans ?_
  rw [hwrite]
  dsimp only
  rw [hread]
  cases g <;> rfl

end
end
end

/-! ### move and fill (R131) -/

section
variable {s : State} {c : LineCtx} {j : Option Nat} {src dst len lines : Nat} {ss ds : Option Int} {ovl : Bool} {pri : Option Nat}

/-- What the checks that `move` and `fill` share refuse: a key out of range, and a channel that runs. -/
def State.dmaBarred (s : State) (dst len : Nat) (pri : Option Nat) : Prop :=
  2 ^ 32 ≤ dst ∨ 16777215 < len ∨ 3 < pri.getD 0 ∨ s.dmaBusy s.settings.dmaConsoleCh = true

theorem State.dmaBarred_iff : s.dmaBarred dst len pri ↔ ∃ x ∈ s.dmaChecks dst len pri, x.1 = true := by
  simp [State.dmaBarred, State.dmaChecks]

theorem State.dmaChecks_errors : ∀ x ∈ s.dmaChecks dst len pri, ∃ (k : ErrCode) (d : List Pair), x.2 = err k d := by
  simp [State.dmaChecks, badKey, err]

/-- What the checks of a `move` refuse. -/
def State.moveBarred (s : State) (src dst len lines : Nat) (ss ds : Option Int) (pri : Option Nat) : Prop :=
  2 ^ 32 ≤ src ∨ lines < 1 ∨ 65535 < lines ∨ in32 (ss.getD 0) = false ∨ in32 (ds.getD 0) = false ∨ s.dmaBarred dst len pri

/-- The checks of a `move` that `fill` does not have. -/
def moveChecks (src lines : Nat) (ss ds : Option Int) : List (Bool × Status) :=
  [(decide (src ≥ 2 ^ 32), badKey "src" (.nat src)), (decide (lines < 1 ∨ lines > 65535), badKey "lines" (.nat lines)),
    (!in32 (ss.getD 0), badKey "sstride" (.int (ss.getD 0))), (!in32 (ds.getD 0), badKey "dstride" (.int (ds.getD 0)))]

theorem State.moveBarred_iff :
    s.moveBarred src dst len lines ss ds pri ↔ ∃ x ∈ moveChecks src lines ss ds ++ s.dmaChecks dst len pri, x.1 = true := by
  simp [State.moveBarred, moveChecks, State.dmaBarred_iff, or_assoc]

theorem State.doMove_barred (h : s.moveBarred src dst len lines ss ds pri) :
    ∃ (k : ErrCode) (d : List Pair), s.doMove c j src dst len lines ss ds ovl pri = s.finishLine c j [] (err k d) := by
  have herr : ∀ x ∈ moveChecks src lines ss ds ++ s.dmaChecks dst len pri, ∃ (k : ErrCode) (d : List Pair), x.2 = err k d :=
    List.forall_mem_append.2 ⟨by simp [moveChecks, badKey, err], State.dmaChecks_errors⟩
  unfold State.doMove
  exact State.checked_refused (State.moveBarred_iff.1 h) herr

/-- A `move` that is not refused for a key: nothing to do, an overlap that is not permitted, or the console's channel runs. -/
theorem State.doMove_passes (h : ¬s.moveBarred src dst len lines ss ds pri) : s.doMove c j src dst len lines ss ds ovl pri =
    if len = 0 then s.finishLine c j [] (ok [natOf "done" 0])
    else if overlapRefused ⟨src, len, word32 (ss.getD len), lines⟩ ⟨dst, len, word32 (ds.getD len), lines⟩ ovl = true then
      s.finishLine c j [] (err .range [word "overlap"])
    else s.runConsole c j false (pri.getD s.settings.dmaConsolePri)
      [src, len, word32 (ss.getD len), lines, dst, len, word32 (ds.getD len), lines, 0, b2n ovl, 0, 0] := by
  unfold State.doMove
  exact State.checked_passes (cs := moveChecks src lines ss ds ++ s.dmaChecks dst len pri)
    (by simpa only [State.moveBarred_iff, not_exists, not_and, Bool.not_eq_true] using h)

theorem State.doFill_barred (pat : BitVec 64) (h : s.dmaBarred dst len pri) :
    ∃ (k : ErrCode) (d : List Pair), s.doFill c j dst len pat pri = s.finishLine c j [] (err k d) := by
  unfold State.doFill
  exact State.checked_refused (State.dmaBarred_iff.1 h) State.dmaChecks_errors

theorem State.doFill_passes (pat : BitVec 64) (h : ¬s.dmaBarred dst len pri) : s.doFill c j dst len pat pri =
    if len = 0 then s.finishLine c j [] (ok [natOf "done" 0])
    else s.runConsole c j true (pri.getD s.settings.dmaConsolePri)
      [0, 0, 0, 0, dst, len, len, 1, 0, 4, pat.toNat % 2 ^ 32, pat.toNat / 2 ^ 32] := by
  unfold State.doFill
  exact State.checked_passes (by simpa only [State.dmaBarred_iff, not_exists, not_and, Bool.not_eq_true] using h)

end

end Sys2Proof.Machine

namespace Sys2Proof
open Machine

/-- Settles O54: `rd` does its work in the state it meets, the other lines in the state of their entry, and the work has one lemma for each
outcome. -/
theorem transferLines : Obligations.TransferLines := by
  refine ⟨fun s l a w => ⟨fun n ht => ⟨fun h => ?_, fun h hn h64 => ?_⟩, fun ds ht => ⟨fun h => ?_, fun h1 h8 hspan hwide => ?_⟩⟩,
    fun s l dst len pri ht => ⟨fun src lines ss ds ovl => ⟨fun h => ?_, fun h hlen => ?_, fun h hlen hovl => ?_, fun h hlen hovl => ?_⟩,
      fun pat => ⟨fun h => ?_, fun h hlen => ?_, fun h hlen => ?_⟩⟩⟩
  · obtain ⟨d, hact⟩ := State.doRd_barred (s := s) (c := l) (j := none) h
    exact ⟨d, exec_reads rfl rfl ht hact⟩
  · have hact (f) (hf) := State.doRd_reads (s := s) (c := l) (j := none) (f := f) h hn h64 (eq_of_snd_fst hf)
    exact ⟨fun hdone => exec_reads rfl rfl ht (hact none hdone), fun o b hstop => exec_reads rfl rfl ht (hact (some (o, b)) hstop)⟩
  · exact exec_entered_refused rfl rfl ht (State.doWr_barred h)
  · have h : ¬wrBarred a w ds := not_or.2 ⟨Nat.not_lt.2 h1, not_or.2 ⟨Nat.not_lt.2 h8, not_or.2 ⟨hspan, by simp [hwide]⟩⟩⟩
    refine ⟨fun o b hstop => ?_, fun hdone => ?_⟩
    · have hact := State.doWr_stops (c := l) (j := some s.bst.jNext) h (eq_of_snd_fst hstop)
      exact exec_entered rfl rfl ht hact
    · have hact (g) (hg) := State.doWr_writes (c := l) (j := some s.bst.jNext) (g := g) h (eq_of_snd_fst hdone) (Prod.ext hg rfl)
      exact ⟨fun hread => exec_entered rfl rfl ht (hact none hread), fun o b hread => exec_entered rfl rfl ht (hact (some (o, b)) hread)⟩
  · exact exec_entered_refused rfl rfl ht (State.doMove_barred h)
  · exact exec_entered rfl rfl ht ((State.doMove_passes h).trans (if_pos hlen))
  · exact exec_entered rfl rfl ht ((State.doMove_passes h).trans ((if_neg hlen.ne').trans (if_pos hovl)))
  · exact exec_entered rfl rfl ht ((State.doMove_passes h).trans ((if_neg hlen.ne').trans (if_neg (Bool.eq_false_iff.1 hovl))))
  · exact exec_entered_refused rfl rfl ht (State.doFill_barred pat h)
  · exact exec_entered rfl rfl ht ((State.doFill_passes pat h).trans (if_pos hlen))
  · exact exec_entered rfl rfl ht ((State.doFill_passes pat h).trans (if_neg hlen.ne'))

end Sys2Proof
end

section
/-! The recorded lines of Assay and of firmware update (R134, R137, R139): one lemma for each outcome of a line. -/

namespace Sys2Proof.Machine

section
variable {s : State} {c : LineCtx} {j : Option Nat} {ch : Fin 128}

/-! ### assay search and reset (R137) -/

section
variable {block : Nat} {trials : TrialRun} {refs : List RefRead} {stop : Option LineCtx}

/-- What the checks of a search refuse: its block, a profile with no hook 26, a group with no sample, and a chamber that is not free
(log entries 49 and 63). -/
def State.searchBarred (s : State) (ch : Fin 128) (block : Nat) : Prop :=
  s.sys.st = .boot ∨ s.chamberHere ch = false ∨ ((s.prof ch).map (·.blocks)).getD 0 ≤ block ∨ s.hook26 ch = false ∨
    s.sampleBlock ch (block / 64) = none ∨ s.mayRun ch = false

/-- The checks of a search. -/
def State.searchChecks (s : State) (ch : Fin 128) (block : Nat) : List (Bool × Status) :=
  s.assayChecks ch block ++ [(!s.hook26 ch, err .state [word "hook"]), ((s.sampleBlock ch (block / 64)).isNone, err .state [word "open"]),
    (!s.mayRun ch, err .busy [])]

theorem State.searchBarred_iff : s.searchBarred ch block ↔ ∃ x ∈ s.searchChecks ch block, x.1 = true := by
  simp [State.searchBarred, State.searchChecks, State.assayChecks, State.isSt]

theorem State.doAssaySearch_barred (h : s.searchBarred ch block) :
    ∃ (k : ErrCode) (d : List Pair), s.doAssaySearch c j ch block trials refs stop = s.finishLine c j [] (err k d) := by
  have herr : ∀ x ∈ s.searchChecks ch block, ∃ (k : ErrCode) (d : List Pair), x.2 = err k d :=
    List.forall_mem_append.2 ⟨State.assayChecks_errors, by simp [err]⟩
  unfold State.doAssaySearch
  exact State.checked_refused (State.searchBarred_iff.1 h) herr

/-- A search whose trials were answered replies with the group's vector, or with what a `stop` line left of it (R134; log entries 48 and 63). -/
theorem State.doAssaySearch_goes (h : ¬s.searchBarred ch block) {halt good : Bool} {t u : State} (hstop : s.stopMaybe stop = (halt, t))
    (hsearch : t.search ch (block / 64) trials refs = (good, u)) : s.doAssaySearch c j ch block trials refs stop =
      if good = false then u.finishLine c j [] (err .timeout [])
      else u.finishLine c j [] (ok (if halt then [("stopped", .flag true), natOf "blocks" 64] else u.groupPairs ch (block / 64))) := by
  unfold State.doAssaySearch
  refine (State.checked_passes (cs := s.searchChecks ch block) ?_).trans ?_
  · simpa only [State.searchBarred_iff, not_exists, not_and, Bool.not_eq_true] using h
  · dsimp only
    rw [hstop]
    dsimp only
    rw [hsearch]
    simp only [Bool.not_eq_true']

end

theorem State.blockBarred_zero :
    s.blockBarred ch 0 ↔ s.sys.st = .boot ∨ s.chamberHere ch = false ∨ ((s.prof ch).map (·.blocks)).getD 0 = 0 := by simp [State.blockBarred]

theorem State.doAssayReset_barred (h : s.blockBarred ch 0) : ∃ (k : ErrCode) (d : List Pair), s.doAssayReset c j ch = s.finishLine c j [] (err k d) := by
  obtain ⟨k, d, hact⟩ := State.assayChecks_refuse (c := c) (j := j) h
  exact ⟨k, d, hact _⟩

/-- Every offset vector of the chamber goes back to the profile's defaults. -/
theorem State.doAssayReset_drops (h : ¬s.blockBarred ch 0) : s.doAssayReset c j ch =
    State.finishLine { s with assay := { s.assay with ofs := Store.drop (fun (k : Nat) => k / 1024 == ch.val) s.assay.ofs } } c j []
      (ok [natOf "groups" (((s.prof ch).map fun (p : Profile) => ceilDiv p.blocks 64).getD 0)]) := State.assayChecks_pass h

/-! ### update piece (R139) -/

section
variable {twin : Twin} {src off len : Nat}

/-- What the checks of a piece refuse: a key out of range, the state, the active twin, and a place that is not where the piece before it ended. -/
def State.pieceBarred (s : State) (twin : Twin) (src off len : Nat) : Prop :=
  2 ^ 32 ≤ src ∨ off % 4096 ≠ 0 ∨ len % 4096 ≠ 0 ∨ 2 ^ 20 < len ∨ 1572864 < off + len ∨ s.sys.st = .boot ∨ twin = s.bst.active ∨
    (off ≠ 0 ∧ off ≠ s.bst.pieceAt twin)

/-- The checks of a piece. -/
def State.pieceChecks (s : State) (twin : Twin) (src off len : Nat) : List (Bool × Status) :=
  [(decide (src ≥ 2 ^ 32), badKey "src" (.nat src)), (decide (off % 4096 ≠ 0), err .range [word "off"]),
    (decide (len % 4096 ≠ 0 ∨ len > 2 ^ 20), err .range [word "len"]), (decide (off + len > 1572864), err .range [word "off"]),
    (s.isSt .boot, err .state []), (twin == s.bst.active, err .state [word "active"]),
    (decide (off ≠ 0 ∧ off ≠ s.bst.pieceAt twin), err .range [word "off"])]

theorem State.pieceBarred_iff : s.pieceBarred twin src off len ↔ ∃ x ∈ s.pieceChecks twin src off len, x.1 = true := by
  simp [State.pieceBarred, State.pieceChecks, State.isSt, or_assoc]

theorem State.doUpdatePiece_barred (h : s.pieceBarred twin src off len) :
    ∃ (k : ErrCode) (d : List Pair), s.doUpdatePiece c j twin src off len = s.finishLine c j [] (err k d) := by
  unfold State.doUpdatePiece
  exact State.checked_refused (State.pieceBarred_iff.1 h) (by simp [badKey, err])

section
variable (h : ¬s.pieceBarred twin src off len) {m : List Nat} {u : State}
include h

theorem State.pieceChecks_pass : ∀ x ∈ s.pieceChecks twin src off len, x.1 = false := by
  simpa only [State.pieceBarred_iff, not_exists, not_and, Bool.not_eq_true] using h

/-- A piece that cannot be read ends with the access that failed. -/
theorem State.doUpdatePiece_unread {o : Acc} {a : Nat} (hread : s.readSpan (cutUp len src len) = (some (o, a), m, u)) :
    s.doUpdatePiece c j twin src off len = u.finishLine c j [] (faultStatus o a []) := by
  unfold State.doUpdatePiece
  refine (State.checked_passes (State.pieceChecks_pass h)).trans ?_
  rw [hread]

/-- A piece that was read is staged, if the boot store takes it. -/
theorem State.doUpdatePiece_staged (hread : s.readSpan (cutUp len src len) = (none, m, u)) {good : Bool} {v : State}
    (hstage : u.stagePiece off m = (good, v)) :
    s.doUpdatePiece c j twin src off len = v.finishLine c j [] (if good = true then ok [] else err .fault [word "bst"]) := by
  unfold State.doUpdatePiece
  refine (State.checked_passes (State.pieceChecks_pass h)).trans ?_
  rw [hread]
  dsimp only
  rw [hstage]
  cases good <;> rfl

end
end

/-! ### update commit (R139) -/

section
variable {twin : Twin} {now signed : Bool}

/-- What the checks of a commit refuse: the state, the active twin, and an image whose signature fails (R139; log entry 38). -/
def State.commitBarred (s : State) (twin : Twin) (signed : Bool) : Prop := s.sys.st = .boot ∨ twin = s.bst.active ∨ signed = false

theorem State.doUpdateCommit_barred (h : s.commitBarred twin signed) :
    ∃ (k : ErrCode) (d : List Pair), s.doUpdateCommit c j twin now signed = s.finishLine c j [] (err k d) := by
  unfold State.doUpdateCommit
  exact State.checked_refused (by simpa [State.commitBarred, State.isSt] using h) (by simp [err])

/-- A commit leaves the swap pending, and one that acts now resets the device after its reply. -/
theorem State.doUpdateCommit_swaps (h : ¬s.commitBarred twin signed) : s.doUpdateCommit c j twin now signed =
    if now = true then ((s.swapPend twin false).finishLine c j [] (ok [])).requestReset 7 2 else (s.swapPend twin false).finishLine c j [] (ok []) := by
  unfold State.doUpdateCommit
  exact State.checked_passes (by simpa [State.commitBarred, State.isSt] using h)

end
end

end Sys2Proof.Machine

namespace Sys2Proof
open Machine

/-- Settles O55: each line does its work in the state of its entry, and the work has one lemma for each outcome. -/
theorem assayAndUpdateLines : Obligations.AssayAndUpdateLines := by
  refine fun s l ht => ⟨fun c block trials refs stop => ⟨fun h => ?_, fun h hgood => ?_, fun h hgood hhalt => ?_, fun h hgood hhalt => ?_⟩,
    fun c => ⟨fun h => ?_, fun hst hhere hblocks => ?_⟩,
    fun twin src off len => ⟨fun h => ?_, fun h m u => ⟨fun o a hread => ?_, fun hread => ⟨fun hgood => ?_, fun hgood => ?_⟩⟩⟩,
    fun twin now signed => ⟨fun h => ?_, fun hst htwin hsigned => ?_⟩⟩
  · exact exec_entered_refused rfl rfl ht (State.doAssaySearch_barred h)
  · have hact := State.doAssaySearch_goes (c := l) (j := some s.bst.jNext) (trials := trials) (refs := refs) h rfl (Prod.ext hgood rfl)
    exact exec_entered rfl rfl ht hact
  · have hact := State.doAssaySearch_goes (c := l) (j := some s.bst.jNext) (trials := trials) (refs := refs) h (Prod.ext hhalt rfl) (Prod.ext hgood rfl)
    exact exec_entered rfl rfl ht hact
  · have hact := State.doAssaySearch_goes (c := l) (j := some s.bst.jNext) (trials := trials) (refs := refs) h (Prod.ext hhalt rfl) (Prod.ext hgood rfl)
    exact exec_entered rfl rfl ht hact
  · exact exec_entered_refused rfl rfl ht (State.doAssayReset_barred (State.blockBarred_zero.2 h))
  · have h := mt State.blockBarred_zero.1 (not_or.2 ⟨hst, not_or.2 ⟨by simp [hhere], hblocks.ne'⟩⟩)
    exact exec_entered rfl rfl ht (State.doAssayReset_drops h)
  · exact exec_entered_refused rfl rfl ht (State.doUpdatePiece_barred h)
  · have hact := State.doUpdatePiece_unread (c := l) (j := some s.bst.jNext) h hread
    exact exec_entered rfl rfl ht hact
  · have hact := State.doUpdatePiece_staged (c := l) (j := some s.bst.jNext) h hread (Prod.ext hgood rfl)
    exact exec_entered rfl rfl ht hact
  · have hact := State.doUpdatePiece_staged (c := l) (j := some s.bst.jNext) h hread (Prod.ext hgood rfl)
    exact exec_entered rfl rfl ht hact
  · exact exec_entered_refused rfl rfl ht (State.doUpdateCommit_barred h)
  · have h : ¬(s.entered l (.updateCommit l twin now signed)).commitBarred twin signed :=
      not_or.2 ⟨hst, not_or.2 ⟨htwin, by simp [hsigned]⟩⟩
    refine ⟨fun hnow => ?_, fun hnow => ?_⟩
    · exact exec_entered rfl rfl ht ((State.doUpdateCommit_swaps h).trans (if_neg (by simp [hnow])))
    · exact exec_entered rfl rfl ht ((State.doUpdateCommit_swaps h).trans (if_pos hnow))

end Sys2Proof
end

section
/-! A gallery's registers, its training and its retraining windows, its scheduler and its bus (R146, R151, R153, R154, R165, R168, R173). -/

namespace Sys2Proof.Machine

/-! ### One gallery changed -/

@[simp] theorem State.gal_get_same (s : State) (g : Fin 8) (f : Gallery → Gallery) : (s.gal g f).gals.get g = f (s.gals.get g) := by
  simp [State.gal, get_setAt]

/-- Two changes that agree on the gallery as it stands. -/
theorem State.gal_congr {s : State} {g : Fin 8} {f f' : Gallery → Gallery} (h : f (s.gals.get g) = f' (s.gals.get g)) : s.gal g f = s.gal g f' := by
  simp only [State.gal, h]

/-! ### The registers (R165, R168, R173) -/

/-- A refused access is recorded in MPU_FAULT and MPU_FAULT_ADDR, and leaves the galleries (R481); what is counted is in MPU_FAULT_CNT. -/
theorem State.noteRefused_record (s : State) (cls : Cls) (write : Bool) (kind region init a : Nat) :
    (s.noteRefused cls write kind region init a).gals = s.gals ∧ (s.noteRefused cls write kind region init a).rf .mpuFault 0 1 = 1 ∧
      (s.noteRefused cls write kind region init a).reg .mpuFaultAddr = BitVec.ofNat 32 a := by
  let record : Word := BitVec.ofNat 32 (1 + 2 * clsNum cls + 8 * b2n write + 16 * kind + 256 * region + 65536 * init)
  have hreg (r : Reg) (h : r ≠ .mpuFaultCnt) : (s.noteRefused cls write kind region init a).reg r =
      ((s.setReg .mpuFault record).setReg .mpuFaultAddr (BitVec.ofNat 32 a)).reg r := by
    cases cls with
    | privileged => rfl
    | user | debug => exact State.reg_setRf_ne _ _ _ _ h
  refine ⟨by cases cls <;> rfl, ?_, (hreg .mpuFaultAddr nofun).trans (State.reg_setReg_same _ _ _)⟩
  rw [State.rf, hreg .mpuFault nofun, State.reg_setReg_ne (r := .mpuFaultAddr) (q := .mpuFault) _ _ nofun, State.reg_setReg_same,
    fld_ofNat _ _ _ (by decide)]
  omega

theorem exec_galWptLoad_privileged (g : Fin 8) (value : Word) (s : State) :
    exec (.galWptLoad g .privileged value) s = .next (s.wptLoad g value) := rfl

theorem exec_galWptLoad_refused {cls : Cls} (h : cls ≠ .privileged) (g : Fin 8) (value : Word) (s : State) :
    exec (.galWptLoad g cls value) s = .next (s.refuseOnly cls (if cls = .debug then 9 else 0) (Reg.galWptLoad g).addr) := by
  cases cls with
  | privileged => exact absurd rfl h
  | user | debug => rfl

theorem exec_galSuspectClear (g : Fin 8) (mask : BitVec 16) (s : State) : exec (.galSuspectClear g mask) s =
    .next (s.setReg (.galSuspect g) (s.reg (.galSuspect g) &&& ~~~(mask.zeroExtend 32))) := rfl

theorem exec_galCtlTrain (g : Fin 8) (s : State) : exec (.galCtlTrain g) s = .next (s.markRetrain g) := rfl

/-- A gallery in service with no retraining is marked for one, in its state and in GAL_STAT (R150). -/
theorem State.markRetrain_marks {s : State} {g : Fin 8} (hin : (s.gals.get g).inService = true) (hnone : (s.gals.get g).retrain = .none) :
    ((s.markRetrain g).gals.get g).retrain = .pending ∧ (s.markRetrain g).rf (.galStat g) 1 1 = 1 := by
  have hmark : s.markRetrain g = (s.gal g fun y => { y with retrain := .pending }).setRf (.galStat g) 1 1 1 := if_pos ⟨hin, hnone⟩
  rw [hmark]
  exact ⟨by simp, State.rf_setRf_same _ _ _ _ _ (by decide)⟩

/-- A trigger that meets a retraining, or a gallery out of service, changes nothing. -/
theorem State.markRetrain_joins {s : State} {g : Fin 8} (h : (s.gals.get g).inService = false ∨ (s.gals.get g).retrain ≠ .none) :
    s.markRetrain g = s := by
  refine if_neg fun ⟨hin, hnone⟩ => ?_
  rcases h with hout | hretrain
  · simp [hin] at hout
  · exact hretrain hnone

theorem exec_galleryTraining_trains {s : State} {g : Fin 8} (h : s.mayTrain g = true) (r : TrainResult) :
    exec (.galleryTraining g r) s = .next ((s.train g r).trained g) := congrArg Host.Outcome.next (if_pos h)

/-! ### The windows of a retraining (R151) -/

/-- The state a window is judged in: one whose rate is not that of the gallery's windows begins them anew. -/
def State.windowStart (s : State) (g : Fin 8) : State :=
  if (s.gals.get g).retrain ≠ .none ∧ (s.gals.get g).newRate ≠ some (s.windowRate g) then s.windowsFrom g (s.windowRate g) (s.aimRate g) else s

theorem State.windowStart_of_bool (s : State) (g : Fin 8) :
    (if (s.gals.get g).retrain != .none && (s.gals.get g).newRate != some (s.windowRate g) then s.windowsFrom g (s.windowRate g) (s.aimRate g)
      else s) = s.windowStart g := by
  simp only [State.windowStart, Bool.and_eq_true, bne_iff_ne]

section
variable {s : State} {g : Fin 8} (r : WindowRun)

/-- No target is left: the retraining ends, and a `run train` fails. -/
theorem exec_retrainingWindow_noTarget (hretrain : (s.gals.get g).retrain ≠ .none) (htarget : (s.windowStart g).retrainTarget g = none) :
    exec (.retrainingWindow g r) s = .next
      (((s.windowStart g).retrainEnd g (s.windowRate g)).finishJob (fun j => j == .train g) fun _ => ([], err .fault [word "train"])) := by
  change execRetrainingWindow g r s = _
  simp only [execRetrainingWindow, State.windowStart_of_bool, htarget, if_neg hretrain]

/-- A gallery that does not retrain has no windows. -/
theorem exec_retrainingWindow_idle (hretrain : (s.gals.get g).retrain = .none) : exec (.retrainingWindow g r) s = .next s := by
  have hstart : s.windowStart g = s := if_neg fun h => h.1 hretrain
  have htarget : s.retrainTarget g = none := by simp only [State.retrainTarget, hretrain]
  change execRetrainingWindow g r s = _
  simp only [execRetrainingWindow, State.windowStart_of_bool, hstart, htarget, if_pos hretrain]

variable {n : Fin 8} (htarget : (s.windowStart g).retrainTarget g = some n)
include htarget

/-- A target whose LUNs are busy waits for its window. -/
theorem exec_retrainingWindow_busy (hfree : (s.windowStart g).windowFree g n r.runs = false) : exec (.retrainingWindow g r) s = .next s := by
  change execRetrainingWindow g r s = _
  simp only [execRetrainingWindow, State.windowStart_of_bool, htarget, hfree, Bool.false_eq_true, if_false]

/-- The target's window runs; a waiting `run train` ends with a failure or with the last of them. -/
theorem exec_retrainingWindow_runs (hfree : (s.windowStart g).windowFree g n r.runs = true) :
    let t : State := (s.windowStart g).window g n (s.windowRate g) r.pass r.retried
    (r.pass = false → exec (.retrainingWindow g r) s = .next (t.finishJob (fun j => j == .train g) fun _ => ([], err .fault [word "train"]))) ∧
      (r.pass = true → (t.gals.get g).newRate = none →
        exec (.retrainingWindow g r) s = .next (t.finishJob (fun j => j == .train g) fun _ => ([], ok []))) ∧
      (r.pass = true → (t.gals.get g).newRate ≠ none → exec (.retrainingWindow g r) s = .next t) := by
  have hrun : exec (.retrainingWindow g r) s = execRetrainingWindow g r s := rfl
  simp only [execRetrainingWindow, State.windowStart_of_bool, htarget, hfree, if_true] at hrun
  refine ⟨fun hfail => ?_, fun hpass hlast => ?_, fun hpass hmore => ?_⟩
  · simp [hrun, hfail]
  · rw [hpass] at hlast
    simp [hrun, hpass, hlast]
  · rw [hpass] at hmore
    simp [hrun, hpass, hmore]

end

/-! ### The scheduler (R153, R155, R159, R163) -/

section
variable {s : State} {g : Fin 8}

theorem exec_schedulerDispatch_doomed {o : GOp} (h : s.doomed g = some o) : exec (.schedulerDispatch g) s =
    .next (if o.kind = .read then s.readGone g o else s.refuseOp g o .suspect) := by
  change execSchedulerDispatch g s = _
  simp only [execSchedulerDispatch, h]

variable (hdoomed : s.doomed g = none)
include hdoomed

theorem exec_schedulerDispatch_stranded {k : Nat} (h : s.stranded g = some k) :
    exec (.schedulerDispatch g) s = .next (s.moveProgram k (s.blk k).next) := by
  change execSchedulerDispatch g s = _
  simp only [execSchedulerDispatch, hdoomed, h]

variable (hstranded : s.stranded g = none)
include hstranded

theorem exec_schedulerDispatch_starts {o : GOp} (hpick : s.pick g = some o) (hpass : (s.gals.get g).passes o = true) :
    exec (.schedulerDispatch g) s = .next ((s.joinPlanes g o).2.startOp g (s.joinPlanes g o).1) := by
  change execSchedulerDispatch g s = _
  simp [execSchedulerDispatch, hdoomed, hstranded, hpick, hpass]

theorem exec_schedulerDispatch_outOfOrder {o : GOp} (hpick : s.pick g = some o) (hpass : (s.gals.get g).passes o = false) :
    exec (.schedulerDispatch g) s = .next (((s.gal g fun x => { x with orders := x.orders + 1 }).raise 13).refuseOp g o .order) := by
  change execSchedulerDispatch g s = _
  simp [execSchedulerDispatch, hdoomed, hstranded, hpick, hpass]

theorem exec_schedulerDispatch_idle (hpick : s.pick g = none) : exec (.schedulerDispatch g) s = .next s := by
  change execSchedulerDispatch g s = _
  simp only [execSchedulerDispatch, hdoomed, hstranded, hpick]

end

theorem exec_operationAging (g : Fin 8) (id : Nat) (s : State) : exec (.operationAging g id) s =
    .next (s.setOp g id fun o => if o.running then o else { o with aged := true }) := rfl

/-! ### The bus (R154, R174) -/

section
variable {s : State} {g : Fin 8}

/-- A context that is given the bus holds it, and nothing else of the device changes. -/
theorem State.gal_grant (s : State) (g : Fin 8) {i : Nat} (h : i < 64) : let t : State := s.gal g fun x => x.grant i
    (t.gals.get g).bus = some ⟨i, h⟩ ∧ ((t.gals.get g).ctxGet i).st = .bus ∧
      t = s.gal g fun x => { x with bus := some ⟨i, h⟩, ctxs := (t.gals.get g).ctxs } := by
  have hgrant : (s.gals.get g).grant i = { s.gals.get g with
      bus := some ⟨i, h⟩, ctxs := Store.modify (fun _ => {}) (s.gals.get g).ctxs i fun c => { c with st := .bus } } := dif_pos h
  intro t
  have ht : t.gals.get g = (s.gals.get g).grant i := State.gal_get_same s g _
  rw [ht]
  refine ⟨by rw [hgrant], ?_, State.gal_congr (by rw [hgrant])⟩
  rw [hgrant, Gallery.ctxGet, Store.modify, store_get_set_any, if_pos rfl]

theorem exec_busTransferDone_grants {i : Nat} (hbus : (s.gals.get g).bus = none) (hnext : (s.gals.get g).nextBus = some i) :
    exec (.busTransferDone g) s = .next (s.gal g fun x => x.grant i) := by
  change execBusTransferDone g s = _
  exact congrArg Host.Outcome.next (State.gal_congr (by simp only [hbus, hnext]))

/-- A context keeps the bus until its transfer ends. -/
theorem exec_busTransferDone_held (hbus : (s.gals.get g).bus ≠ none) :
    ∃ t : State, exec (.busTransferDone g) s = .next t ∧ t.gals.get g = s.gals.get g := by
  obtain ⟨x, hx⟩ := Option.ne_none_iff_exists'.1 hbus
  exact ⟨_, rfl, by simp only [State.gal_get_same, hx]⟩

theorem exec_rbNRise_grants {c : Nat × SeqCtx} (hbus : (s.gals.get g).bus = none)
    (hpoll : ((s.gals.get g).ctxs.find? fun c => c.2.st == .polling) = some c) :
    exec (.rbNRise g) s = .next (s.gal g fun x => x.grant c.1) := by
  change execRbNRise g s = _
  exact congrArg Host.Outcome.next (State.gal_congr (by simp only [hbus, hpoll]))

/-- RB_N's rise takes the bus from no context. -/
theorem exec_rbNRise_held (hbus : (s.gals.get g).bus ≠ none) : ∃ t : State, exec (.rbNRise g) s = .next t ∧ t.gals.get g = s.gals.get g := by
  obtain ⟨x, hx⟩ := Option.ne_none_iff_exists'.1 hbus
  exact ⟨_, rfl, by simp only [State.gal_get_same, hx]⟩

end

end Sys2Proof.Machine

namespace Sys2Proof
open Machine

/-- Settles O27: each outcome of a row is a lemma above; the bus goes to the context named and leaves the rest of the device. -/
theorem galleryRows : Obligations.GalleryRows := by
  refine ⟨fun s g => ⟨fun v => exec_galWptLoad_privileged g v s, fun cls v hcls => ?_, fun mask => exec_galSuspectClear g mask s,
      fun hin hnone => ⟨_, exec_galCtlTrain g s, State.markRetrain_marks hin hnone⟩, fun h => ?_, fun r hrst hclk hprof hout hen => ?_,
      fun r => ⟨fun n htarget hfree => exec_retrainingWindow_runs r htarget hfree, fun n htarget hfree => exec_retrainingWindow_busy r htarget hfree,
        fun hretrain htarget => exec_retrainingWindow_noTarget r hretrain htarget, exec_retrainingWindow_idle r⟩⟩,
    fun s g => ⟨fun o => exec_schedulerDispatch_doomed, fun k hdoomed => exec_schedulerDispatch_stranded hdoomed,
      fun o hdoomed hstranded => exec_schedulerDispatch_starts hdoomed hstranded,
      fun o hdoomed hstranded hpick hpass => ⟨?_, exec_schedulerDispatch_outOfOrder hdoomed hstranded hpick hpass⟩,
      exec_schedulerDispatch_idle, fun id => exec_operationAging g id s⟩,
    fun s g => ⟨fun i h hbus hnext => ⟨_, exec_busTransferDone_grants hbus hnext, State.gal_grant s g h⟩, exec_busTransferDone_held,
      fun c h hbus hpoll => ⟨_, exec_rbNRise_grants hbus hpoll, State.gal_grant s g h⟩, exec_rbNRise_held⟩⟩
  · exact ⟨_, exec_galWptLoad_refused hcls g v s, State.noteRefused_record _ _ _ _ _ _ _⟩
  · rw [exec_galCtlTrain, State.markRetrain_joins h]
  · exact exec_galleryTraining_trains (by simp [State.mayTrain, hrst, hclk, hprof, hout, hen]) r
  · simp [State.trb_raise]

end Sys2Proof
end

section
/-! Suspension and resumption, the operation timers, and the sequencer's watchdog (R156, R157, R161, R162, R164). -/

namespace Sys2Proof.Machine

/-! ### Suspension (R156) -/

/-- The program or erase that runs in a chamber. -/
def Gallery.writing (x : Gallery) (c : Fin 16) : Option GOp :=
  x.ops.find? fun o => o.running && !o.suspended && o.ch == c && (o.kind == .program || o.kind == .erase)

theorem Gallery.writing_kind {x : Gallery} {c : Fin 16} {o : GOp} (h : x.writing c = some o) : o.kind = .program ∨ o.kind = .erase := by
  have hp := List.find?_some h
  simp only [Bool.and_eq_true, Bool.or_eq_true, beq_iff_eq] at hp
  exact hp.2

/-- The time an operation runs before it may be suspended. -/
def Profile.minRun (p : Profile) (o : GOp) : Nat := if o.kind = .program then p.minProg else p.minErase

theorem Gallery.suspends_iff {x : Gallery} {p : Profile} (hp : x.profile = some p) (o : GOp) (ran remain : Nat) :
    x.suspends o ran remain = true ↔ x.mayHold o = true ∧ p.minRun o ≤ ran ∧ 2 * p.suspLatency < remain := by
  simp only [Gallery.suspends, hp, Profile.minRun, Bool.and_eq_true, decide_eq_true_eq, ge_iff_le, gt_iff_lt, and_assoc]

section
variable {s : State} {g : Fin 8} {c : Fin 16} (ran remain : Nat)

theorem exec_programSuspend_none (h : (s.gals.get g).writing c = none) : exec (.programSuspend g c ran remain) s = .next s := by
  change execProgramSuspend g c ran remain s = _
  rw [Gallery.writing] at h
  simp only [execProgramSuspend, h]

section
variable {o : GOp} (h : (s.gals.get g).writing c = some o) {p : Profile} (hp : (s.gals.get g).profile = some p)
include h

theorem exec_programSuspend_some : exec (.programSuspend g c ran remain) s =
    .next (if (s.gals.get g).readWaits c && (s.gals.get g).suspends o ran remain then s.suspendOp g o else s) := by
  change execProgramSuspend g c ran remain s = _
  rw [Gallery.writing] at h
  simp only [execProgramSuspend, h]

include hp

theorem exec_programSuspend_suspends (hwaits : (s.gals.get g).readWaits c = true) (hmay : (s.gals.get g).mayHold o = true)
    (hprog : o.kind = .program → p.minProg ≤ ran) (herase : o.kind = .erase → p.minErase ≤ ran) (hlat : 2 * p.suspLatency < remain) :
    exec (.programSuspend g c ran remain) s = .next (s.suspendOp g o) := by
  have hmin : p.minRun o ≤ ran := by
    unfold Profile.minRun
    rcases Gallery.writing_kind h with hk | hk
    · exact (if_pos hk).trans_le (hprog hk)
    · exact (if_neg (by simp [hk])).trans_le (herase hk)
  have hgoes : ((s.gals.get g).readWaits c && (s.gals.get g).suspends o ran remain) = true :=
    Bool.and_eq_true_iff.2 ⟨hwaits, (Gallery.suspends_iff hp o ran remain).2 ⟨hmay, hmin, hlat⟩⟩
  rw [exec_programSuspend_some ran remain h, if_pos hgoes]

theorem exec_programSuspend_stays (hstays : (s.gals.get g).readWaits c = false ∨ (s.gals.get g).mayHold o = false ∨
      remain ≤ 2 * p.suspLatency ∨ ran < p.minRun o) : exec (.programSuspend g c ran remain) s = .next s := by
  have hnot : ¬((s.gals.get g).readWaits c && (s.gals.get g).suspends o ran remain) = true := by
    rw [Bool.and_eq_true, Gallery.suspends_iff hp]
    rintro ⟨hwaits, hmay, hmin, hlat⟩
    rcases hstays with hnone | hnever | hshort | hearly
    · simp [hwaits] at hnone
    · simp [hmay] at hnever
    · omega
    · omega
  rw [exec_programSuspend_some ran remain h, if_neg hnot]

end

end

/-! ### Resumption (R157) -/

section
variable {s : State} {g : Fin 8} {c : Fin 16} (held : Nat)

theorem exec_programResume_none (h : ((s.gals.get g).ops.find? fun o => o.suspended && o.ch == c) = none) :
    exec (.programResume g c held) s = .next s := by
  change execProgramResume g c held s = _
  simp only [execProgramResume, h]

/-- A suspended operation that is due to resume does, once the read under way has ended. -/
theorem exec_programResume_some {p : Profile} (hp : (s.gals.get g).profile = some p) {o : GOp}
    (h : ((s.gals.get g).ops.find? fun o => o.suspended && o.ch == c) = some o) :
    exec (.programResume g c held) s =
      .next (if (s.gals.get g).readWaits c = false ∨ 200 ≤ held ∨ min p.suspReads 16 ≤ o.readsIn ∨ o.resumeDue = true then
        if ((s.gals.get g).ops.any fun y => y.running && !y.suspended && y.ch == c) then s.setOp g o.id fun y => { y with resumeDue := true }
        else s.resumeOp g o
      else s) := by
  have hdue : (o.readsIn ≥ min p.suspReads 16 ∨ held ≥ 200 ∨ o.resumeDue = true ∨ (!(s.gals.get g).readWaits c) = true) ↔
      ((s.gals.get g).readWaits c = false ∨ 200 ≤ held ∨ min p.suspReads 16 ≤ o.readsIn ∨ o.resumeDue = true) := by
    rw [Bool.not_eq_true']; tauto
  change execProgramResume g c held s = _
  simp only [execProgramResume, h, hp, hdue]

end

/-! ### The operation timers (R161, R162) -/

/-- The state an operation's timer is read in: the device's own list has come to its status poll. -/
def State.timerState (s : State) (g : Fin 8) (o : GOp) : State := if o.need = .console then s else s.toPoll g o

section
variable {s : State} {g : Fin 8} {id : Nat} (b : Bool)

theorem exec_chamberOpTimeout_none (h : s.op? g id = none) : exec (.chamberOpTimeout g id b) s = .next s := by
  change execChamberOpTimeout g id b s = _
  simp only [execChamberOpTimeout, h]

variable {o : GOp} (hop : s.op? g id = some o)
include hop

/-- The timer of an operation that does not run, is suspended, or has its outcome does not run. -/
theorem exec_chamberOpTimeout_stands (h : o.running = false ∨ o.suspended = true ∨ o.outcome ≠ none) :
    exec (.chamberOpTimeout g id b) s = .next s := by
  have hstands : (!o.running || o.suspended || o.outcome.isSome) = true := by
    simpa [Option.isSome_iff_ne_none, or_assoc] using h
  change execChamberOpTimeout g id b s = _
  simp only [execChamberOpTimeout, hop, hstands, if_true]

variable (hrun : o.running = true) (hsusp : o.suspended = false) (hout : o.outcome = none)
include hrun hsusp hout

theorem exec_chamberOpTimeout_unarmed (harm : (s.timerState g o).armedAt g o.ctx = none) : exec (.chamberOpTimeout g id b) s = .next s := by
  change execChamberOpTimeout g id b s = _
  rw [State.timerState] at harm
  simp [execChamberOpTimeout, hop, hrun, hsusp, hout, harm]

/-- A reset list that outlives its timer just ends. -/
theorem exec_chamberOpTimeout_reset (harm : (s.timerState g o).armedAt g o.ctx = some .reset) :
    exec (.chamberOpTimeout g id b) s = .next ((((s.timerState g o).listTimeout g o.ctx).dropOp g id).raiseRunTimeout g) := by
  change execChamberOpTimeout g id b s = _
  rw [State.timerState] at harm ⊢
  simp [execChamberOpTimeout, hop, hrun, hsusp, hout, harm]

/-- Any other list that outlives its timer is recovered from. -/
theorem exec_chamberOpTimeout_recovers {k : OpKind} (harm : (s.timerState g o).armedAt g o.ctx = some k) (hk : k ≠ .reset) :
    exec (.chamberOpTimeout g id b) s = .next ((s.timerState g o).opTimeout g o b) := by
  change execChamberOpTimeout g id b s = _
  rw [State.timerState] at harm ⊢
  cases k with
  | reset => exact absurd rfl hk
  | _ => simp [execChamberOpTimeout, hop, hrun, hsusp, hout, harm]

end

/-- A field counted up stops at its greatest value. -/
theorem State.rf_bump_same (s : State) (r : Reg) (lo n k : Nat) (h : lo + n ≤ 32) : (s.bump r lo n k).rf r lo n = satAdd n (s.rf r lo n) k :=
  (State.rf_setRf_same s r lo n _ h).trans (Nat.mod_eq_of_lt (satAdd_lt _ _ _))

/-! What a list's timeout leaves alone. -/

theorem State.listTimeout_sys (s : State) (g : Fin 8) (n : Nat) : (s.listTimeout g n).sys = s.sys := rfl

theorem State.listTimeout_regs (s : State) (g : Fin 8) (n : Nat) : (s.listTimeout g n).regs = s.regs := rfl

theorem State.listTimeout_timeouts (s : State) (g : Fin 8) (n : Nat) :
    ((s.listTimeout g n).gals.get g).timeouts = (s.gals.get g).timeouts := by
  simp only [State.listTimeout, State.yieldBus, State.gal_get_same]
  split <;> rfl

/-- A read's timeout is reported and counted (R162, R170). -/
theorem State.readTimeout_counts (s : State) (g : Fin 8) (n : Nat) : let u : State := ((s.raise 8).countTimeout g .read).listTimeout g n
    u.trb 8 = true ∧ u.rf (.galTmo g) 0 8 = satAdd 8 (s.rf (.galTmo g) 0 8) 1 ∧ (u.gals.get g).timeouts = (s.gals.get g).timeouts + 1 := by
  have hcount (t : State) : t.countTimeout g .read = (t.gal g fun y => { y with timeouts := y.timeouts + 1 }).bump (.galTmo g) 0 8 1 := rfl
  intro u
  refine ⟨?_, ?_, ?_⟩
  · have hraised : (s.raise 8).trb 8 = true := by simp [State.trb_raise]
    rwa [State.trb, State.listTimeout_sys, hcount, State.bump_sys, State.gal_sys]
  · rw [State.rf, State.reg_congr (State.listTimeout_regs _ _ _), hcount]
    exact State.rf_bump_same _ _ _ _ _ (by decide)
  · rw [State.listTimeout_timeouts, hcount, State.bump_gals, State.gal_get_same, State.raise_gals]

/-- A read whose chamber has come back is retried once. -/
theorem State.opTimeout_read {s : State} {g : Fin 8} {o : GOp} {b : Bool} (hkind : o.kind = .read) (hretried : o.retried = false)
    (hneed : o.need ≠ .console)
    (hgood : ((((s.raise 8).countTimeout g .read).listTimeout g o.ctx).recoverLun g o.ch b).1 = true) :
    s.opTimeout g o b = ((((s.raise 8).countTimeout g .read).listTimeout g o.ctx).recoverLun g o.ch b).2.setOp g o.id fun y =>
      { y with running := false, suspended := false, retried := true, outcome := none } := by
  simp [State.opTimeout, hkind, hretried, hneed, hgood]

/-! ### The watchdog (R164) -/

theorem State.finishJob_idle {s : State} (h : s.con.running = none) (p : Job → Bool) (r : Running → List (List Pair) × Status) :
    s.finishJob p r = s := by
  simp only [State.finishJob, h]

/-- Nothing to quiesce. -/
theorem exec_sequencerWatchdog_quiet {s : State} {r : WedgeRun} (hops : (s.gals.get r.gal).ops = [])
    (hidle : ((s.gals.get r.gal).ctxs.all fun c => c.2.st == .idle) = true) : exec (.sequencerWatchdog r) s = .next s :=
  congrArg Host.Outcome.next (if_pos (by rw [hops, hidle]; rfl))

/-- The operations in flight, ended and recorded. -/
def State.wedgeQuiet (s : State) (g : Fin 8) (live : List GOp) : State :=
  State.interruptOps ((((s.raise 15).quiesceGal g).wedgeReset g).recordSelf)
    ((live.filter fun o => o.kind == .program || o.kind == .erase).map fun o => (g, o))

/-- The chambers that had one, recovered or suspect. -/
def State.wedgeRecover (s : State) (r : WedgeRun) (live : List GOp) : State :=
  (live.map (·.ch)).eraseDups.foldl (fun t c => let x : Bool × State := t.recoverLun r.gal c (!r.stuck.getLsbD c.val)
    if x.1 then x.2 else x.2.makeSuspect r.gal c) s

/-- The gallery taken up again: its table, its training, and the programs issued again. -/
def State.wedgeAgain (s : State) (r : WedgeRun) (live : List GOp) : State :=
  (live.filter fun o => o.kind == .program && o.need != .console).foldl (fun t o => t.reprogram r.gal o)
    (((s.reloadWpt r.gal).wedgeTrain r.gal r).driveWp r.gal true)

/-- A wedged gallery is quiesced, recovered and taken up again; with no line executing, that is all. -/
theorem exec_sequencerWatchdog_runs {s : State} {r : WedgeRun} {live : List GOp}
    (hlive : live = (s.gals.get r.gal).ops.filter fun o => o.running)
    (h : (s.gals.get r.gal).ops ≠ [] ∨ ((s.gals.get r.gal).ctxs.all fun c => c.2.st == .idle) = false)
    (hidle : (((s.wedgeQuiet r.gal live).wedgeRecover r live).wedgeAgain r live).con.running = none) :
    exec (.sequencerWatchdog r) s = .next (((s.wedgeQuiet r.gal live).wedgeRecover r live).wedgeAgain r live) := by
  have hwedged : ((s.gals.get r.gal).ops.isEmpty && (s.gals.get r.gal).ctxs.all fun c => c.2.st == .idle) ≠ true := by
    simpa [List.isEmpty_iff, imp_iff_not_or] using h
  subst hlive
  exact congrArg Host.Outcome.next ((if_neg hwedged).trans (State.finishJob_idle hidle _ _))

/-- A quiesced gallery: the bus free, WP_N low, no list and no operation running. -/
theorem State.quiesceGal_stops (s : State) (g : Fin 8) : ((s.quiesceGal g).gals.get g).bus = none ∧ ((s.quiesceGal g).gals.get g).wpN = false ∧
    (((s.quiesceGal g).gals.get g).ctxs.all fun c => c.2.st == .idle) = true ∧ (((s.quiesceGal g).gals.get g).ops.all fun o => !o.running) = true := by
  simp only [State.quiesceGal, State.driveWp, State.gal_get_same, List.all_map, List.all_eq_true, true_and]
  refine ⟨fun c _ => ?_, fun _ _ => rfl⟩
  by_cases hst : c.2.st = .idle
  · simp [hst]
  · simp [hst]

end Sys2Proof.Machine

namespace Sys2Proof
open Machine

/-- Settles O28: each outcome of a row is a lemma above; a timer is read in the state its list has come to, which a line's own list already is. -/
theorem galleryTimeRows : Obligations.GalleryTimeRows := by
  refine ⟨fun s g c o p a b hp => ⟨fun ho => exec_programSuspend_suspends a b ho hp, fun ho => exec_programSuspend_stays a b ho hp,
      exec_programSuspend_none a b,
      fun ho hread hdue => ?_, fun ho hread hdue => ?_, fun ho hwaits hheld hreads hdue => ?_, exec_programResume_none a⟩,
    fun s g => ⟨fun id o k b hop hrun hsusp hout hneed harm hk => ?_, fun id o k b hop hrun hsusp hout hneed harm hk => ?_,
      fun id o b hop hrun hsusp hout => ⟨exec_chamberOpTimeout_unarmed b hop hrun hsusp hout, exec_chamberOpTimeout_reset b hop hrun hsusp hout⟩,
      fun id o b hop => exec_chamberOpTimeout_stands b hop, fun id b => exec_chamberOpTimeout_none b, fun o => ?_,
      fun r hr hops hidle => ?_, fun r hr h _ => ?_, State.quiesceGal_stops s g⟩⟩
  · rw [exec_programResume_some a hp ho, if_pos hdue, hread, if_neg Bool.false_ne_true]
  · rw [exec_programResume_some a hp ho, if_pos hdue, if_pos hread]
  · have hstays : ¬((s.gals.get g).readWaits c = false ∨ 200 ≤ a ∨ min p.suspReads 16 ≤ o.readsIn ∨ o.resumeDue = true) := by
      simp only [hwaits, hdue, Bool.true_eq_false, Bool.false_eq_true, not_le.2 hheld, not_le.2 hreads, or_self, not_false_eq_true]
    rw [exec_programResume_some a hp ho, if_neg hstays]
  · have htimed : s.timerState g o = s.toPoll g o := if_neg hneed
    rw [← htimed] at harm ⊢
    exact exec_chamberOpTimeout_recovers b hop hrun hsusp hout harm hk
  · have htimed : s.timerState g o = s := if_pos hneed
    rw [← htimed] at harm
    exact (exec_chamberOpTimeout_recovers b hop hrun hsusp hout harm hk).trans (by rw [htimed])
  · obtain ⟨hraised, hfield, hcount⟩ := State.readTimeout_counts s g o.ctx
    exact ⟨hraised, hfield, hcount, fun hkind hretried hneed => State.opTimeout_read hkind hretried hneed⟩
  · subst hr
    exact exec_sequencerWatchdog_quiet hops hidle
  · subst hr
    exact exec_sequencerWatchdog_runs rfl h

end Sys2Proof
end

section
/-! The end of an array operation; blocks verified, erased and retired, and chambers retired (R154, R235, R292, R330, R342, R361). -/

namespace Sys2Proof.Machine

/-! ### The end of an array operation (R178, R339 to R341) -/

section
variable {s : State} {g : Fin 8} {id : Nat} (planes : BitVec 4) (bad : Bool)

theorem exec_arrayOpComplete_none (hop : s.op? g id = none) : exec (.arrayOpComplete g id planes bad) s = .next s := by
  change execArrayOpComplete g id planes bad s = _
  simp only [execArrayOpComplete, hop]

variable {o : GOp} (hop : s.op? g id = some o)
include hop

/-- Neither the end of a program nor of an erase that the scheduler runs. -/
theorem exec_arrayOpComplete_other
    (h : o.running = false ∨ o.suspended = true ∨ o.need = .console ∨ (o.kind ≠ .program ∧ o.kind ≠ .erase)) :
    exec (.arrayOpComplete g id planes bad) s = .next s := by
  have hother : (!o.running || o.suspended || o.need == .console || !(o.kind == .program || o.kind == .erase)) = true := by
    simpa [or_assoc] using h
  change execArrayOpComplete g id planes bad s = _
  simp only [execArrayOpComplete, hop, hother, if_true]

/-- The list of a program or an erase that the scheduler runs comes to its end, and its outcome goes to its requester. -/
theorem exec_arrayOpComplete_ends (hrun : o.running = true) (hsusp : o.suspended = false) (hneed : o.need ≠ .console)
    (hkind : o.kind = .program ∨ o.kind = .erase) : let u : State := s.finishOp g o { status := if bad then readyFail else ready }
    (u.opOut g id = some .ok → o.kind = .program → exec (.arrayOpComplete g id planes bad) s = .next (u.programOk g o).settle) ∧
      (u.opOut g id = some .ok → o.kind = .erase → exec (.arrayOpComplete g id planes bad) s =
        .next ((o.blks g).foldl (fun (t : State) (k : Nat) => t.eraseOk g o k) (u.dropOp g id)).settle) ∧
      (u.opOut g id = some .fail → o.kind = .program → exec (.arrayOpComplete g id planes bad) s = .next (u.programFail g o planes)) ∧
      (u.opOut g id = some .fail → o.kind = .erase → exec (.arrayOpComplete g id planes bad) s = .next (u.eraseFailed g o planes)) ∧
      (u.opOut g id = some .timeout → exec (.arrayOpComplete g id planes bad) s = .next (u.opTimeout g o true)) ∧
      (u.opOut g id ∉ [some .ok, some .fail, some .timeout] → exec (.arrayOpComplete g id planes bad) s = .next u) := by
  have hmine : ¬(!o.running || o.suspended || o.need == .console || !(o.kind == .program || o.kind == .erase)) = true := by
    simpa [hrun, hsusp, hneed, or_iff_not_imp_left] using hkind
  have hrow : exec (.arrayOpComplete g id planes bad) s = execArrayOpComplete g id planes bad s := rfl
  simp only [execArrayOpComplete, hop, if_neg hmine] at hrow
  have herase (h : o.kind = .erase) : o.kind ≠ .program := by simp [h]
  intro u
  refine ⟨fun hout hk => ?_, fun hout hk => ?_, fun hout hk => ?_, fun hout hk => ?_, fun hout => ?_, fun hout => ?_⟩
  · rw [hrow, hout]; exact congrArg Host.Outcome.next (if_pos hk)
  · rw [hrow, hout]; exact congrArg Host.Outcome.next (if_neg (herase hk))
  · rw [hrow, hout]; exact congrArg Host.Outcome.next (if_pos hk)
  · rw [hrow, hout]; exact congrArg Host.Outcome.next (if_neg (herase hk))
  · rw [hrow, hout]
  · rw [hrow]
    match hu : u.opOut g id with
    | none => rfl
    | some .ok | some .fail | some .timeout => simp [hu] at hout
    | some .order | some .quiesced | some .suspect => rfl

end

/-- An erase that failed once is reported, and tried again (R341). -/
theorem State.eraseFailed_raises {o : GOp} (h : o.retried = false) (s : State) (g : Fin 8) (planes : BitVec 4) :
    (s.eraseFailed g o planes).trb 12 = true := by
  have hretry : (s.eraseFailed g o planes).sys = (s.raise 12).sys := by simp [State.eraseFailed, h]
  rw [State.trb, hretry, ← State.trb, State.trb_raise _ _ _ (by decide)]
  simp

/-! ### Read-verify (R224, R235) -/

/-- A member's codewords as read at STEP 0: each counted, and its key checked. -/
def State.verifyRead (s : State) (k : Nat) (rs : List DecodeResult) : State :=
  rs.foldl (fun (t : State) (r : DecodeResult) => t.xtsCheck r.xtsFault)
    (((s.countRead k (s.pagesOf k)).cdcCount .cdcHardCnt 0 32 "hard" rs.length).cdcCount .cdcHardBits 0 32 "bits"
      (sumNat ((rs.filter fun r => !stepLost r).map (·.raw))))

/-- A native member with a codeword near the threshold is handed to the Assay engine (R225, R261). -/
def State.verifyAssayed (s : State) (k : Nat) (rs : List DecodeResult) : State :=
  if (!(s.blk k).pslc && rs.any fun r => !stepLost r && decide (s.rewriteBits ≤ 2 * r.raw)) then (s.verifyRead k rs).searchPend k
  else s.verifyRead k rs

/-- The codewords of a member that STEP 0 did not bring. -/
def State.verifyLost (s : State) (k : Nat) (rs : List DecodeResult) : List (Loc × DecodeResult) :=
  ((s.codewordsOf k).zip rs).filter fun x => stepLost x.2

/-- Each lost codeword starts the full order; one that decoded all the same was a miscorrection (R223). -/
def State.verifyMissed (s : State) (k : Nat) (bad : List (Loc × DecodeResult)) : State :=
  bad.foldl (fun (t : State) (x : Loc × DecodeResult) => if decide (x.2.raw ≤ 295) || x.2.converged then t.miscorrect else t)
    (bad.foldl (fun (t : State) (x : Loc × DecodeResult) => (t.startRead x.1 5 (.verify k)).2) s)

section
variable {s : State} {k : Nat} (rs : List DecodeResult)

theorem exec_readVerify_noGroup (hgroup : s.groupOf k = none) : exec (.readVerify k rs) s = .next s := by
  change execReadVerify k rs s = _
  simp only [execReadVerify, hgroup]

variable {g : StripeGroup} (hgroup : s.groupOf k = some g)
include hgroup

/-- A member that is not closed, a map that does not run, or results that are not the block's. -/
theorem exec_readVerify_stays (h : (s.blk k).st ≠ .closed ∨ s.mapRuns = false ∨ rs.length ≠ 4 * s.pagesOf k) :
    exec (.readVerify k rs) s = .next s := by
  change execReadVerify k rs s = _
  simp only [execReadVerify, hgroup, Bool.not_eq_true', if_pos h]

variable (hclosed : (s.blk k).st = .closed) (hruns : s.mapRuns = true) (hlen : rs.length = 4 * s.pagesOf k)
include hclosed hruns hlen

/-- The member is verified, or its codewords that are lost are read on and it is scheduled for refresh. -/
theorem exec_readVerify_reads : exec (.readVerify k rs) s = .next (
    if rs.all s.verifies then ((s.verifyAssayed k rs).setGroup g.num fun x =>
      { x with verified := if x.verified.contains k then x.verified else x.verified ++ [k] }).releaseTry g.num
    else ((((s.verifyAssayed k rs).verifyMissed k (s.verifyLost k rs)).setGroup g.num fun x =>
      { x with failing := if x.failing.contains k then x.failing else x.failing ++ [k] }).refreshWant k 2).releaseTry g.num) := by
  have hreads : ¬((s.blk k).st ≠ .closed ∨ (!s.mapRuns) = true ∨ rs.length ≠ 4 * s.pagesOf k) := by simp [hclosed, hruns, hlen]
  change execReadVerify k rs s = _
  simp only [execReadVerify, hgroup, if_neg hreads]
  rfl

end

/-! ### Erases (R292, R297, R330, R361) -/

section
variable {s : State} {k : Nat}

/-- A released block that is not there or not erasable stays as it is. -/
theorem exec_blockErase_stays
    (h : (s.releaseOf k).mapRuns = false ∨ (s.releaseOf k).hasBlk k = false ∨ (s.releaseOf k).erasable k = false) :
    exec (.blockErase k) s = .next (s.releaseOf k) := by
  have hstays : ¬((s.releaseOf k).mapRuns && (s.releaseOf k).hasBlk k && (s.releaseOf k).erasable k) = true := by
    rcases h with h | h | h <;> simp [h]
  exact congrArg Host.Outcome.next (if_neg hstays)

variable (hruns : (s.releaseOf k).mapRuns = true) (hblk : (s.releaseOf k).hasBlk k = true) (herasable : (s.releaseOf k).erasable k = true)
include hruns hblk herasable

/-- An erasable block is retired where that waits or its third strike is due, and erased where the table has room. -/
theorem exec_blockErase_goes : exec (.blockErase k) s = .next (
    if ((s.releaseOf k).blk k).retire ≠ 0 then (s.releaseOf k).retireTry k
    else if ((s.releaseOf k).blk k).heavy = true ∧ ((s.releaseOf k).blk k).strikes ≥ 2 then (s.releaseOf k).retireBlk k 3
    else if (s.releaseOf k).wptRoom k then (s.releaseOf k).queueErase k
    else s.releaseOf k) :=
  congrArg Host.Outcome.next (if_pos (by rw [hruns, hblk, herasable]; rfl))

theorem exec_blockErase_erases (hretire : ((s.releaseOf k).blk k).retire = 0)
    (hstrikes : ((s.releaseOf k).blk k).heavy = false ∨ ((s.releaseOf k).blk k).strikes < 2) :
    exec (.blockErase k) s = .next (if (s.releaseOf k).wptRoom k then (s.releaseOf k).queueErase k else s.releaseOf k) := by
  have hlight : ¬(((s.releaseOf k).blk k).heavy = true ∧ ((s.releaseOf k).blk k).strikes ≥ 2) := by
    rintro ⟨hheavy, htwo⟩
    rcases hstrikes with h | h
    · simp [hheavy] at h
    · omega
  rw [exec_blockErase_goes hruns hblk herasable, if_neg (not_not.2 hretire), if_neg hlight]

end

section
variable {s : State} {c : Fin 128}

/-- A chamber holds an erased reserve. -/
def State.hasReserve (s : State) (c : Fin 128) : Bool := s.map.blks.any fun e => e.1 / 65536 == c.val && e.2.st == .erased && e.2.use == .none

/-- A chamber that lacks its erased reserve, and may have one (R292, R293). -/
def State.lacksReserve (s : State) (c : Fin 128) : Bool :=
  s.mapRuns && s.map.present.contains c && !s.hasReserve c && !s.suspect c && !(s.con.leaving && s.taintLeft)

theorem exec_reserveErase_stays
    (h : s.lacksReserve c = false ∨ s.reserveOf c = none ∨ ∃ k : Nat, s.reserveOf c = some k ∧ s.wptRoom k = false) :
    exec (.reserveErase c) s = .next s := by
  change execReserveErase c s = _
  rcases h with h | h | ⟨k, h, hroom⟩
  · exact congrArg Host.Outcome.next (if_neg (Bool.eq_false_iff.1 h))
  · simp only [execReserveErase, h, ite_self]
  · simp only [execReserveErase, h, hroom, Bool.false_eq_true, if_false, ite_self]

theorem exec_reserveErase_erases (h : s.lacksReserve c = true) {k : Nat} (hreserve : s.reserveOf c = some k) (hroom : s.wptRoom k = true) :
    exec (.reserveErase c) s = .next (s.queueErase k) := by
  change execReserveErase c s = _
  simp only [execReserveErase, hreserve, hroom, if_true]
  exact congrArg Host.Outcome.next (if_pos h)

/-! ### Chambers retired (R342) -/

theorem exec_chamberRetire (c : Fin 128) (s : State) : exec (.chamberRetire c) s =
    .next (if s.mapRuns && s.suspect c && s.map.present.contains c && decide (86400 ≤ Store.get (fun _ => 0) s.map.suspectSecs c.val) then
      s.retireChamber c (s.blocksOf c) else s) := rfl

end

end Sys2Proof.Machine

namespace Sys2Proof
open Machine

/-- Settles O34: each outcome of a row is a lemma above; the rest says which of a row's conditions fails. -/
theorem blockRows : Obligations.BlockRows := by
  refine fun s => ⟨fun g id o planes bad => exec_arrayOpComplete_ends planes bad, fun g id planes bad h => ?_,
    fun g o planes h => State.eraseFailed_raises h s g planes,
    fun k g rs hgroup => ⟨fun hclosed hruns hlen => ⟨fun hall => ?_, fun hsome => ?_⟩, fun h => exec_readVerify_stays rs hgroup h⟩,
    fun k rs => exec_readVerify_noGroup rs,
    fun k => ⟨fun hruns hblk herasable => ⟨fun hretire hlight hroom => ?_, fun hretire hlight hroom => ?_, fun hretire hheavy htwo => ?_,
      fun hretire => ?_⟩, exec_blockErase_stays⟩,
    fun c => ⟨fun k hruns hpresent hsuspect hhas hleave => exec_reserveErase_erases ?_, fun h => exec_reserveErase_stays ?_⟩,
    fun c hruns hsuspect hpresent => ⟨fun hday => ?_, fun hday => ?_⟩, fun c h => ?_⟩
  · rcases h with hnone | ⟨o, hop, hother⟩
    · exact exec_arrayOpComplete_none planes bad hnone
    · exact exec_arrayOpComplete_other planes bad hop hother
  · exact (exec_readVerify_reads rs hgroup hclosed hruns hlen).trans (congrArg Host.Outcome.next (if_pos hall))
  · exact (exec_readVerify_reads rs hgroup hclosed hruns hlen).trans (congrArg Host.Outcome.next (if_neg (Bool.eq_false_iff.1 hsome)))
  · rw [exec_blockErase_erases hruns hblk herasable hretire hlight, if_pos hroom]
  · rw [exec_blockErase_erases hruns hblk herasable hretire hlight, if_neg (Bool.eq_false_iff.1 hroom)]
  · rw [exec_blockErase_goes hruns hblk herasable, if_neg (not_not.2 hretire), if_pos ⟨hheavy, htwo⟩]
  · rw [exec_blockErase_goes hruns hblk herasable, if_pos hretire]
  · rw [State.lacksReserve, State.hasReserve, hruns, hpresent, hhas, hsuspect, hleave]
    rfl
  · rcases h with h | h | h | h | h | h
    · exact .inl (by simp [State.lacksReserve, h])
    · exact .inl (by simp only [State.lacksReserve, h, Bool.and_false, Bool.false_and])
    · exact .inl (by simp [State.lacksReserve, h])
    · exact .inl (by rw [State.lacksReserve, State.hasReserve, h]; simp)
    · exact .inl (by simp only [State.lacksReserve, h, Bool.not_true, Bool.and_false])
    · exact .inr h
  · rw [exec_chamberRetire, hruns, hsuspect, hpresent, decide_eq_true hday]
    rfl
  · rw [exec_chamberRetire, decide_eq_false (not_le.2 hday), Bool.and_false]
    rfl
  · have hstays : ¬(s.mapRuns && s.suspect c && s.map.present.contains c &&
        decide (86400 ≤ Store.get (fun _ => 0) s.map.suspectSecs c.val)) = true := by
      rcases h with h | h | h <;> simp only [h, Bool.false_and, Bool.and_false, Bool.false_eq_true, not_false_eq_true]
    rw [exec_chamberRetire, if_neg hstays]

end Sys2Proof
end

section
/-! The ops of a list that send cycles, and the end of a list (R149, R174, R178 to R183, R186, R260). -/

namespace Sys2Proof.Machine

/-! ### A context that takes the bus (R174) -/

/-- The context of an op that sends cycles: it holds the bus. -/
def SeqCtx.onBus (c : SeqCtx) : SeqCtx := { c with st := .bus }

@[simp] theorem SeqCtx.onBus_listSlot (c : SeqCtx) : c.onBus.listSlot = c.listSlot := rfl
@[simp] theorem SeqCtx.onBus_dataLen (c : SeqCtx) (w : Word) : c.onBus.dataLen w = c.dataLen w := rfl
@[simp] theorem SeqCtx.onBus_fits (c : SeqCtx) (n : Nat) : c.onBus.fits n = c.fits n := rfl
@[simp] theorem SeqCtx.onBus_console (c : SeqCtx) : c.onBus.console = c.console := rfl
@[simp] theorem SeqCtx.onBus_force (c : SeqCtx) : c.onBus.force = c.force := rfl
@[simp] theorem SeqCtx.onBus_step (c : SeqCtx) : c.onBus.step = c.step := rfl

@[simp] theorem State.busTaken_profile (s : State) (g : Fin 8) (x : Fin 64) :
    ((s.busTaken g x).gals.get g).profile = (s.gals.get g).profile := by rw [State.busTaken, State.gal_get_same]

@[simp] theorem State.busTaken_kindOf (s : State) (g : Fin 8) (x : Fin 64) (slot : Nat) :
    ((s.busTaken g x).gals.get g).kindOf slot = (s.gals.get g).kindOf slot := by rw [State.busTaken, State.gal_get_same]; rfl

/-- The bytes that BUF moves on by in a data op: a p4 transfer is a whole Keeper word (R181). -/
def SeqCtx.stride (c : SeqCtx) (w : Word) : Nat := if opf w 19 1 = 1 then 8 else c.dataLen w

/-- What a data op makes of bytes, randomised for the page where its rnd bit is set (R181). -/
def SeqCtx.rnd (c : SeqCtx) (g : Fin 8) (x : Fin 64) (w : Word) (l : List Nat) : List Nat :=
  if opf w 16 1 = 1 then randomise (c.seed g x) c.col.toNat l else l

/-- The loopback's mismatches of a DIN, attempt by attempt (R149). -/
def State.dinTries (s : State) (g : Fin 8) (c : SeqCtx) (r : DinRun) : List Nat :=
  let kind : Nat := (s.gals.get g).kindOf c.listSlot
  if s.rate g ≤ 1600 then [0] else if kind = 2 ∨ kind = 3 then attempts r.mismatches else r.mismatches.take 1

/-- A DIN's bytes sent, as often as its attempts say; before a third the target is trained (R149). -/
def State.dinSent (s : State) (g : Fin 8) (x : Fin 64) (c : SeqCtx) (p : Profile) (pass : Bool) (sent : List Nat) (tries : List Nat) : State :=
  ((s.cycles g x [.din sent]).parity g true (tries.headD 0)).resend g x c p sent (fun v => v.retrainOne g (ctxCe x) pass) 0 (tries.drop 1)

section
variable {s : State} {g : Fin 8} {x : Fin 64} {c : SeqCtx} {w : Word}

theorem seq_onBus {code : Nat} (f : State → SeqCtx → Word → State) (h : s.runsOp g x code c w = true) (hbus : busOp code = true) :
    s.seq g x code f = f (s.busTaken g x) c.onBus w := seq_bus f h hbus

/-! ### CMD, ADDR, DINB and DINV (R179, R180, R183, R195) -/

theorem exec_opCmd (m : Bool) (h : s.runsOp g x 0x1 c w = true) :
    exec (.opCmd g ⟨x, m⟩) s = .next (((((s.busTaken g x).cycles g x [.cmd (BitVec.ofNat 8 (opf w 0 8))]).parity g true (b2n m)).gal g
      fun y => y.forgetOfs x (opf w 0 8)).seqAdvance g x
        (if opf w 8 1 = 1 then { c.onBus with armed := some (armKind (opf w 9 2)) } else c.onBus)) :=
  congrArg Host.Outcome.next (seq_onBus _ h rfl)

theorem exec_opDinb (m : Bool) (h : s.runsOp g x 0x5 c w = true) :
    exec (.opDinb g ⟨x, m⟩) s =
      .next ((((s.busTaken g x).cycles g x [.din [opf w 0 8]]).parity g true (b2n m)).seqAdvance g x c.onBus) :=
  congrArg Host.Outcome.next (seq_onBus _ h rfl)

theorem exec_opAddr_refused (m : Nat) (h : s.runsOp g x 0x2 c w = true) (hrow : (s.busTaken g x).rowRefused g c.onBus w = true) :
    exec (.opAddr g ⟨x, m⟩) s = .next (((s.busTaken g x).addrRefused g x c.onBus).afterOrder g x) :=
  congrArg Host.Outcome.next ((seq_onBus _ h rfl).trans (if_pos hrow))

theorem exec_opAddr_sent {p : Profile} (m : Nat) (h : s.runsOp g x 0x2 c w = true) (hprof : (s.gals.get g).profile = some p)
    (hrow : (s.busTaken g x).rowRefused g c.onBus w = false) :
    exec (.opAddr g ⟨x, m⟩) s = .next ((s.busTaken g x).addrCycles g x c.onBus w p m) := by
  change Host.Outcome.next (s.opAddr g x m) = _
  rw [State.opAddr, seq_onBus _ h rfl, hrow, hprof]
  rfl

/-- A row that a forced list of a program or erase addresses (R203). -/
def State.rowForced (s : State) (g : Fin 8) (c : SeqCtx) (w : Word) : Bool :=
  (opf w 0 3 == 1 || opf w 0 3 == 2) && writeKind ((s.gals.get g).kindOf c.listSlot) && c.force

/-- The state after the address cycles of an ADDR. -/
def State.addrSent (s : State) (g : Fin 8) (x : Fin 64) (c : SeqCtx) (w : Word) (p : Profile) (m : Nat) : State :=
  (s.cycles g x [.addr (c.addr p ((ctxCh x).val % 2) (opf w 0 3) (opf w 8 8))]).parity g true m

theorem State.addrCycles_plain {p : Profile} (m : Nat) (h : s.rowForced g c w = false) :
    s.addrCycles g x c w p m = (s.addrSent g x c w p m).seqAdvance g x c := by
  rw [State.rowForced] at h
  simp only [State.addrCycles, h, Bool.false_eq_true, if_false]
  rfl

theorem State.addrCycles_forced {p : Profile} (m : Nat) (h : s.rowForced g c w = true) :
    s.addrCycles g x c w p m = ((s.addrSent g x c w p m).seqAdvance g x { c with marked := true }).taint g (ctxCh x) c.blk.toNat := by
  rw [State.rowForced] at h
  simp only [State.addrCycles, h, if_true]
  rfl

theorem State.busTaken_rowForced (s : State) (g : Fin 8) (x : Fin 64) (c : SeqCtx) (w : Word) :
    (s.busTaken g x).rowForced g c.onBus w = s.rowForced g c w := by
  simp only [State.rowForced, State.busTaken_kindOf, SeqCtx.onBus_listSlot, SeqCtx.onBus_force]

theorem exec_opDinv_sent {p : Profile} (m : Bool) (h : s.runsOp g x 0x6 c w = true) (hprof : (s.gals.get g).profile = some p)
    (hstep : opf w 4 2 ≠ 1 ∨ c.step.toNat ≤ p.retry.length) :
    exec (.opDinv g ⟨x, m⟩) s = .next ((((s.busTaken g x).cycles g x [.din [(BitVec.ofInt 8 ((s.busTaken g x).dinv (chamberOf g (ctxCh x)) p
      c.blk.toNat c.step.toNat (opf w 4 2) (opf w 0 4))).toNat]]).parity g true (b2n m)).seqAdvance g x c.onBus) := by
  have hrow : ¬(opf w 4 2 = 1 ∧ c.onBus.step.toNat > p.retry.length) := by rw [SeqCtx.onBus_step]; omega
  change Host.Outcome.next (s.opDinv g x m) = _
  simp only [State.opDinv, seq_onBus _ h rfl, hprof, if_neg hrow]
  rfl

theorem exec_opDinv_above {p : Profile} (m : Bool) (h : s.runsOp g x 0x6 c w = true) (hprof : (s.gals.get g).profile = some p)
    (hsource : opf w 4 2 = 1) (hstep : p.retry.length < c.step.toNat) :
    exec (.opDinv g ⟨x, m⟩) s = .next ((s.busTaken g x).listEnd g x c.onBus .fail 0xFD) := by
  have hrow : opf w 4 2 = 1 ∧ c.onBus.step.toNat > p.retry.length := ⟨hsource, hstep⟩
  change Host.Outcome.next (s.opDinv g x m) = _
  simp only [State.opDinv, seq_onBus _ h rfl, hprof, if_pos hrow]

/-! ### DIN (R149, R181) -/

section
variable (r : DinRun) (h : s.runsOp g x 0x3 c w = true)
include h

theorem exec_opDin_pastEnd (hfits : c.fits (c.stride w) = false) :
    exec (.opDin g x r) s = .next ((s.busTaken g x).listEnd g x c.onBus .fail 0xFE) := by
  rw [SeqCtx.stride] at hfits
  change Host.Outcome.next (s.opDin g x r none) = _
  simp [State.opDin, seq_onBus _ h rfl, hfits]

variable (hfits : c.fits (c.stride w) = true) {bytes : List Nat} {t : State}
include hfits

/-- An uncorrectable word of the Keeper fails the operation; the manual names no code (log entry 57). -/
theorem exec_opDin_uncorrectable (hbytes : (s.busTaken g x).dinBytes g x c.onBus (c.dataLen w) none = (bytes, true, t)) :
    exec (.opDin g x r) s = .next (State.listEnd { t with free := t.free + 1 } g x c.onBus .fail (Config.freeNat t.free % 256)) := by
  rw [SeqCtx.stride] at hfits
  change Host.Outcome.next (s.opDin g x r none) = _
  simp [State.opDin, seq_onBus _ h rfl, hfits, hbytes]

variable {p : Profile} (hprof : (s.gals.get g).profile = some p)
  (hbytes : (s.busTaken g x).dinBytes g x c.onBus (c.dataLen w) none = (bytes, false, t))
include hprof hbytes

theorem exec_opDin_sent :
    let tries : List Nat := s.dinTries g c r
    let u : State := t.dinSent g x c.onBus p r.pass (c.rnd g x w (bytes.take (c.dataLen w))) tries
    exec (.opDin g x r) s = .next (if tries.length = 3 ∧ tries.getD 2 0 ≠ 0 then
      State.listEnd { u with free := u.free + 1 } g x c.onBus .fail (Config.freeNat u.free % 256)
      else u.seqAdvance g x (c.onBus.moveBuf (c.stride w))) := by
  rw [SeqCtx.stride] at hfits
  change Host.Outcome.next (s.opDin g x r none) = _
  simp only [State.opDin, seq_onBus _ h rfl, SeqCtx.onBus_dataLen, SeqCtx.onBus_fits, SeqCtx.onBus_listSlot, beq_iff_eq, hfits, hbytes, hprof,
    State.busTaken_profile, State.busTaken_kindOf, Bool.not_true, Bool.false_eq_true, if_false]
  rfl

end

/-! ### DOUT (R175, R181, R202) -/

section
variable (bytes : List Byte) (m : Nat) (h : s.runsOp g x 0x4 c w = true)
include h

theorem exec_opDout_status (hdest : opf w 17 2 = 2) :
    exec (.opDout g x bytes m) s = .next ((((s.busTaken g x).cycles g x [.dout 1]).parity g false m).seqAdvance g x
      { c.onBus with s := BitVec.ofNat 8 ((c.rnd g x w (exactly 1 bytes)).headD 0) }) := by
  change Host.Outcome.next (s.opDout g x bytes m) = _
  simp only [State.opDout, seq_onBus _ h rfl, hdest, OfNat.ofNat_ne_one, false_and, if_true, if_false]
  rfl

theorem exec_opDout_codec (hdest : opf w 17 2 = 1) (hcon : c.console = false) :
    exec (.opDout g x bytes m) s = .next ((s.busTaken g x).doutCodec g x c.onBus (c.dataLen w) m) := by
  change Host.Outcome.next (s.opDout g x bytes m) = _
  simp [State.opDout, seq_onBus _ h rfl, hdest, hcon]

variable (hstatus : opf w 17 2 ≠ 2) (hkeeper : opf w 17 2 ≠ 1 ∨ c.console = true)
include hstatus hkeeper

theorem exec_opDout_keeper :
    exec (.opDout g x bytes m) s = .next (if c.fits (c.stride w) = true then
      ((((s.busTaken g x).cycles g x [.dout (c.dataLen w)]).parity g false m).kprPutBytes c.buf.toNat (ceilDiv (c.dataLen w) 8)
        (c.rnd g x w (exactly (c.dataLen w) bytes))).seqAdvance g x (c.onBus.moveBuf (c.stride w))
      else (s.busTaken g x).listEnd g x c.onBus .fail 0xFE) := by
  have hcodec : ¬(opf w 17 2 = 1 ∧ ¬c.console = true) := fun h => hkeeper.elim (absurd h.1) h.2
  rw [SeqCtx.stride]
  change Host.Outcome.next (s.opDout g x bytes m) = _
  simp only [State.opDout, seq_onBus _ h rfl, if_neg hstatus, if_neg hcodec, SeqCtx.onBus_console, SeqCtx.onBus_dataLen,
    SeqCtx.onBus_fits, beq_iff_eq, Bool.not_eq_true', ← Bool.not_eq_true, ite_not]
  rfl

end

end

/-! ### Resets of the record of offsets (R185, R186) -/

/-- Finding after entries are dropped, whatever the store. -/
theorem store_find_drop_any {α : Type} (m : Store α) (p : Nat → Bool) (i : Nat) :
    Store.find (m.drop p) i = if p i then none else Store.find m i := by
  rw [Store.find, Store.drop, List.find?_filter]
  cases hp : p i with
  | true =>
    have hnone : List.find? (fun e => decide ((!p e.1) = true ∧ (e.1 == i) = true)) m = none := by
      refine List.find?_eq_none.2 fun e _ => ?_
      simp only [decide_eq_true_eq, beq_iff_eq]
      rintro ⟨hkeep, rfl⟩
      simp [hp] at hkeep
    rw [hnone]
    rfl
  | false =>
    have hkey : (fun e : Nat × α => decide ((!p e.1) = true ∧ (e.1 == i) = true)) = fun e => e.1 == i := by
      funext e
      by_cases he : e.1 = i
      · simp [he, hp]
      · simp [he]
    rw [hkey]
    rfl

theorem Gallery.forgetOfs_other (y : Gallery) (x : Fin 64) {byte : Nat} (htarget : byte ≠ 0xFF) (hlun : byte ≠ 0xFA) :
    y.forgetOfs x byte = y := (if_neg htarget).trans (if_neg hlun)

theorem Gallery.find_forgetOfs_target (y : Gallery) (x : Fin 64) (i : Nat) :
    Store.find (y.forgetOfs x 0xFF).lastOfs i = if i / 2 = (ctxCe x).val then none else Store.find y.lastOfs i := by
  have hdrop : (y.forgetOfs x 0xFF).lastOfs = Store.drop (fun i => i / 2 == (ctxCe x).val) y.lastOfs := rfl
  simp only [hdrop, store_find_drop_any, beq_iff_eq]

/-! ### Parity of the bus (R149, R150) -/

theorem State.parity_none {s : State} {g : Fin 8} (wr : Bool) {n : Nat} (h : n = 0 ∨ s.rate g ≤ 1600) : s.parity g wr n = s := if_pos h

@[simp] theorem State.markRetrain_parityErrs (s : State) (g : Fin 8) :
    ((s.markRetrain g).gals.get g).parityErrs = (s.gals.get g).parityErrs := by
  unfold State.markRetrain
  dsimp only
  split
  · rw [State.setRf_gals, State.gal_get_same]
  · rfl

@[simp] theorem State.trb_markRetrain (s : State) (g : Fin 8) (n : Nat) : (s.markRetrain g).trb n = s.trb n := by
  rw [State.trb, State.markRetrain_sys, State.trb]

@[simp] theorem State.trb_gal (s : State) (g : Fin 8) (f : Gallery → Gallery) (n : Nat) : (s.gal g f).trb n = s.trb n := rfl

/-- Mismatches counted for a gallery, in its register and in its state, and reported in the trouble word. -/
def State.mismatched (s : State) (g : Fin 8) (wr : Bool) (n : Nat) : State :=
  ((s.bump (.galParity g) (if wr then 16 else 0) 16 n).gal g fun y => { y with parityErrs := y.parityErrs + n }).raise 14

theorem State.mismatched_parityErrs (s : State) (g : Fin 8) (wr : Bool) (n : Nat) :
    ((s.mismatched g wr n).gals.get g).parityErrs = (s.gals.get g).parityErrs + n := by
  simp only [State.mismatched, State.raise_gals, State.gal_get_same, State.bump_gals]

theorem State.mismatched_trb (s : State) (g : Fin 8) (wr : Bool) (n : Nat) : (s.mismatched g wr n).trb 14 = true := by
  simp [State.mismatched, State.trb_raise]

/-- Mismatches above 1600 MT/s are counted, and either mark a retraining or join the log of the last 10 ms. -/
theorem State.parity_above {s : State} {g : Fin 8} (wr : Bool) {n : Nat} (hn : 0 < n) (hrate : 1600 < s.rate g) :
    s.parity g wr n = ((s.mismatched g wr n).gal g fun y => { y with parityLog := [] }).markRetrain g ∨
      ∃ log : List (Nat × Nat), s.parity g wr n = (s.mismatched g wr n).gal g fun y => { y with parityLog := log } := by
  have habove : ¬(n = 0 ∨ s.rate g ≤ 1600) := by omega
  rw [State.parity, if_neg habove]
  dsimp only
  split
  · exact .inl rfl
  · exact .inr ⟨_, rfl⟩

/-- Mismatches above 1600 MT/s are reported in the trouble word and counted. -/
theorem State.parity_counts {s : State} {g : Fin 8} (wr : Bool) {n : Nat} (hn : 0 < n) (hrate : 1600 < s.rate g) :
    (s.parity g wr n).trb 14 = true ∧ ((s.parity g wr n).gals.get g).parityErrs = (s.gals.get g).parityErrs + n := by
  rcases State.parity_above wr hn hrate with h | ⟨log, h⟩ <;> rw [h]
  · simp only [State.trb_markRetrain, State.trb_gal, State.mismatched_trb, State.markRetrain_parityErrs, State.gal_get_same,
      State.mismatched_parityErrs, and_self]
  · simp only [State.trb_gal, State.mismatched_trb, State.gal_get_same, State.mismatched_parityErrs, and_self]

/-! ### The end of a list (R178) -/

/-- Two changes of one gallery are one change of it. -/
theorem State.gal_gal (s : State) (g : Fin 8) (f f' : Gallery → Gallery) : (s.gal g f).gal g f' = s.gal g fun y => f' (f y) := by
  have hset (v : Vector Gallery 8) (a b : Gallery) : setAt (setAt v g a) g b = setAt v g b := by simp [setAt]
  rw [State.gal, State.gal_get_same]
  exact congrArg (fun l => { s with gals := l }) (hset _ _ _)

/-- A yield point frees the bus of its context (R175). -/
theorem State.yieldBus_eq (s : State) (g : Fin 8) (x : Fin 64) :
    s.yieldBus g x = s.gal g fun y => { y with bus := if y.bus = some x then none else y.bus } := by
  refine State.gal_congr ?_
  split <;> rfl

/-- The context of a list that has ended: idle, with its outcome, code and status byte on record. -/
def SeqCtx.ended (c : SeqCtx) (o : Outc) (code : Nat) : SeqCtx :=
  { c with
    st := .idle, ret := none, slot := c.listSlot, lastOut := o, lastCode := BitVec.ofNat 8 code, lastS := c.s, lastSlot := c.listSlot
    armed := none, polled := false, moved := 0, applying := none }

/-- An operation as the end of the list of its context leaves it. -/
def GOp.listEnded (p : GOp) (x : Fin 64) (o : Outc) (code : Nat) : GOp :=
  if p.running && p.ctx == x.val && p.outcome.isNone then { p with ready := true, outcome := some (o, code) } else p

/-- A gallery as the end of a list of the scheduler's leaves it. -/
def Gallery.listEnded (y : Gallery) (x : Fin 64) (c : SeqCtx) (o : Outc) (code : Nat) : Gallery :=
  { y with
    ctxs := Store.ins x.val (c.ended o code) y.ctxs
    bus := if y.bus = some x then none else y.bus
    lastOfs := if y.kindOf c.listSlot = 5 then y.lastOfs.del (ctxCh x).val else y.lastOfs
    ops := y.ops.map fun p => p.listEnded x o code }

/-- The end of a list the scheduler runs is a change of its gallery. -/
theorem State.listEnd_gal (s : State) (g : Fin 8) (x : Fin 64) {c : SeqCtx} (o : Outc) (code : Nat) (hcon : c.console = false) :
    s.listEnd g x c o code = s.gal g fun y => y.listEnded x c o code := by
  have hidle : (s.setCtx g x (c.ended o code)).yieldBus g x = s.gal g fun y =>
      { y with ctxs := Store.ins x.val (c.ended o code) y.ctxs, bus := if y.bus = some x then none else y.bus } := by
    rw [State.yieldBus_eq, State.setCtx, State.gal_gal]
  have hend : s.listEnd g x c o code = State.gal (if (s.gals.get g).kindOf c.listSlot = 5
      then ((s.setCtx g x (c.ended o code)).yieldBus g x).gal g fun y => { y with lastOfs := y.lastOfs.del (ctxCh x).val }
      else (s.setCtx g x (c.ended o code)).yieldBus g x) g fun y => { y with ops := y.ops.map fun p => p.listEnded x o code } :=
    if_neg (Bool.eq_false_iff.1 hcon)
  rw [hend, hidle]
  by_cases hkind : (s.gals.get g).kindOf c.listSlot = 5
  · rw [if_pos hkind, State.gal_gal, State.gal_gal]
    exact State.gal_congr (by rw [Gallery.listEnded, if_pos hkind])
  · rw [if_neg hkind, State.gal_gal]
    exact State.gal_congr (by rw [Gallery.listEnded, if_neg hkind])

theorem State.gal_get_ne (s : State) {g h : Fin 8} (f : Gallery → Gallery) (hne : h ≠ g) : (s.gal g f).gals.get h = s.gals.get h := by
  simp [State.gal, get_setAt, hne]

/-- The bus is free of a context whose list has ended. -/
theorem Gallery.listEnded_bus (y : Gallery) (x : Fin 64) (c : SeqCtx) (o : Outc) (code : Nat) : (y.listEnded x c o code).bus ≠ some x := by
  unfold Gallery.listEnded
  dsimp only
  split
  · nofun
  · assumption

end Sys2Proof.Machine

namespace Sys2Proof
open Machine

/-- Settles O29: each outcome of an op is a lemma above; the end of a list the scheduler runs changes its gallery alone. -/
theorem sequencerBusRows : Obligations.SequencerBusRows := by
  refine ⟨fun s g x c w => ⟨fun m h => exec_opCmd m h,
      fun p m h hprof hrow => ⟨fun hplain => ?_, fun hforced => ?_⟩, fun m h => exec_opAddr_refused m h,
      fun r h => ⟨exec_opDin_pastEnd r h, fun p bytes t hfits hprof hbytes => ⟨fun hgood => ?_, fun hthree hbad => ?_⟩,
        fun bytes t hfits hbytes => ⟨_, Nat.mod_lt _ (by decide), exec_opDin_uncorrectable r h hfits hbytes⟩⟩,
      fun m bytes h => ⟨exec_opDout_status bytes m h, exec_opDout_codec bytes m h, fun hstatus hkeeper hfits => ?_,
        fun hstatus hkeeper hfits => ?_⟩,
      fun m h => exec_opDinb m h, fun p m h hprof => ⟨exec_opDinv_sent m h hprof, exec_opDinv_above m h hprof⟩⟩,
    fun s g y x byte n wr => ⟨y.forgetOfs_other x, y.find_forgetOfs_target x, State.parity_none wr, State.parity_counts wr⟩,
    fun s g x c o code hcon => ?_⟩
  · rw [exec_opAddr_sent m h hprof hrow, State.addrCycles_plain m ((s.busTaken_rowForced g x c w).trans hplain)]
    rfl
  · rw [exec_opAddr_sent m h hprof hrow, State.addrCycles_forced m ((s.busTaken_rowForced g x c w).trans hforced)]
    rfl
  · exact (exec_opDin_sent r h hfits hprof hbytes).trans (congrArg Host.Outcome.next (if_neg hgood))
  · exact ⟨_, Nat.mod_lt _ (by decide), (exec_opDin_sent r h hfits hprof hbytes).trans (congrArg Host.Outcome.next (if_pos ⟨hthree, hbad⟩))⟩
  · exact (exec_opDout_keeper bytes m h hstatus hkeeper).trans (congrArg Host.Outcome.next (if_neg (Bool.eq_false_iff.1 hfits)))
  · exact (exec_opDout_keeper bytes m h hstatus hkeeper).trans (congrArg Host.Outcome.next (if_pos hfits))
  · intro t
    have ht : t = s.gal g fun y => y.listEnded x c o code := s.listEnd_gal g x o code hcon
    have hget : t.gals.get g = (s.gals.get g).listEnded x c o code := by rw [ht, State.gal_get_same]
    rw [hget]
    refine ⟨⟨c.ended o code, store_find_ins _ _ _, rfl, rfl, rfl, rfl, rfl, rfl, rfl⟩, Gallery.listEnded_bus _ _ _ _ _, rfl,
      fun h hne => ?_, ?_⟩
    · rw [ht, State.gal_get_ne s _ hne]
    · rw [ht]
      rfl

end Sys2Proof
end

section
/-! The ops of a list that read status, and those that send nothing (R175, R177 to R179, R182, R186, R192). -/

namespace Sys2Proof.Machine

/-! ### A field of one bit, and the width of a register -/

/-- A number with a multiple of 2¹⁶ added is the same in a register of 16 bits or fewer. -/
theorem ofNat_add_of_dvd {n : Nat} (hn : n ≤ 16) (v : Nat) {k : Nat} (hk : 2 ^ 16 ∣ k) : BitVec.ofNat n (v + k) = BitVec.ofNat n v := by
  apply BitVec.eq_of_toNat_eq
  rw [BitVec.toNat_ofNat, BitVec.toNat_ofNat, Nat.add_mod, Nat.mod_eq_zero_of_dvd ((Nat.pow_dvd_pow 2 hn).trans hk), Nat.add_zero, Nat.mod_mod]

/-- A context register keeps its width (R177). -/
theorem SeqCtx.put_add_of_dvd (c : SeqCtx) (i v : Nat) {k : Nat} (hk : 2 ^ 16 ∣ k) : c.put i (v + k) = c.put i v := by
  unfold SeqCtx.put
  split <;> rw [ofNat_add_of_dvd (by decide) v hk]

/-! ### Status (R149, R175, R179) -/

theorem State.statusCycles_plain (s : State) (g : Fin 8) (x : Fin 64) (c : SeqCtx) : s.statusCycles g x c false = [.cmd 0x70, .dout 1] := rfl

theorem State.statusCycles_enhanced {s : State} {g : Fin 8} {p : Profile} (x : Fin 64) (c : SeqCtx) (hprof : (s.gals.get g).profile = some p) :
    s.statusCycles g x c true = [.cmd 0x78, .addr (p.row ((ctxCh x).val % 2) c.blk.toNat c.page.toNat), .dout 1] := by
  simp only [State.statusCycles, hprof, if_true]

/-- The state after a status read of a context: its cycles, and what the pad receivers sampled otherwise. -/
def State.statusRead (s : State) (g : Fin 8) (x : Fin 64) (c : SeqCtx) (w : Word) (r : StatusIn) : State :=
  (s.cycles g x (s.statusCycles g x c (opf w 16 1 == 1))).statusParity g r

section
variable {s : State} {g : Fin 8} {x : Fin 64} {c : SeqCtx} {w : Word}

theorem exec_opStat (r : StatusIn) (h : s.runsOp g x 0xA c w = true) : exec (.opStat g x r) s =
    .next (((s.busTaken g x).statusRead g x c.onBus w r).seqAdvance g x { c.onBus with s := r.status }) :=
  congrArg Host.Outcome.next (seq_onBus _ h rfl)

section
variable (r : StatusIn) (h : s.runsOp g x 0x9 c w = true)
include h

theorem exec_opPoll_delays (hdelay : opf w 17 3 ≠ 0) (hfirst : c.polled = false) :
    exec (.opPoll g x r) s = .next (((s.busTaken g x).setCtx g x { c with st := .waiting, polled := true }).yieldBus g x) :=
  congrArg Host.Outcome.next ((seq_onBus _ h rfl).trans (if_pos ⟨hdelay, by rw [SeqCtx.onBus, hfirst]; rfl⟩))

theorem exec_opPoll_reads (hdue : opf w 17 3 = 0 ∨ c.polled = true) :
    exec (.opPoll g x r) s = .next (if (r.status &&& BitVec.ofNat 8 (opf w 0 8)) = BitVec.ofNat 8 (opf w 8 8)
      then ((s.busTaken g x).statusRead g x c.onBus w r).seqAdvance g x { c.onBus with s := r.status }
      else (((s.busTaken g x).statusRead g x c.onBus w r).setCtx g x
        { c.onBus with s := r.status, st := .polling, polled := true }).yieldBus g x) := by
  have hread : ¬(opf w 17 3 ≠ 0 ∧ (!c.onBus.polled) = true) := by
    rintro ⟨hdelay, hfirst⟩
    rcases hdue with hnone | hran
    · exact hdelay hnone
    · simp [SeqCtx.onBus, hran] at hfirst
  exact congrArg Host.Outcome.next ((seq_onBus _ h rfl).trans (if_neg hread))

end

/-! ### Waits, branches and loops (R175, R179, R182, R192) -/

theorem exec_opWait (h : s.runsOp g x 0x7 c w = true) : exec (.opWait g x) s =
    .next (if opf w 18 1 = 1 then (s.seqAdvance g x { c with st := .waiting }).yieldBus g x else s.seqAdvance g x c) :=
  congrArg Host.Outcome.next (seq_plain _ h rfl)

theorem exec_opWaitp (h : s.runsOp g x 0x8 c w = true) : exec (.opWaitp g x) s = .next (s.seqAdvance g x c) :=
  congrArg Host.Outcome.next (seq_plain _ h rfl)

/-- The condition of a BR (R179). -/
abbrev SeqCtx.branches (c : SeqCtx) (w : Word) : Prop :=
  (opf w 16 2 = 0 ∧ (c.s &&& BitVec.ofNat 8 (opf w 0 8)) = BitVec.ofNat 8 (opf w 8 8)) ∨
  (opf w 16 2 = 1 ∧ (c.s &&& BitVec.ofNat 8 (opf w 0 8)) ≠ BitVec.ofNat 8 (opf w 8 8)) ∨
  (opf w 16 2 = 2 ∧ c.l0 = 0) ∨ (opf w 16 2 = 3 ∧ c.l1 = 0)

theorem exec_opBr (h : s.runsOp g x 0xB c w = true) :
    exec (.opBr g x) s = .next (if c.branches w then s.setCtx g x { c with pc := opf w 18 6 } else s.seqAdvance g x c) := by
  have hcond : opf w 16 2 = 0 ∨ opf w 16 2 = 1 ∨ opf w 16 2 = 2 ∨ opf w 16 2 = 3 := by
    have hlt : opf w 16 2 < 4 := fld_lt w 16 2
    omega
  change Host.Outcome.next (s.opBr g x) = _
  rw [State.opBr, seq_plain _ h rfl]
  rcases hcond with hcond | hcond | hcond | hcond <;> simp [hcond, SeqCtx.branches]

theorem exec_opSetl (h : s.runsOp g x 0xC c w = true) : exec (.opSetl g x) s = .next (s.seqAdvance g x (c.setLoop (opf w 16 1)
    (if opf w 17 1 = 0 then max 1 (opf w 0 16) else if opf w 21 1 = 1 then c.get (opf w 18 3) - 1 else max 1 (c.get (opf w 18 3))))) := by
  have hsource : opf w 17 1 = 0 ∨ opf w 17 1 = 1 := by
    have hlt : opf w 17 1 < 2 := fld_lt w 17 1
    omega
  change Host.Outcome.next (s.opSetl g x) = _
  rw [State.opSetl, seq_plain _ h rfl]
  rcases hsource with hsource | hsource <;> simp [hsource]

theorem exec_opLoop_l0 (h : s.runsOp g x 0xD c w = true) (hcounter : opf w 16 1 = 0) : exec (.opLoop g x) s =
    .next (if 1 < c.l0 then s.setCtx g x { c with l0 := c.l0 - 1, pc := opf w 0 6 } else s.seqAdvance g x { c with l0 := c.l0 - 1 }) := by
  change Host.Outcome.next (s.opLoop g x) = _
  simp only [State.opLoop, seq_plain _ h rfl, hcounter, if_true]
  rfl

theorem exec_opLoop_l1 (h : s.runsOp g x 0xD c w = true) (hcounter : opf w 16 1 = 1) : exec (.opLoop g x) s =
    .next (if 1 < c.l1 then s.setCtx g x { c with l1 := c.l1 - 1, pc := opf w 0 6 } else s.seqAdvance g x { c with l1 := c.l1 - 1 }) := by
  change Host.Outcome.next (s.opLoop g x) = _
  simp only [State.opLoop, seq_plain _ h rfl, hcounter, one_ne_zero, if_false]
  rfl

/-! ### Registers (R177, R179) -/

theorem exec_opSet_sets (h : s.runsOp g x 0xE c w = true) (hadd : opf w 19 1 = 0) :
    exec (.opSet g x) s = .next (s.seqAdvance g x (c.put (opf w 16 3) (opf w 0 16))) := by
  change Host.Outcome.next (s.opSet g x) = _
  simp only [State.opSet, seq_plain _ h rfl, hadd, zero_ne_one, if_false]

/-- The immediate is signed: what its sign adds is past the register's width. -/
theorem exec_opSet_adds (h : s.runsOp g x 0xE c w = true) (hadd : opf w 19 1 = 1) :
    exec (.opSet g x) s = .next (s.seqAdvance g x (c.put (opf w 16 3) (c.get (opf w 16 3) + opf w 0 16))) := by
  have hsign : 2 ^ 16 ∣ if opf w 0 16 ≥ 0x8000 then 2 ^ 32 - 0x10000 else 0 := by split <;> decide
  change Host.Outcome.next (s.opSet g x) = _
  simp only [State.opSet, seq_plain _ h rfl, hadd, if_true, c.put_add_of_dvd _ _ hsign]

/-! ### Calls and the end of a list (R178, R179, R186) -/

/-- A slot's list entered by a call, or passed over where the slot is empty. -/
def State.enterSlot (s : State) (g : Fin 8) (x : Fin 64) (c : SeqCtx) (n : Nat) (l : Option (List Int)) : State :=
  if ((s.gals.get g).slots.getD n none).isNone then s.seqAdvance g x c
  else s.setCtx g x { c with slot := n, pc := 0, ret := some (c.slot, c.pc + 1), applying := l }

theorem State.enterSlot_enters {n : Nat} (l : Option (List Int)) (hslot : ((s.gals.get g).slots.getD n none).isSome = true) :
    s.enterSlot g x c n l = s.setCtx g x { c with slot := n, pc := 0, ret := some (c.slot, c.pc + 1), applying := l } :=
  if_neg (by rw [Option.isNone_iff_eq_none]; exact Option.isSome_iff_ne_none.1 hslot)

theorem State.enterSlot_empty {n : Nat} (l : Option (List Int)) (hslot : ((s.gals.get g).slots.getD n none) = none) :
    s.enterSlot g x c n l = s.seqAdvance g x c := if_pos (by rw [hslot]; rfl)

theorem exec_opCall (h : s.runsOp g x 0xF c w = true) (hhook : opf w 0 6 ≠ 26) :
    exec (.opCall g x) s = .next (s.enterSlot g x c (opf w 0 6) none) :=
  congrArg Host.Outcome.next ((seq_plain _ h rfl).trans (if_neg hhook))

/-- A call of hook 26 runs where the set of the block's group is not the one its chamber had last. -/
theorem exec_opCall_hook {p : Profile} (h : s.runsOp g x 0xF c w = true) (hhook : opf w 0 6 = 26) (hprof : (s.gals.get g).profile = some p) :
    let l : List Int := s.offsetSet (chamberOf g (ctxCh x)) p c.blk.toNat c.step.toNat c.pslc
    exec (.opCall g x) s = .next (if Store.find (s.gals.get g).lastOfs (ctxCh x).val = some l then s.seqAdvance g x c
      else s.enterSlot g x c (if c.pslc then 27 else 26) (some l)) := by
  change Host.Outcome.next (s.opCall g x) = _
  simp only [State.opCall, seq_plain _ h rfl, hhook, hprof, if_true]
  rfl

theorem exec_opEnd_fails (h : s.runsOp g x 0x0 c w = true) (hfail : opf w 8 1 = 1) :
    exec (.opEnd g x) s = .next (s.listEnd g x c .fail (opf w 0 8)) :=
  congrArg Host.Outcome.next ((seq_plain _ h rfl).trans (if_pos hfail))

variable (h : s.runsOp g x 0x0 c w = true) (hok : opf w 8 1 = 0)
include h hok

theorem exec_opEnd_ends (hret : c.ret = none) : exec (.opEnd g x) s = .next (s.listEnd g x c .ok (opf w 0 8)) := by
  change Host.Outcome.next (s.opEnd g x) = _
  simp only [State.opEnd, seq_plain _ h rfl, hok, zero_ne_one, if_false, hret]

variable {slot pc : Nat} (hret : c.ret = some (slot, pc))
include hret

theorem exec_opEnd_returns (hplain : c.applying = none) :
    exec (.opEnd g x) s = .next (s.setCtx g x { c with slot, pc, ret := none, applying := none }) := by
  change Host.Outcome.next (s.opEnd g x) = _
  simp only [State.opEnd, seq_plain _ h rfl, hok, zero_ne_one, if_false, hret, hplain]

/-- A hook that ends has applied its set. -/
theorem exec_opEnd_applies {l : List Int} (hset : c.applying = some l) : exec (.opEnd g x) s =
    .next ((s.gal g fun y => { y with lastOfs := Store.ins (ctxCh x).val l y.lastOfs }).setCtx g x
      { c with slot, pc, ret := none, applying := none }) := by
  change Host.Outcome.next (s.opEnd g x) = _
  simp only [State.opEnd, seq_plain _ h rfl, hok, zero_ne_one, if_false, hret, hset]

end

end Sys2Proof.Machine

namespace Sys2Proof
open Machine

/-- Settles O30: each outcome of an op is a lemma above; the rest says which of an op's conditions holds. -/
theorem sequencerRegisterRows : Obligations.SequencerRegisterRows := by
  refine ⟨fun s g x c w r => ⟨fun hplain => ?_, fun p henhanced hprof => ?_, exec_opPoll_delays r, fun h hdue hvalue => ?_,
      fun h hdue hvalue => ?_, exec_opStat r⟩,
    fun s g x c w => ⟨fun h hstay => ?_, fun h hyield => (exec_opWait h).trans (congrArg Host.Outcome.next (if_pos hyield)), exec_opWaitp,
      exec_opBr, exec_opSetl, exec_opLoop_l0, exec_opLoop_l1, exec_opSet_sets, exec_opSet_adds,
      fun h hhook => ⟨fun hslot => ?_, fun hslot => ?_⟩, fun p l h hhook hprof hset => ?_,
      fun slot pc h hok hret => ⟨exec_opEnd_returns h hok hret, fun l => exec_opEnd_applies h hok hret⟩, exec_opEnd_ends, exec_opEnd_fails⟩⟩
  · rw [hplain]
    exact State.statusCycles_plain _ g x _
  · rw [henhanced]
    exact State.statusCycles_enhanced x _ ((s.busTaken_profile g x).trans hprof)
  · exact (exec_opPoll_reads r h hdue).trans (congrArg Host.Outcome.next (if_pos hvalue))
  · exact (exec_opPoll_reads r h hdue).trans (congrArg Host.Outcome.next (if_neg hvalue))
  · rw [exec_opWait h, hstay, if_neg zero_ne_one]
  · rw [exec_opCall h hhook, State.enterSlot_enters none hslot]
  · rw [exec_opCall h hhook, State.enterSlot_empty none hslot]
  · have hcall := exec_opCall_hook h hhook hprof
    rw [hset] at hcall
    refine ⟨fun hlast => ?_, fun hlast hslot => ?_, fun hlast hslot => ?_⟩
    · rw [hcall, if_pos hlast]
    · rw [hcall, if_neg hlast, State.enterSlot_empty _ hslot]
    · rw [hcall, if_neg hlast, State.enterSlot_enters _ hslot]

end Sys2Proof
end

section
/-! Frames of single rows: what a row that changes one part of the device leaves as it was (R54, R168, R365, R391, R401, R460, R488, R547, R552). -/

namespace Sys2Proof.Machine

/-! ### One register -/

/-- Two states that differ in one register at most. -/
def State.EqOffReg (s t : State) (q : Reg) : Prop := { t with regs := s.regs } = s ∧ ∀ r : Reg, r ≠ q → t.reg r = s.reg r

theorem State.EqOffReg.refl (s : State) (q : Reg) : s.EqOffReg s q := ⟨rfl, fun _ _ => rfl⟩

theorem State.EqOffReg.setReg {s t : State} {q : Reg} (h : s.EqOffReg t q) (v : Word) : s.EqOffReg (t.setReg q v) q :=
  ⟨h.1, fun r hr => (t.reg_setReg_ne v hr).trans (h.2 r hr)⟩

theorem State.EqOffReg.setRf {s t : State} {q : Reg} (h : s.EqOffReg t q) (lo n v : Nat) : s.EqOffReg (t.setRf q lo n v) q := h.setReg _

/-- The root that starts writes SYS_CLK alone. -/
theorem State.rootOn_eqOffReg (s : State) : s.EqOffReg s.rootOn .sysClk :=
  (((((State.EqOffReg.refl s .sysClk).setRf _ _ _).setRf _ _ _).setRf _ _ _).setRf _ _ _).setRf _ _ _

section
variable {s t : State}

theorem exec_rootPllLock_eqOffReg (h : exec .rootPllLock s = .next t) : s.EqOffReg t .sysClk := by
  change execRootPllLock s = _ at h
  rw [← Host.Outcome.next.inj h]
  split
  · exact s.rootOn_eqOffReg
  · exact State.EqOffReg.refl s _

theorem exec_sysCauseClear_eqOffReg {mask : Word} (h : exec (.sysCauseClear mask) s = .next t) : s.EqOffReg t .sysCause := by
  rw [← Host.Outcome.next.inj h]
  exact (State.EqOffReg.refl s _).setReg _

theorem exec_galSuspectClear_eqOffReg {g : Fin 8} {mask : BitVec 16} (h : exec (.galSuspectClear g mask) s = .next t) :
    s.EqOffReg t (.galSuspect g) := by
  rw [← Host.Outcome.next.inj ((exec_galSuspectClear g mask s).symm.trans h)]
  exact (State.EqOffReg.refl s _).setReg _

/-! ### One unit -/

theorem exec_idleAckTimer_frame {p : Port} (h : exec (.idleAckTimer p) s = .next t) : { t with teth := s.teth } = s := by
  change execIdleAckTimer p s = _ at h
  rw [← Host.Outcome.next.inj h]
  split <;> rfl

theorem exec_mismatchHelloTimer_frame {p : Port} (h : exec (.mismatchHelloTimer p) s = .next t) : { t with teth := s.teth } = s := by
  change execMismatchHelloTimer p s = _ at h
  rw [← Host.Outcome.next.inj h]
  split <;> rfl

/-- A stop of a channel that does not run changes nothing. -/
theorem State.dmaStop_frame (s : State) (n : Fin 8) :
    { s.dmaStop n with dma := s.dma } = s ∧ ∀ m : Fin 8, m ≠ n → (s.dmaStop n).dma.get m = s.dma.get m := by
  unfold State.dmaStop
  split
  · exact ⟨rfl, fun m hm => (get_setAt s.dma n m _).trans (if_neg hm)⟩
  · exact ⟨rfl, fun _ _ => rfl⟩

theorem exec_dmaStop_frame {n : Fin 8} (h : exec (.dmaStop n) s = .next t) :
    { t with dma := s.dma } = s ∧ ∀ m : Fin 8, m ≠ n → t.dma.get m = s.dma.get m := by
  rw [← Host.Outcome.next.inj h]
  exact s.dmaStop_frame n

theorem exec_lanternStatus_frame (h : exec .lanternStatus s = .next t) : { t with lan := s.lan } = s := by
  change execLanternStatus s = _ at h
  rw [← Host.Outcome.next.inj h]
  split <;> rfl

theorem exec_partialLineTimeout_frame (h : exec .partialLineTimeout s = .next t) : { t with con := s.con } = s := by
  change execPartialLineTimeout s = _ at h
  rw [← Host.Outcome.next.inj h]
  split <;> rfl

theorem exec_checkpointTimer_frame (h : exec .checkpointTimer s = .next t) : { t with map := s.map } = s := by
  change execCheckpointTimer s = _ at h
  rw [← Host.Outcome.next.inj h]
  split <;> rfl

/-! ### A rail or a pin (R51, R54) -/

theorem exec_lastRailGood_frame (h : exec .lastRailGood s = .next t) : { t with sys := s.sys } = s := by
  rw [← Host.Outcome.next.inj h]

theorem exec_perstDeasserted_frame (h : exec .perstDeasserted s = .next t) : { t with sys := s.sys } = s := by
  rw [← Host.Outcome.next.inj h]

theorem exec_rstNHigh_frame (h : exec .rstNHigh s = .next t) : { t with sys := s.sys } = s := by
  rw [← Host.Outcome.next.inj h]

end

end Sys2Proof.Machine

namespace Sys2Proof
open Machine

/-- Settles O59: one frame for each row. -/
theorem rowFrames : Obligations.RowFrames := by
  refine fun s t i h => ⟨fun p hi => ?_, fun n hi => exec_dmaStop_frame (hi ▸ h), fun hi => exec_lanternStatus_frame (hi ▸ h),
    fun hi => exec_partialLineTimeout_frame (hi ▸ h), fun hi => exec_checkpointTimer_frame (hi ▸ h), fun hi => ?_,
    fun hi => exec_rootPllLock_eqOffReg (hi ▸ h), fun mask hi => exec_sysCauseClear_eqOffReg (hi ▸ h),
    fun g m hi => exec_galSuspectClear_eqOffReg (hi ▸ h)⟩
  · rcases hi with rfl | rfl
    · exact exec_idleAckTimer_frame h
    · exact exec_mismatchHelloTimer_frame h
  · rcases hi with rfl | rfl | rfl
    · exact exec_lastRailGood_frame h
    · exact exec_perstDeasserted_frame h
    · exact exec_rstNHigh_frame h

end Sys2Proof
end

section
/-! The decodes of the Codec: hard and soft ones of a running read, a soft one cut short, and the rebuild from the stripe (R219, R222, R237,
R239). -/

namespace Sys2Proof.Machine

section
variable {s : State} {id : Nat} (r : DecodeResult)

/-! ### Hard decodes (R220, R222, R223) -/

/-- What follows from what a hard decode finds. -/
def State.hardFound (s : State) (x : Rd) (step : Nat) (r : DecodeResult) : Found → State
  | .pass c => s.hardPass x step r.raw c r.outOk
  | .wrong => (if x.only0 then s else s.miscorrect).hardFail x step
  | .fail => s.hardFail x step
  | .noKey => s.cryptoFault x

theorem exec_hardDecode_none (hrd : s.rd? id = none) : exec (.hardDecode id r) s = .next s := by
  change execHardDecode id r s = _
  simp only [execHardDecode, hrd]

section
variable {x : Rd} (hrd : s.rd? id = some x)
include hrd

theorem exec_hardDecode_stays (h : x.hardStep = none ∨ s.reading x = false) : exec (.hardDecode id r) s = .next s := by
  change execHardDecode id r s = _
  rcases h with h | h
  · simp only [execHardDecode, hrd, h]
  · cases hstep : x.hardStep <;> simp only [execHardDecode, hrd, hstep, h, Bool.not_false, if_true]

/-- A read whose list did not bring the codeword has failed its step; any other is decoded, and the decode counted. -/
theorem exec_hardDecode_runs {step : Nat} (hstep : x.hardStep = some step) (hreading : s.reading x = true) :
    let u : State := (s.readDone x).xtsCheck r.xtsFault
    exec (.hardDecode id r) s = .next (if u.readOk x then (u.cdcCount .cdcHardCnt 0 32 "hard").hardFound x step r (u.hardFinds x r)
      else u.hardFail x step) := by
  intro u
  change execHardDecode id r s = _
  simp only [execHardDecode, hrd, hstep, hreading, Bool.not_true, Bool.false_eq_true, if_false]
  change Host.Outcome.next (if !u.readOk x then u.hardFail x step else
    (u.cdcCount .cdcHardCnt 0 32 "hard").hardFound x step r (u.hardFinds x r)) = _
  cases u.readOk x <;> rfl

end

/-- Up to 295 bit errors a hard decode converges. -/
theorem State.hardFinds_within (x : Rd) (h : r.raw ≤ 295) : s.hardFinds x r = s.check x r := if_pos h

/-- Above 295 it fails, or converges to something wrong. -/
theorem State.hardFinds_beyond (x : Rd) (h : 295 < r.raw) : s.hardFinds x r = if r.converged then .wrong else .fail := if_neg (not_le.2 h)

/-! ### Soft decodes (R219, R222, R239) -/

/-- What follows from what a soft decode finds. -/
def State.softFound (s : State) (x : Rd) (r : DecodeResult) : Found → State
  | .pass c => (((s.raise 16).softEffort x.loc.blk).endRead x).deliver x c r.outOk
  | .wrong => s.miscorrect.softFail x
  | .fail => s.softFail x
  | .noKey => s.cryptoFault x

/-- A soft stage of a read, tried and counted. -/
def State.softTried (s : State) (x : Rd) : State := s.cdcCount .cdcSoftCnt x.softHalf 16 "soft"

section
variable {x : Rd} {lane : Fin 2} (hrd : s.rd? id = some x)
include hrd

theorem exec_softDecode_stays (h : x.soft = false ∨ x.softLane ≠ some lane ∨ s.reading x = false) :
    exec (.softDecode id lane r) s = .next s := by
  have hnot : ¬(x.soft && x.softLane == some lane && s.reading x) = true := by
    rcases h with h | h | h <;> simp [h]
  change execSoftDecode id lane r s = _
  simp only [execSoftDecode, hrd, if_neg hnot]

variable (hsoft : x.soft = true) (hlane : x.softLane = some lane) (hreading : s.reading x = true)
include hsoft hlane hreading

/-- Each of the stage's two rows has to be read before the decode, which is counted. -/
theorem exec_softDecode_runs : let u : State := (s.readDone x).xtsCheck r.xtsFault
    let v : State := u.readRow x (s.softRow2 x)
    exec (.softDecode id lane r) s = .next (
      if u.readOk x then if v.readOk x then (v.softTried x).softFound x r (v.softFinds x r) else v.softFail x else u.softFail x) := by
  have hruns : (x.soft && x.softLane == some lane && s.reading x) = true := by simp [hsoft, hlane, hreading]
  intro u v
  change execSoftDecode id lane r s = _
  simp only [execSoftDecode, hrd, if_pos hruns]
  change Host.Outcome.next (if !u.readOk x then u.softFail x else if !v.readOk x then v.softFail x else
    (v.softTried x).softFound x r (v.softFinds x r)) = _
  cases u.readOk x with
  | false => rfl
  | true => cases v.readOk x <;> rfl

theorem exec_softDecodeTimeout_runs : exec (.softDecodeTimeout id) s = .next
    ((((((s.readDone x).readRow x (s.softRow2 x)).softTried x).bump .cdcLaneTmo 8 8 1).raise 21).softFail x) := by
  have hruns : (x.soft && x.softLane.isSome && s.reading x) = true := by simp [hsoft, hlane, hreading]
  change execSoftDecodeTimeout id s = _
  simp only [execSoftDecodeTimeout, hrd, if_pos hruns, State.softTried]

end

/-! ### Rebuilding from the stripe (R237) -/

/-- A rebuild that failed is counted. -/
def State.rebuildFailed (s : State) : State := s.bumpWrap .cdcRebuildCnt 16 16 1

/-- What follows from what the hard lane finds in the XOR of the sources. -/
def State.rebuildFound (s : State) (x : Rd) (r : DecodeResult) : Found → State
  | .pass c => ((((s.cdcCount .cdcRebuildCnt 0 16 "rebuild").raise 18).heavy x.loc.blk).endRead x).deliver x c r.outOk
  | .fail => s.rebuildFailed.uncorrectable x
  | .wrong => s.miscorrect.rebuildFailed.uncorrectable x
  | .noKey => s.cryptoFault x

section
variable {x : Rd} (f : SourceRun) (hrd : s.rd? id = some x)
include hrd

theorem exec_stripeRebuild_stays (h : x.stage ≠ .rebuild) : exec (.stripeRebuild id f r) s = .next s := by
  change execStripeRebuild id f r s = _
  simp only [execStripeRebuild, hrd, if_pos h]

variable (hstage : x.stage = .rebuild)
include hstage

theorem exec_stripeRebuild_released (hparity : s.parityHeld x.loc = false) :
    exec (.stripeRebuild id f r) s = .next (s.rebuildFailed.uncorrectable x) := by
  change execStripeRebuild id f r s = _
  simp only [execStripeRebuild, hrd, hstage, hparity, ne_eq, not_true, if_false, Bool.not_false, if_true, State.rebuildFailed]

variable (hparity : s.parityHeld x.loc = true)
include hparity

/-- One source that does not read ends the rebuild. -/
theorem exec_stripeRebuild_lost {l : Loc} (hfail : f.fail = some l) : exec (.stripeRebuild id f r) s =
    .next (((s.sourceReads x.loc f).rebuildFailed.refreshWant l.blk 5).uncorrectable x) := by
  change execStripeRebuild id f r s = _
  simp only [execStripeRebuild, hrd, hstage, hparity, hfail, ne_eq, not_true, if_false, Bool.not_true, Bool.false_eq_true, State.rebuildFailed]

/-- With every source read, a hard lane checks their XOR, which counts as a decode. -/
theorem exec_stripeRebuild_decodes (hfail : f.fail = none) :
    let u : State := ((s.sourceReads x.loc f).xtsCheck r.xtsFault).cdcCount .cdcHardCnt 0 32 "hard"
    exec (.stripeRebuild id f r) s = .next (u.rebuildFound x r (u.softFinds x r)) := by
  intro u
  change execStripeRebuild id f r s = _
  simp only [execStripeRebuild, hrd, hstage, hparity, hfail, ne_eq, not_true, if_false, Bool.not_true, Bool.false_eq_true]
  cases u.softFinds x r <;> rfl

end

end

end Sys2Proof.Machine

namespace Sys2Proof
open Machine

/-- Settles O31: a row reads on, and what its decode finds decides between the ends named above. -/
theorem decodeRows : Obligations.DecodeRows := by
  refine ⟨fun s id step x r hrd hstep hreading => ?_,
    fun s id r => ⟨exec_hardDecode_none r, fun x hrd => exec_hardDecode_stays r hrd, fun x lane hrd => exec_softDecode_stays r hrd,
      fun x f hrd => exec_stripeRebuild_stays r f hrd⟩,
    fun s id x r hrd hsoft hreading => ?_,
    fun s id x r f hrd hstage => ⟨exec_stripeRebuild_released r f hrd hstage, fun hparity => ?_⟩⟩
  · intro u n
    have hrow := exec_hardDecode_runs r hrd hstep hreading
    refine ⟨fun hlost => hrow.trans (congrArg _ (if_neg (Bool.eq_false_iff.1 hlost))), fun hread => ?_, State.hardFinds_within r x,
      fun hraw hconv => (State.hardFinds_beyond r x hraw).trans (if_neg (Bool.eq_false_iff.1 hconv)),
      fun hraw hconv => (State.hardFinds_beyond r x hraw).trans (if_pos hconv)⟩
    have hfound (o : Found) (ho : u.hardFinds x r = o) : exec (.hardDecode id r) s = .next (n.hardFound x step r o) :=
      ho ▸ hrow.trans (congrArg _ (if_pos hread))
    exact ⟨fun c => hfound (.pass c), hfound .fail, hfound .wrong, hfound .noKey⟩
  · intro u v n late lane hlane
    have hrow := exec_softDecode_runs r hrd hsoft hlane hreading
    refine ⟨⟨fun hlost => hrow.trans (congrArg _ (if_neg (Bool.eq_false_iff.1 hlost))),
      fun hread hlost => hrow.trans (congrArg _ ((if_pos hread).trans (if_neg (Bool.eq_false_iff.1 hlost)))), fun hread hread2 => ?_⟩,
      exec_softDecodeTimeout_runs hrd hsoft hlane hreading⟩
    have hfound (o : Found) (ho : v.softFinds x r = o) : exec (.softDecode id lane r) s = .next (n.softFound x r o) :=
      ho ▸ hrow.trans (congrArg _ ((if_pos hread).trans (if_pos hread2)))
    exact ⟨fun c => hfound (.pass c), hfound .wrong, hfound .fail, hfound .noKey⟩
  · intro s0 s1
    refine ⟨fun l hfail => exec_stripeRebuild_lost r f hrd hstage hparity hfail, fun hfail => ?_⟩
    have hfound (o : Found) (ho : s1.softFinds x r = o) : exec (.stripeRebuild id f r) s = .next (s1.rebuildFound x r o) :=
      ho ▸ exec_stripeRebuild_decodes r f hrd hstage hparity hfail
    exact ⟨fun c => hfound (.pass c), hfound .fail, hfound .wrong, hfound .noKey⟩

end Sys2Proof
end

section
/-! The write path: allocation of staged sectors, encoding, the timeouts of the lanes, the release of pages, stripe groups opened, and commits (R221,
R239, R289, R294, R297, R357). -/

namespace Sys2Proof.Machine

/-! ### Allocation (R289, R294, R297) -/

section
variable {s : State}

/-- The allocation a staged sector gets: its identifier, its sequence number and its place. -/
def Staged.allocated (x : Staged) (id q : Nat) (l : Loc) (secs : Nat) : Alloc :=
  { id, staged := x.id, ns := x.ns, lba := x.lba, dsec := x.dsec, seq := q, loc := l, data := x.data, damaged := x.damaged, secs }

/-- A sector that gets a place: its allocation is the last, its number is taken, and its encoding is asked for. -/
theorem State.allocStaged_placed {s1 s2 s3 : State} (x : Staged) {n id q : Nat} {l : Loc} {b : Bool} (hid : s.newId = (id, s1))
    (hplace : s1.allocIn n id = some (l, b, s2)) (hseq : s2.newSeq = (q, s3)) :
    (s.allocStaged x n).map.allocs = s3.map.allocs ++ [x.allocated id q l s.sys.life] ∧
      (s.allocStaged x n).front.staging = s3.front.staging.map (fun y => if y.id = x.id then { y with alloc := some id } else y) ∧
      ((s.allocStaged x n).cdc.enc.any fun e => e.id == id && !e.encoded && e.alloc == some id) = true ∧
      (s.allocStaged x n).regs = s3.regs := by
  simp only [State.allocStaged, hid, hplace, hseq]
  exact ⟨rfl, rfl, by simp [State.pushEnc], rfl⟩

/-- No open group, the Map engine not up, the Sump full, or a page that is complete. -/
theorem exec_sumpAllocation_stays (h : s.openOf .sump = none ∨ s.mapUp = false ∨ s.map.sumpSize ≤ s.sumpUsed ∨
    ∃ g : StripeGroup, s.openOf .sump = some g ∧ s.fillFull g = true) : exec .sumpAllocation s = .next s := by
  change execSumpAllocation s = _
  cases hopen : s.openOf .sump with
  | none => simp only [execSumpAllocation, hopen]
  | some g =>
    have hstops : (!s.mapUp || decide (s.sumpUsed ≥ s.map.sumpSize) || s.fillFull g) = true := by
      rcases h with h | h | h | ⟨g', h, hfull⟩
      · simp [hopen] at h
      · simp [h]
      · simp [h]
      · obtain rfl : g = g' := Option.some.inj (hopen.symm.trans h)
        simp [hfull]
    simp only [execSumpAllocation, hopen, if_pos hstops]

section
variable {g : StripeGroup} (hopen : s.openOf .sump = some g) (hup : s.mapUp = true) (hroom : s.sumpUsed < s.map.sumpSize)
  (hfull : s.fillFull g = false)
include hopen hup hroom hfull

/-- An allocation that lost its place comes first. -/
theorem exec_sumpAllocation_again {a : Alloc} (hlost : s.map.allocs.find? (·.unplaced) = some a) :
    exec .sumpAllocation s = .next (s.placeAgain a g.num) := by
  have hgoes : ¬(!s.mapUp || decide (s.sumpUsed ≥ s.map.sumpSize) || s.fillFull g) = true := by simp [hup, hroom, hfull]
  change execSumpAllocation s = _
  simp only [execSumpAllocation, hopen, if_neg hgoes, hlost]

/-- Then the staged sector whose turn it is, where the pending table has room. -/
theorem exec_sumpAllocation_next (hplaced : s.map.allocs.find? (·.unplaced) = none) : exec .sumpAllocation s =
    .next (s.nextStaged.elim s fun x => if s.pendRoom x.dsec then s.allocStaged x g.num else s) := by
  have hgoes : ¬(!s.mapUp || decide (s.sumpUsed ≥ s.map.sumpSize) || s.fillFull g) = true := by simp [hup, hroom, hfull]
  change execSumpAllocation s = _
  simp only [execSumpAllocation, hopen, if_neg hgoes, hplaced]
  cases s.nextStaged <;> rfl

end

end

/-! ### Encoding (R221, R226 to R229) -/

/-- A codeword whose key slot is empty, or that no XTS lane can encrypt. -/
def State.keyless (s : State) (e : Enc) : Bool :=
  match State.encSlot e with
  | some k => (s.cdc.keys.get k).isNone || s.xtsOut
  | none => false

theorem State.keyless_eq_false_iff {s : State} {e : Enc} :
    s.keyless e = false ↔ ∀ k : Fin 9, State.encSlot e = some k → (s.cdc.keys.get k).isSome = true ∧ s.xtsOut = false := by
  unfold State.keyless
  cases State.encSlot e <;> simp [Option.isSome_iff_ne_none]

/-- The data of an allocation has been completed to the host from the write cache. -/
def State.hostCached (s : State) (a : Alloc) : Bool := ((s.front.staging.find? fun x => x.id == a.staged).map (·.cached)).getD false

/-- A CRC mismatch on the way in is counted and reported (R229). -/
def State.crcMissed (s : State) : State := (s.bumpWrap .cdcCrcCnt 16 16 1).raise 19

/-- Front fetches a sector again. -/
def State.fetchedAgain (s : State) (id : Nat) : State :=
  { s with cdc := { s.cdc with enc := s.cdc.enc.map fun x => if x.id = id then { x with tries := 1 } else x } }

/-- A host sector at the CRC check, its key at hand: cached data is written as damaged, other data fetched again once. -/
def State.hostEncoded (s : State) (id : Nat) (e : Enc) (a : Alloc) (syndrome bad : Bool) : State :=
  if bad then
    if s.hostCached a then (s.crcMissed.setAlloc a.id fun x => { x with damaged := true }).encoded e syndrome
    else if e.tries = 0 then s.crcMissed.fetchedAgain id
    else s.crcMissed.allocFail a ⟨0, 0x04, false⟩
  else s.encoded e syndrome

section
variable {s : State} {id : Nat} (r : EncodeRun) (bad : Bool)

theorem exec_encode_none (henc : (s.cdc.enc.find? fun e => e.id == id) = none) : exec (.encode id r bad) s = .next s := by
  change execEncode id r bad s = _
  simp only [execEncode, henc]

variable {e : Enc} (henc : (s.cdc.enc.find? fun e => e.id == id) = some e)
include henc

/-- A codeword that is encoded, or whose position has no accumulator. -/
theorem exec_encode_stays (h : e.encoded = true ∨ s.accRoom e.loc.blk e.loc.page 1 = false) : exec (.encode id r bad) s = .next s := by
  have hstays : (e.encoded || !s.accRoom e.loc.blk e.loc.page 1) = true := by simpa using h
  change execEncode id r bad s = _
  simp only [execEncode, henc, if_pos hstays]

variable (hfresh : e.encoded = false) (hroom : s.accRoom e.loc.blk e.loc.page 1 = true) {u : State} (hu : s.xtsCheck r.xtsFault = u)
include hfresh hroom hu

/-- A codeword of no allocation is not the host's: there is no CRC to check. -/
theorem exec_encode_internal (halloc : (u.map.allocs.find? fun a => e.alloc == some a.id) = none) :
    exec (.encode id r bad) s = .next (if u.keyless e then u.raise 20 else u.encoded e r.syndrome) := by
  have hruns : ¬(e.encoded || !s.accRoom e.loc.blk e.loc.page 1) = true := by simp [hfresh, hroom]
  change execEncode id r bad s = _
  simp only [execEncode, henc, if_neg hruns, hu, halloc]
  rfl

/-- A host sector without its key fails. -/
theorem exec_encode_host {a : Alloc} (halloc : (u.map.allocs.find? fun a => e.alloc == some a.id) = some a) : exec (.encode id r bad) s =
    .next (if u.keyless e then (u.raise 20).allocFail a .internal else u.hostEncoded id e a r.syndrome bad) := by
  have hruns : ¬(e.encoded || !s.accRoom e.loc.blk e.loc.page 1) = true := by simp [hfresh, hroom]
  have hcheck : u.hostEncoded id e a r.syndrome bad =
      if bad ∧ !u.hostCached a then
        if e.tries = 0 then u.crcMissed.fetchedAgain id else u.crcMissed.allocFail a ⟨0, 0x04, false⟩
      else (if bad then u.crcMissed.setAlloc a.id fun x => { x with damaged := true } else u).encoded e r.syndrome := by
    unfold State.hostEncoded
    cases bad <;> cases u.hostCached a <;> rfl
  rw [hcheck]
  change execEncode id r bad s = _
  simp only [execEncode, henc, if_neg hruns, hu, halloc]
  cases bad <;> rfl

end

/-! ### The lanes (R239) -/

/-- A bit cleared in a word. -/
theorem getLsbD_and_not_two_pow (w : Word) {i : Nat} (h : i < 32) : (w &&& ~~~(BitVec.ofNat 32 (2 ^ i))).getLsbD i = false := by
  rw [BitVec.getLsbD_and, BitVec.getLsbD_not, BitVec.getLsbD_ofNat, Nat.testBit_two_pow_self]
  simp [h]

/-- The record of a unit's own recovery changes no register but those of the record. -/
theorem State.recordSelf_other (s : State) {q : Reg} (h : q ∉ recordRegs) : s.recordSelf.reg q = s.reg q := by
  simp only [recordRegs, List.mem_cons, List.not_mem_nil, or_false, not_or] at h
  obtain ⟨-, hsnap, hlast, hlo, hhi⟩ := h
  change State.reg (State.setReg _ _ _) q = _
  simp only [State.reg_setReg_ne _ _ hhi, State.reg_setReg_ne _ _ hlo, State.reg_setReg_ne _ _ hlast, State.reg_setReg_ne _ _ hsnap]
  rfl

/-- A lane that its own recovery reset is in service. -/
theorem State.laneIn_recordSelf (s : State) {bit : Nat} (h : bit < 32) : (s.laneIn bit).recordSelf.rf .cdcLaneStat bit 1 = 0 := by
  rw [State.rf, State.recordSelf_other _ cdcLaneStat_not_recorded, State.laneIn, State.reg_setReg_same, fld_bit, getLsbD_and_not_two_pow _ h]
  rfl

theorem exec_hardLaneTimeout (h : Fin 8) (s : State) : exec (.hardLaneTimeout h) s =
    .next (if s.laneBusy h then ((((s.raise 21).bump .cdcLaneTmo 0 8 1).hardMove h).laneIn (16 + h.val)).recordSelf else s) := rfl

theorem exec_softLaneTimeout (n : Fin 2) (s : State) : exec (.softLaneTimeout n) s =
    .next (if s.softLoad n > 0 then ((((s.raise 21).bump .cdcLaneTmo 8 8 1).softMove n).laneIn (24 + n.val)).recordSelf else s) := rfl

/-! ### Pages released (R357), and groups opened (R294, R356) -/

/-- What a group has under assembly holds a codeword, and each of its codewords has left the encoder. -/
def State.fillReady (s : State) (g : StripeGroup) : Bool :=
  !g.filling.isEmpty && g.filling.all fun i => s.cdc.enc.all fun e => e.id != i || e.encoded

theorem State.fillReady_iff {s : State} {g : StripeGroup} :
    s.fillReady g = true ↔ g.filling ≠ [] ∧ ∀ i ∈ g.filling, ∀ e ∈ s.cdc.enc, e.id = i → e.encoded = true := by
  simp [State.fillReady, or_iff_not_imp_left]

section
variable {s : State}

theorem exec_sumpPageRelease_none (w : Bool) (hopen : s.openOf .sump = none) : exec (.sumpPageRelease w) s = .next s := by
  change execSumpPageRelease w s = _
  simp only [execSumpPageRelease, hopen]

theorem exec_sumpPageRelease_open (w : Bool) {g : StripeGroup} (hopen : s.openOf .sump = some g) : exec (.sumpPageRelease w) s =
    .next (if s.fillReady g && (s.fillFull g || (w && s.pageWaited g.filling)) then s.releaseFill g.num 3 .sumpPage else s) := by
  change execSumpPageRelease w s = _
  simp only [execSumpPageRelease, hopen]
  rfl

/-- A flow holds the open groups with room that it may. -/
def State.flowServed (s : State) (f : Flow) : Bool :=
  decide (flowGroups f ≤ s.map.groups.countP fun g => g.isOpen && g.flow == f && s.grpRoom g)

/-- A flow's groups that have no page left take no more allocations. -/
def State.spentClosed (s : State) (f : Flow) : State :=
  { s with map := { s.map with groups := s.map.groups.map fun g => if g.flow = f ∧ s.grpRoom g = false then { g with isOpen := false } else g } }

theorem exec_stripeGroupOpen_opens {f : Flow} (hup : s.mapUp = true) (hserved : s.flowServed f = false)
    (hleave : (s.con.leaving && s.taintLeft) = false) : exec (.stripeGroupOpen f) s = .next (((s.spentClosed f).openGroup f).getD s) := by
  have hlacks : (s.map.groups.countP fun g => g.isOpen && g.flow == f && s.grpRoom g) < flowGroups f := not_le.1 (of_decide_eq_false hserved)
  exact congrArg Host.Outcome.next (if_pos (by rw [hup, hleave, decide_eq_true hlacks]; rfl))

theorem exec_stripeGroupOpen_stays {f : Flow} (h : s.mapUp = false ∨ s.flowServed f = true ∨ (s.con.leaving && s.taintLeft) = true) :
    exec (.stripeGroupOpen f) s = .next s := by
  refine congrArg Host.Outcome.next (if_neg (Bool.eq_false_iff.1 ?_))
  rcases h with h | h | h
  · rw [h]; rfl
  · rw [decide_eq_false (not_lt.2 (of_decide_eq_true h)), Bool.and_false]; rfl
  · rw [h]; exact Bool.and_false _

end

/-! ### Commits (R23, R25, R289) -/

section
variable {s : State} {id : Nat}

theorem exec_commit_none (halloc : (s.map.allocs.find? fun a => a.id == id) = none) : exec (.commit id) s = .next s := by
  change execCommit id s = _
  simp only [execCommit, halloc]

variable {a : Alloc} (halloc : (s.map.allocs.find? fun a => a.id == id) = some a)
include halloc

/-- A codeword that is not programmed, a map that is not up, or one that takes no more dirty pages. -/
theorem exec_commit_stays (h : a.programmed = false ∨ s.mapUp = false ∨ s.dirtyRoom a.dsec = false) : exec (.commit id) s = .next s := by
  have hstays : (!a.programmed || !s.mapUp || !s.dirtyRoom a.dsec) = true := by simpa [or_assoc] using h
  change execCommit id s = _
  simp only [execCommit, halloc, if_pos hstays]

variable (hprog : a.programmed = true) (hup : s.mapUp = true) (hroom : s.dirtyRoom a.dsec = true)
include hprog hup hroom

/-- With no command that waits, the mapping goes live; with one, once it is complete or where its data is cached. -/
theorem exec_commit_goes {x : Option Staged} (hx : (s.front.staging.find? fun x => x.id == a.staged) = x) : exec (.commit id) s =
    .next ((x.bind fun x => x.hdr).elim (s.commitOne a).settle fun h =>
      if (x.map (·.cached)) = some true ∨ s.commandProgrammed h = true then ((s.commitOne a).committed h).settle else s) := by
  have hgoes : ¬(!a.programmed || !s.mapUp || !s.dirtyRoom a.dsec) = true := by simp [hprog, hup, hroom]
  change execCommit id s = _
  simp only [execCommit, halloc, if_neg hgoes, hx]
  cases x.bind fun x => x.hdr with
  | none => simp only [Option.elim_none]
  | some h => simp only [Option.elim_some]

end

end Sys2Proof.Machine

namespace Sys2Proof
open Machine

/-- Settles O32: each outcome of a row is a lemma above; the rest says which of a row's conditions holds. -/
theorem writePathRows : Obligations.WritePathRows := by
  refine ⟨fun s s1 s2 s3 x g id q l b hopen hup hroom hfull => ⟨fun hplaced hnext hpend hid hplace hseq => ?_,
      fun a => exec_sumpAllocation_again hopen hup hroom hfull, fun hplaced h => ?_⟩,
    fun s => exec_sumpAllocation_stays,
    fun s id r bad => ⟨exec_encode_none r bad, fun e henc => ⟨exec_encode_stays r bad henc, fun hfresh hacc => ?_⟩⟩,
    fun s => ⟨fun h hbusy => (exec_hardLaneTimeout h s).trans (congrArg _ (if_pos hbusy)), fun h u => u.laneIn_recordSelf (by omega),
      fun h hidle => (exec_hardLaneTimeout h s).trans (congrArg _ (if_neg (Bool.eq_false_iff.1 hidle))),
      fun n hload => (exec_softLaneTimeout n s).trans (congrArg _ (if_pos hload)), fun n u => u.laneIn_recordSelf (by omega),
      fun n hload => (exec_softLaneTimeout n s).trans (congrArg _ (if_neg (by omega)))⟩,
    fun s => ⟨fun w g hopen => ?_, fun w => exec_sumpPageRelease_none w,
      fun f => ⟨fun hup hserved hleave => ?_, exec_stripeGroupOpen_stays⟩⟩,
    fun s id => ⟨exec_commit_none, fun a halloc => ⟨exec_commit_stays halloc, fun hprog hup hdirty => ?_⟩⟩⟩
  · have hrow := exec_sumpAllocation_next hopen hup hroom hfull hplaced
    rw [hnext] at hrow
    exact ⟨_, hrow.trans (congrArg _ (if_pos hpend)), s.allocStaged_placed x hid hplace hseq⟩
  · rw [exec_sumpAllocation_next hopen hup hroom hfull hplaced]
    rcases h with h | ⟨h, hpend⟩
    · rw [h]; rfl
    · rw [h]; exact congrArg _ (if_neg (Bool.eq_false_iff.1 hpend))
  · intro u keyed
    have hkeyed : keyed → ¬u.keyless e = true := fun h => Bool.eq_false_iff.1 (State.keyless_eq_false_iff.2 h)
    have hkeyless : ¬keyed → u.keyless e = true := fun h => eq_true_of_ne_false (mt State.keyless_eq_false_iff.1 h)
    refine ⟨fun halloc => ?_, fun a halloc => ?_⟩
    · have hrow := exec_encode_internal r bad henc hfresh hacc rfl halloc
      exact ⟨fun h => hrow.trans (congrArg _ (if_neg (hkeyed h))), fun h => hrow.trans (congrArg _ (if_pos (hkeyless h)))⟩
    · intro cached v
      have hrow := exec_encode_host r bad henc hfresh hacc rfl halloc
      have hchecked (h : keyed) {t : State} (ht : u.hostEncoded id e a r.syndrome bad = t) : exec (.encode id r bad) s = .next t :=
        hrow.trans (congrArg _ ((if_neg (hkeyed h)).trans ht))
      refine ⟨fun h => hrow.trans (congrArg _ (if_pos (hkeyless h))), fun h hgood => hchecked h ?_, fun h hbad hcached => hchecked h ?_,
        fun h hbad hcached htries => hchecked h ?_, fun h hbad hcached htries => hchecked h ?_⟩
      · exact if_neg (Bool.eq_false_iff.1 hgood)
      · exact (if_pos hbad).trans (if_pos hcached)
      · exact (if_pos hbad).trans ((if_neg (Bool.eq_false_iff.1 hcached)).trans (if_pos htries))
      · exact (if_pos hbad).trans ((if_neg (Bool.eq_false_iff.1 hcached)).trans (if_neg htries))
  · have hrow := exec_sumpPageRelease_open w hopen
    intro ready
    refine ⟨fun hready hdue => hrow.trans (congrArg _ (if_pos ?_)), fun h => hrow.trans (congrArg _ (if_neg ?_))⟩
    · simpa [State.fillReady_iff.2 hready] using hdue
    · rcases h with h | ⟨hpart, hquiet⟩
      · simp [Bool.eq_false_iff.2 (mt State.fillReady_iff.1 h)]
      · rcases hquiet with h | h <;> simp [hpart, h]
  · have hrow := exec_stripeGroupOpen_opens hup hserved hleave
    exact ⟨fun t ht => hrow.trans (congrArg (fun o => Host.Outcome.next (o.getD s)) ht),
      fun hnone => hrow.trans (congrArg (fun o => Host.Outcome.next (o.getD s)) hnone)⟩
  · have hrow := exec_commit_goes halloc hprog hup hdirty rfl
    refine ⟨fun hnone => ?_, fun h hwaits hdone => ?_, fun h hwaits hprogrammed hcached => ?_⟩
    · rw [hrow, hnone, Option.elim_none]
    · rw [hrow, hwaits, Option.elim_some, if_pos hdone.symm]
    · rw [hrow, hwaits, Option.elim_some, if_neg (by simp [hprogrammed, hcached])]

end Sys2Proof
end

section
/-! Idle valley searches, the retention sweep, patrol wakes and refresh wakes (R153, R261 to R264, R331 to R333, R556, R558, R559). -/

namespace Sys2Proof.Machine

/-! ### Valley searches (R261 to R264) -/

/-- A group is the next of its gallery: it holds a closed native block, and no other such group ranks before it. -/
def State.searchNext (s : State) (c : Fin 128) (group : Nat) : Bool :=
  (s.searchable (galOf c)).contains (c, group) &&
    (s.searchable (galOf c)).all fun x => decide ((s.ofs c group).rank ≤ (s.ofs x.1 x.2).rank)

/-- A group's search runs now. -/
def State.searchDue (s : State) (c : Fin 128) (group : Nat) : Bool :=
  s.mapUp && s.hook26 c && s.settings.assaySearch && decide (s.sys.ps.val ≤ 2) && s.isSt .service && s.hostIdle && s.mayRun c &&
    s.searchNext c group

section
variable {s : State} {c : Fin 128} {group : Nat} (trials : TrialRun) (refs : List RefRead)

theorem State.searchDue_iff : s.searchDue c group = true ↔ s.mapUp = true ∧ s.hook26 c = true ∧ s.settings.assaySearch = true ∧
    s.sys.ps.val ≤ 2 ∧ s.isSt .service = true ∧ s.hostIdle = true ∧ s.mayRun c = true ∧ s.searchNext c group = true := by
  simp [State.searchDue, and_assoc]

theorem State.searchDue_eq_false_iff : s.searchDue c group = false ↔ s.mapUp = false ∨ s.hook26 c = false ∨ s.settings.assaySearch = false ∨
    2 < s.sys.ps.val ∨ s.isSt .service = false ∨ s.hostIdle = false ∨ s.mayRun c = false ∨ s.searchNext c group = false := by
  rw [← Bool.not_eq_true, State.searchDue_iff]
  simp only [not_and_or, not_le, Bool.not_eq_true]

theorem exec_valleySearch : exec (.valleySearch c group trials refs) s =
    .next (if s.searchDue c group then (s.search c group trials refs).2 else s) := by
  change execValleySearch c group trials refs s = _
  simp only [execValleySearch, State.searchDue, State.searchNext, Bool.and_assoc]

/-- The search of a suspect chamber reads its references, and is abandoned and counted (R264). -/
theorem State.search_suspect {p : Profile} {k : Nat} (hprof : s.prof c = some p) (hblock : s.sampleBlock c group = some k)
    (hsuspect : s.suspect c = true) :
    s.search c group trials refs = (false, (s.refReads k p refs (p.ppw - 1)).bump .assaySearch 16 8 1) := by
  simp only [State.search, hprof, hblock, hsuspect, Bool.true_or, if_true]

end

/-! ### The retention sweep (R333) -/

/-- The sweep's read of a block: the sentinel of a closed one, codeword 0 of the last page of an open one that holds data.  A block that the row
names no result for reads as it was written (log entry 65). -/
def State.sweepBlock (r : SweepRun) (t : State) (e : Nat × Blk) : State :=
  if e.2.st = .closed ∧ e.2.sealed = false ∧ e.2.use ≠ .journal then t.sweepClosed e.1 ((resultOf r.raws e.1).getD (some []))
  else if e.2.st = .opened ∧ 0 < e.2.next ∧ e.2.use ≠ .journal then
    t.sweepOpen e.1 ((resultOf r.opens e.1).getD { raw := 0, converged := true, crcOk := true, nameOk := true })
  else t

/-- Every block is read, and the sweep is no longer due. -/
def State.swept (s : State) (r : SweepRun) : State :=
  let u : State := s.map.blks.foldl (State.sweepBlock r) s
  { u with map := { u.map with sweepDue := false } }

/-- The chambers of the blocks that a sweep names are free to it. -/
def State.sweepMay (s : State) (r : SweepRun) : Bool :=
  ((r.raws.map (·.1)) ++ (r.opens.map (·.1))).all fun k => s.mayRun (chOfBlk k)

/-- The retention sweep runs now. -/
def State.sweepRuns (s : State) (r : SweepRun) : Bool :=
  s.mapUp && s.map.sweepDue && s.isSt .service && decide (s.sys.ps.val ≤ 2) && s.sweepMay r

section
variable {s : State} {r : SweepRun}

theorem State.sweepRuns_iff : s.sweepRuns r = true ↔
    s.mapUp = true ∧ s.map.sweepDue = true ∧ s.isSt .service = true ∧ s.sys.ps.val ≤ 2 ∧ s.sweepMay r = true := by
  simp [State.sweepRuns, and_assoc]

theorem State.sweepRuns_eq_false_iff : s.sweepRuns r = false ↔
    s.mapUp = false ∨ s.map.sweepDue = false ∨ s.isSt .service = false ∨ 2 < s.sys.ps.val ∨ s.sweepMay r = false := by
  rw [← Bool.not_eq_true, State.sweepRuns_iff]
  simp only [not_and_or, not_le, Bool.not_eq_true]

theorem exec_retentionSweep : exec (.retentionSweep r) s = .next (if s.sweepRuns r then s.swept r else s) := by
  change execRetentionSweep r s = _
  simp only [execRetentionSweep, Bool.not_eq_true']
  rfl

end

/-! ### Patrol wakes (R331, R558, R559) -/

/-- The patrol's reads in its table's order, those of G0 to G3 before those of G4 to G7; then the position moves past them. -/
def State.patrolWoken (s : State) (raws : List (Option (List Nat))) : State :=
  let n : Nat := ceilDiv s.map.patrolTable.length 32
  let ks : List Nat := patrolled s.map.patrolTable s.map.patrolPos n
  let got : List (Nat × Option (List Nat)) := ks.zipIdx.map fun x => (x.1, raws.getD x.2 (some []))
  let u : State := (((s.stat "patrol_wakes").patrolHalf 0 got).patrolHalf 1 got).patrolMove ks
  { u with map := { u.map with patrolReads := u.map.patrolReads + n }, sys := { u.sys with lastPatrol := s.sys.life } }

theorem exec_patrolWake (raws : List (Option (List Nat))) (s : State) :
    exec (.patrolWake raws) s = .next (if s.patrolDue then s.patrolWoken raws else s) := rfl

/-! ### Refresh wakes (R270, R332, R556, R559) -/

/-- The queued blocks that the energy left of the last 24 h covers, the wake's own 50 mJ charged first. -/
def State.refreshBlocks (s : State) : List Nat := s.budgeted (s.map.patrolQ.filterMap fun q => s.ofDevBlock q.1) (s.chargedMj + 50)

/-- A refresh wake begins now. -/
def State.refreshDue (s : State) : Bool :=
  decide (s.sys.ps.val = 4) && !s.isSt .test && s.settings.patrolWakeRefresh && !s.refreshBlocks.isEmpty && !s.brownWarning

section
variable {s : State}

theorem State.refreshDue_iff : s.refreshDue = true ↔ s.sys.ps.val = 4 ∧ s.isSt .test = false ∧ s.settings.patrolWakeRefresh = true ∧
    s.brownWarning = false ∧ s.refreshBlocks ≠ [] := by
  simp [State.refreshDue, and_assoc, and_comm (a := s.brownWarning = false)]

theorem State.refreshDue_eq_false_iff : s.refreshDue = false ↔ s.sys.ps.val ≠ 4 ∨ s.isSt .test = true ∨
    s.settings.patrolWakeRefresh = false ∨ s.brownWarning = true ∨ s.refreshBlocks = [] := by
  rw [← Bool.not_eq_true, State.refreshDue_iff]
  simp only [not_and_or, ne_eq, not_not, Bool.not_eq_true, Bool.not_eq_false]

theorem exec_refreshWake (r : RefreshRun) : exec (.refreshWake r) s = .next (if s.refreshDue then
    (s.wakeOn.reloadRecords.wakeRefresh s.refreshBlocks r).checkpoint.saveHist.wakeOff (s.reg .sysClk) else s) := rfl

/-- PS4 entered again: the block records are to be loaded, no patrol has read since, and only PD_AON and PD_RET are powered (R556). -/
theorem State.wakeOff_asleep (s : State) (clk : Word) :
    (s.wakeOff clk).map.recordsLoaded = false ∧ (s.wakeOff clk).map.patrolReads = 0 ∧ (s.wakeOff clk).sys.doms = 0x03 := ⟨rfl, rfl, rfl⟩

end

end Sys2Proof.Machine

namespace Sys2Proof
open Machine

/-- Settles O37: each row is one choice between its work and no change, and its guard is the conjunction that the statement lists. -/
theorem patrolAndSearchRows : Obligations.PatrolAndSearchRows := by
  intro s
  refine ⟨fun c group trials refs => ⟨fun hup hhook hset hps hst hidle hmay hnext => ?_, fun h => ?_, fun p k => s.search_suspect trials refs⟩,
    fun r => ⟨fun hup hdue hst hps hmay => ?_, fun h => ?_⟩,
    fun raws => ⟨fun hdue => (exec_patrolWake raws s).trans (congrArg _ (if_pos hdue)),
      fun hdue => (exec_patrolWake raws s).trans (congrArg _ (if_neg (Bool.eq_false_iff.1 hdue)))⟩,
    fun r => ⟨fun hps htest hset hbrown hblocks => ?_, fun h => ?_⟩, s.wakeOff_asleep⟩
  · have hdue := State.searchDue_iff.2 ⟨hup, hhook, hset, hps, hst, hidle, hmay, hnext⟩
    exact (exec_valleySearch trials refs).trans (congrArg _ (if_pos hdue))
  · have hdue := State.searchDue_eq_false_iff.2 h
    exact (exec_valleySearch trials refs).trans (congrArg _ (if_neg (Bool.eq_false_iff.1 hdue)))
  · have hruns := State.sweepRuns_iff.2 ⟨hup, hdue, hst, hps, hmay⟩
    exact exec_retentionSweep.trans (congrArg _ (if_pos hruns))
  · have hruns := State.sweepRuns_eq_false_iff.2 h
    exact exec_retentionSweep.trans (congrArg _ (if_neg (Bool.eq_false_iff.1 hruns)))
  · have hdue := State.refreshDue_iff.2 ⟨hps, htest, hset, hbrown, hblocks⟩
    exact (exec_refreshWake r).trans (congrArg _ (if_pos hdue))
  · have hdue := State.refreshDue_eq_false_iff.2 h
    exact (exec_refreshWake r).trans (congrArg _ (if_neg (Bool.eq_false_iff.1 hdue)))

end Sys2Proof
end

section
/-! Background copies and their swap, sectors retried, partial writes, and map pages written back (R285, R286, R290, R295 to R302, R307, R334,
R337). -/

namespace Sys2Proof.Machine

section
variable {s : State}

/-- The Map engine may carry background copies on. -/
def State.bgRuns (s : State) : Bool := s.mapUp && !s.bgPaused

theorem State.bgRuns_iff : s.bgRuns = true ↔ s.mapUp = true ∧ s.bgPaused = false := by simp [State.bgRuns]

theorem State.bgRuns_eq_false_of_paused (h : s.bgPaused = true) : s.bgRuns = false := by simp [State.bgRuns, h]

/-! ### Fold (R295, R297, R298, R310) -/

/-- Of the closed Sump blocks that hold mapped sectors, none closed before block `k`. -/
def State.sumpFirst (s : State) (k : Nat) : Bool :=
  s.map.blks.all fun e => !(e.2.use == .sump && e.2.st == .closed && decide (e.2.valid > 0)) || decide ((s.blk k).closeSeq ≤ e.2.closeSeq)

/-- Block `k` is the one to fold, and the Sump is more than half full or the host idle. -/
def State.foldDue (s : State) (k : Nat) : Bool :=
  s.bgRuns && (s.blk k).use == .sump && (s.blk k).st == .closed && decide ((s.blk k).valid > 0) && s.sumpFirst k && !s.candidate k &&
    (decide (2 * s.sumpUsed > s.map.sumpSize) || s.hostIdle)

theorem State.foldDue_iff {k : Nat} : s.foldDue k = true ↔ s.bgRuns = true ∧ (s.blk k).use = .sump ∧ (s.blk k).st = .closed ∧
    0 < (s.blk k).valid ∧ s.sumpFirst k = true ∧ s.candidate k = false ∧ (s.map.sumpSize < 2 * s.sumpUsed ∨ s.hostIdle = true) := by
  simp [State.foldDue, and_assoc]

theorem exec_fold (k : Nat) : exec (.fold k) s = .next (if s.foldDue k then s.copyBlock k .fold 0 true else s) := rfl

/-! ### Collection (R299, R300) -/

/-- Urgent collection is due, or the one that runs while the host is idle. -/
def State.gcDue (s : State) : Bool := s.urgent || (s.gcBelow 2 && s.hostIdle)

theorem State.gcDue_iff : s.gcDue = true ↔ s.urgent = true ∨ (s.gcBelow 2 = true ∧ s.hostIdle = true) := by simp [State.gcDue]

/-- A victim's pages move through the cache where it holds map pages, and its sectors are copied otherwise. -/
def State.collectBlk (s : State) (k : Nat) : State :=
  if (s.blk k).use = .map then s.collectMap k else s.copyBlock k .relocation causeGc true

theorem exec_garbageCollection :
    exec .garbageCollection s = .next (if s.bgRuns && s.gcDue then (s.victim s.urgent).elim s s.collectBlk else s) := by
  change execGarbageCollection s = _
  simp only [execGarbageCollection]
  cases s.victim s.urgent <;> rfl

/-! ### Wear levelling (R301) -/

/-- The erases between a block and the most worn one. -/
def State.wearSpread (s : State) (b : Blk) : Nat := s.map.blks.foldl (fun a e => max a e.2.erase) 0 - b.erase

/-- The least worn block may move, and is too far behind the most worn one for its die's rating. -/
def State.levelDue (s : State) (e : Nat × Blk) (p : Profile) : Bool :=
  s.bgRuns && s.collectable e && decide (s.wearSpread e.2 > max 100 (p.ratedNative / 20))

theorem State.levelDue_iff {e : Nat × Blk} {p : Profile} : s.levelDue e p = true ↔
    s.bgRuns = true ∧ s.collectable e = true ∧ max 100 (p.ratedNative / 20) < s.wearSpread e.2 := by
  simp only [State.levelDue, Bool.and_eq_true, decide_eq_true_eq, and_assoc, gt_iff_lt]

theorem exec_wearLevelling {e : Nat × Blk} {p : Profile} (hworn : s.leastWorn = some e) (hprof : s.refProf = some p) :
    exec .wearLevelling s = .next (if s.levelDue e p then s.copyBlock e.1 .relocation causeWear true else s) := by
  change execWearLevelling s = _
  simp only [execWearLevelling, hworn, hprof]
  rfl

theorem exec_wearLevelling_paused (h : s.bgPaused = true) : exec .wearLevelling s = .next s := by
  change execWearLevelling s = _
  cases hworn : s.leastWorn with
  | none => simp only [execWearLevelling, hworn]
  | some e =>
    cases hprof : s.refProf with
    | none => simp only [execWearLevelling, hworn, hprof]
    | some p => simp [execWearLevelling, hworn, hprof, h]

/-! ### Refresh (R307, R334) -/

/-- The Secure Deallocate in progress evacuates this block. -/
def State.evacuates (s : State) (k : Nat) : Bool := match s.map.secure with | some x => x.hits.contains k | none => false

theorem State.evacuates_none {k : Nat} (h : s.map.secure = none) : s.evacuates k = false := by simp only [State.evacuates, h]

theorem State.evacuates_some {k : Nat} {x : SecDeal} (h : s.map.secure = some x) : s.evacuates k = x.hits.contains k := by
  simp only [State.evacuates, h]

theorem exec_refresh_none (hnext : s.map.nextRefresh = none) : exec .refresh s = .next s := by
  change execRefresh s = _
  simp only [execRefresh, hnext]

theorem exec_refresh_paused (h : s.bgPaused = true) : exec .refresh s = .next s := by
  cases hnext : s.map.nextRefresh with
  | none => exact exec_refresh_none hnext
  | some e =>
    change execRefresh s = _
    simp [execRefresh, hnext, h]

section
variable {e : RefQ} (hnext : s.map.nextRefresh = some e) (hruns : s.bgRuns = true)
include hnext hruns

/-- A block that holds nothing mapped, and that no copy reads, is done. -/
theorem exec_refresh_emptied (hempty : (s.blk e.blk).valid = 0) (hcopies : (s.map.relocs.any fun r => r.src.blk == e.blk) = false) :
    exec .refresh s = .next (((s.refreshStat e.cause).refreshDone e.blk).retireTry e.blk) := by
  have hdone : (s.blk e.blk).valid = 0 ∧ (!s.map.relocs.any fun r => r.src.blk == e.blk) = true := ⟨hempty, by rw [hcopies]; rfl⟩
  change execRefresh s = _
  simp only [execRefresh, hnext]
  exact congrArg _ ((if_pos hruns).trans (if_pos hdone))

variable (hvalid : 0 < (s.blk e.blk).valid)
include hvalid

theorem exec_refresh_map (huse : (s.blk e.blk).use = .map) : exec .refresh s = .next (s.moveMapPages e.blk) := by
  have hleft : ¬((s.blk e.blk).valid = 0 ∧ (!s.map.relocs.any fun r => r.src.blk == e.blk) = true) := fun h => hvalid.ne' h.1
  change execRefresh s = _
  simp only [execRefresh, hnext]
  exact congrArg _ ((if_pos hruns).trans ((if_neg hleft).trans (if_pos huse)))

/-- Of a block that is evacuated, the covered sectors move too; a device that still takes writes has a target for them. -/
theorem exec_refresh_copies (huse : (s.blk e.blk).use ≠ .map) (htarget : s.evacuates e.blk = true → s.readOnly = false) :
    exec .refresh s =
      .next (s.copyBlock e.blk .relocation (if s.evacuates e.blk then causeSecure else e.cause) (!s.evacuates e.blk)) := by
  have hleft : ¬((s.blk e.blk).valid = 0 ∧ (!s.map.relocs.any fun r => r.src.blk == e.blk) = true) := fun h => hvalid.ne' h.1
  have hgoes : ¬(s.evacuates e.blk && s.readOnly && (s.openOf .relocation).isNone && (s.openGroup .relocation).isNone) = true := by
    intro h
    simp only [Bool.and_eq_true] at h
    obtain ⟨⟨⟨hhit, hreadOnly⟩, -⟩, -⟩ := h
    exact Bool.eq_false_iff.1 (htarget hhit) hreadOnly
  change execRefresh s = _
  simp only [execRefresh, hnext]
  exact congrArg _ ((if_pos hruns).trans ((if_neg hleft).trans ((if_neg huse).trans (if_neg hgoes))))

end

/-! ### The swap of a copy (R29, R290) -/

theorem exec_relocationSwap (id : Nat) : exec (.relocationSwap id) s =
    .next (if s.mapUp && (s.map.relocs.find? fun r => r.id == id).all fun r => s.dirtyRoom r.dsec then s.swapOne id else s) := rfl

/-- A copy leaves the list of those in progress. -/
def State.relocDrop (s : State) (id : Nat) : State := { s with map := { s.map with relocs := s.map.relocs.filter fun x => x.id != id } }

section
variable {id : Nat} {r : Reloc} (hreloc : (s.map.relocs.find? fun r => r.id == id) = some r)
include hreloc

theorem State.swapOne_waits (hprog : r.programmed = false) : s.swapOne id = s := by
  simp [State.swapOne, hreloc, hprog]

variable (hprog : r.programmed = true)
include hprog

theorem State.swapOne_takes (hentry : s.entry r.dsec = .mapped r.src) (hsec : s.secured r.dsec = false ∨ r.cause = causeSecure) :
    s.swapOne id = ((((((s.relocDrop id).retryDrop r.dsec).remap r.dsec (.mapped r.dst)).bumpWrap .mapCasOk 0 32 1).record
      (.reloc r.dsec r.src r.dst)).emptied r).settle := by
  have hwaits : ¬(!r.programmed) = true := by simp [hprog]
  have hstands : s.entry r.dsec = .mapped r.src ∧ ((!s.secured r.dsec) = true ∨ r.cause = causeSecure) := ⟨hentry, by simpa using hsec⟩
  simp only [State.swapOne, hreloc, if_neg hwaits, if_pos hstands]
  rfl

theorem State.swapOne_misses (hentry : s.entry r.dsec ≠ .mapped r.src) (hsec : s.secured r.dsec = false) :
    s.swapOne id = (s.relocDrop id).bumpWrap .mapCasFail 0 32 1 := by
  have hwaits : ¬(!r.programmed) = true := by simp [hprog]
  have hmoved : ¬(s.entry r.dsec = .mapped r.src ∧ ((!s.secured r.dsec) = true ∨ r.cause = causeSecure)) := fun h => hentry h.1
  simp only [State.swapOne, hreloc, if_neg hwaits, if_neg hmoved]
  exact if_neg (Bool.eq_false_iff.1 hsec)

end

/-! ### Sectors retried (R337) -/

section
variable {d k : Nat}

theorem exec_sectorRetry_none (hretry : (s.map.retries.find? fun r => r.dsec == d && r.blk == k) = none) :
    exec (.sectorRetry d k) s = .next s := by
  change execSectorRetry d k s = _
  simp only [execSectorRetry, hretry]

variable {r : RetrySec} (hretry : (s.map.retries.find? fun r => r.dsec == d && r.blk == k) = some r)
include hretry

/-- The map not running, background work paused, or a copy of the sector in progress. -/
theorem exec_sectorRetry_stays (h : s.mapRuns = false ∨ s.bgPaused = true ∨ (s.map.relocs.any fun x => x.dsec == d) = true) :
    exec (.sectorRetry d k) s = .next s := by
  have hstays : (!s.mapRuns || s.bgPaused || s.map.relocs.any fun x => x.dsec == d) = true := by
    simpa only [Bool.or_eq_true, Bool.not_eq_true', or_assoc] using h
  change execSectorRetry d k s = _
  simp only [execSectorRetry, hretry, if_pos hstays]

variable (hruns : s.mapRuns = true) (hpaused : s.bgPaused = false) (hcopies : (s.map.relocs.any fun x => x.dsec == d) = false)
include hruns hpaused hcopies

/-- A sector that is no longer mapped is tried no more. -/
theorem exec_sectorRetry_unmapped (hentry : ∀ l : Loc, s.entry d ≠ .mapped l) : exec (.sectorRetry d k) s = .next (s.retryDrop d) := by
  have hgoes : ¬(!s.mapRuns || s.bgPaused || s.map.relocs.any fun x => x.dsec == d) = true := by simp only [hruns, hpaused, hcopies]; decide
  change execSectorRetry d k s = _
  simp only [execSectorRetry, hretry, if_neg hgoes]
  split
  · exact absurd ‹_› (hentry _)
  · exact absurd ‹_› (hentry _)
  · rfl

/-- A mapped sector waits for an open relocation group, and moves there while it still stands in the block. -/
theorem exec_sectorRetry_mapped {l : Loc} (hentry : s.entry d = .mapped l) : exec (.sectorRetry d k) s =
    .next ((s.openOf .relocation).elim s fun g =>
      if l.blk = k then s.startReloc g.num .relocation (s.blk l.blk).cause (d, l) else s.retryDrop d) := by
  have hgoes : ¬(!s.mapRuns || s.bgPaused || s.map.relocs.any fun x => x.dsec == d) = true := by simp only [hruns, hpaused, hcopies]; decide
  change execSectorRetry d k s = _
  simp only [execSectorRetry, hretry, if_neg hgoes, hentry]
  cases s.openOf .relocation <;> rfl

end

/-! ### Partial writes (R302) -/

/-- The writes of a staged sector's place that are older than it. -/
def State.stagedBefore (s : State) (x : Staged) : List Staged := s.front.staging.filter fun y => y.dsec == x.dsec && decide (y.id < x.id)

/-- A partial write that reads what it completes, or that waits for an older one of its sector. -/
def State.mergeWaits (s : State) (x : Staged) : Bool :=
  (s.cdc.rds.any fun r => r.need == .merge x.id x.ns x.lba) || (s.map.waiters.any fun w => w.2 == .merge x.id x.ns x.lba) ||
    (s.stagedBefore x).any fun y => y.partialMask.isSome || y.locked

section
variable {ns : Fin 8} {lba : Nat}

theorem exec_partialWrite_none
    (hstaged : (s.front.staging.find? fun x => x.ns == ns && x.lba == lba && x.partialMask.isSome) = none) :
    exec (.partialWrite ns lba) s = .next s := by
  change execPartialWrite ns lba s = _
  simp only [execPartialWrite, hstaged]

variable {x : Staged} (hstaged : (s.front.staging.find? fun x => x.ns == ns && x.lba == lba && x.partialMask.isSome) = some x)
include hstaged

theorem exec_partialWrite_stays (h : s.mapUp = false ∨ s.mergeWaits x = true) : exec (.partialWrite ns lba) s = .next s := by
  change execPartialWrite ns lba s = _
  simp only [execPartialWrite, hstaged]
  refine congrArg _ (if_pos ?_)
  simp only [State.mergeWaits, State.stagedBefore, Bool.or_eq_true] at h
  simp only [Bool.or_eq_true, Bool.not_eq_true']
  tauto

/-- It takes the newest staged data of its sector, or reads the sector where none is staged. -/
theorem exec_partialWrite_goes (hup : s.mapUp = true) (hquiet : s.mergeWaits x = false) : exec (.partialWrite ns lba) s =
    .next ((s.stagedBefore x).getLast?.elim (s.readSector x.dsec 1 (.merge x.id x.ns x.lba)).settle fun y => (s.merged x.id y.data).settle) := by
  simp only [State.mergeWaits, State.stagedBefore, Bool.or_eq_false_iff] at hquiet
  obtain ⟨⟨hreads, hwaiters⟩, hbefore⟩ := hquiet
  change execPartialWrite ns lba s = _
  simp only [execPartialWrite, hstaged]
  rw [if_neg (by rw [hbefore, hup, hreads, hwaiters]; decide)]
  unfold State.stagedBefore
  cases (s.front.staging.filter fun y => y.dsec == x.dsec && decide (y.id < x.id)).getLast? with
  | none => simp only [Option.elim_none]
  | some y => simp only [Option.elim_some]

end

/-! ### Map pages written back (R285, R286) -/

/-- The cache's copy of a map page. -/
def State.cached? (s : State) (page : Nat) : Option MapPage := s.map.cache.find? fun p => p.series == page / 2 ^ 38 && p.num == page % 2 ^ 38

/-- A map page is in the encoder. -/
def State.pageEncodes (s : State) (page : Nat) : Bool := s.cdc.enc.any fun e => e.cw.kind == 1 && e.cw.lba == page

section
variable {page : Nat}

/-- The map not running, no group of the Map engine's own, or a page that is not in the cache. -/
theorem exec_mapPageWriteback_none (h : s.mapRuns = false ∨ s.openOf .map = none ∨ s.cached? page = none) :
    exec (.mapPageWriteback page) s = .next s := by
  change execMapPageWriteback page s = _
  simp only [execMapPageWriteback]
  split
  · next p g hpage hopen =>
    rcases h with h | h | h
    · exact congrArg _ (if_pos (by simp [h]))
    · cases h.symm.trans hopen
    · cases h.symm.trans hpage
  · rfl

variable {p : MapPage} {g : StripeGroup} (hpage : s.cached? page = some p) (hopen : s.openOf .map = some g)
include hpage hopen

/-- A clean page, one that is in the encoder, or another page under assembly. -/
theorem exec_mapPageWriteback_stays (h : p.dirty = false ∨ g.fill ≠ [] ∨ s.pageEncodes page = true) :
    exec (.mapPageWriteback page) s = .next s := by
  change execMapPageWriteback page s = _
  rw [State.cached?] at hpage
  simp only [execMapPageWriteback, hpage, hopen]
  refine congrArg _ (if_pos ?_)
  rcases h with h | h | h
  · simp [h]
  · simp [h]
  · exact (congrArg _ h).trans (Bool.or_true _)

/-- A dirty page that gets a place is encoded there, and its flash page released at once. -/
theorem exec_mapPageWriteback_placed (hruns : s.mapRuns = true) (hdirty : p.dirty = true) (hfill : g.fill = [])
    (hquiet : s.pageEncodes page = false) {id q : Nat} {l : Loc} {b : Bool} {s1 s2 s3 : State} (hid : s.newId = (id, s1))
    (hplace : s1.allocIn g.num id = some (l, b, s2)) (hseq : s2.newSeq = (q, s3)) : exec (.mapPageWriteback page) s =
      .next ((s3.pushEnc { id, cw := s.mapCw page q, loc := l, alloc := none, encoded := false }).releaseFill g.num 3 (.mapPage page)) := by
  have hgoes : ¬(!s.mapRuns || !p.dirty || !g.fill.isEmpty || s.pageEncodes page) = true := by simp [hruns, hdirty, hfill, hquiet]
  change execMapPageWriteback page s = _
  rw [State.cached?] at hpage
  rw [State.pageEncodes] at hgoes
  simp only [execMapPageWriteback, hpage, hopen, if_neg hgoes, hid, hplace, hseq]

end

end

end Sys2Proof.Machine

namespace Sys2Proof
open Machine

/-- Settles O33: each row is the choice named above between its work and no change; the rest says which of its conditions holds. -/
theorem backgroundRows : Obligations.BackgroundRows := by
  refine ⟨fun s hup hpaused => ?_,
    fun s id r hreloc => ⟨State.swapOne_waits hreloc, State.swapOne_takes hreloc, State.swapOne_misses hreloc⟩,
    fun s hpaused => ⟨fun k => ?_, ?_, exec_wearLevelling_paused hpaused, exec_refresh_paused hpaused⟩,
    fun s => ⟨fun d k r hretry => ⟨fun hmap hpaused hcopies => ⟨fun l g hentry hopen hblk => ?_, fun l g hentry hopen hblk => ?_,
          fun l hentry hopen => ?_, exec_sectorRetry_unmapped hretry hmap hpaused hcopies⟩, exec_sectorRetry_stays hretry⟩,
      fun d k => exec_sectorRetry_none,
      fun ns lba => ⟨exec_partialWrite_none, fun x hstaged => ⟨fun hup hquiet hlast => ?_, fun y hup hquiet hlast => ?_,
        exec_partialWrite_stays hstaged⟩⟩,
      fun page p g hruns hpage hopen => ⟨fun id q l b s1 s2 s3 hdirty hfill hquiet hid hplace hseq =>
        exec_mapPageWriteback_placed hpage hopen hruns hdirty hfill hquiet hid hplace hseq, exec_mapPageWriteback_stays hpage hopen⟩,
      fun page => exec_mapPageWriteback_none⟩⟩
  · have hruns := State.bgRuns_iff.2 ⟨hup, hpaused⟩
    have hcollects (h : s.gcDue = true) : exec .garbageCollection s = .next ((s.victim s.urgent).elim s s.collectBlk) :=
      exec_garbageCollection.trans (congrArg _ (if_pos (by rw [hruns, h]; rfl)))
    refine ⟨fun k huse hst hvalid hcause hcand hfirst => ?_, fun k h => ?_, fun k h hvictim => ?_, fun h hvictim => ?_, fun hurgent h => ?_,
      fun e p hprof hworn => ⟨fun hcol hspread => ?_, fun h => ?_⟩,
      fun e hnext => ⟨exec_refresh_map hnext hruns, fun hvalid huse => ⟨fun hsec => ?_, fun x hsec hhit => ?_, fun x hsec hhit hwrites => ?_⟩,
        exec_refresh_emptied hnext hruns⟩, exec_refresh_none, fun id hroom => ?_, fun id hroom => ?_⟩
    · exact (exec_fold k).trans (congrArg _ (if_pos (State.foldDue_iff.2 ⟨hruns, huse, hst, hvalid, hfirst, hcand, hcause⟩)))
    · refine (exec_fold k).trans (congrArg _ (if_neg fun hdue => ?_))
      obtain ⟨-, huse, hst, hvalid, -, hcand, hcause⟩ := State.foldDue_iff.1 hdue
      rcases h with h | h | h | h | ⟨hsump, hbusy⟩
      · exact h huse
      · exact h hst
      · exact hvalid.ne' h
      · exact Bool.eq_false_iff.1 hcand h
      · exact hcause.elim (not_lt.2 hsump) (Bool.eq_false_iff.1 hbusy)
    · rw [hcollects (State.gcDue_iff.2 h), hvictim]; rfl
    · rw [hcollects (State.gcDue_iff.2 h), hvictim]; rfl
    · refine exec_garbageCollection.trans (congrArg _ (if_neg ?_))
      rcases h with h | h <;> simp [State.gcDue, hurgent, h]
    · exact (exec_wearLevelling hworn hprof).trans (congrArg _ (if_pos (State.levelDue_iff.2 ⟨hruns, hcol, hspread⟩)))
    · refine (exec_wearLevelling hworn hprof).trans (congrArg _ (if_neg fun hdue => ?_))
      obtain ⟨-, hcol, hspread⟩ := State.levelDue_iff.1 hdue
      exact h.elim (fun h => Bool.eq_false_iff.1 h hcol) (not_le.2 hspread)
    · have hhit := State.evacuates_none (k := e.blk) hsec
      rw [exec_refresh_copies hnext hruns hvalid huse (by simp [hhit]), hhit]; rfl
    · rw [← State.evacuates_some hsec] at hhit
      rw [exec_refresh_copies hnext hruns hvalid huse (by simp [hhit]), hhit]; rfl
    · rw [← State.evacuates_some hsec] at hhit
      rw [exec_refresh_copies hnext hruns hvalid huse fun _ => hwrites, hhit]; rfl
    · exact (exec_relocationSwap id).trans (congrArg _ (if_pos (by rw [hup, hroom]; rfl)))
    · exact (exec_relocationSwap id).trans (congrArg _ (if_neg (by rw [hroom, Bool.and_false]; decide)))
  · refine (exec_fold k).trans (congrArg _ (if_neg fun hdue => ?_))
    obtain ⟨hruns, -⟩ := State.foldDue_iff.1 hdue
    exact Bool.eq_false_iff.1 (State.bgRuns_eq_false_of_paused hpaused) hruns
  · rw [exec_garbageCollection, State.bgRuns_eq_false_of_paused hpaused]; rfl
  · rw [exec_sectorRetry_mapped hretry hmap hpaused hcopies hentry, hopen, Option.elim_some, if_pos hblk]
  · rw [exec_sectorRetry_mapped hretry hmap hpaused hcopies hentry, hopen, Option.elim_some, if_neg hblk]
  · rw [exec_sectorRetry_mapped hretry hmap hpaused hcopies hentry, hopen, Option.elim_none]
  · have hbefore : s.stagedBefore x = [] := hlast
    rw [exec_partialWrite_goes hstaged hup hquiet, hbefore, List.getLast?_nil, Option.elim_none]
  · have hbefore : (s.stagedBefore x).getLast? = some y := hlast
    rw [exec_partialWrite_goes hstaged hup hquiet, hbefore, Option.elim_some]

end Sys2Proof
end

section
/-! A step: the command at the front of the queue, and what every row keeps of the queue (spec/95; log entries 2 and 3). -/

namespace Sys2Proof.Machine

/-- Every row keeps the queue of commands and the sound form: the lemma of each row, along the arms of `exec`. -/
theorem exec_kept {q : List Instr} {s : State} (h : Kept q s) (i : Instr) : KeptOut q (exec i s) :=
  match i with
  | .powerOnReset => execPowerOnReset_kept h | .brownOut .. => execBrownOut_kept h | .rstNLow => execRstNLow_kept h
  | .perstAsserted => execPerstAsserted_kept h | .flr => execFlr_kept h | .ccEnCleared => execCcEnCleared_kept h
  | .nvmSubsystemReset .. => execNvmSubsystemReset_kept h | .domainRelease .. => execDomainRelease_kept h
  | .lastRailGood => execLastRailGood_kept h | .aonCapGood => execAonCapGood_kept h | .strapSample .. => execStrapSample_kept h
  | .rootPllLock => execRootPllLock_kept h | .hostPhyPllLock => execHostPhyPllLock_kept h | .refclkArrival => execRefclkArrival_kept h
  | .pllUnlock .. => execPllUnlock_kept h | .supplyWarning .. => execSupplyWarning_kept h | .forceRelease .. => execForceRelease_kept h
  | .sysRstReqGo .. => execSysRstReqGo_kept h | .sysCauseClear .. => execSysCauseClear_kept h
  | .troubleClearWrite .. => execTroubleClearWrite_kept h | .mirroredFieldWrite .. => execMirroredFieldWrite_kept h
  | .registerWrite .. => execRegisterWrite_kept h | .hostLinkDown => execHostLinkDown_kept h | .sqTailDoorbell .. => execSqTailDoorbell_kept h
  | .cqHeadDoorbell .. => execCqHeadDoorbell_kept h | .commandFetch .. => execCommandFetch_kept h | .ccEnSet .. => execCcEnSet_kept h
  | .controllerReady .. => execControllerReady_kept h | .normalShutdown => execNormalShutdown_kept h | .abruptShutdown => execAbruptShutdown_kept h
  | .createIoSq .. => execCreateIoSq_kept h | .createIoCq .. => execCreateIoCq_kept h | .deleteIoSq .. => execDeleteIoSq_kept h
  | .deleteIoCq .. => execDeleteIoCq_kept h | .getLogPage .. => execGetLogPage_kept h | .identify .. => execIdentify_kept h
  | .abort .. => execAbort_kept h | .setFeaturesArbitration .. => execSetFeaturesArbitration_kept h
  | .setFeaturesPowerManagement .. => execSetFeaturesPowerManagement_kept h | .setFeaturesTempThreshold .. => execSetFeaturesTempThreshold_kept h
  | .setFeaturesErrorRecovery .. => execSetFeaturesErrorRecovery_kept h | .setFeaturesWriteCache .. => execSetFeaturesWriteCache_kept h
  | .setFeaturesNumberOfQueues .. => execSetFeaturesNumberOfQueues_kept h
  | .setFeaturesInterruptCoalescing .. => execSetFeaturesInterruptCoalescing_kept h
  | .setFeaturesInterruptVector .. => execSetFeaturesInterruptVector_kept h | .setFeaturesWriteAtomicity .. => execSetFeaturesWriteAtomicity_kept h
  | .setFeaturesAsyncEventConfig .. => execSetFeaturesAsyncEventConfig_kept h | .setFeaturesApst .. => execSetFeaturesApst_kept h
  | .setFeaturesHostMemoryBuffer .. => execSetFeaturesHostMemoryBuffer_kept h
  | .setFeaturesThermalManagement .. => execSetFeaturesThermalManagement_kept h | .getFeatures .. => execGetFeatures_kept h
  | .asyncEventRequest .. => execAsyncEventRequest_kept h | .namespaceCreate .. => execNamespaceCreate_kept h
  | .namespaceDelete .. => execNamespaceDelete_kept h | .namespaceAttachment .. => execNamespaceAttachment_kept h
  | .firmwareImageDownload .. => execFirmwareImageDownload_kept h | .firmwareCommit .. => execFirmwareCommit_kept h
  | .formatNvm .. => execFormatNvm_kept h | .sanitizeCryptoErase .. => execSanitizeCryptoErase_kept h
  | .sanitizeBlockErase .. => execSanitizeBlockErase_kept h | .sanitizeExitFailureMode .. => execSanitizeExitFailureMode_kept h
  | .securityReceiveProtocols .. => execSecurityReceiveProtocols_kept h | .securitySet .. => execSecuritySet_kept h
  | .securityLock .. => execSecurityLock_kept h | .securityUnlock .. => execSecurityUnlock_kept h | .securityStatus .. => execSecurityStatus_kept h
  | .consoleSend .. => execConsoleSend_kept h | .consoleReceive .. => execConsoleReceive_kept h | .flush .. => execFlush_kept h
  | .write .. => execWrite_kept h | .read .. => execRead_kept h | .writeZeroes .. => execWriteZeroes_kept h
  | .datasetManagement .. => execDatasetManagement_kept h | .verify .. => execVerify_kept h | .secureDeallocate .. => execSecureDeallocate_kept h
  | .commandTimerExpiry .. => execCommandTimerExpiry_kept h | .interruptCoalescingTimeout .. => execInterruptCoalescingTimeout_kept h
  | .stagingDrain => execStagingDrain_kept h | .speculativeRead .. => execSpeculativeRead_kept h | .commandReplay => execCommandReplay_kept h
  | .apstIdleTimeout .. => execApstIdleTimeout_kept h | .ps3Entry => execPs3Entry_kept h | .ps4Entry => execPs4Entry_kept h
  | .clkreqAsserted => execClkreqAsserted_kept h | .ps4Exit => execPs4Exit_kept h | .ps4RecordReload => execPs4RecordReload_kept h
  | .uartCharacter .. => execUartCharacter_kept h | .uartOverrun => execUartOverrun_kept h | .partialLineTimeout => execPartialLineTimeout_kept h
  | .lineExecute => execLineExecute_kept h | .keepAlive .. => execKeepAlive_kept h | .routedLineTimeout .. => execRoutedLineTimeout_kept h
  | .show .. => execShow_kept h | .get .. => execGet_kept h | .set .. => execSet_kept h | .clearTrouble .. => execClearTrouble_kept h
  | .clearCause .. => execClearCause_kept h | .clearSuspect .. => execClearSuspect_kept h | .saveSettings .. => execSaveSettings_kept h
  | .saveProfile .. => execSaveProfile_kept h | .loadSettings .. => execLoadSettings_kept h | .loadProfile .. => execLoadProfile_kept h
  | .profileInstall .. => execProfileInstall_kept h | .runTest .. => execRunTest_kept h | .runOp .. => execRunOp_kept h
  | .runTrain .. => execRunTrain_kept h | .runCheckpoint .. => execRunCheckpoint_kept h | .runPatrol .. => execRunPatrol_kept h
  | .stop .. => execStop_kept h | .stopTest .. => execStopTest_kept h | .stopDma .. => execStopDma_kept h
  | .consoleReset .. => execConsoleReset_kept h | .sleep .. => execSleep_kept h | .lockData .. => execLockData_kept h
  | .unlockData .. => execUnlockData_kept h | .rd .. => execRd_kept h | .wr .. => execWr_kept h | .move .. => execMove_kept h
  | .fill .. => execFill_kept h | .assayOffsets .. => execAssayOffsets_kept h | .assaySensors .. => execAssaySensors_kept h
  | .assaySentinel .. => execAssaySentinel_kept h | .assaySearch .. => execAssaySearch_kept h | .assayReset .. => execAssayReset_kept h
  | .logJournal .. => execLogJournal_kept h | .logTrouble .. => execLogTrouble_kept h | .logAlarm .. => execLogAlarm_kept h
  | .logTemp .. => execLogTemp_kept h | .updatePiece .. => execUpdatePiece_kept h | .updateCommit .. => execUpdateCommit_kept h
  | .updateStatus .. => execUpdateStatus_kept h | .help .. => execHelp_kept h | .galleryTraining .. => execGalleryTraining_kept h
  | .retrainingWindow .. => execRetrainingWindow_kept h | .galCtlTrain .. => execGalCtlTrain_kept h
  | .galSuspectClear .. => execGalSuspectClear_kept h | .galWptLoad .. => execGalWptLoad_kept h
  | .schedulerDispatch .. => execSchedulerDispatch_kept h | .operationAging .. => execOperationAging_kept h
  | .busTransferDone .. => execBusTransferDone_kept h | .rbNRise .. => execRbNRise_kept h | .programSuspend .. => execProgramSuspend_kept h
  | .programResume .. => execProgramResume_kept h | .chamberOpTimeout .. => execChamberOpTimeout_kept h
  | .sequencerWatchdog .. => execSequencerWatchdog_kept h | .opEnd .. => execOpEnd_kept h | .opCmd .. => execOpCmd_kept h
  | .opAddr .. => execOpAddr_kept h | .opDin .. => execOpDin_kept h | .opDout .. => execOpDout_kept h | .opDinb .. => execOpDinb_kept h
  | .opDinv .. => execOpDinv_kept h | .opWait .. => execOpWait_kept h | .opWaitp .. => execOpWaitp_kept h | .opPoll .. => execOpPoll_kept h
  | .opStat .. => execOpStat_kept h | .opBr .. => execOpBr_kept h | .opSetl .. => execOpSetl_kept h | .opLoop .. => execOpLoop_kept h
  | .opSet .. => execOpSet_kept h | .opCall .. => execOpCall_kept h | .encode .. => execEncode_kept h | .hardDecode .. => execHardDecode_kept h
  | .softDecode .. => execSoftDecode_kept h | .stripeRebuild .. => execStripeRebuild_kept h | .softDecodeTimeout .. => execSoftDecodeTimeout_kept h
  | .hardLaneTimeout .. => execHardLaneTimeout_kept h | .softLaneTimeout .. => execSoftLaneTimeout_kept h
  | .arrayOpComplete .. => execArrayOpComplete_kept h | .readVerify .. => execReadVerify_kept h | .sumpAllocation => execSumpAllocation_kept h
  | .sumpPageRelease .. => execSumpPageRelease_kept h | .stripeGroupOpen .. => execStripeGroupOpen_kept h | .commit .. => execCommit_kept h
  | .relocationSwap .. => execRelocationSwap_kept h | .partialWrite .. => execPartialWrite_kept h
  | .mapPageWriteback .. => execMapPageWriteback_kept h | .fold .. => execFold_kept h | .garbageCollection => execGarbageCollection_kept h
  | .wearLevelling => execWearLevelling_kept h | .refresh => execRefresh_kept h | .sectorRetry .. => execSectorRetry_kept h
  | .blockErase .. => execBlockErase_kept h | .reserveErase .. => execReserveErase_kept h | .chamberRetire .. => execChamberRetire_kept h
  | .journalPageProgram .. => execJournalPageProgram_kept h | .checkpointTimer => execCheckpointTimer_kept h
  | .checkpoint .. => execCheckpoint_kept h | .shelfChangeOver => execShelfChangeOver_kept h | .mount .. => execMount_kept h
  | .blockTableWalk => execBlockTableWalk_kept h | .fullScan => execFullScan_kept h | .retentionSweep .. => execRetentionSweep_kept h
  | .mapEngineWatchdog => execMapEngineWatchdog_kept h | .temperatureSample .. => execTemperatureSample_kept h
  | .chamberTemperatureList .. => execChamberTemperatureList_kept h | .railSample .. => execRailSample_kept h
  | .governorTick => execGovernorTick_kept h | .valleySearch .. => execValleySearch_kept h | .lifetimeSecond => execLifetimeSecond_kept h
  | .hourlyHistory => execHourlyHistory_kept h | .patrolWake .. => execPatrolWake_kept h | .refreshWake .. => execRefreshWake_kept h
  | .tetherTraining .. => execTetherTraining_kept h | .part .. => execPart_kept h | .data .. => execData_kept h | .done .. => execDone_kept h
  | .console .. => execConsole_kept h | .orderReset .. => execOrderReset_kept h | .orderStandby .. => execOrderStandby_kept h
  | .orderStandbyReady .. => execOrderStandbyReady_kept h | .orderState .. => execOrderState_kept h | .orderHold .. => execOrderHold_kept h
  | .orderReady .. => execOrderReady_kept h | .orderAbort .. => execOrderAbort_kept h | .orderActivate .. => execOrderActivate_kept h
  | .alarm .. => execAlarm_kept h | .admin .. => execAdmin_kept h | .ack .. => execAck_kept h | .nak .. => execNak_kept h
  | .credit .. => execCredit_kept h | .hello .. => execHello_kept h | .replayTimeout .. => execReplayTimeout_kept h
  | .idleAckTimer .. => execIdleAckTimer_kept h | .subordinateSilent .. => execSubordinateSilent_kept h
  | .holdWindowExpiry .. => execHoldWindowExpiry_kept h | .chainJoinTimeout => execChainJoinTimeout_kept h | .wakeBeacon => execWakeBeacon_kept h
  | .scrubRead => execScrubRead_kept h | .narrowWrite .. => execNarrowWrite_kept h | .mergeBufferDrain => execMergeBufferDrain_kept h
  | .flipMaskArm .. => execFlipMaskArm_kept h | .dmaStart .. => execDmaStart_kept h | .dmaStop .. => execDmaStop_kept h
  | .descriptorFetch .. => execDescriptorFetch_kept h | .dmaFetchTimeout .. => execDmaFetchTimeout_kept h
  | .dmaComplete .. => execDmaComplete_kept h | .mpuCommit .. => execMpuCommit_kept h | .lanternStatus => execLanternStatus_kept h
  | .lanternRead .. => execLanternRead_kept h | .lanternWrite .. => execLanternWrite_kept h | .lanternBlkrd .. => execLanternBlkrd_kept h
  | .lanternBlkwr .. => execLanternBlkwr_kept h | .lanternReset .. => execLanternReset_kept h | .scanBypass => execScanBypass_kept h
  | .scanIdcode => execScanIdcode_kept h | .scanSamplePreload .. => execScanSamplePreload_kept h | .scanExtest => execScanExtest_kept h
  | .scanShift .. => execScanShift_kept h | .bstProgramWord .. => execBstProgramWord_kept h | .bstEraseSector .. => execBstEraseSector_kept h
  | .bstSwapCommit .. => execBstSwapCommit_kept h | .bstSuspend => execBstSuspend_kept h | .bstResume => execBstResume_kept h
  | .bstReadStatus => execBstReadStatus_kept h | .bstArrayRead => execBstArrayRead_kept h | .bstOpComplete .. => execBstOpComplete_kept h
  | .bstOpTimeout => execBstOpTimeout_kept h | .bstCmProgram => execBstCmProgram_kept h | .bstCmErase => execBstCmErase_kept h
  | .supplyAlarm .. => execSupplyAlarm_kept h | .clockAlarm .. => execClockAlarm_kept h | .temperatureAlarm .. => execTemperatureAlarm_kept h
  | .glitchAlarm => execGlitchAlarm_kept h | .unlockFailureAlarm => execUnlockFailureAlarm_kept h
  | .alarmLogProgram .. => execAlarmLogProgram_kept h | .coreWatchdog => execCoreWatchdog_kept h | .perstDeasserted => execPerstDeasserted_kept h
  | .rstNHigh => execRstNHigh_kept h | .supplyWarningCleared .. => execSupplyWarningCleared_kept h | .hotReset => execHotReset_kept h
  | .linkDisable => execLinkDisable_kept h | .l12Entry => execL12Entry_kept h | .tlerExpiry .. => execTlerExpiry_kept h
  | .sleepTimeout => execSleepTimeout_kept h | .mismatchHelloTimer .. => execMismatchHelloTimer_kept h
  | .passwordCheckComplete => execPasswordCheckComplete_kept h

/-- The meaning of every row is a next state: no arm of `exec` faults or refuses. -/
theorem exec_next (i : Instr) (s : State) : ∃ t : State, exec i s = .next t := by
  cases i <;> exact ⟨_, rfl⟩

theorem step_cons {s : State} {c : Instr} {rest : List Instr} (h : s.pending = c :: rest) : step s = exec c { s with pending := rest } := by
  unfold step; rw [h]

theorem step_nil {s : State} (h : s.pending = []) : step s = .next s := by unfold step; rw [h]

/-- A step of a sound state leaves the rest of the queue, and the state sound. -/
theorem step_kept {s : State} (h : s.wf = true) : KeptOut s.pending.tail (step s) := by
  cases hq : s.pending with
  | nil => rw [step_nil hq]; exact Kept.next ⟨hq, h⟩
  | cons c rest => rw [step_cons hq]; exact exec_kept (s := { s with pending := rest }) ⟨rfl, h⟩ c

end Sys2Proof.Machine

namespace Sys2Proof
open Machine

/-- Settles O1: the step's own case of a queue that is not empty. -/
theorem stepRunsFront : Obligations.StepRunsFront := fun _ _ _ => step_cons rfl

/-- Settles O2: the commands that wait are what every row keeps, and with none waiting the step is the idle. -/
theorem stepTakesOne : Obligations.StepTakesOne :=
  ⟨fun _ t hwf hstep => (step_kept hwf t hstep).pending, fun _ => step_nil⟩

/-- Settles O4: every row, and the idle, answer a next state. -/
theorem stepNeverStops : Obligations.StepNeverStops := by
  intro s _
  cases hq : s.pending with
  | nil => rw [step_nil hq]; rfl
  | cons c rest =>
    obtain ⟨t, ht⟩ := exec_next c { s with pending := rest }
    rw [step_cons hq, ht]; rfl

end Sys2Proof
end

section
/-! The registers of level 2 under a reset, the hop limit register and the count of corrected errors (R436, R466, R604). -/

namespace Sys2Proof.Machine

/-! ### A register under a reset (R9, R544) -/

/-- The registers in the scope of a reset read their reset values, every other what it held. -/
theorem State.resetRegs_reg (s : State) (level : Nat) (r : Reg) :
    (s.resetRegs level).reg r = if levelRestores level r.level then regDefault r.addr else s.reg r := by
  simp only [State.reg, State.resetRegs, store_get_drop_any, Reg.ofAddr_addr]

section
variable {r : Reg} (hrec : r ∉ recordRegs)
include hrec

/-- A reset of level 0 to 2 restores a register of its scope that does not record it. -/
theorem State.assertReset_restores {level : Nat} (s : State) (src : Nat) (hl : level ≤ 2) (hr : levelRestores level r.level = true) :
    (s.assertReset level src).reg r = regDefault r.addr := by
  let u := ((s.resetOrders level src).activating level).interrupt.dropStaging
  have hs : (s.assertReset level src).reg r =
      (State.recordReset ((u.resetRegs level).resetBlocks level) level src ((s.resetOrders level src).activating level |>.resetCount level)).reg r := by
    obtain rfl | rfl | rfl : level = 0 ∨ level = 1 ∨ level = 2 := by omega
    all_goals rfl
  rw [hs, State.recordReset_other _ _ _ _ hrec]
  exact (u.resetRegs_reg level r).trans (if_pos hr)

/-- A reset of level 3 leaves every other register outside Front's. -/
theorem State.assertReset_three_keeps (s : State) (src : Nat) (hr : r.level ≠ 3) : (s.assertReset 3 src).reg r = s.reg r := by
  let u := (s.resetOrders 3 src).activating 3
  have hregs : u.regs = s.regs := (State.activating_regs _ 3).trans (s.resetOrders_regs 3 src)
  refine (State.recordReset_other _ _ _ _ hrec).trans ((u.resetRegs_reg 3 r).trans ?_)
  rw [if_neg (by simpa [levelRestores] using hr), State.reg_congr hregs]

end

theorem levelRestores_two {level : Nat} (h : level ≤ 2) : levelRestores level 2 = true := by
  obtain rfl | rfl | rfl : level = 0 ∨ level = 1 ∨ level = 2 := by omega
  all_goals rfl

/-! ### A register no bit of which is written -/

/-- A write whose mask is empty and that clears no bit keeps what the register held. -/
theorem plainWrite_none {r : Reg} {mask : Word} (hmask : mask = 0) (hw1c : r.w1c = 0) (old v : Word) : plainWrite r mask old v = old := by
  subst hmask
  rw [plainWrite, hw1c]
  simp only [BitVec.ofNat_eq_ofNat, BitVec.not_zero, BitVec.and_allOnes, BitVec.and_zero, BitVec.or_zero]

/-- A register given what it held reads as before, and so does every other. -/
theorem State.reg_setReg_own (s : State) (r q : Reg) : (s.setReg r (s.reg r)).reg q = s.reg q := by
  rw [State.reg_setReg]
  split
  · rename_i h; rw [h]
  · rfl

/-- A whole register set as a field. -/
theorem setFld_whole (w : Word) (v : Nat) : setFld w 0 32 v = BitVec.ofNat 32 v := by
  have h (x : Word) : fld x 0 32 = x.toNat := Nat.mod_eq_of_lt x.isLt
  rw [← BitVec.toNat_inj, ← h, fld_setFld _ _ _ _ (by decide), BitVec.toNat_ofNat]

/-! ### DMA_HOP (R466) -/

/-- The field written as its setting: 0 lies outside the setting's range, every other value inside (R101, R140). -/
theorem State.regWrite_dmaHop (s : State) (cls : Cls) (v : Word) : s.regWrite cls .dmaHop v =
    if fld v 0 16 = 0 then s.setReg .dmaHop (s.reg .dmaHop)
    else (State.setReg { s with settings := { s.settings with dmaHopLimit := fld v 0 16 } } .dmaHop (s.reg .dmaHop)).setRf .dmaHop 0 16 (fld v 0 16) := by
  have hplain : plainWrite .dmaHop (Reg.rw .dmaHop &&& ~~~(mirrorMask .dmaHop)) (s.reg .dmaHop) v = s.reg .dmaHop :=
    plainWrite_none (by decide) rfl _ _
  have hlt := fld_lt v 0 16
  have hwrite : s.regWrite cls .dmaHop v = (s.setReg .dmaHop (s.reg .dmaHop)).mirrorWrite .hopLimit (fld v 0 16) := by
    conv_rhs => rw [← hplain]
    rfl
  have hrange : ((s.setReg .dmaHop (s.reg .dmaHop)).setInRange .dmaHopLimit (.num (fld v 0 16)) && true) = true ↔ ¬fld v 0 16 = 0 := by
    rw [Bool.and_true]
    exact decide_eq_true_iff.trans (show 1 ≤ fld v 0 16 ∧ fld v 0 16 ≤ 65535 ↔ _ by omega)
  rw [hwrite]
  split
  · exact if_neg fun h => hrange.1 h ‹_›
  · exact if_pos (hrange.2 ‹_›)

/-! ### KPR_CE_CNT (R436) -/

theorem State.kprCe_count (s : State) (i src : Nat) (syn : Byte) : (s.kprCe i src syn).reg .kprCeCnt = s.reg .kprCeCnt + 1 := by
  have hcount : (s.kprCe i src syn).reg .kprCeCnt = (s.bumpWrap .kprCeCnt 0 32 1).reg .kprCeCnt := by
    rw [State.kprCe, State.reg_congr (State.raise_regs _ 0), State.reg_setRf_ne _ _ _ _ (by decide), State.reg_setReg_ne _ _ (by decide)]
  have hwhole : s.rf .kprCeCnt 0 32 = (s.reg .kprCeCnt).toNat := Nat.mod_eq_of_lt (s.reg .kprCeCnt).isLt
  rw [hcount, State.bumpWrap, State.setRf, State.reg_setReg_same, setFld_whole, hwhole, BitVec.ofNat_add, BitVec.ofNat_toNat, BitVec.setWidth_eq]
  rfl

end Sys2Proof.Machine

namespace Sys2Proof
open Machine

/-- Settles O7: the register's place and level are read off, and a write of it is a write of its mirroring field. -/
theorem hopLimitRegister : Obligations.HopLimitRegister := by
  have hrec : Reg.dmaHop ∉ recordRegs := by decide
  refine ⟨rfl, rfl, rfl, rfl, fun s level src hl => State.assertReset_restores hrec s src hl (levelRestores_two hl),
    fun s src => State.assertReset_three_keeps hrec s src (by decide), fun s cls v => ⟨rfl, fun h => ?_, fun h => ?_, ?_⟩⟩
  · rw [State.regWrite_dmaHop, if_pos h, State.rf, State.reg_setReg_same]
    exact ⟨rfl, rfl⟩
  · rw [State.regWrite_dmaHop, if_neg h, State.rf_setRf_same _ _ _ _ _ (by decide)]
    exact ⟨Nat.mod_eq_of_lt (fld_lt v 0 16), rfl⟩
  · rw [State.regWrite_dmaHop]
    split
    · rw [State.rf, State.reg_setReg_same]; rfl
    · rw [State.rf_setRf_apart _ _ _ _ _ _ _ (by decide) (by decide), State.rf, State.reg_setReg_same]; rfl

/-- Settles O8: a read-only register takes no bit of a write, and a corrected error adds one to all 32 bits. -/
theorem correctedErrorCount : Obligations.CorrectedErrorCount := by
  have hrec : Reg.kprCeCnt ∉ recordRegs := by decide
  refine ⟨rfl, rfl, rfl, fun s level src hl => State.assertReset_restores hrec s src hl (levelRestores_two hl),
    fun s src => State.assertReset_three_keeps hrec s src (by decide), fun s cls v i src syn => ⟨rfl, fun r => ?_, ?_⟩⟩
  · have hold : s.regWrite cls .kprCeCnt v = s.setReg .kprCeCnt (s.reg .kprCeCnt) :=
      congrArg (s.setReg .kprCeCnt) (plainWrite_none (by decide) rfl _ _)
    rw [hold, State.reg_setReg_own]
  · exact s.kprCe_count i src syn

end Sys2Proof
end

section
/-! The Keeper: the code of a word, its place in the array, read-modify-writes, the flip mask, the scrubber and the merge buffer
(R420, R423 to R425, R427, R430). -/

namespace Sys2Proof

/-! ### A store after an entry is put in or dropped -/

theorem Store.find_ins_ne {α : Type} (m : Store α) {k j : Nat} (v : α) (h : j ≠ k) : Store.find (m.ins k v) j = Store.find m j := by
  have hk : (k == j) = false := beq_false_of_ne h.symm
  induction m with
  | nil => simp [Store.ins, Store.find, hk]
  | cons e m ih =>
    obtain ⟨a, w⟩ := e
    unfold Store.ins
    split
    · simp [Store.find, hk]
    · split
      · rename_i heq
        subst heq
        simp [Store.find, hk]
      · cases haj : a == j
        · simpa [Store.find, haj] using ih
        · simp [Store.find, haj]

theorem Store.find_del {α : Type} (m : Store α) (k j : Nat) : Store.find (m.del k) j = if j = k then none else Store.find m j := by
  have h := Machine.store_find_drop_any m (· == k) j
  simp only [beq_iff_eq] at h
  exact h

end Sys2Proof

namespace Sys2Proof.Machine

/-! ### The code (R420) -/

section
variable {w : KWord}

theorem KWord.decode_none (h : w.flips = 0) : w.decode = .clean w.data := by simp only [KWord.decode, h]

theorem KWord.decode_one (h : w.flips = 1) : w.decode = .corrected w.data := by simp only [KWord.decode, h]

theorem KWord.decode_two (h : w.flips = 2) : w.decode = .bad (w.data ^^^ w.flipD) := by simp only [KWord.decode, h]

end

/-- A word just encoded has no bit in error. -/
theorem KWord.decode_fresh (d : BitVec 64) : KWord.decode { data := d } = .clean d := by
  have hflips : popCount 64 (0 : BitVec 64).toNat + popCount 8 (0 : Byte).toNat = 0 := by decide
  exact KWord.decode_none hflips

/-- The poison syndrome is two check bits in error. -/
theorem KWord.decode_poison (d : BitVec 64) : (KWord.poison d).decode = .bad d := by
  have hflips : popCount 64 (0 : BitVec 64).toNat + popCount 8 (3 : Byte).toNat = 2 := by decide
  exact (KWord.decode_two (w := KWord.poison d) hflips).trans (congrArg Decoded.bad BitVec.xor_zero)

/-! ### A word in its place -/

/-- What the array keeps of a state when one word is put in: everything the unlisted words read from. -/
theorem State.kprWord_put (s : State) (i k : Nat) (w : KWord) :
    State.kprWord { s with kpr := s.kpr.put i w } k = if k = i then w else s.kprWord k := by
  unfold Keeper.put
  by_cases hplain : (s.kpr.plain i && w == { data := 0 }) = true
  · rw [if_pos hplain]
    simp only [Bool.and_eq_true, beq_iff_eq] at hplain
    obtain ⟨hplain, rfl⟩ := hplain
    split
    · rename_i h
      subst h
      simp only [Keeper.plain, Bool.and_eq_true, decide_eq_true_eq, Bool.not_eq_true'] at hplain
      obtain ⟨hscratch, hraw⟩ := hplain
      have hret : ¬k < kprRetEnd := by simp only [kprRetEnd, kprScratch] at hscratch ⊢; omega
      simp [State.kprWord, Store.find_del, Keeper.isRaw, hret, not_lt.2 hscratch, hraw]
    · rename_i h
      simp only [State.kprWord, Store.find_del, if_neg h]
      rfl
  · rw [if_neg hplain]
    split
    · rename_i h
      subst h
      simp only [State.kprWord, store_find_ins]
    · rename_i h
      simp only [State.kprWord, Store.find_ins_ne _ _ h]
      rfl

/-- With the flip mask not armed a write puts the word as given. -/
theorem State.kprStore_unarmed {s : State} (h : s.rf .kprFlipCtl 8 1 = 0) (i : Nat) (w : KWord) :
    s.kprStore i w = { s with kpr := s.kpr.put i w } := by
  have hfires : s.flipFires i = false := by simp [State.flipFires, h]
  rw [State.kprStore, hfires]
  rfl

/-! ### Read-modify-writes (R423, R425) -/

/-- The bits of byte `j`. -/
theorem getLsbD_byte (j : Nat) {k : Nat} (h : k < 64) : (0xFF#64 <<< (8 * j)).getLsbD k = decide (k / 8 = j) := by
  have hbyte : (0xFF#64).getLsbD (k - 8 * j) = decide (k - 8 * j < 8) := by
    rw [BitVec.getLsbD_ofNat, Nat.testBit_two_pow_sub_one (n := 8), decide_eq_true (show k - 8 * j < 64 by omega), Bool.true_and]
  rw [BitVec.getLsbD_shiftLeft, hbyte, decide_eq_true h, Bool.true_and, ← decide_not, ← Bool.decide_and]
  exact decide_eq_decide.2 (by omega)

/-- A bit of the bits of those bytes of a list that a mask selects. -/
theorem getLsbD_foldl_bytes (m : Byte) (l : List Nat) (a : BitVec 64) {k : Nat} (h : k < 64) :
    (l.foldl (fun a j => if m.getLsbD j then a ||| (0xFF#64 <<< (8 * j)) else a) a).getLsbD k =
      (a.getLsbD k || (m.getLsbD (k / 8) && l.contains (k / 8))) := by
  induction l generalizing a with
  | nil => simp
  | cons j l ih =>
    rw [List.foldl_cons, ih, List.contains_cons]
    by_cases hj : k / 8 = j
    · subst hj
      cases hm : m.getLsbD (k / 8) <;> simp [getLsbD_byte _ h]
    · cases hm : m.getLsbD j <;> simp [getLsbD_byte _ h, hj, beq_false_of_ne hj]

/-- A bit of the bits that a byte mask selects. -/
theorem getLsbD_byteBits (m : Byte) {k : Nat} (h : k < 64) : (byteBits m).getLsbD k = m.getLsbD (k / 8) := by
  have hbyte : (List.range 8).contains (k / 8) = true := List.contains_iff_mem.2 (List.mem_range.2 (by omega))
  rw [byteBits, getLsbD_foldl_bytes m _ _ h, hbyte, Bool.and_true]
  simp

/-- A bit of new bytes placed over old ones. -/
theorem getLsbD_mergeBytes (old new : BitVec 64) (m : Byte) {k : Nat} (h : k < 64) :
    (mergeBytes old new m).getLsbD k = if m.getLsbD (k / 8) then new.getLsbD k else old.getLsbD k := by
  rw [mergeBytes, BitVec.getLsbD_or, BitVec.getLsbD_and, BitVec.getLsbD_and, BitVec.getLsbD_not, getLsbD_byteBits m h]
  cases m.getLsbD (k / 8) <;> simp [h]

/-- A corrected error changes two registers of the Keeper beside its count, and leaves its words and its flip mask. -/
theorem State.kprCe_reg (s : State) (i src : Nat) (syn : Byte) {r : Reg} (h : r ∉ [Reg.kprCeCnt, .kprCeAddr, .kprSyn]) :
    (s.kprCe i src syn).reg r = s.reg r := by
  simp only [List.mem_cons, List.not_mem_nil, or_false, not_or] at h
  obtain ⟨hcnt, haddr, hsyn⟩ := h
  rw [State.kprCe, State.reg_congr (State.raise_regs _ 0), State.reg_setRf_ne _ _ _ _ hsyn, State.reg_setReg_ne _ _ haddr, State.bumpWrap,
    State.reg_setRf_ne _ _ _ _ hcnt]

/-- A correctable word is written back corrected with the new bytes, and counted. -/
theorem State.kprRmw_corrected {s : State} {i : Nat} {d : BitVec 64} (h : (s.kprWord i).decode = .corrected d) (hflip : s.rf .kprFlipCtl 8 1 = 0)
    (new : BitVec 64) (m : Byte) :
    let t : State := s.kprCe i 1 (s.kprWord i).syndrome
    s.kprRmw i new m = { t with kpr := t.kpr.put i { data := mergeBytes d new m } } := by
  intro t
  have hunarmed : t.rf .kprFlipCtl 8 1 = 0 := (congrArg (fld · 8 1) (s.kprCe_reg _ _ _ (by decide))).trans hflip
  rw [← State.kprStore_unarmed hunarmed]
  simp only [State.kprRmw, h]
  rfl

/-! ### A full-word write (R423, R424) -/

/-- With the flip mask not armed a full-word write puts its word and drops a merge-buffer entry of it. -/
theorem State.kprWrite_unarmed {s : State} (h : s.rf .kprFlipCtl 8 1 = 0) (i : Nat) (d : BitVec 64) : s.kprWrite i d =
    { s with kpr := Keeper.put { s.kpr with merge := s.kpr.merge.filter fun e => e.word != i } i { data := d } } :=
  State.kprStore_unarmed (s := { s with kpr := { s.kpr with merge := s.kpr.merge.filter fun e => e.word != i } }) h i _

theorem State.kprWord_kprWrite {s : State} (h : s.rf .kprFlipCtl 8 1 = 0) (i k : Nat) (d : BitVec 64) :
    (s.kprWrite i d).kprWord k = if k = i then { data := d } else s.kprWord k := by
  rw [State.kprWrite_unarmed h]
  exact State.kprWord_put { s with kpr := { s.kpr with merge := s.kpr.merge.filter fun e => e.word != i } } i k _

/-- A read of a clean word that the merge buffer does not hold gives its data and changes nothing. -/
theorem State.kprRead_clean {s : State} {i : Nat} {d : BitVec 64} (hbuf : (s.kpr.merge.find? fun e => e.word == i) = none)
    (hword : (s.kprWord i).decode = .clean d) : s.kprRead i = (d, false, s) := by
  simp only [State.kprRead, hbuf, hword]

/-! ### The flip mask (R427) -/

/-- The state whose registers say that the mask acted on a word: the mask is clear, not armed, and its last place recorded. -/
def State.flipSpent (s : State) (i : Nat) : State :=
  (((s.setReg .kprFlipLo 0).setReg .kprFlipHi 0).setReg .kprFlipCtl (setFld (s.reg .kprFlipCtl) 0 9 0)).setReg .kprFlipLast (BitVec.ofNat 32 (8 * i + 1))

theorem State.kprStore_fires {s : State} {i : Nat} (h : s.flipFires i = true) (w : KWord) : s.kprStore i w =
    { (s.flipSpent i).raise 4 with
      kpr := s.kpr.put i ⟨w.data, w.flipD ^^^ s.flipMaskD, w.flipC ^^^ BitVec.ofNat 8 (s.rf .kprFlipCtl 0 8)⟩ } := by
  rw [State.kprStore, if_pos h]
  rfl

theorem State.flipSpent_regs (s : State) (i : Nat) : (s.flipSpent i).reg .kprFlipLo = 0 ∧ (s.flipSpent i).reg .kprFlipHi = 0 ∧
    (s.flipSpent i).reg .kprFlipCtl = setFld (s.reg .kprFlipCtl) 0 9 0 ∧ (s.flipSpent i).reg .kprFlipLast = BitVec.ofNat 32 (8 * i + 1) := by
  simp [State.flipSpent]

/-- A mask whose bits 8 to 0 were cleared is not armed. -/
theorem State.flipFires_cleared {s : State} {w : Word} (h : s.reg .kprFlipCtl = setFld w 0 9 0) (k : Nat) : s.flipFires k = false := by
  have harm : s.rf .kprFlipCtl 8 1 = 0 := by rw [State.rf, h, fld_bit, getLsbD_setFld _ _ _ _ _ (by decide)]; rfl
  simp [State.flipFires, harm]

/-! ### The scrubber and the merge buffer (R424, R430) -/

/-- The scrubber reads while it is enabled, in PS0 to PS3, and no reset holds the Keeper. -/
def State.scrubs (s : State) : Prop := s.rf .kprCtl 0 1 = 1 ∧ s.sys.ps.val < 4 ∧ s.inReset = false

theorem exec_scrubRead_scrubs {s : State} (h : s.scrubs) : exec .scrubRead s = .next s.scrubRead :=
  congrArg _ (if_pos ⟨h.1, h.2.1, by rw [h.2.2]; rfl⟩)

theorem exec_scrubRead_rests {s : State} (h : s.rf .kprCtl 0 1 = 0 ∨ s.sys.ps = 4 ∨ s.inReset = true) : exec .scrubRead s = .next s := by
  refine congrArg _ (if_neg fun ⟨hen, hps, hreset⟩ => ?_)
  rcases h with h | h | h
  · exact absurd (hen.symm.trans h) (by decide)
  · exact absurd hps (by rw [h]; decide)
  · rw [h] at hreset; exact absurd hreset (by decide)

section
variable {s : State}

/-- A word with a merge-buffer entry is skipped. -/
theorem State.scrubRead_skips (h : (s.kpr.merge.any fun e => e.word == s.kpr.scrubAt) = true) : s.scrubRead = s.scrubNext := by
  rw [State.scrubRead]; exact if_pos h

section
variable (hfree : (s.kpr.merge.any fun e => e.word == s.kpr.scrubAt) = false) {d : BitVec 64}
include hfree

theorem State.scrubRead_clean (h : (s.kprWord s.kpr.scrubAt).decode = .clean d) : s.scrubRead = s.scrubNext := by
  simp [State.scrubRead, hfree, h]

theorem State.scrubRead_corrected (h : (s.kprWord s.kpr.scrubAt).decode = .corrected d) : s.scrubRead =
    ((s.kprCe s.kpr.scrubAt 2 (s.kprWord s.kpr.scrubAt).syndrome).kprScrubStore s.kpr.scrubAt { data := d }).scrubNext := by
  simp [State.scrubRead, hfree, h]

theorem State.scrubRead_bad (h : (s.kprWord s.kpr.scrubAt).decode = .bad d) : s.scrubRead =
    (((s.kprUe s.kpr.scrubAt true (s.kprWord s.kpr.scrubAt).syndrome).raise 3).kprScrubStore s.kpr.scrubAt (KWord.poison d)).scrubNext := by
  simp [State.scrubRead, hfree, h]

end

theorem State.kprUnitIdle_empty (h : s.kpr.merge = []) : s.kprUnitIdle = { s with kpr := { s.kpr with rmwBusy := none } } := by
  simp only [State.kprUnitIdle, h]

theorem State.kprUnitIdle_drains {e : Merge} {l : List Merge} (h : s.kpr.merge = e :: l) :
    s.kprUnitIdle = { s.kprDrain e with kpr := { (s.kprDrain e).kpr with rmwBusy := some e.word } } := by
  simp only [State.kprUnitIdle, h]

end

theorem exec_mergeBufferDrain (s : State) : exec .mergeBufferDrain s = .next s.kprUnitIdle := rfl

end Sys2Proof.Machine

namespace Sys2Proof
open Machine

/-- Settles O9: the write is the one of the corrected word over the state that counted the error. -/
theorem correctedMerge : Obligations.CorrectedMerge := by
  intro s i new d m hword hflip
  have hput := State.kprRmw_corrected hword hflip new m
  have hmerged : (s.kprRmw i new m).kprWord i = { data := mergeBytes d new m } := by rw [hput, State.kprWord_put, if_pos rfl]
  refine ⟨hmerged, ?_, fun k => getLsbD_mergeBytes d new m, ?_, ?_⟩
  · rw [hmerged, KWord.decode_fresh]
  · rw [hput]
    exact s.kprCe_count i 1 _
  · rw [hput]
    exact (State.trb_raise _ 0 0 (by decide)).trans (Bool.or_true _)

/-- Settles O24: the code counts the flips that stand in a word, and a write puts one word in its place. -/
theorem keeperWords : Obligations.KeeperWords := by
  refine ⟨fun d flipD flipC => ⟨KWord.decode_fresh d, KWord.decode_one (w := ⟨d, flipD, flipC⟩), KWord.decode_two (w := ⟨d, flipD, flipC⟩),
      KWord.decode_poison d, rfl⟩,
    fun s i d hflip _ => ⟨State.kprRead_clean ?_ ?_, fun k hk => (State.kprWord_kprWrite hflip i k d).trans (if_neg hk), ?_⟩⟩
  · rw [State.kprWrite_unarmed hflip]
    change (s.kpr.merge.filter fun e => e.word != i).find? _ = none
    simp [List.find?_eq_none]
  · rw [State.kprWord_kprWrite hflip, if_pos rfl, KWord.decode_fresh]
  · rw [State.kprWrite_unarmed hflip]

/-- Settles O25: an array write under the armed mask, the scrubber's read by how its word decodes, and the unit's idle by its oldest entry. -/
theorem keeperRows : Obligations.KeeperRows := by
  refine ⟨fun s i w hfires _ => ?_, fun s => ⟨fun hen hps hreset hfree => ⟨fun d h => ?_, fun d h => ?_, fun d h => ?_⟩,
    fun hen hps hreset hheld => ?_, exec_scrubRead_rests, fun h => ?_, fun e l h => ?_⟩⟩
  · obtain ⟨hlo, hhi, hctl, hlast⟩ := s.flipSpent_regs i
    rw [State.kprStore_fires hfires w]
    exact ⟨rfl, hlo, hhi, (congrArg (fld · 0 9) hctl).trans (fld_setFld _ _ _ _ (by decide)), hlast,
      (State.trb_raise _ 4 4 (by decide)).trans (Bool.or_true _), State.flipFires_cleared hctl⟩
  · rw [exec_scrubRead_scrubs ⟨hen, hps, hreset⟩, State.scrubRead_clean hfree h]
  · rw [exec_scrubRead_scrubs ⟨hen, hps, hreset⟩, State.scrubRead_corrected hfree h]
  · rw [exec_scrubRead_scrubs ⟨hen, hps, hreset⟩, State.scrubRead_bad hfree h]
  · rw [exec_scrubRead_scrubs ⟨hen, hps, hreset⟩, State.scrubRead_skips hheld]
  · rw [exec_mergeBufferDrain, State.kprUnitIdle_empty h]
  · rw [exec_mergeBufferDrain, State.kprUnitIdle_drains h]

end Sys2Proof
end

section
/-! The channels of the DMA engine: their rows and their ends (R450, R458 to R463, R476). -/

namespace Sys2Proof.Machine

section
variable {s : State} {n : Fin 8}

/-! ### A start (R449, R450, R476) -/

/-- The write of CTL with start set, judged and placed. -/
theorem exec_dmaStart {cls : Cls} {pri : BitVec 2} (hc : s.canIssue cls = true) (hv : s.verdict cls true (Reg.dmaChCtl n).addr = none)
    (hp : s.place (Reg.dmaChCtl n).addr 4 = .reg (some (.dmaChCtl n))) : exec (.dmaStart n cls pri) s =
      .next (((s.plainReg (.dmaChCtl n) (BitVec.ofNat 32 (1 + 4 * pri.toNat))).dmaStart n cls).dmaKick) := by
  have hstart : fld (BitVec.ofNat 32 (1 + 4 * pri.toNat)) 0 1 = 1 := by rw [fld_ofNat _ _ _ (by decide)]; omega
  have hstop : ¬fld (BitVec.ofNat 32 (1 + 4 * pri.toNat)) 1 1 = 1 := by rw [fld_ofNat _ _ _ (by decide)]; omega
  have hwrite : exec (.dmaStart n cls pri) s = .next (s.issue cls (Reg.dmaChCtl n).addr 4 (1 + 4 * pri.toNat)) := rfl
  rw [hwrite, State.issue_register hc hv hp fun g => nofun]
  change _ = Host.Outcome.next (State.dmaKick _)
  rw [State.regWrite, State.writeDmaCtl, if_pos hstart, if_neg hstop]

theorem State.dmaStart_busy {cls : Cls} (h : s.dmaBusy n = true) : s.dmaStart n cls = s.raise 34 := if_pos h

theorem State.dmaStart_idle {cls : Cls} (h : s.dmaBusy n = false) :
    s.dmaStart n cls = s.dmaSet n fun _ => { st := .running, cls, hopLimit := s.rf .dmaHop 0 16 } := if_neg (by rw [h]; decide)

/-- A write of a register of the engine leaves the channels' state. -/
theorem State.dmaBusy_plainReg (m : Fin 8) (v : Word) : (s.plainReg (.dmaChCtl n) v).dmaBusy m = s.dmaBusy m := by
  rw [State.plainReg_eq s v rfl]
  rfl

/-! ### A stop (R460) -/

theorem exec_dmaStop : exec (.dmaStop n) s = .next (s.dmaStop n) := rfl

/-! ### The next descriptor (R450, R458) -/

section
variable (hbusy : s.dmaBusy n = true) (hscan : s.lan.scan = false) (hreset : s.inReset = false)
include hbusy hscan hreset

theorem exec_descriptorFetch : exec (.descriptorFetch n) s = .next (if (s.dma.get n).atEnd then s.nextDesc n else s.runDesc n) :=
  congrArg _ (if_neg (by rw [hbusy, hscan, hreset]; decide))

theorem exec_descriptorFetch_boundary (hend : (s.dma.get n).atEnd = true) : exec (.descriptorFetch n) s = .next (s.nextDesc n) := by
  rw [exec_descriptorFetch hbusy hscan hreset, if_pos hend]

end

theorem State.nextDesc_stopping (h : (s.dma.get n).st = .stopping) : s.nextDesc n = s.dmaFinish n 8 0 := if_pos h

section
variable (hrun : (s.dma.get n).st = .running) (hlink : (s.desc n).link ≠ 0)
include hrun hlink

/-- At the hop limit the chain ends as a loop. -/
theorem State.nextDesc_loop (h : (s.dma.get n).hopLimit ≤ (s.dma.get n).hops) : s.nextDesc n = (s.raise 33).dmaFinish n 4 0 := by
  rw [State.nextDesc, if_neg (by rw [hrun]; decide), if_neg hlink, if_pos h]

section
variable (hhops : (s.dma.get n).hops < (s.dma.get n).hopLimit) {r : Run} (hr : fetchRun n (s.desc n).link ⟨s, [], none⟩ = r)
include hhops hr

theorem State.nextDesc_unfetched {f : Fail} (h : r.fail = some f) : s.nextDesc n = r.s.dmaFail n f := by
  rw [State.nextDesc, if_neg (by rw [hrun]; decide), if_neg hlink, if_neg (not_le.2 hhops)]
  simp only [hr, h]

theorem State.nextDesc_fetched (h : r.fail = none) : s.nextDesc n = ((r.s.loadDesc n (words48 r.buf)).dmaSet n fun d =>
    { d with cur := BitVec.ofNat 32 (s.desc n).link, atEnd := false }).runDesc n := by
  rw [State.nextDesc, if_neg (by rw [hrun]; decide), if_neg hlink, if_neg (not_le.2 hhops)]
  simp only [hr, h]

end
end

/-! ### A late response, and the end of a chain (R459 to R461) -/

theorem exec_dmaFetchTimeout (hbusy : s.dmaBusy n = true) (hreset : s.inReset = false) (a : Word) (f w : Bool) :
    exec (.dmaFetchTimeout n a f w) s = .next (s.dmaBusError n a.toNat f w true) :=
  congrArg _ (if_pos ⟨hbusy, by rw [hreset]; rfl⟩)

section
variable (hend : (s.dma.get n).atEnd = true) (hreset : s.inReset = false)
include hend hreset

theorem exec_dmaComplete (hbusy : s.dmaBusy n = true) : exec (.dmaComplete n) s =
    .next (if (s.dma.get n).st = .stopping then s.dmaFinish n 8 0 else if (s.desc n).link = 0 then s.dmaFinish n 0 0 else s) :=
  congrArg _ (if_pos ⟨hbusy, hend, by rw [hreset]; rfl⟩)

theorem exec_dmaComplete_running (hrun : (s.dma.get n).st = .running) (hlink : (s.desc n).link = 0) :
    exec (.dmaComplete n) s = .next (s.dmaFinish n 0 0) := by
  rw [exec_dmaComplete hend hreset (by rw [State.dmaBusy, hrun]; rfl), if_neg (by rw [hrun]; decide), if_pos hlink]

theorem exec_dmaComplete_stopping (hstop : (s.dma.get n).st = .stopping) : exec (.dmaComplete n) s = .next (s.dmaFinish n 8 0) := by
  rw [exec_dmaComplete hend hreset (by rw [State.dmaBusy, hstop]; rfl), if_pos hstop]

end

/-- The end of a channel writes that channel and DMA_STAT. -/
theorem State.dmaEnd_dma (s : State) (n m : Fin 8) (code addr : Nat) : (s.dmaEnd n code addr).dma.get m =
    if m = n then { s.dma.get n with st := if code = 0 then .done else .failed, err := code, faultAddr := BitVec.ofNat 32 addr, atEnd := false }
    else s.dma.get m := get_setAt _ _ _ _

end

end Sys2Proof.Machine

namespace Sys2Proof
open Machine

/-- Settles O26: a start is a write of CTL; the other rows go by the state of their channel. -/
theorem dmaRows : Obligations.DmaRows := by
  refine ⟨fun s n => ⟨fun cls pri hc hv hp hidle => ?_, fun cls pri hc hv hp hbusy => ?_, fun h => ?_, fun h => ?_,
      fun hbusy hscan hreset hload => ?_, fun hbusy hscan hreset hend hstop => ?_,
      fun hbusy hscan hreset hend hrun hlink => ⟨fun hhops => ?_, fun hhops => ⟨fun f hf => ?_, fun hf => ?_⟩⟩,
      fun a f w hbusy hreset => exec_dmaFetchTimeout hbusy hreset a f w, fun hrun hend hreset => exec_dmaComplete_running hend hreset hrun,
      fun hstop hend hreset => exec_dmaComplete_stopping hend hreset hstop⟩,
    fun s n code addr _ _ => ⟨?_, ?_, fun m hm => ?_⟩⟩
  · rw [exec_dmaStart hc hv hp, State.dmaStart_idle (by rw [State.dmaBusy_plainReg, hidle])]
  · rw [exec_dmaStart hc hv hp, State.dmaStart_busy (by rw [State.dmaBusy_plainReg, hbusy])]
  · exact exec_dmaStop.trans (congrArg _ (if_neg h))
  · exact exec_dmaStop.trans (congrArg _ (if_pos h))
  · rw [exec_descriptorFetch hbusy hscan hreset, if_neg (by rw [hload]; decide)]
  · rw [exec_descriptorFetch_boundary hbusy hscan hreset hend, State.nextDesc_stopping hstop]
  · rw [exec_descriptorFetch_boundary hbusy hscan hreset hend, State.nextDesc_loop hrun hlink hhops]
  · rw [exec_descriptorFetch_boundary hbusy hscan hreset hend, State.nextDesc_unfetched hrun hlink hhops rfl hf]
  · rw [exec_descriptorFetch_boundary hbusy hscan hreset hend, State.nextDesc_fetched hrun hlink hhops rfl hf]
  · rw [State.dmaBusy, State.dmaEnd_dma, if_pos rfl]
    split <;> rfl
  · rw [State.dmaEnd_dma, if_pos rfl]
  · rw [State.dmaEnd_dma, if_neg hm]

end Sys2Proof
end

section
/-! Lantern and boundary scan: what a request is answered with, and the accesses it makes (R112, R488 to R493). -/

namespace Sys2Proof.Machine

/-! ### A request (R488, R491) -/

section
variable {s : State} (act denied : State → State)

theorem State.lanternReq_off (h : s.lanternOn = false) (ok : Bool) : s.lanternReq ok act denied = s := by rw [State.lanternReq, h]; rfl

theorem State.lanternReq_rejected (h : s.lanternOn = true) : s.lanternReq false act denied = s.respond { status := lanRejected } := by
  rw [State.lanternReq, h]; rfl

theorem State.lanternReq_locked (h : s.lanternOn = true) (hl : s.locked = true) : s.lanternReq true act denied = denied (s.raise 37) := by
  rw [State.lanternReq, h, hl]; rfl

/-- Outside test and recovery, and with the controller enabled, a scan instruction is rejected. -/
theorem State.scanReq_barred (h : s.lanternServes = true) (hs : s.scanServes = false) :
    s.scanReq act = s.respond { status := lanRejected, denied := true } := by
  rw [State.scanReq, lanternReq_eq _ _ h]
  refine if_neg fun hin => ?_
  rw [State.scanServes, h] at hs
  simp_all

end

section
variable (s : State) (a : Word) (ok : Bool)

theorem exec_lanternStatus (h : s.lanternOn = true) : exec .lanternStatus s = .next (s.respond { status := lanDone, data :=
    [s.sys.st.num + 8 * b2n s.locked + 16 * s.sys.ps.val + 128 * b2n s.lan.scan + 256 * (s.sys.trouble.toNat / 2 ^ 56)] }) :=
  congrArg _ (if_pos h)

theorem exec_lanternStatus_off (h : s.lanternOn = false) : exec .lanternStatus s = .next s := congrArg _ (if_neg (by rw [h]; decide))

theorem exec_lanternRead (w : Width) : exec (.lanternRead a w ok) s = .next (s.lanternReq ok (fun t => t.lanternRead a.toNat w.bytes) fun t =>
    t.respond { status := lanDone, denied := true, data := [0] }) := rfl

theorem exec_lanternWrite (w : Width) (v : BitVec 64) : exec (.lanternWrite a w v ok) s =
    .next (s.lanternReq ok (fun t => t.lanternWrite a.toNat w.bytes (v.toNat % 256 ^ w.bytes)) fun t =>
      t.deniedWrite a.toNat w.bytes (v.toNat % 256 ^ w.bytes) (.refused 3) id { status := lanDone, denied := true }) := rfl

theorem exec_lanternBlkrd (n : BlkLen) : exec (.lanternBlkrd a n ok) s = .next (s.lanternReq ok (fun t => t.lanternBlkrd a.toNat n.words) fun t =>
    t.respond { status := lanDone, denied := true, data := List.replicate n.words 0 }) := rfl

theorem exec_lanternBlkwr (d : List Word) (bad : Option Nat) : exec (.lanternBlkwr a d bad ok) s =
    .next (s.lanternReq ok (fun t => t.lanternBlkwr a.toNat d bad) fun t =>
      t.deniedBlock a.toNat d (.refused 3) id { status := lanDone, denied := true, data := [0] }) := rfl

theorem exec_lanternReset : exec (.lanternReset ok) s = .next (s.lanternReq ok (fun t => (t.respond { status := lanDone }).requestFused 11) fun t =>
    t.respond { status := lanDone, denied := true }) := rfl

theorem exec_scanBypass : exec .scanBypass s =
    .next (s.scanReq fun t => State.respond { t with lan := { t.lan with instr := .bypass } } { status := lanDone }) := rfl

theorem exec_scanIdcode : exec .scanIdcode s = .next (s.scanReq fun t =>
    (State.respond { t with lan := { t.lan with instr := .idcode } } { status := lanDone, data := [t.idcode] }).takeFree) := rfl

theorem exec_scanSamplePreload (pins : BitVec 205) : exec (.scanSamplePreload pins) s = .next (s.scanReq fun t =>
    State.respond { t with lan := { t.lan with instr := .sample, chain := pins, shifted := 0 } } { status := lanDone }) := rfl

theorem exec_scanExtest : exec .scanExtest s =
    .next (s.scanReq fun t => State.respond { t with lan := { t.lan with instr := .extest }.drive } { status := lanDone }) := rfl

theorem exec_scanShift (v : BitVec 64) : exec (.scanShift v) s = .next (s.scanReq fun t => t.scanShift v.toNat) := rfl

end

/-- While user data is locked a scan instruction is denied as every other request. -/
theorem State.scanReq_locked {s : State} (act : State → State) (h : s.lanternOn = true) (hl : s.locked = true) :
    s.scanReq act = (s.raise 37).respond { status := lanDone, denied := true } := State.lanternReq_locked _ _ h hl

theorem State.scanReq_off {s : State} (act : State → State) (h : s.lanternOn = false) : s.scanReq act = s := State.lanternReq_off _ _ h true

/-! ### Firmware's programs while no time-out is due (R113; log entry 15) -/

/-- From one state to the next firmware has programmed the boot store, and every program verified. -/
structure State.Programs (s t : State) : Prop where
  frame : { t with bst := s.bst } = s
  sound : t.bst.failNext = false

theorem State.Programs.keeps {s t : State} (h : s.Programs t) {α : Type} (F : State → α) (hF : ∀ x : State, F { x with bst := s.bst } = F x) : F t = F s :=
  (hF t).symm.trans (congrArg F h.frame)

theorem State.Programs.trans {s t u : State} (h : s.Programs t) (k : t.Programs u) : s.Programs u :=
  ⟨(congrArg (fun x : State => { x with bst := s.bst }) k.frame).trans h.frame, k.sound⟩

theorem BootStore.progBytes_failNext (l : List Nat) (b : BootStore) (off : Nat) : (b.progBytes off l).failNext = b.failNext := by
  induction l generalizing b off with
  | nil => rfl
  | cons v l ih => exact ih _ _

theorem State.fwProgram_programs {s : State} (h : s.bst.failNext = false) (off : Nat) (l : List Nat) :
    ∃ t : State, s.fwProgram off l = (true, t) ∧ s.Programs t := by
  have hfail : s.bst.sendF0.failNext = false := (sendF0_failNext _).trans h
  have hprog : s.fwProgram off l = (true, { s with bst := s.bst.sendF0.progBytes off l, free := s.free + b2n s.bst.sendF0.failNext }) := by
    simp only [State.fwProgram, hfail, Bool.false_and]
    rfl
  rw [hfail] at hprog
  exact ⟨_, hprog, rfl, (BootStore.progBytes_failNext _ _ _).trans hfail⟩

theorem State.journalAdd_programs {s : State} (h : s.bst.failNext = false) (src dev : Nat) (text : List Byte) :
    ∃ (j : Nat) (t : State), s.journalAdd src dev text = (some j, t) ∧ s.Programs t := by
  have hready : (s.bst.jReady text.length).failNext = false := (s.bst.jReady_keeps text.length).2.trans h
  obtain ⟨t, hprog, hframe, hsound⟩ := State.fwProgram_programs (s := { s with bst := s.bst.jReady text.length }) hready
    (jSec (s.bst.jReady text.length).jSector * 0x10000 + (s.bst.jReady text.length).jFill) (s.lineEntry src dev text).bytes
  unfold State.journalAdd
  unfold State.lineEntry BootStore.jReady at hprog
  unfold BootStore.jReady at hframe
  dsimp only at *
  rw [hprog]
  exact ⟨_, _, rfl, congrArg (fun x : State => { x with bst := s.bst }) hframe, hsound⟩

theorem State.journalResult_programs {s : State} (h : s.bst.failNext = false) (seq : Nat) (result : Byte) : s.Programs (s.journalResult seq result) := by
  unfold State.journalResult
  split
  · exact ⟨rfl, h⟩
  · next e _ =>
    obtain ⟨t, hprog, hframe, hsound⟩ := State.fwProgram_programs h (jSec e.sector * 0x10000 + e.off + 18) [result.toNat]
    rw [hprog]
    exact ⟨hframe, hsound⟩

/-! ### Accesses of the debug class (R488, R489) -/

section
variable {s : State} {a w : Nat}

theorem State.lanternRead_unaligned (h : a % w ≠ 0) : s.lanternRead a w = s.respond { status := lanDone, busErr := true, data := [0] } := if_pos h

theorem State.lanternRead_done {v : Nat} {t : State} (h : a % w = 0) (hread : s.busRead .debug 9 a w = (.done, v, t)) :
    s.lanternRead a w = t.respond { status := lanDone, data := [v] } := by
  rw [State.lanternRead, if_neg (not_not.2 h), hread]
  rfl

theorem State.lanternRead_refused {k r : Nat} (h : a % w = 0) (hv : s.verdict .debug false a = some (k, r)) :
    s.lanternRead a w = (s.refuse .debug false k r 9 a).respond { status := lanDone, denied := true, data := [0] } := by
  rw [State.lanternRead, if_neg (not_not.2 h), State.busRead, hv]
  rfl

/-- A write that makes no access leaves its entry in the journal and its answer. -/
theorem State.deniedWrite_programs (h : s.bst.failNext = false) (v : Nat) (why : Acc) (answer : LanResp) :
    ∃ t : State, s.deniedWrite a w v why id answer = t.respond answer ∧ s.Programs t := by
  obtain ⟨j, t, hadd, ht⟩ := State.journalAdd_programs h 3 s.index (wrText a w v)
  refine ⟨t.journalResult j (accByte why), ?_, ht.trans (State.journalResult_programs ht.sound j _)⟩
  rw [State.deniedWrite, State.recordedWrite, hadd]
  rfl

theorem State.lanternWrite_unaligned (h : s.bst.failNext = false) (ha : a % w ≠ 0) (v : Nat) :
    ∃ t : State, s.lanternWrite a w v = t.respond { status := lanDone, busErr := true } ∧ s.Programs t := by
  obtain ⟨t, hden, ht⟩ := State.deniedWrite_programs h v .bus (accResp lanDone .bus [])
  exact ⟨t, (if_pos ha).trans hden, ht⟩

end

/-! ### Boundary scan (R492) -/

/-- IDCODE carries the device code in bits 27 to 12. -/
theorem State.idcode_device (s : State) : s.idcode / 4096 % 65536 = 0x8048 := by
  rw [State.idcode]
  omega

/-- The chain after 64 bits in, and the cells under EXTEST once it has been traversed. -/
def Lantern.shifted64 (l : Lantern) (all : Nat) : Lantern :=
  let m : Lantern := { l with chain := BitVec.ofNat 205 (all / 2 ^ 64), shifted := l.shifted + 64 }
  if l.instr = .extest ∧ 205 ≤ l.shifted + 64 then m.drive else m

section
variable (l : Lantern) (all : Nat)

theorem Lantern.shifted64_chain : (l.shifted64 all).chain = BitVec.ofNat 205 (all / 2 ^ 64) := by unfold Lantern.shifted64; split <;> rfl

theorem Lantern.shifted64_resps : (l.shifted64 all).resps = l.resps := by unfold Lantern.shifted64; split <;> rfl

theorem Lantern.shifted64_cells (h : l.instr = .extest) (hlen : 205 ≤ l.shifted + 64) :
    (l.shifted64 all).cells = BitVec.ofNat 205 (all / 2 ^ 64) &&& ~~~wpCells := by
  unfold Lantern.shifted64
  rw [if_pos ⟨h, hlen⟩]
  rfl

end

/-- Under SAMPLE and EXTEST the chain takes 64 bits and gives 64. -/
theorem State.scanShift_chain {s : State} (h : s.lan.instr = .sample ∨ s.lan.instr = .extest) (inp : Nat) :
    (s.scanShift inp).lan = { s.lan.shifted64 (s.lan.chain.toNat + inp * 2 ^ 205) with
      resps := (s.lan.shifted64 (s.lan.chain.toNat + inp * 2 ^ 205)).resps ++
        [{ status := lanDone, data := [(s.lan.chain.toNat + inp * 2 ^ 205) % 2 ^ 64] }] } := by
  rcases h with h | h <;> simp only [State.scanShift, State.respond, Lantern.shifted64, h, ge_iff_le]

end Sys2Proof.Machine

namespace Sys2Proof
open Machine

/-- Settles O47: every request goes through the checks of R488 and R491; the accesses are read off their definitions. -/
theorem lanternRows : Obligations.LanternRows := by
  refine ⟨exec_lanternStatus, fun s a hs => ⟨fun w => ?_, fun w v => ?_, fun n => ?_, fun d bad => ?_, ?_⟩,
    fun s a w => ⟨State.lanternRead_unaligned, fun v t => State.lanternRead_done, fun k r => State.lanternRead_refused, fun v hfail ha => ?_⟩,
    fun s a w v n d bad pins => ⟨fun hon hlocked => ?_, fun hon => ?_, fun hoff => ?_⟩⟩
  · rw [exec_lanternRead, lanternReq_eq _ _ hs]
  · rw [exec_lanternWrite, lanternReq_eq _ _ hs]
  · rw [exec_lanternBlkrd, lanternReq_eq _ _ hs]
  · rw [exec_lanternBlkwr, lanternReq_eq _ _ hs]
  · rw [exec_lanternReset, lanternReq_eq _ _ hs]
  · obtain ⟨t, hwrite, ht⟩ := State.lanternWrite_unaligned hfail ha v
    exact ⟨t, hwrite, ht.keeps State.regs fun _ => rfl, ht.keeps State.kpr fun _ => rfl, ht.keeps State.dma fun _ => rfl⟩
  · simp only [exec_lanternRead, exec_lanternWrite, exec_lanternBlkrd, exec_lanternBlkwr, exec_lanternReset, exec_scanBypass, exec_scanIdcode,
      exec_scanSamplePreload, exec_scanExtest, exec_scanShift, State.lanternReq_locked _ _ hon hlocked, State.scanReq_locked _ hon hlocked, and_self]
  · simp only [exec_lanternRead, exec_lanternWrite, exec_lanternBlkrd, exec_lanternBlkwr, exec_lanternReset, State.lanternReq_rejected _ _ hon, and_self]
  · simp only [exec_lanternStatus_off s hoff, exec_lanternRead, exec_lanternWrite, exec_lanternBlkrd, exec_lanternBlkwr, exec_lanternReset,
      State.lanternReq_off _ _ hoff, and_self, implies_true]

/-- Settles O48: a scan instruction runs in the scan state, is rejected where it is not accepted, and is not answered with the port off. -/
theorem scanRows : Obligations.ScanRows := by
  refine ⟨fun s hs => ⟨?_, ?_, fun pins => ?_, ?_, fun v => ?_⟩, fun s v h => ?_, fun s v pins hport hbar => ?_, fun s v pins hoff => ?_⟩
  · rw [exec_scanBypass, scanReq_eq _ hs]
  · exact ⟨_, _, (exec_scanIdcode s).trans (congrArg _ (scanReq_eq _ hs)), rfl, rfl, rfl, _, rfl, State.idcode_device _⟩
  · rw [exec_scanSamplePreload, scanReq_eq _ hs]
  · exact ⟨_, (exec_scanExtest s).trans (congrArg _ (scanReq_eq _ hs)), rfl, rfl, rfl⟩
  · rw [exec_scanShift, scanReq_eq _ hs]
  · rw [State.scanShift_chain h]
    exact ⟨s.lan.shifted64_chain _, congrArg (· ++ _) (s.lan.shifted64_resps _), s.lan.shifted64_cells _⟩
  · simp only [exec_scanBypass, exec_scanIdcode, exec_scanSamplePreload, exec_scanExtest, exec_scanShift, State.scanReq_barred _ hport hbar, and_self]
  · simp only [exec_scanBypass, exec_scanIdcode, exec_scanSamplePreload, exec_scanExtest, exec_scanShift, State.scanReq_off _ hoff, and_self]

end Sys2Proof
end

section
/-! The boot store: its command sequences, the end of its operations, and what a program and an erase leave in a byte (R501, R502, R507 to R509, R519). -/

namespace Sys2Proof.Machine

/-! ### The array (R501) -/

theorem BootStore.byte_progByte (b : BootStore) (off o : Nat) (v : Byte) :
    (b.progByte off v).byte o = if o = off then b.byte off &&& v else b.byte o := store_get_set_any _ _ _ _

/-- A program changes the bytes it covers, each from 1 to 0 only. -/
theorem BootStore.byte_progBytes (l : List Nat) (b : BootStore) (off o : Nat) : (b.progBytes off l).byte o =
    if off ≤ o ∧ o < off + l.length then b.byte o &&& BitVec.ofNat 8 (l.getD (o - off) 0) else b.byte o := by
  induction l generalizing b off with
  | nil => exact (if_neg (by simp only [List.length_nil]; omega)).symm
  | cons v l ih =>
    rw [BootStore.progBytes, ih, BootStore.byte_progByte, List.length_cons]
    by_cases ho : o = off
    · subst ho
      rw [if_neg (by omega), if_pos rfl, if_pos (by omega), Nat.sub_self, List.getD_cons_zero]
    · rw [if_neg ho]
      by_cases hin : off + 1 ≤ o ∧ o < off + 1 + l.length
      · rw [if_pos hin, if_pos (by omega), show o - off = o - (off + 1) + 1 by omega, List.getD_cons_succ]
      · rw [if_neg hin, if_neg (by omega)]

/-- Byte `k` of a number's little-endian bytes (R8). -/
theorem leBytes_getD (n v : Nat) {k : Nat} (h : k < n) : (leBytes n v).getD k 0 = v / 256 ^ k % 256 := by
  induction n generalizing v k with
  | zero => omega
  | succ n ih =>
    cases k with
    | zero => simp [leBytes]
    | succ k => rw [leBytes, List.getD_cons_succ, ih _ (by omega), Nat.div_div_eq_div_mul, Nat.pow_succ']

theorem length_leBytes (n v : Nat) : (leBytes n v).length = n := by
  induction n generalizing v with
  | zero => rfl
  | succ n ih => rw [leBytes, List.length_cons, ih]

/-- A byte of an erased sector. -/
theorem BootStore.byte_eraseSec (b : BootStore) {sec o : Nat} (h : o / 0x10000 = sec) : (b.eraseSec sec).byte o = 0xFF := by
  have hnone : (b.undefinedSecs.filter fun p => p.1 != sec).find? (fun p => p.1 == o / 0x10000) = none := by
    simp [List.find?_eq_none, h]
  have hget : (b.eraseSec sec).byte o = (b.eraseSec sec).blank o :=
    (store_get_drop_any b.bytes (fun i => i / 0x10000 == sec) o).trans (if_pos (beq_iff_eq.2 h))
  rw [hget, BootStore.blank]
  change (match (b.undefinedSecs.filter fun p => p.1 != sec).find? (fun p => p.1 == o / 0x10000) with
    | some (_, n) => Config.bstByte n o
    | none => 0xFF) = _
  rw [hnone]

/-! ### The die's commands (R507) -/

section
variable {b : BootStore}

theorem BootStore.cmds_busy (h : b.busy = true) (off slot : Nat) (d : Word) (cm : Bool) :
    b.cmdProgram off d cm = b ∧ b.cmdErase off cm = b ∧ b.cmdSwapCommit slot = b := ⟨if_pos h, if_pos h, if_pos h⟩

section
variable (hidle : b.busy = false)
include hidle

theorem BootStore.cmdProgram_idle (off : Nat) (d : Word) (cm : Bool) : b.cmdProgram off d cm =
    if swapCommitWord off ∨ b.suspended = some (off / 0x10000) then b.refuse else b.start (.program off d) cm := by
  rw [BootStore.cmdProgram, hidle]; rfl

theorem BootStore.cmdErase_idle (off : Nat) (cm : Bool) :
    b.cmdErase off cm = if b.suspended.isSome then b.refuse else b.start (.erase (off / 0x10000)) cm := by
  rw [BootStore.cmdErase, hidle]; rfl

theorem BootStore.cmdSwapCommit_idle (slot : Nat) : b.cmdSwapCommit slot =
    if crc32c (b.read (0x300000 + 64 * slot) 56) = leNat (b.read (0x300000 + 64 * slot + 56) 4) then b.start (.swapCommit slot) false
    else b.refuse := by
  rw [BootStore.cmdSwapCommit, hidle]; rfl

end

theorem BootStore.busy_eq_false (h : b.busy = false) : b.op = .none := by simpa [BootStore.busy] using h

end

/-! ### A class that does not write the window (R502) -/

theorem State.noteRefused_bst (s : State) (cls : Cls) (write : Bool) (kind region init a : Nat) :
    (s.noteRefused cls write kind region init a).bst = s.bst := by cases cls <;> rfl

/-- Another class than the privileged reaches no command, and its fault is recorded. -/
theorem State.bstClass_other (s : State) {cls : Cls} (h : cls ≠ .privileged) (off : Nat) (f : BootStore → BootStore) :
    (s.bstClass cls off f).bst = s.bst ∧ (s.bstClass cls off f).rf .mpuFault 0 1 = 1 := by
  cases cls with
  | privileged => exact absurd rfl h
  | user => exact ⟨s.noteRefused_bst _ _ _ _ _ _, (s.noteRefused_record _ _ _ _ _ _).2.1⟩
  | debug => exact ⟨s.noteRefused_bst _ _ _ _ _ _, (s.noteRefused_record _ _ _ _ _ _).2.1⟩

/-! ### The sequences (R507) -/

section
variable (s : State) (a d : Word) (cls : Cls) {slot : Nat}

theorem exec_bstProgramWord (hin : inWindow a = true) (hal : a.toNat % 4 = 0) : exec (.bstProgramWord a d cls) s =
    .next (s.bstClass cls (bstOff a) fun b => b.cmdProgram (bstOff a) d false) := congrArg _ (if_pos (by rw [hin, hal]; rfl))

theorem exec_bstProgramWord_none (h : inWindow a = false ∨ a.toNat % 4 ≠ 0) : exec (.bstProgramWord a d cls) s = .next s :=
  congrArg _ (if_neg (by rcases h with h | h <;> simp [h]))

theorem exec_bstEraseSector (hin : inWindow a = true) : exec (.bstEraseSector a cls) s =
    .next (s.bstClass cls (bstOff a) fun b => b.cmdErase (bstOff a) false) := congrArg _ (if_pos hin)

theorem exec_bstEraseSector_none (h : inWindow a = false) : exec (.bstEraseSector a cls) s = .next s := congrArg _ (if_neg (by rw [h]; decide))

theorem exec_bstSwapCommit (h : slot < 1024) : exec (.bstSwapCommit slot .privileged) s = .next (s.swapCommit slot) := congrArg _ (if_pos h)

theorem exec_bstSwapCommit_other (h : slot < 1024) (hc : cls ≠ .privileged) :
    exec (.bstSwapCommit slot cls) s = .next (s.bstClass cls (0x300000 + 64 * slot + 60) id) := by
  cases cls with
  | privileged => exact absurd rfl hc
  | user | debug => exact congrArg _ (if_pos h)

theorem exec_bstSwapCommit_none (h : 1024 ≤ slot) : exec (.bstSwapCommit slot cls) s = .next s := congrArg _ (if_neg (not_lt.2 h))

/-- Firmware counts a commit that the die refuses; the die's own state is the command's. -/
theorem State.swapCommit_bst (slot : Nat) : (s.swapCommit slot).bst = s.bst.cmdSwapCommit slot := by
  unfold State.swapCommit
  dsimp only
  split <;> rfl

end

section
variable {s : State}

theorem exec_bstSuspend {sec : Nat} (h : s.bst.op = .erase sec) : exec .bstSuspend s = .next { s with
    bst := { s.bst with op := .none, opCm := false, suspended := some sec, susCm := s.bst.opCm, toggle := false } } := by
  change execBstSuspend s = _
  simp only [execBstSuspend, h]

theorem exec_bstSuspend_none (h : ∀ sec : Nat, s.bst.op ≠ .erase sec) : exec .bstSuspend s = .next s := by
  change execBstSuspend s = _
  cases hop : s.bst.op with
  | erase sec => exact absurd hop (h sec)
  | none | program | swapCommit => simp only [execBstSuspend, hop]

theorem exec_bstResume {sec : Nat} (h : s.bst.suspended = some sec) (hidle : s.bst.busy = false) : exec .bstResume s =
    .next { s with bst := { s.bst with op := .erase sec, opCm := s.bst.susCm, suspended := none, susCm := false, toggle := true } } := by
  change execBstResume s = _
  simp [execBstResume, h, hidle]

theorem exec_bstResume_none (h : s.bst.suspended = none ∨ s.bst.busy = true) : exec .bstResume s = .next s := by
  change execBstResume s = _
  cases hsus : s.bst.suspended with
  | none => simp only [execBstResume, hsus]
  | some sec => simp [execBstResume, hsus, h.resolve_left (by simp [hsus])]

theorem exec_bstArrayRead (h : s.bst.busy = false) :
    exec .bstArrayRead s = .next (State.bstNext { s with bst := { s.bst with statusMode := false, error := false } }) :=
  congrArg _ (if_neg (by rw [h]; decide))

theorem exec_bstArrayRead_busy (h : s.bst.busy = true) : exec .bstArrayRead s = .next s := congrArg _ (if_pos h)

theorem exec_bstOpTimeout (h : s.bst.busy = true) : exec .bstOpTimeout s = .next (s.bstEnd false) := congrArg _ (if_pos h)

theorem exec_bstOpTimeout_idle (h : s.bst.busy = false) : exec .bstOpTimeout s = .next { s with bst := { s.bst with failNext := true } } :=
  congrArg _ (if_neg (by rw [h]; decide))

/-! ### The end of an operation (R508) -/

theorem State.bstEnd_idle (h : s.bst.busy = false) (verified : Bool) : s.bstEnd verified = s := by
  simp only [State.bstEnd, BootStore.busy_eq_false h]

/-- An operation that is verified has its effect, and the next request starts. -/
theorem State.bstEnd_verified (h : s.bst.busy = true) : s.bstEnd true = State.bstNext { s.cmDone false with bst :=
    { (s.cmDone false).bst.apply with op := .none, opCm := false, toggle := false, statusMode := false, error := false } } := by
  cases hop : s.bst.op with
  | none => rw [BootStore.busy, hop] at h; exact absurd h (by decide)
  | program | erase | swapCommit => simp only [State.bstEnd, hop, if_true]

/-- One that is not ends with error, in status mode. -/
theorem State.bstEnd_failed (h : s.bst.busy = true) :
    (s.bstEnd false).bst.busy = false ∧ (s.bstEnd false).bst.error = true ∧ (s.bstEnd false).bst.statusMode = true := by
  cases hop : s.bst.op with
  | none => rw [BootStore.busy, hop] at h; exact absurd h (by decide)
  | program | erase | swapCommit =>
    simp only [State.bstEnd, hop, if_neg Bool.false_ne_true]
    exact ⟨rfl, trivial, trivial⟩

/-! ### The card maker's window (R519) -/

theorem State.cmRequest_inside {a : Nat} (ha : (s.reg .bstCmAddr).toNat = a) (hin : 0x10580000 ≤ a ∧ a < 0x10800000 ∧ a % 4 = 0) (erase : Bool) :
    s.cmRequest erase = State.bstNext { s.setRf .bstCmCmd (b2n erase) 1 1 with bst := { s.bst with
      reqs := s.bst.reqs ++ [if erase then .cmErase (a - 0x10000000) else .cmProgram (a - 0x10000000) (s.reg .bstCmData)] } } := by
  subst ha
  exact if_pos hin

theorem State.cmRequest_outside {a : Nat} (ha : (s.reg .bstCmAddr).toNat = a) (h : a < 0x10580000 ∨ 0x10800000 ≤ a ∨ a % 4 ≠ 0) (erase : Bool) :
    s.cmRequest erase = s.setRf .bstCmCmd 2 1 1 := by
  subst ha
  exact if_neg (by omega)

end

end Sys2Proof.Machine

namespace Sys2Proof
open Machine

/-- Settles O45: each sequence by the window, the class and the state of the die. -/
theorem bootStoreRows : Obligations.BootStoreRows := by
  refine ⟨fun s a d slot => ⟨fun hin => ⟨exec_bstProgramWord s a d .privileged hin, exec_bstEraseSector s a .privileged hin⟩,
      fun hslot => ⟨exec_bstSwapCommit s hslot, s.swapCommit_bst slot⟩,
      fun cls hc => ⟨fun hin => ⟨_, exec_bstEraseSector s a cls hin, s.bstClass_other hc _ _⟩,
        fun hin hal => ⟨_, exec_bstProgramWord s a d cls hin hal, s.bstClass_other hc _ _⟩,
        fun hslot => ⟨_, exec_bstSwapCommit_other s cls hslot hc, s.bstClass_other hc _ _⟩⟩,
      fun cls => ⟨exec_bstEraseSector_none s a cls, exec_bstProgramWord_none s a d cls, exec_bstSwapCommit_none s cls⟩⟩,
    fun b off slot d cm => ⟨fun hbusy => BootStore.cmds_busy hbusy off slot d cm, fun hidle => ⟨fun h => ?_, fun hword hsus => ?_, fun h => ?_,
      fun h => ?_, fun h => ?_, fun h => ?_⟩⟩,
    fun s => ⟨fun sec => exec_bstSuspend, exec_bstSuspend_none, fun sec => exec_bstResume, exec_bstResume_none, rfl, exec_bstArrayRead,
      exec_bstArrayRead_busy, fun verified => rfl, exec_bstOpTimeout_idle, exec_bstOpTimeout, fun verified h => State.bstEnd_idle h verified,
      fun hbusy => ⟨State.bstEnd_verified hbusy, State.bstEnd_failed hbusy⟩,
      fun a ha hlo hhi hal => ⟨congrArg _ (State.cmRequest_inside ha ⟨hlo, hhi, hal⟩ false), congrArg _ (State.cmRequest_inside ha ⟨hlo, hhi, hal⟩ true)⟩,
      fun a ha h => ⟨congrArg _ (State.cmRequest_outside ha h false), congrArg _ (State.cmRequest_outside ha h true)⟩⟩⟩
  · rw [BootStore.cmdProgram_idle hidle, if_pos h]
  · rw [BootStore.cmdProgram_idle hidle, if_neg (by simp [hword, hsus])]
  · rw [BootStore.cmdErase_idle hidle, if_pos h]
  · rw [BootStore.cmdErase_idle hidle, h]; rfl
  · rw [BootStore.cmdSwapCommit_idle hidle, if_pos h]
  · rw [BootStore.cmdSwapCommit_idle hidle, if_neg h]

/-- Settles O46: the bytes that the operation's program or erase covers. -/
theorem bootStoreBytes : Obligations.BootStoreBytes := by
  intro s a d sec _
  refine ⟨fun hop k hk _ => ?_, fun hop _ k hk => ?_⟩
  · have happly : s.bst.apply = s.bst.progBytes a (leBytes 4 d.toNat) := by simp only [BootStore.apply, hop]
    have hbyte : BitVec.ofNat 8 (d.toNat / 256 ^ k % 256) = BitVec.ofNat 8 (d.toNat / 256 ^ k) := by
      rw [← BitVec.toNat_inj, BitVec.toNat_ofNat, BitVec.toNat_ofNat, Nat.mod_mod]
    rw [happly, BootStore.byte_progBytes, if_pos (by rw [length_leBytes]; omega), Nat.add_sub_cancel_left, leBytes_getD _ _ hk, hbyte]
  · have happly : s.bst.apply = (s.bst.eraseSec sec).dropRecords sec := by simp only [BootStore.apply, hop]
    rw [happly]
    exact s.bst.byte_eraseSec (by omega)

end Sys2Proof
end

section
/-! The alarm sensors, their records and the alarm log (R532 to R538, R541). -/

namespace Sys2Proof.Machine

/-! ### The sensors (R532) -/

section
variable (s : State)

/-- A reading of VDDC: its condition, and its alarm where it is outside its limits and the sensor armed. -/
theorem exec_supplyAlarm (mv : Nat) : exec (.supplyAlarm mv) s = .next (if mv < 650 ∨ 850 < mv then
    (if s.glitchArmed then (s.sense 0 true).alarm 0 mv else s.sense 0 true) else s.sense 0 false) := by
  change execSupplyAlarm mv s = _
  by_cases h : mv < 650 ∨ 850 < mv <;> simp [execSupplyAlarm, h]

theorem exec_clockAlarm (mhz : Nat) : exec (.clockAlarm mhz) s = .next (if mhz < 600 ∨ 1000 < mhz then
    (if s.glitchArmed then (s.sense 1 true).alarm 1 mhz else s.sense 1 true) else s.sense 1 false) := by
  change execClockAlarm mhz s = _
  by_cases h : mhz < 600 ∨ 1000 < mhz <;> simp [execClockAlarm, h]

/-- A temperature outside its limits counts, and alarms from the second in a row on. -/
theorem exec_temperatureAlarm_outside {c : Int} (h : c < -40 ∨ 130 < c) :
    let t : State := { s.sense 2 true with assay := { s.assay with odd := s.assay.odd + 1 } }
    exec (.temperatureAlarm c) s = .next (if 1 ≤ s.assay.odd then t.alarm 2 (tempDetail c) else t) := by
  change execTemperatureAlarm c s = _
  simp only [execTemperatureAlarm, gt_iff_lt, h, decide_true, if_true, ge_iff_le, Nat.succ_le_succ_iff]

theorem exec_temperatureAlarm_inside {c : Int} (h : ¬(c < -40 ∨ 130 < c)) :
    exec (.temperatureAlarm c) s = .next { s.sense 2 false with assay := { s.assay with odd := 0 } } := by
  change execTemperatureAlarm c s = _
  simp [execTemperatureAlarm, h]

theorem exec_glitchAlarm : exec .glitchAlarm s = .next (if s.glitchArmed then s.alarm 3 0 else s) := rfl

theorem exec_unlockFailureAlarm : exec .unlockFailureAlarm s =
    .next (if 10 ≤ s.vault.fails then State.alarm { s with vault := { s.vault with fails := 0 } } 4 0 else s) := rfl

/-! ### What an alarm and a reading leave (R534, R541) -/

theorem State.floodAlarm_sys (origin bit : Nat) (secs : Word) (p : Option Port) : (s.floodAlarm origin bit secs p).sys = s.sys := by
  unfold State.floodAlarm
  dsimp only
  split <;> split <;> rfl

/-- An alarm whose action is to log leaves its trouble bit set. -/
theorem State.trb_alarm {k : Nat} (hk : k ≤ 4) (hlog : s.sys.fuses.action k = 0) (d : Nat) : (s.alarm k d).trb (56 + k) = true := by
  have hsys : (s.alarm k d).sys = (s.raise (56 + k)).sys := by
    rw [State.alarm, hlog]
    exact State.floodAlarm_sys _ _ _ _ _
  rw [State.trb, hsys]
  exact (State.trb_raise s _ _ (by omega)).trans (by simp)

/-- A reading sets or clears the condition of its own sensor alone. -/
theorem State.sense_now {k : Nat} (hk : k ≤ 4) (b : Bool) (m : Nat) :
    (s.sense k b).vault.now.getLsbD m = if m = k then b else s.vault.now.getLsbD m := by
  have hbit : (1#5 <<< k).getLsbD m = decide (m = k) := by
    rw [BitVec.getLsbD_shiftLeft, BitVec.getLsbD_one, ← decide_not, ← Bool.decide_and, ← Bool.decide_and, ← Bool.decide_and]
    exact decide_eq_decide.2 (by omega)
  cases b with
  | true =>
    refine (BitVec.getLsbD_or ..).trans ?_
    rw [hbit]
    by_cases h : m = k <;> simp [h]
  | false =>
    refine (BitVec.getLsbD_and ..).trans ?_
    rw [BitVec.getLsbD_not, hbit]
    by_cases h : m = k
    · simp [h]
    · by_cases hm : m < 5
      · simp [h, hm]
      · simp [h, hm, BitVec.getLsbD_of_ge _ _ (not_lt.1 hm)]

end

/-! ### The alarm log (R538) -/

section
variable {s : State}

theorem exec_alarmLogProgram {r : AlarmRec} {l : List AlarmRec} (hrec : s.vault.latched = r :: l) (hreset : s.inReset = false)
    (hps : s.sys.ps.val ≠ 4) (good : Bool) : exec (.alarmLogProgram good) s =
      .next (if good then { s with bst := s.bst.alarmAdd r, vault := { s.vault with latched := l } } else s.bump .bstErrCnt 0 16 1) := by
  change execAlarmLogProgram good s = _
  simp [execAlarmLogProgram, hrec, hreset, hps]

theorem exec_alarmLogProgram_none (h : s.vault.latched = [] ∨ s.inReset = true ∨ s.sys.ps.val = 4) (good : Bool) :
    exec (.alarmLogProgram good) s = .next s := by
  change execAlarmLogProgram good s = _
  cases hrec : s.vault.latched with
  | nil => simp only [execAlarmLogProgram, hrec]
  | cons r l => simp only [execAlarmLogProgram, hrec, if_pos (h.resolve_left (by simp [hrec]))]

end

end Sys2Proof.Machine

namespace Sys2Proof
open Machine

/-- Settles O43: each sensor's row is the choice between its two conditions and its alarm. -/
theorem sensorRows : Obligations.SensorRows := by
  refine ⟨fun s => ⟨fun mv h => ⟨fun harm => ?_, fun harm => ?_⟩, fun mv hlo hhi => ?_, fun mhz h => ⟨fun harm => ?_, fun harm => ?_⟩,
      fun mhz hlo hhi => ?_, fun c h hodd => ?_, fun c h hodd => ?_, fun c hlo hhi => exec_temperatureAlarm_inside s (by omega),
      fun harm => ?_, fun harm => ?_, fun hfails => ?_, fun hfails => ?_⟩,
    fun s => ⟨fun k d hk hlog => s.trb_alarm hk hlog d, fun k b hk => ⟨?_, fun m hm => ?_⟩,
      fun r l hrec hreset hps => ⟨exec_alarmLogProgram hrec hreset hps true, exec_alarmLogProgram hrec hreset hps false⟩, exec_alarmLogProgram_none⟩⟩
  · rw [exec_supplyAlarm, if_pos h, if_pos harm]
  · rw [exec_supplyAlarm, if_pos h, harm]; rfl
  · rw [exec_supplyAlarm, if_neg (by omega)]
  · rw [exec_clockAlarm, if_pos h, if_pos harm]
  · rw [exec_clockAlarm, if_pos h, harm]; rfl
  · rw [exec_clockAlarm, if_neg (by omega)]
  · rw [exec_temperatureAlarm_outside s h, if_pos hodd]
  · rw [exec_temperatureAlarm_outside s h, if_neg (by omega), hodd]
  · rw [exec_glitchAlarm, if_pos harm]
  · rw [exec_glitchAlarm, harm]; rfl
  · rw [exec_unlockFailureAlarm, if_pos hfails]
  · rw [exec_unlockFailureAlarm, if_neg (not_le.2 hfails)]
  · rw [s.sense_now hk, if_pos rfl]
  · rw [s.sense_now hk, if_neg hm]

end Sys2Proof
end

section
/-! The security commands and the password check (R521, R527 to R530, R539). -/

namespace Sys2Proof.Machine

/-! ### The commands (R528, R529) -/

section
variable {s : State} {h : Hdr}

theorem exec_securityReceiveProtocols (p : s.takes h (.securityReceiveProtocols h) = true) : exec (.securityReceiveProtocols h) s =
    .next ((s.taken h (.securityReceiveProtocols h)).done h .success 0 (.bytes [0, 0, 0, 0, 0, 0, 0, 2, 0x00, 0xF0])) := exec_taken rfl p

theorem exec_securitySet {version tl k n : Nat} {old new : List Byte} (p : s.takes h (.securitySet h version tl k n old new) = true) :
    let t : State := s.taken h (.securitySet h version tl k n old new)
    exec (.securitySet h version tl k n old new) s =
      .next (if version ≠ 1 ∨ tl ≠ 72 ∨ 32 < k ∨ 32 < n then t.done h .invalidField else t.hostSet h k n old new) := exec_taken rfl p

theorem exec_securityLock {tl : Nat} (p : s.takes h (.securityLock h tl) = true) :
    let t : State := s.taken h (.securityLock h tl)
    exec (.securityLock h tl) s = .next (if tl ≠ 0 then t.done h .invalidField else t.fanOut h none fun u => u.hostLock h) :=
  exec_taken rfl p

theorem exec_securityUnlock {version tl n : Nat} {pw : List Byte} (p : s.takes h (.securityUnlock h version tl n pw) = true) :
    let t : State := s.taken h (.securityUnlock h version tl n pw)
    exec (.securityUnlock h version tl n pw) s = .next (if version ≠ 1 ∨ tl ≠ 36 ∨ n < 1 ∨ 32 < n then t.done h .invalidField
      else t.fanOut h (some (.unlock h, pw.take n)) fun u => if u.locked then u.beginCheck (.unlock h) (pw.take n) else u.good h) :=
  exec_taken rfl p

theorem exec_securityStatus (p : s.takes h (.securityStatus h) = true) : let t : State := s.taken h (.securityStatus h)
    exec (.securityStatus h) s = .next (State.done { t with vault := { t.vault with zeroizeUnread := false } } h .success 0
      (.bytes ([t.vault.lock.num, min 9 t.vault.fails, 10, b2n t.vault.zeroizeUnread] ++ leBytes 4 t.vault.zeroizes ++ List.replicate 8 0))) :=
  exec_taken rfl p

/-! ### SET after its length checks (R529) -/

section
variable {k n : Nat} {old new : List Byte}

theorem State.hostSet_locked (hl : s.locked = true) (hn : n ≠ 0) : s.hostSet h k n old new = s.done h .denied := by
  simp [State.hostSet, hl, hn]

theorem State.hostSet_nothing (ho : s.vault.lock = .isOpen) (hn : n = 0) : s.hostSet h k n old new = s.good h := by
  simp [State.hostSet, ho, hn]

/-- A set that is neither denied nor without work goes to the subordinates and is checked here last. -/
theorem State.hostSet_checks (hl : s.locked = false ∨ n = 0) (ho : s.vault.lock ≠ .isOpen ∨ n ≠ 0) :
    let pw : Option (List Byte) := if n = 0 then none else some (new.take n)
    let was : List Byte := if s.vault.lock = .isOpen then [] else old.take k
    s.hostSet h k n old new = s.fanOut h (some (.set h pw, was)) fun u => u.beginCheck (.set h pw) was := by
  intro pw was
  have hpw : pw.isSome = true ↔ n ≠ 0 := by by_cases hn : n = 0 <;> simp [pw, hn]
  have hnone : pw = none ↔ n = 0 := by by_cases hn : n = 0 <;> simp [pw, hn]
  have hdenied : ¬(s.locked = true ∧ pw.isSome = true) := by
    rw [hpw]
    rcases hl with hl | hn
    · simp [hl]
    · simp [hn]
  have hnothing : ¬(s.vault.lock = .isOpen ∧ pw = none) := by
    rw [hnone]
    rcases ho with ho | hn
    · simp [ho]
    · simp [hn]
  exact (if_neg hdenied).trans (if_neg hnothing)

theorem State.locked_of_isOpen (ho : s.vault.lock = .isOpen) : s.locked = false := by rw [State.locked, ho]; rfl

end

/-! ### The subordinates first (R530) -/

/-- A lock message sent to one subordinate, and its tag kept. -/
def State.fanOne (line : List Byte) (x : State × List (BitVec 16 × Fin 4)) (k : Fin 4) : State × List (BitVec 16 × Fin 4) :=
  (State.tethSend { x.1 with con := { x.1.con with nextTag := x.1.con.nextTag + 1 } } 4 k x.1.con.nextTag line.length 0 (.line line),
    x.2 ++ [(x.1.con.nextTag, k)])

theorem State.fanOut_here {w : Option (Check × List Byte)} (hw : s.isMaster = false ∨ s.presentSubs = [] ∨ lockLine w = none) (here : State → State) :
    s.fanOut h w here = here s := by
  unfold State.fanOut
  split
  · rfl
  · next line hline => exact if_pos (by rcases hw with hw | hw | hw <;> simp_all)

theorem State.fanOut_sent {w : Option (Check × List Byte)} {line : List Byte} (hm : s.isMaster = true) (hsubs : s.presentSubs ≠ [])
    (hline : lockLine w = some line) (here : State → State) : let x := s.presentSubs.foldl (State.fanOne line) (s, [])
    s.fanOut h w here = { x.1 with vault := { x.1.vault with fan := some { hdr := h, todo := w, waiting := x.2 } } } := by
  simp only [State.fanOut, hline]
  exact if_neg (by simp [hm, hsubs])

/-- Sending to subordinates leaves the vault, and keeps a tag for each. -/
theorem State.fanOnes_keep (line : List Byte) (l : List (Fin 4)) (x : State × List (BitVec 16 × Fin 4)) :
    (l.foldl (State.fanOne line) x).1.vault = x.1.vault ∧ (l.foldl (State.fanOne line) x).2.map (·.2) = x.2.map (·.2) ++ l := by
  induction l generalizing x with
  | nil => exact ⟨rfl, (List.append_nil _).symm⟩
  | cons k l ih =>
    obtain ⟨hvault, htags⟩ := ih (State.fanOne line x k)
    refine ⟨hvault, htags.trans ?_⟩
    rw [State.fanOne, List.map_append, List.append_assoc]
    rfl

/-! ### A lock here (R527) -/

theorem State.hostLock_open (hl : s.vault.lock = .isOpen) : s.hostLock h = s.done h .sequence := by simp only [State.hostLock, hl]

theorem State.hostLock_locked (hl : s.vault.lock = .locked) : s.hostLock h = s.good h := by simp only [State.hostLock, hl]

theorem State.hostLock_unlocked (hl : s.vault.lock = .unlocked) :
    s.hostLock h = State.lockTry { s with vault := { s.vault with lockWait := some (.host h) } } := by simp only [State.hostLock, hl]

end

/-! ### The password check (R521, R527, R539) -/

section
variable {s : State} {pw : List Byte} {l : List (Check × List Byte)}

/-- A check that is no console line's ends with the check alone. -/
theorem exec_passwordCheckComplete_host (hc : ∀ (c : LineCtx) (j : Option Nat) (p : List Byte) (r : List (Check × List Byte)),
    s.vault.checks ≠ (.unlockLine c j, p) :: r) : exec .passwordCheckComplete s = .next s.checkDone := by
  change Host.Outcome.next _ = _
  congr 1
  split
  · next hline _ => exact absurd hline (hc _ _ _ _)
  · rfl

/-- The check of the line that waits for it ends the line. -/
theorem exec_passwordCheckComplete_line {c : LineCtx} {j : Option Nat} (hc : s.vault.checks = (.unlockLine c j, pw) :: l)
    (hrun : s.con.running = some ⟨c, .password, j⟩) :
    exec .passwordCheckComplete s = .next { s.checkDone with con := { s.checkDone.con with running := none } } := by
  change execPasswordCheckComplete s = _
  simp only [execPasswordCheckComplete, hc, hrun, if_true]

section
variable {h : Hdr} (hc : s.vault.checks = (.unlock h, pw) :: l)
include hc

/-- The end of an unlock by the host: cut off, without effect, right or wrong. -/
theorem State.checkDone_unlock : let t : State := { s with vault := { s.vault with checks := l, cancelled := false } }
    s.checkDone = if s.vault.cancelled then t.done h .denied else if !s.locked then t.good h
      else if s.vault.password == some pw then t.unlockNow.good h else State.done { t with vault := t.vault.failed } h .denied := by
  simp only [State.checkDone, hc]

end

theorem State.checkDone_set {h : Hdr} {new : Option (List Byte)} (hc : s.vault.checks = (.set h new, pw) :: l) :
    let t : State := { s with vault := { s.vault with checks := l, cancelled := false } }
    s.checkDone = if s.vault.password.isNone || s.vault.password == some pw then (t.setPassword new).good h
      else State.done { t with vault := t.vault.failed } h .denied := by
  simp only [State.checkDone, hc]

theorem State.checkDone_line {c : LineCtx} {j : Option Nat} (hc : s.vault.checks = (.unlockLine c j, pw) :: l) :
    let t : State := { s with vault := { s.vault with checks := l, cancelled := false } }
    s.checkDone = if s.vault.cancelled then t.finishLine c j [] (err .locked []) else if !s.locked then t.finishLine c j [] (ok [])
      else if s.vault.password == some pw then t.unlockNow.finishLine c j [] (ok [])
      else State.finishLine { t with vault := t.vault.failed } c j [] (err .password []) := by
  simp only [State.checkDone, hc]

end

end Sys2Proof.Machine

namespace Sys2Proof
open Machine

/-- A password check that ends (R527): the check of a command by what it finds, and the check of a line with the line. -/
theorem passwordCheckEnds (s : State) (pw : List Byte) (l : List (Check × List Byte)) :
    let t : State := { s with vault := { s.vault with checks := l, cancelled := false } }
    let bad : State := { t with vault := t.vault.failed }
    (∀ h : Hdr, s.vault.checks = (.unlock h, pw) :: l →
      (s.vault.cancelled = true → exec .passwordCheckComplete s = .next (t.done h .denied)) ∧
      (s.vault.cancelled = false → s.locked = false → exec .passwordCheckComplete s = .next (t.good h)) ∧
      (s.vault.cancelled = false → s.locked = true → s.vault.password = some pw → exec .passwordCheckComplete s = .next (t.unlockNow.good h)) ∧
      (s.vault.cancelled = false → s.locked = true → s.vault.password ≠ some pw → exec .passwordCheckComplete s = .next (bad.done h .denied))) ∧
    (∀ (h : Hdr) (new : Option (List Byte)), s.vault.checks = (.set h new, pw) :: l →
      ((s.vault.password = none ∨ s.vault.password = some pw) → exec .passwordCheckComplete s = .next ((t.setPassword new).good h)) ∧
      (s.vault.password ≠ none → s.vault.password ≠ some pw → exec .passwordCheckComplete s = .next (bad.done h .denied))) := by
  intro t bad
  refine ⟨fun h hc => ?_, fun h new hc => ?_⟩
  · rw [exec_passwordCheckComplete_host (by simp [hc]), State.checkDone_unlock hc]
    refine ⟨fun hcut => ?_, fun hcut hl => ?_, fun hcut hl hpw => ?_, fun hcut hl hpw => ?_⟩
    · rw [if_pos hcut]
    · simp [hcut, hl, t]
    · simp [hcut, hl, hpw, t]
    · simp [hcut, hl, hpw, t, bad]
  · rw [exec_passwordCheckComplete_host (by simp [hc]), State.checkDone_set hc]
    refine ⟨fun hpw => ?_, fun hset hpw => ?_⟩
    · rw [if_pos (by rcases hpw with hpw | hpw <;> simp [hpw])]
    · rw [if_neg (by simp [hset, hpw])]

/-- Settles O44: each command by its checks, the message to the subordinates, and the check by what it finds. -/
theorem securityCommands : Obligations.SecurityCommands := by
  refine ⟨fun s h => ⟨exec_securityReceiveProtocols, fun version tl k n old new p => ?_, fun tl p => ?_, fun version tl n pw p => ?_, exec_securityStatus⟩,
    fun s h w here => ⟨fun hw => State.fanOut_here hw here, fun line hm hsubs hline => ?_⟩,
    fun s pw l => ⟨fun h => (passwordCheckEnds s pw l).1 h, fun h => (passwordCheckEnds s pw l).2 h, fun c j hc hrun => ?_, fun hc => ?_⟩⟩
  · dsimp only
    rw [exec_securitySet p]
    refine ⟨fun hbad => by rw [if_pos hbad], fun hv htl hk hn => ?_⟩
    rw [if_neg (by omega)]
    refine ⟨fun hl hn0 => ?_, fun ho hn0 => ?_, fun ho hl => ?_, fun ho hn0 => ?_⟩
    · rw [State.hostSet_locked hl hn0]
    · rw [State.hostSet_nothing ho hn0]
    · exact congrArg _ (State.hostSet_checks hl (.inl ho))
    · exact congrArg _ (State.hostSet_checks (.inl (State.locked_of_isOpen ho)) (.inr hn0))
  · dsimp only
    rw [exec_securityLock p]
    exact ⟨fun htl => by rw [if_pos htl], fun htl => by rw [if_neg (not_not.2 htl)],
      fun u => ⟨State.hostLock_open, State.hostLock_locked, State.hostLock_unlocked⟩⟩
  · dsimp only
    rw [exec_securityUnlock p]
    exact ⟨fun hbad => by rw [if_pos hbad], fun hv htl h1 h32 => by rw [if_neg (by omega)]⟩
  · obtain ⟨hvault, htags⟩ := State.fanOnes_keep line s.presentSubs (s, [])
    rw [State.fanOut_sent hm hsubs hline]
    exact ⟨_, htags, by rw [hvault]⟩
  · rw [exec_passwordCheckComplete_line hc hrun]
    refine ⟨fun u hu => ?_, fun hcut hl hpw => ?_, fun hcut hl hpw => ?_⟩
    · cases hu; rfl
    · rw [State.checkDone_line hc]; simp [hcut, hl, hpw]
    · rw [State.checkDone_line hc]; simp [hcut, hl, hpw]
  · rw [exec_passwordCheckComplete_host (by simp [hc])]
    simp only [State.checkDone, hc]

end Sys2Proof
end

section
/-! The reference clock and the supply warnings (R144, R359, R552 to R554). -/

namespace Sys2Proof.Machine

theorem State.rf_setRf_other (s : State) {r q : Reg} (lo n v lo' n' : Nat) (h : q ≠ r) : (s.setRf r lo n v).rf q lo' n' = s.rf q lo' n' := by
  unfold State.rf
  rw [State.reg_setRf_ne _ _ _ _ h]

/-! ### The rate on the fallback oscillator (R144) -/

theorem Gallery.rateAtMost_le (g : Gallery) (limit : Nat) : g.rateAtMost limit ≤ max limit sdrRate := by
  have hfold : ∀ (l : List Mode) (a : Nat), a ≤ limit → l.foldl (fun a m => if m.rate ≤ limit then max a m.rate else a) a ≤ limit := by
    intro l
    induction l with
    | nil => exact fun a ha => ha
    | cons m l ih =>
      intro a ha
      rw [List.foldl_cons]
      refine ih _ ?_
      split <;> omega
  unfold Gallery.rateAtMost
  split
  · exact le_max_right _ _
  · dsimp only
    split
    · exact le_max_right _ _
    · exact (hfold _ 0 (Nat.zero_le _)).trans (le_max_left _ _)

/-- Limited to the fallback oscillator's rate, a gallery runs at most at 800 MT/s: its declared one below both, or SDR. -/
theorem Gallery.rateAtMost_fallback (g : Gallery) (rate : Nat) : g.rateAtMost (min rate 800) ≤ 800 :=
  (g.rateAtMost_le _).trans (max_le (min_le_right _ _) (by decide))

@[simp] theorem State.gal_reg (s : State) (g : Fin 8) (f : Gallery → Gallery) (r : Reg) : (s.gal g f).reg r = s.reg r := rfl

/-! ### One gallery limited and marked -/

section
variable (t : State) {g h : Fin 8}

theorem State.markRetrain_gal_ne (hne : h ≠ g) : (t.markRetrain g).gals.get h = t.gals.get h := by
  unfold State.markRetrain
  dsimp only
  split
  · rw [State.setRf_gals, State.gal_get_ne _ _ hne]
  · rfl

theorem State.markRetrain_reg {r : Reg} (hr : r ≠ .galStat g) : (t.markRetrain g).reg r = t.reg r := by
  unfold State.markRetrain
  dsimp only
  split
  · rw [State.reg_setRf_ne _ _ _ _ hr, State.gal_reg]
  · rfl

/-- A mark leaves what the gallery is and the rate it runs at. -/
theorem State.markRetrain_keeps (g : Fin 8) : ((t.markRetrain g).gals.get g).inService = (t.gals.get g).inService ∧
    ((t.markRetrain g).gals.get g).ranFallback = (t.gals.get g).ranFallback ∧ (t.markRetrain g).rate g = t.rate g := by
  unfold State.markRetrain
  dsimp only
  split
  · exact ⟨by simp, by simp, State.rf_setRf_apart _ _ _ _ _ _ _ (by decide) (by decide)⟩
  · exact ⟨rfl, rfl, rfl⟩

theorem State.markRetrain_pending (hin : (t.gals.get g).inService = true) : ((t.markRetrain g).gals.get g).retrain ≠ .none := by
  by_cases hnone : (t.gals.get g).retrain = .none
  · rw [(State.markRetrain_marks hin hnone).1]; decide
  · rwa [State.markRetrain_joins (.inr hnone)]

theorem State.limitRate_gal_ne (hne : h ≠ g) : (t.limitRate g).gals.get h = t.gals.get h := by
  unfold State.limitRate
  split
  · rw [State.gal_get_ne _ _ hne, State.setRf_gals]
  · rfl

theorem State.limitRate_reg {r : Reg} (hr : r ≠ .galStat g) : (t.limitRate g).reg r = t.reg r := by
  unfold State.limitRate
  split
  · rw [State.gal_reg, State.reg_setRf_ne _ _ _ _ hr]
  · rfl

theorem State.limitRate_limits (hin : (t.gals.get g).inService = true) (hfb : t.onFallback = true) :
    ((t.limitRate g).gals.get g).inService = true ∧ ((t.limitRate g).gals.get g).ranFallback = true ∧ (t.limitRate g).rate g ≤ 800 := by
  unfold State.limitRate
  rw [if_pos ⟨hin, hfb⟩]
  refine ⟨by simpa using hin, by simp, ?_⟩
  rw [State.rate, State.rf, State.gal_reg, ← State.rf, State.rf_setRf_same _ _ _ _ _ (by decide)]
  exact (Nat.mod_le _ _).trans (Gallery.rateAtMost_fallback _ _)

end

/-! ### The root on the fallback oscillator (R553) -/

/-- A gallery in service and powered when the root falls back: limited and marked for a retraining. -/
def State.fallOne (t : State) (g : Fin 8) : State :=
  if (t.gals.get g).inService && t.galPowered g then (t.limitRate g).markRetrain g else t

/-- What the fall leaves of a gallery that was in service and powered. -/
structure State.Fallen (t : State) (g : Fin 8) : Prop where
  ran : (t.gals.get g).ranFallback = true
  retrain : (t.gals.get g).retrain ≠ .none
  rate : t.rate g ≤ 800

/-- A gallery yet to fall. -/
structure State.Falls (t : State) (g : Fin 8) : Prop where
  inService : (t.gals.get g).inService = true
  powered : t.galPowered g = true
  fallback : t.onFallback = true

section
variable {t : State} {g h : Fin 8}

theorem State.fallOne_gal_ne (hne : h ≠ g) : (t.fallOne g).gals.get h = t.gals.get h := by
  unfold State.fallOne
  split
  · rw [State.markRetrain_gal_ne _ hne, State.limitRate_gal_ne _ hne]
  · rfl

theorem State.fallOne_reg {r : Reg} (hr : r ≠ .galStat g) : (t.fallOne g).reg r = t.reg r := by
  unfold State.fallOne
  split
  · rw [State.markRetrain_reg _ hr, State.limitRate_reg _ hr]
  · rfl

theorem State.fallOne_sys : (t.fallOne g).sys = t.sys := by
  unfold State.fallOne
  split
  · rw [State.markRetrain_sys, State.limitRate_sys]
  · rfl

theorem galStat_ne (hne : h ≠ g) : Reg.galStat h ≠ Reg.galStat g := fun he => hne (Reg.galStat.inj he)

theorem State.Falls.other (hf : t.Falls h) (hne : h ≠ g) : (t.fallOne g).Falls h where
  inService := by rw [State.fallOne_gal_ne hne]; exact hf.inService
  powered := by rw [State.galPowered, State.fallOne_sys]; exact hf.powered
  fallback := by rw [State.onFallback, State.rf, State.fallOne_reg (by simp)]; exact hf.fallback

theorem State.Fallen.other (hf : t.Fallen h) (hne : h ≠ g) : (t.fallOne g).Fallen h where
  ran := by rw [State.fallOne_gal_ne hne]; exact hf.ran
  retrain := by rw [State.fallOne_gal_ne hne]; exact hf.retrain
  rate := by rw [State.rate, State.rf, State.fallOne_reg (galStat_ne hne)]; exact hf.rate

theorem State.Falls.fallen (hf : t.Falls g) : (t.fallOne g).Fallen g := by
  obtain ⟨hin, hran, hrate⟩ := State.limitRate_limits t hf.inService hf.fallback
  obtain ⟨-, hkran, hkrate⟩ := State.markRetrain_keeps (t.limitRate g) g
  rw [State.fallOne, if_pos (by simp [hf.inService, hf.powered])]
  exact ⟨hkran.trans hran, State.markRetrain_pending _ hin, hkrate.trans_le hrate⟩

end

/-- Over a list of galleries without repeats, one that has fallen stays so and one on the list falls. -/
theorem State.fallen_foldl {g : Fin 8} (l : List (Fin 8)) (hl : l.Nodup) (t : State) :
    (t.Fallen g → g ∉ l → (l.foldl State.fallOne t).Fallen g) ∧ (t.Falls g → g ∈ l → (l.foldl State.fallOne t).Fallen g) := by
  induction l generalizing t with
  | nil => exact ⟨fun hf _ => hf, fun _ hmem => absurd hmem List.not_mem_nil⟩
  | cons x l ih =>
    obtain ⟨hx, hl'⟩ := List.nodup_cons.1 hl
    refine ⟨fun hf hmem => ?_, fun hf hmem => ?_⟩
    · exact (ih hl' _).1 (hf.other (List.ne_of_not_mem_cons hmem)) (List.not_mem_of_not_mem_cons hmem)
    · by_cases he : g = x
      · subst he
        exact (ih hl' _).1 hf.fallen hx
      · exact (ih hl' _).2 (hf.other he) ((List.mem_cons.1 hmem).resolve_left he)

/-- The root with its clock from the fallback oscillator. -/
def State.rootFalls (s : State) : State := ((s.setRf .sysClk 0 1 1).setRf .sysClk 4 1 1).setRf .sysClk 1 1 1

theorem State.rootFallback_eq (s : State) : s.rootFallback = (fins 8).foldl State.fallOne s.rootFalls := rfl

theorem State.rootFalls_onFallback (s : State) : s.rootFalls.onFallback = true := by
  unfold State.onFallback State.rootFalls
  rw [State.rf_setRf_apart _ _ _ _ _ _ _ (by decide) (by decide), State.rf_setRf_apart _ _ _ _ _ _ _ (by decide) (by decide),
    State.rf_setRf_same _ _ _ _ _ (by decide)]
  rfl

theorem State.rootFallback_fallen {s : State} {g : Fin 8} (hin : (s.gals.get g).inService = true) (hpow : s.galPowered g = true) :
    s.rootFallback.Fallen g := by
  rw [State.rootFallback_eq]
  exact (State.fallen_foldl _ (List.nodup_ofFn_ofInjective fun _ _ h => h) _).2 ⟨hin, hpow, s.rootFalls_onFallback⟩ (List.mem_ofFn.2 ⟨g, rfl⟩)

/-! ### REFCLK lost (R553) -/

section
variable (s : State)

theorem State.refclkGone_clk : s.refclkGone.sys.refclk = false ∧ s.refclkGone.rf .sysClk 2 1 = 0 ∧ s.refclkGone.rf .sysClk 3 1 = 0 := by
  unfold State.refclkGone
  refine ⟨rfl, ?_, ?_⟩
  · rw [State.rf_setRf_apart _ _ _ _ _ _ _ (by decide) (by decide), State.rf_setRf_same _ _ _ _ _ (by decide)]; rfl
  · rw [State.rf_setRf_apart _ _ _ _ _ _ _ (by decide) (by decide), State.rf_setRf_apart _ _ _ _ _ _ _ (by decide) (by decide),
      State.rf_setRf_same _ _ _ _ _ (by decide)]; rfl

theorem State.refclkGone_trb (n : Nat) : s.refclkGone.trb n = s.trb n := rfl

theorem State.refclkGone_rate (g : Fin 8) : s.refclkGone.rate g = s.rate g := by
  unfold State.rate State.refclkGone
  rw [State.rf_setRf_other _ _ _ _ _ _ (by simp), State.rf_setRf_other _ _ _ _ _ _ (by simp), State.rf_setRf_other _ _ _ _ _ _ (by simp)]
  rfl

theorem State.Fallen.refclkGone {s : State} {g : Fin 8} (hf : s.Fallen g) : s.refclkGone.Fallen g :=
  ⟨hf.ran, hf.retrain, (s.refclkGone_rate g).trans_le hf.rate⟩

theorem State.Fallen.raise {s : State} {g : Fin 8} (hf : s.Fallen g) (n : Nat) : (s.raise n).Fallen g := ⟨hf.ran, hf.retrain, hf.rate⟩

theorem exec_pllUnlock (planned : Bool) : exec (.pllUnlock planned) s = .next (
    if s.rf .sysClk 1 1 == 1 && s.rf .sysClk 0 1 == 0 then if planned then s.rootFallback else (s.rootFallback.raise 49).refclkGone
    else if planned && s.refclkMayStop then s.refclkGone
    else s) := rfl

end

theorem exec_pllUnlock_locked {s : State} (hlock : s.rf .sysClk 1 1 = 1) (hroot : s.rf .sysClk 0 1 = 0) (planned : Bool) :
    exec (.pllUnlock planned) s = .next (if planned then s.rootFallback else (s.rootFallback.raise 49).refclkGone) := by
  rw [exec_pllUnlock, if_pos (by simp [hlock, hroot])]

theorem exec_pllUnlock_not {s : State} (h : s.rf .sysClk 1 1 ≠ 1 ∨ s.rf .sysClk 0 1 ≠ 0) (planned : Bool) :
    exec (.pllUnlock planned) s = .next (if planned && s.refclkMayStop then s.refclkGone else s) := by
  rw [exec_pllUnlock, if_neg (by rcases h with h | h <;> simp [h])]

/-! ### REFCLK there (R552) -/

/-- The clock status that shows REFCLK there. -/
def State.RefclkShown (t : State) : Prop := t.sys.refclk = true ∧ t.rf .sysClk 3 1 = 1

section
variable {t : State}

theorem State.RefclkShown.of_eq {u : State} (h : t.RefclkShown) (hs : u.sys = t.sys) (hr : u.reg .sysClk = t.reg .sysClk) : u.RefclkShown := by
  obtain ⟨hclk, hbit⟩ := h
  exact ⟨hs ▸ hclk, by rw [State.rf, hr]; exact hbit⟩

theorem State.rootOn_refclkShown (h : t.sys.refclk = true) : t.rootOn.RefclkShown := by
  refine ⟨h, ?_⟩
  unfold State.rootOn
  dsimp only
  rw [State.rf_setRf_apart _ _ _ _ _ _ _ (by decide) (by decide), State.rf_setRf_apart _ _ _ _ _ _ _ (by decide) (by decide),
    State.rf_setRf_same _ _ _ _ _ (by decide), h]
  rfl

/-- A gallery that ran on the fallback oscillator retrains. -/
def State.riseOne (t : State) (g : Fin 8) : State :=
  if (t.gals.get g).ranFallback then (t.markRetrain g).gal g fun x => { x with ranFallback := false } else t

theorem State.riseOne_refclkShown (g : Fin 8) (h : t.RefclkShown) : (t.riseOne g).RefclkShown := by
  unfold State.riseOne
  split
  · exact h.of_eq (State.markRetrain_sys t g) (State.markRetrain_reg t (by simp))
  · exact h

theorem State.foldl_riseOne_refclkShown (l : List (Fin 8)) (h : t.RefclkShown) : (l.foldl State.riseOne t).RefclkShown := by
  induction l generalizing t with
  | nil => exact h
  | cons g l ih => exact ih (State.riseOne_refclkShown g h)

end

/-- The device with REFCLK there. -/
def State.withRefclk (s : State) : State := { s with sys := { s.sys with refclk := true } }

theorem exec_refclkArrival (s : State) : exec .refclkArrival s = .next (
    if s.sys.ps = 4 then s.withRefclk
    else
      let t : State := s.withRefclk.setRf .sysClk 3 1 1
      if t.rf .sysClk 1 1 == 1 && t.rf .sysClk 0 1 == 1 then (fins 8).foldl State.riseOne t.rootOn else t) := rfl

theorem exec_refclkArrival_shown {s : State} (hps : s.sys.ps ≠ 4) : ∃ t : State, exec .refclkArrival s = .next t ∧ t.RefclkShown := by
  refine ⟨_, exec_refclkArrival s, ?_⟩
  rw [if_neg hps]
  dsimp only
  split
  · exact State.foldl_riseOne_refclkShown _ (State.rootOn_refclkShown rfl)
  · exact ⟨rfl, State.rf_setRf_same _ _ _ _ _ (by decide)⟩

/-! ### Supply warnings (R554) -/

section
variable (s : State) (rail : Rail) (mv : Nat)

theorem exec_supplyWarning : exec (.supplyWarning rail mv) s = .next (
    if 100 * mv < (s.setRail rail mv).warnLevel rail then ((s.setRail rail mv).setRf .sysSupply rail.num 1 1).raise 50 else s.setRail rail mv) := rfl

theorem exec_supplyWarningCleared : exec (.supplyWarningCleared rail mv) s = .next (
    if (s.setRail rail mv).warnLevel rail ≤ 100 * mv then (s.setRail rail mv).setRf .sysSupply rail.num 1 0 else s.setRail rail mv) := rfl

theorem rail_num_lt : rail.num < 5 := by cases rail <;> decide

theorem State.rf_supplyBit (v : Nat) : (s.setRf .sysSupply rail.num 1 v).rf .sysSupply rail.num 1 = v % 2 :=
  State.rf_setRf_same _ _ _ _ _ (by have := rail_num_lt rail; omega)

/-- With the bit of one rail set the supply warns. -/
theorem State.brownWarning_of_bit (h : s.rf .sysSupply rail.num 1 = 1) : s.brownWarning = true := by
  have hn := rail_num_lt rail
  have hbit : (s.reg .sysSupply).toNat.testBit rail.num = true := by
    rw [State.rf, fld_bit] at h
    cases hb : (s.reg .sysSupply).getLsbD rail.num
    · rw [hb] at h; exact absurd h (by decide)
    · exact hb
  have hfield : (fld (s.reg .sysSupply) 0 5).testBit rail.num = true := by
    rw [fld, Nat.shiftRight_zero, Nat.testBit_mod_two_pow, hbit]
    simp [hn]
  rw [State.brownWarning, State.rf, bne_iff_ne]
  intro hzero
  simp [hzero] at hfield

end

end Sys2Proof.Machine

namespace Sys2Proof
open Machine

/-- Settles O17: the clock status and the galleries by whether the root is locked to REFCLK, and a rail's warning by its threshold. -/
theorem clockAndSupplyRows : Obligations.ClockAndSupplyRows := by
  refine ⟨fun s => ⟨exec_refclkArrival_shown, fun hlock hroot => ?_, fun hlock hroot => exec_pllUnlock_locked hlock hroot true,
      fun h => ⟨exec_pllUnlock_not h false, fun hstop => ?_, fun hstop => ?_⟩, fun hps => ?_⟩,
    fun s rail mv => ⟨fun hlow => ?_, fun hhigh => ?_⟩⟩
  · obtain ⟨hclk, hlock', hshown⟩ := State.refclkGone_clk (s.rootFallback.raise 49)
    refine ⟨_, exec_pllUnlock_locked hlock hroot false, hclk, ?_, hlock', hshown, fun g hin hpow => ?_⟩
    · rw [if_neg (by decide), State.refclkGone_trb, State.trb_raise _ _ _ (by decide)]; simp
    · obtain ⟨hran, hretrain, hrate⟩ := ((State.rootFallback_fallen hin hpow).raise 49).refclkGone
      exact ⟨hran, hretrain, hrate⟩
  · rw [exec_pllUnlock_not h, if_pos (by simp [hstop])]
  · rw [exec_pllUnlock_not h, if_neg (by simp [hstop])]
  · rw [exec_refclkArrival, if_pos hps]; rfl
  · have hbit : (((s.setRail rail mv).setRf .sysSupply rail.num 1 1).raise 50).rf .sysSupply rail.num 1 = 1 := State.rf_supplyBit _ rail 1
    refine ⟨_, by rw [exec_supplyWarning, if_pos hlow], hbit, ?_, State.brownWarning_of_bit _ rail hbit⟩
    rw [State.trb_raise _ _ _ (by decide)]; simp
  · exact ⟨_, (exec_supplyWarningCleared s rail mv).trans (congrArg _ (if_pos hhigh)), State.rf_supplyBit _ rail 0, rfl⟩

end Sys2Proof
end

section
/-! The Tether link: training, HELLO, the link frames of a port and its timers (R389 to R391, R400, R401). -/

namespace Sys2Proof.Machine

/-! ### Training (R390) -/

/-- The states in which a port takes a training's outcome. -/
def PortState.trains (x : PortState) : Bool := x == .training || x == .down || x == .absent || x == .hold

theorem PortState.trains_iff (x : PortState) : x.trains = true ↔ x ∈ [PortState.training, .down, .absent, .hold] := by
  simp [PortState.trains, or_assoc]

/-- A width a port can train at. -/
def widthOk (w : Nat) : Bool := w == 1 || w == 2 || w == 4

theorem widthOk_iff (w : Nat) : widthOk w = true ↔ w ∈ [1, 2, 4] := by simp [widthOk, or_assoc]

/-- A port with the width and the rate its training found. -/
def State.portRated (s : State) (p : Port) (w rate : Nat) : State := (s.setRf (statReg p) 4 3 w).setRf (statReg p) 8 3 rate

theorem exec_tetherTraining (s : State) (p : Port) (r : TethTrain) : exec (.tetherTraining p r) s =
    .next (if (s.portOn p && (s.teth.get p).st.trains) = true then
      let w : Nat := min r.lanes.val s.portLanes
      if (r.partner && widthOk w && decide (r.rate.val ≠ 0)) = true then
        let u : State := s.portRated p w r.rate.val
        State.sendHello { u with teth := u.teth.port p fun x => { x with st := .training, eqStored := true } } p
      else
        let u : State := s.portRated p 0 0
        State.portTrained { u with teth := u.teth.port p fun x => { x with st := if x.st = .absent then .absent else .down } } p false
    else s) := rfl

@[simp] theorem Tether.get_port (t : Tether) (p : Port) (f : TPort → TPort) : (t.port p f).get p = f (t.get p) := by
  cases p <;> rfl

@[simp] theorem State.portRated_teth (s : State) (p : Port) (w rate : Nat) : (s.portRated p w rate).teth = s.teth := rfl

theorem State.portRated_lanes (s : State) (p : Port) {w : Nat} (rate : Nat) (hw : w < 8) : (s.portRated p w rate).rf (statReg p) 4 3 = w := by
  unfold State.portRated
  rw [State.rf_setRf_apart _ _ _ _ _ _ _ (by decide) (by decide), State.rf_setRf_same _ _ _ _ _ (by decide)]
  exact Nat.mod_eq_of_lt hw

theorem State.portRated_rate (s : State) (p : Port) (w : Nat) {rate : Nat} (hr : rate < 8) : (s.portRated p w rate).rf (statReg p) 8 3 = rate := by
  unfold State.portRated
  rw [State.rf_setRf_same _ _ _ _ _ (by decide)]
  exact Nat.mod_eq_of_lt hr

/-- A port whose training found a partner: it has the width and the rate, and has sent HELLO. -/
def State.portGreets (s : State) (p : Port) (w rate : Nat) : State :=
  let u : State := s.portRated p w rate
  State.sendHello { u with teth := u.teth.port p fun x => { x with st := .training, eqStored := true } } p

theorem State.portGreets_rf (s : State) (p : Port) (w rate : Nat) (r : Reg) (lo n : Nat) :
    (s.portGreets p w rate).rf r lo n = (s.portRated p w rate).rf r lo n := rfl

theorem State.portGreets_get (s : State) (p : Port) (w rate : Nat) : ((s.portGreets p w rate).teth.get p).st = .training ∧
    ((s.portGreets p w rate).teth.get p).sent.length = (s.teth.get p).sent.length + 1 := by
  unfold State.portGreets State.sendHello
  simp [TPort.link]

theorem exec_tetherTraining_partner {s : State} {p : Port} {r : TethTrain} (hon : s.portOn p = true) (hst : (s.teth.get p).st.trains = true)
    (hp : r.partner = true) (hw : widthOk (min r.lanes.val s.portLanes) = true) (hr : r.rate.val ≠ 0) :
    exec (.tetherTraining p r) s = .next (s.portGreets p (min r.lanes.val s.portLanes) r.rate.val) := by
  rw [exec_tetherTraining, if_pos (by simp [hon, hst])]
  dsimp only
  rw [if_pos (by simp [hp, hw, hr])]
  rfl

theorem exec_tetherTraining_alone {s : State} {p : Port} {r : TethTrain} (hon : s.portOn p = true) (hst : (s.teth.get p).st.trains = true)
    (h : r.partner = false ∨ widthOk (min r.lanes.val s.portLanes) = false ∨ r.rate.val = 0) :
    let u : State := s.portRated p 0 0
    exec (.tetherTraining p r) s = .next
      (State.portTrained { u with teth := u.teth.port p fun x => { x with st := if x.st = .absent then .absent else .down } } p false) := by
  intro u
  have hno : ¬(r.partner && widthOk (min r.lanes.val s.portLanes) && decide (r.rate.val ≠ 0)) = true := by
    rcases h with h | h | h <;> simp [h]
  rw [exec_tetherTraining, if_pos (by simp [hon, hst])]
  dsimp only
  rw [if_neg hno]

theorem exec_tetherTraining_not {s : State} {p : Port} (r : TethTrain) (h : s.portOn p = false ∨ (s.teth.get p).st.trains = false) :
    exec (.tetherTraining p r) s = .next s := by
  rw [exec_tetherTraining, if_neg (by rcases h with h | h <;> simp [h])]

/-! ### HELLO (R391) -/

theorem exec_hello (s : State) (p : Port) (f : FrameHdr) (b : HelloBody) : exec (.hello p f b) s =
    .next (if (s.teth.get p).st = .off ∨ s.rf (statReg p) 8 3 = 0 then s
    else if !f.good then s.rxBad p
    else
      let u : State := s.setRf (statReg p) 12 4 b.strap.val
      if u.helloOk p b then
        let v : State := u.takeChain p b
        if (s.teth.get p).st = .up && !b.fresh then { v with teth := v.teth.port p fun x => { x with partner := some b } }
        else (v.linkUp p b).portTrained p true
      else State.portTrained { u with teth := u.teth.port p fun x => { x with st := .mismatch, partner := some b } } p false) := rfl

/-- A HELLO that arrives whole at a port that listens, by its checks. -/
theorem exec_hello_good {s : State} {p : Port} {f : FrameHdr} (b : HelloBody) (hst : (s.teth.get p).st ≠ .off) (hr : s.rf (statReg p) 8 3 ≠ 0)
    (hf : f.good = true) : let u : State := s.setRf (statReg p) 12 4 b.strap.val
    (u.helloOk p b = false → exec (.hello p f b) s = .next
      (State.portTrained { u with teth := u.teth.port p fun x => { x with st := .mismatch, partner := some b } } p false)) ∧
    (u.helloOk p b = true → (b.fresh = true ∨ (s.teth.get p).st ≠ .up) →
      exec (.hello p f b) s = .next (((u.takeChain p b).linkUp p b).portTrained p true)) ∧
    (u.helloOk p b = true → b.fresh = false → (s.teth.get p).st = .up → exec (.hello p f b) s =
      .next { u.takeChain p b with teth := (u.takeChain p b).teth.port p fun x => { x with partner := some b } }) := by
  intro u
  have hlisten : ¬((s.teth.get p).st = .off ∨ s.rf (statReg p) 8 3 = 0) := by simp [hst, hr]
  have hwhole : ¬(!f.good) = true := by simp [hf]
  rw [exec_hello, if_neg hlisten, if_neg hwhole]
  dsimp only
  refine ⟨fun hno => ?_, fun hok hnew => ?_, fun hok hold hup => ?_⟩
  · rw [if_neg (by rw [hno]; exact Bool.false_ne_true)]
  · rw [if_pos hok, if_neg (by rcases hnew with h | h <;> simp [h])]
  · rw [if_pos hok, if_pos (by simp [hold, hup])]

theorem exec_hello_deaf {s : State} {p : Port} (f : FrameHdr) (b : HelloBody) (h : (s.teth.get p).st = .off ∨ s.rf (statReg p) 8 3 = 0) :
    exec (.hello p f b) s = .next s := by rw [exec_hello, if_pos h]

theorem exec_hello_bad {s : State} {p : Port} {f : FrameHdr} (b : HelloBody) (hst : (s.teth.get p).st ≠ .off) (hr : s.rf (statReg p) 8 3 ≠ 0)
    (hf : f.good = false) : exec (.hello p f b) s = .next (s.rxBad p) := by
  rw [exec_hello, if_neg (by simp [hst, hr]), if_pos (by simp [hf])]

/-- What a HELLO on TD must show: the next position, an identifier that fits, and a device within the chain. -/
theorem State.helloOk_td (s : State) (b : HelloBody) : s.helloOk .td b = (decide (b.strap.val / 4 = s.index + 1) &&
    (if b.chainId = 0 then s.noNs else s.chainId == b.chainId) && (s.noNs || decide (b.strap.val / 4 < s.recordN))) := rfl

theorem exec_mismatchHelloTimer (s : State) (p : Port) :
    exec (.mismatchHelloTimer p) s = .next (if (s.teth.get p).st = .mismatch then s.sendHello p else s) := rfl

/-! ### Link frames and timers (R400, R401) -/

theorem State.rxLink_not_live {s : State} {p : Port} (f : FrameHdr) (act : State → State) (h : (s.teth.get p).live = false) :
    s.rxLink p f act = s := by simp [State.rxLink, h]

theorem State.rxLink_good {s : State} {p : Port} {f : FrameHdr} (act : State → State) (h : (s.teth.get p).live = true) (hf : f.good = true) :
    s.rxLink p f act = act s := by simp [State.rxLink, h, hf]

theorem State.rxLink_bad {s : State} {p : Port} {f : FrameHdr} (act : State → State) (h : (s.teth.get p).live = true) (hf : f.good = false) :
    s.rxLink p f act = s.rxBad p := by simp [State.rxLink, h, hf]

theorem exec_ack (s : State) (p : Port) (f : FrameHdr) : exec (.ack p f) s =
    .next (s.rxLink p f fun t => { t with teth := t.teth.port p fun q => q.acked f.seq.val }) := rfl

theorem exec_nak (s : State) (p : Port) (f : FrameHdr) : exec (.nak p f) s = .next (s.rxLink p f fun t => t.replayFrom p f.seq.val) := rfl

theorem exec_credit (s : State) (p : Port) (f : FrameHdr) : exec (.credit p f) s =
    .next (s.rxLink p f fun t => { t with teth := t.teth.port p fun q => q.credited (f.index.getLsbD 0) f.len }) := rfl

theorem exec_idleAckTimer (s : State) (p : Port) : exec (.idleAckTimer p) s = .next (if (s.teth.get p).live then s.sendAck p else s) := rfl

theorem exec_replayTimeout_due {s : State} {p : Port} {f : Frame} {l : List Frame} (h : (s.teth.get p).replay = f :: l)
    (hup : (s.teth.get p).st = .up) : exec (.replayTimeout p) s = .next (s.replayFrom p f.seq) := by
  change execReplayTimeout p s = _
  simp [execReplayTimeout, h, hup]

theorem exec_replayTimeout_not {s : State} {p : Port} (h : (s.teth.get p).replay = [] ∨ (s.teth.get p).st ≠ .up) :
    exec (.replayTimeout p) s = .next s := by
  change execReplayTimeout p s = _
  unfold execReplayTimeout
  cases hl : (s.teth.get p).replay with
  | nil => rfl
  | cons f l => simp [h.resolve_left (by simp [hl])]

end Sys2Proof.Machine

namespace Sys2Proof
open Machine

/-- Settles O39: the training by what it found, HELLO by its checks, and each link frame and timer by whether its port can receive. -/
theorem tetherLinkRows : Obligations.TetherLinkRows := by
  refine ⟨fun s p => ⟨fun r hon hst => ⟨fun hp hw hr => ?_, fun h => ?_⟩, fun r h => ?_, fun f b => exec_hello_good b, fun f b => exec_hello_deaf f b,
      fun f b => exec_hello_bad b, fun b hm => ?_, fun b hpos => ?_, fun b h0 hns => ?_, fun b h0 hid => ?_, fun h => ?_, fun h => ?_⟩,
    fun s p hlive => ⟨fun f hf => ?_, fun f hf => ?_, fun f l hl hup => exec_replayTimeout_due hl hup, exec_replayTimeout_not, ?_⟩,
    fun s p f hlive => ?_⟩
  · obtain ⟨hstate, hsent⟩ := State.portGreets_get s p (min r.lanes.val s.portLanes) r.rate.val
    have hlanes : min r.lanes.val s.portLanes < 8 := by have := r.lanes.isLt; omega
    have hrate : r.rate.val < 8 := by have := r.rate.isLt; omega
    refine ⟨_, exec_tetherTraining_partner hon ((PortState.trains_iff _).2 hst) hp ((widthOk_iff _).2 hw) hr, ?_, ?_, hstate, hsent⟩
    · rw [State.portGreets_rf, State.portRated_lanes s p _ hlanes]
    · rw [State.portGreets_rf, State.portRated_rate s p _ hrate]
  · refine exec_tetherTraining_alone hon ((PortState.trains_iff _).2 hst) (h.imp_right (Or.imp_left fun hw => ?_))
    rw [Bool.eq_false_iff, Ne, widthOk_iff]; exact hw
  · exact exec_tetherTraining_not r (h.imp_right fun hst => by rw [Bool.eq_false_iff, Ne, PortState.trains_iff]; exact hst)
  · simp [State.helloOk, hm]
  · simp [State.helloOk_td, hpos]
  · simp [State.helloOk_td, h0, hns]
  · rw [State.helloOk_td, if_neg h0]; simp [hid]
  · rw [exec_mismatchHelloTimer, if_pos h]
  · rw [exec_mismatchHelloTimer, if_neg h]
  · rw [exec_ack, exec_nak, exec_credit]
    simp only [State.rxLink_good _ hlive hf, and_self]
  · rw [exec_ack, exec_nak, exec_credit]
    simp only [State.rxLink_bad _ hlive hf, and_self]
  · rw [exec_idleAckTimer, if_pos hlive]
  · have hup : (s.teth.get p).st ≠ .up := fun h => by simp [TPort.live, h] at hlive
    rw [exec_ack, exec_nak, exec_credit, exec_replayTimeout_not (.inr hup), exec_idleAckTimer]
    simp [State.rxLink_not_live, hlive]

end Sys2Proof
end

section
/-! Frames in order, the work they carry, and the frames sent on (R394, R396, R402, R403). -/

namespace Sys2Proof.Machine

/-! ### Order and integrity (R400, R401) -/

section
variable {s : State} {p : Port} {f : FrameHdr} (type : Nat) (act : State → State)

theorem State.rxSeqd_before (hlive : (s.teth.get p).live = true) (hf : f.good = true) (hne : f.seq.val ≠ (s.teth.get p).rxSeq)
    (hold : ((s.teth.get p).rxSeq + 4096 - f.seq.val) % 4096 ≤ 2048) : s.rxSeqd p f type act = s := by
  simp [State.rxSeqd, hlive, hf, hne, hold]

theorem State.rxSeqd_beyond (hlive : (s.teth.get p).live = true) (hf : f.good = true) (hne : f.seq.val ≠ (s.teth.get p).rxSeq)
    (hnew : 2048 < ((s.teth.get p).rxSeq + 4096 - f.seq.val) % 4096) : s.rxSeqd p f type act = s.sendNak p := by
  simp [State.rxSeqd, hlive, hf, hne, Nat.not_le.2 hnew]

theorem State.rxSeqd_bad (hlive : (s.teth.get p).live = true) (hf : f.good = false) : s.rxSeqd p f type act = s.rxBad p := by
  simp [State.rxSeqd, hlive, hf]

end

/-! ### A frame taken leaves the registers -/

@[simp] theorem State.sendAck_regs (s : State) (p : Port) : (s.sendAck p).regs = s.regs := rfl

@[simp] theorem State.returnCredit_regs (s : State) (p : Port) (type : Nat) : (s.returnCredit p type).regs = s.regs := by
  unfold State.returnCredit
  cases creditClass type <;> rfl

@[simp] theorem State.heard_regs (s : State) (f : FrameHdr) : (s.heard f).regs = s.regs := by
  unfold State.heard
  split <;> rfl

@[simp] theorem State.received_regs (s : State) (p : Port) (f : FrameHdr) (type : Nat) : (s.received p f type).regs = s.regs := by
  simp [State.received]

theorem State.index_of_regs {s t : State} (h : t.regs = s.regs) : t.index = s.index := by
  simp only [State.index, State.rf, State.reg, h]

theorem State.received_index (s : State) (p : Port) (f : FrameHdr) (type : Nat) : (s.received p f type).index = s.index :=
  State.index_of_regs (State.received_regs s p f type)

/-! ### A frame for another device (R396) -/

/-- A frame received here and sent on with its tag, source and index as they were. -/
def State.sentOn (s : State) (p : Port) (f : FrameHdr) (type arg : Nat) (body : FBody) : State :=
  let t : State := s.received p f type
  let x : Frame := { type, dst := f.dst, src := f.src, seq := 0, tag := f.tag, index := f.index.toNat, arg, body }
  { t with teth := t.teth.port (portToward t.index f.dst.val) fun q => q.send x }

section
variable {s : State} {p : Port} {f : FrameHdr}

theorem State.rxRouted_onward (type arg : Nat) (body : FBody) (act : State → State) (r : s.receives p f = true) (hd : f.dst.val ≠ s.index)
    (hout : portToward s.index f.dst.val ≠ p) : s.rxRouted p f type arg body act = s.sentOn p f type arg body := by
  unfold State.rxRouted
  have hi := State.received_index s p f type
  rw [rxSeqd_eq _ _ r, if_neg (hi ▸ hd)]
  exact if_neg (hi ▸ hout)

theorem State.rxRouted_back (type arg : Nat) (body : FBody) (act : State → State) (r : s.receives p f = true) (hd : f.dst.val ≠ s.index)
    (hout : portToward s.index f.dst.val = p) : s.rxRouted p f type arg body act = s.received p f type := by
  unfold State.rxRouted
  have hi := State.received_index s p f type
  rw [rxSeqd_eq _ _ r, if_neg (hi ▸ hd)]
  exact if_pos (hi ▸ hout)

end

/-! ### The work of each frame at the device it names -/

/-- A part that arrives on a subordinate runs, in place of one of its tag (R402). -/
def State.takePart (t : State) (tag : BitVec 16) (b : PartBody) : State :=
  if t.isMaster then t
  else
    let u : State := if t.teth.owned.any fun o => o.tag == tag then t.dropPart tag else t
    State.runPart { u with teth := { u.teth with owned := u.teth.owned ++ [{ tag, body := b, got := [] }] } } tag

/-- Data that arrives on a subordinate's part joins it. -/
def State.ownedData (t : State) (tag : BitVec 16) (i : Nat) (d : Sector) : State :=
  State.runPart { t with teth := { t.teth with owned := t.teth.owned.map fun o => if o.tag = tag then { o with got := putFrame o.got i d } else o } } tag

/-- Data that arrives: for the master's command, for a subordinate's part, or for its firmware piece (R394, R403). -/
def State.takeData (t : State) (tag : BitVec 16) (i : Nat) (d : Sector) : State :=
  if t.isMaster then
    match t.teth.parts.find? fun q => q.tag == tag with
    | some q => t.partData q i d
    | none => t
  else if t.teth.owned.any fun o => o.tag == tag then t.ownedData tag i d
  else match t.teth.piece with
    | some x => if x.tag = tag then t.pieceData x i d else t
    | none => t

/-- The end of a part, or the answer to an ADMIN frame (R402, R403). -/
def State.takeDone (t : State) (tag : BitVec 16) (b : DoneBody) : State :=
  match t.teth.parts.find? fun q => q.tag == tag with
  | some q =>
    let st : NStat := ⟨b.sct.toNat, b.sc.toNat, false⟩
    let u : State := if st = .success ∧ q.opcode = 0x0C then t.partVerified q else t
    u.endPart tag st b.firstFail
  | none => t.adminAnswer tag b.sct.toNat b.sc.toNat

section
variable (s : State) (p : Port) (f : FrameHdr)

theorem exec_part (b : PartBody) : exec (.part p f b) s = .next (s.rxRouted p f 1 0 (.part b) fun t => t.takePart f.tag b) := rfl

theorem exec_data (d : Sector) : exec (.data p f d) s =
    .next (s.rxRouted p f 2 (8 * f.len) (.data d) fun t => t.takeData f.tag f.index.toNat d) := rfl

theorem exec_done (b : DoneBody) : exec (.done p f b) s = .next (s.rxRouted p f 3 0 (.done b) fun t => t.takeDone f.tag b) := rfl

theorem exec_admin (b : AdminBody) : exec (.admin p f b) s =
    .next (s.rxRouted p f 7 0 (.admin b) fun t => if t.isMaster then t else t.adminFrame f.tag b) := rfl

theorem exec_alarm (origin : Fin 4) (bit : Fin 64) (secs : Word) : exec (.alarm p f origin bit secs) s =
    .next (s.rxSeqd p f 6 fun t => if 56 ≤ bit.val ∧ bit.val ≤ 62 then t.alarmIn p origin bit.val secs else t) := rfl

end

section
variable {t : State} {tag : BitVec 16}

theorem State.takePart_master (b : PartBody) (hm : t.isMaster = true) : t.takePart tag b = t := by rw [State.takePart, if_pos hm]

theorem State.takePart_subordinate (b : PartBody) (hm : t.isMaster = false) : t.takePart tag b =
    let u : State := if t.teth.owned.any fun o => o.tag == tag then t.dropPart tag else t
    State.runPart { u with teth := { u.teth with owned := u.teth.owned ++ [{ tag, body := b, got := [] }] } } tag := by
  rw [State.takePart, if_neg (by simp [hm])]

theorem State.takeData_master {q : MPart} (i : Nat) (d : Sector) (hm : t.isMaster = true)
    (hq : (t.teth.parts.find? fun q => q.tag == tag) = some q) : t.takeData tag i d = t.partData q i d := by
  simp [State.takeData, hm, hq]

theorem State.takeData_unknown (i : Nat) (d : Sector) (hm : t.isMaster = true) (hq : (t.teth.parts.find? fun q => q.tag == tag) = none) :
    t.takeData tag i d = t := by
  rw [State.takeData, if_pos hm, hq]

theorem State.takeData_owned (i : Nat) (d : Sector) (hm : t.isMaster = false) (ho : (t.teth.owned.any fun o => o.tag == tag) = true) :
    t.takeData tag i d = t.ownedData tag i d := by
  rw [State.takeData, if_neg (by simp [hm]), if_pos ho]

theorem State.takeData_piece {x : Piece} (i : Nat) (d : Sector) (hm : t.isMaster = false) (ho : (t.teth.owned.any fun o => o.tag == tag) = false)
    (hx : t.teth.piece = some x) (htag : x.tag = tag) : t.takeData tag i d = t.pieceData x i d := by
  rw [State.takeData, if_neg (by simp [hm]), if_neg (by simp [ho]), hx]
  exact if_pos htag

/-- A status is Successful where its type and code are 0. -/
theorem doneStatus_success (sct : BitVec 3) (sc : Byte) : (⟨sct.toNat, sc.toNat, false⟩ : NStat) = .success ↔ sct = 0 ∧ sc = 0 := by
  simp [NStat.success, BitVec.toNat_eq]

theorem State.takeDone_part {q : MPart} (b : DoneBody) (hq : (t.teth.parts.find? fun q => q.tag == tag) = some q) : t.takeDone tag b =
    let u : State := if b.sct = 0 ∧ b.sc = 0 ∧ q.opcode = 0x0C then t.partVerified q else t
    u.endPart tag ⟨b.sct.toNat, b.sc.toNat, false⟩ b.firstFail := by
  simp only [State.takeDone, hq, doneStatus_success, and_assoc]

theorem State.takeDone_answer (b : DoneBody) (hq : (t.teth.parts.find? fun q => q.tag == tag) = none) :
    t.takeDone tag b = t.adminAnswer tag b.sct.toNat b.sc.toNat := by
  rw [State.takeDone, hq]

end

/-! ### Orders (R397) -/

section
variable (s : State) (p : Port) (f : FrameHdr)

/-- Every order is routed as a frame of type 5 that carries its code and its argument (R397). -/
theorem exec_orderReset (arg : Byte) : exec (.orderReset p f arg) s =
    .next (s.rxOrder p f 1 arg.toNat fun t => if t.isMaster then t else t.requestFused 9) := rfl

theorem exec_orderStandby (arg : Byte) : exec (.orderStandby p f arg) s = .next (s.rxOrder p f 2 arg.toNat fun t =>
    if t.isMaster = false ∧ (arg = 3 ∨ arg = 4) then
      State.wantPs { t with teth := { t.teth with standbyAsked := some arg.toNat } } (Fin.ofNat 5 arg.toNat)
    else t) := rfl

theorem exec_orderStandbyReady (arg : Byte) : exec (.orderStandbyReady p f arg) s = .next (s.rxOrder p f 3 arg.toNat fun t =>
    if t.isMaster ∧ t.teth.standbyAsked = some arg.toNat ∧ t.teth.readyStandby.contains f.src = false then
      { t with teth := { t.teth with readyStandby := t.teth.readyStandby ++ [f.src] } }
    else t) := rfl

/-- What a state order does once its argument is noted (R398). -/
def State.takeState (t : State) (arg : Byte) : State :=
  if t.isMaster then t
  else
    let u : State := State.standbyEnds { t with teth := { t.teth with masterState := arg.toNat } }
    if arg = 1 && u.isSt .test && !u.con.leaving then u.leaveTest else u

theorem exec_orderState (arg : Byte) : exec (.orderState p f arg) s = .next (s.rxOrder p f 4 arg.toNat fun t => t.takeState arg) := rfl

/-- A hold of a device and of those beyond it (R408). -/
def State.takeHold (t : State) (src : Fin 4) (arg : Nat) : State :=
  let u : State := { t with teth := { t.teth with
    holding := (t.teth.holding.filter fun x => !(t.beyond src.val).contains x.1) ++ (t.beyond src.val).map fun j => (j, arg) } }
  if src = 1 then { u with teth := u.teth.port .td fun q => { q with st := .hold } } else u

theorem exec_orderHold (arg : Byte) : exec (.orderHold p f arg) s =
    .next (s.rxOrder p f 5 arg.toNat fun t => if t.isMaster ∧ f.src.val ≠ 0 then t.takeHold f.src arg.toNat else t) := rfl

/-- A device that is ready again gets every part of a live command once more (R408). -/
def State.takeReady (t : State) (src : Fin 4) : State :=
  let u : State := { t with teth := { t.teth with
    holding := t.teth.holding.filter fun x => x.1 != src
    parts := t.teth.parts.filter fun q => q.owner != src || (t.front.ctx? q.hdr).isSome } }
  (u.teth.parts.filter fun q => q.owner == src).foldl (fun (v : State) (q : MPart) => v.sendPart q) u

theorem exec_orderReady : exec (.orderReady p f) s =
    .next (s.rxOrder p f 6 0 fun t => if t.isMaster then t.takeReady f.src else t) := rfl

theorem exec_orderAbort : exec (.orderAbort p f) s = .next (s.rxOrder p f 7 0 fun t =>
    match t.teth.owned.find? fun o => o.tag == f.tag with
    | some o => (t.dropPart f.tag).tethSend 3 0 f.tag 0 0 (.done { sc := 0x07, sct := 0, lbas := 0, firstFail := o.body.first })
    | none => t) := rfl

theorem exec_orderActivate : exec (.orderActivate p f) s = .next (s.rxOrder p f 8 0 fun t =>
    if t.isMaster = false ∧ t.bst.pendingSwap.isSome then t.requestReset 9 2 else t) := rfl

end

section
variable {s : State} {p : Port} {f : FrameHdr}

theorem State.rxOrder_onward (sub arg : Nat) (act : State → State) (r : s.receives p f = true) (hd : f.dst.val ≠ s.index)
    (hout : portToward s.index f.dst.val ≠ p) : s.rxOrder p f sub arg act = s.sentOn p f 5 (sub + 256 * arg) .none :=
  State.rxRouted_onward _ _ _ _ r hd hout

/-- The orders with an argument, on their way to another device. -/
theorem exec_orders_onward (r : s.receives p f = true) (hd : f.dst.val ≠ s.index) (hout : portToward s.index f.dst.val ≠ p) (arg : Byte) :
    exec (.orderReset p f arg) s = .next (s.sentOn p f 5 (1 + 256 * arg.toNat) .none) ∧
    exec (.orderStandby p f arg) s = .next (s.sentOn p f 5 (2 + 256 * arg.toNat) .none) ∧
    exec (.orderStandbyReady p f arg) s = .next (s.sentOn p f 5 (3 + 256 * arg.toNat) .none) ∧
    exec (.orderState p f arg) s = .next (s.sentOn p f 5 (4 + 256 * arg.toNat) .none) ∧
    exec (.orderHold p f arg) s = .next (s.sentOn p f 5 (5 + 256 * arg.toNat) .none) := by
  rw [exec_orderReset, exec_orderStandby, exec_orderStandbyReady, exec_orderState, exec_orderHold]
  simp only [State.rxOrder_onward _ _ _ r hd hout, and_self]

/-- The orders without an argument, on their way to another device. -/
theorem exec_plainOrders_onward (r : s.receives p f = true) (hd : f.dst.val ≠ s.index) (hout : portToward s.index f.dst.val ≠ p) :
    exec (.orderReady p f) s = .next (s.sentOn p f 5 6 .none) ∧ exec (.orderAbort p f) s = .next (s.sentOn p f 5 7 .none) ∧
    exec (.orderActivate p f) s = .next (s.sentOn p f 5 8 .none) := by
  rw [exec_orderReady, exec_orderAbort, exec_orderActivate]
  simp only [State.rxOrder_onward _ _ _ r hd hout, Nat.mul_zero, Nat.add_zero, and_self]

end

end Sys2Proof.Machine

namespace Sys2Proof
open Machine

/-- Settles O40: a frame by its number and its CRC; one received by whether it is for this device; and each kind of frame by what it works on. -/
theorem tetherFrames : Obligations.TetherFrames := by
  refine ⟨fun s p f arg hlive hf hne => ⟨fun hold => ?_, fun hnew => ?_⟩, fun s p f b d hlive hf => ?_,
    fun s p f r => ⟨fun b => ?_, fun d => ?_, fun b q => ?_, fun b => ?_, fun b => ?_, fun origin bit secs => ?_⟩,
    fun s p f r => ⟨State.received_index s p f, fun hd hout => ?_, fun hd hout => ?_⟩⟩
  · rw [exec_orderReset, exec_orderReady]
    simp only [State.rxOrder, State.rxRouted, State.rxSeqd_before _ _ hlive hf hne hold, and_self]
  · rw [exec_orderReset, exec_orderReady]
    simp only [State.rxOrder, State.rxRouted, State.rxSeqd_beyond _ _ hlive hf hne hnew, and_self]
  · rw [exec_part, exec_data, exec_orderReady]
    simp only [State.rxOrder, State.rxRouted, State.rxSeqd_bad _ _ hlive hf, and_self]
  · intro t hd
    rw [exec_part, rxRouted_eq _ _ _ _ r hd]
    exact ⟨fun hm => congrArg _ (State.takePart_master b hm), fun hm => congrArg _ (State.takePart_subordinate b hm)⟩
  · intro t hd
    rw [exec_data, rxRouted_eq _ _ _ _ r hd]
    exact ⟨fun q hm hq => congrArg _ (State.takeData_master _ d hm hq), fun hm hq => congrArg _ (State.takeData_unknown _ d hm hq),
      fun hm ho => congrArg _ (State.takeData_owned _ d hm ho), fun x hm ho hx htag => congrArg _ (State.takeData_piece _ d hm ho hx htag)⟩
  · intro t hd hq
    rw [exec_done, rxRouted_eq _ _ _ _ r hd]
    exact congrArg _ (State.takeDone_part b hq)
  · intro t hd hq
    rw [exec_done, rxRouted_eq _ _ _ _ r hd]
    exact congrArg _ (State.takeDone_answer b hq)
  · intro t hd
    rw [exec_admin, rxRouted_eq _ _ _ _ r hd]
  · rw [exec_alarm, rxSeqd_eq _ _ r]
    exact ⟨fun hlo hhi => by rw [if_pos ⟨hlo, hhi⟩], fun hout => by rw [if_neg (by omega)]⟩
  · refine ⟨fun b => ?_, fun d => ?_, fun b => ?_, fun b => ?_, exec_orders_onward r hd hout, exec_plainOrders_onward r hd hout⟩
    · exact congrArg _ (State.rxRouted_onward _ _ _ _ r hd hout)
    · exact congrArg _ (State.rxRouted_onward _ _ _ _ r hd hout)
    · exact congrArg _ (State.rxRouted_onward _ _ _ _ r hd hout)
    · exact congrArg _ (State.rxRouted_onward _ _ _ _ r hd hout)
  · refine ⟨fun b => ?_, fun d => ?_, fun b => ?_, fun b => ?_⟩
    · exact congrArg _ (State.rxRouted_back _ _ _ _ r hd hout)
    · exact congrArg _ (State.rxRouted_back _ _ _ _ r hd hout)
    · exact congrArg _ (State.rxRouted_back _ _ _ _ r hd hout)
    · exact congrArg _ (State.rxRouted_back _ _ _ _ r hd hout)

end Sys2Proof
end

section
/-! The orders a device takes, and the loss of devices (R397, R402 to R411). -/

namespace Sys2Proof.Machine

/-! ### The order of state and the hold order -/

section
variable {t : State}

theorem State.takeState_master (arg : Byte) (hm : t.isMaster = true) : t.takeState arg = t := by rw [State.takeState, if_pos hm]

theorem State.takeState_subordinate (arg : Byte) (hm : t.isMaster = false) :
    let u : State := State.standbyEnds { t with teth := { t.teth with masterState := arg.toNat } }
    t.takeState arg = if arg = 1 ∧ u.isSt .test = true ∧ u.con.leaving = false then u.leaveTest else u := by
  intro u
  rw [State.takeState, if_neg (by simp [hm])]
  simp only [Bool.and_eq_true, decide_eq_true_eq, Bool.not_eq_true', and_assoc]
  rfl

end

/-! ### Orders at the device they name -/

section
variable {s : State} {p : Port} {f : FrameHdr} (r : s.receives p f = true) (hd : f.dst.val = (s.received p f 5).index)
include r hd

theorem exec_orderReset_here (arg : Byte) : exec (.orderReset p f arg) s =
    .next (if (s.received p f 5).isMaster then s.ordered p f arg else (s.ordered p f arg).requestFused 9) := by
  rw [exec_orderReset, rxOrder_eq _ _ _ r hd]; rfl

theorem exec_orderStandby_here (arg : Byte) : exec (.orderStandby p f arg) s = .next (
    if (s.received p f 5).isMaster = false ∧ (arg = 3 ∨ arg = 4) then
      State.wantPs { s.ordered p f arg with teth := { (s.ordered p f arg).teth with standbyAsked := some arg.toNat } } (Fin.ofNat 5 arg.toNat)
    else s.ordered p f arg) := by
  rw [exec_orderStandby, rxOrder_eq _ _ _ r hd]; rfl

theorem exec_orderStandbyReady_here (arg : Byte) : let t : State := s.ordered p f arg
    exec (.orderStandbyReady p f arg) s = .next (
      if (s.received p f 5).isMaster = true ∧ t.teth.standbyAsked = some arg.toNat ∧ t.teth.readyStandby.contains f.src = false then
        { t with teth := { t.teth with readyStandby := t.teth.readyStandby ++ [f.src] } }
      else t) := by
  rw [exec_orderStandbyReady, rxOrder_eq _ _ _ r hd]; rfl

theorem exec_orderState_here (arg : Byte) : exec (.orderState p f arg) s = .next ((s.ordered p f arg).takeState arg) := by
  rw [exec_orderState, rxOrder_eq _ _ _ r hd]

theorem exec_orderHold_here (arg : Byte) : exec (.orderHold p f arg) s = .next (
    if (s.received p f 5).isMaster = true ∧ f.src.val ≠ 0 then (s.ordered p f arg).takeHold f.src arg.toNat else s.ordered p f arg) := by
  rw [exec_orderHold, rxOrder_eq _ _ _ r hd]; rfl

theorem exec_orderReady_here : exec (.orderReady p f) s = .next (
    if (s.received p f 5).isMaster then (s.ordered p f 0).takeReady f.src else s.ordered p f 0) := by
  rw [exec_orderReady, rxOrder_zero _ _ r hd]; rfl

theorem exec_orderAbort_found {o : OPart} (ho : ((s.ordered p f 0).teth.owned.find? fun o => o.tag == f.tag) = some o) :
    exec (.orderAbort p f) s = .next
      (((s.ordered p f 0).dropPart f.tag).tethSend 3 0 f.tag 0 0 (.done { sc := 0x07, sct := 0, lbas := 0, firstFail := o.body.first })) := by
  rw [exec_orderAbort, rxOrder_zero _ _ r hd, ho]

theorem exec_orderAbort_none (ho : ((s.ordered p f 0).teth.owned.find? fun o => o.tag == f.tag) = none) :
    exec (.orderAbort p f) s = .next (s.ordered p f 0) := by
  rw [exec_orderAbort, rxOrder_zero _ _ r hd, ho]

theorem exec_orderActivate_here : exec (.orderActivate p f) s = .next (
    if (s.received p f 5).isMaster = false ∧ (s.ordered p f 0).bst.pendingSwap.isSome = true then (s.ordered p f 0).requestReset 9 2
    else s.ordered p f 0) := by
  rw [exec_orderActivate, rxOrder_zero _ _ r hd]; rfl

end

/-! ### Loss (R407 to R411) -/

section
variable {s : State}

theorem State.heldDev_iff (k : Fin 4) : s.heldDev k = true ↔ ∃ x ∈ s.teth.holding, x.1.val ≤ k.val := by
  simp [State.heldDev]

theorem State.heldDev_false_iff (k : Fin 4) : s.heldDev k = false ↔ ∀ x ∈ s.teth.holding, k.val < x.1.val := by
  simp [State.heldDev]

theorem exec_subordinateSilent (k : Fin 4) : exec (.subordinateSilent k) s = .next (
    if s.isMaster && decide (k.val ≠ 0) && s.teth.present.getLsbD k.val && !(s.heldDev k) then s.declare (s.beyond k.val) else s) := rfl

theorem exec_holdWindowExpiry (k : Fin 4) : exec (.holdWindowExpiry k) s = .next (
    if s.isMaster && (s.teth.holding.any fun x => x.1 == k) then s.declare (s.beyond k.val) else s) := rfl

theorem exec_chainJoinTimeout : exec .chainJoinTimeout s = .next (if s.isMaster && !s.map.mounted then
    s.declare (([1, 2, 3] : List (Fin 4)).filter fun k => decide (k.val < (s.bst.chain.map (·.n)).getD 1) && !s.teth.present.getLsbD k.val &&
      !s.teth.absent.getLsbD k.val)
    else s) := rfl

theorem exec_wakeBeacon : exec .wakeBeacon s =
    .next (if !s.isMaster && decide (s.sys.ps = 4) && !s.inReset then s.beginWake else s) := rfl

/-- A device at which nothing is outstanding takes no part, no message and no fanned-out line with it. -/
theorem State.loseDev_idle (hp : s.teth.parts = []) (ha : s.teth.admin = []) (hf : s.vault.fan = none) (k : Fin 4) :
    (s.loseDev k).teth = s.teth := by
  simp only [State.loseDev, hp, ha, hf, List.filter_nil, List.foldl_nil]
  split <;> rfl

/-- The marks of one device declared absent, before its losses are counted. -/
def State.markAbsent (s : State) (k : Fin 4) : State :=
  let u : State := { s with teth := { s.teth with
    absent := s.teth.absent ||| BitVec.ofNat 4 (2 ^ k.val)
    present := s.teth.present &&& ~~~BitVec.ofNat 4 (2 ^ k.val)
    holding := s.teth.holding.filter fun x => !([k].contains x.1)
    readyStandby := s.teth.readyStandby.filter fun x => !([k].contains x) } }
  if [k].contains 1 then { u with teth := u.teth.port .td fun q => { q with st := .absent } } else u

theorem State.declare_one (k : Fin 4) : s.declare [k] = ((s.markAbsent k).loseDev k).raise 43 := by
  simp [State.declare, State.markAbsent, sumNat]

/-- The marks name exactly the device, and leave what may be outstanding at it. -/
theorem State.markAbsent_marks (k : Fin 4) :
    (s.markAbsent k).teth.absent.getLsbD k.val = true ∧ (s.markAbsent k).teth.present.getLsbD k.val = false ∧
    (s.markAbsent k).teth.parts = s.teth.parts ∧ (s.markAbsent k).teth.admin = s.teth.admin ∧ (s.markAbsent k).vault.fan = s.vault.fan := by
  have hbit : (BitVec.ofNat 4 (2 ^ k.val)).getLsbD k.val = true := by revert k; decide
  have habsent : (s.teth.absent ||| BitVec.ofNat 4 (2 ^ k.val)).getLsbD k.val = true := by rw [BitVec.getLsbD_or, hbit, Bool.or_true]
  have hpresent : (s.teth.present &&& ~~~BitVec.ofNat 4 (2 ^ k.val)).getLsbD k.val = false := by
    rw [BitVec.getLsbD_and, BitVec.getLsbD_not, hbit, Bool.not_true, Bool.and_false, Bool.and_false]
  unfold State.markAbsent
  split <;> exact ⟨habsent, hpresent, rfl, rfl, rfl⟩

end

end Sys2Proof.Machine

namespace Sys2Proof
open Machine

/-- Settles O41: each order at the device it names by the device's role, and each timer of the loss of a device by its condition. -/
theorem tetherOrders : Obligations.TetherOrders := by
  refine ⟨fun s p f arg r hd hm => ⟨?_, fun harg => ?_, fun h3 h4 => ?_, fun o ho => exec_orderAbort_found r hd ho, exec_orderAbort_none r hd,
      fun hswap => ?_, fun hswap => ?_, ?_⟩,
    fun s p f arg r hd hm => ⟨?_, ?_, ?_, ?_⟩,
    fun s => ⟨fun p f arg r hd hm => ⟨fun t ht hasked hnew => ?_, fun t ht h => ?_, fun t ht hsrc => ?_, fun hsrc => ?_, fun t ht => ?_⟩,
      fun p f arg r hd hm => ⟨?_, ?_, ?_⟩, fun k hm hk hpres hheld => ?_, fun k h => ?_, fun k h => ?_, fun h => ?_, fun h => ?_, fun k hm hheld => ?_,
      fun hm hmount => ?_, fun hm hps hrst => ?_⟩⟩
  · rw [exec_orderReset_here r hd, if_neg (by simp [hm])]
  · rw [exec_orderStandby_here r hd, if_pos ⟨hm, harg⟩]
  · rw [exec_orderStandby_here r hd, if_neg fun h => h.2.elim h3 h4]
  · rw [exec_orderActivate_here r hd, if_pos ⟨hm, hswap⟩]
  · rw [exec_orderActivate_here r hd, if_neg fun h => by rw [hswap] at h; exact nomatch h.2]
  · rw [exec_orderState_here r hd]
    exact congrArg _ (State.takeState_subordinate arg hm)
  · rw [exec_orderReset_here r hd, if_pos hm]
  · rw [exec_orderStandby_here r hd, if_neg (by simp [hm])]
  · rw [exec_orderState_here r hd]
    exact congrArg _ (State.takeState_master arg hm)
  · rw [exec_orderActivate_here r hd, if_neg (by simp [hm])]
  · subst ht
    rw [exec_orderStandbyReady_here r hd, if_pos ⟨hm, hasked, hnew⟩]
  · subst ht
    rw [exec_orderStandbyReady_here r hd, if_neg fun ⟨_, hasked, hnew⟩ => h.elim (· hasked) fun hin => by rw [hin] at hnew; cases hnew]
  · subst ht
    rw [exec_orderHold_here r hd, if_pos ⟨hm, hsrc⟩]
    rfl
  · rw [exec_orderHold_here r hd, if_neg (by simp [hsrc])]
  · subst ht
    rw [exec_orderReady_here r hd, if_pos hm]
    rfl
  · rw [exec_orderStandbyReady_here r hd, if_neg (by simp [hm])]
  · rw [exec_orderHold_here r hd, if_neg (by simp [hm])]
  · rw [exec_orderReady_here r hd, if_neg (by simp [hm])]
  · rw [exec_subordinateSilent, if_pos (by simp [hm, hk, hpres, (State.heldDev_false_iff k).2 hheld])]
  · rw [exec_subordinateSilent]
    obtain hm | hk | hpres | hheld := h
    · simp [hm]
    · simp [hk]
    · rw [hpres]; simp
    · simp [(State.heldDev_iff k).2 hheld]
  · rw [exec_holdWindowExpiry, if_neg (by rcases h with h | h <;> simp [h])]
  · rw [exec_chainJoinTimeout, if_neg (by rcases h with h | h <;> simp [h])]
  · rw [exec_wakeBeacon, if_neg (by rcases h with h | h | h <;> simp [h])]
  · rw [exec_holdWindowExpiry, if_pos (by simp [hm, hheld])]
  · rw [exec_chainJoinTimeout, if_pos (by simp [hm, hmount])]
  · rw [exec_wakeBeacon, if_pos (by simp [hm, hps, hrst])]

/-- Settles O42: the marks are set before the device's losses are counted, and with nothing outstanding these leave them. -/
theorem lostDevices : Obligations.LostDevices := by
  intro s k hparts hadmin hfan
  obtain ⟨habsent, hpresent, hkeepParts, hkeepAdmin, hkeepFan⟩ := State.markAbsent_marks (s := s) k
  have hteth : ((s.markAbsent k).loseDev k).teth = (s.markAbsent k).teth :=
    State.loseDev_idle (hkeepParts.trans hparts) (hkeepAdmin.trans hadmin) (hkeepFan.trans hfan) k
  rw [State.declare_one, State.raise_teth, hteth, State.trb_raise _ _ _ (by decide)]
  exact ⟨by simp, habsent, hpresent⟩

end Sys2Proof
end

section
/-! What a step keeps. -/

namespace Sys2Proof
open Machine

/-- Settles O3: every row keeps a sound state sound (`step_kept`). -/
theorem stepKeepsSound : Obligations.StepKeepsSound :=
  fun _ t hwf hstep => (step_kept hwf t hstep).2

end Sys2Proof
end

section
/-! Queue commands, Abort and Asynchronous Event Request (R63, R65, R68, R82). -/

namespace Sys2Proof.Machine

section
variable {s : State} {h : Hdr}

theorem exec_createIoCq {qid qsize iv : BitVec 16} (p : s.takes h (.createIoCq h qid qsize true iv) = true) :
    let t : State := s.taken h (.createIoCq h qid qsize true iv)
    qidBad qid.toNat (Store.has t.front.cqs qid.toNat) = false → 1 ≤ qsize.toNat → qsize.toNat ≤ 4095 → iv.toNat ≤ 128 →
    exec (.createIoCq h qid qsize true iv) s = .next (State.good { t with front := { t.front with
      cqs := Store.ins qid.toNat { size := qsize.toNat + 1, iv := iv.toNat, tail := 0, head := 0 } t.front.cqs } } h) := by
  intro t hq hmin hmax hiv
  rw [exec_taken rfl p, if_neg (by rw [hq]; decide), if_neg (by omega), if_neg (by decide), if_neg (by omega)]

theorem exec_createIoSq {qid qsize cqid : BitVec 16} (p : s.takes h (.createIoSq h qid qsize true cqid) = true) :
    let t : State := s.taken h (.createIoSq h qid qsize true cqid)
    qidBad qid.toNat (Store.has t.front.sqs qid.toNat) = false → 1 ≤ qsize.toNat → qsize.toNat ≤ 4095 → Store.has t.front.cqs cqid.toNat = true →
    exec (.createIoSq h qid qsize true cqid) s = .next (State.good { t with front := { t.front with
      sqs := Store.ins qid.toNat { size := qsize.toNat + 1, cq := cqid.toNat, head := 0, tail := 0 } t.front.sqs } } h) := by
  intro t hq hmin hmax hcq
  rw [exec_taken rfl p, if_neg (by rw [hq]; decide), if_neg (by omega), if_neg (by decide), if_neg (by simp [t, hcq])]

/-- With no command of its own outstanding a submission queue just goes. -/
theorem exec_deleteIoSq_idle {qid : BitVec 16} (p : s.takes h (.deleteIoSq h qid) = true) :
    let t : State := s.taken h (.deleteIoSq h qid)
    qid.toNat ≠ 0 → Store.has t.front.sqs qid.toNat = true → (t.front.ctxs.any fun c => c.hdr.sqid.val == qid.toNat) = false →
    exec (.deleteIoSq h qid) s = .next (State.good { t with front := { t.front with sqs := t.front.sqs.del qid.toNat } } h) := by
  intro t hne hhas hidle
  have hnone : t.front.ctxs.filter (fun c => c.hdr.sqid.val == qid.toNat) = [] :=
    List.filter_eq_nil_iff.2 fun c hc => List.any_eq_false.1 hidle c hc
  rw [exec_taken rfl p, if_neg (by simp [t, hne, hhas])]
  simp only [t, hnone, List.map_nil, List.foldl_nil]

section
variable {qid : BitVec 16} (p : s.takes h (.deleteIoCq h qid) = true)
include p

/-- A completion queue that a submission queue still uses stays. -/
theorem exec_deleteIoCq_used :
    let t : State := s.taken h (.deleteIoCq h qid)
    qid.toNat ≠ 0 → Store.has t.front.cqs qid.toNat = true → (t.front.sqs.any fun e => e.2.cq == qid.toNat) = true →
    exec (.deleteIoCq h qid) s = .next (t.done h .deletionInvalid) := by
  intro t hne hhas hused
  rw [exec_taken rfl p, if_neg (by simp [t, hne, hhas]), if_pos hused]

theorem exec_deleteIoCq_free :
    let t : State := s.taken h (.deleteIoCq h qid)
    qid.toNat ≠ 0 → Store.has t.front.cqs qid.toNat = true → (t.front.sqs.any fun e => e.2.cq == qid.toNat) = false → t.front.cqWait = [] →
    exec (.deleteIoCq h qid) s = .next (State.good { t with front := { t.front with cqs := t.front.cqs.del qid.toNat } } h) := by
  intro t hne hhas hunused hwait
  have hkeep (cqs : Store ComQueue) : ({ t.front with cqs := cqs, cqWait := [] } : Front) = { t.front with cqs := cqs } := by rw [← hwait]
  rw [exec_taken rfl p, if_neg (by simp [t, hne, hhas]), if_neg (by rw [hunused]; decide), hwait, List.filter_nil, hkeep]

end

section
variable {sqid cid : BitVec 16} (p : s.takes h (.abort h sqid cid) = true)
include p

/-- A command with no part elsewhere is stopped and completed at once. -/
theorem exec_abort_here {c : Ctx} :
    let t : State := s.taken h (.abort h sqid cid)
    t.front.aborts.length < 4 →
    (t.front.ctxs.find? fun c => c.hdr.sqid.val == sqid.toNat && c.hdr.cid == cid && c.hdr != h) = some c → c.parts = [] →
    exec (.abort h sqid cid) s = .next (((t.stopCommand c.hdr).done c.hdr .aborted).good h) := by
  intro t hroom hfind hparts
  rw [exec_taken rfl p, if_neg (Nat.not_le.2 hroom)]
  simp only [t] at hfind
  simp only [hfind, hparts, List.isEmpty_nil, if_true, t]

theorem exec_abort_none :
    let t : State := s.taken h (.abort h sqid cid)
    t.front.aborts.length < 4 → (t.front.ctxs.find? fun c => c.hdr.sqid.val == sqid.toNat && c.hdr.cid == cid && c.hdr != h) = none →
    exec (.abort h sqid cid) s = .next (t.done h .success 1) := by
  intro t hroom hfind
  rw [exec_taken rfl p, if_neg (Nat.not_le.2 hroom)]
  simp only [t] at hfind
  simp only [hfind, t]

end

section
variable (p : s.takes h (.asyncEventRequest h) = true)
include p

theorem exec_asyncEventRequest_held (hroom : (s.taken h (.asyncEventRequest h)).front.aers.length < 8)
    (hnone : (s.taken h (.asyncEventRequest h)).front.events = []) :
    ∃ u : State, exec (.asyncEventRequest h) s = .next u ∧ u.front.aers = (s.taken h (.asyncEventRequest h)).front.aers ++ [h] := by
  rw [exec_taken rfl p, if_neg (Nat.not_le.2 hroom)]
  simp only [hnone]
  exact ⟨_, rfl, Front.ltrTick_aers _⟩

/-- The oldest event kept answers a request. -/
theorem exec_asyncEventRequest_answered (hroom : (s.taken h (.asyncEventRequest h)).front.aers.length < 8) {e : AsyncEvent}
    {rest : List AsyncEvent} (hkept : (s.taken h (.asyncEventRequest h)).front.events = e :: rest) :
    let t : State := s.taken h (.asyncEventRequest h)
    exec (.asyncEventRequest h) s =
      .next (State.done { t with front := { t.front with events := rest } } h .success (e.kind + e.info * 256 + e.page * 65536)) := by
  intro t
  rw [exec_taken rfl p, if_neg (Nat.not_le.2 hroom)]
  simp only [hkept, t]

theorem exec_asyncEventRequest_limit (hfull : 8 ≤ (s.taken h (.asyncEventRequest h)).front.aers.length) :
    exec (.asyncEventRequest h) s = .next ((s.taken h (.asyncEventRequest h)).done h .aerLimit) := by
  rw [exec_taken rfl p, if_pos hfull]

end

end

end Sys2Proof.Machine

namespace Sys2Proof
open Machine

/-- Settles O20: each command passes its checks in the state it is taken in, and what stands in Front there decides between its ends. -/
theorem queueAndAbortCommands : Obligations.QueueAndAbortCommands := by
  refine ⟨fun s h qid qsize iv cqid => ⟨exec_createIoCq, exec_createIoSq, exec_deleteIoSq_idle, exec_deleteIoCq_used, exec_deleteIoCq_free⟩,
    fun s h => ⟨fun sqid cid c p => exec_abort_here p, fun sqid cid p => exec_abort_none p, fun p => ?_, exec_asyncEventRequest_limit⟩⟩
  intro t hroom
  exact ⟨exec_asyncEventRequest_held p hroom, fun e rest hkept => exec_asyncEventRequest_answered p hroom hkept⟩

end Sys2Proof
end

section
/-! Admin commands that change what a device holds: namespaces, Format, sanitize and firmware images (R71 to R74, R403, R514). -/

namespace Sys2Proof.Machine

/-! ### Carried to the chain (R403) -/

section
variable {t : State} {h : Hdr} {i : Instr}

theorem State.adminRun_absent (ha : t.chainAbsent = true) : t.adminRun h i = t.done h .internalDnr := if_pos ha

/-- On a chain of one device the work is done here, and its status completes the command. -/
theorem State.adminRun_alone (ha : t.chainAbsent = false) (hn : t.chainN = 1) {st : NStat} {dw0 : Nat} {u : State}
    (hwork : t.adminHere i = (st, dw0, u)) :
    t.adminRun h i = State.done { u with front := { u.front with formatting := [] } } h st dw0 := by
  unfold State.adminRun
  rw [if_neg (by rw [ha]; decide), if_pos hn, State.adminFinish, hwork]

section
variable (ha : t.chainAbsent = false) (hn : t.chainN ≠ 1)
include ha hn

theorem State.adminRun_chain (hi : ∀ (x : Hdr) (nsid : Word) (lbaf : BitVec 4) (ses : BitVec 3), i ≠ .formatNvm x nsid lbaf ses) :
    t.adminRun h i = t.presentSubs.foldl (fun (v : State) (k : Fin 4) => v.adminSend h i (t.adminBody i) k) t := by
  unfold State.adminRun
  rw [if_neg (by rw [ha]; decide), if_neg hn]
  split
  next x nsid lbaf ses => exact absurd rfl (hi x nsid lbaf ses)
  · rfl

/-- A Format that is carried marks its namespaces first. -/
theorem State.adminRun_chain_format (x : Hdr) (nsid : Word) (lbaf : BitVec 4) (ses : BitVec 3) :
    let u : State := { t with front := { t.front with formatting := (t.formatNs nsid).map (·.1) } }
    t.adminRun h (.formatNvm x nsid lbaf ses) = u.presentSubs.foldl (fun (v : State) (k : Fin 4) =>
      v.adminSend h (.formatNvm x nsid lbaf ses) (t.adminBody (.formatNvm x nsid lbaf ses)) k) u := by
  intro u
  unfold State.adminRun
  rw [if_neg (by rw [ha]; decide), if_neg hn]

end

end

/-! ### What each command does on this device -/

section
variable {t : State} {x : Hdr}

theorem State.adminHere_namespaceCreate {gib : Nat} {fl : BitVec 4} {n : Fin 8} {u : State} (hn : t.freeNs = some n)
    (hu : t.nsCreateHere n gib (fl == 1) = (.success, u)) : t.adminHere (.namespaceCreate x gib fl) = (.success, n.val + 1, u) := by
  simp only [State.adminHere, hn, hu, if_true]

theorem State.adminHere_namespaceDelete {nsid : Word} {n : Fin 8} {r : NsRec} (hns : t.nsOf nsid = some (n, r)) :
    t.adminHere (.namespaceDelete x nsid) = (.success, 0, t.nsDeleteHere n) := by simp only [State.adminHere, hns]

/-- A Format of one namespace. -/
theorem State.formatNs_one {nsid : Word} {n : Fin 8} {r : NsRec} (hall : nsid ≠ 0xFFFFFFFF) (hns : t.nsOf nsid = some (n, r)) :
    t.formatNs nsid = [(n, r)] := by
  have hone : (fnaAll || nsid == 0xFFFFFFFF) = false := beq_eq_false_iff_ne.2 hall
  rw [State.formatNs, hone, hns]; rfl

theorem State.adminHere_formatNvm {nsid : Word} {lbaf : BitVec 4} {ses : BitVec 3} {n : Fin 8} {r : NsRec} (hl : t.formatNs nsid = [(n, r)]) :
    t.adminHere (.formatNvm x nsid lbaf ses) = (.success, 0, t.formatHere [n] (lbaf == 1) ses.toNat) := by
  simp only [State.adminHere, hl, List.map_cons, List.map_nil]

theorem State.adminHere_sanitizeCryptoErase : t.adminHere (.sanitizeCryptoErase x) = (.success, 0, t.cryptoHere) := rfl

theorem State.adminHere_sanitizeBlockErase : t.adminHere (.sanitizeBlockErase x) = (.success, 0, t.blockEraseHere.sanitizeEnd) := rfl

theorem State.adminHere_firmwareImageDownload {off len : Nat} {bytes : List Byte} {st : NStat} {u : State}
    (hu : t.downloadHere off len (bytes.map fun b : Byte => b.toNat) = (st, u)) :
    t.adminHere (.firmwareImageDownload x off len bytes) = (st, 0, u) := by simp only [State.adminHere, hu]

theorem State.adminHere_firmwareCommit {slot action : BitVec 3} {ok : Bool} {st : NStat} {u : State}
    (hu : t.commitHere slot.toNat action.toNat ok = (st, u)) : t.adminHere (.firmwareCommit x slot action ok) = (st, 0, u) := by
  simp only [State.adminHere, hu]

end

/-! ### Firmware Commit (R74, R514) -/

section
variable {t : State} {slot action : Nat} {ok : Bool}

theorem State.commitHere_action (h : 2 < action) : t.commitHere slot action ok = (.invalidField, t) := if_pos h

theorem State.commitHere_slot (h : action ≤ 2) (hs : slot = 0 ∨ 2 < slot) : t.commitHere slot action ok = (.fwSlot, t) := by
  rw [State.commitHere, if_neg (by omega), if_pos hs]

variable {twin : Twin} (hslot : slot = if twin = .a then 1 else 2)
include hslot

/-- Of a slot that holds an image, the one that runs goes apart from the other. -/
theorem State.commitHere_twin (ha : action ≤ 2) : t.commitHere slot action ok =
    if twin = t.bst.active then (if action = 2 then (.success, t) else (.fwSlot, t))
    else if !ok then (.fwImage, t)
    else if action = 0 then (.success, t)
    else (.success, t.swapPend twin true) := by
  subst hslot
  cases twin <;> exact (if_neg (Nat.not_lt.2 ha)).trans rfl

theorem State.commitHere_running (ht : twin = t.bst.active) :
    (action = 2 → t.commitHere slot action ok = (.success, t)) ∧ (action < 2 → t.commitHere slot action ok = (.fwSlot, t)) := by
  refine ⟨fun ha => ?_, fun ha => ?_⟩
  · rw [State.commitHere_twin hslot (by omega), if_pos ht, if_pos ha]
  · rw [State.commitHere_twin hslot (by omega), if_pos ht, if_neg (by omega)]

theorem State.commitHere_other (ht : twin ≠ t.bst.active) (ha : action ≤ 2) :
    (ok = false → t.commitHere slot action ok = (.fwImage, t)) ∧
    (ok = true → action = 0 → t.commitHere slot action ok = (.success, t)) ∧
    (ok = true → action ≠ 0 → t.commitHere slot action ok = (.success, t.swapPend twin true)) := by
  rw [State.commitHere_twin hslot ha, if_neg ht]
  refine ⟨fun hok => by rw [hok]; rfl, fun hok h0 => ?_, fun hok h0 => ?_⟩
  · rw [hok, if_neg (by decide), if_pos h0]
  · rw [hok, if_neg (by decide), if_neg h0]

end

/-! ### The rows, up to their checks -/

section
variable {s : State} {h : Hdr}

/-- The row of Namespace Create in the state it is taken in. -/
theorem exec_namespaceCreate {gib : Nat} {fl : BitVec 4} (p : s.takes h (.namespaceCreate h gib fl) = true) :
    let t : State := s.taken h (.namespaceCreate h gib fl)
    (t.locked = true → exec (.namespaceCreate h gib fl) s = .next (t.done h .denied)) ∧
    (t.locked = false → 1 < fl.toNat → exec (.namespaceCreate h gib fl) s = .next (t.done h .formatInvalid)) ∧
    (t.locked = false → fl.toNat ≤ 1 → (gib = 0 ∨ t.stripeDiffers = true) → exec (.namespaceCreate h gib fl) s = .next (t.done h .invalidField)) ∧
    (t.locked = false → fl.toNat ≤ 1 → 0 < gib → t.stripeDiffers = false →
      (t.freeNs = none → exec (.namespaceCreate h gib fl) s = .next (t.done h .nsidUnavailable)) ∧
      (t.freeNs ≠ none → t.freeUnits.length < ceilDiv gib t.chainN → exec (.namespaceCreate h gib fl) s = .next (t.done h .capacity)) ∧
      (t.freeNs ≠ none → ceilDiv gib t.chainN ≤ t.freeUnits.length →
        exec (.namespaceCreate h gib fl) s = .next (t.adminRun h (.namespaceCreate h gib fl)))) := by
  intro t
  rw [exec_taken rfl p]
  refine ⟨fun hl => ?_, fun hl hf => ?_, fun hl hf hg => ?_, fun hl hf hg hst => ⟨fun hn => ?_, fun hn hu => ?_, fun hn hu => ?_⟩⟩
  · rw [if_pos hl]
  · rw [if_neg (ne_true_of_eq_false hl), if_pos hf]
  · rw [if_neg (ne_true_of_eq_false hl), if_neg (Nat.not_lt.2 hf), if_pos hg]
  all_goals
    have hok : ¬ (gib = 0 ∨ t.stripeDiffers = true) := by simp [hst]; omega
    rw [if_neg (ne_true_of_eq_false hl), if_neg (Nat.not_lt.2 hf), if_neg hok]
  · rw [if_pos (Option.isNone_iff_eq_none.2 hn)]
  · rw [if_neg (mt Option.isNone_iff_eq_none.1 hn), if_pos hu]
  · rw [if_neg (mt Option.isNone_iff_eq_none.1 hn), if_neg (Nat.not_lt.2 hu)]

theorem exec_namespaceDelete {nsid : Word} (p : s.takes h (.namespaceDelete h nsid) = true) :
    let t : State := s.taken h (.namespaceDelete h nsid)
    (t.locked = true → exec (.namespaceDelete h nsid) s = .next (t.done h .denied)) ∧
    (t.locked = false → t.nsOf nsid = none → nsid ≠ 0xFFFFFFFF → exec (.namespaceDelete h nsid) s = .next (t.done h .invalidNs)) ∧
    (t.locked = false → (t.nsOf nsid ≠ none ∨ nsid = 0xFFFFFFFF) →
      exec (.namespaceDelete h nsid) s = .next (t.adminRun h (.namespaceDelete h nsid))) := by
  intro t
  rw [exec_taken rfl p]
  refine ⟨fun hl => ?_, fun hl hn hall => ?_, fun hl hn => ?_⟩
  · rw [if_pos hl]
  · rw [if_neg (ne_true_of_eq_false hl), if_pos ⟨Option.isNone_iff_eq_none.2 hn, hall⟩]
  · rw [if_neg (ne_true_of_eq_false hl), if_neg fun hc => hn.elim (· (Option.isNone_iff_eq_none.1 hc.1)) hc.2]

theorem exec_namespaceAttachment {nsid : Word} {attach : Bool} (p : s.takes h (.namespaceAttachment h nsid attach) = true) :
    let t : State := s.taken h (.namespaceAttachment h nsid attach)
    (t.locked = true → exec (.namespaceAttachment h nsid attach) s = .next (t.done h .denied)) ∧
    (t.locked = false → t.nsOf nsid = none → exec (.namespaceAttachment h nsid attach) s = .next (t.done h .invalidNs)) ∧
    (∀ (i : Fin 8) (r : NsRec), t.locked = false → t.nsOf nsid = some (i, r) →
      (r.attached = attach → exec (.namespaceAttachment h nsid attach) s = .next (t.done h (if attach then .attached else .notAttached))) ∧
      (r.attached = !attach → exec (.namespaceAttachment h nsid attach) s =
        .next (State.good (State.nsNotice { t with map := { t.map with ns := setAt t.map.ns i (some { r with attached := attach }) } } i) h))) := by
  intro t
  rw [exec_taken rfl p]
  refine ⟨fun hl => ?_, fun hl hn => ?_, fun i r hl hn => ⟨fun ha => ?_, fun ha => ?_⟩⟩
  · rw [if_pos hl]
  all_goals rw [if_neg (ne_true_of_eq_false hl)]; simp only [t] at hn; simp only [hn, t]
  · cases attach <;> simp [ha]
  · cases attach <;> simp [ha]

/-- The row of Format in the state it is taken in. -/
theorem exec_formatNvm {nsid : Word} {lbaf : BitVec 4} {ses : BitVec 3} (p : s.takes h (.formatNvm h nsid lbaf ses) = true) :
    let t : State := s.taken h (.formatNvm h nsid lbaf ses)
    (t.locked = true → ses.toNat < 2 → exec (.formatNvm h nsid lbaf ses) s = .next (t.done h .denied)) ∧
    ((t.locked = false ∨ 2 ≤ ses.toNat) →
      (2 < ses.toNat → exec (.formatNvm h nsid lbaf ses) s = .next (t.done h .invalidField)) ∧
      (ses.toNat ≤ 2 → 1 < lbaf.toNat → exec (.formatNvm h nsid lbaf ses) s = .next (t.done h .formatInvalid)) ∧
      (ses.toNat ≤ 2 → lbaf.toNat ≤ 1 → t.formatNs nsid = [] → exec (.formatNvm h nsid lbaf ses) s = .next (t.done h .invalidNs)) ∧
      (ses.toNat ≤ 2 → lbaf.toNat ≤ 1 → t.formatNs nsid ≠ [] → t.sanitizing = true →
        exec (.formatNvm h nsid lbaf ses) s = .next (t.done h .sanitizing)) ∧
      (ses.toNat = 0 → lbaf.toNat ≤ 1 → t.sanitizing = false → (∃ x ∈ t.formatNs nsid, x.2.lba4k ≠ (lbaf == 1) ∧ t.written x.2 = true) →
        exec (.formatNvm h nsid lbaf ses) s = .next (t.done h .formatInvalid)) ∧
      (ses.toNat ≤ 2 → lbaf.toNat ≤ 1 → t.formatNs nsid ≠ [] → t.sanitizing = false →
        (ses.toNat = 0 → ∀ x ∈ t.formatNs nsid, x.2.lba4k = (lbaf == 1) ∨ t.written x.2 = false) →
        exec (.formatNvm h nsid lbaf ses) s = .next (t.adminRun h (.formatNvm h nsid lbaf ses)))) := by
  intro t
  rw [exec_taken rfl p]
  have hzero : ses = 0 ↔ ses.toNat = 0 := by rw [← BitVec.toNat_inj]; rfl
  refine ⟨fun hl hs => by rw [if_pos ⟨hl, hs⟩], fun hopen => ?_⟩
  have hgo : ¬ (t.locked = true ∧ ses.toNat < 2) := fun ⟨hl, hs⟩ =>
    hopen.elim (fun ho => absurd hl (ne_true_of_eq_false ho)) (Nat.not_le.2 hs)
  rw [if_neg hgo]
  refine ⟨fun hs => ?_, fun hs hf => ?_, fun hs hf hl => ?_, fun hs hf hl hsan => ?_, fun hs hf hsan hw => ?_, fun hs hf hl hsan hw => ?_⟩
  · rw [if_pos hs]
  · rw [if_neg (Nat.not_lt.2 hs), if_pos hf]
  · rw [if_neg (Nat.not_lt.2 hs), if_neg (Nat.not_lt.2 hf), if_pos (List.isEmpty_iff.2 hl)]
  · rw [if_neg (Nat.not_lt.2 hs), if_neg (Nat.not_lt.2 hf), if_neg (mt List.isEmpty_iff.1 hl), if_pos hsan]
  · obtain ⟨x, hx, hform, hwritten⟩ := hw
    rw [if_neg (by omega), if_neg (Nat.not_lt.2 hf), if_neg (mt List.isEmpty_iff.1 (List.ne_nil_of_mem hx)), if_neg (ne_true_of_eq_false hsan),
      if_pos ⟨hzero.2 hs, List.any_eq_true.2 ⟨x, hx, Bool.and_eq_true_iff.2 ⟨bne_iff_ne.2 hform, hwritten⟩⟩⟩]
  · have hfit : ¬ (ses = 0 ∧ ((t.formatNs nsid).any fun x => x.2.lba4k != (lbaf == 1) && t.written x.2) = true) := by
      rintro ⟨h0, hany⟩
      obtain ⟨x, hx, hbad⟩ := List.any_eq_true.1 hany
      rcases hw (hzero.1 h0) x hx with hk | hk <;> simp [hk] at hbad
    rw [if_neg (Nat.not_lt.2 hs), if_neg (Nat.not_lt.2 hf), if_neg (mt List.isEmpty_iff.1 hl), if_neg (ne_true_of_eq_false hsan), if_neg hfit]

theorem exec_sanitizeCryptoErase (p : s.takes h (.sanitizeCryptoErase h) = true) :
    let t : State := s.taken h (.sanitizeCryptoErase h)
    (t.sanitizing = true → exec (.sanitizeCryptoErase h) s = .next (t.done h .sanitizing)) ∧
    (t.sanitizing = false → exec (.sanitizeCryptoErase h) s = .next (t.adminRun h (.sanitizeCryptoErase h))) := by
  intro t
  rw [exec_taken rfl p]
  exact ⟨fun hs => by rw [if_pos hs], fun hs => by rw [if_neg (ne_true_of_eq_false hs)]⟩

theorem exec_sanitizeBlockErase (p : s.takes h (.sanitizeBlockErase h) = true) :
    let t : State := s.taken h (.sanitizeBlockErase h)
    (t.locked = true → exec (.sanitizeBlockErase h) s = .next (t.done h .denied)) ∧
    (t.locked = false → t.sanitizing = true → exec (.sanitizeBlockErase h) s = .next (t.done h .sanitizing)) ∧
    (t.locked = false → t.sanitizing = false → exec (.sanitizeBlockErase h) s = .next (t.adminRun h (.sanitizeBlockErase h))) := by
  intro t
  rw [exec_taken rfl p]
  refine ⟨fun hl => by rw [if_pos hl], fun hl hs => ?_, fun hl hs => ?_⟩
  · rw [if_neg (ne_true_of_eq_false hl), if_pos hs]
  · rw [if_neg (ne_true_of_eq_false hl), if_neg (ne_true_of_eq_false hs)]

theorem downloadBad_iff (off len : Nat) :
    downloadBad off len = true ↔ off % 4096 ≠ 0 ∨ len % 4096 ≠ 0 ∨ len = 0 ∨ 1572864 < off + len := by
  simp [downloadBad, or_assoc]

theorem exec_firmwareImageDownload {off len : Nat} {bytes : List Byte} (p : s.takes h (.firmwareImageDownload h off len bytes) = true) :
    let t : State := s.taken h (.firmwareImageDownload h off len bytes)
    ((off % 4096 ≠ 0 ∨ len % 4096 ≠ 0 ∨ len = 0 ∨ 1572864 < off + len) →
      exec (.firmwareImageDownload h off len bytes) s = .next (t.done h .invalidField)) ∧
    (off % 4096 = 0 → len % 4096 = 0 → 0 < len → off + len ≤ 1572864 →
      exec (.firmwareImageDownload h off len bytes) s = .next (t.adminRun h (.firmwareImageDownload h off len bytes))) := by
  intro t
  rw [exec_taken rfl p]
  refine ⟨fun hbad => by rw [if_pos ((downloadBad_iff off len).2 hbad)], fun hoff hlen hpos hin => ?_⟩
  rw [if_neg (mt (downloadBad_iff off len).1 (by omega))]

theorem exec_firmwareCommit {slot action : BitVec 3} {ok : Bool} (p : s.takes h (.firmwareCommit h slot action ok) = true) :
    let t : State := s.taken h (.firmwareCommit h slot action ok)
    (t.locked = true → exec (.firmwareCommit h slot action ok) s = .next (t.done h .denied)) ∧
    (t.locked = false → 2 < action.toNat → exec (.firmwareCommit h slot action ok) s = .next (t.done h .invalidField)) ∧
    (t.locked = false → action.toNat ≤ 2 →
      exec (.firmwareCommit h slot action ok) s = .next (t.adminRun h (.firmwareCommit h slot action ok))) := by
  intro t
  rw [exec_taken rfl p]
  refine ⟨fun hl => by rw [if_pos hl], fun hl ha => ?_, fun hl ha => ?_⟩
  · rw [if_neg (ne_true_of_eq_false hl), if_pos ha]
  · rw [if_neg (ne_true_of_eq_false hl), if_neg (Nat.not_lt.2 ha)]

end

end Sys2Proof.Machine

namespace Sys2Proof
open Machine

/-- Settles O22: a row's checks end it or hand it to the chain; on a chain of one device the work done here completes it. -/
theorem namespaceAndFirmwareCommands : Obligations.NamespaceAndFirmwareCommands := by
  refine ⟨fun s h => ⟨fun gib fl n u p => ?_, fun nsid n r p => ?_, fun nsid attach i r p => ?_, fun nsid lbaf ses n r p => ?_, fun p => ?_,
      fun p => ?_, fun p => exec_taken rfl p⟩,
    fun s h => ⟨fun off len bytes u p => ?_, fun slot action ok st u p => ?_, fun slot action ok t => ⟨State.commitHere_action,
      State.commitHere_slot, fun twin hslot => ?_⟩⟩,
    fun s h => ⟨fun gib fl p => exec_namespaceCreate p, fun nsid p => exec_namespaceDelete p, fun nsid attach p => ?_,
      fun nsid lbaf ses p => exec_formatNvm p, exec_sanitizeCryptoErase, exec_sanitizeBlockErase,
      fun off len bytes p => exec_firmwareImageDownload p, fun slot action ok p => exec_firmwareCommit p, fun t i => ?_⟩⟩
  · intro t hl hf hg hst hn hu h1 ha hwork
    obtain ⟨-, -, -, hrest⟩ := exec_namespaceCreate p
    rw [(hrest hl hf hg hst).2.2 (by rw [hn]; exact Option.some_ne_none n) hu,
      State.adminRun_alone ha h1 (State.adminHere_namespaceCreate hn hwork)]
  · intro t hl hns h1 ha
    rw [(exec_namespaceDelete p).2.2 hl (.inl (by rw [hns]; exact Option.some_ne_none _)),
      State.adminRun_alone ha h1 (State.adminHere_namespaceDelete hns)]
    rfl
  · intro t hl hns hatt
    exact ((exec_namespaceAttachment p).2.2 i r hl hns).2 hatt
  · intro t hl hses hf hall hns hsan hfit h1 ha
    have hone : t.formatNs nsid = [(n, r)] := State.formatNs_one hall hns
    obtain ⟨-, hopen⟩ := exec_formatNvm p
    obtain ⟨-, -, -, -, -, hrun⟩ := hopen (hl.imp_right Eq.ge)
    rw [hrun hses hf (by rw [hone]; simp) hsan (fun h0 y hy => by rw [hone] at hy; obtain rfl := List.mem_singleton.1 hy; exact hfit h0),
      State.adminRun_alone ha h1 (State.adminHere_formatNvm hone)]
    rfl
  · intro t hs h1 ha
    rw [(exec_sanitizeCryptoErase p).2 hs, State.adminRun_alone ha h1 State.adminHere_sanitizeCryptoErase]; rfl
  · intro t hs hl h1 ha
    rw [(exec_sanitizeBlockErase p).2.2 hl hs, State.adminRun_alone ha h1 State.adminHere_sanitizeBlockErase]; rfl
  · intro t hoff hlen hpos hin h1 ha hwork
    rw [(exec_firmwareImageDownload p).2 hoff hlen hpos hin, State.adminRun_alone ha h1 (State.adminHere_firmwareImageDownload hwork)]; rfl
  · intro t hact hl h1 ha hwork
    rw [(exec_firmwareCommit p).2.2 hl hact, State.adminRun_alone ha h1 (State.adminHere_firmwareCommit hwork)]
  · obtain hrun | hother := eq_or_ne twin t.bst.active
    · have hends := State.commitHere_running (ok := ok) (action := action.toNat) hslot hrun
      exact ⟨fun _ => hends.1, fun _ => hends.2, fun hne => absurd hrun hne, fun hne => absurd hrun hne, fun hne => absurd hrun hne⟩
    · refine ⟨fun he => absurd he hother, fun he => absurd he hother, fun _ ha hok => (State.commitHere_other hslot hother ha).1 hok,
        fun _ h0 hok => (State.commitHere_other hslot hother (by omega)).2.1 hok h0,
        fun _ h1 ha hok => (State.commitHere_other hslot hother ha).2.2 hok (by omega)⟩
  · obtain ⟨hl, hn, hns⟩ := exec_namespaceAttachment p
    exact ⟨hl, hn, fun i r hopen hfound => (hns i r hopen hfound).1⟩
  · exact ⟨State.adminRun_absent, fun st dw0 u ha h1 => State.adminRun_alone ha h1, fun ha h1 => State.adminRun_chain ha h1,
      fun x nsid lbaf ses ha h1 hi => by subst hi; exact State.adminRun_chain_format ha h1 x nsid lbaf ses⟩

end Sys2Proof
end

section
/-! The rows that request a reset of the part or of the controller (R54, R55, R61, R545, R546, R554). -/

namespace Sys2Proof.Machine

/-! ### Requests with no reset in progress (R549) -/

/-- With no reset in progress a source asserts its fused level. -/
theorem State.requestFused_free {s : State} (h : s.sys.rst = none) (src : Nat) :
    s.requestFused src = s.assertReset (s.raised (s.fuseLevel src)) src := State.requestReset_free h src _

theorem State.requestDown_free {s : State} (h : s.sys.rst = none) (src : Nat) :
    s.requestDown src = s.assertReset (s.raised (s.fuseLevel src)) src := by
  rw [State.requestDown, if_neg (by simp [h]), State.requestFused_free h]

/-- A request at level 0 is not raised. -/
theorem State.raised_zero (s : State) : s.raised 0 = 0 := if_neg (by simp)

/-! ### A supply that was away (R511, R579) -/

theorem State.bstSpoil_regs (s : State) : s.bstSpoil.regs = s.regs := by unfold State.bstSpoil; split <;> rfl

/-- The state that POWER_ON_RESET resets: what the boot store had under way or suspended is interrupted, and no rail is good. -/
def State.supplyLost (s : State) : State :=
  let s1 : State := s.bstSpoil
  let s2 : State := match s1.bst.suspended with
    | some sec => { s1 with bst := s1.bst.spoilSec sec s1.free, free := s1.free + 1 }
    | none => s1
  { s2 with
    bst := { s2.bst with op := .none, opCm := false, suspended := none, susCm := false, error := false, statusMode := false, toggle := false }
    sys := { s2.sys with railsGood := false, railMv := Vector.replicate 5 0 } }

theorem exec_powerOnReset (s : State) : exec .powerOnReset s = .next (s.supplyLost.assertReset 0 0) := rfl

theorem State.supplyLost_regs (s : State) : s.supplyLost.regs = s.regs := by
  rw [← s.bstSpoil_regs, State.supplyLost]
  cases s.bstSpoil.bst.suspended <;> rfl

/-! ### The rows -/

section
variable {s : State}

theorem exec_brownOut_monitored {rail : Rail} (hr : rail = .vcc33 ∨ rail = .vdd18 ∨ rail = .vddc) :
    exec (.brownOut rail) s = .next (State.requestDown { s with sys := { s.sys with railsGood := false } } 1) := by
  rcases hr with rfl | rfl | rfl <;> rfl

theorem exec_brownOut_unmonitored {rail : Rail} (hr : rail = .vphy ∨ rail = .vddqg) : exec (.brownOut rail) s = .next s := by
  rcases hr with rfl | rfl <;> rfl

theorem exec_rstNLow (s : State) :
    exec .rstNLow s = .next (State.requestDown { s with sys := { s.sys with rstN := false } } 2) := rfl

theorem exec_perstAsserted (s : State) :
    exec .perstAsserted s = .next (State.requestFused { s with sys := { s.sys with perst := false } } 3) := rfl

theorem exec_nvmSubsystemReset (v : Word) (s : State) : exec (.nvmSubsystemReset v) s =
    .next (if s.barUp ∧ v = 0x4E564D65 then s.accessWake.requestFused 6 else s) := rfl

theorem exec_flr (s : State) : exec .flr s = .next (if s.cfgUp then s.controllerReset 4 else s) := rfl

theorem exec_ccEnCleared (s : State) : exec .ccEnCleared s =
    .next (if s.barUp && s.front.en then s.accessWake.controllerReset 5 else s) := rfl

end

/-! ### The controller's reset (R61) -/

section
variable {s : State} {src : Nat}

/-- A source that the fuses give level 3 resets Front, with no image committed for the reset. -/
theorem State.controllerReset_three (hrst : s.sys.rst = none) (hswap : s.bst.pendingSwap = none) (hlevel : s.fuseLevel src = 3) :
    s.controllerReset src = s.assertReset 3 src := by
  have hraised := State.raised_of_no_swap hswap 3
  unfold State.controllerReset
  dsimp only
  rw [hlevel, hraised, if_neg (by simp), State.requestReset_free hrst, hraised]

/-- No order and no event go before a reset of level 3. -/
theorem State.resetOrders_three (s : State) (src : Nat) : (s.resetOrders 3 src).activating 3 = s := by
  simp [State.resetOrders, State.activating]

theorem State.recordReset_units (s : State) (level src count : Nat) : (s.recordReset level src count).front = s.front ∧
    (s.recordReset level src count).map = s.map ∧ (s.recordReset level src count).con = s.con := by
  unfold State.recordReset
  split <;> exact ⟨rfl, rfl, rfl⟩

/-- Front after a reset of level 3 is reset; of the map what lies in host memory goes, and the console stays. -/
theorem State.assertReset_three_units (s : State) (src : Nat) : (s.assertReset 3 src).front = s.front.resetNvme ∧
    (s.assertReset 3 src).map = { s.map with inHmb := [] } ∧ (s.assertReset 3 src).con = s.con := by
  unfold State.assertReset
  simp only [State.resetOrders_three, if_true]
  exact State.recordReset_units _ _ _ _

end

end Sys2Proof.Machine

namespace Sys2Proof
open Machine

/-- Settles O15: with no reset in progress every request asserts its source's level, and the reset of level 3 is that of Front's NVMe state. -/
theorem resetRows : Obligations.ResetRows := by
  refine ⟨fun s hrst => ⟨⟨s.supplyLost, exec_powerOnReset s, s.supplyLost_regs, rfl, rfl⟩, fun rail hr => ?_,
      fun rail => exec_brownOut_unmonitored, ?_, ?_, fun hbar hwake => ?_, fun hbar => ?_, fun v hv => ?_⟩,
    fun s => ⟨fun hcfg => ?_, fun hcfg => ?_, fun hbar hen => ?_, fun hoff => ?_, fun src => State.controllerReset_three, fun src => ?_⟩⟩
  · exact (exec_brownOut_monitored hr).trans (congrArg _ (State.requestDown_free (by exact hrst) 1))
  · refine (exec_rstNLow s).trans (congrArg _ ((State.requestDown_free (by exact hrst) 2).trans ?_))
    exact congrArg (State.assertReset _ · 2) (State.raised_zero _)
  · exact (exec_perstAsserted s).trans (congrArg _ (State.requestFused_free (by exact hrst) 3))
  · rw [exec_nvmSubsystemReset, if_pos ⟨hbar, rfl⟩, State.requestFused_free hwake]
  · rw [exec_nvmSubsystemReset, if_neg (by simp [hbar])]
  · rw [exec_nvmSubsystemReset, if_neg fun hc => hv hc.2]
  · rw [exec_flr, if_pos hcfg]
  · rw [exec_flr, if_neg (ne_true_of_eq_false hcfg)]
  · rw [exec_ccEnCleared, if_pos (by simp [hbar, hen])]
  · rw [exec_ccEnCleared, if_neg (by rcases hoff with h | h <;> simp [h])]
  · obtain ⟨hfront, hmap, hcon⟩ := s.assertReset_three_units src
    obtain ⟨hen, hsqs, hctxs⟩ := s.front.resetNvme_off
    rw [hfront]
    exact ⟨hen, hsqs, hctxs, hmap, hcon⟩

end Sys2Proof
end

section
/-! Doorbells, command fetch, enabling the controller and shutdown (R58, R60, R62, R63, R64). -/

namespace Sys2Proof.Machine

/-! ### Doorbells (R58) -/

section
variable {s : State} {q : Fin 129} (hbar : s.barUp = true) (hen : s.linked.doorbellWake.front.en = true)
include hbar hen

theorem exec_sqTailDoorbell {tail : BitVec 16} {x : SubQueue} (hx : Store.find s.linked.doorbellWake.front.sqs q.val = some x)
    (hin : tail.toNat < x.size) : exec (.sqTailDoorbell q tail) s = .next (let t : State := s.linked.doorbellWake
      { t with front := { t.front with sqs := Store.ins q.val { x with tail := tail.toNat } t.front.sqs } }) := by
  change Host.Outcome.next (s.sqTail q.val tail.toNat) = _
  unfold State.sqTail
  rw [if_pos hbar]
  simp only [hx]
  rw [if_pos ⟨hen, hin⟩]

/-- With no completion waiting for room, the head moves and INTx follows. -/
theorem exec_cqHeadDoorbell {head : BitVec 16} {x : ComQueue} (hx : Store.find s.linked.doorbellWake.front.cqs q.val = some x)
    (hin : head.toNat < x.size) (hwait : s.linked.doorbellWake.front.cqWait = []) :
    exec (.cqHeadDoorbell q head) s = .next (let t : State := s.linked.doorbellWake
      { t with front := Front.intxTick { t.front with cqs := Store.ins q.val { x with head := head.toNat } t.front.cqs } }) := by
  change Host.Outcome.next (s.cqHead q.val head.toNat) = _
  have hkeep (f : Front) (cqs : Store ComQueue) (hf : f.cqWait = []) : ({ f with cqs := cqs, cqWait := [] } : Front) = { f with cqs := cqs } := by
    rw [← hf]
  unfold State.cqHead
  rw [if_pos hbar]
  simp only [hx]
  rw [if_pos ⟨hen, hin⟩]
  simp only [hwait, List.foldl_nil, hkeep _ _ hwait]

end

/-! ### Fetching (R57, R63, R64) -/

/-- Front with a turn of `n` commands taken off a queue. -/
def Front.turned (f : Front) (q : Fin 129) (x : SubQueue) (n : Nat) : Front :=
  { f with sqs := Store.ins q.val { x with head := (x.head + n) % x.size } f.sqs, rr := (q.val + 1) % 129 }

/-- The state after a turn: its entries fetched in order, and the latency message after them. -/
def State.fetchTurn (s : State) (q : Fin 129) (x : SubQueue) (sqes : List Sqe) : State :=
  let t : State := sqes.foldl (fun (t : State) (e : Sqe) => t.fetchOne q e) { s with front := s.front.turned q x sqes.length }
  { t with front := t.front.ltrTick }

section
variable {s : State} {q : Fin 129} {sqes : List Sqe} {x : SubQueue}

theorem exec_commandFetch (hmay : s.mayFetch q sqes = true) (hx : Store.find s.front.sqs q.val = some x) :
    exec (.commandFetch q sqes) s = .next (s.fetchTurn q x sqes) := by
  change execCommandFetch q sqes s = _
  unfold execCommandFetch
  simp only [hx, hmay, if_true]
  rfl

/-- An entry with no fault is a fresh context. -/
theorem State.fetchOne_good (s : State) {q : Fin 129} {e : Sqe} (h : sqeFault e (q.val == 0) = none) :
    s.fetchOne q e = { s with front := { s.front with ctxs := s.front.ctxs ++ [({ hdr := ⟨q, e.cid⟩ } : Ctx)] } } := by
  simp only [State.fetchOne, h]

/-- A turn with no entry at fault is as many fresh contexts. -/
theorem State.fetch_good (s : State) {q : Fin 129} {sqes : List Sqe} (h : ∀ e ∈ sqes, sqeFault e (q.val == 0) = none) :
    sqes.foldl (fun (t : State) (e : Sqe) => t.fetchOne q e) s =
      { s with front := { s.front with ctxs := s.front.ctxs ++ sqes.map fun (e : Sqe) => ({ hdr := ⟨q, e.cid⟩ } : Ctx) } } := by
  induction sqes generalizing s with
  | nil => rw [List.map_nil, List.append_nil]; rfl
  | cons e sqes ih =>
    obtain ⟨he, hrest⟩ := List.forall_mem_cons.1 h
    rw [List.foldl_cons, s.fetchOne_good he, ih _ hrest]
    simp only [List.map_cons, List.append_assoc, List.singleton_append]

theorem exec_commandFetch_good (hmay : s.mayFetch q sqes = true) (hx : Store.find s.front.sqs q.val = some x)
    (hgood : ∀ e ∈ sqes, sqeFault e (q.val == 0) = none) :
    ∃ t : State, exec (.commandFetch q sqes) s = .next t ∧
      t.front.ctxs = s.front.ctxs ++ sqes.map (fun (e : Sqe) => ({ hdr := ⟨q, e.cid⟩ } : Ctx)) ∧
      t.front.sqs = Store.ins q.val { x with head := (x.head + sqes.length) % x.size } s.front.sqs ∧ { t with front := s.front } = s := by
  refine ⟨_, exec_commandFetch hmay hx, ?_⟩
  rw [State.fetchTurn, State.fetch_good _ hgood]
  exact ⟨Front.ltrTick_ctxs _, Front.ltrTick_sqs _, rfl⟩

/-- A header is found among contexts that end with one of it. -/
theorem Front.ctx?_append (f : Front) (h : Hdr) : ∃ c : Ctx, Front.ctx? { f with ctxs := f.ctxs ++ [({ hdr := h } : Ctx)] } h = some c := by
  rw [← Option.isSome_iff_exists]
  simp [Front.ctx?]

theorem State.completed_ltrTick (s : State) (h : Hdr) (st : NStat) :
    State.completed { s with front := s.front.ltrTick } h st = s.completed h st := by
  simp only [State.completed, Front.ltrTick_posted, Front.ltrTick_cqWait]

/-- An entry at fault is completed at once, where its queues exist. -/
theorem State.fetchOne_bad {s : State} {q : Fin 129} {e : Sqe} {st : NStat} {sq : SubQueue} {cq : ComQueue}
    (hsq : Store.find s.front.sqs q.val = some sq) (hcq : Store.find s.front.cqs sq.cq = some cq) (h : sqeFault e (q.val == 0) = some st) :
    (s.fetchOne q e).completed ⟨q, e.cid⟩ st = true ∧ { s.fetchOne q e with front := s.front } = s := by
  obtain ⟨c, hc⟩ := s.front.ctx?_append ⟨q, e.cid⟩
  have hone : s.fetchOne q e =
      State.done { s with front := { s.front with ctxs := s.front.ctxs ++ [({ hdr := ⟨q, e.cid⟩ } : Ctx)] } } ⟨q, e.cid⟩ st := by
    simp only [State.fetchOne, h]
  rw [hone]
  exact ⟨State.completed_done hc (by exact hsq) (by exact hcq) st 0 .none, rfl⟩

theorem exec_commandFetch_bad {e : Sqe} {cq : ComQueue} {st : NStat} (hmay : s.mayFetch q [e] = true)
    (hx : Store.find s.front.sqs q.val = some x) (hcq : Store.find s.front.cqs x.cq = some cq) (hbad : sqeFault e (q.val == 0) = some st) :
    ∃ t : State, exec (.commandFetch q [e]) s = .next t ∧ t.completed ⟨q, e.cid⟩ st = true ∧ { t with front := s.front } = s := by
  obtain ⟨hdone, hframe⟩ := State.fetchOne_bad (s := { s with front := s.front.turned q x 1 }) (store_find_ins _ _ _) (by exact hcq) hbad
  refine ⟨_, exec_commandFetch hmay hx, (State.completed_ltrTick _ _ _).trans hdone, ?_⟩
  exact congrArg (fun u : State => { u with front := s.front }) hframe

end

/-! ### A wake from PS3 (R85) -/

theorem State.markRetrain_units (s : State) (g : Fin 8) : (s.markRetrain g).front = s.front ∧ (s.markRetrain g).bst = s.bst := by
  unfold State.markRetrain; dsimp only; split <;> exact ⟨rfl, rfl⟩

theorem State.limitRate_units (s : State) (g : Fin 8) : (s.limitRate g).front = s.front ∧ (s.limitRate g).bst = s.bst := by
  unfold State.limitRate; split <;> exact ⟨rfl, rfl⟩

/-- A gallery powered again leaves Front and the boot store alone. -/
theorem State.galOn_units (s : State) (g : Fin 8) : (s.galOn g).front = s.front ∧ (s.galOn g).bst = s.bst := by
  unfold State.galOn
  repeat' split
  · exact ⟨rfl, rfl⟩
  · simp [State.markRetrain_units, State.limitRate_units]
  all_goals simp [State.limitRate_units]

theorem State.galsOn_units (s : State) : s.galsOn.front = s.front ∧ s.galsOn.bst = s.bst :=
  ⟨foldl_keeps State.front (fins 8) State.galOn (fun t g => (t.galOn_units g).1) s,
    foldl_keeps State.bst (fins 8) State.galOn (fun t g => (t.galOn_units g).2) s⟩

theorem State.orderAll_units (s : State) (sub arg : Nat) : (s.orderAll sub arg).front = s.front ∧ (s.orderAll sub arg).bst = s.bst :=
  ⟨foldl_keeps State.front s.presentSubs (fun t k => t.order k sub arg) (fun _ _ => rfl) s,
    foldl_keeps State.bst s.presentSubs (fun t k => t.order k sub arg) (fun _ _ => rfl) s⟩

/-- The state out of PS3, before its galleries and its subordinates are told. -/
def State.ps3Ended (s : State) : State :=
  { s with
    sys := { s.sys with
      ps := s.sys.lastOp, psWant := none, doms := s.sys.doms ||| 0x70
      lanes := if s.sys.lanes = .l12 then .up else s.sys.lanes, clkreqOut := s.isMaster }
    front := s.front.ltrBack }

theorem State.leavePs3_eq (s : State) : s.leavePs3 =
    if s.ps3Ended.galsOn.isMaster then s.ps3Ended.galsOn.orderAll 4 s.ps3Ended.galsOn.sys.st.num else s.ps3Ended.galsOn := by
  unfold State.leavePs3 State.ps3Ended
  dsimp only

/-- Leaving PS3, Front sends its latency again; the boot store stays. -/
theorem State.leavePs3_units (s : State) : s.leavePs3.front = s.front.ltrBack ∧ s.leavePs3.bst = s.bst := by
  rw [State.leavePs3_eq]
  split
  · exact ⟨(State.orderAll_units _ _ _).1.trans (State.galsOn_units _).1, (State.orderAll_units _ _ _).2.trans (State.galsOn_units _).2⟩
  · exact State.galsOn_units _

theorem Front.ltrBack_keeps (f : Front) : f.ltrBack.aqa = f.aqa ∧ f.ltrBack.sanitize = f.sanitize := by
  unfold Front.ltrBack Front.ltrSend
  repeat' split
  all_goals exact ⟨rfl, rfl⟩

theorem State.linked_units (s : State) : s.linked.front = s.front ∧ s.linked.bst = s.bst := by
  unfold State.linked; split <;> exact ⟨rfl, rfl⟩

/-- An access over the link wakes the controller, and changes neither its admin queue's sizes nor what a sanitize or a swap waits for. -/
theorem State.access_keeps (s : State) : s.linked.accessWake.front.aqa = s.front.aqa ∧ s.linked.accessWake.front.sanitize = s.front.sanitize ∧
    s.linked.accessWake.bst = s.bst := by
  obtain ⟨hfront, hbst⟩ := s.linked_units
  unfold State.accessWake
  split
  · obtain ⟨hwake, hstore⟩ := s.linked.leavePs3_units
    obtain ⟨haqa, hsan⟩ := s.front.ltrBack_keeps
    rw [hwake, hstore, hfront]
    exact ⟨haqa, hsan, hbst⟩
  · rw [hfront]
    exact ⟨rfl, rfl, hbst⟩

/-- With the link up and out of PS3 an access finds the state as it is. -/
theorem State.access_awake {s : State} (hps : s.sys.ps ≠ 3) (hup : s.sys.lanes = .up) : s.linked.accessWake = s := by
  have hlinked : s.linked = s := by simp only [State.linked, hup]
  rw [hlinked, State.accessWake, if_neg fun h => hps h.1]

/-! ### The controller enabled (R60) -/

section
variable {s : State}

/-- The state of a controller just enabled, before a committed image or a sanitize goes on. -/
def State.enabled (s : State) (crime : Bool) : State :=
  { s with
    front := { s.front with
      en := true, crime, shn := 0, shst := 0, stopped := false, sanitizeHeld := false
      sqs := Store.ins 0 s.front.adminQ s.front.sqs, cqs := Store.ins 0 s.front.adminCq s.front.cqs }
    map := { s.map with normalShutdown := false } }

/-- With no image committed and no block erase to go on with, that is the enabled state. -/
theorem State.ccEnable_plain {crime : Bool} (hbar : s.barUp = true) (hoff : s.front.en = false) (hswap : s.bst.pendingSwap = none)
    (hsan : s.front.sanitize ≠ .block) : s.ccEnable crime = s.linked.accessWake.enabled crime := by
  obtain ⟨-, hsanKept, hbst⟩ := s.access_keeps
  have hnoSwap : (s.linked.accessWake.enabled crime).bst.pendingSwap.map (·.l3) ≠ some true := by
    change s.linked.accessWake.bst.pendingSwap.map (·.l3) ≠ some true
    rw [hbst, hswap]; exact nofun
  have hnoErase : (s.linked.accessWake.enabled crime).sanitizeOn = s.linked.accessWake.enabled crime :=
    if_neg fun h => hsan (hsanKept.symm.trans h.1)
  unfold State.ccEnable
  rw [if_pos (by simp [hbar, hoff])]
  exact (if_neg hnoSwap).trans hnoErase

theorem exec_ccEnSet_plain {crime : Bool} (hbar : s.barUp = true) (hoff : s.front.en = false) (hswap : s.bst.pendingSwap = none)
    (hsan : s.front.sanitize ≠ .block) : ∃ t : State, exec (.ccEnSet ⟨crime, []⟩) s = .next t ∧ t.front.en = true ∧ t.front.crime = crime ∧
      t.front.shst = 0 ∧ Store.find t.front.sqs 0 = some s.front.adminQ ∧ Store.find t.front.cqs 0 = some s.front.adminCq := by
  obtain ⟨haqa, -, -⟩ := s.access_keeps
  refine ⟨s.linked.accessWake.enabled crime, congrArg _ (State.ccEnable_plain hbar hoff hswap hsan), rfl, rfl, rfl, ?_, ?_⟩
  · rw [Front.adminQ, ← haqa]
    exact store_find_ins _ _ _
  · rw [Front.adminCq, ← haqa]
    exact store_find_ins _ _ _

/-- A write of AQA while the controller is disabled holds its two fields. -/
theorem State.aqa_write (hbar : s.barUp = true) (hoff : s.front.en = false) (hps : s.sys.ps ≠ 3) (hup : s.sys.lanes = .up) (v : Nat) :
    (s.hostAccess (.bar 0x24 4 v)).front.aqa = BitVec.ofNat 32 (v % 2 ^ 32) &&& 0x0FFF0FFF := by
  have hserved : barServed 0x24 4 = true := by decide
  have hwrite : s.hostAccess (.bar 0x24 4 v) = s.whileOff fun f => { f with aqa := BitVec.ofNat 32 v &&& 0x0FFF0FFF } := by
    simp [State.hostAccess, State.barWrite, hbar, State.access_awake hps hup, hserved, State.barWriteDword]
  have hmod : BitVec.ofNat 32 (v % 2 ^ 32) = BitVec.ofNat 32 v := BitVec.eq_of_toNat_eq (by simp)
  rw [hwrite, State.whileOff, if_neg (ne_true_of_eq_false hoff), hmod]

theorem exec_controllerReady (deadline : Bool) (s : State) : exec (.controllerReady deadline) s =
    .next (if s.front.en && !s.rdyNow && !s.isSt .test && !s.resetting && (s.front.crime || s.map.mounted || deadline) then
      { s with front := { s.front with rdy := true, leaving := false } } else s) := rfl

end

/-! ### Shutdown (R62, R79, R358) -/

theorem State.saveHist_map (s : State) : s.saveHist.map = s.map := by unfold State.saveHist; dsimp only; split <;> rfl

section
variable {s : State} (hbar : s.barUp = true) (hen : s.front.en = true) (hrst : s.resetting = false)
include hbar hen hrst

theorem exec_normalShutdown (hshst : s.front.shst = 0) : exec .normalShutdown s = .next (let u : State := s.accessWake.saveHist
    let v : State := { u with front := { u.front with shn := 1, shst := 1, draining := !u.front.staging.isEmpty } }
    if s.accessWake.map.mounted then v.settle
    else { v with front := { v.front with shst := 2 }, map := { v.map with normalShutdown := true } }) := by
  change Host.Outcome.next s.shutNormal = _
  unfold State.shutNormal
  rw [if_pos (by simp [hbar, hen, hrst, hshst])]
  simp only [State.saveHist_map]

theorem exec_abruptShutdown : exec .abruptShutdown s = .next (let u : State := s.accessWake.abandonStaging
    { u with front := { u.front with shn := 2, shst := 2 } }) := by
  change Host.Outcome.next s.shutAbrupt = _
  unfold State.shutAbrupt
  rw [if_pos (by simp [hbar, hen, hrst])]

end

end Sys2Proof.Machine

namespace Sys2Proof
open Machine

/-- Settles O19: a doorbell moves one number of its queue, a fetch appends a turn's contexts, and a shutdown goes by whether a map is mounted. -/
theorem controllerRows : Obligations.ControllerRows := by
  refine ⟨fun s q => ⟨fun tail x hbar hen hx hin => exec_sqTailDoorbell hbar hen hx hin,
      fun head x hbar hen hx hin hwait => exec_cqHeadDoorbell hbar hen hx hin hwait,
      fun sqes x hmay hx hgood => exec_commandFetch_good hmay hx hgood,
      fun e x cq st hmay hx hcq hbad => exec_commandFetch_bad hmay hx hcq hbad⟩,
    fun s => ⟨fun crime hbar hoff hswap hsan => exec_ccEnSet_plain hbar hoff hswap hsan, fun crime a l => rfl,
      fun v hbar hoff hps hup => State.aqa_write hbar hoff hps hup v, fun deadline hen hrdy htest hrst hcause => ?_, fun hen hcrime hmap => ?_⟩,
    fun s hbar hen hrst => ⟨fun hshst hmap => ?_, fun hshst hmap => ?_, ⟨_, exec_abruptShutdown hbar hen hrst, rfl, rfl, rfl⟩⟩⟩
  · rw [exec_controllerReady, if_pos (by simpa [hen, hrdy, hrst, State.isSt, htest] using hcause)]
  · rw [exec_controllerReady, if_neg (by simp [hcrime, hmap])]
  · refine ⟨_, (exec_normalShutdown hbar hen hrst hshst).trans (congrArg _ (if_neg (ne_true_of_eq_false hmap))), rfl, rfl, rfl⟩
  · exact (exec_normalShutdown hbar hen hrst hshst).trans (congrArg _ (if_pos hmap))

end Sys2Proof
end

section
/-! Temperatures, rail samples and time (R79, R255 to R257, R266, R269, R271, R387). -/

namespace Sys2Proof.Machine

/-! ### Temperatures (R255, R256, R269) -/

section
variable {s : State}

/-- Two die samples in a row at or above 125 °C trip. -/
theorem exec_temperatureSample_die {q : Int} (hps : s.sys.ps.val ≠ 4) :
    let hot : Nat := if 500 ≤ q then s.assay.hot + 1 else 0
    let u : State := State.tempReg { s with assay := { s.assay with dieQ := q, hot } }
    exec (.temperatureSample .die q) s = .next (if hot = 2 ∧ s.sys.tripHold = false then u.trip else u) := by
  change execTemperatureSample .die q s = _
  simp only [execTemperatureSample, hps, if_false, Bool.not_eq_true', ge_iff_le]

theorem exec_temperatureSample_die_ps4 {q : Int} (hps : s.sys.ps.val = 4) : exec (.temperatureSample .die q) s = .next s := by
  change execTemperatureSample .die q s = _
  simp only [execTemperatureSample, hps, if_true]

/-- In PS4 two samples of the always-on sensor in a row at or above 125 °C trip. -/
theorem exec_temperatureSample_alwaysOn (q : Int) (s : State) :
    let c : Int := wholeC q
    let hot : Nat := if 125 ≤ c ∧ s.sys.ps.val = 4 then s.assay.aonHot + 1 else 0
    let u : State := { s with assay := { s.assay with aonC := c, aonHot := hot }, sys := { s.sys with tripHold := s.sys.tripHold && decide (110 ≤ c) } }
    exec (.temperatureSample .alwaysOn q) s = .next (if hot = 2 ∧ s.sys.tripHold = false then u.trip else u) := by
  change execTemperatureSample .alwaysOn q s = _
  simp only [execTemperatureSample, Bool.not_eq_true', ge_iff_le]

theorem exec_temperatureSample_pad (g : Fin 8) (q : Int) (s : State) : exec (.temperatureSample (.pad g) q) s =
    .next (if s.galPowered g = true then (State.tempReg { s with assay := { s.assay with padQ := setAt s.assay.padQ g q } }).driftCheck g else s) := rfl

/-! ### A chamber's temperature list (R256) -/

/-- A chamber's list may run, its failures apart. -/
def State.tempListDue (s : State) (c : Fin 128) : Bool :=
  !s.inReset && decide (s.sys.ps.val ≤ 2) && s.populated.contains c && s.tempList c && (s.gals.get (galOf c)).hasRead && s.mayRun c

/-- What is noted of a chamber's list: its value, or a failure more, or an estimate. -/
def State.listNoted (t : State) (c : Fin 128) (fails : Nat) (o : Outc) (v : Int) : State :=
  match o with
  | .ok => { t with assay := { t.assay with
      chTemp := Store.ins c.val (v, false) t.assay.chTemp, listFails := Store.set (fun _ => 0) t.assay.listFails c.val 0 } }
  | .fail | .timeout => { t with assay := { t.assay with
      chTemp := Store.del c.val t.assay.chTemp, listFails := Store.set (fun _ => 0) t.assay.listFails c.val (fails + 1) } }
  | _ => { t with assay := { t.assay with chTemp := Store.del c.val t.assay.chTemp } }

theorem State.listNoted_other {t : State} {c : Fin 128} {fails : Nat} {o : Outc} {v : Int} (ho : o ∉ [.ok, .timeout, .fail]) :
    t.listNoted c fails o v = { t with assay := { t.assay with chTemp := Store.del c.val t.assay.chTemp } } := by
  simp only [List.mem_cons, List.not_mem_nil, or_false, not_or] at ho
  obtain ⟨hok, htimeout, hfail⟩ := ho
  unfold State.listNoted
  split
  · exact absurd rfl hok
  · exact absurd rfl hfail
  · exact absurd rfl htimeout
  · rfl

variable {c : Fin 128} {answer : Option (List Byte)}

theorem exec_chamberTemperatureList_run {o : Outc} {v : Int} {t : State} (hdue : s.tempListDue c = true)
    (hn : Store.get (fun _ => 0) s.assay.listFails c.val < 3) (hrun : s.runTemp c answer = (o, v, t)) :
    exec (.chamberTemperatureList c answer) s =
      .next ((t.listNoted c (Store.get (fun _ => 0) s.assay.listFails c.val) o v).tempReg.driftCheck (galOf c)) := by
  simp only [State.tempListDue, Bool.and_eq_true] at hdue
  obtain ⟨⟨⟨⟨⟨hrst, hps⟩, hpop⟩, hlist⟩, hread⟩, hmay⟩ := hdue
  change execChamberTemperatureList c answer s = _
  unfold execChamberTemperatureList
  dsimp only
  rw [if_pos (by simp only [hrst, hps, hpop, hlist, hread, hmay, hn, decide_true, Bool.and_true]), hrun]
  cases o <;> rfl

/-- A list that may not run, or has failed three times in a row, changes nothing. -/
theorem exec_chamberTemperatureList_idle (h : s.tempListDue c = false ∨ 3 ≤ Store.get (fun _ => 0) s.assay.listFails c.val) :
    exec (.chamberTemperatureList c answer) s = .next s := by
  change execChamberTemperatureList c answer s = _
  unfold execChamberTemperatureList
  refine congrArg _ (if_neg fun hc => ?_)
  simp only [Bool.and_eq_true, decide_eq_true_eq] at hc
  obtain ⟨⟨⟨⟨⟨⟨hrst, hps⟩, hpop⟩, hlist⟩, hn⟩, hread⟩, hmay⟩ := hc
  rcases h with h | h
  · simp only [State.tempListDue, hrst, hps, hpop, hlist, hread, hmay, decide_true, Bool.and_true, Bool.true_eq_false] at h
  · omega

theorem State.tempListDue_iff (s : State) (c : Fin 128) : s.tempListDue c = true ↔ s.inReset = false ∧ s.sys.ps.val ≤ 2 ∧
    s.populated.contains c = true ∧ s.tempList c = true ∧ (s.gals.get (galOf c)).hasRead = true ∧ s.mayRun c = true := by
  simp only [State.tempListDue, Bool.and_eq_true, Bool.not_eq_true', decide_eq_true_eq, and_assoc]

theorem State.tempListDue_eq_false (h : s.inReset = true ∨ 2 < s.sys.ps.val ∨ s.populated.contains c = false ∨ s.tempList c = false ∨
    (s.gals.get (galOf c)).hasRead = false ∨ s.mayRun c = false) : s.tempListDue c = false := by
  rw [Bool.eq_false_iff, ne_eq, State.tempListDue_iff]
  rintro ⟨hrst, hps, hpop, hlist, hread, hmay⟩
  rcases h with h | h | h | h | h | h
  · exact absurd hrst (by simp [h])
  · omega
  · exact absurd hpop (ne_true_of_eq_false h)
  · exact absurd hlist (ne_true_of_eq_false h)
  · exact absurd hread (ne_true_of_eq_false h)
  · exact absurd hmay (ne_true_of_eq_false h)

end

/-! ### Rail samples (R255, R257) -/

/-- Two numbers of 16 bits in one word. -/
theorem fld_halves (a b : Nat) {n : Nat} (hn : n ≤ 16) (ha : a < 2 ^ n) (hb : b < 2 ^ n) :
    fld (BitVec.ofNat 32 (a + 65536 * b)) 0 n = a ∧ fld (BitVec.ofNat 32 (a + 65536 * b)) 16 n = b := by
  have hle : 2 ^ n ≤ 2 ^ 16 := Nat.pow_le_pow_right (by decide) hn
  have hpow : 2 ^ n ∣ 65536 * b := (pow_dvd_pow 2 hn).mul_right b
  refine ⟨?_, ?_⟩ <;> rw [fld_ofNat _ _ _ (by omega)]
  · rw [pow_zero, Nat.div_one, Nat.add_mod, Nat.mod_eq_zero_of_dvd hpow, Nat.add_zero, Nat.mod_mod, Nat.mod_eq_of_lt ha]
  · change (a + 65536 * b) / 65536 % 2 ^ n = b
    rw [Nat.add_mul_div_left _ _ (by decide), Nat.div_eq_of_lt (by omega), Nat.zero_add, Nat.mod_eq_of_lt hb]

section
variable (s : State)

/-- Fewer than ten samples change nothing yet. -/
theorem State.report_few (h : s.assay.powAcc.length < 10) : s.report = s := by rw [State.report, if_pos h]

/-- The state with the averages of the samples held and the samples gone. -/
def State.averaged (s : State) : State :=
  { s with assay := { s.assay with
    powAcc := [], ctlMw := sumNat (s.assay.powAcc.map (·.1)) / 10, isnsMa := sumNat (s.assay.powAcc.map (·.2)) / 10 } }

theorem State.report_full (h : 10 ≤ s.assay.powAcc.length) : s.report = s.averaged.setReg .assayPwr
    (BitVec.ofNat 32 (s.averaged.assay.ctlMw % 65536 + 65536 * (s.averaged.assay.isnsMa % 65536))) := by
  rw [State.report, if_neg (Nat.not_lt.2 h)]; rfl

/-- A rail sample as it is held, before the averages: voltages, currents, the ISNS input, and one sample more of power and card current. -/
def State.sampled (s : State) (mv ma : Vector Nat 5) (isns : Nat) : State :=
  let mw : Nat := sumNat ((List.range 5).map fun i => mv.toList.getD i 0 * ma.toList.getD i 0) / 1000
  let card : Nat := if s.settings.govIsnsGain = 0 then 0 else min 1200 isns * 1000 / s.settings.govIsnsGain
  { s with
    sys := { s.sys with railMv := mv }
    assay := { s.assay with railMv := mv, railMa := ma, isnsMv := min 1200 isns, powAcc := s.assay.powAcc ++ [(mw, card)] } }

theorem exec_railSample (mv ma : Vector Nat 5) (isns : Nat) : exec (.railSample mv ma isns) s =
    .next (if s.sys.ps.val = 4 ∨ s.inReset = true then { s with sys := { s.sys with railMv := mv } }
      else (s.sampled mv ma isns).report.setReg .assayRail
        (BitVec.ofNat 32 (mv.toList.getD 2 0 % 4096 + 65536 * (mv.toList.getD 0 0 % 4096)))) := rfl

/-- The averages leave the sample just held as it is. -/
theorem State.report_sampled : s.report.sys = s.sys ∧ s.report.assay.railMa = s.assay.railMa ∧ s.report.assay.isnsMv = s.assay.isnsMv := by
  unfold State.report
  split <;> exact ⟨rfl, rfl, rfl⟩

end

/-! ### Time (R79, R266, R271, R387) -/

section
variable (s : State)

theorem exec_governorTick : exec .governorTick s = .next (if s.inReset = true ∨ 3 ≤ s.sys.ps.val then s
    else (s.countMs.thermalTick.powerTick.applyStep).govShown.secureNext) := rfl

theorem exec_lifetimeSecond : exec .lifetimeSecond s = .next (s.secondOver.scanTick.raiseIf
    (s.secondOver.map.mounted && s.secondOver.backlog && !s.secondOver.trb 28) 28) := rfl

theorem State.raiseIf_time (c : Bool) (n : Nat) : (s.raiseIf c n).sys.life = s.sys.life ∧ (s.raiseIf c n).sys.lifeMs = s.sys.lifeMs := by
  cases c <;> exact ⟨rfl, rfl⟩

theorem State.scanTick_sys : s.scanTick.sys = s.sys := by unfold State.scanTick; split <;> rfl

/-- With no full scan under way a second leaves the registers alone. -/
theorem State.scanTick_off (h : s.rf .mapScan 0 3 = 0) : s.scanTick = s := by rw [State.scanTick, if_pos h]

/-- A second of the full scan is counted in its register alone. -/
theorem State.scanTick_on (h : s.rf .mapScan 0 3 ≠ 0) :
    s.scanTick.rf .mapScan 16 16 = satAdd 16 (s.rf .mapScan 16 16) 1 ∧ ∀ r : Reg, r ≠ .mapScan → s.scanTick.reg r = s.reg r := by
  rw [State.scanTick, if_neg h]
  refine ⟨?_, fun r hr => State.reg_setRf_ne _ _ _ _ hr⟩
  rw [State.rf_setRf_same _ _ _ _ _ (by decide), Nat.mod_eq_of_lt (satAdd_lt 16 _ _)]

theorem exec_hourlyHistory_due {s : State} {m : Int} (hmax : s.sys.hist.hourMax = some m) (hour : s.sys.life % 3600 = 0) :
    let u : State := { s with sys := { s.sys with
      hist := { s.sys.hist with hourly := (m :: s.sys.hist.hourly).take 64, hourMax := none }, histDue := true } }
    exec .hourlyHistory s = .next (if s.sys.ps.val = 4 then u else u.saveHist) := by
  change execHourlyHistory s = _
  unfold execHourlyHistory
  simp only [hmax]
  rw [if_neg (not_not.2 hour)]

theorem exec_hourlyHistory_idle {s : State} (h : s.sys.life % 3600 ≠ 0 ∨ s.sys.hist.hourMax = none) : exec .hourlyHistory s = .next s := by
  change execHourlyHistory s = _
  unfold execHourlyHistory
  cases hmax : s.sys.hist.hourMax with
  | none => rfl
  | some m =>
    have hour : s.sys.life % 3600 ≠ 0 := h.resolve_right (by simp [hmax])
    dsimp only
    rw [if_pos hour]

end

end Sys2Proof.Machine

namespace Sys2Proof
open Machine

/-- Settles O36: a sample is what its row holds and the test that follows it; ten samples of power are one report, and a second's count is one
register's. -/
theorem governorRows : Obligations.GovernorRows := by
  refine ⟨fun s => ⟨fun q hps => exec_temperatureSample_die hps, fun q hps => exec_temperatureSample_die_ps4 hps,
      fun q => exec_temperatureSample_alwaysOn q s, fun g q => exec_temperatureSample_pad g q s, fun c answer o v t hrst hps hpop hlist hread hmay => ?_,
      fun c answer h => exec_chamberTemperatureList_idle (.inl (State.tempListDue_eq_false h))⟩,
    fun s mv ma isns => ⟨fun hoff => ?_, fun hps hrst => ?_⟩,
    fun s => ⟨fun hrst hps => ?_, fun hoff => ?_, rfl, ⟨_, exec_lifetimeSecond s, ?_⟩, fun m hmax hour => exec_hourlyHistory_due hmax hour,
      exec_hourlyHistory_idle⟩⟩
  · have hdue : s.tempListDue c = true := (s.tempListDue_iff c).2 ⟨hrst, hps, hpop, hlist, hread, hmay⟩
    refine ⟨fun hn hrun => exec_chamberTemperatureList_run hdue hn hrun, fun hn hrun ho => ?_, fun hn hrun ho => ?_,
      fun hn => exec_chamberTemperatureList_idle (.inr hn)⟩
    · rw [exec_chamberTemperatureList_run hdue hn hrun]
      rcases ho with rfl | rfl <;> rfl
    · rw [exec_chamberTemperatureList_run hdue hn hrun, State.listNoted_other ho]
  · rw [exec_railSample, if_pos hoff]
  · intro mw card acc
    have hrun := exec_railSample s mv ma isns
    rw [if_neg (by simp [hps, hrst])] at hrun
    obtain ⟨hsys, hma, hisns⟩ := (s.sampled mv ma isns).report_sampled
    obtain ⟨hlow, hhigh⟩ := fld_halves (mv.toList.getD 2 0 % 4096) (mv.toList.getD 0 0 % 4096) (n := 12) (by decide)
      (Nat.mod_lt _ (by decide)) (Nat.mod_lt _ (by decide))
    refine ⟨_, hrun, congrArg Sys.railMv hsys, hma, hisns, ?_, ?_, fun hfew => ?_, fun hfull => ?_⟩
    · rw [State.rf, State.reg_setReg_same, hlow]
    · rw [State.rf, State.reg_setReg_same, hhigh]
    · rw [State.report_few _ hfew]
      exact ⟨rfl, rfl, rfl, State.reg_setReg_ne _ _ (by decide)⟩
    · rw [State.report_full _ hfull]
      obtain ⟨hctl, hcard⟩ := fld_halves ((s.sampled mv ma isns).averaged.assay.ctlMw % 65536) ((s.sampled mv ma isns).averaged.assay.isnsMa % 65536)
        (n := 16) (by decide) (Nat.mod_lt _ (by decide)) (Nat.mod_lt _ (by decide))
      refine ⟨rfl, rfl, rfl, ?_, ?_⟩
      · rw [State.rf, State.reg_setReg_ne _ _ (by decide), State.reg_setReg_same, hctl]; rfl
      · rw [State.rf, State.reg_setReg_ne _ _ (by decide), State.reg_setReg_same, hcard]; rfl
  · rw [exec_governorTick, if_neg (by simp [hrst]; omega)]
  · rw [exec_governorTick, if_pos hoff]
  · obtain ⟨hlife, hms⟩ := s.secondOver.scanTick.raiseIf_time (s.secondOver.map.mounted && s.secondOver.backlog && !s.secondOver.trb 28) 28
    refine ⟨?_, ?_, fun hoff => ?_, fun hon => ?_⟩
    · rw [hlife, State.scanTick_sys]; rfl
    · rw [hms, State.scanTick_sys]; rfl
    · rw [State.raiseIf_regs, State.scanTick_off _ (by exact hoff)]; rfl
    · obtain ⟨hcount, hother⟩ := s.secondOver.scanTick_on (by exact hon)
      have hreg (r : Reg) := State.reg_congr (State.raiseIf_regs s.secondOver.scanTick
        (s.secondOver.map.mounted && s.secondOver.backlog && !s.secondOver.trb 28) 28) r
      exact ⟨by rw [State.rf, hreg]; exact hcount, fun r hr => (hreg r).trans (hother r hr)⟩

end Sys2Proof
end

section
/-! The console's paths: the queue, the UART, keep-alives, lines over Tether, and the tunnel (R75, R94, R102, R104, R106, R404). -/

namespace Sys2Proof.Machine

/-! ### The rows of the console (R94, R102, R104, R106) -/

section
variable (s : State)

theorem exec_lineExecute : exec .lineExecute s = .next (if s.consoleOn && !s.con.busy then
    match s.con.queue with
    | q :: r => State.execText { s with con := { s.con with queue := r } } q.ctx q.text
    | [] => s
  else s) := rfl

theorem exec_uartCharacter (c : Byte) : exec (.uartCharacter c) s = .next (if s.consoleOn then s.rxChar c else s) := rfl

theorem exec_uartOverrun : exec .uartOverrun s =
    .next (if s.consoleOn then (s.uart fun u => { buf := [], overrun := true, lastCr := u.lastCr }).raise 44 else s) := rfl

theorem exec_partialLineTimeout : exec .partialLineTimeout s = .next (if s.consoleOn then s.uart fun u => { lastCr := u.lastCr } else s) := rfl

theorem exec_keepAlive (p : Path) : exec (.keepAlive p) s = .next (if s.consoleOn then
    (s.con.open_.filter fun (c : LineCtx) => c.path == p).foldl (fun (t : State) (c : LineCtx) =>
      State.sendLines { t with con := { t.con with keepAlives := t.con.keepAlives ++ [c] } } c [frameLine c.tag (asc ".. busy")]) s
  else s) := rfl

end

section
variable {s : State}

theorem exec_lineExecute_next {q : QLine} {r : List QLine} (hon : s.consoleOn = true) (hidle : s.con.busy = false) (hq : s.con.queue = q :: r) :
    exec .lineExecute s = .next (State.execText { s with con := { s.con with queue := r } } q.ctx q.text) := by
  rw [exec_lineExecute, if_pos (by simp [hon, hidle]), hq]

theorem exec_lineExecute_not (h : s.con.busy = true ∨ s.con.queue = []) : exec .lineExecute s = .next s := by
  rw [exec_lineExecute]
  rcases h with h | h
  · rw [if_neg (by simp [h])]
  · rw [h]
    exact congrArg _ (ite_self _)

/-! ### Console frames (R106, R404) -/

theorem exec_console (p : Port) (f : FrameHdr) (line : List Byte) : exec (.console p f line) s =
    .next (s.rxSeqd p f 4 fun t => if f.dst.val = t.index then t.consoleFrame f line else t.consoleOn_ p f line) := rfl

theorem State.rxSeqd_not_live {p : Port} (f : FrameHdr) (type : Nat) (act : State → State) (h : (s.teth.get p).live = false) :
    s.rxSeqd p f type act = s := by
  simp [State.rxSeqd, h]

theorem exec_routedLineTimeout_found {tag : BitVec 16} {r : Routed} (h : (s.con.routed.find? fun (r : Routed) => r.tag == tag) = some r) :
    exec (.routedLineTimeout tag) s =
      .next (State.reply { s with con := { s.con with routed := s.con.routed.filter fun (x : Routed) => x.tag != tag } } r.ctx [] (err .timeout [])) := by
  change execRoutedLineTimeout tag s = _
  unfold execRoutedLineTimeout; rw [h]

theorem exec_routedLineTimeout_none {tag : BitVec 16} (h : (s.con.routed.find? fun (r : Routed) => r.tag == tag) = none) :
    exec (.routedLineTimeout tag) s = .next s := by
  change execRoutedLineTimeout tag s = _
  unfold execRoutedLineTimeout; rw [h]

end

/-! ### The tunnel (R75) -/

/-- What waits in the tunnel: the mark of lost lines first, where lines were lost. -/
def State.tunnelLines (t : State) : List (List Byte) := (if t.con.tunnelLost then [asc ".. lost" ++ [10]] else []) ++ t.con.tunnel

/-- A Console Receive of a buffer that is not too long: the lines that fit leave the tunnel, and the mark with the first of them. -/
def State.tunnelRead (t : State) (h : Hdr) (numd : Nat) : State :=
  let cap := 4 * (numd + 1)
  let out := fitLines cap t.tunnelLines
  let bytes := out.flatten.map fun (b : Byte) => b.toNat
  let rest := t.tunnelLines.drop out.length
  let lost := t.con.tunnelLost && out.isEmpty
  let t1 : State := { t with con := { t.con with tunnel := if lost then t.con.tunnel else rest, tunnelLost := lost } }
  t1.done h .success (bytes.length + if rest.isEmpty then 0 else 2 ^ 31) (.bytes ((bytes ++ List.replicate cap 0).take cap))

section
variable {s : State} {h : Hdr} {n : Nat}

theorem exec_consoleReceive (p : s.takes h (.consoleReceive h n) = true) : exec (.consoleReceive h n) s =
    .next (if n > 1023 then (s.taken h (.consoleReceive h n)).done h .invalidField else (s.taken h (.consoleReceive h n)).tunnelRead h n) :=
  exec_taken (f := fun t => if n > 1023 then t.done h .invalidField else t.tunnelRead h n) rfl p

theorem exec_consoleSend {len : Nat} {line : List Byte} (p : s.takes h (.consoleSend h len line) = true) :
    let t : State := s.taken h (.consoleSend h len line)
    exec (.consoleSend h len line) s = .next (if len < 1 ∨ len > 250 then t.done h .invalidField
      else (t.accept ⟨.tunnel, none, dev t.index, 0⟩ (taken ((line ++ List.replicate len 0).take len))).good h) :=
  exec_taken (f := fun t => if len < 1 ∨ len > 250 then t.done h .invalidField
    else (t.accept ⟨.tunnel, none, dev t.index, 0⟩ (taken ((line ++ List.replicate len 0).take len))).good h) rfl p

end

section
variable {t : State} {h : Hdr} {n : Nat}

theorem State.tunnelRead_whole (hlost : t.con.tunnelLost = false) : t.tunnelRead h n =
    let out : List (List Byte) := fitLines (4 * (n + 1)) t.con.tunnel
    let rest : List (List Byte) := t.con.tunnel.drop out.length
    let bytes : List Nat := out.flatten.map fun (b : Byte) => b.toNat
    State.done { t with con := { t.con with tunnel := rest } } h .success (bytes.length + if rest.isEmpty then 0 else 2 ^ 31)
      (.bytes ((bytes ++ List.replicate (4 * (n + 1)) 0).take (4 * (n + 1)))) := by
  have hlines : t.tunnelLines = t.con.tunnel := by simp [State.tunnelLines, hlost]
  have hcon : ∀ l : List (List Byte), { t.con with tunnel := l, tunnelLost := false } = { t.con with tunnel := l } := by rw [← hlost]; intro l; rfl
  unfold State.tunnelRead
  rw [hlines, hlost]
  simp only [Bool.false_and, Bool.false_eq_true, if_false, hcon]

/-- The mark of lost lines takes eight characters, so that a buffer of two dwords holds it. -/
theorem fitLines_mark (l : List (List Byte)) (hn : 1 ≤ n) : (fitLines (4 * (n + 1)) ((asc ".. lost" ++ [10]) :: l)).isEmpty = false := by
  have hlen : (asc ".. lost" ++ [10]).length = 8 := by decide
  rw [fitLines, if_pos (by omega)]
  rfl

theorem State.tunnelRead_lost (hlost : t.con.tunnelLost = true) (hn : 1 ≤ n) : (t.tunnelRead h n).con.tunnelLost = false := by
  have hlines : t.tunnelLines = (asc ".. lost" ++ [10]) :: t.con.tunnel := by simp [State.tunnelLines, hlost]
  unfold State.tunnelRead
  rw [State.done_con, hlines]
  simp only [fitLines_mark _ hn, Bool.and_false]

end

end Sys2Proof.Machine

namespace Sys2Proof
open Machine

/-- Settles O56: each row by whether the console is on and by what waits; console frames by the device they name; the tunnel by the length asked
for and by the mark of lost lines. -/
theorem consoleRows : Obligations.ConsoleRows := by
  refine ⟨fun s hon => ⟨fun q r hidle hq => exec_lineExecute_next hon hidle hq, exec_lineExecute_not, fun c => ?_, ?_, ?_, fun p => ?_⟩,
    fun s hoff => ⟨?_, fun c => ?_, ?_, ?_, fun p => ?_⟩,
    fun s => ⟨fun p f line r => ⟨fun hd => ?_, fun hd => ?_⟩, fun p f line hlive => congrArg _ (State.rxSeqd_not_live f _ _ hlive),
      fun tag r hr => exec_routedLineTimeout_found hr, fun tag hr => exec_routedLineTimeout_none hr,
      fun h len line p => ⟨fun hlo hhi => ?_, fun hlen => ?_⟩, fun h n p => ⟨fun hn => ?_, fun hn hlost => ?_, fun hn hlost => ?_⟩⟩⟩
  · rw [exec_uartCharacter, if_pos hon]
  · refine ⟨_, (exec_uartOverrun s).trans (congrArg _ (if_pos hon)), rfl, rfl, ?_⟩
    rw [State.trb_raise _ _ _ (by decide)]
    simp
  · exact ⟨_, (exec_partialLineTimeout s).trans (congrArg _ (if_pos hon)), rfl, rfl⟩
  · rw [exec_keepAlive, if_pos hon]
  · rw [exec_lineExecute, if_neg (by simp [hoff])]
  · rw [exec_uartCharacter, if_neg (by simp [hoff])]
  · rw [exec_uartOverrun, if_neg (by simp [hoff])]
  · rw [exec_partialLineTimeout, if_neg (by simp [hoff])]
  · rw [exec_keepAlive, if_neg (by simp [hoff])]
  · rw [exec_console, rxSeqd_eq _ _ r, if_pos hd]
  · rw [exec_console, rxSeqd_eq _ _ r, if_neg hd]
  · rw [exec_consoleSend p, if_neg (by omega)]
  · rw [exec_consoleSend p, if_pos hlen]
  · rw [exec_consoleReceive p, if_pos hn]
  · rw [exec_consoleReceive p, if_neg (by omega), State.tunnelRead_whole hlost]
  · exact ⟨_, (exec_consoleReceive p).trans (congrArg _ (if_neg (by omega))), State.tunnelRead_lost hlost⟩

end Sys2Proof
end

section
/-! Frames of whole families: the rows of one gallery, the commands and rows of Front, and the sequences of the boot store (R69, R179, R507). -/

namespace Sys2Proof.Machine

/-! ### One gallery -/

/-- Two states that differ in one gallery at most. -/
def State.OnlyGal (s t : State) (g : Fin 8) : Prop := { t with gals := s.gals } = s ∧ ∀ h : Fin 8, h ≠ g → t.gals.get h = s.gals.get h

section
variable {s t : State} {g : Fin 8} {x : Fin 64}

theorem State.OnlyGal.refl (s : State) (g : Fin 8) : s.OnlyGal s g := ⟨rfl, fun _ _ => rfl⟩

theorem State.OnlyGal.ite {u : State} {p : Prop} [Decidable p] (ht : s.OnlyGal t g) (hu : s.OnlyGal u g) : s.OnlyGal (if p then t else u) g := by
  split
  · exact ht
  · exact hu

theorem State.OnlyGal.gal (h : s.OnlyGal t g) (f : Gallery → Gallery) : s.OnlyGal (t.gal g f) g :=
  ⟨h.1, fun k hk => ((get_setAt t.gals g k _).trans (if_neg hk)).trans (h.2 k hk)⟩

theorem State.OnlyGal.setCtx (h : s.OnlyGal t g) (c : SeqCtx) : s.OnlyGal (t.setCtx g x c) g := h.gal _

theorem State.OnlyGal.seqAdvance (h : s.OnlyGal t g) (c : SeqCtx) : s.OnlyGal (t.seqAdvance g x c) g := h.setCtx _

theorem State.OnlyGal.cycles (h : s.OnlyGal t g) (l : List BusCycle) : s.OnlyGal (t.cycles g x l) g := h.gal _

theorem State.OnlyGal.yieldBus (h : s.OnlyGal t g) : s.OnlyGal (t.yieldBus g x) g := h.gal _

/-- Without a mismatch nothing is counted (R149). -/
theorem State.OnlyGal.parity (h : s.OnlyGal t g) (wr : Bool) : s.OnlyGal (t.parity g wr 0) g := by
  rw [State.parity_none wr (.inl rfl)]
  exact h

theorem State.OnlyGal.statusParity (h : s.OnlyGal t g) (b : Byte) : s.OnlyGal (t.statusParity g ⟨b, 0, false⟩) g :=
  (h.parity true).parity false

/-- An op whose work stays in the gallery does (R174). -/
theorem State.OnlyGal.seq {code : Nat} {f : State → SeqCtx → Word → State} (hf : ∀ (t : State) (c : SeqCtx) (w : Word), s.OnlyGal t g → s.OnlyGal (f t c w) g) :
    s.OnlyGal (s.seq g x code f) g := by
  have hrefl := State.OnlyGal.refl s g
  unfold State.seq
  dsimp only
  split
  · exact hrefl
  · split
    · exact hrefl
    · split
      · split
        · exact hf _ _ _ (hrefl.gal _)
        · exact hf _ _ _ hrefl
      · exact hrefl

/-! ### The ops of one gallery (R179) -/

theorem State.opCmd_onlyGal : s.OnlyGal (s.opCmd g x false) g :=
  .seq fun _ _ _ h => (((h.cycles _).parity true).gal _).seqAdvance _

theorem State.opDinb_onlyGal : s.OnlyGal (s.opDinb g x false) g :=
  .seq fun _ _ _ h => ((h.cycles _).parity true).seqAdvance _

theorem State.opWait_onlyGal : s.OnlyGal (s.opWait g x) g :=
  .seq fun _ _ _ h => .ite ((h.seqAdvance _).yieldBus) (h.seqAdvance _)

theorem State.opWaitp_onlyGal : s.OnlyGal (s.opWaitp g x) g := .seq fun _ _ _ h => h.seqAdvance _

theorem State.opPoll_onlyGal (b : Byte) : s.OnlyGal (s.opPoll g x ⟨b, 0, false⟩) g :=
  .seq fun _ _ _ h => .ite (h.setCtx _).yieldBus
    (.ite (((h.cycles _).statusParity b).seqAdvance _) (((h.cycles _).statusParity b).setCtx _).yieldBus)

theorem State.opStat_onlyGal (b : Byte) : s.OnlyGal (s.opStat g x ⟨b, 0, false⟩) g :=
  .seq fun _ _ _ h => ((h.cycles _).statusParity b).seqAdvance _

theorem State.opBr_onlyGal : s.OnlyGal (s.opBr g x) g := .seq fun _ _ _ h => .ite (h.setCtx _) (h.seqAdvance _)

theorem State.opSetl_onlyGal : s.OnlyGal (s.opSetl g x) g := .seq fun _ _ _ h => h.seqAdvance _

theorem State.opLoop_onlyGal : s.OnlyGal (s.opLoop g x) g := .seq fun _ _ _ h => .ite (h.setCtx _) (h.seqAdvance _)

theorem State.opSet_onlyGal : s.OnlyGal (s.opSet g x) g := .seq fun _ _ _ h => h.seqAdvance _

/-- A row of one gallery changes that gallery alone. -/
theorem exec_oneGallery {i : Instr} (hi : i.oneGallery = some g) (h : exec i s = .next t) : s.OnlyGal t g := by
  unfold Instr.oneGallery at hi
  split at hi <;> cases hi <;> cases h
  · exact (State.OnlyGal.refl s g).gal _
  · exact (State.OnlyGal.refl s g).gal _
  · exact (State.OnlyGal.refl s g).gal _
  · exact State.opCmd_onlyGal
  · exact State.opDinb_onlyGal
  · exact State.opWait_onlyGal
  · exact State.opWaitp_onlyGal
  · exact State.opPoll_onlyGal _
  · exact State.opStat_onlyGal _
  · exact State.opBr_onlyGal
  · exact State.opSetl_onlyGal
  · exact State.opLoop_onlyGal
  · exact State.opSet_onlyGal

/-! ### Front -/

/-- Two states that differ in Front at most. -/
def State.OnlyFront (s t : State) : Prop := { t with front := s.front } = s

theorem State.OnlyFront.refl (s : State) : s.OnlyFront s := rfl

theorem State.OnlyFront.ite {u : State} {p : Prop} [Decidable p] (ht : s.OnlyFront t) (hu : s.OnlyFront u) : s.OnlyFront (if p then t else u) := by
  split
  · exact ht
  · exact hu

theorem State.OnlyFront.front (h : s.OnlyFront t) (f : Front) : s.OnlyFront { t with front := f } := h

theorem State.OnlyFront.done (h : s.OnlyFront t) (hdr : Hdr) (st : NStat) (dw0 : Nat) (d : Payload) : s.OnlyFront (t.done hdr st dw0 d) := h

theorem State.OnlyFront.good (h : s.OnlyFront t) (hdr : Hdr) : s.OnlyFront (t.good hdr) := h

theorem State.OnlyFront.feature (h : s.OnlyFront t) (hdr : Hdr) (f : Features → Features) : s.OnlyFront (t.feature hdr f) := h

theorem State.OnlyFront.foldl {α : Type} {f : State → α → State} (hf : ∀ (t : State) (a : α), s.OnlyFront t → s.OnlyFront (f t a)) (l : List α)
    (h : s.OnlyFront t) : s.OnlyFront (l.foldl f t) := by
  induction l generalizing t with
  | nil => exact h
  | cons a l ih => exact ih (hf t a h)

theorem State.OnlyFront.fetchOne (h : s.OnlyFront t) (q : Fin 129) (e : Sqe) : s.OnlyFront (t.fetchOne q e) := by
  unfold State.fetchOne
  dsimp only
  split <;> exact h

/-- A host command's context is Front's, so a command whose work stays in Front changes Front alone. -/
theorem State.OnlyFront.host {h : Hdr} {i : Instr} {f : State → State} (hf : ∀ t : State, s.OnlyFront t → s.OnlyFront (f t)) :
    s.OnlyFront (s.host h i f) := by
  have htaken : s.OnlyFront (s.takeIn h i) := by
    unfold State.takeIn
    split <;> rfl
  unfold State.host
  split
  · exact hf _ (htaken.front _)
  · rfl

end

section
variable {s t : State} {hdr : Hdr}

/-! ### Front's commands and rows (R63 to R69, R82, R89) -/

theorem exec_deleteIoSq_onlyFront {qid : BitVec 16} (h : exec (.deleteIoSq hdr qid) s = .next t) : s.OnlyFront t := by
  rw [← Host.Outcome.next.inj h]
  exact .host fun _ hu => .ite (hu.done _ _ _ _) (((hu.foldl fun _ _ hv => hv.done _ _ _ _) _).front _)

theorem exec_identify_onlyFront {cns : Byte} {nsid : Word} (h : exec (.identify hdr cns nsid) s = .next t) : s.OnlyFront t := by
  rw [← Host.Outcome.next.inj h]
  refine .host fun _ hu => ?_
  split
  · exact hu.done _ _ _ _
  · exact hu.done _ _ _ _

theorem exec_getFeatures_onlyFront {ask : FeatureAsk} (h : exec (.getFeatures hdr ask) s = .next t) : s.OnlyFront t := by
  rw [← Host.Outcome.next.inj h]
  refine .host fun _ hu => ?_
  split
  · exact hu.done _ _ _ _
  · exact hu.done _ _ _ _

theorem exec_asyncEventRequest_onlyFront (h : exec (.asyncEventRequest hdr) s = .next t) : s.OnlyFront t := by
  rw [← Host.Outcome.next.inj h]
  refine .host fun _ hu => .ite (hu.done _ _ _ _) ?_
  split
  · exact (hu.front _).done _ _ _ _
  · exact hu.front _

theorem exec_commandFetch_onlyFront {q : Fin 129} {sqes : List Sqe} (h : exec (.commandFetch q sqes) s = .next t) : s.OnlyFront t := by
  change execCommandFetch q sqes s = _ at h
  rw [← Host.Outcome.next.inj h]
  have hrefl := State.OnlyFront.refl s
  split
  · exact .ite ((State.OnlyFront.foldl (fun _ _ hu => hu.fetchOne _ _) _ (hrefl.front _)).front _) hrefl
  · exact hrefl

/-- A command or a row of Front's own changes Front alone, with success or with an error. -/
theorem exec_frontOnly {i : Instr} (hi : i.frontOnly = true) (h : exec i s = .next t) : s.OnlyFront t := by
  have hrefl := State.OnlyFront.refl s
  unfold Instr.frontOnly at hi
  split at hi
  case h_3 => exact exec_deleteIoSq_onlyFront h
  case h_5 => exact exec_identify_onlyFront h
  case h_15 => exact exec_getFeatures_onlyFront h
  case h_16 => exact exec_asyncEventRequest_onlyFront h
  case h_19 => exact exec_commandFetch_onlyFront h
  case h_23 => cases hi
  all_goals rw [← Host.Outcome.next.inj h]
  -- creating a queue and deleting a completion queue, each after its checks
  · exact .host fun _ hu => .ite (hu.done _ _ _ _) (.ite (hu.done _ _ _ _) (.ite (hu.done _ _ _ _) (.ite (hu.done _ _ _ _) ((hu.front _).good _))))
  · exact .host fun _ hu => .ite (hu.done _ _ _ _) (.ite (hu.done _ _ _ _) (.ite (hu.done _ _ _ _) (.ite (hu.done _ _ _ _) ((hu.front _).good _))))
  · exact .host fun _ hu => .ite (hu.done _ _ _ _) (.ite (hu.done _ _ _ _) ((hu.front _).good _))
  -- the features, in the order of their identifiers
  · exact .host fun _ hu => hu.feature _ _
  · exact .host fun _ hu => .ite (hu.done _ _ _ _) (hu.feature _ _)
  · exact .host fun _ hu => hu.feature _ _
  · exact .host fun _ hu => (hu.front _).done _ _ _ _
  · exact .host fun _ hu => hu.feature _ _
  · exact .host fun _ hu => .ite (hu.done _ _ _ _) (hu.feature _ _)
  · exact .host fun _ hu => hu.feature _ _
  · exact .host fun _ hu => hu.feature _ _
  · exact .host fun _ hu => hu.feature _ _
  -- two commands that are answered at once
  · exact .host fun _ hu => hu.good _
  · exact .host fun _ hu => hu.done _ _ _ _
  -- the rows of Front's timers
  · exact .ite (hrefl.front _) hrefl
  · exact .ite (hrefl.front _) hrefl
  · exact .ite (hrefl.front _) hrefl

end

section
variable {s t : State}

/-! ### The boot store (R507, R508, R510) -/

/-- A command sequence of the boot store that starts no request and counts no error changes the boot store alone. -/
theorem exec_storeOnly {i : Instr} (hi : i.storeOnly = true) (h : exec i s = .next t) : { t with bst := s.bst } = s := by
  unfold Instr.storeOnly at hi
  split at hi
  case h_6 => cases hi
  · change execBstSuspend s = _ at h
    rw [← Host.Outcome.next.inj h]
    split <;> rfl
  · change execBstResume s = _ at h
    rw [← Host.Outcome.next.inj h]
    split
    · split <;> rfl
    · rfl
  · rw [← Host.Outcome.next.inj h]
  · change execBstProgramWord _ _ _ s = _ at h
    rw [← Host.Outcome.next.inj h]
    split <;> rfl
  · change execBstEraseSector _ _ s = _ at h
    rw [← Host.Outcome.next.inj h]
    split <;> rfl

/-- Two states that differ in the boot store and in one register at most. -/
def State.OnlyBst (s t : State) (q : Reg) : Prop := { t with bst := s.bst, regs := s.regs } = s ∧ ∀ r : Reg, r ≠ q → t.reg r = s.reg r

theorem State.OnlyBst.refl (s : State) (q : Reg) : s.OnlyBst s q := ⟨rfl, fun _ _ => rfl⟩

theorem State.OnlyBst.bst {q : Reg} (h : s.OnlyBst t q) (b : BootStore) : s.OnlyBst { t with bst := b } q := h

theorem State.OnlyBst.setRf {q : Reg} (h : s.OnlyBst t q) (lo n v : Nat) : s.OnlyBst (t.setRf q lo n v) q :=
  ⟨h.1, fun r hr => (t.reg_setReg_ne _ hr).trans (h.2 r hr)⟩

/-- A request that starts, or that the die refuses, is shown in BST_CM_CMD (R510, R519). -/
theorem State.OnlyBst.bstNext (h : s.OnlyBst t .bstCmCmd) : s.OnlyBst t.bstNext .bstCmCmd := by
  unfold State.bstNext
  dsimp only
  split
  · split
    · exact h.bst _
    · exact ((h.bst _).setRf _ _ _).setRf _ _ _
  · exact h.bst _

theorem exec_bstArrayRead_onlyBst (h : exec .bstArrayRead s = .next t) : s.OnlyBst t .bstCmCmd := by
  change execBstArrayRead s = _ at h
  rw [← Host.Outcome.next.inj h]
  split
  · exact State.OnlyBst.refl s _
  · exact ((State.OnlyBst.refl s _).bst _).bstNext

/-- A commit that the die refuses is counted in BST_ERR_CNT (R520). -/
theorem State.swapCommit_onlyBst (slot : Nat) : s.OnlyBst (s.swapCommit slot) .bstErrCnt := by
  unfold State.swapCommit
  dsimp only
  split
  · exact (State.OnlyBst.refl s _).bst _
  · exact ((State.OnlyBst.refl s _).bst _).setRf _ _ _

theorem exec_bstSwapCommit_onlyBst {slot : Nat} (h : exec (.bstSwapCommit slot .privileged) s = .next t) : s.OnlyBst t .bstErrCnt := by
  change execBstSwapCommit slot .privileged s = _ at h
  rw [← Host.Outcome.next.inj h]
  split
  · exact State.swapCommit_onlyBst slot
  · exact State.OnlyBst.refl s _

end

end Sys2Proof.Machine

namespace Sys2Proof
open Machine

/-- Settles O58: one frame for each family. -/
theorem unitFrames : Obligations.UnitFrames := fun _ _ _ h =>
  ⟨fun _ hi => exec_oneGallery hi h, fun hi => exec_frontOnly hi h, fun hi => exec_storeOnly hi h,
    fun hi => exec_bstArrayRead_onlyBst (hi ▸ h), fun _ hi => exec_bstSwapCommit_onlyBst (hi ▸ h)⟩

end Sys2Proof
end

section
/-! Checkpoints, the journal's pages, mount and its steps, the watchdogs and the replay of held commands (R88, R362 to R384). -/

namespace Sys2Proof.Machine

/-! ### The shelf's programs wait for the supply (R36, R153) -/

section
variable {s : State}

/-- While a supply rail is below its warning no program starts. -/
theorem State.mayStart_brown {g : Fin 8} {o : GOp} (h : s.brownWarning = true) (ho : o.kind = .program) : s.mayStart g o = false := by
  simp [State.mayStart, h, ho]

theorem State.shelfMay_brown (h : s.brownWarning = true) : s.shelfMay = false := by
  have hcopy (k : Nat) : s.copyMay k = false := by
    unfold State.copyMay
    dsimp only
    rw [State.mayStart_brown h rfl, Bool.false_and]
  unfold State.shelfMay State.pairOf
  dsimp only
  rw [hcopy, Bool.false_and, Bool.false_and]

/-- A checkpoint's first page goes to the next position, as any other of the stream. -/
theorem State.ckptMay_of_shelfMay (h : s.shelfMay = false) : s.ckptMay = false := by
  simp [State.ckptMay, h]

end

/-! ### Checkpoints (R361, R365, R366, R370, R371) -/

/-- A checkpoint is due: the map is loaded, the part is awake, one is wanted or waited for, and there is a shelf. -/
def State.ckptDue (s : State) : Bool :=
  s.mapLoaded && decide (s.sys.ps.val ≤ 2) && (s.map.ckptWant || s.eraseWaits) && decide (s.map.shelf ≠ [])

section
variable (s : State)

theorem exec_checkpointTimer : exec .checkpointTimer s =
    .next (if s.mapUp && s.map.changed then { s with map := { s.map with ckptWant := true } } else s) := rfl

theorem exec_checkpoint (n : Nat) : exec (.checkpoint n) s = .next (if s.ckptDue then
    if !s.mendShelf.ckptMay then s.mendShelf
    else if n ≥ 3 then ((s.mendShelf.advanceN 3).raise 24).shelfOpen
    else if s.map.mounted then (s.mendShelf.advanceN n).checkpoint else (s.mendShelf.advanceN n).checkpoint.mountDone
  else s) := rfl

theorem exec_shelfChangeOver : exec .shelfChangeOver s =
    .next (if s.mapRuns && s.shelfDue && s.ckptMay then s.shelfOpen.checkpoint else s) := rfl

end

section
variable {s : State}

theorem State.ckptDue_iff : s.ckptDue = true ↔
    s.mapLoaded = true ∧ s.sys.ps.val ≤ 2 ∧ (s.map.ckptWant = true ∨ s.eraseWaits = true) ∧ s.map.shelf ≠ [] := by
  simp only [State.ckptDue, Bool.and_eq_true, Bool.or_eq_true, decide_eq_true_eq, and_assoc]

theorem exec_checkpoint_not_due (n : Nat) (h : ¬s.ckptDue = true) : exec (.checkpoint n) s = .next s := by
  rw [exec_checkpoint, if_neg h]

/-- A checkpoint that is due waits for its chambers, fails its root three times in a row, or is taken. -/
theorem exec_checkpoint_due (n : Nat) (h : s.ckptDue = true) :
    (s.mendShelf.ckptMay = false → exec (.checkpoint n) s = .next s.mendShelf) ∧
    (s.mendShelf.ckptMay = true → 3 ≤ n → exec (.checkpoint n) s = .next ((s.mendShelf.advanceN 3).raise 24).shelfOpen) ∧
    (s.mendShelf.ckptMay = true → n < 3 → s.map.mounted = true → exec (.checkpoint n) s = .next (s.mendShelf.advanceN n).checkpoint) ∧
    (s.mendShelf.ckptMay = true → n < 3 → s.map.mounted = false → exec (.checkpoint n) s = .next (s.mendShelf.advanceN n).checkpoint.mountDone) := by
  rw [exec_checkpoint, if_pos h]
  refine ⟨fun hmay => ?_, fun hmay hn => ?_, fun hmay hn hm => ?_, fun hmay hn hm => ?_⟩
  · rw [hmay]; rfl
  · rw [hmay, if_neg (by decide), if_pos hn]
  · rw [hmay, if_neg (by decide), if_neg (by omega), if_pos hm]
  · rw [hmay, if_neg (by decide), if_neg (by omega), if_neg (by simp [hm])]

end

/-! ### A journal page (R356, R362, R363, R371) -/

/-- The buffer's records that the next page takes. -/
def State.nextRecs (s : State) : List (Nat × JRec) := s.map.jBuf.take (pageTake (s.map.jBuf.map (·.2)) 0 0)

/-- A page's records are durable: they leave the buffer, and no command waits for them any more. -/
def State.recsDurable (t : State) (recs : List (Nat × JRec)) : State :=
  let pos := t.map.pos
  let (a, b) := t.pairOf pos
  let s1 : State := (t.putJournal [a, b] pos (shelfPage pos) recs).advance
  let nums := recs.map (·.1)
  { s1 with map := { s1.map with
    jBuf := s1.map.jBuf.filter fun e => !nums.contains e.1
    jDurable := s1.map.jDurable ++ recs.map fun (e : Nat × JRec) => (e.1, pos, e.2)
    jWait := t.map.jWait.filter fun w => !nums.contains w.1 } }

/-- The commands that waited for a page's records. -/
def State.recWaiters (t : State) (recs : List (Nat × JRec)) : List Hdr :=
  ((t.map.jWait.filter fun w => (recs.map (·.1)).contains w.1).map (·.2)).eraseDups

/-- A journal page that both copies hold: its records are durable, and the commands that waited for them are tried. -/
def State.pageDone (t : State) (recs : List (Nat × JRec)) : State := (t.recWaiters recs).foldl (fun u h => u.ioTry h) (t.recsDurable recs)

/-- A journal page's program, by the copies that fail. -/
def State.pageProgram (t : State) (recs : List (Nat × JRec)) (failA failB : Bool) : State :=
  let i := 2 * (t.map.pos % 8)
  if !t.shelfMay then t
  else if failA && failB then t.advance.bothFail
  else if failA then (t.advance.copyFail i).shelfSwap i
  else if failB then (t.advance.copyFail (i + 1)).shelfSwap (i + 1)
  else (t.pageDone recs).settle

/-- A journal page is due. -/
def State.pageDue (s : State) : Bool :=
  s.mapLoaded && decide (s.sys.ps.val ≤ 2) && !s.nextRecs.isEmpty && decide (s.map.shelf ≠ []) && decide (s.freePositions > 0)

theorem exec_journalPageProgram (s : State) (a b : Bool) : exec (.journalPageProgram a b) s =
    .next (if s.pageDue then s.mendShelf.pageProgram s.nextRecs a b else s) := by
  change execJournalPageProgram a b s = _
  unfold execJournalPageProgram State.pageDue State.nextRecs State.pageProgram State.pageDone State.recsDurable State.recWaiters State.pairOf
  dsimp only

section
variable {s t : State} {recs : List (Nat × JRec)}

theorem State.pageDue_iff : s.pageDue = true ↔
    s.mapLoaded = true ∧ s.sys.ps.val ≤ 2 ∧ s.nextRecs ≠ [] ∧ s.map.shelf ≠ [] ∧ 0 < s.freePositions := by
  simp only [State.pageDue, Bool.and_eq_true, Bool.not_eq_true', List.isEmpty_eq_false_iff, decide_eq_true_eq, and_assoc, gt_iff_lt, ne_eq]

theorem exec_journalPage_due {a b : Bool} (h : s.pageDue = true) (hpage : s.mendShelf.pageProgram s.nextRecs a b = t) :
    exec (.journalPageProgram a b) s = .next t := by
  rw [exec_journalPageProgram, if_pos h, hpage]

section
variable (hmay : t.shelfMay = true)
include hmay

/-- A page of the shelf is programmed in both copies, in one of them, or in neither. -/
theorem State.pageProgram_kept : t.pageProgram recs false false = (t.pageDone recs).settle := by
  simp only [State.pageProgram, hmay, Bool.not_true, Bool.and_self, Bool.false_eq_true, if_false]

theorem State.pageProgram_failed : t.pageProgram recs true true = t.advance.bothFail := by
  simp only [State.pageProgram, hmay, Bool.not_true, Bool.and_self, Bool.false_eq_true, if_false, if_true]

theorem State.pageProgram_first :
    t.pageProgram recs true false = (t.advance.copyFail (2 * (t.map.pos % 8))).shelfSwap (2 * (t.map.pos % 8)) := by
  simp only [State.pageProgram, hmay, Bool.not_true, Bool.and_false, Bool.false_eq_true, if_false, if_true]

theorem State.pageProgram_second :
    t.pageProgram recs false true = (t.advance.copyFail (2 * (t.map.pos % 8) + 1)).shelfSwap (2 * (t.map.pos % 8) + 1) := by
  simp only [State.pageProgram, hmay, Bool.not_true, Bool.and_true, Bool.false_eq_true, if_false, if_true]

end

theorem State.pageProgram_waits (hmay : t.shelfMay = false) (a b : Bool) : t.pageProgram recs a b = t := by
  simp only [State.pageProgram, hmay, Bool.not_false, if_true]

/-- With no command waiting, the records of the page have left the buffer. -/
theorem State.pageDone_idle (h : t.map.jWait = []) : (t.pageDone recs).map.jWait = [] ∧
    ((t.pageDone recs).map.jBuf.all fun e => !(recs.map (·.1)).contains e.1) = true := by
  have hnone : t.recWaiters recs = [] := by simp [State.recWaiters, h]
  have hdone : t.pageDone recs = t.recsDurable recs := by rw [State.pageDone, hnone]; rfl
  rw [hdone]
  unfold State.recsDurable
  refine ⟨?_, ?_⟩
  · dsimp only
    rw [h]
    rfl
  · simp only [List.all_filter, List.all_eq_true]
    intro e _
    cases (recs.map (·.1)).contains e.1 <;> rfl

end

/-! ### Mount (R372 to R379) -/

section
variable (s : State)

/-- What a mount finds in the boot store and in the chain record. -/
def State.mountFinds : State := { s.formChain with bst := s.formChain.bst.ringMount.badMount }

/-- A mount of a device whose map is known. -/
def State.mountKnown (m : MountInput) : State :=
  match (s.rootChoices.drop m.rootsBad).head? with
  | some root => if m.journalGap || s.bst.anchors.isEmpty then s.beginScan
    else (s.mountFrom root m.rootsBad (m.unreadable.map Loc.key)).countUnsafe
  | none => s.beginScan

end

section
variable {s : State} {m : MountInput} {p : Profile}

section
variable (h : s.mountReady = true) (hp : s.refProf = some p)
include h hp

theorem exec_mount_large (hn : 524288 < s.totalBlocks) : exec (.mount m) s = .next (s.enter .recovery) := by
  change execMount m s = _
  unfold execMount
  rw [if_pos h, hp]
  exact congrArg _ (if_pos hn)

/-- A first mount stands on path 1 (log entry 82). -/
theorem exec_mount_first (hn : s.totalBlocks ≤ 524288) (hbad : s.mountFinds.bst.badTable = none) :
    ∃ t : State, exec (.mount m) s = .next t ∧ t.rf .mapMount 0 2 = 1 := by
  change ∃ t : State, execMount m s = .next t ∧ _
  unfold execMount
  rw [if_pos h, hp]
  exact ⟨_, congrArg _ ((if_neg (by omega)).trans (if_pos (Option.isNone_iff_eq_none.2 hbad))), State.rf_setRf_same _ _ _ _ _ (by decide)⟩

theorem exec_mount_known (hn : s.totalBlocks ≤ 524288) (hbad : s.mountFinds.bst.badTable ≠ none) :
    exec (.mount m) s = .next (s.mountFinds.mountKnown m) := by
  change execMount m s = _
  unfold execMount
  rw [if_pos h, hp]
  exact congrArg _ ((if_neg (by omega)).trans (if_neg (mt Option.isNone_iff_eq_none.1 hbad)))

end

theorem exec_mount_not (h : s.mountReady = false ∨ s.refProf = none) : exec (.mount m) s = .next s := by
  change execMount m s = _
  unfold execMount
  rcases h with h | h
  · rw [h]; rfl
  · rw [h]; exact congrArg _ (ite_self _)

theorem State.mountKnown_none (h : (s.rootChoices.drop m.rootsBad).head? = none) : s.mountKnown m = s.beginScan := by
  rw [State.mountKnown, h]

section
variable {r : Root} (hr : (s.rootChoices.drop m.rootsBad).head? = some r)
include hr

theorem State.mountKnown_gap (h : m.journalGap = true ∨ s.bst.anchors = []) : s.mountKnown m = s.beginScan := by
  rw [State.mountKnown, hr]
  exact if_pos (by simpa using h)

theorem State.mountKnown_root (hgap : m.journalGap = false) (hanchor : s.bst.anchors ≠ []) :
    s.mountKnown m = (s.mountFrom r m.rootsBad (m.unreadable.map Loc.key)).countUnsafe := by
  rw [State.mountKnown, hr]
  exact if_neg (by simp [hgap, hanchor])

end

/-! ### The scan (R379, R380) -/

theorem State.orderAll_sys (s : State) (sub arg : Nat) : (s.orderAll sub arg).sys = s.sys :=
  foldl_keeps State.sys s.presentSubs (fun t k => t.order k sub arg) (fun _ _ => rfl) s

/-- A state entered is the device's, and no trouble bit goes with it. -/
theorem State.enter_sys (x : SysState) : (s.enter x).sys.st = x ∧ (s.enter x).sys.trouble = s.sys.trouble := by
  unfold State.enter
  split
  · next h => exact ⟨h, rfl⟩
  · dsimp only
    split
    · rw [State.orderAll_sys]; exact ⟨rfl, rfl⟩
    · exact ⟨rfl, rfl⟩

/-- The scan begins in phase 1, on path 3, in the recovery state, with trouble bit 25. -/
theorem State.beginScan_marks (u : State) :
    u.beginScan.trb 25 = true ∧ u.beginScan.rf .mapScan 0 3 = 1 ∧ u.beginScan.rf .mapMount 0 2 = 3 ∧ u.beginScan.sys.st = .recovery := by
  obtain ⟨hst, htrouble⟩ := (u.raise 25).enter_sys .recovery
  have hraised : (u.raise 25).trb 25 = true := by rw [State.trb_raise _ _ _ (by decide)]; simp
  refine ⟨?_, ?_, State.rf_setRf_same _ _ _ _ _ (by decide), hst⟩
  · exact (congrArg (fun w : BitVec 64 => w.getLsbD 25) htrouble).trans hraised
  · unfold State.beginScan
    rw [State.rf_setRf_other _ _ _ _ _ _ (by decide), State.rf, State.reg_setReg_same]
    decide

end

section
variable (s : State)

/-- The steps of a mount. -/
theorem exec_blockTableWalk : exec .blockTableWalk s = .next (if !s.inReset && !s.map.walked && (s.map.mountPath == 1 || s.map.mountPath == 2) then
    { s.refreshScan with map := { s.refreshScan.map with walked := true, sumpSize := s.refreshScan.sumpTarget, ckptWant := true } }
  else s) := rfl

/-- The last phase of the scan: the map and the blocks are built, and a checkpoint on a new shelf ends it. -/
def State.scanEnd : State :=
  let found : State := (s.scanBlocks s.scanBuilt).afterZeroize.countUnsafe
  let done : State := (State.mountDone (State.checkpoint (State.shelfOpen { found with map := { found.map with walked := true } }))).setReg .mapScan 0
  if done.gals.any (·.profile.isNone) then done else done.enter .service

theorem exec_fullScan : exec .fullScan s = .next (if s.inReset || s.rf .mapScan 0 3 == 0 then s
    else if s.rf .mapScan 0 3 < 5 then s.setRf .mapScan 0 3 (s.rf .mapScan 0 3 + 1) else s.scanEnd) := rfl

/-- The records read again from both copies of every checkpoint page, and the patrol's queue handed over. -/
def State.recordsBack : State :=
  let loaded : State := State.reloadRecords { s with free := s.free + 1 }
  let read : State := match s.map.roots.getLast? with
    | some r => (List.range r.pages).foldl (fun (t : State) (i : Nat) =>
        (t.countRead (t.pairOf (r.first + i)).1 1).countRead (t.pairOf (r.first + i)).2 1) loaded
    | none => loaded
  let handed : State := (read.map.patrolQ.filterMap read.patrolLive).foldl (fun (t : State) (k : Nat) => t.refreshWant k 3 true) read
  { handed with map := { handed.map with patrolQ := [] } }

/-- A page that reads in neither copy: the map is unmounted, and the scan begins. -/
def State.recordsLost : State :=
  State.beginScan { s with free := s.free + 1, map := { s.map with
    recordsLoaded := true, mounted := false, walked := false, ns := s.map.ns.map fun n => n.map fun r => { r with ready := false } } }

theorem exec_ps4RecordReload : exec .ps4RecordReload s = .next (if s.inReset || s.map.recordsLoaded || s.sys.ps.val ≥ 3 then s
    else if Config.freeBool s.free then s.recordsLost else s.recordsBack) := by
  change execPs4RecordReload s = _
  unfold execPs4RecordReload
  rfl

/-! ### The watchdogs and the replay (R88, R383, R384) -/

theorem exec_mapEngineWatchdog : exec .mapEngineWatchdog s = .next (if s.inReset then s
    else { s.raise 29 with bst := (s.raise 29).bst.alarmAdd { source := 29, origin := s.index, action := 0, tether := false, lostBefore := false,
                                                              secs := s.sys.life, detail := 0 } }) := rfl

theorem exec_coreWatchdog : exec .coreWatchdog s = .next (if s.inReset ∨ !s.sys.fw then s
    else ({ s with front := { s.front with stopped := true } }.raise 53).requestFused 8) := rfl

theorem exec_commandReplay : exec .commandReplay s = .next (if s.front.held && !s.inReset && (s.map.mounted || s.isSt .recovery) then
    let s1 : State := { s with front := { s.front with held := false, aborts := [] } }
    let s2 : State := s.front.aborts.foldl State.abortHeld s1
    (s2.front.ctxs.filterMap fun (c : Ctx) => c.cmd).foldl State.replay s2
  else s) := rfl

end

end Sys2Proof.Machine

namespace Sys2Proof
open Machine

/-- Settles O35: each row by its condition, and within it by what the row finds: the shelf's chambers, the copies that fail, the roots that read. -/
theorem recoveryRows : Obligations.RecoveryRows := by
  refine ⟨fun s => ⟨fun hup hch => ?_, fun h => ?_, fun hloaded hps hwant hshelf => ?_, fun n h => ?_, State.ckptMay_of_shelfMay, State.shelfMay_brown,
      fun hps n => ?_, fun hruns hdue hmay => ?_, fun h => ?_⟩,
    fun s => ⟨fun a b h => ?_, fun a b hloaded hps hrecs hshelf hfree hmay => ?_, fun hloaded hps hrecs hshelf hfree hmay => ?_⟩,
    fun s => ⟨fun m p hready hp hn => ⟨fun hbad => ?_, fun hbad hroot => ?_, fun r hbad hr => ⟨fun h => ?_, fun hgap hanchor => ?_⟩⟩,
      State.beginScan_marks, fun m p hready hp hn => ?_, fun m => exec_mount_not, fun hrst hwalked hpath => ?_, fun h => ?_,
      fun hrst h0 h5 => ?_, fun hrst h5 => ?_, fun h => ?_, fun hrst hrec hps => ?_, fun h => ?_⟩,
    fun s hrst => ⟨⟨_, (exec_mapEngineWatchdog s).trans (congrArg _ (if_neg (by simp [hrst]))), ?_, rfl, rfl⟩, fun hfw => ?_, fun hfw => ?_⟩,
    fun s hrst => ⟨?_, ?_⟩, fun s h => ?_, fun s hheld hrst h => ?_⟩
  · rw [exec_checkpointTimer, if_pos (by simp [hup, hch])]
  · rw [exec_checkpointTimer, if_neg (by rcases h with h | h <;> simp [h])]
  · have hdue := fun n => exec_checkpoint_due n (State.ckptDue_iff.2 ⟨hloaded, hps, hwant, hshelf⟩)
    exact ⟨fun n => (hdue n).2.2.1, fun n => (hdue n).2.2.2, fun n => (hdue n).2.1, fun n => (hdue n).1⟩
  · refine exec_checkpoint_not_due n fun hdue => ?_
    obtain ⟨hloaded, -, hwant, hshelf⟩ := State.ckptDue_iff.1 hdue
    rcases h with h | h | ⟨hno, hnot⟩
    · simp [h] at hloaded
    · exact hshelf h
    · simp [hno, hnot] at hwant
  · exact exec_checkpoint_not_due n fun hdue => absurd (State.ckptDue_iff.1 hdue).2.1 (by omega)
  · rw [exec_shelfChangeOver, if_pos (by simp [hruns, hdue, hmay])]
  · rw [exec_shelfChangeOver, if_neg (by rcases h with h | h | h <;> simp [h])]
  · rw [exec_journalPageProgram, if_neg fun hdue => ?_]
    obtain ⟨hloaded, hps, hrecs, hshelf, hfree⟩ := State.pageDue_iff.1 hdue
    rcases h with h | h | h | h | h
    · simp [h] at hloaded
    · omega
    · exact hrecs h
    · exact hshelf h
    · omega
  · exact exec_journalPage_due (State.pageDue_iff.2 ⟨hloaded, hps, hrecs, hshelf, hfree⟩) (State.pageProgram_waits hmay a b)
  · have hdue := State.pageDue_iff.2 ⟨hloaded, hps, hrecs, hshelf, hfree⟩
    exact ⟨⟨_, exec_journalPage_due hdue (State.pageProgram_kept hmay), State.pageDone_idle⟩,
      exec_journalPage_due hdue (State.pageProgram_failed hmay), exec_journalPage_due hdue (State.pageProgram_first hmay),
      exec_journalPage_due hdue (State.pageProgram_second hmay)⟩
  · exact exec_mount_first hready hp hn hbad
  · rw [exec_mount_known hready hp hn hbad]
    exact congrArg _ (State.mountKnown_none hroot)
  · rw [exec_mount_known hready hp hn hbad]
    exact congrArg _ (State.mountKnown_gap hr h)
  · rw [exec_mount_known hready hp hn hbad]
    exact congrArg _ (State.mountKnown_root hr hgap hanchor)
  · exact exec_mount_large hready hp hn
  · rw [exec_blockTableWalk, if_pos (by simpa [hrst, hwalked] using hpath)]
  · rw [exec_blockTableWalk, if_neg ?_]
    rcases h with h | h | ⟨h1, h2⟩
    · simp [h]
    · simp [h]
    · simp [h1, h2]
  · rw [exec_fullScan, if_neg (by simp [hrst, h0]), if_pos h5]
  · intro found done
    rw [exec_fullScan, if_neg (by simp [hrst]; omega), if_neg (by omega)]
    rfl
  · rw [exec_fullScan, if_pos (by simpa using h)]
  · intro loaded read handed
    rw [exec_ps4RecordReload, if_neg (by simp [hrst, hrec]; omega)]
    cases Config.freeBool s.free
    · exact .inl rfl
    · exact .inr rfl
  · rw [exec_ps4RecordReload, if_pos (by simpa [or_assoc] using h)]
  · have hraised : (s.raise 29).trb 29 = true := by rw [State.trb_raise _ _ _ (by decide)]; simp
    exact hraised
  · rw [exec_coreWatchdog, if_neg (by simp [hrst, hfw])]
  · rw [exec_coreWatchdog, if_pos (by simp [hfw])]
  · rw [exec_mapEngineWatchdog, if_pos hrst]
  · rw [exec_coreWatchdog, if_pos (.inl hrst)]
  · rw [exec_commandReplay, if_neg ?_]
    rcases h with h | h | ⟨h1, h2⟩
    · simp [h]
    · simp [h]
    · simp [h1, h2]
  · rw [exec_commandReplay, if_pos (by simpa [hheld, hrst] using h)]

end Sys2Proof
end
